-- ==== Sys2Proof/Word.lean ====
section
/-! DEFINITION. Word.lean: the plain value types of the package: bytes, 64-bit words, 64-byte lines (R12, R23). -/
namespace Sys2Proof

/-- One byte. -/
abbrev Byte := BitVec 8

/-- A 64-bit register or memory word (R12, R13). -/
abbrev Word := BitVec 64

/-- A 512-bit vector register or the 64 bytes of one line, byte 0 in bits 7 to 0 (R12, R23). -/
abbrev Line := BitVec 512

end Sys2Proof
end

