-- ==== Sys2Proof/Syntax.lean ====
section
/-! DEFINITION. Syntax.lean: the commands the package takes, one constructor for each row of the table of operations and events,
with the row's operands. -/
namespace Sys2Proof

/-- Where an access comes from (R3, R7, R279, R320): agent ID, tenant, world, master kind of R279 (0 context, 1 queue,
2 I/O function, 3 none) and the master's MASTER field. -/
structure Who where
  agent : Nat
  tenant : Nat
  secure : Bool
  kind : Nat
  master : Nat
  deriving DecidableEq, Repr

/-- An alignment symbol as it arrives (R51): the sender's package, Chainline state and HOPS, the TIME at which it sent
(t3) and the TIME at which it received our last symbol (t2), none where it has received none, both in 1/16 units; and which symbols of
the link these are, its own number and that of ours (log 70). -/
structure AlignSym where
  pkg : Nat
  state : Nat
  hops : Nat
  t2 : Option Nat
  t3 : Nat
  seq : Nat
  echo : Nat
  deriving DecidableEq, Repr


/-- A message as it arrives from another package (R255, R256): the fields of its header slot, its line, and the mask of a
masked WR_NC; and what this hub may know of a request beside its header bits (log 12). -/
structure WireMsg where
  cls : Nat
  typ : Nat
  line : Nat
  tag : Nat
  agent : Nat
  tenant : Nat
  secure : Bool
  dirty : Bool
  poison : Bool
  yrw : Nat
  aux : Nat
  dstPkg : Nat
  dstDie : Nat
  data : Option Line
  mask : Option (BitVec 64)
  fetch : Bool
  old : Bool
  frame : Bool
  master : Nat
  bus : Bool
  deriving DecidableEq, Repr

/-- A Tandem flit as it arrives (R252, R269, R270): its SEQ, the ACK it carries if ACKV is 1, NAK, IDLE, credits by class, its
messages as they were sent, and the symbols changed on the way, each with what its bits were XORed with. -/
structure TdmFlit where
  seq : Nat
  ack : Option Nat
  nak : Bool
  idle : Bool
  crd : List Nat
  msgs : List WireMsg
  errs : List (Nat × Nat)
  deriving DecidableEq, Repr

/-- What a Tandem training step reports when its condition is met (R273, R274): lanes that failed it, and the far end's
parameter block: package number, MODE, width x8, LOCK, DIGEST and present mask. -/
structure TdmReady where
  bad : Nat
  pkg : Nat
  mode : Nat
  half : Bool
  lock : Bool
  digest : Nat
  present : Nat
  deriving DecidableEq, Repr

/-- An inbound request as it arrives at a port (R385, R390): requester ID; under endpoint personality the function it targets and
the BAR, 0 or 2, or 3 for a configuration request (log 41); write or read; PCIe address, or offset in the BAR; bytes; data; tag; Poisoned TLP; translated
(R384); and 1 for a Malformed TLP, 2 for an ACS Violation, 3 for a feature not supported (R376). -/
structure TlpIn where
  rid : Nat
  fn : Nat
  bar : Nat
  write : Bool
  addr : Nat
  len : Nat
  data : Nat
  tag : Nat
  poison : Bool
  translated : Bool
  err : Nat
  deriving DecidableEq, Repr
/-- The commands, in the table's order. -/
inductive Instr where
  /-- COLD_RESET (R17) -/
  | coldReset (low : Bool) (straps : Fin 8)
  /-- WARM_RESET (R17) -/
  | warmReset (low : Bool) (fail : BitVec 24)
  /-- DIE_RESET (R196) -/
  | dieReset (d : Fin 12)
  /-- CONTEXT_RESET (R73) -/
  | contextReset (x : Fin 960)
  /-- CSR_WRITE (R16) -/
  | csrWrite (w : Who) (off : BitVec 32) (v : Word)
  /-- RC_READ (R16) -/
  | rcRead (w : Who) (off : BitVec 32)
  /-- CSR_SUBWORD_ACCESS (R13) -/
  | csrSubwordAccess (w : Who) (off : BitVec 32) (size : Nat) (write : Bool) (v : Word)
  /-- HUB_REQUEST (R25) -/
  | hubRequest
  /-- DOORBELL (R294) -/
  | doorbell (w : Who) (q : BitVec 20) (v : Word)
  /-- AMAP_LOCK (R29) -/
  | amapLock (w : Who) (clearBad : Bool)
  /-- ROOT_SYNTH_LOCK (R36) -/
  | rootSynthLock
  /-- DIE_SYNTH_LOCK (R38) -/
  | dieSynthLock (d : Fin 12)
  /-- LOCK_LOST (R42) -/
  | lockLost (u : Fin 13)
  /-- CORE_DIV_REQ (R41) -/
  | coreDivReq (w : Who) (d : Fin 12) (req : BitVec 10)
  /-- RATIO_CHANGE_DONE (R41) -/
  | ratioChangeDone (d : Fin 12) (cl : Fin 5)
  /-- TIME_LOAD (R46) -/
  | timeLoad (w : Who) (v : Word)
  /-- TIME_RESTART (R47) -/
  | timeRestart
  /-- CALIBRATION_WINDOW_END (R49) -/
  | calibrationWindowEnd (period : BitVec 49)
  /-- CHAINLINE_ENABLE (R53) -/
  | chainlineEnable (w : Who) (v : Word)
  /-- CHAINLINE_DISABLE (R53) -/
  | chainlineDisable (w : Who) (v : Word)
  /-- ALIGNMENT_SYMBOL_SEND (R51) -/
  | alignmentSymbolSend (p : Fin 6) (sub : Nat)
  /-- ALIGNMENT_SYMBOL_RECEIVE (R51) -/
  | alignmentSymbolReceive (p : Fin 6) (sym : AlignSym) (sub : Nat)
  /-- BUNDLE_ISSUE (R56) -/
  | bundleIssue (k : Fin 240) (sub : Fin 24 × Option (Fin 11 × BitVec 46))
  /-- FENCE_COMPLETE (R118) -/
  | fenceComplete (x : Fin 960)
  /-- STRING_CHUNK (R107) -/
  | stringChunk (x : Fin 960)
  /-- SERIAL_COMPLETE (R59) -/
  | serialComplete (x : Fin 960)
  /-- DATA_RETURN (R66) -/
  | dataReturn (op : Nat)
  /-- FETCH_RETURN (R69) -/
  | fetchReturn (op : Nat)
  /-- TABLE_WALK_DONE (R128) -/
  | tableWalkDone (x : Fin 960)
  /-- STORE_QUEUE_DRAIN (R33) -/
  | storeQueueDrain (x : Fin 960) (n : Nat)
  /-- L2_REQUEST (R33) -/
  | l2Request (op : Nat) (err : Fin 4)
  /-- L2_MISS_REPORT (R69) -/
  | l2MissReport (op : Nat)
  /-- L3_REQUEST (R151) -/
  | l3Request (op : Nat) (err : Fin 4)
  /-- LINE_FILL (R154) -/
  | lineFill (op : Nat)
  /-- FILL_RETRY (R154) -/
  | fillRetry (level : Fin 3) (n : Nat)
  /-- CL_L2_LOCK_WRITE (R155) -/
  | clL2LockWrite (w : Who) (d : Fin 12) (cl : Fin 5) (v : Word)
  /-- L2_MAINT_CLEAN (R160) -/
  | l2MaintClean (w : Who) (d : Fin 12) (cl : Fin 5)
  /-- L2_MAINT_FLUSH (R160) -/
  | l2MaintFlush (w : Who) (d : Fin 12) (cl : Fin 5) (keep : Bool)
  /-- L3_MAINT_CLEAN (R160) -/
  | l3MaintClean (w : Who) (d : Fin 12) (sl : Fin 20)
  /-- L3_MAINT_FLUSH (R160) -/
  | l3MaintFlush (w : Who) (d : Fin 12) (sl : Fin 20)
  /-- HC_MAINT_CLEAN (R160) -/
  | hcMaintClean (w : Who)
  /-- HC_MAINT_FLUSH (R160) -/
  | hcMaintFlush (w : Who)
  /-- CACHE_MAINT_DONE (R160) -/
  | cacheMaintDone (level unit : Nat)
  /-- RANGE_CLEAN (R161) -/
  | rangeClean (w : Who)
  /-- RANGE_FLUSH (R161) -/
  | rangeFlush (w : Who)
  /-- RANGE_INVAL (R161) -/
  | rangeInval (w : Who)
  /-- L2_DISABLE (R164) -/
  | l2Disable (w : Who) (d : Fin 12) (cl : Fin 5)
  /-- L2_DRAINED (R164) -/
  | l2Drained (d : Fin 12) (cl : Fin 5)
  /-- L2_ENABLE (R165) -/
  | l2Enable (w : Who) (d : Fin 12) (cl : Fin 5)
  /-- RD_S (R183) -/
  | rdS (line : BitVec 46) (err : Fin 4)
  /-- RD_X (R183) -/
  | rdX (line : BitVec 46)
  /-- UPG (R183) -/
  | upg (line : BitVec 46)
  /-- CLAIM (R183) -/
  | claim (line : BitVec 46)
  /-- RD_NC (R183) -/
  | rdNc (line : BitVec 46)
  /-- WR_NC (R183) -/
  | wrNc (line : BitVec 46)
  /-- MAINT_CLEAN (R183) -/
  | maintClean
  /-- MAINT_FLUSH (R183) -/
  | maintFlush
  /-- MAINT_INVAL (R183) -/
  | maintInval
  /-- REQ_RETRY (R192) -/
  | reqRetry (line : BitVec 46)
  /-- TRANSACTION_CLOSE (R184) -/
  | transactionClose (line : BitVec 46)
  /-- WB_DIRTY (R190) -/
  | wbDirty (line : BitVec 46)
  /-- EVICT_CLEAN (R190) -/
  | evictClean (line : BitVec 46)
  /-- SNP_S (R186) -/
  | snpS (d : Fin 12)
  /-- SNP_INV (R186) -/
  | snpInv (d : Fin 12)
  /-- SNP_INV_ND (R186) -/
  | snpInvNd (d : Fin 12)
  /-- SNP_CUR (R186) -/
  | snpCur (d : Fin 12)
  /-- SNP_CLEAN (R186) -/
  | snpClean (d : Fin 12)
  /-- BROADCAST_SNOOP_FANOUT (R193) -/
  | broadcastSnoopFanout
  /-- ACK_I (R186) -/
  | ackI
  /-- ACK_S (R186) -/
  | ackS
  /-- MISS (R186) -/
  | miss
  /-- IN_EVICT (R188) -/
  | inEvict
  /-- DEAD (R193) -/
  | dead
  /-- GRANT (R187) -/
  | grant (d : Fin 12)
  /-- DAT (R328) -/
  | dat (d : Fin 13)
  /-- WBK_ACK (R179) -/
  | wbkAck (d : Fin 12)
  /-- SNOOP_TIMEOUT (R194) -/
  | snoopTimeout (line : BitVec 46) (n : Nat)
  /-- FWD_TIMEOUT (R193) -/
  | fwdTimeout (n : Nat)
  /-- DELIVERY_TIMEOUT (R198) -/
  | deliveryTimeout (n : Nat)
  /-- ANSWER_TIMEOUT (R198) -/
  | answerTimeout (n : Nat)
  /-- FENCE (R195) -/
  | fence
  /-- FENCE_SETTLE (R460) -/
  | fenceSettle (line : BitVec 46)
  /-- UNFENCE (R196) -/
  | unfence
  /-- TNT_CMD (R282) -/
  | tntCmd
  /-- TNT_DONE (R282) -/
  | tntDone
  /-- IO_MARK (R118) -/
  | ioMark
  /-- IO_ACK (R119) -/
  | ioAck (d : Fin 12)
  /-- DIR_PROBE (R200) -/
  | dirProbe (w : Who) (sl : Fin 16) (line : BitVec 46)
  /-- MC_READ (R206) -/
  | mcRead (ch : Fin 24)
  /-- MC_WRITE (R206) -/
  | mcWrite (ch : Fin 24)
  /-- MC_READ_DATA (R207) -/
  | mcReadData (ch : Fin 24)
  /-- MC_SCHED_WRITE (R209) -/
  | mcSchedWrite (w : Who) (ch : Fin 24) (v : Word)
  /-- REFRESH_DUE (R211) -/
  | refreshDue (ch : Fin 24) (r : Fin 8)
  /-- REFRESH_BURST (R211) -/
  | refreshBurst (ch : Fin 24) (r : Fin 8)
  /-- MR4_POLL (R210) -/
  | mr4Poll (ch : Fin 24) (hot : BitVec 8)
  /-- POSTPONE_MAX_WRITE (R211) -/
  | postponeMaxWrite (w : Who) (ch : Fin 24) (v : Word)
  /-- MC_INIT (R212) -/
  | mcInit (w : Who) (ch : Fin 24)
  /-- MC_READY (R212) -/
  | mcReady (w : Who) (ch : Fin 24)
  /-- SR_ENTER (R214) -/
  | srEnter (w : Who) (ch : Fin 24)
  /-- SR_EXIT (R215) -/
  | srExit (w : Who) (ch : Fin 24)
  /-- SR_IDLE_TIMEOUT (R212) -/
  | srIdleTimeout (ch : Fin 24)
  /-- SR_STEP_READY (R214) -/
  | srStepReady (ch : Fin 24)
  /-- SR_STEP_TIMEOUT (R214) -/
  | srStepTimeout (ch : Fin 24)
  /-- MC_ALERT (R216) -/
  | mcAlert (ch : Fin 24)
  /-- MC_CFG_LOCK (R222) -/
  | mcCfgLock (w : Who) (ch : Fin 24) (v : Word)
  /-- MODE_REGISTER_WRITE (R221) -/
  | modeRegisterWrite (w : Who) (ch : Fin 24) (rank : Fin 8) (sub : Fin 2) (addr data : BitVec 8)
  /-- MODE_REGISTER_READ (R221) -/
  | modeRegisterRead (w : Who) (ch : Fin 24) (rank : Fin 8) (sub : Fin 2) (addr : BitVec 8)
  /-- CLOCK_DRIVER_WRITE (R221) -/
  | clockDriverWrite (w : Who) (ch : Fin 24) (rank : Fin 8) (sub : Fin 2) (addr data : BitVec 8)
  /-- MULTI_PURPOSE_COMMAND (R221) -/
  | multiPurposeCommand (w : Who) (ch : Fin 24) (rank : Fin 8) (sub : Fin 2) (data : BitVec 8)
  /-- MR_CMD_DONE (R221) -/
  | mrCmdDone (ch : Fin 24) (res : BitVec 80)
  /-- TRN_WRITE (R219) -/
  | trnWrite (w : Who) (ch : Fin 24) (v : Word)
  /-- TRN_READ_COMPARE (R219) -/
  | trnReadCompare (w : Who) (ch : Fin 24) (v : Word)
  /-- TRN_WRITE_READ (R219) -/
  | trnWriteRead (w : Who) (ch : Fin 24) (v : Word)
  /-- TRN_SWEEP (R220) -/
  | trnSweep (w : Who) (ch : Fin 24) (v : Word)
  /-- TRN_DONE (R219) -/
  | trnDone (ch : Fin 24) (errs : List (Nat × Nat))
  /-- PG_LINE_READ (R232) -/
  | pgLineRead (job : Nat)
  /-- PG_LINE_WRITE (R236) -/
  | pgLineWrite (job : Nat) (chkBad : Bool)
  /-- PG_CTRL_LOCK (R231) -/
  | pgCtrlLock (w : Who)
  /-- SCRUB_CHECK (R240) -/
  | scrubCheck (w : Who)
  /-- SCRUB_CORRECT (R240) -/
  | scrubCorrect (w : Who)
  /-- SCRUB_INIT (R240) -/
  | scrubInit (w : Who)
  /-- SCRUB_ABORT (R241) -/
  | scrubAbort (w : Who)
  /-- SCRUB_PAGE (R240) -/
  | scrubPage
  /-- SPOKE_FLIT_RECEIVE (R260) -/
  | spokeFlitReceive (d : Fin 12) (up gap : Bool) (errs : List (Nat × Nat))
  /-- WIDTH_STEP_READY (R262) -/
  | widthStepReady (d : Fin 12)
  /-- WIDTH_STEP_TIMEOUT (R262) -/
  | widthStepTimeout (d : Fin 12)
  /-- DIE_END_SILENCE (R260) -/
  | dieEndSilence (d : Fin 12)
  /-- SPOKE_RETRAIN (R266) -/
  | spokeRetrain (w : Who) (d : Fin 12)
  /-- SPOKE_TRAIN_STEP_READY (R264) -/
  | spokeTrainStepReady (d : Fin 12) (up dn : BitVec 272) (agree : Bool)
  /-- SPOKE_TRAIN_STEP_TIMEOUT (R264) -/
  | spokeTrainStepTimeout (d : Fin 12)
  /-- TANDEM_FLIT_RECEIVE (R271) -/
  | tandemFlitReceive (p : Fin 6) (f : TdmFlit)
  /-- TDM_ENABLE (R273) -/
  | tdmEnable (w : Who) (p : Fin 6) (v : Word)
  /-- TDM_DISABLE (R275) -/
  | tdmDisable (w : Who) (p : Fin 6) (v : Word)
  /-- TDM_TRAIN (R273) -/
  | tdmTrain (w : Who) (p : Fin 6) (v : Word)
  /-- TDM_TRAIN_STEP_READY (R273) -/
  | tdmTrainStepReady (p : Fin 6) (r : TdmReady)
  /-- TDM_TRAIN_STEP_TIMEOUT (R273) -/
  | tdmTrainStepTimeout (p : Fin 6) (bad : BitVec 16)
  /-- TANDEM_SILENCE (R461) -/
  | tandemSilence (p : Fin 6)
  /-- ROUTE_HOLD_RELEASE (R278) -/
  | routeHoldRelease (q : Fin 8)
  /-- TNT_CREATE (R281) -/
  | tntCreate (w : Who) (any : Bool) (t : BitVec 12)
  /-- TNT_DESTROY (R281) -/
  | tntDestroy (w : Who) (t : BitVec 12)
  /-- TNT_FREEZE (R281) -/
  | tntFreeze (w : Who) (t : BitVec 12)
  /-- TNT_THAW (R281) -/
  | tntThaw (w : Who) (t : BitVec 12)
  /-- TNT_RESET (R281) -/
  | tntReset (w : Who) (t : BitVec 12)
  /-- TENANT_RESET_STEP (R284) -/
  | tenantResetStep (t : BitVec 12)
  /-- TENANT_RESET_STUCK (R284) -/
  | tenantResetStuck (t : BitVec 12)
  /-- VIOLATION_RETURN (R458) -/
  | violationReturn (d : Fin 13)
  /-- SV_THAW (R291) -/
  | svThaw (w : Who) (t : BitVec 12) (kind : BitVec 2) (m : BitVec 20)
  /-- SV_FREEZE (R291) -/
  | svFreeze (w : Who) (t : BitVec 12) (kind : BitVec 2) (m : BitVec 20)
  /-- SV_RESET_TENANT (R291) -/
  | svResetTenant (w : Who) (t : BitVec 12)
  /-- QCMD_ENABLE (R293) -/
  | qcmdEnable (w : Who) (q : BitVec 20)
  /-- QCMD_DISABLE (R293) -/
  | qcmdDisable (w : Who) (q : BitVec 20)
  /-- QCMD_PROBE (R293) -/
  | qcmdProbe (w : Who) (q : BitVec 20)
  /-- CONTEXT_FILL (R300) -/
  | contextFill (q : BitVec 20)
  /-- SERVICE_LAUNCH (R301) -/
  | serviceLaunch (n : Fin 8)
  /-- SQE_FETCH (R295) -/
  | sqeFetch (q : BitVec 20)
  /-- SQE_COMPLETE (R298) -/
  | sqeComplete (q : BitVec 20) (idx : BitVec 24)
  /-- SWAP (R302) -/
  | swap (w : Who) (n : Fin 8)
  /-- SLOT_TABLE_WRAP (R302) -/
  | slotTableWrap (n : Fin 8)
  /-- HQE_CTRL_WRITE (R301) -/
  | hqeCtrlWrite (w : Who) (v : Word)
  /-- RSV_ADD (R311) -/
  | rsvAdd (w : Who) (slot : Fin 1024)
  /-- RSV_REMOVE (R311) -/
  | rsvRemove (w : Who) (slot : Fin 1024)
  /-- WINDOW_BOUNDARY (R309) -/
  | windowBoundary (m : BitVec 12)
  /-- CAPACITY_RECOMPUTE (R304) -/
  | capacityRecompute (r : Fin 24)
  /-- REG_ENT_WRITE (R309) -/
  | regEntWrite (w : Who) (m : Fin 4096) (word : Fin 4) (v : Word)
  /-- REG_CTRL_WRITE (R307) -/
  | regCtrlWrite (w : Who) (v : Word)
  /-- ARBITRATION_ROUND (R317) -/
  | arbitrationRound (a : Fin 12)
  /-- SEC_RGN_WRITE (R329) -/
  | secRgnWrite (w : Who) (k : Fin 32) (r : Fin 32) (hi : Bool) (v : Word)
  /-- WDOG_ENABLE (R337) -/
  | wdogEnable (w : Who) (grace : BitVec 16) (period : BitVec 32)
  /-- WDOG_KICK (R337) -/
  | wdogKick (w : Who) (key : BitVec 16)
  /-- WDOG_EXPIRY (R337) -/
  | wdogExpiry
  /-- WDOG_RESET (R338) -/
  | wdogReset (fail : BitVec 24)
  /-- OTP_PROG (R341) -/
  | otpProg (w : Who) (f : Fin 128)
  /-- OTP_PROG_DONE (R341) -/
  | otpProgDone (got : Word)
  /-- AUDIT_DRAIN (R347) -/
  | auditDrain
  /-- AUDIT_SLOT_FREE (R346) -/
  | auditSlotFree
  /-- DRAM_SINK_RESTART (R347) -/
  | dramSinkRestart (w : Who)
  /-- AUD_DIGEST_READ (R345) -/
  | audDigestRead (w : Who)
  /-- SPRK_COMMIT_N (R148) -/
  | sprkCommitN (w : Who)
  /-- SPRK_COMMIT_S (R148) -/
  | sprkCommitS (w : Who)
  /-- SPRK_COMMIT_DONE (R148) -/
  | sprkCommitDone (k : Fin 240)
  /-- BOOT_STEP_READY (R357) -/
  | bootStepReady (bad : Bool)
  /-- RECORD_WAIT_TIMEOUT (R354) -/
  | recordWaitTimeout
  /-- SEURV_CALL_RETURN (R355) -/
  | seurvCallReturn (status : BitVec 32)
  /-- SEURV_CALL_TIMEOUT (R355) -/
  | seurvCallTimeout
  /-- STAGE_LOAD (R369) -/
  | stageLoad (w : Who)
  /-- STAGE_APPLY (R370) -/
  | stageApply (w : Who) (sect : BitVec 4)
  /-- STAGE_DONE (R371) -/
  | stageDone
  /-- POOL_COMMIT_GO (R367) -/
  | poolCommitGo (w : Who)
  /-- POOL_COMMIT_DISCARD (R364) -/
  | poolCommitDiscard (w : Who)
  /-- POOL_CREATE (R368) -/
  | poolCreate (w : Who) (p : Fin 32) (any : Bool) (t : BitVec 12)
  /-- POOL_DESTROY (R368) -/
  | poolDestroy (w : Who) (p : Fin 32) (t : BitVec 12)
  /-- POOL_FREEZE (R368) -/
  | poolFreeze (w : Who) (p : Fin 32) (t : BitVec 12)
  /-- POOL_THAW (R368) -/
  | poolThaw (w : Who) (p : Fin 32) (t : BitVec 12)
  /-- POOL_RESET (R368) -/
  | poolReset (w : Who) (p : Fin 32) (t : BitVec 12)
  /-- CFG_LOCK_ACQ (R372) -/
  | cfgLockAcq (w : Who) (n : Fin 64)
  /-- CFG_LOCK_REL (R373) -/
  | cfgLockRel (w : Who) (n : Fin 64)
  /-- CFG_LOCK_BROKEN_CLEAR (R373) -/
  | cfgLockBrokenClear (w : Who) (n : Fin 64)
  /-- PCI_CFG_WRITE (R375) -/
  | pciCfgWrite (w : Who) (port : Fin 8) (v : Word)
  /-- PCIE_LINK_UP (R374) -/
  | pcieLinkUp (port : Fin 8) (l : Fin 4) (cxl : Bool) (rate width : Fin 8) (flit : Bool)
  /-- PCIE_LINK_DOWN (R392) -/
  | pcieLinkDown (port : Fin 8) (l : Fin 4)
  /-- FCMD_ENABLE (R380) -/
  | fcmdEnable (w : Who) (port : Fin 8) (f : BitVec 13)
  /-- FCMD_DISABLE (R380) -/
  | fcmdDisable (w : Who) (port : Fin 8) (f : BitVec 13)
  /-- FCMD_RESET (R382) -/
  | fcmdReset (w : Who) (port : Fin 8) (f : BitVec 13)
  /-- FCMD_PROBE (R380) -/
  | fcmdProbe (w : Who) (port : Fin 8) (f : BitVec 13)
  /-- FUNCTION_RESET_DONE (R382) -/
  | functionResetDone (port : Fin 8) (f : BitVec 13)
  /-- MMIO_ACCESS (R377) -/
  | mmioAccess (w : Who) (addr : BitVec 49) (write : Bool) (size : Fin 4) (data : Word)
  /-- PCIE_COMPLETION (R387) -/
  | pcieCompletion (port : Fin 8) (l : Fin 4) (tag : BitVec 14) (status : Fin 5) (data : Nat)
  /-- COMPLETION_TIMEOUT (R393) -/
  | completionTimeout (port : Fin 8) (l : Fin 4) (tag : BitVec 14)
  /-- TAG_QUARANTINE_END (R394) -/
  | tagQuarantineEnd (port : Fin 8) (l : Fin 4) (tag : BitVec 14)
  /-- INBOUND_REQUEST (R385) -/
  | inboundRequest (port : Fin 8) (l : Fin 4) (t : TlpIn)
  /-- ATS_TRANSLATION_REQUEST (R384) -/
  | atsTranslationRequest (port : Fin 8) (l : Fin 4) (rid : BitVec 16) (tag : BitVec 14) (va : Word)
  /-- PRI_PAGE_REQUEST (R384) -/
  | priPageRequest (port : Fin 8) (l : Fin 4) (rid : BitVec 16) (page : BitVec 52) (prgi : BitVec 9) (rwl : BitVec 3)
  /-- ATS_INV (R384) -/
  | atsInv (w : Who) (port : Fin 8) (f : BitVec 13) (all : Bool) (page : BitVec 37)
  /-- PRG_RESP (R384) -/
  | prgResp (w : Who) (port : Fin 8) (f : BitVec 13) (code : Fin 4) (prgi : BitVec 9)
  /-- XCMD_DONE (R384) -/
  | xcmdDone (port : Fin 8) (ok : Bool)
  /-- WINDOW_BANK_COMMIT (R386) -/
  | windowBankCommit (w : Who) (port : Fin 8) (v : Word)
  /-- MSIX_RAISE (R389) -/
  | msixRaise (port : Fin 8)
  /-- MSIX_UNMASK (R389) -/
  | msixUnmask (port : Fin 8) (f : BitVec 13) (v : Option (Fin 64))
  /-- SB_WAKE_MATCH (R398) -/
  | sbWakeMatch (addr : BitVec 7)
  /-- SB_READ_COMMAND (R399) -/
  | sbReadCommand (addr : BitVec 7) (off : BitVec 32) (pecOk : Bool)
  /-- SB_WRITE_COMMAND (R399) -/
  | sbWriteCommand (addr : BitVec 7) (off : BitVec 32) (data : Word) (pecOk : Bool)
  /-- SB_RESULT_READ (R399) -/
  | sbResultRead (addr : BitVec 7)
  /-- SB_ALERT_SET (R451) -/
  | sbAlertSet (w : Who)
  /-- ALERT_RESPONSE (R451) -/
  | alertResponse
  /-- INTERRUPT_MESSAGE (R131) -/
  | interruptMessage
  /-- TIMER_COMPARE (R129) -/
  | timerCompare (x : Fin 960)
  /-- QUANTUM_EXPIRY (R72) -/
  | quantumExpiry (k : Fin 240)
  /-- SWITCH_CYCLES_END (R72) -/
  | switchCyclesEnd (k : Fin 240)
  /-- CORE_CTX_START (R71) -/
  | coreCtxStart (w : Who) (x : Fin 960)
  /-- CORE_CTX_RESET (R73) -/
  | coreCtxReset (w : Who) (x : Fin 960)
  /-- TRAP_ENTRY (R135) -/
  | trapEntry (x : Fin 960)
  /-- C1_ENTRY (R401) -/
  | c1Entry (k : Fin 240)
  /-- C3_ENTRY (R403) -/
  | c3Entry (k : Fin 240)
  /-- C3_SAVE_DONE (R403) -/
  | c3SaveDone (k : Fin 240)
  /-- C3_EXIT (R404) -/
  | c3Exit (k : Fin 240)
  /-- PWR_CL_CTRL_WRITE (R405) -/
  | pwrClCtrlWrite (w : Who) (d : Fin 12) (cl : Fin 5) (v : Word)
  /-- GATE_CLOCK (R406) -/
  | gateClock (w : Who) (t : BitVec 6)
  /-- GATE_POWER (R406) -/
  | gatePower (w : Who) (t : BitVec 6)
  /-- GATE_UNGATE (R406) -/
  | gateUngate (w : Who) (t : BitVec 6)
  /-- TEMP_SAMPLE (R408) -/
  | tempSample (u : Fin 13) (temp : BitVec 8) (prochot : Bool)
  /-- FREEWHEEL (R412) -/
  | freewheel (w : Who)
  /-- FREEWHEEL_ABORT (R413) -/
  | freewheelAbort (w : Who)
  /-- SEC_ACK (R412) -/
  | secAck (w : Who)
  /-- FW_ENTRY_STEP_READY (R412) -/
  | fwEntryStepReady
  /-- FW_ENTRY_STEP_TIMEOUT (R413) -/
  | fwEntryStepTimeout
  /-- WAKE_TIMER_EXPIRY (R415) -/
  | wakeTimerExpiry
  /-- WAKE_N_FALL (R415) -/
  | wakeNFall
  /-- WAKE_STEP_READY (R416) -/
  | wakeStepReady (lost : BitVec 64)
  /-- WAKE_STEP_TIMEOUT (R417) -/
  | wakeStepTimeout (reason : Fin 8) (idx : Fin 32)
  /-- WAKE_RETRY (R417) -/
  | wakeRetry
  /-- COUNTER_READ (R420) -/
  | counterRead (w : Who) (off : BitVec 32)
  /-- COUNTER_WRITE (R421) -/
  | counterWrite (w : Who) (off : BitVec 32) (v : Word)
  /-- SAMPLE_CLOSE (R426) -/
  | sampleClose (x : Fin 960)
  /-- LATCH_EDGE (R428) -/
  | latchEdge
  /-- SNAPSHOT_WRITE (R429) -/
  | snapshotWrite
  /-- EPOCH_END (R431) -/
  | epochEnd (es : List (Nat × Nat))
  /-- EPOCH_CREDIT (R433) -/
  | epochCredit
  /-- PHASE_SELF_CHECK_FAIL (R434) -/
  | phaseSelfCheckFail (j : Fin 317)
  /-- AON_OK_RISE (R447) -/
  | aonOkRise
  /-- BROWN_OUT (R440) -/
  | brownOut (aon main : Bool)
  /-- FLASH_OWN_CHANGE (R450) -/
  | flashOwnChange (low : Bool)
  /-- TAP_BYPASS (R455) -/
  | tapBypass (pos : Fin 13)
  /-- TAP_IDCODE (R455) -/
  | tapIdcode (pos : Fin 13)
  /-- TAP_SAMPLE_PRELOAD (R455) -/
  | tapSamplePreload (pos : Fin 13) (cells : Nat)
  /-- TAP_EXTEST (R455) -/
  | tapExtest (pos : Fin 13)
  /-- TAP_CLAMP (R455) -/
  | tapClamp
  /-- TAP_HIGHZ (R455) -/
  | tapHighz
  /-- TAP_DEBUG (R455) -/
  | tapDebug
  /-- DEBUG_READ (R457) -/
  | debugRead (secure : Bool) (pa : BitVec 52)
  /-- DEBUG_WRITE (R457) -/
  | debugWrite (secure : Bool) (pa : BitVec 52) (data : Word)
  /-- DEBUG_ACCESS_DONE (R457) -/
  | debugAccessDone
  /-- TIME_TICK (R43) -/
  | timeTick
  /-- CRYSTAL_EDGE (R47) -/
  | crystalEdge
  /-- EXECUTION_UNIT_RESULT (R66) -/
  | executionUnitResult (k : Fin 240) (unit : Fin 3)
  /-- DRAM_COMMAND_ISSUE (R208) -/
  | dramCommandIssue (ch : Fin 24) (sub : Fin 2) (ck : Nat)
  /-- ROW_CLOSE_IDLE (R208) -/
  | rowCloseIdle (ch : Fin 24) (bank : Fin 512) (ck : Nat)
  /-- I3C_ADDRESS_ASSIGN (R397) -/
  | i3cAddressAssign (dyn : BitVec 7)
  /-- TAP_TEST_RESET (R455) -/
  | tapTestReset
  /-- GATE_COMPLETE (R406) -/
  | gateComplete
  /-- PERST_N (R436) -/
  | perstN (port : Fin 8) (low : Bool)
  /-- DEBUG_UPDATE (R457) -/
  | debugUpdate (op3 : Bool)
  deriving DecidableEq, Repr

end Sys2Proof
end

