-- ==== Sys2Proof/Machine/RegFile.lean ====
section
/-! DEFINITION. Machine/RegFile.lean: sparse maps with rising keys, bit-field helpers, and the register file that holds
every control and status field of the package (R13 to R19). -/
namespace Sys2Proof.Machine

/-- Bits `lo+w-1 .. lo` of a number (R11). -/
def bits (n lo w : Nat) : Nat := (n >>> lo) % 2 ^ w

/-- Numbers of 64 bits are below this one. -/
def m64 : Nat := 2 ^ 64

/-- Bit `i` of a number as a Bool. -/
def bit (n i : Nat) : Bool := (n >>> i) % 2 == 1

/-- The number of a Bool. -/
def b2n (b : Bool) : Nat := if b then 1 else 0

/-- Number of one bits among the low `w`. -/
def popc : Nat → Nat → Nat
  | 0, _ => 0
  | w + 1, n => n % 2 + popc w (n / 2)

/-- Replace bits `lo+w-1 .. lo` of `n` by the low `w` bits of `v`. -/
def setBits (n lo w v : Nat) : Nat := n - (bits n lo w <<< lo) + ((v % 2 ^ w) <<< lo)

/-- A sum that stops at `2^w - 1` (the spec's "saturates"). -/
def satAdd (w a b : Nat) : Nat := min (a + b) (2 ^ w - 1)

/-- A finite map from numbers, as a list whose keys rise strictly. -/
abbrev SMap (α : Type) := List (Nat × α)

/-- The value at a key, if the map lists it. -/
def SMap.get? {α : Type} : SMap α → Nat → Option α
  | [], _ => none
  | (k, v) :: m, a => if k = a then some v else SMap.get? m a

/-- The value at a key, or a default for an unlisted key. -/
def SMap.getD {α : Type} (m : SMap α) (k : Nat) (d : α) : α := (SMap.get? m k).getD d

/-- List a value at a key, keeping the keys in rising order. -/
def SMap.set {α : Type} : SMap α → Nat → α → SMap α
  | [], a, v => [(a, v)]
  | (k, w) :: m, a, v =>
    if a < k then (a, v) :: (k, w) :: m
    else if a = k then (a, v) :: m
    else (k, w) :: SMap.set m a v

/-- Remove a key. -/
def SMap.erase {α : Type} (m : SMap α) (a : Nat) : SMap α := m.filter (fun p => p.1 != a)

/-- Store a value in the canonical form in which no entry equals the default `d`. -/
def SMap.put {α : Type} [DecidableEq α] (m : SMap α) (d : α) (a : Nat) (v : α) : SMap α :=
  if v = d then SMap.erase m a else SMap.set m a v

/-- Keys rise strictly. -/
def SMap.sorted {α : Type} : SMap α → Bool
  | [] => true
  | [_] => true
  | (a, _) :: (b, w) :: m => decide (a < b) && SMap.sorted ((b, w) :: m)

/-- The canonical form: rising keys and no entry equal to the default. -/
def SMap.canon {α : Type} [DecidableEq α] (d : α) (m : SMap α) : Bool :=
  SMap.sorted m && m.all (fun p => decide (p.2 ≠ d))

/-- Change the value at a key that the map lists. -/
def SMap.modify {α : Type} (m : SMap α) (k : Nat) (f : α → α) : SMap α :=
  m.map (fun p => if p.1 = k then (p.1, f p.2) else p)

/-- The access types of R16. -/
inductive Acc where
  | ro | rw | rw1c | wo | rws | rwl | rc
  deriving DecidableEq, Repr

/-- The reset kinds of R17 and R18 (`never` is the "— / none" of R18). -/
inductive RKind where
  | cold | warm | die | tenant | context | never
  deriving DecidableEq, Repr

/-- Which written values R19 admits: every value, the listed range outside which a value is
reserved, or an agent ID, of which bits 1 and 0 are stored as zero (R5). -/
inductive Legal where
  | any
  | range (lo hi : Nat)
  | agent
  | set (mask : Nat)
  deriving DecidableEq, Repr

/-- Does R19 admit a written value? -/
def Legal.ok : Legal → Nat → Bool
  | .any, _ => true
  | .agent, _ => true
  | .range lo hi, v => decide (lo ≤ v) && decide (v ≤ hi)
  | .set m, v => bit m v

/-- What is stored of an admitted value (R5). -/
def Legal.cut : Legal → Nat → Nat
  | .agent, v => v - v % 4
  | .any, v => v
  | .range _ _, v => v
  | .set _, v => v

/-- One field of one register instance: its bit address in the package's CSR space (8 × byte offset + bit), its width,
access type, reset kind, reset value and admitted values. -/
structure Fld where
  addr : Nat
  width : Nat
  acc : Acc
  rk : RKind
  rst : Nat
  legal : Legal
  deriving DecidableEq, Repr

/-- A field at a byte offset of the CSR space and its lowest bit. -/
def mkFld (off lo width : Nat) (acc : Acc) (rk : RKind) (rst : Nat) (legal : Legal) : Fld :=
  ⟨8 * off + lo, width, acc, rk, rst, legal⟩

/-- The same field of another instance, `d` bytes further on. -/
def Fld.shift (f : Fld) (d : Nat) : Fld := { f with addr := f.addr + 8 * d }

/-- One row of a register table: offset in its block, the strides and counts of its instances, the fields of instance 0,
and the lock field of its RWL fields (with `true` where the lock moves with the instance). -/
structure RegRow where
  off : Nat
  dims : List (Nat × Nat)
  flds : List Fld
  lock : Option (Fld × Bool)
  deriving DecidableEq, Repr

/-- One register block: base in the package's CSR space, strides and counts of its instances, and its rows (R30, R31). -/
structure Blk where
  base : Nat
  dims : List (Nat × Nat)
  rows : List RegRow
  deriving DecidableEq, Repr

/-- Every field, each in the bank of its reset kind, listed only where it differs from its reset value; `shadow` holds the
staged values of RWS fields (R364), listed where a shadow differs from the reset value. -/
structure RegFile where
  cold : SMap Nat
  warm : SMap Nat
  die : SMap Nat
  tenant : SMap Nat
  context : SMap Nat
  never : SMap Nat
  shadow : SMap Nat
  deriving DecidableEq, Repr

/-- Every field at its reset value. -/
def RegFile.init : RegFile := ⟨[], [], [], [], [], [], []⟩

/-- The bank of a reset kind. -/
def RegFile.bank (r : RegFile) : RKind → SMap Nat
  | .cold => r.cold
  | .warm => r.warm
  | .die => r.die
  | .tenant => r.tenant
  | .context => r.context
  | .never => r.never

/-- Replace the bank of a reset kind. -/
def RegFile.withBank (r : RegFile) (k : RKind) (m : SMap Nat) : RegFile :=
  match k with
  | .cold => { r with cold := m }
  | .warm => { r with warm := m }
  | .die => { r with die := m }
  | .tenant => { r with tenant := m }
  | .context => { r with context := m }
  | .never => { r with never := m }

/-- The value a field holds, which fits its width. -/
def RegFile.get (r : RegFile) (f : Fld) : Nat := SMap.getD (r.bank f.rk) f.addr f.rst % 2 ^ f.width

/-- Give a field a value, cut to its width. -/
def RegFile.put (r : RegFile) (f : Fld) (v : Nat) : RegFile :=
  r.withBank f.rk (SMap.put (r.bank f.rk) f.rst f.addr (v % 2 ^ f.width))

/-- The shadow of an RWS field. -/
def RegFile.getShadow (r : RegFile) (f : Fld) : Nat := SMap.getD r.shadow f.addr f.rst % 2 ^ f.width

/-- Write the shadow of an RWS field. -/
def RegFile.putShadow (r : RegFile) (f : Fld) (v : Nat) : RegFile :=
  { r with shadow := SMap.put r.shadow f.rst f.addr (v % 2 ^ f.width) }

/-- Split a displacement by strides and counts: the displacement itself if it is a sum of whole strides within the
counts, given largest stride first. -/
def splitDims : List (Nat × Nat) → Nat → Option Nat
  | [], d => if d = 0 then some 0 else none
  | (s, n) :: ds, d =>
    let i := d / s
    if i < n then (splitDims ds (d - i * s)).map (fun r => r + i * s) else none

/-- The part of a displacement that whole block strides account for, and what is left inside the block. -/
def blockPart : List (Nat × Nat) → Nat → Option (Nat × Nat)
  | [], d => some (0, d)
  | (s, n) :: ds, d =>
    let i := d / s
    if i < n then (blockPart ds (d - i * s)).map (fun r => (r.1 + i * s, r.2)) else none

/-- Find the row of a block at a displacement, with the displacement of the row's instance. -/
def Blk.findRow : List RegRow → Nat → Option (RegRow × Nat)
  | [], _ => none
  | r :: rs, d =>
    if r.off ≤ d then
      match splitDims r.dims (d - r.off) with
      | some k => some (r, k)
      | none => Blk.findRow rs d
    else Blk.findRow rs d

/-- A register found from its CSR offset: its fields and lock, moved to the instance. -/
structure Found where
  flds : List Fld
  lock : Option Fld
  deriving DecidableEq, Repr

/-- Find the register at a byte offset in the package's CSR space; none at a reserved offset (R15). -/
def findReg : List Blk → Nat → Option Found
  | [], _ => none
  | b :: bs, o =>
    if b.base ≤ o then
      match blockPart b.dims (o - b.base) with
      | some (bd, d) =>
        match Blk.findRow b.rows d with
        | some (r, k) =>
          some { flds := r.flds.map (fun f => f.shift (bd + k)),
                 lock := r.lock.map (fun p => if p.2 then p.1.shift (bd + k) else p.1) }
        | none => findReg bs o
      | none => findReg bs o
    else findReg bs o

end Sys2Proof.Machine
end

