-- ==== Sys2Proof/Machine/Hash.lean ====
section
/-! DEFINITION. Machine/Hash.lean: the digests the spec names: CRC-8 of an OTP word (R339), SHA-256 of the audit chain
(R345) and SHA-384 of the configuration image and its keys (R342, R350). The two SHA functions are those of FIPS 180-4, which
the spec names and does not restate (log 4). -/
namespace Sys2Proof.Machine

/-- One step of the CRC of R339: shift left, and fold in x⁸ + x² + x + 1 when a one falls out. -/
def crc8Step (c : Nat) : Nat := if c ≥ 128 then ((c * 2) % 256) ^^^ 7 else c * 2

/-- The CRC of R339 after one more byte. -/
def crc8Byte (c b : Nat) : Nat := Nat.repeat crc8Step 8 (c ^^^ b)

/-- Byte `i` of a number. -/
def byteAt (n i : Nat) : Nat := (n >>> (8 * i)) % 256

/-- The low `k` bytes of a number, lowest first (R12). -/
def toBytes (k n : Nat) : List Nat := (List.range k).map (byteAt n)

/-- The number whose bytes, lowest first, these are (R12). -/
def ofBytes : List Nat → Nat
  | [] => 0
  | b :: bs => b % 256 + 256 * ofBytes bs

/-- The check byte of the 56-bit value of an OTP word (R339). -/
def otpCrc (value : Nat) : Nat := (toBytes 7 value).foldl crc8Byte 0xFF

/-- A number from bytes, the first most significant. -/
def ofBytesBE (bs : List Nat) : Nat := bs.foldl (fun a b => a * 256 + b % 256) 0

/-- The low `k` bytes of a number, most significant first. -/
def toBytesBE (k n : Nat) : List Nat := (toBytes k n).reverse

/-- Rotate a `w`-bit word right. -/
def rotr (w x n : Nat) : Nat := (x >>> n) ||| ((x <<< (w - n)) % 2 ^ w)

/-- Cut bytes into pieces of `k`, given enough fuel. -/
def chunksOf {α : Type} (k : Nat) : Nat → List α → List (List α)
  | 0, _ => []
  | f + 1, bs => if bs.isEmpty then [] else bs.take k :: chunksOf k f (bs.drop k)

/-- The parameters in which SHA-256 and SHA-512 differ. -/
structure ShaPar where
  w : Nat
  s0 : Nat × Nat × Nat
  s1 : Nat × Nat × Nat
  b0 : Nat × Nat × Nat
  b1 : Nat × Nat × Nat
  k : List Nat

def sha256K : List Nat := [
  0x428A2F98, 0x71374491, 0xB5C0FBCF, 0xE9B5DBA5, 0x3956C25B, 0x59F111F1, 0x923F82A4, 0xAB1C5ED5,
  0xD807AA98, 0x12835B01, 0x243185BE, 0x550C7DC3, 0x72BE5D74, 0x80DEB1FE, 0x9BDC06A7, 0xC19BF174,
  0xE49B69C1, 0xEFBE4786, 0xFC19DC6, 0x240CA1CC, 0x2DE92C6F, 0x4A7484AA, 0x5CB0A9DC, 0x76F988DA,
  0x983E5152, 0xA831C66D, 0xB00327C8, 0xBF597FC7, 0xC6E00BF3, 0xD5A79147, 0x6CA6351, 0x14292967,
  0x27B70A85, 0x2E1B2138, 0x4D2C6DFC, 0x53380D13, 0x650A7354, 0x766A0ABB, 0x81C2C92E, 0x92722C85,
  0xA2BFE8A1, 0xA81A664B, 0xC24B8B70, 0xC76C51A3, 0xD192E819, 0xD6990624, 0xF40E3585, 0x106AA070,
  0x19A4C116, 0x1E376C08, 0x2748774C, 0x34B0BCB5, 0x391C0CB3, 0x4ED8AA4A, 0x5B9CCA4F, 0x682E6FF3,
  0x748F82EE, 0x78A5636F, 0x84C87814, 0x8CC70208, 0x90BEFFFA, 0xA4506CEB, 0xBEF9A3F7, 0xC67178F2]

def sha512K : List Nat := [
  0x428A2F98D728AE22, 0x7137449123EF65CD, 0xB5C0FBCFEC4D3B2F, 0xE9B5DBA58189DBBC,
  0x3956C25BF348B538, 0x59F111F1B605D019, 0x923F82A4AF194F9B, 0xAB1C5ED5DA6D8118,
  0xD807AA98A3030242, 0x12835B0145706FBE, 0x243185BE4EE4B28C, 0x550C7DC3D5FFB4E2,
  0x72BE5D74F27B896F, 0x80DEB1FE3B1696B1, 0x9BDC06A725C71235, 0xC19BF174CF692694,
  0xE49B69C19EF14AD2, 0xEFBE4786384F25E3, 0xFC19DC68B8CD5B5, 0x240CA1CC77AC9C65,
  0x2DE92C6F592B0275, 0x4A7484AA6EA6E483, 0x5CB0A9DCBD41FBD4, 0x76F988DA831153B5,
  0x983E5152EE66DFAB, 0xA831C66D2DB43210, 0xB00327C898FB213F, 0xBF597FC7BEEF0EE4,
  0xC6E00BF33DA88FC2, 0xD5A79147930AA725, 0x6CA6351E003826F, 0x142929670A0E6E70,
  0x27B70A8546D22FFC, 0x2E1B21385C26C926, 0x4D2C6DFC5AC42AED, 0x53380D139D95B3DF,
  0x650A73548BAF63DE, 0x766A0ABB3C77B2A8, 0x81C2C92E47EDAEE6, 0x92722C851482353B,
  0xA2BFE8A14CF10364, 0xA81A664BBC423001, 0xC24B8B70D0F89791, 0xC76C51A30654BE30,
  0xD192E819D6EF5218, 0xD69906245565A910, 0xF40E35855771202A, 0x106AA07032BBD1B8,
  0x19A4C116B8D2D0C8, 0x1E376C085141AB53, 0x2748774CDF8EEB99, 0x34B0BCB5E19B48A8,
  0x391C0CB3C5C95A63, 0x4ED8AA4AE3418ACB, 0x5B9CCA4F7763E373, 0x682E6FF3D6B2B8A3,
  0x748F82EE5DEFB2FC, 0x78A5636F43172F60, 0x84C87814A1F0AB72, 0x8CC702081A6439EC,
  0x90BEFFFA23631E28, 0xA4506CEBDE82BDE9, 0xBEF9A3F7B2C67915, 0xC67178F2E372532B,
  0xCA273ECEEA26619C, 0xD186B8C721C0C207, 0xEADA7DD6CDE0EB1E, 0xF57D4F7FEE6ED178,
  0x6F067AA72176FBA, 0xA637DC5A2C898A6, 0x113F9804BEF90DAE, 0x1B710B35131C471B,
  0x28DB77F523047D84, 0x32CAAB7B40C72493, 0x3C9EBE0A15C9BEBC, 0x431D67C49C100D4C,
  0x4CC5D4BECB3E42B6, 0x597F299CFC657E2A, 0x5FCB6FAB3AD6FAEC, 0x6C44198C4A475817]

def sha256Init : List Nat := [
  0x6A09E667, 0xBB67AE85, 0x3C6EF372, 0xA54FF53A, 0x510E527F, 0x9B05688C, 0x1F83D9AB, 0x5BE0CD19]

def sha384Init : List Nat := [
  0xCBBB9D5DC1059ED8, 0x629A292A367CD507, 0x9159015A3070DD17, 0x152FECD8F70E5939,
  0x67332667FFC00B31, 0x8EB44A8768581511, 0xDB0C2E0D64F98FA7, 0x47B5481DBEFA4FA4]

/-- SHA-256. -/
def sha256Par : ShaPar := ⟨32, (7, 18, 3), (17, 19, 10), (2, 13, 22), (6, 11, 25), sha256K⟩

/-- SHA-512 and SHA-384. -/
def sha512Par : ShaPar := ⟨64, (1, 8, 7), (19, 61, 6), (28, 34, 39), (14, 18, 41), sha512K⟩

def shaSmall (p : ShaPar) (r : Nat × Nat × Nat) (x : Nat) : Nat := rotr p.w x r.1 ^^^ rotr p.w x r.2.1 ^^^ (x >>> r.2.2)
def shaBig (p : ShaPar) (r : Nat × Nat × Nat) (x : Nat) : Nat := rotr p.w x r.1 ^^^ rotr p.w x r.2.1 ^^^ rotr p.w x r.2.2

/-- Extend the message schedule by `n` words; the schedule is kept newest first. -/
def shaSchedule (p : ShaPar) : Nat → List Nat → List Nat
  | 0, ws => ws
  | n + 1, ws =>
    let v := (shaSmall p p.s1 (ws.getD 1 0) + ws.getD 6 0 + shaSmall p p.s0 (ws.getD 14 0) + ws.getD 15 0) % 2 ^ p.w
    shaSchedule p n (v :: ws)

/-- The eight working words. -/
structure ShaVars where
  (a b c d e f g h : Nat)

/-- One round. -/
def shaRound (p : ShaPar) (v : ShaVars) (kw : Nat × Nat) : ShaVars :=
  let m := 2 ^ p.w
  let ch := (v.e &&& v.f) ^^^ ((m - 1 - v.e) &&& v.g)
  let t1 := v.h + shaBig p p.b1 v.e + ch + kw.1 + kw.2
  let maj := (v.a &&& v.b) ^^^ (v.a &&& v.c) ^^^ (v.b &&& v.c)
  let t2 := shaBig p p.b0 v.a + maj
  ⟨(t1 + t2) % m, v.a, v.b, v.c, (v.d + t1) % m, v.e, v.f, v.g⟩

/-- One block. -/
def shaBlock (p : ShaPar) (h : List Nat) (blk : List Nat) : List Nat :=
  let wb := p.w / 8
  let w0 := (chunksOf wb 16 blk).map ofBytesBE
  let ws := (shaSchedule p (p.k.length - 16) w0.reverse).reverse
  let g := fun i => h.getD i 0
  let v := (p.k.zip ws).foldl (shaRound p) ⟨g 0, g 1, g 2, g 3, g 4, g 5, g 6, g 7⟩
  (h.zip [v.a, v.b, v.c, v.d, v.e, v.f, v.g, v.h]).map (fun q => (q.1 + q.2) % 2 ^ p.w)

/-- The padded message. -/
def shaPad (p : ShaPar) (msg : List Nat) : List Nat :=
  let bl := 2 * p.w
  let lf := p.w / 4
  let z := (bl - (msg.length + 1 + lf) % bl) % bl
  msg ++ [0x80] ++ List.replicate z 0 ++ toBytesBE lf (8 * msg.length)

/-- The digest's words. -/
def shaDigest (p : ShaPar) (init msg : List Nat) : List Nat :=
  let m := shaPad p msg
  (chunksOf (2 * p.w) (m.length + 1) m).foldl (shaBlock p) init

/-- SHA-256 of a list of bytes, as 32 bytes. -/
def sha256 (msg : List Nat) : List Nat := (shaDigest sha256Par sha256Init msg).flatMap (toBytesBE 4)

/-- SHA-384 of a list of bytes, as 48 bytes. -/
def sha384 (msg : List Nat) : List Nat := ((shaDigest sha512Par sha384Init msg).take 6).flatMap (toBytesBE 8)

end Sys2Proof.Machine
end

