-- ==== Sys2Proof/Config.lean ====
section
/-! DEFINITION. Config.lean: what an implementation fixes and the spec leaves open: free values with no body, so that nothing
can be proved of them but what holds for every value, and the places the spec bounds. -/
namespace Sys2Proof

/-- The `n`-th value that the spec leaves open (log 1). -/
opaque Config.freeNat : Nat → Nat

/-- The digest that the hub computes over the locked address map (R29; log 7): the spec names no function. -/
opaque Config.amapDigest : List Nat → BitVec 32

/-- The lowest and highest bus below link `4 × port + link` under root personality (R377 to R379): the spec gives no register
that holds them (log 40). -/
opaque Config.secBus : Nat → Nat
opaque Config.subBus : Nat → Nat

/-- Offset of the MSI-X capability in an endpoint function's configuration space (R389), and of Device Control in a device's:
the spec gives neither (log 40). -/
opaque Config.msixCap : Nat
opaque Config.devCtl : Nat → Nat

/-- Whether a fused multiply-add of zero and infinity signals invalid where the addend is a quiet NaN: IEEE 754-2019 leaves it to
the implementation (R100, log 29). -/
opaque Config.fmaNanSignals : Bool

end Sys2Proof
end

