-- ==== Sys2Proof/Machine/Regs.lean ====
section
/-! DEFINITION. Machine/Regs.lean: every field of every register table of spec/01 to spec/17 as a named `Fld` (its place
in the package's CSR space by R14, R30 and R31, its access type by R16, its reset value and kind by R17), and the rows by
which a register is found from its offset. Laid out row by row from the spec's own tables. -/
namespace Sys2Proof.Machine

/-- HUB_PKG_ID bits [2:0], reset 0x0 / cold. -/
def Reg.HUB_PKG_ID.PKG : Fld :=
  mkFld (0xC0000000) 0 3 .ro .cold 0x0 (.any)

/-- HUB_PKG_ID bits [23:16], reset 0x0 / none. -/
def Reg.HUB_PKG_ID.STEPPING : Fld :=
  mkFld (0xC0000000) 16 8 .ro .never 0x0 (.any)

/-- HUB_AMAP_LOCK bits [0:0], reset 0x0 / warm. -/
def Reg.HUB_AMAP_LOCK.LOCK : Fld :=
  mkFld (0xC0000008) 0 1 .rwl .warm 0x0 (.any)

/-- HUB_AMAP_LOCK bits [1:1], reset 0x0 / warm. -/
def Reg.HUB_AMAP_LOCK.BAD : Fld :=
  mkFld (0xC0000008) 1 1 .rw1c .warm 0x0 (.any)

/-- HUB_AMAP_LOCK bits [63:32], reset 0x0 / warm. -/
def Reg.HUB_AMAP_LOCK.DIGEST : Fld :=
  mkFld (0xC0000008) 32 32 .ro .warm 0x0 (.any)

/-- HUB_AMAP_PRESENT bits [7:0], reset 0x0 / warm. -/
def Reg.HUB_AMAP_PRESENT.PKG : Fld :=
  mkFld (0xC0000010) 0 8 .rwl .warm 0x0 (.any)

/-- HUB_AMAP_DRAM bits [9:0], reset 0x0 / warm. -/
def Reg.HUB_AMAP_DRAM.SIZE : Fld :=
  mkFld (0xC0000018) 0 10 .rwl .warm 0x0 (.range 0 768)

/-- HUB_AMAP_CXL bits [10:0], reset 0x0 / warm. -/
def Reg.HUB_AMAP_CXL.SIZE : Fld :=
  mkFld (0xC0000020) 0 11 .rwl .warm 0x0 (.range 0 1024)

/-- HUB_ILV bits [9:0], reset 0x0 / warm. -/
def Reg.HUB_ILV.BASE (n : Nat) : Fld :=
  mkFld (0xC0000040 + n * 0x8) 0 10 .rwl .warm 0x0 (.any)

/-- HUB_ILV bits [25:16], reset 0x0 / warm. -/
def Reg.HUB_ILV.SIZE (n : Nat) : Fld :=
  mkFld (0xC0000040 + n * 0x8) 16 10 .rwl .warm 0x0 (.any)

/-- HUB_ILV bits [36:32], reset 0x0 / warm. -/
def Reg.HUB_ILV.FIRST_CH (n : Nat) : Fld :=
  mkFld (0xC0000040 + n * 0x8) 32 5 .rwl .warm 0x0 (.range 0 23)

/-- HUB_ILV bits [44:40], reset 0x0 / warm. -/
def Reg.HUB_ILV.NUM_CH (n : Nat) : Fld :=
  mkFld (0xC0000040 + n * 0x8) 40 5 .rwl .warm 0x0 (.range 0 24)

/-- HUB_ILV bits [63:63], reset 0x0 / warm. -/
def Reg.HUB_ILV.EN (n : Nat) : Fld :=
  mkFld (0xC0000040 + n * 0x8) 63 1 .rwl .warm 0x0 (.any)

/-- HUB_DEC_ERR_ADDR bits [51:0], reset 0x0 / warm. -/
def Reg.HUB_DEC_ERR_ADDR.ADDR : Fld :=
  mkFld (0xC0000080) 0 52 .ro .warm 0x0 (.any)

/-- HUB_DEC_ERR_ADDR bits [63:63], reset 0x0 / warm. -/
def Reg.HUB_DEC_ERR_ADDR.VALID : Fld :=
  mkFld (0xC0000080) 63 1 .rw1c .warm 0x0 (.any)

/-- HUB_DEC_ERR_SRC bits [15:0], reset 0x0 / warm. -/
def Reg.HUB_DEC_ERR_SRC.AGENT : Fld :=
  mkFld (0xC0000088) 0 16 .ro .warm 0x0 (.any)

/-- HUB_DEC_ERR_SRC bits [27:16], reset 0x0 / warm. -/
def Reg.HUB_DEC_ERR_SRC.TENANT : Fld :=
  mkFld (0xC0000088) 16 12 .ro .warm 0x0 (.any)

/-- HUB_DEC_ERR_SRC bits [28:28], reset 0x0 / warm. -/
def Reg.HUB_DEC_ERR_SRC.WRITE : Fld :=
  mkFld (0xC0000088) 28 1 .ro .warm 0x0 (.any)

/-- HUB_DEC_ERR_SRC bits [63:32], reset 0x0 / warm. -/
def Reg.HUB_DEC_ERR_SRC.COUNT : Fld :=
  mkFld (0xC0000088) 32 32 .rc .warm 0x0 (.any)

/-- HUB_CLK_STATUS bits [0:0], reset 0x0 / cold. -/
def Reg.HUB_CLK_STATUS.ROOT_LOCK : Fld :=
  mkFld (0xC0000100) 0 1 .ro .cold 0x0 (.any)

/-- HUB_CLK_STATUS bits [13:2], reset 0x0 / cold. -/
def Reg.HUB_CLK_STATUS.DIE_LOCK : Fld :=
  mkFld (0xC0000100) 2 12 .ro .cold 0x0 (.any)

/-- HUB_CLK_STATUS bits [16:16], reset 0x0 / cold. -/
def Reg.HUB_CLK_STATUS.LOCK_LOST : Fld :=
  mkFld (0xC0000100) 16 1 .rw1c .cold 0x0 (.any)

/-- HUB_CORE_DIV bits [9:0], reset 0x3FF / warm. -/
def Reg.HUB_CORE_DIV.REQ (d : Nat) : Fld :=
  mkFld (0xC0000140 + d * 0x8) 0 10 .rw .warm 0x3FF (.any)

/-- HUB_CORE_DIV bits [25:16], reset 0x3FF / warm. -/
def Reg.HUB_CORE_DIV.CUR (d : Nat) : Fld :=
  mkFld (0xC0000140 + d * 0x8) 16 10 .ro .warm 0x3FF (.any)

/-- HUB_CORE_DIV bits [36:32], reset 0x0 / warm. -/
def Reg.HUB_CORE_DIV.BUSY (d : Nat) : Fld :=
  mkFld (0xC0000140 + d * 0x8) 32 5 .ro .warm 0x0 (.any)

/-- TIME_NOW bits [63:0], reset 0x0 / cold. -/
def Reg.TIME_NOW.VALUE : Fld :=
  mkFld (0xCD000000) 0 64 .ro .cold 0x0 (.any)

/-- TIME_LOAD bits [63:0], reset 0x0 / cold. -/
def Reg.TIME_LOAD.VALUE : Fld :=
  mkFld (0xCD000008) 0 64 .wo .cold 0x0 (.any)

/-- TIME_STATUS bits [0:0], reset 0x0 / cold. -/
def Reg.TIME_STATUS.VALID : Fld :=
  mkFld (0xCD000010) 0 1 .ro .cold 0x0 (.any)

/-- TIME_STATUS bits [1:1], reset 0x0 / cold. -/
def Reg.TIME_STATUS.RECON : Fld :=
  mkFld (0xCD000010) 1 1 .rw1c .cold 0x0 (.any)

/-- TIME_STATUS bits [3:2], reset 0x0 / cold. -/
def Reg.TIME_STATUS.CAUSE : Fld :=
  mkFld (0xCD000010) 2 2 .ro .cold 0x0 (.any)

/-- TIME_STATUS bits [4:4], reset 0x0 / warm. -/
def Reg.TIME_STATUS.LOAD_REFUSED : Fld :=
  mkFld (0xCD000010) 4 1 .rw1c .warm 0x0 (.any)

/-- TIME_UNCERTAINTY bits [31:0], reset 0x0 / cold. -/
def Reg.TIME_UNCERTAINTY.LAST : Fld :=
  mkFld (0xCD000018) 0 32 .ro .cold 0x0 (.any)

/-- TIME_UNCERTAINTY bits [63:32], reset 0x0 / cold. -/
def Reg.TIME_UNCERTAINTY.ACCUM : Fld :=
  mkFld (0xCD000018) 32 32 .rw .cold 0x0 (.any)

/-- TIME_AO_COUNT bits [47:0], reset 0x0 / cold. -/
def Reg.TIME_AO_COUNT.COUNT : Fld :=
  mkFld (0xCD000020) 0 48 .ro .cold 0x0 (.any)

/-- TIME_AO_PERIOD bits [48:0], reset 0x1DCD650000000 / cold. -/
def Reg.TIME_AO_PERIOD.PERIOD : Fld :=
  mkFld (0xCD000028) 0 49 .ro .cold 0x1DCD650000000 (.any)

/-- TIME_AO_PERIOD bits [63:63], reset 0x0 / cold. -/
def Reg.TIME_AO_PERIOD.VALID : Fld :=
  mkFld (0xCD000028) 63 1 .ro .cold 0x0 (.any)

/-- TIME_AO_CAL bits [4:0], reset 0x12 / cold. -/
def Reg.TIME_AO_CAL.WINDOW_LOG2 : Fld :=
  mkFld (0xCD000030) 0 5 .rw .cold 0x12 (.range 14 24)

/-- TIME_AO_CAL bits [48:32], reset 0x7D0 / cold. -/
def Reg.TIME_AO_CAL.DRIFT_PPB : Fld :=
  mkFld (0xCD000030) 32 17 .rw .cold 0x7D0 (.range 0 100000)

/-- TIME_AO_SNAP_TIME bits [63:0], reset 0x0 / cold. -/
def Reg.TIME_AO_SNAP_TIME.TIME : Fld :=
  mkFld (0xCD000038) 0 64 .ro .cold 0x0 (.any)

/-- TIME_AO_SNAP_COUNT bits [47:0], reset 0x0 / cold. -/
def Reg.TIME_AO_SNAP_COUNT.COUNT : Fld :=
  mkFld (0xCD000040) 0 48 .ro .cold 0x0 (.any)

/-- TIME_CL_CTRL bits [0:0], reset 0x0 / warm. -/
def Reg.TIME_CL_CTRL.EN : Fld :=
  mkFld (0xCD000080) 0 1 .rw .warm 0x0 (.any)

/-- TIME_CL_CTRL bits [3:1], reset 0x0 / warm. -/
def Reg.TIME_CL_CTRL.ROOT : Fld :=
  mkFld (0xCD000080) 1 3 .rw .warm 0x0 (.any)

/-- TIME_CL_CTRL bits [15:8], reset 0xA / warm. -/
def Reg.TIME_CL_CTRL.INTERVAL : Fld :=
  mkFld (0xCD000080) 8 8 .rw .warm 0xA (.range 1 255)

/-- TIME_CL_CTRL bits [21:16], reset 0x0 / warm. -/
def Reg.TIME_CL_CTRL.PORT_EN : Fld :=
  mkFld (0xCD000080) 16 6 .rw .warm 0x0 (.any)

/-- TIME_CL_CTRL bits [39:32], reset 0x20 / warm. -/
def Reg.TIME_CL_CTRL.ERR_THRESH : Fld :=
  mkFld (0xCD000080) 32 8 .rw .warm 0x20 (.any)

/-- TIME_CL_STATUS bits [1:0], reset 0x0 / warm. -/
def Reg.TIME_CL_STATUS.STATE : Fld :=
  mkFld (0xCD000088) 0 2 .ro .warm 0x0 (.any)

/-- TIME_CL_STATUS bits [4:2], reset 0x7 / warm. -/
def Reg.TIME_CL_STATUS.SRC_PORT : Fld :=
  mkFld (0xCD000088) 2 3 .ro .warm 0x7 (.any)

/-- TIME_CL_STATUS bits [6:5], reset 0x0 / warm. -/
def Reg.TIME_CL_STATUS.HOPS : Fld :=
  mkFld (0xCD000088) 5 2 .ro .warm 0x0 (.any)

/-- TIME_CL_STATUS bits [7:7], reset 0x0 / warm. -/
def Reg.TIME_CL_STATUS.ERR : Fld :=
  mkFld (0xCD000088) 7 1 .rw1c .warm 0x0 (.any)

/-- TIME_CL_STATUS bits [31:16], reset 0x0 / warm. -/
def Reg.TIME_CL_STATUS.OFFSET : Fld :=
  mkFld (0xCD000088) 16 16 .ro .warm 0x0 (.any)

/-- TIME_CL_STATUS bits [55:32], reset 0x0 / warm. -/
def Reg.TIME_CL_STATUS.DELAY : Fld :=
  mkFld (0xCD000088) 32 24 .ro .warm 0x0 (.any)

/-- TIME_CL_ASYM bits [15:0], reset 0x0 / warm. -/
def Reg.TIME_CL_ASYM.ASYM (n : Nat) : Fld :=
  mkFld (0xCD0000C0 + n * 0x8) 0 16 .rw .warm 0x0 (.any)

/-- CORE_CAPS bits [3:0], reset 0x0 / none. -/
def Reg.CORE_CAPS.DIST_SET (d k : Nat) : Fld :=
  mkFld (0x0 + d * 0x10000000 + k * 0x10000) 0 4 .ro .never 0x0 (.any)

/-- CORE_CAPS bits [7:4], reset 0x4 / none. -/
def Reg.CORE_CAPS.CONTEXTS (d k : Nat) : Fld :=
  mkFld (0x0 + d * 0x10000000 + k * 0x10000) 4 4 .ro .never 0x4 (.any)

/-- CORE_CAPS bits [15:8], reset 0x30 / none. -/
def Reg.CORE_CAPS.PEND_MAX (d k : Nat) : Fld :=
  mkFld (0x0 + d * 0x10000000 + k * 0x10000) 8 8 .ro .never 0x30 (.any)

/-- CORE_CAPS bits [19:16], reset 0x6 / none. -/
def Reg.CORE_CAPS.SWITCH_COST (d k : Nat) : Fld :=
  mkFld (0x0 + d * 0x10000000 + k * 0x10000) 16 4 .ro .never 0x6 (.any)

/-- CORE_CAPS bits [27:20], reset 0x20 / none. -/
def Reg.CORE_CAPS.LMQ (d k : Nat) : Fld :=
  mkFld (0x0 + d * 0x10000000 + k * 0x10000) 20 8 .ro .never 0x20 (.any)

/-- CORE_SCHED bits [15:0], reset 0x40 / die. -/
def Reg.CORE_SCHED.QUANTUM (d k : Nat) : Fld :=
  mkFld (0x8 + d * 0x10000000 + k * 0x10000) 0 16 .rw .die 0x40 (.any)

/-- CORE_SCHED bits [16:16], reset 0x1 / die. -/
def Reg.CORE_SCHED.IRQ_PREEMPT (d k : Nat) : Fld :=
  mkFld (0x8 + d * 0x10000000 + k * 0x10000) 16 1 .rw .die 0x1 (.any)

/-- CORE_SCHED bits [17:17], reset 0x1 / die. -/
def Reg.CORE_SCHED.STALL_CONTINUE (d k : Nat) : Fld :=
  mkFld (0x8 + d * 0x10000000 + k * 0x10000) 17 1 .rw .die 0x1 (.any)

/-- CORE_CTX_STATUS bits [2:0], reset 0x0 / context. -/
def Reg.CORE_CTX_STATUS.STATE (d k c : Nat) : Fld :=
  mkFld (0x10 + d * 0x10000000 + k * 0x10000 + c * 0x8) 0 3 .ro .context 0x0 (.any)

/-- CORE_CTX_STATUS bits [13:8], reset 0x0 / context. -/
def Reg.CORE_CTX_STATUS.PEND (d k c : Nat) : Fld :=
  mkFld (0x10 + d * 0x10000000 + k * 0x10000 + c * 0x8) 8 6 .ro .context 0x0 (.any)

/-- CORE_CTX_STATUS bits [21:16], reset 0x0 / context. -/
def Reg.CORE_CTX_STATUS.MISS (d k c : Nat) : Fld :=
  mkFld (0x10 + d * 0x10000000 + k * 0x10000 + c * 0x8) 16 6 .ro .context 0x0 (.any)

/-- CORE_CTX_STATUS bits [43:32], reset 0x0 / context. -/
def Reg.CORE_CTX_STATUS.TENANT (d k c : Nat) : Fld :=
  mkFld (0x10 + d * 0x10000000 + k * 0x10000 + c * 0x8) 32 12 .ro .context 0x0 (.any)

/-- CORE_CTX_STATUS bits [44:44], reset 0x0 / context. -/
def Reg.CORE_CTX_STATUS.WORLD (d k c : Nat) : Fld :=
  mkFld (0x10 + d * 0x10000000 + k * 0x10000 + c * 0x8) 44 1 .ro .context 0x0 (.any)

/-- CORE_CTX_STATUS bits [46:45], reset 0x2 / context. -/
def Reg.CORE_CTX_STATUS.PRIV (d k c : Nat) : Fld :=
  mkFld (0x10 + d * 0x10000000 + k * 0x10000 + c * 0x8) 45 2 .ro .context 0x2 (.any)

/-- CORE_CTX_ENTRY bits [51:5], reset 0x0 / die. -/
def Reg.CORE_CTX_ENTRY.ADDR (d k c : Nat) : Fld :=
  mkFld (0x30 + d * 0x10000000 + k * 0x10000 + c * 0x8) 5 47 .rw .die 0x0 (.any)

/-- CORE_CTX_CTRL bits [0:0], reset 0x0 / context. -/
def Reg.CORE_CTX_CTRL.START (d k c : Nat) : Fld :=
  mkFld (0x50 + d * 0x10000000 + k * 0x10000 + c * 0x8) 0 1 .wo .context 0x0 (.any)

/-- CORE_CTX_CTRL bits [1:1], reset 0x0 / context. -/
def Reg.CORE_CTX_CTRL.RESET (d k c : Nat) : Fld :=
  mkFld (0x50 + d * 0x10000000 + k * 0x10000 + c * 0x8) 1 1 .wo .context 0x0 (.any)

/-- HUB_SPRK_SRC bits [51:14], reset 0x0 / warm. -/
def Reg.HUB_SPRK_SRC.ADDR (w : Nat) : Fld :=
  mkFld (0xC0000300 + w * 0x8) 14 38 .rws .warm 0x0 (.any)

/-- HUB_SPRK_COMMIT bits [0:0], reset 0x0 / warm. -/
def Reg.HUB_SPRK_COMMIT.N : Fld :=
  mkFld (0xC0000310) 0 1 .wo .warm 0x0 (.any)

/-- HUB_SPRK_COMMIT bits [1:1], reset 0x0 / warm. -/
def Reg.HUB_SPRK_COMMIT.S : Fld :=
  mkFld (0xC0000310) 1 1 .wo .warm 0x0 (.any)

/-- HUB_SPRK_STATUS bits [0:0], reset 0x0 / warm. -/
def Reg.HUB_SPRK_STATUS.BUSY : Fld :=
  mkFld (0xC0000318) 0 1 .ro .warm 0x0 (.any)

/-- HUB_SPRK_STATUS bits [1:1], reset 0x0 / warm. -/
def Reg.HUB_SPRK_STATUS.WORLD : Fld :=
  mkFld (0xC0000318) 1 1 .ro .warm 0x0 (.any)

/-- HUB_SPRK_STATUS bits [3:2], reset 0x0 / warm. -/
def Reg.HUB_SPRK_STATUS.RESULT : Fld :=
  mkFld (0xC0000318) 2 2 .ro .warm 0x0 (.any)

/-- HUB_SPRK_STATUS bits [9:4], reset 0x0 / warm. -/
def Reg.HUB_SPRK_STATUS.BAD_SLOT : Fld :=
  mkFld (0xC0000318) 4 6 .ro .warm 0x0 (.any)

/-- HUB_SPRK_STATUS bits [14:10], reset 0x0 / warm. -/
def Reg.HUB_SPRK_STATUS.BAD_UOP : Fld :=
  mkFld (0xC0000318) 10 5 .ro .warm 0x0 (.any)

/-- HUB_SPRK_STATUS bits [18:15], reset 0x0 / warm. -/
def Reg.HUB_SPRK_STATUS.REASON : Fld :=
  mkFld (0xC0000318) 15 4 .ro .warm 0x0 (.any)

/-- CL_L2_CTRL bits [0:0], reset 0x1 / die. -/
def Reg.CL_L2_CTRL.EN (d cl : Nat) : Fld :=
  mkFld (0x1000000 + d * 0x10000000 + cl * 0x10000) 0 1 .rw .die 0x1 (.any)

/-- CL_L2_STATUS bits [0:0], reset 0x0 / die. -/
def Reg.CL_L2_STATUS.BUSY (d cl : Nat) : Fld :=
  mkFld (0x1000008 + d * 0x10000000 + cl * 0x10000) 0 1 .ro .die 0x0 (.any)

/-- CL_L2_STATUS bits [1:1], reset 0x0 / die. -/
def Reg.CL_L2_STATUS.DRAINED (d cl : Nat) : Fld :=
  mkFld (0x1000008 + d * 0x10000000 + cl * 0x10000) 1 1 .ro .die 0x0 (.any)

/-- CL_L2_STATUS bits [2:2], reset 0x0 / die. -/
def Reg.CL_L2_STATUS.MBUSY (d cl : Nat) : Fld :=
  mkFld (0x1000008 + d * 0x10000000 + cl * 0x10000) 2 1 .ro .die 0x0 (.any)

/-- CL_L2_LOCK bits [15:0], reset 0x0 / die. -/
def Reg.CL_L2_LOCK.WAYS (d cl : Nat) : Fld :=
  mkFld (0x1000010 + d * 0x10000000 + cl * 0x10000) 0 16 .rw .die 0x0 (.any)

/-- CL_L2_LOCK bits [16:16], reset 0x0 / die. -/
def Reg.CL_L2_LOCK.FILL (d cl : Nat) : Fld :=
  mkFld (0x1000010 + d * 0x10000000 + cl * 0x10000) 16 1 .rw .die 0x0 (.any)

/-- CL_L2_LOCK bits [17:17], reset 0x0 / die. -/
def Reg.CL_L2_LOCK.BAD (d cl : Nat) : Fld :=
  mkFld (0x1000010 + d * 0x10000000 + cl * 0x10000) 17 1 .rw1c .die 0x0 (.any)

/-- CL_L2_LOCK bits [47:32], reset 0x0 / die. -/
def Reg.CL_L2_LOCK.FILL_AGENT (d cl : Nat) : Fld :=
  mkFld (0x1000010 + d * 0x10000000 + cl * 0x10000) 32 16 .rw .die 0x0 (.any)

/-- CL_L2_MAINT bits [1:0], reset 0x0 / die. -/
def Reg.CL_L2_MAINT.OP (d cl : Nat) : Fld :=
  mkFld (0x1000018 + d * 0x10000000 + cl * 0x10000) 0 2 .wo .die 0x0 (.any)

/-- CL_L2_MAINT bits [2:2], reset 0x0 / die. -/
def Reg.CL_L2_MAINT.KEEP_LOCKED (d cl : Nat) : Fld :=
  mkFld (0x1000018 + d * 0x10000000 + cl * 0x10000) 2 1 .wo .die 0x0 (.any)

/-- CL_ERR_CNT0 bits [31:0], reset 0x0 / die. -/
def Reg.CL_ERR_CNT0.L1 (d cl : Nat) : Fld :=
  mkFld (0x1000020 + d * 0x10000000 + cl * 0x10000) 0 32 .rc .die 0x0 (.any)

/-- CL_ERR_CNT0 bits [63:32], reset 0x0 / die. -/
def Reg.CL_ERR_CNT0.L2_CLEAN (d cl : Nat) : Fld :=
  mkFld (0x1000020 + d * 0x10000000 + cl * 0x10000) 32 32 .rc .die 0x0 (.any)

/-- CL_ERR_CNT1 bits [31:0], reset 0x0 / die. -/
def Reg.CL_ERR_CNT1.TAG_CORR (d cl : Nat) : Fld :=
  mkFld (0x1000028 + d * 0x10000000 + cl * 0x10000) 0 32 .rc .die 0x0 (.any)

/-- CL_ERR_CNT1 bits [63:32], reset 0x0 / die. -/
def Reg.CL_ERR_CNT1.LOCK_LOSS (d cl : Nat) : Fld :=
  mkFld (0x1000028 + d * 0x10000000 + cl * 0x10000) 32 32 .rc .die 0x0 (.any)

/-- CL_ERR_LOG bits [51:0], reset 0x0 / die. -/
def Reg.CL_ERR_LOG.ADDR (d cl : Nat) : Fld :=
  mkFld (0x1000030 + d * 0x10000000 + cl * 0x10000) 0 52 .ro .die 0x0 (.any)

/-- CL_ERR_LOG bits [55:52], reset 0x0 / die. -/
def Reg.CL_ERR_LOG.SRC (d cl : Nat) : Fld :=
  mkFld (0x1000030 + d * 0x10000000 + cl * 0x10000) 52 4 .ro .die 0x0 (.any)

/-- CL_ERR_LOG bits [63:63], reset 0x0 / die. -/
def Reg.CL_ERR_LOG.VALID (d cl : Nat) : Fld :=
  mkFld (0x1000030 + d * 0x10000000 + cl * 0x10000) 63 1 .rw1c .die 0x0 (.any)

/-- CL_ERR_IRQ bits [15:0], reset 0x0 / die. -/
def Reg.CL_ERR_IRQ.AGENT (d cl : Nat) : Fld :=
  mkFld (0x1000038 + d * 0x10000000 + cl * 0x10000) 0 16 .rw .die 0x0 (.agent)

/-- CL_ERR_IRQ bits [21:16], reset 0x0 / die. -/
def Reg.CL_ERR_IRQ.VEC (d cl : Nat) : Fld :=
  mkFld (0x1000038 + d * 0x10000000 + cl * 0x10000) 16 6 .rw .die 0x0 (.any)

/-- CL_ERR_IRQ bits [22:22], reset 0x0 / die. -/
def Reg.CL_ERR_IRQ.EN (d cl : Nat) : Fld :=
  mkFld (0x1000038 + d * 0x10000000 + cl * 0x10000) 22 1 .rw .die 0x0 (.any)

/-- L3_CTRL bits [1:0], reset 0x0 / die. -/
def Reg.L3_CTRL.MAINT (d sl : Nat) : Fld :=
  mkFld (0x2000000 + d * 0x10000000 + sl * 0x10000) 0 2 .wo .die 0x0 (.any)

/-- L3_STATUS bits [0:0], reset 0x0 / die. -/
def Reg.L3_STATUS.MBUSY (d sl : Nat) : Fld :=
  mkFld (0x2000008 + d * 0x10000000 + sl * 0x10000) 0 1 .ro .die 0x0 (.any)

/-- L3_ERR_CNT bits [31:0], reset 0x0 / die. -/
def Reg.L3_ERR_CNT.CORR (d sl : Nat) : Fld :=
  mkFld (0x2000010 + d * 0x10000000 + sl * 0x10000) 0 32 .rc .die 0x0 (.any)

/-- L3_ERR_CNT bits [63:32], reset 0x0 / die. -/
def Reg.L3_ERR_CNT.UNCORR (d sl : Nat) : Fld :=
  mkFld (0x2000010 + d * 0x10000000 + sl * 0x10000) 32 32 .rc .die 0x0 (.any)

/-- L3_ERR_LOG bits [51:0], reset 0x0 / die. -/
def Reg.L3_ERR_LOG.ADDR (d sl : Nat) : Fld :=
  mkFld (0x2000018 + d * 0x10000000 + sl * 0x10000) 0 52 .ro .die 0x0 (.any)

/-- L3_ERR_LOG bits [55:52], reset 0x0 / die. -/
def Reg.L3_ERR_LOG.SRC (d sl : Nat) : Fld :=
  mkFld (0x2000018 + d * 0x10000000 + sl * 0x10000) 52 4 .ro .die 0x0 (.any)

/-- L3_ERR_LOG bits [63:63], reset 0x0 / die. -/
def Reg.L3_ERR_LOG.VALID (d sl : Nat) : Fld :=
  mkFld (0x2000018 + d * 0x10000000 + sl * 0x10000) 63 1 .rw1c .die 0x0 (.any)

/-- L3_ERR_IRQ bits [15:0], reset 0x0 / die. -/
def Reg.L3_ERR_IRQ.AGENT (d sl : Nat) : Fld :=
  mkFld (0x2000020 + d * 0x10000000 + sl * 0x10000) 0 16 .rw .die 0x0 (.agent)

/-- L3_ERR_IRQ bits [21:16], reset 0x0 / die. -/
def Reg.L3_ERR_IRQ.VEC (d sl : Nat) : Fld :=
  mkFld (0x2000020 + d * 0x10000000 + sl * 0x10000) 16 6 .rw .die 0x0 (.any)

/-- L3_ERR_IRQ bits [22:22], reset 0x0 / die. -/
def Reg.L3_ERR_IRQ.EN (d sl : Nat) : Fld :=
  mkFld (0x2000020 + d * 0x10000000 + sl * 0x10000) 22 1 .rw .die 0x0 (.any)

/-- HC_MAINT_BANKS bits [63:0], reset 0x0 / warm. -/
def Reg.HC_MAINT_BANKS.BANKS : Fld :=
  mkFld (0xC1000000) 0 64 .rw .warm 0x0 (.any)

/-- HC_MAINT_CMD bits [1:0], reset 0x0 / warm. -/
def Reg.HC_MAINT_CMD.OP : Fld :=
  mkFld (0xC1000008) 0 2 .wo .warm 0x0 (.any)

/-- HC_STATUS bits [0:0], reset 0x0 / warm. -/
def Reg.HC_STATUS.MBUSY : Fld :=
  mkFld (0xC1000010) 0 1 .ro .warm 0x0 (.any)

/-- HC_ERR_CNT bits [31:0], reset 0x0 / warm. -/
def Reg.HC_ERR_CNT.CORR : Fld :=
  mkFld (0xC1000018) 0 32 .rc .warm 0x0 (.any)

/-- HC_ERR_CNT bits [63:32], reset 0x0 / warm. -/
def Reg.HC_ERR_CNT.UNCORR : Fld :=
  mkFld (0xC1000018) 32 32 .rc .warm 0x0 (.any)

/-- HC_ERR_LOG bits [51:0], reset 0x0 / warm. -/
def Reg.HC_ERR_LOG.ADDR : Fld :=
  mkFld (0xC1000020) 0 52 .ro .warm 0x0 (.any)

/-- HC_ERR_LOG bits [55:52], reset 0x0 / warm. -/
def Reg.HC_ERR_LOG.SRC : Fld :=
  mkFld (0xC1000020) 52 4 .ro .warm 0x0 (.any)

/-- HC_ERR_LOG bits [61:56], reset 0x0 / warm. -/
def Reg.HC_ERR_LOG.BANK : Fld :=
  mkFld (0xC1000020) 56 6 .ro .warm 0x0 (.any)

/-- HC_ERR_LOG bits [63:63], reset 0x0 / warm. -/
def Reg.HC_ERR_LOG.VALID : Fld :=
  mkFld (0xC1000020) 63 1 .rw1c .warm 0x0 (.any)

/-- HC_ERR_IRQ bits [15:0], reset 0x0 / warm. -/
def Reg.HC_ERR_IRQ.AGENT : Fld :=
  mkFld (0xC1000028) 0 16 .rw .warm 0x0 (.agent)

/-- HC_ERR_IRQ bits [21:16], reset 0x0 / warm. -/
def Reg.HC_ERR_IRQ.VEC : Fld :=
  mkFld (0xC1000028) 16 6 .rw .warm 0x0 (.any)

/-- HC_ERR_IRQ bits [22:22], reset 0x0 / warm. -/
def Reg.HC_ERR_IRQ.EN : Fld :=
  mkFld (0xC1000028) 22 1 .rw .warm 0x0 (.any)

/-- HC_RANGE_BASE bits [51:6], reset 0x0 / warm. -/
def Reg.HC_RANGE_BASE.ADDR : Fld :=
  mkFld (0xC1000100) 6 46 .rw .warm 0x0 (.any)

/-- HC_RANGE_LEN bits [39:0], reset 0x0 / warm. -/
def Reg.HC_RANGE_LEN.LINES : Fld :=
  mkFld (0xC1000108) 0 40 .rw .warm 0x0 (.any)

/-- HC_RANGE_CMD bits [1:0], reset 0x0 / warm. -/
def Reg.HC_RANGE_CMD.OP : Fld :=
  mkFld (0xC1000110) 0 2 .wo .warm 0x0 (.any)

/-- HC_RANGE_STATUS bits [0:0], reset 0x0 / warm. -/
def Reg.HC_RANGE_STATUS.BUSY : Fld :=
  mkFld (0xC1000118) 0 1 .ro .warm 0x0 (.any)

/-- HC_RANGE_STATUS bits [2:1], reset 0x0 / warm. -/
def Reg.HC_RANGE_STATUS.RESULT : Fld :=
  mkFld (0xC1000118) 1 2 .ro .warm 0x0 (.any)

/-- HC_RANGE_COUNT bits [31:0], reset 0x0 / warm. -/
def Reg.HC_RANGE_COUNT.SKIPPED : Fld :=
  mkFld (0xC1000120) 0 32 .ro .warm 0x0 (.any)

/-- HC_RANGE_COUNT bits [63:32], reset 0x0 / warm. -/
def Reg.HC_RANGE_COUNT.POISONED : Fld :=
  mkFld (0xC1000120) 32 32 .ro .warm 0x0 (.any)

/-- DIR_CAPS bits [7:0], reset 0x10 / none. -/
def Reg.DIR_CAPS.WAYS (sl : Nat) : Fld :=
  mkFld (0xC2000000 + sl * 0x10000) 0 8 .ro .never 0x10 (.any)

/-- DIR_CAPS bits [15:8], reset 0xF / none. -/
def Reg.DIR_CAPS.SETS_LOG2 (sl : Nat) : Fld :=
  mkFld (0xC2000000 + sl * 0x10000) 8 8 .ro .never 0xF (.any)

/-- DIR_CAPS bits [31:16], reset 0x200 / none. -/
def Reg.DIR_CAPS.TRACKERS (sl : Nat) : Fld :=
  mkFld (0xC2000000 + sl * 0x10000) 16 16 .ro .never 0x200 (.any)

/-- DIR_CAPS bits [47:32], reset 0x40 / none. -/
def Reg.DIR_CAPS.WBUF (sl : Nat) : Fld :=
  mkFld (0xC2000000 + sl * 0x10000) 32 16 .ro .never 0x40 (.any)

/-- DIR_CTRL bits [15:0], reset 0x32 / warm. -/
def Reg.DIR_CTRL.HOME_TIMEOUT (sl : Nat) : Fld :=
  mkFld (0xC2000008 + sl * 0x10000) 0 16 .rw .warm 0x32 (.range 1 65535)

/-- DIR_CTRL bits [31:16], reset 0x28 / warm. -/
def Reg.DIR_CTRL.FWD_TIMEOUT (sl : Nat) : Fld :=
  mkFld (0xC2000008 + sl * 0x10000) 16 16 .rw .warm 0x28 (.any)

/-- DIR_FENCE bits [11:0], reset 0x0 / die. -/
def Reg.DIR_FENCE.DIE (sl p : Nat) : Fld :=
  mkFld (0xC2000040 + sl * 0x10000 + p * 0x8) 0 12 .ro .die 0x0 (.any)

/-- DIR_FENCE bits [12:12], reset 0x0 / warm. -/
def Reg.DIR_FENCE.PKG (sl p : Nat) : Fld :=
  mkFld (0xC2000040 + sl * 0x10000 + p * 0x8) 12 1 .ro .warm 0x0 (.any)

/-- DIR_DEAD_ADDR bits [51:6], reset 0x0 / warm. -/
def Reg.DIR_DEAD_ADDR.ADDR (sl : Nat) : Fld :=
  mkFld (0xC2000080 + sl * 0x10000) 6 46 .ro .warm 0x0 (.any)

/-- DIR_DEAD_ADDR bits [63:63], reset 0x0 / warm. -/
def Reg.DIR_DEAD_ADDR.VALID (sl : Nat) : Fld :=
  mkFld (0xC2000080 + sl * 0x10000) 63 1 .rw1c .warm 0x0 (.any)

/-- DIR_DEAD_SRC bits [9:0], reset 0x0 / warm. -/
def Reg.DIR_DEAD_SRC.CLUSTER (sl : Nat) : Fld :=
  mkFld (0xC2000088 + sl * 0x10000) 0 10 .ro .warm 0x0 (.any)

/-- DIR_DEAD_SRC bits [10:10], reset 0x0 / warm. -/
def Reg.DIR_DEAD_SRC.TYPE (sl : Nat) : Fld :=
  mkFld (0xC2000088 + sl * 0x10000) 10 1 .ro .warm 0x0 (.any)

/-- DIR_DEAD_SRC bits [13:11], reset 0x0 / warm. -/
def Reg.DIR_DEAD_SRC.PKG (sl : Nat) : Fld :=
  mkFld (0xC2000088 + sl * 0x10000) 11 3 .ro .warm 0x0 (.any)

/-- DIR_DEAD_SRC bits [15:14], reset 0x0 / warm. -/
def Reg.DIR_DEAD_SRC.CAUSE (sl : Nat) : Fld :=
  mkFld (0xC2000088 + sl * 0x10000) 14 2 .ro .warm 0x0 (.any)

/-- DIR_DEAD_SRC bits [19:16], reset 0x0 / warm. -/
def Reg.DIR_DEAD_SRC.SLICE (sl : Nat) : Fld :=
  mkFld (0xC2000088 + sl * 0x10000) 16 4 .ro .warm 0x0 (.any)

/-- DIR_DEAD_SRC bits [63:32], reset 0x0 / warm. -/
def Reg.DIR_DEAD_SRC.COUNT (sl : Nat) : Fld :=
  mkFld (0xC2000088 + sl * 0x10000) 32 32 .rc .warm 0x0 (.any)

/-- DIR_DEAD_TIME bits [63:0], reset 0x0 / warm. -/
def Reg.DIR_DEAD_TIME.TIME (sl : Nat) : Fld :=
  mkFld (0xC2000090 + sl * 0x10000) 0 64 .ro .warm 0x0 (.any)

/-- DIR_IRQ bits [15:0], reset 0x0 / warm. -/
def Reg.DIR_IRQ.AGENT (sl : Nat) : Fld :=
  mkFld (0xC20000A0 + sl * 0x10000) 0 16 .rw .warm 0x0 (.agent)

/-- DIR_IRQ bits [21:16], reset 0x0 / warm. -/
def Reg.DIR_IRQ.VEC (sl : Nat) : Fld :=
  mkFld (0xC20000A0 + sl * 0x10000) 16 6 .rw .warm 0x0 (.any)

/-- DIR_IRQ bits [22:22], reset 0x0 / warm. -/
def Reg.DIR_IRQ.EN (sl : Nat) : Fld :=
  mkFld (0xC20000A0 + sl * 0x10000) 22 1 .rw .warm 0x0 (.any)

/-- DIR_CNT0 bits [31:0], reset 0x0 / warm. -/
def Reg.DIR_CNT0.OVF_BCAST (sl : Nat) : Fld :=
  mkFld (0xC2000100 + sl * 0x10000) 0 32 .rc .warm 0x0 (.any)

/-- DIR_CNT0 bits [63:32], reset 0x0 / warm. -/
def Reg.DIR_CNT0.VICTIM_INV (sl : Nat) : Fld :=
  mkFld (0xC2000100 + sl * 0x10000) 32 32 .rc .warm 0x0 (.any)

/-- DIR_CNT1 bits [31:0], reset 0x0 / warm. -/
def Reg.DIR_CNT1.RETRY (sl : Nat) : Fld :=
  mkFld (0xC2000108 + sl * 0x10000) 0 32 .rc .warm 0x0 (.any)

/-- DIR_CNT1 bits [63:32], reset 0x0 / warm. -/
def Reg.DIR_CNT1.LATE_WBK (sl : Nat) : Fld :=
  mkFld (0xC2000108 + sl * 0x10000) 32 32 .rc .warm 0x0 (.any)

/-- DIR_CNT2 bits [31:0], reset 0x0 / warm. -/
def Reg.DIR_CNT2.FENCED_DROP (sl : Nat) : Fld :=
  mkFld (0xC2000110 + sl * 0x10000) 0 32 .rc .warm 0x0 (.any)

/-- DIR_CNT2 bits [63:32], reset 0x0 / warm. -/
def Reg.DIR_CNT2.POISONED (sl : Nat) : Fld :=
  mkFld (0xC2000110 + sl * 0x10000) 32 32 .rc .warm 0x0 (.any)

/-- DIR_PROBE bits [51:6], reset 0x0 / warm. -/
def Reg.DIR_PROBE.ADDR (sl : Nat) : Fld :=
  mkFld (0xC2000180 + sl * 0x10000) 6 46 .wo .warm 0x0 (.any)

/-- DIR_PROBE_ENTRY bits [2:0], reset 0x0 / warm. -/
def Reg.DIR_PROBE_ENTRY.STATE (sl : Nat) : Fld :=
  mkFld (0xC2000188 + sl * 0x10000) 0 3 .ro .warm 0x0 (.any)

/-- DIR_PROBE_ENTRY bits [3:3], reset 0x0 / warm. -/
def Reg.DIR_PROBE_ENTRY.OVF (sl : Nat) : Fld :=
  mkFld (0xC2000188 + sl * 0x10000) 3 1 .ro .warm 0x0 (.any)

/-- DIR_PROBE_ENTRY bits [4:4], reset 0x0 / warm. -/
def Reg.DIR_PROBE_ENTRY.XPKG (sl : Nat) : Fld :=
  mkFld (0xC2000188 + sl * 0x10000) 4 1 .ro .warm 0x0 (.any)

/-- DIR_PROBE_ENTRY bits [5:5], reset 0x0 / warm. -/
def Reg.DIR_PROBE_ENTRY.OPEN (sl : Nat) : Fld :=
  mkFld (0xC2000188 + sl * 0x10000) 5 1 .ro .warm 0x0 (.any)

/-- DIR_PROBE_ENTRY bits [6:6], reset 0x0 / warm. -/
def Reg.DIR_PROBE_ENTRY.HIT (sl : Nat) : Fld :=
  mkFld (0xC2000188 + sl * 0x10000) 6 1 .ro .warm 0x0 (.any)

/-- DIR_PROBE_ENTRY bits [7:7], reset 0x0 / warm. -/
def Reg.DIR_PROBE_ENTRY.BAD (sl : Nat) : Fld :=
  mkFld (0xC2000188 + sl * 0x10000) 7 1 .ro .warm 0x0 (.any)

/-- DIR_PROBE_ENTRY bits [17:8], reset 0x3FF / warm. -/
def Reg.DIR_PROBE_ENTRY.PTR0 (sl : Nat) : Fld :=
  mkFld (0xC2000188 + sl * 0x10000) 8 10 .ro .warm 0x3FF (.any)

/-- DIR_PROBE_ENTRY bits [27:18], reset 0x3FF / warm. -/
def Reg.DIR_PROBE_ENTRY.PTR1 (sl : Nat) : Fld :=
  mkFld (0xC2000188 + sl * 0x10000) 18 10 .ro .warm 0x3FF (.any)

/-- DIR_PROBE_ENTRY bits [37:28], reset 0x3FF / warm. -/
def Reg.DIR_PROBE_ENTRY.PTR2 (sl : Nat) : Fld :=
  mkFld (0xC2000188 + sl * 0x10000) 28 10 .ro .warm 0x3FF (.any)

/-- DIR_PROBE_ENTRY bits [47:38], reset 0x3FF / warm. -/
def Reg.DIR_PROBE_ENTRY.PTR3 (sl : Nat) : Fld :=
  mkFld (0xC2000188 + sl * 0x10000) 38 10 .ro .warm 0x3FF (.any)

/-- DIR_PROBE_ENTRY bits [49:48], reset 0x0 / warm. -/
def Reg.DIR_PROBE_ENTRY.AGE (sl : Nat) : Fld :=
  mkFld (0xC2000188 + sl * 0x10000) 48 2 .ro .warm 0x0 (.any)

/-- MC_CAPS bits [7:0], reset 0x40 / none. -/
def Reg.MC_CAPS.RQ (ch : Nat) : Fld :=
  mkFld (0xC3000000 + ch * 0x10000) 0 8 .ro .never 0x40 (.any)

/-- MC_CAPS bits [15:8], reset 0x30 / none. -/
def Reg.MC_CAPS.WQ (ch : Nat) : Fld :=
  mkFld (0xC3000000 + ch * 0x10000) 8 8 .ro .never 0x30 (.any)

/-- MC_CAPS bits [23:16], reset 0x50 / none. -/
def Reg.MC_CAPS.LANES (ch : Nat) : Fld :=
  mkFld (0xC3000000 + ch * 0x10000) 16 8 .ro .never 0x50 (.any)

/-- MC_CAPS bits [27:24], reset 0x8 / none. -/
def Reg.MC_CAPS.RANKS (ch : Nat) : Fld :=
  mkFld (0xC3000000 + ch * 0x10000) 24 4 .ro .never 0x8 (.any)

/-- MC_CAPS bits [31:28], reset 0x8 / none. -/
def Reg.MC_CAPS.POSTPONE (ch : Nat) : Fld :=
  mkFld (0xC3000000 + ch * 0x10000) 28 4 .ro .never 0x8 (.any)

/-- MC_CFG bits [0:0], reset 0x0 / cold. -/
def Reg.MC_CFG.EN (ch : Nat) : Fld :=
  mkFld (0xC3000008 + ch * 0x10000) 0 1 .rwl .cold 0x0 (.any)

/-- MC_CFG bits [1:1], reset 0x0 / cold. -/
def Reg.MC_CFG.DIMMS (ch : Nat) : Fld :=
  mkFld (0xC3000008 + ch * 0x10000) 1 1 .rwl .cold 0x0 (.any)

/-- MC_CFG bits [2:2], reset 0x0 / cold. -/
def Reg.MC_CFG.RANKS (ch : Nat) : Fld :=
  mkFld (0xC3000008 + ch * 0x10000) 2 1 .rwl .cold 0x0 (.any)

/-- MC_CFG bits [3:3], reset 0x0 / cold. -/
def Reg.MC_CFG.STACK (ch : Nat) : Fld :=
  mkFld (0xC3000008 + ch * 0x10000) 3 1 .rwl .cold 0x0 (.any)

/-- MC_CFG bits [4:4], reset 0x0 / cold. -/
def Reg.MC_CFG.DENSITY (ch : Nat) : Fld :=
  mkFld (0xC3000008 + ch * 0x10000) 4 1 .rwl .cold 0x0 (.any)

/-- MC_CFG bits [8:8], reset 0x0 / cold. -/
def Reg.MC_CFG.LOCK (ch : Nat) : Fld :=
  mkFld (0xC3000008 + ch * 0x10000) 8 1 .rwl .cold 0x0 (.any)

/-- MC_CFG bits [9:9], reset 0x0 / cold. -/
def Reg.MC_CFG.BAD (ch : Nat) : Fld :=
  mkFld (0xC3000008 + ch * 0x10000) 9 1 .rw1c .cold 0x0 (.any)

/-- MC_STATUS bits [2:0], reset 0x0 / cold. -/
def Reg.MC_STATUS.STATE (ch : Nat) : Fld :=
  mkFld (0xC3000010 + ch * 0x10000) 0 3 .ro .cold 0x0 (.any)

/-- MC_STATUS bits [15:8], reset 0x0 / cold. -/
def Reg.MC_STATUS.CAP (ch : Nat) : Fld :=
  mkFld (0xC3000010 + ch * 0x10000) 8 8 .ro .cold 0x0 (.any)

/-- MC_STATUS bits [23:16], reset 0x0 / warm. -/
def Reg.MC_STATUS.RQ (ch : Nat) : Fld :=
  mkFld (0xC3000010 + ch * 0x10000) 16 8 .ro .warm 0x0 (.any)

/-- MC_STATUS bits [31:24], reset 0x0 / warm. -/
def Reg.MC_STATUS.WQ (ch : Nat) : Fld :=
  mkFld (0xC3000010 + ch * 0x10000) 24 8 .ro .warm 0x0 (.any)

/-- MC_STATUS bits [32:32], reset 0x0 / warm. -/
def Reg.MC_STATUS.DRAIN (ch : Nat) : Fld :=
  mkFld (0xC3000010 + ch * 0x10000) 32 1 .ro .warm 0x0 (.any)

/-- MC_TIMING0 bits [7:0], reset 0x0 / cold. -/
def Reg.MC_TIMING0.CL (ch : Nat) : Fld :=
  mkFld (0xC3000018 + ch * 0x10000) 0 8 .rwl .cold 0x0 (.any)

/-- MC_TIMING0 bits [15:8], reset 0x0 / cold. -/
def Reg.MC_TIMING0.CWL (ch : Nat) : Fld :=
  mkFld (0xC3000018 + ch * 0x10000) 8 8 .rwl .cold 0x0 (.any)

/-- MC_TIMING0 bits [23:16], reset 0x0 / cold. -/
def Reg.MC_TIMING0.RCD (ch : Nat) : Fld :=
  mkFld (0xC3000018 + ch * 0x10000) 16 8 .rwl .cold 0x0 (.any)

/-- MC_TIMING0 bits [31:24], reset 0x0 / cold. -/
def Reg.MC_TIMING0.RP (ch : Nat) : Fld :=
  mkFld (0xC3000018 + ch * 0x10000) 24 8 .rwl .cold 0x0 (.any)

/-- MC_TIMING0 bits [39:32], reset 0x0 / cold. -/
def Reg.MC_TIMING0.RAS (ch : Nat) : Fld :=
  mkFld (0xC3000018 + ch * 0x10000) 32 8 .rwl .cold 0x0 (.any)

/-- MC_TIMING0 bits [47:40], reset 0x0 / cold. -/
def Reg.MC_TIMING0.RC (ch : Nat) : Fld :=
  mkFld (0xC3000018 + ch * 0x10000) 40 8 .rwl .cold 0x0 (.any)

/-- MC_TIMING0 bits [55:48], reset 0x0 / cold. -/
def Reg.MC_TIMING0.WR (ch : Nat) : Fld :=
  mkFld (0xC3000018 + ch * 0x10000) 48 8 .rwl .cold 0x0 (.any)

/-- MC_TIMING0 bits [63:56], reset 0x0 / cold. -/
def Reg.MC_TIMING0.RTP (ch : Nat) : Fld :=
  mkFld (0xC3000018 + ch * 0x10000) 56 8 .rwl .cold 0x0 (.any)

/-- MC_TIMING1 bits [7:0], reset 0x0 / cold. -/
def Reg.MC_TIMING1.RRD_S (ch : Nat) : Fld :=
  mkFld (0xC3000020 + ch * 0x10000) 0 8 .rwl .cold 0x0 (.any)

/-- MC_TIMING1 bits [15:8], reset 0x0 / cold. -/
def Reg.MC_TIMING1.RRD_L (ch : Nat) : Fld :=
  mkFld (0xC3000020 + ch * 0x10000) 8 8 .rwl .cold 0x0 (.any)

/-- MC_TIMING1 bits [23:16], reset 0x0 / cold. -/
def Reg.MC_TIMING1.FAW (ch : Nat) : Fld :=
  mkFld (0xC3000020 + ch * 0x10000) 16 8 .rwl .cold 0x0 (.any)

/-- MC_TIMING1 bits [31:24], reset 0x0 / cold. -/
def Reg.MC_TIMING1.CCD_L (ch : Nat) : Fld :=
  mkFld (0xC3000020 + ch * 0x10000) 24 8 .rwl .cold 0x0 (.any)

/-- MC_TIMING1 bits [39:32], reset 0x0 / cold. -/
def Reg.MC_TIMING1.WTR_S (ch : Nat) : Fld :=
  mkFld (0xC3000020 + ch * 0x10000) 32 8 .rwl .cold 0x0 (.any)

/-- MC_TIMING1 bits [47:40], reset 0x0 / cold. -/
def Reg.MC_TIMING1.WTR_L (ch : Nat) : Fld :=
  mkFld (0xC3000020 + ch * 0x10000) 40 8 .rwl .cold 0x0 (.any)

/-- MC_TIMING1 bits [58:48], reset 0x0 / cold. -/
def Reg.MC_TIMING1.RFC (ch : Nat) : Fld :=
  mkFld (0xC3000020 + ch * 0x10000) 48 11 .rwl .cold 0x0 (.any)

/-- MC_SCHED bits [15:0], reset 0x800 / cold. -/
def Reg.MC_SCHED.AGE_CAP (ch : Nat) : Fld :=
  mkFld (0xC3000028 + ch * 0x10000) 0 16 .rw .cold 0x800 (.any)

/-- MC_SCHED bits [21:16], reset 0x28 / cold. -/
def Reg.MC_SCHED.WQ_HI (ch : Nat) : Fld :=
  mkFld (0xC3000028 + ch * 0x10000) 16 6 .rw .cold 0x28 (.any)

/-- MC_SCHED bits [29:24], reset 0x10 / cold. -/
def Reg.MC_SCHED.WQ_LO (ch : Nat) : Fld :=
  mkFld (0xC3000028 + ch * 0x10000) 24 6 .rw .cold 0x10 (.any)

/-- MC_SCHED bits [47:32], reset 0x100 / cold. -/
def Reg.MC_SCHED.CLOSE_IDLE (ch : Nat) : Fld :=
  mkFld (0xC3000028 + ch * 0x10000) 32 16 .rw .cold 0x100 (.any)

/-- MC_REF_CTRL bits [0:0], reset 0x0 / cold. -/
def Reg.MC_REF_CTRL.MODE (ch : Nat) : Fld :=
  mkFld (0xC3000030 + ch * 0x10000) 0 1 .rw .cold 0x0 (.any)

/-- MC_REF_CTRL bits [31:16], reset 0xF3C / cold. -/
def Reg.MC_REF_CTRL.TREFI (ch : Nat) : Fld :=
  mkFld (0xC3000030 + ch * 0x10000) 16 16 .rw .cold 0xF3C (.any)

/-- MC_REF_CTRL bits [39:32], reset 0x20 / cold. -/
def Reg.MC_REF_CTRL.MR4_MS (ch : Nat) : Fld :=
  mkFld (0xC3000030 + ch * 0x10000) 32 8 .rw .cold 0x20 (.range 1 255)

/-- MC_REF_POSTPONE_MAX bits [3:0], reset 0x4 / cold. -/
def Reg.MC_REF_POSTPONE_MAX.MAX (ch : Nat) : Fld :=
  mkFld (0xC3000038 + ch * 0x10000) 0 4 .rw .cold 0x4 (.range 0 8)

/-- MC_REF_STATUS bits [31:0], reset 0x0 / warm. -/
def Reg.MC_REF_STATUS.OWED (ch : Nat) : Fld :=
  mkFld (0xC3000040 + ch * 0x10000) 0 32 .ro .warm 0x0 (.any)

/-- MC_REF_STATUS bits [47:32], reset 0x0 / warm. -/
def Reg.MC_REF_STATUS.BURSTS (ch : Nat) : Fld :=
  mkFld (0xC3000040 + ch * 0x10000) 32 16 .rc .warm 0x0 (.any)

/-- MC_REF_STATUS bits [63:48], reset 0x0 / warm. -/
def Reg.MC_REF_STATUS.FORCED (ch : Nat) : Fld :=
  mkFld (0xC3000040 + ch * 0x10000) 48 16 .rc .warm 0x0 (.any)

/-- MC_PWR bits [15:0], reset 0x0 / cold. -/
def Reg.MC_PWR.SR_IDLE (ch : Nat) : Fld :=
  mkFld (0xC3000048 + ch * 0x10000) 0 16 .rw .cold 0x0 (.any)

/-- MC_CMD bits [0:0], reset 0x0 / warm. -/
def Reg.MC_CMD.INIT (ch : Nat) : Fld :=
  mkFld (0xC3000050 + ch * 0x10000) 0 1 .wo .warm 0x0 (.any)

/-- MC_CMD bits [1:1], reset 0x0 / warm. -/
def Reg.MC_CMD.READY (ch : Nat) : Fld :=
  mkFld (0xC3000050 + ch * 0x10000) 1 1 .wo .warm 0x0 (.any)

/-- MC_CMD bits [2:2], reset 0x0 / warm. -/
def Reg.MC_CMD.SR_ENTER (ch : Nat) : Fld :=
  mkFld (0xC3000050 + ch * 0x10000) 2 1 .wo .warm 0x0 (.any)

/-- MC_CMD bits [3:3], reset 0x0 / warm. -/
def Reg.MC_CMD.SR_EXIT (ch : Nat) : Fld :=
  mkFld (0xC3000050 + ch * 0x10000) 3 1 .wo .warm 0x0 (.any)

/-- MC_SR_STATUS bits [0:0], reset 0x0 / cold. -/
def Reg.MC_SR_STATUS.FAIL (ch : Nat) : Fld :=
  mkFld (0xC3000058 + ch * 0x10000) 0 1 .rw1c .cold 0x0 (.any)

/-- MC_SR_STATUS bits [2:1], reset 0x0 / cold. -/
def Reg.MC_SR_STATUS.STEP (ch : Nat) : Fld :=
  mkFld (0xC3000058 + ch * 0x10000) 1 2 .ro .cold 0x0 (.any)

/-- MC_SR_STATUS bits [3:3], reset 0x0 / cold. -/
def Reg.MC_SR_STATUS.DIR (ch : Nat) : Fld :=
  mkFld (0xC3000058 + ch * 0x10000) 3 1 .ro .cold 0x0 (.any)

/-- MC_SR_STATUS bits [63:32], reset 0x0 / cold. -/
def Reg.MC_SR_STATUS.ENTRIES (ch : Nat) : Fld :=
  mkFld (0xC3000058 + ch * 0x10000) 32 32 .rc .cold 0x0 (.any)

/-- MC_MR_CMD bits [2:0], reset 0x0 / warm. -/
def Reg.MC_MR_CMD.OP (ch : Nat) : Fld :=
  mkFld (0xC3000060 + ch * 0x10000) 0 3 .wo .warm 0x0 (.any)

/-- MC_MR_CMD bits [5:3], reset 0x0 / warm. -/
def Reg.MC_MR_CMD.RANK (ch : Nat) : Fld :=
  mkFld (0xC3000060 + ch * 0x10000) 3 3 .wo .warm 0x0 (.any)

/-- MC_MR_CMD bits [6:6], reset 0x0 / warm. -/
def Reg.MC_MR_CMD.SUBCH (ch : Nat) : Fld :=
  mkFld (0xC3000060 + ch * 0x10000) 6 1 .wo .warm 0x0 (.any)

/-- MC_MR_CMD bits [15:8], reset 0x0 / warm. -/
def Reg.MC_MR_CMD.ADDR (ch : Nat) : Fld :=
  mkFld (0xC3000060 + ch * 0x10000) 8 8 .wo .warm 0x0 (.any)

/-- MC_MR_CMD bits [23:16], reset 0x0 / warm. -/
def Reg.MC_MR_CMD.DATA (ch : Nat) : Fld :=
  mkFld (0xC3000060 + ch * 0x10000) 16 8 .wo .warm 0x0 (.any)

/-- MC_MR_RESULT0 bits [63:0], reset 0x0 / warm. -/
def Reg.MC_MR_RESULT0.DEV (ch : Nat) : Fld :=
  mkFld (0xC3000068 + ch * 0x10000) 0 64 .ro .warm 0x0 (.any)

/-- MC_MR_RESULT1 bits [15:0], reset 0x0 / warm. -/
def Reg.MC_MR_RESULT1.DEV (ch : Nat) : Fld :=
  mkFld (0xC3000070 + ch * 0x10000) 0 16 .ro .warm 0x0 (.any)

/-- MC_MR_RESULT1 bits [63:63], reset 0x0 / warm. -/
def Reg.MC_MR_RESULT1.BUSY (ch : Nat) : Fld :=
  mkFld (0xC3000070 + ch * 0x10000) 63 1 .ro .warm 0x0 (.any)

/-- MC_ALERT bits [15:0], reset 0x0 / warm. -/
def Reg.MC_ALERT.COUNT (ch : Nat) : Fld :=
  mkFld (0xC3000078 + ch * 0x10000) 0 16 .rc .warm 0x0 (.any)

/-- MC_ALERT bits [23:16], reset 0x8 / cold. -/
def Reg.MC_ALERT.LIMIT (ch : Nat) : Fld :=
  mkFld (0xC3000078 + ch * 0x10000) 16 8 .rw .cold 0x8 (.any)

/-- MC_IRQ bits [15:0], reset 0x0 / warm. -/
def Reg.MC_IRQ.AGENT (ch : Nat) : Fld :=
  mkFld (0xC3000080 + ch * 0x10000) 0 16 .rw .warm 0x0 (.agent)

/-- MC_IRQ bits [21:16], reset 0x0 / warm. -/
def Reg.MC_IRQ.VEC (ch : Nat) : Fld :=
  mkFld (0xC3000080 + ch * 0x10000) 16 6 .rw .warm 0x0 (.any)

/-- MC_IRQ bits [22:22], reset 0x0 / warm. -/
def Reg.MC_IRQ.EN (ch : Nat) : Fld :=
  mkFld (0xC3000080 + ch * 0x10000) 22 1 .rw .warm 0x0 (.any)

/-- MC_ERR_CNT bits [31:0], reset 0x0 / warm. -/
def Reg.MC_ERR_CNT.RD (ch : Nat) : Fld :=
  mkFld (0xC3000088 + ch * 0x10000) 0 32 .rc .warm 0x0 (.any)

/-- MC_ERR_CNT bits [63:32], reset 0x0 / warm. -/
def Reg.MC_ERR_CNT.WR (ch : Nat) : Fld :=
  mkFld (0xC3000088 + ch * 0x10000) 32 32 .rc .warm 0x0 (.any)

/-- MC_TRN_CTRL bits [2:0], reset 0x0 / warm. -/
def Reg.MC_TRN_CTRL.OP (ch : Nat) : Fld :=
  mkFld (0xC3000100 + ch * 0x10000) 0 3 .rw .warm 0x0 (.range 0 4)

/-- MC_TRN_CTRL bits [5:3], reset 0x0 / warm. -/
def Reg.MC_TRN_CTRL.RANK (ch : Nat) : Fld :=
  mkFld (0xC3000100 + ch * 0x10000) 3 3 .rw .warm 0x0 (.any)

/-- MC_TRN_CTRL bits [7:6], reset 0x0 / warm. -/
def Reg.MC_TRN_CTRL.SUBCH (ch : Nat) : Fld :=
  mkFld (0xC3000100 + ch * 0x10000) 6 2 .rw .warm 0x0 (.range 0 2)

/-- MC_TRN_CTRL bits [23:8], reset 0x1 / warm. -/
def Reg.MC_TRN_CTRL.BURSTS (ch : Nat) : Fld :=
  mkFld (0xC3000100 + ch * 0x10000) 8 16 .rw .warm 0x1 (.range 1 65535)

/-- MC_TRN_CTRL bits [63:63], reset 0x0 / warm. -/
def Reg.MC_TRN_CTRL.GO (ch : Nat) : Fld :=
  mkFld (0xC3000100 + ch * 0x10000) 63 1 .wo .warm 0x0 (.any)

/-- MC_TRN_ADDR bits [39:6], reset 0x0 / warm. -/
def Reg.MC_TRN_ADDR.ADDR (ch : Nat) : Fld :=
  mkFld (0xC3000108 + ch * 0x10000) 6 34 .rw .warm 0x0 (.any)

/-- MC_TRN_PAT bits [1:0], reset 0x0 / warm. -/
def Reg.MC_TRN_PAT.KIND (ch : Nat) : Fld :=
  mkFld (0xC3000110 + ch * 0x10000) 0 2 .rw .warm 0x0 (.any)

/-- MC_TRN_PAT bits [2:2], reset 0x0 / warm. -/
def Reg.MC_TRN_PAT.INV (ch : Nat) : Fld :=
  mkFld (0xC3000110 + ch * 0x10000) 2 1 .rw .warm 0x0 (.any)

/-- MC_TRN_PAT bits [63:32], reset 0x0 / warm. -/
def Reg.MC_TRN_PAT.SEED (ch : Nat) : Fld :=
  mkFld (0xC3000110 + ch * 0x10000) 32 32 .rw .warm 0x0 (.any)

/-- MC_TRN_SWEEP bits [2:0], reset 0x0 / warm. -/
def Reg.MC_TRN_SWEEP.TARGET (ch : Nat) : Fld :=
  mkFld (0xC3000118 + ch * 0x10000) 0 3 .rw .warm 0x0 (.range 0 5)

/-- MC_TRN_SWEEP bits [17:8], reset 0x0 / warm. -/
def Reg.MC_TRN_SWEEP.START (ch : Nat) : Fld :=
  mkFld (0xC3000118 + ch * 0x10000) 8 10 .rw .warm 0x0 (.any)

/-- MC_TRN_SWEEP bits [33:24], reset 0x3FF / warm. -/
def Reg.MC_TRN_SWEEP.STOP (ch : Nat) : Fld :=
  mkFld (0xC3000118 + ch * 0x10000) 24 10 .rw .warm 0x3FF (.any)

/-- MC_TRN_SWEEP bits [47:40], reset 0x1 / warm. -/
def Reg.MC_TRN_SWEEP.STEP (ch : Nat) : Fld :=
  mkFld (0xC3000118 + ch * 0x10000) 40 8 .rw .warm 0x1 (.range 1 255)

/-- MC_TRN_STATUS bits [0:0], reset 0x0 / warm. -/
def Reg.MC_TRN_STATUS.BUSY (ch : Nat) : Fld :=
  mkFld (0xC3000120 + ch * 0x10000) 0 1 .ro .warm 0x0 (.any)

/-- MC_TRN_STATUS bits [1:1], reset 0x0 / warm. -/
def Reg.MC_TRN_STATUS.DONE (ch : Nat) : Fld :=
  mkFld (0xC3000120 + ch * 0x10000) 1 1 .rw1c .warm 0x0 (.any)

/-- MC_TRN_STATUS bits [2:2], reset 0x0 / warm. -/
def Reg.MC_TRN_STATUS.REFUSED (ch : Nat) : Fld :=
  mkFld (0xC3000120 + ch * 0x10000) 2 1 .rw1c .warm 0x0 (.any)

/-- MC_TRN_STATUS bits [3:3], reset 0x0 / warm. -/
def Reg.MC_TRN_STATUS.ERR (ch : Nat) : Fld :=
  mkFld (0xC3000120 + ch * 0x10000) 3 1 .ro .warm 0x0 (.any)

/-- MC_TRN_ERR0 bits [63:0], reset 0x0 / warm. -/
def Reg.MC_TRN_ERR0.LANE (ch : Nat) : Fld :=
  mkFld (0xC3000128 + ch * 0x10000) 0 64 .rw1c .warm 0x0 (.any)

/-- MC_TRN_ERR1 bits [15:0], reset 0x0 / warm. -/
def Reg.MC_TRN_ERR1.LANE (ch : Nat) : Fld :=
  mkFld (0xC3000130 + ch * 0x10000) 0 16 .rw1c .warm 0x0 (.any)

/-- MC_TRN_RESULT bits [9:0], reset 0x0 / warm. -/
def Reg.MC_TRN_RESULT.FIRST (ch k : Nat) : Fld :=
  mkFld (0xC3000200 + ch * 0x10000 + k * 0x8) 0 10 .ro .warm 0x0 (.any)

/-- MC_TRN_RESULT bits [25:16], reset 0x0 / warm. -/
def Reg.MC_TRN_RESULT.LAST (ch k : Nat) : Fld :=
  mkFld (0xC3000200 + ch * 0x10000 + k * 0x8) 16 10 .ro .warm 0x0 (.any)

/-- MC_TRN_RESULT bits [31:31], reset 0x0 / warm. -/
def Reg.MC_TRN_RESULT.FOUND (ch k : Nat) : Fld :=
  mkFld (0xC3000200 + ch * 0x10000 + k * 0x8) 31 1 .ro .warm 0x0 (.any)

/-- MC_TRN_RESULT bits [63:32], reset 0x0 / warm. -/
def Reg.MC_TRN_RESULT.ERRS (ch k : Nat) : Fld :=
  mkFld (0xC3000200 + ch * 0x10000 + k * 0x8) 32 32 .ro .warm 0x0 (.any)

/-- MC_DLY_CA bits [9:0], reset 0x0 / cold. -/
def Reg.MC_DLY_CA.DLY (ch j : Nat) : Fld :=
  mkFld (0xC3000600 + ch * 0x10000 + j * 0x8) 0 10 .rw .cold 0x0 (.any)

/-- MC_DLY bits [9:0], reset 0x0 / cold. -/
def Reg.MC_DLY.WR (ch r k : Nat) : Fld :=
  mkFld (0xC3001000 + ch * 0x10000 + r * 0x280 + k * 0x8) 0 10 .rw .cold 0x0 (.any)

/-- MC_DLY bits [25:16], reset 0x0 / cold. -/
def Reg.MC_DLY.RD (ch r k : Nat) : Fld :=
  mkFld (0xC3001000 + ch * 0x10000 + r * 0x280 + k * 0x8) 16 10 .rw .cold 0x0 (.any)

/-- MC_DLY bits [41:32], reset 0x0 / cold. -/
def Reg.MC_DLY.RCVEN (ch r k : Nat) : Fld :=
  mkFld (0xC3001000 + ch * 0x10000 + r * 0x280 + k * 0x8) 32 10 .rw .cold 0x0 (.any)

/-- MC_DLY bits [55:48], reset 0x50 / cold. -/
def Reg.MC_DLY.VREF (ch r k : Nat) : Fld :=
  mkFld (0xC3001000 + ch * 0x10000 + r * 0x280 + k * 0x8) 48 8 .rw .cold 0x50 (.any)

/-- PG_CAPS bits [7:0], reset 0x10 / none. -/
def Reg.PG_CAPS.REGIONS : Fld :=
  mkFld (0xC4000000) 0 8 .ro .never 0x10 (.any)

/-- PG_CAPS bits [23:8], reset 0x4000 / none. -/
def Reg.PG_CAPS.CHECK_LINES : Fld :=
  mkFld (0xC4000000) 8 16 .ro .never 0x4000 (.any)

/-- PG_CAPS bits [31:24], reset 0x40 / none. -/
def Reg.PG_CAPS.BLOCK_BUF : Fld :=
  mkFld (0xC4000000) 24 8 .ro .never 0x40 (.any)

/-- PG_CTRL bits [0:0], reset 0x0 / cold. -/
def Reg.PG_CTRL.LOCK : Fld :=
  mkFld (0xC4000008) 0 1 .rwl .cold 0x0 (.any)

/-- PG_CTRL bits [1:1], reset 0x0 / cold. -/
def Reg.PG_CTRL.BAD : Fld :=
  mkFld (0xC4000008) 1 1 .rw1c .cold 0x0 (.any)

/-- PG_RGN bits [13:0], reset 0x0 / cold. -/
def Reg.PG_RGN.BASE (n : Nat) : Fld :=
  mkFld (0xC4000040 + n * 0x8) 0 14 .rwl .cold 0x0 (.any)

/-- PG_RGN bits [29:16], reset 0x0 / cold. -/
def Reg.PG_RGN.SIZE (n : Nat) : Fld :=
  mkFld (0xC4000040 + n * 0x8) 16 14 .rwl .cold 0x0 (.any)

/-- PG_RGN bits [33:32], reset 0x0 / cold. -/
def Reg.PG_RGN.T (n : Nat) : Fld :=
  mkFld (0xC4000040 + n * 0x8) 32 2 .rwl .cold 0x0 (.any)

/-- PG_RGN bits [63:63], reset 0x0 / cold. -/
def Reg.PG_RGN.EN (n : Nat) : Fld :=
  mkFld (0xC4000040 + n * 0x8) 63 1 .rwl .cold 0x0 (.any)

/-- PG_SCRUB_BASE bits [51:12], reset 0x0 / warm. -/
def Reg.PG_SCRUB_BASE.ADDR : Fld :=
  mkFld (0xC4000100) 12 40 .rw .warm 0x0 (.any)

/-- PG_SCRUB_LEN bits [31:0], reset 0x0 / warm. -/
def Reg.PG_SCRUB_LEN.PAGES : Fld :=
  mkFld (0xC4000108) 0 32 .rw .warm 0x0 (.any)

/-- PG_SCRUB_CMD bits [1:0], reset 0x0 / warm. -/
def Reg.PG_SCRUB_CMD.OP : Fld :=
  mkFld (0xC4000110) 0 2 .wo .warm 0x0 (.any)

/-- PG_SCRUB_CMD bits [2:2], reset 0x0 / warm. -/
def Reg.PG_SCRUB_CMD.ABORT : Fld :=
  mkFld (0xC4000110) 2 1 .wo .warm 0x0 (.any)

/-- PG_SCRUB_CTRL bits [15:0], reset 0x0 / warm. -/
def Reg.PG_SCRUB_CTRL.PACE : Fld :=
  mkFld (0xC4000118) 0 16 .rw .warm 0x0 (.any)

/-- PG_SCRUB_STATUS bits [0:0], reset 0x0 / warm. -/
def Reg.PG_SCRUB_STATUS.BUSY : Fld :=
  mkFld (0xC4000120) 0 1 .ro .warm 0x0 (.any)

/-- PG_SCRUB_STATUS bits [3:1], reset 0x0 / warm. -/
def Reg.PG_SCRUB_STATUS.RESULT : Fld :=
  mkFld (0xC4000120) 1 3 .ro .warm 0x0 (.any)

/-- PG_SCRUB_BYTES bits [63:0], reset 0x0 / warm. -/
def Reg.PG_SCRUB_BYTES.BYTES : Fld :=
  mkFld (0xC4000128) 0 64 .ro .warm 0x0 (.any)

/-- PG_SCRUB_CORR bits [31:0], reset 0x0 / warm. -/
def Reg.PG_SCRUB_CORR.SYMBOLS : Fld :=
  mkFld (0xC4000130) 0 32 .ro .warm 0x0 (.any)

/-- PG_SCRUB_CORR bits [63:32], reset 0x0 / warm. -/
def Reg.PG_SCRUB_CORR.UNCORR_PAGES : Fld :=
  mkFld (0xC4000130) 32 32 .ro .warm 0x0 (.any)

/-- PG_SCRUB_FIRST bits [51:0], reset 0x0 / warm. -/
def Reg.PG_SCRUB_FIRST.ADDR : Fld :=
  mkFld (0xC4000138) 0 52 .ro .warm 0x0 (.any)

/-- PG_SCRUB_FIRST bits [63:63], reset 0x0 / warm. -/
def Reg.PG_SCRUB_FIRST.VALID : Fld :=
  mkFld (0xC4000138) 63 1 .ro .warm 0x0 (.any)

/-- PG_ERR_CNT0 bits [31:0], reset 0x0 / warm. -/
def Reg.PG_ERR_CNT0.CORR_LINES : Fld :=
  mkFld (0xC4000180) 0 32 .rc .warm 0x0 (.any)

/-- PG_ERR_CNT0 bits [63:32], reset 0x0 / warm. -/
def Reg.PG_ERR_CNT0.UNCORR_LINES : Fld :=
  mkFld (0xC4000180) 32 32 .rc .warm 0x0 (.any)

/-- PG_ERR_CNT1 bits [31:0], reset 0x0 / warm. -/
def Reg.PG_ERR_CNT1.REBUILD : Fld :=
  mkFld (0xC4000188) 0 32 .rc .warm 0x0 (.any)

/-- PG_ERR_CNT1 bits [63:32], reset 0x0 / warm. -/
def Reg.PG_ERR_CNT1.CARVE : Fld :=
  mkFld (0xC4000188) 32 32 .rc .warm 0x0 (.any)

/-- PG_ERR_LOG bits [51:6], reset 0x0 / warm. -/
def Reg.PG_ERR_LOG.ADDR : Fld :=
  mkFld (0xC4000190) 6 46 .ro .warm 0x0 (.any)

/-- PG_ERR_LOG bits [56:52], reset 0x0 / warm. -/
def Reg.PG_ERR_LOG.CH : Fld :=
  mkFld (0xC4000190) 52 5 .ro .warm 0x0 (.any)

/-- PG_ERR_LOG bits [59:57], reset 0x0 / warm. -/
def Reg.PG_ERR_LOG.KIND : Fld :=
  mkFld (0xC4000190) 57 3 .ro .warm 0x0 (.any)

/-- PG_ERR_LOG bits [63:63], reset 0x0 / warm. -/
def Reg.PG_ERR_LOG.VALID : Fld :=
  mkFld (0xC4000190) 63 1 .rw1c .warm 0x0 (.any)

/-- PG_ERR_LOG1 bits [15:0], reset 0x0 / warm. -/
def Reg.PG_ERR_LOG1.SYMBOLS : Fld :=
  mkFld (0xC4000198) 0 16 .ro .warm 0x0 (.any)

/-- PG_ERR_LOG1 bits [31:16], reset 0x0 / warm. -/
def Reg.PG_ERR_LOG1.ERASED : Fld :=
  mkFld (0xC4000198) 16 16 .ro .warm 0x0 (.any)

/-- PG_ERR_IRQ bits [15:0], reset 0x0 / warm. -/
def Reg.PG_ERR_IRQ.AGENT : Fld :=
  mkFld (0xC40001A0) 0 16 .rw .warm 0x0 (.agent)

/-- PG_ERR_IRQ bits [21:16], reset 0x0 / warm. -/
def Reg.PG_ERR_IRQ.VEC : Fld :=
  mkFld (0xC40001A0) 16 6 .rw .warm 0x0 (.any)

/-- PG_ERR_IRQ bits [22:22], reset 0x0 / warm. -/
def Reg.PG_ERR_IRQ.EN : Fld :=
  mkFld (0xC40001A0) 22 1 .rw .warm 0x0 (.any)

/-- PG_ERR_IRQ bits [23:23], reset 0x0 / warm. -/
def Reg.PG_ERR_IRQ.UNCORR_ONLY : Fld :=
  mkFld (0xC40001A0) 23 1 .rw .warm 0x0 (.any)

/-- PG_FLIP_MASK bits [39:0], reset 0x0 / warm. -/
def Reg.PG_FLIP_MASK.LANES : Fld :=
  mkFld (0xC4000200) 0 40 .rw .warm 0x0 (.any)

/-- PG_FLIP_MASK bits [55:40], reset 0x0 / warm. -/
def Reg.PG_FLIP_MASK.BEATS : Fld :=
  mkFld (0xC4000200) 40 16 .rw .warm 0x0 (.any)

/-- PG_FLIP_MASK bits [60:56], reset 0x0 / warm. -/
def Reg.PG_FLIP_MASK.CH : Fld :=
  mkFld (0xC4000200) 56 5 .rw .warm 0x0 (.range 0 23)

/-- PG_FLIP_MASK bits [61:61], reset 0x0 / warm. -/
def Reg.PG_FLIP_MASK.TARGET : Fld :=
  mkFld (0xC4000200) 61 1 .rw .warm 0x0 (.any)

/-- PG_FLIP_MASK bits [63:63], reset 0x0 / warm. -/
def Reg.PG_FLIP_MASK.ARM : Fld :=
  mkFld (0xC4000200) 63 1 .rw .warm 0x0 (.any)

/-- PG_FLIP_STATUS bits [51:6], reset 0x0 / warm. -/
def Reg.PG_FLIP_STATUS.ADDR : Fld :=
  mkFld (0xC4000208) 6 46 .ro .warm 0x0 (.any)

/-- PG_FLIP_STATUS bits [63:63], reset 0x0 / warm. -/
def Reg.PG_FLIP_STATUS.FIRED : Fld :=
  mkFld (0xC4000208) 63 1 .rw1c .warm 0x0 (.any)

/-- YRW_CTRL bits [0:0], reset 0x0 / warm. -/
def Reg.YRW_CTRL.EN1 : Fld :=
  mkFld (0xC4800000) 0 1 .rw .warm 0x0 (.any)

/-- YRW_CTRL bits [1:1], reset 0x0 / warm. -/
def Reg.YRW_CTRL.EN2 : Fld :=
  mkFld (0xC4800000) 1 1 .rw .warm 0x0 (.any)

/-- YRW_CTRL bits [2:2], reset 0x0 / warm. -/
def Reg.YRW_CTRL.EN3 : Fld :=
  mkFld (0xC4800000) 2 1 .rw .warm 0x0 (.any)

/-- YRW_CNT0 bits [31:0], reset 0x0 / warm. -/
def Reg.YRW_CNT0.Y1_COMP : Fld :=
  mkFld (0xC4800008) 0 32 .rc .warm 0x0 (.any)

/-- YRW_CNT0 bits [63:32], reset 0x0 / warm. -/
def Reg.YRW_CNT0.Y1_RAW : Fld :=
  mkFld (0xC4800008) 32 32 .rc .warm 0x0 (.any)

/-- YRW_CNT1 bits [31:0], reset 0x0 / warm. -/
def Reg.YRW_CNT1.PACKED : Fld :=
  mkFld (0xC4800010) 0 32 .rc .warm 0x0 (.any)

/-- YRW_CNT1 bits [63:32], reset 0x0 / warm. -/
def Reg.YRW_CNT1.SHRINK : Fld :=
  mkFld (0xC4800010) 32 32 .rc .warm 0x0 (.any)

/-- YRW_CNT2 bits [31:0], reset 0x0 / warm. -/
def Reg.YRW_CNT2.BUF_HIT : Fld :=
  mkFld (0xC4800018) 0 32 .rc .warm 0x0 (.any)

/-- YRW_CNT2 bits [63:32], reset 0x0 / warm. -/
def Reg.YRW_CNT2.TAG_BAD : Fld :=
  mkFld (0xC4800018) 32 32 .rc .warm 0x0 (.any)

/-- SPK_CTRL bits [0:0], reset 0x0 / warm. -/
def Reg.SPK_CTRL.RETRAIN (pt : Nat) : Fld :=
  mkFld (0xC5000000 + pt * 0x10000) 0 1 .wo .warm 0x0 (.any)

/-- SPK_CTRL bits [15:8], reset 0x10 / warm. -/
def Reg.SPK_CTRL.THRESH_COUNT (pt : Nat) : Fld :=
  mkFld (0xC5000000 + pt * 0x10000) 8 8 .rw .warm 0x10 (.range 1 255)

/-- SPK_CTRL bits [31:16], reset 0x64 / warm. -/
def Reg.SPK_CTRL.THRESH_WINDOW (pt : Nat) : Fld :=
  mkFld (0xC5000000 + pt * 0x10000) 16 16 .rw .warm 0x64 (.range 1 65535)

/-- SPK_STATUS bits [2:0], reset 0x0 / warm. -/
def Reg.SPK_STATUS.STATE (pt : Nat) : Fld :=
  mkFld (0xC5000008 + pt * 0x10000) 0 3 .ro .warm 0x0 (.any)

/-- SPK_STATUS bits [3:3], reset 0x0 / warm. -/
def Reg.SPK_STATUS.HALF (pt : Nat) : Fld :=
  mkFld (0xC5000008 + pt * 0x10000) 3 1 .ro .warm 0x0 (.any)

/-- SPK_STATUS bits [4:4], reset 0x0 / warm. -/
def Reg.SPK_STATUS.DEGRADED (pt : Nat) : Fld :=
  mkFld (0xC5000008 + pt * 0x10000) 4 1 .ro .warm 0x0 (.any)

/-- SPK_STATUS bits [7:5], reset 0x0 / warm. -/
def Reg.SPK_STATUS.FENCE_CAUSE (pt : Nat) : Fld :=
  mkFld (0xC5000008 + pt * 0x10000) 5 3 .ro .warm 0x0 (.any)

/-- SPK_STATUS bits [9:8], reset 0x0 / warm. -/
def Reg.SPK_STATUS.DISAGREE (pt : Nat) : Fld :=
  mkFld (0xC5000008 + pt * 0x10000) 8 2 .ro .warm 0x0 (.any)

/-- SPK_STATUS bits [18:10], reset 0x0 / warm. -/
def Reg.SPK_STATUS.BAD_UP (pt : Nat) : Fld :=
  mkFld (0xC5000008 + pt * 0x10000) 10 9 .ro .warm 0x0 (.any)

/-- SPK_STATUS bits [27:19], reset 0x0 / warm. -/
def Reg.SPK_STATUS.BAD_DN (pt : Nat) : Fld :=
  mkFld (0xC5000008 + pt * 0x10000) 19 9 .ro .warm 0x0 (.any)

/-- SPK_ERR_CNT bits [31:0], reset 0x0 / warm. -/
def Reg.SPK_ERR_CNT.CORR_SYMBOLS (pt : Nat) : Fld :=
  mkFld (0xC5000010 + pt * 0x10000) 0 32 .rc .warm 0x0 (.any)

/-- SPK_ERR_CNT bits [63:32], reset 0x0 / warm. -/
def Reg.SPK_ERR_CNT.REPAIRS (pt : Nat) : Fld :=
  mkFld (0xC5000010 + pt * 0x10000) 32 32 .rc .warm 0x0 (.any)

/-- SPK_ERR_LOG bits [8:0], reset 0x0 / warm. -/
def Reg.SPK_ERR_LOG.WIRE (pt : Nat) : Fld :=
  mkFld (0xC5000018 + pt * 0x10000) 0 9 .ro .warm 0x0 (.any)

/-- SPK_ERR_LOG bits [9:9], reset 0x0 / warm. -/
def Reg.SPK_ERR_LOG.DIR (pt : Nat) : Fld :=
  mkFld (0xC5000018 + pt * 0x10000) 9 1 .ro .warm 0x0 (.any)

/-- SPK_ERR_LOG bits [12:10], reset 0x0 / warm. -/
def Reg.SPK_ERR_LOG.KIND (pt : Nat) : Fld :=
  mkFld (0xC5000018 + pt * 0x10000) 10 3 .ro .warm 0x0 (.any)

/-- SPK_ERR_LOG bits [63:63], reset 0x0 / warm. -/
def Reg.SPK_ERR_LOG.VALID (pt : Nat) : Fld :=
  mkFld (0xC5000018 + pt * 0x10000) 63 1 .rw1c .warm 0x0 (.any)

/-- SPK_IRQ bits [15:0], reset 0x0 / warm. -/
def Reg.SPK_IRQ.AGENT (pt : Nat) : Fld :=
  mkFld (0xC5000020 + pt * 0x10000) 0 16 .rw .warm 0x0 (.agent)

/-- SPK_IRQ bits [21:16], reset 0x0 / warm. -/
def Reg.SPK_IRQ.VEC (pt : Nat) : Fld :=
  mkFld (0xC5000020 + pt * 0x10000) 16 6 .rw .warm 0x0 (.any)

/-- SPK_IRQ bits [22:22], reset 0x0 / warm. -/
def Reg.SPK_IRQ.EN (pt : Nat) : Fld :=
  mkFld (0xC5000020 + pt * 0x10000) 22 1 .rw .warm 0x0 (.any)

/-- SPK_BAD_UP bits [63:0], reset 0x0 / warm. -/
def Reg.SPK_BAD_UP.WIRES (pt i : Nat) : Fld :=
  mkFld (0xC5000040 + pt * 0x10000 + i * 0x8) 0 64 .ro .warm 0x0 (.any)

/-- SPK_BAD_DN bits [63:0], reset 0x0 / warm. -/
def Reg.SPK_BAD_DN.WIRES (pt i : Nat) : Fld :=
  mkFld (0xC5000080 + pt * 0x10000 + i * 0x8) 0 64 .ro .warm 0x0 (.any)

/-- TDM_CTRL bits [0:0], reset 0x0 / warm. -/
def Reg.TDM_CTRL.EN (pt : Nat) : Fld :=
  mkFld (0xC5800000 + pt * 0x10000) 0 1 .rw .warm 0x0 (.any)

/-- TDM_CTRL bits [1:1], reset 0x0 / warm. -/
def Reg.TDM_CTRL.MODE (pt : Nat) : Fld :=
  mkFld (0xC5800000 + pt * 0x10000) 1 1 .rw .warm 0x0 (.any)

/-- TDM_CTRL bits [2:2], reset 0x0 / warm. -/
def Reg.TDM_CTRL.WIDTH_MAX (pt : Nat) : Fld :=
  mkFld (0xC5800000 + pt * 0x10000) 2 1 .rw .warm 0x0 (.any)

/-- TDM_CTRL bits [3:3], reset 0x0 / warm. -/
def Reg.TDM_CTRL.TRAIN (pt : Nat) : Fld :=
  mkFld (0xC5800000 + pt * 0x10000) 3 1 .wo .warm 0x0 (.any)

/-- TDM_CTRL bits [6:4], reset 0x0 / warm. -/
def Reg.TDM_CTRL.PEER (pt : Nat) : Fld :=
  mkFld (0xC5800000 + pt * 0x10000) 4 3 .rw .warm 0x0 (.any)

/-- TDM_CTRL bits [15:8], reset 0x8 / warm. -/
def Reg.TDM_CTRL.RETRY_MAX (pt : Nat) : Fld :=
  mkFld (0xC5800000 + pt * 0x10000) 8 8 .rw .warm 0x8 (.range 1 255)

/-- TDM_STATUS bits [2:0], reset 0x0 / warm. -/
def Reg.TDM_STATUS.STATE (pt : Nat) : Fld :=
  mkFld (0xC5800008 + pt * 0x10000) 0 3 .ro .warm 0x0 (.any)

/-- TDM_STATUS bits [3:3], reset 0x0 / warm. -/
def Reg.TDM_STATUS.WIDTH (pt : Nat) : Fld :=
  mkFld (0xC5800008 + pt * 0x10000) 3 1 .ro .warm 0x0 (.any)

/-- TDM_STATUS bits [4:4], reset 0x0 / warm. -/
def Reg.TDM_STATUS.UPPER (pt : Nat) : Fld :=
  mkFld (0xC5800008 + pt * 0x10000) 4 1 .ro .warm 0x0 (.any)

/-- TDM_STATUS bits [8:5], reset 0x0 / warm. -/
def Reg.TDM_STATUS.REASON (pt : Nat) : Fld :=
  mkFld (0xC5800008 + pt * 0x10000) 5 4 .ro .warm 0x0 (.any)

/-- TDM_STATUS bits [11:9], reset 0x0 / warm. -/
def Reg.TDM_STATUS.PEER_SEEN (pt : Nat) : Fld :=
  mkFld (0xC5800008 + pt * 0x10000) 9 3 .ro .warm 0x0 (.any)

/-- TDM_ERR_CNT bits [31:0], reset 0x0 / warm. -/
def Reg.TDM_ERR_CNT.CORR_FLITS (pt : Nat) : Fld :=
  mkFld (0xC5800010 + pt * 0x10000) 0 32 .rc .warm 0x0 (.any)

/-- TDM_ERR_CNT bits [63:32], reset 0x0 / warm. -/
def Reg.TDM_ERR_CNT.RETRIES (pt : Nat) : Fld :=
  mkFld (0xC5800010 + pt * 0x10000) 32 32 .rc .warm 0x0 (.any)

/-- TDM_IRQ bits [15:0], reset 0x0 / warm. -/
def Reg.TDM_IRQ.AGENT (pt : Nat) : Fld :=
  mkFld (0xC5800018 + pt * 0x10000) 0 16 .rw .warm 0x0 (.agent)

/-- TDM_IRQ bits [21:16], reset 0x0 / warm. -/
def Reg.TDM_IRQ.VEC (pt : Nat) : Fld :=
  mkFld (0xC5800018 + pt * 0x10000) 16 6 .rw .warm 0x0 (.any)

/-- TDM_IRQ bits [22:22], reset 0x0 / warm. -/
def Reg.TDM_IRQ.EN (pt : Nat) : Fld :=
  mkFld (0xC5800018 + pt * 0x10000) 22 1 .rw .warm 0x0 (.any)

/-- TDM_LANE_BAD bits [15:0], reset 0x0 / warm. -/
def Reg.TDM_LANE_BAD.LANES (pt : Nat) : Fld :=
  mkFld (0xC5800020 + pt * 0x10000) 0 16 .ro .warm 0x0 (.any)

/-- TDM_ROUTE bits [5:0], reset 0x0 / warm. -/
def Reg.TDM_ROUTE.PORTS (pt q : Nat) : Fld :=
  mkFld (0xC5800100 + pt * 0x10000 + q * 0x8) 0 6 .rw .warm 0x0 (.any)

/-- TDM_ROUTE bits [10:8], reset 0x0 / warm. -/
def Reg.TDM_ROUTE.VIA (pt q : Nat) : Fld :=
  mkFld (0xC5800100 + pt * 0x10000 + q * 0x8) 8 3 .rw .warm 0x0 (.any)

/-- TDM_ROUTE bits [11:11], reset 0x0 / warm. -/
def Reg.TDM_ROUTE.VIA_EN (pt q : Nat) : Fld :=
  mkFld (0xC5800100 + pt * 0x10000 + q * 0x8) 11 1 .rw .warm 0x0 (.any)

/-- TNT_CAPS bits [12:0], reset 0x1000 / none. -/
def Reg.TNT_CAPS.ENTRIES : Fld :=
  mkFld (0xC6000000) 0 13 .ro .never 0x1000 (.any)

/-- TNT_CMD bits [2:0], reset 0x0 / warm. -/
def Reg.TNT_CMD.OP : Fld :=
  mkFld (0xC6000008) 0 3 .wo .warm 0x0 (.any)

/-- TNT_CMD bits [3:3], reset 0x0 / warm. -/
def Reg.TNT_CMD.ANY : Fld :=
  mkFld (0xC6000008) 3 1 .wo .warm 0x0 (.any)

/-- TNT_CMD bits [27:16], reset 0x0 / warm. -/
def Reg.TNT_CMD.TENANT : Fld :=
  mkFld (0xC6000008) 16 12 .wo .warm 0x0 (.any)

/-- TNT_CMD_STATUS bits [0:0], reset 0x0 / warm. -/
def Reg.TNT_CMD_STATUS.BUSY : Fld :=
  mkFld (0xC6000010) 0 1 .ro .warm 0x0 (.any)

/-- TNT_CMD_STATUS bits [3:1], reset 0x0 / warm. -/
def Reg.TNT_CMD_STATUS.RESULT : Fld :=
  mkFld (0xC6000010) 1 3 .ro .warm 0x0 (.any)

/-- TNT_CMD_STATUS bits [27:16], reset 0x0 / warm. -/
def Reg.TNT_CMD_STATUS.TENANT : Fld :=
  mkFld (0xC6000010) 16 12 .ro .warm 0x0 (.any)

/-- TNT_CMD_STATUS bits [44:32], reset 0xFFF / warm. -/
def Reg.TNT_CMD_STATUS.FREE : Fld :=
  mkFld (0xC6000010) 32 13 .ro .warm 0xFFF (.any)

/-- TNT_CMD_STATUS bits [52:45], reset 0x0 / warm. -/
def Reg.TNT_CMD_STATUS.MISSING : Fld :=
  mkFld (0xC6000010) 45 8 .ro .warm 0x0 (.any)

/-- TNT_STATUS bits [0:0], reset 0x0 / warm. -/
def Reg.TNT_STATUS.STUCK : Fld :=
  mkFld (0xC6000018) 0 1 .rw1c .warm 0x0 (.any)

/-- TNT_STATUS bits [3:1], reset 0x0 / warm. -/
def Reg.TNT_STATUS.STEP : Fld :=
  mkFld (0xC6000018) 1 3 .ro .warm 0x0 (.any)

/-- TNT_FREEZE_CNT bits [31:0], reset 0x0 / warm. -/
def Reg.TNT_FREEZE_CNT.FREEZES : Fld :=
  mkFld (0xC6000020) 0 32 .rc .warm 0x0 (.any)

/-- TNT_FREEZE_CNT bits [63:32], reset 0x0 / warm. -/
def Reg.TNT_FREEZE_CNT.OVERRUNS : Fld :=
  mkFld (0xC6000020) 32 32 .rc .warm 0x0 (.any)

/-- TNT_IRQ bits [15:0], reset 0x0 / warm. -/
def Reg.TNT_IRQ.AGENT : Fld :=
  mkFld (0xC6000028) 0 16 .rw .warm 0x0 (.agent)

/-- TNT_IRQ bits [21:16], reset 0x0 / warm. -/
def Reg.TNT_IRQ.VEC : Fld :=
  mkFld (0xC6000028) 16 6 .rw .warm 0x0 (.any)

/-- TNT_IRQ bits [22:22], reset 0x0 / warm. -/
def Reg.TNT_IRQ.EN : Fld :=
  mkFld (0xC6000028) 22 1 .rw .warm 0x0 (.any)

/-- TNT_CTXF bits [63:0], reset 0x0 / warm. -/
def Reg.TNT_CTXF.W0 (x : Nat) : Fld :=
  mkFld (0xC6040000 + x * 0x20) 0 64 .ro .warm 0x0 (.any)

/-- TNT_CTXF bits [63:0], reset 0x0 / warm. -/
def Reg.TNT_CTXF.W1 (x : Nat) : Fld :=
  mkFld (0xC6040008 + x * 0x20) 0 64 .ro .warm 0x0 (.any)

/-- TNT_CTXF bits [63:0], reset 0x0 / warm. -/
def Reg.TNT_CTXF.W2 (x : Nat) : Fld :=
  mkFld (0xC6040010 + x * 0x20) 0 64 .ro .warm 0x0 (.any)

/-- TNT_CTXF bits [63:0], reset 0x0 / warm. -/
def Reg.TNT_CTXF.W3 (x : Nat) : Fld :=
  mkFld (0xC6040018 + x * 0x20) 0 64 .ro .warm 0x0 (.any)

/-- TNT_ENT bits [1:0], reset 0x0 / warm. -/
def Reg.TNT_ENT.STATE (t : Nat) : Fld :=
  mkFld (0xC6100000 + t * 0x20) 0 2 .ro .warm 0x0 (.any)

/-- TNT_ENT bits [2:2], reset 0x0 / warm. -/
def Reg.TNT_ENT.SV_EN (t : Nat) : Fld :=
  mkFld (0xC6100000 + t * 0x20) 2 1 .rw .warm 0x0 (.any)

/-- TNT_ENT bits [31:16], reset 0x0 / warm. -/
def Reg.TNT_ENT.SV_AGENT (t : Nat) : Fld :=
  mkFld (0xC6100000 + t * 0x20) 16 16 .rw .warm 0x0 (.agent)

/-- TNT_ENT bits [47:32], reset 0x0 / warm. -/
def Reg.TNT_ENT.SV_MASK (t : Nat) : Fld :=
  mkFld (0xC6100000 + t * 0x20) 32 16 .rw .warm 0x0 (.any)

/-- TNT_ENT bits [0:0], reset 0x0 / warm. -/
def Reg.TNT_ENT.WORLD (t : Nat) : Fld :=
  mkFld (0xC6100008 + t * 0x20) 0 1 .rw .warm 0x0 (.any)

/-- TNT_ENT bits [1:1], reset 0x0 / warm. -/
def Reg.TNT_ENT.FRING_EN (t : Nat) : Fld :=
  mkFld (0xC6100008 + t * 0x20) 1 1 .rw .warm 0x0 (.any)

/-- TNT_ENT bits [51:6], reset 0x0 / warm. -/
def Reg.TNT_ENT.FRING (t : Nat) : Fld :=
  mkFld (0xC6100008 + t * 0x20) 6 46 .rw .warm 0x0 (.any)

/-- TNT_ENT bits [3:0], reset 0x4 / warm. -/
def Reg.TNT_ENT.FRING_LOG2 (t : Nat) : Fld :=
  mkFld (0xC6100010 + t * 0x20) 0 4 .rw .warm 0x4 (.range 4 12)

/-- TNT_ENT bits [21:16], reset 0x0 / warm. -/
def Reg.TNT_ENT.IRQ_VEC (t : Nat) : Fld :=
  mkFld (0xC6100010 + t * 0x20) 16 6 .rw .warm 0x0 (.any)

/-- TNT_ENT bits [22:22], reset 0x0 / warm. -/
def Reg.TNT_ENT.IRQ_EN (t : Nat) : Fld :=
  mkFld (0xC6100010 + t * 0x20) 22 1 .rw .warm 0x0 (.any)

/-- TNT_ENT bits [63:32], reset 0x0 / tenant. -/
def Reg.TNT_ENT.FROZEN (t : Nat) : Fld :=
  mkFld (0xC6100010 + t * 0x20) 32 32 .ro .tenant 0x0 (.any)

/-- TNT_ENT bits [20:0], reset 0x0 / warm. -/
def Reg.TNT_ENT.QUEUES (t : Nat) : Fld :=
  mkFld (0xC6100018 + t * 0x20) 0 21 .ro .warm 0x0 (.any)

/-- TNT_ENT bits [52:32], reset 0x0 / warm. -/
def Reg.TNT_ENT.QUOTA (t : Nat) : Fld :=
  mkFld (0xC6100018 + t * 0x20) 32 21 .rw .warm 0x0 (.any)

/-- TNT_SV_CMD bits [2:0], reset 0x0 / warm. -/
def Reg.TNT_SV_CMD.OP (t : Nat) : Fld :=
  mkFld (0xC6200000 + t * 0x40) 0 3 .wo .warm 0x0 (.any)

/-- TNT_SV_CMD bits [5:4], reset 0x0 / warm. -/
def Reg.TNT_SV_CMD.KIND (t : Nat) : Fld :=
  mkFld (0xC6200000 + t * 0x40) 4 2 .wo .warm 0x0 (.any)

/-- TNT_SV_CMD bits [51:32], reset 0x0 / warm. -/
def Reg.TNT_SV_CMD.MASTER (t : Nat) : Fld :=
  mkFld (0xC6200000 + t * 0x40) 32 20 .wo .warm 0x0 (.any)

/-- TNT_SV_STATUS bits [2:0], reset 0x0 / warm. -/
def Reg.TNT_SV_STATUS.RESULT (t : Nat) : Fld :=
  mkFld (0xC6200008 + t * 0x40) 0 3 .ro .warm 0x0 (.any)

/-- TNT_SV_STATUS bits [63:32], reset 0x0 / tenant. -/
def Reg.TNT_SV_STATUS.PROD (t : Nat) : Fld :=
  mkFld (0xC6200008 + t * 0x40) 32 32 .ro .tenant 0x0 (.any)

/-- TNT_SV_FRING bits [31:0], reset 0x0 / tenant. -/
def Reg.TNT_SV_FRING.CONS (t : Nat) : Fld :=
  mkFld (0xC6200010 + t * 0x40) 0 32 .rw .tenant 0x0 (.any)

/-- TNT_SV_FRING bits [63:32], reset 0x0 / tenant. -/
def Reg.TNT_SV_FRING.OVERRUN (t : Nat) : Fld :=
  mkFld (0xC6200010 + t * 0x40) 32 32 .rc .tenant 0x0 (.any)

/-- HQE_CAPS bits [7:0], reset 0x14 / none. -/
def Reg.HQE_CAPS.QUEUES_LOG2 : Fld :=
  mkFld (0xC7000000) 0 8 .ro .never 0x14 (.any)

/-- HQE_CAPS bits [15:8], reset 0x10 / none. -/
def Reg.HQE_CAPS.CACHE_LOG2 : Fld :=
  mkFld (0xC7000000) 8 8 .ro .never 0x10 (.any)

/-- HQE_CAPS bits [23:16], reset 0x8 / none. -/
def Reg.HQE_CAPS.SCHED : Fld :=
  mkFld (0xC7000000) 16 8 .ro .never 0x8 (.any)

/-- HQE_CAPS bits [31:24], reset 0x40 / none. -/
def Reg.HQE_CAPS.INFLIGHT : Fld :=
  mkFld (0xC7000000) 24 8 .ro .never 0x40 (.any)

/-- HQE_CAPS bits [44:32], reset 0x1000 / none. -/
def Reg.HQE_CAPS.SLOTS : Fld :=
  mkFld (0xC7000000) 32 13 .ro .never 0x1000 (.any)

/-- HQE_CTRL bits [0:0], reset 0x0 / warm. -/
def Reg.HQE_CTRL.EN : Fld :=
  mkFld (0xC7000008) 0 1 .rw .warm 0x0 (.any)

/-- HQE_QTAB bits [51:27], reset 0x0 / warm. -/
def Reg.HQE_QTAB.BASE : Fld :=
  mkFld (0xC7000010) 27 25 .rw .warm 0x0 (.any)

/-- HQE_PARK bits [51:22], reset 0x0 / warm. -/
def Reg.HQE_PARK.BASE : Fld :=
  mkFld (0xC7000018) 22 30 .rw .warm 0x0 (.any)

/-- HQE_QCMD bits [2:0], reset 0x0 / warm. -/
def Reg.HQE_QCMD.OP : Fld :=
  mkFld (0xC7000020) 0 3 .wo .warm 0x0 (.any)

/-- HQE_QCMD bits [27:8], reset 0x0 / warm. -/
def Reg.HQE_QCMD.QUEUE : Fld :=
  mkFld (0xC7000020) 8 20 .wo .warm 0x0 (.any)

/-- HQE_QCMD_STATUS bits [0:0], reset 0x0 / warm. -/
def Reg.HQE_QCMD_STATUS.BUSY : Fld :=
  mkFld (0xC7000028) 0 1 .ro .warm 0x0 (.any)

/-- HQE_QCMD_STATUS bits [3:1], reset 0x0 / warm. -/
def Reg.HQE_QCMD_STATUS.RESULT : Fld :=
  mkFld (0xC7000028) 1 3 .ro .warm 0x0 (.any)

/-- HQE_QCMD_STATUS bits [5:4], reset 0x0 / warm. -/
def Reg.HQE_QCMD_STATUS.QSTATE : Fld :=
  mkFld (0xC7000028) 4 2 .ro .warm 0x0 (.any)

/-- HQE_QCMD_STATUS bits [6:6], reset 0x0 / warm. -/
def Reg.HQE_QCMD_STATUS.CACHED : Fld :=
  mkFld (0xC7000028) 6 1 .ro .warm 0x0 (.any)

/-- HQE_QCMD_STATUS bits [7:7], reset 0x0 / warm. -/
def Reg.HQE_QCMD_STATUS.PARKED : Fld :=
  mkFld (0xC7000028) 7 1 .ro .warm 0x0 (.any)

/-- HQE_QCMD_STATUS bits [14:8], reset 0x0 / warm. -/
def Reg.HQE_QCMD_STATUS.INFLIGHT : Fld :=
  mkFld (0xC7000028) 8 7 .ro .warm 0x0 (.any)

/-- HQE_CACHE_STATUS bits [16:0], reset 0x0 / warm. -/
def Reg.HQE_CACHE_STATUS.VALID : Fld :=
  mkFld (0xC7000030) 0 17 .ro .warm 0x0 (.any)

/-- HQE_CACHE_STATUS bits [48:32], reset 0x0 / warm. -/
def Reg.HQE_CACHE_STATUS.ACTIVE : Fld :=
  mkFld (0xC7000030) 32 17 .ro .warm 0x0 (.any)

/-- HQE_CACHE_CNT bits [31:0], reset 0x0 / warm. -/
def Reg.HQE_CACHE_CNT.SPILLS : Fld :=
  mkFld (0xC7000038) 0 32 .rc .warm 0x0 (.any)

/-- HQE_CACHE_CNT bits [63:32], reset 0x0 / warm. -/
def Reg.HQE_CACHE_CNT.PARKS : Fld :=
  mkFld (0xC7000038) 32 32 .rc .warm 0x0 (.any)

/-- HQE_ERR_CNT bits [31:0], reset 0x0 / warm. -/
def Reg.HQE_ERR_CNT.DB_DISCARD : Fld :=
  mkFld (0xC7000040) 0 32 .rc .warm 0x0 (.any)

/-- HQE_ERR_CNT bits [63:32], reset 0x0 / warm. -/
def Reg.HQE_ERR_CNT.PROT : Fld :=
  mkFld (0xC7000040) 32 32 .rc .warm 0x0 (.any)

/-- HQE_SCHED bits [0:0], reset 0x0 / warm. -/
def Reg.HQE_SCHED.SWAP (n : Nat) : Fld :=
  mkFld (0xC7000100 + n * 0x8) 0 1 .wo .warm 0x0 (.any)

/-- HQE_SCHED bits [1:1], reset 0x0 / warm. -/
def Reg.HQE_SCHED.PENDING (n : Nat) : Fld :=
  mkFld (0xC7000100 + n * 0x8) 1 1 .ro .warm 0x0 (.any)

/-- HQE_SCHED bits [63:32], reset 0x0 / warm. -/
def Reg.HQE_SCHED.WRAPS (n : Nat) : Fld :=
  mkFld (0xC7000100 + n * 0x8) 32 32 .rc .warm 0x0 (.any)

/-- HQE_SLOT bits [31:0], reset 0x0 / warm. -/
def Reg.HQE_SLOT.SLOT_LO (n j : Nat) : Fld :=
  mkFld (0xC7010000 + n * 0x4000 + j * 0x8) 0 32 .rws .warm 0x0 (.any)

/-- HQE_SLOT bits [63:32], reset 0x0 / warm. -/
def Reg.HQE_SLOT.SLOT_HI (n j : Nat) : Fld :=
  mkFld (0xC7010000 + n * 0x4000 + j * 0x8) 32 32 .rws .warm 0x0 (.any)

/-- REG_CAPS bits [12:0], reset 0x1000 / none. -/
def Reg.REG_CAPS.ENTRIES : Fld :=
  mkFld (0xC8000000) 0 13 .ro .never 0x1000 (.any)

/-- REG_CAPS bits [26:16], reset 0x400 / none. -/
def Reg.REG_CAPS.RSV : Fld :=
  mkFld (0xC8000000) 16 11 .ro .never 0x400 (.any)

/-- REG_CAPS bits [39:32], reset 0x18 / none. -/
def Reg.REG_CAPS.RESOURCES : Fld :=
  mkFld (0xC8000000) 32 8 .ro .never 0x18 (.any)

/-- REG_CTRL bits [0:0], reset 0x0 / warm. -/
def Reg.REG_CTRL.EN : Fld :=
  mkFld (0xC8000008) 0 1 .rw .warm 0x0 (.any)

/-- REG_CTRL bits [14:8], reset 0x50 / warm. -/
def Reg.REG_CTRL.DERATE : Fld :=
  mkFld (0xC8000008) 8 7 .rw .warm 0x50 (.range 50 100)

/-- REG_CTRL bits [27:16], reset 0x0 / warm. -/
def Reg.REG_CTRL.REMOTE_ENT : Fld :=
  mkFld (0xC8000008) 16 12 .rw .warm 0x0 (.any)

/-- REG_DEGRADED bits [23:0], reset 0x0 / warm. -/
def Reg.REG_DEGRADED.NOW : Fld :=
  mkFld (0xC8000010) 0 24 .ro .warm 0x0 (.any)

/-- REG_DEGRADED bits [55:32], reset 0x0 / warm. -/
def Reg.REG_DEGRADED.SEEN : Fld :=
  mkFld (0xC8000010) 32 24 .rw1c .warm 0x0 (.any)

/-- REG_IRQ bits [15:0], reset 0x0 / warm. -/
def Reg.REG_IRQ.AGENT : Fld :=
  mkFld (0xC8000018) 0 16 .rw .warm 0x0 (.agent)

/-- REG_IRQ bits [21:16], reset 0x0 / warm. -/
def Reg.REG_IRQ.VEC : Fld :=
  mkFld (0xC8000018) 16 6 .rw .warm 0x0 (.any)

/-- REG_IRQ bits [22:22], reset 0x0 / warm. -/
def Reg.REG_IRQ.EN : Fld :=
  mkFld (0xC8000018) 22 1 .rw .warm 0x0 (.any)

/-- REG_DEG_CNT bits [31:0], reset 0x0 / warm. -/
def Reg.REG_DEG_CNT.ENTRIES : Fld :=
  mkFld (0xC8000020) 0 32 .rc .warm 0x0 (.any)

/-- REG_DEG_CNT bits [63:32], reset 0x0 / warm. -/
def Reg.REG_DEG_CNT.OVERCOMMITS : Fld :=
  mkFld (0xC8000020) 32 32 .rc .warm 0x0 (.any)

/-- REG_RSV_ARG bits [11:0], reset 0x0 / warm. -/
def Reg.REG_RSV_ARG.ENT : Fld :=
  mkFld (0xC8000028) 0 12 .rw .warm 0x0 (.any)

/-- REG_RSV_ARG bits [20:16], reset 0x0 / warm. -/
def Reg.REG_RSV_ARG.RES : Fld :=
  mkFld (0xC8000028) 16 5 .rw .warm 0x0 (.any)

/-- REG_RSV_ARG bits [47:32], reset 0x0 / warm. -/
def Reg.REG_RSV_ARG.LINES : Fld :=
  mkFld (0xC8000028) 32 16 .rw .warm 0x0 (.any)

/-- REG_RSV_CMD bits [1:0], reset 0x0 / warm. -/
def Reg.REG_RSV_CMD.OP : Fld :=
  mkFld (0xC8000030) 0 2 .wo .warm 0x0 (.any)

/-- REG_RSV_CMD bits [25:16], reset 0x0 / warm. -/
def Reg.REG_RSV_CMD.SLOT : Fld :=
  mkFld (0xC8000030) 16 10 .wo .warm 0x0 (.any)

/-- REG_RSV_STATUS bits [0:0], reset 0x0 / warm. -/
def Reg.REG_RSV_STATUS.BUSY : Fld :=
  mkFld (0xC8000038) 0 1 .ro .warm 0x0 (.any)

/-- REG_RSV_STATUS bits [3:1], reset 0x0 / warm. -/
def Reg.REG_RSV_STATUS.RESULT : Fld :=
  mkFld (0xC8000038) 1 3 .ro .warm 0x0 (.any)

/-- REG_ADM_LOG bits [11:0], reset 0x0 / warm. -/
def Reg.REG_ADM_LOG.ENT : Fld :=
  mkFld (0xC8000040) 0 12 .ro .warm 0x0 (.any)

/-- REG_ADM_LOG bits [20:16], reset 0x0 / warm. -/
def Reg.REG_ADM_LOG.RES : Fld :=
  mkFld (0xC8000040) 16 5 .ro .warm 0x0 (.any)

/-- REG_ADM_LOG bits [63:63], reset 0x0 / warm. -/
def Reg.REG_ADM_LOG.VALID : Fld :=
  mkFld (0xC8000040) 63 1 .rw1c .warm 0x0 (.any)

/-- REG_ADM_LOG1 bits [31:0], reset 0x0 / warm. -/
def Reg.REG_ADM_LOG1.REQ : Fld :=
  mkFld (0xC8000048) 0 32 .ro .warm 0x0 (.any)

/-- REG_ADM_LOG1 bits [63:32], reset 0x0 / warm. -/
def Reg.REG_ADM_LOG1.AVAIL : Fld :=
  mkFld (0xC8000048) 32 32 .ro .warm 0x0 (.any)

/-- REG_RES bits [19:0], reset 0x0 / warm. -/
def Reg.REG_RES.BASE (r : Nat) : Fld :=
  mkFld (0xC8000200 + r * 0x10) 0 20 .ro .warm 0x0 (.any)

/-- REG_RES bits [51:32], reset 0x0 / warm. -/
def Reg.REG_RES.ADMIT (r : Nat) : Fld :=
  mkFld (0xC8000200 + r * 0x10) 32 20 .ro .warm 0x0 (.any)

/-- REG_RES bits [19:0], reset 0x0 / warm. -/
def Reg.REG_RES.CUR (r : Nat) : Fld :=
  mkFld (0xC8000208 + r * 0x10) 0 20 .ro .warm 0x0 (.any)

/-- REG_RES bits [51:32], reset 0x0 / warm. -/
def Reg.REG_RES.RESERVED (r : Nat) : Fld :=
  mkFld (0xC8000208 + r * 0x10) 32 20 .ro .warm 0x0 (.any)

/-- REG_SCALE bits [16:0], reset 0x10000 / warm. -/
def Reg.REG_SCALE.SCALE (r : Nat) : Fld :=
  mkFld (0xC8000400 + r * 0x8) 0 17 .ro .warm 0x10000 (.any)

/-- REG_ENT bits [0:0], reset 0x0 / warm. -/
def Reg.REG_ENT.EN (m : Nat) : Fld :=
  mkFld (0xC8010000 + m * 0x20) 0 1 .rw .warm 0x0 (.any)

/-- REG_ENT bits [7:4], reset 0x8 / warm. -/
def Reg.REG_ENT.PRIO (m : Nat) : Fld :=
  mkFld (0xC8010000 + m * 0x20) 4 4 .rw .warm 0x8 (.any)

/-- REG_ENT bits [27:16], reset 0x0 / warm. -/
def Reg.REG_ENT.TENANT (m : Nat) : Fld :=
  mkFld (0xC8010000 + m * 0x20) 16 12 .rw .warm 0x0 (.any)

/-- REG_ENT bits [47:32], reset 0x95F / warm. -/
def Reg.REG_ENT.WINDOW (m : Nat) : Fld :=
  mkFld (0xC8010000 + m * 0x20) 32 16 .rw .warm 0x95F (.any)

/-- REG_ENT bits [15:0], reset 0x0 / warm. -/
def Reg.REG_ENT.LIMIT (m : Nat) : Fld :=
  mkFld (0xC8010008 + m * 0x20) 0 16 .rw .warm 0x0 (.any)

/-- REG_ENT bits [16:16], reset 0x0 / warm. -/
def Reg.REG_ENT.LIMIT_EN (m : Nat) : Fld :=
  mkFld (0xC8010008 + m * 0x20) 16 1 .rw .warm 0x0 (.any)

/-- REG_ENT bits [47:32], reset 0x0 / warm. -/
def Reg.REG_ENT.LAT_TARGET (m : Nat) : Fld :=
  mkFld (0xC8010008 + m * 0x20) 32 16 .rw .warm 0x0 (.any)

/-- REG_ENT bits [15:0], reset 0x0 / warm. -/
def Reg.REG_ENT.USED (m : Nat) : Fld :=
  mkFld (0xC8010010 + m * 0x20) 0 16 .ro .warm 0x0 (.any)

/-- REG_ENT bits [31:16], reset 0x0 / warm. -/
def Reg.REG_ENT.LAT (m : Nat) : Fld :=
  mkFld (0xC8010010 + m * 0x20) 16 16 .ro .warm 0x0 (.any)

/-- REG_ENT bits [42:32], reset 0x0 / warm. -/
def Reg.REG_ENT.RSVS (m : Nat) : Fld :=
  mkFld (0xC8010010 + m * 0x20) 32 11 .ro .warm 0x0 (.any)

/-- REG_ENT bits [31:0], reset 0x0 / warm. -/
def Reg.REG_ENT.HELD (m : Nat) : Fld :=
  mkFld (0xC8010018 + m * 0x20) 0 32 .rc .warm 0x0 (.any)

/-- REG_ENT bits [63:32], reset 0x0 / warm. -/
def Reg.REG_ENT.MISUSE (m : Nat) : Fld :=
  mkFld (0xC8010018 + m * 0x20) 32 32 .rc .warm 0x0 (.any)

/-- REG_CTX_MAP bits [11:0], reset 0x0 / context. -/
def Reg.REG_CTX_MAP.ENT (x : Nat) : Fld :=
  mkFld (0xC8040000 + x * 0x8) 0 12 .rw .context 0x0 (.any)

/-- REG_RSV bits [11:0], reset 0x0 / warm. -/
def Reg.REG_RSV.ENT (k : Nat) : Fld :=
  mkFld (0xC8050000 + k * 0x8) 0 12 .ro .warm 0x0 (.any)

/-- REG_RSV bits [20:16], reset 0x0 / warm. -/
def Reg.REG_RSV.RES (k : Nat) : Fld :=
  mkFld (0xC8050000 + k * 0x8) 16 5 .ro .warm 0x0 (.any)

/-- REG_RSV bits [47:32], reset 0x0 / warm. -/
def Reg.REG_RSV.LINES (k : Nat) : Fld :=
  mkFld (0xC8050000 + k * 0x8) 32 16 .ro .warm 0x0 (.any)

/-- REG_RSV bits [63:63], reset 0x0 / warm. -/
def Reg.REG_RSV.VALID (k : Nat) : Fld :=
  mkFld (0xC8050000 + k * 0x8) 63 1 .ro .warm 0x0 (.any)

/-- ARB_CTRL bits [15:0], reset 0x400 / warm. -/
def Reg.ARB_CTRL.STARVE_LIMIT (ar : Nat) : Fld :=
  mkFld (0xC8800000 + ar * 0x10000) 0 16 .rw .warm 0x400 (.range 1 65535)

/-- ARB_CTRL bits [16:16], reset 0x1 / warm. -/
def Reg.ARB_CTRL.GUAR_EN (ar : Nat) : Fld :=
  mkFld (0xC8800000 + ar * 0x10000) 16 1 .rw .warm 0x1 (.any)

/-- ARB_STATUS bits [6:0], reset 0x0 / warm. -/
def Reg.ARB_STATUS.CAND (ar : Nat) : Fld :=
  mkFld (0xC8800008 + ar * 0x10000) 0 7 .ro .warm 0x0 (.any)

/-- ARB_STATUS bits [7:7], reset 0x0 / warm. -/
def Reg.ARB_STATUS.WAITING (ar : Nat) : Fld :=
  mkFld (0xC8800008 + ar * 0x10000) 7 1 .ro .warm 0x0 (.any)

/-- ARB_STARVE bits [11:0], reset 0x0 / warm. -/
def Reg.ARB_STARVE.ENT (ar : Nat) : Fld :=
  mkFld (0xC8800010 + ar * 0x10000) 0 12 .ro .warm 0x0 (.any)

/-- ARB_STARVE bits [63:63], reset 0x0 / warm. -/
def Reg.ARB_STARVE.VALID (ar : Nat) : Fld :=
  mkFld (0xC8800010 + ar * 0x10000) 63 1 .rw1c .warm 0x0 (.any)

/-- ARB_STARVE_CNT bits [31:0], reset 0x0 / warm. -/
def Reg.ARB_STARVE_CNT.COUNT (ar : Nat) : Fld :=
  mkFld (0xC8800018 + ar * 0x10000) 0 32 .rc .warm 0x0 (.any)

/-- ARB_STARVE_CNT bits [63:32], reset 0x0 / warm. -/
def Reg.ARB_STARVE_CNT.ROUNDS (ar : Nat) : Fld :=
  mkFld (0xC8800018 + ar * 0x10000) 32 32 .rc .warm 0x0 (.any)

/-- ARB_IRQ bits [15:0], reset 0x0 / warm. -/
def Reg.ARB_IRQ.AGENT (ar : Nat) : Fld :=
  mkFld (0xC8800020 + ar * 0x10000) 0 16 .rw .warm 0x0 (.agent)

/-- ARB_IRQ bits [21:16], reset 0x0 / warm. -/
def Reg.ARB_IRQ.VEC (ar : Nat) : Fld :=
  mkFld (0xC8800020 + ar * 0x10000) 16 6 .rw .warm 0x0 (.any)

/-- ARB_IRQ bits [22:22], reset 0x0 / warm. -/
def Reg.ARB_IRQ.EN (ar : Nat) : Fld :=
  mkFld (0xC8800020 + ar * 0x10000) 22 1 .rw .warm 0x0 (.any)

/-- SEC_CAPS bits [7:0], reset 0x1B / none. -/
def Reg.SEC_CAPS.CHECKERS : Fld :=
  mkFld (0xC9000000) 0 8 .ro .never 0x1B (.any)

/-- SEC_CAPS bits [15:8], reset 0x20 / none. -/
def Reg.SEC_CAPS.REGIONS : Fld :=
  mkFld (0xC9000000) 8 8 .ro .never 0x20 (.any)

/-- SEC_DBG bits [3:0], reset 0x0 / warm. -/
def Reg.SEC_DBG.ENABLES : Fld :=
  mkFld (0xC9000008) 0 4 .rwl .warm 0x0 (.any)

/-- SEC_DBG bits [4:4], reset 0x0 / warm. -/
def Reg.SEC_DBG.BRK_N : Fld :=
  mkFld (0xC9000008) 4 1 .rwl .warm 0x0 (.any)

/-- SEC_DBG bits [5:5], reset 0x0 / warm. -/
def Reg.SEC_DBG.BRK_S : Fld :=
  mkFld (0xC9000008) 5 1 .rwl .warm 0x0 (.any)

/-- SEC_DBG bits [8:8], reset 0x0 / warm. -/
def Reg.SEC_DBG.LOCK : Fld :=
  mkFld (0xC9000008) 8 1 .rwl .warm 0x0 (.any)

/-- SEC_OWN0 bits [59:0], reset 0x0 / warm. -/
def Reg.SEC_OWN0.CLUSTERS : Fld :=
  mkFld (0xC9000010) 0 60 .rw .warm 0x0 (.any)

/-- SEC_OWN1 bits [51:0], reset 0x0 / warm. -/
def Reg.SEC_OWN1.BLOCKS : Fld :=
  mkFld (0xC9000018) 0 52 .rw .warm 0x0 (.any)

/-- SEC_WDOG_CTRL bits [0:0], reset 0x0 / warm. -/
def Reg.SEC_WDOG_CTRL.EN : Fld :=
  mkFld (0xC9000020) 0 1 .rwl .warm 0x0 (.any)

/-- SEC_WDOG_CTRL bits [31:16], reset 0x2710 / warm. -/
def Reg.SEC_WDOG_CTRL.GRACE : Fld :=
  mkFld (0xC9000020) 16 16 .rwl .warm 0x2710 (.any)

/-- SEC_WDOG_CTRL bits [63:32], reset 0xF4240 / warm. -/
def Reg.SEC_WDOG_CTRL.PERIOD : Fld :=
  mkFld (0xC9000020) 32 32 .rwl .warm 0xF4240 (.any)

/-- SEC_WDOG_KICK bits [15:0], reset 0x0 / warm. -/
def Reg.SEC_WDOG_KICK.KEY : Fld :=
  mkFld (0xC9000028) 0 16 .wo .warm 0x0 (.any)

/-- SEC_WDOG_STATUS bits [31:0], reset 0x0 / warm. -/
def Reg.SEC_WDOG_STATUS.REMAIN : Fld :=
  mkFld (0xC9000030) 0 32 .ro .warm 0x0 (.any)

/-- SEC_WDOG_STATUS bits [32:32], reset 0x0 / warm. -/
def Reg.SEC_WDOG_STATUS.STAGE : Fld :=
  mkFld (0xC9000030) 32 1 .ro .warm 0x0 (.any)

/-- SEC_WDOG_STATUS bits [33:33], reset 0x0 / cold. -/
def Reg.SEC_WDOG_STATUS.FIRED : Fld :=
  mkFld (0xC9000030) 33 1 .rw1c .cold 0x0 (.any)

/-- SEC_WDOG_IRQ bits [15:0], reset 0x0 / warm. -/
def Reg.SEC_WDOG_IRQ.AGENT : Fld :=
  mkFld (0xC9000038) 0 16 .rw .warm 0x0 (.agent)

/-- SEC_WDOG_IRQ bits [21:16], reset 0x0 / warm. -/
def Reg.SEC_WDOG_IRQ.VEC : Fld :=
  mkFld (0xC9000038) 16 6 .rw .warm 0x0 (.any)

/-- SEC_WDOG_IRQ bits [22:22], reset 0x0 / warm. -/
def Reg.SEC_WDOG_IRQ.EN : Fld :=
  mkFld (0xC9000038) 22 1 .rw .warm 0x0 (.any)

/-- SEC_VIOL_LOG bits [51:0], reset 0x0 / warm. -/
def Reg.SEC_VIOL_LOG.ADDR : Fld :=
  mkFld (0xC9000040) 0 52 .ro .warm 0x0 (.any)

/-- SEC_VIOL_LOG bits [56:52], reset 0x0 / warm. -/
def Reg.SEC_VIOL_LOG.REGION : Fld :=
  mkFld (0xC9000040) 52 5 .ro .warm 0x0 (.any)

/-- SEC_VIOL_LOG bits [62:57], reset 0x0 / warm. -/
def Reg.SEC_VIOL_LOG.CHECKER : Fld :=
  mkFld (0xC9000040) 57 6 .ro .warm 0x0 (.any)

/-- SEC_VIOL_LOG bits [63:63], reset 0x0 / warm. -/
def Reg.SEC_VIOL_LOG.VALID : Fld :=
  mkFld (0xC9000040) 63 1 .rw1c .warm 0x0 (.any)

/-- SEC_VIOL_SRC bits [15:0], reset 0x0 / warm. -/
def Reg.SEC_VIOL_SRC.AGENT : Fld :=
  mkFld (0xC9000048) 0 16 .ro .warm 0x0 (.any)

/-- SEC_VIOL_SRC bits [27:16], reset 0x0 / warm. -/
def Reg.SEC_VIOL_SRC.TENANT : Fld :=
  mkFld (0xC9000048) 16 12 .ro .warm 0x0 (.any)

/-- SEC_VIOL_SRC bits [28:28], reset 0x0 / warm. -/
def Reg.SEC_VIOL_SRC.WORLD : Fld :=
  mkFld (0xC9000048) 28 1 .ro .warm 0x0 (.any)

/-- SEC_VIOL_SRC bits [29:29], reset 0x0 / warm. -/
def Reg.SEC_VIOL_SRC.WRITE : Fld :=
  mkFld (0xC9000048) 29 1 .ro .warm 0x0 (.any)

/-- SEC_VIOL_SRC bits [63:32], reset 0x0 / warm. -/
def Reg.SEC_VIOL_SRC.COUNT : Fld :=
  mkFld (0xC9000048) 32 32 .rc .warm 0x0 (.any)

/-- SEC_HGATE bits [0:0], reset 0x0 / warm. -/
def Reg.SEC_HGATE.EN (g : Nat) : Fld :=
  mkFld (0xC9000080 + g * 0x10) 0 1 .rwl .warm 0x0 (.any)

/-- SEC_HGATE bits [1:1], reset 0x0 / warm. -/
def Reg.SEC_HGATE.LOCK (g : Nat) : Fld :=
  mkFld (0xC9000080 + g * 0x10) 1 1 .rwl .warm 0x0 (.any)

/-- SEC_HGATE bits [51:12], reset 0x0 / warm. -/
def Reg.SEC_HGATE.BASE (g : Nat) : Fld :=
  mkFld (0xC9000080 + g * 0x10) 12 40 .rwl .warm 0x0 (.any)

/-- SEC_HGATE bits [51:12], reset 0x0 / warm. -/
def Reg.SEC_HGATE.LIMIT (g : Nat) : Fld :=
  mkFld (0xC9000088 + g * 0x10) 12 40 .rwl .warm 0x0 (.any)

/-- SEC_RGN bits [0:0], reset 0x0 / warm. -/
def Reg.SEC_RGN.EN (ck i : Nat) : Fld :=
  mkFld (0xC9010000 + ck * 0x200 + i * 0x10) 0 1 .rwl .warm 0x0 (.any)

/-- SEC_RGN bits [3:1], reset 0x0 / warm. -/
def Reg.SEC_RGN.RIGHTS (ck i : Nat) : Fld :=
  mkFld (0xC9010000 + ck * 0x200 + i * 0x10) 1 3 .rwl .warm 0x0 (.any)

/-- SEC_RGN bits [5:4], reset 0x0 / warm. -/
def Reg.SEC_RGN.WORLD (ck i : Nat) : Fld :=
  mkFld (0xC9010000 + ck * 0x200 + i * 0x10) 4 2 .rwl .warm 0x0 (.range 0 2)

/-- SEC_RGN bits [6:6], reset 0x0 / warm. -/
def Reg.SEC_RGN.ANY (ck i : Nat) : Fld :=
  mkFld (0xC9010000 + ck * 0x200 + i * 0x10) 6 1 .rwl .warm 0x0 (.any)

/-- SEC_RGN bits [7:7], reset 0x0 / warm. -/
def Reg.SEC_RGN.LOCK (ck i : Nat) : Fld :=
  mkFld (0xC9010000 + ck * 0x200 + i * 0x10) 7 1 .rwl .warm 0x0 (.any)

/-- SEC_RGN bits [51:12], reset 0x0 / warm. -/
def Reg.SEC_RGN.BASE (ck i : Nat) : Fld :=
  mkFld (0xC9010000 + ck * 0x200 + i * 0x10) 12 40 .rwl .warm 0x0 (.any)

/-- SEC_RGN bits [63:52], reset 0x0 / warm. -/
def Reg.SEC_RGN.TENANT (ck i : Nat) : Fld :=
  mkFld (0xC9010000 + ck * 0x200 + i * 0x10) 52 12 .rwl .warm 0x0 (.any)

/-- SEC_RGN bits [51:12], reset 0x0 / warm. -/
def Reg.SEC_RGN.LIMIT (ck i : Nat) : Fld :=
  mkFld (0xC9010008 + ck * 0x200 + i * 0x10) 12 40 .rwl .warm 0x0 (.any)

/-- OTP_CAPS bits [15:0], reset 0x8000 / none. -/
def Reg.OTP_CAPS.BITS : Fld :=
  mkFld (0xC9800000) 0 16 .ro .never 0x8000 (.any)

/-- OTP_CAPS bits [23:16], reset 0x80 / none. -/
def Reg.OTP_CAPS.FIELDS : Fld :=
  mkFld (0xC9800000) 16 8 .ro .never 0x80 (.any)

/-- OTP_CAPS bits [27:24], reset 0x4 / none. -/
def Reg.OTP_CAPS.GENS : Fld :=
  mkFld (0xC9800000) 24 4 .ro .never 0x4 (.any)

/-- OTP_CMD bits [0:0], reset 0x0 / warm. -/
def Reg.OTP_CMD.PROG : Fld :=
  mkFld (0xC9800008) 0 1 .wo .warm 0x0 (.any)

/-- OTP_CMD bits [14:8], reset 0x0 / warm. -/
def Reg.OTP_CMD.FIELD : Fld :=
  mkFld (0xC9800008) 8 7 .wo .warm 0x0 (.any)

/-- OTP_DATA bits [55:0], reset 0x0 / warm. -/
def Reg.OTP_DATA.VALUE : Fld :=
  mkFld (0xC9800010) 0 56 .rw .warm 0x0 (.any)

/-- OTP_STATUS bits [0:0], reset 0x0 / warm. -/
def Reg.OTP_STATUS.BUSY : Fld :=
  mkFld (0xC9800018) 0 1 .ro .warm 0x0 (.any)

/-- OTP_STATUS bits [3:1], reset 0x0 / warm. -/
def Reg.OTP_STATUS.RESULT : Fld :=
  mkFld (0xC9800018) 1 3 .ro .warm 0x0 (.any)

/-- OTP_STATUS bits [5:4], reset 0x0 / warm. -/
def Reg.OTP_STATUS.GEN : Fld :=
  mkFld (0xC9800018) 4 2 .ro .warm 0x0 (.any)

/-- OTP_FIELD bits [55:0], reset 0x0 / none. -/
def Reg.OTP_FIELD.VALUE (f : Nat) : Fld :=
  mkFld (0xC9800400 + f * 0x8) 0 56 .ro .never 0x0 (.any)

/-- OTP_FIELD bits [57:56], reset 0x0 / none. -/
def Reg.OTP_FIELD.GEN (f : Nat) : Fld :=
  mkFld (0xC9800400 + f * 0x8) 56 2 .ro .never 0x0 (.any)

/-- OTP_FIELD bits [58:58], reset 0x0 / none. -/
def Reg.OTP_FIELD.NONE (f : Nat) : Fld :=
  mkFld (0xC9800400 + f * 0x8) 58 1 .ro .never 0x0 (.any)

/-- OTP_FIELD bits [59:59], reset 0x0 / none. -/
def Reg.OTP_FIELD.FINAL (f : Nat) : Fld :=
  mkFld (0xC9800400 + f * 0x8) 59 1 .ro .never 0x0 (.any)

/-- OTP_FIELD bits [63:60], reset 0x0 / none. -/
def Reg.OTP_FIELD.USED (f : Nat) : Fld :=
  mkFld (0xC9800400 + f * 0x8) 60 4 .ro .never 0x0 (.any)

/-- AUD_CAPS bits [12:0], reset 0x1000 / none. -/
def Reg.AUD_CAPS.RING : Fld :=
  mkFld (0xC9C00000) 0 13 .ro .never 0x1000 (.any)

/-- AUD_CAPS bits [24:16], reset 0x100 / none. -/
def Reg.AUD_CAPS.RESERVE : Fld :=
  mkFld (0xC9C00000) 16 9 .ro .never 0x100 (.any)

/-- AUD_CTRL bits [0:0], reset 0x0 / warm. -/
def Reg.AUD_CTRL.DRAM_EN : Fld :=
  mkFld (0xC9C00008) 0 1 .rwl .warm 0x0 (.any)

/-- AUD_CTRL bits [1:1], reset 0x0 / cold. -/
def Reg.AUD_CTRL.MRAM_EN : Fld :=
  mkFld (0xC9C00008) 1 1 .rwl .cold 0x0 (.any)

/-- AUD_CTRL bits [8:8], reset 0x0 / warm. -/
def Reg.AUD_CTRL.LOCK : Fld :=
  mkFld (0xC9C00008) 8 1 .rwl .warm 0x0 (.any)

/-- AUD_DRAM bits [4:0], reset 0xA / warm. -/
def Reg.AUD_DRAM.LOG2 : Fld :=
  mkFld (0xC9C00010) 0 5 .rwl .warm 0xA (.range 10 24)

/-- AUD_DRAM bits [51:16], reset 0x0 / warm. -/
def Reg.AUD_DRAM.BASE : Fld :=
  mkFld (0xC9C00010) 16 36 .rwl .warm 0x0 (.any)

/-- AUD_MRAM bits [4:0], reset 0xF / cold. -/
def Reg.AUD_MRAM.LOG2 : Fld :=
  mkFld (0xC9C00018) 0 5 .rwl .cold 0xF (.range 8 16)

/-- AUD_MRAM bits [22:16], reset 0x0 / cold. -/
def Reg.AUD_MRAM.OFFSET : Fld :=
  mkFld (0xC9C00018) 16 7 .rwl .cold 0x0 (.any)

/-- AUD_STATUS bits [12:0], reset 0x0 / warm. -/
def Reg.AUD_STATUS.USED : Fld :=
  mkFld (0xC9C00020) 0 13 .ro .warm 0x0 (.any)

/-- AUD_STATUS bits [13:13], reset 0x0 / warm. -/
def Reg.AUD_STATUS.STALL : Fld :=
  mkFld (0xC9C00020) 13 1 .ro .warm 0x0 (.any)

/-- AUD_STATUS bits [14:14], reset 0x0 / warm. -/
def Reg.AUD_STATUS.HW_WAIT : Fld :=
  mkFld (0xC9C00020) 14 1 .ro .warm 0x0 (.any)

/-- AUD_STATUS bits [15:15], reset 0x0 / warm. -/
def Reg.AUD_STATUS.DRAM_FULL : Fld :=
  mkFld (0xC9C00020) 15 1 .ro .warm 0x0 (.any)

/-- AUD_STATUS bits [16:16], reset 0x0 / warm. -/
def Reg.AUD_STATUS.DRAM_REFUSED : Fld :=
  mkFld (0xC9C00020) 16 1 .rw1c .warm 0x0 (.any)

/-- AUD_SEQ bits [63:0], reset 0x0 / cold. -/
def Reg.AUD_SEQ.SEQ : Fld :=
  mkFld (0xC9C00028) 0 64 .ro .cold 0x0 (.any)

/-- AUD_STALL_CNT bits [31:0], reset 0x0 / warm. -/
def Reg.AUD_STALL_CNT.STALLS : Fld :=
  mkFld (0xC9C00030) 0 32 .rc .warm 0x0 (.any)

/-- AUD_STALL_CNT bits [63:32], reset 0x0 / warm. -/
def Reg.AUD_STALL_CNT.HW_WAITS : Fld :=
  mkFld (0xC9C00030) 32 32 .rc .warm 0x0 (.any)

/-- AUD_DIGEST bits [63:0], reset 0x0 / cold. -/
def Reg.AUD_DIGEST.DIGEST (j : Nat) : Fld :=
  mkFld (0xC9C00040 + j * 0x8) 0 64 .ro .cold 0x0 (.any)

/-- AUD_IRQ bits [15:0], reset 0x0 / warm. -/
def Reg.AUD_IRQ.AGENT : Fld :=
  mkFld (0xC9C00060) 0 16 .rw .warm 0x0 (.agent)

/-- AUD_IRQ bits [21:16], reset 0x0 / warm. -/
def Reg.AUD_IRQ.VEC : Fld :=
  mkFld (0xC9C00060) 16 6 .rw .warm 0x0 (.any)

/-- AUD_IRQ bits [22:22], reset 0x0 / warm. -/
def Reg.AUD_IRQ.EN : Fld :=
  mkFld (0xC9C00060) 22 1 .rw .warm 0x0 (.any)

/-- AUD_IRQ bits [44:32], reset 0xC00 / warm. -/
def Reg.AUD_IRQ.THRESH : Fld :=
  mkFld (0xC9C00060) 32 13 .rw .warm 0xC00 (.any)

/-- AUD_LAST bits [63:0], reset 0x0 / cold. -/
def Reg.AUD_LAST.REC (j : Nat) : Fld :=
  mkFld (0xC9C00080 + j * 0x8) 0 64 .ro .cold 0x0 (.any)

/-- CFG_CAPS bits [7:0], reset 0x20 / none. -/
def Reg.CFG_CAPS.POOLS : Fld :=
  mkFld (0xCA000000) 0 8 .ro .never 0x20 (.any)

/-- CFG_CAPS bits [15:8], reset 0x40 / none. -/
def Reg.CFG_CAPS.LOCKS : Fld :=
  mkFld (0xCA000000) 8 8 .ro .never 0x40 (.any)

/-- CFG_CAPS bits [23:16], reset 0x40 / none. -/
def Reg.CFG_CAPS.IMAGE_MAX : Fld :=
  mkFld (0xCA000000) 16 8 .ro .never 0x40 (.any)

/-- CFG_CTRL bits [0:0], reset 0x0 / warm. -/
def Reg.CFG_CTRL.LOCK : Fld :=
  mkFld (0xCA000008) 0 1 .rwl .warm 0x0 (.any)

/-- CFG_BOOT bits [1:0], reset 0x3 / warm. -/
def Reg.CFG_BOOT.SLOT : Fld :=
  mkFld (0xCA000010) 0 2 .ro .warm 0x3 (.any)

/-- CFG_BOOT bits [3:2], reset 0x0 / warm. -/
def Reg.CFG_BOOT.KEY : Fld :=
  mkFld (0xCA000010) 2 2 .ro .warm 0x0 (.any)

/-- CFG_BOOT bits [4:4], reset 0x0 / cold. -/
def Reg.CFG_BOOT.WARM : Fld :=
  mkFld (0xCA000010) 4 1 .ro .cold 0x0 (.any)

/-- CFG_BOOT bits [5:5], reset 0x0 / warm. -/
def Reg.CFG_BOOT.DONE : Fld :=
  mkFld (0xCA000010) 5 1 .ro .warm 0x0 (.any)

/-- CFG_BOOT bits [7:6], reset 0x0 / warm. -/
def Reg.CFG_BOOT.RESULT : Fld :=
  mkFld (0xCA000010) 6 2 .ro .warm 0x0 (.any)

/-- CFG_BOOT bits [11:8], reset 0x0 / warm. -/
def Reg.CFG_BOOT.A_FAIL : Fld :=
  mkFld (0xCA000010) 8 4 .ro .warm 0x0 (.any)

/-- CFG_BOOT bits [15:12], reset 0x0 / warm. -/
def Reg.CFG_BOOT.B_FAIL : Fld :=
  mkFld (0xCA000010) 12 4 .ro .warm 0x0 (.any)

/-- CFG_BOOT bits [63:32], reset 0x0 / warm. -/
def Reg.CFG_BOOT.SVN : Fld :=
  mkFld (0xCA000010) 32 32 .ro .warm 0x0 (.any)

/-- CFG_BOOT_FAIL bits [15:0], reset 0x0 / warm. -/
def Reg.CFG_BOOT_FAIL.RECORD : Fld :=
  mkFld (0xCA000018) 0 16 .ro .warm 0x0 (.any)

/-- CFG_BOOT_FAIL bits [20:16], reset 0x0 / warm. -/
def Reg.CFG_BOOT_FAIL.SECTION : Fld :=
  mkFld (0xCA000018) 16 5 .ro .warm 0x0 (.any)

/-- CFG_STAGE_SRC bits [51:16], reset 0x0 / warm. -/
def Reg.CFG_STAGE_SRC.ADDR : Fld :=
  mkFld (0xCA000020) 16 36 .rw .warm 0x0 (.any)

/-- CFG_STAGE_CMD bits [1:0], reset 0x0 / warm. -/
def Reg.CFG_STAGE_CMD.OP : Fld :=
  mkFld (0xCA000028) 0 2 .wo .warm 0x0 (.any)

/-- CFG_STAGE_CMD bits [11:8], reset 0x0 / warm. -/
def Reg.CFG_STAGE_CMD.SECT : Fld :=
  mkFld (0xCA000028) 8 4 .wo .warm 0x0 (.any)

/-- CFG_STAGE_STATUS bits [0:0], reset 0x0 / warm. -/
def Reg.CFG_STAGE_STATUS.BUSY : Fld :=
  mkFld (0xCA000030) 0 1 .ro .warm 0x0 (.any)

/-- CFG_STAGE_STATUS bits [3:1], reset 0x0 / warm. -/
def Reg.CFG_STAGE_STATUS.RESULT : Fld :=
  mkFld (0xCA000030) 1 3 .ro .warm 0x0 (.any)

/-- CFG_STAGE_STATUS bits [7:4], reset 0x0 / warm. -/
def Reg.CFG_STAGE_STATUS.AUTH : Fld :=
  mkFld (0xCA000030) 4 4 .ro .warm 0x0 (.any)

/-- CFG_STAGE_STATUS bits [8:8], reset 0x0 / warm. -/
def Reg.CFG_STAGE_STATUS.VALID : Fld :=
  mkFld (0xCA000030) 8 1 .ro .warm 0x0 (.any)

/-- CFG_STAGE_STATUS bits [13:9], reset 0x0 / warm. -/
def Reg.CFG_STAGE_STATUS.SECTION : Fld :=
  mkFld (0xCA000030) 9 5 .ro .warm 0x0 (.any)

/-- CFG_STAGE_STATUS bits [31:16], reset 0x0 / warm. -/
def Reg.CFG_STAGE_STATUS.RECORD : Fld :=
  mkFld (0xCA000030) 16 16 .ro .warm 0x0 (.any)

/-- CFG_STAGE_STATUS bits [34:32], reset 0x0 / warm. -/
def Reg.CFG_STAGE_STATUS.REASON : Fld :=
  mkFld (0xCA000030) 32 3 .ro .warm 0x0 (.any)

/-- CFG_STAGE_SVN bits [31:0], reset 0x0 / warm. -/
def Reg.CFG_STAGE_SVN.SVN : Fld :=
  mkFld (0xCA000038) 0 32 .ro .warm 0x0 (.any)

/-- CFG_PRESENT bits [4:0], reset 0x1F / warm. -/
def Reg.CFG_PRESENT.CLU (d : Nat) : Fld :=
  mkFld (0xCA000040 + d * 0x8) 0 5 .rwl .warm 0x1F (.any)

/-- CFG_PRESENT bits [24:5], reset 0xFFFFF / warm. -/
def Reg.CFG_PRESENT.CORE (d : Nat) : Fld :=
  mkFld (0xCA000040 + d * 0x8) 5 20 .rwl .warm 0xFFFFF (.any)

/-- CFG_PRESENT bits [63:63], reset 0x1 / warm. -/
def Reg.CFG_PRESENT.DIE (d : Nat) : Fld :=
  mkFld (0xCA000040 + d * 0x8) 63 1 .rwl .warm 0x1 (.any)

/-- CFG_POOL bits [0:0], reset 0x0 / warm. -/
def Reg.CFG_POOL.EN (p : Nat) : Fld :=
  mkFld (0xCA000100 + p * 0x10) 0 1 .rws .warm 0x0 (.any)

/-- CFG_POOL bits [15:4], reset 0x0 / warm. -/
def Reg.CFG_POOL.TFIRST (p : Nat) : Fld :=
  mkFld (0xCA000100 + p * 0x10) 4 12 .rws .warm 0x0 (.any)

/-- CFG_POOL bits [27:16], reset 0x0 / warm. -/
def Reg.CFG_POOL.TCOUNT (p : Nat) : Fld :=
  mkFld (0xCA000100 + p * 0x10) 16 12 .rws .warm 0x0 (.any)

/-- CFG_POOL bits [52:32], reset 0x0 / warm. -/
def Reg.CFG_POOL.QUOTA (p : Nat) : Fld :=
  mkFld (0xCA000100 + p * 0x10) 32 21 .rws .warm 0x0 (.any)

/-- CFG_POOL bits [15:0], reset 0x0 / warm. -/
def Reg.CFG_POOL.MGR_AGENT (p : Nat) : Fld :=
  mkFld (0xCA000108 + p * 0x10) 0 16 .rws .warm 0x0 (.agent)

/-- CFG_POOL bits [31:16], reset 0x0 / warm. -/
def Reg.CFG_POOL.MGR_MASK (p : Nat) : Fld :=
  mkFld (0xCA000108 + p * 0x10) 16 16 .rws .warm 0x0 (.any)

/-- CFG_POOL_COMMIT bits [0:0], reset 0x0 / warm. -/
def Reg.CFG_POOL_COMMIT.GO : Fld :=
  mkFld (0xCA000300) 0 1 .wo .warm 0x0 (.any)

/-- CFG_POOL_COMMIT bits [1:1], reset 0x0 / warm. -/
def Reg.CFG_POOL_COMMIT.DISCARD : Fld :=
  mkFld (0xCA000300) 1 1 .wo .warm 0x0 (.any)

/-- CFG_POOL_STATUS bits [0:0], reset 0x0 / warm. -/
def Reg.CFG_POOL_STATUS.BUSY : Fld :=
  mkFld (0xCA000308) 0 1 .ro .warm 0x0 (.any)

/-- CFG_POOL_STATUS bits [2:1], reset 0x0 / warm. -/
def Reg.CFG_POOL_STATUS.RESULT : Fld :=
  mkFld (0xCA000308) 1 2 .ro .warm 0x0 (.any)

/-- CFG_POOL_STATUS bits [7:3], reset 0x0 / warm. -/
def Reg.CFG_POOL_STATUS.BAD_POOL : Fld :=
  mkFld (0xCA000308) 3 5 .ro .warm 0x0 (.any)

/-- CFG_POOL_STATUS bits [10:8], reset 0x0 / warm. -/
def Reg.CFG_POOL_STATUS.REASON : Fld :=
  mkFld (0xCA000308) 8 3 .ro .warm 0x0 (.any)

/-- CFG_POOL_STATUS bits [27:16], reset 0x0 / warm. -/
def Reg.CFG_POOL_STATUS.BAD_TENANT : Fld :=
  mkFld (0xCA000308) 16 12 .ro .warm 0x0 (.any)

/-- CFG_POOL_CMD bits [2:0], reset 0x0 / warm. -/
def Reg.CFG_POOL_CMD.OP (p : Nat) : Fld :=
  mkFld (0xCA000400 + p * 0x10) 0 3 .wo .warm 0x0 (.any)

/-- CFG_POOL_CMD bits [3:3], reset 0x0 / warm. -/
def Reg.CFG_POOL_CMD.ANY (p : Nat) : Fld :=
  mkFld (0xCA000400 + p * 0x10) 3 1 .wo .warm 0x0 (.any)

/-- CFG_POOL_CMD bits [27:16], reset 0x0 / warm. -/
def Reg.CFG_POOL_CMD.TENANT (p : Nat) : Fld :=
  mkFld (0xCA000400 + p * 0x10) 16 12 .wo .warm 0x0 (.any)

/-- CFG_POOL_CMD_STATUS bits [0:0], reset 0x0 / warm. -/
def Reg.CFG_POOL_CMD_STATUS.BUSY (p : Nat) : Fld :=
  mkFld (0xCA000408 + p * 0x10) 0 1 .ro .warm 0x0 (.any)

/-- CFG_POOL_CMD_STATUS bits [3:1], reset 0x0 / warm. -/
def Reg.CFG_POOL_CMD_STATUS.RESULT (p : Nat) : Fld :=
  mkFld (0xCA000408 + p * 0x10) 1 3 .ro .warm 0x0 (.any)

/-- CFG_POOL_CMD_STATUS bits [27:16], reset 0x0 / warm. -/
def Reg.CFG_POOL_CMD_STATUS.TENANT (p : Nat) : Fld :=
  mkFld (0xCA000408 + p * 0x10) 16 12 .ro .warm 0x0 (.any)

/-- CFG_POOL_CMD_STATUS bits [63:32], reset 0x0 / warm. -/
def Reg.CFG_POOL_CMD_STATUS.DENIED (p : Nat) : Fld :=
  mkFld (0xCA000408 + p * 0x10) 32 32 .rc .warm 0x0 (.any)

/-- CFG_LOCK bits [0:0], reset 0x0 / cold. -/
def Reg.CFG_LOCK.HELD (n : Nat) : Fld :=
  mkFld (0xCA000800 + n * 0x8) 0 1 .ro .cold 0x0 (.any)

/-- CFG_LOCK bits [1:1], reset 0x0 / cold. -/
def Reg.CFG_LOCK.BROKEN (n : Nat) : Fld :=
  mkFld (0xCA000800 + n * 0x8) 1 1 .rw1c .cold 0x0 (.any)

/-- CFG_LOCK bits [2:2], reset 0x0 / cold. -/
def Reg.CFG_LOCK.ACQ (n : Nat) : Fld :=
  mkFld (0xCA000800 + n * 0x8) 2 1 .wo .cold 0x0 (.any)

/-- CFG_LOCK bits [3:3], reset 0x0 / cold. -/
def Reg.CFG_LOCK.REL (n : Nat) : Fld :=
  mkFld (0xCA000800 + n * 0x8) 3 1 .wo .cold 0x0 (.any)

/-- CFG_LOCK bits [31:16], reset 0x0 / cold. -/
def Reg.CFG_LOCK.OWNER (n : Nat) : Fld :=
  mkFld (0xCA000800 + n * 0x8) 16 16 .ro .cold 0x0 (.any)

/-- CFG_LOCK bits [43:32], reset 0x0 / cold. -/
def Reg.CFG_LOCK.TENANT (n : Nat) : Fld :=
  mkFld (0xCA000800 + n * 0x8) 32 12 .ro .cold 0x0 (.any)

/-- CFG_LOCK bits [44:44], reset 0x0 / cold. -/
def Reg.CFG_LOCK.WORLD (n : Nat) : Fld :=
  mkFld (0xCA000800 + n * 0x8) 44 1 .ro .cold 0x0 (.any)

/-- CFG_LOCK_CNT bits [31:0], reset 0x0 / cold. -/
def Reg.CFG_LOCK_CNT.BROKEN : Fld :=
  mkFld (0xCA000A00) 0 32 .rc .cold 0x0 (.any)

/-- CFG_LOCK_CNT bits [63:32], reset 0x0 / cold. -/
def Reg.CFG_LOCK_CNT.CONTENDED : Fld :=
  mkFld (0xCA000A00) 32 32 .rc .cold 0x0 (.any)

/-- PCI_CFG bits [0:0], reset 0x0 / warm. -/
def Reg.PCI_CFG.EN (pt : Nat) : Fld :=
  mkFld (0xCB000000 + pt * 0x10000) 0 1 .rw .warm 0x0 (.any)

/-- PCI_CFG bits [1:1], reset 0x0 / warm. -/
def Reg.PCI_CFG.PERS (pt : Nat) : Fld :=
  mkFld (0xCB000000 + pt * 0x10000) 1 1 .rw .warm 0x0 (.any)

/-- PCI_CFG bits [3:2], reset 0x0 / warm. -/
def Reg.PCI_CFG.BIFUR (pt : Nat) : Fld :=
  mkFld (0xCB000000 + pt * 0x10000) 2 2 .rw .warm 0x0 (.range 0 2)

/-- PCI_CFG bits [4:4], reset 0x0 / warm. -/
def Reg.PCI_CFG.CXL (pt : Nat) : Fld :=
  mkFld (0xCB000000 + pt * 0x10000) 4 1 .rw .warm 0x0 (.any)

/-- PCI_CFG bits [7:5], reset 0x5 / warm. -/
def Reg.PCI_CFG.MAX_RATE (pt : Nat) : Fld :=
  mkFld (0xCB000000 + pt * 0x10000) 5 3 .rw .warm 0x5 (.range 0 5)

/-- PCI_CFG bits [15:8], reset 0x0 / warm. -/
def Reg.PCI_CFG.FBUS (pt : Nat) : Fld :=
  mkFld (0xCB000000 + pt * 0x10000) 8 8 .rw .warm 0x0 (.any)

/-- PCI_CFG bits [16:16], reset 0x0 / warm. -/
def Reg.PCI_CFG.ERR_FREEZE (pt : Nat) : Fld :=
  mkFld (0xCB000000 + pt * 0x10000) 16 1 .rw .warm 0x0 (.any)

/-- PCI_CFG bits [22:17], reset 0x1E / warm. -/
def Reg.PCI_CFG.BAR2_LOG2 (pt : Nat) : Fld :=
  mkFld (0xCB000000 + pt * 0x10000) 17 6 .rw .warm 0x1E (.range 20 46)

/-- PCI_LINK_STATUS bits [63:0], reset 0x0 / warm. -/
def Reg.PCI_LINK_STATUS.LINKS (pt : Nat) : Fld :=
  mkFld (0xCB000008 + pt * 0x10000) 0 64 .ro .warm 0x0 (.any)

/-- PCI_OB bits [63:0], reset 0x0 / warm. -/
def Reg.PCI_OB.OFFSET (pt : Nat) : Fld :=
  mkFld (0xCB000010 + pt * 0x10000) 0 64 .rw .warm 0x0 (.any)

/-- PCI_FTAB bits [51:19], reset 0x0 / warm. -/
def Reg.PCI_FTAB.BASE (pt : Nat) : Fld :=
  mkFld (0xCB000018 + pt * 0x10000) 19 33 .rw .warm 0x0 (.any)

/-- PCI_FCMD bits [2:0], reset 0x0 / warm. -/
def Reg.PCI_FCMD.OP (pt : Nat) : Fld :=
  mkFld (0xCB000020 + pt * 0x10000) 0 3 .wo .warm 0x0 (.any)

/-- PCI_FCMD bits [28:16], reset 0x0 / warm. -/
def Reg.PCI_FCMD.FUNC (pt : Nat) : Fld :=
  mkFld (0xCB000020 + pt * 0x10000) 16 13 .wo .warm 0x0 (.any)

/-- PCI_FCMD_STATUS bits [0:0], reset 0x0 / warm. -/
def Reg.PCI_FCMD_STATUS.BUSY (pt : Nat) : Fld :=
  mkFld (0xCB000028 + pt * 0x10000) 0 1 .ro .warm 0x0 (.any)

/-- PCI_FCMD_STATUS bits [3:1], reset 0x0 / warm. -/
def Reg.PCI_FCMD_STATUS.RESULT (pt : Nat) : Fld :=
  mkFld (0xCB000028 + pt * 0x10000) 1 3 .ro .warm 0x0 (.any)

/-- PCI_FCMD_STATUS bits [5:4], reset 0x0 / warm. -/
def Reg.PCI_FCMD_STATUS.FSTATE (pt : Nat) : Fld :=
  mkFld (0xCB000028 + pt * 0x10000) 4 2 .ro .warm 0x0 (.any)

/-- PCI_MSI bits [63:16], reset 0x0 / warm. -/
def Reg.PCI_MSI.BASE (pt : Nat) : Fld :=
  mkFld (0xCB000030 + pt * 0x10000) 16 48 .rw .warm 0x0 (.any)

/-- PCI_CTO bits [3:0], reset 0x0 / warm. -/
def Reg.PCI_CTO.VALUE (pt : Nat) : Fld :=
  mkFld (0xCB000038 + pt * 0x10000) 0 4 .rw .warm 0x0 (.set 0x6667)

/-- PCI_ERR_CNT0 bits [31:0], reset 0x0 / warm. -/
def Reg.PCI_ERR_CNT0.LATE (pt : Nat) : Fld :=
  mkFld (0xCB000040 + pt * 0x10000) 0 32 .rc .warm 0x0 (.any)

/-- PCI_ERR_CNT0 bits [63:32], reset 0x0 / warm. -/
def Reg.PCI_ERR_CNT0.TIMEOUTS (pt : Nat) : Fld :=
  mkFld (0xCB000040 + pt * 0x10000) 32 32 .rc .warm 0x0 (.any)

/-- PCI_ERR_CNT1 bits [31:0], reset 0x0 / warm. -/
def Reg.PCI_ERR_CNT1.UR (pt : Nat) : Fld :=
  mkFld (0xCB000048 + pt * 0x10000) 0 32 .rc .warm 0x0 (.any)

/-- PCI_ERR_CNT1 bits [63:32], reset 0x0 / warm. -/
def Reg.PCI_ERR_CNT1.DOWN (pt : Nat) : Fld :=
  mkFld (0xCB000048 + pt * 0x10000) 32 32 .rc .warm 0x0 (.any)

/-- PCI_ERR_CNT2 bits [31:0], reset 0x0 / warm. -/
def Reg.PCI_ERR_CNT2.IRQ_DROP (pt : Nat) : Fld :=
  mkFld (0xCB000050 + pt * 0x10000) 0 32 .rc .warm 0x0 (.any)

/-- PCI_CTO_LOG bits [13:0], reset 0x0 / warm. -/
def Reg.PCI_CTO_LOG.TAG (pt : Nat) : Fld :=
  mkFld (0xCB000058 + pt * 0x10000) 0 14 .ro .warm 0x0 (.any)

/-- PCI_CTO_LOG bits [15:14], reset 0x0 / warm. -/
def Reg.PCI_CTO_LOG.LINK (pt : Nat) : Fld :=
  mkFld (0xCB000058 + pt * 0x10000) 14 2 .ro .warm 0x0 (.any)

/-- PCI_CTO_LOG bits [63:63], reset 0x0 / warm. -/
def Reg.PCI_CTO_LOG.VALID (pt : Nat) : Fld :=
  mkFld (0xCB000058 + pt * 0x10000) 63 1 .rw1c .warm 0x0 (.any)

/-- PCI_IRQ bits [15:0], reset 0x0 / warm. -/
def Reg.PCI_IRQ.AGENT (pt : Nat) : Fld :=
  mkFld (0xCB000060 + pt * 0x10000) 0 16 .rw .warm 0x0 (.agent)

/-- PCI_IRQ bits [21:16], reset 0x0 / warm. -/
def Reg.PCI_IRQ.VEC (pt : Nat) : Fld :=
  mkFld (0xCB000060 + pt * 0x10000) 16 6 .rw .warm 0x0 (.any)

/-- PCI_IRQ bits [22:22], reset 0x0 / warm. -/
def Reg.PCI_IRQ.EN (pt : Nat) : Fld :=
  mkFld (0xCB000060 + pt * 0x10000) 22 1 .rw .warm 0x0 (.any)

/-- PCI_WIN_SEL bits [0:0], reset 0x0 / warm. -/
def Reg.PCI_WIN_SEL.SEL (pt : Nat) : Fld :=
  mkFld (0xCB000068 + pt * 0x10000) 0 1 .rw .warm 0x0 (.any)

/-- PCI_WIN_SEL bits [7:4], reset 0x0 / warm. -/
def Reg.PCI_WIN_SEL.EPOCH (pt : Nat) : Fld :=
  mkFld (0xCB000068 + pt * 0x10000) 4 4 .ro .warm 0x0 (.any)

/-- PCI_WIN_SEL bits [23:8], reset 0x0 / warm. -/
def Reg.PCI_WIN_SEL.OLD_BUSY (pt : Nat) : Fld :=
  mkFld (0xCB000068 + pt * 0x10000) 8 16 .ro .warm 0x0 (.any)

/-- PCI_XCMD bits [1:0], reset 0x0 / warm. -/
def Reg.PCI_XCMD.OP (pt : Nat) : Fld :=
  mkFld (0xCB000070 + pt * 0x10000) 0 2 .wo .warm 0x0 (.any)

/-- PCI_XCMD bits [2:2], reset 0x0 / warm. -/
def Reg.PCI_XCMD.ALL (pt : Nat) : Fld :=
  mkFld (0xCB000070 + pt * 0x10000) 2 1 .wo .warm 0x0 (.any)

/-- PCI_XCMD bits [4:3], reset 0x0 / warm. -/
def Reg.PCI_XCMD.CODE (pt : Nat) : Fld :=
  mkFld (0xCB000070 + pt * 0x10000) 3 2 .wo .warm 0x0 (.any)

/-- PCI_XCMD bits [13:5], reset 0x0 / warm. -/
def Reg.PCI_XCMD.PRGI (pt : Nat) : Fld :=
  mkFld (0xCB000070 + pt * 0x10000) 5 9 .wo .warm 0x0 (.any)

/-- PCI_XCMD bits [26:14], reset 0x0 / warm. -/
def Reg.PCI_XCMD.FUNC (pt : Nat) : Fld :=
  mkFld (0xCB000070 + pt * 0x10000) 14 13 .wo .warm 0x0 (.any)

/-- PCI_XCMD bits [63:27], reset 0x0 / warm. -/
def Reg.PCI_XCMD.PAGE (pt : Nat) : Fld :=
  mkFld (0xCB000070 + pt * 0x10000) 27 37 .wo .warm 0x0 (.any)

/-- PCI_XCMD_STATUS bits [0:0], reset 0x0 / warm. -/
def Reg.PCI_XCMD_STATUS.BUSY (pt : Nat) : Fld :=
  mkFld (0xCB000078 + pt * 0x10000) 0 1 .ro .warm 0x0 (.any)

/-- PCI_XCMD_STATUS bits [2:1], reset 0x0 / warm. -/
def Reg.PCI_XCMD_STATUS.RESULT (pt : Nat) : Fld :=
  mkFld (0xCB000078 + pt * 0x10000) 1 2 .ro .warm 0x0 (.any)

/-- PCI_IWIN bits [0:0], reset 0x0 / warm. -/
def Reg.PCI_IWIN.EN (pt b w : Nat) : Fld :=
  mkFld (0xCB000400 + pt * 0x10000 + b * 0x200 + w * 0x20) 0 1 .rw .warm 0x0 (.any)

/-- PCI_IWIN bits [1:1], reset 0x0 / warm. -/
def Reg.PCI_IWIN.RD (pt b w : Nat) : Fld :=
  mkFld (0xCB000400 + pt * 0x10000 + b * 0x200 + w * 0x20) 1 1 .rw .warm 0x0 (.any)

/-- PCI_IWIN bits [2:2], reset 0x0 / warm. -/
def Reg.PCI_IWIN.WR (pt b w : Nat) : Fld :=
  mkFld (0xCB000400 + pt * 0x10000 + b * 0x200 + w * 0x20) 2 1 .rw .warm 0x0 (.any)

/-- PCI_IWIN bits [3:3], reset 0x0 / warm. -/
def Reg.PCI_IWIN.FANY (pt b w : Nat) : Fld :=
  mkFld (0xCB000400 + pt * 0x10000 + b * 0x200 + w * 0x20) 3 1 .rw .warm 0x0 (.any)

/-- PCI_IWIN bits [13:8], reset 0xC / warm. -/
def Reg.PCI_IWIN.SIZE_LOG2 (pt b w : Nat) : Fld :=
  mkFld (0xCB000400 + pt * 0x10000 + b * 0x200 + w * 0x20) 8 6 .rw .warm 0xC (.range 12 46)

/-- PCI_IWIN bits [28:16], reset 0x0 / warm. -/
def Reg.PCI_IWIN.FUNC (pt b w : Nat) : Fld :=
  mkFld (0xCB000400 + pt * 0x10000 + b * 0x200 + w * 0x20) 16 13 .rw .warm 0x0 (.any)

/-- PCI_IWIN bits [63:12], reset 0x0 / warm. -/
def Reg.PCI_IWIN.MATCH (pt b w : Nat) : Fld :=
  mkFld (0xCB000408 + pt * 0x10000 + b * 0x200 + w * 0x20) 12 52 .rw .warm 0x0 (.any)

/-- PCI_IWIN bits [51:12], reset 0x0 / warm. -/
def Reg.PCI_IWIN.TARGET (pt b w : Nat) : Fld :=
  mkFld (0xCB000410 + pt * 0x10000 + b * 0x200 + w * 0x20) 12 40 .rw .warm 0x0 (.any)

/-- PCI_CXL bits [0:0], reset 0x0 / warm. -/
def Reg.PCI_CXL.EN (pt l : Nat) : Fld :=
  mkFld (0xCB000800 + pt * 0x10000 + l * 0x8) 0 1 .rwl .warm 0x0 (.any)

/-- PCI_CXL bits [11:1], reset 0x0 / warm. -/
def Reg.PCI_CXL.BASE (pt l : Nat) : Fld :=
  mkFld (0xCB000800 + pt * 0x10000 + l * 0x8) 1 11 .rwl .warm 0x0 (.any)

/-- PCI_CXL bits [22:12], reset 0x0 / warm. -/
def Reg.PCI_CXL.SIZE (pt l : Nat) : Fld :=
  mkFld (0xCB000800 + pt * 0x10000 + l * 0x8) 12 11 .rwl .warm 0x0 (.any)

/-- SB_CTRL bits [6:0], reset 0x38 / cold. -/
def Reg.SB_CTRL.ADDR : Fld :=
  mkFld (0xCC000000) 0 7 .rw .cold 0x38 (.any)

/-- SB_CTRL bits [14:8], reset 0x30 / cold. -/
def Reg.SB_CTRL.WAKE_ADDR : Fld :=
  mkFld (0xCC000000) 8 7 .rw .cold 0x30 (.any)

/-- SB_CTRL bits [16:16], reset 0x0 / cold. -/
def Reg.SB_CTRL.I3C : Fld :=
  mkFld (0xCC000000) 16 1 .rw .cold 0x0 (.any)

/-- SB_CTRL bits [17:17], reset 0x0 / cold. -/
def Reg.SB_CTRL.PEC : Fld :=
  mkFld (0xCC000000) 17 1 .rw .cold 0x0 (.any)

/-- SB_CTRL bits [18:18], reset 0x1 / cold. -/
def Reg.SB_CTRL.WAKE_EN : Fld :=
  mkFld (0xCC000000) 18 1 .rw .cold 0x1 (.any)

/-- SB_CTRL bits [19:19], reset 0x0 / cold. -/
def Reg.SB_CTRL.WORLD : Fld :=
  mkFld (0xCC000000) 19 1 .rw .cold 0x0 (.any)

/-- SB_STATUS bits [0:0], reset 0x0 / cold. -/
def Reg.SB_STATUS.AWAKE : Fld :=
  mkFld (0xCC000008) 0 1 .ro .cold 0x0 (.any)

/-- SB_STATUS bits [1:1], reset 0x0 / cold. -/
def Reg.SB_STATUS.WAKE_SEEN : Fld :=
  mkFld (0xCC000008) 1 1 .rw1c .cold 0x0 (.any)

/-- SB_STATUS bits [8:2], reset 0x0 / cold. -/
def Reg.SB_STATUS.DYN_ADDR : Fld :=
  mkFld (0xCC000008) 2 7 .ro .cold 0x0 (.any)

/-- SB_STATUS bits [9:9], reset 0x0 / cold. -/
def Reg.SB_STATUS.DYN_VALID : Fld :=
  mkFld (0xCC000008) 9 1 .ro .cold 0x0 (.any)

/-- SB_CNT bits [31:0], reset 0x0 / cold. -/
def Reg.SB_CNT.ACCESSES : Fld :=
  mkFld (0xCC000010) 0 32 .rc .cold 0x0 (.any)

/-- SB_CNT bits [63:32], reset 0x0 / cold. -/
def Reg.SB_CNT.ERRORS : Fld :=
  mkFld (0xCC000010) 32 32 .rc .cold 0x0 (.any)

/-- SB_ALERT bits [0:0], reset 0x0 / cold. -/
def Reg.SB_ALERT.SET : Fld :=
  mkFld (0xCC000018) 0 1 .wo .cold 0x0 (.any)

/-- SB_ALERT bits [1:1], reset 0x0 / cold. -/
def Reg.SB_ALERT.PENDING : Fld :=
  mkFld (0xCC000018) 1 1 .ro .cold 0x0 (.any)

/-- PWR_CL_CTRL bits [0:0], reset 0x0 / die. -/
def Reg.PWR_CL_CTRL.C3_EN (d c : Nat) : Fld :=
  mkFld (0x7000000 + d * 0x10000000 + c * 0x8) 0 1 .rw .die 0x0 (.any)

/-- PWR_CL_CTRL bits [1:1], reset 0x0 / die. -/
def Reg.PWR_CL_CTRL.OFF (d c : Nat) : Fld :=
  mkFld (0x7000000 + d * 0x10000000 + c * 0x8) 1 1 .rw .die 0x0 (.any)

/-- PWR_CL_CTRL bits [31:16], reset 0x64 / die. -/
def Reg.PWR_CL_CTRL.C3_IDLE (d c : Nat) : Fld :=
  mkFld (0x7000000 + d * 0x10000000 + c * 0x8) 16 16 .rw .die 0x64 (.any)

/-- PWR_CORE_STATUS bits [1:0], reset 0x0 / die. -/
def Reg.PWR_CORE_STATUS.CSTATE (d k : Nat) : Fld :=
  mkFld (0x7000040 + d * 0x10000000 + k * 0x8) 0 2 .ro .die 0x0 (.any)

/-- PWR_CORE_STATUS bits [2:2], reset 0x0 / die. -/
def Reg.PWR_CORE_STATUS.SAVE_ERR (d k : Nat) : Fld :=
  mkFld (0x7000040 + d * 0x10000000 + k * 0x8) 2 1 .rw1c .die 0x0 (.any)

/-- PWR_CORE_STATUS bits [3:3], reset 0x0 / die. -/
def Reg.PWR_CORE_STATUS.RESTORE_ERR (d k : Nat) : Fld :=
  mkFld (0x7000040 + d * 0x10000000 + k * 0x8) 3 1 .rw1c .die 0x0 (.any)

/-- PWR_CORE_STATUS bits [63:32], reset 0x0 / die. -/
def Reg.PWR_CORE_STATUS.C3_ENTRIES (d k : Nat) : Fld :=
  mkFld (0x7000040 + d * 0x10000000 + k * 0x8) 32 32 .rc .die 0x0 (.any)

/-- PWR_SAVE bits [51:20], reset 0x0 / die. -/
def Reg.PWR_SAVE.BASE (d : Nat) : Fld :=
  mkFld (0x7000100 + d * 0x10000000) 20 32 .rw .die 0x0 (.any)

/-- PWR_THERM bits [7:0], reset 0x0 / die. -/
def Reg.PWR_THERM.TEMP (d : Nat) : Fld :=
  mkFld (0x7000108 + d * 0x10000000) 0 8 .ro .die 0x0 (.any)

/-- PWR_THERM bits [15:8], reset 0x5F / die. -/
def Reg.PWR_THERM.WARN (d : Nat) : Fld :=
  mkFld (0x7000108 + d * 0x10000000) 8 8 .rw .die 0x5F (.any)

/-- PWR_THERM bits [23:16], reset 0x69 / die. -/
def Reg.PWR_THERM.CRIT (d : Nat) : Fld :=
  mkFld (0x7000108 + d * 0x10000000) 16 8 .rw .die 0x69 (.any)

/-- PWR_THERM bits [24:24], reset 0x0 / die. -/
def Reg.PWR_THERM.WARN_ON (d : Nat) : Fld :=
  mkFld (0x7000108 + d * 0x10000000) 24 1 .ro .die 0x0 (.any)

/-- PWR_THERM bits [25:25], reset 0x0 / die. -/
def Reg.PWR_THERM.CRIT_ON (d : Nat) : Fld :=
  mkFld (0x7000108 + d * 0x10000000) 25 1 .ro .die 0x0 (.any)

/-- PWR_THERM bits [41:32], reset 0x0 / die. -/
def Reg.PWR_THERM.FW_LIMIT (d : Nat) : Fld :=
  mkFld (0x7000108 + d * 0x10000000) 32 10 .rw .die 0x0 (.any)

/-- PWR_DIE_RESULT bits [1:0], reset 0x0 / die. -/
def Reg.PWR_DIE_RESULT.RESULT (d : Nat) : Fld :=
  mkFld (0x7000110 + d * 0x10000000) 0 2 .ro .die 0x0 (.any)

/-- PWR_DIE_RESULT bits [4:2], reset 0x0 / die. -/
def Reg.PWR_DIE_RESULT.CLUSTER (d : Nat) : Fld :=
  mkFld (0x7000110 + d * 0x10000000) 2 3 .ro .die 0x0 (.any)

/-- PWR_DIE_IRQ bits [15:0], reset 0x0 / die. -/
def Reg.PWR_DIE_IRQ.AGENT (d : Nat) : Fld :=
  mkFld (0x7000118 + d * 0x10000000) 0 16 .rw .die 0x0 (.agent)

/-- PWR_DIE_IRQ bits [21:16], reset 0x0 / die. -/
def Reg.PWR_DIE_IRQ.VEC (d : Nat) : Fld :=
  mkFld (0x7000118 + d * 0x10000000) 16 6 .rw .die 0x0 (.any)

/-- PWR_DIE_IRQ bits [22:22], reset 0x0 / die. -/
def Reg.PWR_DIE_IRQ.EN (d : Nat) : Fld :=
  mkFld (0x7000118 + d * 0x10000000) 22 1 .rw .die 0x0 (.any)

/-- PWR_PK_STATUS bits [1:0], reset 0x0 / warm. -/
def Reg.PWR_PK_STATUS.STATE : Fld :=
  mkFld (0xCC800000) 0 2 .ro .warm 0x0 (.any)

/-- PWR_PK_STATUS bits [4:2], reset 0x0 / warm. -/
def Reg.PWR_PK_STATUS.STEP : Fld :=
  mkFld (0xCC800000) 2 3 .ro .warm 0x0 (.any)

/-- PWR_PK_CMD bits [1:0], reset 0x0 / warm. -/
def Reg.PWR_PK_CMD.OP : Fld :=
  mkFld (0xCC800008) 0 2 .wo .warm 0x0 (.any)

/-- PWR_PK_RESULT bits [2:0], reset 0x0 / cold. -/
def Reg.PWR_PK_RESULT.RESULT : Fld :=
  mkFld (0xCC800010) 0 3 .ro .cold 0x0 (.any)

/-- PWR_PK_RESULT bits [5:3], reset 0x0 / cold. -/
def Reg.PWR_PK_RESULT.STEP : Fld :=
  mkFld (0xCC800010) 3 3 .ro .cold 0x0 (.any)

/-- PWR_SEC_ACK bits [0:0], reset 0x0 / warm. -/
def Reg.PWR_SEC_ACK.ACK : Fld :=
  mkFld (0xCC800018) 0 1 .wo .warm 0x0 (.any)

/-- PWR_SEC_ACK_TIMEOUT bits [15:0], reset 0x3E8 / warm. -/
def Reg.PWR_SEC_ACK_TIMEOUT.TIMEOUT : Fld :=
  mkFld (0xCC800020) 0 16 .rw .warm 0x3E8 (.range 1 65535)

/-- PWR_SEC_IRQ bits [15:0], reset 0x0 / warm. -/
def Reg.PWR_SEC_IRQ.AGENT : Fld :=
  mkFld (0xCC800028) 0 16 .rw .warm 0x0 (.agent)

/-- PWR_SEC_IRQ bits [21:16], reset 0x0 / warm. -/
def Reg.PWR_SEC_IRQ.VEC : Fld :=
  mkFld (0xCC800028) 16 6 .rw .warm 0x0 (.any)

/-- PWR_SEC_IRQ bits [22:22], reset 0x0 / warm. -/
def Reg.PWR_SEC_IRQ.EN : Fld :=
  mkFld (0xCC800028) 22 1 .rw .warm 0x0 (.any)

/-- PWR_RETAIN_MASK bits [63:0], reset 0x0 / cold. -/
def Reg.PWR_RETAIN_MASK.BANKS : Fld :=
  mkFld (0xCC800030) 0 64 .rw .cold 0x0 (.any)

/-- PWR_WAKE_RETRIES bits [3:0], reset 0x3 / cold. -/
def Reg.PWR_WAKE_RETRIES.RETRIES : Fld :=
  mkFld (0xCC800038) 0 4 .rw .cold 0x3 (.any)

/-- PWR_WAKE_CTRL bits [0:0], reset 0x0 / cold. -/
def Reg.PWR_WAKE_CTRL.TIMER_EN : Fld :=
  mkFld (0xCC800040) 0 1 .rw .cold 0x0 (.any)

/-- PWR_WAKE_CTRL bits [1:1], reset 0x1 / cold. -/
def Reg.PWR_WAKE_CTRL.PIN_EN : Fld :=
  mkFld (0xCC800040) 1 1 .rw .cold 0x1 (.any)

/-- PWR_WAKE_TIMER bits [47:0], reset 0x0 / cold. -/
def Reg.PWR_WAKE_TIMER.COUNT : Fld :=
  mkFld (0xCC800048) 0 48 .rw .cold 0x0 (.any)

/-- PWR_WAKE_FAIL bits [1:0], reset 0x0 / cold. -/
def Reg.PWR_WAKE_FAIL.STAGE : Fld :=
  mkFld (0xCC800050) 0 2 .ro .cold 0x0 (.any)

/-- PWR_WAKE_FAIL bits [9:2], reset 0x0 / cold. -/
def Reg.PWR_WAKE_FAIL.CODE : Fld :=
  mkFld (0xCC800050) 2 8 .ro .cold 0x0 (.any)

/-- PWR_WAKE_FAIL bits [13:10], reset 0x0 / cold. -/
def Reg.PWR_WAKE_FAIL.ATTEMPT : Fld :=
  mkFld (0xCC800050) 10 4 .ro .cold 0x0 (.any)

/-- PWR_WAKE_FAIL bits [14:14], reset 0x0 / cold. -/
def Reg.PWR_WAKE_FAIL.FAULT : Fld :=
  mkFld (0xCC800050) 14 1 .ro .cold 0x0 (.any)

/-- PWR_WAKE_FAIL bits [63:63], reset 0x0 / cold. -/
def Reg.PWR_WAKE_FAIL.VALID : Fld :=
  mkFld (0xCC800050) 63 1 .rw1c .cold 0x0 (.any)

/-- PWR_WAKE_CAUSE bits [2:0], reset 0x0 / cold. -/
def Reg.PWR_WAKE_CAUSE.SOURCE : Fld :=
  mkFld (0xCC800058) 0 3 .ro .cold 0x0 (.any)

/-- PWR_WAKE_CAUSE bits [8:4], reset 0x0 / cold. -/
def Reg.PWR_WAKE_CAUSE.ATTEMPTS : Fld :=
  mkFld (0xCC800058) 4 5 .ro .cold 0x0 (.any)

/-- PWR_WAKE_CAUSE bits [15:9], reset 0x0 / cold. -/
def Reg.PWR_WAKE_CAUSE.BANKS_LOST : Fld :=
  mkFld (0xCC800058) 9 7 .ro .cold 0x0 (.any)

/-- PWR_GATE_CMD bits [5:0], reset 0x0 / warm. -/
def Reg.PWR_GATE_CMD.TARGET : Fld :=
  mkFld (0xCC800060) 0 6 .wo .warm 0x0 (.any)

/-- PWR_GATE_CMD bits [7:6], reset 0x0 / warm. -/
def Reg.PWR_GATE_CMD.OP : Fld :=
  mkFld (0xCC800060) 6 2 .wo .warm 0x0 (.any)

/-- PWR_GATE_STATUS bits [0:0], reset 0x0 / warm. -/
def Reg.PWR_GATE_STATUS.BUSY : Fld :=
  mkFld (0xCC800068) 0 1 .ro .warm 0x0 (.any)

/-- PWR_GATE_STATUS bits [3:1], reset 0x0 / warm. -/
def Reg.PWR_GATE_STATUS.RESULT : Fld :=
  mkFld (0xCC800068) 1 3 .ro .warm 0x0 (.any)

/-- PWR_GATED bits [51:0], reset 0x0 / warm. -/
def Reg.PWR_GATED.GATED : Fld :=
  mkFld (0xCC800070) 0 52 .ro .warm 0x0 (.any)

/-- PWR_THROTTLE0 bits [63:0], reset 0xFFFFFFFFFFFFFFFF / warm. -/
def Reg.PWR_THROTTLE0.THR : Fld :=
  mkFld (0xCC800078) 0 64 .rw .warm 0xFFFFFFFFFFFFFFFF (.any)

/-- PWR_THROTTLE1 bits [31:0], reset 0xFFFFFFFF / warm. -/
def Reg.PWR_THROTTLE1.THR : Fld :=
  mkFld (0xCC800080) 0 32 .rw .warm 0xFFFFFFFF (.any)

/-- PWR_HUB_THERM bits [7:0], reset 0x0 / warm. -/
def Reg.PWR_HUB_THERM.TEMP : Fld :=
  mkFld (0xCC800088) 0 8 .ro .warm 0x0 (.any)

/-- PWR_HUB_THERM bits [15:8], reset 0x69 / warm. -/
def Reg.PWR_HUB_THERM.CRIT : Fld :=
  mkFld (0xCC800088) 8 8 .rw .warm 0x69 (.any)

/-- PWR_HUB_THERM bits [16:16], reset 0x0 / warm. -/
def Reg.PWR_HUB_THERM.HOT : Fld :=
  mkFld (0xCC800088) 16 1 .ro .warm 0x0 (.any)

/-- PMU_FIX bits [63:0], reset 0x0 / die. -/
def Reg.PMU_FIX.VALUE (d k c f : Nat) : Fld :=
  mkFld (0x5000100 + d * 0x10000000 + k * 0x1000 + c * 0x60 + f * 0x10) 0 64 .rw .die 0x0 (.any)

/-- PMU_FIX bits [0:0], reset 0x0 / die. -/
def Reg.PMU_FIX.OVF (d k c f : Nat) : Fld :=
  mkFld (0x5000108 + d * 0x10000000 + k * 0x1000 + c * 0x60 + f * 0x10) 0 1 .rw1c .die 0x0 (.any)

/-- PMU_FIX bits [1:1], reset 0x0 / die. -/
def Reg.PMU_FIX.LOVF (d k c f : Nat) : Fld :=
  mkFld (0x5000108 + d * 0x10000000 + k * 0x1000 + c * 0x60 + f * 0x10) 1 1 .ro .die 0x0 (.any)

/-- PMU_EVSEL bits [7:0], reset 0x0 / die. -/
def Reg.PMU_EVSEL.EVENT (d k i : Nat) : Fld :=
  mkFld (0x5000400 + d * 0x10000000 + k * 0x1000 + i * 0x8) 0 8 .rw .die 0x0 (.any)

/-- PMU_EVSEL bits [8:8], reset 0x0 / die. -/
def Reg.PMU_EVSEL.EN (d k i : Nat) : Fld :=
  mkFld (0x5000400 + d * 0x10000000 + k * 0x1000 + i * 0x8) 8 1 .rw .die 0x0 (.any)

/-- PMU_EVSEL bits [9:9], reset 0x0 / die. -/
def Reg.PMU_EVSEL.IRQ (d k i : Nat) : Fld :=
  mkFld (0x5000400 + d * 0x10000000 + k * 0x1000 + i * 0x8) 9 1 .rw .die 0x0 (.any)

/-- PMU_EVSEL bits [13:10], reset 0xF / die. -/
def Reg.PMU_EVSEL.CTX (d k i : Nat) : Fld :=
  mkFld (0x5000400 + d * 0x10000000 + k * 0x1000 + i * 0x8) 10 4 .rw .die 0xF (.any)

/-- PMU_EVSEL bits [16:14], reset 0x7 / die. -/
def Reg.PMU_EVSEL.PRIV (d k i : Nat) : Fld :=
  mkFld (0x5000400 + d * 0x10000000 + k * 0x1000 + i * 0x8) 14 3 .rw .die 0x7 (.any)

/-- PMU_EVSEL bits [17:17], reset 0x0 / die. -/
def Reg.PMU_EVSEL.TNT_EN (d k i : Nat) : Fld :=
  mkFld (0x5000400 + d * 0x10000000 + k * 0x1000 + i * 0x8) 17 1 .rw .die 0x0 (.any)

/-- PMU_EVSEL bits [29:18], reset 0x0 / die. -/
def Reg.PMU_EVSEL.TENANT (d k i : Nat) : Fld :=
  mkFld (0x5000400 + d * 0x10000000 + k * 0x1000 + i * 0x8) 18 12 .rw .die 0x0 (.any)

/-- PMU_CNT bits [63:0], reset 0x0 / die. -/
def Reg.PMU_CNT.VALUE (d k i : Nat) : Fld :=
  mkFld (0x5000500 + d * 0x10000000 + k * 0x1000 + i * 0x10) 0 64 .rw .die 0x0 (.any)

/-- PMU_CNT bits [0:0], reset 0x0 / die. -/
def Reg.PMU_CNT.OVF (d k i : Nat) : Fld :=
  mkFld (0x5000508 + d * 0x10000000 + k * 0x1000 + i * 0x10) 0 1 .rw1c .die 0x0 (.any)

/-- PMU_CNT bits [1:1], reset 0x0 / die. -/
def Reg.PMU_CNT.LOVF (d k i : Nat) : Fld :=
  mkFld (0x5000508 + d * 0x10000000 + k * 0x1000 + i * 0x10) 1 1 .ro .die 0x0 (.any)

/-- PMU_SMP_CTRL bits [0:0], reset 0x0 / die. -/
def Reg.PMU_SMP_CTRL.EN (d k : Nat) : Fld :=
  mkFld (0x5000600 + d * 0x10000000 + k * 0x1000) 0 1 .rw .die 0x0 (.any)

/-- PMU_SMP_CTRL bits [3:1], reset 0x0 / die. -/
def Reg.PMU_SMP_CTRL.SEL (d k : Nat) : Fld :=
  mkFld (0x5000600 + d * 0x10000000 + k * 0x1000) 1 3 .rw .die 0x0 (.any)

/-- PMU_SMP_CTRL bits [7:4], reset 0xF / die. -/
def Reg.PMU_SMP_CTRL.CTX (d k : Nat) : Fld :=
  mkFld (0x5000600 + d * 0x10000000 + k * 0x1000) 4 4 .rw .die 0xF (.any)

/-- PMU_SMP_CTRL bits [10:8], reset 0x7 / die. -/
def Reg.PMU_SMP_CTRL.PRIV (d k : Nat) : Fld :=
  mkFld (0x5000600 + d * 0x10000000 + k * 0x1000) 8 3 .rw .die 0x7 (.any)

/-- PMU_SMP_CTRL bits [47:16], reset 0x10000 / die. -/
def Reg.PMU_SMP_CTRL.PERIOD (d k : Nat) : Fld :=
  mkFld (0x5000600 + d * 0x10000000 + k * 0x1000) 16 32 .rw .die 0x10000 (.range 1 4294967295)

/-- PMU_SMP_COUNT bits [31:0], reset 0x10000 / die. -/
def Reg.PMU_SMP_COUNT.COUNT (d k : Nat) : Fld :=
  mkFld (0x5000608 + d * 0x10000000 + k * 0x1000) 0 32 .rw .die 0x10000 (.any)

/-- PMU_SMP_BUF bits [4:0], reset 0xA / die. -/
def Reg.PMU_SMP_BUF.LOG2 (d k : Nat) : Fld :=
  mkFld (0x5000610 + d * 0x10000000 + k * 0x1000) 0 5 .rw .die 0xA (.range 6 16)

/-- PMU_SMP_BUF bits [51:12], reset 0x0 / die. -/
def Reg.PMU_SMP_BUF.BASE (d k : Nat) : Fld :=
  mkFld (0x5000610 + d * 0x10000000 + k * 0x1000) 12 40 .rw .die 0x0 (.any)

/-- PMU_SMP_PTR bits [31:0], reset 0x0 / die. -/
def Reg.PMU_SMP_PTR.PROD (d k : Nat) : Fld :=
  mkFld (0x5000618 + d * 0x10000000 + k * 0x1000) 0 32 .ro .die 0x0 (.any)

/-- PMU_SMP_PTR bits [63:32], reset 0x0 / die. -/
def Reg.PMU_SMP_PTR.CONS (d k : Nat) : Fld :=
  mkFld (0x5000618 + d * 0x10000000 + k * 0x1000) 32 32 .rw .die 0x0 (.any)

/-- PMU_SMP_CNT bits [31:0], reset 0x0 / die. -/
def Reg.PMU_SMP_CNT.LOST (d k : Nat) : Fld :=
  mkFld (0x5000620 + d * 0x10000000 + k * 0x1000) 0 32 .rc .die 0x0 (.any)

/-- PMU_SMP_CNT bits [63:32], reset 0x0 / die. -/
def Reg.PMU_SMP_CNT.SKIPPED (d k : Nat) : Fld :=
  mkFld (0x5000620 + d * 0x10000000 + k * 0x1000) 32 32 .rc .die 0x0 (.any)

/-- PMU_SMP_IRQ bits [15:0], reset 0x0 / die. -/
def Reg.PMU_SMP_IRQ.AGENT (d k : Nat) : Fld :=
  mkFld (0x5000628 + d * 0x10000000 + k * 0x1000) 0 16 .rw .die 0x0 (.agent)

/-- PMU_SMP_IRQ bits [21:16], reset 0x0 / die. -/
def Reg.PMU_SMP_IRQ.VEC (d k : Nat) : Fld :=
  mkFld (0x5000628 + d * 0x10000000 + k * 0x1000) 16 6 .rw .die 0x0 (.any)

/-- PMU_SMP_IRQ bits [22:22], reset 0x0 / die. -/
def Reg.PMU_SMP_IRQ.EN (d k : Nat) : Fld :=
  mkFld (0x5000628 + d * 0x10000000 + k * 0x1000) 22 1 .rw .die 0x0 (.any)

/-- PMU_SMP_IRQ bits [47:32], reset 0x100 / die. -/
def Reg.PMU_SMP_IRQ.WMARK (d k : Nat) : Fld :=
  mkFld (0x5000628 + d * 0x10000000 + k * 0x1000) 32 16 .rw .die 0x100 (.any)

/-- PMU_DIE_CTRL bits [0:0], reset 0x0 / die. -/
def Reg.PMU_DIE_CTRL.FREEZE (d : Nat) : Fld :=
  mkFld (0x5050000 + d * 0x10000000) 0 1 .rw .die 0x0 (.any)

/-- PMU_DIE_IRQ bits [15:0], reset 0x0 / die. -/
def Reg.PMU_DIE_IRQ.AGENT (d : Nat) : Fld :=
  mkFld (0x5050008 + d * 0x10000000) 0 16 .rw .die 0x0 (.agent)

/-- PMU_DIE_IRQ bits [21:16], reset 0x0 / die. -/
def Reg.PMU_DIE_IRQ.VEC (d : Nat) : Fld :=
  mkFld (0x5050008 + d * 0x10000000) 16 6 .rw .die 0x0 (.any)

/-- PMU_DIE_IRQ bits [22:22], reset 0x0 / die. -/
def Reg.PMU_DIE_IRQ.EN (d : Nat) : Fld :=
  mkFld (0x5050008 + d * 0x10000000) 22 1 .rw .die 0x0 (.any)

/-- PMU_HUB_CTRL bits [0:0], reset 0x0 / warm. -/
def Reg.PMU_HUB_CTRL.FREEZE : Fld :=
  mkFld (0xCE030000) 0 1 .rw .warm 0x0 (.any)

/-- PMU_HUB_IRQ bits [15:0], reset 0x0 / warm. -/
def Reg.PMU_HUB_IRQ.AGENT : Fld :=
  mkFld (0xCE030008) 0 16 .rw .warm 0x0 (.agent)

/-- PMU_HUB_IRQ bits [21:16], reset 0x0 / warm. -/
def Reg.PMU_HUB_IRQ.VEC : Fld :=
  mkFld (0xCE030008) 16 6 .rw .warm 0x0 (.any)

/-- PMU_HUB_IRQ bits [22:22], reset 0x0 / warm. -/
def Reg.PMU_HUB_IRQ.EN : Fld :=
  mkFld (0xCE030008) 22 1 .rw .warm 0x0 (.any)

/-- PMU_CC_CTRL bits [0:0], reset 0x0 / warm. -/
def Reg.PMU_CC_CTRL.EN : Fld :=
  mkFld (0xCE030100) 0 1 .rw .warm 0x0 (.any)

/-- PMU_CC_CTRL bits [1:1], reset 0x0 / warm. -/
def Reg.PMU_CC_CTRL.WORLD : Fld :=
  mkFld (0xCE030100) 1 1 .rw .warm 0x0 (.any)

/-- PMU_CC_CTRL bits [31:16], reset 0x3E8 / warm. -/
def Reg.PMU_CC_CTRL.INTERVAL : Fld :=
  mkFld (0xCE030100) 16 16 .rw .warm 0x3E8 (.range 1 65535)

/-- PMU_CC_CTRL bits [44:32], reset 0x1 / warm. -/
def Reg.PMU_CC_CTRL.COUNT : Fld :=
  mkFld (0xCE030100) 32 13 .rw .warm 0x1 (.range 1 4096)

/-- PMU_CC_LIST bits [51:12], reset 0x0 / warm. -/
def Reg.PMU_CC_LIST.BASE : Fld :=
  mkFld (0xCE030108) 12 40 .rw .warm 0x0 (.any)

/-- PMU_CC_RING bits [4:0], reset 0x4 / warm. -/
def Reg.PMU_CC_RING.LOG2 : Fld :=
  mkFld (0xCE030110) 0 5 .rw .warm 0x4 (.range 1 16)

/-- PMU_CC_RING bits [51:16], reset 0x0 / warm. -/
def Reg.PMU_CC_RING.BASE : Fld :=
  mkFld (0xCE030110) 16 36 .rw .warm 0x0 (.any)

/-- PMU_CC_STATUS bits [0:0], reset 0x0 / warm. -/
def Reg.PMU_CC_STATUS.BUSY : Fld :=
  mkFld (0xCE030118) 0 1 .ro .warm 0x0 (.any)

/-- PMU_CC_STATUS bits [1:1], reset 0x0 / warm. -/
def Reg.PMU_CC_STATUS.ERR : Fld :=
  mkFld (0xCE030118) 1 1 .ro .warm 0x0 (.any)

/-- PMU_CC_STATUS bits [63:32], reset 0x0 / warm. -/
def Reg.PMU_CC_STATUS.SEQ : Fld :=
  mkFld (0xCE030118) 32 32 .ro .warm 0x0 (.any)

/-- PMU_CC_CNT bits [31:0], reset 0x0 / warm. -/
def Reg.PMU_CC_CNT.MISSED : Fld :=
  mkFld (0xCE030120) 0 32 .rc .warm 0x0 (.any)

/-- PMU_CC_CNT bits [63:32], reset 0x0 / warm. -/
def Reg.PMU_CC_CNT.FULL : Fld :=
  mkFld (0xCE030120) 32 32 .rc .warm 0x0 (.any)

/-- PMU_CC_IRQ bits [15:0], reset 0x0 / warm. -/
def Reg.PMU_CC_IRQ.AGENT : Fld :=
  mkFld (0xCE030128) 0 16 .rw .warm 0x0 (.agent)

/-- PMU_CC_IRQ bits [21:16], reset 0x0 / warm. -/
def Reg.PMU_CC_IRQ.VEC : Fld :=
  mkFld (0xCE030128) 16 6 .rw .warm 0x0 (.any)

/-- PMU_CC_IRQ bits [22:22], reset 0x0 / warm. -/
def Reg.PMU_CC_IRQ.EN : Fld :=
  mkFld (0xCE030128) 22 1 .rw .warm 0x0 (.any)

/-- NRG_CTX bits [63:0], reset 0x0 / warm. -/
def Reg.NRG_CTX.VALUE (d x : Nat) : Fld :=
  mkFld (0x6000000 + d * 0x10000000 + x * 0x10) 0 64 .ro .warm 0x0 (.any)

/-- NRG_CTX bits [0:0], reset 0x0 / warm. -/
def Reg.NRG_CTX.OVF (d x : Nat) : Fld :=
  mkFld (0x6000008 + d * 0x10000000 + x * 0x10) 0 1 .rw1c .warm 0x0 (.any)

/-- NRG_CTX bits [1:1], reset 0x0 / warm. -/
def Reg.NRG_CTX.LOVF (d x : Nat) : Fld :=
  mkFld (0x6000008 + d * 0x10000000 + x * 0x10) 1 1 .ro .warm 0x0 (.any)

/-- NRG_DOM bits [63:0], reset 0x0 / warm. -/
def Reg.NRG_DOM.VALUE (d j : Nat) : Fld :=
  mkFld (0x6000800 + d * 0x10000000 + j * 0x10) 0 64 .ro .warm 0x0 (.any)

/-- NRG_DOM bits [0:0], reset 0x0 / warm. -/
def Reg.NRG_DOM.OVF (d j : Nat) : Fld :=
  mkFld (0x6000808 + d * 0x10000000 + j * 0x10) 0 1 .rw1c .warm 0x0 (.any)

/-- NRG_DOM bits [1:1], reset 0x0 / warm. -/
def Reg.NRG_DOM.LOVF (d j : Nat) : Fld :=
  mkFld (0x6000808 + d * 0x10000000 + j * 0x10) 1 1 .ro .warm 0x0 (.any)

/-- NRG_DIE_STATUS bits [25:0], reset 0x0 / warm. -/
def Reg.NRG_DIE_STATUS.FAIL (d : Nat) : Fld :=
  mkFld (0x6000A00 + d * 0x10000000) 0 26 .ro .warm 0x0 (.any)

/-- NRG_PKG bits [63:0], reset 0x0 / warm. -/
def Reg.NRG_PKG.VALUE : Fld :=
  mkFld (0xCF000000) 0 64 .ro .warm 0x0 (.any)

/-- NRG_PKG bits [0:0], reset 0x0 / warm. -/
def Reg.NRG_PKG.OVF : Fld :=
  mkFld (0xCF000008) 0 1 .rw1c .warm 0x0 (.any)

/-- NRG_PKG bits [1:1], reset 0x0 / warm. -/
def Reg.NRG_PKG.LOVF : Fld :=
  mkFld (0xCF000008) 1 1 .ro .warm 0x0 (.any)

/-- NRG_STATUS bits [0:0], reset 0x0 / warm. -/
def Reg.NRG_STATUS.DEGRADED : Fld :=
  mkFld (0xCF000010) 0 1 .ro .warm 0x0 (.any)

/-- NRG_STATUS bits [12:8], reset 0x0 / warm. -/
def Reg.NRG_STATUS.HFAIL : Fld :=
  mkFld (0xCF000010) 8 5 .ro .warm 0x0 (.any)

/-- NRG_EPOCH bits [63:0], reset 0x0 / warm. -/
def Reg.NRG_EPOCH.EPOCHS : Fld :=
  mkFld (0xCF000018) 0 64 .ro .warm 0x0 (.any)

/-- NRG_IRQ bits [15:0], reset 0x0 / warm. -/
def Reg.NRG_IRQ.AGENT : Fld :=
  mkFld (0xCF000020) 0 16 .rw .warm 0x0 (.agent)

/-- NRG_IRQ bits [21:16], reset 0x0 / warm. -/
def Reg.NRG_IRQ.VEC : Fld :=
  mkFld (0xCF000020) 16 6 .rw .warm 0x0 (.any)

/-- NRG_IRQ bits [22:22], reset 0x0 / warm. -/
def Reg.NRG_IRQ.EN : Fld :=
  mkFld (0xCF000020) 22 1 .rw .warm 0x0 (.any)

/-- NRG_HDOM bits [63:0], reset 0x0 / warm. -/
def Reg.NRG_HDOM.VALUE (j : Nat) : Fld :=
  mkFld (0xCF000100 + j * 0x10) 0 64 .ro .warm 0x0 (.any)

/-- NRG_HDOM bits [0:0], reset 0x0 / warm. -/
def Reg.NRG_HDOM.OVF (j : Nat) : Fld :=
  mkFld (0xCF000108 + j * 0x10) 0 1 .rw1c .warm 0x0 (.any)

/-- NRG_HDOM bits [1:1], reset 0x0 / warm. -/
def Reg.NRG_HDOM.LOVF (j : Nat) : Fld :=
  mkFld (0xCF000108 + j * 0x10) 1 1 .ro .warm 0x0 (.any)

/-- NRG_MODEL bits [23:0], reset 0x0 / cold. -/
def Reg.NRG_MODEL.COEF (k : Nat) : Fld :=
  mkFld (0xCF000200 + k * 0x8) 0 24 .ro .cold 0x0 (.any)

/-- NRG_MODEL bits [27:0], reset 0x0 / cold. -/
def Reg.NRG_MODEL.A (k : Nat) : Fld :=
  mkFld (0xCF000200 + k * 0x8) 0 28 .ro .cold 0x0 (.any)

/-- NRG_MODEL bits [55:28], reset 0x0 / cold. -/
def Reg.NRG_MODEL.B (k : Nat) : Fld :=
  mkFld (0xCF000200 + k * 0x8) 28 28 .ro .cold 0x0 (.any)

/-- NRG_TNT bits [63:0], reset 0x0 / warm. -/
def Reg.NRG_TNT.VALUE (t : Nat) : Fld :=
  mkFld (0xCF010000 + t * 0x10) 0 64 .ro .warm 0x0 (.any)

/-- NRG_TNT bits [0:0], reset 0x0 / warm. -/
def Reg.NRG_TNT.OVF (t : Nat) : Fld :=
  mkFld (0xCF010008 + t * 0x10) 0 1 .rw1c .warm 0x0 (.any)

/-- NRG_TNT bits [1:1], reset 0x0 / warm. -/
def Reg.NRG_TNT.LOVF (t : Nat) : Fld :=
  mkFld (0xCF010008 + t * 0x10) 1 1 .ro .warm 0x0 (.any)

/-- SPKD_CTRL bits [15:8], reset 0x10 / die. -/
def Reg.SPKD_CTRL.THRESH_COUNT (d : Nat) : Fld :=
  mkFld (0x4000000 + d * 0x10000000) 8 8 .rw .die 0x10 (.range 1 255)

/-- SPKD_CTRL bits [31:16], reset 0x64 / die. -/
def Reg.SPKD_CTRL.THRESH_WINDOW (d : Nat) : Fld :=
  mkFld (0x4000000 + d * 0x10000000) 16 16 .rw .die 0x64 (.range 1 65535)

/-- SPKD_STATUS bits [2:0], reset 0x0 / die. -/
def Reg.SPKD_STATUS.STATE (d : Nat) : Fld :=
  mkFld (0x4000008 + d * 0x10000000) 0 3 .ro .die 0x0 (.any)

/-- SPKD_STATUS bits [3:3], reset 0x0 / die. -/
def Reg.SPKD_STATUS.HALF (d : Nat) : Fld :=
  mkFld (0x4000008 + d * 0x10000000) 3 1 .ro .die 0x0 (.any)

/-- SPKD_STATUS bits [4:4], reset 0x0 / die. -/
def Reg.SPKD_STATUS.DEGRADED (d : Nat) : Fld :=
  mkFld (0x4000008 + d * 0x10000000) 4 1 .ro .die 0x0 (.any)

/-- SPKD_STATUS bits [7:5], reset 0x0 / die. -/
def Reg.SPKD_STATUS.FENCE_CAUSE (d : Nat) : Fld :=
  mkFld (0x4000008 + d * 0x10000000) 5 3 .ro .die 0x0 (.any)

/-- SPKD_STATUS bits [9:8], reset 0x0 / die. -/
def Reg.SPKD_STATUS.DISAGREE (d : Nat) : Fld :=
  mkFld (0x4000008 + d * 0x10000000) 8 2 .ro .die 0x0 (.any)

/-- SPKD_STATUS bits [18:10], reset 0x0 / die. -/
def Reg.SPKD_STATUS.BAD_UP (d : Nat) : Fld :=
  mkFld (0x4000008 + d * 0x10000000) 10 9 .ro .die 0x0 (.any)

/-- SPKD_STATUS bits [27:19], reset 0x0 / die. -/
def Reg.SPKD_STATUS.BAD_DN (d : Nat) : Fld :=
  mkFld (0x4000008 + d * 0x10000000) 19 9 .ro .die 0x0 (.any)

/-- SPKD_ERR_CNT bits [31:0], reset 0x0 / die. -/
def Reg.SPKD_ERR_CNT.CORR_SYMBOLS (d : Nat) : Fld :=
  mkFld (0x4000010 + d * 0x10000000) 0 32 .rc .die 0x0 (.any)

/-- SPKD_ERR_CNT bits [63:32], reset 0x0 / die. -/
def Reg.SPKD_ERR_CNT.REPAIRS (d : Nat) : Fld :=
  mkFld (0x4000010 + d * 0x10000000) 32 32 .rc .die 0x0 (.any)

/-- SPKD_ERR_LOG bits [8:0], reset 0x0 / die. -/
def Reg.SPKD_ERR_LOG.WIRE (d : Nat) : Fld :=
  mkFld (0x4000018 + d * 0x10000000) 0 9 .ro .die 0x0 (.any)

/-- SPKD_ERR_LOG bits [9:9], reset 0x0 / die. -/
def Reg.SPKD_ERR_LOG.DIR (d : Nat) : Fld :=
  mkFld (0x4000018 + d * 0x10000000) 9 1 .ro .die 0x0 (.any)

/-- SPKD_ERR_LOG bits [12:10], reset 0x0 / die. -/
def Reg.SPKD_ERR_LOG.KIND (d : Nat) : Fld :=
  mkFld (0x4000018 + d * 0x10000000) 10 3 .ro .die 0x0 (.any)

/-- SPKD_ERR_LOG bits [63:63], reset 0x0 / die. -/
def Reg.SPKD_ERR_LOG.VALID (d : Nat) : Fld :=
  mkFld (0x4000018 + d * 0x10000000) 63 1 .rw1c .die 0x0 (.any)

/-- SPKD_IRQ bits [15:0], reset 0x0 / die. -/
def Reg.SPKD_IRQ.AGENT (d : Nat) : Fld :=
  mkFld (0x4000020 + d * 0x10000000) 0 16 .rw .die 0x0 (.agent)

/-- SPKD_IRQ bits [21:16], reset 0x0 / die. -/
def Reg.SPKD_IRQ.VEC (d : Nat) : Fld :=
  mkFld (0x4000020 + d * 0x10000000) 16 6 .rw .die 0x0 (.any)

/-- SPKD_IRQ bits [22:22], reset 0x0 / die. -/
def Reg.SPKD_IRQ.EN (d : Nat) : Fld :=
  mkFld (0x4000020 + d * 0x10000000) 22 1 .rw .die 0x0 (.any)

/-- SPKD_BAD_UP bits [63:0], reset 0x0 / die. -/
def Reg.SPKD_BAD_UP.WIRES (d i : Nat) : Fld :=
  mkFld (0x4000040 + d * 0x10000000 + i * 0x8) 0 64 .ro .die 0x0 (.any)

/-- SPKD_BAD_DN bits [63:0], reset 0x0 / die. -/
def Reg.SPKD_BAD_DN.WIRES (d i : Nat) : Fld :=
  mkFld (0x4000080 + d * 0x10000000 + i * 0x8) 0 64 .ro .die 0x0 (.any)

/-- PMU_CLU_EVSEL bits [7:0], reset 0x0 / die. -/
def Reg.PMU_CLU_EVSEL.EVENT (d c i : Nat) : Fld :=
  mkFld (0x5020000 + d * 0x10000000 + c * 0x400 + i * 0x8) 0 8 .rw .die 0x0 (.any)

/-- PMU_CLU_EVSEL bits [8:8], reset 0x0 / die. -/
def Reg.PMU_CLU_EVSEL.EN (d c i : Nat) : Fld :=
  mkFld (0x5020000 + d * 0x10000000 + c * 0x400 + i * 0x8) 8 1 .rw .die 0x0 (.any)

/-- PMU_CLU_EVSEL bits [9:9], reset 0x0 / die. -/
def Reg.PMU_CLU_EVSEL.IRQ (d c i : Nat) : Fld :=
  mkFld (0x5020000 + d * 0x10000000 + c * 0x400 + i * 0x8) 9 1 .rw .die 0x0 (.any)

/-- PMU_CLU_EVSEL bits [17:17], reset 0x0 / die. -/
def Reg.PMU_CLU_EVSEL.TNT_EN (d c i : Nat) : Fld :=
  mkFld (0x5020000 + d * 0x10000000 + c * 0x400 + i * 0x8) 17 1 .rw .die 0x0 (.any)

/-- PMU_CLU_EVSEL bits [29:18], reset 0x0 / die. -/
def Reg.PMU_CLU_EVSEL.TENANT (d c i : Nat) : Fld :=
  mkFld (0x5020000 + d * 0x10000000 + c * 0x400 + i * 0x8) 18 12 .rw .die 0x0 (.any)

/-- PMU_CLU_CNT bits [63:0], reset 0x0 / die. -/
def Reg.PMU_CLU_CNT.VALUE (d c i : Nat) : Fld :=
  mkFld (0x5020100 + d * 0x10000000 + c * 0x400 + i * 0x10) 0 64 .rw .die 0x0 (.any)

/-- PMU_CLU_CNT bits [0:0], reset 0x0 / die. -/
def Reg.PMU_CLU_CNT.OVF (d c i : Nat) : Fld :=
  mkFld (0x5020108 + d * 0x10000000 + c * 0x400 + i * 0x10) 0 1 .rw1c .die 0x0 (.any)

/-- PMU_CLU_CNT bits [1:1], reset 0x0 / die. -/
def Reg.PMU_CLU_CNT.LOVF (d c i : Nat) : Fld :=
  mkFld (0x5020108 + d * 0x10000000 + c * 0x400 + i * 0x10) 1 1 .ro .die 0x0 (.any)

/-- PMU_L3U_EVSEL bits [7:0], reset 0x0 / die. -/
def Reg.PMU_L3U_EVSEL.EVENT (d s i : Nat) : Fld :=
  mkFld (0x5030000 + d * 0x10000000 + s * 0x400 + i * 0x8) 0 8 .rw .die 0x0 (.any)

/-- PMU_L3U_EVSEL bits [8:8], reset 0x0 / die. -/
def Reg.PMU_L3U_EVSEL.EN (d s i : Nat) : Fld :=
  mkFld (0x5030000 + d * 0x10000000 + s * 0x400 + i * 0x8) 8 1 .rw .die 0x0 (.any)

/-- PMU_L3U_EVSEL bits [9:9], reset 0x0 / die. -/
def Reg.PMU_L3U_EVSEL.IRQ (d s i : Nat) : Fld :=
  mkFld (0x5030000 + d * 0x10000000 + s * 0x400 + i * 0x8) 9 1 .rw .die 0x0 (.any)

/-- PMU_L3U_EVSEL bits [17:17], reset 0x0 / die. -/
def Reg.PMU_L3U_EVSEL.TNT_EN (d s i : Nat) : Fld :=
  mkFld (0x5030000 + d * 0x10000000 + s * 0x400 + i * 0x8) 17 1 .rw .die 0x0 (.any)

/-- PMU_L3U_EVSEL bits [29:18], reset 0x0 / die. -/
def Reg.PMU_L3U_EVSEL.TENANT (d s i : Nat) : Fld :=
  mkFld (0x5030000 + d * 0x10000000 + s * 0x400 + i * 0x8) 18 12 .rw .die 0x0 (.any)

/-- PMU_L3U_CNT bits [63:0], reset 0x0 / die. -/
def Reg.PMU_L3U_CNT.VALUE (d s i : Nat) : Fld :=
  mkFld (0x5030100 + d * 0x10000000 + s * 0x400 + i * 0x10) 0 64 .rw .die 0x0 (.any)

/-- PMU_L3U_CNT bits [0:0], reset 0x0 / die. -/
def Reg.PMU_L3U_CNT.OVF (d s i : Nat) : Fld :=
  mkFld (0x5030108 + d * 0x10000000 + s * 0x400 + i * 0x10) 0 1 .rw1c .die 0x0 (.any)

/-- PMU_L3U_CNT bits [1:1], reset 0x0 / die. -/
def Reg.PMU_L3U_CNT.LOVF (d s i : Nat) : Fld :=
  mkFld (0x5030108 + d * 0x10000000 + s * 0x400 + i * 0x10) 1 1 .ro .die 0x0 (.any)

/-- PMU_MESHU_EVSEL bits [7:0], reset 0x0 / die. -/
def Reg.PMU_MESHU_EVSEL.EVENT (d i : Nat) : Fld :=
  mkFld (0x5040000 + d * 0x10000000 + i * 0x8) 0 8 .rw .die 0x0 (.any)

/-- PMU_MESHU_EVSEL bits [8:8], reset 0x0 / die. -/
def Reg.PMU_MESHU_EVSEL.EN (d i : Nat) : Fld :=
  mkFld (0x5040000 + d * 0x10000000 + i * 0x8) 8 1 .rw .die 0x0 (.any)

/-- PMU_MESHU_EVSEL bits [9:9], reset 0x0 / die. -/
def Reg.PMU_MESHU_EVSEL.IRQ (d i : Nat) : Fld :=
  mkFld (0x5040000 + d * 0x10000000 + i * 0x8) 9 1 .rw .die 0x0 (.any)

/-- PMU_MESHU_EVSEL bits [17:17], reset 0x0 / die. -/
def Reg.PMU_MESHU_EVSEL.TNT_EN (d i : Nat) : Fld :=
  mkFld (0x5040000 + d * 0x10000000 + i * 0x8) 17 1 .rw .die 0x0 (.any)

/-- PMU_MESHU_EVSEL bits [29:18], reset 0x0 / die. -/
def Reg.PMU_MESHU_EVSEL.TENANT (d i : Nat) : Fld :=
  mkFld (0x5040000 + d * 0x10000000 + i * 0x8) 18 12 .rw .die 0x0 (.any)

/-- PMU_MESHU_CNT bits [63:0], reset 0x0 / die. -/
def Reg.PMU_MESHU_CNT.VALUE (d i : Nat) : Fld :=
  mkFld (0x5040100 + d * 0x10000000 + i * 0x10) 0 64 .rw .die 0x0 (.any)

/-- PMU_MESHU_CNT bits [0:0], reset 0x0 / die. -/
def Reg.PMU_MESHU_CNT.OVF (d i : Nat) : Fld :=
  mkFld (0x5040108 + d * 0x10000000 + i * 0x10) 0 1 .rw1c .die 0x0 (.any)

/-- PMU_MESHU_CNT bits [1:1], reset 0x0 / die. -/
def Reg.PMU_MESHU_CNT.LOVF (d i : Nat) : Fld :=
  mkFld (0x5040108 + d * 0x10000000 + i * 0x10) 1 1 .ro .die 0x0 (.any)

/-- PMU_SPKU_EVSEL bits [7:0], reset 0x0 / die. -/
def Reg.PMU_SPKU_EVSEL.EVENT (d i : Nat) : Fld :=
  mkFld (0x5040400 + d * 0x10000000 + i * 0x8) 0 8 .rw .die 0x0 (.any)

/-- PMU_SPKU_EVSEL bits [8:8], reset 0x0 / die. -/
def Reg.PMU_SPKU_EVSEL.EN (d i : Nat) : Fld :=
  mkFld (0x5040400 + d * 0x10000000 + i * 0x8) 8 1 .rw .die 0x0 (.any)

/-- PMU_SPKU_EVSEL bits [9:9], reset 0x0 / die. -/
def Reg.PMU_SPKU_EVSEL.IRQ (d i : Nat) : Fld :=
  mkFld (0x5040400 + d * 0x10000000 + i * 0x8) 9 1 .rw .die 0x0 (.any)

/-- PMU_SPKU_EVSEL bits [17:17], reset 0x0 / die. -/
def Reg.PMU_SPKU_EVSEL.TNT_EN (d i : Nat) : Fld :=
  mkFld (0x5040400 + d * 0x10000000 + i * 0x8) 17 1 .rw .die 0x0 (.any)

/-- PMU_SPKU_EVSEL bits [29:18], reset 0x0 / die. -/
def Reg.PMU_SPKU_EVSEL.TENANT (d i : Nat) : Fld :=
  mkFld (0x5040400 + d * 0x10000000 + i * 0x8) 18 12 .rw .die 0x0 (.any)

/-- PMU_SPKU_CNT bits [63:0], reset 0x0 / die. -/
def Reg.PMU_SPKU_CNT.VALUE (d i : Nat) : Fld :=
  mkFld (0x5040500 + d * 0x10000000 + i * 0x10) 0 64 .rw .die 0x0 (.any)

/-- PMU_SPKU_CNT bits [0:0], reset 0x0 / die. -/
def Reg.PMU_SPKU_CNT.OVF (d i : Nat) : Fld :=
  mkFld (0x5040508 + d * 0x10000000 + i * 0x10) 0 1 .rw1c .die 0x0 (.any)

/-- PMU_SPKU_CNT bits [1:1], reset 0x0 / die. -/
def Reg.PMU_SPKU_CNT.LOVF (d i : Nat) : Fld :=
  mkFld (0x5040508 + d * 0x10000000 + i * 0x10) 1 1 .ro .die 0x0 (.any)

/-- PMU_HUBU_EVSEL bits [7:0], reset 0x0 / warm. -/
def Reg.PMU_HUBU_EVSEL.EVENT (g i : Nat) : Fld :=
  mkFld (0xCE000000 + g * 0x400 + i * 0x8) 0 8 .rw .warm 0x0 (.any)

/-- PMU_HUBU_EVSEL bits [8:8], reset 0x0 / warm. -/
def Reg.PMU_HUBU_EVSEL.EN (g i : Nat) : Fld :=
  mkFld (0xCE000000 + g * 0x400 + i * 0x8) 8 1 .rw .warm 0x0 (.any)

/-- PMU_HUBU_EVSEL bits [9:9], reset 0x0 / warm. -/
def Reg.PMU_HUBU_EVSEL.IRQ (g i : Nat) : Fld :=
  mkFld (0xCE000000 + g * 0x400 + i * 0x8) 9 1 .rw .warm 0x0 (.any)

/-- PMU_HUBU_EVSEL bits [17:17], reset 0x0 / warm. -/
def Reg.PMU_HUBU_EVSEL.TNT_EN (g i : Nat) : Fld :=
  mkFld (0xCE000000 + g * 0x400 + i * 0x8) 17 1 .rw .warm 0x0 (.any)

/-- PMU_HUBU_EVSEL bits [29:18], reset 0x0 / warm. -/
def Reg.PMU_HUBU_EVSEL.TENANT (g i : Nat) : Fld :=
  mkFld (0xCE000000 + g * 0x400 + i * 0x8) 18 12 .rw .warm 0x0 (.any)

/-- PMU_HUBU_CNT bits [63:0], reset 0x0 / warm. -/
def Reg.PMU_HUBU_CNT.VALUE (g i : Nat) : Fld :=
  mkFld (0xCE000100 + g * 0x400 + i * 0x10) 0 64 .rw .warm 0x0 (.any)

/-- PMU_HUBU_CNT bits [0:0], reset 0x0 / warm. -/
def Reg.PMU_HUBU_CNT.OVF (g i : Nat) : Fld :=
  mkFld (0xCE000108 + g * 0x400 + i * 0x10) 0 1 .rw1c .warm 0x0 (.any)

/-- PMU_HUBU_CNT bits [1:1], reset 0x0 / warm. -/
def Reg.PMU_HUBU_CNT.LOVF (g i : Nat) : Fld :=
  mkFld (0xCE000108 + g * 0x400 + i * 0x10) 1 1 .ro .warm 0x0 (.any)

def Reg.blkHubRows0 : List RegRow := [
  ⟨0x0, [], [Reg.HUB_PKG_ID.PKG, Reg.HUB_PKG_ID.STEPPING], none⟩,
  ⟨0x8, [], [Reg.HUB_AMAP_LOCK.LOCK, Reg.HUB_AMAP_LOCK.BAD, Reg.HUB_AMAP_LOCK.DIGEST], some (Reg.HUB_AMAP_LOCK.LOCK, false)⟩,
  ⟨0x10, [], [Reg.HUB_AMAP_PRESENT.PKG], some (Reg.HUB_AMAP_LOCK.LOCK, false)⟩,
  ⟨0x18, [], [Reg.HUB_AMAP_DRAM.SIZE], some (Reg.HUB_AMAP_LOCK.LOCK, false)⟩,
  ⟨0x20, [], [Reg.HUB_AMAP_CXL.SIZE], some (Reg.HUB_AMAP_LOCK.LOCK, false)⟩,
  ⟨0x40, [(0x8, 8)], [Reg.HUB_ILV.BASE 0, Reg.HUB_ILV.SIZE 0, Reg.HUB_ILV.FIRST_CH 0, Reg.HUB_ILV.NUM_CH 0, Reg.HUB_ILV.EN 0], some (Reg.HUB_AMAP_LOCK.LOCK, false)⟩,
  ⟨0x80, [], [Reg.HUB_DEC_ERR_ADDR.ADDR, Reg.HUB_DEC_ERR_ADDR.VALID], none⟩,
  ⟨0x88, [], [Reg.HUB_DEC_ERR_SRC.AGENT, Reg.HUB_DEC_ERR_SRC.TENANT, Reg.HUB_DEC_ERR_SRC.WRITE, Reg.HUB_DEC_ERR_SRC.COUNT], none⟩]

/-- The registers of one block, at their offsets from the block base. -/
def Reg.blkHub : Blk :=
  ⟨0xC0000000, [], Reg.blkHubRows0⟩

def Reg.blkHub'Rows0 : List RegRow := [
  ⟨0x100, [], [Reg.HUB_CLK_STATUS.ROOT_LOCK, Reg.HUB_CLK_STATUS.DIE_LOCK, Reg.HUB_CLK_STATUS.LOCK_LOST], none⟩,
  ⟨0x140, [(0x8, 12)], [Reg.HUB_CORE_DIV.REQ 0, Reg.HUB_CORE_DIV.CUR 0, Reg.HUB_CORE_DIV.BUSY 0], none⟩]

/-- The registers of one block, at their offsets from the block base. -/
def Reg.blkHub' : Blk :=
  ⟨0xC0000000, [], Reg.blkHub'Rows0⟩

def Reg.blkTimeRows0 : List RegRow := [
  ⟨0x0, [], [Reg.TIME_NOW.VALUE], none⟩,
  ⟨0x8, [], [Reg.TIME_LOAD.VALUE], none⟩,
  ⟨0x10, [], [Reg.TIME_STATUS.VALID, Reg.TIME_STATUS.RECON, Reg.TIME_STATUS.CAUSE, Reg.TIME_STATUS.LOAD_REFUSED], none⟩,
  ⟨0x18, [], [Reg.TIME_UNCERTAINTY.LAST, Reg.TIME_UNCERTAINTY.ACCUM], none⟩,
  ⟨0x20, [], [Reg.TIME_AO_COUNT.COUNT], none⟩,
  ⟨0x28, [], [Reg.TIME_AO_PERIOD.PERIOD, Reg.TIME_AO_PERIOD.VALID], none⟩,
  ⟨0x30, [], [Reg.TIME_AO_CAL.WINDOW_LOG2, Reg.TIME_AO_CAL.DRIFT_PPB], none⟩,
  ⟨0x38, [], [Reg.TIME_AO_SNAP_TIME.TIME], none⟩,
  ⟨0x40, [], [Reg.TIME_AO_SNAP_COUNT.COUNT], none⟩,
  ⟨0x80, [], [Reg.TIME_CL_CTRL.EN, Reg.TIME_CL_CTRL.ROOT, Reg.TIME_CL_CTRL.INTERVAL, Reg.TIME_CL_CTRL.PORT_EN, Reg.TIME_CL_CTRL.ERR_THRESH], none⟩,
  ⟨0x88, [], [Reg.TIME_CL_STATUS.STATE, Reg.TIME_CL_STATUS.SRC_PORT, Reg.TIME_CL_STATUS.HOPS, Reg.TIME_CL_STATUS.ERR, Reg.TIME_CL_STATUS.OFFSET, Reg.TIME_CL_STATUS.DELAY], none⟩,
  ⟨0xC0, [(0x8, 6)], [Reg.TIME_CL_ASYM.ASYM 0], none⟩]

/-- The registers of one block, at their offsets from the block base. -/
def Reg.blkTime : Blk :=
  ⟨0xCD000000, [], Reg.blkTimeRows0⟩

def Reg.blkCoreRows0 : List RegRow := [
  ⟨0x0, [], [Reg.CORE_CAPS.DIST_SET 0 0, Reg.CORE_CAPS.CONTEXTS 0 0, Reg.CORE_CAPS.PEND_MAX 0 0, Reg.CORE_CAPS.SWITCH_COST 0 0, Reg.CORE_CAPS.LMQ 0 0], none⟩,
  ⟨0x8, [], [Reg.CORE_SCHED.QUANTUM 0 0, Reg.CORE_SCHED.IRQ_PREEMPT 0 0, Reg.CORE_SCHED.STALL_CONTINUE 0 0], none⟩,
  ⟨0x10, [(0x8, 4)], [Reg.CORE_CTX_STATUS.STATE 0 0 0, Reg.CORE_CTX_STATUS.PEND 0 0 0, Reg.CORE_CTX_STATUS.MISS 0 0 0, Reg.CORE_CTX_STATUS.TENANT 0 0 0, Reg.CORE_CTX_STATUS.WORLD 0 0 0, Reg.CORE_CTX_STATUS.PRIV 0 0 0], none⟩,
  ⟨0x30, [(0x8, 4)], [Reg.CORE_CTX_ENTRY.ADDR 0 0 0], none⟩,
  ⟨0x50, [(0x8, 4)], [Reg.CORE_CTX_CTRL.START 0 0 0, Reg.CORE_CTX_CTRL.RESET 0 0 0], none⟩]

/-- The registers of one block, at their offsets from the block base. -/
def Reg.blkCore : Blk :=
  ⟨0x0, [(0x10000000, 12), (0x10000, 20)], Reg.blkCoreRows0⟩

def Reg.blkHub''Rows0 : List RegRow := [
  ⟨0x300, [(0x8, 2)], [Reg.HUB_SPRK_SRC.ADDR 0], none⟩,
  ⟨0x310, [], [Reg.HUB_SPRK_COMMIT.N, Reg.HUB_SPRK_COMMIT.S], none⟩,
  ⟨0x318, [], [Reg.HUB_SPRK_STATUS.BUSY, Reg.HUB_SPRK_STATUS.WORLD, Reg.HUB_SPRK_STATUS.RESULT, Reg.HUB_SPRK_STATUS.BAD_SLOT, Reg.HUB_SPRK_STATUS.BAD_UOP, Reg.HUB_SPRK_STATUS.REASON], none⟩]

/-- The registers of one block, at their offsets from the block base. -/
def Reg.blkHub'' : Blk :=
  ⟨0xC0000000, [], Reg.blkHub''Rows0⟩

def Reg.blkClRows0 : List RegRow := [
  ⟨0x0, [], [Reg.CL_L2_CTRL.EN 0 0], none⟩,
  ⟨0x8, [], [Reg.CL_L2_STATUS.BUSY 0 0, Reg.CL_L2_STATUS.DRAINED 0 0, Reg.CL_L2_STATUS.MBUSY 0 0], none⟩,
  ⟨0x10, [], [Reg.CL_L2_LOCK.WAYS 0 0, Reg.CL_L2_LOCK.FILL 0 0, Reg.CL_L2_LOCK.BAD 0 0, Reg.CL_L2_LOCK.FILL_AGENT 0 0], none⟩,
  ⟨0x18, [], [Reg.CL_L2_MAINT.OP 0 0, Reg.CL_L2_MAINT.KEEP_LOCKED 0 0], none⟩,
  ⟨0x20, [], [Reg.CL_ERR_CNT0.L1 0 0, Reg.CL_ERR_CNT0.L2_CLEAN 0 0], none⟩,
  ⟨0x28, [], [Reg.CL_ERR_CNT1.TAG_CORR 0 0, Reg.CL_ERR_CNT1.LOCK_LOSS 0 0], none⟩,
  ⟨0x30, [], [Reg.CL_ERR_LOG.ADDR 0 0, Reg.CL_ERR_LOG.SRC 0 0, Reg.CL_ERR_LOG.VALID 0 0], none⟩,
  ⟨0x38, [], [Reg.CL_ERR_IRQ.AGENT 0 0, Reg.CL_ERR_IRQ.VEC 0 0, Reg.CL_ERR_IRQ.EN 0 0], none⟩]

/-- The registers of one block, at their offsets from the block base. -/
def Reg.blkCl : Blk :=
  ⟨0x1000000, [(0x10000000, 12), (0x10000, 5)], Reg.blkClRows0⟩

def Reg.blkL3Rows0 : List RegRow := [
  ⟨0x0, [], [Reg.L3_CTRL.MAINT 0 0], none⟩,
  ⟨0x8, [], [Reg.L3_STATUS.MBUSY 0 0], none⟩,
  ⟨0x10, [], [Reg.L3_ERR_CNT.CORR 0 0, Reg.L3_ERR_CNT.UNCORR 0 0], none⟩,
  ⟨0x18, [], [Reg.L3_ERR_LOG.ADDR 0 0, Reg.L3_ERR_LOG.SRC 0 0, Reg.L3_ERR_LOG.VALID 0 0], none⟩,
  ⟨0x20, [], [Reg.L3_ERR_IRQ.AGENT 0 0, Reg.L3_ERR_IRQ.VEC 0 0, Reg.L3_ERR_IRQ.EN 0 0], none⟩]

/-- The registers of one block, at their offsets from the block base. -/
def Reg.blkL3 : Blk :=
  ⟨0x2000000, [(0x10000000, 12), (0x10000, 20)], Reg.blkL3Rows0⟩

def Reg.blkHcRows0 : List RegRow := [
  ⟨0x0, [], [Reg.HC_MAINT_BANKS.BANKS], none⟩,
  ⟨0x8, [], [Reg.HC_MAINT_CMD.OP], none⟩,
  ⟨0x10, [], [Reg.HC_STATUS.MBUSY], none⟩,
  ⟨0x18, [], [Reg.HC_ERR_CNT.CORR, Reg.HC_ERR_CNT.UNCORR], none⟩,
  ⟨0x20, [], [Reg.HC_ERR_LOG.ADDR, Reg.HC_ERR_LOG.SRC, Reg.HC_ERR_LOG.BANK, Reg.HC_ERR_LOG.VALID], none⟩,
  ⟨0x28, [], [Reg.HC_ERR_IRQ.AGENT, Reg.HC_ERR_IRQ.VEC, Reg.HC_ERR_IRQ.EN], none⟩,
  ⟨0x100, [], [Reg.HC_RANGE_BASE.ADDR], none⟩,
  ⟨0x108, [], [Reg.HC_RANGE_LEN.LINES], none⟩,
  ⟨0x110, [], [Reg.HC_RANGE_CMD.OP], none⟩,
  ⟨0x118, [], [Reg.HC_RANGE_STATUS.BUSY, Reg.HC_RANGE_STATUS.RESULT], none⟩,
  ⟨0x120, [], [Reg.HC_RANGE_COUNT.SKIPPED, Reg.HC_RANGE_COUNT.POISONED], none⟩]

/-- The registers of one block, at their offsets from the block base. -/
def Reg.blkHc : Blk :=
  ⟨0xC1000000, [], Reg.blkHcRows0⟩

def Reg.blkDirRows0 : List RegRow := [
  ⟨0x0, [], [Reg.DIR_CAPS.WAYS 0, Reg.DIR_CAPS.SETS_LOG2 0, Reg.DIR_CAPS.TRACKERS 0, Reg.DIR_CAPS.WBUF 0], none⟩,
  ⟨0x8, [], [Reg.DIR_CTRL.HOME_TIMEOUT 0, Reg.DIR_CTRL.FWD_TIMEOUT 0], none⟩,
  ⟨0x40, [(0x8, 8)], [Reg.DIR_FENCE.DIE 0 0, Reg.DIR_FENCE.PKG 0 0], none⟩,
  ⟨0x80, [], [Reg.DIR_DEAD_ADDR.ADDR 0, Reg.DIR_DEAD_ADDR.VALID 0], none⟩,
  ⟨0x88, [], [Reg.DIR_DEAD_SRC.CLUSTER 0, Reg.DIR_DEAD_SRC.TYPE 0, Reg.DIR_DEAD_SRC.PKG 0, Reg.DIR_DEAD_SRC.CAUSE 0, Reg.DIR_DEAD_SRC.SLICE 0, Reg.DIR_DEAD_SRC.COUNT 0], none⟩,
  ⟨0x90, [], [Reg.DIR_DEAD_TIME.TIME 0], none⟩,
  ⟨0xA0, [], [Reg.DIR_IRQ.AGENT 0, Reg.DIR_IRQ.VEC 0, Reg.DIR_IRQ.EN 0], none⟩,
  ⟨0x100, [], [Reg.DIR_CNT0.OVF_BCAST 0, Reg.DIR_CNT0.VICTIM_INV 0], none⟩,
  ⟨0x108, [], [Reg.DIR_CNT1.RETRY 0, Reg.DIR_CNT1.LATE_WBK 0], none⟩,
  ⟨0x110, [], [Reg.DIR_CNT2.FENCED_DROP 0, Reg.DIR_CNT2.POISONED 0], none⟩,
  ⟨0x180, [], [Reg.DIR_PROBE.ADDR 0], none⟩,
  ⟨0x188, [], [Reg.DIR_PROBE_ENTRY.STATE 0, Reg.DIR_PROBE_ENTRY.OVF 0, Reg.DIR_PROBE_ENTRY.XPKG 0, Reg.DIR_PROBE_ENTRY.OPEN 0, Reg.DIR_PROBE_ENTRY.HIT 0, Reg.DIR_PROBE_ENTRY.BAD 0, Reg.DIR_PROBE_ENTRY.PTR0 0, Reg.DIR_PROBE_ENTRY.PTR1 0, Reg.DIR_PROBE_ENTRY.PTR2 0, Reg.DIR_PROBE_ENTRY.PTR3 0, Reg.DIR_PROBE_ENTRY.AGE 0], none⟩]

/-- The registers of one block, at their offsets from the block base. -/
def Reg.blkDir : Blk :=
  ⟨0xC2000000, [(0x10000, 16)], Reg.blkDirRows0⟩

def Reg.blkMcRows0 : List RegRow := [
  ⟨0x0, [], [Reg.MC_CAPS.RQ 0, Reg.MC_CAPS.WQ 0, Reg.MC_CAPS.LANES 0, Reg.MC_CAPS.RANKS 0, Reg.MC_CAPS.POSTPONE 0], none⟩,
  ⟨0x8, [], [Reg.MC_CFG.EN 0, Reg.MC_CFG.DIMMS 0, Reg.MC_CFG.RANKS 0, Reg.MC_CFG.STACK 0, Reg.MC_CFG.DENSITY 0, Reg.MC_CFG.LOCK 0, Reg.MC_CFG.BAD 0], some (Reg.MC_CFG.LOCK 0, true)⟩,
  ⟨0x10, [], [Reg.MC_STATUS.STATE 0, Reg.MC_STATUS.CAP 0, Reg.MC_STATUS.RQ 0, Reg.MC_STATUS.WQ 0, Reg.MC_STATUS.DRAIN 0], none⟩,
  ⟨0x18, [], [Reg.MC_TIMING0.CL 0, Reg.MC_TIMING0.CWL 0, Reg.MC_TIMING0.RCD 0, Reg.MC_TIMING0.RP 0, Reg.MC_TIMING0.RAS 0, Reg.MC_TIMING0.RC 0, Reg.MC_TIMING0.WR 0, Reg.MC_TIMING0.RTP 0], some (Reg.MC_CFG.LOCK 0, true)⟩,
  ⟨0x20, [], [Reg.MC_TIMING1.RRD_S 0, Reg.MC_TIMING1.RRD_L 0, Reg.MC_TIMING1.FAW 0, Reg.MC_TIMING1.CCD_L 0, Reg.MC_TIMING1.WTR_S 0, Reg.MC_TIMING1.WTR_L 0, Reg.MC_TIMING1.RFC 0], some (Reg.MC_CFG.LOCK 0, true)⟩,
  ⟨0x28, [], [Reg.MC_SCHED.AGE_CAP 0, Reg.MC_SCHED.WQ_HI 0, Reg.MC_SCHED.WQ_LO 0, Reg.MC_SCHED.CLOSE_IDLE 0], none⟩,
  ⟨0x30, [], [Reg.MC_REF_CTRL.MODE 0, Reg.MC_REF_CTRL.TREFI 0, Reg.MC_REF_CTRL.MR4_MS 0], none⟩,
  ⟨0x38, [], [Reg.MC_REF_POSTPONE_MAX.MAX 0], none⟩,
  ⟨0x40, [], [Reg.MC_REF_STATUS.OWED 0, Reg.MC_REF_STATUS.BURSTS 0, Reg.MC_REF_STATUS.FORCED 0], none⟩,
  ⟨0x48, [], [Reg.MC_PWR.SR_IDLE 0], none⟩,
  ⟨0x50, [], [Reg.MC_CMD.INIT 0, Reg.MC_CMD.READY 0, Reg.MC_CMD.SR_ENTER 0, Reg.MC_CMD.SR_EXIT 0], none⟩,
  ⟨0x58, [], [Reg.MC_SR_STATUS.FAIL 0, Reg.MC_SR_STATUS.STEP 0, Reg.MC_SR_STATUS.DIR 0, Reg.MC_SR_STATUS.ENTRIES 0], none⟩,
  ⟨0x60, [], [Reg.MC_MR_CMD.OP 0, Reg.MC_MR_CMD.RANK 0, Reg.MC_MR_CMD.SUBCH 0, Reg.MC_MR_CMD.ADDR 0, Reg.MC_MR_CMD.DATA 0], none⟩,
  ⟨0x68, [], [Reg.MC_MR_RESULT0.DEV 0], none⟩,
  ⟨0x70, [], [Reg.MC_MR_RESULT1.DEV 0, Reg.MC_MR_RESULT1.BUSY 0], none⟩,
  ⟨0x78, [], [Reg.MC_ALERT.COUNT 0, Reg.MC_ALERT.LIMIT 0], none⟩,
  ⟨0x80, [], [Reg.MC_IRQ.AGENT 0, Reg.MC_IRQ.VEC 0, Reg.MC_IRQ.EN 0], none⟩,
  ⟨0x88, [], [Reg.MC_ERR_CNT.RD 0, Reg.MC_ERR_CNT.WR 0], none⟩,
  ⟨0x100, [], [Reg.MC_TRN_CTRL.OP 0, Reg.MC_TRN_CTRL.RANK 0, Reg.MC_TRN_CTRL.SUBCH 0, Reg.MC_TRN_CTRL.BURSTS 0, Reg.MC_TRN_CTRL.GO 0], none⟩,
  ⟨0x108, [], [Reg.MC_TRN_ADDR.ADDR 0], none⟩,
  ⟨0x110, [], [Reg.MC_TRN_PAT.KIND 0, Reg.MC_TRN_PAT.INV 0, Reg.MC_TRN_PAT.SEED 0], none⟩,
  ⟨0x118, [], [Reg.MC_TRN_SWEEP.TARGET 0, Reg.MC_TRN_SWEEP.START 0, Reg.MC_TRN_SWEEP.STOP 0, Reg.MC_TRN_SWEEP.STEP 0], none⟩,
  ⟨0x120, [], [Reg.MC_TRN_STATUS.BUSY 0, Reg.MC_TRN_STATUS.DONE 0, Reg.MC_TRN_STATUS.REFUSED 0, Reg.MC_TRN_STATUS.ERR 0], none⟩,
  ⟨0x128, [], [Reg.MC_TRN_ERR0.LANE 0], none⟩,
  ⟨0x130, [], [Reg.MC_TRN_ERR1.LANE 0], none⟩]

def Reg.blkMcRows1 : List RegRow := [
  ⟨0x200, [(0x8, 80)], [Reg.MC_TRN_RESULT.FIRST 0 0, Reg.MC_TRN_RESULT.LAST 0 0, Reg.MC_TRN_RESULT.FOUND 0 0, Reg.MC_TRN_RESULT.ERRS 0 0], none⟩,
  ⟨0x600, [(0x8, 16)], [Reg.MC_DLY_CA.DLY 0 0], none⟩,
  ⟨0x1000, [(0x280, 8), (0x8, 80)], [Reg.MC_DLY.WR 0 0 0, Reg.MC_DLY.RD 0 0 0, Reg.MC_DLY.RCVEN 0 0 0, Reg.MC_DLY.VREF 0 0 0], none⟩]

/-- The registers of one block, at their offsets from the block base. -/
def Reg.blkMc : Blk :=
  ⟨0xC3000000, [(0x10000, 24)], Reg.blkMcRows0 ++ Reg.blkMcRows1⟩

def Reg.blkPgRows0 : List RegRow := [
  ⟨0x0, [], [Reg.PG_CAPS.REGIONS, Reg.PG_CAPS.CHECK_LINES, Reg.PG_CAPS.BLOCK_BUF], none⟩,
  ⟨0x8, [], [Reg.PG_CTRL.LOCK, Reg.PG_CTRL.BAD], some (Reg.PG_CTRL.LOCK, false)⟩,
  ⟨0x40, [(0x8, 16)], [Reg.PG_RGN.BASE 0, Reg.PG_RGN.SIZE 0, Reg.PG_RGN.T 0, Reg.PG_RGN.EN 0], some (Reg.PG_CTRL.LOCK, false)⟩,
  ⟨0x100, [], [Reg.PG_SCRUB_BASE.ADDR], none⟩,
  ⟨0x108, [], [Reg.PG_SCRUB_LEN.PAGES], none⟩,
  ⟨0x110, [], [Reg.PG_SCRUB_CMD.OP, Reg.PG_SCRUB_CMD.ABORT], none⟩,
  ⟨0x118, [], [Reg.PG_SCRUB_CTRL.PACE], none⟩,
  ⟨0x120, [], [Reg.PG_SCRUB_STATUS.BUSY, Reg.PG_SCRUB_STATUS.RESULT], none⟩,
  ⟨0x128, [], [Reg.PG_SCRUB_BYTES.BYTES], none⟩,
  ⟨0x130, [], [Reg.PG_SCRUB_CORR.SYMBOLS, Reg.PG_SCRUB_CORR.UNCORR_PAGES], none⟩,
  ⟨0x138, [], [Reg.PG_SCRUB_FIRST.ADDR, Reg.PG_SCRUB_FIRST.VALID], none⟩,
  ⟨0x180, [], [Reg.PG_ERR_CNT0.CORR_LINES, Reg.PG_ERR_CNT0.UNCORR_LINES], none⟩,
  ⟨0x188, [], [Reg.PG_ERR_CNT1.REBUILD, Reg.PG_ERR_CNT1.CARVE], none⟩,
  ⟨0x190, [], [Reg.PG_ERR_LOG.ADDR, Reg.PG_ERR_LOG.CH, Reg.PG_ERR_LOG.KIND, Reg.PG_ERR_LOG.VALID], none⟩,
  ⟨0x198, [], [Reg.PG_ERR_LOG1.SYMBOLS, Reg.PG_ERR_LOG1.ERASED], none⟩,
  ⟨0x1A0, [], [Reg.PG_ERR_IRQ.AGENT, Reg.PG_ERR_IRQ.VEC, Reg.PG_ERR_IRQ.EN, Reg.PG_ERR_IRQ.UNCORR_ONLY], none⟩,
  ⟨0x200, [], [Reg.PG_FLIP_MASK.LANES, Reg.PG_FLIP_MASK.BEATS, Reg.PG_FLIP_MASK.CH, Reg.PG_FLIP_MASK.TARGET, Reg.PG_FLIP_MASK.ARM], none⟩,
  ⟨0x208, [], [Reg.PG_FLIP_STATUS.ADDR, Reg.PG_FLIP_STATUS.FIRED], none⟩]

/-- The registers of one block, at their offsets from the block base. -/
def Reg.blkPg : Blk :=
  ⟨0xC4000000, [], Reg.blkPgRows0⟩

def Reg.blkYrwRows0 : List RegRow := [
  ⟨0x0, [], [Reg.YRW_CTRL.EN1, Reg.YRW_CTRL.EN2, Reg.YRW_CTRL.EN3], none⟩,
  ⟨0x8, [], [Reg.YRW_CNT0.Y1_COMP, Reg.YRW_CNT0.Y1_RAW], none⟩,
  ⟨0x10, [], [Reg.YRW_CNT1.PACKED, Reg.YRW_CNT1.SHRINK], none⟩,
  ⟨0x18, [], [Reg.YRW_CNT2.BUF_HIT, Reg.YRW_CNT2.TAG_BAD], none⟩]

/-- The registers of one block, at their offsets from the block base. -/
def Reg.blkYrw : Blk :=
  ⟨0xC4800000, [], Reg.blkYrwRows0⟩

def Reg.blkSpkRows0 : List RegRow := [
  ⟨0x0, [], [Reg.SPK_CTRL.RETRAIN 0, Reg.SPK_CTRL.THRESH_COUNT 0, Reg.SPK_CTRL.THRESH_WINDOW 0], none⟩,
  ⟨0x8, [], [Reg.SPK_STATUS.STATE 0, Reg.SPK_STATUS.HALF 0, Reg.SPK_STATUS.DEGRADED 0, Reg.SPK_STATUS.FENCE_CAUSE 0, Reg.SPK_STATUS.DISAGREE 0, Reg.SPK_STATUS.BAD_UP 0, Reg.SPK_STATUS.BAD_DN 0], none⟩,
  ⟨0x10, [], [Reg.SPK_ERR_CNT.CORR_SYMBOLS 0, Reg.SPK_ERR_CNT.REPAIRS 0], none⟩,
  ⟨0x18, [], [Reg.SPK_ERR_LOG.WIRE 0, Reg.SPK_ERR_LOG.DIR 0, Reg.SPK_ERR_LOG.KIND 0, Reg.SPK_ERR_LOG.VALID 0], none⟩,
  ⟨0x20, [], [Reg.SPK_IRQ.AGENT 0, Reg.SPK_IRQ.VEC 0, Reg.SPK_IRQ.EN 0], none⟩,
  ⟨0x40, [(0x8, 5)], [Reg.SPK_BAD_UP.WIRES 0 0], none⟩,
  ⟨0x80, [(0x8, 5)], [Reg.SPK_BAD_DN.WIRES 0 0], none⟩]

/-- The registers of one block, at their offsets from the block base. -/
def Reg.blkSpk : Blk :=
  ⟨0xC5000000, [(0x10000, 12)], Reg.blkSpkRows0⟩

def Reg.blkTdmRows0 : List RegRow := [
  ⟨0x0, [], [Reg.TDM_CTRL.EN 0, Reg.TDM_CTRL.MODE 0, Reg.TDM_CTRL.WIDTH_MAX 0, Reg.TDM_CTRL.TRAIN 0, Reg.TDM_CTRL.PEER 0, Reg.TDM_CTRL.RETRY_MAX 0], none⟩,
  ⟨0x8, [], [Reg.TDM_STATUS.STATE 0, Reg.TDM_STATUS.WIDTH 0, Reg.TDM_STATUS.UPPER 0, Reg.TDM_STATUS.REASON 0, Reg.TDM_STATUS.PEER_SEEN 0], none⟩,
  ⟨0x10, [], [Reg.TDM_ERR_CNT.CORR_FLITS 0, Reg.TDM_ERR_CNT.RETRIES 0], none⟩,
  ⟨0x18, [], [Reg.TDM_IRQ.AGENT 0, Reg.TDM_IRQ.VEC 0, Reg.TDM_IRQ.EN 0], none⟩,
  ⟨0x20, [], [Reg.TDM_LANE_BAD.LANES 0], none⟩,
  ⟨0x100, [(0x8, 8)], [Reg.TDM_ROUTE.PORTS 0 0, Reg.TDM_ROUTE.VIA 0 0, Reg.TDM_ROUTE.VIA_EN 0 0], none⟩]

/-- The registers of one block, at their offsets from the block base. -/
def Reg.blkTdm : Blk :=
  ⟨0xC5800000, [(0x10000, 6)], Reg.blkTdmRows0⟩

def Reg.blkTntRows0 : List RegRow := [
  ⟨0x0, [], [Reg.TNT_CAPS.ENTRIES], none⟩,
  ⟨0x8, [], [Reg.TNT_CMD.OP, Reg.TNT_CMD.ANY, Reg.TNT_CMD.TENANT], none⟩,
  ⟨0x10, [], [Reg.TNT_CMD_STATUS.BUSY, Reg.TNT_CMD_STATUS.RESULT, Reg.TNT_CMD_STATUS.TENANT, Reg.TNT_CMD_STATUS.FREE, Reg.TNT_CMD_STATUS.MISSING], none⟩,
  ⟨0x18, [], [Reg.TNT_STATUS.STUCK, Reg.TNT_STATUS.STEP], none⟩,
  ⟨0x20, [], [Reg.TNT_FREEZE_CNT.FREEZES, Reg.TNT_FREEZE_CNT.OVERRUNS], none⟩,
  ⟨0x28, [], [Reg.TNT_IRQ.AGENT, Reg.TNT_IRQ.VEC, Reg.TNT_IRQ.EN], none⟩,
  ⟨0x40000, [(0x20, 960)], [Reg.TNT_CTXF.W0 0], none⟩,
  ⟨0x40008, [(0x20, 960)], [Reg.TNT_CTXF.W1 0], none⟩,
  ⟨0x40010, [(0x20, 960)], [Reg.TNT_CTXF.W2 0], none⟩,
  ⟨0x40018, [(0x20, 960)], [Reg.TNT_CTXF.W3 0], none⟩,
  ⟨0x100000, [(0x20, 4096)], [Reg.TNT_ENT.STATE 0, Reg.TNT_ENT.SV_EN 0, Reg.TNT_ENT.SV_AGENT 0, Reg.TNT_ENT.SV_MASK 0], none⟩,
  ⟨0x100008, [(0x20, 4096)], [Reg.TNT_ENT.WORLD 0, Reg.TNT_ENT.FRING_EN 0, Reg.TNT_ENT.FRING 0], none⟩,
  ⟨0x100010, [(0x20, 4096)], [Reg.TNT_ENT.FRING_LOG2 0, Reg.TNT_ENT.IRQ_VEC 0, Reg.TNT_ENT.IRQ_EN 0, Reg.TNT_ENT.FROZEN 0], none⟩,
  ⟨0x100018, [(0x20, 4096)], [Reg.TNT_ENT.QUEUES 0, Reg.TNT_ENT.QUOTA 0], none⟩,
  ⟨0x200000, [(0x40, 4096)], [Reg.TNT_SV_CMD.OP 0, Reg.TNT_SV_CMD.KIND 0, Reg.TNT_SV_CMD.MASTER 0], none⟩,
  ⟨0x200008, [(0x40, 4096)], [Reg.TNT_SV_STATUS.RESULT 0, Reg.TNT_SV_STATUS.PROD 0], none⟩,
  ⟨0x200010, [(0x40, 4096)], [Reg.TNT_SV_FRING.CONS 0, Reg.TNT_SV_FRING.OVERRUN 0], none⟩]

/-- The registers of one block, at their offsets from the block base. -/
def Reg.blkTnt : Blk :=
  ⟨0xC6000000, [], Reg.blkTntRows0⟩

def Reg.blkHqeRows0 : List RegRow := [
  ⟨0x0, [], [Reg.HQE_CAPS.QUEUES_LOG2, Reg.HQE_CAPS.CACHE_LOG2, Reg.HQE_CAPS.SCHED, Reg.HQE_CAPS.INFLIGHT, Reg.HQE_CAPS.SLOTS], none⟩,
  ⟨0x8, [], [Reg.HQE_CTRL.EN], none⟩,
  ⟨0x10, [], [Reg.HQE_QTAB.BASE], none⟩,
  ⟨0x18, [], [Reg.HQE_PARK.BASE], none⟩,
  ⟨0x20, [], [Reg.HQE_QCMD.OP, Reg.HQE_QCMD.QUEUE], none⟩,
  ⟨0x28, [], [Reg.HQE_QCMD_STATUS.BUSY, Reg.HQE_QCMD_STATUS.RESULT, Reg.HQE_QCMD_STATUS.QSTATE, Reg.HQE_QCMD_STATUS.CACHED, Reg.HQE_QCMD_STATUS.PARKED, Reg.HQE_QCMD_STATUS.INFLIGHT], none⟩,
  ⟨0x30, [], [Reg.HQE_CACHE_STATUS.VALID, Reg.HQE_CACHE_STATUS.ACTIVE], none⟩,
  ⟨0x38, [], [Reg.HQE_CACHE_CNT.SPILLS, Reg.HQE_CACHE_CNT.PARKS], none⟩,
  ⟨0x40, [], [Reg.HQE_ERR_CNT.DB_DISCARD, Reg.HQE_ERR_CNT.PROT], none⟩,
  ⟨0x100, [(0x8, 8)], [Reg.HQE_SCHED.SWAP 0, Reg.HQE_SCHED.PENDING 0, Reg.HQE_SCHED.WRAPS 0], none⟩,
  ⟨0x10000, [(0x4000, 8), (0x8, 2048)], [Reg.HQE_SLOT.SLOT_LO 0 0, Reg.HQE_SLOT.SLOT_HI 0 0], none⟩]

/-- The registers of one block, at their offsets from the block base. -/
def Reg.blkHqe : Blk :=
  ⟨0xC7000000, [], Reg.blkHqeRows0⟩

def Reg.blkRegRows0 : List RegRow := [
  ⟨0x0, [], [Reg.REG_CAPS.ENTRIES, Reg.REG_CAPS.RSV, Reg.REG_CAPS.RESOURCES], none⟩,
  ⟨0x8, [], [Reg.REG_CTRL.EN, Reg.REG_CTRL.DERATE, Reg.REG_CTRL.REMOTE_ENT], none⟩,
  ⟨0x10, [], [Reg.REG_DEGRADED.NOW, Reg.REG_DEGRADED.SEEN], none⟩,
  ⟨0x18, [], [Reg.REG_IRQ.AGENT, Reg.REG_IRQ.VEC, Reg.REG_IRQ.EN], none⟩,
  ⟨0x20, [], [Reg.REG_DEG_CNT.ENTRIES, Reg.REG_DEG_CNT.OVERCOMMITS], none⟩,
  ⟨0x28, [], [Reg.REG_RSV_ARG.ENT, Reg.REG_RSV_ARG.RES, Reg.REG_RSV_ARG.LINES], none⟩,
  ⟨0x30, [], [Reg.REG_RSV_CMD.OP, Reg.REG_RSV_CMD.SLOT], none⟩,
  ⟨0x38, [], [Reg.REG_RSV_STATUS.BUSY, Reg.REG_RSV_STATUS.RESULT], none⟩,
  ⟨0x40, [], [Reg.REG_ADM_LOG.ENT, Reg.REG_ADM_LOG.RES, Reg.REG_ADM_LOG.VALID], none⟩,
  ⟨0x48, [], [Reg.REG_ADM_LOG1.REQ, Reg.REG_ADM_LOG1.AVAIL], none⟩,
  ⟨0x200, [(0x10, 24)], [Reg.REG_RES.BASE 0, Reg.REG_RES.ADMIT 0], none⟩,
  ⟨0x208, [(0x10, 24)], [Reg.REG_RES.CUR 0, Reg.REG_RES.RESERVED 0], none⟩,
  ⟨0x400, [(0x8, 24)], [Reg.REG_SCALE.SCALE 0], none⟩,
  ⟨0x10000, [(0x20, 4096)], [Reg.REG_ENT.EN 0, Reg.REG_ENT.PRIO 0, Reg.REG_ENT.TENANT 0, Reg.REG_ENT.WINDOW 0], none⟩,
  ⟨0x10008, [(0x20, 4096)], [Reg.REG_ENT.LIMIT 0, Reg.REG_ENT.LIMIT_EN 0, Reg.REG_ENT.LAT_TARGET 0], none⟩,
  ⟨0x10010, [(0x20, 4096)], [Reg.REG_ENT.USED 0, Reg.REG_ENT.LAT 0, Reg.REG_ENT.RSVS 0], none⟩,
  ⟨0x10018, [(0x20, 4096)], [Reg.REG_ENT.HELD 0, Reg.REG_ENT.MISUSE 0], none⟩,
  ⟨0x40000, [(0x8, 960)], [Reg.REG_CTX_MAP.ENT 0], none⟩,
  ⟨0x50000, [(0x8, 1024)], [Reg.REG_RSV.ENT 0, Reg.REG_RSV.RES 0, Reg.REG_RSV.LINES 0, Reg.REG_RSV.VALID 0], none⟩]

/-- The registers of one block, at their offsets from the block base. -/
def Reg.blkReg : Blk :=
  ⟨0xC8000000, [], Reg.blkRegRows0⟩

def Reg.blkArbRows0 : List RegRow := [
  ⟨0x0, [], [Reg.ARB_CTRL.STARVE_LIMIT 0, Reg.ARB_CTRL.GUAR_EN 0], none⟩,
  ⟨0x8, [], [Reg.ARB_STATUS.CAND 0, Reg.ARB_STATUS.WAITING 0], none⟩,
  ⟨0x10, [], [Reg.ARB_STARVE.ENT 0, Reg.ARB_STARVE.VALID 0], none⟩,
  ⟨0x18, [], [Reg.ARB_STARVE_CNT.COUNT 0, Reg.ARB_STARVE_CNT.ROUNDS 0], none⟩,
  ⟨0x20, [], [Reg.ARB_IRQ.AGENT 0, Reg.ARB_IRQ.VEC 0, Reg.ARB_IRQ.EN 0], none⟩]

/-- The registers of one block, at their offsets from the block base. -/
def Reg.blkArb : Blk :=
  ⟨0xC8800000, [(0x10000, 12)], Reg.blkArbRows0⟩

def Reg.blkSecRows0 : List RegRow := [
  ⟨0x0, [], [Reg.SEC_CAPS.CHECKERS, Reg.SEC_CAPS.REGIONS], none⟩,
  ⟨0x8, [], [Reg.SEC_DBG.ENABLES, Reg.SEC_DBG.BRK_N, Reg.SEC_DBG.BRK_S, Reg.SEC_DBG.LOCK], some (Reg.SEC_DBG.LOCK, false)⟩,
  ⟨0x10, [], [Reg.SEC_OWN0.CLUSTERS], none⟩,
  ⟨0x18, [], [Reg.SEC_OWN1.BLOCKS], none⟩,
  ⟨0x20, [], [Reg.SEC_WDOG_CTRL.EN, Reg.SEC_WDOG_CTRL.GRACE, Reg.SEC_WDOG_CTRL.PERIOD], some (Reg.SEC_WDOG_CTRL.EN, false)⟩,
  ⟨0x28, [], [Reg.SEC_WDOG_KICK.KEY], none⟩,
  ⟨0x30, [], [Reg.SEC_WDOG_STATUS.REMAIN, Reg.SEC_WDOG_STATUS.STAGE, Reg.SEC_WDOG_STATUS.FIRED], none⟩,
  ⟨0x38, [], [Reg.SEC_WDOG_IRQ.AGENT, Reg.SEC_WDOG_IRQ.VEC, Reg.SEC_WDOG_IRQ.EN], none⟩,
  ⟨0x40, [], [Reg.SEC_VIOL_LOG.ADDR, Reg.SEC_VIOL_LOG.REGION, Reg.SEC_VIOL_LOG.CHECKER, Reg.SEC_VIOL_LOG.VALID], none⟩,
  ⟨0x48, [], [Reg.SEC_VIOL_SRC.AGENT, Reg.SEC_VIOL_SRC.TENANT, Reg.SEC_VIOL_SRC.WORLD, Reg.SEC_VIOL_SRC.WRITE, Reg.SEC_VIOL_SRC.COUNT], none⟩,
  ⟨0x80, [(0x10, 8)], [Reg.SEC_HGATE.EN 0, Reg.SEC_HGATE.LOCK 0, Reg.SEC_HGATE.BASE 0], some (Reg.SEC_HGATE.LOCK 0, true)⟩,
  ⟨0x88, [(0x10, 8)], [Reg.SEC_HGATE.LIMIT 0], some (Reg.SEC_HGATE.LOCK 0, true)⟩,
  ⟨0x10000, [(0x200, 32), (0x10, 32)], [Reg.SEC_RGN.EN 0 0, Reg.SEC_RGN.RIGHTS 0 0, Reg.SEC_RGN.WORLD 0 0, Reg.SEC_RGN.ANY 0 0, Reg.SEC_RGN.LOCK 0 0, Reg.SEC_RGN.BASE 0 0, Reg.SEC_RGN.TENANT 0 0], some (Reg.SEC_RGN.LOCK 0 0, true)⟩,
  ⟨0x10008, [(0x200, 32), (0x10, 32)], [Reg.SEC_RGN.LIMIT 0 0], some (Reg.SEC_RGN.LOCK 0 0, true)⟩]

/-- The registers of one block, at their offsets from the block base. -/
def Reg.blkSec : Blk :=
  ⟨0xC9000000, [], Reg.blkSecRows0⟩

def Reg.blkOtpRows0 : List RegRow := [
  ⟨0x0, [], [Reg.OTP_CAPS.BITS, Reg.OTP_CAPS.FIELDS, Reg.OTP_CAPS.GENS], none⟩,
  ⟨0x8, [], [Reg.OTP_CMD.PROG, Reg.OTP_CMD.FIELD], none⟩,
  ⟨0x10, [], [Reg.OTP_DATA.VALUE], none⟩,
  ⟨0x18, [], [Reg.OTP_STATUS.BUSY, Reg.OTP_STATUS.RESULT, Reg.OTP_STATUS.GEN], none⟩,
  ⟨0x400, [(0x8, 128)], [Reg.OTP_FIELD.VALUE 0, Reg.OTP_FIELD.GEN 0, Reg.OTP_FIELD.NONE 0, Reg.OTP_FIELD.FINAL 0, Reg.OTP_FIELD.USED 0], none⟩]

/-- The registers of one block, at their offsets from the block base. -/
def Reg.blkOtp : Blk :=
  ⟨0xC9800000, [], Reg.blkOtpRows0⟩

def Reg.blkAudRows0 : List RegRow := [
  ⟨0x0, [], [Reg.AUD_CAPS.RING, Reg.AUD_CAPS.RESERVE], none⟩,
  ⟨0x8, [], [Reg.AUD_CTRL.DRAM_EN, Reg.AUD_CTRL.MRAM_EN, Reg.AUD_CTRL.LOCK], some (Reg.AUD_CTRL.LOCK, false)⟩,
  ⟨0x10, [], [Reg.AUD_DRAM.LOG2, Reg.AUD_DRAM.BASE], some (Reg.AUD_CTRL.LOCK, false)⟩,
  ⟨0x18, [], [Reg.AUD_MRAM.LOG2, Reg.AUD_MRAM.OFFSET], some (Reg.AUD_CTRL.LOCK, false)⟩,
  ⟨0x20, [], [Reg.AUD_STATUS.USED, Reg.AUD_STATUS.STALL, Reg.AUD_STATUS.HW_WAIT, Reg.AUD_STATUS.DRAM_FULL, Reg.AUD_STATUS.DRAM_REFUSED], none⟩,
  ⟨0x28, [], [Reg.AUD_SEQ.SEQ], none⟩,
  ⟨0x30, [], [Reg.AUD_STALL_CNT.STALLS, Reg.AUD_STALL_CNT.HW_WAITS], none⟩,
  ⟨0x40, [(0x8, 4)], [Reg.AUD_DIGEST.DIGEST 0], none⟩,
  ⟨0x60, [], [Reg.AUD_IRQ.AGENT, Reg.AUD_IRQ.VEC, Reg.AUD_IRQ.EN, Reg.AUD_IRQ.THRESH], none⟩,
  ⟨0x80, [(0x8, 4)], [Reg.AUD_LAST.REC 0], none⟩]

/-- The registers of one block, at their offsets from the block base. -/
def Reg.blkAud : Blk :=
  ⟨0xC9C00000, [], Reg.blkAudRows0⟩

def Reg.blkCfgRows0 : List RegRow := [
  ⟨0x0, [], [Reg.CFG_CAPS.POOLS, Reg.CFG_CAPS.LOCKS, Reg.CFG_CAPS.IMAGE_MAX], none⟩,
  ⟨0x8, [], [Reg.CFG_CTRL.LOCK], some (Reg.CFG_CTRL.LOCK, false)⟩,
  ⟨0x10, [], [Reg.CFG_BOOT.SLOT, Reg.CFG_BOOT.KEY, Reg.CFG_BOOT.WARM, Reg.CFG_BOOT.DONE, Reg.CFG_BOOT.RESULT, Reg.CFG_BOOT.A_FAIL, Reg.CFG_BOOT.B_FAIL, Reg.CFG_BOOT.SVN], none⟩,
  ⟨0x18, [], [Reg.CFG_BOOT_FAIL.RECORD, Reg.CFG_BOOT_FAIL.SECTION], none⟩,
  ⟨0x20, [], [Reg.CFG_STAGE_SRC.ADDR], none⟩,
  ⟨0x28, [], [Reg.CFG_STAGE_CMD.OP, Reg.CFG_STAGE_CMD.SECT], none⟩,
  ⟨0x30, [], [Reg.CFG_STAGE_STATUS.BUSY, Reg.CFG_STAGE_STATUS.RESULT, Reg.CFG_STAGE_STATUS.AUTH, Reg.CFG_STAGE_STATUS.VALID, Reg.CFG_STAGE_STATUS.SECTION, Reg.CFG_STAGE_STATUS.RECORD, Reg.CFG_STAGE_STATUS.REASON], none⟩,
  ⟨0x38, [], [Reg.CFG_STAGE_SVN.SVN], none⟩,
  ⟨0x40, [(0x8, 12)], [Reg.CFG_PRESENT.CLU 0, Reg.CFG_PRESENT.CORE 0, Reg.CFG_PRESENT.DIE 0], some (Reg.CFG_CTRL.LOCK, false)⟩,
  ⟨0x100, [(0x10, 32)], [Reg.CFG_POOL.EN 0, Reg.CFG_POOL.TFIRST 0, Reg.CFG_POOL.TCOUNT 0, Reg.CFG_POOL.QUOTA 0], none⟩,
  ⟨0x108, [(0x10, 32)], [Reg.CFG_POOL.MGR_AGENT 0, Reg.CFG_POOL.MGR_MASK 0], none⟩,
  ⟨0x300, [], [Reg.CFG_POOL_COMMIT.GO, Reg.CFG_POOL_COMMIT.DISCARD], none⟩,
  ⟨0x308, [], [Reg.CFG_POOL_STATUS.BUSY, Reg.CFG_POOL_STATUS.RESULT, Reg.CFG_POOL_STATUS.BAD_POOL, Reg.CFG_POOL_STATUS.REASON, Reg.CFG_POOL_STATUS.BAD_TENANT], none⟩,
  ⟨0x400, [(0x10, 32)], [Reg.CFG_POOL_CMD.OP 0, Reg.CFG_POOL_CMD.ANY 0, Reg.CFG_POOL_CMD.TENANT 0], none⟩,
  ⟨0x408, [(0x10, 32)], [Reg.CFG_POOL_CMD_STATUS.BUSY 0, Reg.CFG_POOL_CMD_STATUS.RESULT 0, Reg.CFG_POOL_CMD_STATUS.TENANT 0, Reg.CFG_POOL_CMD_STATUS.DENIED 0], none⟩,
  ⟨0x800, [(0x8, 64)], [Reg.CFG_LOCK.HELD 0, Reg.CFG_LOCK.BROKEN 0, Reg.CFG_LOCK.ACQ 0, Reg.CFG_LOCK.REL 0, Reg.CFG_LOCK.OWNER 0, Reg.CFG_LOCK.TENANT 0, Reg.CFG_LOCK.WORLD 0], none⟩,
  ⟨0xA00, [], [Reg.CFG_LOCK_CNT.BROKEN, Reg.CFG_LOCK_CNT.CONTENDED], none⟩]

/-- The registers of one block, at their offsets from the block base. -/
def Reg.blkCfg : Blk :=
  ⟨0xCA000000, [], Reg.blkCfgRows0⟩

def Reg.blkPciRows0 : List RegRow := [
  ⟨0x0, [], [Reg.PCI_CFG.EN 0, Reg.PCI_CFG.PERS 0, Reg.PCI_CFG.BIFUR 0, Reg.PCI_CFG.CXL 0, Reg.PCI_CFG.MAX_RATE 0, Reg.PCI_CFG.FBUS 0, Reg.PCI_CFG.ERR_FREEZE 0, Reg.PCI_CFG.BAR2_LOG2 0], none⟩,
  ⟨0x8, [], [Reg.PCI_LINK_STATUS.LINKS 0], none⟩,
  ⟨0x10, [], [Reg.PCI_OB.OFFSET 0], none⟩,
  ⟨0x18, [], [Reg.PCI_FTAB.BASE 0], none⟩,
  ⟨0x20, [], [Reg.PCI_FCMD.OP 0, Reg.PCI_FCMD.FUNC 0], none⟩,
  ⟨0x28, [], [Reg.PCI_FCMD_STATUS.BUSY 0, Reg.PCI_FCMD_STATUS.RESULT 0, Reg.PCI_FCMD_STATUS.FSTATE 0], none⟩,
  ⟨0x30, [], [Reg.PCI_MSI.BASE 0], none⟩,
  ⟨0x38, [], [Reg.PCI_CTO.VALUE 0], none⟩,
  ⟨0x40, [], [Reg.PCI_ERR_CNT0.LATE 0, Reg.PCI_ERR_CNT0.TIMEOUTS 0], none⟩,
  ⟨0x48, [], [Reg.PCI_ERR_CNT1.UR 0, Reg.PCI_ERR_CNT1.DOWN 0], none⟩,
  ⟨0x50, [], [Reg.PCI_ERR_CNT2.IRQ_DROP 0], none⟩,
  ⟨0x58, [], [Reg.PCI_CTO_LOG.TAG 0, Reg.PCI_CTO_LOG.LINK 0, Reg.PCI_CTO_LOG.VALID 0], none⟩,
  ⟨0x60, [], [Reg.PCI_IRQ.AGENT 0, Reg.PCI_IRQ.VEC 0, Reg.PCI_IRQ.EN 0], none⟩,
  ⟨0x68, [], [Reg.PCI_WIN_SEL.SEL 0, Reg.PCI_WIN_SEL.EPOCH 0, Reg.PCI_WIN_SEL.OLD_BUSY 0], none⟩,
  ⟨0x70, [], [Reg.PCI_XCMD.OP 0, Reg.PCI_XCMD.ALL 0, Reg.PCI_XCMD.CODE 0, Reg.PCI_XCMD.PRGI 0, Reg.PCI_XCMD.FUNC 0, Reg.PCI_XCMD.PAGE 0], none⟩,
  ⟨0x78, [], [Reg.PCI_XCMD_STATUS.BUSY 0, Reg.PCI_XCMD_STATUS.RESULT 0], none⟩,
  ⟨0x400, [(0x200, 2), (0x20, 16)], [Reg.PCI_IWIN.EN 0 0 0, Reg.PCI_IWIN.RD 0 0 0, Reg.PCI_IWIN.WR 0 0 0, Reg.PCI_IWIN.FANY 0 0 0, Reg.PCI_IWIN.SIZE_LOG2 0 0 0, Reg.PCI_IWIN.FUNC 0 0 0], none⟩,
  ⟨0x408, [(0x200, 2), (0x20, 16)], [Reg.PCI_IWIN.MATCH 0 0 0], none⟩,
  ⟨0x410, [(0x200, 2), (0x20, 16)], [Reg.PCI_IWIN.TARGET 0 0 0], none⟩,
  ⟨0x800, [(0x8, 4)], [Reg.PCI_CXL.EN 0 0, Reg.PCI_CXL.BASE 0 0, Reg.PCI_CXL.SIZE 0 0], some (Reg.HUB_AMAP_LOCK.LOCK, false)⟩]

/-- The registers of one block, at their offsets from the block base. -/
def Reg.blkPci : Blk :=
  ⟨0xCB000000, [(0x10000, 8)], Reg.blkPciRows0⟩

def Reg.blkSbRows0 : List RegRow := [
  ⟨0x0, [], [Reg.SB_CTRL.ADDR, Reg.SB_CTRL.WAKE_ADDR, Reg.SB_CTRL.I3C, Reg.SB_CTRL.PEC, Reg.SB_CTRL.WAKE_EN, Reg.SB_CTRL.WORLD], none⟩,
  ⟨0x8, [], [Reg.SB_STATUS.AWAKE, Reg.SB_STATUS.WAKE_SEEN, Reg.SB_STATUS.DYN_ADDR, Reg.SB_STATUS.DYN_VALID], none⟩,
  ⟨0x10, [], [Reg.SB_CNT.ACCESSES, Reg.SB_CNT.ERRORS], none⟩,
  ⟨0x18, [], [Reg.SB_ALERT.SET, Reg.SB_ALERT.PENDING], none⟩]

/-- The registers of one block, at their offsets from the block base. -/
def Reg.blkSb : Blk :=
  ⟨0xCC000000, [], Reg.blkSbRows0⟩

def Reg.blkPwrRows0 : List RegRow := [
  ⟨0x0, [(0x8, 5)], [Reg.PWR_CL_CTRL.C3_EN 0 0, Reg.PWR_CL_CTRL.OFF 0 0, Reg.PWR_CL_CTRL.C3_IDLE 0 0], none⟩,
  ⟨0x40, [(0x8, 20)], [Reg.PWR_CORE_STATUS.CSTATE 0 0, Reg.PWR_CORE_STATUS.SAVE_ERR 0 0, Reg.PWR_CORE_STATUS.RESTORE_ERR 0 0, Reg.PWR_CORE_STATUS.C3_ENTRIES 0 0], none⟩,
  ⟨0x100, [], [Reg.PWR_SAVE.BASE 0], none⟩,
  ⟨0x108, [], [Reg.PWR_THERM.TEMP 0, Reg.PWR_THERM.WARN 0, Reg.PWR_THERM.CRIT 0, Reg.PWR_THERM.WARN_ON 0, Reg.PWR_THERM.CRIT_ON 0, Reg.PWR_THERM.FW_LIMIT 0], none⟩,
  ⟨0x110, [], [Reg.PWR_DIE_RESULT.RESULT 0, Reg.PWR_DIE_RESULT.CLUSTER 0], none⟩,
  ⟨0x118, [], [Reg.PWR_DIE_IRQ.AGENT 0, Reg.PWR_DIE_IRQ.VEC 0, Reg.PWR_DIE_IRQ.EN 0], none⟩]

/-- The registers of one block, at their offsets from the block base. -/
def Reg.blkPwr : Blk :=
  ⟨0x7000000, [(0x10000000, 12)], Reg.blkPwrRows0⟩

def Reg.blkPwr'Rows0 : List RegRow := [
  ⟨0x0, [], [Reg.PWR_PK_STATUS.STATE, Reg.PWR_PK_STATUS.STEP], none⟩,
  ⟨0x8, [], [Reg.PWR_PK_CMD.OP], none⟩,
  ⟨0x10, [], [Reg.PWR_PK_RESULT.RESULT, Reg.PWR_PK_RESULT.STEP], none⟩,
  ⟨0x18, [], [Reg.PWR_SEC_ACK.ACK], none⟩,
  ⟨0x20, [], [Reg.PWR_SEC_ACK_TIMEOUT.TIMEOUT], none⟩,
  ⟨0x28, [], [Reg.PWR_SEC_IRQ.AGENT, Reg.PWR_SEC_IRQ.VEC, Reg.PWR_SEC_IRQ.EN], none⟩,
  ⟨0x30, [], [Reg.PWR_RETAIN_MASK.BANKS], none⟩,
  ⟨0x38, [], [Reg.PWR_WAKE_RETRIES.RETRIES], none⟩,
  ⟨0x40, [], [Reg.PWR_WAKE_CTRL.TIMER_EN, Reg.PWR_WAKE_CTRL.PIN_EN], none⟩,
  ⟨0x48, [], [Reg.PWR_WAKE_TIMER.COUNT], none⟩,
  ⟨0x50, [], [Reg.PWR_WAKE_FAIL.STAGE, Reg.PWR_WAKE_FAIL.CODE, Reg.PWR_WAKE_FAIL.ATTEMPT, Reg.PWR_WAKE_FAIL.FAULT, Reg.PWR_WAKE_FAIL.VALID], none⟩,
  ⟨0x58, [], [Reg.PWR_WAKE_CAUSE.SOURCE, Reg.PWR_WAKE_CAUSE.ATTEMPTS, Reg.PWR_WAKE_CAUSE.BANKS_LOST], none⟩,
  ⟨0x60, [], [Reg.PWR_GATE_CMD.TARGET, Reg.PWR_GATE_CMD.OP], none⟩,
  ⟨0x68, [], [Reg.PWR_GATE_STATUS.BUSY, Reg.PWR_GATE_STATUS.RESULT], none⟩,
  ⟨0x70, [], [Reg.PWR_GATED.GATED], none⟩,
  ⟨0x78, [], [Reg.PWR_THROTTLE0.THR], none⟩,
  ⟨0x80, [], [Reg.PWR_THROTTLE1.THR], none⟩,
  ⟨0x88, [], [Reg.PWR_HUB_THERM.TEMP, Reg.PWR_HUB_THERM.CRIT, Reg.PWR_HUB_THERM.HOT], none⟩]

/-- The registers of one block, at their offsets from the block base. -/
def Reg.blkPwr' : Blk :=
  ⟨0xCC800000, [], Reg.blkPwr'Rows0⟩

def Reg.blkPmuRows0 : List RegRow := [
  ⟨0x100, [(0x60, 4), (0x10, 6)], [Reg.PMU_FIX.VALUE 0 0 0 0], none⟩,
  ⟨0x108, [(0x60, 4), (0x10, 6)], [Reg.PMU_FIX.OVF 0 0 0 0, Reg.PMU_FIX.LOVF 0 0 0 0], none⟩,
  ⟨0x400, [(0x8, 8)], [Reg.PMU_EVSEL.EVENT 0 0 0, Reg.PMU_EVSEL.EN 0 0 0, Reg.PMU_EVSEL.IRQ 0 0 0, Reg.PMU_EVSEL.CTX 0 0 0, Reg.PMU_EVSEL.PRIV 0 0 0, Reg.PMU_EVSEL.TNT_EN 0 0 0, Reg.PMU_EVSEL.TENANT 0 0 0], none⟩,
  ⟨0x500, [(0x10, 8)], [Reg.PMU_CNT.VALUE 0 0 0], none⟩,
  ⟨0x508, [(0x10, 8)], [Reg.PMU_CNT.OVF 0 0 0, Reg.PMU_CNT.LOVF 0 0 0], none⟩,
  ⟨0x600, [], [Reg.PMU_SMP_CTRL.EN 0 0, Reg.PMU_SMP_CTRL.SEL 0 0, Reg.PMU_SMP_CTRL.CTX 0 0, Reg.PMU_SMP_CTRL.PRIV 0 0, Reg.PMU_SMP_CTRL.PERIOD 0 0], none⟩,
  ⟨0x608, [], [Reg.PMU_SMP_COUNT.COUNT 0 0], none⟩,
  ⟨0x610, [], [Reg.PMU_SMP_BUF.LOG2 0 0, Reg.PMU_SMP_BUF.BASE 0 0], none⟩,
  ⟨0x618, [], [Reg.PMU_SMP_PTR.PROD 0 0, Reg.PMU_SMP_PTR.CONS 0 0], none⟩,
  ⟨0x620, [], [Reg.PMU_SMP_CNT.LOST 0 0, Reg.PMU_SMP_CNT.SKIPPED 0 0], none⟩,
  ⟨0x628, [], [Reg.PMU_SMP_IRQ.AGENT 0 0, Reg.PMU_SMP_IRQ.VEC 0 0, Reg.PMU_SMP_IRQ.EN 0 0, Reg.PMU_SMP_IRQ.WMARK 0 0], none⟩]

/-- The registers of one block, at their offsets from the block base. -/
def Reg.blkPmu : Blk :=
  ⟨0x5000000, [(0x10000000, 12), (0x1000, 20)], Reg.blkPmuRows0⟩

def Reg.blkPmu'Rows0 : List RegRow := [
  ⟨0x50000, [], [Reg.PMU_DIE_CTRL.FREEZE 0], none⟩,
  ⟨0x50008, [], [Reg.PMU_DIE_IRQ.AGENT 0, Reg.PMU_DIE_IRQ.VEC 0, Reg.PMU_DIE_IRQ.EN 0], none⟩]

/-- The registers of one block, at their offsets from the block base. -/
def Reg.blkPmu' : Blk :=
  ⟨0x5000000, [(0x10000000, 12)], Reg.blkPmu'Rows0⟩

def Reg.blkPmu''Rows0 : List RegRow := [
  ⟨0x30000, [], [Reg.PMU_HUB_CTRL.FREEZE], none⟩,
  ⟨0x30008, [], [Reg.PMU_HUB_IRQ.AGENT, Reg.PMU_HUB_IRQ.VEC, Reg.PMU_HUB_IRQ.EN], none⟩,
  ⟨0x30100, [], [Reg.PMU_CC_CTRL.EN, Reg.PMU_CC_CTRL.WORLD, Reg.PMU_CC_CTRL.INTERVAL, Reg.PMU_CC_CTRL.COUNT], none⟩,
  ⟨0x30108, [], [Reg.PMU_CC_LIST.BASE], none⟩,
  ⟨0x30110, [], [Reg.PMU_CC_RING.LOG2, Reg.PMU_CC_RING.BASE], none⟩,
  ⟨0x30118, [], [Reg.PMU_CC_STATUS.BUSY, Reg.PMU_CC_STATUS.ERR, Reg.PMU_CC_STATUS.SEQ], none⟩,
  ⟨0x30120, [], [Reg.PMU_CC_CNT.MISSED, Reg.PMU_CC_CNT.FULL], none⟩,
  ⟨0x30128, [], [Reg.PMU_CC_IRQ.AGENT, Reg.PMU_CC_IRQ.VEC, Reg.PMU_CC_IRQ.EN], none⟩]

/-- The registers of one block, at their offsets from the block base. -/
def Reg.blkPmu'' : Blk :=
  ⟨0xCE000000, [], Reg.blkPmu''Rows0⟩

def Reg.blkNrgRows0 : List RegRow := [
  ⟨0x0, [(0x10, 80)], [Reg.NRG_CTX.VALUE 0 0], none⟩,
  ⟨0x8, [(0x10, 80)], [Reg.NRG_CTX.OVF 0 0, Reg.NRG_CTX.LOVF 0 0], none⟩,
  ⟨0x800, [(0x10, 26)], [Reg.NRG_DOM.VALUE 0 0], none⟩,
  ⟨0x808, [(0x10, 26)], [Reg.NRG_DOM.OVF 0 0, Reg.NRG_DOM.LOVF 0 0], none⟩,
  ⟨0xA00, [], [Reg.NRG_DIE_STATUS.FAIL 0], none⟩]

/-- The registers of one block, at their offsets from the block base. -/
def Reg.blkNrg : Blk :=
  ⟨0x6000000, [(0x10000000, 12)], Reg.blkNrgRows0⟩

def Reg.blkNrg'Rows0 : List RegRow := [
  ⟨0x0, [], [Reg.NRG_PKG.VALUE], none⟩,
  ⟨0x8, [], [Reg.NRG_PKG.OVF, Reg.NRG_PKG.LOVF], none⟩,
  ⟨0x10, [], [Reg.NRG_STATUS.DEGRADED, Reg.NRG_STATUS.HFAIL], none⟩,
  ⟨0x18, [], [Reg.NRG_EPOCH.EPOCHS], none⟩,
  ⟨0x20, [], [Reg.NRG_IRQ.AGENT, Reg.NRG_IRQ.VEC, Reg.NRG_IRQ.EN], none⟩,
  ⟨0x100, [(0x10, 5)], [Reg.NRG_HDOM.VALUE 0], none⟩,
  ⟨0x108, [(0x10, 5)], [Reg.NRG_HDOM.OVF 0, Reg.NRG_HDOM.LOVF 0], none⟩,
  ⟨0x200, [(0x8, 32)], [Reg.NRG_MODEL.COEF 0, Reg.NRG_MODEL.A 0, Reg.NRG_MODEL.B 0], none⟩,
  ⟨0x10000, [(0x10, 4096)], [Reg.NRG_TNT.VALUE 0], none⟩,
  ⟨0x10008, [(0x10, 4096)], [Reg.NRG_TNT.OVF 0, Reg.NRG_TNT.LOVF 0], none⟩]

/-- The registers of one block, at their offsets from the block base. -/
def Reg.blkNrg' : Blk :=
  ⟨0xCF000000, [], Reg.blkNrg'Rows0⟩

def Reg.blkSpkdRows0 : List RegRow := [
  ⟨0x0, [], [Reg.SPKD_CTRL.THRESH_COUNT 0, Reg.SPKD_CTRL.THRESH_WINDOW 0], none⟩,
  ⟨0x8, [], [Reg.SPKD_STATUS.STATE 0, Reg.SPKD_STATUS.HALF 0, Reg.SPKD_STATUS.DEGRADED 0, Reg.SPKD_STATUS.FENCE_CAUSE 0, Reg.SPKD_STATUS.DISAGREE 0, Reg.SPKD_STATUS.BAD_UP 0, Reg.SPKD_STATUS.BAD_DN 0], none⟩,
  ⟨0x10, [], [Reg.SPKD_ERR_CNT.CORR_SYMBOLS 0, Reg.SPKD_ERR_CNT.REPAIRS 0], none⟩,
  ⟨0x18, [], [Reg.SPKD_ERR_LOG.WIRE 0, Reg.SPKD_ERR_LOG.DIR 0, Reg.SPKD_ERR_LOG.KIND 0, Reg.SPKD_ERR_LOG.VALID 0], none⟩,
  ⟨0x20, [], [Reg.SPKD_IRQ.AGENT 0, Reg.SPKD_IRQ.VEC 0, Reg.SPKD_IRQ.EN 0], none⟩,
  ⟨0x40, [(0x8, 5)], [Reg.SPKD_BAD_UP.WIRES 0 0], none⟩,
  ⟨0x80, [(0x8, 5)], [Reg.SPKD_BAD_DN.WIRES 0 0], none⟩]

/-- The registers of one block, at their offsets from the block base. -/
def Reg.blkSpkd : Blk :=
  ⟨0x4000000, [(0x10000000, 12)], Reg.blkSpkdRows0⟩

def Reg.blkPmu'''Rows0 : List RegRow := [
  ⟨0x0, [(0x8, 4)], [Reg.PMU_CLU_EVSEL.EVENT 0 0 0, Reg.PMU_CLU_EVSEL.EN 0 0 0, Reg.PMU_CLU_EVSEL.IRQ 0 0 0, Reg.PMU_CLU_EVSEL.TNT_EN 0 0 0, Reg.PMU_CLU_EVSEL.TENANT 0 0 0], none⟩,
  ⟨0x100, [(0x10, 4)], [Reg.PMU_CLU_CNT.VALUE 0 0 0], none⟩,
  ⟨0x108, [(0x10, 4)], [Reg.PMU_CLU_CNT.OVF 0 0 0, Reg.PMU_CLU_CNT.LOVF 0 0 0], none⟩]

/-- The registers of one block, at their offsets from the block base. -/
def Reg.blkPmu''' : Blk :=
  ⟨0x5020000, [(0x10000000, 12), (0x400, 5)], Reg.blkPmu'''Rows0⟩

def Reg.blkPmu''''Rows0 : List RegRow := [
  ⟨0x0, [(0x8, 4)], [Reg.PMU_L3U_EVSEL.EVENT 0 0 0, Reg.PMU_L3U_EVSEL.EN 0 0 0, Reg.PMU_L3U_EVSEL.IRQ 0 0 0, Reg.PMU_L3U_EVSEL.TNT_EN 0 0 0, Reg.PMU_L3U_EVSEL.TENANT 0 0 0], none⟩,
  ⟨0x100, [(0x10, 4)], [Reg.PMU_L3U_CNT.VALUE 0 0 0], none⟩,
  ⟨0x108, [(0x10, 4)], [Reg.PMU_L3U_CNT.OVF 0 0 0, Reg.PMU_L3U_CNT.LOVF 0 0 0], none⟩]

/-- The registers of one block, at their offsets from the block base. -/
def Reg.blkPmu'''' : Blk :=
  ⟨0x5030000, [(0x10000000, 12), (0x400, 20)], Reg.blkPmu''''Rows0⟩

def Reg.blkPmu'''''Rows0 : List RegRow := [
  ⟨0x0, [(0x8, 4)], [Reg.PMU_MESHU_EVSEL.EVENT 0 0, Reg.PMU_MESHU_EVSEL.EN 0 0, Reg.PMU_MESHU_EVSEL.IRQ 0 0, Reg.PMU_MESHU_EVSEL.TNT_EN 0 0, Reg.PMU_MESHU_EVSEL.TENANT 0 0], none⟩,
  ⟨0x100, [(0x10, 4)], [Reg.PMU_MESHU_CNT.VALUE 0 0], none⟩,
  ⟨0x108, [(0x10, 4)], [Reg.PMU_MESHU_CNT.OVF 0 0, Reg.PMU_MESHU_CNT.LOVF 0 0], none⟩]

/-- The registers of one block, at their offsets from the block base. -/
def Reg.blkPmu''''' : Blk :=
  ⟨0x5040000, [(0x10000000, 12)], Reg.blkPmu'''''Rows0⟩

def Reg.blkPmu''''''Rows0 : List RegRow := [
  ⟨0x0, [(0x8, 4)], [Reg.PMU_SPKU_EVSEL.EVENT 0 0, Reg.PMU_SPKU_EVSEL.EN 0 0, Reg.PMU_SPKU_EVSEL.IRQ 0 0, Reg.PMU_SPKU_EVSEL.TNT_EN 0 0, Reg.PMU_SPKU_EVSEL.TENANT 0 0], none⟩,
  ⟨0x100, [(0x10, 4)], [Reg.PMU_SPKU_CNT.VALUE 0 0], none⟩,
  ⟨0x108, [(0x10, 4)], [Reg.PMU_SPKU_CNT.OVF 0 0, Reg.PMU_SPKU_CNT.LOVF 0 0], none⟩]

/-- The registers of one block, at their offsets from the block base. -/
def Reg.blkPmu'''''' : Blk :=
  ⟨0x5040400, [(0x10000000, 12)], Reg.blkPmu''''''Rows0⟩

def Reg.blkPmu'''''''Rows0 : List RegRow := [
  ⟨0x0, [(0x8, 4)], [Reg.PMU_HUBU_EVSEL.EVENT 0 0, Reg.PMU_HUBU_EVSEL.EN 0 0, Reg.PMU_HUBU_EVSEL.IRQ 0 0, Reg.PMU_HUBU_EVSEL.TNT_EN 0 0, Reg.PMU_HUBU_EVSEL.TENANT 0 0], none⟩,
  ⟨0x100, [(0x10, 4)], [Reg.PMU_HUBU_CNT.VALUE 0 0], none⟩,
  ⟨0x108, [(0x10, 4)], [Reg.PMU_HUBU_CNT.OVF 0 0, Reg.PMU_HUBU_CNT.LOVF 0 0], none⟩]

/-- The registers of one block, at their offsets from the block base. -/
def Reg.blkPmu''''''' : Blk :=
  ⟨0xCE000000, [(0x400, 88)], Reg.blkPmu'''''''Rows0⟩

/-- Every register block of the package. -/
def Reg.blocks : List Blk := [
  Reg.blkHub, Reg.blkHub', Reg.blkTime, Reg.blkCore, Reg.blkHub'', Reg.blkCl, Reg.blkL3, Reg.blkHc, Reg.blkDir, Reg.blkMc, Reg.blkPg, Reg.blkYrw, Reg.blkSpk, Reg.blkTdm, Reg.blkTnt, Reg.blkHqe, Reg.blkReg, Reg.blkArb, Reg.blkSec, Reg.blkOtp, Reg.blkAud, Reg.blkCfg, Reg.blkPci, Reg.blkSb, Reg.blkPwr, Reg.blkPwr', Reg.blkPmu, Reg.blkPmu', Reg.blkPmu'', Reg.blkNrg, Reg.blkNrg', Reg.blkSpkd, Reg.blkPmu''', Reg.blkPmu'''', Reg.blkPmu''''', Reg.blkPmu'''''', Reg.blkPmu''''''']

end Sys2Proof.Machine
end

