-- ==== Sys2Proof/Machine/State.lean ====
section
/-! DEFINITION. Machine/State.lean: every piece of state the spec gives the package, as plain data, and its value after reset.
Each part cites the rule of spec/ that names it. -/
namespace Sys2Proof.Machine

/-! ### Clocks and platform time (spec/02) -/

/-- Which way Chainline slews (R52). -/
inductive Slew where
  | none | up | down
  deriving DecidableEq, Repr

/-- What a Tandem port knows of Chainline's far end: our transmit times by the symbols' numbers, from the one that the far end last
answered; the number and the TIME of arrival of the far end's last symbol, none before the first, times in 1/16 units; how many symbols
this port has sent; the exchanges kept for the mean, newest first, each as twice the offset and twice
the delay in 1/16 units (R51); and the far end's last symbol (R52). -/
structure PortTime where
  t1 : SMap Nat
  rx : Option (Nat × Nat)
  sent : Nat
  hist : List (Int × Int)
  seen : Bool
  pkg : Nat
  state : Nat
  hops : Nat
  deriving DecidableEq, Repr

/-- Hidden state of the clocks, the TIME counter, the timekeeper and Chainline. -/
structure ClockSt where
  /-- accepted TIME_LOAD that waits for the next tick edge (R46) -/
  pendingLoad : Option Nat
  /-- units that the next tick edge steps TIME forward (R52) -/
  stepBy : Nat
  slew : Slew
  /-- tick number modulo 16, for the one slewed tick in 16 (R52) -/
  phase : Nat
  /-- what the running tick adds, fixed at the edge that began it (R43) -/
  inc : Nat
  /-- TIME stopped and must be reconstructed, and with which CAUSE (R45, R47); dies whose slave synthesizer lost lock and must
  relock first (R42); and a crystal edge has come since TIME stopped and the synthesizers relocked (R47) -/
  needRecon : Bool
  needLock : Nat
  atEdge : Bool
  reconCause : Nat
  /-- reconstructed and not LOCKED since (R54) -/
  fresh : Bool
  /-- a crystal edge has opened the running calibration window; crystal periods so far in it; and its length (R49) -/
  calOpen : Bool
  calEdges : Nat
  calLen : Nat
  /-- crystal period's fraction of a tick that the last TIME read took, so that reads stay monotonic (R43) -/
  lastK : Nat
  ports : SMap PortTime
  /-- alignment symbols sent, newest last, as they leave for the far ends: port and symbol (R51) -/
  sent : List (Nat × AlignSym)
  /-- ratio that a running change of cluster 5d + c goes to (R41) -/
  ratioTarget : SMap Nat
  deriving DecidableEq, Repr

def ClockSt.init : ClockSt :=
  { pendingLoad := none, stepBy := 0, slew := .none, phase := 0, inc := 10, needRecon := false, needLock := 0, atEdge := false,
    reconCause := 0, fresh := false, calOpen := false, calEdges := 0, calLen := 18, lastK := 0, ports := [], sent := [], ratioTarget := [] }


/-! ### Memories (spec/01, spec/08, spec/09, spec/13, spec/18) -/

/-- An addressed memory: (address, byte) pairs with rising addresses and no zero byte listed; an unlisted byte reads 0. -/
abbrev Mem := List Host.Cell

/-- One 64-byte line as it travels: its data and whether it is poisoned (R139, R168). -/
structure LD where
  data : Line
  poison : Bool
  deriving DecidableEq, Repr

/-- The states of R171. -/
inductive LState where
  | i | s | e | o | m
  deriving DecidableEq, Repr

/-- A valid line of an L1, L2, L3 or hub cache: the line number PA >> 6, state, data, age (R154), key and rights (R327), Yarrow
class (R245), presence vector of an L3 line (R151) and the cluster that last held it. -/
structure CLine where
  line : Nat
  st : LState
  ld : LD
  age : Nat
  tenant : Nat
  secure : Bool
  rights : Nat
  yrw : Nat
  pres : Nat
  last : Nat
  /-- an array error that the next lookup finds (R166 to R169): 0 none; in an L1, 1 a parity error; in an L2, 1 parity in data, 2 a tag or
  state error that is corrected, 3 one that is not; in an L3 slice or hub cache bank, 1 a corrected error, 2 uncorrectable data, 3 an
  uncorrectable tag -/
  flaw : Nat
  deriving DecidableEq, Repr

/-- A slot of DRAM as stored: 64 data bytes and two check bits for each (R223), check bits C0 of byte j in bit 2j and C1 in
bit 2j + 1. -/
structure Raw where
  data : Line
  chk : BitVec 128
  deriving DecidableEq, Repr

/-! ### Messages (spec/07, spec/10) -/

/-- A message of the five classes: the fields of a header slot (R255), its data slot, the byte mask of a masked WR_NC (R256),
and what the spec lets the home know of a request without naming a header bit for it (log 12): a fetch, a string or
hint 3 access (old), a trap-frame store, the master of a queue's or function's request. -/
structure Msg where
  cls : Nat
  typ : Nat
  line : Nat
  tag : Nat
  agent : Nat
  tenant : Nat
  secure : Bool
  dirty : Bool
  poison : Bool
  yrw : Nat
  aux : Nat
  dstPkg : Nat
  dstDie : Nat
  data : Option Line
  mask : Option (BitVec 64)
  fetch : Bool
  old : Bool
  frame : Bool
  /-- MASTER of a queue's or function's request (R279) -/
  master : Nat
  /-- TIME at which it reached the hub (R315) -/
  arrived : Nat
  /-- a poisoned answer that stands for a bus error (R140) -/
  bus : Bool
  /-- KIND of the master, where this package's hub knows it (R458) -/
  kind : Option Nat
  /-- the receive buffer that holds it (R257): Tandem port p, 6 + d the hub end of Spoke link d, 18 + d its die end -/
  buf : Option Nat
  deriving DecidableEq, Repr

/-! ### Caches (spec/06) -/

/-- What an access of a core needs of the caches (R153, R182); `save` writes a C3 save image (R403). -/
inductive AKind where
  | load | fetch | walk | strRead | pref0 | pref1 | pref2 | pref3 | store | strWrite | amo | frame | save
  deriving DecidableEq, Repr

/-- How far a line access of a core has come. -/
inductive AStage where
  | toL2 | toL3 | atHome | l2Fill | l1Fill | ready
  deriving DecidableEq, Repr

/-- An access's place in its core's load miss queue (R70): it takes no entry, waits for one, or holds one. -/
inductive LmqSt where
  | none | waits | held
  deriving DecidableEq, Repr

/-- One line access of a context on its way through the caches (R33, R69). -/
structure LineOp where
  id : Nat
  ctx : Nat
  kind : AKind
  line : Nat
  whole : Bool
  tenant : Nat
  secure : Bool
  yrw : Nat
  /-- issued at level H (R307) -/
  lvlH : Bool
  stage : AStage
  /-- the L2 has missed; and the miss has been reported to the core (R69) -/
  missed : Bool
  reported : Bool
  /-- what came back: the line with the state, rights and class it may be installed with -/
  res : Option LD
  grant : LState
  rights : Nat
  /-- the answer is a bus error (R140) -/
  bus : Bool
  /-- where the data came from (R426) -/
  src : Nat
  lmq : LmqSt
  deriving DecidableEq, Repr

/-- An L3 slice's request to a home: buffer index in the tag's low bits (R180), the type sent, the access it serves. -/
structure L3Req where
  slice : Nat
  idx : Nat
  line : Nat
  typ : Nat
  op : Nat
  sent : Bool
  /-- the copy from which an UPG or CLAIM was sent is gone (R187) -/
  lost : Bool
  /-- the cluster that the home registers (R180), and the key, the Yarrow class and the age class of the access (R153, R245, R327) -/
  clu : Nat
  tenant : Nat
  secure : Bool
  yrw : Nat
  old : Bool
  /-- a grant waits for its fill: data, state and rights -/
  grant : Option (LD × LState × Nat × Nat)
  deriving DecidableEq, Repr

/-- A line in an L3 slice's writeback buffer, until WBK_ACK (R179, R188). -/
structure L3Wb where
  slice : Nat
  idx : Nat
  line : Nat
  ld : LD
  dirty : Bool
  yrw : Nat
  /-- the registered cluster of the die, 0 to 4 (R180) -/
  clu : Nat
  deriving DecidableEq, Repr

/-- A running whole-cache operation (R160): level 2, 3 or 4 (hub cache), which cache, whether it flushes and keeps
locked ways, and the lines of a slice still to be done. -/
structure MaintOp where
  level : Nat
  unit : Nat
  flush : Bool
  keep : Bool
  lines : List Nat
  deriving DecidableEq, Repr

/-- How an access of a unit of the hub ends: served, a bus error (R26, R140, R230), a failed region check of this package (R326), or
one of another package, which has frozen its master already (R458). -/
inductive HubRes where
  | ok
  | bus
  | region (k r : Nat)
  | away
  deriving DecidableEq, Repr

/-- What ends with a write of a unit of the hub that its home answers later: nothing, an SQE's bytes or its completion entry (R295, R297),
a freeze record (R290), a record of the audit log's DRAM sink (R347); or it is an access that its unit waits for. -/
inductive WrUse where
  | plain | sqe (q idx : Nat) | cqe (q idx : Nat) | ring (t : Nat) | audit | awaited
  deriving DecidableEq, Repr

/-- A request that a unit of the hub has sent to a home (R182): whether the unit's access has used the answer, what came back, and what a
write's answer ends. -/
structure FarReq where
  msg : Msg
  used : Bool
  got : Option (HubRes × LD)
  use : WrUse
  deriving DecidableEq, Repr

/-- A dirty or clean line that waits for a way of the hub cache (R154). -/
structure HcWait where
  line : Nat
  ld : LD
  dirty : Bool
  yrw : Nat
  age : Nat
  deriving DecidableEq, Repr

/-- A running range operation (R161): next line, lines left, operation, its writer's world and tenant (R162), and whether the
next line's transaction is under way. -/
structure RangeOp where
  next : Nat
  left : Nat
  op : Nat
  who : Who
  busy : Bool
  deriving DecidableEq, Repr

/-- A snoop a home has sent and not seen answered: a die by its cluster identifier or a package (R194). -/
structure Snoop where
  isPkg : Bool
  tgt : Nat
  sentAt : Nat
  limit : Nat
  deriving DecidableEq, Repr

/-- An open transaction at a home slice (R172, R184): the snoops not yet answered, an owner's data, dies that turned out to
hold nothing (MISS, IN_EVICT), memory's data once wanted, and whether the line is lost, so that every answer is poison (R194). -/
structure Tx where
  line : Nat
  req : Msg
  /-- a victim transaction of the directory: the request that takes the way is `req` (R191) -/
  victim : Bool
  snoops : List Snoop
  own : Option LD
  ownDirty : Bool
  ownYrw : Nat
  lost : List Nat
  wantMem : Bool
  mem : Option LD
  poisoned : Bool
  /-- the answer has been sent: the transaction can close -/
  done : Bool
  deriving DecidableEq, Repr

/-- A directory entry (R175). -/
structure DirEnt where
  line : Nat
  st : Nat
  ovf : Bool
  xpkg : Bool
  ptrs : List Nat
  age : Nat
  deriving DecidableEq, Repr

/-- A message to another package that waits for its answer, for R198: what it was, where to, delivered or not, and since
when. -/
structure Away where
  msg : Msg
  pkg : Nat
  delivered : Bool
  since : Nat
  deriving DecidableEq, Repr

/-- A fan-out of a foreign broadcast snoop (R193): dies that have not answered. -/
structure Fan where
  msg : Msg
  dies : List Nat
  sentAt : Nat
  deriving DecidableEq, Repr

/-- Hidden state of caches, homes and the messages on their way inside the package. -/
structure CohSt where
  l1i : SMap CLine
  l1d : SMap CLine
  l2 : SMap CLine
  l3 : SMap CLine
  hc : SMap CLine
  dir : SMap DirEnt
  nextOp : Nat
  ops : List LineOp
  l3reqs : List L3Req
  l3wbs : List L3Wb
  /-- snoops that a slice holds until its grant arrives (R187), by die -/
  heldSnp : List (Nat × Msg)
  maint : List MaintOp
  range : Option RangeOp
  /-- drains of a disabled L2 still owed: cluster 5d + c and line (R164) -/
  drains : List (Nat × Nat)
  /-- EN written 1 while draining (R165) -/
  reEnable : List Nat
  /-- messages that have arrived at a die, and at the hub -/
  dieIn : List (Nat × Msg)
  hubIn : List Msg
  /-- requests and writebacks waiting at the homes, in arrival order (R172) -/
  homeQ : List Msg
  /-- requests that found every way of their set open, in their slices' queues (R192) -/
  retryQ : List Msg
  txs : List Tx
  /-- tags of IN_EVICT answers whose writeback has not come (R188): line, agent, tag; and writebacks held -/
  evTags : List (Nat × Nat × Nat)
  away : List Away
  fans : List Fan
  /-- hub cache fills waiting for a way (R154) -/
  hcFills : List HcWait
  /-- ways of an L2 that lost a clean line to a parity error and are filled again with it (R167): cluster 5d + c, line, way key -/
  l2Same : List (Nat × Nat × Nat)
  /-- UNFENCE answers that a die of this package still waits for: die, packages (R196) -/
  unfenceWait : List (Nat × List Nat)
  /-- what units of the hub have asked homes for (R182) -/
  far : List FarReq
  /-- within a command that can wait: what it lacks, if anything; none between commands (log 14) -/
  wants : Option (Option Msg)
  deriving DecidableEq, Repr

def CohSt.init : CohSt :=
  { l1i := [], l1d := [], l2 := [], l3 := [], hc := [], dir := [], nextOp := 1, ops := [], l3reqs := [], l3wbs := [], heldSnp := [],
    maint := [], range := none, drains := [], reEnable := [], dieIn := [], hubIn := [], homeQ := [], retryQ := [], txs := [],
    evTags := [], away := [], fans := [], hcFills := [], l2Same := [], unfenceWait := [], far := [], wants := none }

/-! ### DRAM channels and Page Guard (spec/08, spec/09) -/

/-- A request to a channel: the line's channel address >> 6, its source (R205), the Page Guard job it serves, and for a
write the stored form. -/
structure McReq where
  line : Nat
  agent : Nat
  /-- with 4,096 added where the world of the request is Secure (R335) -/
  tenant : Nat
  job : Nat
  /-- queue or function whose request it serves, where its agent is one (R306) -/
  master : Nat
  write : Option Raw
  /-- CK cycle at which it entered its queue, and its place among all requests of the channel -/
  enter : Nat
  seq : Nat
  /-- data read from DRAM or the write queue, waiting to return in order (R207) -/
  data : Option Raw
  /-- its place among all requests that the hub has sent to channels (R317), and the line whose write it belongs to (R184, R206) -/
  arr : Nat
  wline : Option Nat
  deriving DecidableEq, Repr

/-- A bank of one rank of one subchannel: its open row and its last commands in CK cycles. -/
structure McBank where
  row : Option Nat
  actAt : Nat
  preAt : Nat
  rdAt : Nat
  wrAt : Nat
  /-- cycle of the last queued request that hit the row -/
  hitAt : Nat
  deriving DecidableEq, Repr

/-- A self-refresh sequence under way: entry or exit, its step, and whether an idle entry started it (R214, R215). -/
structure SrSeq where
  exit : Bool
  step : Nat
  idle : Bool
  /-- warm reset or Freewheel waits for the entry -/
  forced : Bool
  /-- an entry that timed out: steps 1 and 2 still complete, and the channel stays READY -/
  failed : Bool
  deriving DecidableEq, Repr

/-- Hidden state of one channel controller. -/
structure McSt where
  inq : List McReq
  rq : List McReq
  wq : List McReq
  seq : Nat
  /-- the latest CK cycle, and that of the last command of each subchannel; CK cycles that refreshes and their precharges take (R208) -/
  ck : Nat
  subCk : SMap Nat
  refAt : List Nat
  /-- banks by ((sub × 8 + rank) × 32 + bank group × 4 + bank) -/
  banks : SMap McBank
  /-- recent activates by sub × 8 + rank, newest first, for the four-activate window -/
  acts : SMap (List Nat)
  /-- cycles of the last read and the last write of each bank group, by sub × 8 + bank group; 0 for never -/
  lastCmd : SMap (Nat × Nat)
  /-- rank busy with refresh until a CK cycle; a burst is running; what OWED is at the burst's end where that is not 0 -/
  refUntil : SMap Nat
  refBurst : List Nat
  refKeep : SMap Nat
  /-- CK cycles until which forced refreshes hold their ranks -/
  forced : SMap Nat
  /-- ranks refreshed at half the interval (R210) -/
  fast : Nat
  sr : Option SrSeq
  /-- in self-refresh by the idle timer: a request causes an exit (R215) -/
  idleSr : Bool
  /-- TIME of the alerts of the last ms, and the requests to be issued again in order after the last one, by number (R216) -/
  alerts : List Nat
  redo : List Nat
  /-- DIMM registers that firmware programmed: (device or driver, rank, sub, address) packed, value (R221) -/
  modeRegs : SMap Nat
  /-- a mode register command under way: its word -/
  mrCmd : Option Nat
  /-- a failed exit left the channel in self-refresh (R212) -/
  exitFail : Bool
  /-- a helper run under way: OP (R219) -/
  trn : Option Nat
  deriving DecidableEq, Repr

def McSt.init : McSt :=
  { inq := [], rq := [], wq := [], seq := 0, ck := 0, subCk := [], refAt := [], banks := [], acts := [], lastCmd := [], refUntil := [], refBurst := [], refKeep := [], forced := [],
    fast := 0, sr := none, idleSr := false, alerts := [], redo := [], modeRegs := [], mrCmd := none, exitFail := false, trn := none }

/-- What a Page Guard operation does (R235): a line read for a home, a line write, or a scrub page. -/
inductive PgKind where
  | read | write | scrub
  deriving DecidableEq, Repr

/-- A Page Guard operation in its page's arrival order (R235), with the slots it has read so far. -/
structure PgJob where
  id : Nat
  kind : PgKind
  line : Nat
  agent : Nat
  /-- with 4,096 added where the world of the request is Secure (R335) -/
  tenant : Nat
  ld : LD
  yrw : Nat
  /-- slots read so far, by window line number; none for an erased slot -/
  got : SMap (Option Raw)
  asked : List Nat
  /-- what a read gives, where it was completed ahead of its turn to keep the page's order (R235) -/
  res : Option LD
  /-- queue or function whose request it serves, where its agent is one (R306) -/
  master : Nat
  deriving DecidableEq, Repr

/-- A line of the check cache: 64 bytes of a check block, and whether it is newer than DRAM (R237). -/
structure ChkLine where
  data : Line
  dirty : Bool
  age : Nat
  deriving DecidableEq, Repr

/-- A running scrub pass (R240). -/
structure Scrub where
  next : Nat
  left : Nat
  op : Nat
  abort : Bool
  /-- the operation of the page that it is at, once the engine has it (R235) -/
  job : Option Nat
  deriving DecidableEq, Repr

/-- Hidden state of Page Guard and Yarrow. -/
structure PgSt where
  nextJob : Nat
  jobs : List PgJob
  /-- check cache by (set × 16 + way): window line number of the check line and its data -/
  chk : SMap (Nat × ChkLine)
  /-- decoded blocks by window block number, oldest first (R249) -/
  buf : List (Nat × List Line)
  scrub : Option Scrub
  /-- requests sent to channels so far (R317) -/
  sent : Nat
  deriving DecidableEq, Repr

def PgSt.init : PgSt := { nextJob := 1, jobs := [], chk := [], buf := [], scrub := none, sent := 0 }

/-! ### Contexts (spec/03 to spec/05) -/

/-- A pending result (R60, R67, R78): destination code of R78, write point, slot, order of issue, value, whether it is ready and
poisoned, the job that produces it (0 where it needs none), the virtual address of its access, and the floating-point flags
that it raises at its write point (R101). -/
structure Pend where
  code : Nat
  wp : Nat
  slot : Nat
  seq : Nat
  val : Nat
  ready : Bool
  poison : Bool
  job : Nat
  va : Nat
  flags : Nat
  deriving DecidableEq, Repr

/-- An entry of a context's store queue (R33), within one line: a store's bytes, an AMO (its operation code plus 1 and its
compare value, R98), or a device write (R121). -/
structure StoreEnt where
  seq : Nat
  pa : Nat
  size : Nat
  data : Nat
  amo : Nat
  cmp : Nat
  aq : Bool
  rl : Bool
  /-- job of an AMO's result -/
  job : Nat
  kind : AKind
  tenant : Nat
  secure : Bool
  yrw : Nat
  lvlH : Bool
  /-- line access that obtains ownership; 0 before it is asked for -/
  op : Nat
  /-- device write: the request has left and waits for its answer -/
  sent : Bool
  deriving DecidableEq, Repr

/-- A load that waits for its line or its device answer (R95, R121), with its bundle's address and index, its slot and its
virtual address (R426). -/
structure LoadJob where
  job : Nat
  pc : Nat
  idx : Nat
  slot : Nat
  va : Nat
  pa : Nat
  size : Nat
  sign : Bool
  seq : Nat
  tenant : Nat
  secure : Bool
  yrw : Nat
  lvlH : Bool
  op : Nat
  dev : Bool
  sent : Bool
  deriving DecidableEq, Repr

/-- A cached translation (R128): virtual page number at its level, level, leaf, and world. -/
structure TlbEnt where
  vpn : Nat
  level : Nat
  leaf : Nat
  secure : Bool
  deriving DecidableEq, Repr

/-- A fetched bundle: its virtual address, its 256 bits, whether they are poisoned (R120, R139), and the level and world that
fetched it. -/
structure Fetched where
  va : Nat
  bits : Nat
  poison : Bool
  priv : Nat
  secure : Bool
  deriving DecidableEq, Repr

/-- What a context gathers line by line: a table walk, a serialising operation (R59), or the check phase of a memory Sprocket
entry (R145). -/
inductive SerialKind where
  | fence (kind : Nat)
  | string
  | callm
  | retm
  | sgate
  | eret
  | sprk
  deriving DecidableEq, Repr

/-- The lines that have come for it and the line accesses that bring more; for FENCE.IO the packages whose acknowledgement is
awaited and those that failed (R118, R119); and whether its first step has been taken. -/
structure Serial where
  kind : SerialKind
  got : List (Nat × LD)
  ops : List Nat
  marks : List Nat
  failed : List Nat
  begun : Bool
  /-- the Sprocket entry with which the instruction issued (R148) -/
  ent : Nat
  deriving DecidableEq, Repr

/-- A table walk under way for the frozen bundle or a chunk (R126, R128): the virtual address, the world, and lines that have
come, and how it ended for the bundle that waits: 0 it runs, 1 with a translation fault, 2 with poison. -/
structure Walk where
  va : Nat
  secure : Bool
  res : Nat
  got : List (Nat × LD)
  ops : List Nat
  deriving DecidableEq, Repr

/-- A trap that waits for its drain (R76, R135): cause, TVAL, INFO, and the SPRK, UOP and SLOT bits of its CAUSE word. -/
structure TrapReq where
  cause : Nat
  tval : Nat
  info : Nat
  word : Nat
  deriving DecidableEq, Repr

/-- An open sample of the core's sampler (R425, R426): how it closes (1 a job, 2 a store, 3 a branch or other operation at
bundle index `id`), the record so far, the core's cycle at issue, and frozen cycles. -/
structure Sample where
  kind : Nat
  id : Nat
  words : List Nat
  start : Nat
  frozen : Nat
  deriving DecidableEq, Repr

/-- Floating-point flags of a result that drained into a trap (R79, R101; log 82): the frame's base, and the result's code, write point
and slot. -/
structure DrainFlags where
  base : Nat
  code : Nat
  wp : Nat
  slot : Nat
  flags : Nat
  deriving DecidableEq, Repr

/-- One hardware context. Its state, level, world and tenant are in CORE_CTX_STATUS (R71). -/
structure Ctx where
  g : SMap Nat
  v : SMap Nat
  p : SMap Nat
  /-- cs_* registers: number, plus 0x1000 for the Secure copy of a banked one (R129) -/
  cs : SMap Nat
  pc : Nat
  idx : Nat
  seq : Nat
  pend : List Pend
  sq : List StoreEnt
  /-- stores that wait for an entry of the store queue; the context issues nothing meanwhile (R33) -/
  stWait : List StoreEnt
  loads : List LoadJob
  tlb : List TlbEnt
  walk : Option Walk
  fetch : Option Fetched
  /-- line access of the running fetch; 0 for none -/
  fetchOp : Nat
  serial : Option Serial
  trap : Option TrapReq
  /-- vectors set in cs_irq_pend; vector 63 is also held by the timer (R129, R131) -/
  irqs : Nat
  /-- accesses whose L2 miss was reported and whose data has not come (R71) -/
  missOps : List Nat
  /-- waits for a store-queue entry, or for its bundle -/
  waitSq : Bool
  waitFetch : Bool
  /-- six switch cycles have passed, and the context may issue (R72) -/
  switched : Bool
  /-- results written for the bundle at the trap point, which has not issued: still pending by R67's count -/
  applied : Nat
  /-- CORE_CTX_CTRL.RESET waits for the serialising operation to end: 1 reset, 2 then START in Normal, 3 then START in Secure -/
  resetWait : Nat
  sample : Option Sample
  drained : List DrainFlags
  deriving DecidableEq, Repr

def Ctx.init : Ctx :=
  { g := [], v := [], p := [], cs := [], pc := 0, idx := 0, seq := 0, pend := [], sq := [], stWait := [], loads := [], tlb := [],
    walk := none, fetch := none, fetchOp := 0, serial := none, trap := none, irqs := 0, missOps := [], waitSq := false,
    waitFetch := false, switched := true, applied := 0, resetWait := 0, sample := none, drained := [] }

/-- A job of a core's shared divider (0), divide-square-root unit (1) or Sprocket sequencer (2), in issue order (R66). -/
structure UnitJob where
  job : Nat
  ctx : Nat
  unit : Nat
  deriving DecidableEq, Repr

/-- What the four contexts of a core share. -/
structure CoreSt where
  /-- context last chosen, and whether its six switch cycles still run (R72) -/
  last : Nat
  switching : Bool
  /-- the context that last issued since the core left reset (R74, R424) -/
  issued : Option Nat
  /-- CORE_SCHED.QUANTUM as it stood when the running context was chosen (R72) -/
  quantum : Nat
  /-- a preempting interrupt or an ended quantum waits for the bundle boundary -/
  preempt : Bool
  units : List UnitJob
  /-- CORE cycles counted (R424, R426) -/
  cycles : Nat
  /-- the 16 cycles of a C1 exit are still to be charged (R401, R424) -/
  waking : Bool
  /-- C3: 0 nothing, 1 its save images are being written, 2 a save write failed, 3 a wake event has come (R401, R403) -/
  c3 : Nat
  /-- the running context could not issue, and no other was READY: a whole-core stall (R74) -/
  stalled : Bool
  deriving DecidableEq, Repr

def CoreSt.init : CoreSt := { last := 0, switching := false, issued := none, quantum := 0, preempt := false, units := [], cycles := 0, waking := false, c3 := 0, stalled := false }

/-- Sprocket tables (R141, R148): the entries in force by world × 64 + slot; the table being committed, by slot; the cores
20d + k that have changed to it; and whether a commit of the Secure table follows. -/
structure SprkSt where
  tab : SMap Nat
  next : SMap Nat
  cores : List Nat
  thenS : Bool
  deriving DecidableEq, Repr

/-! ### Links (spec/10) -/

/-- One Spoke link: messages waiting at each end, in order; the senders' credits and the credits to return, by class
(R257); SEQ numbers sent and last received, which start at 0 after training (R259; log 92); corrected symbols by wire in the running window (R261); repairs
waiting and running; the step of a width change (R262) or a training (R264). -/
structure SpkSt where
  up : List Msg
  dn : List Msg
  crUp : List Nat
  crDn : List Nat
  retUp : List Nat
  retDn : List Nat
  seqUp : Nat
  seqDn : Nat
  expUp : Nat
  expDn : Nat
  /-- TIMEs of corrected symbols by wire, UP wires at 0 and DN wires at 512 up -/
  wires : SMap (List Nat)
  /-- wires whose repair waits: UP first where true -/
  repQ : List (Bool × Nat)
  /-- running repair of each direction: wire and REPAIR_SEQ -/
  repUp : Option (Nat × Nat)
  repDn : Option (Nat × Nat)
  width : Nat
  train : Nat
  /-- width chosen in training: 0 none, 1 half, 2 full -/
  choice : Nat
  /-- the die's cores have stopped for want of valid flits (R260) -/
  silent : Bool
  /-- the link has run at half width since the die's last reset (R262) -/
  half : Bool
  /-- a fenced die's way back (R196): 0 none, 1 it was reset and its link trains, 2 its entries are being settled -/
  rejoin : Nat
  deriving DecidableEq, Repr

/-- Credits of R257 on a Spoke link and on a Tandem port. -/
def spkCredits : List Nat := [64, 32, 64, 128, 128]
def tdmCredits : List Nat := [128, 64, 128, 256, 256]

def SpkSt.init : SpkSt :=
  { up := [], dn := [], crUp := spkCredits, crDn := spkCredits, retUp := [0, 0, 0, 0, 0], retDn := [0, 0, 0, 0, 0], seqUp := 0,
    seqDn := 0, expUp := 255, expDn := 255, wires := [], repQ := [], repUp := none, repDn := none, width := 0, train := 0,
    choice := 0, silent := false, half := false, rejoin := 0 }

/-- The content of a Tandem flit as it is sent or read: SEQ, the ACK where ACKV is 1, NAK, IDLE, credits returned by class, and
messages (R269, R270). -/
structure TdmFrame where
  seq : Nat
  ack : Option Nat
  nak : Bool
  idle : Bool
  crd : List Nat
  msgs : List Msg
  deriving DecidableEq, Repr

/-- One Tandem port: messages waiting, credits, the next SEQ, the replay buffer of sequenced flits not yet acknowledged
with how often each was resent (R271), the last SEQ received in order and whether there was one, a NAK owed, the training
step, and the flits sent, newest last, as they leave for the far end. The SEQ received in order starts before 0 (log 92). -/
structure TdmSt where
  out : List Msg
  cr : List Nat
  seq : Nat
  replay : List (Nat × List Msg × Nat)
  rx : Nat
  rxAny : Bool
  nak : Bool
  step : Nat
  sent : List TdmFrame
  /-- credits to return, by class (R257) -/
  ret : List Nat
  deriving DecidableEq, Repr

def TdmSt.init : TdmSt :=
  { out := [], cr := tdmCredits, seq := 0, replay := [], rx := 4095, rxAny := false, nak := false, step := 0, sent := [],
    ret := [0, 0, 0, 0, 0] }

/-! ### Tenants and the Hub Queue Engine (spec/11) -/

/-- A tenant command under way at the hub that received it (R282): operation, tenant, who wants its outcome (0 TNT_CMD,
1 a supervisor page, 2 a pool), packages still to answer, packages counted as unanswered, whether any applied it, and
whether this hub's own part has ended. -/
structure TntJob where
  op : Nat
  tenant : Nat
  src : Nat
  pool : Nat
  tag : Nat
  waits : List Nat
  missing : Nat
  applied : Bool
  ownDone : Bool
  deriving DecidableEq, Repr

/-- A tenant reset running at this hub (R284): tenant, step, whether DESTROY asked for it, and the message to answer when
it ends, if another hub sent it. -/
structure TntReset where
  tenant : Nat
  step : Nat
  destroy : Bool
  answer : Option Msg
  deriving DecidableEq, Repr

/-- An SQE consumed and not completed (R296): index, words, bytes requested, status so far, and the port reads that
it waits for. -/
structure Sqe where
  idx : Nat
  op : Nat
  fence : Bool
  irq : Bool
  len : Nat
  src : Nat
  dst : Nat
  user : Nat
  req : Nat
  status : Nat
  /-- port reads under way -/
  out : Nat
  /-- pieces of its memory destination that are not requested yet: address, bytes, data, poison (R308) -/
  wr : List (Nat × Nat × Nat × Bool)
  /-- its completion entry is written and not visible yet (R297) -/
  cqe : Bool
  deriving DecidableEq, Repr

/-- A queue's cached context (R300): the descriptor's first 64 bytes as eight words, its SQEs in flight, reads of the
ring under way, bytes left of the running service's quantum, order of last use, and a DISABLE that waits. -/
structure QCtx where
  w : List Nat
  sqes : List Sqe
  fetching : Bool
  quantum : Nat
  used : Nat
  disabling : Bool
  deriving DecidableEq, Repr

/-- Hidden state of the tenant table and the queue engine. -/
structure HqeSt where
  jobs : List TntJob
  /-- TNT_CMD messages that 64 unanswered ones toward their hub hold back (R181) -/
  tntWait : List Msg
  nextTag : Nat
  resets : List TntReset
  queues : SMap QCtx
  /-- owner of every queue enabled and not OFF since (R293) -/
  live : SMap Nat
  use : Nat
  /-- park ring: producer and consumer positions (R300) -/
  parkHead : Nat
  parkTail : Nat
  /-- queues that the park ring holds, and queues that DISABLE turned OFF with their owners (R293, R300) -/
  inRing : List Nat
  off : SMap Nat
  /-- freeze records that wait until an earlier one of their tenant is written, oldest first (R290) -/
  fring : List (Nat × List Nat)
  /-- next slot of each scheduler, and the last queue each pool served (R301): scheduler × 256 + pool -/
  slot : SMap Nat
  poolLast : SMap Nat
  /-- a QCMD DISABLE that waits for its queue -/
  qcmd : Option Nat
  deriving DecidableEq, Repr

def HqeSt.init : HqeSt :=
  { jobs := [], tntWait := [], nextTag := 0, resets := [], queues := [], live := [], use := 0, parkHead := 0, parkTail := 0, inRing := [], off := [], fring := [], slot := [], poolLast := [],
    qcmd := none }
/-! ### PCI Express (spec/15) -/

/-- For whom an outbound non-posted request waits: a device access of an agent answered by a message, an access of an agent
answered directly, bytes of an SQE of a queue (queue, SQE index, destination, count), a function's read of a peer window
(port, link, requester ID, tag, its tenant, world and epoch), the sideband target, nobody, or nobody for a write of an agent, tenant and world
(R3, R7, R377, R378, R385, R399). -/
inductive OutFor where
  | dev (m : Msg)
  | agent (a addr : Nat)
  | queue (q idx dst n : Nat)
  | peer (port link rid tag tenant : Nat) (secure : Bool) (epoch : Nat)
  | sideband
  | posted (agent tenant : Nat) (secure : Bool)
  | nobody
  deriving DecidableEq, Repr

/-- A TLP that leaves on a link, or an outbound request (R377): kind 0 memory read, 1 memory write, 2 and 3 configuration read
Type 0 and 1, 4 and 5 configuration write, 6 completion, 7 translation completion, 8 invalidate request, 9 page request group
response; address or status, size in bytes, data, tag, and the requester ID where it is not the port's own. -/
structure Tlp where
  port : Nat
  link : Nat
  kind : Nat
  addr : Nat
  size : Nat
  data : Nat
  tag : Nat
  rid : Option Nat
  poison : Bool
  deriving DecidableEq, Repr

/-- An outbound non-posted request with its asker. -/
structure OutReq where
  tlp : Tlp
  dest : OutFor
  deriving DecidableEq, Repr

/-- An inbound request after decode (R385, R386, R388): its TLP, function entry, owner, world and regulator entry, the epoch
it was decoded under, and its physical address or the interrupt window (none). -/
structure InReq where
  port : Nat
  link : Nat
  t : TlpIn
  n : Nat
  tenant : Nat
  secure : Bool
  rent : Nat
  epoch : Nat
  pa : Option Nat
  /-- bytes performed so far, what a read has given, and whether a part of it was poisoned -/
  done : Nat
  acc : Nat
  bad : Bool
  deriving DecidableEq, Repr

/-- What waits at a port for its turn (R383, R387): a request, or a completion (port, link, tag, status, data). -/
inductive InItem where
  | req (r : InReq)
  | cpl (port link tag status data : Nat)
  deriving DecidableEq, Repr

/-- An entry of a function's MSI-X table (R389). -/
structure MsixEnt where
  addr : Nat
  data : Nat
  mask : Bool
  deriving DecidableEq, Repr

def MsixEnt.init : MsixEnt := ⟨0, 0, true⟩

/-- Hidden state of the PCIe ports: the tenant of every function entry enabled and not OFF since, by port × 8192 + entry
(R379, R380), and the function resets that run, each with whether it ends in OFF (R382). -/
structure FnSt where
  /-- tenant of every enabled function, with 4,096 added where its world is Secure -/
  live : SMap Nat
  flr : SMap Bool
  /-- outbound requests in flight, those that wait for a tag, and quarantined tags by port × 65536 + link × 16384 + tag -/
  out : List OutReq
  waiting : List OutReq
  quar : List Nat
  /-- inbound requests and completions that wait, in arrival order -/
  inq : List InItem
  /-- TLPs sent, newest last, as they leave on the links -/
  sent : List Tlp
  /-- MSI-X entries by (port × 8192 + function) × 64 + vector, pending bits by the same number, and functions whose mask is
  set -/
  msix : SMap MsixEnt
  pba : List Nat
  fmask : List Nat
  /-- a PCI_FCMD DISABLE and a PCI_XCMD that run: entry, and operation -/
  fcmd : SMap Nat
  xcmd : SMap Nat
  /-- AER uncorrectable error status: of function n by 8192 × port + n, of the root port of link l by 65536 + 4 × port + l (R376) -/
  aer : SMap Nat
  deriving DecidableEq, Repr

def FnSt.init : FnSt :=
  { live := [], flr := [], out := [], waiting := [], quar := [], inq := [], sent := [], msix := [], pba := [], fmask := [],
    fcmd := [], xcmd := [], aer := [] }

/-! ### Regulation and arbitration (spec/12) -/

/-- A candidate of an arbiter (R317): its entry, loss boost, starvation count, and whether it has been flagged since it last
won (R318). -/
structure Cand where
  ent : Nat
  boost : Nat
  starve : Nat
  flagged : Bool
  deriving DecidableEq, Repr

/-- Hidden state of the regulators and arbiters: the counters of the dies by entry × 16 + die (R309), the requests a hub
counter held in the running window, the guarantee in force and the lines counted by reservation slot (R313, R314), the
last latencies of each entry in ns (R315), and the candidates and waiting requesters of each arbiter (R317). -/
structure RegSt where
  /-- lines of an entry in its window on a die: 16 × entry + die -/
  die : SMap Nat
  /-- entries with a window boundary since REG_CTRL.EN was written 1: their limits and guarantees act -/
  acts : List Nat
  /-- the entry number that a port attached to a function's last request (R306), by its MASTER field -/
  fent : SMap Nat
  held : List Nat
  rsv : SMap (Nat × Nat)
  lat : SMap (List Nat)
  cand : SMap (List Cand)
  wait : SMap (List Nat)
  deriving DecidableEq, Repr

def RegSt.init : RegSt := { die := [], acts := [], fent := [], held := [], rsv := [], lat := [], cand := [], wait := [] }

/-! ### Security, OTP and the audit log (spec/13) -/

/-- One record of the on-die audit ring: its number, its 32 bytes as a number, and the sinks that hold it (R344 to R347). -/
structure AudRec where
  seq : Nat
  data : Nat
  inDram : Bool
  inMram : Bool
  deriving DecidableEq, Repr

/-- A hardware record that waits in its block (R346), or the record of a write that restarts the DRAM sink, with its writer and whether
the write was refused (R347). -/
structure HwRec where
  blk : Nat
  time : Nat
  value : Nat
  addr : Nat
  who : Option Who
  refused : Bool
  deriving DecidableEq, Repr

/-- A software write held at its target: until its record has a slot (R346), until a commit of its staged set ends (R364), or until
an APPLY ends (R371); and for whom its end is answered. -/
structure HeldWrite where
  who : Who
  off : Nat
  value : Nat
  /-- 8, or the size of an access that R13 refuses -/
  size : Nat
  dest : Option OutFor
  deriving DecidableEq, Repr

/-- Hidden state of the audit log. -/
structure AudSt where
  ring : List AudRec
  waiting : List HwRec
  held : List HeldWrite
  /-- records written to the DRAM sink since DRAM_EN last became 1 (R347) -/
  dramCount : Nat
  /-- digest words 1 to 3 latched by the last read of AUD_DIGEST[0] (R345) -/
  latch : Nat
  deriving DecidableEq, Repr

def AudSt.init : AudSt := { ring := [], waiting := [], held := [], dramCount := 0, latch := 0 }

/-- Hidden state of the security block. -/
structure SecSt where
  /-- the word and value that a running PROG writes, and the generation (R341) -/
  otpJob : Option (Nat × Nat × Nat)
  /-- every OTP field as read at the last cold reset (R340) -/
  otpRead : SMap Nat
  /-- the watchdog has fired and waits for the audit drain (R338) -/
  wdogFiring : Bool
  /-- units of TIME gone of the running µs of the watchdog (R337) -/
  wdogMark : Nat
  deriving DecidableEq, Repr

def SecSt.init : SecSt := { otpJob := none, otpRead := [], wdogFiring := false, wdogMark := 0 }

/-- The answer to a register or device access, on its way to the agent that made it (R139, R140). -/
structure Reply where
  agent : Nat
  addr : Nat
  value : Nat
  poison : Bool
  busError : Bool
  deriving DecidableEq, Repr

/-! ### Power, boot, sideband and test access (spec/14 to spec/16, spec/18) -/

/-- Hidden state of the power controller and the Freewheel sequencer: a running PWR_GATE_CMD (target, operation, hub cache
banks), the gated hub cache banks, Freewheel, the wake step and attempt that run, crystal periods until the next attempt,
wake sources seen and not yet acted on (R413, R415), and what the board's lands say (R440, R443, R444, R448). -/
structure PwrSt where
  gate : Option (Nat × Nat × Nat)
  hcGated : Nat
  asleep : Bool
  wakeStep : Nat
  attempt : Nat
  retry : Option Nat
  seen : Nat
  brown : Bool
  /-- THERMTRIP_N is driven low -/
  tripped : Bool
  /-- sensors whose own CRIT_ON or HOT is set, PROCHOT_N aside (R444) -/
  crit : Nat
  /-- channels that Freewheel entry sends into self-refresh -/
  chans : Nat
  /-- PERST_N inputs that are low, by port (R436) -/
  perstLow : Nat
  /-- COLD_RST_N, WARM_RST_N and FLASH_OWN_N are low; AON_OK -/
  coldLow : Bool
  warmLow : Bool
  flashLow : Bool
  aonOk : Bool
  deriving DecidableEq, Repr

def PwrSt.init : PwrSt :=
  { gate := none, hcGated := 0, asleep := false, wakeStep := 0, attempt := 0, retry := none, seen := 0, brown := false,
    tripped := false, crit := 0, chans := 0, perstLow := 0, coldLow := false, warmLow := false, flashLow := false, aonOk := true }

/-- The boot ROM (R357): its step (0: it has ended or stopped), slot, section, record, and what it waits for: 0 nothing, 1 a WAIT
record, 2 a call, 3 a commit. -/
structure BootSt where
  step : Nat
  slot : Nat
  sect : Nat
  rcd : Nat
  wait : Nat
  deriving DecidableEq, Repr

def BootSt.init : BootSt := ⟨1, 0, 0, 0, 0⟩

/-- The CFG engine (R369 to R371): operation that runs (0 none, 1 LOAD, 2 APPLY), sections selected, the section and record it has
come to, whether it has begun to copy or write, ADMIT of each resource as validation took it for every REG_RSV command still to come, and the software writes held under R364 and
R371. -/
structure StageSt where
  op : Nat
  mask : Nat
  sect : Nat
  rcd : Nat
  begun : Bool
  adm : List (List Nat)
  held : List HeldWrite
  deriving DecidableEq, Repr

def StageSt.init : StageSt := ⟨0, 0, 0, 0, false, [], []⟩

/-- The sideband target: status and data of the last command's result (R399), and in-band interrupts raised (R451). -/
structure SbSt where
  status : Nat
  data : Nat
  ibi : Nat
  /-- a result waits to be read, and the nine bytes of the last result read -/
  due : Bool
  got : Nat
  deriving DecidableEq, Repr

/-- A die of the test access chain: its instruction (R455) and the values preloaded into its cells. -/
structure TapDie where
  instr : Nat
  cells : Nat
  deriving DecidableEq, Repr

/-- The test access port: dies by position (0 the hub, 1 + d compute die d), the debug access that runs (write, world,
address, data), and the DEBUG register as a capture returns it (R457). -/
structure TapSt where
  dies : SMap TapDie
  dbg : Option (Bool × Bool × Nat × Nat)
  capture : Nat
  deriving DecidableEq, Repr

def TapDie.init : TapDie := ⟨1, 0⟩
def TapSt.init : TapSt := ⟨[], none, 0⟩

/-! ### Counting and energy (spec/17) -/

/-- Credits of an epoch (R433): ticks until they appear, energy by domain, and shares (key, pJ). -/
structure Credit where
  ticks : Nat
  doms : List (Nat × Nat)
  shares : List (Nat × Nat)
  deriving DecidableEq, Repr

/-- Energy accounting (R431 to R433). Domains: 26d + j of die d, 312 + j of the hub. Keys: tenant × 1024 + (0, or context of
this package + 1). -/
structure NrgSt where
  /-- weights (cores) or model energy (other domains) of the running epoch, by domain and key -/
  use : SMap (SMap Nat)
  /-- fraction of a pJ carried on by each domain, in 1/65,536 pJ -/
  carry : SMap Nat
  /-- floor(TIME ÷ 4,000) at the last epoch's end -/
  mark : Nat
  due : List Credit
  /-- domains whose measurement is replaced in the running epoch (R434) -/
  degr : List Nat
  deriving DecidableEq, Repr

def NrgSt.init : NrgSt := { use := [], carry := [], mark := 0, due := [], degr := [] }

/-- The Counter Collector (R428 to R430): floor(TIME ÷ interval) at the last tick, the registers as latched for the snapshot
that is being written with the edge's TIME and number, and whether edges were skipped since the previous one. -/
structure CcSt where
  mark : Nat
  snap : Option (Nat × Nat × RegFile)
  skip : Bool
  deriving DecidableEq, Repr
/-! ### The package and the block -/

/-- An interrupt message on its way to a context (R131). -/
structure Irq where
  agent : Nat
  vec : Nat
  /-- function of an endpoint port that the message is for (R389) -/
  func : Nat
  deriving DecidableEq, Repr

/-- The whole package but its command queue. -/
structure Chip where
  /-- every control and status field, and the shadows of RWS fields -/
  regs : RegFile
  /-- number of free values taken so far (the model's own field; log 1) -/
  free : Nat
  /-- the OTP array, word by word (R339) -/
  otp : SMap Nat
  /-- level of FATAL_ERR, WAKE_FAULT and the PKGID straps (R448) -/
  fatalErr : Bool
  wakeFault : Bool
  straps : Nat
  irqs : List Irq
  /-- interrupts that a rule raises without naming a target (R53; log 9) -/
  rawIrqs : Nat
  clk : ClockSt
  aud : AudSt
  sec : SecSt
  /-- caches, directory, open transactions and messages on their way -/
  coh : CohSt
  /-- channel controllers, listed where they differ from idle -/
  mc : SMap McSt
  /-- Page Guard and Yarrow -/
  pg : PgSt
  /-- DRAM data bytes, at channel × 2^40 + channel address -/
  dram : Mem
  /-- DRAM check bits C0 (bit 0) and C1 (bit 1) of each byte, at the same addresses -/
  dramChk : Mem
  /-- memory of the CXL devices, at (4 × port + link) × 2^45 + device address -/
  cxl : Mem
  /-- CXL lines that hold poison, by the same address >> 6 -/
  cxlPoison : List Nat
  /-- the 8 MiB MRAM -/
  mram : Mem
  /-- the board's SPI flash device -/
  flash : Mem
  /-- contexts 80d + 4k + c, listed where one differs from its reset value -/
  ctx : SMap Ctx
  /-- cores 20d + k -/
  core : SMap CoreSt
  /-- next number of a load, divider or Sprocket job -/
  nextJob : Nat
  /-- Sprocket tables -/
  sprk : SprkSt
  /-- Spoke links by die -/
  spk : SMap SpkSt
  /-- Tandem ports -/
  tdm : SMap TdmSt
  /-- messages to a package whose route changed, held under R278, by package -/
  routeHold : List (Nat × List Msg)
  /-- tenant commands, tenant resets and the Hub Queue Engine -/
  hqe : HqeSt
  /-- cause of each master frozen now: context x at x, queue q at 2^20 + q, function entry n of a port at 2^21 + 8192 port + n -/
  frozen : SMap Nat
  /-- function entries in use, function resets, and what the PCIe ports hold -/
  fns : FnSt
  /-- regulators and arbiters -/
  rg : RegSt
  /-- answers to accesses, on their way to their agents -/
  replies : List Reply
  /-- power, Freewheel and control lands -/
  pwr : PwrSt
  /-- CFG_PRESENT of each die as it is in force; unlisted: everything present (R361) -/
  presence : SMap Nat
  /-- the boot ROM -/
  boot : BootSt
  /-- the CFG engine -/
  stage : StageSt
  /-- the sideband target -/
  sb : SbSt
  /-- the test access port -/
  tap : TapSt
  /-- energy accounting -/
  nrg : NrgSt
  /-- the Counter Collector -/
  cc : CcSt
  deriving DecidableEq, Repr

/-- SEC_RGN[k][31] after reset: enabled, every right, Secure (spec/13, Registers). -/
def RegFile.reset : RegFile :=
  { RegFile.init with
    warm := (List.range 27).flatMap (fun k =>
      let a := 8 * (0xC9010000 + 0x200 * k + 16 * 31)
      [(a, 1), (a + 1, 7), (a + 4, 1)]) }

/-- The FACTORY fields, programmed and final from manufacture (R342). DESIGN CHOICE (log 43): every VALUE of them is 0, with its CHK. -/
def otpFactory : SMap Nat := (List.range 128).map (fun i => (384 + i, 0x44 * 2 ^ 56))

def Chip.reset : Chip :=
  { regs := RegFile.reset, free := 0, otp := otpFactory, fatalErr := false, wakeFault := false, straps := 0, irqs := [],
    rawIrqs := 0, clk := ClockSt.init, aud := AudSt.init, sec := SecSt.init,
    coh := CohSt.init,
    mc := [],
    pg := PgSt.init,
    dram := [],
    dramChk := [],
    cxl := [],
    cxlPoison := [],
    mram := [],
    flash := [],
    ctx := [],
    core := [],
    nextJob := 1,
    sprk := ⟨[], [], [], false⟩,
    spk := [],
    tdm := [],
    routeHold := [],
    hqe := HqeSt.init,
    frozen := [],
    fns := FnSt.init,
    rg := RegSt.init,
    replies := [],
    pwr := PwrSt.init,
    presence := [],
    boot := BootSt.init,
    stage := StageSt.init,
    sb := ⟨0, 0, 0, false, 0⟩,
    tap := TapSt.init,
    nrg := NrgSt.init,
    cc := ⟨0, none, false⟩ }

/-- The machine: the package, and the commands that wait, first in first out. -/
structure State where
  pending : List Instr
  chip : Chip
  deriving DecidableEq, Repr

/-- The machine right after a cold reset. -/
def State.reset : State :=
  { pending := []
    chip := { Chip.reset with
      regs := (((((((RegFile.reset.put Reg.AUD_SEQ.SEQ 1).put Reg.AUD_STATUS.USED 1).put (Reg.AUD_LAST.REC 2) 0x000FF000C9C00028).put
        (Reg.AUD_LAST.REC 3) 0x52B5F23DDF031984).put (Reg.AUD_DIGEST.DIGEST 0) 0x19C6AC52B5F23DDF).put (Reg.AUD_DIGEST.DIGEST 1)
          0xBFBD997CE704269F).put (Reg.AUD_DIGEST.DIGEST 2) 0x1D33231FEB41D9DD).put (Reg.AUD_DIGEST.DIGEST 3) 0xDADF97437BD5EC7A
      sec := { SecSt.init with otpRead := (List.range 32).map (fun i => (224 + i, 1)) }
      aud := { AudSt.init with
        ring := [⟨0, 0x52B5F23DDF031984 * 2 ^ 192 + 0x000FF000C9C00028 * 2 ^ 128, false, false⟩] } } }

/-- The reasons a command can stop with a fault. No command does: where an access fails, the spec gives the failure an
effect on the state (poison, a discarded write, a frozen master), and that effect is the command's. Safe. -/
inductive Fault where
  /-- Raised by nothing: kept so that the type has a value. Safe. -/
  | unreachable
  deriving DecidableEq, Repr

/-- The reasons a command can be refused. -/
inductive Refusal where
  /-- A command of the table that has no meaning yet. Raised by `exec`'s arms only. Safe. -/
  | notModelled (mnemonic : String)
  deriving DecidableEq, Repr

end Sys2Proof.Machine
end

