-- ==== Sys2Proof/Machine/Ops.lean ====
section
/-! DEFINITION. Machine/Ops.lean: the named operations that every family of commands uses: reading and writing fields, free
values, agent identifiers, interrupt messages, and running a command's effect on the package. -/
namespace Sys2Proof.Machine

/-- The value a field holds. -/
def Chip.get (c : Chip) (f : Fld) : Nat := c.regs.get f

/-- A one-bit field as a Bool. -/
def Chip.on (c : Chip) (f : Fld) : Bool := c.get f == 1

/-- Give a field a value, cut to its width. -/
def Chip.put (c : Chip) (f : Fld) (v : Nat) : Chip := { c with regs := c.regs.put f v }

/-- Set or clear a one-bit field. -/
def Chip.putB (c : Chip) (f : Fld) (b : Bool) : Chip := c.put f (b2n b)

/-- Give several fields their values. -/
def Chip.puts (c : Chip) (l : List (Fld × Nat)) : Chip := l.foldl (fun c p => c.put p.1 p.2) c

/-- Count events in a field that saturates. -/
def Chip.count (c : Chip) (f : Fld) (n : Nat) : Chip := c.put f (satAdd f.width (c.get f) n)

/-- Add to a field modulo its width. -/
def Chip.addMod (c : Chip) (f : Fld) (n : Nat) : Chip := c.put f (c.get f + n)

/-- Take a free value: the value, and the package with the counter advanced (log 1). -/
def Chip.fresh (c : Chip) : Nat × Chip := (Config.freeNat c.free, { c with free := c.free + 1 })

/-- This package's number (R34). -/
def Chip.pkg (c : Chip) : Nat := c.get Reg.HUB_PKG_ID.PKG

/-- The agent ID of a compute-die context (R3). -/
def agentOf (pkg die clu core ctx : Nat) : Nat := pkg * 0x2000 + die * 0x200 + clu * 0x40 + core * 0x10 + ctx * 4

/-- The agent ID of a hub unit (R4). -/
def hubAgent (pkg cls inst : Nat) : Nat := pkg * 0x2000 + 12 * 0x200 + cls * 0x40 + (inst % 16) * 4

/-- The PKG, DIE, CLU, CORE and CTX fields of an agent ID (R3). -/
def agPkg (a : Nat) : Nat := bits a 13 3
def agDie (a : Nat) : Nat := bits a 9 4
def agClu (a : Nat) : Nat := bits a 6 3
def agCore (a : Nat) : Nat := bits a 4 2
def agCtx (a : Nat) : Nat := bits a 2 2

/-- Context number x = 80d + 4k + c of an agent ID of a compute die. -/
def ctxOfAgent (a : Nat) : Nat := 80 * agDie a + 16 * agClu a + 4 * agCore a + agCtx a

/-- Agent ID of context x of a package. -/
def agentOfCtx (pkg x : Nat) : Nat := agentOf pkg (x / 80) (x % 80 / 16) (x % 16 / 4) (x % 4)

/-- Does an agent ID name a context of a compute die (R5)? -/
def isCtxAgent (a : Nat) : Bool := agDie a < 12 && agClu a < 5 && a % 4 == 0

/-- Send an interrupt message (R131). -/
def Chip.sendIrq (c : Chip) (agent vec : Nat) : Chip := { c with irqs := c.irqs ++ [⟨agent, vec, 0⟩] }

/-- Send the message of a register laid out as CL_ERR_IRQ, if its EN is 1. -/
def Chip.irqReg (c : Chip) (ag vec en : Fld) : Chip := if c.on en then c.sendIrq (c.get ag) (c.get vec) else c

/-- Current value of TIME in this package (R43, R44). -/
def Chip.time (c : Chip) : Nat := c.get Reg.TIME_NOW.VALUE

/-- Is a bit of a mask field set? -/
def Chip.bitOf (c : Chip) (f : Fld) (i : Nat) : Bool := bit (c.get f) i

/-- Set or clear one bit of a mask field. -/
def Chip.putBit (c : Chip) (f : Fld) (i : Nat) (b : Bool) : Chip := c.put f (setBits (c.get f) i 1 (b2n b))

/-- Replace `w` bits of a field. -/
def Chip.putSub (c : Chip) (f : Fld) (lo w v : Nat) : Chip := c.put f (setBits (c.get f) lo w v)

/-- Two's-complement reading of a `w`-bit number (R12). -/
def toSigned (w n : Nat) : Int := if n % 2 ^ w < 2 ^ (w - 1) then (n % 2 ^ w : Nat) else ((n % 2 ^ w : Nat) : Int) - 2 ^ w

/-- The low `w` bits of an integer. -/
def ofSigned (w : Nat) (i : Int) : Nat := (i % (2 ^ w : Nat)).toNat

/-- Present packages of the domain (HUB_AMAP_PRESENT); the hub treats its own bit as 1. -/
def Chip.present (c : Chip) (q : Nat) : Bool := q == c.pkg || c.bitOf Reg.HUB_AMAP_PRESENT.PKG q

/-- Die, cluster and core presence as in force (R22, R361): CLU in bits 0 to 4, CORE from bit 5, DIE in bit 63. -/
def Chip.presentWord (c : Chip) (d : Nat) : Nat := SMap.getD c.presence d (2 ^ 63 + 2 ^ 25 - 1)
def Chip.diePresent (c : Chip) (d : Nat) : Bool := bit (c.presentWord d) 63
def Chip.cluPresent (c : Chip) (d cl : Nat) : Bool := c.diePresent d && bit (c.presentWord d) cl
def Chip.corePresent (c : Chip) (d k : Nat) : Bool := c.cluPresent d (k / 4) && bit (c.presentWord d) (5 + k)

/-- Has the boot ROM stopped, with NO_IMAGE or APPLY_FAIL: no context starts and every Tandem port stays DOWN (R360)? -/
def Chip.bootStopped (c : Chip) : Bool := decide (2 ≤ c.get Reg.CFG_BOOT.RESULT)

/-- The OTP array can only gain ones (R339, R341): what a command leaves is joined with what stood before. -/
def otpJoin (old new : SMap Nat) : SMap Nat := old.foldl (fun m p => SMap.set m p.1 (SMap.getD m p.1 0 ||| p.2)) new

/-- Do the clocks of the package stand: a cold reset is held, the package sleeps, or a brown-out or a thermal trip stopped them
(R410, R440, R443, R448)? -/
def Chip.clockless (c : Chip) : Bool := c.pwr.coldLow || c.pwr.asleep || c.pwr.brown || c.pwr.tripped || !c.pwr.aonOk

/-- Does nothing run but TIME and the always-on domain: the clocks stand, or a warm reset is held (R448)? -/
def Chip.halted (c : Chip) : Bool := c.clockless || c.pwr.warmLow

/-- Run a command's effect on the package; OTP cells stay programmed. -/
def State.runAlways (s : State) (f : Chip → Chip) : Host.Outcome State Fault Refusal :=
  let c := f s.chip
  .next { s with chip := if c.otp = s.chip.otp then c else { c with otp := otpJoin s.chip.otp c.otp } }

/-- Run the effect of a command of the clocked part of the package: nothing happens while its clocks are stopped. -/
def State.run (s : State) (f : Chip → Chip) : Host.Outcome State Fault Refusal :=
  s.runAlways (fun c => if c.halted then c else f c)

/-- Run the effect of a command of the synthesizers or of TIME, which a warm reset does not stop (R42, R45). -/
def State.runTime (s : State) (f : Chip → Chip) : Host.Outcome State Fault Refusal :=
  s.runAlways (fun c => if c.clockless then c else f c)

end Sys2Proof.Machine
end

