-- ==== Sys2Proof/Machine/Audit.lean ====
section
/-! DEFINITION. Machine/Audit.lean: the audit log's records, their hash chain and the on-die ring (R343 to R346), and the
region checkers (R323 to R326). -/
namespace Sys2Proof.Machine

/-- Slots of the on-die ring, and the level at which software writes are held (R346). -/
def audSlots : Nat := 4096
def audHold : Nat := 3840

/-- Refresh AUD_STATUS.USED, STALL and HW_WAIT from the ring and the waiting records (R346). -/
def Chip.audSync (c : Chip) : Chip :=
  let n := c.aud.ring.length
  c.puts [(Reg.AUD_STATUS.USED, n), (Reg.AUD_STATUS.STALL, b2n (decide (n ≥ audHold))),
    (Reg.AUD_STATUS.HW_WAIT, b2n (!c.aud.waiting.isEmpty))]

/-- What a record says besides its hash (R344). -/
structure RecBody where
  time : Nat
  value : Nat
  addr : Nat
  tenant : Nat
  agent : Nat
  world : Bool
  hw : Bool
  refused : Bool
  cs : Bool
  deriving DecidableEq, Repr

/-- The record's 32 bytes with a zero hash, as a number (R344). -/
def RecBody.num (r : RecBody) : Nat :=
  r.time % 2 ^ 64 + (r.value % 2 ^ 64) <<< 64 + (r.addr % 2 ^ 52) <<< 128 + (r.tenant % 2 ^ 12) <<< 180
    + (r.agent % 2 ^ 16) <<< 192 + b2n r.world <<< 208 + b2n r.hw <<< 209 + b2n r.refused <<< 210 + b2n r.cs <<< 211

/-- The digest of a record: SHA-256 of the previous record and bytes 0 to 26 of this one (R345). -/
def audDigest (prev body : Nat) : List Nat := sha256 (toBytes 32 prev ++ toBytes 27 body)

/-- A record with digest bytes 0 to 4 in its bytes 27 to 31 (R345). -/
def audSeal (body : Nat) (digest : List Nat) : Nat := body + ofBytes (digest.take 5) <<< 216

/-- The latest record (AUD_LAST). -/
def Chip.audLast (c : Chip) : Nat :=
  c.get (Reg.AUD_LAST.REC 0) + c.get (Reg.AUD_LAST.REC 1) <<< 64 + c.get (Reg.AUD_LAST.REC 2) <<< 128
    + c.get (Reg.AUD_LAST.REC 3) <<< 192

/-- A record enters the ring: it is chained to the latest one, numbered by AUD_SEQ, and AUD_IRQ is sent when USED
reaches THRESH (R345, R346). -/
def Chip.audPushAfter (prev : Nat) (c : Chip) (b : RecBody) : Chip :=
  let dg := audDigest prev b.num
  let r := audSeal b.num dg
  let d := ofBytes dg
  let seq := c.get Reg.AUD_SEQ.SEQ
  let c := c.puts [(Reg.AUD_LAST.REC 0, bits r 0 64), (Reg.AUD_LAST.REC 1, bits r 64 64), (Reg.AUD_LAST.REC 2, bits r 128 64),
    (Reg.AUD_LAST.REC 3, bits r 192 64), (Reg.AUD_DIGEST.DIGEST 0, bits d 0 64), (Reg.AUD_DIGEST.DIGEST 1, bits d 64 64),
    (Reg.AUD_DIGEST.DIGEST 2, bits d 128 64), (Reg.AUD_DIGEST.DIGEST 3, bits d 192 64), (Reg.AUD_SEQ.SEQ, seq + 1)]
  let c := ({ c with aud := { c.aud with ring := c.aud.ring ++ [AudRec.mk seq r false false] } }).audSync
  if c.aud.ring.length = c.get Reg.AUD_IRQ.THRESH then
    c.irqReg Reg.AUD_IRQ.AGENT Reg.AUD_IRQ.VEC Reg.AUD_IRQ.EN
  else c

/-- A record enters the ring after the latest record. -/
def Chip.audPush (c : Chip) (b : RecBody) : Chip := Chip.audPushAfter c.audLast c b

/-- The body of a software write's record. -/
def Chip.swBody (c : Chip) (w : Who) (addr value : Nat) (refused : Bool) : RecBody :=
  { time := c.time, value := value, addr := addr, tenant := w.tenant, agent := w.agent, world := w.secure,
    hw := false, refused := refused, cs := false }

/-- The record of a CSWR to cs_tenant or cs_irq_world (R343, R344). -/
def Chip.audCs (c : Chip) (w : Who) (cs value : Nat) : Chip :=
  c.audPush { c.swBody w (2 ^ 52 - 2 ^ 12 + cs % 2 ^ 12) value false with cs := true }

/-- The body of a hardware record (R344). -/
def hwBody (h : HwRec) : RecBody :=
  match h.who with
  | none => { time := h.time, value := h.value, addr := h.addr, tenant := 0, agent := h.blk, world := true, hw := true,
              refused := false, cs := false }
  | some w => { time := h.time, value := h.value, addr := h.addr, tenant := w.tenant, agent := w.agent, world := w.secure, hw := false,
                refused := h.refused, cs := false }

/-- A block's state change writes a hardware record, which waits in its block when no slot is free (R343, R346). -/
def Chip.hwEnter (c : Chip) (h : HwRec) : Chip :=
  if c.aud.ring.length < audSlots && c.aud.waiting.isEmpty then c.audPush (hwBody h)
  else (({ c with aud := { c.aud with waiting := c.aud.waiting ++ [h] } }).count Reg.AUD_STALL_CNT.HW_WAITS 1).audSync

def Chip.hwRecord (c : Chip) (blk addr value : Nat) : Chip := c.hwEnter ⟨blk, c.time, value, addr, none, false⟩

/-- Waiting hardware records, at most `n`, enter the ring in order as long as a slot is free (R346). -/
def Chip.hwFill : Nat → Chip → Chip
  | 0, c => c
  | n + 1, c =>
    match c.aud.waiting with
    | [] => c
    | h :: l =>
      if c.aud.ring.length < audSlots then Chip.hwFill n (({ c with aud := { c.aud with waiting := l } }).audPush (hwBody h)) else c

/-- Records that a block may hold before it holds its next audited change (R346). -/
def hwWaitMax : Nat := 16

/-- Does a block hold as many records as it can (R346)? -/
def Chip.hwFull (c : Chip) (blk : Nat) : Bool := decide (hwWaitMax ≤ (c.aud.waiting.filter (fun h => h.who.isNone && h.blk == blk)).length)

/-- The START record of a reset (R345). -/
def Chip.audStart (c : Chip) (warm : Bool) : Chip :=
  let h : HwRec := ⟨hubAgent c.pkg 6 1, c.time, b2n warm, 0xFF00000000000 + c.pkg * 0x100000000 + 0xC9C00028, none, false⟩
  Chip.audPushAfter (if warm then c.audLast else 0) c (hwBody h)

/-- The log starts again after a warm reset or a wake, and the hardware records that waited follow (R345, R346). -/
def Chip.audRestart (c : Chip) : Chip :=
  let c := c.audStart true
  Chip.hwFill c.aud.waiting.length c

/-- Base of this package's CSR space (R14). -/
def Chip.csrBase (c : Chip) : Nat := 0xFF00000000000 + c.pkg * 0x100000000

/-! ### Region checkers -/

/-- Rights as a mask: R 1, W 2, X 4 (the order of SEC_RGN bits 3 to 1 and of AUX bits 4 to 2). -/
def rightR : Nat := 1
def rightW : Nat := 2
def rightX : Nat := 4

/-- Is region i of checker k enabled and does it contain a page (R324)? -/
def Chip.rgnCovers (c : Chip) (k i page : Nat) : Bool :=
  c.on (Reg.SEC_RGN.EN k i) && decide (c.get (Reg.SEC_RGN.BASE k i) ≤ page) && decide (page ≤ c.get (Reg.SEC_RGN.LIMIT k i))

/-- The deciding region: the lowest-numbered enabled one that contains the address, else the background region (R324). -/
def Chip.rgnOf (c : Chip) (k addr : Nat) : Nat :=
  ((List.range 31).find? (fun i => c.rgnCovers k i (addr / 4096))).getD 31

/-- The rights that a region gives to a world and tenant (R324). -/
def Chip.rgnRights (c : Chip) (k i tenant : Nat) (secure : Bool) : Nat :=
  let w := c.get (Reg.SEC_RGN.WORLD k i)
  if (w = 2 || w = b2n secure) && (c.on (Reg.SEC_RGN.ANY k i) || c.get (Reg.SEC_RGN.TENANT k i) = tenant)
  then c.get (Reg.SEC_RGN.RIGHTS k i) else 0

/-- The outcome of a region check. -/
structure RgnChk where
  ok : Bool
  region : Nat
  rights : Nat
  deriving DecidableEq, Repr

/-- Check an access that needs rights `need` at checker k (R324). -/
def Chip.rgnCheck (c : Chip) (k addr : Nat) (w : Who) (need : Nat) : RgnChk :=
  let i := c.rgnOf k addr
  let r := c.rgnRights k i w.tenant w.secure
  ⟨r &&& need == need, i, r⟩

/-- The agent ID of checker k (R323); `slice` is the home slice that checks for checker 24. -/
def Chip.checkerAgent (c : Chip) (k slice : Nat) : Nat :=
  if k < 16 then hubAgent c.pkg 0 k
  else if k < 24 then hubAgent c.pkg 1 (k - 16)
  else if k = 24 then hubAgent c.pkg 2 slice
  else hubAgent c.pkg 6 0

/-- Log a failed check: SEC_VIOL_LOG keeps the first, SEC_VIOL_SRC.COUNT counts every one (R326). -/
def Chip.violLog (c : Chip) (k region addr : Nat) (w : Who) (write : Bool) : Chip :=
  let c := c.count Reg.SEC_VIOL_SRC.COUNT 1
  if c.on Reg.SEC_VIOL_LOG.VALID then c
  else c.puts [(Reg.SEC_VIOL_LOG.ADDR, addr), (Reg.SEC_VIOL_LOG.REGION, region), (Reg.SEC_VIOL_LOG.CHECKER, k),
    (Reg.SEC_VIOL_LOG.VALID, 1), (Reg.SEC_VIOL_SRC.AGENT, w.agent), (Reg.SEC_VIOL_SRC.TENANT, w.tenant),
    (Reg.SEC_VIOL_SRC.WORLD, b2n w.secure), (Reg.SEC_VIOL_SRC.WRITE, b2n write)]

/-! ### OTP fields -/

/-- Word w of the OTP array (R339). -/
def Chip.otpWord (c : Chip) (w : Nat) : Nat := SMap.getD c.otp w 0

/-- Is generation g of field f valid: programmed, with a matching CHK (R340)? -/
def Chip.otpValid (c : Chip) (f g : Nat) : Bool :=
  let w := c.otpWord (4 * f + g)
  w != 0 && bits w 56 8 == otpCrc (bits w 0 56)

/-- The highest-numbered valid generation (R340). -/
def Chip.otpGen (c : Chip) (f : Nat) : Option Nat := [3, 2, 1, 0].find? (fun g => c.otpValid f g)

/-- The field's value (R340). -/
def Chip.otpValue (c : Chip) (f : Nat) : Nat :=
  match c.otpGen f with
  | some g => bits (c.otpWord (4 * f + g)) 0 56
  | none => 0

/-- Which generations are programmed, as a mask (R340). -/
def Chip.otpUsed (c : Chip) (f : Nat) : Nat :=
  (List.range 4).foldl (fun m g => if c.otpWord (4 * f + g) = 0 then m else m + 2 ^ g) 0

/-- A field as blocks use it: its value at the last cold reset (R340). -/
def Chip.otpField (c : Chip) (f : Nat) : Nat := SMap.getD c.sec.otpRead f 0

/-- Did a field hold a valid generation at the last cold reset (R340)? -/
def Chip.otpHeld (c : Chip) (f : Nat) : Bool := SMap.getD c.sec.otpRead (128 + f) 0 == 1

/-- Latch every OTP field at a cold reset: its value, and at 128 + f whether a generation is valid (R340). -/
def Chip.otpLatch (c : Chip) : Chip :=
  { c with sec := { c.sec with
      otpRead := (List.range 128).foldl (fun m f => SMap.put (SMap.put m 0 f (c.otpValue f)) 0 (128 + f) (b2n (c.otpGen f).isSome)) [] } }

end Sys2Proof.Machine
end

