-- ==== Sys2Proof/Machine/Pmu.lean ====
section
/-! DEFINITION. Machine/Pmu.lean: counting events (R420 to R424, R335) and the model energy of events (R431, R432). -/
namespace Sys2Proof.Machine

/-- Add to a counter: VALUE wraps modulo 2⁶⁴ and the carry sets OVF (R420, R421). Answers whether it wrapped. -/
def Chip.cntAdd (c : Chip) (value ovf : Fld) (n : Nat) : Bool × Chip :=
  let v := c.get value + n
  if v < 2 ^ 64 then (false, c.put value v) else (true, (c.put value v).put ovf 1)

/-- A fixed or credited counter. -/
def Chip.cntPlus (c : Chip) (value ovf : Fld) (n : Nat) : Chip := if n = 0 then c else (c.cntAdd value ovf n).2

/-- What an event carries for its filters: the tenant and world of its transaction, or nothing (R423). -/
structure EvKey where
  tenant : Option Nat
  secure : Bool
  deriving DecidableEq, Repr

def evNone : EvKey := ⟨none, false⟩
def evOf (t : Nat) (s : Bool) : EvKey := ⟨some t, s⟩

/-- Does a counter's tenant filter pass an event (R423)? -/
def tntPass (en : Bool) (t : Nat) (k : EvKey) : Bool := !en || k.tenant == some t

/-- Overflow message of the die's or hub's block (R421). -/
def Chip.ovfIrq (c : Chip) (die : Option Nat) : Chip :=
  match die with
  | some d => c.irqReg (Reg.PMU_DIE_IRQ.AGENT d) (Reg.PMU_DIE_IRQ.VEC d) (Reg.PMU_DIE_IRQ.EN d)
  | none => c.irqReg Reg.PMU_HUB_IRQ.AGENT Reg.PMU_HUB_IRQ.VEC Reg.PMU_HUB_IRQ.EN

/-- One programmable counter takes an event that passes. -/
def Chip.cntEvent (c : Chip) (value ovf irq : Fld) (die : Option Nat) (n : Nat) : Chip :=
  let r := c.cntAdd value ovf n
  if r.1 && c.on irq then r.2.ovfIrq die else r.2

/-- The four counters of a unit group take `n` of an event (R423). -/
def Chip.unitEvent (c : Chip) (die : Option Nat) (event en irq tntEn tenant value ovf : Nat → Fld) (ev n : Nat) (k : EvKey) : Chip :=
  let frozen := match die with
    | some d => c.on (Reg.PMU_DIE_CTRL.FREEZE d)
    | none => c.on Reg.PMU_HUB_CTRL.FREEZE
  if frozen || k.secure || n = 0 then c
  else (List.range 4).foldl (fun c i =>
    if c.on (en i) && c.get (event i) == ev && tntPass (c.on (tntEn i)) (c.get (tenant i)) k then
      c.cntEvent (value i) (ovf i) (irq i) die n
    else c) c

/-- An event of cluster u = 5d + c. -/
def Chip.evClu (c : Chip) (u ev : Nat) (k : EvKey) : Chip :=
  let d := u / 5
  let l := u % 5
  c.unitEvent (some d) (Reg.PMU_CLU_EVSEL.EVENT d l) (Reg.PMU_CLU_EVSEL.EN d l) (Reg.PMU_CLU_EVSEL.IRQ d l)
    (Reg.PMU_CLU_EVSEL.TNT_EN d l) (Reg.PMU_CLU_EVSEL.TENANT d l) (Reg.PMU_CLU_CNT.VALUE d l) (Reg.PMU_CLU_CNT.OVF d l) ev 1 k

/-- An event of L3 slice s of die d. -/
def Chip.evL3 (c : Chip) (d s ev : Nat) (k : EvKey) : Chip :=
  c.unitEvent (some d) (Reg.PMU_L3U_EVSEL.EVENT d s) (Reg.PMU_L3U_EVSEL.EN d s) (Reg.PMU_L3U_EVSEL.IRQ d s)
    (Reg.PMU_L3U_EVSEL.TNT_EN d s) (Reg.PMU_L3U_EVSEL.TENANT d s) (Reg.PMU_L3U_CNT.VALUE d s) (Reg.PMU_L3U_CNT.OVF d s) ev 1 k

/-- An event of a die's mesh. -/
def Chip.evMesh (c : Chip) (d ev : Nat) (k : EvKey) : Chip :=
  c.unitEvent (some d) (Reg.PMU_MESHU_EVSEL.EVENT d) (Reg.PMU_MESHU_EVSEL.EN d) (Reg.PMU_MESHU_EVSEL.IRQ d)
    (Reg.PMU_MESHU_EVSEL.TNT_EN d) (Reg.PMU_MESHU_EVSEL.TENANT d) (Reg.PMU_MESHU_CNT.VALUE d) (Reg.PMU_MESHU_CNT.OVF d) ev 1 k

/-- `n` of an event at the die's end of a Spoke link. -/
def Chip.evSpk (c : Chip) (d ev n : Nat) (k : EvKey) : Chip :=
  c.unitEvent (some d) (Reg.PMU_SPKU_EVSEL.EVENT d) (Reg.PMU_SPKU_EVSEL.EN d) (Reg.PMU_SPKU_EVSEL.IRQ d)
    (Reg.PMU_SPKU_EVSEL.TNT_EN d) (Reg.PMU_SPKU_EVSEL.TENANT d) (Reg.PMU_SPKU_CNT.VALUE d) (Reg.PMU_SPKU_CNT.OVF d) ev n k

/-- `n` of an event of hub unit group g. -/
def Chip.evHub (c : Chip) (g ev n : Nat) (k : EvKey) : Chip :=
  c.unitEvent none (Reg.PMU_HUBU_EVSEL.EVENT g) (Reg.PMU_HUBU_EVSEL.EN g) (Reg.PMU_HUBU_EVSEL.IRQ g)
    (Reg.PMU_HUBU_EVSEL.TNT_EN g) (Reg.PMU_HUBU_EVSEL.TENANT g) (Reg.PMU_HUBU_CNT.VALUE g) (Reg.PMU_HUBU_CNT.OVF g) ev n k

/-! Unit groups of the hub (spec/17, Registers). -/
def ugHome (slice : Nat) : Nat := slice
def ugHc : Nat := 16
def ugPg : Nat := 17
def ugMc (ch : Nat) : Nat := 18 + ch
def ugHqe (s : Nat) : Nat := 42 + s
def ugPci (p : Nat) : Nat := 50 + p
def ugTdm (p : Nat) : Nat := 58 + p
def ugSpk (d : Nat) : Nat := 64 + d
def ugArb (a : Nat) : Nat := 76 + a

/-! ### Model energy -/

/-- COEF of event k and A, B of baseline k, as OTP held them at the last cold reset (R435). -/
def Chip.nrgCoef (c : Chip) (k : Nat) : Nat := bits (c.otpField (96 + k)) 0 24
def Chip.nrgA (c : Chip) (k : Nat) : Nat := bits (c.otpField (96 + k)) 0 28
def Chip.nrgB (c : Chip) (k : Nat) : Int := toSigned 28 (bits (c.otpField (96 + k)) 28 28)

/-- A share's key (R431). -/
def nrgKey (tenant : Nat) (ctx : Option Nat) : Nat := tenant * 1024 + (match ctx with | some x => x + 1 | none => 0)

/-- Add weight or model energy to a domain under a key. -/
def Chip.nrgAdd (c : Chip) (dom key n : Nat) : Chip :=
  if n = 0 then c
  else
    let m := SMap.getD c.nrg.use dom []
    { c with nrg := { c.nrg with use := SMap.set c.nrg.use dom (SMap.set m key (SMap.getD m key 0 + n)) } }

/-- The key of a transaction: its tenant, and its origin where that is a context of this package. -/
def Chip.keyOf (c : Chip) (agent tenant : Nat) : Nat :=
  nrgKey tenant (if isCtxAgent agent && agPkg agent == c.pkg then some (ctxOfAgent agent) else none)

/-- `n` model events k of a domain. -/
def Chip.nrgEv (c : Chip) (dom k key n : Nat) : Chip := c.nrgAdd dom key (n * c.nrgCoef k)

/-- Domains of R431. -/
def domCore (k20 : Nat) : Nat := 26 * (k20 / 20) + k20 % 20
def domClu (u : Nat) : Nat := 26 * (u / 5) + 20 + u % 5
def domDie (d : Nat) : Nat := 26 * d + 25
def domHubc : Nat := 312
def domMem : Nat := 313
def domIo : Nat := 314
def domTdm : Nat := 315
def domSpk : Nat := 316

end Sys2Proof.Machine
end

