-- ==== Sys2Proof/Machine/Arbiter.lean ====
section
/-! DEFINITION. Machine/Arbiter.lean: which regulator entry a request belongs to and its latency (R306, R315), and what every arbiter does in
a round (R313, R316 to R319): candidates, guaranteed marks, the winner, boosts and starvation. -/
namespace Sys2Proof.Machine

/-! ### Regulator entries of requests, and their latency (R306, R315) -/

def qw (w : List Nat) (i : Nat) : Nat := (w[i]?).getD 0
def qRmaster (w : List Nat) : Nat := bits (qw w 4) 32 16

/-- The entry of a request by its agent: of another package, of a context, of a queue or function whose number came with it (R306). A
number above 4,095, and a hub unit that is no master, count as entry 0 (log 89). -/
def Chip.entOf (c : Chip) (agent master : Nat) : Nat :=
  let e := if agPkg agent != c.pkg then c.get Reg.REG_CTRL.REMOTE_ENT
    else if isCtxAgent agent then c.get (Reg.REG_CTX_MAP.ENT (ctxOfAgent agent))
    else if agDie agent = 12 && agClu agent = 3 then ((SMap.get? c.hqe.queues master).map (fun x => qRmaster x.w)).getD 0
    else if agDie agent = 12 && agClu agent = 4 then SMap.getD c.rg.fent master 0
    else 0
  if e < 4096 then e else 0

/-- A request of an entry has completed after `ns`. -/
def Chip.latDone (c : Chip) (ent ns : Nat) : Chip :=
  let l := (ns :: SMap.getD c.rg.lat ent []).take 16
  ({ c with rg := { c.rg with lat := SMap.set c.rg.lat ent l } }).put (Reg.REG_ENT.LAT ent)
    (min 0xFFFF (l.foldl (· + ·) 0 / l.length))

/-- The data, grant or acceptance of a request leaves the hub: this package's requests are measured from their arrival there. -/
def Chip.latReq (c : Chip) (m : Msg) : Chip :=
  if agPkg m.agent = c.pkg then c.latDone (c.entOf m.agent m.master) ((c.time - m.arrived) / 4) else c

/-- The latency boost and base priority of an entry. -/
def latBoost (lat target : Nat) : Nat :=
  if target = 0 then 0 else if lat ≥ target then 8 else if 4 * lat ≥ 3 * target then 4 else if 2 * lat ≥ target then 2 else 0
def Chip.basePrio (c : Chip) (ent : Nat) : Nat :=
  let p := c.get (Reg.REG_ENT.PRIO ent)
  if c.on Reg.REG_CTRL.EN then min 15 (p + latBoost (c.get (Reg.REG_ENT.LAT ent)) (c.get (Reg.REG_ENT.LAT_TARGET ent))) else p

/-! ### Guarantees (R313) -/

/-- Reservation slots that name entry m. -/
def Chip.rsvOf (c : Chip) (m : Nat) : List Nat :=
  (List.range 1024).filter (fun k => c.on (Reg.REG_RSV.VALID k) && c.get (Reg.REG_RSV.ENT k) == m)

/-- Does a request of entry m carry the guaranteed mark at resource r (R313)? -/
def Chip.guaranteed (c : Chip) (m r : Nat) : Bool :=
  c.on Reg.REG_CTRL.EN && c.rg.acts.contains m && c.on (Reg.ARB_CTRL.GUAR_EN r) &&
    (c.rsvOf m).any (fun k => c.get (Reg.REG_RSV.RES k) == r &&
      (match SMap.get? c.rg.rsv k with | some (g, n) => decide (n < g) | none => false))

/-- A line of entry m passes resource r. -/
def Chip.rsvPass (c : Chip) (m r : Nat) : Chip :=
  (c.rsvOf m).foldl (fun c k =>
    if c.get (Reg.REG_RSV.RES k) = r then
      { c with rg := { c.rg with rsv := SMap.modify c.rg.rsv k (fun p => (p.1, p.2 + 1)) } }
    else c) c

/-! ### Rounds (R317 to R319) -/

/-- A request that waits for an arbiter: its entry, whether it is of this package, its age (a smaller number is older), and whether it can
be taken now. -/
structure ArbReq where
  ent : Nat
  own : Bool
  age : Nat
  ready : Bool
  deriving DecidableEq, Repr

/-- Put a request before the younger ones of a list in age order. -/
def arbInsert (r : ArbReq) : List ArbReq → List ArbReq
  | [] => [r]
  | x :: l => if r.age < x.age then r :: x :: l else x :: arbInsert r l

/-- The oldest request of each entry, oldest first. -/
def oldestHeads (l : List ArbReq) : List ArbReq :=
  (l.foldr arbInsert []).foldl (fun acc r => if acc.any (fun q => q.ent == r.ent) then acc else acc ++ [r]) []

/-- Candidates and waiting requesters follow the entries with a pending request, at most 64 candidates (R317), before and after each round
(log 89). -/
def Chip.arbSync (c : Chip) (a : Nat) (reqs : List ArbReq) : Chip :=
  let ents := (oldestHeads reqs).map (·.ent)
  if ents.isEmpty && (SMap.getD c.rg.cand a []).isEmpty && (SMap.getD c.rg.wait a []).isEmpty then c
  else
    let old := (SMap.getD c.rg.cand a []).filter (fun x => ents.contains x.ent)
    let wait := (SMap.getD c.rg.wait a []).filter (fun e => ents.contains e)
    let new := ents.filter (fun e => !old.any (fun x => x.ent == e) && !wait.contains e)
    let q := wait ++ new
    let room := 64 - old.length
    let cand := old ++ (q.take room).map (fun e => ⟨e, 0, 0, false⟩)
    let wait := q.drop room
    ({ c with rg := { c.rg with cand := SMap.set c.rg.cand a cand, wait := SMap.set c.rg.wait a wait } }).puts
      [(Reg.ARB_STATUS.CAND a, cand.length), (Reg.ARB_STATUS.WAITING a, b2n (!wait.isEmpty))]

/-- Does the head of an entry carry the guaranteed mark? A request of another package carries none (R306). -/
def Chip.marked (c : Chip) (a : Nat) (h : ArbReq) : Bool := h.own && c.guaranteed h.ent a

/-- The winner of a round among the candidates whose head can be taken: the mark, then priority, then age (R316, R317). -/
def Chip.arbWinner (c : Chip) (a : Nat) (reqs : List ArbReq) : Option ArbReq :=
  let cand := SMap.getD c.rg.cand a []
  let heads := (oldestHeads reqs).filter (fun h => h.ready && cand.any (fun x => x.ent == h.ent))
  let g := heads.filter (c.marked a)
  let pool := if g.isEmpty then heads else g
  let eff := fun (h : ArbReq) => min 15 (c.basePrio h.ent + ((cand.find? (fun x => x.ent == h.ent)).map (·.boost)).getD 0)
  pool.foldl (fun (b : Option ArbReq) x =>
    match b with
    | none => some x
    | some y => if eff x > eff y || (eff x == eff y && x.age < y.age) then some x else some y) none

/-- A requester reaches the limit: captured and reported once until it wins (R318). -/
def Chip.starveFlag (c : Chip) (a ent : Nat) : Chip :=
  let c := if c.on (Reg.ARB_STARVE.VALID a) then c else c.puts [(Reg.ARB_STARVE.ENT a, ent), (Reg.ARB_STARVE.VALID a, 1)]
  (c.count (Reg.ARB_STARVE_CNT.COUNT a) 1).irqReg (Reg.ARB_IRQ.AGENT a) (Reg.ARB_IRQ.VEC a) (Reg.ARB_IRQ.EN a)

/-- Boosts and starvation counts after a round with a winner: every candidate whose head could be taken loses but it (R317). -/
def Chip.arbCount (c : Chip) (a : Nat) (reqs : List ArbReq) (win : ArbReq) : Chip :=
  let heads := (oldestHeads reqs).filter (·.ready)
  let lim := c.get (Reg.ARB_CTRL.STARVE_LIMIT a)
  let l := SMap.getD c.rg.cand a []
  let inRound := fun (x : Cand) => heads.any (fun h => h.ent == x.ent)
  let up := fun (x : Cand) =>
    if x.ent = win.ent then { x with boost := 0, starve := 0, flagged := false }
    else if inRound x then
      let s := min (x.starve + 1) 0xFFFF
      { x with boost := min 15 (x.boost + 1), starve := s, flagged := x.flagged || s == lim }
    else x
  let hit := l.filter (fun x => x.ent != win.ent && inRound x && min (x.starve + 1) 0xFFFF == lim && !x.flagged)
  let c := { c with rg := { c.rg with cand := SMap.set c.rg.cand a (l.map up) } }
  let c := (c.count (Reg.ARB_STARVE_CNT.ROUNDS a) 1).evHub (ugArb a) 0xD0 1 evNone
  let c := if c.marked a win then c.evHub (ugArb a) 0xD1 1 evNone else c
  hit.foldl (fun c x => c.starveFlag a x.ent) c

/-- A round of an arbiter among some of the requests that wait for it: its winner, counted at the resource where it is of this package
(R306, R313, R317). -/
def Chip.arbRound (c : Chip) (a : Nat) (all reqs : List ArbReq) : Option ArbReq × Chip :=
  let c := c.arbSync a all
  match c.arbWinner a reqs with
  | none => (none, c)
  | some h => (some h, let c := c.arbCount a reqs h; if h.own then c.rsvPass h.ent a else c)

end Sys2Proof.Machine
end

