-- ==== Sys2Proof/Machine/Mem.lean ====
section
/-! DEFINITION. Machine/Mem.lean: reading and writing addressed memories, lines and stored DRAM slots, and the decoding of
physical addresses: packages, windows, home slices, L3 slices and channels (R14, R24 to R28, R150, R204). -/
namespace Sys2Proof.Machine

/-! ### Addressed memories -/

/-- The `n` bytes at `a`, as a little-endian number; an unlisted byte reads 0. -/
def Mem.read (m : Mem) (a n : Nat) : Nat :=
  m.foldl (fun v p => if a ≤ p.1 && p.1 < a + n then v + p.2.toNat <<< (8 * (p.1 - a)) else v) 0

/-- The cells of `n` bytes of a number from `a` up, without the zero bytes. -/
def memCells : Nat → Nat → Nat → Mem
  | _, 0, _ => []
  | a, n + 1, v => (if v % 256 = 0 then [] else [(a, BitVec.ofNat 8 v)]) ++ memCells (a + 1) n (v / 256)

/-- Write the low `n` bytes of a number at `a`. -/
def Mem.write (m : Mem) (a n v : Nat) : Mem :=
  m.filter (fun p => p.1 < a) ++ memCells a n v ++ m.filter (fun p => a + n ≤ p.1)

/-- Addresses rise strictly and no byte is listed as 0. -/
def Mem.wf : Mem → Bool
  | [] => true
  | [p] => p.2 != 0#8
  | p :: q :: m => p.2 != 0#8 && decide (p.1 < q.1) && Mem.wf (q :: m)

/-! ### Lines -/

/-- An unpoisoned line of zeros. -/
def LD.zero : LD := ⟨0#512, false⟩

/-- A poisoned line: zero data (R239). -/
def LD.bad : LD := ⟨0#512, true⟩

/-- `n` bytes at offset `o` of a line. -/
def lineGet (d : Line) (o n : Nat) : Nat := bits d.toNat (8 * o) (8 * n)

/-- Replace `n` bytes at offset `o` of a line. -/
def linePut (d : Line) (o n v : Nat) : Line := BitVec.ofNat 512 (setBits d.toNat (8 * o) (8 * n) v)

/-- Merge the bytes of `new` whose mask bit is set into `old` (R183). -/
def lineMerge (old new : Line) (mask : Nat) : Line :=
  BitVec.ofNat 512 ((List.range 64).foldl (fun v j => v + lineGet (if bit mask j then new else old) j 1 <<< (8 * j)) 0)

/-- A stored slot of zeros in plain form. -/
def Raw.zero : Raw := ⟨0#512, 0#128⟩

/-- Key of a channel address in the DRAM memories. -/
def dramKey (ch ca : Nat) : Nat := ch * 2 ^ 40 + ca

/-- Pack and unpack the check bits: one byte holding C0 and C1 for each data byte. -/
def chkBytes (c : Nat) : Nat := (List.range 64).foldl (fun v j => v + bits c (2 * j) 2 <<< (8 * j)) 0
def chkPack (b : Nat) : Nat := (List.range 64).foldl (fun v j => v + bits b (8 * j) 2 <<< (2 * j)) 0

/-- The stored slot of a channel line in the DRAM array. -/
def Chip.dramRaw (c : Chip) (ch line : Nat) : Raw :=
  let a := dramKey ch (64 * line)
  ⟨BitVec.ofNat 512 (c.dram.read a 64), BitVec.ofNat 128 (chkPack (c.dramChk.read a 64))⟩

/-- Write a slot into the DRAM array. -/
def Chip.dramPut (c : Chip) (ch line : Nat) (r : Raw) : Chip :=
  let a := dramKey ch (64 * line)
  { c with dram := c.dram.write a 64 r.data.toNat, dramChk := c.dramChk.write a 64 (chkBytes r.chk.toNat) }

/-! ### Physical addresses -/

/-- The ranges of R24. -/
inductive Region where
  | dram (pkg off : Nat)
  | cxl (pkg off : Nat)
  | mmio (pkg off : Nat)
  | csr (pkg off : Nat)
  | bell (pkg off : Nat)
  | local_ (pkg off : Nat)
  | reserved
  deriving DecidableEq, Repr

/-- Which range an address lies in (R24). -/
def regionOf (pa : Nat) : Region :=
  if pa < 2 ^ 47 then .dram (pa / 2 ^ 44) (pa % 2 ^ 44)
  else if pa < 2 ^ 48 then .cxl ((pa - 2 ^ 47) / 2 ^ 44) (pa % 2 ^ 44)
  else if pa < 2 ^ 49 then .mmio ((pa - 2 ^ 48) / 2 ^ 45) (pa % 2 ^ 45)
  else if 0xFF00000000000 ≤ pa && pa < 0xFF00800000000 then
    .csr ((pa - 0xFF00000000000) / 2 ^ 32) (pa % 2 ^ 32)
  else if 0xFF40000000000 ≤ pa && pa < 0xFF40800000000 then
    .bell ((pa - 0xFF40000000000) / 2 ^ 32) (pa % 2 ^ 32)
  else if 0xFF80000000000 ≤ pa && pa < 0xFF80800000000 then
    .local_ ((pa - 0xFF80000000000) / 2 ^ 32) (pa % 2 ^ 32)
  else .reserved

/-- The package whose window contains an address (R25). -/
def Region.pkg : Region → Option Nat
  | .dram p _ | .cxl p _ | .mmio p _ | .csr p _ | .bell p _ | .local_ p _ => some p
  | .reserved => none

/-- Is an address in normal memory, DRAM or CXL (R96)? -/
def isNormal (pa : Nat) : Bool := pa < 2 ^ 48

/-- Is an address device memory: MMIO, CSR space, a doorbell window or a hub-local window (R96)? A reserved range is neither device nor
normal memory: an access to it is a decode miss (R26). -/
def isDevice (pa : Nat) : Bool :=
  match regionOf pa with
  | .mmio _ _ | .csr _ _ | .bell _ _ | .local_ _ _ => true
  | .dram _ _ | .cxl _ _ | .reserved => false

/-- The folded line address (R27). -/
def h16 (pa : Nat) : Nat :=
  let a := (pa / 64) % 2 ^ 46
  bits a 0 16 ^^^ bits a 16 16 ^^^ bits a 32 16

/-- The home slice of an address (R27). -/
def homeSlice (pa : Nat) : Nat :=
  let h := h16 pa
  bits h 0 4 ^^^ bits h 4 4 ^^^ bits h 8 4 ^^^ bits h 12 4

/-- The L3 slice of an address on a die (R27). -/
def l3Slice (pa : Nat) : Nat := h16 pa % 20

/-- Cache sets (R150) and the directory set (R174), by line number. -/
def setL1i (a : Nat) : Nat := bits a 0 8
def setL1d (a : Nat) : Nat := bits a 0 7
def setL2 (a : Nat) : Nat := bits a 0 11
def setL3 (a : Nat) : Nat := bits a 2 11 ^^^ bits a 13 11
def setHc (a : Nat) : Nat := bits a 0 12 ^^^ bits a 12 12
def bankHc (a : Nat) : Nat := 4 * homeSlice (64 * a) + bits (h16 (64 * a)) 4 2
def setDir (a : Nat) : Nat := bits a 0 15 ^^^ bits a 15 15

/-- Line number of a line's bytes' address. -/
def lineAddr (line : Nat) : Nat := 64 * line

/-- The package that homes a line of DRAM or CXL memory (R25). -/
def homePkg (line : Nat) : Nat := (64 * line) % 2 ^ 47 / 2 ^ 44

/-! ### Interleave sets and channels -/

/-- Does enabled set n contain a window offset (R28)? -/
def Chip.ilvHolds (c : Chip) (n off : Nat) : Bool :=
  c.on (Reg.HUB_ILV.EN n) && decide (c.get (Reg.HUB_ILV.BASE n) * 2 ^ 34 ≤ off)
    && decide (off < (c.get (Reg.HUB_ILV.BASE n) + c.get (Reg.HUB_ILV.SIZE n)) * 2 ^ 34)

/-- Channel capacity in bytes (R203): 0 until MC_CFG.LOCK is 1. -/
def Chip.mcRb (c : Chip) (ch : Nat) : Nat :=
  c.get (Reg.MC_CFG.DIMMS ch) + c.get (Reg.MC_CFG.RANKS ch) + c.get (Reg.MC_CFG.STACK ch)
def Chip.mcRowBits (c : Chip) (ch : Nat) : Nat := if c.on (Reg.MC_CFG.DENSITY ch) then 17 else 16
def Chip.mcCap (c : Chip) (ch : Nat) : Nat :=
  if c.on (Reg.MC_CFG.LOCK ch) && c.on (Reg.MC_CFG.EN ch) then 2 ^ (19 + c.mcRb ch + c.mcRowBits ch) else 0

/-- Channel and channel address of a DRAM window offset: none outside every set, beyond the populated size or capacity, or
before the map is locked (R26, R28, R29). -/
def Chip.channelOf (c : Chip) (off : Nat) : Option (Nat × Nat) :=
  if !c.on Reg.HUB_AMAP_LOCK.LOCK || c.get Reg.HUB_AMAP_DRAM.SIZE * 2 ^ 34 ≤ off then none
  else
    match (List.range 8).find? (fun n => c.ilvHolds n off) with
    | none => none
    | some n =>
      let i := (off - c.get (Reg.HUB_ILV.BASE n) * 2 ^ 34) / 4096
      let num := c.get (Reg.HUB_ILV.NUM_CH n)
      if num = 0 then none
      else
        let ch := c.get (Reg.HUB_ILV.FIRST_CH n) + i % num
        let ca := (i / num) * 4096 + off % 4096
        if ca < c.mcCap ch then some (ch, ca) else none

/-- Window offset back from a line number of this package's DRAM window. -/
def Chip.chanOfLine (c : Chip) (line : Nat) : Option (Nat × Nat) :=
  match regionOf (64 * line) with
  | .dram p off => if p = c.pkg then c.channelOf off else none
  | _ => none

/-- Is an address a decode miss at this hub, as its home (R26)? CSR offsets never are. -/
def Chip.decodeMiss (c : Chip) (pa : Nat) : Bool :=
  match regionOf pa with
  | .reserved => true
  | .dram p off => !c.present p || (p == c.pkg && (c.channelOf off).isNone)
  | .cxl p off => !c.present p || (p == c.pkg && decide (c.get Reg.HUB_AMAP_CXL.SIZE * 2 ^ 34 ≤ off))
  | .mmio p _ => !c.present p
  | .csr p _ => !c.present p
  | .bell p off => !c.present p || (p == c.pkg && decide (2 ^ 26 ≤ off))
  | .local_ p off => !c.present p ||
      (p == c.pkg && !(decide (off < 0x800000) || (decide (0x10000000 ≤ off) && decide (off < 0x10040000))
        || (decide (0x20000000 ≤ off) && decide (off < 0x30000000))))

/-- Record and count a decode miss (R26); a capture wins over nothing else in its cycle. -/
def Chip.decErr (c : Chip) (w : Who) (pa : Nat) (write : Bool) : Chip :=
  let c := c.count Reg.HUB_DEC_ERR_SRC.COUNT 1
  if c.on Reg.HUB_DEC_ERR_ADDR.VALID then c
  else c.puts [(Reg.HUB_DEC_ERR_ADDR.ADDR, pa), (Reg.HUB_DEC_ERR_ADDR.VALID, 1), (Reg.HUB_DEC_ERR_SRC.AGENT, w.agent),
    (Reg.HUB_DEC_ERR_SRC.TENANT, w.tenant), (Reg.HUB_DEC_ERR_SRC.WRITE, b2n write)]

/-- The checker in front of a line of this package's memory (R323): its channel, or 24 for CXL. -/
def Chip.checkerOf (c : Chip) (line : Nat) : Nat :=
  match c.chanOfLine line with
  | some (ch, _) => ch
  | none => 24

end Sys2Proof.Machine
end

