-- ==== Sys2Proof/Machine/Net.lean ====
section
/-! DEFINITION. Machine/Net.lean: messages (R177 to R181, R255), their way between dies, hub and other packages: Spoke queues,
route selection and holds (R278), the flits a Tandem port frames (R257, R271, R316, R461), receive buffers (R257), and messages that wait for an answer (R198). -/
namespace Sys2Proof.Machine

/-! ### Classes and types (R177, R255) -/

def clsReq : Nat := 0
def clsWbk : Nat := 1
def clsSnp : Nat := 2
def clsRsp : Nat := 3
def clsDat : Nat := 4

/-- Request types. -/
def tRdS : Nat := 0
def tRdX : Nat := 1
def tUpg : Nat := 2
def tClaim : Nat := 3
def tRdNc : Nat := 4
def tWrNc : Nat := 5
def tMClean : Nat := 6
def tMFlush : Nat := 7
def tMInval : Nat := 8
/-- Snoop types. -/
def tSnpS : Nat := 0
def tSnpInv : Nat := 1
def tSnpInvNd : Nat := 2
def tSnpCur : Nat := 3
def tSnpClean : Nat := 4
/-- Response types. -/
def tAckI : Nat := 0
def tAckS : Nat := 1
def tMiss : Nat := 2
def tInEvict : Nat := 3
def tDead : Nat := 4
def tGrant : Nat := 5
def tWbkAck : Nat := 6
def tFence : Nat := 7
def tUnfence : Nat := 8
def tTntCmd : Nat := 9
def tTntDone : Nat := 10
def tIoMark : Nat := 11
def tIoAck : Nat := 12
/-- A violation on its way back to its master's package (R458): the spec gives it the RSP class and no number (log 13). -/
def tViolation : Nat := 13

/-- A blank message of a class and type. -/
def Msg.mk0 (cls typ line : Nat) : Msg :=
  { cls := cls, typ := typ, line := line, tag := 0, agent := 0, tenant := 0, secure := false, dirty := false, poison := false, yrw := 0,
    aux := 0, dstPkg := 0, dstDie := 12, data := none, mask := none, fetch := false, old := false, frame := false, master := 0, arrived := 0, bus := false, kind := none, buf := none }

/-- The line a message carries. -/
def Msg.ld (m : Msg) : LD := ⟨m.data.getD 0#512, m.poison⟩

/-- A message with a line. -/
def Msg.withLd (m : Msg) (l : LD) : Msg := { m with data := some l.data, poison := l.poison }

/-- Cluster identifier: PKG, DIE and CLU of an agent ID (R6), and the agent ID back, with CORE and CTX zero. -/
def cluOf (agent : Nat) : Nat := bits agent 6 10
def agentOfClu (clu : Nat) : Nat := clu <<< 6
def cluPkg (clu : Nat) : Nat := bits clu 7 3
def cluDie (clu : Nat) : Nat := bits clu 3 4
def cluClu (clu : Nat) : Nat := bits clu 0 3
def mkClu (pkg die clu : Nat) : Nat := pkg * 128 + die * 8 + clu

/-! ### Fences -/

/-- Is a package fenced here; is a die (R195, R197)? -/
def Chip.fencedPkg (c : Chip) (q : Nat) : Bool := c.on (Reg.DIR_FENCE.PKG 0 q)
def Chip.fencedDie (c : Chip) (p d : Nat) : Bool := c.fencedPkg p || c.bitOf (Reg.DIR_FENCE.DIE 0 p) d

/-! ### Links -/

def Chip.spkOf (c : Chip) (d : Nat) : SpkSt := SMap.getD c.spk d SpkSt.init
def Chip.spkMod (c : Chip) (d : Nat) (f : SpkSt → SpkSt) : Chip := { c with spk := SMap.put c.spk SpkSt.init d (f (c.spkOf d)) }
def Chip.tdmOf (c : Chip) (p : Nat) : TdmSt := SMap.getD c.tdm p TdmSt.init
def Chip.tdmMod (c : Chip) (p : Nat) (f : TdmSt → TdmSt) : Chip := { c with tdm := SMap.put c.tdm TdmSt.init p (f (c.tdmOf p)) }

/-- Spoke and Tandem states (SPK_STATUS.STATE, TDM_STATUS.STATE). -/
def spkOff : Nat := 0
def spkTraining : Nat := 1
def spkUpSt : Nat := 2
def spkQuiesce : Nat := 3
def spkFenced : Nat := 4
def tdmDown : Nat := 0
def tdmTraining : Nat := 1
def tdmUp : Nat := 2
def tdmRetrain : Nat := 3
def tdmHeld : Nat := 4

def Chip.tdmState (c : Chip) (p : Nat) : Nat := c.get (Reg.TDM_STATUS.STATE p)

/-- Messages that fit one flit: at most ten headers and seven data slots, with a credit of its class for each, in order
within a class (R254 to R257). -/
structure Pack where
  take : List Msg
  rest : List Msg
  slots : Nat
  datas : Nat
  cr : List Nat
  stuck : List Nat
  deriving DecidableEq, Repr

def Msg.slotsOfData (m : Msg) : Nat := if m.data.isNone then 0 else if m.mask.isNone then 1 else 2

def packStep (s : Pack) (m : Msg) : Pack :=
  let need := m.slotsOfData
  let have_ := (s.cr[m.cls]?).getD 0
  if s.stuck.contains m.cls || s.slots = 0 || s.datas < need || have_ = 0 then
    { s with rest := s.rest ++ [m], stuck := m.cls :: s.stuck }
  else { s with take := s.take ++ [m], slots := s.slots - 1, datas := s.datas - need, cr := s.cr.modify m.cls (· - 1) }

def packFlit (out : List Msg) (cr : List Nat) : Pack := out.foldl packStep ⟨[], [], 10, 7, cr, []⟩

/-- Credits returned at most 255 a class, and what is left to return. -/
def crdLeft (ret : List Nat) : List Nat := ret.map (· - 255)

/-- Does a message fit the flit that is being filled? -/
def Pack.fits (k : Pack) (m : Msg) : Bool := decide (0 < k.slots) && decide (m.slotsOfData ≤ k.datas) && decide (0 < (k.cr[m.cls]?).getD 0)

/-- The message at a place of what waits takes the next header slot. -/
def Pack.put (k : Pack) (i : Nat) : Pack :=
  match k.rest[i]? with
  | none => k
  | some m => { k with take := k.take ++ [m], rest := k.rest.eraseIdx i, slots := k.slots - 1, datas := k.datas - m.slotsOfData, cr := k.cr.modify m.cls (· - 1) }

/-- Does an arbiter decide for a message (R316)? -/
def Msg.arbitrated (m : Msg) : Bool := m.cls == clsReq || m.cls == clsWbk

/-- The first SNP, RSP or DAT message in arrival order that fits: the first of its class that waits (R256, R316). -/
def Pack.bypass (k : Pack) : Option Nat :=
  (k.rest.zipIdx.find? (fun x => !x.1.arbitrated && k.fits x.1 && !(k.rest.take x.2).any (fun m => m.cls == x.1.cls))).map (·.2)

/-- The REQ and WBK messages that wait, as an arbiter sees them. -/
def Chip.portReqs (c : Chip) (k : Pack) : List ArbReq :=
  (k.rest.zipIdx.filter (fun x => x.1.arbitrated)).map (fun x =>
    ⟨c.entOf x.1.agent x.1.master, agPkg x.1.agent == c.pkg, x.2, k.fits x.1⟩)

/-- Those whose class has a credit: the classes do not hold each other (R178, R256). -/
def Chip.portReady (c : Chip) (k : Pack) : List ArbReq :=
  (c.portReqs k).filter (fun r => match k.rest[r.age]? with | some m => decide (0 < (k.cr[m.cls]?).getD 0) | none => false)

/-- Header slots of a flit are filled: SNP, RSP and DAT messages bypass the arbiter, which decides for each slot that a REQ or WBK message
takes (R316). -/
def Chip.packFill : Nat → Chip → Nat → Pack → Pack × Chip
  | 0, c, _, k => (k, c)
  | n + 1, c, p, k =>
    match k.bypass with
    | some i => Chip.packFill n c p (k.put i)
    | none =>
      if !(c.portReqs k).any (·.ready) then (k, c)
      else
        match c.arbRound (6 + p) (c.portReqs k) (c.portReady k) with
        | (some h, c) => Chip.packFill n c p (k.put h.age)
        | (none, c) => (k, c)

/-- The next flit's messages of a port, and its arbiter after them. -/
def Chip.packPort (c : Chip) (p : Nat) : Pack × Chip :=
  let t := c.tdmOf p
  match Chip.packFill 10 c p ⟨[], t.out, 10, 7, t.cr, []⟩ with
  | (k, c) => (k, c.arbSync (6 + p) (c.portReqs k))

/-- A flit of a port: messages under a SEQ, or none in an idle flit, with the ACK, NAK and credits that it carries (R269, R270). -/
def TdmSt.frame (t : TdmSt) (packet : Bool) (seq : Nat) (l : List Msg) : TdmFrame :=
  ⟨seq, if packet && t.rxAny then some t.rx else none, packet && t.nak, packet && l.isEmpty, t.ret.map (Nat.min · 255), l⟩

/-- A port sends one flit: in paired mode every flit has a SEQ, in packetised mode only one with messages, which it keeps for replay (R269 to
R271). -/
def Chip.tdmSend (c : Chip) (p : Nat) (l : List Msg) : Chip :=
  let packet := c.on (Reg.TDM_CTRL.MODE p)
  let numbered := !packet || !l.isEmpty
  let c := c.evHub (ugTdm p) 0xC0 1 evNone
  let c := l.foldl (fun c m => c.nrgEv domTdm 21 (c.keyOf m.agent m.tenant) 1) c
  c.tdmMod p (fun t => { t with
    seq := if numbered then (t.seq + 1) % (if packet then 4096 else 256) else t.seq
    replay := if packet && numbered then t.replay ++ [(t.seq, l, 0)] else t.replay
    sent := t.sent ++ [t.frame packet (if numbered then t.seq else 0) l]
    ret := crdLeft t.ret })

/-- Frame flits from a port's queue while it is UP, has credits, and, packetised, has room for replay (R271). -/
def Chip.tdmPumpN : Nat → Chip → Nat → Chip
  | 0, c, _ => c
  | n + 1, c, p =>
    if c.tdmState p != tdmUp || (c.on (Reg.TDM_CTRL.MODE p) && decide (512 ≤ (c.tdmOf p).replay.length)) then c
    else
      match c.packPort p with
      | (k, c) =>
        if k.take.isEmpty then c
        else Chip.tdmPumpN n ((c.tdmMod p (fun t => { t with out := k.rest, cr := k.cr })).tdmSend p k.take) p

def Chip.tdmPump (c : Chip) (p : Nat) : Chip := Chip.tdmPumpN ((c.tdmOf p).out.length) c p

/-- A flit period of a port that is UP: what waits is framed, and where nothing can be, an idle flit leaves (R461). -/
def Chip.tdmPeriod (c : Chip) (p : Nat) : Chip :=
  if c.tdmState p != tdmUp then c
  else
    let n := (c.tdmOf p).sent.length
    let c := c.tdmPump p
    if (c.tdmOf p).sent.length = n then c.tdmSend p [] else c

/-- UP ports among those a route names, ascending (R278). -/
def Chip.upPorts (c : Chip) (q : Nat) : List Nat :=
  (List.range 6).filter (fun p => c.bitOf (Reg.TDM_ROUTE.PORTS 0 q) p && c.tdmState p == tdmUp)

/-- Is a message a line message (R278)? -/
def Msg.isLine (m : Msg) : Bool := m.cls != clsRsp || decide (m.typ < tFence)

/-- A port out of a list of UP ports. -/
def pickPort (up : List Nat) (m : Msg) : Option Nat := if m.isLine then up[h16 (64 * m.line) % up.length]? else up.head?

/-- The port for a message to package q (R278). -/
def Chip.routePort (c : Chip) (q : Nat) (m : Msg) : Option Nat :=
  let up := c.upPorts q
  if !up.isEmpty then pickPort up m
  else if c.on (Reg.TDM_ROUTE.VIA_EN 0 q) then
    let v := c.upPorts (c.get (Reg.TDM_ROUTE.VIA 0 q))
    if v.isEmpty then none else pickPort v m
  else none

/-- The package of the hub that chose a TNT_CMD's TAG (R181; log 96). -/
def tntSender (tag : Nat) : Nat := bits tag 9 3

/-- Does a message wait for an answer under R198: a request or IO_MARK of this package, a TNT_CMD that this hub sent, or an UNFENCE for one
of its dies? -/
def Chip.awaits (c : Chip) (m : Msg) : Bool :=
  (m.cls == clsReq && agPkg m.agent == c.pkg)
    || (m.cls == clsRsp && m.typ == tTntCmd && tntSender m.tag == c.pkg)
    || (m.cls == clsRsp && m.typ == tIoMark && agPkg m.agent == c.pkg)
    || (m.cls == clsRsp && m.typ == tUnfence && cluPkg m.aux == c.pkg && agPkg m.agent == c.pkg)

/-- Send a message toward another package (R25, R198, R278): held while its route settles, kept while there is no route,
else on its port. -/
def Chip.sendAway (c : Chip) (m : Msg) : Chip :=
  let q := m.dstPkg
  if c.routeHold.any (fun h => h.1 == q) then
    { c with routeHold := c.routeHold.map (fun h => if h.1 = q then (q, h.2 ++ [m]) else h) }
  else
    match c.routePort q m with
    | none => { c with coh := { c.coh with away := c.coh.away ++ [⟨m, q, false, c.time⟩] } }
    | some p =>
      let c := if c.awaits m then { c with coh := { c.coh with away := c.coh.away ++ [⟨m, q, true, c.time⟩] } } else c
      (c.tdmMod p (fun t => { t with out := t.out ++ [m] })).tdmPump p

/-- Messages kept for want of a route to a package try again. -/
def Chip.awayRetry (c : Chip) : Chip :=
  let late := c.coh.away.filter (fun a => !a.delivered && (c.routePort a.pkg a.msg).isSome)
  let c := { c with coh := { c.coh with away := c.coh.away.filter (fun a => a.delivered || (c.routePort a.pkg a.msg).isNone) } }
  late.foldl (fun c a => c.sendAway a.msg) c

/-- Send a message from the hub to a die of this package, this hub, or another package. A message for a fenced die of any package is not
sent (R195). -/
def Chip.sendMsg (c : Chip) (m : Msg) : Chip :=
  if m.dstDie < 12 && c.fencedDie m.dstPkg m.dstDie then c
  else if m.dstPkg != c.pkg then c.sendAway m
  else if m.dstDie < 12 then c.spkMod m.dstDie (fun s => { s with dn := s.dn ++ [m] })
  else { c with coh := { c.coh with hubIn := c.coh.hubIn ++ [m] } }

/-- A message of a class crosses a die's mesh: events 0x40 to 0x44 (R177, R423; log 91). -/
def Chip.meshMsg (c : Chip) (d cls tenant : Nat) (secure : Bool) : Chip := c.evMesh d (0x40 + cls) (evOf tenant secure)

/-- Send a message from a die: it crosses the mesh and goes up the die's Spoke link. -/
def Chip.sendUp (c : Chip) (d : Nat) (m : Msg) : Chip :=
  (c.meshMsg d m.cls m.tenant m.secure).spkMod d (fun s => { s with up := s.up ++ [m] })

/-- The first message that satisfies a test, and the list without it. -/
def takeMsg (p : Msg → Bool) : List Msg → Option (Msg × List Msg)
  | [] => none
  | m :: l => if p m then some (m, l) else (takeMsg p l).map (fun r => (r.1, m :: r.2))

/-! ### Receive buffers (R257) -/

/-- Add credits class by class. -/
def addCr (a b : List Nat) : List Nat := (List.range 5).map (fun k => (a[k]?).getD 0 + (b[k]?).getD 0)
/-- The credit of one message. -/
def crdOne (cls : Nat) : List Nat := (List.range 5).map (fun k => b2n (k == cls))

/-- A receiver frees the buffer of a message of a class, and owes its sender the credit: port p of Tandem, or the hub end (6 + d) or die end
(18 + d) of Spoke link d. -/
def Chip.bufFree (c : Chip) (buf : Option Nat) (cls : Nat) : Chip :=
  match buf with
  | none => c
  | some b =>
    if b < 6 then c.tdmMod b (fun t => { t with ret := addCr t.ret (crdOne cls) })
    else if b < 18 then c.spkMod (b - 6) (fun s => { s with retUp := addCr s.retUp (crdOne cls) })
    else c.spkMod (b - 18) (fun s => { s with retDn := addCr s.retDn (crdOne cls) })

/-- The buffers of a link that starts again hold nothing. -/
def Chip.bufReset (c : Chip) (bs : List Nat) : Chip :=
  let clr := fun (m : Msg) => if bs.any (fun b => m.buf == some b) then { m with buf := none } else m
  { c with coh := { c.coh with hubIn := c.coh.hubIn.map clr, dieIn := c.coh.dieIn.map (fun x => (x.1, clr x.2)) } }

/-- A message out of its buffer. -/
def Msg.unbuf (m : Msg) : Msg := { m with buf := none }

/-- The first message at a die that satisfies a test: it crosses the mesh from the Spoke end. -/
def Chip.takeDie (c : Chip) (d : Nat) (p : Msg → Bool) : Option (Msg × Chip) :=
  let rec go : List (Nat × Msg) → Option (Msg × List (Nat × Msg))
    | [] => none
    | x :: l => if x.1 = d && p x.2 then some (x.2, l) else (go l).map (fun r => (r.1, x :: r.2))
  (go c.coh.dieIn).map (fun r =>
    (r.1.unbuf, ((({ c with coh := { c.coh with dieIn := r.2 } } : Chip).meshMsg d r.1.cls r.1.tenant r.1.secure).bufFree r.1.buf r.1.cls)))

/-- The first message at the hub that satisfies a test. -/
def Chip.takeHub (c : Chip) (p : Msg → Bool) : Option (Msg × Chip) :=
  (takeMsg p c.coh.hubIn).map (fun r => (r.1.unbuf, ({ c with coh := { c.coh with hubIn := r.2 } } : Chip).bufFree r.1.buf r.1.cls))

/-- Count a message dropped under R195 or R198 at the home slice of its line. -/
def Chip.fencedDrop (c : Chip) (m : Msg) : Chip :=
  c.count (Reg.DIR_CNT2.FENCED_DROP (if m.isLine then homeSlice (64 * m.line) else 0)) 1

end Sys2Proof.Machine
end

