-- ==== Sys2Proof/Machine/Cache.lean ====
section
/-! DEFINITION. Machine/Cache.lean: the caches of a die as arrays of lines: lookup, replacement (R154 to R158), inclusion (R151),
keys (R327), eviction, and what a snoop does to a die's copies (R186). -/
namespace Sys2Proof.Machine

/-! ### Sets and ways -/

/-- A line in a set: the way's key and the line. -/
def findWay (m : SMap CLine) (base n line : Nat) : Option (Nat × CLine) :=
  (m.find? (fun p => decide (base ≤ p.1) && decide (p.1 < base + n) && p.2.line == line))

/-- The victim way among candidate ways, and the set's lines with their new ages; none is RETRY (R154). -/
def chooseVictim (m : SMap CLine) (base n : Nat) (cand : Nat → Option CLine → Bool) (opened : Nat → Bool) :
    Option (Nat × SMap CLine) :=
  let ways := (List.range n).filterMap (fun w =>
    let l := SMap.get? m (base + w)
    if cand w l && !(match l with | some l => opened l.line | none => false) then some (base + w, l) else none)
  match ways with
  | [] => none
  | _ :: _ =>
    match ways.find? (fun w => w.2.isNone) with
    | some w => some (w.1, m)
    | none =>
      let mx := ways.foldl (fun a w => max a ((w.2.map (·.age)).getD 0)) 0
      let m2 := if mx < 3 then
          m.map (fun p => if ways.any (fun w => w.1 == p.1) then (p.1, { p.2 with age := p.2.age + (3 - mx) }) else p)
        else m
      (ways.find? (fun w => ((w.2.map (·.age)).getD 0) == mx)).map (fun w => (w.1, m2))

/-- Bases of a line's set: the L2 of cluster u = 5d + cl, the L3 slice of die d, the L1s of core k20 = 20d + k. -/
def l2Base (u line : Nat) : Nat := (u * 2048 + setL2 line) * 16
def l3Base (d line : Nat) : Nat := ((20 * d + l3Slice (64 * line)) * 2048 + setL3 line) * 16
def l1dBase (k line : Nat) : Nat := (k * 128 + setL1d line) * 8
def l1iBase (k line : Nat) : Nat := (k * 256 + setL1i line) * 4

def Chip.setL2 (c : Chip) (m : SMap CLine) : Chip := { c with coh := { c.coh with l2 := m } }
def Chip.setL3 (c : Chip) (m : SMap CLine) : Chip := { c with coh := { c.coh with l3 := m } }
def Chip.setL1d (c : Chip) (m : SMap CLine) : Chip := { c with coh := { c.coh with l1d := m } }
def Chip.setL1i (c : Chip) (m : SMap CLine) : Chip := { c with coh := { c.coh with l1i := m } }

def Chip.l2Find (c : Chip) (u line : Nat) : Option (Nat × CLine) := findWay c.coh.l2 (l2Base u line) 16 line
def Chip.l3Find (c : Chip) (d line : Nat) : Option (Nat × CLine) := findWay c.coh.l3 (l3Base d line) 16 line
def Chip.l1dFind (c : Chip) (k line : Nat) : Option (Nat × CLine) := findWay c.coh.l1d (l1dBase k line) 8 line
def Chip.l1iFind (c : Chip) (k line : Nat) : Option (Nat × CLine) := findWay c.coh.l1i (l1iBase k line) 4 line

/-- Global core number 20d + k of the j-th core of cluster u = 5d + cl. -/
def coreOfClu (u j : Nat) : Nat := u / 5 * 20 + u % 5 * 4 + j

/-- Is the ratio of cluster u (5d + c) changing (R41)? -/
def Chip.ratioBusy (c : Chip) (u : Nat) : Bool := c.bitOf (Reg.HUB_CORE_DIV.BUSY (u / 5)) (u % 5)

/-- Must what a slice does on a line wait at a crossing: the ratio of a cluster changes whose L2 may hold the line (R41, R151)? -/
def Chip.ratioHeld (c : Chip) (d line : Nat) : Bool :=
  match c.l3Find d line with
  | some (_, l) => (List.range 5).any (fun cl => bit l.pres cl && c.ratioBusy (5 * d + cl))
  | none => false

/-- Is a way of an L2 locked (R155)? -/
def Chip.wayLocked (c : Chip) (u key : Nat) : Bool := c.bitOf (Reg.CL_L2_LOCK.WAYS (u / 5) (u % 5)) (key % 16)

/-! ### Keys and rights (R325, R327) -/

/-- Rights that an access needs in a cache. -/
def AKind.needs : AKind → Nat
  | .fetch => rightX
  | .load | .walk | .strRead | .pref0 | .pref1 | .pref2 | .pref3 => rightR
  | .store | .strWrite | .amo | .frame | .save => rightR + rightW

/-- Does an access need ownership of its line? -/
def AKind.owns : AKind → Bool
  | .store | .strWrite | .amo | .frame | .save => true
  | .fetch | .load | .walk | .strRead | .pref0 | .pref1 | .pref2 | .pref3 => false

/-- Accesses whose hits leave ages alone and whose lines enter old (R153). -/
def AKind.isOld : AKind → Bool
  | .strRead | .strWrite | .pref3 => true
  | .fetch | .load | .walk | .pref0 | .pref1 | .pref2 | .store | .amo | .frame | .save => false

/-- Does a line serve an access with a key (R327)? -/
def CLine.serves (l : CLine) (tenant : Nat) (secure : Bool) (need : Nat) : Bool :=
  l.tenant == tenant && l.secure == secure && (l.rights &&& need) == need

/-! ### Logs of a cluster and a slice (R166 to R170) -/

def Chip.clLog (c : Chip) (d cl src addr : Nat) : Chip :=
  if c.on (Reg.CL_ERR_LOG.VALID d cl) then c
  else (c.puts [(Reg.CL_ERR_LOG.ADDR d cl, addr), (Reg.CL_ERR_LOG.SRC d cl, src), (Reg.CL_ERR_LOG.VALID d cl, 1)]).irqReg
    (Reg.CL_ERR_IRQ.AGENT d cl) (Reg.CL_ERR_IRQ.VEC d cl) (Reg.CL_ERR_IRQ.EN d cl)

def Chip.l3Log (c : Chip) (d sl src addr : Nat) : Chip :=
  if c.on (Reg.L3_ERR_LOG.VALID d sl) then c
  else (c.puts [(Reg.L3_ERR_LOG.ADDR d sl, addr), (Reg.L3_ERR_LOG.SRC d sl, src), (Reg.L3_ERR_LOG.VALID d sl, 1)]).irqReg
    (Reg.L3_ERR_IRQ.AGENT d sl) (Reg.L3_ERR_IRQ.VEC d sl) (Reg.L3_ERR_IRQ.EN d sl)

def Chip.hcLog (c : Chip) (src line : Nat) : Chip :=
  if c.on Reg.HC_ERR_LOG.VALID then c
  else (c.puts [(Reg.HC_ERR_LOG.ADDR, 64 * line), (Reg.HC_ERR_LOG.SRC, src), (Reg.HC_ERR_LOG.BANK, bankHc line),
    (Reg.HC_ERR_LOG.VALID, 1)]).irqReg Reg.HC_ERR_IRQ.AGENT Reg.HC_ERR_IRQ.VEC Reg.HC_ERR_IRQ.EN

/-! ### Array errors (R166 to R169)

An error strikes a copy that a cache holds, and the next lookup that finds the copy finds the error: `CLine.flaw` (log 87). -/

/-- What a strike meets: 0 an L1I and 1 an L1D of core k (20d + k); 2 to 4 its L2, flaw 1 to 3; 5 to 7 the line's L3 slice on its die; 8
to 10 the line's hub cache bank. A cache without the line is not struck. -/
def Chip.strike (c : Chip) (k what line : Nat) : Chip :=
  let mark := fun (n : Nat) (m : SMap CLine) (h : Option (Nat × CLine)) => match h with
    | some (w, l) => SMap.set m w { l with flaw := n }
    | none => m
  let hb := (bankHc line * 4096 + setHc line) * 16
  if what = 0 then c.setL1i (mark 1 c.coh.l1i (c.l1iFind k line))
  else if what = 1 then c.setL1d (mark 1 c.coh.l1d (c.l1dFind k line))
  else if what < 5 then c.setL2 (mark (what - 1) c.coh.l2 (c.l2Find (k / 20 * 5 + k % 20 / 4) line))
  else if what < 8 then c.setL3 (mark (what - 4) c.coh.l3 (c.l3Find (k / 20) line))
  else { c with coh := { c.coh with hc := mark (what - 7) c.coh.hc (findWay c.coh.hc hb 16 line) } }

/-- The strike that a command names, if any. -/
def Chip.struck (c : Chip) (k : Nat) (s : Option (Fin 11 × BitVec 46)) : Chip :=
  match s with
  | some (what, line) => c.strike k what.val line.toNat
  | none => c

/-- A lookup of an L1 finds what struck the copy: its way is invalid, and the lookup misses (R166). -/
def Chip.l1Check (c : Chip) (instr : Bool) (k line : Nat) : Chip :=
  let d := k / 20
  let cl := k % 20 / 4
  let hit := fun (c : Chip) => (c.count (Reg.CL_ERR_CNT0.L1 d cl) 1).clLog d cl ((if instr then 0 else 4) + k % 4) (64 * line)
  if instr then
    match c.l1iFind k line with
    | some (w, l) => if l.flaw = 0 then c else hit (c.setL1i (SMap.erase c.coh.l1i w))
    | none => c
  else
    match c.l1dFind k line with
    | some (w, l) => if l.flaw = 0 then c else hit (c.setL1d (SMap.erase c.coh.l1d w))
    | none => c

/-- Every copy of a line on a die is poisoned, and its L1 copies go (R168, R169). -/
def Chip.poisonDie (c : Chip) (d line : Nat) : Chip :=
  let bad := fun (n : Nat) (m : SMap CLine) => m.map (fun (p : Nat × CLine) =>
    if p.2.line = line && p.1 / 32768 / n == d then (p.1, { p.2 with ld := LD.bad, flaw := 0 }) else p)
  { c with coh := { c.coh with
      l2 := bad 5 c.coh.l2
      l3 := bad 20 c.coh.l3
      l1d := c.coh.l1d.filter (fun p => !(p.2.line == line && p.1 / 1024 / 20 == d))
      l1i := c.coh.l1i.filter (fun p => !(p.2.line == line && p.1 / 1024 / 20 == d)) } }

/-! ### Removing copies -/

/-- Remove a line from the L1s of a cluster's cores (R151). -/
def Chip.l1Drop (c : Chip) (u line : Nat) : Chip :=
  let mine := fun (k : Nat) => (List.range 4).any (fun j => k == coreOfClu u j)
  { c with coh := { c.coh with
      l1d := c.coh.l1d.filter (fun p => !(p.2.line == line && mine (p.1 / 1024)))
      l1i := c.coh.l1i.filter (fun p => !(p.2.line == line && mine (p.1 / 1024))) } }

/-- Remove a line from an L2 and its L1s; a locked line lost to another agent is counted (R157). -/
def Chip.l2Drop (c : Chip) (u line : Nat) (loss : Bool) : Chip :=
  match c.l2Find u line with
  | none => c
  | some (k, _) =>
    let c := (c.setL2 (SMap.erase c.coh.l2 k)).l1Drop u line
    if loss && c.wayLocked u k then c.count (Reg.CL_ERR_CNT1.LOCK_LOSS (u / 5) (u % 5)) 1 else c

/-- A lookup of an L2 finds what struck the line (R167, R168): a clean line with a data error goes, to be filled again into the same way
where an access found it, whose key `again` is (R335); a tag error is corrected; a dirty line with a data error and an uncorrectable tag
error are fatal. -/
def Chip.l2Check (c : Chip) (u line : Nat) (again : Option EvKey) : Chip :=
  let d := u / 5
  let cl := u % 5
  match c.l2Find u line with
  | none => c
  | some (k, q) =>
    let fatal := fun (src : Nat) => { (c.poisonDie d line).clLog d cl src (64 * line) with fatalErr := true }
    if q.flaw = 0 then c
    else if q.flaw = 2 then
      ((c.setL2 (SMap.set c.coh.l2 k { q with flaw := 0 })).count (Reg.CL_ERR_CNT1.TAG_CORR d cl) 1).clLog d cl 10 (64 * line)
    else if q.flaw = 3 then fatal 11
    else if q.st == .m || q.st == .o then fatal 9
    else
      let c := ((c.l2Drop u line false).count (Reg.CL_ERR_CNT0.L2_CLEAN d cl) 1).clLog d cl 8 (64 * line)
      match again with
      | some key => { c with coh := { c.coh with l2Same := c.coh.l2Same ++ [(u, line, k)] } }.evClu u 0x24 key
      | none => c

/-- Every L2 of a die that holds a line is looked up for it. -/
def Chip.l2Checks (c : Chip) (d line : Nat) : Chip := (List.range 5).foldl (fun c cl => c.l2Check (5 * d + cl) line none) c

/-- Take the data of a dirty L2 copy into the die's L3 line, whose state follows it (R151, R186). -/
def Chip.l3Take (c : Chip) (d line : Nat) : Chip :=
  match c.l3Find d line with
  | none => c
  | some (k, l) =>
    match (List.range 5).findSome? (fun cl => match c.l2Find (5 * d + cl) line with
      | some (_, q) => if q.st == .m then some q else none
      | none => none) with
    | none => c
    | some q => c.setL3 (SMap.set c.coh.l3 k { l with ld := q.ld, st := .m })

/-- A lookup of a slice looks up the L2s that may hold the line and takes their dirty data. -/
def Chip.l3Gather (c : Chip) (d line : Nat) : Chip := (c.l2Checks d line).l3Take d line

/-- Give the die's L2 copies of a line a state. -/
def Chip.l2SetAll (c : Chip) (d line : Nat) (st : LState) : Chip :=
  c.setL2 (c.coh.l2.map (fun p => if p.2.line = line && p.1 / 32768 / 5 == d then (p.1, { p.2 with st := st }) else p))

/-- The die's dirty L2 copy of a line is clean again; copies in S stay so (R186). -/
def Chip.l2Clean (c : Chip) (d line : Nat) : Chip :=
  c.setL2 (c.coh.l2.map (fun p => if p.2.line = line && p.1 / 32768 / 5 == d && p.2.st == .m then (p.1, { p.2 with st := .e }) else p))

/-- Remove every L2 and L1 copy of a line on a die. -/
def Chip.l2DropAll (c : Chip) (d line : Nat) (loss : Bool) : Chip :=
  (List.range 5).foldl (fun c cl => c.l2Drop (5 * d + cl) line loss) c

/-- Is an L3 line pinned: held by an L2 of its die in a locked way (R158)? -/
def Chip.pinned (c : Chip) (d line : Nat) : Bool :=
  (List.range 5).any (fun cl => match c.l2Find (5 * d + cl) line with
    | some (k, _) => c.wayLocked (5 * d + cl) k
    | none => false)

/-- A free buffer index of a slice, 0 to 127 (R180); none while all are in use (R179). -/
def Chip.l3Idx (c : Chip) (sl20 : Nat) : Option Nat :=
  (List.range 128).find? (fun i => !c.coh.l3reqs.any (fun r => r.slice == sl20 && r.idx == i)
    && !c.coh.l3wbs.any (fun w => w.slice == sl20 && w.idx == i))

/-- A slice's message to a home: from slice sl of die d, for the registered cluster (R180). -/
def Chip.l3Msg (c : Chip) (d cl cls typ line tag : Nat) : Msg :=
  { Msg.mk0 cls typ line with tag := tag, agent := agentOf c.pkg d cl 0 0, dstPkg := homePkg line, dstDie := 12 }

/-- Send a line of an L3 slice off: its L2 copies go first, then WB_DIRTY or EVICT_CLEAN (R151, R158, R179); `loss`: a locked line that
goes is counted (R157). A line stays while no buffer of its slice is free. No WB_DIRTY is marked as that of a string operation: its data enters the
hub cache at age 0 (R153; log 79). -/
def Chip.l3Send0 (c : Chip) (d line : Nat) (loss : Bool) : Chip :=
  let sl := l3Slice (64 * line)
  let c := c.l3Take d line
  match c.l3Find d line, c.l3Idx (20 * d + sl) with
  | some (k, l), some i =>
    let n := (List.range 5).countP (fun cl => (c.l2Find (5 * d + cl) line).isSome)
    let c := (List.range n).foldl (fun c _ => c.evL3 d sl 0x32 (evOf l.tenant l.secure)) ((c.l2DropAll d line loss).setL3 (SMap.erase c.coh.l3 k))
    let dirty := l.st == .m || l.st == .o
    let c := { c with coh := { c.coh with l3wbs := c.coh.l3wbs ++ [L3Wb.mk (20 * d + sl) i line l.ld dirty l.yrw l.last] } }
    let m := { c.l3Msg d l.last clsWbk (if dirty then 0 else 1) line (sl * 128 + i) with tenant := l.tenant, secure := l.secure }
    c.sendUp d (if dirty then { m.withLd l.ld with dirty := true, yrw := l.yrw } else m)
  | _, _ => c

/-- A lookup of an L3 slice finds what struck the line (R168, R169): 1 is corrected; 2 in a dirty line poisons it, in a clean one sends it
off with its L2 copies, or drops it, where no buffer is free or a grant brings the line anew (`off` false); 3 is fatal. A locked line that goes with
it is counted in LOCK_LOSS: R157 names the back-invalidation of R158 and another agent's request, and not this one (DESIGN CHOICE, log 87). -/
def Chip.l3CheckOff (c : Chip) (d line : Nat) (off : Bool) : Chip :=
  let sl := l3Slice (64 * line)
  match c.l3Find d line with
  | none => c
  | some (k, l) =>
    let ok := fun (c : Chip) => c.setL3 (SMap.set c.coh.l3 k { l with flaw := 0 })
    let uncorr := fun (c : Chip) (src : Nat) => (c.count (Reg.L3_ERR_CNT.UNCORR d sl) 1).l3Log d sl src (64 * line)
    if l.flaw = 0 then c
    else if l.flaw = 1 then ((ok c).count (Reg.L3_ERR_CNT.CORR d sl) 1).l3Log d sl 0 (64 * line)
    else if l.flaw = 3 then { uncorr (c.poisonDie d line) 3 with fatalErr := true }
    else if l.st == .m || l.st == .o then uncorr (c.poisonDie d line) 2
    else
      let c := (ok c).l2Checks d line
      let c := uncorr (if off then c.l3Send0 d line true else c) 1
      match c.l3Find d line with
      | some (w, q) => if q.st == .m then c else let c := c.l2DropAll d line true; c.setL3 (SMap.erase c.coh.l3 w)
      | none => c

/-- A lookup of a slice for anything but a grant. -/
def Chip.l3Check (c : Chip) (d line : Nat) : Chip := c.l3CheckOff d line true

/-- Evict a line from an L3 slice, whose lookup may find an error. -/
def Chip.l3Evict (c : Chip) (d line : Nat) (loss : Bool) : Chip := ((c.l3Check d line).l2Checks d line).l3Send0 d line loss

/-- Evict a line from an L2 into its L3 (R151). -/
def Chip.l2Evict (c : Chip) (u line : Nat) : Chip :=
  let c := c.l2Check u line none
  match c.l2Find u line with
  | none => c
  | some (_, q) =>
    let d := u / 5
    let c := c.l2Drop u line false
    match c.l3Find d line with
    | none => c
    | some (k, l) =>
      let pres := setBits l.pres (u % 5) 1 0
      let l2 := if q.st == .m then { l with ld := q.ld, st := .m } else l
      c.setL3 (SMap.set c.coh.l3 k { l2 with pres := pres })

/-! ### Filling -/

/-- Lines of an L1 of core k (20d + k) with an access of the core on its way. -/
def Chip.l1Open (c : Chip) (k line : Nat) : Bool :=
  c.coh.ops.any (fun o => o.line == line && o.ctx / 4 == k && (o.stage == .toL3 || o.stage == .atHome || o.stage == .l2Fill || o.stage == .l1Fill))

/-- Put a line into an L1; the victim is dropped (R154). None is RETRY: no way can be taken. -/
def Chip.l1Fill (c : Chip) (instr : Bool) (k : Nat) (l : CLine) : Option Chip :=
  if instr then
    match findWay c.coh.l1i (l1iBase k l.line) 4 l.line with
    | some (w, _) => some (c.setL1i (SMap.set c.coh.l1i w l))
    | none => (chooseVictim c.coh.l1i (l1iBase k l.line) 4 (fun _ _ => true) (fun x => x != l.line && c.l1Open k x)).map
        (fun v => c.setL1i (SMap.set v.2 v.1 l))
  else
    match findWay c.coh.l1d (l1dBase k l.line) 8 l.line with
    | some (w, _) => some (c.setL1d (SMap.set c.coh.l1d w l))
    | none => (chooseVictim c.coh.l1d (l1dBase k l.line) 8 (fun _ _ => true) (fun x => x != l.line && c.l1Open k x)).map
        (fun v => c.setL1d (SMap.set v.2 v.1 l))

/-- Lines of an L2 with an access on its way. -/
def Chip.l2Open (c : Chip) (u line : Nat) : Bool :=
  c.coh.ops.any (fun o => o.line == line && o.ctx / 16 == u && (o.stage == .toL3 || o.stage == .atHome || o.stage == .l2Fill))

/-- Is an access of the cluster on its way to fill a line: looked up, or held by the regulator, and beyond? -/
def Chip.l2Wants (c : Chip) (u line : Nat) : Bool :=
  c.l2Open u line || c.coh.ops.any (fun o => o.line == line && o.ctx / 16 == u && o.stage == .toL2 && o.lmq != .waits)

/-- The way that a line lost to a data error is filled into again, and whether a way waits for such a line (R167). -/
def Chip.l2SameWay (c : Chip) (u line : Nat) : Option Nat :=
  (c.coh.l2Same.find? (fun x => x.1 == u && x.2.1 == line)).map (·.2.2)
def Chip.l2Kept (c : Chip) (u line key : Nat) : Bool :=
  c.coh.l2Same.any (fun x => x.1 == u && x.2.2 == key && x.2.1 != line && c.l2Wants u x.2.1)

/-- Put a line into an L2 for a context, evicting a victim chosen under R154 and R156; a line lost to a data error takes its way again
(R167). None is RETRY. -/
def Chip.l2Fill (c : Chip) (u agent : Nat) (l : CLine) : Option Chip :=
  let d := u / 5
  let cl := u % 5
  let done := fun (c : Chip) => { c with coh := { c.coh with l2Same := c.coh.l2Same.filter (fun x => !(x.1 == u && x.2.1 == l.line)) } }
  match c.l2Find u l.line, c.l2SameWay u l.line with
  | some (w, _), _ => some (done (c.setL2 (SMap.set c.coh.l2 w l)))
  | none, some w =>
    let c := match SMap.get? c.coh.l2 w with | some v => c.l2Evict u v.line | none => c
    some (done (c.setL2 (SMap.set c.coh.l2 w l)))
  | none, none =>
    let ways := c.get (Reg.CL_L2_LOCK.WAYS d cl)
    let lockFill := c.on (Reg.CL_L2_LOCK.FILL d cl) && c.get (Reg.CL_L2_LOCK.FILL_AGENT d cl) == agent && ways != 0
    match chooseVictim c.coh.l2 (l2Base u l.line) 16 (fun w _ => bit ways w == lockFill && !c.l2Kept u l.line (l2Base u l.line + w)) (fun x => x != l.line && c.l2Open u x) with
    | none => none
    | some (w, m) =>
      let victim := (SMap.get? m w).map (·.line)
      let c := c.setL2 m
      let c := match victim with | some v => c.l2Evict u v | none => c
      some (c.setL2 (SMap.set c.coh.l2 w l))

/-- Lines of an L3 slice with a transaction open there. -/
def Chip.l3Open (c : Chip) (d line : Nat) : Bool :=
  c.coh.l3reqs.any (fun r => r.line == line && r.slice / 20 == d)
    || c.coh.ops.any (fun o => o.line == line && o.ctx / 80 == d && o.stage == .l2Fill)

/-- Put a line into its L3 slice, evicting a victim chosen under R154 and R158. None is RETRY: no way can be taken, or the victim's
writeback finds no buffer (R179) or its L2 copies lie behind a held crossing (R41). -/
def Chip.l3Fill (c : Chip) (d : Nat) (l : CLine) : Option Chip :=
  match c.l3Find d l.line with
  | some (w, _) => some (c.setL3 (SMap.set c.coh.l3 w l))
  | none =>
    let b := l3Base d l.line
    let allPinned := (List.range 16).all (fun w => match SMap.get? c.coh.l3 (b + w) with
      | some x => c.pinned d x.line
      | none => false)
    match chooseVictim c.coh.l3 b 16 (fun _ x => allPinned || !(match x with | some x => c.pinned d x.line | none => false))
        (fun x => x != l.line && c.l3Open d x) with
    | none => none
    | some (w, m) =>
      let victim := (SMap.get? m w).map (·.line)
      if (match victim with | some v => c.ratioHeld d v | none => false) then none
      else
      let c := c.setL3 m
      let c := match victim with | some v => c.l3Evict d v true | none => c
      if (SMap.get? c.coh.l3 w).isSome then none else some (c.setL3 (SMap.set c.coh.l3 w l))

/-! ### Snoops (R186) -/

/-- How a die answers a snoop. -/
inductive AnsKind where
  | ackI | ackS | miss | dat
  deriving DecidableEq, Repr

structure SnpAns where
  kind : AnsKind
  ld : LD
  dirty : Bool
  yrw : Nat
  deriving DecidableEq, Repr

/-- A die's copies under a snoop type, and its answer (R186); `loss`: a locked line that goes is counted (R157). -/
def Chip.snoopDie (c : Chip) (d typ line : Nat) (loss : Bool) : SnpAns × Chip :=
  let c := (c.l3Check d line).l3Gather d line
  match c.l3Find d line with
  | none => (⟨.miss, LD.zero, false, 0⟩, c)
  | some (k, l) =>
    let dat := fun (dirty : Bool) => SnpAns.mk .dat l.ld dirty l.yrw
    let ack := fun (a : AnsKind) => SnpAns.mk a LD.zero false l.yrw
    let put := fun (c : Chip) (st : LState) => c.setL3 (SMap.set c.coh.l3 k { l with st := st })
    let gone := fun (c : Chip) => (c.l2DropAll d line loss).setL3 (SMap.erase c.coh.l3 k)
    let owned := l.st == .m || l.st == .o
    if typ = tSnpS then
      match l.st with
      | .m => (dat true, put (c.l2SetAll d line .s) .o)
      | .o => (dat true, c)
      | .e => (dat false, put (c.l2SetAll d line .s) .s)
      | .s => (ack .ackS, c)
      | .i => (ack .miss, c)
    else if typ = tSnpInv then
      (if owned || l.st == .e then dat owned else ack .ackI, gone c)
    else if typ = tSnpInvNd then (ack .ackI, gone c)
    else if typ = tSnpCur then
      (if owned || l.st == .e then dat owned else ack .ackS, c)
    else
      match l.st with
      | .m => (dat true, put (c.l2Clean d line) .e)
      | .o => (dat true, put c .s)
      | .e => (ack .ackS, c)
      | .s => (ack .ackS, c)
      | .i => (ack .miss, c)

end Sys2Proof.Machine
end

