-- ==== Sys2Proof/Machine/Codec.lean ====
section
/-! DEFINITION. Machine/Codec.lean: the Reed–Solomon codes of the page code (R228) and the flit code (R253), the inner check bits
and stored forms of a line (R223 to R226, R239), and the Yarrow forms of a block (R246 to R250). -/
namespace Sys2Proof.Machine

/-! ### Binary fields -/

/-- A field GF(2^m) and its polynomial without the x^m term. -/
structure GF where
  m : Nat
  poly : Nat
  deriving DecidableEq, Repr

/-- x^16 + x^12 + x^3 + x + 1 (R228). -/
def gf16 : GF := ⟨16, 0x100B⟩
/-- x^10 + x^3 + 1 (R253). -/
def gf10 : GF := ⟨10, 0x9⟩

/-- Multiply by α. -/
def GF.times2 (F : GF) (a : Nat) : Nat :=
  let b := 2 * a
  if b < 2 ^ F.m then b else (b - 2 ^ F.m) ^^^ F.poly

/-- Product: `n` more bits of `b` to take. -/
def GF.mulGo (F : GF) : Nat → Nat → Nat → Nat → Nat
  | 0, _, _, acc => acc
  | n + 1, a, b, acc => GF.mulGo F n (F.times2 a) (b / 2) (if b % 2 = 1 then acc ^^^ a else acc)

def GF.mul (F : GF) (a b : Nat) : Nat := if a = 0 then 0 else if b = 0 then 0 else F.mulGo F.m a b 0

/-- Power by `k` bits of the exponent. -/
def GF.powGo (F : GF) : Nat → Nat → Nat → Nat → Nat
  | 0, _, _, acc => acc
  | k + 1, a, e, acc => GF.powGo F k (F.mul a a) (e / 2) (if e % 2 = 1 then F.mul acc a else acc)

def GF.pow (F : GF) (a e : Nat) : Nat := F.powGo 20 a (e % (2 ^ F.m - 1)) 1
def GF.alpha (F : GF) (e : Nat) : Nat := F.pow 2 e
def GF.inv (F : GF) (a : Nat) : Nat := F.pow a (2 ^ F.m - 2)

/-! ### Polynomials, lowest coefficient first -/

/-- Value at a point. -/
def GF.eval (F : GF) (p : List Nat) (x : Nat) : Nat := p.foldr (fun c acc => F.mul acc x ^^^ c) 0

/-- Sum. -/
def polyAdd : List Nat → List Nat → List Nat
  | [], q => q
  | p, [] => p
  | a :: p, b :: q => (a ^^^ b) :: polyAdd p q

/-- Scalar multiple and product. -/
def GF.scale (F : GF) (k : Nat) (p : List Nat) : List Nat := p.map (F.mul k)
def GF.polyMul (F : GF) : List Nat → List Nat → List Nat
  | [], _ => []
  | a :: p, q => polyAdd (F.scale a q) (0 :: GF.polyMul F p q)

/-- Degree, 0 for the zero polynomial. -/
def polyDeg (p : List Nat) : Nat :=
  p.zipIdx.foldl (fun d c => if c.1 = 0 then d else c.2) 0

/-- The generator (x − α^0) … (x − α^(n−1)). -/
def GF.gen (F : GF) : Nat → List Nat
  | 0 => [1]
  | n + 1 => F.polyMul (GF.gen F n) [F.alpha n, 1]

/-- One step of division by a monic generator: shift the register and feed a symbol. -/
def GF.encStep (F : GF) (g : List Nat) (reg : List Nat) (d : Nat) : List Nat :=
  let top := (reg.getLast?).getD 0 ^^^ d
  (List.zipWith (fun r q => r ^^^ F.mul top q) (0 :: reg.dropLast) (g.dropLast))

/-- Check symbols p_0 … p_(n−1) of data symbols d_0 … (R228, R253). -/
def GF.checks (F : GF) (n : Nat) (d : List Nat) : List Nat :=
  d.reverse.foldl (F.encStep (F.gen n)) (List.replicate n 0)

/-- Syndromes of a received word. -/
def GF.syndromes (F : GF) (n : Nat) (w : List Nat) : List Nat := (List.range n).map (fun i => F.eval w (F.alpha i))

/-- State of the errors-and-erasures search. -/
structure BM where
  lam : List Nat
  b : List Nat
  len : Nat
  deriving DecidableEq, Repr

/-- One step of the search at syndrome number r (from 1), with f erasures. -/
def GF.bmStep (F : GF) (syn : List Nat) (f : Nat) (s : BM) (r : Nat) : BM :=
  let delta := s.lam.zipIdx.foldl (fun acc c => if c.2 < r then acc ^^^ F.mul c.1 ((syn[r - 1 - c.2]?).getD 0) else acc) 0
  let xb := 0 :: s.b
  if delta = 0 then { s with b := xb }
  else
    let t := polyAdd s.lam (F.scale delta xb)
    if 2 * s.len ≤ r - 1 + f then ⟨t, F.scale (F.inv delta) s.lam, r + f - s.len⟩
    else ⟨t, xb, s.len⟩

/-- Bounded-distance decoding of a word with `n` check symbols and the listed erased positions: the corrections as
(position, value to add), or none when no codeword lies within the bound (R233, R253). -/
def GF.decode (F : GF) (n : Nat) (w : List Nat) (erased : List Nat) : Option (List (Nat × Nat)) :=
  let syn := F.syndromes n w
  let f := erased.length
  if n < f then none
  else if syn.all (· == 0) then some []
  else
    let gamma := erased.foldl (fun p i => F.polyMul p [1, F.alpha i]) [1]
    let s := (List.range (n - f)).foldl (fun s k => F.bmStep syn f s (f + 1 + k)) ⟨gamma, gamma, f⟩
    let lam := s.lam
    let deg := polyDeg lam
    let pos := (List.range w.length).filter (fun i => F.eval lam (F.alpha (2 ^ F.m - 1 - i % (2 ^ F.m - 1))) == 0)
    if pos.length != deg || n < f + 2 * (deg - f) then none
    else
      let omega := (F.polyMul syn lam).take n
      let dlam := lam.zipIdx.filterMap (fun c => if c.2 = 0 then none else some (if c.2 % 2 = 1 then c.1 else 0))
      let fix := pos.map (fun i =>
        let x := F.alpha i
        let xi := F.inv x
        (i, F.mul x (F.mul (F.eval omega xi) (F.inv (F.eval dlam xi)))))
      let w2 := fix.foldl (fun l c => l.modify c.1 (· ^^^ c.2)) w
      if (F.syndromes n w2).all (· == 0) then some (fix.filter (fun c => c.2 != 0)) else none

/-! ### Inner check bits and stored forms -/

/-- Computed check bits of a byte: C0 in bit 0, C1 in bit 1 (R223). -/
def innerChk (b : Nat) : Nat :=
  (bits b 0 1 ^^^ bits b 2 1 ^^^ bits b 4 1 ^^^ bits b 6 1) + 2 * (bits b 1 1 ^^^ bits b 3 1 ^^^ bits b 5 1 ^^^ bits b 7 1)

/-- Store 64 bytes with a mark for each byte (R226). -/
def rawOf (d : Line) (mark : Nat → Nat) : Raw :=
  ⟨d, BitVec.ofNat 128 ((List.range 64).foldl (fun v j => v + (innerChk (lineGet d j 1) ^^^ mark j) <<< (2 * j)) 0)⟩

/-- Syndrome of byte j (R223). -/
def Raw.syn (r : Raw) (j : Nat) : Nat := bits r.chk.toNat (2 * j) 2 ^^^ innerChk (lineGet r.data j 1)

/-- The forms of R225. -/
inductive Form where
  | plain
  | poison
  | tagged (mode slot mm1 : Nat)
  | bad
  deriving DecidableEq, Repr

/-- Mark of byte j of a tagged line (R247): 2 for a tag bit of 1, complemented in bytes 16 to 31 and 48 to 63. -/
def tagMark (tag j : Nat) : Nat :=
  let t := bit tag (j % 16)
  if (if j / 16 % 2 = 1 then !t else t) then 2 else 1

/-- Votes for bit i of the tag: those for 1 and those for 0 (R247). -/
def Raw.votes (r : Raw) (i : Nat) : Nat × Nat :=
  (List.range 4).foldl (fun v k =>
    let s := r.syn (16 * k + i)
    let one := if k % 2 = 0 then 2 else 1
    if s = one then (v.1 + 1, v.2) else if s = 3 - one then (v.1, v.2 + 1) else v) (0, 0)

/-- The tag, if every bit reads (R247). -/
def Raw.tag (r : Raw) : Option Nat :=
  (List.range 16).foldl (fun t i =>
    match t with
    | none => none
    | some t =>
      let v := r.votes i
      if 2 ≤ v.1 && v.2 = 0 then some (t + 2 ^ i) else if 2 ≤ v.2 && v.1 = 0 then some t else none) (some 0)

/-- Validity of a tag for the slot it was read from (R247). -/
def tagValid (t slot : Nat) : Bool :=
  let mode := bits t 0 2
  let sl := bits t 2 2
  let mm1 := bits t 4 2
  bits t 6 10 == 0 && sl == slot &&
    (if mode = 0 then slot != 0 && mm1 == 0
     else decide (sl ≤ mm1) && (if mode = 1 then decide (mm1 ≤ 2) else if mode = 2 then mm1 == 2 else mm1 == 1))

/-- Classify a slot (R225); a line of a carve-out is always plain. -/
def Raw.form (r : Raw) (slot : Nat) (carve : Bool) : Form :=
  if carve then .plain
  else
    let n := fun (p : Nat → Bool) => ((List.range 64).filter (fun j => p (r.syn j))).length
    if 48 ≤ n (· == 0) then .plain
    else if 48 ≤ n (· == 3) then .poison
    else if 48 ≤ n (fun s => s == 1 || s == 2) then
      match r.tag with
      | some t => if tagValid t slot then .tagged (bits t 0 2) (bits t 2 2) (bits t 4 2) else .bad
      | none => .bad
    else .bad

/-- Does a slot look tagged with a tag that is not valid (YRW_CNT2.TAG_BAD)? -/
def Raw.tagBad (r : Raw) (slot : Nat) : Bool :=
  let n := fun (p : Nat → Bool) => ((List.range 64).filter (fun j => p (r.syn j))).length
  decide (n (· == 0) < 48) && decide (n (· == 3) < 48) && decide (48 ≤ n (fun s => s == 1 || s == 2)) &&
    (match r.tag with | some t => !tagValid t slot | none => true)

/-- The tag of a form. -/
def tagOf (mode slot mm1 : Nat) : Nat := mode + 4 * slot + 16 * mm1

/-- Flagged bytes of a slot in a given form (R225). -/
def Raw.flags (r : Raw) (f : Form) : List Nat :=
  (List.range 64).filter (fun j => match f with
    | .plain => r.syn j != 0
    | .poison => r.syn j != 3
    | .tagged m s k => r.syn j != tagMark (tagOf m s k) j
    | .bad => true)

/-- The three ways a slot is written (R225, R239, R247). -/
def rawPlain (d : Line) : Raw := rawOf d (fun _ => 0)
def rawPoison : Raw := rawOf 0#512 (fun _ => 3)
def rawTagged (d : Line) (mode slot mm1 : Nat) : Raw := rawOf d (tagMark (tagOf mode slot mm1))

/-- Lane l of beat t of a slot, as the DRAM devices carry it (R223): data lanes 0–31, C0 on 32–35, C1 on 36–39. -/
def Raw.flipLane (r : Raw) (l t : Nat) : Raw :=
  if l < 32 then
    let j := 4 * t + l % 4
    ⟨r.data ^^^ BitVec.ofNat 512 (2 ^ (8 * j + l / 4)), r.chk⟩
  else if l < 36 then ⟨r.data, r.chk ^^^ BitVec.ofNat 128 (2 ^ (2 * (4 * t + l - 32)))⟩
  else ⟨r.data, r.chk ^^^ BitVec.ofNat 128 (2 ^ (2 * (4 * t + l - 36) + 1))⟩

/-- Invert the bits on the chosen lanes in the chosen beats (R243). -/
def Raw.flip (r : Raw) (lanes beats : Nat) : Raw :=
  (List.range 40).foldl (fun r l => if bit lanes l then
    (List.range 16).foldl (fun r t => if bit beats t then r.flipLane l t else r) r else r) r

/-- The bits that a slot puts on lane l, beat t in bit t. -/
def Raw.lane (r : Raw) (l : Nat) : Nat :=
  (List.range 16).foldl (fun v t =>
    let b := if l < 32 then bits r.data.toNat (8 * (4 * t + l % 4) + l / 4) 1
      else if l < 36 then bits r.chk.toNat (2 * (4 * t + l - 32)) 1
      else bits r.chk.toNat (2 * (4 * t + l - 36) + 1) 1
    v + b <<< t) 0

/-- A slot from the bits of its 40 lanes. -/
def rawOfLanes (lane : Nat → Nat) : Raw :=
  let d := (List.range 64).foldl (fun v j =>
    v + ((List.range 8).foldl (fun x i => x + bits (lane (4 * i + j % 4)) (j / 4) 1 <<< i) 0) <<< (8 * j)) 0
  let k := (List.range 64).foldl (fun v j =>
    v + (bits (lane (32 + j % 4)) (j / 4) 1 + 2 * bits (lane (36 + j % 4)) (j / 4) 1) <<< (2 * j)) 0
  ⟨BitVec.ofNat 512 d, BitVec.ofNat 128 k⟩

/-- A slot in its proper form, from its corrected data and its stored check bits: none where it is unclassified (R232 step 5). -/
def Raw.mend (r : Raw) (slot : Nat) : Option Raw :=
  match r.form slot false with
  | .plain => some (rawPlain r.data)
  | .poison => some rawPoison
  | .tagged m s k => some (rawTagged r.data m s k)
  | .bad => none

/-! ### Yarrow blocks -/

/-- The 64 words of a block of four lines. -/
def blockWords (ls : List Line) : List Nat :=
  ls.flatMap (fun l => (List.range 16).map (fun w => lineGet l (4 * w) 4))

/-- Lines of a number of bytes given as a byte list. -/
def linesOf (n : Nat) (b : List Nat) : List Line :=
  (List.range n).map (fun k => BitVec.ofNat 512 (ofBytes ((b.drop (64 * k)).take 64)))

/-- The code and payload of one word after its predecessor (R249). -/
def yrw1Word (prev w : Nat) : Nat × List Nat :=
  if w = 0 then (0, [])
  else if w = prev then (1, [])
  else if w < 0x8000 || 0xFFFF8000 ≤ w then (2, toBytes 2 (w % 2 ^ 16))
  else (3, toBytes 4 w)

/-- The stream of a block: its codes and payloads (R249). -/
def yrw1Stream (ls : List Line) : List Nat :=
  let ws := blockWords ls
  let cp := (List.zip (0 :: ws) ws).map (fun p => yrw1Word p.1 p.2)
  let codes := (List.range 16).map (fun b =>
    (List.range 4).foldl (fun v k => v + (((cp[4 * b + k]?).getD (0, [])).1) <<< (2 * k)) 0)
  codes ++ cp.flatMap (fun p => p.2)

/-- Decode the payloads of a stream, word by word. -/
def yrw1Words : List Nat → Nat → List Nat → List Nat
  | [], _, _ => []
  | c :: cs, prev, b =>
    let r : Nat × List Nat :=
      if c = 0 then (0, b)
      else if c = 1 then (prev, b)
      else if c = 2 then
        let v := ofBytes (b.take 2)
        (if v < 0x8000 then v else v + 0xFFFF0000, b.drop 2)
      else (ofBytes (b.take 4), b.drop 4)
    r.1 :: yrw1Words cs r.1 r.2

/-- A block's lines from its 64 words. -/
def linesOfWords (ws : List Nat) : List Line := linesOf 4 (ws.flatMap (fun w => toBytes 4 w))

/-- Where the payloads of lines 0 to k of a Yarrow 1 stream end. -/
def yrw1Upto (slots : List Line) (k : Nat) : Nat :=
  let b := slots.flatMap (fun l => toBytes 64 l.toNat)
  (List.range (16 * (k + 1))).foldl (fun n w =>
    let code := bits ((b[w / 4]?).getD 0) (2 * (w % 4)) 2
    if code = 2 then n + 2 else if code = 3 then n + 4 else n) 16

/-- Does line k of a block need byte b of its stored slots (R232 step 3; log 86)? -/
def needByte (mode : Nat) (slots : List Line) (k b : Nat) : Bool :=
  if mode = 1 then if b < 16 then decide (b < 4 * (k + 1)) else decide (b < yrw1Upto slots k)
  else
    let n := if mode = 2 then 48 else 32
    decide (n * k ≤ b) && decide (b < n * (k + 1))

/-- Decode a Yarrow 1 stream (R249). -/
def yrw1Decode (slots : List Line) : List Line :=
  let b := slots.flatMap (fun l => toBytes 64 l.toNat)
  let codes := (List.range 64).map (fun w => bits ((b[w / 4]?).getD 0) (2 * (w % 4)) 2)
  linesOfWords (yrw1Words codes 0 (b.drop 16))

/-- One element shortened by k bits (R250). -/
def yrwEnc (x k : Nat) : Nat :=
  let s := x / 2 ^ 31 * 2 ^ 31
  let m := x % 2 ^ 31
  let r :=
    if m = 0 || m = 0x7F800000 then m
    else if m < 0x00800000 then 0
    else if 0x7F800000 < m then
      let r := (m >>> k) <<< k
      if r % 2 ^ 23 = 0 then r ||| 2 ^ k else r
    else
      let r := ((m + 2 ^ (k - 1) - 1 + (m >>> k) % 2) >>> k) <<< k
      if 0x7F800000 ≤ r then 0x7F800000 - 2 ^ k else r
  (s + r) >>> k

/-- Encode a block as Yarrow 2 or 3: k bits dropped of each element (R250). -/
def yrw23Encode (k : Nat) (ls : List Line) : List Line :=
  linesOf (if k = 8 then 3 else 2) ((blockWords ls).flatMap (fun w => toBytes (if k = 8 then 3 else 2) (yrwEnc w k)))

/-- Decode a Yarrow 2 or 3 block. -/
def yrw23Decode (k : Nat) (slots : List Line) : List Line :=
  let n := if k = 8 then 3 else 2
  let b := slots.flatMap (fun l => toBytes 64 l.toNat)
  linesOfWords ((List.range 64).map (fun e => ofBytes ((b.drop (n * e)).take n) <<< k))

/-- A block's stored image: mode and the slots, with the moved slots (R246, R248). -/
def storeBlock (mode : Nat) (slots : List Line) : List Raw :=
  let m := slots.length
  (List.range 4).map (fun k =>
    if k < m then rawTagged ((slots[k]?).getD 0#512) mode k (m - 1) else rawTagged 0#512 0 k 0)

/-- Decode stored slots of a mode. -/
def blockDecode (mode : Nat) (slots : List Line) : List Line :=
  if mode = 1 then yrw1Decode slots else if mode = 2 then yrw23Decode 8 slots else yrw23Decode 16 slots

end Sys2Proof.Machine
end

