-- ==== Sys2Proof/Machine/Clock.lean ====
section
/-! DEFINITION. Machine/Clock.lean: synthesizers and CORE ratios (R36 to R42), the TIME counter and the always-on timekeeper
(R43 to R49), and Chainline (R51 to R54). -/
namespace Sys2Proof.Machine

/-! ### Synthesizers and ratios -/

/-- The thermal limit of a cluster's ratio; the slower of it and REQ is in force (R40). -/
def Chip.thermRatio (c : Chip) (d cl : Nat) : Nat :=
  max (bits (c.get (Reg.PWR_THERM.FW_LIMIT d)) (2 * cl) 2)
    (if c.on (Reg.PWR_THERM.CRIT_ON d) then 3 else if c.on (Reg.PWR_THERM.WARN_ON d) then 2 else 0)

/-- The ratio in force of cluster cl of die d (R40). -/
def Chip.ratioInForce (c : Chip) (d cl : Nat) : Nat :=
  if c.cluPresent d cl then max (bits (c.get (Reg.HUB_CORE_DIV.REQ d)) (2 * cl) 2) (c.thermRatio d cl) else 3

/-- Start a change of one cluster's ratio if the ratio in force changes and no change runs (R41). -/
def Chip.ratioCheck (c : Chip) (d cl : Nat) : Chip :=
  if c.bitOf (Reg.HUB_CORE_DIV.BUSY d) cl then c
  else
    let r := c.ratioInForce d cl
    if r = bits (c.get (Reg.HUB_CORE_DIV.CUR d)) (2 * cl) 2 then c
    else
      let c := c.putBit (Reg.HUB_CORE_DIV.BUSY d) cl true
      { c with clk := { c.clk with ratioTarget := SMap.set c.clk.ratioTarget (5 * d + cl) r } }

/-- Check every cluster of a die (R41). -/
def Chip.ratioCheckDie (c : Chip) (d : Nat) : Chip := (List.range 5).foldl (fun c cl => c.ratioCheck d cl) c

/-- A write of HUB_CORE_DIV.REQ: the fields of absent clusters ignore it (R41). -/
def Chip.coreDivReq (c : Chip) (d req : Nat) : Chip :=
  let new := (List.range 5).foldl (fun v cl =>
    if c.cluPresent d cl then setBits v (2 * cl) 2 (bits req (2 * cl) 2) else v) (c.get (Reg.HUB_CORE_DIV.REQ d))
  (c.put (Reg.HUB_CORE_DIV.REQ d) new).ratioCheckDie d

/-- The divider changes at its frame edge; a change that newer values ask for begins at once (R41). -/
def Chip.ratioDone (c : Chip) (d cl : Nat) : Chip :=
  if c.bitOf (Reg.HUB_CORE_DIV.BUSY d) cl then
    let t := SMap.getD c.clk.ratioTarget (5 * d + cl) 3
    let c := (c.putSub (Reg.HUB_CORE_DIV.CUR d) (2 * cl) 2 t).putBit (Reg.HUB_CORE_DIV.BUSY d) cl false
    ({ c with clk := { c.clk with ratioTarget := SMap.erase c.clk.ratioTarget (5 * d + cl) } }).ratioCheck d cl
  else c

/-- TIME stops: the running calibration window is discarded (R45, R49). -/
def Chip.timeStop (c : Chip) (cause : Nat) : Chip :=
  let c := c.put Reg.TIME_STATUS.VALID 0
  { c with clk := { c.clk with needRecon := true, atEdge := false, reconCause := cause, calOpen := false, calEdges := 0,
                               pendingLoad := none, stepBy := 0 } }

/-- Have the root synthesizer and every slave synthesizer that lost lock locked again (R42, R47)? -/
def Chip.relocked (c : Chip) : Bool :=
  c.on Reg.HUB_CLK_STATUS.ROOT_LOCK && (List.range 12).all (fun d => !bit c.clk.needLock d || c.bitOf Reg.HUB_CLK_STATUS.DIE_LOCK d)

/-- The root synthesizer locks; after a cold reset TIME counts from then on, otherwise it waits for its reconstruction
(R36, R45, R47). -/
def Chip.rootLock (c : Chip) : Chip :=
  let c := c.put Reg.HUB_CLK_STATUS.ROOT_LOCK 1
  if c.clk.needRecon then c else c.put Reg.TIME_STATUS.VALID 1

def execRootSynthLock (s : State) : Host.Outcome State Fault Refusal := s.runTime Chip.rootLock

/-- A die's slave synthesizer locks to the forwarded tick (R38). -/
def execDieSynthLock (d : Fin 12) (s : State) : Host.Outcome State Fault Refusal :=
  s.runTime (fun c => c.putBit Reg.HUB_CLK_STATUS.DIE_LOCK d.val true)

/-- A synthesizer loses lock while running: unit 12 is the root (R42). -/
def execLockLost (u : Fin 13) (s : State) : Host.Outcome State Fault Refusal :=
  s.runTime (fun c =>
    let running := if u.val = 12 then c.on Reg.HUB_CLK_STATUS.ROOT_LOCK else c.bitOf Reg.HUB_CLK_STATUS.DIE_LOCK u.val
    if running then
      let c := if u.val = 12 then c.put Reg.HUB_CLK_STATUS.ROOT_LOCK 0
               else { c.putBit Reg.HUB_CLK_STATUS.DIE_LOCK u.val false with
                 clk := { c.clk with needLock := setBits c.clk.needLock u.val 1 1 } }
      { c.timeStop 2 with fatalErr := true }.put Reg.HUB_CLK_STATUS.LOCK_LOST 1
    else c)

/-! ### The TIME counter -/

/-- What the tick that begins at an edge will add: the last of every 16 is the one that a slew changes (R43, R52). -/
def ClockSt.nextInc (k : ClockSt) : Nat :=
  if (k.phase + 1) % 16 = 15 then (match k.slew with | .none => 10 | .up => 11 | .down => 9) else 10

/-- TIME `k` VCO cycles after the last tick edge; while TIME is stopped it stands at the edge's value (R43, R45). -/
def Chip.timeAt (c : Chip) (k : Nat) : Nat :=
  if c.on Reg.TIME_STATUS.VALID then (c.time + k * c.clk.inc / 24) % 2 ^ 64 else c.time

/-- TIME as read k VCO cycles after the last tick edge, not before an earlier read (R43). -/
def Chip.timeRead (c : Chip) (k : Nat) : Nat × Chip :=
  let k := max (k % 24) c.clk.lastK
  (c.timeAt k, { c with clk := { c.clk with lastK := k } })

/-- TIME at a moment between two tick edges that the command does not name: the VCO cycle is a free value (log 68). -/
def Chip.timeNow (c : Chip) : Nat × Chip :=
  let f := c.fresh
  f.2.timeRead f.1

/-- Would a write of TIME_LOAD at the moment last read be accepted: it moves TIME forward, and this package is free or the root
(R46)? -/
def Chip.timeLoadOk (c : Chip) (v : Nat) : Bool :=
  decide (c.timeAt c.clk.lastK < v) && (c.get Reg.TIME_CL_STATUS.STATE == 0 || c.get Reg.TIME_CL_CTRL.ROOT == c.pkg)

/-- A write of TIME_LOAD (R46). -/
def Chip.timeLoad (c : Chip) (v : Nat) : Chip :=
  if c.timeLoadOk v then { c with clk := { c.clk with pendingLoad := some v } }
  else c.put Reg.TIME_STATUS.LOAD_REFUSED 1

/-- TIME has gone on by `d` units: each µs of it, 4,000 units, takes one from the running watchdog's REMAIN (R337). -/
def Chip.wdogTick (c : Chip) (d : Nat) : Chip :=
  if c.on Reg.SEC_WDOG_CTRL.EN then
    let u := c.sec.wdogMark + d
    ({ c with sec := { c.sec with wdogMark := u % 4000 } }).put Reg.SEC_WDOG_STATUS.REMAIN (c.get Reg.SEC_WDOG_STATUS.REMAIN - u / 4000)
  else c

/-- A TIME tick edge: an accepted load wins over a step or slew (R43, R46, R52); credits of energy come nearer (R433). DESIGN CHOICE
(log 11): a load that was greater than TIME when written is set also where TIME has passed it within the tick. -/
def Chip.timeTick (c : Chip) : Chip :=
  if c.on Reg.TIME_STATUS.VALID then
    let t := match c.clk.pendingLoad with
      | some v => v
      | none => c.time + c.clk.inc + c.clk.stepBy
    let d := t - c.time
    let c := c.put Reg.TIME_NOW.VALUE t
    ({ c with
        clk := { c.clk with pendingLoad := none, stepBy := 0, phase := (c.clk.phase + 1) % 16, inc := c.clk.nextInc, lastK := 0 },
        nrg := { c.nrg with due := c.nrg.due.map (fun (d : Credit) => { d with ticks := d.ticks - 1 }) } }).wdogTick d
  else c

def execTimeTick (s : State) : Host.Outcome State Fault Refusal := s.runTime Chip.timeTick

/-! ### The always-on timekeeper -/

/-- A crystal edge opens a calibration window of the current length, or ends one more period of the open one (R49). -/
def Chip.calEdge (c : Chip) : Chip :=
  { c with clk :=
      if c.clk.calOpen then { c.clk with calEdges := c.clk.calEdges + 1 }
      else { c.clk with calOpen := true, calEdges := 0, calLen := c.get Reg.TIME_AO_CAL.WINDOW_LOG2 } }

/-- A rising edge of the crystal: the count advances and, while TIME runs, TIME at the edge is latched and the calibration
window grows; while TIME waits for its reconstruction, the edge is one at which it may restart (R47, R49). -/
def Chip.crystalEdge (c : Chip) : Chip :=
  let c := c.addMod Reg.TIME_AO_COUNT.COUNT 1
  if c.on Reg.TIME_STATUS.VALID then
    let t := c.timeNow
    (t.2.puts [(Reg.TIME_AO_SNAP_TIME.TIME, t.1), (Reg.TIME_AO_SNAP_COUNT.COUNT, c.get Reg.TIME_AO_COUNT.COUNT)]).calEdge
  else { c with clk := { c.clk with atEdge := c.clk.needRecon && c.relocked } }

/-- The end of a complete calibration window: PERIOD takes the measured mean and a window of the current length begins
(R49). -/
def Chip.calWindowEnd (c : Chip) (period : Nat) : Chip :=
  if c.clk.calOpen && 2 ^ c.clk.calLen ≤ c.clk.calEdges && c.on Reg.TIME_STATUS.VALID then
    let c := c.puts [(Reg.TIME_AO_PERIOD.PERIOD, period), (Reg.TIME_AO_PERIOD.VALID, 1)]
    { c with clk := { c.clk with calEdges := 0, calLen := c.get Reg.TIME_AO_CAL.WINDOW_LOG2 } }
  else c

def execCalibrationWindowEnd (period : BitVec 49) (s : State) : Host.Outcome State Fault Refusal :=
  s.runTime (fun c => c.calWindowEnd period.toNat)

/-- The elapsed time of a stop in 0.25 ns units with 32 fraction bits (R47). -/
def reconElapsed (count snap period : Nat) : Nat := ((count + 2 ^ 48 - snap) % 2 ^ 48) * period

/-- The uncertainty of a reconstruction (R47). -/
def reconUncertainty (elapsed ppb : Nat) : Nat :=
  min ((elapsed * ppb + 10 ^ 9 * 2 ^ 32 - 1) / (10 ^ 9 * 2 ^ 32) + 2) 0xFFFFFFFF

/-- May TIME restart: it waits for its reconstruction, the synthesizers have relocked, a crystal edge has come, and after a lock
loss a warm reset has begun (R42, R47)? -/
def Chip.mayRestart (c : Chip) : Bool :=
  c.clk.needRecon && c.relocked && c.clk.atEdge && !(c.clk.reconCause == 2 && c.fatalErr)

/-- TIME restarts at a crystal edge with the reconstructed value; the watchdog restarts from PERIOD (R47, R338). A TIME_LOAD that
was accepted while TIME stood takes effect at the next tick only where TIME does not fall by it (R45, R46; log 11). DESIGN CHOICE
(log 11): the value is R47's also where a load or a step had set TIME further forward since the last crystal edge. -/
def Chip.timeRestart (c : Chip) : Chip :=
  if c.mayRestart then
    let e := reconElapsed (c.get Reg.TIME_AO_COUNT.COUNT) (c.get Reg.TIME_AO_SNAP_COUNT.COUNT) (c.get Reg.TIME_AO_PERIOD.PERIOD)
    let ppb := c.get Reg.TIME_AO_CAL.DRIFT_PPB + (if c.on Reg.TIME_AO_PERIOD.VALID then 1 else 100000)
    let last := reconUncertainty e ppb
    let c := c.puts [(Reg.TIME_NOW.VALUE, c.get Reg.TIME_AO_SNAP_TIME.TIME + (e + 2 ^ 31) / 2 ^ 32),
      (Reg.TIME_UNCERTAINTY.LAST, last),
      (Reg.TIME_UNCERTAINTY.ACCUM, min (c.get Reg.TIME_UNCERTAINTY.ACCUM + last) 0xFFFFFFFF),
      (Reg.TIME_STATUS.RECON, 1), (Reg.TIME_STATUS.CAUSE, c.clk.reconCause), (Reg.TIME_STATUS.VALID, 1),
      (Reg.SEC_WDOG_STATUS.REMAIN, if c.on Reg.SEC_WDOG_CTRL.EN then c.get Reg.SEC_WDOG_CTRL.PERIOD
        else c.get Reg.SEC_WDOG_STATUS.REMAIN)]
    let c := if c.on Reg.SEC_WDOG_CTRL.EN then c.put Reg.SEC_WDOG_STATUS.STAGE 0 else c
    { c with clk := { c.clk with needRecon := false, needLock := 0, atEdge := false, fresh := true, calOpen := true, calEdges := 0,
                                 lastK := 0, stepBy := 0, calLen := c.get Reg.TIME_AO_CAL.WINDOW_LOG2,
                                 pendingLoad := c.clk.pendingLoad.filter (fun v => decide (c.time < v)) },
             sec := { c.sec with wdogMark := 0 } }
  else c

def execTimeRestart (s : State) : Host.Outcome State Fault Refusal := s.run Chip.timeRestart

/-! ### Chainline -/

/-- State codes of TIME_CL_STATUS.STATE. -/
def clOff : Nat := 0
def clAcquire : Nat := 1
def clLocked : Nat := 2
def clHoldover : Nat := 3

/-- A port with nothing known of its far end. -/
def PortTime.none : PortTime := { t1 := [], rx := .none, sent := 0, hist := [], seen := false, pkg := 0, state := 0, hops := 0 }

def Chip.clPort (c : Chip) (p : Nat) : PortTime := SMap.getD c.clk.ports p PortTime.none

/-- Is port p trained with lane 0 in use (R52, R268)? A port in RETRAIN has not gone down (R275). -/
def Chip.clTrained (c : Chip) (p : Nat) : Bool :=
  (c.get (Reg.TDM_STATUS.STATE p) == 2 || c.get (Reg.TDM_STATUS.STATE p) == 3) && c.get (Reg.TDM_STATUS.UPPER p) == 0

/-- Is port p enabled in PORT_EN and trained with lane 0 in use (R51, R52, R268)? -/
def Chip.clUsable (c : Chip) (p : Nat) : Bool := c.bitOf Reg.TIME_CL_CTRL.PORT_EN p && c.clTrained p

/-- Can port p carry a symbol now: it is UP (R268)? -/
def Chip.clCarries (c : Chip) (p : Nat) : Bool := c.get (Reg.TDM_STATUS.STATE p) == 2 && c.get (Reg.TDM_STATUS.UPPER p) == 0

/-- The source by R52, or by R54 for a root whose TIME was just reconstructed: port and HOPS. -/
def Chip.clSource (c : Chip) : Option (Nat × Nat) :=
  let ports := (List.range 6).filter c.clUsable
  if c.get Reg.TIME_CL_CTRL.ROOT = c.pkg then
    (ports.find? (fun p => (c.clPort p).seen && ((c.clPort p).state == clLocked || (c.clPort p).state == clHoldover))).map
      (fun p => (p, 0))
  else
    match ports.find? (fun p => c.get (Reg.TDM_STATUS.PEER_SEEN p) == c.get Reg.TIME_CL_CTRL.ROOT) with
    | some p => some (p, 1)
    | none => (ports.find? (fun p => (c.clPort p).seen && (c.clPort p).state == clLocked && (c.clPort p).hops == 1)).map
        (fun p => (p, 2))

/-- The sum of the doubled offsets of the kept exchanges. -/
def PortTime.sum2 (p : PortTime) : Int := (p.hist.map (·.1)).foldl (· + ·) 0
def PortTime.delay2 (p : PortTime) : Int := (p.hist.map (·.2)).foldl (· + ·) 0

/-- The mean offset times 32: the sum of 16 doubled offsets (R51). -/
def PortTime.full (p : PortTime) : Bool := decide (p.hist.length = 16)

/-- Report a source in TIME_CL_STATUS. DESIGN CHOICE (log 69): without a source HOPS keeps its last value, for which the register's
description lists none. -/
def Chip.clReport (c : Chip) (src : Option (Nat × Nat)) : Chip :=
  match src with
  | some (p, h) => c.puts [(Reg.TIME_CL_STATUS.SRC_PORT, p), (Reg.TIME_CL_STATUS.HOPS, h)]
  | none => c.put Reg.TIME_CL_STATUS.SRC_PORT 7

/-- The root enters LOCKED with HOPS 0 (R53, R54). -/
def Chip.clRootLocked (c : Chip) : Chip :=
  let c := c.puts [(Reg.TIME_CL_STATUS.STATE, clLocked), (Reg.TIME_CL_STATUS.HOPS, 0), (Reg.TIME_CL_STATUS.SRC_PORT, 7)]
  { c with clk := { c.clk with fresh := false, slew := .none } }

/-- Slew against the source, whose mean offset times 32 is `m` in 1/16 units: down when ahead by more than 1/2 unit, up
only in LOCKED when behind by as much, ending within 1/4 unit (R52). -/
def Chip.clSlew (c : Chip) (m : Int) : Chip :=
  let st := c.get Reg.TIME_CL_STATUS.STATE
  let s := if m > 8 * 32 then Slew.down
    else if m < -(8 * 32) && st = clLocked then Slew.up
    else if -(4 * 32) ≤ m && m ≤ 4 * 32 then Slew.none
    else if (c.clk.slew = .up && (st ≠ clLocked || m > 0)) || (c.clk.slew = .down && m < 0) then Slew.none
    else c.clk.slew
  { c with clk := { c.clk with slew := s } }

/-- Apply the rules of R52 to R54 to the source's mean after an exchange. DESIGN CHOICE (log 70): OFFSET and DELAY report the mean
rounded toward minus infinity, and modulo their widths where it does not fit. -/
def Chip.clCorrect (c : Chip) (p : Nat) : Chip :=
  let pt := c.clPort p
  if pt.full then
    let m := pt.sum2
    let root := c.get Reg.TIME_CL_CTRL.ROOT == c.pkg
    let c := c.puts [(Reg.TIME_CL_STATUS.OFFSET, ofSigned 16 (m / 32)), (Reg.TIME_CL_STATUS.DELAY, ofSigned 24 (pt.delay2 / 32))]
    if c.get Reg.TIME_CL_STATUS.STATE = clAcquire then
      if -(16 * 32) ≤ m && m ≤ 16 * 32 then
        if root then c.clRootLocked.put Reg.TIME_CL_STATUS.ERR 0
        else
          let c := c.puts [(Reg.TIME_CL_STATUS.STATE, clLocked), (Reg.TIME_CL_STATUS.ERR, 0)]
          ({ c with clk := { c.clk with fresh := false } }).clSlew m
      else if m < 0 then
        { c with clk := { c.clk with stepBy := ((-m) / (16 * 32)).toNat, slew := .none,
                                     ports := SMap.set c.clk.ports p { pt with hist := [] } } }
      else c.clSlew m
    else if c.get Reg.TIME_CL_STATUS.STATE = clLocked && !root then
      let th : Int := c.get Reg.TIME_CL_CTRL.ERR_THRESH
      if m > th * 32 || m < -(th * 32) then
        let c := c.puts [(Reg.TIME_CL_STATUS.STATE, clAcquire), (Reg.TIME_CL_STATUS.ERR, 1)]
        ({ c with rawIrqs := c.rawIrqs + 1 }).clSlew m
      else c.clSlew m
    else c
  else c

/-- A package that is not the root and not LOCKED chooses its source: with one it is in ACQUIRE, without one its TIME runs free; a slew
goes on only against the source that it is against (R52, R53). -/
def Chip.clChoose (c : Chip) : Chip :=
  match c.clSource with
  | none => ({ c with clk := { c.clk with slew := .none } }).clReport none
  | some s =>
    let same := c.get Reg.TIME_CL_STATUS.SRC_PORT == s.1 && c.clk.slew != .up
    (({ c with clk := { c.clk with slew := if same then c.clk.slew else .none } }).put Reg.TIME_CL_STATUS.STATE clAcquire).clReport (some s)

/-- Choose the source again after a port or its far end changed: a LOCKED package that lost its source's port or LOCKED
state enters HOLDOVER, a HOLDOVER package with a source enters ACQUIRE, and a reconstructed root without a source locks at
once (R53, R54). DESIGN CHOICE (log 93): a LOCKED package keeps a source that stays usable and LOCKED, whichever R52 would name now. -/
def Chip.clRefresh (c : Chip) : Chip :=
  let st := c.get Reg.TIME_CL_STATUS.STATE
  let root := c.get Reg.TIME_CL_CTRL.ROOT == c.pkg
  if st = clOff then c
  else if root then
    if st = clAcquire then (match c.clSource with | none => c.clRootLocked | some s => c.clReport (some s)) else c
  else if st = clLocked then
    let p := c.get Reg.TIME_CL_STATUS.SRC_PORT
    if p < 6 && c.clUsable p && (!(c.clPort p).seen || (c.clPort p).state == clLocked) then c
    else (c.puts [(Reg.TIME_CL_STATUS.STATE, clHoldover), (Reg.TIME_CL_STATUS.SRC_PORT, 7)]).clChoose
  else c.clChoose

/-- TIME_CL_CTRL is written: EN moves Chainline out of OFF or back to it (R53, R54). DESIGN CHOICE (log 93): a write of 1 to an EN of 1
chooses the source again by the new ROOT and PORT_EN. -/
def Chip.chainlineCtrl (c : Chip) (wasOn : Bool) : Chip :=
  if c.on Reg.TIME_CL_CTRL.EN then
    if wasOn then c.clRefresh
    else if c.get Reg.TIME_CL_CTRL.ROOT = c.pkg then
      if c.clk.fresh then (c.put Reg.TIME_CL_STATUS.STATE clAcquire).clRefresh else c.clRootLocked
    else (c.put Reg.TIME_CL_STATUS.STATE clAcquire).clRefresh
  else
    let c := c.puts [(Reg.TIME_CL_STATUS.STATE, clOff), (Reg.TIME_CL_STATUS.SRC_PORT, 7), (Reg.TIME_CL_STATUS.HOPS, 0)]
    { c with clk := { c.clk with slew := .none, stepBy := 0, ports := [] } }

/-- This package's TIME in 1/16 units, `sub` sixteenths after the last tick edge. -/
def Chip.time16 (c : Chip) (sub : Nat) : Nat := (16 * c.time + sub) % 2 ^ 68

/-- A port sends an alignment symbol with the package's number, state, HOPS and transmit TIME, and the TIME at which the far end's
last symbol arrived; its transmit time starts an exchange (R51). A symbol's number says which one it is (log 70). -/
def Chip.alignSend (c : Chip) (p sub : Nat) : Chip :=
  if c.get Reg.TIME_CL_STATUS.STATE ≠ clOff && c.bitOf Reg.TIME_CL_CTRL.PORT_EN p && c.clCarries p then
    let pt := c.clPort p
    let y : AlignSym := { pkg := c.pkg, state := c.get Reg.TIME_CL_STATUS.STATE, hops := c.get Reg.TIME_CL_STATUS.HOPS,
                          t2 := pt.rx.map (·.2), t3 := c.time16 sub, seq := pt.sent, echo := (pt.rx.map (·.1)).getD 0 }
    { c with clk := { c.clk with ports := SMap.set c.clk.ports p { pt with t1 := SMap.set pt.t1 pt.sent (c.time16 sub), sent := pt.sent + 1 },
                                 sent := c.clk.sent ++ [(p, y)] } }
  else c

def execAlignmentSymbolSend (p : Fin 6) (sub : Nat) (s : State) : Host.Outcome State Fault Refusal :=
  s.run (fun c => c.alignSend p.val sub)

/-- Twice the offset and twice the delay of one exchange, in 1/16 units (R51). -/
def exchange (t1 t2 t3 t4 : Nat) (asym : Int) : Int × Int :=
  let d43 := toSigned 68 (t4 + 2 ^ 68 - t3 % 2 ^ 68)
  let d21 := toSigned 68 (t2 + 2 ^ 68 - t1 % 2 ^ 68)
  (d43 - d21 + asym, d21 + d43)

/-- When this port sent the symbol whose arrival a far end's symbol reports (R51). -/
def PortTime.t1Of (pt : PortTime) (y : AlignSym) : Option Nat := SMap.get? pt.t1 y.echo

/-- What a port keeps of a symbol that arrives: the far end's report, its time of arrival, and, where each end has received a symbol
of the other, one more exchange, of which 16 count (R51). -/
def PortTime.take (pt : PortTime) (y : AlignSym) (t4 : Nat) (asym : Int) : PortTime :=
  let h := match pt.t1Of y, y.t2 with
    | some t1, some t2 => (exchange t1 t2 y.t3 t4 asym :: pt.hist).take 16
    | _, _ => pt.hist
  { pt with rx := some (y.seq, t4), hist := h, t1 := if y.t2.isSome then pt.t1.filter (fun e => y.echo ≤ e.1) else pt.t1, seen := true, pkg := y.pkg % 8, state := y.state % 4, hops := y.hops % 4 }

/-- A symbol arrives: the exchange joins the port's last 16, and the source's mean corrects TIME (R51 to R54). While Chainline is
OFF here a far end's report is kept all the same, which R54 asks for when EN is written (log 10). -/
def Chip.alignReceive (c : Chip) (p : Nat) (y : AlignSym) (sub : Nat) : Chip :=
  if !c.clCarries p then c
  else
    let off := c.get Reg.TIME_CL_STATUS.STATE == clOff
    if off then
      let pt := { c.clPort p with seen := true, pkg := y.pkg % 8, state := y.state % 4, hops := y.hops % 4 }
      { c with clk := { c.clk with ports := SMap.set c.clk.ports p pt } }
    else if c.bitOf Reg.TIME_CL_CTRL.PORT_EN p then
      let pt := (c.clPort p).take y (c.time16 sub) (toSigned 16 (c.get (Reg.TIME_CL_ASYM.ASYM p)))
      let c := { c with clk := { c.clk with ports := SMap.set c.clk.ports p pt } }
      let c := (c.evHub (ugTdm p) 0xC3 1 evNone).clRefresh
      if c.get Reg.TIME_CL_STATUS.SRC_PORT = p then c.clCorrect p else c
    else c

def execAlignmentSymbolReceive (p : Fin 6) (sym : AlignSym) (sub : Nat) (s : State) : Host.Outcome State Fault Refusal :=
  s.run (fun c => c.alignReceive p.val sym sub)

end Sys2Proof.Machine
end

