-- ==== Sys2Proof/Machine/RegAccess.lean ====
section
/-! DEFINITION. Machine/RegAccess.lean: a register written and read by the access types of its fields (R15, R16, R19). -/
namespace Sys2Proof.Machine

/-- A field takes its part of a written register. -/
def Chip.storeFld (c : Chip) (locked : Bool) (off v : Nat) (f : Fld) : Chip :=
  let x := bits v (f.addr - 8 * off) f.width
  match f.acc with
  | .ro | .rc | .wo => c
  | .rw => if f.legal.ok x then c.put f (f.legal.cut x) else c
  | .rwl => if !locked && f.legal.ok x then c.put f (f.legal.cut x) else c
  | .rw1c => c.put f (c.get f - (c.get f &&& x))
  | .rws => if f.legal.ok x then { c with regs := c.regs.putShadow f (f.legal.cut x) } else c

/-- Is the lock bit of a register set (R16)? -/
def Chip.lockedBy (c : Chip) (l : Option Fld) : Bool :=
  match l with
  | some f => c.on f
  | none => false

/-- Every field takes its part; the lock is read before the write. -/
def Chip.storeReg (c : Chip) (r : Found) (off v : Nat) : Chip :=
  let locked := c.lockedBy r.lock
  r.flds.foldl (fun c f => c.storeFld locked off v f) c

/-- A write by access types alone, at an offset of the CSR space; ignored at a reserved one (R15). -/
def Chip.storeAt (c : Chip) (off v : Nat) : Chip :=
  match findReg Reg.blocks off with
  | some r => c.storeReg r off v
  | none => c

/-- Can a write take effect on some field: is one of them writable and not locked (R15, R16, R344)? -/
def Chip.writable (c : Chip) (off : Nat) : Bool :=
  match findReg Reg.blocks off with
  | some r =>
    let locked := c.lockedBy r.lock
    r.flds.any (fun f => match f.acc with
      | .ro | .rc => false
      | .rwl => !locked
      | .rw | .rw1c | .wo | .rws => true)
  | none => false

/-- The register's value as software reads it: WO fields read 0, reserved bits 0 (R15, R16). -/
def Chip.readVal (c : Chip) (r : Found) (off : Nat) : Nat :=
  r.flds.foldl (fun v f => match f.acc with
    | .wo => v
    | .ro | .rc | .rw | .rwl | .rw1c | .rws => v + c.get f <<< (f.addr - 8 * off)) 0

/-- The RC fields of a register clear when it is read (R16). -/
def Chip.clearRc (c : Chip) (r : Found) : Chip :=
  r.flds.foldl (fun c f => match f.acc with
    | .rc => c.put f 0
    | .ro | .rw | .rwl | .rw1c | .rws | .wo => c) c

/-- A software read by access types alone: the value, and the package after it. -/
def Chip.loadAt (c : Chip) (off : Nat) : Nat × Chip :=
  match findReg Reg.blocks off with
  | some r => (c.readVal r off, c.clearRc r)
  | none => (0, c)

/-- Commit every RWS field of a register: the active value takes the shadow (R362, R363). -/
def Chip.commitReg (c : Chip) (off : Nat) : Chip :=
  match findReg Reg.blocks off with
  | some r => r.flds.foldl (fun c f => match f.acc with
      | .rws => c.put f (c.regs.getShadow f)
      | .ro | .rw | .rwl | .rw1c | .rc | .wo => c) c
  | none => c

/-- Copy the active values of a register's RWS fields to their shadows (R364). -/
def Chip.shadowReg (c : Chip) (off : Nat) : Chip :=
  match findReg Reg.blocks off with
  | some r => r.flds.foldl (fun c f => match f.acc with
      | .rws => { c with regs := c.regs.putShadow f (c.get f) }
      | .ro | .rw | .rwl | .rw1c | .rc | .wo => c) c
  | none => c

end Sys2Proof.Machine
end

