-- ==== Sys2Proof/Machine/Chan.lean ====
section
/-! DEFINITION. Machine/Chan.lean: the 24 channel controllers: their queues and scheduler, refresh, channel states,
self-refresh, alerts and the training helpers (spec/08, R204 to R222). -/
namespace Sys2Proof.Machine

/-- A controller's hidden state. -/
def Chip.mcOf (c : Chip) (ch : Nat) : McSt := SMap.getD c.mc ch McSt.init
def Chip.mcSet (c : Chip) (ch : Nat) (m : McSt) : Chip := { c with mc := SMap.put c.mc McSt.init ch m }
def Chip.mcMod (c : Chip) (ch : Nat) (f : McSt → McSt) : Chip := c.mcSet ch (f (c.mcOf ch))

/-- Channel states (MC_STATUS.STATE). -/
def mcOff : Nat := 0
def mcTraining : Nat := 1
def mcReady : Nat := 2
def mcSelfRefresh : Nat := 3
def mcFailed : Nat := 4

def Chip.mcState (c : Chip) (ch : Nat) : Nat := c.get (Reg.MC_STATUS.STATE ch)

/-- MC_IRQ (R217). -/
def Chip.mcIrq (c : Chip) (ch : Nat) : Chip := c.irqReg (Reg.MC_IRQ.AGENT ch) (Reg.MC_IRQ.VEC ch) (Reg.MC_IRQ.EN ch)

/-- Queue occupancies and write drain (R209). -/
def Chip.mcSync (c : Chip) (ch : Nat) : Chip :=
  let m := c.mcOf ch
  let n := m.wq.length
  let c := c.puts [(Reg.MC_STATUS.RQ ch, m.rq.length), (Reg.MC_STATUS.WQ ch, n)]
  if c.get (Reg.MC_SCHED.WQ_HI ch) ≤ n then c.put (Reg.MC_STATUS.DRAIN ch) 1
  else if n ≤ c.get (Reg.MC_SCHED.WQ_LO ch) then c.put (Reg.MC_STATUS.DRAIN ch) 0
  else c

/-! ### Line mapping (R204) -/

def lineSub (l : Nat) : Nat := l % 2
def lineCol (l : Nat) : Nat := bits l 1 7 * 16
def lineBank (l : Nat) : Nat := bits l 11 2
def lineRank (rb l : Nat) : Nat := bits l 13 rb
def lineRow (rb l : Nat) : Nat := l >>> (13 + rb)
def lineGroup (rb l : Nat) : Nat := bits l 8 3 ^^^ bits (lineRow rb l) 0 3

/-- Number of a line's bank, and of its rank, in the controller's tables. -/
def bankKey (rb l : Nat) : Nat := ((lineSub l * 8 + lineRank rb l) * 8 + lineGroup rb l) * 4 + lineBank l
def rankKey (rb l : Nat) : Nat := lineSub l * 8 + lineRank rb l

/-! ### Requests -/

/-- The newest stored form of a channel line: a write on its way, in the write queue, or the array (R206). -/
def Chip.mcView (c : Chip) (ch line : Nat) : Raw :=
  let m := c.mcOf ch
  let hit := fun (l : List McReq) => (l.filterMap (fun r => if r.line = line then r.write else none)).getLast?
  match hit m.inq with
  | some r => r
  | none =>
    match hit m.wq with
    | some r => r
    | none => c.dramRaw ch line

/-- Does a request at this channel complete as a bus error (R212, R406)? -/
def Chip.mcDead (c : Chip) (ch : Nat) : Bool :=
  let s := c.mcState ch
  s == mcOff || s == mcTraining || s == mcFailed || (s == mcSelfRefresh && (c.mcOf ch).exitFail)
    || c.bitOf Reg.PWR_GATED.GATED (12 + ch)

/-- Can the channel serve: READY, or asleep only until a request comes (R212, R215)? -/
def Chip.mcServes (c : Chip) (ch : Nat) : Bool :=
  !c.bitOf Reg.PWR_GATED.GATED (12 + ch) && (c.mcState ch == mcReady || (c.mcState ch == mcSelfRefresh && (c.mcOf ch).idleSr))

/-- A request joins the hub's path to a controller (R205); `wline`: the line whose write it belongs to. -/
def Chip.mcSend (c : Chip) (ch line agent tenant job : Nat) (write : Option Raw) (wline : Option Nat := none) (master : Nat := 0) : Chip :=
  ({ c with pg := { c.pg with sent := c.pg.sent + 1 } } : Chip).mcMod ch (fun m => { m with
    seq := m.seq + 1
    inq := m.inq ++ [⟨line, agent, tenant, job, master, write, m.ck, m.seq, none, c.pg.sent, wline⟩] })

/-- A slot reaches the Page Guard job that wants it; none marks a slot that could not be read (R232). -/
def Chip.slotFor (c : Chip) (job ch line : Nat) (r : Option Raw) : Chip :=
  { c with pg := { c.pg with jobs := c.pg.jobs.map (fun j =>
      if j.id = job then { j with got := SMap.set j.got (ch * 2 ^ 34 + line) r } else j) } }

/-- Start a self-refresh entry or exit (R214, R215). -/
def Chip.srStart (c : Chip) (ch : Nat) (exit idle forced : Bool) : Chip :=
  if (c.mcOf ch).sr.isSome then c
  else if (if exit then c.mcState ch == mcSelfRefresh else c.mcState ch == mcReady) then
    c.mcMod ch (fun m => { m with sr := some ⟨exit, 1, idle, forced, false⟩ })
  else c

/-- Have two requests one source: the pair of their agent and tenant IDs (R205)? -/
def McReq.sameSource (r q : McReq) : Bool := r.agent == q.agent && r.tenant % 4096 == q.tenant % 4096

/-- Requests on the hub's path that no earlier one of their source or of their line holds up (R206, R207). -/
def McSt.inFirst (m : McSt) : List McReq :=
  (m.inq.zipIdx.filter (fun p => !(m.inq.take p.2).any (fun q => q.sameSource p.1 || q.line == p.1.line))).map (·.1)

/-- The front request of the hub's path is a read, and reaches the controller (R206, R212, R215). -/
def Chip.mcRead (c : Chip) (ch : Nat) : Chip :=
  let m := c.mcOf ch
  match m.inq with
  | [] => c
  | r :: rest =>
    if r.write.isSome then c
    else if c.mcDead ch then
      ((c.mcSet ch { m with inq := rest }).count (Reg.MC_ERR_CNT.RD ch) 1).slotFor r.job ch r.line none
    else if c.mcState ch != mcReady then (if m.idleSr then c.srStart ch true false false else c)
    else if (match m.sr with | some s => !s.exit | none => false) then c
    else if 64 ≤ m.rq.length then c
    else
      let fwd := (m.wq.filterMap (fun w => if w.line = r.line then w.write else none)).getLast?
      (c.mcSet ch { m with inq := rest, rq := m.rq ++ [{ r with enter := m.ck, data := fwd }] }).mcSync ch

/-- The front request is a write: accepted into the write queue, replacing a queued write of its line (R206). It waits until
the earlier reads of its source have returned, so that acceptances keep arrival order (R207). -/
def Chip.mcWriteReq (c : Chip) (ch : Nat) : Chip :=
  let m := c.mcOf ch
  match m.inq with
  | [] => c
  | r :: rest =>
    if r.write.isNone then c
    else if c.mcDead ch then (c.mcSet ch { m with inq := rest }).count (Reg.MC_ERR_CNT.WR ch) 1
    else if c.mcState ch != mcReady then (if m.idleSr then c.srStart ch true false false else c)
    else if (match m.sr with | some s => !s.exit | none => false) || m.rq.any (fun q => q.sameSource r) then c
    else if m.wq.any (fun w => w.line == r.line) then
      c.mcSet ch { m with inq := rest, wq := m.wq.map (fun w => if w.line = r.line then { w with write := r.write } else w) }
    else if 48 ≤ m.wq.length then c
    else (c.mcSet ch { m with inq := rest, wq := m.wq ++ [{ r with enter := m.ck }] }).mcSync ch

/-- Read data returns: the oldest read whose data has come and whose source has no earlier read (R207). -/
def Chip.mcReadData (c : Chip) (ch : Nat) : Chip :=
  let m := c.mcOf ch
  match m.rq.find? (fun r => r.data.isSome && !m.rq.any (fun q => q.seq < r.seq && q.sameSource r)) with
  | none => c
  | some r =>
    ((c.mcSet ch { m with rq := m.rq.filter (fun q => q.seq != r.seq) }).mcSync ch).slotFor r.job ch r.line r.data

def execMcReadData (ch : Fin 24) (s : State) : Host.Outcome State Fault Refusal := s.run (fun c => c.mcReadData ch)

/-! ### Scheduling (R208) -/

/-- A bank's record; a closed bank that no command has touched. -/
def McSt.bank (m : McSt) (k : Nat) : McBank := SMap.getD m.banks k ⟨none, 0, 0, 0, 0, 0⟩

/-- The next command a request needs: 0 activate, 1 precharge, 2 read or write. -/
def McSt.nextCmd (m : McSt) (rb : Nat) (r : McReq) : Nat :=
  match (m.bank (bankKey rb r.line)).row with
  | none => 0
  | some row => if row = lineRow rb r.line then 2 else 1

/-- Data beats of a BL16 burst, and the least gap between bursts to different bank groups, in CK cycles. -/
def burstCk : Nat := 8

/-- Is cycle `ck` at least `n` cycles after `t` (a time of 0 means never)? -/
def after (ck t n : Nat) : Bool := t == 0 || decide (t + n ≤ ck)

/-- The first cycle that is at least `n` after `t` (a time of 0 means never). -/
def from_ (t n : Nat) : Nat := if t = 0 then 0 else t + n

/-- The first CK cycle at which a bank may be precharged: after its activate, its last read and its last write (R208). -/
def Chip.preFrom (c : Chip) (ch : Nat) (b : McBank) : Nat :=
  max (from_ b.actAt (c.get (Reg.MC_TIMING0.RAS ch))) (max (from_ b.rdAt (c.get (Reg.MC_TIMING0.RTP ch)))
    (from_ b.wrAt (c.get (Reg.MC_TIMING0.CWL ch) + burstCk + c.get (Reg.MC_TIMING0.WR ch))))

/-- May a bank be precharged at CK cycle ck? -/
def Chip.preLegal (c : Chip) (ch : Nat) (b : McBank) (ck : Nat) : Bool := decide (c.preFrom ch b ≤ ck)

/-- Is a request's next command legal at CK cycle ck (R208; log 21 for the parameters' family meaning)? -/
def Chip.mcLegal (c : Chip) (ch : Nat) (r : McReq) (ck : Nat) : Bool :=
  let m := c.mcOf ch
  let rb := c.mcRb ch
  let k := bankKey rb r.line
  let b := m.bank k
  let g := lineGroup rb r.line
  let t0 := fun (f : Nat → Fld) => c.get (f ch)
  let free := SMap.getD m.refUntil (lineRank rb r.line) 0 ≤ ck && !m.refBurst.contains (lineRank rb r.line)
  free && match m.nextCmd rb r with
  | 0 =>
    let acts := SMap.getD m.acts (rankKey rb r.line) []
    after ck b.preAt (t0 Reg.MC_TIMING0.RP) && after ck b.actAt (t0 Reg.MC_TIMING0.RC)
      && after ck ((acts.head?).getD 0) (t0 Reg.MC_TIMING1.RRD_S)
      && after ck ((List.range 4).foldl (fun v i => max v ((m.bank (rankKey rb r.line * 32 + g * 4 + i)).actAt)) 0)
          (t0 Reg.MC_TIMING1.RRD_L)
      && after ck ((acts[3]?).getD 0) (t0 Reg.MC_TIMING1.FAW)
  | 1 => c.preLegal ch b ck
  | _ =>
    after ck b.actAt (t0 Reg.MC_TIMING0.RCD) && (List.range 8).all (fun h =>
      let (rd, wr) := SMap.getD m.lastCmd (lineSub r.line * 8 + h) (0, 0)
      let gap := if h = g then max burstCk (t0 Reg.MC_TIMING1.CCD_L) else burstCk
      after ck rd gap && after ck wr gap &&
        (if r.write.isSome then after ck rd (t0 Reg.MC_TIMING0.CL - t0 Reg.MC_TIMING0.CWL + burstCk + 2)
         else after ck wr (t0 Reg.MC_TIMING0.CWL + burstCk
          + (if h = g then t0 Reg.MC_TIMING1.WTR_L else t0 Reg.MC_TIMING1.WTR_S))))

/-- The oldest request of a list: the first of those that entered their queue earliest. -/
def oldest : List McReq → Option McReq
  | [] => none
  | r :: l => match oldest l with
    | none => some r
    | some q => if q.enter < r.enter then some q else some r

/-- The scheduler's choice among the candidates (R208). -/
def Chip.mcPick (c : Chip) (ch : Nat) (cand : List McReq) (ck : Nat) : Option McReq :=
  let m := c.mcOf ch
  let cap := c.get (Reg.MC_SCHED.AGE_CAP ch)
  let old := if cap = 0 then [] else cand.filter (fun r => decide (cap ≤ (ck - r.enter) / 2))
  match oldest old with
  | some r => some r
  | none =>
    let pool := cand.filter (fun r => r.write.isSome == c.on (Reg.MC_STATUS.DRAIN ch))
    let pool := if pool.isEmpty then cand else pool
    match oldest (pool.filter (fun r => m.nextCmd (c.mcRb ch) r == 2)) with
    | some r => some r
    | none => oldest pool

/-- The tenant that a memory request carries, with 4,096 added where its world is Secure; and the event of one (R335, R423). -/
def tenantKey (tenant : Nat) (secure : Bool) : Nat := tenant + 4096 * b2n secure
def evKey (k : Nat) : EvKey := evOf (k % 4096) (k / 4096 == 1)

/-- An event of a channel, with its model energy, for a request. -/
def Chip.mcNote (c : Chip) (ch ev : Nat) (nrg : Option Nat) (r : McReq) : Chip :=
  let c := c.evHub (ugMc ch) ev 1 (evKey r.tenant)
  match nrg with
  | some k => c.nrgEv domMem k (c.keyOf r.agent (r.tenant % 4096)) 1
  | none => c

/-- Issue the next command of a request: activate, precharge, or the data burst. A burst of a row that has had one since it was
activated is a row hit. -/
def Chip.mcIssue (c : Chip) (ch : Nat) (r : McReq) (ck : Nat) : Chip :=
  let m := c.mcOf ch
  let rb := c.mcRb ch
  let k := bankKey rb r.line
  let b := m.bank k
  match m.nextCmd rb r with
  | 0 =>
    let acts := SMap.getD m.acts (rankKey rb r.line) []
    (c.mcSet ch { m with
      banks := SMap.set m.banks k { b with row := some (lineRow rb r.line), actAt := ck, hitAt := ck }
      acts := SMap.set m.acts (rankKey rb r.line) ((ck :: acts).take 4) }).mcNote ch 0x83 none r
  | 1 => c.mcSet ch { m with banks := SMap.set m.banks k { b with row := none, preAt := ck } }
  | _ =>
    let g := lineSub r.line * 8 + lineGroup rb r.line
    let (rd, wr) := SMap.getD m.lastCmd g (0, 0)
    let last := SMap.set m.lastCmd g (if r.write.isSome then (rd, ck) else (ck, wr))
    let c := if b.actAt < b.hitAt then c.mcNote ch 0x82 none r else c
    match r.write with
    | some d =>
      (((c.mcSet ch { m with
        banks := SMap.set m.banks k { b with wrAt := ck, hitAt := ck }
        lastCmd := last
        wq := m.wq.filter (fun q => q.seq != r.seq) }).dramPut ch r.line d).mcNote ch 0x81 (some 14) r).mcSync ch
    | none =>
      (c.mcSet ch { m with
        banks := SMap.set m.banks k { b with rdAt := ck, hitAt := ck }
        lastCmd := last
        rq := m.rq.map (fun q => if q.seq = r.seq then { q with data := some (c.dramRaw ch r.line) } else q) }).mcNote ch 0x80 (some 13) r

/-- Requests that the scheduler may serve: after an alert, only the first in order of those that are issued again (R216). -/
def McSt.redoOr (m : McSt) (reqs : List McReq) : List McReq :=
  match oldest (reqs.filter (fun r => m.redo.contains r.seq)) with
  | some r => [r]
  | none => reqs

/-- Cycles of a channel's clock that pass: events 0x01, 0x85 (the read queue's occupancy in each) and 0x86 (R423). -/
def Chip.mcCycles (c : Chip) (ch n : Nat) : Chip :=
  let c := (c.evHub (ugMc ch) 0x01 n evNone).evHub (ugMc ch) 0x85 ((c.mcOf ch).rq.length * n) evNone
  if c.on (Reg.MC_STATUS.DRAIN ch) then c.evHub (ugMc ch) 0x86 n evNone else c

/-- The CK cycle of a subchannel's next command, asked for cycle ck: time does not go back, and a cycle has one command (R208). -/
def McSt.cycle (m : McSt) (sub ck : Nat) : Nat := max (max ck m.ck) (from_ (SMap.getD m.subCk sub 0) 1)

/-- A subchannel has had a command at cycle ck. -/
def McSt.took (m : McSt) (sub ck : Nat) : McSt := { m with ck := ck, subCk := SMap.set m.subCk sub ck, refAt := m.refAt.filter (fun x => decide (ck ≤ x)) }

/-- One DRAM CK cycle of a subchannel: at most one command, and none beside a refresh (R208). DESIGN CHOICE (log 84): of a read and a write
that entered their queues in one cycle the read counts as the older. -/
def Chip.mcCommand (c : Chip) (ch sub ck : Nat) : Chip :=
  let m := c.mcOf ch
  let ck := m.cycle sub ck
  let c := (c.mcCycles ch (ck - m.ck)).mcSet ch { m with ck := ck }
  if c.mcState ch != mcReady || m.refAt.contains ck then c
  else
    let reqs := (m.redoOr (m.rq.filter (fun r => r.data.isNone) ++ m.wq)).filter (fun r => lineSub r.line == sub)
    match c.mcPick ch (reqs.filter (fun r => c.mcLegal ch r ck)) ck with
    | some r => (c.mcIssue ch r ck).mcMod ch (fun m => m.took sub ck)
    | none => c

def execDramCommandIssue (ch : Fin 24) (sub : Fin 2) (ck : Nat) (s : State) : Host.Outcome State Fault Refusal :=
  s.run (fun c => c.mcCommand ch sub ck)

/-- Close a row that no queued request has hit for CLOSE_IDLE MC cycles, once its precharge is legal (R208). -/
def Chip.mcCloseIdle (c : Chip) (ch bank ck : Nat) : Chip :=
  let m := c.mcOf ch
  let ck := m.cycle (bank / 256) ck
  let b := m.bank bank
  let idle := c.get (Reg.MC_SCHED.CLOSE_IDLE ch)
  let wanted := (m.rq.filter (fun r => r.data.isNone) ++ m.wq).any (fun r =>
    bankKey (c.mcRb ch) r.line == bank && b.row == some (lineRow (c.mcRb ch) r.line))
  if idle = 0 || b.row.isNone || wanted || ck < b.hitAt + 2 * idle || !c.preLegal ch b ck || m.refAt.contains ck then c
  else c.mcSet ch ({ m with banks := SMap.set m.banks bank { b with row := none, preAt := ck } }.took (bank / 256) ck)

def execRowCloseIdle (ch : Fin 24) (bank : Fin 512) (ck : Nat) (s : State) : Host.Outcome State Fault Refusal :=
  s.run (fun c => c.mcCloseIdle ch bank ck)

/-! ### Refresh (R210, R211) -/

def Chip.mcOwed (c : Chip) (ch r : Nat) : Nat := bits (c.get (Reg.MC_REF_STATUS.OWED ch)) (4 * r) 4
def Chip.mcSetOwed (c : Chip) (ch r v : Nat) : Chip := c.putSub (Reg.MC_REF_STATUS.OWED ch) (4 * r) 4 v

/-- Does a queued request target a rank? -/
def Chip.mcTargets (c : Chip) (ch r : Nat) : Bool :=
  let m := c.mcOf ch
  (m.rq.filter (fun q => q.data.isNone) ++ m.wq).any (fun q => lineRank (c.mcRb ch) q.line == r)

/-- Is a bank's key one of a rank, or of any? -/
def rankBank (rank : Option Nat) (k : Nat) : Bool := match rank with | some r => k / 32 % 8 == r | none => true

/-- Precharge the open banks of a rank, or of every rank, at a cycle. -/
def McSt.closeBanks (m : McSt) (rank : Option Nat) (ck : Nat) : McSt :=
  { m with banks := m.banks.map (fun p => if rankBank rank p.1 && p.2.row.isSome then (p.1, { p.2 with row := none, preAt := ck }) else p) }

/-- The first cycle at which the open banks of a rank, or of every rank, may be precharged in one command of each subchannel (R208). -/
def Chip.preAll (c : Chip) (ch : Nat) (rank : Option Nat) : Nat :=
  let m := c.mcOf ch
  let free := max (m.cycle 0 m.ck) (m.cycle 1 m.ck)
  m.banks.foldl (fun t p => if rankBank rank p.1 && p.2.row.isSome then max t (c.preFrom ch p.2) else t) free

/-- Issue n refreshes to a rank: its open banks are precharged once that is legal, the first refresh follows RP after the rank's last
precharge, and the rank is busy for n × RFC, after what already holds it (R208, R211). -/
def Chip.mcRefresh (c : Chip) (ch r n : Nat) : Chip :=
  let m := c.mcOf ch
  let open_ := m.banks.any (fun p => rankBank (some r) p.1 && p.2.row.isSome)
  let pre := c.preAll ch (some r)
  let m := if open_ then m.closeBanks (some r) pre else m
  let rfc := c.get (Reg.MC_TIMING1.RFC ch)
  let rp := m.banks.foldl (fun t p => if rankBank (some r) p.1 then max t (from_ p.2.preAt (c.get (Reg.MC_TIMING0.RP ch))) else t) 0
  let at_ := max (max (max (m.cycle 0 m.ck) (m.cycle 1 m.ck)) rp) (SMap.getD m.refUntil r 0)
  (c.evHub (ugMc ch) 0x84 n evNone).mcSet ch { m with
    refUntil := SMap.set m.refUntil r (at_ + n * rfc)
    refAt := m.refAt ++ (if open_ then [pre] else []) ++ (List.range n).map (fun i => at_ + i * rfc) }

/-- A refresh of rank r falls due; during a burst it is appended to it (R211). -/
def Chip.mcRefreshDue (c : Chip) (ch r : Nat) : Chip :=
  if c.mcState ch != mcReady || 2 ^ c.mcRb ch ≤ r then c
  else
    let owed := c.mcOwed ch r
    if (c.mcOf ch).refBurst.contains r then (c.mcRefresh ch r 1).mcSetOwed ch r (min 15 (owed + 1))
    else if !c.mcTargets ch r then c.mcRefresh ch r 1
    else if owed < c.get (Reg.MC_REF_POSTPONE_MAX.MAX ch) then c.mcSetOwed ch r (owed + 1)
    else
      let c := (c.mcRefresh ch r 1).count (Reg.MC_REF_STATUS.FORCED ch) 1
      c.mcMod ch (fun m => { m with forced := SMap.set m.forced r (SMap.getD m.refUntil r 0) })

def execRefreshDue (ch : Fin 24) (r : Fin 8) (s : State) : Host.Outcome State Fault Refusal :=
  s.run (fun c => c.mcRefreshDue ch r)

/-- A make-up burst begins, or the running one ends (R211; log 22). -/
def Chip.mcBurst (c : Chip) (ch r : Nat) : Chip :=
  if c.mcState ch != mcReady then c
  else if (c.mcOf ch).refBurst.contains r then
    (c.mcMod ch (fun m => { m with refBurst := m.refBurst.filter (· != r), refKeep := SMap.erase m.refKeep r })).mcSetOwed ch r
      (SMap.getD (c.mcOf ch).refKeep r 0)
  else if 0 < c.mcOwed ch r && !c.mcTargets ch r then
    ((c.mcRefresh ch r (c.mcOwed ch r)).mcMod ch (fun m => { m with refBurst := r :: m.refBurst })).count
      (Reg.MC_REF_STATUS.BURSTS ch) 1
  else c

def execRefreshBurst (ch : Fin 24) (r : Fin 8) (s : State) : Host.Outcome State Fault Refusal :=
  s.run (fun c => c.mcBurst ch r)

/-- The devices' temperature status is read: `hot` names the ranks that ask for twice the rate (R210). -/
def Chip.mcMr4 (c : Chip) (ch hot : Nat) : Chip :=
  if c.mcState ch == mcReady then c.mcMod ch (fun m => { m with fast := hot }) else c

def execMr4Poll (ch : Fin 24) (hot : BitVec 8) (s : State) : Host.Outcome State Fault Refusal :=
  s.run (fun c => c.mcMr4 ch hot.toNat)

/-- MC_REF_POSTPONE_MAX is written: ranks that owe more issue the excess at once as a burst, which joins one that already runs; a
make-up burst that runs issues all that is owed (R211). -/
def Chip.mcPostponeMax (c : Chip) (ch v : Nat) : Chip :=
  let c := c.storeAt (0xC3000038 + 0x10000 * ch) v
  let mx := c.get (Reg.MC_REF_POSTPONE_MAX.MAX ch)
  if c.mcState ch != mcReady then c
  else
    (List.range 8).foldl (fun c r =>
      let o := c.mcOwed ch r
      let m := c.mcOf ch
      if o ≤ mx then c
      else if m.refBurst.contains r && (SMap.get? m.refKeep r).isNone then c.mcSetOwed ch r mx
      else
        (((c.mcRefresh ch r (o - mx)).mcSetOwed ch r mx).mcMod ch (fun m =>
          { m with refBurst := r :: m.refBurst.filter (· != r), refKeep := SMap.set m.refKeep r mx })).count (Reg.MC_REF_STATUS.BURSTS ch)
            (if m.refBurst.contains r then 0 else 1)) c

/-! ### Channel states (R212) -/

/-- Queued reads complete with poison and queued writes are discarded. -/
def Chip.mcFlushDead (c : Chip) (ch : Nat) : Chip :=
  let m := c.mcOf ch
  let c := c.mcSet ch { m with rq := [], wq := [] }
  let c := (c.count (Reg.MC_ERR_CNT.RD ch) m.rq.length).count (Reg.MC_ERR_CNT.WR ch) m.wq.length
  (m.rq.foldl (fun c r => c.slotFor r.job ch r.line none) c).mcSync ch

/-- The channel's DRAM contents are lost: the array reads as unwritten memory (R212; log 20). -/
def Chip.dramLose (c : Chip) (ch : Nat) : Chip :=
  { c with dram := c.dram.filter (fun p => p.1 / 2 ^ 40 != ch), dramChk := c.dramChk.filter (fun p => p.1 / 2 ^ 40 != ch) }

/-- MC_CMD.INIT: initialisation starts or restarts, and what ran in the channel ends (R212, R221). -/
def Chip.mcInit (c : Chip) (ch : Nat) : Chip :=
  let s := c.mcState ch
  if (s == mcOff && c.on (Reg.MC_CFG.LOCK ch)) || s == mcTraining || s == mcFailed then
    let c := if s == mcFailed then c.dramLose ch else c
    (c.puts [(Reg.MC_STATUS.STATE ch, mcTraining), (Reg.MC_MR_RESULT1.BUSY ch, 0), (Reg.MC_TRN_STATUS.BUSY ch, 0)]).mcMod ch (fun m =>
      { m with banks := [], acts := [], lastCmd := [], refUntil := [], refBurst := [], refKeep := [], redo := [], sr := none, idleSr := false, exitFail := false,
               alerts := [], trn := none, mrCmd := none, fast := 0 })
  else c

/-- MC_CMD.READY. A helper run that is still active ends without DONE: the helpers act only in TRAINING (R212, R218; log 85). -/
def Chip.mcReadyCmd (c : Chip) (ch : Nat) : Chip :=
  if c.mcState ch == mcTraining then
    (c.mcMod ch (fun m => { m with trn := none })).puts
      [(Reg.MC_STATUS.STATE ch, mcReady), (Reg.MC_REF_STATUS.OWED ch, 0), (Reg.MC_TRN_STATUS.BUSY ch, 0)]
  else c

/-- MC_CMD is written: INIT, READY, SR_ENTER, SR_EXIT, lowest bit first (R212). -/
def Chip.mcCmd (c : Chip) (ch v : Nat) : Chip :=
  let c := if bit v 0 then c.mcInit ch else c
  let c := if bit v 1 then c.mcReadyCmd ch else c
  let c := if bit v 2 then c.srStart ch false false false else c
  if bit v 3 then
    if c.mcState ch == mcSelfRefresh then
      (c.mcMod ch (fun m => { m with exitFail := false })).srStart ch true false false
    else c
  else c

/-- The idle timer: SR_IDLE µs with both queues empty (R212). -/
def Chip.mcSrIdle (c : Chip) (ch : Nat) : Chip :=
  let m := c.mcOf ch
  if c.get (Reg.MC_PWR.SR_IDLE ch) != 0 && m.rq.isEmpty && m.wq.isEmpty && m.inq.isEmpty then c.srStart ch false true false else c

def execSrIdleTimeout (ch : Fin 24) (s : State) : Host.Outcome State Fault Refusal := s.run (fun c => c.mcSrIdle ch)

/-- Refreshes of a rank that no burst has issued yet: all it owes, or what stays owed beside a burst that runs (R211). -/
def Chip.mcUnpaid (c : Chip) (ch r : Nat) : Nat :=
  let m := c.mcOf ch
  if m.refBurst.contains r then SMap.getD m.refKeep r 0 else c.mcOwed ch r

/-- Every owed refresh is issued and every bank precharged. -/
def Chip.mcPayOwed (c : Chip) (ch : Nat) : Chip :=
  let c := (List.range 8).foldl (fun (c : Chip) r => if c.mcUnpaid ch r = 0 then c else c.mcRefresh ch r (c.mcUnpaid ch r)) c
  let pre := c.preAll ch none
  (c.put (Reg.MC_REF_STATUS.OWED ch) 0).mcMod ch (fun m => { m.closeBanks none pre with refBurst := [], refKeep := [] })

/-- An exit completes: one refresh per rank, and requests are accepted (R215 step 4). -/
def Chip.srExited (c : Chip) (ch : Nat) : Chip :=
  let c := (List.range (2 ^ c.mcRb ch)).foldl (fun (c : Chip) r => c.mcRefresh ch r 1) c
  (c.mcMod ch (fun m => { m with sr := none, idleSr := false, exitFail := false })).puts
    [(Reg.MC_STATUS.STATE ch, mcReady), (Reg.MC_REF_STATUS.OWED ch, 0)]

/-- A sequence fails at a step: MC_SR_STATUS records it and the message goes (R214, R215, R217). -/
def Chip.srFail (c : Chip) (ch step : Nat) (exit : Bool) : Chip :=
  (c.puts [(Reg.MC_SR_STATUS.FAIL ch, 1), (Reg.MC_SR_STATUS.STEP ch, step), (Reg.MC_SR_STATUS.DIR ch, b2n exit)]).mcIrq ch

/-- A self-refresh step's ready condition is met (R214, R215). -/
def Chip.srStepReady (c : Chip) (ch : Nat) : Chip :=
  let m := c.mcOf ch
  match m.sr with
  | none => c
  | some q =>
    let go := fun (c : Chip) => c.mcMod ch (fun m => { m with sr := some { q with step := q.step + 1 } })
    if !q.exit then
      if q.step = 1 then (if m.rq.isEmpty && m.wq.isEmpty then go c else c)
      else if q.step = 2 then
        let c := c.mcPayOwed ch
        if q.failed then c.mcMod ch (fun m => { m with sr := none }) else go c
      else
        ((c.mcMod ch (fun m => { m with sr := none, idleSr := q.idle, exitFail := false })).put (Reg.MC_STATUS.STATE ch)
          mcSelfRefresh).count (Reg.MC_SR_STATUS.ENTRIES ch) 1
    else if q.step < 4 then go c
    else c.srExited ch

def execSrStepReady (ch : Fin 24) (s : State) : Host.Outcome State Fault Refusal := s.run (fun c => c.srStepReady ch)

/-- A self-refresh step times out: the channel stays SELF_REFRESH, or READY once steps 1 and 2 have completed, and FAIL is set
(R214, R215, R217). -/
def Chip.srTimeout (c : Chip) (ch : Nat) : Chip :=
  let m := c.mcOf ch
  match m.sr with
  | none => c
  | some q =>
    if q.failed then c
    else
      (c.mcSet ch { m with
        sr := if q.exit || 2 < q.step then none else some { q with failed := true }
        exitFail := q.exit || m.exitFail
        idleSr := m.idleSr && !q.exit }).srFail ch (q.step - 1) q.exit

/-- A parity alert, also of a command of a self-refresh exit: the banks close, and the requests not completed are issued again in their
order (R216, R217; log 84). -/
def Chip.mcAlert (c : Chip) (ch : Nat) : Chip :=
  let s := c.mcState ch
  if s != mcReady && s != mcTraining && s != mcSelfRefresh then c
  else
    let now := c.time
    let c := (c.count (Reg.MC_ALERT.COUNT ch) 1).mcMod ch (fun m =>
      { m.closeBanks none m.ck with
        alerts := (m.alerts.filter (fun t => now < t + 4000000)) ++ [now]
        redo := (m.rq.filter (fun r => r.data.isNone) ++ m.wq).map (·.seq) })
    let c := c.mcIrq ch
    if s == mcReady && decide (c.get (Reg.MC_ALERT.LIMIT ch) < (c.mcOf ch).alerts.length) then
      (((c.put (Reg.MC_STATUS.STATE ch) mcFailed).mcMod ch (fun m => { m with sr := none })).mcFlushDead ch).mcIrq ch
    else c

def execMcAlert (ch : Fin 24) (s : State) : Host.Outcome State Fault Refusal := s.run (fun c => c.mcAlert ch)

/-- MC_CFG is written; a LOCK of 1 succeeds only under R222, and CAP then reports the capacity that R28 uses
(R203; log 25). DESIGN CHOICE (log 94): BAD of an earlier attempt stays set when a later one succeeds. -/
def Chip.mcCfg (c : Chip) (ch v : Nat) : Chip :=
  let off := 0xC3000008 + 0x10000 * ch
  if c.on (Reg.MC_CFG.LOCK ch) then c.storeAt off v
  else
    let c := c.storeAt off (v - (bits v 8 1 <<< 8))
    if !bit v 8 then c
    else
      let times := [Reg.MC_TIMING0.CL, Reg.MC_TIMING0.CWL, Reg.MC_TIMING0.RCD, Reg.MC_TIMING0.RP, Reg.MC_TIMING0.RAS, Reg.MC_TIMING0.RC,
        Reg.MC_TIMING0.WR, Reg.MC_TIMING0.RTP, Reg.MC_TIMING1.RRD_S, Reg.MC_TIMING1.RRD_L, Reg.MC_TIMING1.FAW, Reg.MC_TIMING1.CCD_L,
        Reg.MC_TIMING1.WTR_S, Reg.MC_TIMING1.WTR_L, Reg.MC_TIMING1.RFC, Reg.MC_REF_CTRL.TREFI]
      let ok := times.all (fun f => c.get (f ch) != 0) && (!c.on (Reg.MC_CFG.STACK ch) || c.on (Reg.MC_CFG.DENSITY ch))
      if ok then
        let c := c.put (Reg.MC_CFG.LOCK ch) 1
        c.put (Reg.MC_STATUS.CAP ch) (c.mcCap ch / 2 ^ 34)
      else c.put (Reg.MC_CFG.BAD ch) 1

/-- MC_SCHED is written, or left unchanged when its watermarks are inconsistent (R209). -/
def Chip.mcSched (c : Chip) (ch v : Nat) : Chip :=
  if bits v 24 6 < bits v 16 6 && bits v 16 6 ≤ 48 then (c.storeAt (0xC3000028 + 0x10000 * ch) v).mcSync ch else c

/-! ### Mode register commands and training (R218 to R221) -/

/-- MC_MR_CMD is written: ignored while a command runs (R221). -/
def Chip.mcMrCmd (c : Chip) (ch v : Nat) : Chip :=
  let op := bits v 0 3
  if c.on (Reg.MC_MR_RESULT1.BUSY ch) || op = 0 || 4 < op then c
  else
    let key := op * 2 ^ 16 + bits v 3 4 * 2 ^ 8 + bits v 8 8
    (c.mcMod ch (fun m => { m with
      mrCmd := some v
      modeRegs := if op = 2 then m.modeRegs else SMap.set m.modeRegs key (bits v 16 8) })).put (Reg.MC_MR_RESULT1.BUSY ch) 1

/-- The command completes; a read returns what the ten devices answered (R221). -/
def Chip.mcMrDone (c : Chip) (ch res : Nat) : Chip :=
  match (c.mcOf ch).mrCmd with
  | none => c
  | some v =>
    let c := (c.mcMod ch (fun m => { m with mrCmd := none })).put (Reg.MC_MR_RESULT1.BUSY ch) 0
    if bits v 0 3 = 2 then c.puts [(Reg.MC_MR_RESULT0.DEV ch, bits res 0 64), (Reg.MC_MR_RESULT1.DEV ch, bits res 64 16)] else c

def execMrCmdDone (ch : Fin 24) (res : BitVec 80) (s : State) : Host.Outcome State Fault Refusal :=
  s.run (fun c => c.mcMrDone ch res.toNat)

/-- One step of the PRBS31 register, x^31 + x^28 + 1. -/
def prbsStep (r : Nat) : Nat := (2 * r + (bits r 30 1 ^^^ bits r 27 1)) % 2 ^ 31

/-- `n` steps. -/
def prbsRun : Nat → Nat → Nat
  | 0, r => r
  | n + 1, r => prbsRun n (prbsStep r)

/-- Bits that channel lane k drives in the 16 beats of burst b (R219). -/
def Chip.trnLane (c : Chip) (ch k b : Nat) : Nat :=
  let seed := c.get (Reg.MC_TRN_PAT.SEED ch)
  let kind := c.get (Reg.MC_TRN_PAT.KIND ch)
  let sub := c.get (Reg.MC_TRN_CTRL.SUBCH ch)
  let sel := sub == 2 || sub == k / 40
  let base := (List.range 16).foldl (fun v t =>
    let i := (seed % 128 + 16 * b + t) % 80
    let x :=
      if kind = 0 then bit seed (k % 32)
      else if kind = 1 then bit (prbsRun (16 * b + t + k) (seed % 2 ^ 31)) 30
      else if kind = 2 then i == k && sel
      else !(i == k && sel)
    v + b2n x <<< t) 0
  if c.on (Reg.MC_TRN_PAT.INV ch) && k % 2 = 1 then 0xFFFF - base else base

/-- Lines of burst b of a helper run, one for each selected subchannel: consecutive lines of the rank that RANK names, past a
row of every bank on to the next row (R219; log 23). -/
def Chip.trnLines (c : Chip) (ch b : Nat) : List Nat :=
  let rb := c.mcRb ch
  let l0 := c.get (Reg.MC_TRN_ADDR.ADDR ch)
  let i := lineRow rb l0 * 4096 + bits l0 1 12 + b
  let sub := c.get (Reg.MC_TRN_CTRL.SUBCH ch)
  let at_ := fun s => ((i / 4096 <<< rb) + c.get (Reg.MC_TRN_CTRL.RANK ch) % 2 ^ rb) * 8192 + i % 4096 * 2 + s
  if sub = 2 then [at_ 0, at_ 1] else [at_ (sub % 2)]

/-- Write burst b's pattern into the array. -/
def Chip.trnWriteBurst (c : Chip) (ch b : Nat) : Chip :=
  (c.trnLines ch b).foldl (fun c l => c.dramPut ch l (rawOfLanes (fun k => c.trnLane ch (40 * lineSub l + k) b))) c

/-- Lanes whose stored bits differ from the pattern in burst b. -/
def Chip.trnBad (c : Chip) (ch b : Nat) : List Nat :=
  (c.trnLines ch b).flatMap (fun l =>
    let r := c.dramRaw ch l
    ((List.range 40).filter (fun k => r.lane k != c.trnLane ch (40 * lineSub l + k) b)).map (· + 40 * lineSub l))

/-- MC_TRN_CTRL is written: a GO starts a run or is refused (R218). DESIGN CHOICE (log 94): the other fields of a refused GO's write are not
stored, and a write without GO while a run is active changes nothing. -/
def Chip.trnCtrl (c : Chip) (ch v : Nat) : Chip :=
  let busy := c.on (Reg.MC_TRN_STATUS.BUSY ch)
  let go := bit v 63
  if go && (busy || c.mcState ch != mcTraining) then
    c.put (Reg.MC_TRN_STATUS.REFUSED ch) 1
  else
    let c := if busy then c else c.storeAt (0xC3000100 + 0x10000 * ch) v
    let op := c.get (Reg.MC_TRN_CTRL.OP ch)
    if go && op != 0 then
      let c := (c.mcMod ch (fun m => { m with trn := some op })).puts
        [(Reg.MC_TRN_STATUS.BUSY ch, 1), (Reg.MC_TRN_STATUS.DONE ch, 0), (Reg.MC_TRN_STATUS.ERR ch, 0)]
      (List.range 80).foldl (fun c k => c.puts [(Reg.MC_TRN_RESULT.FOUND ch k, 0), (Reg.MC_TRN_RESULT.ERRS ch k, 0)]) c
    else c

/-- Record n errors of a lane (R219). -/
def Chip.trnErr (c : Chip) (ch k n : Nat) : Chip :=
  if n = 0 then c
  else
    let c := if k < 64 then c.putBit (Reg.MC_TRN_ERR0.LANE ch) k true else c.putBit (Reg.MC_TRN_ERR1.LANE ch) (k - 64) true
    (c.count (Reg.MC_TRN_RESULT.ERRS ch k) n).put (Reg.MC_TRN_STATUS.ERR ch) 1

/-- The steps of a sweep (R220). -/
def sweepSteps : Nat → Nat → Nat → Nat → List Nat
  | 0, _, _, _ => []
  | n + 1, s, stop, step => if stop < s || step = 0 then [] else s :: sweepSteps n (s + step) stop step

/-- First and last step of the first passing run (R220). -/
def sweepWindow (pass : Nat → Bool) (step : Nat) : List Nat → Option (Nat × Nat) → Option (Nat × Nat)
  | [], w => w
  | s :: ss, w =>
    if pass s then
      match w with
      | none => sweepWindow pass step ss (some (s, s))
      | some (f, l) => sweepWindow pass step ss (if l + step = s then some (f, s) else some (f, l))
    else sweepWindow pass step ss w

/-- The steps of the sweep that MC_TRN_SWEEP sets up. -/
def Chip.trnSteps (c : Chip) (ch : Nat) : List Nat :=
  sweepSteps 1024 (c.get (Reg.MC_TRN_SWEEP.START ch)) (c.get (Reg.MC_TRN_SWEEP.STOP ch)) (c.get (Reg.MC_TRN_SWEEP.STEP ch))

/-- Record a lane's window: `fail` holds the steps that it failed (R220). -/
def Chip.trnSweepLane (c : Chip) (ch k : Nat) (fail : List Nat) : Chip :=
  let target := c.get (Reg.MC_TRN_SWEEP.TARGET ch)
  match sweepWindow (fun s => !fail.contains s) (c.get (Reg.MC_TRN_SWEEP.STEP ch)) (c.trnSteps ch) none with
  | none => c
  | some (f, l) =>
    let c := c.puts [(Reg.MC_TRN_RESULT.FIRST ch k, f), (Reg.MC_TRN_RESULT.FOUND ch k, 1)]
    if target = 5 then c else c.put (Reg.MC_TRN_RESULT.LAST ch k) l

/-- A sweep's results for lane k: every mismatch of its runs counts as in any run, and the window is recorded. `errs` holds a
pair (lane, step) for each mismatch on the wires; in write leveling that pair is a strobe feedback of 0, and (lane, 1024 + step)
a mismatch. `stored` is the number of stored bursts that a read-only run finds different (R219, R220; log 23). -/
def Chip.trnSweepOf (c : Chip) (ch : Nat) (errs : List (Nat × Nat)) (k stored : Nat) : Chip :=
  let steps := c.trnSteps ch
  let base := if c.get (Reg.MC_TRN_SWEEP.TARGET ch) = 5 then 1024 else 0
  let own := (errs.filter (fun e => e.1 == k)).map (·.2)
  let c := c.trnErr ch k ((own.filter (fun s => base ≤ s && steps.contains (s - base))).length + steps.length * stored)
  c.trnSweepLane ch k (if stored = 0 then own else steps)

/-- A helper run ends: `errs` gives a lane's number of errors on the wires, or, for a sweep, its mismatches (R219, R220). -/
def Chip.trnDone (c : Chip) (ch : Nat) (errs : List (Nat × Nat)) : Chip :=
  match (c.mcOf ch).trn with
  | none => c
  | some op =>
    let bursts := List.range (c.get (Reg.MC_TRN_CTRL.BURSTS ch))
    let sub := c.get (Reg.MC_TRN_CTRL.SUBCH ch)
    let target := c.get (Reg.MC_TRN_SWEEP.TARGET ch)
    let per := if op = 4 && target = 3 then 8 else 40
    let lanes := (List.range (2 * per)).filter (fun k => sub == 2 || sub == k / per)
    let reads := op = 2 || (op = 4 && (target = 1 || target = 4))
    let c := if op = 1 || op = 3 || (op = 4 && !reads) then bursts.foldl (fun c b => c.trnWriteBurst ch b) c else c
    let bad := if reads || op = 3 then bursts.flatMap (fun b => c.trnBad ch b) else []
    let stored := fun k => (bad.filter (· == k)).length
    let c :=
      if op = 2 || op = 3 then
        lanes.foldl (fun c k => c.trnErr ch k (((errs.find? (fun e => e.1 == k)).map (·.2)).getD 0 + stored k)) c
      else if op = 4 then lanes.foldl (fun c k => c.trnSweepOf ch errs k (stored k)) c
      else c
    (c.mcMod ch (fun m => { m with trn := none })).puts [(Reg.MC_TRN_STATUS.BUSY ch, 0), (Reg.MC_TRN_STATUS.DONE ch, 1)]

def execTrnDone (ch : Fin 24) (errs : List (Nat × Nat)) (s : State) : Host.Outcome State Fault Refusal :=
  s.run (fun c => c.trnDone ch errs)

/-- A write to a register of channel ch that does more than store (offset in the block). -/
def Chip.mcWrite (c : Chip) (ch off v : Nat) : Chip :=
  if off = 0x008 then c.mcCfg ch v
  else if off = 0x028 then c.mcSched ch v
  else if off = 0x038 then c.mcPostponeMax ch v
  else if off = 0x050 then c.mcCmd ch v
  else if off = 0x060 then c.mcMrCmd ch v
  else if off = 0x100 then c.trnCtrl ch v
  else c.storeAt (0xC3000000 + 0x10000 * ch + off) v

end Sys2Proof.Machine
end

