-- ==== Sys2Proof/Machine/PageGuard.lean ====
section
/-! DEFINITION. Machine/PageGuard.lean: the Page Guard engine: regions and carve-outs, reading and writing a line with its codes,
the check cache, rebuild, scrub, fault injection, and the Yarrow forms of a written block (spec/09, R227 to R251). -/
namespace Sys2Proof.Machine

/-- A region that covers a window offset: its first and last GiB, corrections T and check block size B (R227, R229). -/
structure PgRgn where
  base : Nat
  size : Nat
  t : Nat
  blk : Nat
  deriving DecidableEq, Repr

def Chip.pgRgnN (c : Chip) (n : Nat) : PgRgn :=
  let t := c.get (Reg.PG_RGN.T n)
  ⟨c.get (Reg.PG_RGN.BASE n), c.get (Reg.PG_RGN.SIZE n), 8 * 2 ^ t, if t < 2 then 64 else if t = 2 then 128 else 256⟩

def PgRgn.carveBase (r : PgRgn) : Nat := (r.base + r.size) * 2 ^ 30 - r.size * r.blk * 2 ^ 30 / 4096

/-- The enabled region that contains a window offset. -/
def Chip.pgRgnOf (c : Chip) (off : Nat) : Option PgRgn :=
  ((List.range 16).find? (fun n =>
    let r := c.pgRgnN n
    c.on (Reg.PG_RGN.EN n) && decide (r.base * 2 ^ 30 ≤ off) && decide (off < (r.base + r.size) * 2 ^ 30))).map c.pgRgnN

/-- Is a window offset in a carve-out (R229, R230)? -/
def Chip.isCarve (c : Chip) (off : Nat) : Bool :=
  match c.pgRgnOf off with
  | some r => decide (r.carveBase ≤ off)
  | none => false

/-- The region of a data page, by window line. -/
def Chip.pgDataRgn (c : Chip) (wl : Nat) : Option PgRgn :=
  match c.pgRgnOf (64 * wl) with
  | some r => if r.carveBase ≤ 64 * wl then none else some r
  | none => none

/-- Window lines of a page's check block (R229). -/
def PgRgn.chkLines (r : PgRgn) (wl : Nat) : List Nat :=
  let a := r.carveBase + (wl / 64 - r.base * 2 ^ 18) * r.blk
  (List.range (r.blk / 64)).map (fun i => a / 64 + i)

/-- A PA line number of this package from a window line, and back. -/
def Chip.paLine (c : Chip) (wl : Nat) : Nat := c.pkg * 2 ^ 38 + wl
def winLine (line : Nat) : Nat := line % 2 ^ 38

/-! ### The error log (R232, R238, R240) -/

def Chip.pgLog (c : Chip) (kind line syms erased : Nat) : Chip :=
  if c.on Reg.PG_ERR_LOG.VALID then c
  else
    let ch := ((c.chanOfLine line).map (·.1)).getD 0
    let c := c.puts [(Reg.PG_ERR_LOG.ADDR, line), (Reg.PG_ERR_LOG.CH, ch), (Reg.PG_ERR_LOG.KIND, kind), (Reg.PG_ERR_LOG.VALID, 1),
      (Reg.PG_ERR_LOG1.SYMBOLS, syms), (Reg.PG_ERR_LOG1.ERASED, erased)]
    if !c.on Reg.PG_ERR_IRQ.UNCORR_ONLY || kind = 1 || kind = 3 || kind = 4 || kind = 6 then
      c.irqReg Reg.PG_ERR_IRQ.AGENT Reg.PG_ERR_IRQ.VEC Reg.PG_ERR_IRQ.EN
    else c

/-- A refused access to a carve-out (R230). -/
def Chip.carveRefuse (c : Chip) (line : Nat) : Chip := (c.count Reg.PG_ERR_CNT1.CARVE 1).pgLog 5 line 0 0

/-! ### Reading -/

/-- A computation over stored slots: a result, or the window lines that it must read first. -/
inductive PgRes (α : Type) where
  | need (ls : List Nat)
  | ok (a : α)
  deriving DecidableEq, Repr

/-- How a slot is had: none while it is not read, some none when its channel cannot give it (R232). -/
abbrev Fetch := Nat → Option (Option Raw)

/-- The slots asked for, or those that are missing. -/
def fetchAll (f : Fetch) (ls : List Nat) : PgRes (List (Option Raw)) :=
  let miss := ls.filter (fun l => (f l).isNone)
  if miss.isEmpty then .ok (ls.map (fun l => (f l).getD none)) else .need miss

/-- Form of a slot; one that cannot be had is unclassified. -/
def formOf (r : Option Raw) (slot : Nat) : Form := match r with | some r => r.form slot false | none => .bad
def flagsOf (r : Option Raw) (f : Form) : List Nat := match r with | some r => r.flags f | none => List.range 64
def dataOf (r : Option Raw) : Line := match r with | some r => r.data | none => 0#512

/-- What a page decode gives: the corrected data of its 64 slots and its check bytes, and the numbers of symbols corrected
and erased (R232, R233). -/
structure PageFix where
  lines : List Line
  chk : List Nat
  syms : Nat
  erased : Nat
  /-- slots with a corrected symbol -/
  touched : List Nat
  deriving DecidableEq, Repr

/-- Check symbols of a page's data (R228). -/
def pageChk (t : Nat) (ls : List Line) : List Nat :=
  gf16.checks (2 * t) (ls.flatMap (fun l => (List.range 32).map (fun i => lineGet l (2 * i) 2)))

/-- Check lines from check symbols: block bytes beyond 4T are zero (R229). -/
def chkLinesOf (r : PgRgn) (syms : List Nat) : List Line :=
  linesOf (r.blk / 64) (syms.flatMap (fun s => toBytes 2 s) ++ List.replicate (r.blk - 2 * syms.length) 0)

/-- Symbols of a page's codeword that hold a flagged byte, of the check block and of the slots (R232 step 4). -/
def pageEras (r : PgRgn) (slots chk : List (Line × List Nat)) : List Nat :=
  let n := 2 * r.t
  (chk.zipIdx.flatMap (fun c => c.1.2.map (fun j => (64 * c.2 + j) / 2))).eraseDups.filter (fun p => p < n)
    ++ slots.zipIdx.flatMap (fun s => ((s.1.2.map (· / 2)).eraseDups).map (fun i => n + 32 * s.2 + i))

/-- Decode a page from its 64 slots and its check lines, each with its flagged bytes (R232, R233). -/
def pageDecode (r : PgRgn) (slots chk : List (Line × List Nat)) : Option PageFix :=
  let n := 2 * r.t
  let chkB := chk.flatMap (fun c => toBytes 64 c.1.toNat)
  let ps := (List.range n).map (fun s => ofBytes ((chkB.drop (2 * s)).take 2))
  let ds := slots.flatMap (fun s => (List.range 32).map (fun i => lineGet s.1 (2 * i) 2))
  let era := pageEras r slots chk
  match gf16.decode n (ps ++ ds) era with
  | none => none
  | some fix =>
    let w := fix.foldl (fun l e => l.modify e.1 (· ^^^ e.2)) (ps ++ ds)
    some ⟨linesOf 64 ((w.drop n).flatMap (fun s => toBytes 2 s)), w.take n, fix.length, era.length,
      (fix.filterMap (fun e => if n ≤ e.1 then some ((e.1 - n) / 32) else none)).eraseDups⟩

/-- The check line as the check cache or DRAM gives it, with its flagged bytes. -/
def chkRaw (r : Option Raw) : Line × List Nat :=
  match r with
  | some r => (r.data, r.flags .plain)
  | none => (0#512, List.range 64)

/-- The whole page of a line: its slots, how many symbols are erased, and the decode (R232 step 4). -/
def pageOf (f : Fetch) (r : PgRgn) (wl : Nat) : PgRes (List (Option Raw) × Nat × Option PageFix) :=
  let base := wl / 64 * 64
  match fetchAll f ((List.range 64).map (base + ·) ++ r.chkLines wl) with
  | .need l => .need l
  | .ok rs =>
    let sl := (rs.take 64).zipIdx.map (fun p => (dataOf p.1, flagsOf p.1 (formOf p.1 (p.2 % 4))))
    let ck := (rs.drop 64).map chkRaw
    .ok (rs.take 64, (pageEras r sl ck).length, pageDecode r sl ck)

/-- A line as read: its data, how it came (plain read, corrected, or lost), counts for the log, its decoded block where it is
tagged, its slot's form and proper stored form, the stored slots M of its block (R246), and whether the page was decoded and whether
the block may be kept. -/
structure PgRead where
  ld : LD
  corr : Bool
  lost : Bool
  tagBad : Nat
  syms : Nat
  erased : Nat
  block : Option (List Line)
  form : Form
  raw : Option Raw
  m : Nat
  decoded : Bool
  keep : Bool
  deriving DecidableEq, Repr

/-- A line that cannot be had: after a page decode with so many erased symbols, or with none. -/
def PgRead.none (tagBad erased : Nat) (decoded : Bool) : PgRead :=
  ⟨LD.bad, false, true, tagBad, 0, erased, Option.none, .bad, Option.none, 4, decoded, false⟩

/-- A line had without a page decode: of a plain block, or with its decoded block and that block's M. -/
def PgRead.had (ld : LD) (form : Form) (raw : Raw) : PgRead := ⟨ld, false, false, 0, 0, 0, Option.none, form, some raw, 4, false, false⟩
def PgRead.hadOf (b : List Line) (k m : Nat) (form : Form) (raw : Raw) (keep : Bool) : PgRead :=
  ⟨⟨(b[k]?).getD 0#512, false⟩, false, false, 0, 0, 0, some b, form, some raw, m, false, keep⟩

def PgRead.isTagged (r : PgRead) : Bool := match r.form with | .tagged _ _ _ => true | .plain | .poison | .bad => false

/-- The stored slots of the block that slot k's tag, or for a moved slot slot 0's, points to: the mode and the slots, of which one may be
unclassified but none of another form (R232 step 2, R249). None where there is no such block. -/
def blockOf (f : Fetch) (k : Nat) : PgRes (Option (Nat × List (Option Raw))) :=
  let use := fun (mode mm1 : Nat) =>
    match fetchAll f (List.range (mm1 + 1)) with
    | .need l => .need l
    | .ok sl =>
      if sl.zipIdx.all (fun p => formOf p.1 p.2 == .bad || formOf p.1 p.2 == .tagged mode p.2 mm1) then .ok (some (mode, sl)) else .ok none
  match fetchAll f [k] with
  | .need l => .need l
  | .ok rs =>
    match formOf (rs.head?.getD none) k with
    | .tagged 0 _ _ =>
      match fetchAll f [0] with
      | .need l => .need l
      | .ok r0 => match formOf (r0.head?.getD none) 0 with
        | .tagged 0 _ _ | .plain | .poison | .bad => .ok none
        | .tagged m _ mm1 => use m mm1
    | .tagged mode _ mm1 => use mode mm1
    | .plain | .poison | .bad => .ok none

/-- Line k of a block whose slots' data a page decode has corrected, by the slot's form and for a moved slot slot 0's (R232 step 5): poison,
plain data, or a decoded block and its M. -/
def readForms (rs : List Raw) (k : Nat) : Option (LD × Option (List Line) × Nat) :=
  let form := fun (i : Nat) => formOf rs[i]? i
  let dec := fun (mode mm1 : Nat) =>
    let b := blockDecode mode ((rs.take (mm1 + 1)).map (·.data))
    some ((⟨(b[k]?).getD 0#512, false⟩ : LD), some b, mm1 + 1)
  match form k with
  | .plain => some (⟨dataOf rs[k]?, false⟩, none, 4)
  | .poison => some (LD.bad, none, 4)
  | .bad => none
  | .tagged 0 _ _ => match form 0 with
    | .tagged 0 _ _ | .plain | .poison | .bad => none
    | .tagged m _ mm1 => dec m mm1
  | .tagged m _ mm1 => dec m mm1

/-- Slots of line wl's block after a page decode, with their stored check bits. -/
def PageFix.block (fx : PageFix) (rs : List (Option Raw)) (wl : Nat) : List Raw :=
  (List.range 4).map (fun i =>
    let n := wl / 4 * 4 % 64 + i
    Raw.mk ((fx.lines[n]?).getD 0#512) (match (rs[n]?).getD none with | some r => r.chk | none => 0#128))

/-- Read a line through a decode of its page (R232 steps 4 to 6). -/
def Chip.pgReadFull (c : Chip) (f : Fetch) (wl tagBad : Nat) : PgRes PgRead :=
  match c.pgDataRgn wl with
  | none => .ok (.none tagBad 0 false)
  | some r =>
    match pageOf f r wl with
    | .need l => .need l
    | .ok (_, n, none) => .ok (.none tagBad n true)
    | .ok (rs, n, some fx) =>
      let raws := fx.block rs wl
      let lost := { PgRead.none tagBad n true with syms := fx.syms }
      if ((rs[wl % 64]?).getD none).isNone then .ok lost
      else
        match readForms raws (wl % 4), raws[wl % 4]? with
        | some (ld, blk, m), some q =>
          .ok ⟨ld, true, false, tagBad, fx.syms, n, blk, q.form (wl % 4) false, q.mend (wl % 4), m, true, false⟩
        | _, _ => .ok lost

/-- Flagged bytes of a block's stored slots, numbered through the slots. -/
def blockFlags (sl : List (Option Raw)) : List Nat := sl.zipIdx.flatMap (fun p => (flagsOf p.1 (formOf p.1 p.2)).map (64 * p.2 + ·))

/-- Read a line (R232): `whole` where every byte of its block's stored slots counts, as for a write's old content (R236). -/
def Chip.pgReadC (c : Chip) (f : Fetch) (wl : Nat) (whole : Bool) : PgRes PgRead :=
  let k := wl % 4
  let b0 := wl / 4 * 4
  match f wl with
  | none => .need [wl]
  | some none => c.pgReadFull f wl 0
  | some (some r) =>
    match r.form k false with
    | .plain => if (r.flags .plain).isEmpty then .ok (.had ⟨r.data, false⟩ .plain r) else c.pgReadFull f wl 0
    | .poison => .ok (.had LD.bad .poison rawPoison)
    | .bad => c.pgReadFull f wl (b2n (r.tagBad k))
    | .tagged mode s mm1 =>
      match blockOf (fun i => f (b0 + i)) k with
      | .need ns => .need (ns.map (b0 + ·))
      | .ok none => c.pgReadFull f wl 0
      | .ok (some (m, sl)) =>
        let ds := sl.map dataOf
        let flagged := blockFlags sl
        if flagged.any (fun b => whole || needByte m ds k b) then c.pgReadFull f wl 0
        else .ok (.hadOf (blockDecode m ds) k sl.length (.tagged mode s mm1) (rawTagged r.data mode s mm1) flagged.isEmpty)

/-- An event of the engine with its model energy, for a transaction's agent and tenant key. -/
def Chip.pgNote (c : Chip) (ev nrg : Nat) (k : Nat × Nat) : Chip :=
  (c.evHub ugPg ev 1 (evKey k.2)).nrgEv domMem nrg (c.keyOf k.1 (k.2 % 4096)) 1

/-! ### The check cache and the decoded-block buffer -/

/-- The check cache's copy of a check line. -/
def Chip.chkFind (c : Chip) (wl : Nat) : Option ChkLine :=
  (c.pg.chk.find? (fun p => p.2.1 == wl)).map (fun p => p.2.2)

/-- A slot write leaves the engine for its channel, corrupted if the armed injection matches (R243). -/
def Chip.pgEmit (c : Chip) (wl : Nat) (r : Raw) (isChk : Bool) (agent tenant : Nat) (wline : Option Nat := none) : Chip :=
  match c.channelOf (64 * wl) with
  | none => c
  | some (ch, ca) =>
    let hit := c.on Reg.PG_FLIP_MASK.ARM && c.get Reg.PG_FLIP_MASK.CH == ch && c.on Reg.PG_FLIP_MASK.TARGET == isChk
    let r := if hit then r.flip (c.get Reg.PG_FLIP_MASK.LANES) (c.get Reg.PG_FLIP_MASK.BEATS) else r
    let c := if hit then c.puts [(Reg.PG_FLIP_MASK.ARM, 0), (Reg.PG_FLIP_STATUS.FIRED, 1), (Reg.PG_FLIP_STATUS.ADDR, c.paLine wl)] else c
    c.mcSend ch (ca / 64) (if isChk then hubAgent c.pkg (ch / 16) (ch % 16) else agent) (if isChk then 0 else tenant) 0 (some r) wline

/-- Put a check line into the check cache, 16-way over 1,024 sets; a dirty victim is written to the carve-out (R237). DESIGN CHOICE
(log 95): a line's set is its window line number modulo 1,024. -/
def Chip.chkPut (c : Chip) (wl : Nat) (d : Line) (dirty : Bool) : Chip :=
  match c.pg.chk.find? (fun p => p.2.1 == wl) with
  | some (k, (_, old)) => { c with pg := { c.pg with chk := SMap.set c.pg.chk k (wl, ⟨d, dirty || old.dirty, 0⟩) } }
  | none =>
    let set := wl % 1024
    let ways : List (Nat × Option (Nat × ChkLine)) := (List.range 16).map (fun w => (16 * set + w, SMap.get? c.pg.chk (16 * set + w)))
    let mx := ways.foldl (fun (m : Nat) (w : Nat × Option (Nat × ChkLine)) => match w.2 with | some l => max m l.2.age | none => m) 0
    let pick : Nat × Option (Nat × ChkLine) := match ways.find? (fun w => w.2.isNone) with
      | some w => w
      | none => (ways.find? (fun w => match w.2 with | some l => l.2.age == mx | none => false)).getD (16 * set, none)
    let c := match pick.2 with
      | some (vl, v) => if v.dirty then c.pgEmit vl (rawPlain v.data) true 0 0 else c
      | none => c
    let aged : SMap (Nat × ChkLine) := if pick.2.isNone then c.pg.chk
      else c.pg.chk.map (fun p => if p.1 / 16 = set then (p.1, (p.2.1, { p.2.2 with age := min 3 (p.2.2.age + (3 - mx)) })) else p)
    { c with pg := { c.pg with chk := SMap.set aged pick.1 (wl, ⟨d, dirty, 0⟩) } }

/-- Write every dirty check line back (R237). -/
def Chip.chkFlush (c : Chip) : Chip :=
  let c := c.pg.chk.foldl (fun c p => if p.2.2.dirty then c.pgEmit p.2.1 (rawPlain p.2.2.data) true 0 0 else c) c
  { c with pg := { c.pg with chk := c.pg.chk.map (fun p => (p.1, (p.2.1, { p.2.2 with dirty := false }))) } }

/-- Drop decoded blocks: of a block, or of a page (R249). -/
def Chip.bufDropBlock (c : Chip) (blk : Nat) : Chip := { c with pg := { c.pg with buf := c.pg.buf.filter (fun b => b.1 != blk) } }
def Chip.bufDropPage (c : Chip) (page : Nat) : Chip := { c with pg := { c.pg with buf := c.pg.buf.filter (fun b => b.1 / 16 != page) } }

/-- Keep a decoded block; the buffer holds 64 (R249). -/
def Chip.bufAdd (c : Chip) (blk : Nat) (ls : List Line) : Chip :=
  let b := c.pg.buf.filter (fun x => x.1 != blk)
  { c with pg := { c.pg with buf := (if 64 ≤ b.length then b.drop 1 else b) ++ [(blk, ls)] } }

/-- Count and log a read; a decode of its page drops the page's buffered blocks (R232, R249). -/
def Chip.pgReadNote (c : Chip) (line : Nat) (r : PgRead) (k : Nat × Nat) : Chip :=
  let c := if r.decoded then c.bufDropPage (line / 64) else c
  let c := if r.corr || r.lost then c.pgNote 0x90 15 k else c
  let c := if r.block.isSome then c.pgNote 0x92 17 k else c
  if r.corr then (c.count Reg.PG_ERR_CNT0.CORR_LINES 1).pgLog 0 line r.syms r.erased
  else if r.lost then (c.count Reg.PG_ERR_CNT0.UNCORR_LINES 1).pgLog (if r.tagBad = 0 then 1 else 4) line r.syms r.erased
  else c

/-- Count the slots read whose tag is not valid (R247). -/
def Chip.tagNote (c : Chip) (f : Fetch) (ls : List Nat) : Chip :=
  c.count Reg.YRW_CNT2.TAG_BAD (ls.filter (fun l => !c.isCarve (64 * l) && match f l with
    | some (some r) => r.tagBad (l % 4)
    | some none | none => false)).length

/-! ### Writing -/

/-- What a line write does: the slots written, the old and new data of each for the check block, the reads of old content to
count, the new mode and M, and whether old content was lost so that the page must be rebuilt (R236, R238). -/
structure PgWrite where
  writes : List (Nat × Raw)
  deltas : List (Nat × Line)
  notes : List (Nat × PgRead)
  mode : Nat
  oldM : Nat
  newM : Nat
  raw1 : Bool
  rebuild : Bool
  deriving DecidableEq, Repr

/-- The class that a write is encoded in: its own if it is not 0 and enabled where the engine accepts the write (R248). -/
def Chip.yrwMode (c : Chip) (cls : Nat) : Nat :=
  if (cls = 1 && c.on Reg.YRW_CTRL.EN1) || (cls = 2 && c.on Reg.YRW_CTRL.EN2) || (cls = 3 && c.on Reg.YRW_CTRL.EN3) then cls else 0

/-- Encode a block image in a mode: mode, stored slots; mode 0 when it does not fit (R248, R249). -/
def encodeBlock (mode : Nat) (img : List LD) : Nat × List Raw :=
  let plain := img.map (fun l => if l.poison then rawPoison else rawPlain l.data)
  if mode = 0 || img.any (fun l => l.poison) then (0, plain)
  else if mode = 1 then
    let s := yrw1Stream (img.map (·.data))
    let m := (s.length + 63) / 64
    if 3 < m then (0, plain) else (1, storeBlock 1 (linesOf m s))
  else (mode, storeBlock mode (yrw23Encode (if mode = 2 then 8 else 16) (img.map (·.data))))

/-- A moved slot that a write does not read: its zero data, with its line's decoded value (R236, R246). -/
def PgRead.moved (old : PgRead) (i : Nat) : PgRead :=
  { old with ld := ⟨((old.block.getD [])[i]?).getD 0#512, false⟩, corr := false, lost := false, form := .tagged 0 i 0, raw := some (rawTagged 0#512 0 i 0), decoded := false }

/-- A write of one slot and nothing else, over a plain block (R236). -/
def plainWrite (f : Fetch) (wl : Nat) (ld : LD) (old : PgRead) : PgWrite :=
  let new := if ld.poison then rawPoison else rawPlain ld.data
  ⟨if f wl = some (some new) then [] else [(wl, new)], [(wl, new.data ^^^ dataOf old.raw)], [(wl, old)], 0, 4, 4, false, old.lost⟩

/-- Write a line in a mode, over the four slots of its block as read (R236, R248): the slot itself is written where its stored
bytes change, and the others where theirs do after correction; slots of a block that is and stays plain, and moved slots that
stay moved, are left alone. -/
def blockWrite (f : Fetch) (wl mode : Nat) (ld : LD) (olds : List PgRead) : PgWrite :=
  let k := wl % 4
  let b0 := wl / 4 * 4
  let img := olds.zipIdx.map (fun p => if p.2 = k then ld else p.1.ld)
  let (m2, raws) := encodeBlock mode img
  let oldM := olds.foldl (fun n o => min n o.m) 4
  let newM := if m2 = 1 then ((yrw1Stream (img.map (·.data))).length + 63) / 64 else if m2 = 2 then 3 else if m2 = 3 then 2 else 4
  let stays := m2 = 0 && !olds.any PgRead.isTagged
  let writes := ((raws.zip olds).zipIdx.filter (fun p =>
      if p.2 = k then f wl != some (some p.1.1)
      else !stays && p.1.2.raw != some p.1.1 && !(decide (newM ≤ p.2) && p.1.2.form == .tagged 0 p.2 0))).map
    (fun p => (b0 + p.2, p.1.1, p.1.2))
  ⟨writes.map (fun w => (w.1, w.2.1)), writes.map (fun w => (w.1, w.2.1.data ^^^ dataOf w.2.2.raw)),
    (olds.zipIdx.filter (fun p => p.2 == k || p.1.corr || p.1.lost)).map (fun p => (b0 + p.2, p.1)), m2, oldM, newM,
    mode = 1 && m2 = 0 && !img.any (fun l => l.poison), olds.any (fun o => o.lost)⟩

/-- Write a line (R236): reads of old content, the line's slot and where a form is tagged the stored slots of its block, are corrected
under R232; a poisoned line is stored in poison form with its block plain (R239). -/
def Chip.pgWriteC (c : Chip) (f : Fetch) (wl : Nat) (ld : LD) (mode : Nat) : PgRes PgWrite :=
  let mode := if ld.poison then 0 else mode
  match c.pgReadC f wl true with
  | .need l => .need l
  | .ok old =>
    if mode = 0 && !old.isTagged && !old.lost then .ok (plainWrite f wl ld old)
    else
      let rd := (List.range 4).map (fun i =>
        if i = wl % 4 then PgRes.ok old
        else if old.isTagged && decide (old.m ≤ i) then .ok (old.moved i)
        else c.pgReadC f (wl / 4 * 4 + i) true)
      let miss := rd.flatMap (fun r => match r with | .need l => l | .ok _ => [])
      if !miss.isEmpty then .need miss.eraseDups
      else .ok (blockWrite f wl mode ld (rd.filterMap (fun r => match r with | .ok a => some a | .need _ => none)))

/-- The check block of a line's page after adding the code of changed slots (R236 step 4): the new check lines, or none when
the old ones cannot be had clean; and whether the page was decoded for them. -/
def chkAdd (f : Fetch) (r : PgRgn) (wl : Nat) (deltas : List (Nat × Line)) : PgRes (Option (List (Nat × Line)) × Bool) :=
  let cl := r.chkLines wl
  match fetchAll f cl with
  | .need l => .need l
  | .ok rs =>
    let flagged := rs.any (fun x => !(chkRaw x).2.isEmpty)
    let old : PgRes (Option (List Line)) :=
      if !flagged then .ok (some (rs.map dataOf))
      else
        match pageOf f r wl with
        | .need l => .need l
        | .ok (_, _, none) => .ok none
        | .ok (_, _, some fx) => .ok (some (chkLinesOf r fx.chk))
    match old with
    | .need l => .need l
    | .ok none => .ok (none, flagged)
    | .ok (some old) =>
      let base := wl / 64 * 64
      let d := (List.range 64).map (fun i => ((deltas.find? (fun x => x.1 == base + i)).map (·.2)).getD 0#512)
      let add := chkLinesOf r (pageChk r.t d)
      .ok (some (cl.zip (List.zipWith (fun a b => a ^^^ b) old add)), flagged)

/-- Rebuild a page after a write (R238): its slots with the writes applied, poison over each line that is still flagged and that
a decode with a trusted check block does not correct, and a fresh check block over the page so corrected. -/
def rebuildPage (f : Fetch) (r : PgRgn) (wl : Nat) (writes : List (Nat × Raw)) (trusted : Bool) :
    PgRes (List (Nat × Raw) × List (Nat × Line)) :=
  let base := wl / 64 * 64
  match fetchAll f ((List.range 64).map (base + ·) ++ (if trusted then r.chkLines wl else [])) with
  | .need l => .need l
  | .ok rs =>
    let fix : Option PageFix := if trusted then
        match pageOf f r wl with
        | .ok (_, _, fx) => fx
        | .need _ => none
      else none
    let fin := ((rs.take 64).zipIdx.map (fun p =>
      match writes.find? (fun w => w.1 == base + p.2) with
      | some w => (w.2.data, false)
      | none =>
        if (flagsOf p.1 (formOf p.1 (p.2 % 4))).isEmpty then (dataOf p.1, false)
        else
          match fix, p.1 with
          | some fx, some q =>
            match ((Raw.mk ((fx.lines[p.2]?).getD 0#512) q.chk).mend (p.2 % 4)) with
            | some m => (m.data, false)
            | none => (0#512, true)
          | _, _ => (0#512, true)))
    .ok ((fin.zipIdx.filter (fun p => p.1.2)).map (fun p => (base + p.2, rawPoison)),
      (r.chkLines wl).zip (chkLinesOf r (pageChk r.t (fin.map (·.1)))))

/-- Everything a write job computes: the slots to write, the check lines to keep, the lines a rebuild poisoned, and whether the
page was rebuilt or decoded. -/
structure PgOut where
  w : PgWrite
  poisoned : List (Nat × Raw)
  chk : List (Nat × Line)
  rebuilt : Bool
  decoded : Bool
  deriving DecidableEq, Repr

/-- A line write with its check block; `chkBad`: the check cache's line had an uncorrectable error, and corrects nothing (R238). -/
def Chip.pgWriteAll (c : Chip) (f : Fetch) (wl : Nat) (ld : LD) (mode : Nat) (chkBad : Bool) : PgRes PgOut :=
  let f : Fetch := fun l => if chkBad && c.isCarve (64 * l) then some none else f l
  match c.pgWriteC f wl ld mode with
  | .need l => .need l
  | .ok w =>
    match c.pgDataRgn wl with
    | none => .ok ⟨w, [], [], false, false⟩
    | some r =>
      let rebuild := fun (trusted : Bool) =>
        match rebuildPage f r wl w.writes trusted with
        | .need l => PgRes.need l
        | .ok (ps, ck) => .ok ⟨w, ps, ck, true, true⟩
      if w.rebuild || chkBad then rebuild (!chkBad)
      else if w.deltas.all (fun d => d.2 == 0#512) then .ok ⟨w, [], [], false, false⟩
      else
        match chkAdd f r wl w.deltas with
        | .need l => .need l
        | .ok (none, _) => rebuild true
        | .ok (some ck, dec) => .ok ⟨w, [], ck, false, dec⟩

/-- A write job's results take effect. -/
def Chip.pgApply (c : Chip) (wl agent tenant : Nat) (o : PgOut) : Chip :=
  let line := c.paLine wl
  let key := (agent, tenant)
  let c := o.w.notes.foldl (fun c r => c.pgReadNote (c.paLine r.1) r.2 key) c
  let c := if o.decoded then c.bufDropPage (line / 64) else c.bufDropBlock (line / 4)
  let c := o.w.writes.foldl (fun c w => c.pgEmit w.1 w.2 false agent tenant (some line)) c
  let c := if o.w.mode = 0 then c else c.nrgEv domMem 17 (c.keyOf agent (tenant % 4096)) 1
  let c := if o.rebuilt then c.pgNote 0x90 15 key else c
  let c := if o.w.mode = 1 then c.count Reg.YRW_CNT0.Y1_COMP 1 else if 1 < o.w.mode then c.count Reg.YRW_CNT1.PACKED 1 else c
  let c := if o.w.raw1 then c.count Reg.YRW_CNT0.Y1_RAW 1 else c
  let c := if o.w.newM < o.w.oldM then c.count Reg.YRW_CNT1.SHRINK 1 else c
  let c := if o.rebuilt then (c.count Reg.PG_ERR_CNT1.REBUILD 1).pgLog 2 line 0 0 else c
  let c := o.poisoned.foldl (fun c p => (c.pgEmit p.1 p.2 false agent tenant (some line)).pgLog 3 (c.paLine p.1) 0 0) c
  o.chk.foldl (fun c k =>
    let c := if (c.chkFind k.1).isNone then c.evHub ugPg 0x91 1 evNone else c
    (c.nrgEv domMem 16 0 1).chkPut k.1 k.2 true) c

/-! ### Jobs and indivisible accesses -/

/-- Slots read so far by an access in one piece, by window line, with the check cache first. -/
def Chip.nowFetch (c : Chip) (got : SMap (Option Raw)) : Fetch := fun wl =>
  match c.chkFind wl with
  | some k => some (some (rawPlain k.data))
  | none => if (c.channelOf (64 * wl)).isNone then some none else SMap.get? got wl

/-- One slot read now: the channel's newest copy, or none from a channel that cannot give it; one that fails the request counts
it (R212, R232). -/
def Chip.nowSlot (c : Chip) (wl : Nat) : Option Raw × Chip :=
  match c.channelOf (64 * wl) with
  | none => (none, c)
  | some (ch, ca) =>
    if c.mcDead ch then (none, c.count (Reg.MC_ERR_CNT.RD ch) 1)
    else (if c.mcServes ch then some (c.mcView ch (ca / 64)) else none, c)

/-- A computation over stored slots in one piece: it reads the slots it asks for, and counts invalid tags among them. -/
def Chip.nowRun {α : Type} (g : Fetch → PgRes α) : Nat → SMap (Option Raw) → Chip → Option α × Chip
  | 0, _, c => (none, c)
  | n + 1, got, c =>
    match g (c.nowFetch got) with
    | .ok a => (some a, c.tagNote (c.nowFetch got) (got.map (·.1)))
    | .need ls =>
      let (got, c) := ls.foldl (fun (p : SMap (Option Raw) × Chip) l =>
        match p.2.nowSlot l with
        | (r, c) => (SMap.set p.1 l r, c)) (got, c)
      Chip.nowRun g n got c

/-- Slots as a job has read them. -/
def Chip.jobFetch (c : Chip) (j : PgJob) : Fetch := fun wl =>
  match c.chkFind wl with
  | some k => some (some (rawPlain k.data))
  | none =>
    match c.channelOf (64 * wl) with
    | none => some none
    | some (ch, ca) => SMap.get? j.got (ch * 2 ^ 34 + ca / 64)

/-- A new job of the engine: a write keeps the mode that YRW_CTRL gives its class now (R235, R248). -/
def Chip.pgPost (c : Chip) (kind : PgKind) (line agent tenant : Nat) (ld : LD) (yrw : Nat) (master : Nat := 0) : Nat × Chip :=
  let id := c.pg.nextJob
  (id, { c with pg := { c.pg with nextJob := id + 1, jobs := c.pg.jobs ++ [⟨id, kind, line, agent, tenant, ld, c.yrwMode yrw, [], [], none, master⟩] } })

def Chip.pgDrop (c : Chip) (id : Nat) : Chip := { c with pg := { c.pg with jobs := c.pg.jobs.filter (fun j => j.id != id) } }

/-- A job asks its channel for the slots it still needs. -/
def Chip.pgAsk (c : Chip) (j : PgJob) (ls : List Nat) : Chip :=
  let new := ls.filter (fun l => !j.asked.contains l)
  let c := { c with pg := { c.pg with jobs := c.pg.jobs.map (fun x => if x.id = j.id then { x with asked := x.asked ++ new } else x) } }
  new.foldl (fun c l =>
    match c.channelOf (64 * l) with
    | none => c
    | some (ch, ca) =>
      let chk := c.isCarve (64 * l)
      c.mcSend ch (ca / 64) (if chk then hubAgent c.pkg (ch / 16) (ch % 16) else j.agent) (if chk then 0 else j.tenant) j.id none none (if chk then 0 else j.master)) c

/-- The oldest job of a page, if it is of a kind (R235). -/
def Chip.pgFront (c : Chip) (kind : PgKind) (id : Nat) : Option PgJob :=
  match c.pg.jobs.find? (fun j => j.id == id) with
  | some j => if j.kind == kind && !c.pg.jobs.any (fun q => q.id < id && q.line / 64 == j.line / 64) then some j else none
  | none => none

/-- A line from the decoded-block buffer (R249). -/
def Chip.bufRead (c : Chip) (line tenant : Nat) : Option (LD × Chip) :=
  (c.pg.buf.find? (fun b => b.1 == line / 4)).map (fun b =>
    (⟨(b.2[line % 4]?).getD 0#512, false⟩, (c.evHub ugPg 0x93 1 (evKey tenant)).count Reg.YRW_CNT2.BUF_HIT 1))

/-- A line has been read: counted, and its block kept where it came without a decode (R232, R234, R249). -/
def Chip.pgReadDone (c : Chip) (line agent tenant : Nat) (r : PgRead) : Chip :=
  let c := c.pgReadNote line r (agent, tenant)
  match r.block with
  | some b => if r.keep then c.bufAdd (line / 4) b else c
  | none => c

/-- A read job goes on: it asks for slots, or ends with its line (R232, R249). -/
def Chip.pgReadStep (c : Chip) (j : PgJob) : Chip × Option LD :=
  match j.res with
  | some ld => (c.pgDrop j.id, some ld)
  | none =>
    match c.bufRead j.line j.tenant with
    | some (ld, c) => (c.pgDrop j.id, some ld)
    | none =>
      match c.pgReadC (c.jobFetch j) (winLine j.line) false with
      | .need ls => (c.pgAsk j ls, none)
      | .ok r => (((c.pgDrop j.id).tagNote (c.jobFetch j) j.asked).pgReadDone j.line j.agent j.tenant r, some r.ld)

/-- A write job goes on (R236). -/
def Chip.pgWriteStep (c : Chip) (j : PgJob) (chkBad : Bool) : Chip :=
  match c.pgWriteAll (c.jobFetch j) (winLine j.line) j.ld j.yrw chkBad with
  | .need ls => c.pgAsk j ls
  | .ok o => ((c.pgDrop j.id).tagNote (c.jobFetch j) j.asked).pgApply (winLine j.line) j.agent j.tenant o

/-- PG_LINE_WRITE. -/
def Chip.pgLineWrite (c : Chip) (id : Nat) (chkBad : Bool) : Chip :=
  match c.pgFront .write id with
  | some j => c.pgWriteStep j chkBad
  | none => c

def execPgLineWrite (job : Nat) (chkBad : Bool) (s : State) : Host.Outcome State Fault Refusal :=
  s.run (fun c => c.pgLineWrite job chkBad)

/-! ### Region lock, scrub (R231, R240, R241) -/

/-- PG_CTRL is written: a LOCK of 1 succeeds only if the enabled regions are sound (R231). -/
def Chip.pgCtrl (c : Chip) (v : Nat) : Chip :=
  let c := c.storeAt 0xC4000008 (v - v % 2)
  if v % 2 = 0 || c.on Reg.PG_CTRL.LOCK then c
  else
    let en := (List.range 16).filter (fun n => c.on (Reg.PG_RGN.EN n))
    let ok := en.all (fun n =>
      let r := c.pgRgnN n
      decide (1 ≤ r.size) && decide (r.base + r.size ≤ c.get Reg.HUB_AMAP_DRAM.SIZE * 16) &&
        en.all (fun m =>
          let q := c.pgRgnN m
          m == n || decide (r.base + r.size ≤ q.base) || decide (q.base + q.size ≤ r.base)))
    if ok then c.put Reg.PG_CTRL.LOCK 1 else c.put Reg.PG_CTRL.BAD 1

/-- PG_SCRUB_CMD is written (R240, R241). -/
def Chip.scrubCmd (c : Chip) (v : Nat) : Chip :=
  let op := bits v 0 2
  let c := if bit v 2 then { c with pg := { c.pg with scrub := c.pg.scrub.map (fun s => { s with abort := true }) } } else c
  if op = 0 then c
  else if c.on Reg.PG_SCRUB_STATUS.BUSY then c.put Reg.PG_SCRUB_STATUS.RESULT 3
  else
    let page := c.get Reg.PG_SCRUB_BASE.ADDR
    let n := c.get Reg.PG_SCRUB_LEN.PAGES
    let p0 := c.pkg * 2 ^ 32
    if n = 0 || page < p0 || 2 ^ 35 ≤ page + n - 1 || p0 + c.get Reg.HUB_AMAP_DRAM.SIZE * 2 ^ 22 < page + n then
      c.put Reg.PG_SCRUB_STATUS.RESULT 2
    else
      ({ c with pg := { c.pg with scrub := some ⟨page, n, op, false, none⟩ } }).puts
        [(Reg.PG_SCRUB_STATUS.BUSY, 1), (Reg.PG_SCRUB_STATUS.RESULT, 0), (Reg.PG_SCRUB_BYTES.BYTES, 0),
         (Reg.PG_SCRUB_CORR.SYMBOLS, 0), (Reg.PG_SCRUB_CORR.UNCORR_PAGES, 0), (Reg.PG_SCRUB_FIRST.ADDR, 0),
         (Reg.PG_SCRUB_FIRST.VALID, 0)]

/-- Count a page that cannot be corrected, with its first such line (R241). -/
def Chip.scrubBad (c : Chip) (line : Nat) : Chip :=
  let c := (c.count Reg.PG_SCRUB_CORR.UNCORR_PAGES 1).pgLog 6 line 0 0
  if c.on Reg.PG_SCRUB_FIRST.VALID then c
  else c.puts [(Reg.PG_SCRUB_FIRST.ADDR, 64 * line), (Reg.PG_SCRUB_FIRST.VALID, 1)]

/-- The first line of a page's slots with a flagged byte. -/
def firstFlagged (rs : List (Option Raw)) : Option Nat :=
  (rs.zipIdx.find? (fun p => !(flagsOf p.1 (formOf p.1 (p.2 % 4))).isEmpty)).map (·.2)

/-- What a page read by the scrub gives: its first line that cannot be corrected, the symbols corrected, and with op 2 the slots and
check lines to write. -/
structure ScrubOut where
  bad : Option Nat
  syms : Nat
  writes : List (Nat × Raw)
  chk : List (Nat × Line)
  deriving DecidableEq, Repr

/-- Scrub one page that is read: checked, and with op 2 corrected in each slot's proper form (R240, R241). -/
def Chip.scrubC (c : Chip) (f : Fetch) (wl op : Nat) : PgRes ScrubOut :=
  match c.pgDataRgn wl with
  | none =>
    match fetchAll f ((List.range 64).map (wl + ·)) with
    | .need l => .need l
    | .ok rs => .ok ⟨firstFlagged rs, 0, [], []⟩
  | some r =>
    match pageOf f r wl with
    | .need l => .need l
    | .ok (rs, _, none) => .ok ⟨some ((firstFlagged rs).getD 0), 0, [], []⟩
    | .ok (rs, _, some fx) =>
      let mended := rs.zipIdx.map (fun p => p.1.bind (fun q => (Raw.mk ((fx.lines[p.2]?).getD 0#512) q.chk).mend (p.2 % 4)))
      match mended.zipIdx.find? (fun p => p.1.isNone) with
      | some p => .ok ⟨some p.2, fx.syms, [], []⟩
      | none =>
        if op = 2 then
          .ok ⟨none, fx.syms, (mended.zip rs).zipIdx.filterMap (fun p => p.1.1.bind (fun m => if p.1.2 = some m then none else some (wl + p.2, m))),
            ((r.chkLines wl).zip (chkLinesOf r fx.chk)).filter (fun k => f k.1 != some (some (rawPlain k.2)))⟩
        else .ok ⟨none, fx.syms, [], []⟩

/-- A page's scrub takes effect, and every dirty check line is written back (R237, R240, R241). -/
def Chip.scrubApply (c : Chip) (page : Nat) (o : ScrubOut) : Chip :=
  let c := (c.bufDropPage page).put Reg.PG_SCRUB_BYTES.BYTES (c.get Reg.PG_SCRUB_BYTES.BYTES + 4096)
  let c := c.count Reg.PG_SCRUB_CORR.SYMBOLS o.syms
  let c := match o.bad with
    | some i => c.scrubBad (64 * page + i)
    | none => c
  let c := o.writes.foldl (fun c w => c.pgEmit w.1 w.2 false (hubAgent c.pkg 0 0) 0) c
  (o.chk.foldl (fun c k => c.chkPut k.1 k.2 true) c).chkFlush

/-- INIT of a page: zero slots and a zero check block; a page whose channel cannot serve is not initialised, and counts as one that
cannot be corrected (R240, R241). -/
def Chip.scrubInit (c : Chip) (page : Nat) : Chip :=
  let wl := winLine (64 * page)
  let c := c.bufDropPage page
  if (match c.channelOf (64 * wl) with | some p => c.mcServes p.1 | none => false) then
    let c := c.put Reg.PG_SCRUB_BYTES.BYTES (c.get Reg.PG_SCRUB_BYTES.BYTES + 4096)
    let c := (List.range 64).foldl (fun c i => c.pgEmit (wl + i) Raw.zero false (hubAgent c.pkg 0 0) 0) c
    match c.pgDataRgn wl with
    | some r => ((r.chkLines wl).foldl (fun c k => c.chkPut k 0#512 true) c).chkFlush
    | none => c.chkFlush
  else (c.scrubBad (64 * page)).chkFlush

/-- The pass goes on to its next page, and ends after the last or when it is to stop (R240, R241). -/
def Chip.scrubNext (c : Chip) : Chip :=
  match c.pg.scrub with
  | none => c
  | some s =>
    let fin := fun (c : Chip) (res : Nat) =>
      ({ c with pg := { c.pg with scrub := none } }).puts [(Reg.PG_SCRUB_STATUS.BUSY, 0), (Reg.PG_SCRUB_STATUS.RESULT, res)]
    if s.left ≤ 1 then fin c (if s.abort then 4 else 1)
    else if s.abort then fin c 4
    else { c with pg := { c.pg with scrub := some { s with next := s.next + 1, left := s.left - 1, job := none } } }

/-- The pass's job of its page goes on, once every earlier operation of the page has ended (R235): it asks for what it must read, or
takes effect. -/
def Chip.scrubStep (c : Chip) (s : Scrub) (id : Nat) : Chip :=
  match c.pgFront .scrub id with
  | none => c
  | some j =>
    if s.op = 3 then ((c.pgDrop id).scrubInit s.next).scrubNext
    else
      match c.scrubC (c.jobFetch j) (winLine (64 * s.next)) s.op with
      | .need ls => c.pgAsk j ls
      | .ok o => (((c.pgDrop id).tagNote (c.jobFetch j) j.asked).scrubApply s.next o).scrubNext

/-- SCRUB_PAGE: the pass takes up its next page as an operation of the engine, or goes on with it (R235, R240; log 14). -/
def Chip.scrubPage (c : Chip) : Chip :=
  match c.pg.scrub with
  | none => c
  | some s =>
    if c.isCarve (64 * winLine (64 * s.next)) then c.scrubNext
    else
      match s.job with
      | some id => c.scrubStep s id
      | none =>
        match c.pgPost .scrub (64 * s.next) (hubAgent c.pkg 0 0) 0 ⟨0#512, false⟩ 0 with
        | (id, c) => ({ c with pg := { c.pg with scrub := some { s with job := some id } } }).scrubStep s id

def execScrubPage (s : State) : Host.Outcome State Fault Refusal := s.run Chip.scrubPage

/-! ### Work that ends with the package's power or reset (R237) -/

/-- A line read in one piece. -/
def Chip.pgLineNow (c : Chip) (line agent tenant : Nat) : LD × Chip :=
  match c.bufRead line tenant with
  | some r => r
  | none =>
    match Chip.nowRun (fun f => c.pgReadC f (winLine line) false) 8 [] c with
    | (none, c) => (LD.bad, c)
    | (some r, c) => (r.ld, c.pgReadDone line agent tenant r)

/-- A job completed in one piece: a write or a scrub takes effect, and a read keeps what it will answer with. -/
def Chip.pgJobNow (c : Chip) (j : PgJob) : Chip :=
  match j.kind with
  | .write =>
    match Chip.nowRun (fun f => c.pgWriteAll f (winLine j.line) j.ld j.yrw false) 8 [] (c.pgDrop j.id) with
    | (none, c) => c
    | (some o, c) => c.pgApply (winLine j.line) j.agent j.tenant o
  | .read =>
    if j.res.isSome then c
    else
      match c.pgLineNow j.line j.agent j.tenant with
      | (ld, c) => { c with pg := { c.pg with jobs := c.pg.jobs.map (fun x => if x.id = j.id then { x with res := some ld } else x) } }
  | .scrub =>
    match c.pg.scrub with
    | none => c.pgDrop j.id
    | some s =>
      if s.op = 3 then ((c.pgDrop j.id).scrubInit s.next).scrubNext
      else
        match Chip.nowRun (fun f => c.scrubC f (winLine (64 * s.next)) s.op) 8 [] (c.pgDrop j.id) with
        | (none, c) => c.scrubNext
        | (some o, c) => (c.scrubApply s.next o).scrubNext

/-- Every job, and then every dirty check line written back (R237): a warm reset and Freewheel wait for the work under way, which the
model does in one piece (log 14). -/
def Chip.pgFinish (c : Chip) : Chip := (c.pg.jobs.foldl Chip.pgJobNow c).chkFlush

end Sys2Proof.Machine
end

