-- ==== Sys2Proof/Machine/Home.lean ====
section
/-! DEFINITION. Machine/Home.lean: the directory (R173 to R176), the hub cache (R152), CXL memory (R395), and the hub's own
reads and writes of memory, performed at once where nothing stands in the way and as requests otherwise (log 14). -/
namespace Sys2Proof.Machine

/-! ### CXL memory -/

/-- The key of a CXL window offset in the devices' memory, and whether its link is up (R395, R396). -/
def Chip.cxlAt (c : Chip) (off : Nat) : Option (Nat × Bool) :=
  (List.range 16).findSome? (fun pl =>
    let p := pl / 4
    let l := pl % 4
    let b := c.get (Reg.PCI_CXL.BASE p l) * 2 ^ 34
    if c.on (Reg.PCI_CXL.EN p l) && decide (b ≤ off) && decide (off < b + c.get (Reg.PCI_CXL.SIZE p l) * 2 ^ 34) then
      some (pl * 2 ^ 45 + (off - b), bits (c.get (Reg.PCI_LINK_STATUS.LINKS p)) (16 * l) 3 == 3)
    else none)

def Chip.cxlRead (c : Chip) (line : Nat) : LD :=
  match c.cxlAt ((64 * line) % 2 ^ 44) with
  | some (k, true) => ⟨BitVec.ofNat 512 (c.cxl.read k 64), c.cxlPoison.contains (k / 64)⟩
  | some (_, false) | none => LD.bad

def Chip.cxlWrite (c : Chip) (line : Nat) (ld : LD) : Chip :=
  match c.cxlAt ((64 * line) % 2 ^ 44) with
  | some (k, true) =>
    let ps := c.cxlPoison.filter (· != k / 64)
    { c with cxl := c.cxl.write k 64 ld.data.toNat, cxlPoison := if ld.poison then (k / 64) :: ps else ps }
  | some (_, false) | none => c

/-- Is a line in DRAM (otherwise CXL)? -/
def isDram (line : Nat) : Bool := decide (64 * line < 2 ^ 47)

/-- Send a line toward memory: a Page Guard write job, or CXL memory (R152, R235). -/
def Chip.memWrite (c : Chip) (line : Nat) (ld : LD) (yrw agent tenant : Nat) : Chip :=
  if isDram line then (c.pgPost .write line agent tenant ld yrw).2
  else (c.cxlWrite line ld).nrgEv domIo 20 (c.keyOf agent (tenant % 4096)) 1

/-! ### Hub cache -/

def hcBase (line : Nat) : Nat := (bankHc line * 4096 + setHc line) * 16
def Chip.setHcM (c : Chip) (m : SMap CLine) : Chip := { c with coh := { c.coh with hc := m } }
def Chip.hcFind (c : Chip) (line : Nat) : Option (Nat × CLine) := findWay c.coh.hc (hcBase line) 16 line

/-- A hub cache line: dirty in state M, clean in S. -/
def hcLine (line : Nat) (ld : LD) (dirty : Bool) (yrw age : Nat) : CLine :=
  ⟨line, if dirty then .m else .s, ld, age, 0, false, 7, yrw, 0, 0, 0⟩

/-- Is a transaction open on a line (R172)? -/
def Chip.txOpenOn (c : Chip) (line : Nat) : Bool := c.coh.txs.any (fun t => t.line == line)

/-- A read of the hub cache, or a write, for a transaction's agent and tenant key (R423, R431). -/
def Chip.hcNote (c : Chip) (write hit : Bool) (agent tenant : Nat) : Chip :=
  let c := (c.evHub ugHc (if write then 0x72 else 0x70) 1 (evKey tenant)).nrgEv domHubc (if write then 9 else 8) (c.keyOf agent (tenant % 4096)) 1
  if hit && !write then c.evHub ugHc 0x71 1 (evKey tenant) else c

/-- A line that waits for a way of the hub cache (R154): its home holds it meanwhile (R179). -/
def Chip.hcWaitOf (c : Chip) (line : Nat) : Option HcWait := c.coh.hcFills.find? (fun w => w.line == line)
def Chip.hcUnwait (c : Chip) (line : Nat) : Chip := { c with coh := { c.coh with hcFills := c.coh.hcFills.filter (fun w => w.line != line) } }

/-- A line goes from the hub cache to memory on its slice's account. -/
def Chip.hcToMem (c : Chip) (line : Nat) (ld : LD) (yrw : Nat) : Chip := c.memWrite line ld yrw (hubAgent c.pkg 2 (homeSlice (64 * line))) 0

/-- A lookup of the hub cache finds what struck the line (R168, R169): 1 is corrected; 2 poisons a dirty line, and a clean one goes; 3 is
fatal. -/
def Chip.hcCheck (c : Chip) (line : Nat) : Chip :=
  match c.hcFind line with
  | none => c
  | some (k, l) =>
    let put := fun (q : CLine) => c.setHcM (SMap.set c.coh.hc k { q with flaw := 0 })
    let uncorr := fun (c : Chip) (src : Nat) => (c.count Reg.HC_ERR_CNT.UNCORR 1).hcLog src line
    if l.flaw = 0 then c
    else if l.flaw = 1 then ((put l).count Reg.HC_ERR_CNT.CORR 1).hcLog 0 line
    else if l.flaw = 3 then { uncorr (put { l with ld := LD.bad }) 3 with fatalErr := true }
    else if l.st == .m then uncorr (put { l with ld := LD.bad }) 2
    else uncorr (c.setHcM (SMap.erase c.coh.hc k)) 1

/-- A line leaves the hub cache, where the lookup may find an error first (R161, R168). -/
def Chip.hcDrop (c : Chip) (line : Nat) : Chip :=
  let c := { c with coh := { c.coh with hcFills := c.coh.hcFills.filter (fun w => w.line != line) } }.hcCheck line
  match c.hcFind line with
  | some (k, _) => c.setHcM (SMap.erase c.coh.hc k)
  | none => c

/-- Put a line into the hub cache, where the lookup may find an error first (R168, R169); a dirty victim goes to memory first (R154). None is RETRY. A gated bank takes
no line (R406). -/
def Chip.hcFill (c : Chip) (line : Nat) (ld : LD) (dirty : Bool) (yrw age : Nat) : Option Chip :=
  let c := c.hcCheck line
  match c.hcFind line with
  | some (k, l) =>
    some (c.setHcM (SMap.set c.coh.hc k { l with ld := ld, st := if dirty then .m else l.st, yrw := yrw, age := age, flaw := 0 }))
  | none =>
    if bit c.pwr.hcGated (bankHc line) then some (if dirty then c.hcToMem line ld yrw else c)
    else match chooseVictim c.coh.hc (hcBase line) 16 (fun _ _ => true) (fun x => c.txOpenOn x) with
    | none => none
    | some (w, m) =>
      let c := c.setHcM m
      let c := match SMap.get? m w with
        | some v => c.hcCheck v.line
        | none => c
      let c := match SMap.get? c.coh.hc w with
        | some v => if v.st == LState.m then (c.evHub ugHc 0x73 1 evNone).hcToMem v.line v.ld v.yrw else c
        | none => c
      some (c.setHcM (SMap.set c.coh.hc w (hcLine line ld dirty yrw age)))

/-- A line enters the hub cache, or waits for a way (R154). -/
def Chip.hcEnter (c : Chip) (line : Nat) (ld : LD) (dirty : Bool) (yrw age : Nat) : Chip :=
  let c := c.hcUnwait line
  match c.hcFill line ld dirty yrw age with
  | some c => c
  | none => { c with coh := { c.coh with hcFills := c.coh.hcFills ++ [⟨line, ld, dirty, yrw, age⟩] } }

/-- Dirty data reaches the hub cache (R184, R190), for an agent and tenant key. -/
def Chip.hcWrite (c : Chip) (line : Nat) (ld : LD) (yrw age agent tenant : Nat) : Chip :=
  (c.hcNote true false agent tenant).hcEnter line ld true yrw age

/-- Does the home hold dirty data of a line, in the hub cache or waiting for a way of it? -/
def Chip.hcDirty (c : Chip) (line : Nat) : Option LD :=
  match c.hcWaitOf line, c.hcFind line with
  | some w, _ => if w.dirty then some w.ld else none
  | none, some (_, l) => if l.st == .m then some l.ld else none
  | none, none => none

/-- Clean a line of the hub cache to memory (R161). -/
def Chip.hcClean (c : Chip) (line : Nat) : Chip :=
  let c := c.hcCheck line
  match c.hcWaitOf line, c.hcFind line with
  | some w, _ =>
    if w.dirty then
      ({ c with coh := { c.coh with hcFills := c.coh.hcFills.map (fun (x : HcWait) => if x.line = line then { x with dirty := false } else x) } }).hcToMem
        line w.ld w.yrw
    else c
  | none, some (k, l) => if l.st == .m then (c.setHcM (SMap.set c.coh.hc k { l with st := .s })).hcToMem line l.ld l.yrw else c
  | none, none => c

/-- Lines that the hub cache banks of a mask hold, or that wait for them. -/
def Chip.hcLinesOf (c : Chip) (banks : Nat) : List Nat :=
  ((c.coh.hc.map (fun p => p.2.line)) ++ c.coh.hcFills.map (fun w => w.line)).filter (fun l => bit banks (bankHc l))

/-- Memory's copy of a line as the home holds it: in the hub cache, which a hit makes new (R153), or waiting for a way of it. -/
def Chip.hcRead (c : Chip) (line : Nat) (keepAge : Bool) : Option LD × Chip :=
  let c := c.hcCheck line
  match c.hcWaitOf line, c.hcFind line with
  | some w, _ => (some w.ld, c)
  | none, some (k, l) => (some l.ld, if keepAge then c else c.setHcM (SMap.set c.coh.hc k { l with age := 0 }))
  | none, none => (none, c)

/-! ### Directory -/

/-- Entry states (R175). -/
def dI : Nat := 0
def dS : Nat := 1
def dX : Nat := 2
def dO : Nat := 3
def dP : Nat := 4

def dirBase (line : Nat) : Nat := (homeSlice (64 * line) * 32768 + setDir line) * 16
def Chip.setDirM (c : Chip) (m : SMap DirEnt) : Chip := { c with coh := { c.coh with dir := m } }
def Chip.dirFind (c : Chip) (line : Nat) : Option (Nat × DirEnt) :=
  c.coh.dir.find? (fun p => decide (dirBase line ≤ p.1) && decide (p.1 < dirBase line + 16) && p.2.line == line)

/-- The entry of a line; a line with no entry is in state I (R174). -/
def Chip.dirEnt (c : Chip) (line : Nat) : DirEnt := ((c.dirFind line).map (·.2)).getD ⟨line, dI, false, false, [], 0⟩

def Chip.dirRemove (c : Chip) (line : Nat) : Chip :=
  match c.dirFind line with
  | some (k, _) => c.setDirM (SMap.erase c.coh.dir k)
  | none => c

/-- The entry that a request allocates takes the lowest free way of its set as it opens, in state I until it is served (R191). -/
def Chip.dirReserve (c : Chip) (line : Nat) : Chip :=
  if (c.dirFind line).isSome then c
  else
    match (List.range 16).find? (fun w => (SMap.get? c.coh.dir (dirBase line + w)).isNone) with
    | some w => c.setDirM (SMap.set c.coh.dir (dirBase line + w) ⟨line, dI, false, false, [], 0⟩)
    | none => c

/-- Store an entry; one in state I is released. -/
def Chip.dirPut (c : Chip) (e : DirEnt) : Chip :=
  if e.st = dI then c.dirRemove e.line
  else
    let e := { e with ovf := e.ovf && (e.st == dS || e.st == dO), xpkg := e.xpkg && (e.st == dS || e.st == dO || e.st == dX) }
    match (c.dirReserve e.line).dirFind e.line with
    | some (k, _) => c.setDirM (SMap.set c.coh.dir k e)
    | none => c

/-- Is every way of a line's directory set in use? -/
def Chip.dirFull (c : Chip) (line : Nat) : Bool :=
  (List.range 16).all (fun w => (SMap.get? c.coh.dir (dirBase line + w)).isSome)

/-- The pointer's die: package and die of a cluster identifier. -/
def sameDie (a b : Nat) : Bool := a / 8 == b / 8

/-- Register a cluster's die with an entry (R173, R176). XPKG counts an owner of another package that the entry goes on to list (log 83). -/
def DirEnt.add (e : DirEnt) (own clu : Nat) : DirEnt :=
  let x := e.xpkg || cluPkg clu != own || e.ptrs.any (fun p => cluPkg p != own)
  if e.ptrs.any (sameDie clu) then { e with ptrs := e.ptrs.map (fun p => if sameDie p clu then clu else p), xpkg := x }
  else if e.ovf then { e with xpkg := x }
  else if e.ptrs.length < 4 then { e with ptrs := e.ptrs ++ [clu], xpkg := x }
  else { e with ovf := true, xpkg := x, ptrs := if e.st = dO then e.ptrs.take 1 else [] }

/-- An entry whose one holder is a cluster's die. XPKG is clear after an invalidation (R175, R176, and step 6 of the worked overflow). -/
def DirEnt.only (e : DirEnt) (own st clu : Nat) : DirEnt :=
  { e with st := st, ovf := false, xpkg := (e.st == dI || e.st == dP) && cluPkg clu != own, ptrs := [clu] }

/-- Remove a die's pointer (R190). -/
def DirEnt.remove (e : DirEnt) (clu : Nat) : DirEnt := { e with ptrs := e.ptrs.filter (fun p => !sameDie p clu) }

/-- Pointers that still count: those of dies not fenced (R195). -/
def Chip.livePtrs (c : Chip) (e : DirEnt) : List Nat := e.ptrs.filter (fun p => !c.fencedDie (cluPkg p) (cluDie p))

/-- The owner named by an entry in X or O. -/
def DirEnt.owner (e : DirEnt) : Option Nat := if e.st = dX || e.st = dO then e.ptrs.head? else none

/-! ### Indivisible accesses of the hub's own units -/

/-- Decode, carve-out and region checks in front of a line of this package (R26, R230, R323); CXL addresses that no PCI_CXL covers
are bus errors (R395). -/
def Chip.homeCheck (c : Chip) (line : Nat) (w : Who) (need : Nat) : HubRes :=
  if c.decodeMiss (64 * line) then .bus
  else if isDram line && c.isCarve (64 * winLine line) then .bus
  else if !isDram line && (c.cxlAt ((64 * line) % 2 ^ 44)).isNone then .bus
  else
    let k := c.checkerOf line
    let r := c.rgnCheck k (64 * line) w need
    if r.ok then .ok else .region k r.region

/-- Count a failed check in the logs that belong to it: decode misses, carve-out refusals, violations. -/
def Chip.homeNote (c : Chip) (line addr : Nat) (w : Who) (need : Nat) (r : HubRes) : Chip :=
  let write := need &&& rightW != 0
  match r with
  | .ok | .away => c
  | .bus => if c.decodeMiss (64 * line) then c.decErr w addr write else if isDram line then c.carveRefuse line else c
  | .region k i => c.violLog k i addr w write

/-- Does an entry name a die that is fenced here (R460)? -/
def Chip.namesFenced (c : Chip) (e : DirEnt) : Bool := e.ptrs.any (fun p => c.fencedDie (cluPkg p) (cluDie p))

/-- May an access of a unit of the hub to a line of this package not be performed at once? The directory lists the line, or something is
open, waits or is on its way for it: the access then takes its turn as a request (R172, R182). -/
def Chip.lineHard (c : Chip) (line : Nat) : Bool :=
  (c.dirFind line).isSome || c.coh.txs.any (fun t => t.line == line || (t.victim && t.req.line == line)) || c.coh.retryQ.any (fun m => m.line == line)
    || c.coh.homeQ.any (fun m => m.line == line) || c.coh.hubIn.any (fun m => m.line == line && m.cls != clsRsp)
    || c.coh.l3reqs.any (fun r => r.line == line) || c.coh.l3wbs.any (fun w => w.line == line)
    || c.pg.jobs.any (fun j => j.line / 64 == line / 64)

/-- A line that no die holds, as its home has it at once: in the hub cache, or waiting for a way of it, or in CXL memory (R152, R183). A
line of DRAM that is not there is none: it takes its turn at its channel (R205). -/
def Chip.homeCopy (c : Chip) (line : Nat) (w : Who) : Option LD × Chip :=
  match c.hcRead line false with
  | (some ld, c) => (some ld, c.hcNote false true w.agent (tenantKey w.tenant w.secure))
  | (none, c) =>
    if isDram line then (none, c)
    else (some (c.cxlRead line), (c.hcNote false false w.agent (tenantKey w.tenant w.secure)).nrgEv domIo 20 (c.keyOf w.agent w.tenant) 1)

/-- Write bytes of a line that no die holds under a mask at once (WR_NC of R183); none where its old bytes are not at hand. -/
def Chip.homeStore (c : Chip) (line : Nat) (data : Line) (mask : Nat) (poison : Bool) (w : Who) : Option Chip :=
  let key := tenantKey w.tenant w.secure
  if mask == 2 ^ 64 - 1 then some (c.hcWrite line ⟨data, poison⟩ 0 0 w.agent key)
  else
    match c.homeCopy line w with
    | (some old, c) => some (c.hcWrite line ⟨lineMerge old.data data mask, poison || old.poison⟩ 0 0 w.agent key)
    | (none, _) => none

/-- `n` bytes of this package's hub-local window (R24): MRAM; the boot ROM, whose contents the spec does not give (log 1); the
flash as it drives them, poisoned while its lands are not the package's (R449, R450). -/
def Chip.localRead (c : Chip) (off n : Nat) : Nat × Bool × Chip :=
  if off < 0x800000 then (c.mram.read off n, false, c)
  else if off < 0x20000000 then (c.fresh.1, false, c.fresh.2)
  else if c.pwr.flashLow then (0, true, c)
  else (c.flash.read (off - 0x20000000) n, false, c)

/-- The staging area of MRAM, which only the CFG engine writes (R369). -/
def inStaging (off : Nat) : Bool := decide (0x400000 ≤ off) && decide (off < 0x800000)

/-- An access of a hub unit performed at once: model energy of the region check and the directory lookup (R431); a queue's or function's
takes no time (R315). -/
def Chip.homeLook (c : Chip) (w : Who) : Chip :=
  let c := if w.kind < 3 then c.latDone (c.entOf w.agent w.master) 0 else c
  (c.nrgEv domHubc 12 (c.keyOf w.agent w.tenant) 1).nrgEv domHubc 6 (c.keyOf w.agent w.tenant) 1

/-- The request of a unit of the hub for a line (R182). -/
def farMsg (line : Nat) (w : Who) : Msg :=
  { Msg.mk0 clsReq tRdNc line with
    agent := w.agent, tenant := w.tenant, secure := w.secure, master := w.master, kind := some w.kind, dstPkg := homePkg line }

/-- Is what a unit has asked for this? -/
def FarReq.is (f : FarReq) (m : Msg) : Bool :=
  f.msg.typ == m.typ && f.msg.line == m.line && f.msg.agent == m.agent && f.msg.tenant == m.tenant && f.msg.secure == m.secure
    && f.msg.master == m.master && f.msg.kind == m.kind && f.msg.mask == m.mask && f.msg.data == m.data && f.use == .awaited

/-- The access under way uses what its unit asked for; what it writes of a line it reads again. -/
def Chip.farUse (c : Chip) (m : Msg) (f : LD → LD) : Chip :=
  { c with coh := { c.coh with far := c.coh.far.map (fun (x : FarReq) =>
      if x.is m then { x with used := true, got := x.got.map (fun g => (g.1, f g.2)) } else x) } }

/-- What has come of what a unit asked for. -/
def Chip.farGot (c : Chip) (m : Msg) : Option (HubRes × LD) := (c.coh.far.find? (fun f => f.is m)).bind (·.got)

/-- The access under way lacks something: the first is noted (log 14). -/
def Chip.farWant (c : Chip) (m : Msg) : Chip :=
  if c.coh.wants = some none then { c with coh := { c.coh with wants := some (some m) } } else c

/-- What a master's frozen port had asked for is not returned to it (R286). -/
def Chip.farDrop (c : Chip) (kind master : Nat) : Chip :=
  { c with coh := { c.coh with far := c.coh.far.filter (fun f => !(f.use == .awaited && f.msg.kind == some kind && f.msg.master == master)) } }

/-- What has come, used; or it is wanted. -/
def Chip.farTake (c : Chip) (m : Msg) : Option (HubRes × LD) × Chip :=
  match c.farGot m with
  | some r => (some r, c.farUse m id)
  | none => (none, c.farWant m)

/-- A tag that no request of a unit of this hub on its way carries (R179). -/
def Chip.freeTag (c : Chip) : Nat := ((List.range 4096).find? (fun t => decide (0 < t) && !c.coh.far.any (fun f => f.msg.tag == t))).getD 4095

/-- A request of a unit of the hub goes to its home: the queue of its slice, this hub's device ranges, or another package (R25, R182). -/
def Chip.farSend (c : Chip) (m : Msg) (use : WrUse) : Chip :=
  let m := { m with tag := c.freeTag, arrived := c.time }
  let c := { c with coh := { c.coh with far := c.coh.far ++ [FarReq.mk m false none use] } }
  if m.dstPkg != c.pkg then c.sendAway m
  else if isNormal (64 * m.line) then { c with coh := { c.coh with homeQ := c.coh.homeQ ++ [m] } }
  else { c with coh := { c.coh with hubIn := c.coh.hubIn ++ [m] } }

/-- A unit of the hub asks for what it lacks, once (R182). -/
def Chip.farAsk (c : Chip) (m : Msg) : Chip := if c.coh.far.any (fun f => f.is m) then c else c.farSend m .awaited

/-- A unit's write by a request: it goes on when it is sent, or has its home's answer where the access awaits it. -/
def Chip.farPut (c : Chip) (m : Msg) (use : WrUse) : HubRes × Chip :=
  if use = .awaited then
    match c.farTake m with
    | (some r, c) => (r.1, c)
    | (none, c) => (.away, c)
  else (.ok, c.farSend m use)

/-- The message of an access to a device range (R25, R181). -/
def devMsg (w : Who) (pa home : Nat) (write : Bool) (size v : Nat) : Msg :=
  { farMsg (pa / 64) w with
    typ := if write then tWrNc else tRdNc, dstPkg := home, mask := some (BitVec.ofNat 64 (((2 ^ size - 1) <<< (pa % 64)) % 2 ^ 64))
    data := if write then some (linePut 0#512 (pa % 64) size v) else none }

/-- A unit of the hub accesses a device range by a request (R25): what its home has answered. -/
def Chip.farDev (c : Chip) (w : Who) (pa : Nat) (write : Bool) (size v : Nat) : Option (HubRes × LD) × Chip :=
  let home := ((regionOf pa).pkg).getD c.pkg
  if c.fencedPkg home then (some (.ok, LD.bad), c) else c.farTake (devMsg w pa home write size v)

/-- Checker 25 in front of this package's hub-local window (R323), with the log of a failure. -/
def Chip.localCheck (c : Chip) (line : Nat) (w : Who) (write : Bool) : HubRes × Chip :=
  let r := c.rgnCheck 25 (64 * line) w (if write then rightW else rightR)
  if r.ok then (.ok, c) else (.region 25 r.region, c.violLog 25 r.region (64 * line) w write)

/-- A hub unit reads a line outside memory: of this package's hub-local window at once, of any other device range by a request to its home
(R25). -/
def Chip.devRead (c : Chip) (line : Nat) (w : Who) : HubRes × LD × Chip :=
  let ask := match c.farDev w (64 * line) false 64 0 with
    | (some r, c) => (r.1, r.2, c)
    | (none, c) => (HubRes.away, LD.bad, c)
  if c.decodeMiss (64 * line) then (.bus, LD.bad, c.decErr w (64 * line) false)
  else
    match regionOf (64 * line) with
    | .local_ p off =>
      if p != c.pkg then ask
      else
        match c.localCheck line w false with
        | (.ok, c) =>
          match c.localRead off 64 with
          | (v, bad, c) => (.ok, ⟨BitVec.ofNat 512 v, bad⟩, c)
        | (r, c) => (r, LD.bad, c)
    | .dram _ _ | .cxl _ _ | .csr _ _ | .bell _ _ | .mmio _ _ | .reserved => ask

/-- First byte and number of bytes of a mask. -/
def maskFirst (mask : Nat) : Nat := ((List.range 64).find? (fun i => bit mask i)).getD 0
def maskCount (mask : Nat) : Nat := popc 64 mask

/-- A hub unit writes bytes of a line outside memory: MRAM below the staging area takes them at once, the rest of this package's hub-local
window is a bus error, and any other device range has a request sent to its home (R25). -/
def Chip.devWrite (c : Chip) (line : Nat) (data : Line) (mask : Nat) (w : Who) (use : WrUse) : HubRes × Chip :=
  let send :=
    let home := ((regionOf (64 * line)).pkg).getD c.pkg
    let o := maskFirst mask
    if c.fencedPkg home then (HubRes.bus, c)
    else c.farPut (devMsg w (64 * line + o) home true (maskCount mask) (lineGet data o (maskCount mask))) use
  if c.decodeMiss (64 * line) then (.bus, c.decErr w (64 * line) true)
  else
    match regionOf (64 * line) with
    | .local_ p off =>
      if p != c.pkg then send
      else
        match c.localCheck line w true with
        | (.ok, c) =>
          if 0x400000 ≤ off then (.bus, c)
          else
            let old := BitVec.ofNat 512 (c.mram.read off 64)
            (.ok, { c with mram := c.mram.write off 64 (lineMerge old data mask).toNat })
        | r => r
    | .dram _ _ | .cxl _ _ | .csr _ _ | .bell _ _ | .mmio _ _ | .reserved => send

/-- A line of memory that a unit of the hub lacks: what its home has answered to RD_NC (R182). -/
def Chip.farLine (c : Chip) (line : Nat) (w : Who) : HubRes × LD × Chip :=
  match c.farTake (farMsg line w) with
  | (some r, c) => (r.1, r.2, c)
  | (none, c) => (.away, LD.bad, c)

/-- A unit of the hub reads a line anywhere in the domain (R25): one of this package through its checks, at once where its home has it at
hand; any other once its home has answered RD_NC (R182; log 14). `dev`: the access may reach device ranges (R459). -/
def Chip.hubRead (c : Chip) (dev : Bool) (line : Nat) (w : Who) : HubRes × LD × Chip :=
  if !isNormal (64 * line) || !c.present (homePkg line) then
    if dev || c.decodeMiss (64 * line) then c.devRead line w else (.bus, LD.bad, c)
  else if homePkg line != c.pkg then
    if c.fencedPkg (homePkg line) then (.ok, LD.bad, c) else c.farLine line w
  else
    match c.homeCheck line w rightR with
    | .ok =>
      if c.lineHard line then c.farLine line w
      else
        match ((c.farUse (farMsg line w) id).homeLook w).homeCopy line w with
        | (some ld, c) => (.ok, ld, c)
        | (none, _) => c.farLine line w
    | r => (r, LD.bad, c.homeNote line (64 * line) w rightR r)

/-- The WR_NC that carries a write of a unit of the hub (R182). -/
def hubWrMsg (line : Nat) (data : Line) (mask : Nat) (poison : Bool) (w : Who) : Msg :=
  { farMsg line w with typ := tWrNc, data := some data, poison := poison, mask := if mask == 2 ^ 64 - 1 then none else some (BitVec.ofNat 64 mask) }

/-- Is a write of a unit of this hub still on its way to being visible (R118, R296): one that a test of its request names? -/
def Chip.wrOut (c : Chip) (p : Msg → Bool) : Bool := c.coh.far.any (fun f => f.msg.typ == tWrNc && p f.msg)

/-- Is a write for a use still on its way? -/
def Chip.useOut (c : Chip) (u : WrUse) : Bool := c.coh.far.any (fun f => f.use == u)

/-- A unit of the hub writes bytes of a line anywhere in the domain: at once, or as a WR_NC that its home takes in turn; the access goes on
when it is sent, and the home's answer ends its `use`, or it waits for the answer (log 14). -/
def Chip.hubWriteLine (c : Chip) (dev : Bool) (line : Nat) (data : Line) (mask : Nat) (poison : Bool) (w : Who) (use : WrUse := .plain) :
    HubRes × Chip :=
  let send := fun (c : Chip) =>
    (c.farUse (farMsg line w) (fun l => ⟨lineMerge l.data data mask, l.poison || poison⟩)).farPut (hubWrMsg line data mask poison w) use
  if !isNormal (64 * line) || !c.present (homePkg line) then
    if dev || c.decodeMiss (64 * line) then c.devWrite line data mask w use else (.bus, c)
  else if homePkg line != c.pkg then
    if c.fencedPkg (homePkg line) then (.bus, c) else send c
  else
    match c.homeCheck line w rightW with
    | .ok =>
      if c.lineHard line then send c
      else
        match (c.homeLook w).homeStore line data mask poison w with
        | some c => (.ok, c)
        | none => send c
    | r => (r, c.homeNote line (64 * line) w rightW r)

/-- A command whose unit of the hub lacks a line does nothing but ask for it; with every line at hand it runs whole, and uses them up
(R179, R182; log 14). -/
def Chip.whole (c : Chip) (f : Chip → Chip) : Chip :=
  let r := f { c with coh := { c.coh with wants := some none } }
  match r.coh.wants with
  | some (some m) => c.farAsk m
  | some none | none => { r with coh := { r.coh with wants := none, far := r.coh.far.filter (fun x => !x.used) } }

/-- A command of units of the hub that waits where they lack something. -/
def State.runWhole (s : State) (f : Chip → Chip) : Host.Outcome State Fault Refusal := s.run (fun c => c.whole f)

/-- The mask of `n` bytes from offset `o` of a line. -/
def byteMask (o n : Nat) : Nat := ((2 ^ n - 1) <<< o) % 2 ^ 64

/-- Write `n` bytes of a number at an address, line by line, poisoned or not: the worst outcome of its lines. The first argument
bounds the lines. -/
def Chip.hubWriteN (dev : Bool) (use : WrUse) : Nat → Chip → Nat → Nat → Nat → Bool → Who → HubRes × Chip
  | 0, c, _, _, _, _, _ => (.ok, c)
  | f + 1, c, a, n, v, bad, w =>
    if n = 0 then (.ok, c)
    else
      let o := a % 64
      let k := min n (64 - o)
      let (r, c) := c.hubWriteLine dev (a / 64) (BitVec.ofNat 512 ((v % 2 ^ (8 * k)) <<< (8 * o))) (byteMask o k) bad w use
      match r with
      | .ok => Chip.hubWriteN dev use f c (a + k) (n - k) (v >>> (8 * k)) bad w
      | r => (r, (Chip.hubWriteN dev use f c (a + k) (n - k) (v >>> (8 * k)) bad w).2)

/-- Write `n` bytes of an area of R459. -/
def Chip.hubWrite (c : Chip) (a n v : Nat) (w : Who) (use : WrUse := .plain) : HubRes × Chip := Chip.hubWriteN false use (n / 64 + 2) c a n v false w

/-- Read `n` bytes at an address, line by line: the outcome, whether any byte is poisoned, and the value. -/
def Chip.hubReadN (dev : Bool) : Nat → Chip → Nat → Nat → Who → HubRes × Bool × Nat × Chip
  | 0, c, _, _, _ => (.ok, false, 0, c)
  | f + 1, c, a, n, w =>
    if n = 0 then (.ok, false, 0, c)
    else
      let o := a % 64
      let k := min n (64 - o)
      let (r, ld, c) := c.hubRead dev (a / 64) w
      match r with
      | .ok =>
        let (r2, p2, v2, c) := Chip.hubReadN dev f c (a + k) (n - k) w
        (r2, ld.poison || p2, lineGet ld.data o k + v2 <<< (8 * k), c)
      | r => (r, true, 0, c)

/-- Read `n` bytes of an area of R459, or of one that may lie in a device range. -/
def Chip.hubReadB (c : Chip) (a n : Nat) (w : Who) : HubRes × Bool × Nat × Chip := Chip.hubReadN false (n / 64 + 2) c a n w
def Chip.anyReadB (c : Chip) (a n : Nat) (w : Who) : HubRes × Bool × Nat × Chip := Chip.hubReadN true (n / 64 + 2) c a n w

/-- The hub acting for itself: tenant 0, in a world (R320). -/
def Chip.hubWho (c : Chip) (cls inst tenant : Nat) (secure : Bool) : Who := ⟨hubAgent c.pkg cls inst, tenant, secure, 3, 0⟩

end Sys2Proof.Machine
end

