-- ==== Sys2Proof/Machine/Drain.lean ====
section
/-! DEFINITION. Machine/Drain.lean: the Seurv core drains the audit ring to its DRAM and MRAM sinks (R346, R347). -/
namespace Sys2Proof.Machine

/-- The audit drain's accesses carry Secure and tenant 0 (R320, R347). -/
def Chip.drainWho (c : Chip) : Who := c.hubWho 6 1 0 true

/-- The MRAM header: AUD_SEQ and AUD_DIGEST at OFFSET × 64 KiB (R347). -/
def Chip.mramHeader (c : Chip) : Chip :=
  if c.on Reg.AUD_CTRL.MRAM_EN then
    let a := c.get Reg.AUD_MRAM.OFFSET * 65536
    { c with mram := c.mram.write a 64 (c.get Reg.AUD_SEQ.SEQ + c.get (Reg.AUD_DIGEST.DIGEST 0) <<< 64 +
        c.get (Reg.AUD_DIGEST.DIGEST 1) <<< 128 + c.get (Reg.AUD_DIGEST.DIGEST 2) <<< 192 + c.get (Reg.AUD_DIGEST.DIGEST 3) <<< 256) }
  else c

/-- Change a record of the ring. -/
def Chip.ringMod (c : Chip) (seq : Nat) (f : AudRec → AudRec) : Chip :=
  { c with aud := { c.aud with ring := c.aud.ring.map (fun r => if r.seq = seq then f r else r) } }

/-- The next record goes to the MRAM sink, where the oldest one is overwritten; the header follows every 65,536 records
(R347). -/
def Chip.drainMram (c : Chip) : Chip :=
  if !c.on Reg.AUD_CTRL.MRAM_EN then c
  else
    match c.aud.ring.find? (fun r => !r.inMram) with
    | none => c
    | some r =>
      let a := c.get Reg.AUD_MRAM.OFFSET * 65536 + 64 + 32 * (r.seq % 2 ^ c.get Reg.AUD_MRAM.LOG2)
      let c := ({ c with mram := c.mram.write a 32 r.data } : Chip).ringMod r.seq (fun r => { r with inMram := true })
      if (r.seq + 1) % 65536 = 0 then c.mramHeader else c

/-- DRAM_FULL or DRAM_REFUSED is set: AUD_IRQ is sent when it was clear (R347; spec/13, Registers). -/
def Chip.sinkFlag (c : Chip) (f : Fld) : Chip :=
  if c.on f then c else (c.put f 1).irqReg Reg.AUD_IRQ.AGENT Reg.AUD_IRQ.VEC Reg.AUD_IRQ.EN

/-- The DRAM sink stops (R347). -/
def Chip.dramSinkStop (c : Chip) : Chip := c.sinkFlag Reg.AUD_STATUS.DRAM_REFUSED

/-- The next record goes to the DRAM sink: CONS is read before it, a full sink waits, a failed access stops it (R347). -/
def Chip.drainDram (c : Chip) : Chip :=
  if !c.on Reg.AUD_CTRL.DRAM_EN || c.on Reg.AUD_STATUS.DRAM_REFUSED then c
  else
    match c.aud.ring.find? (fun r => !r.inDram) with
    | none => c
    | some r =>
      let base := c.get Reg.AUD_DRAM.BASE * 65536
      match c.hubReadB base 8 c.drainWho with
      | (.ok, false, cons, c) =>
        let n := 2 ^ c.get Reg.AUD_DRAM.LOG2
        let prod := c.aud.dramCount
        if (prod + 2 ^ 64 - cons) % 2 ^ 64 = n then c.sinkFlag Reg.AUD_STATUS.DRAM_FULL
        else
          match (c.put Reg.AUD_STATUS.DRAM_FULL 0).hubWrite (base + 64 + 32 * (prod % n)) 32 r.data c.drainWho .awaited with
          | (.ok, c) =>
            match c.hubWrite (base + 8) 8 (prod + 1) c.drainWho .awaited with
            | (.ok, c) =>
              ({ c with aud := { c.aud with dramCount := prod + 1 } } : Chip).ringMod r.seq (fun r => { r with inDram := true })
            | (_, c) => c.dramSinkStop
          | (_, c) => c.dramSinkStop
      | (_, _, _, c) => c.dramSinkStop

/-- Drop the records at the front that every enabled sink holds. -/
def ringFree (dram mram : Bool) : List AudRec → List AudRec
  | [] => []
  | r :: l => if (r.inDram || !dram) && (r.inMram || !mram) then ringFree dram mram l else r :: l

/-- Slots free once their records are in every enabled sink; with no sink enabled none does (R347). -/
def Chip.ringFreeAll (c : Chip) : Chip :=
  let d := c.on Reg.AUD_CTRL.DRAM_EN
  let m := c.on Reg.AUD_CTRL.MRAM_EN
  if d || m then ({ c with aud := { c.aud with ring := ringFree d m c.aud.ring } }).audSync else c

/-- AUDIT_DRAIN: each enabled sink takes its next record; the DRAM sink's takes its time where a line of it is not at hand. -/
def Chip.auditDrain (c : Chip) : Chip := (c.drainMram.whole Chip.drainDram).ringFreeAll

def execAuditDrain (s : State) : Host.Outcome State Fault Refusal := s.run Chip.auditDrain

/-- Every record of the ring goes to the MRAM sink. -/
def Chip.mramAll (c : Chip) : Chip := ((List.range c.aud.ring.length).foldl (fun (c : Chip) _ => c.drainMram) c).ringFreeAll

/-- The ring drains to MRAM, and so do the waiting records that find slots then, in at most `n` turns. -/
def Chip.mramTurns : Nat → Chip → Chip
  | 0, c => c.mramAll
  | n + 1, c =>
    let c := c.mramAll
    if c.aud.waiting.isEmpty || decide (audSlots ≤ c.aud.ring.length) then c else Chip.mramTurns n (c.hwFill c.aud.waiting.length)

/-- Finish the MRAM drain and write the header, as a warm reset and Freewheel entry do first (R347). -/
def Chip.mramFinish (c : Chip) : Chip := (Chip.mramTurns c.aud.waiting.length c).mramHeader

/-- AUD_CTRL is written: DRAM_EN that becomes 1 writes PROD = 0, and record 0 of the sink is the oldest in the ring (R347). -/
def Chip.dramSinkStart (c : Chip) : Chip :=
  let c := { c with aud := { c.aud with dramCount := 0, ring := c.aud.ring.map (fun (r : AudRec) => { r with inDram := false }) } }
  match c.hubWrite (c.get Reg.AUD_DRAM.BASE * 65536 + 8) 8 0 c.drainWho .audit with
  | (.ok, c) => c
  | (_, c) => c.dramSinkStop

end Sys2Proof.Machine
end

