-- ==== Sys2Proof/Machine/CtxOps.lean ====
section
/-! DEFINITION. Machine/CtxOps.lean: contexts as the rest of the package sees them: their cs_* registers (R129), their state (R71), the choice of the
next one (R72, R74), what entering HELD and a context reset discard (R73), and interrupt delivery (R131). -/
namespace Sys2Proof.Machine

/-! ### Access -/

def Chip.ctxOf (c : Chip) (x : Nat) : Ctx := SMap.getD c.ctx x Ctx.init
def Chip.ctxSet (c : Chip) (x : Nat) (k : Ctx) : Chip := { c with ctx := SMap.put c.ctx Ctx.init x k }
def Chip.ctxMod (c : Chip) (x : Nat) (f : Ctx → Ctx) : Chip := c.ctxSet x (f (c.ctxOf x))
def Chip.coreOf (c : Chip) (k : Nat) : CoreSt := SMap.getD c.core k CoreSt.init
def Chip.coreMod (c : Chip) (k : Nat) (f : CoreSt → CoreSt) : Chip := { c with core := SMap.put c.core CoreSt.init k (f (c.coreOf k)) }

/-- Die, core of the die and context of the core of context x = 80d + 4k + c. -/
def ctxDie (x : Nat) : Nat := x / 80
def ctxCore (x : Nat) : Nat := x % 80 / 4
def ctxNum (x : Nat) : Nat := x % 4
/-- Core 20d + k and cluster 5d + cl of a context. -/
def coreIx (x : Nat) : Nat := x / 4
def cluIx (x : Nat) : Nat := x / 16

/-- States of R71. -/
def cxOff : Nat := 0
def cxIdle : Nat := 1
def cxReady : Nat := 2
def cxRunning : Nat := 3
def cxMemwait : Nat := 4
def cxHeld : Nat := 5

def fState (x : Nat) : Fld := Reg.CORE_CTX_STATUS.STATE (ctxDie x) (ctxCore x) (ctxNum x)
def fTenant (x : Nat) : Fld := Reg.CORE_CTX_STATUS.TENANT (ctxDie x) (ctxCore x) (ctxNum x)
def fWorld (x : Nat) : Fld := Reg.CORE_CTX_STATUS.WORLD (ctxDie x) (ctxCore x) (ctxNum x)
def fPriv (x : Nat) : Fld := Reg.CORE_CTX_STATUS.PRIV (ctxDie x) (ctxCore x) (ctxNum x)
def Chip.cxState (c : Chip) (x : Nat) : Nat := c.get (fState x)
def Chip.cxTenant (c : Chip) (x : Nat) : Nat := c.get (fTenant x)
def Chip.cxSecure (c : Chip) (x : Nat) : Bool := c.on (fWorld x)
def Chip.cxPriv (c : Chip) (x : Nat) : Nat := c.get (fPriv x)
/-- Agent ID of a context of this package. -/
def Chip.cxAgent (c : Chip) (x : Nat) : Nat := agentOfCtx c.pkg x
/-- Does an agent ID name a context of this package? -/
def Chip.ownCtx (c : Chip) (a : Nat) : Bool := isCtxAgent a && agPkg a == c.pkg
/-- Is the context present (R22)? -/
def Chip.cxPresent (c : Chip) (x : Nat) : Bool := decide (x < 960) && c.corePresent (ctxDie x) (ctxCore x)

/-- The core's C-state (R401): 0 C0, 1 C1, 2 C3, 3 off. -/
def fCstate (k : Nat) : Fld := Reg.PWR_CORE_STATUS.CSTATE (k / 20) (k % 20)
def Chip.cstate (c : Chip) (k : Nat) : Nat := c.get (fCstate k)

/-! ### Control registers (R129) -/

/-- cs_* numbers. -/
def csStatus : Nat := 0x000
def csVecS : Nat := 0x001
def csVecH : Nat := 0x002
def csTfS : Nat := 0x003
def csTfH : Nat := 0x004
def csDeleg : Nat := 0x005
def csIrqDeleg : Nat := 0x006
def csIrqPend : Nat := 0x007
def csIrqEn : Nat := 0x008
def csIrqWorld : Nat := 0x009
def csPtbase : Nat := 0x00A
def csTlbInval : Nat := 0x00B
def csTenant : Nat := 0x00C
def csTimerCmp : Nat := 0x00D
def csIpi : Nat := 0x00E
def csIpiStatus : Nat := 0x00F
def csBuserr : Nat := 0x010
def csFpFlags : Nat := 0x020
def csRepCount : Nat := 0x021
def csRepStart : Nat := 0x022
def csRepEnd : Nat := 0x023
def csCtxId : Nat := 0x024

/-- Registers with one copy per world. -/
def csBanked (n : Nat) : Bool := n ≤ csIrqDeleg || n == csPtbase

/-- Key of a register's copy for a world. -/
def csKey (n : Nat) (secure : Bool) : Nat := if secure && csBanked n then n + 0x1000 else n

def Ctx.csGet (k : Ctx) (n : Nat) (secure : Bool) : Nat := SMap.getD k.cs (csKey n secure) 0
def Ctx.csPut (k : Ctx) (n : Nat) (secure : Bool) (v : Nat) : Ctx := { k with cs := SMap.put k.cs 0 (csKey n secure) (v % m64) }

def Chip.csr (c : Chip) (x n : Nat) : Nat := (c.ctxOf x).csGet n (c.cxSecure x)
def Chip.csw (c : Chip) (x n v : Nat) : Chip := c.ctxMod x (fun k => k.csPut n (c.cxSecure x) v)

/-- Bits of cs_status. -/
def stSie : Nat := 3
def stHie : Nat := 4
def stBusyS : Nat := 5
def stBusyH : Nat := 6

/-- cs_status whole: level and world from the context, the rest from its world's copy. -/
def Chip.statusOf (c : Chip) (x : Nat) : Nat := c.cxPriv x + b2n (c.cxSecure x) * 4 + bits (c.csr x csStatus) 3 4 * 8

def Chip.stBit (c : Chip) (x i : Nat) : Bool := bit (c.csr x csStatus) i
def Chip.stSet (c : Chip) (x i : Nat) (b : Bool) : Chip := c.csw x csStatus (setBits (c.csr x csStatus) i 1 (b2n b))

/-- cs_irq_pend: what was set, and bit 63 while the timer holds it. -/
def Chip.irqPend (c : Chip) (x : Nat) : Nat :=
  let k := c.ctxOf x
  let cmp := k.csGet csTimerCmp false
  if cmp ≠ 0 && decide (cmp ≤ c.time) then k.irqs ||| 2 ^ 63 else k.irqs

/-- Is a number listed in R129? -/
def csListed (n : Nat) : Bool := n ≤ 0x010 || (0x020 ≤ n && n ≤ 0x024)

/-- Lowest level that may read some field, and that may write some field (3: none). -/
def csReadLevel (n : Nat) : Nat :=
  if n = csStatus || csFpFlags ≤ n then 0
  else if n = csVecH || n = csTfH || n = csDeleg || n = csIrqDeleg || n = csIrqWorld || n = csTenant then 2
  else 1

def csWriteLevel (n : Nat) : Nat :=
  if n = csFpFlags then 0
  else if csRepCount ≤ n then 3
  else if n = csVecH || n = csTfH || n = csDeleg || n = csIrqDeleg || n = csIrqWorld || n = csTenant then 2
  else 1

/-- What CSRD returns (R129). -/
def Chip.csRead (c : Chip) (x n : Nat) : Nat :=
  let lvl := c.cxPriv x
  if n = csStatus then
    let s := c.statusOf x
    bits s 0 3 + (if 1 ≤ lvl then bits s 3 1 * 8 + bits s 5 1 * 32 else 0) + (if 2 ≤ lvl then bits s 4 1 * 16 + bits s 6 1 * 64 else 0)
  else if n = csIrqPend then c.irqPend x
  else if n = csTenant then c.cxTenant x
  else if n = csTlbInval || n = csIpi then 0
  else if n = csCtxId then c.cxAgent x
  else c.csr x n

/-! ### Interrupts -/

/-- The target level of a vector: S where it is delegated (R132). -/
def Chip.irqLevel (c : Chip) (x v : Nat) : Nat := if bit (c.csr x csIrqDeleg) v then 1 else 2

/-- Is vector v deliverable (R134)? -/
def Chip.irqReady (c : Chip) (x v : Nat) : Bool :=
  bit (c.irqPend x) v && bit (c.csr x csIrqEn) v && bit (c.csr x csIrqWorld) v == c.cxSecure x &&
    (if c.irqLevel x v = 1 then c.cxPriv x == 0 || (c.cxPriv x == 1 && c.stBit x stSie)
     else decide (c.cxPriv x < 2) || c.stBit x stHie)

/-- The deliverable vector with the highest number (R134). -/
def Chip.irqBest (c : Chip) (x : Nat) : Option Nat := ((List.range 64).reverse).find? (c.irqReady x)

/-! ### Counts of a context -/

/-- Outstanding memory operations of a context. -/
def Ctx.misses (k : Ctx) : Nat := k.loads.length + (k.sq.filter (fun e => e.amo != 0)).length

/-- Pending results by R67's count: flags of a discarded register result are none. -/
def Ctx.pendCount (k : Ctx) : Nat := (k.pend.filter (fun p => p.code != 0x71)).length + k.applied

/-- Refresh PEND and MISS of CORE_CTX_STATUS (R67). -/
def Chip.ctxSync (c : Chip) (x : Nat) : Chip :=
  let k := c.ctxOf x
  c.puts [(Reg.CORE_CTX_STATUS.PEND (ctxDie x) (ctxCore x) (ctxNum x), k.pendCount),
    (Reg.CORE_CTX_STATUS.MISS (ctxDie x) (ctxCore x) (ctxNum x), k.misses)]

/-! ### Choosing a context (R72, R74) -/

/-- Contexts of core k after the one last chosen, in turn. -/
def Chip.coreOrder (c : Chip) (k : Nat) : List Nat :=
  (List.range 4).map (fun j => 4 * k + ((c.coreOf k).last + 1 + j) % 4)

def Chip.coreRunning (c : Chip) (k : Nat) : Option Nat := ((List.range 4).map (4 * k + ·)).find? (fun x => c.cxState x == cxRunning)

/-- If no context of the core runs, the first READY one after the last chosen is chosen; `noCost`: it leaves a whole-core
stall that it caused (R72, R74). -/
def Chip.coreChoose (c : Chip) (k : Nat) (noCost : Bool) : Chip :=
  match c.coreRunning k with
  | some _ => c
  | none =>
    match (c.coreOrder k).find? (fun x => c.cxState x == cxReady) with
    | none => c.coreMod k (fun s => { s with switching := false })
    | some x =>
      let free := noCost && (c.coreOf k).issued == some (x % 4)
      ((c.put (fState x) cxRunning).coreMod k (fun s => { s with last := x % 4, switching := !free, preempt := false, stalled := false, quantum := c.get (Reg.CORE_SCHED.QUANTUM (k / 20) (k % 20)) })).ctxMod x
        (fun s => { s with switched := free })

/-- A context leaves RUNNING, or its state changes: the core chooses again (R72). -/
def Chip.cxLeave (c : Chip) (x st : Nat) : Chip :=
  let was := c.cxState x
  let c := c.put (fState x) st
  if was == cxRunning then c.coreChoose (coreIx x) false else c

/-- Forget the line accesses of a context: their fills are dropped when they return. -/
def Chip.dropOps (c : Chip) (x : Nat) : Chip :=
  let ids := (c.coh.ops.filter (fun o => o.ctx == x)).map (·.id)
  { c with coh := { c.coh with
      ops := c.coh.ops.filter (fun o => o.ctx != x)
      l3reqs := c.coh.l3reqs.map (fun r => if ids.contains r.op then { r with op := 0 } else r) } }

/-- Core k gives up an entry into C3: the save writes not yet performed go (R403). -/
def Chip.c3Abandon (c : Chip) (k : Nat) : Chip :=
  if (c.coreOf k).c3 = 1 || (c.coreOf k).c3 = 2 then
    ((List.range 4).foldl (fun (c : Chip) j =>
      (c.dropOps (4 * k + j)).ctxMod (4 * k + j) (fun (q : Ctx) => { q with sq := q.sq.filter (fun e => e.kind != .save) })) c).coreMod k
      (fun s => { s with c3 := 0 })
  else c

/-- Something wakes core k: it leaves C1, giving up an entry into C3 that runs, or will leave C3 (R401, R403). -/
def Chip.coreWake (c : Chip) (k : Nat) : Chip :=
  if c.cstate k == 1 then ((c.c3Abandon k).put (fCstate k) 0).coreMod k (fun s => { s with waking := true })
  else if c.cstate k == 2 then c.coreMod k (fun s => { s with c3 := 3 })
  else c

/-- A READY context that holds a deliverable interrupt preempts the running one, where CORE_SCHED.IRQ_PREEMPT says so (R72, R134). -/
def Chip.preemptBy (c : Chip) (x : Nat) : Chip :=
  if c.cxState x == cxReady && c.on (Reg.CORE_SCHED.IRQ_PREEMPT (ctxDie x) (ctxCore x)) && (c.coreRunning (coreIx x)).isSome
      && (c.irqBest x).isSome then
    c.coreMod (coreIx x) (fun s => { s with preempt := true })
  else c

/-- A context becomes READY: a gated core leaves C1, and an idle core takes it (R71, R74, R401); with an interrupt that is held for it,
it may preempt (R72). -/
def Chip.cxReadyNow (c : Chip) (x : Nat) : Chip :=
  let k := coreIx x
  let stall := c.cxState x == cxMemwait
  let c := c.put (fState x) cxReady
  let c := c.coreWake k
  (if c.cstate k == 0 then c.coreChoose k stall else c).preemptBy x

/-- Everything a MEMWAIT context waits for has come (R71). -/
def Chip.cxWake (c : Chip) (x : Nat) : Chip :=
  let k := c.ctxOf x
  if c.cxState x == cxMemwait && k.missOps.isEmpty && !k.waitSq && !k.waitFetch then c.cxReadyNow x else c

/-! ### Discarding (R73, R286) -/

/-- Break the held locks that a test picks (R373). -/
def Chip.breakLocks (c : Chip) (p : Nat → Bool) : Chip :=
  (List.range 64).foldl (fun c n =>
    if c.on (Reg.CFG_LOCK.HELD n) && p n then
      (c.puts [(Reg.CFG_LOCK.HELD n, 0), (Reg.CFG_LOCK.BROKEN n, 1)]).count Reg.CFG_LOCK_CNT.BROKEN 1
    else c) c

/-- Pending results and outstanding memory operations go, and the context's locks break (R373); store-queue entries not yet drained go (R73, R286). -/
def Chip.ctxDiscard (c : Chip) (x : Nat) : Chip :=
  let c := c.breakLocks (fun n => c.get (Reg.CFG_LOCK.OWNER n) == c.cxAgent x)
  let c := if (c.ctxOf x).sample.isSome then c.count (Reg.PMU_SMP_CNT.LOST (ctxDie x) (ctxCore x)) 1 else c
  (((c.dropOps x).coreMod (coreIx x) (fun s => { s with units := s.units.filter (fun u => u.ctx != x) })).ctxMod x (fun k =>
    { k with pend := [], applied := 0, sq := [], stWait := [], loads := [], walk := none, fetchOp := 0, serial := none, trap := none, missOps := [],
             waitSq := false, waitFetch := false, sample := none })).ctxSync x

/-- Fields of reset kind context that belong to context x. -/
def ctxFields (x : Nat) : List Fld :=
  let d := ctxDie x
  let k := ctxCore x
  let n := ctxNum x
  [Reg.CORE_CTX_STATUS.STATE d k n, Reg.CORE_CTX_STATUS.PEND d k n, Reg.CORE_CTX_STATUS.MISS d k n,
   Reg.CORE_CTX_STATUS.TENANT d k n, Reg.CORE_CTX_STATUS.WORLD d k n, Reg.CORE_CTX_STATUS.PRIV d k n, Reg.REG_CTX_MAP.ENT x]

/-- Every field of a list takes its reset value. -/
def Chip.resetFlds (c : Chip) (l : List Fld) : Chip := l.foldl (fun c f => c.put f f.rst) c

/-- A frozen master is frozen no longer; its tenant's FROZEN falls. -/
def Chip.unfreezeKey (c : Chip) (key tenant : Nat) : Chip :=
  if (SMap.get? c.frozen key).isSome then
    ({ c with frozen := SMap.erase c.frozen key }).put (Reg.TNT_ENT.FROZEN tenant) (c.get (Reg.TNT_ENT.FROZEN tenant) - 1)
  else c

/-- A context reset (R73). -/
def Chip.ctxReset (c : Chip) (x : Nat) : Chip :=
  let run := c.cxState x == cxRunning
  let c := c.unfreezeKey x (c.cxTenant x)
  let c := ((c.ctxDiscard x).ctxSet x Ctx.init).resetFlds (ctxFields x)
  if run then c.coreChoose (coreIx x) false else c

/-- CORE_CTX_CTRL.START of context x by a writer of a world: an OFF context of a cluster that is on becomes READY at
CORE_CTX_ENTRY, at level H, in the writer's world, with tenant 0, unless the boot ROM has stopped (R71, R320, R360, R405). -/
def Chip.ctxStart (c : Chip) (secure : Bool) (x : Nat) : Chip :=
  if !c.cxPresent x || c.on (Reg.PWR_CL_CTRL.OFF (ctxDie x) (ctxCore x / 4)) || c.cxState x != cxOff || c.bootStopped then c
  else
    let c := c.c3Abandon (coreIx x)
    let c := c.ctxMod x (fun k => { k with pc := 32 * c.get (Reg.CORE_CTX_ENTRY.ADDR (ctxDie x) (ctxCore x) (ctxNum x)), idx := 0 })
    (c.puts [(fWorld x, b2n secure), (fPriv x, 2)]).cxReadyNow x

/-- A context reset of a present context; a core in C3 wakes (R73, R401). -/
def Chip.ctxResetEv (c : Chip) (x : Nat) : Chip :=
  if !c.cxPresent x then c else ((c.c3Abandon (coreIx x)).ctxReset x).coreWake (coreIx x)

/-- CORE_CTX_CTRL.RESET, with the START that follows it: 1 none, 2 in Normal, 3 in Secure. -/
def Chip.ctxResetThen (c : Chip) (x how : Nat) : Chip :=
  let c := c.ctxResetEv x
  if 2 ≤ how then c.ctxStart (how == 3) x else c

/-- A bundle boundary of a context: a RESET that waited for it is carried out. -/
def Chip.boundary (c : Chip) (x : Nat) : Chip :=
  let k := c.ctxOf x
  if k.resetWait != 0 && k.serial.isNone then c.ctxResetThen x k.resetWait else c

/-! ### Interrupt messages (R131) -/

/-- Remove the first interrupt message for an agent and vector. -/
def dropIrq (a v : Nat) : List Irq → List Irq
  | [] => []
  | i :: l => if i.agent = a && i.vec = v then l else i :: dropIrq a v l

/-! ### The store queue (R33) -/

/-- Stores of a context's queue that count against its 16 entries: not AMOs, which hold entries of the load miss queue (R70), nor the
writes of a core's save image (R403). -/
def Ctx.sqCount (k : Ctx) : Nat := (k.sq.filter (fun e => e.amo == 0 && e.kind != .save)).length

/-- Stores that waited for an entry of the queue take the free ones, in order (R33). -/
def Ctx.sqRefill (k : Ctx) : Ctx :=
  { k with sq := k.sq ++ k.stWait.take (16 - k.sqCount), stWait := k.stWait.drop (16 - k.sqCount) }

/-- An entry leaves the queue: stores that waited enter it, and the wait for an entry ends when there is one. -/
def Ctx.sqGone (k : Ctx) (seq : Nat) : Ctx :=
  let q := ({ k with sq := k.sq.filter (fun e => e.seq != seq) }).sqRefill
  { q with waitSq := q.waitSq && (if k.stWait.isEmpty then decide (16 ≤ q.sqCount) else !q.stWait.isEmpty) }

end Sys2Proof.Machine
end

