-- ==== Sys2Proof/Machine/Queue.lean ====
section
/-! DEFINITION. Machine/Queue.lean: queue descriptors in memory and in the HQE's cache (R292, R300), function entries
(R379), fault records (R299) and freeze records (R289). -/
namespace Sys2Proof.Machine

/-! ### FREEZE_INFO (R289) -/

/-- A freeze as it is recorded, but its TIME. -/
structure FInfo where
  cause : Nat
  kind : Nat
  write : Bool
  world : Bool
  tenant : Nat
  region : Nat
  master : Nat
  addr : Nat
  checker : Nat
  origin : Nat
  deriving DecidableEq, Repr

def FInfo.w0 (i : FInfo) : Nat :=
  i.cause % 2 ^ 8 + (i.kind % 4) <<< 8 + b2n i.write <<< 10 + b2n i.world <<< 11 + (i.tenant % 2 ^ 12) <<< 12
    + (i.region % 2 ^ 5) <<< 24 + (i.master % 2 ^ 20) <<< 32
def FInfo.w1 (i : FInfo) : Nat := i.addr % 2 ^ 52
def FInfo.w3 (i : FInfo) : Nat := i.checker % 2 ^ 16 + (i.origin % 2 ^ 16) <<< 16
/-- The four words, recorded at a TIME. -/
def FInfo.words (i : FInfo) (time : Nat) : List Nat := [i.w0, i.w1, time, i.w3]
/-- The record back from its words (the layout of R289 read the other way). -/
def FInfo.ofWords (w0 w1 w3 : Nat) : FInfo :=
  ⟨bits w0 0 8, bits w0 8 2, bit w0 10, bit w0 11, bits w0 12 12, bits w0 24 5, bits w0 32 20, bits w1 0 52, bits w3 0 16, bits w3 16 16⟩

/-- Causes of R289. -/
def fzRegion : Nat := 0x01
def fzQueueProt : Nat := 0x02
def fzYarrow : Nat := 0x03
def fzMisuse : Nat := 0x04
def fzDoorbell : Nat := 0x05
def fzCtrl : Nat := 0x06
def fzDouble : Nat := 0x10
def fzFrame : Nat := 0x11
def fzCoh : Nat := 0x12
def fzLost : Nat := 0x13
def fzTenant : Nat := 0x14
def fzExplicit : Nat := 0x15
def fzReset : Nat := 0x16
def fzIo : Nat := 0x17

/-- Numbers of 64-bit words as one number, first word lowest. -/
def packWords (l : List Nat) : Nat := l.foldr (fun w acc => w % 2 ^ 64 + acc <<< 64) 0

/-- Keys of masters in the list of frozen ones. -/
def keyQ (q : Nat) : Nat := 2 ^ 20 + q % 2 ^ 20
def keyF (port n : Nat) : Nat := 2 ^ 21 + 8192 * port + n

/-! ### Queue descriptors (R292) -/

/-- Address of queue q's descriptor. -/
def Chip.qAddr (c : Chip) (q : Nat) : Nat := c.get Reg.HQE_QTAB.BASE * 2 ^ 27 + 128 * q

/-- The HQE acting for itself: tenant 0, Secure (R292, R320). -/
def Chip.hqeWho (c : Chip) : Who := c.hubWho 3 0 0 true

def qSet (w : List Nat) (i lo n v : Nat) : List Nat := w.set i (setBits (qw w i) lo n v)

def qState (w : List Nat) : Nat := bits (qw w 0) 0 2
def qTarget (w : List Nat) : Nat := bits (qw w 0) 2 1
def qSched (w : List Nat) : Nat := bits (qw w 0) 3 3
def qWorld (w : List Nat) : Bool := bit (qw w 0) 6
def qParked (w : List Nat) : Bool := bit (qw w 0) 7
def qSqLog (w : List Nat) : Nat := bits (qw w 0) 8 4
def qCqLog (w : List Nat) : Nat := bits (qw w 0) 12 4
def qOwner (w : List Nat) : Nat := bits (qw w 0) 16 12
def qPool (w : List Nat) : Nat := bits (qw w 0) 32 8
def qQuantum (w : List Nat) : Nat := bits (qw w 0) 40 8
def qFunc (w : List Nat) : Nat := bits (qw w 0) 48 16
def qSqBase (w : List Nat) : Nat := bits (qw w 1) 6 46 * 64
def qCqBase (w : List Nat) : Nat := bits (qw w 2) 4 48 * 16
def qFault (w : List Nat) : Nat := bits (qw w 3) 6 46 * 64
def qIrqAgent (w : List Nat) : Nat := bits (qw w 4) 0 16
def qIrqVec (w : List Nat) : Nat := bits (qw w 4) 16 6
def qIrqEn (w : List Nat) : Bool := bit (qw w 4) 22
def qSqTail (w : List Nat) : Nat := bits (qw w 5) 0 24
def qSqFetch (w : List Nat) : Nat := bits (qw w 5) 32 24
def qCqTail (w : List Nat) : Nat := bits (qw w 6) 0 24
def qCqHead (w : List Nat) : Nat := bits (qw w 6) 32 24

def qOff : Nat := 0
def qIdle : Nat := 1
def qActive : Nat := 2
def qFrozen : Nat := 3

/-- What a queue's accesses carry (R295, R320). -/
def Chip.qWho (c : Chip) (q : Nat) (w : List Nat) : Who := ⟨hubAgent c.pkg 3 (qSched w), qOwner w, qWorld w, 1, q⟩

/-- The words of a number, eight of 64 bits. -/
def wordsOf (n v : Nat) : List Nat := (List.range n).map (fun i => bits v (64 * i) 64)

/-- A queue's descriptor words: from the cache, else from memory; none where the read fails (R294). -/
def Chip.qGet (c : Chip) (q : Nat) : Option (List Nat) × Chip :=
  match SMap.get? c.hqe.queues q with
  | some x => (some x.w, c)
  | none =>
    match c.hubReadB (c.qAddr q) 64 c.hqeWho with
    | (.ok, false, v, c) => (some (wordsOf 8 v), c)
    | (_, _, _, c) => (none, c)

def Chip.hqeMod (c : Chip) (f : HqeSt → HqeSt) : Chip := { c with hqe := f c.hqe }

/-- Refresh HQE_CACHE_STATUS. -/
def Chip.hqeSync (c : Chip) : Chip :=
  c.puts [(Reg.HQE_CACHE_STATUS.VALID, c.hqe.queues.length),
    (Reg.HQE_CACHE_STATUS.ACTIVE, (c.hqe.queues.filter (fun p => qState p.2.w == qActive)).length)]

/-- Write a descriptor's first 64 bytes to memory. -/
def Chip.qStore (c : Chip) (q : Nat) (w : List Nat) : Chip := (c.hubWrite (c.qAddr q) 64 (packWords w) c.hqeWho).2

/-- A queue's descriptor words change: in the cache where it is cached, else in memory. -/
def Chip.qPut (c : Chip) (q : Nat) (w : List Nat) : Chip :=
  match SMap.get? c.hqe.queues q with
  | some x => (c.hqeMod (fun h => { h with queues := SMap.set h.queues q { x with w := w } })).hqeSync
  | none => c.qStore q w

/-- A queue leaves the cache, its context written back to its descriptor (R300). -/
def Chip.qUncache (c : Chip) (q : Nat) : Chip :=
  match SMap.get? c.hqe.queues q with
  | some x => ((c.hqeMod (fun h => { h with queues := SMap.erase h.queues q })).qStore q x.w).hqeSync
  | none => c

/-- Contexts that the cache holds (R300). -/
def hqeCacheSize : Nat := 65536

/-- The spillable context whose last use is oldest (R300). -/
def Chip.qVictim (c : Chip) : Option Nat :=
  (c.hqe.queues.foldl (fun (b : Option (Nat × Nat)) p =>
    let s := qState p.2.w
    if s == qIdle || s == qFrozen then
      match b with
      | some (_, u) => if p.2.used < u then some (p.1, p.2.used) else b
      | none => some (p.1, p.2.used)
    else b) none).map (·.1)

/-- Note a use of a cached queue. -/
def Chip.qTouch (c : Chip) (q : Nat) : Chip :=
  c.hqeMod (fun h => { h with use := h.use + 1, queues := SMap.modify h.queues q (fun x => { x with used := h.use + 1 }) })

/-- Fill a queue's context: into a free entry or a spilled one; false where every entry holds an ACTIVE queue (R300). -/
def Chip.qFill (c : Chip) (q : Nat) (w : List Nat) : Bool × Chip :=
  if (SMap.get? c.hqe.queues q).isSome then (true, c.qTouch q)
  else
    let add := fun (c : Chip) =>
      ((c.hqeMod (fun h => { h with queues := SMap.set h.queues q ⟨qSet w 0 7 1 0, [], false, 0, 0, false⟩ })).qTouch q).hqeSync
    if c.hqe.queues.length < hqeCacheSize then (true, add c)
    else
      match c.qVictim with
      | some v => (true, add ((c.qUncache v).count Reg.HQE_CACHE_CNT.SPILLS 1))
      | none => (false, c)

/-- Park a queue: PARKED in its descriptor and its number in the park ring, where it stands at most once (R300). -/
def Chip.qPark (c : Chip) (q : Nat) (w : List Nat) : Chip :=
  if qParked w then c.qStore q w
  else
    let c := (c.qStore q (qSet w 0 7 1 1)).count Reg.HQE_CACHE_CNT.PARKS 1
    if c.hqe.inRing.contains q then c
    else
      let c := (c.hubWrite (c.get Reg.HQE_PARK.BASE * 2 ^ 22 + 4 * (c.hqe.parkTail % 2 ^ 20)) 4 q c.hqeWho).2
      c.hqeMod (fun h => { h with parkTail := h.parkTail + 1, inRing := h.inRing ++ [q] })

/-- A queue becomes ACTIVE: cached, or parked where the cache is full of ACTIVE queues (R300). -/
def Chip.qActivate (c : Chip) (q : Nat) (w : List Nat) : Chip :=
  match c.qFill q w with
  | (true, c) => c.qPut q (qSet (qSet w 0 0 2 qActive) 0 7 1 0)
  | (false, c) => c.qPark q (qSet w 0 0 2 qActive)

/-- The queue's tenant counts one queue more or less (R293). -/
def Chip.qCount (c : Chip) (t : Nat) (up : Bool) : Chip :=
  let n := c.get (Reg.TNT_ENT.QUEUES t)
  c.put (Reg.TNT_ENT.QUEUES t) (if up then n + 1 else n - 1)

/-- A queue enters OFF: out of the cache, its owner counts one queue less. -/
def Chip.qTurnOff (c : Chip) (q : Nat) (w : List Nat) : Chip :=
  let c := (c.qPut q (qSet (qSet w 0 0 2 qOff) 0 7 1 0)).qUncache q
  let c := (c.qCount (qOwner w) false).unfreezeKey (keyQ q) (qOwner w)
  c.hqeMod (fun h => { h with live := SMap.erase h.live q, off := SMap.set h.off q (qOwner w) })

/-! ### SQEs in flight -/

def Chip.qMod (c : Chip) (q : Nat) (f : QCtx → QCtx) : Chip := c.hqeMod (fun h => { h with queues := SMap.modify h.queues q f })

/-- Change an SQE in flight. -/
def Chip.sqeMod (c : Chip) (q idx : Nat) (f : Sqe → Sqe) : Chip :=
  c.qMod q (fun x => { x with sqes := x.sqes.map (fun e => if e.idx = idx then f e else e) })

/-- The SQE's first failure is its STATUS (R295, R297, R378); a failed access ends its requests where `stop`. -/
def Chip.sqeFail (c : Chip) (q idx status : Nat) (stop : Bool) : Chip :=
  c.sqeMod q idx (fun e => { e with status := if e.status = 0 then status else e.status, req := if stop then e.len else e.req, wr := if stop then [] else e.wr })

/-- An SQE whose read failed: it completes at once with a STATUS and USER 0. -/
def sqeEmpty (idx status : Nat) : Sqe :=
  { idx := idx, op := 0, fence := false, irq := false, len := 0, src := 0, dst := 0, user := 0, req := 0, status := status, out := 0, wr := [], cqe := false }

/-- The queue consumes the SQE that its ring read gave (R296). -/
def Chip.sqeTake (c : Chip) (q : Nat) (e : Sqe) : Chip :=
  c.qMod q (fun x => { x with fetching := false, sqes := x.sqes ++ [e], w := qSet x.w 5 32 24 (e.idx + 1) })

/-! ### Fault records (R299) -/

/-- The SQEs of a queue in flight. -/
def Chip.qSqes (c : Chip) (q : Nat) : List Sqe := ((SMap.get? c.hqe.queues q).map (·.sqes)).getD []

/-- Write the fault record to FAULT, where a refused write is no violation, and to the descriptor's copy; the SQEs in flight become DISCARDED. With none in flight
DISC_BASE is a free value: the spec names no index then (log 1). -/
def Chip.qFaultRecord (c : Chip) (q : Nat) (w info : List Nat) : Chip :=
  let l := c.qSqes q
  let (base, c) := match l with
    | e :: _ => (e.idx, c)
    | [] => let (v, c) := c.fresh; (v % 2 ^ 24, c)
  let mask := l.foldl (fun m e => let i := (e.idx + 2 ^ 24 - base) % 2 ^ 24; if i < 64 then m ||| 2 ^ i else m) 0
  let (_, _, old, c) := c.hubReadB (c.qAddr q + 0x78) 4 c.hqeWho
  let r := packWords (info ++ [base + l.length <<< 24, mask, qSqFetch w + qCqTail w <<< 32, (old + 1) % 2 ^ 32])
  let c := (c.hubWrite (qFault w) 64 r { c.qWho q w with kind := 3 }).2
  let c := (c.hubWrite (c.qAddr q + 0x40) 64 r c.hqeWho).2
  c.hqeMod (fun h => { h with queues := SMap.modify h.queues q (fun x => { x with sqes := [], fetching := false, quantum := 0 }) })

/-! ### Function entries (R379) -/

def Chip.fnAddr (c : Chip) (port n : Nat) : Nat := c.get (Reg.PCI_FTAB.BASE port) * 2 ^ 19 + 64 * n
/-- The hub's PCIe port acting on its tables: tenant 0 (R379), Secure (R320). -/
def Chip.portWho (c : Chip) (port : Nat) : Who := c.hubWho 4 port 0 true

def fnOff : Nat := 0
def fnRun : Nat := 1
def fnFrozen : Nat := 2
def fnResetting : Nat := 3
def feState (w : List Nat) : Nat := bits (qw w 0) 0 2
def feWorld (w : List Nat) : Bool := bit (qw w 0) 2
def feTenant (w : List Nat) : Nat := bits (qw w 0) 3 12
def feRent (w : List Nat) : Nat := bits (qw w 0) 15 12

/-- The entry's eight words; none where the read fails. -/
def Chip.fnGet (c : Chip) (port n : Nat) : Option (List Nat) × Chip :=
  match c.hubReadB (c.fnAddr port n) 64 (c.portWho port) with
  | (.ok, false, v, c) => (some (wordsOf 8 v), c)
  | (_, _, _, c) => (none, c)

def Chip.fnPut (c : Chip) (port n : Nat) (w : List Nat) : Chip :=
  (c.hubWrite (c.fnAddr port n) 64 (packWords w) (c.portWho port)).2

/-- The entry of a requester ID: FBUS-relative under root personality, the function number itself under endpoint
personality (R379). -/
def Chip.fnIndex (c : Chip) (port rid : Nat) : Option Nat :=
  if c.on (Reg.PCI_CFG.PERS port) then (if rid ≤ 4096 then some rid else none)
  else
    let b := c.get (Reg.PCI_CFG.FBUS port) * 256
    if b ≤ rid && rid < b + 4096 then some (rid - b) else none

/-- What a function's requests carry (R385). -/
def Chip.fnWho (c : Chip) (port rid : Nat) (w : List Nat) : Who :=
  ⟨hubAgent c.pkg 4 port, feTenant w, feWorld w, 2, port <<< 16 + rid⟩

end Sys2Proof.Machine
end

