-- ==== Sys2Proof/Machine/Tenant.lean ====
section
/-! DEFINITION. Machine/Tenant.lean: freezing and thawing masters (R285 to R291, R458, R462), tenant commands and their
answers (R281 to R283), and the tenant reset sequence (R284). -/
namespace Sys2Proof.Machine

/-- States of a tenant entry (R281). -/
def tnFree : Nat := 0
def tnActive : Nat := 1
def tnFrozen : Nat := 2
def tnResetting : Nat := 3
def Chip.tntState (c : Chip) (t : Nat) : Nat := c.get (Reg.TNT_ENT.STATE t)
def Chip.tntIrq (c : Chip) : Chip := c.irqReg Reg.TNT_IRQ.AGENT Reg.TNT_IRQ.VEC Reg.TNT_IRQ.EN
/-- Home slice 0, class 2: the tenant table's agent (R462). -/
def Chip.tableAgent (c : Chip) : Nat := hubAgent c.pkg 2 0

/-! ### Freezing -/

/-- A record of tenant t's freeze ring is dropped (R290). -/
def Chip.ringDrop (c : Chip) (t : Nat) : Chip := (c.count (Reg.TNT_SV_FRING.OVERRUN t) 1).count Reg.TNT_FREEZE_CNT.OVERRUNS 1

/-- Append a record to the freeze ring of tenant t; a full ring or a failed write drops it. PROD advances once the record is written; a
record that comes before that waits (R290). -/
def Chip.freezeRing (c : Chip) (t : Nat) (words : List Nat) : Chip :=
  if !c.on (Reg.TNT_ENT.FRING_EN t) then c
  else if c.useOut (.ring t) then c.hqeMod (fun h => { h with fring := h.fring ++ [(t, words)] })
  else
    let n := 2 ^ c.get (Reg.TNT_ENT.FRING_LOG2 t)
    let prod := c.get (Reg.TNT_SV_STATUS.PROD t)
    if (prod + 2 ^ 32 - c.get (Reg.TNT_SV_FRING.CONS t)) % 2 ^ 32 = n then c.ringDrop t
    else
      match c.hubWrite (c.get (Reg.TNT_ENT.FRING t) * 64 + 32 * (prod % n)) 32 (packWords words)
          ⟨c.tableAgent, t, c.on (Reg.TNT_ENT.WORLD t), 3, 0⟩ (.ring t) with
      | (.ok, c) => if c.useOut (.ring t) then c else c.addMod (Reg.TNT_SV_STATUS.PROD t) 1
      | (_, c) => c.ringDrop t

/-- The write of a freeze record is answered: PROD advances or the record is dropped, and the records that waited follow (R290). -/
def Chip.ringEnd (c : Chip) (t : Nat) (r : HubRes) : Chip :=
  let c := if r = .ok then c.addMod (Reg.TNT_SV_STATUS.PROD t) 1 else c.ringDrop t
  let l := c.hqe.fring.filter (fun p => p.1 == t)
  l.foldl (fun c p => c.freezeRing t p.2) (c.hqeMod (fun h => { h with fring := h.fring.filter (fun p => p.1 != t) }))

/-- What each freeze of a master of tenant t does (R290). -/
def Chip.freezeNote (c : Chip) (t : Nat) (words : List Nat) : Chip :=
  let c := c.freezeRing t words
  let c := if c.on (Reg.TNT_ENT.IRQ_EN t) then c.sendIrq (c.get (Reg.TNT_ENT.SV_AGENT t)) (c.get (Reg.TNT_ENT.IRQ_VEC t)) else c
  ((c.count (Reg.TNT_ENT.FROZEN t) 1).count Reg.TNT_FREEZE_CNT.FREEZES 1).tntIrq

/-- Freeze a context: it enters HELD, and TNT_CTXF holds the record (R73, R286, R289); a frame store that fails counts nothing further
(R135). A save write that fails its check only
ends the entry into C3 (R403). -/
def Chip.freezeCtx (c : Chip) (i : FInfo) : Chip :=
  let x := ctxOfAgent i.master
  if !c.ownCtx i.master || !decide (x < 960) then c
  else
    let t := c.cxTenant x
    if c.tntState t == tnResetting then c
    else if (c.coreOf (coreIx x)).c3 = 1 && i.cause = fzRegion then c.coreMod (coreIx x) (fun s => { s with c3 := 2 })
    else if (SMap.get? c.frozen x).isSome then (if i.cause = fzFrame then c else c.count Reg.TNT_FREEZE_CNT.FREEZES 1)
    else if c.cxState x == cxOff then c
    else
      let c := c.puts [(Reg.TNT_CTXF.W0 x, i.w0), (Reg.TNT_CTXF.W1 x, i.w1), (Reg.TNT_CTXF.W2 x, c.time), (Reg.TNT_CTXF.W3 x, i.w3)]
      let words := i.words c.time
      let c := ({ c with frozen := SMap.set c.frozen x i.cause }.ctxDiscard x).cxLeave x cxHeld
      (c.freezeNote t words).boundary x

/-- A command waits for queue q: it becomes OFF (R293). -/
def Chip.qDisabling (c : Chip) (q : Nat) : Bool := ((SMap.get? c.hqe.queues q).map (·.disabling)).getD false

/-- The QCMD that waits reports its outcome. -/
def Chip.qcmdEnd (c : Chip) (q result st : Nat) : Chip :=
  if c.hqe.qcmd == some q then
    (c.hqeMod (fun h => { h with qcmd := none })).puts [(Reg.HQE_QCMD_STATUS.BUSY, 0), (Reg.HQE_QCMD_STATUS.RESULT, result),
      (Reg.HQE_QCMD_STATUS.QSTATE, st), (Reg.HQE_QCMD_STATUS.CACHED, 0), (Reg.HQE_QCMD_STATUS.PARKED, 0),
      (Reg.HQE_QCMD_STATUS.INFLIGHT, 0)]
  else c

/-- Freeze a queue channel: fault record, FROZEN; a DISABLE that waits then completes (R286, R293, R299). -/
def Chip.freezeQueue (c : Chip) (i : FInfo) : Chip :=
  let q := i.master
  match c.qGet q with
  | (none, c) => c
  | (some w, c) =>
    let t := qOwner w
    if c.tntState t == tnResetting then c
    else if (SMap.get? c.frozen (keyQ q)).isSome then c.count Reg.TNT_FREEZE_CNT.FREEZES 1
    else if qState w == qOff then c
    else
      let words := i.words c.time
      let wait := c.qDisabling q
      let c := ((c.farDrop 1 q).qFaultRecord q w words).qPut q (qSet w 0 0 2 qFrozen)
      let c := { c with frozen := SMap.set c.frozen (keyQ q) i.cause }.freezeNote t words
      if wait then (c.qTurnOff q (qSet w 0 0 2 qFrozen)).qcmdEnd q 1 qOff else c

/-- Freeze an I/O function: its entry enters FROZEN and holds the record (R289, R381). -/
def Chip.freezeFn (c : Chip) (i : FInfo) : Chip :=
  let port := bits i.master 16 3
  match c.fnIndex port (i.master % 2 ^ 16) with
  | none => c
  | some n =>
    match c.fnGet port n with
    | (none, c) => c
    | (some w, c) =>
      let t := feTenant w
      if c.tntState t == tnResetting then c
      else if (SMap.get? c.frozen (keyF port n)).isSome then c.count Reg.TNT_FREEZE_CNT.FREEZES 1
      else if feState w != fnRun then c
      else
        let words := i.words c.time
        let c := (c.farDrop 2 i.master).fnPut port n ((qSet w 0 0 2 fnFrozen).take 4 ++ words)
        { c with frozen := SMap.set c.frozen (keyF port n) i.cause }.freezeNote t words

/-- Freeze the master that a record names (R286). -/
def Chip.freeze (c : Chip) (i : FInfo) : Chip :=
  match i.kind with
  | 0 => c.freezeCtx i
  | 1 => c.freezeQueue i
  | 2 => c.freezeFn i
  | _ => c

/-- The message that carries a violation to the master's package (R458; log 13). -/
def Chip.violMsg (_c : Chip) (i : FInfo) (line tag agent : Nat) : Msg :=
  { Msg.mk0 clsRsp tViolation line with
    tag := tag, agent := agent, tenant := i.tenant, secure := i.world, dstPkg := agPkg agent, dstDie := 12,
    data := some (BitVec.ofNat 512 (packWords [i.w0, i.w1, 0, i.w3])) }

/-- A violation: the master's package freezes it (R285, R458). A master of kind 3, the hub itself, is none. -/
def Chip.violate (c : Chip) (w : Who) (i : FInfo) : Chip :=
  if w.kind ≥ 3 then c
  else if agPkg w.agent = c.pkg then c.freeze i
  else c.sendMsg (c.violMsg i (i.addr / 64) 0 w.agent)

/-- The record of an access that broke a rule. -/
def whoInfo (w : Who) (cause : Nat) (write : Bool) (region addr checker : Nat) : FInfo :=
  ⟨cause, w.kind, write, w.secure, w.tenant, region, w.master, addr, checker, w.agent⟩

/-- A region check failed at checker k: the log, and the freeze with cause REGION (R326). -/
def Chip.regionViol (c : Chip) (w : Who) (k region addr slice : Nat) (write : Bool) : Chip :=
  (c.violLog k region addr w write).violate w (whoInfo w fzRegion write region addr (c.checkerAgent k slice))

/-- A context of this package as a `Who`. -/
def Chip.cxWho (c : Chip) (x : Nat) : Who := ⟨c.cxAgent x, c.cxTenant x, c.cxSecure x, 0, c.cxAgent x⟩

/-- A freeze without an offending access (R462). -/
def Chip.plainInfo (_c : Chip) (cause kind master tenant checker : Nat) (secure : Bool) : FInfo :=
  ⟨cause, kind, false, secure, tenant, 0, master, 0, checker, 0⟩

/-- Freeze context x for a cause without an access. -/
def Chip.freezeCx (c : Chip) (x cause checker : Nat) : Chip :=
  c.freezeCtx (c.plainInfo cause 0 (c.cxAgent x) (c.cxTenant x) checker (c.cxSecure x))

/-! ### Masters of a tenant -/

def Chip.ctxsOf (c : Chip) (t : Nat) : List Nat := (List.range 960).filter (fun x => c.cxTenant x == t && c.cxState x != cxOff)
def Chip.queuesOf (c : Chip) (t : Nat) : List Nat := (c.hqe.live.filter (fun p => p.2 == t)).map (·.1)
def Chip.fnsOf (c : Chip) (t : Nat) : List Nat := (c.fns.live.filter (fun p => p.2 % 4096 == t)).map (·.1)

/-- The requester ID of entry n of a port. -/
def Chip.fnRid (c : Chip) (port n : Nat) : Nat := if c.on (Reg.PCI_CFG.PERS port) then n else c.get (Reg.PCI_CFG.FBUS port) * 256 + n

/-- Freeze every master of a tenant that is not frozen already, with cause TENANT_FROZEN (R281). -/
def Chip.freezeTenant (c : Chip) (t : Nat) : Chip :=
  let c := ((c.ctxsOf t).filter (fun x => (SMap.get? c.frozen x).isNone)).foldl (fun c x => c.freezeCx x fzTenant c.tableAgent) c
  let c := ((c.queuesOf t).filter (fun q => (SMap.get? c.frozen (keyQ q)).isNone)).foldl (fun c q =>
    match c.qGet q with
    | (some w, c) => c.freezeQueue (c.plainInfo fzTenant 1 q t c.tableAgent (qWorld w))
    | (none, c) => c) c
  ((c.fnsOf t).filter (fun k => (SMap.get? c.frozen (keyF (k / 8192) (k % 8192))).isNone)).foldl (fun c k =>
    match c.fnGet (k / 8192) (k % 8192) with
    | (some w, c) => c.freezeFn (c.plainInfo fzTenant 2 ((k / 8192) <<< 16 + c.fnRid (k / 8192) (k % 8192)) t c.tableAgent (feWorld w))
    | (none, c) => c) c

/-! ### Thawing (R291) -/

/-- A frozen context enters OFF, and TNT_IRQ is sent. -/
def Chip.thawCtx (c : Chip) (x : Nat) : Chip := (((c.unfreezeKey x (c.cxTenant x)).put (fState x) cxOff)).tntIrq

/-- A frozen queue enters IDLE, or ACTIVE if work waits. -/
def Chip.thawQueue (c : Chip) (q : Nat) : Chip :=
  match c.qGet q with
  | (none, c) => c
  | (some w, c) =>
    let c := c.unfreezeKey (keyQ q) (qOwner w)
    if qSqTail w != qSqFetch w then c.qActivate q w else c.qPut q (qSet w 0 0 2 qIdle)

/-- A frozen function runs again (R381). -/
def Chip.thawFn (c : Chip) (port n : Nat) : Chip :=
  match c.fnGet port n with
  | (none, c) => c
  | (some w, c) => (c.unfreezeKey (keyF port n) (feTenant w)).fnPut port n (qSet w 0 0 2 fnRun)

/-- Thaw every master of a tenant frozen with cause TENANT_FROZEN (R281). -/
def Chip.thawTenant (c : Chip) (t : Nat) : Chip :=
  let is := fun (k : Nat) => SMap.get? c.frozen k == some fzTenant
  let c := ((c.ctxsOf t).filter is).foldl Chip.thawCtx c
  let c := ((c.queuesOf t).filter (fun q => is (keyQ q))).foldl Chip.thawQueue c
  ((c.fnsOf t).filter (fun k => is (keyF (k / 8192) (k % 8192)))).foldl (fun c k => c.thawFn (k / 8192) (k % 8192)) c

/-! ### The tenant table -/

/-- Fields of an entry that CREATE and DESTROY reset (R281). -/
def tntFields (t : Nat) : List Fld :=
  [Reg.TNT_ENT.SV_EN t, Reg.TNT_ENT.SV_AGENT t, Reg.TNT_ENT.SV_MASK t, Reg.TNT_ENT.WORLD t, Reg.TNT_ENT.FRING_EN t, Reg.TNT_ENT.FRING t,
   Reg.TNT_ENT.FRING_LOG2 t, Reg.TNT_ENT.IRQ_VEC t, Reg.TNT_ENT.IRQ_EN t, Reg.TNT_ENT.FROZEN t, Reg.TNT_ENT.QUEUES t, Reg.TNT_ENT.QUOTA t]

/-- Fields of reset kind tenant. -/
def tntKindFields (t : Nat) : List Fld :=
  [Reg.TNT_ENT.FROZEN t, Reg.TNT_SV_STATUS.PROD t, Reg.TNT_SV_FRING.CONS t, Reg.TNT_SV_FRING.OVERRUN t]

/-- CREATE takes a FREE entry (R281). -/
def Chip.tntCreate (c : Chip) (t : Nat) : Chip :=
  ((c.resetFlds (tntFields t)).put (Reg.TNT_ENT.STATE t) tnActive).put Reg.TNT_CMD_STATUS.FREE (c.get Reg.TNT_CMD_STATUS.FREE - 1)

/-! ### Tenant reset (R284) -/

def Chip.resetOf (c : Chip) (t : Nat) : Option TntReset := c.hqe.resets.find? (fun r => r.tenant == t)

/-- Step 1: the entry enters RESETTING and every master of the tenant stops: its contexts are held, and its queues and functions issue nothing
while it is RESETTING. -/
def Chip.resetStart (c : Chip) (t : Nat) (destroy : Bool) (answer : Option Msg) : Chip :=
  let c := c.put (Reg.TNT_ENT.STATE t) tnResetting
  let c := c.breakLocks (fun n => c.get (Reg.CFG_LOCK.TENANT n) == t)
  let c := (c.ctxsOf t).foldl (fun c x => (c.ctxDiscard x).cxLeave x cxHeld) c
  c.hqeMod (fun h => { h with resets := h.resets ++ [⟨t, 1, destroy, answer⟩] })

/-- DESTROY takes the queues that the tenant left OFF from it (R293; log 96). -/
def Chip.disownOff (c : Chip) (t : Nat) : Chip :=
  (c.hqe.off.filter (fun p => p.2 == t)).foldl (fun c p =>
    match c.qGet p.1 with
    | (none, c) => c
    | (some w, c) =>
      let c := c.hqeMod (fun h => { h with off := SMap.erase h.off p.1 })
      if qState w = qOff && qOwner w = t then c.qStore p.1 (qSet w 0 16 12 0) else c) c

/-- Step 2: every owned queue writes its fault record and enters OFF; a DISABLE that waits for one ends with it (R293). -/
def Chip.resetQueues (c : Chip) (t : Nat) (destroy : Bool) : Chip :=
  (c.queuesOf t).foldl (fun c q =>
    match c.qGet q with
    | (none, c) => c
    | (some w, c) =>
      let c := c.qFaultRecord q w ((c.plainInfo fzReset 1 0 0 0 false).words 0)
      let w := if destroy then qSet w 0 16 12 0 else w
      let c := (c.qPut q (qSet (qSet w 0 0 2 qOff) 0 7 1 0)).qUncache q
      (({ c with frozen := SMap.erase c.frozen (keyQ q) }.qCount t false).hqeMod (fun h =>
        { h with live := SMap.erase h.live q, off := if destroy then SMap.erase h.off q else SMap.set h.off q t })).qcmdEnd q 1 qOff) (if destroy then c.disownOff t else c)

/-- Start a function reset: RESETTING, its inbound requests in flight go, its reads of peers with them, and under root personality Initiate Function Level
Reset is written in its Device Control register (R382). -/
def Chip.fnResetStart (c : Chip) (port n : Nat) (toOff : Bool) : Chip :=
  match c.fnGet port n with
  | (none, c) => c
  | (some w, c) =>
    let c := (c.unfreezeKey (keyF port n) (feTenant w)).fnPut port n (qSet w 0 0 2 fnResetting)
    let root := !c.on (Reg.PCI_CFG.PERS port)
    let rid := c.fnRid port n
    let link := ((List.range 4).find? (fun l => decide (Config.secBus (4 * port + l) ≤ rid / 256) && decide (rid / 256 ≤ Config.subBus (4 * port + l)))).getD 0
    let keep := fun (x : InItem) => match x with
      | .req r => !(r.port == port && r.n == n)
      | .cpl _ _ _ _ _ => true
    let mine := fun (r : OutReq) => match r.dest with
      | .peer p _ x _ _ _ _ => p == port && c.fnIndex p x == some n
      | _ => false
    { c.farDrop 2 (port <<< 16 + rid) with fns := { c.fns with
        flr := SMap.set c.fns.flr (8192 * port + n) toOff
        inq := c.fns.inq.filter keep
        waiting := c.fns.waiting.filter (fun r => !mine r)
        out := c.fns.out.map (fun r => if mine r then { r with dest := .nobody } else r)
        sent := if root then c.fns.sent ++ [⟨port, link, if rid / 256 = Config.secBus (4 * port + link) then 4 else 5, rid * 4096 + Config.devCtl rid, 2, 2 ^ 15, 0, none, false⟩] else c.fns.sent } }

/-- Step 5: fields of kind tenant are restored and the entry enters its next state. -/
def Chip.resetEnd (c : Chip) (t : Nat) (destroy : Bool) : Chip :=
  let c := c.resetFlds (tntKindFields t)
  if destroy then
    ((c.resetFlds (tntFields t)).put (Reg.TNT_ENT.STATE t) tnFree).put Reg.TNT_CMD_STATUS.FREE (c.get Reg.TNT_CMD_STATUS.FREE + 1)
  else c.put (Reg.TNT_ENT.STATE t) tnActive

/-- Change a running reset's record. -/
def Chip.resetStepTo (c : Chip) (t n : Nat) : Chip :=
  c.hqeMod (fun h => { h with resets := h.resets.map (fun r => if r.tenant = t then { r with step := n } else r) })

/-! ### Tenant commands (R281 to R283) -/

def opCreate : Nat := 1
def opDestroy : Nat := 2
def opFreeze : Nat := 3
def opThaw : Nat := 4
def opReset : Nat := 5

/-- A hub applies FREEZE, THAW, RESET or DESTROY to its own entry: whether it applied, and whether its part has ended. -/
def Chip.tntApply (c : Chip) (op t : Nat) (answer : Option Msg) : Bool × Bool × Chip :=
  let st := c.tntState t
  if op = opFreeze && st = tnActive then (true, true, (c.put (Reg.TNT_ENT.STATE t) tnFrozen).freezeTenant t)
  else if op = opThaw && st = tnFrozen then (true, true, (c.put (Reg.TNT_ENT.STATE t) tnActive).thawTenant t)
  else if (op = opReset || op = opDestroy) && (st = tnActive || st = tnFrozen) then
    (true, false, c.resetStart t (op = opDestroy) answer)
  else (false, true, c)

/-- The answer to a TNT_CMD, to the hub that sent it: its number stands in the top bits of the TAG that it chose (R181; log 96). -/
def Chip.tntDoneMsg (c : Chip) (m : Msg) (applied : Bool) : Msg :=
  { Msg.mk0 clsRsp tTntDone 0 with
    tag := m.tag, agent := c.tableAgent, tenant := m.tenant, aux := b2n applied, dstPkg := tntSender m.tag, dstDie := 12 }

/-- Results of TNT_CMD_STATUS. -/
def trDone : Nat := 1
def trFull : Nat := 2
def trInUse : Nat := 3
def trBadState : Nat := 4
def trDenied : Nat := 5
def trBusy : Nat := 6
def trPartial : Nat := 7

/-- Report a command's outcome where it was asked for: TNT_CMD, a supervisor page (R291) or a pool (R368). -/
def Chip.tntReport (c : Chip) (src pool t result missing : Nat) : Chip :=
  if src = 0 then
    (c.puts [(Reg.TNT_CMD_STATUS.BUSY, 0), (Reg.TNT_CMD_STATUS.RESULT, result), (Reg.TNT_CMD_STATUS.TENANT, t),
      (Reg.TNT_CMD_STATUS.MISSING, missing)]).tntIrq
  else if src = 1 then
    c.put (Reg.TNT_SV_STATUS.RESULT t) (if result = trPartial then 5 else if result = trDone then 1 else 3)
  else
    c.puts [(Reg.CFG_POOL_CMD_STATUS.BUSY pool, 0), (Reg.CFG_POOL_CMD_STATUS.RESULT pool, result), (Reg.CFG_POOL_CMD_STATUS.TENANT pool, t)]

/-- Commands whose own part and answers are all in end (R282, R283). -/
def Chip.tntSettle (c : Chip) : Chip :=
  let settled := fun (j : TntJob) => j.ownDone && j.waits.isEmpty
  let done := c.hqe.jobs.filter settled
  let c := c.hqeMod (fun h => { h with jobs := h.jobs.filter (fun j => !settled j) })
  done.foldl (fun c j => c.tntReport j.src j.pool j.tenant
    (if j.missing != 0 then trPartial else if j.applied then trDone else trBadState) j.missing) c

/-- TNT_CMD messages that were sent toward a hub and not answered (R181). -/
def Chip.tntSent (c : Chip) (q : Nat) : Nat :=
  (c.hqe.jobs.filter (fun j => j.waits.contains q)).length - (c.hqe.tntWait.filter (fun m => m.dstPkg == q)).length

/-- TNT_CMD messages go out in order while fewer than 64 are unanswered toward their hub (R181); one for a package fenced meanwhile counts
as unanswered (R283). -/
def Chip.tntPump (c : Chip) : Chip :=
  c.hqe.tntWait.foldl (fun c m =>
    let go := c.hqeMod (fun h => { h with tntWait := h.tntWait.erase m })
    if c.fencedPkg m.dstPkg then
      go.hqeMod (fun h => { h with jobs := h.jobs.map (fun j =>
        if j.tag = m.tag && j.waits.contains m.dstPkg then
          { j with waits := j.waits.filter (· != m.dstPkg), missing := j.missing + 2 ^ m.dstPkg } else j) })
    else if c.tntSent m.dstPkg < 64 then go.sendMsg m
    else c) c

/-- Does a command of another hub for a tenant wait here, so that a later one waits behind it (R282)? -/
def Chip.tntBehind (c : Chip) (t : Nat) : Bool := c.coh.hubIn.any (fun m => m.cls == clsRsp && m.typ == tTntCmd && m.tenant == t)

/-- A hub carries out FREEZE, THAW, RESET or DESTROY everywhere; one for a tenant that an earlier command of another hub waits for takes its
turn as that one does (R282, R283). -/
def Chip.tntCommand (c : Chip) (src pool op t agent : Nat) : Chip :=
  let behind := c.tntBehind t
  let (applied, done, c) := if behind then (false, true, c) else c.tntApply op t none
  let others := (List.range 8).filter (fun q => q != c.pkg && c.present q)
  let waits := others.filter (fun q => !c.fencedPkg q)
  let missing := (others.filter (fun q => c.fencedPkg q)).foldl (fun m q => m + 2 ^ q) 0
  let tag := c.pkg * 512 + c.hqe.nextTag % 512
  let c := c.hqeMod (fun h => { h with nextTag := h.nextTag + 1, jobs := h.jobs ++ [⟨op, t, src, pool, tag, if behind then c.pkg :: waits else waits, missing, applied, done⟩] })
  let c := if behind then
      c.sendMsg { Msg.mk0 clsRsp tTntCmd 0 with tag := tag, agent := agent, tenant := t, aux := op, dstPkg := c.pkg, dstDie := 12 }
    else c
  let c := c.hqeMod (fun h => { h with tntWait := h.tntWait ++ waits.map (fun q =>
    { Msg.mk0 clsRsp tTntCmd 0 with tag := tag, agent := agent, tenant := t, aux := op, dstPkg := q, dstDie := 12 }) })
  c.tntPump.tntSettle

/-- The hub's own reset of t has ended: the job that waits for it goes on, and another hub gets its answer. -/
def Chip.resetFinish (c : Chip) (t : Nat) : Chip :=
  match c.resetOf t with
  | none => c
  | some r =>
    let c := c.hqeMod (fun h => { h with
      resets := h.resets.filter (fun r => r.tenant != t)
      jobs := h.jobs.map (fun j => if j.tenant = t && !j.ownDone && r.answer.isNone then { j with ownDone := true } else j) })
    let c := match r.answer with
      | some m => c.sendMsg (c.tntDoneMsg m true)
      | none => c
    c.tntSettle

/-- A step of a tenant reset is ready and the next one begins (R284). -/
def Chip.resetStep (c : Chip) (t : Nat) : Chip :=
  match c.resetOf t with
  | none => c
  | some r =>
    if r.step = 1 then (c.resetQueues t r.destroy).resetStepTo t 2
    else if r.step = 2 then
      if (c.queuesOf t).isEmpty then
        (((List.range 960).filter (fun x => c.cxTenant x == t)).foldl Chip.ctxReset c).resetStepTo t 3
      else c
    else if r.step = 3 then
      ((c.fnsOf t).foldl (fun c k => c.fnResetStart (k / 8192) (k % 8192) r.destroy) c).resetStepTo t 4
    else if (c.fnsOf t).all (fun k => (SMap.get? c.fns.flr k).isNone) then (c.resetEnd t r.destroy).resetFinish t
    else c

def execTenantResetStep (t : BitVec 12) (s : State) : Host.Outcome State Fault Refusal := s.runWhole (fun c => c.resetStep t.toNat)

/-- A step runs past its timeout (R284). -/
def Chip.resetStuck (c : Chip) (t : Nat) : Chip :=
  match c.resetOf t with
  | none => c
  | some r => (c.puts [(Reg.TNT_STATUS.STUCK, 1), (Reg.TNT_STATUS.STEP, r.step)]).tntIrq

def execTenantResetStuck (t : BitVec 12) (s : State) : Host.Outcome State Fault Refusal := s.run (fun c => c.resetStuck t.toNat)

/-- Erase the first kept message that satisfies a test. -/
def dropAway (p : Away → Bool) : List Away → List Away
  | [] => []
  | a :: l => if p a then l else a :: dropAway p l
def Chip.awayClear (c : Chip) (p : Away → Bool) : Chip := { c with coh := { c.coh with away := dropAway p c.coh.away } }

/-- A TNT_CMD from another hub: applied at once, answered when its work is done; one for a tenant whose reset runs waits
(R282). -/
def Chip.tntCmdMsg (c : Chip) : Chip :=
  match c.takeHub (fun m => m.cls == clsRsp && m.typ == tTntCmd && (c.resetOf m.tenant).isNone) with
  | none => c
  | some (m, c) =>
    match c.tntApply m.aux m.tenant (some m) with
    | (applied, true, c) => c.sendMsg (c.tntDoneMsg m applied)
    | (_, false, c) => c

def execTntCmd (s : State) : Host.Outcome State Fault Refusal := s.runWhole Chip.tntCmdMsg

/-- A package's answer to a command: counted in, or counted missing. -/
def Chip.tntAnswer (c : Chip) (tag q : Nat) (applied missing : Bool) : Chip :=
  (c.hqeMod (fun h => { h with jobs := h.jobs.map (fun j =>
    if j.tag = tag && j.waits.contains q then
      { j with waits := j.waits.filter (· != q), applied := j.applied || applied,
               missing := if missing then j.missing + 2 ^ q else j.missing }
    else j) })).tntPump.tntSettle

/-- A TNT_DONE arrives (R282). -/
def Chip.tntDoneMsgIn (c : Chip) : Chip :=
  match c.takeHub (fun m => m.cls == clsRsp && m.typ == tTntDone) with
  | none => c
  | some (m, c) =>
    let q := agPkg m.agent
    (c.awayClear (fun a => a.msg.cls == clsRsp && a.msg.typ == tTntCmd && a.msg.tag == m.tag && a.pkg == q)).tntAnswer m.tag q (bit m.aux 0) false

def execTntDone (s : State) : Host.Outcome State Fault Refusal := s.run Chip.tntDoneMsgIn

/-! ### TNT_CMD and the supervisor pages -/

/-- The entry that CREATE takes among a range of tenants. -/
def Chip.freeEntry (c : Chip) (first n : Nat) : Option Nat :=
  ((List.range n).map (first + ·)).find? (fun t => t != 0 && c.tntState t == tnFree)

/-- CREATE for an asker: by number, or the lowest FREE one of a range (R281, R368). -/
def Chip.tntCreateFor (c : Chip) (src pool t first n : Nat) (any : Bool) : Chip :=
  if any then
    match c.freeEntry first n with
    | some t => (c.tntCreate t).tntReport src pool t trDone 0
    | none => c.tntReport src pool 0 trFull 0
  else if t = 0 then c.tntReport src pool t trDenied 0
  else if c.tntState t != tnFree then c.tntReport src pool t trInUse 0
  else (c.tntCreate t).tntReport src pool t trDone 0

/-- A write of TNT_CMD (R281, R282). -/
def Chip.tntCmdWrite (c : Chip) (w : Who) (v : Nat) : Chip :=
  let op := bits v 0 3
  let t := bits v 16 12
  if op = 0 || op > 5 then c
  else if c.on Reg.TNT_CMD_STATUS.BUSY then c.put Reg.TNT_CMD_STATUS.RESULT trBusy
  else if op = opCreate then c.tntCreateFor 0 0 t 1 4095 (bit v 3)
  else if t = 0 then c.tntReport 0 0 t trDenied 0
  else (c.puts [(Reg.TNT_CMD_STATUS.BUSY, 1), (Reg.TNT_CMD_STATUS.RESULT, 0), (Reg.TNT_CMD_STATUS.TENANT, t)]).tntCommand 0 0 op t w.agent

/-- Does a write to TNT_SV[t] pass R290? -/
def Chip.svAdmits (c : Chip) (w : Who) (t : Nat) : Bool :=
  w.tenant == 0 || (w.tenant == t && c.on (Reg.TNT_ENT.SV_EN t)
    && (w.agent &&& c.get (Reg.TNT_ENT.SV_MASK t)) == (c.get (Reg.TNT_ENT.SV_AGENT t) &&& c.get (Reg.TNT_ENT.SV_MASK t)))

/-- Supervisor results. -/
def svDone : Nat := 1
def svNotOwner : Nat := 2
def svDenied : Nat := 3
def svBusy : Nat := 4

/-- A master as a supervisor page names it: its key and its tenant; none where there is no such master. -/
def Chip.masterOf (c : Chip) (kind m : Nat) : Option (Nat × Nat) × Chip :=
  if kind = 0 then
    let x := ctxOfAgent (m % 2 ^ 16)
    (if c.ownCtx (m % 2 ^ 16) && c.cxPresent x then some (x, c.cxTenant x) else none, c)
  else if kind = 1 then
    match c.qGet m with
    | (some w, c) => (some (keyQ m, qOwner w), c)
    | (none, c) => (none, c)
  else if kind = 2 then
    match c.fnIndex (bits m 16 3) (m % 2 ^ 16) with
    | some n =>
      match c.fnGet (bits m 16 3) n with
      | (some w, c) => (some (keyF (bits m 16 3) n, feTenant w), c)
      | (none, c) => (none, c)
    | none => (none, c)
  else (none, c)

/-- May a supervisor thaw this cause (R289)? -/
def svThawable (cause : Nat) : Bool :=
  cause == fzRegion || cause == fzQueueProt || cause == fzYarrow || cause == fzMisuse || cause == fzDoorbell || cause == fzCtrl
    || cause == fzDouble || cause == fzFrame || cause == fzExplicit || cause == fzIo

/-- Thaw the master behind a key. -/
def Chip.thawKey (c : Chip) (key : Nat) : Chip :=
  if key < 2 ^ 20 then c.thawCtx key
  else if key < 2 ^ 21 then c.thawQueue (key - 2 ^ 20)
  else c.thawFn ((key - 2 ^ 21) / 8192) ((key - 2 ^ 21) % 8192)

/-- World of a master, for the record of an EXPLICIT freeze. -/
def Chip.masterWorld (c : Chip) (kind m : Nat) : Bool :=
  if kind = 0 then c.cxSecure (ctxOfAgent (m % 2 ^ 16))
  else if kind = 1 then (match (c.qGet m).1 with | some w => qWorld w | none => false)
  else
    match c.fnIndex (bits m 16 3) (m % 2 ^ 16) with
    | some n => (match (c.fnGet (bits m 16 3) n).1 with | some w => feWorld w | none => false)
    | none => false

/-- A write of TNT_SV_CMD[t] that R290 admits (R291). -/
def Chip.svCmd (c : Chip) (w : Who) (t v : Nat) : Chip :=
  let op := bits v 0 3
  let kind := bits v 4 2
  let m := bits v 32 20
  let res := fun (c : Chip) (r : Nat) => c.put (Reg.TNT_SV_STATUS.RESULT t) r
  if op = 1 || op = 2 then
    match c.masterOf kind m with
    | (none, c) => res c svNotOwner
    | (some (key, own), c) =>
      if own != t then res c svNotOwner
      else if op = 1 then
        match SMap.get? c.frozen key with
        | some cause => if svThawable cause then res (c.thawKey key) svDone else res c svDenied
        | none => res c svDenied
      else res (c.freeze (c.plainInfo fzExplicit kind m t c.tableAgent (c.masterWorld kind m))) svDone
  else if op = 3 then
    if t = 0 then res c svDenied
    else if (c.resetOf t).isSome || c.tntState t == tnResetting
        || c.hqe.jobs.any (fun j => j.tenant == t && (j.op == opReset || j.op == opDestroy)) then res c svBusy
    else (res c 0).tntCommand 1 0 opReset t w.agent
  else c

/-! ### Answers to units of the hub -/

/-- SQ_FETCH = SQ_TAIL with nothing in flight: the queue enters IDLE; a DISABLE that waits for started SQEs ends. -/
def Chip.qSettle (c : Chip) (q : Nat) : Chip :=
  match SMap.get? c.hqe.queues q with
  | none => c
  | some x =>
    if qState x.w != qActive || !x.sqes.isEmpty then c
    else if x.disabling then (c.qTurnOff q x.w).qcmdEnd q 1 qOff
    else if qSqFetch x.w = qSqTail x.w && !x.fetching then c.qPut q (qSet x.w 0 0 2 qIdle)
    else c

/-- An SQE's completion entry is visible: CQ_TAIL has advanced, its interrupt is sent, and it is over (R297, R298). -/
def Chip.sqeFinish (c : Chip) (q idx : Nat) : Chip :=
  match SMap.get? c.hqe.queues q with
  | none => c
  | some x =>
    match x.sqes.find? (fun e => e.idx == idx) with
    | none => c
    | some e =>
      let c := c.qMod q (fun x => { x with sqes := x.sqes.filter (fun e => e.idx != idx), w := qSet x.w 6 0 24 (qCqTail x.w + 1) })
      let c := c.evHub (ugHqe (qSched x.w)) 0xA1 1 (evOf (qOwner x.w) (qWorld x.w))
      let c := if e.irq && qIrqEn x.w then { c with irqs := c.irqs ++ [⟨qIrqAgent x.w, qIrqVec x.w, qFunc x.w⟩] } else c
      c.qSettle q

/-- The answer to a write of a unit of the hub ends what the write was for (R290, R295, R297, R347). -/
def Chip.wrEnd (c : Chip) (u : WrUse) (r : HubRes) : Chip :=
  match u with
  | .plain | .awaited => c
  | .sqe q idx => if r = .bus then c.sqeFail q idx 1 true else c
  | .cqe q idx => if r = .away then c else c.sqeFinish q idx
  | .ring t => c.ringEnd t r
  | .audit => if r = .ok then c else c.dramSinkStop

/-- A unit of the hub has its answer (R182): it goes on with what it awaited, or its write ends. -/
def Chip.farDone (c : Chip) (tag agent : Nat) (r : HubRes) (ld : LD) : Chip :=
  let is := fun (f : FarReq) => f.msg.tag == tag && f.msg.agent == agent && f.got.isNone
  match c.coh.far.find? is with
  | none => c
  | some f =>
    if f.use = .awaited then
      { c with coh := { c.coh with far := c.coh.far.map (fun (x : FarReq) => if is x then { x with got := some (r, ld) } else x) } }
    else ({ c with coh := { c.coh with far := c.coh.far.filter (fun x => !is x) } }).wrEnd f.use r

/-- A request of a unit of the hub broke a rule at its target (R458): a master that issued it is frozen, a queue that read its ring counts
the SQE as consumed first (R295), and an access of the hub for itself only fails (R294, R299). -/
def Chip.farViol (c : Chip) (tag agent : Nat) (i : FInfo) : Chip :=
  match c.coh.far.find? (fun f => f.msg.tag == tag && f.msg.agent == agent && f.got.isNone) with
  | none => c.freeze i
  | some f =>
    if f.msg.kind = some 1 || f.msg.kind = some 2 then
      let c := ({ c with coh := { c.coh with far := c.coh.far.erase f } }).wrEnd f.use .away
      let c := match SMap.get? c.hqe.queues i.master with
        | some x =>
          if i.kind = 1 && x.fetching && f.msg.typ == tRdNc && 64 * f.msg.line == qSqBase x.w + 64 * (qSqFetch x.w % 2 ^ qSqLog x.w) then
            c.sqeTake i.master (sqeEmpty (qSqFetch x.w) 0)
          else c
        | none => c
      c.freeze i
    else c.farDone tag agent .away LD.bad

/-- A violation answer arrives: at the hub the master is frozen, and a die's request goes on to its slice; at a die the
slice's request ends (R458). -/
def Chip.violAtHub (c : Chip) : Chip :=
  match c.takeHub (fun m => m.cls == clsRsp && m.typ == tViolation) with
  | none => c
  | some (m, c) =>
    let d := (m.data.getD 0#512).toNat
    let c := c.awayClear (fun a => a.msg.cls == clsReq && a.msg.tag == m.tag && a.msg.line == m.line && a.msg.agent == m.agent)
    let i := FInfo.ofWords (bits d 0 64) (bits d 64 64) (bits d 192 64)
    if agDie m.agent < 12 && agPkg m.agent = c.pkg then (c.freeze i).sendMsg { m with dstDie := agDie m.agent }
    else c.farViol m.tag m.agent i

end Sys2Proof.Machine
end

