-- ==== Sys2Proof/Machine/Regulate.lean ====
section
/-! DEFINITION. Machine/Regulate.lean: regulator entries, limits and misuse (R305 to R309), capacities, reservations and
degradation (R303, R304, R310 to R314), and the rounds of the channel groups' and ports' arbiters (R316 to R319). -/
namespace Sys2Proof.Machine

/-! ### Capacities (R303, R304, R409) -/

/-- Does a forced refresh or a make-up burst hold a rank of the channel? -/
def Chip.refHolds (c : Chip) (ch : Nat) : Bool :=
  let m := c.mcOf ch
  !m.refBurst.isEmpty || m.forced.any (fun p => decide (m.ck < p.2))

def Chip.chanCounts (c : Chip) (ch : Nat) : Bool := c.mcState ch == mcReady || c.mcState ch == mcSelfRefresh

/-- BASE of resource r (R304). -/
def Chip.resBase (c : Chip) (r : Nat) : Nat :=
  if r < 6 then 65536 * ((List.range 4).filter (fun i => c.chanCounts (4 * r + i))).length
  else if r < 12 then
    let p := r - 6
    if c.tdmState p == tdmUp then (if c.on (Reg.TDM_STATUS.WIDTH p) then 100352 else 200704) else 0
  else
    let d := r - 12
    let st := c.get (Reg.SPK_STATUS.STATE d)
    if st == spkUpSt || st == spkQuiesce then (if c.on (Reg.SPK_STATUS.HALF d) then 458752 else 917504) else 0

/-- THROTTLE of resource r in sixteenths (R409). -/
def Chip.throttle (c : Chip) (r : Nat) : Nat :=
  let v := (if r < 16 then bits (c.get Reg.PWR_THROTTLE0.THR) (4 * r) 4 else bits (c.get Reg.PWR_THROTTLE1.THR) (4 * (r - 16)) 4) + 1
  if c.on Reg.PWR_HUB_THERM.HOT then min 8 v else v

/-- CUR of resource r (R304). -/
def Chip.resCur (c : Chip) (r : Nat) : Nat :=
  let b := if r < 6 then 65536 * ((List.range 4).filter (fun i => c.chanCounts (4 * r + i) && !c.refHolds (4 * r + i))).length
    else c.resBase r
  b * c.throttle r / 16

/-- The scale of a resource (R314). -/
def regScale (cur derate reserved : Nat) : Nat :=
  let avail := cur * derate / 100
  if reserved ≤ avail then 65536 else 65536 * avail / reserved

/-- SCALE and the degradation flags follow CUR, DERATE and RESERVED (R314). -/
def Chip.regDegrade (c : Chip) (r : Nat) : Chip :=
  let s := regScale (c.get (Reg.REG_RES.CUR r)) (c.get Reg.REG_CTRL.DERATE) (c.get (Reg.REG_RES.RESERVED r))
  let was := c.bitOf Reg.REG_DEGRADED.NOW r
  let now := decide (s < 65536)
  let c := (c.put (Reg.REG_SCALE.SCALE r) s).putBit Reg.REG_DEGRADED.NOW r now
  if now && !was then
    ((c.putBit Reg.REG_DEGRADED.SEEN r true).count Reg.REG_DEG_CNT.ENTRIES 1).irqReg Reg.REG_IRQ.AGENT Reg.REG_IRQ.VEC Reg.REG_IRQ.EN
  else c

/-- BASE, CUR, ADMIT and SCALE of a resource are computed again. -/
def Chip.capacity (c : Chip) (r : Nat) : Chip :=
  let b := c.resBase r
  (c.puts [(Reg.REG_RES.BASE r, b), (Reg.REG_RES.CUR r, c.resCur r),
    (Reg.REG_RES.ADMIT r, b * c.get Reg.REG_CTRL.DERATE / 100)]).regDegrade r

def execCapacityRecompute (r : Fin 24) (s : State) : Host.Outcome State Fault Refusal := s.run (fun c => c.capacity r.val)

/-! ### Entries, limits and misuse (R305 to R309) -/

/-- Is a request of a master bound to entry `ent` a misuse (R307)? `exempt`: a context's request issued at level H. -/
def Chip.regMisuse (c : Chip) (ent tenant : Nat) (exempt : Bool) : Bool :=
  c.on Reg.REG_CTRL.EN &&
    (decide (4095 < ent) || !(ent == 0 || c.on (Reg.REG_ENT.EN ent))
      || ((if ent = 0 then 0 else c.get (Reg.REG_ENT.TENANT ent)) != tenant && !exempt))

/-- A misuse: counted, and the master frozen with cause REG_MISUSE (R307, R462). -/
def Chip.regMisused (c : Chip) (w : Who) (ent addr checker : Nat) (write : Bool) : Chip :=
  (if ent < 4096 then c.count (Reg.REG_ENT.MISUSE ent) 1 else c).violate w (whoInfo w fzMisuse write 0 addr checker)

/-- Does a limit hold a request whose counter stands at `n` (R309)? -/
def Chip.regHolds (c : Chip) (ent n : Nat) : Bool :=
  c.on Reg.REG_CTRL.EN && c.rg.acts.contains ent && c.on (Reg.REG_ENT.LIMIT_EN ent) && decide (c.get (Reg.REG_ENT.LIMIT ent) ≤ n)

/-- The counter of a die, and one line more on it. -/
def Chip.dieUsed (c : Chip) (ent d : Nat) : Nat := SMap.getD c.rg.die (16 * ent + d) 0
def Chip.dieCharge (c : Chip) (ent d : Nat) : Chip :=
  { c with rg := { c.rg with die := SMap.set c.rg.die (16 * ent + d) (c.dieUsed ent d + 1) } }

/-- Lines of a queue or function on the hub's counter. -/
def Chip.hubCharge (c : Chip) (ent n : Nat) : Chip := if ent < 4096 then c.count (Reg.REG_ENT.USED ent) n else c

/-- The hub counter holds a request: HELD counts the window once (R309). -/
def Chip.hubHeld (c : Chip) (ent : Nat) : Chip :=
  if c.rg.held.contains ent then c
  else ({ c with rg := { c.rg with held := ent :: c.rg.held } }).count (Reg.REG_ENT.HELD ent) 1

/-- Every counter of an entry restarts (R309). -/
def Chip.regRestart (c : Chip) (m : Nat) : Chip :=
  ({ c with rg := { c.rg with die := c.rg.die.filter (fun p => p.1 / 16 != m), held := c.rg.held.filter (· != m) } }).put
    (Reg.REG_ENT.USED m) 0

/-- A window boundary of entry m: counters restart, and its reservations take their scaled guarantees (R309, R313, R314). With EN 1, what
the entry limits and guarantees acts from here on. -/
def Chip.windowBoundary (c : Chip) (m : Nat) : Chip :=
  let c := c.regRestart m
  let c := if c.on Reg.REG_CTRL.EN then { c with rg := { c.rg with acts := m :: c.rg.acts.filter (· != m) } } else c
  (c.rsvOf m).foldl (fun c k =>
    let g := c.get (Reg.REG_RSV.LINES k) * c.get (Reg.REG_SCALE.SCALE (c.get (Reg.REG_RSV.RES k))) / 65536
    { c with rg := { c.rg with rsv := SMap.set c.rg.rsv k (g, 0) } }) c

/-- A write to word `word` of entry m: entry 0's EN and TENANT ignore writes; WINDOW is ignored while RSVS is nonzero, and
restarts the counters otherwise (R305, R309). -/
def Chip.regEntWrite (c : Chip) (m word v : Nat) : Chip :=
  let off := 0xC8000000 + 0x10000 + 32 * m + 8 * word
  if word = 0 then
    let win := c.get (Reg.REG_ENT.WINDOW m)
    let lock := c.get (Reg.REG_ENT.RSVS m) != 0
    let c := c.storeAt off v
    let c := if m = 0 then c.puts [(Reg.REG_ENT.EN 0, 0), (Reg.REG_ENT.TENANT 0, 0)] else c
    if lock then c.put (Reg.REG_ENT.WINDOW m) win else c.regRestart m
  else c.storeAt off v

/-- REMOTE_ENT changes from one entry to another: a candidate that only requests of other packages back stays, with its boost and its count,
under the new entry (R319). -/
def Chip.remoteEnt (c : Chip) (a was now : Nat) (ownWaits : Bool) : Chip :=
  let l := SMap.getD c.rg.cand a []
  if was = now || ownWaits || l.any (fun x => x.ent == now) || !l.any (fun x => x.ent == was) then c
  else { c with rg := { c.rg with cand := SMap.set c.rg.cand a (l.map (fun x => if x.ent = was then { x with ent := now } else x)) } }

/-- Does a request of this package and of entry e wait for arbiter a? -/
def Chip.ownWaits (c : Chip) (a e : Nat) : Bool :=
  if a < 6 then (List.range 4).any (fun i => (c.mcOf (4 * a + i)).inq.any (fun r => agPkg r.agent == c.pkg && c.entOf r.agent r.master == e))
  else (c.tdmOf (a - 6)).out.any (fun m => m.arbitrated && agPkg m.agent == c.pkg && c.entOf m.agent m.master == e)

/-- REG_CTRL is written: DERATE changes ADMIT at once (R312); EN 0 releases every held request, and after EN is written 1 limits and
guarantees act again from each entry's next window boundary. -/
def Chip.regCtrl (c : Chip) (v : Nat) : Chip :=
  let d := bits v 8 7
  let c := if c.on Reg.REG_CTRL.EN then c else { c with rg := { c.rg with acts := [] } }
  let c := if 50 ≤ d && d ≤ 100 then c.put Reg.REG_CTRL.DERATE d else c
  let was := c.get Reg.REG_CTRL.REMOTE_ENT
  let c := (List.range 12).foldl (fun c a => c.remoteEnt a was (bits v 16 12) (c.ownWaits a was)) c
  let c := c.puts [(Reg.REG_CTRL.EN, bits v 0 1), (Reg.REG_CTRL.REMOTE_ENT, bits v 16 12)]
  (List.range 24).foldl (fun c r =>
    (c.put (Reg.REG_RES.ADMIT r) (c.get (Reg.REG_RES.BASE r) * c.get Reg.REG_CTRL.DERATE / 100)).regDegrade r) c

/-! ### Reservations (R310 to R313) -/

/-- The rate of a reservation (R310). -/
def rsvRate (lines window : Nat) : Nat := (lines * 64 * 3072 + window) / (window + 1)

def Chip.rsvResult (c : Chip) (r : Nat) : Chip := c.put Reg.REG_RSV_STATUS.RESULT r

/-- ADD (R311). -/
def Chip.rsvAdd (c : Chip) (slot : Nat) : Chip :=
  let e := c.get Reg.REG_RSV_ARG.ENT
  let r := c.get Reg.REG_RSV_ARG.RES
  let n := c.get Reg.REG_RSV_ARG.LINES
  if c.on (Reg.REG_RSV.VALID slot) then c.rsvResult 4
  else if e = 0 || !c.on (Reg.REG_ENT.EN e) || r > 23 || n = 0 then c.rsvResult 3
  else
    let rate := rsvRate n (c.get (Reg.REG_ENT.WINDOW e))
    let res := c.get (Reg.REG_RES.RESERVED r)
    let adm := c.get (Reg.REG_RES.ADMIT r)
    if res + rate > adm then
      let c := (c.rsvResult 2).count Reg.REG_DEG_CNT.OVERCOMMITS 1
      let c := c.irqReg Reg.REG_IRQ.AGENT Reg.REG_IRQ.VEC Reg.REG_IRQ.EN
      if c.on Reg.REG_ADM_LOG.VALID then c
      else c.puts [(Reg.REG_ADM_LOG.ENT, e), (Reg.REG_ADM_LOG.RES, r), (Reg.REG_ADM_LOG1.REQ, min rate (2 ^ 32 - 1)),
        (Reg.REG_ADM_LOG1.AVAIL, adm - res), (Reg.REG_ADM_LOG.VALID, 1)]
    else
      ((c.puts [(Reg.REG_RSV.ENT slot, e), (Reg.REG_RSV.RES slot, r), (Reg.REG_RSV.LINES slot, n), (Reg.REG_RSV.VALID slot, 1),
        (Reg.REG_RES.RESERVED r, res + rate), (Reg.REG_ENT.RSVS e, c.get (Reg.REG_ENT.RSVS e) + 1)]).rsvResult 1).regDegrade r

/-- REMOVE (R311, R313). -/
def Chip.rsvRemove (c : Chip) (slot : Nat) : Chip :=
  if !c.on (Reg.REG_RSV.VALID slot) then c.rsvResult 5
  else
    let e := c.get (Reg.REG_RSV.ENT slot)
    let r := c.get (Reg.REG_RSV.RES slot)
    let rate := rsvRate (c.get (Reg.REG_RSV.LINES slot)) (c.get (Reg.REG_ENT.WINDOW e))
    let c := { c with rg := { c.rg with rsv := SMap.erase c.rg.rsv slot } }
    ((c.puts [(Reg.REG_RSV.ENT slot, 0), (Reg.REG_RSV.RES slot, 0), (Reg.REG_RSV.LINES slot, 0), (Reg.REG_RSV.VALID slot, 0),
      (Reg.REG_RES.RESERVED r, c.get (Reg.REG_RES.RESERVED r) - rate),
      (Reg.REG_ENT.RSVS e, c.get (Reg.REG_ENT.RSVS e) - 1)]).rsvResult 1).regDegrade r

/-- REG_RSV_CMD is written; each command is carried out at once, so BUSY is never seen (R311). -/
def Chip.rsvCmd (c : Chip) (v : Nat) : Chip :=
  let slot := bits v 16 10
  if bits v 0 2 = 1 then c.rsvAdd slot else if bits v 0 2 = 2 then c.rsvRemove slot else c

/-! ### Arbiters (R316 to R319) -/

/-- Can channel ch take a request now (R206, R212)? -/
def Chip.mcTakes (c : Chip) (ch : Nat) (r : McReq) : Bool :=
  let m := c.mcOf ch
  c.mcDead ch ||
    (c.mcState ch == mcReady && !(match m.sr with | some s => !s.exit | none => false) &&
      (if r.write.isSome then !m.rq.any (fun q => q.sameSource r) && (m.wq.any (fun w => w.line == r.line) || decide (m.wq.length < 48))
       else decide (m.rq.length < 64)))

/-- Requests on their way to the channels of group g, with their channels. -/
def Chip.groupItems (c : Chip) (g : Nat) : List (Nat × McReq) :=
  (List.range 4).flatMap (fun i => (c.mcOf (4 * g + i)).inq.map (fun r => (4 * g + i, r)))

/-- Those requests as the group's arbiter sees them: one can be taken where it is first of its source and of its line on its channel (R206,
R207) and the channel takes it now (R316). -/
def Chip.groupReqs (c : Chip) (g : Nat) : List ArbReq :=
  (c.groupItems g).map (fun p => ⟨c.entOf p.2.agent p.2.master, agPkg p.2.agent == c.pkg, p.2.arr,
    (c.mcOf p.1).inFirst.any (fun r => r.seq == p.2.seq) && c.mcTakes p.1 p.2⟩)

/-- A waiting request takes a channel of the group out of an idle self-refresh (R215). -/
def Chip.groupWake (c : Chip) (g : Nat) : Chip :=
  (List.range 4).foldl (fun c i =>
    let m := c.mcOf (4 * g + i)
    if m.idleSr && !m.inq.isEmpty && c.mcState (4 * g + i) != mcReady then c.srStart (4 * g + i) true false false else c) c

/-- The next request to enter a channel of group g: the winner of the group arbiter's next round. -/
def Chip.arbNext (c : Chip) (g : Nat) : Option (Nat × McReq) :=
  ((c.arbSync g (c.groupReqs g)).arbWinner g (c.groupReqs g)).bind (fun h => (c.groupItems g).find? (fun p => p.2.arr == h.age))

/-- A round of a channel group's arbiter: the winner enters its channel's queue (R316, R317). -/
def Chip.arbGroup (c : Chip) (g : Nat) : Chip :=
  match c.arbNext g with
  | none => (c.arbSync g (c.groupReqs g)).groupWake g
  | some (ch, r) =>
    let c := (c.arbRound g (c.groupReqs g) (c.groupReqs g)).2.mcMod ch (fun m => { m with inq := r :: m.inq.filter (fun x => x.seq != r.seq) })
    let c := if r.write.isSome then c.mcWriteReq ch else c.mcRead ch
    c.arbSync g (c.groupReqs g)

/-- A read or a write enters its channel's queue as the winner of its group's next round; a channel that idles in self-refresh leaves it for
what waits (R206, R215, R316). -/
def Chip.mcEnter (c : Chip) (ch : Nat) (write : Bool) : Chip :=
  match c.arbNext (ch / 4) with
  | some (k, r) => if k = ch && r.write.isSome == write then c.arbGroup (ch / 4) else c
  | none => c.groupWake (ch / 4)

def execMcRead (ch : Fin 24) (s : State) : Host.Outcome State Fault Refusal := s.run (fun c => c.mcEnter ch.val false)
def execMcWrite (ch : Fin 24) (s : State) : Host.Outcome State Fault Refusal := s.run (fun c => c.mcEnter ch.val true)

def execArbitrationRound (a : Fin 12) (s : State) : Host.Outcome State Fault Refusal :=
  s.run (fun c => if a.val < 6 then c.arbGroup a.val else c.tdmPeriod (a.val - 6))

end Sys2Proof.Machine
end

