-- ==== Sys2Proof/Machine/PcieOut.lean ====
section
/-! DEFINITION. Machine/PcieOut.lean: the PCIe ports' links and outbound requests (R374, R376 to R378, R394): which link, which
tag, and the TLPs that leave. -/
namespace Sys2Proof.Machine

def Chip.fnsMod (c : Chip) (f : FnSt → FnSt) : Chip := { c with fns := f c.fns }

/-- Is a target of R406 gated? -/
def Chip.gated (c : Chip) (n : Nat) : Bool := c.bitOf Reg.PWR_GATED.GATED n

/-- Links of a port (R374). -/
def Chip.nLinks (c : Chip) (port : Nat) : Nat :=
  match c.get (Reg.PCI_CFG.BIFUR port) with
  | 1 => 2
  | 2 => 4
  | _ => 1

/-- The 16 bits of a link in PCI_LINK_STATUS, and whether it is active, as PCIe or CXL. -/
def Chip.linkBits (c : Chip) (port l : Nat) : Nat := bits (c.get (Reg.PCI_LINK_STATUS.LINKS port)) (16 * l) 16
def Chip.linkUp (c : Chip) (port l : Nat) : Bool := 2 ≤ bits (c.linkBits port l) 0 3 && decide (l < c.nLinks port)

def Chip.pciIrq (c : Chip) (port : Nat) : Chip := c.irqReg (Reg.PCI_IRQ.AGENT port) (Reg.PCI_IRQ.VEC port) (Reg.PCI_IRQ.EN port)

/-! ### Advanced error reporting (R376, R392, R393; log 97) -/

/-- Bits of the uncorrectable error status (log 97). -/
def aerSurpriseDown : Nat := 5
def aerPoisoned : Nat := 12
def aerTimeout : Nat := 14
def aerUnexpected : Nat := 16
def aerMalformed : Nat := 18
def aerAcs : Nat := 21

/-- The reporter of an error on a link: under root personality the link's root port, which collects its devices' errors too; under endpoint
personality the function (R376). -/
def Chip.aerKey (c : Chip) (port link n : Nat) : Nat := if c.on (Reg.PCI_CFG.PERS port) then 8192 * port + n else 65536 + 4 * port + link

/-- An error is recorded, and PCI_IRQ is sent. -/
def Chip.aerSet (c : Chip) (port link n b : Nat) : Chip :=
  let k := c.aerKey port link n
  (c.fnsMod (fun f => { f with aer := SMap.set f.aer k (SMap.getD f.aer k 0 ||| 2 ^ b) })).pciIrq port

/-- 64-byte units of a payload. -/
def units64 (n : Nat) : Nat := (n + 63) / 64

/-- Does a TLP carry a payload? -/
def Tlp.payload (t : Tlp) : Nat := if t.kind = 1 || t.kind = 4 || t.kind = 5 || t.kind = 6 then t.size else 0

/-- A TLP leaves, for a transaction of a tenant, world and agent (R423, R431). -/
def Chip.tlpSend (c : Chip) (t : Tlp) (agent tenant : Nat) (secure : Bool) : Chip :=
  let c := c.evHub (ugPci t.port) 0xB1 1 (evOf tenant secure)
  (c.nrgEv domIo 19 (c.keyOf agent tenant) (units64 t.payload)).fnsMod (fun f => { f with sent := f.sent ++ [t] })

/-! ### Tags (R376, R394) -/

def tagKey (port link tag : Nat) : Nat := port * 65536 + link * 16384 + tag

/-- Outbound requests of a link. -/
def Chip.outOn (c : Chip) (port link : Nat) : List OutReq := c.fns.out.filter (fun r => r.tlp.port == port && r.tlp.link == link)

/-- Tags of a link in use or quarantined. -/
def Chip.tagBusy (c : Chip) (port link tag : Nat) : Bool :=
  (c.outOn port link).any (fun r => r.tlp.tag == tag) || c.fns.quar.contains (tagKey port link tag)

/-- A free tag of a link, and the package: which one is a free value (log 1); none while 1,024 requests are outstanding or
every tag is busy. -/
def Chip.tagTake (c : Chip) (port link : Nat) : Option (Nat × Chip) :=
  if 1024 ≤ (c.outOn port link).length then none
  else
    let v := c.fresh
    ((List.range 16384).find? (fun k => !c.tagBusy port link ((v.1 + k) % 16384))).map (fun k => ((v.1 + k) % 16384, v.2))

/-- Who an outbound request acts for. -/
def Chip.outWho (c : Chip) (d : OutFor) : Nat × Nat × Bool :=
  match d with
  | .dev m => (m.agent, m.tenant, m.secure)
  | .agent a _ =>
    if isCtxAgent a && agPkg a == c.pkg then (a, c.cxTenant (ctxOfAgent a), c.cxSecure (ctxOfAgent a)) else (a, 0, false)
  | .queue q _ _ _ =>
    match SMap.get? c.hqe.queues q with
    | some x => (hubAgent c.pkg 3 (qSched x.w), qOwner x.w, qWorld x.w)
    | none => (hubAgent c.pkg 3 0, 0, false)
  | .peer port _ _ _ tenant secure _ => (hubAgent c.pkg 4 port, tenant, secure)
  | .posted a tenant secure => (a, tenant, secure)
  | .sideband | .nobody => (hubAgent c.pkg 4 0, 0, false)

/-- Does a request of a link wait for a tag? -/
def Chip.linkWaits (c : Chip) (port link : Nat) : Bool := c.fns.waiting.any (fun r => r.tlp.port == port && r.tlp.link == link)

/-- A memory write leaves behind the requests that wait on its link (R121), and keeps its issuer as it waits (R3, R7). -/
def Chip.postedSend (c : Chip) (r : OutReq) : Chip :=
  let w := c.outWho r.dest
  if c.linkWaits r.tlp.port r.tlp.link then c.fnsMod (fun f => { f with waiting := f.waiting ++ [⟨r.tlp, .posted w.1 w.2.1 w.2.2⟩] })
  else c.tlpSend r.tlp w.1 w.2.1 w.2.2

/-- A non-posted request leaves, or waits for a tag behind those that wait on its link (R121); a memory write among those that waited goes in
its turn. -/
def Chip.outSend (c : Chip) (r : OutReq) : Chip :=
  if r.tlp.kind = 1 then c.postedSend r
  else match if c.linkWaits r.tlp.port r.tlp.link then none else c.tagTake r.tlp.port r.tlp.link with
  | none => c.fnsMod (fun f => { f with waiting := f.waiting ++ [r] })
  | some (tag, c) =>
    let t := { r.tlp with tag := tag }
    let w := c.outWho r.dest
    (c.fnsMod (fun f => { f with out := f.out ++ [⟨t, r.dest⟩] })).tlpSend t w.1 w.2.1 w.2.2

/-- The waiting requests of a link try again, oldest first. -/
def Chip.outPump (c : Chip) (port link : Nat) : Chip :=
  let mine := fun (r : OutReq) => r.tlp.port == port && r.tlp.link == link
  let l := c.fns.waiting.filter mine
  l.foldl (fun c r => c.outSend r) (c.fnsMod (fun f => { f with waiting := f.waiting.filter (fun r => !mine r) }))

/-- The link whose bus range holds a bus, under root personality (R378). -/
def Chip.busLink (c : Chip) (port bus : Nat) : Option Nat :=
  (List.range (c.nLinks port)).find? (fun l => decide (Config.secBus (4 * port + l) ≤ bus) && decide (bus ≤ Config.subBus (4 * port + l)))

/-- The link and requester ID of a queue's port requests: none where no link matches or FUNC names no enabled function
(R378). -/
def Chip.queueLink (c : Chip) (port func : Nat) : Option (Nat × Option Nat) × Chip :=
  if c.on (Reg.PCI_CFG.PERS port) then
    if 4096 < func then (none, c)
    else
      match c.fnGet port func with
      | (some w, c) => (if feState w = fnRun then some (0, some func) else none, c)
      | (none, c) => (none, c)
  else ((c.busLink port (func / 256)).map (fun l => (l, none)), c)

end Sys2Proof.Machine
end

