-- ==== Sys2Proof/Machine/Hqe.lean ====
section
/-! DEFINITION. Machine/Hqe.lean: the Hub Queue Engine (R293 to R302): doorbells, queue commands, the context cache, services,
SQEs and completions. -/
namespace Sys2Proof.Machine

/-- Address of queue q's doorbell slot (R32). -/
def Chip.bellAddr (c : Chip) (q : Nat) : Nat := 0xFF40000000000 + c.pkg * 2 ^ 32 + 64 * q

/-- The egress scheduler of a queue, as CHECKER and ORIGIN (R462). -/
def Chip.schedAgent (c : Chip) (w : List Nat) : Nat := hubAgent c.pkg 3 (qSched w)

/-- Freeze a queue for a failure that it caused itself (R285, R299). -/
def Chip.qViolate (c : Chip) (q : Nat) (w : List Nat) (cause : Nat) (write : Bool) (region addr checker : Nat) : Chip :=
  c.violate (c.qWho q w) (whoInfo (c.qWho q w) cause write region addr checker)

/-- An access of a queue failed its region check (R326). -/
def Chip.qRegion (c : Chip) (q : Nat) (w : List Nat) (write : Bool) (addr k region : Nat) : Chip :=
  c.qViolate q w fzRegion write region addr (c.checkerAgent k (homeSlice addr))

/-! ### Doorbells (R294) -/

/-- The free-running distance of two indices (R292). -/
def idxDiff (a b : Nat) : Nat := (a + 2 ^ 24 - b) % 2 ^ 24

/-- Does a doorbell's value break the rules of R294? -/
def bellBad (w : List Nat) (v : Nat) : Bool :=
  let tail := bits v 0 24
  let head := bits v 32 24
  let n := 2 ^ qSqLog w
  let k := 2 ^ qCqLog w
  bits v 24 8 != 0 || bits v 56 7 != 0 || decide (n < idxDiff tail (qSqFetch w)) || decide (n < idxDiff tail (qSqTail w))
    || (bit v 63 && (decide (k < idxDiff (qCqTail w) head) || decide (k < idxDiff head (qCqHead w))))

/-- The descriptor after a doorbell that passes. -/
def bellApply (w : List Nat) (v : Nat) : List Nat :=
  let w := qSet w 5 0 24 (bits v 0 24)
  let w := if bit v 63 then qSet w 6 32 24 (bits v 32 24) else w
  if qState w = qIdle && qSqTail w != qSqFetch w then qSet w 0 0 2 qActive else w

def Chip.bellDiscard (c : Chip) : Chip := c.count Reg.HQE_ERR_CNT.DB_DISCARD 1

/-- A write of `size` bytes to the doorbell slot of queue q, `o` bytes into it (R32, R294, R300); and the record of a foreign
write. A value that breaks the rules freezes the queue, with the write's world, tenant and agent in the record (R289, R462). -/
def Chip.doorbellTo (c : Chip) (w : Who) (q o size v : Nat) : Option FInfo × Chip :=
  if !c.on Reg.HQE_CTRL.EN || c.gated 51 then (none, c.bellDiscard)
  else
    match c.qGet q with
    | (none, c) => (none, c.bellDiscard)
    | (some d, c) =>
      if w.tenant != qOwner d && w.tenant != 0 then
        (some (whoInfo w fzDoorbell true 0 (c.bellAddr q + o) (c.schedAgent d)), c)
      else if o != 0 || size != 8 || qState d = qOff then (none, c.bellDiscard)
      else if bellBad d v then
        (none, (if qState d = qFrozen then c
          else c.freeze { whoInfo w fzQueueProt true 0 (c.bellAddr q) (c.schedAgent d) with kind := 1, master := q }).count Reg.HQE_ERR_CNT.PROT 1)
      else
        let d := bellApply d v
        match c.qFill q d with
        | (true, c) => (none, c.qPut q (qSet d 0 7 1 0))
        | (false, c) => (none, c.qPark q d)

/-- A doorbell write; a foreign one freezes its writer. -/
def Chip.doorbell (c : Chip) (w : Who) (q o size v : Nat) : Chip :=
  match c.doorbellTo w q o size v with
  | (some i, c) => c.violate w i
  | (none, c) => c

def execDoorbell (w : Who) (q : BitVec 20) (v : Word) (s : State) : Host.Outcome State Fault Refusal :=
  s.runWhole (fun c => c.doorbell w q.toNat 0 8 v.toNat)

/-- The oldest entry of the park ring is taken. -/
def Chip.parkPop (c : Chip) (q : Nat) : Chip := c.hqeMod (fun h => { h with parkHead := h.parkHead + 1, inRing := h.inRing.filter (· != q) })

/-- The oldest parked queue is filled where a context is free or can be spilled (R300). -/
def Chip.contextFill (c : Chip) (q : Nat) : Chip :=
  if c.hqe.parkHead = c.hqe.parkTail then c
  else
    match c.hubReadB (c.get Reg.HQE_PARK.BASE * 2 ^ 22 + 4 * (c.hqe.parkHead % 2 ^ 20)) 4 c.hqeWho with
    | (.ok, false, id, c) =>
      if id % 2 ^ 20 != q then c
      else
        match c.qGet q with
        | (none, c) => c.parkPop q
        | (some d, c) =>
          if qState d = qOff || !qParked d then c.parkPop q
          else
            match c.qFill q d with
            | (true, c) => c.parkPop q
            | (false, c) => c
    | (_, _, _, c) => c

def execContextFill (q : BitVec 20) (s : State) : Host.Outcome State Fault Refusal := s.runWhole (fun c => c.contextFill q.toNat)

/-! ### Commands (R293) -/

/-- Results of HQE_QCMD. -/
def qrDone : Nat := 1
def qrBadState : Nat := 2
def qrBadDesc : Nat := 3
def qrQuota : Nat := 4
def qrBusy : Nat := 6

/-- Report a command's outcome. -/
def Chip.qcmdReport (c : Chip) (q result st : Nat) (parked : Bool) : Chip :=
  let x := SMap.get? c.hqe.queues q
  c.puts [(Reg.HQE_QCMD_STATUS.BUSY, 0), (Reg.HQE_QCMD_STATUS.RESULT, result), (Reg.HQE_QCMD_STATUS.QSTATE, st),
    (Reg.HQE_QCMD_STATUS.CACHED, b2n x.isSome), (Reg.HQE_QCMD_STATUS.PARKED, b2n parked),
    (Reg.HQE_QCMD_STATUS.INFLIGHT, ((x.map (fun x => x.sqes.length)).getD 0))]

/-- Reserved fields and ranges of a descriptor's first 64 bytes (R292, R293): every PCIe port exists. -/
def descBad (w : List Nat) : Bool :=
  bits (qw w 0) 28 4 != 0 || decide (qSqLog w < 4) || decide (qCqLog w < 4) || qQuantum w == 0
    || bits (qw w 1) 0 6 != 0 || bits (qw w 1) 52 12 != 0 || bits (qw w 2) 0 4 != 0 || bits (qw w 2) 52 12 != 0
    || bits (qw w 3) 0 6 != 0 || bits (qw w 3) 52 12 != 0 || bits (qw w 4) 23 9 != 0 || bits (qw w 4) 48 16 != 0
    || bits (qw w 5) 24 8 != 0 || bits (qw w 5) 56 8 != 0 || bits (qw w 6) 24 8 != 0 || bits (qw w 6) 56 8 != 0 || qw w 7 != 0

/-- ENABLE of a queue in OFF. -/
def Chip.qEnable (c : Chip) (q : Nat) (w : List Nat) : Chip :=
  let t := qOwner w
  if descBad w then c.qcmdReport q qrBadDesc qOff false
  else if c.tntState t != tnActive then c.qcmdReport q qrBadState qOff false
  else if c.get (Reg.TNT_ENT.QUOTA t) ≤ c.get (Reg.TNT_ENT.QUEUES t) then c.qcmdReport q qrQuota qOff false
  else
    let w := ((qSet (qSet w 0 0 2 qIdle) 0 7 1 0).set 5 0).set 6 0
    let c := (c.hubWrite (c.qAddr q + 0x40) 64 0 c.hqeWho).2
    let c := (c.qCount t true).hqeMod (fun h => { h with live := SMap.set h.live q t, off := SMap.erase h.off q })
    match c.qFill q w with
    | (true, c) => (c.qPut q w).qcmdReport q qrDone qIdle false
    | (false, c) => (c.qStore q w).qcmdReport q qrDone qIdle false

/-- DISABLE: at once, or when every started SQE has completed. -/
def Chip.qDisable (c : Chip) (q : Nat) (w : List Nat) : Chip :=
  if qState w = qOff then c.qcmdReport q qrBadState qOff false
  else if qState w = qActive && !(c.qSqes q).isEmpty then
    (((c.qMod q (fun x => { x with disabling := true })).hqeMod (fun h => { h with qcmd := some q })).puts
      [(Reg.HQE_QCMD_STATUS.BUSY, 1), (Reg.HQE_QCMD_STATUS.RESULT, 0)])
  else (c.qTurnOff q w).qcmdReport q qrDone qOff false

/-- HQE_QCMD is written (R293, R294). -/
def Chip.qcmd (c : Chip) (op q : Nat) : Chip :=
  if op = 0 || 3 < op then c
  else if c.on Reg.HQE_QCMD_STATUS.BUSY then c.put Reg.HQE_QCMD_STATUS.RESULT qrBusy
  else
    match c.qGet q with
    | (none, c) => c.qcmdReport q qrBadDesc qOff false
    | (some w, c) =>
      if c.tntState (qOwner w) = tnResetting then c.qcmdReport q qrBadState (qState w) (qParked w)
      else if op = 1 then (if qState w = qOff then c.qEnable q w else c.qcmdReport q qrBadState (qState w) (qParked w))
      else if op = 2 then c.qDisable q w
      else c.qcmdReport q qrDone (qState w) (qParked w)

/-! ### Services (R296, R298, R301) -/

/-- May the queue consume its next SQE (R296)? -/
def QCtx.may (x : QCtx) : Bool :=
  !x.fetching && !x.disabling && qSqFetch x.w != qSqTail x.w && decide (x.sqes.length < 64)
    && decide (idxDiff (qCqTail x.w) (qCqHead x.w) + x.sqes.length < 2 ^ qCqLog x.w)

/-- The oldest SQE with bytes to request, if FENCE lets it start (R298); `first`: no earlier SQE is in flight. -/
def sqeNext : List Sqe → Bool → Option Sqe
  | [], _ => none
  | e :: l, first =>
    if e.req < e.len then (if e.fence && !first then none else some e)
    else if e.fence then none
    else sqeNext l false

/-- Has every consumed SQE had all its bytes requested? -/
def QCtx.allAsked (x : QCtx) : Bool := x.sqes.all (fun e => e.req == e.len)

/-- Is a cached queue eligible at scheduler n, but for its regulator: it has bytes not yet requested or an SQE that it may consume (R301)? -/
def QCtx.eligible (x : QCtx) (n : Nat) : Bool :=
  qState x.w == qActive && qSched x.w == n && (!x.allAsked || x.may)

/-! ### Requests of a queue (R307 to R309) -/

/-- Does its regulator hold a queue (R309)? -/
def Chip.qHeld (c : Chip) (x : QCtx) : Bool := decide (qRmaster x.w < 4096) && c.regHolds (qRmaster x.w) (c.get (Reg.REG_ENT.USED (qRmaster x.w)))

/-- A queue of a tenant under reset issues nothing (R284). -/
def Chip.qStopped (c : Chip) (x : QCtx) : Bool := c.tntState (qOwner x.w) == tnResetting

/-- A queue's next request: one bound wrongly freezes the queue (R307), one that its limit holds waits (R309), and one that issues is
charged (R308). -/
def Chip.qIssue (c : Chip) (q : Nat) (x : QCtx) (addr : Nat) (write : Bool) : Bool × Chip :=
  let ent := qRmaster x.w
  if c.qStopped x then (false, c)
  else if c.regMisuse ent (qOwner x.w) false then
    (false, c.regMisused (c.qWho q x.w) ent (addr - addr % 64) (c.schedAgent x.w) write)
  else if c.qHeld x then (false, c.hubHeld ent)
  else (true, c.hubCharge ent 1)

/-- Bytes of an SQE reach memory, in pieces within a line, each a request of its queue; what a FROM_PORT SQE stores was charged as its
service requested it (R301, R308). -/
def Chip.sqeDrain : Nat → Chip → Nat → Nat → Chip
  | 0, c, _, _ => c
  | f + 1, c, q, idx =>
    match SMap.get? c.hqe.queues q with
    | none => c
    | some x =>
      match x.sqes.find? (fun e => e.idx == idx) with
      | none => c
      | some e =>
        match e.wr with
        | [] => c
        | (a, n, v, poison) :: l =>
          match if e.op = 2 then (!c.qStopped x, c) else c.qIssue q x a true with
          | (false, c) => c
          | (true, c) =>
            let o := a % 64
            let k := Nat.min n (64 - o)
            let c := c.sqeMod q idx (fun e => { e with wr := if k < n then (a + k, n - k, v >>> (8 * k), poison) :: l else l })
            match c.hubWriteLine true (a / 64) (BitVec.ofNat 512 ((v % 2 ^ (8 * k)) <<< (8 * o))) (byteMask o k) poison (c.qWho q x.w) (.sqe q idx) with
            | (.ok, c) => Chip.sqeDrain f c q idx
            | (.bus, c) | (.away, c) => c.sqeFail q idx 1 true
            | (.region k i, c) => c.qRegion q x.w true (a - a % 64) k i

/-- Bytes for an SQE's memory destination. -/
def Chip.sqeStore (c : Chip) (q idx a n v : Nat) (poison : Bool) : Chip :=
  if n = 0 then c
  else Chip.sqeDrain (n / 64 + 2) (c.sqeMod q idx (fun e => { e with wr := e.wr ++ [(a, n, v, poison)] })) q idx

/-- Every piece that a queue's SQEs still have to store tries again. -/
def Chip.qDrain (c : Chip) (q : Nat) : Chip :=
  (c.qSqes q).foldl (fun c e => if e.wr.isEmpty then c else Chip.sqeDrain (8 * e.wr.length) c q e.idx) c

/-- The next bytes of an SQE, within one line of its memory side. -/
def sqeChunk (e : Sqe) (quantum : Nat) : Nat × Nat :=
  let a := (if e.op = 2 then e.dst else e.src) + e.req
  (a, Nat.min (Nat.min (e.len - e.req) quantum) (64 - a % 64))

/-- Bytes read from memory for a queue: none where the access failed. -/
def Chip.sqeLoad (c : Chip) (q : Nat) (w : List Nat) (idx a n : Nat) : Option (Nat × Bool) × Chip :=
  match c.hubRead true (a / 64) (c.qWho q w) with
  | (.ok, ld, c) => (some (lineGet ld.data (a % 64) n, ld.poison), c)
  | (.bus, _, c) => (none, c.sqeFail q idx 1 true)
  | (.away, _, c) => (none, c)
  | (.region k i, _, c) => (none, c.qRegion q w false (a - a % 64) k i)

/-- Request the next bytes of an SQE (R301, R378). -/
def Chip.qChunk (c : Chip) (q : Nat) (x : QCtx) (e : Sqe) : Chip :=
  let w := x.w
  let r := sqeChunk e x.quantum
  let o := e.req
  let c := c.evHub (ugHqe (qSched w)) 0xA2 1 (evOf (qOwner w) (qWorld w))
  let c := (c.nrgEv domHubc 11 (nrgKey (qOwner w) none) 1).qMod q (fun x => { x with quantum := x.quantum - r.2 })
  let c := c.sqeMod q e.idx (fun e => { e with req := e.req + r.2 })
  let port := qSched w
  if e.op = 3 then
    match c.sqeLoad q w e.idx r.1 r.2 with
    | (some (v, p), c) => (if p then c.sqeFail q e.idx 2 false else c).sqeStore q e.idx (e.dst + o) r.2 v p
    | (none, c) => c
  else
    match c.queueLink port (qFunc w) with
    | (none, c) => c.sqeFail q e.idx 3 true
    | (some (l, rid), c) =>
      if !c.linkUp port l then (c.count (Reg.PCI_ERR_CNT1.DOWN port) 1).sqeFail q e.idx 3 true
      else if e.op = 1 then
        match c.sqeLoad q w e.idx r.1 r.2 with
        | (some (v, p), c) =>
          (if p then c.sqeFail q e.idx 2 false else c).tlpSend ⟨port, l, 1, (e.dst + o) % 2 ^ 64, r.2, v, 0, rid, p⟩
            (c.schedAgent w) (qOwner w) (qWorld w)
        | (none, c) => c
      else
        (c.sqeMod q e.idx (fun e => { e with out := e.out + 1 })).outSend
          ⟨⟨port, l, 0, (e.src + o) % 2 ^ 64, r.2, 0, 0, rid, false⟩, .queue q e.idx r.1 r.2⟩

/-- Where the queue's SQEs stand in its submission ring. -/
def sqSlot (w : List Nat) (idx : Nat) : Nat := qSqBase w + 64 * (idx % 2 ^ qSqLog w)

/-- A service goes on until its quantum is spent, it waits for the ring or its regulator, or there is nothing that it may request (R301,
R309). -/
def Chip.qServe : Nat → Chip → Nat → Chip
  | 0, c, _ => c
  | f + 1, c, q =>
    let c := c.qDrain q
    match SMap.get? c.hqe.queues q with
    | none => c
    | some x =>
      if qState x.w != qActive || x.quantum = 0 || x.sqes.any (fun e => !e.wr.isEmpty) then c
      else
        match sqeNext x.sqes true with
        | some e =>
          match c.qIssue q x (sqeChunk e x.quantum).1 (e.op == 2) with
          | (false, c) => c
          | (true, c) => Chip.qServe f (c.qChunk q x e) q
        | none =>
          if x.allAsked && x.may then
            match c.qIssue q x (sqSlot x.w (qSqFetch x.w)) false with
            | (false, c) => c
            | (true, c) => c.qMod q (fun x => { x with fetching := true })
          else if x.fetching then c
          else c.qMod q (fun x => { x with quantum := 0 })

/-- Pieces that one service can make. -/
def qServeFuel : Nat := 1200

/-- What a regulator's limit held of its queues goes on (R309). -/
def Chip.qResume (c : Chip) (m : Nat) : Chip :=
  (c.hqe.queues.filter (fun p => qRmaster p.2.w == m)).foldl (fun c p => Chip.qServe qServeFuel c p.1) c

/-- Every queue goes on, as limits no longer act (R309). -/
def Chip.qResumeAll (c : Chip) : Chip := c.hqe.queues.foldl (fun c p => Chip.qServe qServeFuel c p.1) c

/-- Launch a service (R301). -/
def Chip.qLaunch (c : Chip) (q : Nat) (x : QCtx) : Chip :=
  let c := c.evHub (ugHqe (qSched x.w)) 0xA0 1 (evOf (qOwner x.w) (qWorld x.w))
  let c := (c.nrgEv domHubc 10 (nrgKey (qOwner x.w) none) 1).qTouch q
  Chip.qServe qServeFuel (c.qMod q (fun x => { x with quantum := x.quantum + 256 * qQuantum x.w })) q

/-! ### Slot tables (R301, R302) -/

/-- The active word of slot j of scheduler n. -/
def Chip.slotWord (c : Chip) (n j : Nat) : Nat :=
  c.get (if j % 2 = 0 then Reg.HQE_SLOT.SLOT_LO n (j / 2) else Reg.HQE_SLOT.SLOT_HI n (j / 2))

/-- Queues of a pool's slot that their regulators keep from being eligible. -/
def Chip.slotHeld (c : Chip) (n wd : Nat) : SMap QCtx :=
  if bits wd 20 2 = 2 then c.hqe.queues.filter (fun p => qPool p.2.w == bits wd 0 8 && p.2.eligible n && !c.qStopped p.2 && c.qHeld p.2) else []

/-- The eligible queue of a slot: the queue itself, or the pool's next one after the last served. -/
def Chip.slotQueue (c : Chip) (n wd : Nat) : Option (Nat × QCtx) :=
  let ok := fun (p : Nat × QCtx) => p.2.eligible n && !c.qStopped p.2
  if bits wd 20 2 = 1 then (c.hqe.queues.find? (fun p => p.1 == bits wd 0 20 && ok p))
  else if bits wd 20 2 = 2 then
    let l := c.hqe.queues.filter (fun p => qPool p.2.w == bits wd 0 8 && ok p && !c.qHeld p.2)
    let last := SMap.getD c.hqe.poolLast (n * 256 + bits wd 0 8) (2 ^ 20)
    match l.find? (fun p => decide (last < p.1)) with
    | some p => some p
    | none => l.head?
  else none

/-- Does slot j launch a service, and for which queue? A queue that its regulator holds is counted (R309). -/
def Chip.slotTry (c : Chip) (n j : Nat) : Option (Nat × QCtx) × Chip :=
  if !c.on Reg.HQE_CTRL.EN then (none, c)
  else
    match c.slotQueue n (c.slotWord n j) with
    | none => (none, (c.slotHeld n (c.slotWord n j)).foldl (fun c p => c.hubHeld (qRmaster p.2.w)) c)
    | some (q, x) =>
      let ent := qRmaster x.w
      let c := (c.slotHeld n (c.slotWord n j)).foldl (fun c p => c.hubHeld (qRmaster p.2.w)) c
      if c.qHeld x then (none, c.hubHeld ent) else (some (q, x), c)

/-- Step over slots from j on until one launches: the slot and its queue; none at the table's end. -/
def Chip.slotScan : Nat → Chip → Nat → Nat → Option (Nat × Nat × QCtx) × Chip
  | 0, c, _, _ => (none, c)
  | f + 1, c, n, j =>
    if 4096 ≤ j then (none, c)
    else
      match c.slotTry n j with
      | (some (q, x), c) => (some (j, q, x), c)
      | (none, c) => Chip.slotScan f (c.evHub (ugHqe n) 0xA3 1 evNone) n (j + 1)

def Chip.slotAt (c : Chip) (n : Nat) : Nat := SMap.getD c.hqe.slot n 0
def Chip.slotTo (c : Chip) (n j : Nat) : Chip := c.hqeMod (fun h => { h with slot := SMap.put h.slot 0 n j })

/-- A scheduler steps on to its next slot that launches a service; a table with none left waits at its end. While the HQE is
clock-gated the schedulers stop (R302). -/
def Chip.serviceLaunch (c : Chip) (n : Nat) : Chip :=
  if c.gated 51 then c
  else
    match Chip.slotScan 4096 c n (c.slotAt n) with
    | (none, c) => c.slotTo n 4096
    | (some (j, q, x), c) =>
      let c := if bits (c.slotWord n j) 20 2 = 2 then
          c.hqeMod (fun h => { h with poolLast := SMap.set h.poolLast (n * 256 + bits (c.slotWord n j) 0 8) q })
        else c
      (c.slotTo n (j + 1)).qLaunch q x

def execServiceLaunch (n : Fin 8) (s : State) : Host.Outcome State Fault Refusal := s.runWhole (fun c => c.serviceLaunch n.val)

/-- The shadow table becomes active (R302). -/
def Chip.slotSwitch (c : Chip) (n : Nat) : Chip :=
  (List.range 2048).foldl (fun c j =>
    let lo := Reg.HQE_SLOT.SLOT_LO n j
    let hi := Reg.HQE_SLOT.SLOT_HI n j
    (c.put lo (c.regs.getShadow lo)).put hi (c.regs.getShadow hi)) c

/-- The scheduler wraps, once no slot that is left launches a service. -/
def Chip.slotWrap (c : Chip) (n : Nat) : Chip :=
  if c.gated 51 then c
  else
    match Chip.slotScan 4096 c n (c.slotAt n) with
    | (some _, _) => c
    | (none, c) =>
      let c := (c.slotTo n 0).count (Reg.HQE_SCHED.WRAPS n) 1
      if c.on (Reg.HQE_SCHED.PENDING n) then (c.slotSwitch n).put (Reg.HQE_SCHED.PENDING n) 0 else c

def execSlotTableWrap (n : Fin 8) (s : State) : Host.Outcome State Fault Refusal := s.run (fun c => c.slotWrap n.val)

/-! ### SQEs (R295, R297) -/

/-- Is a memory range outside the DRAM and CXL ranges (R295)? -/
def memRangeBad (a n : Nat) : Bool := decide (2 ^ 48 < a + n) || decide (2 ^ 48 ≤ a)

/-- Does an SQE break a rule of R295, read with a queue's TARGET? -/
def sqeBad (target : Nat) (w : List Nat) : Bool :=
  let op := bits (qw w 0) 0 8
  let len := bits (qw w 0) 32 32
  decide (3 < op) || bits (qw w 0) 10 22 != 0 || (w.drop 4).any (· != 0)
    || (op != 0 && (if target = 0 then op == 3 else op != 3))
    || (op != 0 && len != 0 && (((op == 1 || op == 3) && memRangeBad (qw w 1) len) || ((op == 2 || op == 3) && memRangeBad (qw w 2) len)))

/-- The SQE as consumed; one that makes no access has no bytes to request. -/
def sqeOf (idx : Nat) (w : List Nat) : Sqe :=
  let op := bits (qw w 0) 0 8
  { idx := idx, op := op, fence := bit (qw w 0) 8, irq := bit (qw w 0) 9, len := if op = 0 then 0 else bits (qw w 0) 32 32,
    src := qw w 1, dst := qw w 2, user := qw w 3, req := 0, status := 0, out := 0, wr := [], cqe := false }

/-- The read of the ring returns: the SQE is consumed, and the service goes on (R295, R296); a queue that is being disabled or reset consumes
none (R284, R293). -/
def Chip.sqeFetch (c : Chip) (q : Nat) : Chip :=
  match SMap.get? c.hqe.queues q with
  | none => c
  | some x =>
    if !x.fetching then c
    else if x.disabling || c.qStopped x then (c.qMod q (fun x => { x with fetching := false })).qSettle q
    else
      let idx := qSqFetch x.w
      let a := sqSlot x.w idx
      match c.hubRead true (a / 64) (c.qWho q x.w) with
      | (.region k i, _, c) => (c.sqeTake q (sqeEmpty idx 0)).qRegion q x.w false a k i
      | (.away, _, c) => c.sqeTake q (sqeEmpty idx 0)
      | (.bus, _, c) => Chip.qServe qServeFuel (c.sqeTake q (sqeEmpty idx 1)) q
      | (.ok, ld, c) =>
        if ld.poison then Chip.qServe qServeFuel (c.sqeTake q (sqeEmpty idx 2)) q
        else
          let w := wordsOf 8 (lineGet ld.data 0 64)
          if sqeBad (qTarget x.w) w then
            ((c.sqeTake q (sqeOf idx w)).qViolate q x.w fzQueueProt false 0 a (c.schedAgent x.w)).count Reg.HQE_ERR_CNT.PROT 1
          else Chip.qServe qServeFuel (c.sqeTake q (sqeOf idx w)) q

def execSqeFetch (q : BitVec 20) (s : State) : Host.Outcome State Fault Refusal := s.runWhole (fun c => c.sqeFetch q.toNat)

/-- Is an SQE done: every byte requested and stored, no port read under way, and FENCE order kept (R298)? -/
def sqeDone : List Sqe → Nat → Bool → Bool
  | [], _, _ => false
  | e :: l, idx, first =>
    if e.idx = idx then e.req == e.len && e.out == 0 && e.wr.isEmpty && (!e.fence || first)
    else !e.fence && sqeDone l idx false

/-- The completion entry's second word (R297). -/
def cqeWord (fetch status tail log : Nat) : Nat := fetch + status <<< 24 + (1 - bits tail log 1) <<< 63

/-- An SQE's writes are visible: its CQE is written, and once that is visible too the SQE is over (R296 to R298). -/
def Chip.sqeComplete (c : Chip) (q idx : Nat) : Chip :=
  match SMap.get? c.hqe.queues q with
  | none => c
  | some x =>
    if qState x.w != qActive || !sqeDone x.sqes idx true || c.useOut (.sqe q idx) || x.sqes.any (fun e => e.cqe) then c
    else
      match x.sqes.find? (fun e => e.idx == idx) with
      | none => c
      | some e =>
        let t := qCqTail x.w
        let a := qCqBase x.w + 16 * (t % 2 ^ qCqLog x.w)
        let v := e.user % 2 ^ 64 + cqeWord (qSqFetch x.w) e.status t (qCqLog x.w) <<< 64
        match c.qIssue q x a true with
        | (false, c) => c
        | (true, c) =>
          match Chip.hubWriteN true (.cqe q idx) 2 c a 16 v false (c.qWho q x.w) with
          | (.region k i, c) => c.qRegion q x.w true (a - a % 64) k i
          | (_, c) => if c.useOut (.cqe q idx) then c.sqeMod q idx (fun e => { e with cqe := true }) else c.sqeFinish q idx

def execSqeComplete (q : BitVec 20) (idx : BitVec 24) (s : State) : Host.Outcome State Fault Refusal :=
  s.runWhole (fun c => c.sqeComplete q.toNat idx.toNat)

end Sys2Proof.Machine
end

