-- ==== Sys2Proof/Machine/HomeTx.lean ====
section
/-! DEFINITION. Machine/HomeTx.lean: fences (R194, R195, R197, R198, R460), and the home's transactions: what each request
does (R183 to R185), directory victims and retries (R191, R192), writebacks (R188, R190) and closing (R184). -/
namespace Sys2Proof.Machine

/-! ### Fences -/

/-- Record a dead target (R194 step 1). -/
def Chip.deadRec (c : Chip) (isPkg : Bool) (clu pkg cause line : Nat) : Chip :=
  let c := c.count (Reg.DIR_DEAD_SRC.COUNT 0) 1
  if c.on (Reg.DIR_DEAD_ADDR.VALID 0) then c
  else c.puts [(Reg.DIR_DEAD_ADDR.ADDR 0, line), (Reg.DIR_DEAD_ADDR.VALID 0, 1), (Reg.DIR_DEAD_SRC.CLUSTER 0, if isPkg then 0x3FF else clu),
    (Reg.DIR_DEAD_SRC.TYPE 0, b2n isPkg), (Reg.DIR_DEAD_SRC.PKG 0, pkg), (Reg.DIR_DEAD_SRC.CAUSE 0, cause),
    (Reg.DIR_DEAD_SRC.SLICE 0, homeSlice (64 * line)), (Reg.DIR_DEAD_TIME.TIME 0, c.time)]

def Chip.dirIrq (c : Chip) : Chip := c.irqReg (Reg.DIR_IRQ.AGENT 0) (Reg.DIR_IRQ.VEC 0) (Reg.DIR_IRQ.EN 0)

/-- Present packages other than this one. -/
def Chip.others (c : Chip) : List Nat := (List.range 8).filter (fun q => q != c.pkg && c.present q)

/-- Every context of a die of this package enters HELD with a cause (R195, R260). -/
def Chip.holdDie (c : Chip) (d cause : Nat) : Chip :=
  (List.range 80).foldl (fun c i =>
    let x := 80 * d + i
    if (SMap.get? c.frozen x).isSome then c else c.freezeCx x cause c.tableAgent) c

/-- Requests of fenced dies that wait or are open end with nothing sent back, and their waiting writebacks are dropped (R195). -/
def Chip.dropReqs (c : Chip) (mine : Msg → Bool) : Chip :=
  let c := (c.coh.homeQ.filter (fun m => mine m && m.cls == clsWbk)).foldl (fun c m => c.fencedDrop m) c
  { c with coh := { c.coh with
      homeQ := c.coh.homeQ.filter (fun m => !mine m)
      retryQ := c.coh.retryQ.filter (fun m => !mine m)
      away := c.coh.away.filter (fun a => !(a.msg.cls == clsReq && mine a.msg)) } }
def Chip.dropDieReqs (c : Chip) (p d : Nat) : Chip := c.dropReqs (fun m => agPkg m.agent == p && agDie m.agent == d)

/-- Set a die's fence bit here; contexts of a die of this package are held (R195). -/
def Chip.setFence (c : Chip) (p d cause : Nat) : Chip :=
  if c.bitOf (Reg.DIR_FENCE.DIE 0 p) d then c
  else
    let c := (c.putBit (Reg.DIR_FENCE.DIE 0 p) d true).dirIrq.dropDieReqs p d
    if p = c.pkg then c.holdDie d cause else c

/-- Fence a die: the bit here, and a FENCE message to every other present hub (R195). -/
def Chip.fenceDie (c : Chip) (p d cause slice : Nat) : Chip :=
  if c.bitOf (Reg.DIR_FENCE.DIE 0 p) d then c
  else
    let c := c.setFence p d cause
    c.others.foldl (fun c q => c.sendMsg { Msg.mk0 clsRsp tFence 0 with
      agent := hubAgent c.pkg 2 slice, aux := mkClu p d 0, dstPkg := q, dstDie := 12 }) c

/-- The poisoned answer that completes a request of this package (R194, R197, R198). -/
def poisonDat (m : Msg) : Msg :=
  { Msg.mk0 clsDat 0 m.line with
    tag := m.tag, agent := m.agent, tenant := m.tenant, secure := m.secure, data := some 0#512, poison := true,
    dstPkg := agPkg m.agent, dstDie := agDie m.agent }

/-- A message that will never be answered is completed: a request with poison, TNT_CMD as unanswered, a marker as failed,
an UNFENCE as answered (R119, R196, R198, R283). -/
def Chip.giveUp (c : Chip) (m : Msg) (q : Nat) : Chip :=
  if m.cls = clsReq then
    let c := c.latReq m
    (if agDie m.agent < 12 || agPkg m.agent != c.pkg then c.sendMsg (poisonDat m) else c.farDone m.tag m.agent .ok LD.bad)
  else if m.typ = tTntCmd then c.tntAnswer m.tag q false true
  else if m.typ = tIoMark then
    c.sendMsg { Msg.mk0 clsRsp tIoAck 0 with
      tag := m.tag, agent := c.tableAgent, tenant := m.tenant, poison := true, dstPkg := c.pkg, dstDie := agDie m.agent }
  else if m.typ = tUnfence then
    { c with coh := { c.coh with unfenceWait := c.coh.unfenceWait.map (fun u =>
        if u.1 = cluDie m.aux then (u.1, u.2.filter (· != q)) else u) } }
  else c

/-- A message leaves for another package; one for a fenced package is completed instead (R197). -/
def Chip.sendOrGive (c : Chip) (m : Msg) : Chip := if c.fencedPkg m.dstPkg then c.giveUp m m.dstPkg else c.sendAway m

/-- Messages that wait for a package's route, and requests for it that no flit carries yet. -/
def Chip.heldFor (c : Chip) (q : Nat) : List Msg := (c.routeHold.filter (fun h => h.1 == q)).flatMap (·.2)
def Chip.dropHeld (c : Chip) (q : Nat) : Chip :=
  { c with
    routeHold := c.routeHold.map (fun h => if h.1 = q then (q, []) else h)
    tdm := c.tdm.map (fun p => (p.1, { p.2 with out := p.2.out.filter (fun m => !(m.cls == clsReq && m.dstPkg == q)) })) }

/-- Fence a package: everything that waits for it is completed, and what its dies asked for ends (R195, R197). -/
def Chip.fencePkg (c : Chip) (q : Nat) : Chip :=
  if c.fencedPkg q then c
  else
    let c := (c.put (Reg.DIR_FENCE.PKG 0 q) 1).dirIrq
    let c := c.dropReqs (fun m => agPkg m.agent == q)
    let gone := (c.coh.away.filter (fun a => a.pkg == q)).map (·.msg) ++ c.heldFor q
    let c := { c.dropHeld q with coh := { c.coh with away := c.coh.away.filter (fun a => a.pkg != q) } }
    gone.foldl (fun c m => c.giveUp m q) c

/-- A kept message stays undelivered for HOME_TIMEOUT (R198); the package that an UNFENCE does not reach is fenced (R196). -/
def Chip.deliveryTimeout (c : Chip) (i : Nat) : Chip :=
  match c.coh.away[i]? with
  | some a =>
    if a.delivered then c
    else
      let c := ({ c with coh := { c.coh with away := c.coh.away.eraseIdx i } }).giveUp a.msg a.pkg
      if a.msg.cls == clsRsp && a.msg.typ == tUnfence then c.fencePkg a.pkg else c
  | none => c

/-- A delivered message is not answered in time: completed, and its package fenced (R198). -/
def Chip.answerTimeout (c : Chip) (i : Nat) : Chip :=
  match c.coh.away[i]? with
  | some a =>
    if !a.delivered then c
    else
      let c := ({ c with coh := { c.coh with away := c.coh.away.eraseIdx i } }).giveUp a.msg a.pkg
      (c.deadRec true 0x3FF a.pkg 2 a.msg.line).fencePkg a.pkg
  | none => c

def execDeliveryTimeout (i : Nat) (s : State) : Host.Outcome State Fault Refusal := s.run (fun c => c.deliveryTimeout i)
def execAnswerTimeout (i : Nat) (s : State) : Host.Outcome State Fault Refusal := s.run (fun c => c.answerTimeout i)

/-- A FENCE message arrives (R195). -/
def Chip.fenceMsg (c : Chip) : Chip :=
  match c.takeHub (fun m => m.cls == clsRsp && m.typ == tFence) with
  | none => c
  | some (m, c) => c.setFence (cluPkg m.aux) (cluDie m.aux) fzCoh

def execFence (s : State) : Host.Outcome State Fault Refusal := s.run Chip.fenceMsg

/-! ### Transactions -/

/-- The class of the request of a transaction that serves none: settling an entry (R460). -/
def clsNone : Nat := 7

def Chip.txOf (c : Chip) (line : Nat) : Option Tx := c.coh.txs.find? (fun t => t.line == line)
def Chip.txMod (c : Chip) (line : Nat) (f : Tx → Tx) : Chip :=
  { c with coh := { c.coh with txs := c.coh.txs.map (fun t => if t.line = line then f t else t) } }
def Chip.txAdd (c : Chip) (t : Tx) : Chip := { c with coh := { c.coh with txs := c.coh.txs ++ [t] } }

/-- Does something open or retried hold back new requests for a line (R172, R192)? -/
def Chip.lineBusy (c : Chip) (line : Nat) : Bool :=
  c.coh.txs.any (fun t => t.line == line || (t.victim && t.req.line == line)) || c.coh.retryQ.any (fun m => m.line == line)

/-- A fresh transaction. -/
def Tx.new (line : Nat) (m : Msg) : Tx :=
  { line := line, req := m, victim := false, snoops := [], own := none, ownDirty := false, ownYrw := 0, lost := [], wantMem := false,
    mem := none, poisoned := false, done := false }

/-- HOME_TIMEOUT in TIME units (R194). -/
def Chip.homeLimit (c : Chip) : Nat := c.get (Reg.DIR_CTRL.HOME_TIMEOUT 0) * 4000

/-- An event of a line's home slice for a transaction (R423). -/
def Chip.homeEv (c : Chip) (line ev : Nat) (m : Msg) : Chip := c.evHub (ugHome (homeSlice (64 * line))) ev 1 (evOf m.tenant m.secure)

/-- The requester's cluster identifier that a snoop carries (R180): 0x3FF, which names no die, where no cluster asks (R6; log 13). -/
def reqClu (agent : Nat) : Nat := if agDie agent < 12 then cluOf agent else 0x3FF

/-- Send a snoop of a transaction to a die or, in a broadcast, to a package's hub. A victim's snoops name no requester (R191). -/
def Chip.snoopTo (c : Chip) (line typ : Nat) (isPkg : Bool) (tgt : Nat) : Chip :=
  match c.txOf line with
  | none => c
  | some t =>
    let c := c.txMod line (fun t => { t with snoops := t.snoops ++ [⟨isPkg, tgt, c.time, c.homeLimit⟩] })
    let c := (c.homeEv line 0x61 t.req).nrgEv domHubc 7 (c.keyOf t.req.agent t.req.tenant) 1
    c.sendMsg { Msg.mk0 clsSnp typ line with
      tag := t.req.tag, agent := t.req.agent, tenant := t.req.tenant, secure := t.req.secure, aux := if t.victim then 0x3FF else reqClu t.req.agent,
      dstPkg := if isPkg then tgt else cluPkg tgt, dstDie := if isPkg then 12 else cluDie tgt }

/-- Snoop every copy but the requester's (R176, R183, R185). -/
def Chip.snoopCopies (c : Chip) (e : DirEnt) (typ rclu : Nat) (skip : Bool) : Chip :=
  let not := fun (p : Nat) => !(skip && sameDie p rclu)
  let c := (c.livePtrs e).foldl (fun c p => if not p then c.snoopTo e.line typ false p else c) c
  if e.ovf then
    let c := c.count (Reg.DIR_CNT0.OVF_BCAST (homeSlice (64 * e.line))) 1
    let c := match c.txOf e.line with | some t => c.homeEv e.line 0x64 t.req | none => c
    let c := (List.range 12).foldl (fun c d =>
      let p := mkClu c.pkg d 0
      if c.diePresent d && !c.fencedDie c.pkg d && not p && !e.ptrs.any (sameDie p) then c.snoopTo e.line typ false p else c) c
    if e.xpkg then c.others.foldl (fun c q => if c.fencedPkg q then c else c.snoopTo e.line typ true q) c else c
  else c

/-- Does the entry list the requester's die, without overflow (UPG of R183)? -/
def upgOk (e : DirEnt) (rclu : Nat) : Bool := (e.st == dS || e.st == dO) && !e.ovf && e.ptrs.any (sameDie rclu)

/-- The request type as the home serves it: an UPG that cannot be one is an RD_X (R183). -/
def servedAs (e : DirEnt) (m : Msg) : Nat := if m.typ = tUpg && !upgOk e (cluOf m.agent) then tRdX else m.typ

/-- The owner that a read must ask: not the requester's own die. -/
def otherOwner (e : DirEnt) (rclu : Nat) : Option Nat :=
  match e.owner with
  | some p => if sameDie p rclu then none else some p
  | none => none

/-- Is a masked write's or a whole line's mask absent? -/
def Msg.whole (m : Msg) : Bool := m.mask.isNone

/-- Snoops of a request (R183). -/
def Chip.txSnoops (c : Chip) (e : DirEnt) (m : Msg) : Chip :=
  let r := cluOf m.agent
  let ty := servedAs e m
  if e.st = dP || e.st = dI then c
  else if ty = tRdS then (match otherOwner e r with | some p => c.snoopTo e.line tSnpS false p | none => c)
  else if ty = tRdX || ty = tUpg then c.snoopCopies e tSnpInv r true
  else if ty = tClaim then c.snoopCopies e tSnpInvNd r true
  else if ty = tRdNc then (match e.owner with | some p => c.snoopTo e.line tSnpCur false p | none => c)
  else if ty = tWrNc then c.snoopCopies e (if m.whole then tSnpInvNd else tSnpInv) r false
  else if ty = tMClean then (match otherOwner e r with | some p => c.snoopTo e.line tSnpClean false p | none => c)
  else if ty = tMFlush then c.snoopCopies e tSnpInv r false
  else c.snoopCopies e tSnpInvNd r false

/-- Does the answer still need memory's copy, once every snoop is answered (R183)? -/
def Tx.needsMem (t : Tx) (e : DirEnt) : Bool :=
  let ty := servedAs e t.req
  if t.victim || t.poisoned || e.st == dP || t.req.cls == clsNone then false
  else if ty = tRdS || ty = tRdX || ty = tRdNc then t.own.isNone
  else if ty = tWrNc then !t.req.whole && !(t.own.isSome && t.ownDirty)
  else false

/-- Memory's data has come for a transaction: a processor's read allocates in the hub cache (R152, R153). -/
def Chip.memArrive (c : Chip) (line : Nat) (ld : LD) : Chip :=
  match c.txOf line with
  | none => c
  | some t =>
    let c := c.txMod line (fun t => { t with mem := some ld })
    if t.req.typ = tRdNc || t.req.typ = tWrNc then c
    else
      (c.hcNote true false t.req.agent (tenantKey t.req.tenant t.req.secure)).hcEnter line ld false t.req.yrw (if t.req.old then 3 else 0)

/-- Ask for memory's copy: the hub cache, CXL memory, or a Page Guard read (R152, R232). -/
def Chip.memAsk (c : Chip) (t : Tx) : Chip :=
  let key := tenantKey t.req.tenant t.req.secure
  match (c.txMod t.line (fun t => { t with wantMem := true })).hcRead t.line t.req.old with
  | (some ld, c) => (c.hcNote false true t.req.agent key).txMod t.line (fun t => { t with mem := some ld })
  | (none, c) =>
    let c := c.hcNote false false t.req.agent key
    if isDram t.line then (c.pgPost .read t.line t.req.agent key LD.zero 0 t.req.master).2
    else (c.nrgEv domIo 20 (c.keyOf t.req.agent t.req.tenant) 1).memArrive t.line (c.cxlRead t.line)

/-- An answer to the requester: latency counts for this package's entries (R315). A unit of this hub takes it at once. -/
def Chip.answer (c : Chip) (req m : Msg) : Chip :=
  let c := c.latReq req
  if agPkg req.agent = c.pkg && 12 ≤ agDie req.agent then c.farDone req.tag req.agent .ok m.ld else c.sendMsg m

def grantS : Nat := 1
def grantE : Nat := 2
def grantM : Nat := 3

/-- A DAT that grants a state with the rights of the request's key (R328). -/
def Chip.datTo (c : Chip) (req : Msg) (ld : LD) (grant : Nat) (dirty : Bool) (yrw : Nat) : Chip :=
  c.answer req ({ Msg.mk0 clsDat 0 req.line with
    tag := req.tag, agent := req.agent, tenant := req.tenant, secure := req.secure, dirty := dirty, yrw := yrw,
    aux := grant + (if grant = 0 then 0 else (req.aux % 8) * 4), dstPkg := agPkg req.agent, dstDie := agDie req.agent }.withLd ld)

/-- A GRANT without data (R183). -/
def Chip.grantTo (c : Chip) (req : Msg) : Chip :=
  c.answer req { Msg.mk0 clsRsp tGrant req.line with
    tag := req.tag, agent := req.agent, tenant := req.tenant, secure := req.secure, dstPkg := agPkg req.agent, dstDie := agDie req.agent }

/-- Complete a request with a poisoned DAT and no copy (R183, R194). -/
def Chip.poisonTo (c : Chip) (req : Msg) : Chip := if req.cls = clsNone then c else c.datTo req LD.bad 0 false 0

/-- The entry without the dies that turned out to hold nothing. -/
def DirEnt.without (e : DirEnt) (lost : List Nat) : DirEnt := lost.foldl (fun e p => e.remove p) e

/-- An entry after an owner or sharers left it. -/
def DirEnt.norm (e : DirEnt) : DirEnt :=
  if e.st = dS && e.ptrs.isEmpty && !e.ovf then { e with st := dI } else e

/-- Dirty data that no cache keeps goes to the hub cache (R184). -/
def Chip.keepDirty (c : Chip) (t : Tx) : Chip :=
  match t.own with
  | some ld => if t.ownDirty then c.hcWrite t.line ld t.ownYrw (if t.req.old then 3 else 0) t.req.agent (tenantKey t.req.tenant t.req.secure) else c
  | none => c

/-- The line's poison reaches memory, and its entry P (R194 steps 4 and 5). -/
def Chip.poisonLine (c : Chip) (line : Nat) (keep : Bool) : Chip :=
  let c := (c.hcWrite line LD.bad 0 0 (hubAgent c.pkg 2 (homeSlice (64 * line))) 0).count (Reg.DIR_CNT2.POISONED (homeSlice (64 * line))) 1
  if keep then c.dirPut ⟨line, dP, false, false, [], ((c.dirFind line).map (·.2.age)).getD 0⟩ else c.dirRemove line

/-- A line written back by a range operation that is poisoned is counted (R162). -/
def Chip.rangePoison (c : Chip) (line : Nat) (ld : LD) : Chip :=
  if ld.poison && c.coh.range.any (fun r => r.busy && r.next == line) then c.count Reg.HC_RANGE_COUNT.POISONED 1 else c

/-- Dirty data of a line that MAINT writes back goes through the hub cache to memory (R161, R184); poisoned, it is counted (R162). -/
def Chip.rangeClean (c : Chip) (t : Tx) : Chip :=
  let c := c.hcCheck t.line
  let c := match (if t.ownDirty then t.own else c.hcDirty t.line) with
    | some ld => c.rangePoison t.line ld
    | none => c
  (c.keepDirty t).hcClean t.line

/-- What RD_S, with every answer in, does (R183). Poisoned data of an owner gives no copy, like that of memory (log 80). -/
def Chip.finRdS (c : Chip) (t : Tx) (e : DirEnt) : Chip :=
  let r := cluOf t.req.agent
  let age := e.age
  match t.own with
  | some ld =>
    let left := e.without t.lost
    let held := match otherOwner e r with | some p => !t.lost.any (sameDie p) | none => false
    let c := if held then c else c.keepDirty t
    let st := if !held then dS else if e.st = dO || t.ownDirty then dO else dS
    if ld.poison then (c.dirPut { left with st := st }.norm).poisonTo t.req
    else (c.dirPut { { left with st := st }.add c.pkg r with age := age }).datTo t.req ld grantS false t.req.yrw
  | none =>
    let ld := t.mem.getD LD.bad
    let alone := e.st == dI || e.st == dX
    let left := e.without t.lost
    if ld.poison then
      (if e.st = dI then c.dirRemove t.line
       else c.dirPut (if alone then { left with st := dI } else left).norm).poisonTo t.req
    else if alone && (e.st == dI || (otherOwner e r).isNone) then
      (c.dirPut { e.only c.pkg dX r with age := 0 }).datTo t.req ld grantE false t.req.yrw
    else
      let held := match otherOwner e r with | some p => !t.lost.any (sameDie p) | none => false
      (c.dirPut ({ left with st := if e.st = dO && held then dO else dS }.add c.pkg r)).datTo t.req ld grantS false t.req.yrw

/-- RD_X: every other copy is gone. Poisoned data of an owner gives no copy, like that of memory (log 80). -/
def Chip.finRdX (c : Chip) (t : Tx) (e : DirEnt) : Chip :=
  let r := cluOf t.req.agent
  let ld := match t.own with | some l => l | none => t.mem.getD LD.bad
  if ld.poison then
    let c := if t.ownDirty then c.keepDirty t else c
    (c.dirRemove t.line).poisonTo t.req
  else (c.dirPut { e.only c.pkg dX r with age := 0 }).datTo t.req ld grantM t.ownDirty t.req.yrw

/-- The entry once its owner turned out to be writing the line back: the slice holds it no longer (R188), and its dirty data is kept. -/
def Chip.ownerGone (c : Chip) (t : Tx) (e : DirEnt) : Chip :=
  match e.owner with
  | some p =>
    if t.lost.any (sameDie p) then
      (c.keepDirty t).dirPut { e.without t.lost with st := if e.st = dX then dI else dS }.norm
    else c
  | none => c

/-- The requester's die was fenced meanwhile: the copies went as its snoops say, it gets none, and nothing is sent back (R195). -/
def Chip.finGone (c : Chip) (t : Tx) (e : DirEnt) : Chip :=
  let ty := servedAs e t.req
  if e.st = dP then c
  else if ty = tRdS then
    let left := e.without (cluOf t.req.agent :: t.lost)
    let held := match e.owner with | some p => left.ptrs.any (sameDie p) | none => false
    let c := if held then c else c.keepDirty t
    c.dirPut { left with st := if e.st = dX || e.st = dO then (if held && t.ownDirty then dO else dS) else e.st }.norm
  else (c.keepDirty t).dirRemove t.line

/-- What each request does once its snoops are answered and memory's data, where wanted, is in (R183). -/
def Chip.finServe (c : Chip) (t : Tx) (e : DirEnt) : Chip :=
  let r := cluOf t.req.agent
  let ty := servedAs e t.req
  if c.fencedDie (agPkg t.req.agent) (agDie t.req.agent) && ty ≤ tClaim then c.finGone t e
  else if ty = tRdS then (if e.st = dP then c.poisonTo t.req else c.finRdS t e)
  else if ty = tRdX then (if e.st = dP then c.poisonTo t.req else c.finRdX t e)
  else if ty = tUpg || ty = tClaim then (c.dirPut { e.only c.pkg dX r with age := 0 }).grantTo t.req
  else if ty = tRdNc then
    if e.st = dP then c.poisonTo t.req
    else (c.ownerGone t e).datTo t.req (match t.own with | some l => l | none => t.mem.getD LD.bad) 0 false 0
  else if ty = tWrNc then
    let new := t.req.ld
    if t.req.whole then ((c.dirRemove t.line).hcWrite t.line new t.req.yrw 0 t.req.agent (tenantKey t.req.tenant t.req.secure)).grantTo t.req
    else
      let old := if e.st = dP then LD.bad else if t.ownDirty then t.own.getD LD.bad else t.mem.getD LD.bad
      let merged : LD := ⟨lineMerge old.data new.data (t.req.mask.getD 0#64).toNat, old.poison || new.poison⟩
      let c := if e.st = dP then c else c.dirRemove t.line
      (c.hcWrite t.line merged t.req.yrw 0 t.req.agent (tenantKey t.req.tenant t.req.secure)).grantTo t.req
  else if ty = tMClean then
    let c := c.rangeClean t
    let left := e.without t.lost
    let c :=
      if e.st = dX then c.dirPut (if left.ptrs.isEmpty then { left with st := dI } else left)
      else if e.st = dO then c.dirPut { left with st := dS }.norm
      else c
    if agDie t.req.agent < 12 then c.grantTo t.req else c
  else if ty = tMFlush then ((c.rangeClean t).hcDrop t.line).dirRemove t.line
  else ((if e.st = dP then c.hcClean t.line else c).hcDrop t.line).dirRemove t.line

/-- Complete every waiting request for a line with poison (R194 step 5). -/
def Chip.poisonWaiting (c : Chip) (line : Nat) : Chip :=
  let l := c.coh.homeQ.filter (fun m => m.line == line && m.cls == clsReq)
  let c := { c with coh := { c.coh with homeQ := c.coh.homeQ.filter (fun m => !(m.line == line && m.cls == clsReq)) } }
  l.foldl Chip.poisonTo c

/-- Go on with a transaction once nothing more is awaited. -/
def Chip.txAdvance (c : Chip) (line : Nat) : Chip :=
  match c.txOf line with
  | none => c
  | some t =>
    if t.done || !t.snoops.isEmpty then c
    else
      let e := c.dirEnt line
      if t.poisoned then
        let c := c.poisonLine line (!t.victim)
        let c := if t.victim then c.dirReserve t.req.line else (c.poisonTo t.req).poisonWaiting line
        c.txMod line (fun t => { t with done := true })
      else if t.victim then (((c.keepDirty t).dirRemove line).dirReserve t.req.line).txMod line (fun t => { t with done := true })
      else if t.req.cls = clsNone then (c.dirPut (e.without t.lost).norm).txMod line (fun t => { t with done := true })
      else if t.needsMem e then
        if t.wantMem then
          (if t.mem.isSome then (c.finServe t e).txMod line (fun t => { t with done := true }) else c)
        else
          let c := c.memAsk t
          match c.txOf line with
          | some t2 => if t2.mem.isSome then (c.finServe t2 e).txMod line (fun t => { t with done := true }) else c
          | none => c
      else (c.finServe t e).txMod line (fun t => { t with done := true })

/-- The directory way that a new entry replaces (R154, R191): the victim's entry, with the set's new ages. -/
def Chip.dirVictim (c : Chip) (line : Nat) : Option (DirEnt × Chip) :=
  let b := dirBase line
  let ways := (List.range 16).filterMap (fun w => match SMap.get? c.coh.dir (b + w) with
    | some e => if c.lineBusy e.line then none else some (b + w, e)
    | none => none)
  let mx := ways.foldl (fun a w => max a w.2.age) 0
  let c := if mx < 3 then
      c.setDirM (c.coh.dir.map (fun p => if ways.any (fun w => w.1 == p.1) then (p.1, { p.2 with age := p.2.age + (3 - mx) }) else p))
    else c
  match ways.find? (fun w => w.2.age == mx) with
  | some w => some (w.2, c)
  | none => none

/-- Is the owner that an entry names on a fenced die (R195)? -/
def Chip.ownerFenced (c : Chip) (e : DirEnt) : Bool :=
  match e.owner with
  | some p => c.fencedDie (cluPkg p) (cluDie p)
  | none => false

/-- Open a transaction whose line is lost: the other copies go first (R194 steps 3 to 5, R195). -/
def Chip.openPoisoned (c : Chip) (e : DirEnt) (m : Msg) : Chip :=
  let c := c.txAdd { Tx.new e.line m with poisoned := true }
  (c.snoopCopies e tSnpInv (cluOf m.agent) (m.cls == clsReq)).txAdvance e.line

/-- Does a request allocate a directory entry (R182)? -/
def Msg.allocates (m : Msg) : Bool := m.cls == clsReq && (m.typ == tRdS || m.typ == tRdX || m.typ == tUpg || m.typ == tClaim)

/-- An entry that names fenced dies as sharers is settled when it is touched (R460). -/
def Chip.touch (c : Chip) (line : Nat) : Chip :=
  let e := c.dirEnt line
  if c.namesFenced e && !c.ownerFenced e then c.dirPut { e with ptrs := c.livePtrs e }.norm else c

/-- The home starts to act on a request (R172, R183, R191). -/
def Chip.homeServe (c : Chip) (m : Msg) : Chip :=
  let c := c.nrgEv domHubc 6 (c.keyOf m.agent m.tenant) 1
  let e := c.dirEnt m.line
  if c.ownerFenced e then c.openPoisoned e m
  else
    let c := if m.allocates then c.dirReserve m.line else c
    let c := match c.dirFind m.line with
      | some (k, x) => c.setDirM (SMap.set c.coh.dir k { x with age := 0 })
      | none => c
    ((c.txAdd (Tx.new m.line m)).txSnoops (c.dirEnt m.line) m).txAdvance m.line

/-- A request that may need a new entry in a full set: a victim transaction, or a retry (R191, R192). -/
def Chip.homeOpen (c : Chip) (m : Msg) : Chip :=
  let c := c.touch m.line
  if m.allocates && (c.dirFind m.line).isNone && c.dirFull m.line then
    match c.dirVictim m.line with
    | none =>
      ({ (c.homeEv m.line 0x62 m) with coh := { c.coh with retryQ := c.coh.retryQ ++ [m] } }).count (Reg.DIR_CNT1.RETRY (homeSlice (64 * m.line))) 1
    | some (v, c) =>
      let c := c.touch v.line
      let v := c.dirEnt v.line
      let c := (c.homeEv m.line 0x63 m).count (Reg.DIR_CNT0.VICTIM_INV (homeSlice (64 * m.line))) 1
      let t := { Tx.new v.line m with victim := true, poisoned := c.ownerFenced v }
      ((c.txAdd t).snoopCopies v tSnpInv 0 false).txAdvance v.line
  else c.homeServe m

/-- The first message for a line, with those of its home slice before it. -/
def lineFirst (line : Nat) : List Msg → List Msg → Option (List Msg × Msg)
  | _, [] => none
  | before, m :: l => if m.line = line then some (before, m) else lineFirst line (before ++ [m]) l

/-- Has a request a tracker: fewer than 512 of its home slice are open or wait before it (R179)? -/
def Chip.tracked (c : Chip) (line : Nat) (before : List Msg) : Bool :=
  let sl := homeSlice (64 * line)
  decide ((c.coh.txs.filter (fun t => homeSlice (64 * t.line) == sl)).length
    + (before.filter (fun m => m.cls == clsReq && homeSlice (64 * m.line) == sl)).length < 512)

/-- Take the oldest waiting request of a type for a line that no transaction holds back (R172), once it has a tracker (R179). -/
def Chip.homeTake (c : Chip) (typ line : Nat) : Option (Msg × Chip) :=
  if c.lineBusy line then none
  else
    match lineFirst line [] c.coh.homeQ, takeMsg (fun m => m.line == line) c.coh.homeQ with
    | some (before, _), some (m, q) =>
      if m.cls == clsReq && m.typ == typ && c.tracked line before then some (m, { c with coh := { c.coh with homeQ := q } }) else none
    | _, _ => none

/-- Serve the oldest waiting request for a line, if it is of a type. -/
def Chip.homeReq (c : Chip) (typ line : Nat) : Chip :=
  match c.homeTake typ line with
  | some (m, c) => c.homeOpen m
  | none => c

/-- An error strikes the hub cache's copy as the home comes to read it (R168, R169). -/
def Chip.hcStrike (c : Chip) (line err : Nat) : Chip := if err = 0 || c.lineBusy line then c else c.strike 0 (7 + err) line

def execRdS (line : BitVec 46) (err : Fin 4) (s : State) : Host.Outcome State Fault Refusal :=
  s.run (fun c => (c.hcStrike line.toNat err.val).homeReq tRdS line.toNat)
def execRdX (line : BitVec 46) (s : State) : Host.Outcome State Fault Refusal := s.run (fun c => c.homeReq tRdX line.toNat)
def execUpg (line : BitVec 46) (s : State) : Host.Outcome State Fault Refusal := s.run (fun c => c.homeReq tUpg line.toNat)
def execClaim (line : BitVec 46) (s : State) : Host.Outcome State Fault Refusal := s.run (fun c => c.homeReq tClaim line.toNat)
def execRdNc (line : BitVec 46) (s : State) : Host.Outcome State Fault Refusal := s.run (fun c => c.homeReq tRdNc line.toNat)
def execWrNc (line : BitVec 46) (s : State) : Host.Outcome State Fault Refusal := s.run (fun c => c.homeReq tWrNc line.toNat)

/-- A retried request is examined again once a way of its set can be a victim or is free (R192). -/
def Chip.reqRetry (c : Chip) (line : Nat) : Chip :=
  match takeMsg (fun m => m.line == line) c.coh.retryQ with
  | none => c
  | some (m, q) =>
    if (List.range 16).any (fun w => match SMap.get? c.coh.dir (dirBase line + w) with
        | some e => !c.coh.txs.any (fun t => t.line == e.line)
        | none => true) then
      { c with coh := { c.coh with retryQ := q, homeQ := m :: c.coh.homeQ } }
    else c

def execReqRetry (line : BitVec 46) (s : State) : Host.Outcome State Fault Refusal := s.run (fun c => c.reqRetry line.toNat)

/-! ### Range operations (R161 to R163) -/

/-- Is the whole range in this package's populated memory (R161)? -/
def Chip.rangeOk (c : Chip) (first n : Nat) : Bool :=
  let a := 64 * first
  let b := 64 * (first + n) - 1
  n != 0 && decide (b < 2 ^ 48) && homePkg first == c.pkg && homePkg (first + n - 1) == c.pkg &&
    (if a < 2 ^ 47 then decide (b < 2 ^ 47) && decide (b % 2 ^ 44 < c.get Reg.HUB_AMAP_DRAM.SIZE * 2 ^ 34)
     else decide (b % 2 ^ 44 < c.get Reg.HUB_AMAP_CXL.SIZE * 2 ^ 34))

/-- A write of HC_RANGE_CMD (R161, R163). -/
def Chip.rangeCmd (c : Chip) (w : Who) (op : Nat) : Chip :=
  if op = 0 then c
  else if c.on Reg.HC_RANGE_STATUS.BUSY then c.put Reg.HC_RANGE_STATUS.RESULT 3
  else
    let first := c.get Reg.HC_RANGE_BASE.ADDR
    let n := c.get Reg.HC_RANGE_LEN.LINES
    if !c.rangeOk first n then c.put Reg.HC_RANGE_STATUS.RESULT 2
    else
      ({ c with coh := { c.coh with range := some ⟨first, n, op, w, false⟩ } }).puts
        [(Reg.HC_RANGE_STATUS.BUSY, 1), (Reg.HC_RANGE_STATUS.RESULT, 0), (Reg.HC_RANGE_COUNT.SKIPPED, 0), (Reg.HC_RANGE_COUNT.POISONED, 0)]

/-- The running range operation goes on to its next line, or ends. -/
def Chip.rangeNext (c : Chip) (r : RangeOp) : Chip :=
  if r.left ≤ 1 then
    ({ c with coh := { c.coh with range := none } }).puts [(Reg.HC_RANGE_STATUS.BUSY, 0), (Reg.HC_RANGE_STATUS.RESULT, 1)]
  else { c with coh := { c.coh with range := some { r with next := r.next + 1, left := r.left - 1, busy := false } } }

/-- The home takes the next line of a range operation: checked, skipped or opened (R162, R183). -/
def Chip.rangeStep (c : Chip) (op typ : Nat) : Chip :=
  match c.coh.range with
  | none => c
  | some r =>
    if r.op != op || r.busy || c.lineBusy r.next then c
    else if !(c.rgnCheck (c.checkerOf r.next) (64 * r.next) r.who rightW).ok then
      (c.count Reg.HC_RANGE_COUNT.SKIPPED 1).rangeNext r
    else
      let c := { c.touch r.next with coh := { (c.touch r.next).coh with range := some { r with busy := true } } }
      c.homeServe { Msg.mk0 clsReq typ r.next with
        agent := hubAgent c.pkg 2 (homeSlice (64 * r.next)), tenant := r.who.tenant,
        secure := r.who.secure, dstPkg := c.pkg, arrived := c.time }

/-- MAINT CLEAN: the oldest request of a slice that its home may take (R160; log 30), else the next line of a range operation. -/
def Chip.maintClean (c : Chip) : Chip :=
  match c.coh.homeQ.find? (fun m => m.cls == clsReq && m.typ == tMClean && (c.homeTake tMClean m.line).isSome) with
  | some m => c.homeReq tMClean m.line
  | none => c.rangeStep 1 tMClean

def execMaintClean (s : State) : Host.Outcome State Fault Refusal := s.run Chip.maintClean
def execMaintFlush (s : State) : Host.Outcome State Fault Refusal := s.run (fun c => c.rangeStep 2 tMFlush)
def execMaintInval (s : State) : Host.Outcome State Fault Refusal := s.run (fun c => c.rangeStep 3 tMInval)

/-! ### Closing, writebacks, answers -/

/-- Is a write that a transaction requires not accepted yet: dirty data that waits for a way of the hub cache, or what MAINT CLEAN and FLUSH write
through, which its channel has accepted once it is in the write queue (R184, R206)? -/
def Chip.writeOpen (c : Chip) (t : Tx) : Bool :=
  c.coh.hcFills.any (fun w => w.line == t.line && w.dirty)
    || (t.req.cls == clsReq && (t.req.typ == tMClean || t.req.typ == tMFlush)
        && (c.pg.jobs.any (fun j => j.line == t.line && j.kind == .write)
            || (List.range 24).any (fun ch => (c.mcOf ch).inq.any (fun r => r.wline == some t.line))))

/-- A transaction whose answer is sent and whose writes are accepted closes; a victim's way goes to the request that wanted it (R184, R191). -/
def Chip.txClose (c : Chip) (line : Nat) : Chip :=
  match c.txOf line with
  | none => c
  | some t =>
    if !t.done || c.writeOpen t then c
    else
      let c := { c with coh := { c.coh with txs := c.coh.txs.filter (fun x => x.line != line) } }
      if t.victim then c.homeServe t.req
      else
        match c.coh.range with
        | some r => if r.busy && r.next == line && t.req.cls == clsReq && tMClean ≤ t.req.typ && agDie t.req.agent == 12 then c.rangeNext r else c
        | none => c

def execTransactionClose (line : BitVec 46) (s : State) : Host.Outcome State Fault Refusal := s.run (fun c => c.txClose line.toNat)

/-- WBK_ACK to a writeback's sender (R179). -/
def Chip.wbkAck (c : Chip) (m : Msg) : Chip :=
  c.sendMsg { Msg.mk0 clsRsp tWbkAck m.line with
    tag := m.tag, agent := m.agent, tenant := m.tenant, secure := m.secure, dstPkg := agPkg m.agent, dstDie := agDie m.agent }

/-- The pair of an IN_EVICT answer and its writeback is complete (R188). -/
def Chip.lateWbk (c : Chip) (m : Msg) : Chip :=
  (c.count (Reg.DIR_CNT1.LATE_WBK (homeSlice (64 * m.line))) 1).wbkAck m

def isTag (line agent tag : Nat) (t : Nat × Nat × Nat) : Bool := t.1 == line && sameDie t.2.1 (cluOf agent) && t.2.2 == tag

/-- Has a writeback a buffer: fewer than 64 of its home slice wait for the hub cache or before it (R179)? -/
def Chip.buffered (c : Chip) (line : Nat) : Bool :=
  let sl := homeSlice (64 * line)
  let before := match lineFirst line [] (c.coh.homeQ.filter (fun m => m.cls == clsWbk)) with | some (b, _) => b | none => []
  decide ((c.coh.hcFills.filter (fun w => w.dirty && homeSlice (64 * w.line) == sl)).length
    + (before.filter (fun m => homeSlice (64 * m.line) == sl)).length < 64)

/-- The oldest writeback of a type for a line: completed by its tag, held against an open transaction, or performed
(R188, R190); it waits for a buffer (R179). -/
def Chip.homeWbk (c : Chip) (typ line : Nat) : Chip :=
  if !c.buffered line then c
  else match takeMsg (fun m => m.cls == clsWbk && m.typ == typ && m.line == line) c.coh.homeQ with
  | none => c
  | some (m, q) =>
    let took := { c with coh := { c.coh with homeQ := q } }
    match c.coh.evTags.find? (isTag line m.agent m.tag) with
    | some t => ({ took with coh := { took.coh with evTags := took.coh.evTags.erase t } }).lateWbk m
    | none =>
      if c.coh.txs.any (fun t => t.line == line) then c
      else
        let c := took.nrgEv domHubc 6 (took.keyOf m.agent m.tenant) 1
        let c := c.touch line
        let e := c.dirEnt line
        let r := cluOf m.agent
        let owner := match e.owner with | some p => sameDie p r | none => false
        let c := if typ = 0 && owner then c.hcWrite line m.ld m.yrw (if m.old then 3 else 0) m.agent (tenantKey m.tenant m.secure) else c
        let left := e.remove r
        let c :=
          if e.st = dI || e.st = dP then c
          else if e.ovf && !owner then c
          else if e.st = dX then (if owner then c.dirRemove line else c)
          else if e.st = dO && owner then c.dirPut { left with st := dS }.norm
          else c.dirPut left.norm
        c.wbkAck m

def execWbDirty (line : BitVec 46) (s : State) : Host.Outcome State Fault Refusal := s.run (fun c => c.homeWbk 0 line.toNat)
def execEvictClean (line : BitVec 46) (s : State) : Host.Outcome State Fault Refusal := s.run (fun c => c.homeWbk 1 line.toNat)

/-- Which snoop of a transaction an answer from a sender belongs to. -/
def snoopFrom (agent : Nat) (s : Snoop) : Bool :=
  if s.isPkg then agPkg agent == s.tgt && agDie agent == 12 else sameDie (cluOf agent) s.tgt

/-- An answer of a die or hub is counted in its transaction. -/
def Chip.txAnswer (c : Chip) (m : Msg) (data : Option LD) (gone : Bool) : Chip :=
  match c.txOf m.line with
  | none => c
  | some t =>
    if !t.snoops.any (snoopFrom m.agent) then c
    else
      let c := c.txMod m.line (fun t => { t with
        snoops := t.snoops.filter (fun s => !snoopFrom m.agent s)
        own := if data.isSome then data else t.own
        ownDirty := t.ownDirty || (data.isSome && m.dirty)
        ownYrw := if data.isSome then m.yrw else t.ownYrw
        lost := if gone then cluOf m.agent :: t.lost else t.lost })
      c.txAdvance m.line

/-- Is a line homed in this package? -/
def Chip.ownLine (c : Chip) (line : Nat) : Bool := homePkg line == c.pkg

/-- A die answers for a line of another package: a fan-out waits for every die and then sends ACK_I to the home (R193); any
other answer goes on to the home. Data, which a broadcast's answer never carries, goes to the home that snooped the owner (R176), and so does
IN_EVICT with its tag (R188). -/
def Chip.fanAnswer (c : Chip) (m : Msg) : Chip :=
  let line := m.line
  let d := agDie m.agent
  let on := fun (c : Chip) => if m.dstPkg = c.pkg then c else c.sendAway m
  let held := m.cls == clsRsp && m.typ == tInEvict
  if m.cls = clsDat then on c
  else match c.coh.fans.find? (fun f => f.msg.line == line && f.dies.contains d) with
  | none => on c
  | some f =>
    let c := if held then on c else c
    let dies := f.dies.filter (· != d)
    if dies.isEmpty then
      let c := { c with coh := { c.coh with fans := c.coh.fans.filter (fun g => g.msg.line != line) } }
      c.sendMsg { Msg.mk0 clsRsp tAckI line with
        tag := f.msg.tag, agent := c.tableAgent, tenant := f.msg.tenant, secure := f.msg.secure, dstPkg := homePkg line, dstDie := 12 }
    else { c with coh := { c.coh with fans := c.coh.fans.map (fun g => if g.msg.line = line then { g with dies := dies } else g) } }

/-- A message from a fenced die or package is dropped and counted (R195). -/
def Chip.fromFenced (c : Chip) (m : Msg) : Bool := c.fencedDie (agPkg m.agent) (agDie m.agent)

/-- The first RSP of a type at the hub: dropped if its sender is fenced, given to its transaction or fan-out otherwise. -/
def Chip.rspIn (c : Chip) (typ : Nat) (gone : Bool) : Chip :=
  match c.takeHub (fun m => m.cls == clsRsp && m.typ == typ) with
  | none => c
  | some (m, c) =>
    if c.fromFenced m then c.fencedDrop m
    else if c.ownLine m.line then c.txAnswer m none gone
    else c.fanAnswer m

def execAckI (s : State) : Host.Outcome State Fault Refusal := s.run (fun c => c.rspIn tAckI true)
def execAckS (s : State) : Host.Outcome State Fault Refusal := s.run (fun c => c.rspIn tAckS false)
def execMiss (s : State) : Host.Outcome State Fault Refusal := s.run (fun c => c.rspIn tMiss true)

/-- The DAT that goes with an IN_EVICT: of the same line, from the same die (R188). -/
def datOf (m x : Msg) : Bool := x.cls == clsDat && x.line == m.line && sameDie (cluOf x.agent) (cluOf m.agent)

/-- Does the transaction of a message's line still wait for its sender's answer? -/
def Chip.txWaits (c : Chip) (m : Msg) : Bool :=
  match c.txOf m.line with
  | some t => t.snoops.any (snoopFrom m.agent)
  | none => false

/-- May the hub take an IN_EVICT: one that announces data for a line of this package waits for it, unless the data came first and has
answered the snoop (the classes have no mutual order on a link, R256)? -/
def Chip.evictMay (c : Chip) (m : Msg) : Bool :=
  !m.dirty || m.data.isSome || !c.ownLine m.line || !c.txWaits m || c.coh.hubIn.any (datOf m)

/-- The tag of an IN_EVICT: it completes the pair with a writeback that has come already, or is kept for it (R188). -/
def Chip.evictTag (c : Chip) (m : Msg) : Chip :=
  match takeMsg (fun x => x.cls == clsWbk && x.line == m.line && x.tag == m.aux && sameDie (cluOf x.agent) (cluOf m.agent)) c.coh.homeQ with
  | some (x, q) => ({ c with coh := { c.coh with homeQ := q } }).lateWbk x
  | none =>
    if c.coh.evTags.any (isTag m.line m.agent m.aux) then c
    else { c with coh := { c.coh with evTags := c.coh.evTags ++ [(m.line, cluOf m.agent, m.aux)] } }

/-- An IN_EVICT whose data has already answered the snoop (log 13): the slice holds the line no longer; once the transaction has closed
with the data, the writeback itself ends the registration (R190). -/
def Chip.evictLate (c : Chip) (m : Msg) : Chip :=
  if (c.txOf m.line).isSome then (c.txMod m.line (fun t => { t with lost := cluOf m.agent :: t.lost })).evictTag m else c

/-- An IN_EVICT answer: its data, its tag, and a writeback that has come already (R188). -/
def Chip.inEvict (c : Chip) : Chip :=
  match c.takeHub (fun m => m.cls == clsRsp && m.typ == tInEvict && c.evictMay m) with
  | none => c
  | some (m, c1) =>
    let (m, c) := match (if m.dirty && m.data.isNone && c1.ownLine m.line && c1.txWaits m then c1.takeHub (datOf m) else none) with
      | some (x, c) => ({ m with data := x.data, poison := x.poison, yrw := x.yrw }, c)
      | none => (m, c1)
    if c.fromFenced m then c.fencedDrop m
    else if !c.ownLine m.line then
      let c := c.fanAnswer { m with data := none }
      if m.data.isSome then c.fanAnswer { m with cls := clsDat, typ := 0, aux := 0 } else c
    else if m.dirty && m.data.isNone then c.evictLate m
    else (c.evictTag m).txAnswer m (if m.dirty then some m.ld else none) true

def execInEvict (s : State) : Host.Outcome State Fault Refusal := s.run Chip.inEvict

/-- A snoop's target is dead: recorded and fenced, the line is lost, and every other copy is invalidated (R194). -/
def Chip.snoopDead (c : Chip) (line : Nat) (s : Snoop) (die cause : Nat) : Chip :=
  let slice := homeSlice (64 * line)
  let c := if s.isPkg && cause = 0 then (c.deadRec true 0x3FF s.tgt 0 line).fencePkg s.tgt
    else (c.deadRec false die (cluPkg die) cause line).fenceDie (cluPkg die) (cluDie die) fzCoh slice
  match c.txOf line with
  | none => c
  | some t =>
    let c := c.txMod line (fun t => { t with snoops := t.snoops.erase s, poisoned := true })
    let e := c.dirEnt line
    let c := if t.poisoned || t.req.typ = tRdX || t.req.typ = tUpg || t.req.typ = tClaim || t.req.typ = tWrNc || tMFlush ≤ t.req.typ || t.victim then c
      else
        let rest := { e with ptrs := (c.livePtrs e).filter (fun p => !t.snoops.any (fun s => !s.isPkg && sameDie s.tgt p)) }
        c.snoopCopies rest tSnpInv (cluOf t.req.agent) (t.req.typ = tRdS)
    c.txAdvance line

/-- The i-th snoop of a transaction is not answered in time (R194). -/
def Chip.snoopTimeout (c : Chip) (line i : Nat) : Chip :=
  match c.txOf line with
  | none => c
  | some t =>
    match t.snoops[i]? with
    | some s => c.snoopDead line s s.tgt 0
    | none => c

def execSnoopTimeout (line : BitVec 46) (i : Nat) (s : State) : Host.Outcome State Fault Refusal :=
  s.run (fun c => c.snoopTimeout line.toNat i)

/-- A DEAD answer takes the path of a timeout for the die it names (R193, R194). -/
def Chip.deadIn (c : Chip) : Chip :=
  match c.takeHub (fun m => m.cls == clsRsp && m.typ == tDead) with
  | none => c
  | some (m, c) =>
    if c.fromFenced m then c.fencedDrop m
    else
      match (c.txOf m.line).bind (fun t => t.snoops.find? (snoopFrom m.agent)) with
      | some s => c.snoopDead m.line s (m.aux % 1024) 1
      | none => c

def execDead (s : State) : Host.Outcome State Fault Refusal := s.run Chip.deadIn

/-! ### Fan-out of foreign broadcasts (R193) -/

def Chip.fanOut (c : Chip) : Chip :=
  match c.takeHub (fun m => m.cls == clsSnp) with
  | none => c
  | some (m, c) =>
    let dies := (List.range 12).filter (fun d => c.diePresent d && !c.fencedDie c.pkg d && !sameDie (mkClu c.pkg d 0) (m.aux % 1024))
    if dies.isEmpty then
      c.sendMsg { Msg.mk0 clsRsp tAckI m.line with
        tag := m.tag, agent := c.tableAgent, tenant := m.tenant, secure := m.secure, dstPkg := homePkg m.line, dstDie := 12 }
    else
      let c := { c with coh := { c.coh with fans := c.coh.fans ++ [⟨m, dies, c.time⟩] } }
      dies.foldl (fun c d => c.sendMsg { m with dstPkg := c.pkg, dstDie := d }) c

def execBroadcastSnoopFanout (s : State) : Host.Outcome State Fault Refusal := s.run Chip.fanOut

/-- Silent dies of a fan-out past FWD_TIMEOUT: DEAD names the lowest, and this hub fences the others (R193). -/
def Chip.fwdTimeout (c : Chip) (i : Nat) : Chip :=
  match c.coh.fans[i]? with
  | none => c
  | some f =>
    let c := { c with coh := { c.coh with fans := c.coh.fans.eraseIdx i } }
    match f.dies with
    | [] => c
    | d :: rest =>
      let c := c.sendMsg { Msg.mk0 clsRsp tDead f.msg.line with
        tag := f.msg.tag, agent := c.tableAgent, tenant := f.msg.tenant, secure := f.msg.secure, aux := mkClu c.pkg d 0,
        dstPkg := homePkg f.msg.line, dstDie := 12 }
      rest.foldl (fun c d =>
        (c.deadRec false (mkClu c.pkg d 0) c.pkg 3 f.msg.line).fenceDie c.pkg d fzCoh (homeSlice (64 * f.msg.line))) c

def execFwdTimeout (i : Nat) (s : State) : Host.Outcome State Fault Refusal := s.run (fun c => c.fwdTimeout i)

/-! ### Settling and unfencing (R196, R460) -/

/-- Settle the entry of a line that names a fenced die and has no open transaction (R460). -/
def Chip.settle (c : Chip) (line : Nat) : Chip :=
  match c.dirFind line with
  | none => c
  | some (_, e) =>
    if !c.namesFenced e || c.lineBusy line then c
    else if c.ownerFenced e then c.openPoisoned e { Msg.mk0 clsNone 0 line with agent := hubAgent c.pkg 2 (homeSlice (64 * line)) }
    else c.dirPut { e with ptrs := c.livePtrs e }.norm

/-- Does any entry still name a die? -/
def Chip.dirNames (c : Chip) (p d : Nat) : Bool := c.coh.dir.any (fun x => x.2.ptrs.any (fun q => sameDie q (mkClu p d 0)))

/-- The bit of a die of this package clears while its link is UP, once every entry that names it is settled (R196, R266). -/
def Chip.rejoinCheck (c : Chip) : Chip :=
  (List.range 12).foldl (fun c d =>
    if (c.spkOf d).rejoin = 2 && c.get (Reg.SPK_STATUS.STATE d) == spkUpSt && !c.dirNames c.pkg d then
      (c.putBit (Reg.DIR_FENCE.DIE 0 c.pkg) d false).spkMod d (fun s => { s with rejoin := 0 })
    else c) c

def execFenceSettle (line : BitVec 46) (s : State) : Host.Outcome State Fault Refusal :=
  s.run (fun c => (c.settle line.toNat).rejoinCheck)

/-- UNFENCE arrives: the die's own hub notes the answer; another hub, once it has settled the die, clears the bit and
answers (R196). -/
def Chip.unfenceMsg (c : Chip) : Chip :=
  match c.takeHub (fun m => m.cls == clsRsp && m.typ == tUnfence && (cluPkg m.aux == c.pkg || !c.dirNames (cluPkg m.aux) (cluDie m.aux))) with
  | none => c
  | some (m, c) =>
    let p := cluPkg m.aux
    let d := cluDie m.aux
    if p = c.pkg then
      let q := agPkg m.agent
      let c := c.awayClear (fun a => a.msg.cls == clsRsp && a.msg.typ == tUnfence && a.msg.aux == m.aux && a.pkg == q)
      { c with coh := { c.coh with unfenceWait := c.coh.unfenceWait.map (fun u => if u.1 = d then (d, u.2.filter (· != q)) else u) } }
    else
      (c.putBit (Reg.DIR_FENCE.DIE 0 p) d false).sendMsg { Msg.mk0 clsRsp tUnfence 0 with
        agent := c.tableAgent, aux := mkClu p d 0, dstPkg := p, dstDie := 12 }

def execUnfence (s : State) : Host.Outcome State Fault Refusal := s.run Chip.unfenceMsg

/-- May the Spoke port of a die take coherence requests (R196, R266)? -/
def Chip.dieAdmitted (c : Chip) (d : Nat) : Bool :=
  !c.fencedDie c.pkg d && !c.coh.unfenceWait.any (fun u => u.1 == d && !u.2.isEmpty)

/-! ### Arrival at the home -/

/-- The master behind a request (R279): a context, a queue, a function, or the hub itself. -/
def Msg.who (m : Msg) : Who :=
  if isCtxAgent m.agent then ⟨m.agent, m.tenant, m.secure, 0, m.agent⟩
  else match m.kind with
  | some k => ⟨m.agent, m.tenant, m.secure, k, m.master⟩
  | none => ⟨m.agent, m.tenant, m.secure, if agDie m.agent = 12 && agClu m.agent = 3 then 1 else if agDie m.agent = 12 && agClu m.agent = 4 then 2 else 3, m.master⟩

/-- Rights that a request needs (R325), but for a fetch. -/
def needOf (typ : Nat) : Nat :=
  if typ = tRdS || typ = tRdNc then rightR
  else if typ = tRdX || typ = tUpg || typ = tClaim then rightR + rightW
  else rightW

/-- A request fails its region check: logged, its master frozen, the request ended (R326, R135, R458); a save write is no
violation (R403). -/
def Chip.reqViolates (c : Chip) (m : Msg) (k region : Nat) : Chip :=
  let w := m.who
  let write := needOf m.typ &&& rightW != 0
  let save := c.ownCtx m.agent && (c.coreOf (coreIx (ctxOfAgent m.agent))).c3 == 1
  let c := if save then c else c.violLog k region (64 * m.line) w write
  let i := whoInfo w (if m.frame then fzFrame else fzRegion) write region (64 * m.line) (c.checkerAgent k (homeSlice (64 * m.line)))
  let v := c.violMsg i m.line m.tag m.agent
  if agPkg m.agent = c.pkg then
    let c := if w.kind < 3 then c.freeze i else c
    if agDie m.agent < 12 then c.sendMsg { v with dstDie := agDie m.agent } else c
  else c.sendMsg v

/-- A memory request reaches its home package: decode, carve-out and region check, then the slice's queue (R26, R230,
R323). -/
def Chip.homeAccept (c : Chip) (m : Msg) : Chip :=
  let w := m.who
  let need := if m.fetch then rightX else needOf m.typ
  let c := c.homeEv m.line 0x60 m
  if tMClean ≤ m.typ then { c with coh := { c.coh with homeQ := c.coh.homeQ ++ [{ m with arrived := c.time }] } }
  else match c.homeCheck m.line w need with
  | .ok =>
    let c := c.nrgEv domHubc 12 (c.keyOf m.agent m.tenant) 1
    let r := (c.rgnCheck (c.checkerOf m.line) (64 * m.line) w need).rights
    { c with coh := { c.coh with homeQ := c.coh.homeQ ++ [{ m with aux := r, arrived := c.time }] } }
  | .bus | .away => (c.homeNote m.line (64 * m.line) w need .bus).sendMsg { poisonDat m with bus := true }
  | .region k i => c.reqViolates m k i

/-- DIR_PROBE (R200). -/
def Chip.dirProbe (c : Chip) (sl v : Nat) : Chip :=
  let line := bits v 6 46
  let mine := c.ownLine line && homeSlice (64 * line) == sl
  let e := c.dirEnt line
  let hit := mine && (c.dirFind line).isSome
  let p := fun (i : Nat) => if hit then (e.ptrs[i]?).getD 0x3FF else 0x3FF
  c.puts [(Reg.DIR_PROBE_ENTRY.STATE sl, if hit then e.st else 0), (Reg.DIR_PROBE_ENTRY.OVF sl, b2n (hit && e.ovf)),
    (Reg.DIR_PROBE_ENTRY.XPKG sl, b2n (hit && e.xpkg)), (Reg.DIR_PROBE_ENTRY.OPEN sl, b2n (mine && c.txOpenOn line)),
    (Reg.DIR_PROBE_ENTRY.HIT sl, b2n hit), (Reg.DIR_PROBE_ENTRY.BAD sl, b2n (!mine)), (Reg.DIR_PROBE_ENTRY.PTR0 sl, p 0),
    (Reg.DIR_PROBE_ENTRY.PTR1 sl, p 1), (Reg.DIR_PROBE_ENTRY.PTR2 sl, p 2), (Reg.DIR_PROBE_ENTRY.PTR3 sl, p 3),
    (Reg.DIR_PROBE_ENTRY.AGE sl, if hit then e.age else 0)]

/-- PG_LINE_READ: a read job goes on, and its line reaches the transaction that waits for it (R232). -/
def Chip.pgLineRead (c : Chip) (id : Nat) : Chip :=
  match c.pgFront .read id with
  | none => c
  | some j =>
    match c.pgReadStep j with
    | (c, some ld) => (c.memArrive j.line ld).txAdvance j.line
    | (c, none) => c

def execPgLineRead (job : Nat) (s : State) : Host.Outcome State Fault Refusal := s.run (fun c => c.pgLineRead job)

end Sys2Proof.Machine
end

