-- ==== Sys2Proof/Machine/Die.lean ====
section
/-! DEFINITION. Machine/Die.lean: the line accesses of a die's contexts on their way through L2 and L3 (R33, R151 to R158, R165,
R327), requests to homes and their answers (R182, R187, R189, R328), snoops (R186 to R188), whole-cache operations (R160), and
disabling an L2 (R164, R165). -/
namespace Sys2Proof.Machine

/-! ### Core events and charges -/

/-- Does a Secure context that runs stop the counters of core k (R335)? -/
def Chip.coreStops (c : Chip) (k : Nat) : Bool := (List.range 4).any (fun j => c.cxState (4 * k + j) == cxRunning && c.cxSecure (4 * k + j))

/-- `n` of a core event that belongs to context x (R423). -/
def Chip.evCore (c : Chip) (x ev n : Nat) : Chip :=
  let d := ctxDie x
  let k := ctxCore x
  if c.on (Reg.PMU_DIE_CTRL.FREEZE d) || c.cxSecure x || c.coreStops (coreIx x) || n = 0 then c
  else (List.range 8).foldl (fun c i =>
    if c.on (Reg.PMU_EVSEL.EN d k i) && c.get (Reg.PMU_EVSEL.EVENT d k i) == ev && c.bitOf (Reg.PMU_EVSEL.CTX d k i) (x % 4)
        && c.bitOf (Reg.PMU_EVSEL.PRIV d k i) (c.cxPriv x)
        && tntPass (c.on (Reg.PMU_EVSEL.TNT_EN d k i)) (c.get (Reg.PMU_EVSEL.TENANT d k i)) (evOf (c.cxTenant x) false) then
      c.cntEvent (Reg.PMU_CNT.VALUE d k i) (Reg.PMU_CNT.OVF d k i) (Reg.PMU_EVSEL.IRQ d k i) (some d) n
    else c) c

/-- `n` on a fixed counter of context x: 0 CYCLES, 1 BUNDLES, 2 RETIRED, 3 WASTED, 4 FRONT, 5 BACK (R424). -/
def Chip.fixCount (c : Chip) (x f n : Nat) : Chip :=
  if c.on (Reg.PMU_DIE_CTRL.FREEZE (ctxDie x)) || c.cxSecure x || c.coreStops (coreIx x) then c
  else c.cntPlus (Reg.PMU_FIX.VALUE (ctxDie x) (ctxCore x) (x % 4) f) (Reg.PMU_FIX.OVF (ctxDie x) (ctxCore x) (x % 4) f) n

/-- Context x qualifies `slot` for its core's sampler: COUNT falls, and the operation on which it reaches 0 is sampled, or
skipped while a sample of the context is open (R425). Answers whether to take a sample. -/
def Chip.smpTick (c : Chip) (x sel : Nat) : Bool × Chip :=
  let d := ctxDie x
  let k := ctxCore x
  if c.on (Reg.PMU_SMP_CTRL.EN d k) && c.get (Reg.PMU_SMP_CTRL.SEL d k) == sel && !c.cxSecure x
      && c.bitOf (Reg.PMU_SMP_CTRL.CTX d k) (x % 4) && c.bitOf (Reg.PMU_SMP_CTRL.PRIV d k) (c.cxPriv x) then
    let n := c.get (Reg.PMU_SMP_COUNT.COUNT d k)
    if n ≤ 1 then
      let c := c.put (Reg.PMU_SMP_COUNT.COUNT d k) (c.get (Reg.PMU_SMP_CTRL.PERIOD d k))
      if (c.ctxOf x).sample.isSome then (false, c.count (Reg.PMU_SMP_CNT.SKIPPED d k) 1) else (true, c)
    else (false, c.put (Reg.PMU_SMP_COUNT.COUNT d k) (n - 1))
  else (false, c)

/-- A sample of context x that opens now: how it closes and its operation's bundle, slot, selection, class row of R63, Yarrow
class and addresses (R425, R426). -/
def Chip.newSample (c : Chip) (x kind id pc idx slot sel cls yrw va pa : Nat) : Sample :=
  { kind := kind, id := id, start := (c.coreOf (coreIx x)).cycles, frozen := 0,
    words := [pc, c.cxAgent x + c.cxTenant x <<< 16 + slot <<< 28 + c.cxPriv x <<< 32 + sel <<< 34 + cls <<< 37 + yrw <<< 42, va, pa, c.time, 0, idx, 0] }

/-- REG_CTX_MAP of a context (R305). -/
def Chip.cxEnt (c : Chip) (x : Nat) : Nat := c.get (Reg.REG_CTX_MAP.ENT x)

/-- What the regulator says of a request of a context: 0 it passes and is charged, 1 it is held, 2 a misuse that freezes the
context (R307 to R309). -/
def Chip.cxCharge (c : Chip) (x tenant addr : Nat) (lvlH write : Bool) : Nat × Chip :=
  let e := c.cxEnt x
  if c.regMisuse e tenant lvlH then (2, c.regMisused { c.cxWho x with tenant := tenant } e addr (c.cxAgent x) write)
  else if c.regHolds e (c.dieUsed e (ctxDie x)) then (1, c)
  else (0, c.dieCharge e (ctxDie x))

/-! ### Line accesses -/

def Chip.opOf (c : Chip) (id : Nat) : Option LineOp := c.coh.ops.find? (fun o => o.id == id)
def Chip.opMod (c : Chip) (id : Nat) (f : LineOp → LineOp) : Chip :=
  { c with coh := { c.coh with ops := c.coh.ops.map (fun o => if o.id = id then f o else o) } }
def Chip.opDrop (c : Chip) (id : Nat) : Chip := { c with coh := { c.coh with ops := c.coh.ops.filter (fun o => o.id != id) } }

/-- Reads and prefetches that take an entry of the load miss queue when they miss in the L1D (R70). -/
def AKind.queued : AKind → Bool
  | .load | .walk | .strRead | .pref0 | .pref1 | .pref2 | .pref3 => true
  | .fetch | .store | .strWrite | .amo | .frame | .save => false

/-- Does a prefetch ask for the line (R97)? -/
def AKind.isPref : AKind → Bool
  | .pref0 | .pref1 | .pref2 | .pref3 => true
  | .load | .walk | .strRead | .fetch | .store | .strWrite | .amo | .frame | .save => false

/-- Entries of core k's load miss queue in use (R70): misses that hold one, and AMOs from their issue on. -/
def Chip.lmqUsed (c : Chip) (k : Nat) : Nat :=
  (c.coh.ops.filter (fun o => o.ctx / 4 == k && o.stage != .ready && o.lmq == .held)).length
    + ((List.range 4).map (fun j => ((c.ctxOf (4 * k + j)).sq.filter (fun e => e.amo != 0)).length)).sum

/-- The place of a new access in the load miss queue: an L1D miss takes a free entry, or waits for one (R70; log 75). -/
def Chip.lmqPlace (c : Chip) (x : Nat) (kind : AKind) (line : Nat) : LmqSt :=
  if !kind.queued || (kind.isPref && (c.l1dFind (coreIx x) line).isSome) then .none
  else if c.lmqUsed (coreIx x) < 32 then .held else .waits

/-- Start a line access of context x: its number, and the package. -/
def Chip.opNew (c : Chip) (x : Nat) (kind : AKind) (line : Nat) (whole : Bool) (tenant : Nat) (secure : Bool) (yrw : Nat) (lvlH : Bool) :
    Nat × Chip :=
  let c := if kind.isPref then c.l1Check false (coreIx x) line else c
  let id := c.coh.nextOp
  let o : LineOp := { id := id, ctx := x, kind := kind, line := line, whole := whole, tenant := tenant, secure := secure, yrw := yrw,
                      lvlH := lvlH, stage := .toL2, missed := false, reported := false, res := none, grant := .i, rights := 0,
                      bus := false, src := 0, lmq := c.lmqPlace x kind line }
  (id, { c with coh := { c.coh with nextOp := id + 1, ops := c.coh.ops ++ [o] } })

/-- Whether a fill enters its cache old (R153). -/
def LineOp.age (o : LineOp) : Nat := if o.kind.isOld then 3 else 0

/-- The age of a line that an access hits: 0, but for strings and hint 3 (R153). -/
def AKind.hitAge (k : AKind) (age : Nat) : Nat := if k.isOld then age else 0

/-- Does an access fill an L1 (R153)? -/
def AKind.fillsL1 : AKind → Bool
  | .load | .fetch | .walk | .pref0 => true
  | .strRead | .pref1 | .pref2 | .pref3 | .store | .strWrite | .amo | .frame | .save => false

/-- Does anything wait for the data of a finished access? -/
def AKind.wantsData : AKind → Bool
  | .load | .fetch | .walk | .strRead => true
  | .pref0 | .pref1 | .pref2 | .pref3 | .store | .strWrite | .amo | .frame | .save => false

/-- A context's access no longer waits on memory: MEMWAIT may end (R71). -/
def Chip.opReturned (c : Chip) (x id : Nat) : Chip :=
  let c := c.ctxMod x (fun k => { k with missOps := k.missOps.filter (· != id), waitFetch := k.waitFetch && k.fetchOp != id })
  c.cxWake x

/-- An access ends: one that carries data waits for its receiver, any other goes. -/
def Chip.opEnd (c : Chip) (o : LineOp) : Chip :=
  if o.kind.wantsData then (c.opMod o.id (fun o => { o with stage := .ready })).opReturned o.ctx o.id
  else (c.opDrop o.id).opReturned o.ctx o.id

/-- Is the L2 of cluster u in use (R165)? -/
def Chip.l2On (c : Chip) (u : Nat) : Bool :=
  c.on (Reg.CL_L2_CTRL.EN (u / 5) (u % 5)) && !c.on (Reg.CL_L2_STATUS.BUSY (u / 5) (u % 5)) && !c.on (Reg.CL_L2_STATUS.DRAINED (u / 5) (u % 5))

/-- An L2 lookup of an access, which an error may strike first (R167, R168): 1 parity in data, 2 a corrected tag, 3 an uncorrectable tag. A
way kept for a line, and taken meanwhile by another, is kept no longer. -/
def Chip.l2Error (c : Chip) (u line err : Nat) (key : EvKey) : Chip :=
  let c := { c with coh := { c.coh with l2Same := c.coh.l2Same.filter (fun x => !(x.1 == u && x.2.1 == line && (SMap.get? c.coh.l2 x.2.2).isSome)) } }
  (match c.l2Find u line with
   | some (k, q) => if err = 0 then c else c.setL2 (SMap.set c.coh.l2 k { q with flaw := err })
   | none => c).l2Check u line (some key)

/-- A miss in the L2 goes to the L3 under the regulator (R308); one that the regulator holds is a miss all the same (R309). -/
def Chip.l2Miss (c : Chip) (o : LineOp) : Chip :=
  match c.cxCharge o.ctx o.tenant (64 * o.line) o.lvlH o.kind.owns with
  | (0, c) => (c.opMod o.id (fun o => { o with stage := .toL3, missed := true })).evClu (cluIx o.ctx) 0x21 (evOf o.tenant o.secure)
  | (1, c) => c.opMod o.id (fun o => { o with missed := true })
  | (_, c) => c

/-- An access that waits for an entry of the load miss queue takes a free one (R70): the access, and whether it may go on. -/
def Chip.lmqTake (c : Chip) (o : LineOp) : Bool × Chip :=
  if o.lmq != .waits then (true, c)
  else if c.lmqUsed (coreIx o.ctx) < 32 then (true, c.opMod o.id (fun o => { o with lmq := .held }))
  else (false, c)

/-- An access is looked up in the L2 of its cluster (R33, R327), once it has its entry of the load miss queue (R70). -/
def Chip.l2Lookup (c : Chip) (id err : Nat) : Chip :=
  match c.opOf id with
  | none => c
  | some o =>
    let u := cluIx o.ctx
    let k := evOf o.tenant o.secure
    if !c.l2On u then c.l2Miss o
    else
      let c := ((c.evClu u 0x20 k).nrgEv (domClu u) 0 (c.keyOf (c.cxAgent o.ctx) o.tenant) 1).l2Error u o.line err k
      match c.l2Find u o.line with
      | none => c.l2Miss o
      | some (w, q) =>
        if !q.serves o.tenant o.secure o.kind.needs then
          ((c.l2Evict u o.line).evCore o.ctx 0x11 1).l2Miss o
        else if o.kind.owns then
          if q.st == .m || q.st == .e then
            (c.setL2 (SMap.set c.coh.l2 w { q with age := o.kind.hitAge q.age })).opDrop id
          else c.l2Miss o
        else
          let c := if o.kind.isOld then c else c.setL2 (SMap.set c.coh.l2 w { q with age := 0 })
          let o2 := { o with res := some q.ld, rights := q.rights, src := 2, stage := if o.kind.fillsL1 then .l1Fill else .ready }
          if o.kind.isPref && q.ld.poison then c.opEnd o
          else if o.kind.fillsL1 then c.opMod id (fun _ => o2) else (c.opMod id (fun _ => o2)).opEnd o2

/-- L2_REQUEST. -/
def Chip.l2Request (c : Chip) (id err : Nat) : Chip :=
  match c.opOf id with
  | none => c
  | some o =>
    if o.stage != .toL2 then c
    else
      match c.lmqTake o with
      | (true, c) => c.l2Lookup id err
      | (false, c) => c

def execL2Request (op : Nat) (err : Fin 4) (s : State) : Host.Outcome State Fault Refusal := s.run (fun c => c.l2Request op err.val)

/-- Another context of the core is READY. -/
def Chip.peerReady (c : Chip) (x : Nat) : Bool := (List.range 4).any (fun j => 4 * (x / 4) + j != x && c.cxState (4 * (x / 4) + j) == cxReady)

/-- A RUNNING context that waits on a reported miss enters MEMWAIT, unless STALL_CONTINUE keeps it running (R69). A
serialising operation completes first, a string's chunk too (R72, R108). -/
def Chip.toMemwait (c : Chip) (x : Nat) : Chip :=
  let k := c.ctxOf x
  let stay := c.on (Reg.CORE_SCHED.STALL_CONTINUE (ctxDie x) (ctxCore x)) && !c.peerReady x
  if c.cxState x == cxRunning && !stay && k.serial.isNone then
    (c.evCore x 0x06 1).cxLeave x cxMemwait
  else c

/-- The L2 reports a miss to the core (R69). -/
def Chip.l2Report (c : Chip) (id : Nat) : Chip :=
  match c.opOf id with
  | none => c
  | some o =>
    if !o.missed || o.reported || !(o.kind == .load || o.kind == .fetch) || o.stage == .ready then c
    else
      let x := o.ctx
      let k := c.ctxOf x
      let c := c.opMod id (fun o => { o with reported := true })
      if o.kind == .load then
        let smp := c.smpTick x 4
        let c := smp.2
        let c := match k.loads.find? (fun l => l.op == id) with
          | some l =>
            if smp.1 then c.ctxMod x (fun k => { k with sample := some (c.newSample x 1 l.job l.pc l.idx l.slot 4 (if l.size = 64 then 10 else 9) l.yrw l.va l.pa) })
            else c
          | none => c
        (c.ctxMod x (fun k => { k with missOps := k.missOps ++ [id] })).toMemwait x
      else if k.fetchOp = id then (c.ctxMod x (fun k => { k with waitFetch := true })).toMemwait x
      else c

def execL2MissReport (op : Nat) (s : State) : Host.Outcome State Fault Refusal := s.run (fun c => c.l2Report op)

/-! ### The L3 -/

/-- An L3 lookup of an access, which an error may strike first (R168, R169): 1 corrected, 2 uncorrectable data, 3 uncorrectable tag. -/
def Chip.l3Error (c : Chip) (d line err : Nat) : Chip :=
  (match c.l3Find d line with
   | some (k, l) => if err = 0 then c else c.setL3 (SMap.set c.coh.l3 k { l with flaw := err })
   | none => c).l3Check d line

/-- Is something of this line on its way between a die's slice and its home: an open request, or a writeback not acknowledged
(R172, R189)? -/
def Chip.l3Busy (c : Chip) (d line : Nat) : Bool :=
  c.coh.l3reqs.any (fun r => r.line == line && r.slice / 20 == d) || c.coh.l3wbs.any (fun w => w.line == line && w.slice / 20 == d)

/-- The slice sends a request for an access to the line's home (R180, R182), once it has a buffer (R179). -/
def Chip.l3Send (c : Chip) (o : LineOp) (typ : Nat) : Chip :=
  let d := ctxDie o.ctx
  let sl := l3Slice (64 * o.line)
  match c.l3Idx (20 * d + sl) with
  | none => c.opMod o.id (fun o => { o with stage := .toL3 })
  | some i =>
  let r : L3Req := { slice := 20 * d + sl, idx := i, line := o.line, typ := typ, op := o.id, sent := true, lost := false,
                      clu := cluIx o.ctx % 5, tenant := o.tenant, secure := o.secure, yrw := o.yrw, old := o.kind.isOld, grant := none }
  let c := { c with coh := { c.coh with l3reqs := c.coh.l3reqs ++ [r] } }
  let m := { c.l3Msg d 0 clsReq typ o.line (sl * 128 + i) with
    agent := c.cxAgent o.ctx, tenant := o.tenant, secure := o.secure, yrw := o.yrw, fetch := o.kind == .fetch, old := o.kind.isOld,
    frame := o.kind == .frame, master := c.cxAgent o.ctx }
  ((c.opMod o.id (fun o => { o with stage := .atHome })).sendUp d m).evL3 d sl 0x31 (evOf o.tenant o.secure)

/-- Presence of cluster cl alone, or added (R151). -/
def presOnly (cl : Nat) : Nat := 2 ^ cl

/-- The data and state that a filled L3 line gives to an access: without filling the L2 where it is off (R165) or the access is a PREF for
the L3; a PREF of a poisoned line fills nothing (R97). A line whose rights lack the access's is a key miss: the access requests it anew
(R327, R328). -/
def Chip.l3Serve (c : Chip) (o : LineOp) (w : Nat) (l : CLine) (src : Nat) : Chip :=
  let u := cluIx o.ctx
  let cl := u % 5
  let d := ctxDie o.ctx
  let age := o.kind.hitAge l.age
  if !l.serves o.tenant o.secure o.kind.needs then c.opMod o.id (fun o => { o with stage := .toL3 })
  else if o.kind.isPref && l.ld.poison then c.opEnd o
  else if o.kind == .pref2 then (c.setL3 (SMap.set c.coh.l3 w { l with age := age })).opEnd o
  else if !c.l2On u then
    let o2 := { o with res := some l.ld, rights := l.rights, src := src, stage := .ready }
    (c.setL3 (SMap.set c.coh.l3 w { l with age := age })).opMod o.id (fun _ => o2) |>.opEnd o2
  else if o.kind.owns then
    let c := (List.range 5).foldl (fun c j => if j != cl then c.l2Drop (5 * d + j) l.line true else c) c
    (c.setL3 (SMap.set c.coh.l3 w { l with age := age, pres := presOnly cl })).opMod o.id (fun o => { o with stage := .l2Fill, src := src })
  else
    let c := c.setL2 (c.coh.l2.map (fun p =>
      if p.2.line = l.line && p.1 / 32768 / 5 == d && p.1 / 32768 != u then (p.1, { p.2 with st := .s }) else p))
    (c.setL3 (SMap.set c.coh.l3 w { l with age := age, pres := setBits l.pres cl 1 1 })).opMod o.id (fun o =>
      { o with stage := .l2Fill, res := some l.ld, rights := l.rights, src := src })

/-- An access reaches its L3 slice (R151, R165, R182, R327); while its cluster's ratio changes, it is held at the crossing (R41). -/
def Chip.l3Request (c : Chip) (id err : Nat) : Chip :=
  match c.opOf id with
  | none => c
  | some o =>
    let d := ctxDie o.ctx
    let sl := l3Slice (64 * o.line)
    let k := evOf o.tenant o.secure
    if o.stage != .toL3 || c.l3Busy d o.line || c.ratioBusy (cluIx o.ctx) || c.ratioHeld d o.line then c
    else
      let c := (((c.meshMsg d clsReq o.tenant o.secure).evL3 d sl 0x30 k).nrgEv (domDie d) 2 (c.keyOf (c.cxAgent o.ctx) o.tenant) 1).l3Error d o.line err
      let c := c.l3Gather d o.line
      match c.l3Find d o.line with
      | none => if c.l3Busy d o.line then c else c.l3Send o (if !o.kind.owns then tRdS else if o.whole then tClaim else tRdX)
      | some (w, l) =>
        if !l.serves o.tenant o.secure o.kind.needs then (c.l3Evict d o.line true).evL3 d sl 0x35 k
        else if o.kind.owns && !(l.st == .m || l.st == .e) then c.l3Send o (if o.whole then tClaim else tUpg)
        else c.l3Serve o w l 3

def execL3Request (op : Nat) (err : Fin 4) (s : State) : Host.Outcome State Fault Refusal := s.run (fun c => c.l3Request op err.val)

/-! ### Snoops at a die (R186 to R188) -/

/-- What a die's port answers a snoop with, for its registered cluster (R180); a slice that holds nothing names cluster 0 (log 13). -/
def Chip.snpReply (c : Chip) (d clu : Nat) (m : Msg) (r : Msg) : Chip :=
  c.sendUp d { r with tag := m.tag, agent := agentOf c.pkg d clu 0 0, tenant := m.tenant, secure := m.secure, dstPkg := homePkg m.line, dstDie := 12 }

/-- Requests sent from a copy that is gone are marked (R187). -/
def Chip.markLost (c : Chip) (d line : Nat) : Chip :=
  if (c.l3Find d line).isSome then c
  else { c with coh := { c.coh with l3reqs := c.coh.l3reqs.map (fun r =>
    if r.line = line && r.slice / 20 == d && r.grant.isNone then { r with lost := true } else r) } }

/-- Answer a snoop from the die's copies or from a writeback buffer (R186), which answers IN_EVICT and, after a WB_DIRTY, a DAT with the
writeback's data, which DIRTY of the IN_EVICT announces (R188; log 13). -/
def Chip.snpAnswer (c : Chip) (d : Nat) (m : Msg) : Chip :=
  let sl := l3Slice (64 * m.line)
  let key := evOf m.tenant m.secure
  let c := (c.evL3 d sl 0x33 key).l3Check d m.line
  match c.coh.l3wbs.find? (fun w => w.line == m.line && w.slice / 20 == d) with
  | some w =>
    let tag := w.slice % 20 * 128 + w.idx
    let gives := w.dirty && m.typ != tSnpInvNd
    let c := (c.evL3 d sl 0x34 key).snpReply d w.clu m { Msg.mk0 clsRsp tInEvict m.line with aux := tag, dirty := gives }
    if gives then c.snpReply d w.clu m { (Msg.mk0 clsDat 0 m.line).withLd w.ld with dirty := true, yrw := w.yrw } else c
  | none =>
    let last := (c.l3Find d m.line).map (·.2.last)
    match c.snoopDie d m.typ m.line (agDie m.agent < 12 || agClu m.agent != 2) with
    | (a, c) =>
      let c := c.markLost d m.line
      let r := match a.kind with
        | .ackI => Msg.mk0 clsRsp tAckI m.line
        | .ackS => Msg.mk0 clsRsp tAckS m.line
        | .miss => Msg.mk0 clsRsp tMiss m.line
        | .dat => { (Msg.mk0 clsDat 0 m.line).withLd a.ld with dirty := a.dirty, yrw := a.yrw }
      c.snpReply d (last.getD 0) m r

/-- A snoop reaches the slice: held while a request of the slice for the line is out and it holds no copy (R187), and at the crossing of a
cluster whose ratio changes and that may hold the line (R41). -/
def Chip.snpIn (c : Chip) (d typ : Nat) : Chip :=
  match c.takeDie d (fun m => m.cls == clsSnp && m.typ == typ && !c.ratioHeld d m.line) with
  | none => c
  | some (m, c) =>
    let c := (List.range 5).foldl (fun c cl => if (c.l2Find (5 * d + cl) m.line).isSome then c.evClu (5 * d + cl) 0x25 (evOf m.tenant m.secure) else c) c
    let out := c.coh.l3reqs.any (fun r => r.line == m.line && r.slice / 20 == d && r.typ != tMClean)
    let buffered := c.coh.l3wbs.any (fun w => w.line == m.line && w.slice / 20 == d)
    if out && !buffered && (c.l3Find d m.line).isNone then { c with coh := { c.coh with heldSnp := c.coh.heldSnp ++ [(d, m)] } }
    else c.snpAnswer d m

def execSnpS (d : Fin 12) (s : State) : Host.Outcome State Fault Refusal := s.run (fun c => c.snpIn d.val tSnpS)
def execSnpInv (d : Fin 12) (s : State) : Host.Outcome State Fault Refusal := s.run (fun c => c.snpIn d.val tSnpInv)
def execSnpInvNd (d : Fin 12) (s : State) : Host.Outcome State Fault Refusal := s.run (fun c => c.snpIn d.val tSnpInvNd)
def execSnpCur (d : Fin 12) (s : State) : Host.Outcome State Fault Refusal := s.run (fun c => c.snpIn d.val tSnpCur)
def execSnpClean (d : Fin 12) (s : State) : Host.Outcome State Fault Refusal := s.run (fun c => c.snpIn d.val tSnpClean)

/-- Snoops held for a line are answered once its grant is in, or once the request has ended without one (R187). -/
def Chip.answerHeld (c : Chip) (d line : Nat) : Chip :=
  let l := c.coh.heldSnp.filter (fun h => h.1 == d && h.2.line == line)
  let c := { c with coh := { c.coh with heldSnp := c.coh.heldSnp.filter (fun h => !(h.1 == d && h.2.line == line)) } }
  l.foldl (fun c h => c.snpAnswer d h.2) c

/-! ### Answers to a slice's requests -/

def Chip.reqOf (c : Chip) (d tag : Nat) : Option L3Req := c.coh.l3reqs.find? (fun r => r.slice == 20 * d + tag / 128 && r.idx == tag % 128)
def Chip.reqDrop (c : Chip) (r : L3Req) : Chip :=
  { c with coh := { c.coh with l3reqs := c.coh.l3reqs.filter (fun q => !(q.slice == r.slice && q.idx == r.idx)) } }
def Chip.reqMod (c : Chip) (r : L3Req) (f : L3Req → L3Req) : Chip :=
  { c with coh := { c.coh with l3reqs := c.coh.l3reqs.map (fun q => if q.slice == r.slice && q.idx == r.idx then f q else q) } }

/-- Patch what a context has gathered of a line with its own drained bytes. -/
def Chip.patchOwn (c : Chip) (x line : Nat) (f : Line → Line) : Chip :=
  let ld := fun (l : LD) => LD.mk (f l.data) l.poison
  let p := fun (q : Nat × LD) => if q.1 = line then (q.1, ld q.2) else q
  let c := { c with coh := { c.coh with ops := c.coh.ops.map (fun (o : LineOp) =>
    if o.ctx = x && o.line = line then { o with res := o.res.map ld } else o) } }
  c.ctxMod x (fun k => { k with
    serial := k.serial.map (fun (s : Serial) => { s with got := s.got.map p })
    walk := k.walk.map (fun (w : Walk) => { w with got := w.got.map p }) })

/-- The store of a whole line that an access obtains ownership for leaves its store queue (R182). -/
def Chip.takeWhole (c : Chip) (o : LineOp) : Option StoreEnt × Chip :=
  match (c.ctxOf o.ctx).sq.find? (fun e => e.op == o.id) with
  | some e => (some e, ((c.ctxMod o.ctx (fun k => k.sqGone e.seq)).cxWake o.ctx).patchOwn o.ctx o.line (fun _ => BitVec.ofNat 512 e.data))
  | none => (none, c)

/-- Other copies of the line inside the cluster after a write by core k: the writer's L1D takes the new line, other L1Ds and every
L1I drop it (R33, R151, R171). -/
def Chip.l1Update (c : Chip) (x line : Nat) (ld : LD) : Chip :=
  let u := cluIx x
  let k := coreIx x
  let mine := fun (j : Nat) => (List.range 4).any (fun i => j == coreOfClu u i)
  { c with coh := { c.coh with
      l1d := (c.coh.l1d.filter (fun p => !(p.2.line == line && mine (p.1 / 1024) && p.1 / 1024 != k))).map (fun p =>
        if p.2.line = line && p.1 / 1024 = k then (p.1, { p.2 with ld := ld }) else p)
      l1i := c.coh.l1i.filter (fun p => !(p.2.line == line && mine (p.1 / 1024))) } }

/-- A granted whole-line store writes the slice's line: the other L2s drop it, the writer's L2 and L1D keep a copy and take the data (R33,
R153), and a writer without one fills its L2. -/
def Chip.wholeWrite (c : Chip) (o : LineOp) (w : Nat) (l : CLine) (data : Line) : Chip :=
  let u := cluIx o.ctx
  let d := ctxDie o.ctx
  let on := c.l2On u
  let ld : LD := ⟨data, false⟩
  let c := (List.range 5).foldl (fun c j => if on && 5 * d + j = u then c else c.l2Drop (5 * d + j) l.line (5 * d + j != u)) c
  let c := if on then c.l2Check u l.line (some (evOf o.tenant o.secure)) else c
  let c := c.setL3 (SMap.set c.coh.l3 w { l with ld := ld, st := .m, pres := if on then presOnly (u % 5) else 0 })
  if !on then c.opDrop o.id
  else
    match c.l2Find u l.line with
    | some (k, q) =>
      ((c.setL2 (SMap.set c.coh.l2 k { q with st := .e, ld := ld, rights := l.rights, age := o.kind.hitAge q.age })).l1Update o.ctx l.line ld).opDrop o.id
    | none => c.opMod o.id (fun o => { o with stage := .l2Fill })

/-- Install a granted line in the L3, under its request's key and for its request's cluster (R180, R327), and give it to the access that waits
(R151, R153, R154). It waits where no way can be taken. -/
def Chip.l3Install (c : Chip) (d : Nat) (r : L3Req) : Chip :=
  match r.grant with
  | none => c
  | some (ld, st, rights, yrw) =>
    let op := c.opOf r.op
    let old := (c.l3Find d r.line).map (·.2)
    let line : CLine := { line := r.line, st := st, ld := ld, tenant := r.tenant, secure := r.secure, rights := rights, last := r.clu, flaw := 0
                          age := match old with | some l => if r.old then l.age else 0 | none => if r.old then 3 else 0
                          yrw := match old with | some l => l.yrw | none => yrw
                          pres := match old with | some l => l.pres | none => 0 }
    match c.l3Fill d line with
    | none => c
    | some c =>
      let c := (c.reqDrop r).nrgEv (domDie d) 3 (match op with | some o => c.keyOf (c.cxAgent o.ctx) o.tenant | none => 0) 1
      match c.opOf r.op, c.l3Find d r.line with
      | some o, some (w, l) =>
        if o.kind.owns && o.whole then
          match c.takeWhole o with
          | (some e, c) => (c.wholeWrite o w l (BitVec.ofNat 512 e.data)).answerHeld d r.line
          | (none, c) => (c.opDrop o.id).answerHeld d r.line
        else (c.l3Serve o w l o.src).answerHeld d r.line
      | _, _ => c.answerHeld d r.line

/-- A request ends without a copy (R183, R194, R458): the access gets poison or its store is dropped by its receiver; copies of
the line go if the request asked for ownership. -/
def Chip.reqFails (c : Chip) (d : Nat) (r : L3Req) (bus : Bool) : Chip :=
  let c := c.reqDrop r
  let c := if r.typ = tRdS then c else match c.l3Find d r.line with
    | some (k, _) => (c.l2DropAll d r.line false).setL3 (SMap.erase c.coh.l3 k)
    | none => c
  let c := match c.opOf r.op with
    | some o =>
      if o.kind.wantsData then
        let o2 := { o with res := some LD.bad, stage := .ready, bus := bus }
        (c.opMod o.id (fun _ => o2)).opEnd o2
      else if o.kind.isPref then c.opEnd o
      else c.opMod o.id (fun o => { o with res := some LD.bad, stage := .ready, bus := bus })
    | none => c
  c.answerHeld d r.line

/-- Where a granted line came from (R426): 4 another die of the package, 5 hub cache, 6 DRAM, 7 another package, 8 CXL. The
home does not say which, so 7 stands for every remote home and 6 or 8 for this package's memory. -/
def Chip.fillSrc (c : Chip) (line : Nat) : Nat :=
  if homePkg line != c.pkg then 7 else if (c.hcFind line).isSome then 5 else if isDram line then 6 else 8

/-- A DAT that answers a slice's request (R183, R328). -/
def Chip.datIn (c : Chip) (d : Nat) (m : Msg) : Chip :=
  match c.reqOf d m.tag with
  | none => c
  | some r =>
    let g := m.aux % 4
    if g = 0 then c.reqFails d r m.bus
    else
      let st : LState := if g = 1 then .s else if g = 2 then .e else .m
      let c := (c.l3CheckOff d r.line false).opMod r.op (fun o => { o with src := c.fillSrc r.line })
      let r2 := { r with grant := some (m.ld, st, bits m.aux 2 3, m.yrw) }
      (c.reqMod r (fun _ => r2)).l3Install d r2

/-- A line that an UPG or a CLAIM from a copy holds, or a fresh line whose bytes nobody has written: a free value (log 1). -/
def Chip.claimLine (c : Chip) (d line : Nat) : LD × Chip :=
  match c.l3Find d line with
  | some (_, l) => (l.ld, c)
  | none => let f := c.fresh; (⟨BitVec.ofNat 512 f.1, false⟩, f.2)

/-- GRANT reaches a slice: used while the copy is held or for a CLAIM without one; else the request goes out again (R187). The lookup may find
an error in the copy (R168, R169): an UPG whose copy goes so is a miss again, once the slice's EVICT_CLEAN is acknowledged (R189). -/
def Chip.grantIn (c : Chip) (d : Nat) (m : Msg) : Chip :=
  match c.reqOf d m.tag with
  | none => c
  | some r =>
    let c := if r.typ = tMClean then c else (c.l3CheckOff d r.line (r.typ == tUpg && !r.lost)).l3Gather d r.line
    if r.typ = tMClean then (c.reqDrop r).answerHeld d r.line
    else if r.lost then
      match c.opOf r.op with
      | some o => ((c.reqDrop r).l3Send o (if r.typ = tUpg then tRdX else tClaim)).answerHeld d r.line
      | none => (c.reqDrop r).answerHeld d r.line
    else if r.typ = tUpg && (c.l3Find d r.line).isNone then
      ((c.reqDrop r).opMod r.op (fun o => { o with stage := .toL3 })).answerHeld d r.line
    else
      match c.claimLine d r.line with
      | (ld, c) =>
        let r2 := { r with grant := some (ld, .m, rightR + rightW, r.yrw) }
        (c.reqMod r (fun _ => r2)).l3Install d r2

/-- WBK_ACK frees a writeback buffer (R179), and a drained line of a disabled L2 is accepted (R164). -/
def Chip.wbkAckIn (c : Chip) (d : Nat) : Chip :=
  match c.takeDie d (fun m => m.cls == clsRsp && m.typ == tWbkAck) with
  | none => c
  | some (m, c) =>
    { c with coh := { c.coh with
        l3wbs := c.coh.l3wbs.filter (fun w => !(w.slice == 20 * d + m.tag / 128 && w.idx == m.tag % 128))
        drains := c.coh.drains.filter (fun x => !(x.1 / 5 == d && x.2 == m.line)) } }

def execWbkAck (d : Fin 12) (s : State) : Host.Outcome State Fault Refusal := s.run (fun c => c.wbkAckIn d.val)

/-! ### Fills -/

/-- Fill the L2 from the L3, then the L1 from the L2 (R151, R153, R154). A line that has gone meanwhile is not installed; an
access that needs ownership then asks again. A line for a cluster whose ratio changes is held at the crossing (R41). A PREF of a line poisoned
meanwhile fills nothing more (R97), and an error that the L1's fill finds in the L2 has the line fetched again (R167). -/
def Chip.lineFill (c : Chip) (id : Nat) : Chip :=
  match c.opOf id with
  | none => c
  | some o =>
    let u := cluIx o.ctx
    let d := ctxDie o.ctx
    if o.stage == .l2Fill && (c.ratioBusy u || c.ratioHeld d o.line) then c
    else if o.stage == .l2Fill then
      let c := c.l3Gather d o.line
      match c.l3Find d o.line with
      | some (_, l) =>
        let alone := l.pres == presOnly (u % 5)
        let excl := alone && (l.st == .m || l.st == .e)
        if !bit l.pres (u % 5) || !l.serves o.tenant o.secure o.kind.needs || (o.kind.owns && !excl) || !c.l2On u then
          if o.kind.owns then c.opMod id (fun o => { o with stage := .toL3 }) else c.opEnd o
        else if o.kind.isPref && l.ld.poison then c.opEnd o
        else
          let had := (c.l2Find u o.line).map (·.2)
          let q : CLine := { line := o.line, st := if excl then (if o.kind == .save then .m else .e) else .s, ld := l.ld,
                             age := match had with | some h => o.kind.hitAge h.age | none => o.age
                             tenant := o.tenant, secure := o.secure, rights := l.rights
                             yrw := match had with | some h => h.yrw | none => o.yrw
                             pres := 0, last := 0, flaw := 0 }
          let locked := c.on (Reg.CL_L2_LOCK.FILL d (u % 5)) && c.get (Reg.CL_L2_LOCK.FILL_AGENT d (u % 5)) == c.cxAgent o.ctx
          match c.l2Fill u (c.cxAgent o.ctx) q with
          | none => c
          | some c =>
            let key := evOf o.tenant o.secure
            let c := ((if locked then c.evClu u 0x23 key else c).meshMsg d clsDat o.tenant o.secure).nrgEv (domClu u) 1 (c.keyOf (c.cxAgent o.ctx) o.tenant) 1
            if o.kind.fillsL1 then c.opMod id (fun o => { o with stage := .l1Fill, res := some l.ld }) else c.opEnd { o with stage := .ready }
      | none => if o.kind.owns then c.opMod id (fun o => { o with stage := .toL3 }) else c.opEnd o
    else if o.stage == .l1Fill then
      let had := (c.l2Find u o.line).isSome
      let c := c.l2Check u o.line (some (evOf o.tenant o.secure))
      match c.l2Find u o.line with
      | some (_, q) =>
        if o.kind.isPref && q.ld.poison then c.opEnd o
        else if !q.serves o.tenant o.secure o.kind.needs || !c.l2On u then c.opEnd o
        else
          match c.l1Fill (o.kind == .fetch) (coreIx o.ctx) { q with age := 0, st := .s, flaw := 0 } with
          | none => c
          | some c => (c.opMod id (fun o => { o with res := some q.ld })).opEnd { o with res := some q.ld }
      | none => if had then c.opMod id (fun o => { o with stage := .toL2, res := none }) else c.opEnd o
    else c

def execLineFill (op : Nat) (s : State) : Host.Outcome State Fault Refusal := s.run (fun c => c.lineFill op)

/-- A fill that found no way tries again (R154): an access's L1 or L2 fill, a granted line's L3 fill, or a fill of the hub
cache. -/
def Chip.fillRetry (c : Chip) (level n : Nat) : Chip :=
  if level = 0 then c.lineFill n
  else if level = 1 then
    match c.coh.l3reqs[n]? with
    | some r => c.l3Install (r.slice / 20) r
    | none => c
  else
    match c.coh.hcFills[n]? with
    | none => c
    | some w =>
      if w.dirty || (c.hcFind w.line).isNone then c.hcEnter w.line w.ld w.dirty w.yrw w.age else c.hcUnwait w.line

def execFillRetry (level : Fin 3) (n : Nat) (s : State) : Host.Outcome State Fault Refusal := s.run (fun c => c.fillRetry level.val n)

/-! ### Whole-cache operations (R160) and the L2 (R155, R164, R165) -/

def Chip.maintStart (c : Chip) (level unit : Nat) (flush keep : Bool) : Chip :=
  { c with coh := { c.coh with maint := c.coh.maint ++ [⟨level, unit, flush, keep, []⟩] } }

/-- Lines that an L2 holds. -/
def Chip.l2Lines (c : Chip) (u : Nat) : List (Nat × CLine) := c.coh.l2.filter (fun p => p.1 / 32768 == u)

/-- Write a dirty L2 line to its L3 and keep it clean (R160). -/
def Chip.l2CleanLine (c : Chip) (u line : Nat) : Chip :=
  let c := c.l2Check u line none
  match c.l2Find u line with
  | some (k, q) =>
    if q.st == .m then
      let c := ((c.l3Gather (u / 5) line).evClu u 0x22 (evOf q.tenant q.secure)).meshMsg (u / 5) clsWbk q.tenant q.secure
      c.setL2 (SMap.set c.coh.l2 k { q with st := .e })
    else c
  | none => c

/-- CL_L2_MAINT is written (R160). -/
def Chip.l2Maint (c : Chip) (d cl op : Nat) (keep : Bool) : Chip :=
  let u := 5 * d + cl
  if op = 0 || op = 3 || c.on (Reg.CL_L2_STATUS.MBUSY d cl) then c
  else
    let c := (c.put (Reg.CL_L2_STATUS.MBUSY d cl) 1).maintStart 2 u (op == 2) keep
    (c.l2Lines u).foldl (fun c p =>
      if op = 1 || (keep && c.wayLocked u p.1) then c.l2CleanLine u p.2.line
      else (c.l2CleanLine u p.2.line).l2Evict u p.2.line) c

/-- Lines that slice sl of die d holds. -/
def Chip.l3Lines (c : Chip) (d sl : Nat) : List (Nat × CLine) := c.coh.l3.filter (fun p => p.1 / 32768 == 20 * d + sl)

/-- A slice asks a line's home for the transaction of a range CLEAN (R160, R183; log 30). -/
def Chip.l3CleanReq (c : Chip) (d sl : Nat) (l : CLine) : Chip :=
  match c.l3Idx (20 * d + sl) with
  | none => c
  | some i =>
    let r : L3Req := { slice := 20 * d + sl, idx := i, line := l.line, typ := tMClean, op := 0, sent := true, lost := false,
                        clu := l.last, tenant := l.tenant, secure := l.secure, yrw := l.yrw, old := true, grant := none }
    ({ c with coh := { c.coh with l3reqs := c.coh.l3reqs ++ [r] } }).sendUp d
      { c.l3Msg d l.last clsReq tMClean l.line (sl * 128 + i) with tenant := l.tenant, secure := l.secure }

/-- One line of a slice's whole-cache operation, as far as it can go now: with nothing of it on its way, and a buffer (R160, R179). -/
def Chip.l3MaintLine (c : Chip) (d sl : Nat) (flush : Bool) (line : Nat) : Chip :=
  if c.l3Busy d line || c.ratioHeld d line then c
  else if flush then c.l3Evict d line false
  else
    let c := (c.l3Check d line).l3Gather d line
    match c.l3Find d line with
    | some (_, l) => if l.st == .m || l.st == .o then c.l3CleanReq d sl l else c
    | none => c

/-- Is a line of a slice's whole-cache operation still to be done? -/
def Chip.l3MaintOwes (c : Chip) (d : Nat) (flush : Bool) (line : Nat) : Bool :=
  match c.l3Find d line with
  | some (_, l) => flush || l.st == .m || l.st == .o
  | none => false

/-- A slice's operation goes on with the lines it still has to do. -/
def Chip.l3MaintGo (c : Chip) (d sl : Nat) (flush : Bool) (lines : List Nat) : Chip :=
  let c := lines.foldl (fun c l => c.l3MaintLine d sl flush l) c
  { c with coh := { c.coh with maint := c.coh.maint.map (fun (m : MaintOp) =>
    if m.level == 3 && m.unit == 20 * d + sl then { m with lines := lines.filter (c.l3MaintOwes d flush) } else m) } }

/-- L3_CTRL is written (R160): the lines that the slice holds, of which those dirty in an L2 count as dirty. CLEAN asks each dirty line's
home for the transaction of a range CLEAN, since a writeback would end the line's registration (DEDUCED from R160, R183 and R190; log 30). -/
def Chip.l3Maint (c : Chip) (d sl op : Nat) : Chip :=
  if op = 0 || op = 3 || c.on (Reg.L3_STATUS.MBUSY d sl) then c
  else
    let c := (c.put (Reg.L3_STATUS.MBUSY d sl) 1).maintStart 3 (20 * d + sl) (op == 2) false
    c.l3MaintGo d sl (op == 2) ((c.l3Lines d sl).map (·.2.line))

/-- HC_MAINT_CMD is written: the banks of HC_MAINT_BANKS (R160). -/
def Chip.hcMaint (c : Chip) (op : Nat) : Chip :=
  if op = 0 || op = 3 || c.on Reg.HC_STATUS.MBUSY then c
  else
    let c := (c.put Reg.HC_STATUS.MBUSY 1).maintStart 4 0 (op == 2) false
    (c.hcLinesOf (c.get Reg.HC_MAINT_BANKS.BANKS)).foldl (fun c line => if op = 2 then (c.hcClean line).hcDrop line else c.hcClean line) c

/-- A whole-cache operation goes on, and ends once it has passed its last line (R160). -/
def Chip.maintDone (c : Chip) (level unit : Nat) : Chip :=
  match c.coh.maint.find? (fun m => m.level == level && m.unit == unit) with
  | none => c
  | some m =>
    let c := if level = 3 then c.l3MaintGo (unit / 20) (unit % 20) m.flush m.lines else c
    if c.coh.maint.any (fun m => m.level == level && m.unit == unit && !m.lines.isEmpty) then c
    else
      let c := { c with coh := { c.coh with maint := c.coh.maint.filter (fun m => !(m.level == level && m.unit == unit)) } }
      if level = 2 then c.put (Reg.CL_L2_STATUS.MBUSY (unit / 5) (unit % 5)) 0
      else if level = 3 then c.put (Reg.L3_STATUS.MBUSY (unit / 20) (unit % 20)) 0
      else c.put Reg.HC_STATUS.MBUSY 0

def execCacheMaintDone (level unit : Nat) (s : State) : Host.Outcome State Fault Refusal := s.run (fun c => c.maintDone level unit)

/-- A write of CL_L2_LOCK: refused whole when WAYS has more than 8 bits (R155); FILL_AGENT names a context, CORE and CTX in
their places and bits 33 and 32 zero. -/
def Chip.l2Lock (c : Chip) (d cl v : Nat) : Chip :=
  let ways := bits v 0 16
  let c := if bit v 17 then c.put (Reg.CL_L2_LOCK.BAD d cl) 0 else c
  if ((List.range 16).filter (bit ways)).length > 8 then c.put (Reg.CL_L2_LOCK.BAD d cl) 1
  else c.puts [(Reg.CL_L2_LOCK.WAYS d cl, ways), (Reg.CL_L2_LOCK.FILL d cl, bits v 16 1), (Reg.CL_L2_LOCK.FILL_AGENT d cl, bits v 34 14 * 4)]

/-- CL_L2_CTRL.EN is written 0: the L1s empty and the L2 drains (R164). -/
def Chip.l2Disable (c : Chip) (d cl : Nat) : Chip :=
  let u := 5 * d + cl
  if !c.on (Reg.CL_L2_CTRL.EN d cl) then c
  else
    let c := c.puts [(Reg.CL_L2_CTRL.EN d cl, 0), (Reg.CL_L2_STATUS.BUSY d cl, 1)]
    (c.l2Lines u).foldl (fun c p =>
      let line := p.2.line
      let dirty := p.2.st == .m
      let c := c.l2Evict u line
      if dirty then
        let c := c.l3Evict d line true
        { c with coh := { c.coh with drains := c.coh.drains ++ [(u, line)] } }
      else c) c

/-- EN is written 1: at once where the drain has ended, else when it does (R165). What EN reads until then, and what a write of 0 does, the
spec does not say: EN stays 0, and the re-enable stays asked for (log 78). -/
def Chip.l2Enable (c : Chip) (d cl : Nat) : Chip :=
  let u := 5 * d + cl
  if c.on (Reg.CL_L2_CTRL.EN d cl) then c
  else if c.on (Reg.CL_L2_STATUS.BUSY d cl) then { c with coh := { c.coh with reEnable := u :: c.coh.reEnable.filter (· != u) } }
  else c.puts [(Reg.CL_L2_CTRL.EN d cl, 1), (Reg.CL_L2_STATUS.DRAINED d cl, 0)]

/-- Every writeback of the drain has been accepted (R164, R165); one that found no buffer is sent first. -/
def Chip.l2Drained (c : Chip) (d cl : Nat) : Chip :=
  let u := 5 * d + cl
  let c := (c.coh.drains.filter (fun x => x.1 == u)).foldl (fun c x => if c.l3Busy d x.2 then c else c.l3Evict d x.2 true) c
  let owed := fun (line : Nat) => c.coh.l3wbs.any (fun w => w.line == line && w.slice / 20 == d)
    || (match c.l3Find d line with | some (_, l) => l.st == .m || l.st == .o | none => false)
  let c := { c with coh := { c.coh with drains := c.coh.drains.filter (fun x => x.1 != u || owed x.2) } }
  if c.on (Reg.CL_L2_STATUS.BUSY d cl) && !c.coh.drains.any (fun x => x.1 == u) then
    let c := c.puts [(Reg.CL_L2_STATUS.BUSY d cl, 0), (Reg.CL_L2_STATUS.DRAINED d cl, 1)]
    if c.coh.reEnable.contains u then
      ({ c with coh := { c.coh with reEnable := c.coh.reEnable.filter (· != u) } }).puts
        [(Reg.CL_L2_CTRL.EN d cl, 1), (Reg.CL_L2_STATUS.DRAINED d cl, 0)]
    else c
  else c

def execL2Drained (d : Fin 12) (cl : Fin 5) (s : State) : Host.Outcome State Fault Refusal := s.run (fun c => c.l2Drained d.val cl.val)

end Sys2Proof.Machine
end

