-- ==== Sys2Proof/Machine/Float.lean ====
section
/-! DEFINITION. Machine/Float.lean: the floating-point arithmetic of R100 to R102: IEEE 754-2019 binary32 and binary64, rounded
to nearest with ties to even, with the exception flags of R101. -/
namespace Sys2Proof.Machine

/-- A binary format: exponent width and fraction width. -/
structure FFmt where
  ew : Nat
  fw : Nat
  deriving DecidableEq, Repr

def binary32 : FFmt := ⟨8, 23⟩
def binary64 : FFmt := ⟨11, 52⟩

def FFmt.bias (f : FFmt) : Nat := 2 ^ (f.ew - 1) - 1
def FFmt.width (f : FFmt) : Nat := 1 + f.ew + f.fw
/-- The least exponent of a normal number. -/
def FFmt.emin (f : FFmt) : Int := 1 - (f.bias : Int)

/-- The flags of R101. -/
def flInvalid : Nat := 1
def flDivZero : Nat := 2
def flOverflow : Nat := 4
def flUnderflow : Nat := 8
def flInexact : Nat := 16

/-- A value: a NaN (signalling or not), an infinity, or `m · 2^e` with a sign. -/
inductive FVal where
  | nan (signalling : Bool)
  | inf (neg : Bool)
  | fin (neg : Bool) (m : Nat) (e : Int)
  deriving DecidableEq, Repr

/-- A result and its flags. -/
abbrev FRes := Nat × Nat

/-- The default quiet NaN (R100). -/
def FFmt.qnan (f : FFmt) : Nat := (2 ^ f.ew - 1) <<< f.fw + 2 ^ (f.fw - 1)
def FFmt.infBits (f : FFmt) (neg : Bool) : Nat := b2n neg <<< (f.ew + f.fw) + (2 ^ f.ew - 1) <<< f.fw
def FFmt.zeroBits (f : FFmt) (neg : Bool) : Nat := b2n neg <<< (f.ew + f.fw)

/-- Read an encoding. -/
def FFmt.unpack (f : FFmt) (x : Nat) : FVal :=
  let s := bit x (f.ew + f.fw)
  let e := bits x f.fw f.ew
  let m := bits x 0 f.fw
  if e = 2 ^ f.ew - 1 then (if m = 0 then .inf s else .nan (m < 2 ^ (f.fw - 1)))
  else if e = 0 then .fin s m (f.emin - f.fw)
  else .fin s (m + 2 ^ f.fw) ((e : Int) - f.bias - f.fw)

/-- `m / 2^k` to the nearest integer with ties to even, and whether anything was lost. -/
def rne (m k : Nat) : Nat × Bool :=
  let q := m >>> k
  let r := m % 2 ^ k
  if r = 0 then (q, false)
  else if 2 * r < 2 ^ k then (q, true)
  else if 2 * r > 2 ^ k then (q + 1, true)
  else (q + q % 2, true)

/-- Shift left by an integer, rounding when it is negative. -/
def rneShift (m : Nat) (k : Int) : Nat × Bool := if 0 ≤ k then (m <<< k.toNat, false) else rne m (-k).toNat

/-- Round `m · 2^e` to the format (R100): overflow gives an infinity, and underflow is raised when the result is tiny after
rounding and inexact (R101). -/
def FFmt.round (f : FFmt) (neg : Bool) (m : Nat) (e : Int) : FRes :=
  if m = 0 then (f.zeroBits neg, 0)
  else
    let p : Int := f.fw + 1
    let l : Int := m.log2 + 1
    let qn := e + l - p
    let q := max qn (f.emin - f.fw)
    let (mm, inex) := rneShift m (e - q)
    let (mm, q) := if mm = 2 ^ (f.fw + 1) then (2 ^ f.fw, q + 1) else (mm, q)
    let (mu, _) := rneShift m (e - qn)
    let tiny := if mu = 2 ^ (f.fw + 1) then qn + 1 + f.fw < f.emin else qn + f.fw < f.emin
    if mm < 2 ^ f.fw then
      (f.zeroBits neg + mm, (if tiny && inex then flUnderflow else 0) + (if inex then flInexact else 0))
    else
      let ex := q + f.fw + f.bias
      if ex ≥ 2 ^ f.ew - 1 then (f.infBits neg, flOverflow + flInexact)
      else (f.zeroBits neg + ex.toNat <<< f.fw + (mm - 2 ^ f.fw),
            (if tiny && inex then flUnderflow else 0) + (if inex then flInexact else 0))

/-- Invalid operation: the default NaN. -/
def FFmt.invalid (f : FFmt) : FRes := (f.qnan, flInvalid)

/-- A NaN operand: the default NaN, invalid if one signals (R100). -/
def FFmt.nanRes (f : FFmt) (signalling : Bool) : FRes := (f.qnan, if signalling then flInvalid else 0)

def FVal.isNan : FVal → Bool
  | .nan _ => true
  | .inf _ => false
  | .fin _ _ _ => false
def FVal.isSig : FVal → Bool
  | .nan s => s
  | .inf _ => false
  | .fin _ _ _ => false
def FVal.neg : FVal → FVal
  | .nan s => .nan s
  | .inf s => .inf (!s)
  | .fin s m e => .fin (!s) m e

/-- The exact signed sum of two finite values, at the lower exponent. -/
def exactSum (s1 : Bool) (m1 : Nat) (e1 : Int) (s2 : Bool) (m2 : Nat) (e2 : Int) : Int × Int :=
  let e := min e1 e2
  let a : Int := (m1 <<< (e1 - e).toNat : Nat)
  let b : Int := (m2 <<< (e2 - e).toNat : Nat)
  ((if s1 then -a else a) + (if s2 then -b else b), e)

/-- Round an exact sum; an exact zero is negative only when both parts are (round to nearest). -/
def FFmt.roundSum (f : FFmt) (s1 : Bool) (m1 : Nat) (e1 : Int) (s2 : Bool) (m2 : Nat) (e2 : Int) : FRes :=
  let (x, e) := exactSum s1 m1 e1 s2 m2 e2
  if x = 0 then (f.zeroBits (s1 && s2), 0) else f.round (x < 0) x.natAbs e

/-- Addition of read values. -/
def FFmt.addV (f : FFmt) (a b : FVal) : FRes :=
  match a, b with
  | .nan s, y => f.nanRes (s || y.isSig)
  | x, .nan s => f.nanRes (s || x.isSig)
  | .inf s, .inf t => if s = t then (f.infBits s, 0) else f.invalid
  | .inf s, .fin _ _ _ => (f.infBits s, 0)
  | .fin _ _ _, .inf s => (f.infBits s, 0)
  | .fin s m e, .fin t n g => f.roundSum s m e t n g

def FFmt.add (f : FFmt) (a b : Nat) : FRes := f.addV (f.unpack a) (f.unpack b)
def FFmt.sub (f : FFmt) (a b : Nat) : FRes := f.addV (f.unpack a) (f.unpack b).neg

def FFmt.mul (f : FFmt) (a b : Nat) : FRes :=
  match f.unpack a, f.unpack b with
  | .nan s, y => f.nanRes (s || y.isSig)
  | x, .nan s => f.nanRes (s || x.isSig)
  | .inf s, .inf t => (f.infBits (s != t), 0)
  | .inf s, .fin t n _ => if n = 0 then f.invalid else (f.infBits (s != t), 0)
  | .fin s m _, .inf t => if m = 0 then f.invalid else (f.infBits (s != t), 0)
  | .fin s m e, .fin t n g => f.round (s != t) (m * n) (e + g)

/-- `round(± a · b + c)`, rounded once; `np` negates the product and `nc` the addend (R100). A product of zero and infinity
is invalid; beside a quiet NaN addend the flag is left open (log 29). -/
def FFmt.fma (f : FFmt) (np nc : Bool) (a b c : Nat) : FRes :=
  let x := f.unpack a
  let y := f.unpack b
  let z := if nc then (f.unpack c).neg else f.unpack c
  let bad := match x, y with
    | .inf _, .fin _ n _ => n == 0
    | .fin _ m _, .inf _ => m == 0
    | _, _ => false
  if bad && z.isNan && !z.isSig then f.nanRes Config.fmaNanSignals
  else if bad then f.invalid
  else if x.isNan || y.isNan || z.isNan then f.nanRes (x.isSig || y.isSig || z.isSig)
  else
    let neg (u v : FVal) : Bool :=
      let s (w : FVal) : Bool := match w with | .nan _ => false | .inf s => s | .fin s _ _ => s
      (s u != s v) != np
    match x, y, z with
    | .fin _ m e, .fin _ n g, .fin u k h => f.roundSum (neg x y) (m * n) (e + g) u k h
    | .fin _ _ _, .fin _ _ _, .inf u => (f.infBits u, 0)
    | _, _, .inf u => if neg x y = u then (f.infBits u, 0) else f.invalid
    | _, _, _ => (f.infBits (neg x y), 0)

def FFmt.div (f : FFmt) (a b : Nat) : FRes :=
  match f.unpack a, f.unpack b with
  | .nan s, y => f.nanRes (s || y.isSig)
  | x, .nan s => f.nanRes (s || x.isSig)
  | .inf _, .inf _ => f.invalid
  | .inf s, .fin t _ _ => (f.infBits (s != t), 0)
  | .fin s _ _, .inf t => (f.zeroBits (s != t), 0)
  | .fin s m e, .fin t n g =>
    if n = 0 then (if m = 0 then f.invalid else (f.infBits (s != t), flDivZero))
    else
      let k := 2 * f.fw + 6 + n.log2
      let q := (m <<< k) / n
      let r := (m <<< k) % n
      f.round (s != t) (2 * q + (if r = 0 then 0 else 1)) (e - g - k - 1)

/-- Integer square root by bits from `2^i` down, with structural fuel. -/
def isqrtAux (n : Nat) : Nat → Nat → Nat
  | 0, r => if (r + 1) * (r + 1) ≤ n then r + 1 else r
  | i + 1, r =>
    let t := r + 2 ^ (i + 1)
    isqrtAux n i (if t * t ≤ n then t else r)

def isqrt (n : Nat) : Nat := isqrtAux n (n.log2 / 2 + 1) 0

def FFmt.sqrt (f : FFmt) (a : Nat) : FRes :=
  match f.unpack a with
  | .nan s => f.nanRes s
  | .inf s => if s then f.invalid else (f.infBits false, 0)
  | .fin s m e =>
    if m = 0 then (f.zeroBits s, 0)
    else if s then f.invalid
    else
      let (m, e) := if e % 2 = 0 then (m, e) else (2 * m, e - 1)
      let k := f.fw + 4
      let n := m <<< (2 * k)
      let r := isqrt n
      f.round false (2 * r + (if r * r = n then 0 else 1)) (e / 2 - k - 1)

/-- Order of two values that are no NaN: -1, 0 or 1; the zeros are equal. -/
def FVal.cmp (a b : FVal) : Int :=
  match a, b with
  | .nan _, _ => 0
  | _, .nan _ => 0
  | .inf s, .inf t => if s = t then 0 else if s then -1 else 1
  | .inf s, .fin _ _ _ => if s then -1 else 1
  | .fin _ _ _, .inf t => if t then 1 else -1
  | .fin s m e, .fin t n g => (exactSum s m e (!t) n g).1.sign

/-- Is the sign bit of an encoding set? -/
def FFmt.signBit (f : FFmt) (x : Nat) : Bool := bit x (f.ew + f.fw)

/-- minimumNumber, or maximumNumber when `mx` is true, with -0 below +0 (R100). -/
def FFmt.minMax (f : FFmt) (mx : Bool) (a b : Nat) : FRes :=
  let x := f.unpack a
  let y := f.unpack b
  let fl := if x.isSig || y.isSig then flInvalid else 0
  if x.isNan && y.isNan then (f.qnan, fl)
  else if x.isNan then (b, fl)
  else if y.isNan then (a, fl)
  else
    let o := x.cmp y
    let aLess := if o = 0 then f.signBit a && !f.signBit b else o < 0
    let bLess := if o = 0 then f.signBit b && !f.signBit a else o > 0
    (if mx then (if aLess then b else a) else (if bLess then b else a), fl)

/-- FEQ, FLT, FLE and FUN (R99): FEQ and FUN are quiet, FLT and FLE signal on any NaN. -/
def FFmt.cond (f : FFmt) (code a b : Nat) : Bool × Nat :=
  let x := f.unpack a
  let y := f.unpack b
  let un := x.isNan || y.isNan
  let sig := x.isSig || y.isSig
  if code = 6 then (!un && x.cmp y == 0, if sig then flInvalid else 0)
  else if code = 7 then (!un && x.cmp y < 0, if un then flInvalid else 0)
  else if code = 8 then (!un && x.cmp y ≤ 0, if un then flInvalid else 0)
  else (un, if sig then flInvalid else 0)

/-- A signed integer to a format (R100). -/
def FFmt.ofInt (f : FFmt) (i : Int) : FRes := f.round (i < 0) i.natAbs 0

/-- To a signed integer of `w` bits, saturating; NaN gives 0 (R100). -/
def FFmt.toInt (f : FFmt) (w a : Nat) : FRes :=
  let lim := 2 ^ (w - 1)
  match f.unpack a with
  | .nan _ => (0, flInvalid)
  | .inf s => (if s then lim else lim - 1, flInvalid)
  | .fin s m e =>
    let (q, inex) := rneShift m e
    if s then (if q > lim then (lim, flInvalid) else ((2 ^ w - q) % 2 ^ w, if inex then flInexact else 0))
    else if q ≥ lim then (lim - 1, flInvalid)
    else (q, if inex then flInexact else 0)

/-- From one format to another (R100). -/
def FFmt.convert (f g : FFmt) (a : Nat) : FRes :=
  match f.unpack a with
  | .nan s => g.nanRes s
  | .inf s => (g.infBits s, 0)
  | .fin s m e => g.round s m e

end Sys2Proof.Machine
end

