-- ==== Sys2Proof/Machine/Zaleib.lean ====
section
/-! DEFINITION. Machine/Zaleib.lean: the bundle, its syllables and their fields (R80 to R84), which bundles are illegal (R82,
R88, R106, R110, R118, R122), and the result distances (R63). -/
namespace Sys2Proof.Machine

/-- Sign-extend the low `w` bits to 64 bits, as a number below 2⁶⁴. -/
def sext64 (w n : Nat) : Nat := if n % 2 ^ w < 2 ^ (w - 1) then n % 2 ^ w else n % 2 ^ w + (2 ^ 64 - 2 ^ w)

/-- Syllable k of a bundle: bits 32k+30 to 32k (R80). -/
def sylOf (b k : Nat) : Nat := bits b (32 * k) 31

/-- Template bit k (R80). -/
def tmplBit (b k : Nat) : Nat := bits b (32 * k + 31) 1

/-- Owner of syllable 6 and of syllable 7, and SER (R81). -/
def tmplX6 (b : Nat) : Nat := tmplBit b 0 + 2 * tmplBit b 1 + 4 * tmplBit b 2
def tmplX7 (b : Nat) : Nat := tmplBit b 3 + 2 * tmplBit b 4 + 4 * tmplBit b 5
def tmplSer (b : Nat) : Bool := tmplBit b 6 == 1

/-- The extension that slot s owns (R81). -/
def extOf (b s : Nat) : Option Nat :=
  if tmplX6 b = s + 1 then some (sylOf b 6) else if tmplX7 b = s + 1 then some (sylOf b 7) else none

/-- An operation of a bundle: its slot, its syllable and its extension. -/
structure Opn where
  slot : Nat
  syl : Nat
  ext : Option Nat
  deriving DecidableEq, Repr

def opnAt (b s : Nat) : Opn := ⟨s, sylOf b s, extOf b s⟩

/-! Fields of R83. -/
def Opn.maj (o : Opn) : Nat := bits o.syl 25 6
def Opn.pred (o : Opn) : Nat := bits o.syl 21 4
def Opn.rd (o : Opn) : Nat := bits o.syl 15 6
def Opn.ra (o : Opn) : Nat := bits o.syl 9 6
def Opn.rb (o : Opn) : Nat := bits o.syl 3 6
def Opn.min (o : Opn) : Nat := bits o.syl 0 3
def Opn.vd (o : Opn) : Nat := bits o.syl 16 5
def Opn.va (o : Opn) : Nat := bits o.syl 11 5
def Opn.vb (o : Opn) : Nat := bits o.syl 6 5
def Opn.et (o : Opn) : Nat := bits o.syl 4 2
def Opn.vop (o : Opn) : Nat := bits o.syl 0 4
def Opn.vgG (o : Opn) : Nat := bits o.syl 15 6
def Opn.vgV (o : Opn) : Nat := bits o.syl 10 5
def Opn.vgEt (o : Opn) : Nat := bits o.syl 8 2
def Opn.vgIdx (o : Opn) : Nat := bits o.syl 2 6
def Opn.vgOp (o : Opn) : Nat := bits o.syl 0 2

/-- The signed immediate of an IMM form, as a 64-bit number (R83, R84). -/
def Opn.imm (o : Opn) : Nat :=
  match o.ext with
  | some x => sext64 40 (x * 512 + bits o.syl 0 9)
  | none => sext64 9 (bits o.syl 0 9)

/-- The 40 bits of a long immediate, or the 9 of a short one, unsigned. -/
def Opn.immU (o : Opn) : Nat :=
  match o.ext with
  | some x => x * 512 + bits o.syl 0 9
  | none => bits o.syl 0 9

/-- The signed displacement of a branch, in bundles (R83, R84). -/
def Opn.disp (o : Opn) : Nat :=
  match o.ext with
  | some x => sext64 52 (x * 2 ^ 21 + bits o.syl 0 21)
  | none => sext64 21 (bits o.syl 0 21)

/-- The signed offset of a MEM form (R83, R84). -/
def Opn.off6 (o : Opn) : Nat :=
  match o.ext with
  | some x => sext64 37 (x * 64 + o.rb)
  | none => sext64 6 o.rb

/-- The signed offset of a VMEM form (R83, R84). -/
def Opn.off9 (o : Opn) : Nat := o.imm

/-- RN, RL and AQ of an AMO (R84). -/
def Opn.amoRn (o : Opn) : Nat := bits (o.ext.getD 0) 25 6
def Opn.amoRl (o : Opn) : Bool := bit (o.ext.getD 0) 1
def Opn.amoAq (o : Opn) : Bool := bit (o.ext.getD 0) 0

/-- A header of a Sprocket table entry (R142). -/
structure SprkHdr where
  valid : Bool
  long : Bool
  slots : Nat
  dist : Nat
  restart : Bool
  rdV : Bool
  raV : Bool
  sbV : Bool
  scV : Bool
  nodest : Bool
  et : Nat
  nuopm1 : Nat
  deriving DecidableEq, Repr

/-- Read a header. -/
def sprkHdr (h : Nat) : SprkHdr :=
  { valid := bit h 0, long := bit h 1, slots := bits h 2 6, dist := bits h 8 5, restart := bit h 13, rdV := bit h 14,
    raV := bit h 15, sbV := bit h 16, scV := bit h 17, nodest := bit h 18, et := bits h 19 2, nuopm1 := bits h 21 5 }

/-- One table entry of 256 bytes as a number: its header and micro-operation u (R142). -/
def sprkEntryHdr (e : Nat) : SprkHdr := sprkHdr (bits e 0 64)
def sprkUop (e u : Nat) : Nat := bits e (64 + 32 * u) 32

/-- Majors that access memory. -/
def isMemMaj (m : Nat) : Bool := m == 0x20 || m == 0x21 || m == 0x22 || m == 0x23 || m == 0x24 || m == 0x25 || m == 0x2C

/-- Does an entry hold a memory micro-operation (R143)? -/
def sprkIsMem (e : Nat) : Bool :=
  (List.range ((sprkEntryHdr e).nuopm1 + 1)).any (fun u => isMemMaj (bits (sprkUop e u) 25 6))

/-- Whether an operation has a long form: none, optional or required (R88). -/
inductive LongForm where
  | no | opt | req
  deriving DecidableEq, Repr

def Opn.longForm (o : Opn) (sprk : Nat → Nat) : LongForm :=
  let m := o.maj
  if m = 0x0C then .req
  else if m = 0x28 || m = 0x29 then (if o.min = 7 then .req else .opt)
  else if m = 0x30 then (if o.min = 5 then .req else .no)
  else if m = 0x3F then (if (sprkEntryHdr (sprk o.rd)).long then .req else .no)
  else if [0x04, 0x05, 0x06, 0x07, 0x0B, 0x0F, 0x13, 0x14, 0x18, 0x19, 0x20, 0x21, 0x24, 0x25].contains m then .opt
  else .no

/-- A 6-bit field that names a predicate register has its upper bits 0 (R83). -/
def predField (f : Nat) : Bool := decide (f < 16)

/-- The naming rule of string operations: updated registers differ from every other named one and are not g0 (R106). -/
def stringNames (upd others : List Nat) : Bool :=
  upd.all (fun r => r != 0) && upd.Nodup && upd.all (fun r => !others.contains r)

/-- Is an operation one that its slot may hold, with every field at an admitted value (R82, R88)? -/
def Opn.legal (o : Opn) (sprk : Nat → Nat) : Bool :=
  let m := o.maj
  let int := o.slot == 0 || o.slot == 1
  let i0 := o.slot == 0
  let i1 := o.slot == 1
  let mem := o.slot == 2 || o.slot == 3
  let vec := o.slot == 4 || o.slot == 5
  let lf := match o.longForm sprk with
    | .no => o.ext.isNone
    | .opt => true
    | .req => o.ext.isSome
  let x4 := o.pred
  lf &&
  (if o.syl = 0 then true
   else if m = 0x00 then i0 && 1 ≤ o.min && o.min ≤ 5 && o.rd == 0 && o.ra == 0 && o.rb == 0
   else if m = 0x01 || m = 0x02 then int
   else if m = 0x03 then int && o.min ≤ 5 && o.rb == 0
   else if 0x04 ≤ m && m ≤ 0x07 then int
   else if 0x08 ≤ m && m ≤ 0x0A then int && bits o.syl 6 3 == 0
   else if m = 0x0B then int && o.ra == 0
   else if m = 0x0C then int && bits (o.ext.getD 0) 15 16 == 0
   else if m = 0x0D then int && o.min ≤ 5
   else if m = 0x0E then int && o.min ≤ 5 && predField o.rd
   else if m = 0x0F then int
   else if m = 0x10 then int && o.min ≤ 6 &&
     (if o.min ≤ 3 then predField o.rd && predField o.ra && predField o.rb
      else if o.min = 4 then predField o.rd && predField o.ra
      else if o.min = 5 then predField o.rd
      else predField o.ra)
   else if m = 0x11 then o.min ≤ 2 && (if o.min = 0 then int else i0)
   else if m = 0x12 then i0 && o.min ≤ 3
   else if m = 0x13 then i1 && o.ra == 0
   else if m = 0x14 then i0 && o.rd == 0
   else if m = 0x15 then i1 && o.ra == 0 && o.rb == 0 && o.min == 0
   else if m = 0x18 || m = 0x19 then i0
   else if m = 0x1A then i0 && o.min ≤ 1 && o.rb == 0
   else if m = 0x1B then i0
   else if m = 0x20 then mem && (o.min != 7 || predField o.rd)
   else if m = 0x21 then mem && (o.min ≤ 3 || (o.min == 7 && predField o.rd))
   else if m = 0x22 then mem && (o.min != 7 || predField o.rd)
   else if m = 0x23 then mem && (o.min ≤ 3 || (o.min == 7 && predField o.rd))
   else if m = 0x24 || m = 0x25 then mem && bits o.syl 15 1 == 0
   else if m = 0x28 || m = 0x29 then o.slot == 2 && bits (o.ext.getD 0) 2 23 == 0
   else if m = 0x2C then mem && o.rd == 0 && o.min ≤ 3
   else if m = 0x30 then o.slot == 2 &&
     (if o.min = 0 then x4 ≤ 3 && o.rd == 0 && o.ra == 0 && o.rb == 0
      else if o.min = 1 then x4 == 0 && stringNames [o.rd, o.ra, o.rb] []
      else if o.min = 2 then x4 == 0 && stringNames [o.rd, o.rb] [o.ra]
      else if o.min = 3 then stringNames [o.rd, o.ra, o.rb] []
      else if o.min = 4 then stringNames [o.rd, o.rb] [o.ra]
      else if o.min = 5 then x4 == 0 && (bits (o.ext.getD 0) 29 2 == 0 || bits (o.ext.getD 0) 29 2 == 3)
      else if o.min = 6 then x4 == 0 && o.rd == 0 && o.ra == 0 && o.rb == 0
      else x4 == 0 && o.rd == 0 && o.rb == 0)
   else if m = 0x37 then o.slot == 4 && o.vop ≤ 5 && (o.vop == 0 || o.vop == 2 || o.vop == 3 || o.et ≥ 2)
   else if m = 0x38 then vec && o.vop ≤ 12
   else if m = 0x39 then vec && o.vop ≤ 7 && o.et ≥ 2
   else if m = 0x3A then o.slot == 4 && o.vop ≤ 1 && o.et ≥ 2
   else if m = 0x3B then vec && o.vop ≤ 1
   else if m = 0x3C then vec && o.et == 0 && o.vop ≤ 5
   else if m = 0x3D then vec && o.vgOp ≤ 2
   else if m = 0x3E then vec && bits o.syl 20 1 == 0 && o.vop ≤ 9 && (o.vop ≤ 5 || o.et ≥ 2)
   else if m = 0x3F then
     let h := sprkEntryHdr (sprk o.rd)
     h.valid && bit h.slots o.slot && bits o.syl 0 3 == 0
   else false)

/-- Is a bundle legal (R82, R145)? `sprk` gives the table entry of each Sprocket slot in force. -/
def bundleLegal (b : Nat) (sprk : Nat → Nat) : Bool :=
  let x6 := tmplX6 b
  let x7 := tmplX7 b
  let nop := fun s => sylOf b s == 0
  let entry := bits (sylOf b 0) 25 6 == 0 && bits (sylOf b 0) 0 3 == 1
  let memSprk := fun s => (opnAt b s).maj == 0x3F && sprkIsMem (sprk (opnAt b s).rd)
  tmplBit b 7 == 0 && x6 != 7 && x7 != 7 && (x6 == 0 || x6 != x7)
    && (x6 != 0 || sylOf b 6 == 0) && (x7 != 0 || sylOf b 7 == 0)
    && (List.range 6).all (fun s => (opnAt b s).legal sprk)
    && (tmplSer b == ((opnAt b 2).maj == 0x30))
    && (!tmplSer b || ((nop 0 || entry) && nop 1 && nop 3 && nop 4 && nop 5))
    && (List.range 6).all (fun s => !memSprk s || (List.range 6).all (fun t => t == s || nop t))

/-- Is stepping `st` (0 A0, 1 A1, 2 B0, 3 B1) one of the first two (R63)? -/
def early (st a b : Nat) : Nat := if st < 2 then a else b

/-- The result distance of an operation's class (R63); `sprkDist` is a Sprocket entry's DIST. -/
def Opn.dist (o : Opn) (st sprkDist : Nat) : Nat :=
  let m := o.maj
  if m = 0x11 then (if o.min = 0 then 3 else 4)
  else if m = 0x12 then early st 22 18
  else if m = 0x13 || m = 0x15 then 2
  else if m = 0x14 then 3
  else if m = 0x18 || m = 0x19 then 2
  else if m = 0x1A then 3
  else if m = 0x20 || m = 0x22 then 4
  else if m = 0x24 then early st 5 4
  else if m = 0x28 || m = 0x29 then early st 14 12
  else if m = 0x37 then early st 7 6
  else if m = 0x38 then 2
  else if m = 0x39 then early st 5 4
  else if m = 0x3A then early st 28 24
  else if m = 0x3B || m = 0x3C || m = 0x3E then 3
  else if m = 0x3D then (if o.vgOp = 0 then 3 else 2)
  else if m = 0x3F then sprkDist
  else 1

end Sys2Proof.Machine
end

