-- ==== Sys2Proof/Machine/Alu.lean ====
section
/-! DEFINITION. Machine/Alu.lean: what the register operations compute: integer (R89 to R91), vector (R99), floating point
(R100 to R102), and the new value of an atomic (R98). Values are numbers below 2⁶⁴ (g, p) or 2⁵¹² (v). -/
namespace Sys2Proof.Machine

/-- Signed reading of a `w`-bit value. -/
def sgn (w n : Nat) : Int := if n % 2 ^ w < 2 ^ (w - 1) then (n % 2 ^ w : Nat) else ((n % 2 ^ w : Nat) : Int) - 2 ^ w

/-- The low `w` bits of an integer. -/
def low (w : Nat) (i : Int) : Nat := (i % (2 ^ w : Nat)).toNat

/-- Signed less-than at width `w`. -/
def slt (w a b : Nat) : Bool := sgn w a < sgn w b

/-- Arithmetic right shift at width `w`. -/
def asr (w a k : Nat) : Nat := low w (sgn w a / (2 ^ k : Nat))

/-- Leading zero bits of a 64-bit value (R89). -/
def clz64 (n : Nat) : Nat := if n % m64 = 0 then 64 else 63 - (n % m64).log2

/-- Integer operations of majors 0x01 to 0x03 and 0x11 (R89). -/
def aluReg (maj min a b : Nat) : Nat :=
  if maj = 0x01 then
    (if min = 0 then (a + b) % m64
     else if min = 1 then (a + m64 - b) % m64
     else if min = 2 then a &&& b
     else if min = 3 then a ||| b
     else if min = 4 then a ^^^ b
     else if min = 5 then a &&& (m64 - 1 - b)
     else if min = 6 then (if slt 64 b a then b else a)
     else (if slt 64 a b then b else a))
  else if maj = 0x02 then
    (if min = 0 then (a <<< (b % 64)) % m64
     else if min = 1 then a >>> (b % 64)
     else if min = 2 then asr 64 a (b % 64)
     else if min = 3 then (a >>> (b % 64) ||| (a <<< (64 - b % 64)) % m64)
     else if min = 4 then Nat.min a b
     else if min = 5 then Nat.max a b
     else if min = 6 then clz64 a
     else popc 64 a)
  else if maj = 0x03 then
    (if min = 0 then sext64 8 a
     else if min = 1 then sext64 16 a
     else if min = 2 then sext64 32 a
     else if min = 3 then a % 2 ^ 8
     else if min = 4 then a % 2 ^ 16
     else a % 2 ^ 32)
  else
    (if min = 0 then (a * b) % m64
     else if min = 1 then low 64 (sgn 64 a * sgn 64 b / (m64 : Nat))
     else a * b / m64)

/-- ADDI to XORI and the immediate shifts (R89). -/
def aluImm (maj a imm : Nat) : Nat :=
  if maj = 0x04 then aluReg 0x01 0 a imm
  else if maj = 0x05 then aluReg 0x01 2 a imm
  else if maj = 0x06 then aluReg 0x01 3 a imm
  else if maj = 0x07 then aluReg 0x01 4 a imm
  else if maj = 0x08 then aluReg 0x02 0 a (imm % 64)
  else if maj = 0x09 then aluReg 0x02 1 a (imm % 64)
  else aluReg 0x02 2 a (imm % 64)

/-- MOVHI (R89). -/
def movhi (a imm24 : Nat) : Nat := a % 2 ^ 40 + (imm24 % 2 ^ 24) <<< 40

/-- DIV, DIVU, REM, REMU (R90). -/
def divRem (min a b : Nat) : Nat :=
  if min = 0 then
    (if b = 0 then m64 - 1
     else if a = 2 ^ 63 && b = m64 - 1 then 2 ^ 63
     else low 64 (Int.tdiv (sgn 64 a) (sgn 64 b)))
  else if min = 1 then (if b = 0 then m64 - 1 else a / b)
  else if min = 2 then
    (if b = 0 then a
     else if a = 2 ^ 63 && b = m64 - 1 then 0
     else low 64 (Int.tmod (sgn 64 a) (sgn 64 b)))
  else (if b = 0 then a else a % b)

/-- Conditions of the scalar compares: EQ, NE, LT, GE, LTU, GEU (R88, R91). -/
def cmpCond (min a b : Nat) : Bool :=
  if min = 0 then a == b
  else if min = 1 then a != b
  else if min = 2 then slt 64 a b
  else if min = 3 then !slt 64 a b
  else if min = 4 then a < b
  else !(a < b)

/-- CMPI's conditions: EQ, NE, LT, LTU (R91). -/
def cmpiCond (c a imm : Nat) : Bool := cmpCond (if c = 3 then 4 else c) a imm

/-- All ones or all zeros (R91). -/
def ones64 (b : Bool) : Nat := if b then m64 - 1 else 0

/-- Predicate logic (R91). -/
def predLogic (min a b : Nat) : Nat :=
  if min = 0 then a &&& b
  else if min = 1 then a ||| b
  else if min = 2 then a ^^^ b
  else if min = 3 then a &&& (m64 - 1 - b)
  else if min = 4 then m64 - 1 - a
  else a

/-- The new value that an AMO writes at width `w`, or none when CAS finds another value (R98). -/
def amoNew (w min old b n : Nat) : Option Nat :=
  if min = 0 then some (b % 2 ^ w)
  else if min = 1 then some ((old + b) % 2 ^ w)
  else if min = 2 then some (old &&& (b % 2 ^ w))
  else if min = 3 then some (old ||| (b % 2 ^ w))
  else if min = 4 then some (old ^^^ (b % 2 ^ w))
  else if min = 5 then some (if slt w old b then b % 2 ^ w else old)
  else if min = 6 then some (if slt w b old then b % 2 ^ w else old)
  else if old = b % 2 ^ w then some (n % 2 ^ w) else none

/-! ### Vectors -/

/-- Element width in bits and element count of ET (R83). -/
def etW (et : Nat) : Nat := 8 * 2 ^ et
def etN (et : Nat) : Nat := 64 / 2 ^ et

/-- Element j at width w. -/
def el (w v j : Nat) : Nat := bits v (w * j) w

/-- A vector from its elements. -/
def ofEls (w : Nat) (l : List Nat) : Nat := l.foldr (fun x acc => x % 2 ^ w + acc <<< w) 0

/-- The elements that the predicate leaves as the old destination has them (R85). -/
def vecMerge (w n p old : Nat) (f : Nat → Nat) : Nat :=
  ofEls w ((List.range n).map (fun j => if bit p j then f j else el w old j))

/-- Integer element operations of major 0x38 (R99). -/
def vecAlu (op w a b : Nat) : Nat :=
  if op = 0 then (a + b) % 2 ^ w
  else if op = 1 then (a + 2 ^ w - b) % 2 ^ w
  else if op = 2 then a &&& b
  else if op = 3 then a ||| b
  else if op = 4 then a ^^^ b
  else if op = 5 then (if slt w b a then b else a)
  else if op = 6 then (if slt w a b then b else a)
  else if op = 7 then Nat.min a b
  else if op = 8 then Nat.max a b
  else if op = 9 then (a <<< (b % w)) % 2 ^ w
  else if op = 10 then a >>> (b % w)
  else if op = 11 then asr w a (b % w)
  else a

/-- The format of an element type 2 or 3. -/
def fmtOf (et : Nat) : FFmt := if et = 2 then binary32 else binary64

/-- Floating element operations of major 0x39: value and flags (R100). -/
def vecFp (op et a b d : Nat) : FRes :=
  let f := fmtOf et
  if op = 0 then f.add a b
  else if op = 1 then f.sub a b
  else if op = 2 then f.mul a b
  else if op = 3 then f.fma false false a b d
  else if op = 4 then f.fma false true a b d
  else if op = 5 then f.fma true false a b d
  else if op = 6 then f.minMax false a b
  else f.minMax true a b

/-- Apply a flagged element operation under a predicate: the vector and the flags of the active elements (R85, R101). -/
def vecFlagged (w n p old : Nat) (f : Nat → FRes) : Nat × Nat :=
  (vecMerge w n p old (fun j => (f j).1),
   ((List.range n).filter (bit p)).foldl (fun fl j => fl ||| (f j).2) 0)

/-- The conversions of major 0x3C: destination width and element count, and element j (R100). -/
def cvtW (op : Nat) : Nat := if op = 0 || op = 1 || op = 3 then 32 else 64
def cvtN (op : Nat) : Nat := if op = 0 || op = 1 || op = 3 then 16 else 8
def cvtEl (op v j : Nat) : FRes :=
  if op = 0 then binary32.ofInt (sgn 32 (el 32 v j))
  else if op = 1 then binary32.toInt 32 (el 32 v j)
  else if op = 2 then binary32.convert binary64 (el 32 v j)
  else if op = 3 then (if j < 8 then binary64.convert binary32 (el 64 v j) else (0, 0))
  else if op = 4 then binary64.ofInt (sgn 64 (el 64 v j))
  else binary64.toInt 64 (el 64 v j)

/-- Vector compare conditions 0 to 5 (R99). -/
def vcmpInt (op w a b : Nat) : Bool :=
  if op = 0 then a == b
  else if op = 1 then a != b
  else if op = 2 then slt w a b
  else if op = 3 then !slt w b a
  else if op = 4 then a < b
  else a ≤ b

/-- The vector compare: the predicate and the flags (R99, R101). -/
def vecCmp (op et p a b : Nat) : Nat × Nat :=
  let w := etW et
  let n := etN et
  let r := fun j => if op ≤ 5 then (vcmpInt op w (el w a j) (el w b j), 0) else (fmtOf et).cond op (el w a j) (el w b j)
  ((List.range n).foldl (fun acc j => if bit p j && (r j).1 then acc + 2 ^ j else acc) 0,
   ((List.range n).filter (bit p)).foldl (fun fl j => fl ||| (r j).2) 0)

/-- One level of the fixed addition tree of R102. -/
def redLevel (f : FFmt) : List FRes → List FRes
  | x :: y :: r => (let s := f.add x.1 y.1; (s.1, s.2 ||| x.2 ||| y.2)) :: redLevel f r
  | [x] => [x]
  | [] => []

/-- The whole tree, by levels. -/
def redTree (f : FFmt) : Nat → List FRes → FRes
  | 0, l => l.headD (0, 0)
  | k + 1, l => redTree f k (redLevel f l)

/-- Reductions of major 0x37: element 0 and the flags (R102). -/
def vecRed (op et p v : Nat) : FRes :=
  let w := etW et
  let n := etN et
  let act := (List.range n).filter (bit p)
  let xs := act.map (el w v)
  let f := fmtOf et
  if op = 0 then (xs.foldl (fun a b => (a + b) % 2 ^ w) 0, 0)
  else if op = 1 then
    redTree f n.log2 ((List.range n).map (fun j => (if bit p j then el w v j else f.zeroBits true, 0)))
  else if op = 2 then (xs.tail.foldl (fun a b => if slt w b a then b else a) (xs.headD 0), 0)
  else if op = 3 then (xs.tail.foldl (fun a b => if slt w a b then b else a) (xs.headD 0), 0)
  else
    let sig := if xs.any (fun x => (f.unpack x).isSig) then flInvalid else 0
    let r := xs.tail.foldl (fun a b => (f.minMax (op == 5) a b).1) (xs.headD 0)
    (if (f.unpack r).isNan then f.qnan else r, sig)

/-- VPERM and VBCAST element j (R99). -/
def vecPerm (op et a b j : Nat) : Nat :=
  if op = 0 then el (etW et) a (el (etW et) b j % etN et) else el (etW et) a 0

end Sys2Proof.Machine
end

