-- ==== Sys2Proof/Machine/Operands.lean ====
section
/-! DEFINITION. Machine/Operands.lean: what a register operation of a bundle or of a Sprocket entry writes, from the registers it
names (R83 to R102). Memory, control and system operations are in Issue and Serial. -/
namespace Sys2Proof.Machine

/-- A destination register. -/
inductive Dst where
  | g (r : Nat)
  | v (r : Nat)
  | p (r : Nat)
  deriving DecidableEq, Repr

/-- The code of a destination in a drain record (R78). -/
def Dst.code : Dst → Nat
  | .g r => r
  | .v r => 0x40 + r % 32
  | .p r => 0x60 + r % 16

/-- Registers as an operation reads them. -/
structure RegView where
  g : Nat → Nat
  v : Nat → Nat
  p : Nat → Nat

/-- Majors whose operations are vector operations for predication (R85). -/
def isVecMaj (m : Nat) : Bool := (0x37 ≤ m && m ≤ 0x3C) || m == 0x3E

/-- Elements that a vector operation's predicate covers. -/
def Opn.elems (o : Opn) : Nat := if o.maj = 0x3C then cvtN o.vop else etN o.et

/-- Is an operation active under its predicate value (R85)? -/
def Opn.activeOn (o : Opn) (pv : Nat) : Bool :=
  if o.syl = 0 then false
  else if o.maj = 0x30 then true
  else if isVecMaj o.maj then pv % 2 ^ o.elems != 0
  else bit pv 0

/-- The result of a register operation: destination, value and floating-point flags (R89 to R91, R99 to R102). In conversion OP 3 the zeroing of
elements 8 to 15 is subject to their predicate bits like any element's result (log 74). -/
def Opn.eval (o : Opn) (r : RegView) : Option (Dst × Nat × Nat) :=
  let m := o.maj
  let pv := r.p o.pred
  let one := fun (d : Dst) (n : Nat) => some (d, n, 0)
  let w := etW o.et
  let n := etN o.et
  if m = 0x01 || m = 0x02 || m = 0x03 || m = 0x11 then one (.g o.rd) (aluReg m o.min (r.g o.ra) (r.g o.rb))
  else if 0x04 ≤ m && m ≤ 0x0A then one (.g o.rd) (aluImm m (r.g o.ra) o.imm)
  else if m = 0x0B then one (.g o.rd) o.imm
  else if m = 0x0C then one (.g o.rd) (movhi (r.g o.ra) o.imm)
  else if m = 0x0D then one (.g o.rd) (b2n (cmpCond o.min (r.g o.ra) (r.g o.rb)))
  else if m = 0x0E then one (.p o.rd) (ones64 (cmpCond o.min (r.g o.ra) (r.g o.rb)))
  else if m = 0x0F then one (.p (o.rd % 16)) (ones64 (cmpiCond (o.rd / 16) (r.g o.ra) o.imm))
  else if m = 0x10 then
    (if o.min ≤ 4 then one (.p o.rd) (predLogic o.min (r.p o.ra) (r.p o.rb))
     else if o.min = 5 then one (.p o.rd) (r.g o.ra)
     else one (.g o.rd) (r.p o.ra))
  else if m = 0x12 then one (.g o.rd) (divRem o.min (r.g o.ra) (r.g o.rb))
  else if m = 0x37 then
    let x := vecRed o.vop o.et pv (r.v o.va)
    some (.v o.vd, x.1 % 2 ^ w, x.2)
  else if m = 0x38 then
    one (.v o.vd) (vecMerge w n pv (r.v o.vd) (fun j => vecAlu o.vop w (el w (r.v o.va) j) (el w (r.v o.vb) j)))
  else if m = 0x39 then
    let x := vecFlagged w n pv (r.v o.vd) (fun j => vecFp o.vop o.et (el w (r.v o.va) j) (el w (r.v o.vb) j) (el w (r.v o.vd) j))
    some (.v o.vd, x.1, x.2)
  else if m = 0x3A then
    let f := fmtOf o.et
    let x := vecFlagged w n pv (r.v o.vd) (fun j =>
      if o.vop = 0 then f.div (el w (r.v o.va) j) (el w (r.v o.vb) j) else f.sqrt (el w (r.v o.va) j))
    some (.v o.vd, x.1, x.2)
  else if m = 0x3B then one (.v o.vd) (vecMerge w n pv (r.v o.vd) (vecPerm o.vop o.et (r.v o.va) (r.v o.vb)))
  else if m = 0x3C then
    let x := vecFlagged (cvtW o.vop) (cvtN o.vop) pv (r.v o.vd) (cvtEl o.vop (r.v o.va))
    some (.v o.vd, x.1, x.2)
  else if m = 0x3D then
    let w := etW o.vgEt
    let n := etN o.vgEt
    if o.vgOp = 0 then one (.g o.vgG) (el w (r.v o.vgV) (o.vgIdx % n))
    else if o.vgOp = 1 then one (.v o.vgV) (vecMerge w n (2 ^ (o.vgIdx % n)) (r.v o.vgV) (fun _ => r.g o.vgG))
    else one (.v o.vgV) (vecMerge w n (2 ^ n - 1) 0 (fun _ => r.g o.vgG))
  else if m = 0x3E then
    let x := vecCmp o.vop o.et pv (r.v o.va) (r.v o.vb)
    some (.p (o.vd % 16), x.1, x.2)
  else none

/-! ### Memory operands (R95, R98) -/

/-- Loads, stores, prefetch and atomics. -/
def Opn.isLoad (o : Opn) : Bool := o.maj == 0x20 || o.maj == 0x22 || o.maj == 0x24
def Opn.isStore (o : Opn) : Bool := o.maj == 0x21 || o.maj == 0x23 || o.maj == 0x25
def Opn.isPref (o : Opn) : Bool := o.maj == 0x2C
def Opn.isAmo (o : Opn) : Bool := o.maj == 0x28 || o.maj == 0x29
def Opn.isMem (o : Opn) : Bool := o.isLoad || o.isStore || o.isPref || o.isAmo

/-- Bytes of a memory operation. -/
def Opn.size (o : Opn) : Nat :=
  if o.maj = 0x24 || o.maj = 0x25 then 64
  else if o.maj = 0x28 then 4
  else if o.maj = 0x29 then 8
  else if o.maj = 0x2C then 1
  else if o.min = 7 then 8
  else 2 ^ (o.min % 4)

/-- Is a load sign-extended? -/
def Opn.signs (o : Opn) : Bool := o.min ≤ 2

/-- The effective address (R95, R98). -/
def Opn.ea (o : Opn) (r : RegView) : Nat :=
  if o.isAmo then r.g o.ra
  else if o.maj = 0x22 || o.maj = 0x23 then (r.g o.ra + r.g o.rb) % m64
  else if o.maj = 0x24 || o.maj = 0x25 then (r.g o.ra + 64 * o.off9) % m64
  else if o.maj = 0x2C then (r.g o.ra + 64 * o.off6) % m64
  else (r.g o.ra + o.size * o.off6) % m64

/-- Destination of a load. -/
def Opn.loadDst (o : Opn) : Dst :=
  if o.maj = 0x24 then .v o.vd else if o.min = 7 then .p o.rd else .g o.rd

/-- Data of a store. -/
def Opn.storeVal (o : Opn) (r : RegView) : Nat :=
  if o.maj = 0x25 then r.v o.vd else if o.min = 7 then r.p o.rd else r.g o.rd % 2 ^ (8 * o.size)


end Sys2Proof.Machine
end

