-- ==== Sys2Proof/Machine/CoreMem.lean ====
section
/-! DEFINITION. Machine/CoreMem.lean: a context's registers (R86), writes of its cs_* registers (R129), interrupts (R131, R134), translation
(R125 to R128), loads (R95, R121), the store queue (R33, R98), and instruction fetch (R120). -/
namespace Sys2Proof.Machine

/-! ### Registers (R86) -/

def Ctx.gr (k : Ctx) (r : Nat) : Nat := if r = 0 then 0 else SMap.getD k.g r 0
def Ctx.vr (k : Ctx) (r : Nat) : Nat := SMap.getD k.v (r % 32) 0
def Ctx.pr (k : Ctx) (r : Nat) : Nat := if r % 16 = 0 then m64 - 1 else SMap.getD k.p (r % 16) 0
def Ctx.gw (k : Ctx) (r n : Nat) : Ctx := if r = 0 then k else { k with g := SMap.put k.g 0 r (n % m64) }
def Ctx.vw (k : Ctx) (r n : Nat) : Ctx := { k with v := SMap.put k.v 0 (r % 32) (n % 2 ^ 512) }
def Ctx.pw (k : Ctx) (r n : Nat) : Ctx := if r % 16 = 0 then k else { k with p := SMap.put k.p 0 (r % 16) (n % m64) }

/-! ### Interrupts -/

/-- An interrupt is routed to a context (R71, R72): an IDLE context becomes READY unless its core sleeps in C3; a READY one
may preempt. -/
def Chip.irqRoute (c : Chip) (x : Nat) : Chip :=
  if (c.irqBest x).isNone then c
  else
    (if c.cxState x != cxIdle then c
      else if c.cstate (coreIx x) ≤ 1 then c.cxReadyNow x
      else c.coreWake (coreIx x)).preemptBy x

/-- Set vector v of a context. -/
def Chip.irqSet (c : Chip) (x v : Nat) : Chip := (c.ctxMod x (fun k => { k with irqs := k.irqs ||| 2 ^ v })).irqRoute x

/-- Is a message for a port of this package, whose MSI-X vectors it raises (R389)? -/
def Chip.portIrq (c : Chip) (i : Irq) : Bool := (List.range 8).any (fun p => i.agent == hubAgent c.pkg 4 p)

/-- The oldest interrupt message to a context arrives (R131). -/
def Chip.irqMessage (c : Chip) : Chip :=
  match c.irqs.find? (fun i => !c.portIrq i) with
  | none => c
  | some i =>
    let c := { c with irqs := c.irqs.erase i }
    if c.ownCtx i.agent && c.cxPresent (ctxOfAgent i.agent) then c.irqSet (ctxOfAgent i.agent) i.vec else c

def execInterruptMessage (s : State) : Host.Outcome State Fault Refusal := s.run Chip.irqMessage

/-- TIME reaches cs_timer_cmp: bit 63 is held, and the interrupt is routed (R129). -/
def execTimerCompare (x : Fin 960) (s : State) : Host.Outcome State Fault Refusal := s.run (fun c => c.irqRoute x.val)

/-- A bus error of a context's write is captured (R140). -/
def Chip.busErr (c : Chip) (x pa : Nat) : Chip :=
  let b := (c.ctxOf x).csGet csBuserr false
  if bit b 63 then c.ctxMod x (fun k => k.csPut csBuserr false (b ||| 2 ^ 62))
  else (c.ctxMod x (fun k => k.csPut csBuserr false (pa % 2 ^ 52 + bits b 62 1 <<< 62 + 2 ^ 63))).irqSet x 62

/-- What a CSWR writes at its write point (R128 to R130): the fields that the level may write. Whether an interprocessor interrupt for a
context of another present package reaches it, which rests on that context's presence and tenant there, is a free value (log 65). -/
def Chip.csApply (c : Chip) (x n v : Nat) : Chip :=
  let lvl := c.cxPriv x
  let old := c.csr x n
  if n = csStatus then
    let s := if bit v stBusyS then setBits (setBits old stSie 1 (bits v stSie 1)) stBusyS 1 0 else setBits old stSie 1 (bits v stSie 1)
    let s := if 2 ≤ lvl then
        (let s := setBits s stHie 1 (bits v stHie 1); if bit v stBusyH then setBits s stBusyH 1 0 else s)
      else s
    (c.csw x n s).irqRoute x
  else if n = csVecS || n = csVecH then c.csw x n (v / 32 * 32)
  else if n = csTfS || n = csTfH then c.csw x n (bits v 13 39 <<< 13)
  else if n = csDeleg then c.csw x n (v % 2 ^ 32)
  else if n = csIrqPend then c.ctxMod x (fun k => { k with irqs := k.irqs - (k.irqs &&& v) })
  else if n = csIrqEn then
    let m := if lvl = 1 then c.csr x csIrqDeleg else m64 - 1
    (c.csw x n ((old - (old &&& m)) ||| (v &&& m))).irqRoute x
  else if n = csIrqDeleg || n = csTimerCmp then (c.csw x n v).irqRoute x
  else if n = csIrqWorld then ((c.audCs (c.cxWho x) n v).csw x n v).irqRoute x
  else if n = csPtbase then
    (c.csw x n (bits v 0 1 + bits v 12 40 <<< 12)).ctxMod x (fun k => { k with tlb := k.tlb.filter (fun t => t.secure != c.cxSecure x) })
  else if n = csTlbInval then
    c.ctxMod x (fun k => { k with tlb := k.tlb.filter (fun t =>
      !(t.secure == c.cxSecure x && (bit v 0 || t.vpn == bits v 12 36 >>> (9 * (4 - t.level))))) })
  else if n = csTenant then (c.audCs (c.cxWho x) n v).put (fTenant x) (v % 4096)
  else if n = csIpi then
    let a := bits v 2 14 * 4
    let y := ctxOfAgent a
    if isCtxAgent a && agPkg a != c.pkg && c.present (agPkg a) then
      let f := c.fresh
      if f.1 % 2 = 1 then f.2.sendIrq a (bits v 16 6) else f.2.csw x csIpiStatus 1
    else if c.ownCtx a && c.cxPresent y && (lvl == 2 || c.cxTenant y == c.cxTenant x) then c.irqSet y (bits v 16 6)
    else c.csw x csIpiStatus 1
  else if n = csIpiStatus then c.csw x n (if bit v 0 then 0 else old)
  else if n = csBuserr then c.csw x n (old - (old &&& (v &&& (3 <<< 62))))
  else if n = csFpFlags then c.csw x n (v % 32)
  else c

/-- ERET gives a cs register its saved value whole (R79, R137); reserved bits of it stay 0 (R129). -/
def Chip.csRestore (c : Chip) (x n v : Nat) : Chip :=
  if n = csTenant then c.put (fTenant x) (v % 4096)
  else if n = csIrqPend then c.ctxMod x (fun k => { k with irqs := v })
  else if n = csStatus then c.csw x n (bits v 3 4 * 8)
  else if n = csTlbInval || n = csIpi || n = csCtxId then c
  else if n = csPtbase then (c.csw x n (bits v 0 1 + bits v 12 40 <<< 12)).ctxMod x (fun k => { k with tlb := k.tlb.filter (fun t => t.secure != c.cxSecure x) })
  else if n = csVecS || n = csVecH then c.csw x n (v / 32 * 32)
  else if n = csTfS || n = csTfH then c.csw x n (bits v 13 39 <<< 13)
  else if n = csDeleg then c.csw x n (v % 2 ^ 32)
  else if n = csIpiStatus then c.csw x n (v % 2)
  else if n = csBuserr then c.csw x n (v % 2 ^ 52 + bits v 62 2 <<< 62)
  else if n = csFpFlags then c.csw x n (v % 32)
  else c.csw x n v

/-! ### Translation (R125 to R128) -/

/-- What a translation answers. -/
inductive Xl where
  | ok (pa yrw : Nat)
  | trap (cause : Nat)
  | walk
  deriving DecidableEq, Repr

/-- Kinds of access for translation and permission. -/
inductive XAcc where
  | fetch | load | store | amo
  deriving DecidableEq, Repr

/-- Trap causes (R131). -/
def trIllegal : Nat := 0x01
def trInRepeat : Nat := 0x02
def trInDelay : Nat := 0x03
def trPriv : Nat := 0x04
def trAlign : Nat := 0x05
def trMemAttr : Nat := 0x06
def trDataPoison : Nat := 0x0D
def trFetchPoison : Nat := 0x0E
def trWalkPoison : Nat := 0x0F
def trSched : Nat := 0x10
def trBadFrame : Nat := 0x11
def trRetm : Nat := 0x12
def trSyscall : Nat := 0x13
def trBreak : Nat := 0x14
def trGate : Nat := 0x15
def trDebug : Nat := 0x16

def XAcc.xlat : XAcc → Nat
  | .fetch => 0x07
  | .load | .amo => 0x09
  | .store => 0x0B

def XAcc.perm : XAcc → Nat
  | .fetch => 0x08
  | .load | .amo => 0x0A
  | .store => 0x0C

/-- Is an entry malformed at a level (R126)? -/
def pteBad (e level : Nat) : Bool :=
  bits e 9 3 != 0 || bits e 52 12 != 0 || (bit e 5 && level == 1) || (!bit e 5 && level == 4)
    || (bit e 5 && decide (level < 4) && bits e 12 (9 * (4 - level)) != 0)
    || (bit e 2 && !bit e 1) || (bit e 6 && !bit e 3) || (bit e 3 && bits e 7 2 != 0)

/-- Permissions of a leaf at a level (R127). -/
def leafAllows (e priv : Nat) (a : XAcc) : Bool :=
  (match a with
    | .fetch => bit e 3
    | .load => bit e 1
    | .store => bit e 2
    | .amo => bit e 1 && bit e 2)
  && (priv != 0 || bit e 4) && !(priv == 1 && a == .fetch && bit e 4)

/-- Physical address under a leaf. -/
def leafPa (e level va : Nat) : Nat :=
  let b := 12 + 9 * (4 - level)
  (bits e 12 40 <<< 12) / 2 ^ b * 2 ^ b + va % 2 ^ b

/-- A cached translation of a virtual address in a world (R128). -/
def Ctx.tlbFind (k : Ctx) (va : Nat) (secure : Bool) : Option TlbEnt :=
  k.tlb.find? (fun t => t.secure == secure && t.vpn == bits va 12 36 >>> (9 * (4 - t.level)))

/-- Translate and check an address (R125 to R127). -/
def Chip.translate (c : Chip) (x va : Nat) (a : XAcc) (secure : Bool) : Xl :=
  let k := c.ctxOf x
  let priv := c.cxPriv x
  if priv = 2 || !bit (k.csGet csPtbase secure) 0 then
    if va / 2 ^ 52 = 0 then .ok va 0 else .trap a.xlat
  else if bits va 47 17 != 0 && bits va 47 17 != 2 ^ 17 - 1 then .trap a.xlat
  else
    match k.tlbFind va secure with
    | some t =>
      if leafAllows t.leaf priv a then .ok (leafPa t.leaf t.level va) (bits t.leaf 7 2) else .trap a.perm
    | none =>
      match k.walk with
      | some w => if w.secure == secure && w.va / 4096 == va / 4096 && w.res == 1 then .trap a.xlat
                  else if w.secure == secure && w.va / 4096 == va / 4096 && w.res == 2 then .trap trWalkPoison
                  else .walk
      | none => .walk

/-- Start a walk for an address, if none for its page is under way. -/
def Chip.walkStart (c : Chip) (x va : Nat) (secure : Bool) : Chip :=
  match (c.ctxOf x).walk with
  | some w => if w.va / 4096 = va / 4096 && w.secure == secure then c
              else c.ctxMod x (fun k => { k with walk := some ⟨va, secure, 0, [], []⟩ })
  | none => (c.evCore x 0x0A 1).ctxMod x (fun k => { k with walk := some ⟨va, secure, 0, [], []⟩ })

/-! ### Reading a line for a context -/

/-- Lay the older stores of a context's queue over a line (R116, R58). -/
def Ctx.overlay (k : Ctx) (line seq : Nat) (ld : LD) : LD :=
  k.sq.foldl (fun l e => if e.seq < seq && e.amo == 0 && e.pa / 64 == line && !isDevice e.pa then
    { l with data := linePut l.data (e.pa % 64) e.size e.data } else l) ld

/-- Does an older AMO hold back an access to a line: one to the line, or one with AQ (R98, R118)? -/
def Ctx.amoBlocks (k : Ctx) (line seq : Nat) : Bool := k.sq.any (fun e => e.seq < seq && e.amo != 0 && (e.aq || e.pa / 64 == line))

/-- Are the L1s of context x in use (R164)? -/
def Chip.l1On (c : Chip) (x : Nat) : Bool := c.l2On (cluIx x)

/-- The L1D's copy, where it serves a context (R327); a hit makes it new, except for strings (R153). A parity error that the
lookup finds is a miss (R166). -/
def Chip.l1dRead (c : Chip) (x line tenant : Nat) (secure old : Bool) : Option LD × Chip :=
  let c := c.l1Check false (coreIx x) line
  match c.l1dFind (coreIx x) line with
  | some (w, l) =>
    if c.l1On x && l.serves tenant secure rightR then
      (some l.ld, if old then c else c.setL1d (SMap.set c.coh.l1d w { l with age := 0 }))
    else (none, c)
  | none => (none, c)

/-- A line that has come for a gathering operation: from its own list, from a finished access, or from the L1D. Where none is
on its way, an access starts. Device addresses give poison. -/
def Chip.gather (c : Chip) (x line yrw : Nat) (kind : AKind) (got : List (Nat × LD)) (ops : List Nat) (secure : Bool) :
    Option LD × List (Nat × LD) × List Nat × Chip :=
  if isDevice (64 * line) then (some LD.bad, got, ops, c)
  else
    match got.find? (fun p => p.1 == line) with
    | some p => (some p.2, got, ops, c)
    | none =>
      match ops.findSome? (fun id => match c.opOf id with
        | some o => if o.line = line then some o else none
        | none => none) with
      | some o =>
        match o.res with
        | some ld =>
          if o.stage == .ready then (some ld, (line, ld) :: got, ops.filter (· != o.id), c.opDrop o.id) else (none, got, ops, c)
        | none => (none, got, ops, c)
      | none =>
        match (if kind.queued then c.l1dRead x line (c.cxTenant x) secure kind.isOld else (none, c)) with
        | (some ld, c) => (some ld, (line, ld) :: got, ops, c)
        | (none, c) =>
          match c.opNew x kind line false (c.cxTenant x) secure yrw (c.cxPriv x == 2) with
          | (id, c) => (none, got, id :: ops, c)

/-- The walk of a table (R126): levels from `level`, the table's address. Answers the leaf with its level, a fault (level 0), or
poison (level 9); none while an entry is awaited. -/
def Chip.walkRun : Nat → Chip → Nat → Walk → Nat → Nat → Option (Nat × Nat) × Walk × Chip
  | 0, c, _, w, _, _ => (some (0, 0), w, c)
  | n + 1, c, x, w, level, table =>
    let a := table + 8 * bits w.va (12 + 9 * (4 - level)) 9
    if (c.ctxOf x).amoBlocks (a / 64) (c.ctxOf x).seq then (none, w, c)
    else
      match c.gather x (a / 64) 0 .walk w.got w.ops w.secure with
      | (none, got, ops, c) => (none, { w with got := got, ops := ops }, c)
      | (some ld, got, ops, c) =>
        let w := { w with got := got, ops := ops }
        let ld := (c.ctxOf x).overlay (a / 64) (c.ctxOf x).seq ld
        let e := lineGet ld.data (a % 64) 8
        if ld.poison then (some (9, 0), w, c)
        else if !bit e 0 || pteBad e level then (some (0, 0), w, c)
        else if bit e 5 then (some (level, e), w, c)
        else Chip.walkRun n c x w (level + 1) (bits e 12 40 <<< 12)

/-- A table walk goes on; at its end the translation is cached, or the fault is kept for the bundle that waits (R128). -/
def Chip.walkStep (c : Chip) (x : Nat) : Chip :=
  match (c.ctxOf x).walk with
  | none => c
  | some w =>
    if w.res != 0 then c
    else
      let root := bits ((c.ctxOf x).csGet csPtbase w.secure) 12 40 <<< 12
      match Chip.walkRun 4 c x w 1 root with
      | (none, w, c) => c.ctxMod x (fun k => { k with walk := some w })
      | (some (level, e), w, c) =>
        if level = 0 then c.ctxMod x (fun k => { k with walk := some { w with got := [], ops := [], res := 1 } })
        else if level = 9 then c.ctxMod x (fun k => { k with walk := some { w with got := [], ops := [], res := 2 } })
        else c.ctxMod x (fun k => { k with walk := none, tlb := ⟨bits w.va 12 36 >>> (9 * (4 - level)), level, e, w.secure⟩ :: k.tlb })

def execTableWalkDone (x : Fin 960) (s : State) : Host.Outcome State Fault Refusal := s.run (fun c => c.walkStep x.val)

/-! ### Results of loads -/

/-- The value that a load delivers from its line (R95). -/
def LoadJob.value (l : LoadJob) (d : Line) : Nat :=
  let v := lineGet d (l.pa % 64) l.size
  if l.sign && l.size < 8 then sext64 (8 * l.size) v else v

/-- A job's result is in: its pending result is ready (R66). -/
def Chip.jobReady (c : Chip) (x job v : Nat) (poison : Bool) : Chip :=
  (c.ctxMod x (fun k => { k with pend := k.pend.map (fun p => if p.job = job && job != 0 then
    { p with val := if poison then 0 else v, ready := true, poison := poison } else p) })).ctxSync x

/-- The sample that waits for a job takes where its data came from and whether it is poison (R426). -/
def Chip.sampleNote (c : Chip) (x job src : Nat) (poison : Bool) : Chip :=
  c.ctxMod x (fun k => match k.sample with
    | some s => if s.kind = 1 && s.id = job then
        { k with sample := some { s with words := (s.words.set 1 ((s.words[1]?).getD 0 + b2n poison <<< 31)).set 5 (src <<< 16) } } else k
    | none => k)

/-- A load ends with its line. -/
def Chip.loadEnd (c : Chip) (x : Nat) (l : LoadJob) (ld : LD) (src : Nat) : Chip :=
  let k := c.ctxOf x
  let ld := k.overlay (l.pa / 64) l.seq ld
  let c := (c.ctxMod x (fun k => { k with loads := k.loads.filter (fun j => j.job != l.job) })).opDrop l.op
  (c.sampleNote x l.job src ld.poison).jobReady x l.job (l.value ld.data) ld.poison

/-- Is an older load of the line still on its way? The younger then waits, so that no load of a context sees an older value than one before
it (R116). -/
def Ctx.loadBehind (k : Ctx) (l : LoadJob) : Bool := k.loads.any (fun o => !o.dev && o.seq < l.seq && o.pa / 64 == l.pa / 64)

/-- A load looks for its line: the L1D, or an access on its way (R69). -/
def Chip.loadOne (c : Chip) (x job : Nat) : Chip :=
  let k := c.ctxOf x
  match k.loads.find? (fun l => l.job == job) with
  | none => c
  | some l =>
    let line := l.pa / 64
    if l.dev || k.amoBlocks line l.seq || k.loadBehind l then c
    else
      match c.opOf l.op with
      | some o => if o.stage == .ready then c.loadEnd x l (o.res.getD LD.bad) o.src else c
      | none =>
        match c.l1dRead x line l.tenant l.secure false with
        | (some ld, c) => c.loadEnd x l ld 1
        | (none, c) =>
          let smp := (c.evCore x 0x04 1).smpTick x 3
          let c := smp.2
          let c := if smp.1 then c.ctxMod x (fun k => { k with sample := some (c.newSample x 1 l.job l.pc l.idx l.slot 3 (if l.size = 64 then 10 else 9) l.yrw l.va l.pa) }) else c
          match c.opNew x .load line false l.tenant l.secure l.yrw l.lvlH with
          | (id, c) => c.ctxMod x (fun k => { k with loads := k.loads.map (fun j => if j.job = job then { j with op := id } else j) })

/-- Loads without an access try again, oldest first. -/
def Chip.loadKick (c : Chip) (x : Nat) : Chip :=
  ((c.ctxOf x).loads.filter (fun l => !l.dev && (l.op = 0 || (c.opOf l.op).isNone))).foldl (fun c l => c.loadOne x l.job) c

/-- A load looks for its line; once it has ended, the loads that waited behind it do. -/
def Chip.loadTry (c : Chip) (x job : Nat) : Chip :=
  let c := c.loadOne x job
  if (c.ctxOf x).loads.any (fun l => l.job == job) then c else c.loadKick x

/-- DATA_RETURN: the line of a load's access has come. -/
def Chip.dataReturn (c : Chip) (op : Nat) : Chip :=
  match c.opOf op with
  | none => c
  | some o =>
    match (c.ctxOf o.ctx).loads.find? (fun l => l.op == op) with
    | some l => c.loadTry o.ctx l.job
    | none => c

def execDataReturn (op : Nat) (s : State) : Host.Outcome State Fault Refusal := s.run (fun c => c.dataReturn op)

/-! ### Device accesses (R96, R121) -/

/-- Tags of device requests lie above those of the L3 slices (R180): 2,560 upward. -/
def devTag (n : Nat) : Nat := 2560 + n % 1536

/-- A device request on its way to the hub of the address's package. -/
def Chip.devMsg (c : Chip) (x typ pa size tag tenant : Nat) (secure : Bool) (data : Option Nat) : Msg :=
  { Msg.mk0 clsReq typ (pa / 64) with
    tag := tag, agent := c.cxAgent x, tenant := tenant, secure := secure, master := c.cxAgent x,
    dstPkg := ((regionOf pa).pkg).getD c.pkg, dstDie := 12, mask := some (BitVec.ofNat 64 (byteMask (pa % 64) size)),
    data := data.map (fun v => linePut 0#512 (pa % 64) size v) }

/-- Is an earlier device access of the context to the same package still unsent or unanswered, or an AMO with AQ (R121)? -/
def Ctx.devBlocked (k : Ctx) (pa seq : Nat) : Bool :=
  k.sq.any (fun e => e.seq < seq && ((isDevice e.pa && (regionOf e.pa).pkg == (regionOf pa).pkg) || (e.amo != 0 && e.aq)))
    || k.loads.any (fun l => l.dev && l.seq < seq && (regionOf l.pa).pkg == (regionOf pa).pkg)

/-- Send the device loads whose turn has come, unless the crossing of the cluster holds them (R41). -/
def Chip.devPump (c : Chip) (x : Nat) : Chip :=
  if c.ratioBusy (cluIx x) then c
  else ((c.ctxOf x).loads.filter (fun l => l.dev && !l.sent)).foldl (fun c l =>
    if (c.ctxOf x).devBlocked l.pa l.seq then c
    else
      match c.cxCharge x l.tenant l.pa l.lvlH false with
      | (0, c) =>
        (c.ctxMod x (fun k => { k with loads := k.loads.map (fun j => if j.job = l.job then { j with sent := true } else j) })).sendUp (ctxDie x)
          (c.devMsg x tRdNc l.pa l.size (devTag l.job) l.tenant l.secure none)
      | (_, c) => c) c

/-- The answer to a device read (R139). -/
def Chip.devData (c : Chip) (m : Msg) : Chip :=
  let x := ctxOfAgent m.agent
  match (c.ctxOf x).loads.find? (fun l => l.dev && l.sent && devTag l.job == m.tag) with
  | some l =>
    let c := c.ctxMod x (fun k => { k with loads := k.loads.filter (fun j => j.job != l.job) })
    ((c.sampleNote x l.job 9 m.poison).jobReady x l.job (l.value (m.data.getD 0#512)) m.poison).devPump x
  | none => c

/-! ### The store queue (R33) -/

/-- An entry leaves the queue: stores that waited enter it, a context that waited for an entry may go on, loads behind an AMO try
again. -/
def Chip.sqLeave (c : Chip) (x seq : Nat) : Chip := (((c.ctxMod x (fun k => k.sqGone seq)).cxWake x).loadKick x).devPump x

/-- What an entry makes of the line: the new data, and an AMO's old value (R98). -/
def StoreEnt.apply (e : StoreEnt) (d : Line) : Line × Nat :=
  let o := e.pa % 64
  if e.amo = 0 then (linePut d o e.size e.data, 0)
  else
    let w := 8 * e.size
    let old := lineGet d o e.size
    match amoNew w (e.amo - 1) old (if e.amo = 8 then e.cmp else e.data) e.data with
    | some n => (linePut d o e.size n, sext64 w old)
    | none => (d, sext64 w old)

/-- The lookup of the cache that a store drains to: its L2, or the L3 with what the die's L2s hold where the L2 is off (R165 to R169). -/
def Chip.ownLook (c : Chip) (x : Nat) (e : StoreEnt) : Chip :=
  if c.l2On (cluIx x) then c.l2Check (cluIx x) (e.pa / 64) (some (evOf e.tenant e.secure))
  else if c.l3Busy (ctxDie x) (e.pa / 64) then c
  else (c.l3Check (ctxDie x) (e.pa / 64)).l3Gather (ctxDie x) (e.pa / 64)

/-- The cache that holds the line with ownership for a context's cluster: its L2, or the L3 where the L2 is off (R165). -/
def Chip.ownedLine (c : Chip) (x : Nat) (e : StoreEnt) : Option (Bool × Nat × CLine) :=
  let line := e.pa / 64
  let need := rightR + rightW
  if c.l2On (cluIx x) then
    match c.l2Find (cluIx x) line with
    | some (w, q) => if (q.st == .m || q.st == .e) && q.serves e.tenant e.secure need then some (true, w, q) else none
    | none => none
  else
    match c.l3Find (ctxDie x) line with
    | some (w, l) => if (l.st == .m || l.st == .e) && l.serves e.tenant e.secure need && !c.l3Busy (ctxDie x) line then some (false, w, l) else none
    | none => none

/-- Is a store one of the frame of the CALLM under way (R110)? -/
def Ctx.ofCallm (k : Ctx) (e : StoreEnt) : Bool := k.serial.any (fun s => s.kind == .callm && s.begun && decide (s.marks.headD 0 ≤ e.seq))

/-- A frame store of CALLM meets poison: it is not made, and CALLM will trap (R110). -/
def Chip.callmFails (c : Chip) (x : Nat) (e : StoreEnt) : Chip :=
  (c.ctxMod x (fun k => { k with serial := k.serial.map (fun (s : Serial) => { s with failed := s.failed ++ [e.pa] }) })).sqLeave x e.seq

/-- Perform an entry on the line that its cluster owns (R33, R98); a frame store of CALLM to a poisoned line is not made (R110). -/
def Chip.sqPerform (c : Chip) (x : Nat) (e : StoreEnt) (inL2 : Bool) (w : Nat) (q : CLine) : Chip :=
  let r := e.apply q.ld.data
  let line := e.pa / 64
  if q.ld.poison && (c.ctxOf x).ofCallm e then c.callmFails x e
  else
  let c :=
    if q.ld.poison && e.amo != 0 then c
    else if inL2 then c.setL2 (SMap.set c.coh.l2 w { q with ld := { q.ld with data := r.1 }, st := .m, age := e.kind.hitAge q.age })
    else
      let c := c.l2DropAll (ctxDie x) line true
      c.setL3 (SMap.set c.coh.l3 w { q with ld := { q.ld with data := r.1 }, st := .m, pres := 0, age := e.kind.hitAge q.age })
  let c := (c.l1Update x line { q.ld with data := r.1 }).patchOwn x line (fun d => (e.apply d).1)
  let c := if e.amo != 0 then (c.sampleNote x e.job 2 q.ld.poison).jobReady x e.job r.2 q.ld.poison else c
  c.sqLeave x e.seq

/-- May the i-th entry go to the L2: nothing older of its line, no AMO with AQ before it, an AMO after every older store, one
with RL after every older access (R33, R98, R116, R118)? -/
def Ctx.sqMay (k : Ctx) (e : StoreEnt) : Bool :=
  let older := k.sq.filter (fun o => o.seq < e.seq)
  !older.any (fun o => o.pa / 64 == e.pa / 64 || (o.amo != 0 && o.aq))
    && !k.loads.any (fun l => l.seq < e.seq && !l.dev && l.pa / 64 == e.pa / 64)
    && (e.amo == 0 || !older.any (fun o => o.amo == 0))
    && (!e.rl || (older.isEmpty && !k.loads.any (fun l => l.seq < e.seq)))

/-- An entry whose ownership the home refused: the write is discarded, an AMO gets poison (R139, R140); a frame store of a trap freezes
its context (R135), one of CALLM makes it trap where it met poison (R110), and a save write ends the entry into C3 (R403). The spec
names no effect of a store whose ownership request returned poison and no copy: it counts as a write that met a bus error (log 77). -/
def Chip.sqFails (c : Chip) (x : Nat) (e : StoreEnt) (o : LineOp) : Chip :=
  let c := c.opDrop o.id
  if e.kind == .save then ((c.coreMod (coreIx x) (fun k => { k with c3 := 2 })).sqLeave x e.seq)
  else if e.kind == .frame then
    c.freeze (whoInfo (c.cxWho x) fzFrame true 0 e.pa (c.cxAgent x))
  else if e.amo != 0 then ((c.sampleNote x e.job 7 true).jobReady x e.job 0 true).sqLeave x e.seq
  else if !o.bus && (c.ctxOf x).ofCallm e then c.callmFails x e
  else (c.busErr x e.pa).sqLeave x e.seq

/-- A device write leaves for its target (R121). A save line of C3 that lies in a device range is no device write: it meets a bus error, and the
entry into C3 fails (R403, R459). -/
def Chip.sqDevice (c : Chip) (x : Nat) (e : StoreEnt) : Chip :=
  if e.kind == .save then (c.coreMod (coreIx x) (fun k => { k with c3 := 2 })).sqLeave x e.seq
  else if c.ratioBusy (cluIx x) || e.sent || (c.ctxOf x).devBlocked e.pa e.seq || (e.rl && !(c.ctxOf x).sqMay e) then c
  else
    match c.cxCharge x e.tenant e.pa e.lvlH true with
    | (0, c) =>
      (c.ctxMod x (fun k => { k with sq := k.sq.map (fun s => if s.seq = e.seq then { s with sent := true } else s) })).sendUp (ctxDie x)
        (c.devMsg x tWrNc e.pa e.size (devTag e.seq) e.tenant e.secure (some e.data))
    | (_, c) => c

/-- STORE_QUEUE_DRAIN: the i-th entry of a context drains to the L2, asks for ownership, or leaves for its device. -/
def Chip.sqDrain (c : Chip) (x i : Nat) : Chip :=
  let k := c.ctxOf x
  match k.sq[i]? with
  | none => c
  | some e =>
    if isDevice e.pa then c.sqDevice x e
    else if !k.sqMay e then c
    else
      match c.opOf e.op with
      | some o => if o.stage == .ready then c.sqFails x e o else c
      | none =>
        let c := c.ownLook x e
        match c.ownedLine x e with
        | some (inL2, w, q) => c.sqPerform x e inL2 w q
        | none =>
          let whole := e.amo == 0 && e.size == 64
          match c.opNew x e.kind (e.pa / 64) whole e.tenant e.secure e.yrw e.lvlH with
          | (id, c) => c.ctxMod x (fun k => { k with sq := k.sq.map (fun s => if s.seq = e.seq then { s with op := id } else s) })

def execStoreQueueDrain (x : Fin 960) (i : Nat) (s : State) : Host.Outcome State Fault Refusal := s.run (fun c => c.sqDrain x.val i)

/-- The target has acknowledged a device write, or refused it (R140). -/
def Chip.devAck (c : Chip) (m : Msg) (bad : Bool) : Chip :=
  let x := ctxOfAgent m.agent
  match (c.ctxOf x).sq.find? (fun e => isDevice e.pa && e.sent && devTag e.seq == m.tag) with
  | some e => (if bad then c.busErr x e.pa else c).sqLeave x e.seq
  | none => c

/-! ### Answers at a die -/

def isDevTag (t : Nat) : Bool := decide (2560 ≤ t) && decide (t < 4096)

/-- Is an answer held at a crossing whose ratio changes: of the cluster that a device access came from, or of one that may hold the line
(R41)? -/
def Chip.ansHeld (c : Chip) (d : Nat) (m : Msg) : Bool :=
  if isDevTag m.tag then c.ratioBusy (cluIx (ctxOfAgent m.agent)) else c.ratioHeld d m.line

/-- DAT: at a die, the line or device data of a request, or a bus error of a device write; at the hub, an owner's data for
its transaction (R177, R186, R328). -/
def Chip.datStep (c : Chip) (d : Nat) : Chip :=
  if d < 12 then
    match c.takeDie d (fun m => m.cls == clsDat && !c.ansHeld d m) with
    | none => c
    | some (m, c) =>
      if isDevTag m.tag then
        if (c.ctxOf (ctxOfAgent m.agent)).loads.any (fun l => l.dev && l.sent && devTag l.job == m.tag) then c.devData m else c.devAck m true
      else c.datIn d m
  else
    match c.takeHub (fun m => m.cls == clsDat && !(c.ownLine m.line && c.coh.hubIn.any (fun r => r.cls == clsRsp && r.typ == tInEvict
        && r.dirty && r.data.isNone && datOf r m))) with
    | none => c
    | some (m, c) =>
      if c.fromFenced m then c.fencedDrop m
      else if c.ownLine m.line then c.txAnswer m (some m.ld) false
      else c.fanAnswer m

def execDat (d : Fin 13) (s : State) : Host.Outcome State Fault Refusal := s.run (fun c => c.datStep d.val)

/-- GRANT at a die (R187): ownership without data, or the acknowledgement of a write. -/
def Chip.grantStep (c : Chip) (d : Nat) : Chip :=
  match c.takeDie d (fun m => m.cls == clsRsp && m.typ == tGrant && !c.ansHeld d m) with
  | none => c
  | some (m, c) => if isDevTag m.tag then c.devAck m false else c.grantIn d m

def execGrant (d : Fin 12) (s : State) : Host.Outcome State Fault Refusal := s.run (fun c => c.grantStep d.val)

/-- VIOLATION_RETURN: at the hub of the master's package the master is frozen (R458); at its die the request that broke the
rule ends without a copy. -/
def Chip.violationReturn (c : Chip) (d : Nat) : Chip :=
  if d < 12 then
    match c.takeDie d (fun m => m.cls == clsRsp && m.typ == tViolation) with
    | none => c
    | some (m, c) =>
      if isDevTag m.tag then c
      else match c.reqOf d m.tag with
        | some r => ((c.opDrop r.op).reqDrop r).answerHeld d r.line
        | none => c
  else c.violAtHub

def execViolationReturn (d : Fin 13) (s : State) : Host.Outcome State Fault Refusal := s.runWhole (fun c => c.violationReturn d.val)

/-! ### Instruction fetch (R120) -/

/-- The bundle at the context's pc, where the context has fetched it or its L1I or a finished access holds it; else the fetch starts
(R69, R127). A context holds the one bundle that it fetched last, for the level and world that fetched it; nothing but the next fetch,
FENCE.ALL, FENCE.IO and SGATE takes it away (R120; log 71). -/
inductive FetchRes where
  | got (f : Fetched)
  | trap (cause : Nat)
  | wait
  deriving DecidableEq, Repr

/-- 32 bytes of a line at a physical address. -/
def bundleAt (d : Line) (pa : Nat) : Nat := lineGet d (pa % 64 / 32 * 32) 32

def Chip.fetchTry (c : Chip) (x : Nat) : FetchRes × Chip :=
  let k := c.ctxOf x
  match k.fetch.filter (fun f => f.va == k.pc && f.priv == c.cxPriv x && f.secure == c.cxSecure x) with
  | some f => (.got f, c)
  | none =>
    match c.translate x k.pc .fetch (c.cxSecure x) with
    | .trap t => (.trap t, c)
    | .walk => (.wait, c.walkStart x k.pc (c.cxSecure x))
    | .ok pa _ =>
      let line := pa / 64
      let start := fun (c : Chip) =>
        if (c.opOf k.fetchOp).isSome then c
        else
          match c.opNew x .fetch line false (c.cxTenant x) (c.cxSecure x) 0 (c.cxPriv x == 2) with
          | (id, c) => (c.evCore x 0x05 1).ctxMod x (fun k => { k with fetchOp := id })
      if isDevice pa then (.trap trMemAttr, c)
      else
        let c := c.l1Check true (coreIx x) line
        match (if c.l1On x then c.l1iFind (coreIx x) line else none) with
        | some (w, l) =>
          if l.serves (c.cxTenant x) (c.cxSecure x) rightX then
            let f : Fetched := ⟨k.pc, bundleAt l.ld.data pa, l.ld.poison, c.cxPriv x, c.cxSecure x⟩
            (.got f, (c.setL1i (SMap.set c.coh.l1i w { l with age := 0 })).ctxMod x (fun k => { k with fetch := some f }))
          else (.wait, start (if (c.opOf k.fetchOp).isSome then c else c.evCore x 0x11 1))
        | none => (.wait, start c)

/-- FETCH_RETURN: the line of a fetch has come; the bundle is the context's if its pc still names the line. -/
def Chip.fetchReturn (c : Chip) (op : Nat) : Chip :=
  match c.opOf op with
  | none => c
  | some o =>
    let x := o.ctx
    let k := c.ctxOf x
    if o.kind != .fetch || o.stage != .ready then c
    else if k.fetchOp != op then (if k.serial.any (fun s => s.ops.contains op) then c else c.opDrop op)
    else
      let ld := o.res.getD LD.bad
      let c := (c.opDrop op).ctxMod x (fun k => { k with fetchOp := 0, waitFetch := false })
      match c.translate x k.pc .fetch (c.cxSecure x) with
      | .ok pa _ =>
        if pa / 64 = o.line then (c.ctxMod x (fun k => { k with fetch := some ⟨k.pc, bundleAt ld.data pa, ld.poison, c.cxPriv x, c.cxSecure x⟩ })).cxWake x
        else c.cxWake x
      | _ => c.cxWake x

def execFetchReturn (op : Nat) (s : State) : Host.Outcome State Fault Refusal := s.run (fun c => c.fetchReturn op)

end Sys2Proof.Machine
end

