-- ==== Sys2Proof/Machine/Pcie.lean ====
section
/-! DEFINITION. Machine/Pcie.lean: the PCIe ports (R374 to R396): configuration, links, outbound accesses and their completions,
functions and their commands, MSI-X, ATS and page requests, and window banks. -/
namespace Sys2Proof.Machine

/-! ### Answers -/

/-- How a device access ends: done with a value, poisoned, a bus error, a violation, or later by a completion. -/
inductive DevRes where
  | ok (v : Nat)
  | poison
  | bus
  | viol
  | later
  deriving DecidableEq, Repr

/-- First byte and number of bytes of a device access's line (log 12). -/
def Msg.maskOff (m : Msg) : Nat :=
  let k := (m.mask.getD 0#64).toNat
  ((List.range 64).find? (bit k)).getD 0
def Msg.maskLen (m : Msg) : Nat := popc 64 (m.mask.getD 0#64).toNat

/-- The answer to a device access of a unit of this hub (R182). -/
def Chip.devOwn (c : Chip) (m : Msg) (r : DevRes) : Chip :=
  match r with
  | .ok v => c.farDone m.tag m.agent .ok ⟨linePut 0#512 m.maskOff m.maskLen v, false⟩
  | .poison => c.farDone m.tag m.agent .ok LD.bad
  | .bus => c.farDone m.tag m.agent .bus LD.bad
  | .viol | .later => c

/-- The answer to a device access that came as a message: its data, its acknowledgement, poison, or a bus error. -/
def Chip.devReply (c : Chip) (m : Msg) (r : DevRes) : Chip :=
  let c := match r with
    | .ok _ | .poison | .bus => c.latReq m
    | .viol | .later => c
  if agPkg m.agent = c.pkg && decide (12 ≤ agDie m.agent) then c.devOwn m r
  else match r with
  | .ok v =>
    if m.typ = tWrNc then
      c.sendMsg { Msg.mk0 clsRsp tGrant m.line with
        tag := m.tag, agent := m.agent, tenant := m.tenant, secure := m.secure, dstPkg := agPkg m.agent, dstDie := agDie m.agent }
    else c.sendMsg { poisonDat m with poison := false, data := some (linePut 0#512 m.maskOff m.maskLen v) }
  | .poison => c.sendMsg (poisonDat m)
  | .bus => c.sendMsg { poisonDat m with bus := true }
  | .viol | .later => c

/-- Largest payload of a TLP (R376). -/
def maxPayload : Nat := 512

/-- Completion TLPs for a function's request: status 0 Successful, each with at most the largest payload, or one of status 1, Unsupported
Request, with none (R376; log 97). -/
def Chip.complete (c : Chip) (port link rid tag size status data : Nat) (poison : Bool) (tenant : Nat) (secure : Bool) : Chip :=
  let size := if status = 0 then size else 0
  (List.range (max 1 ((size + maxPayload - 1) / maxPayload))).foldl (fun c i =>
    let n := min maxPayload (size - maxPayload * i)
    c.tlpSend ⟨port, link, 6, status, n, bits data (8 * maxPayload * i) (8 * n), tag, some rid, poison⟩ (hubAgent c.pkg 4 port) tenant secure) c

/-- A sideband access ends: DONE with its data, BUSY while it is held, or REFUSED and counted (R399). -/
def Chip.sbAnswer (c : Chip) (r : DevRes) : Chip :=
  match r with
  | .ok v => { c with sb := { c.sb with status := 0, data := v } }
  | .later => { c with sb := { c.sb with status := 1, data := 0 } }
  | .poison | .bus | .viol => ({ c with sb := { c.sb with status := 2, data := 0 } }).count Reg.SB_CNT.ERRORS 1

/-- Requests of a port in flight that were decoded under an epoch before the current one: those that wait, and reads of peers (R386). -/
def Chip.winOld (c : Chip) (port : Nat) : Nat :=
  (c.fns.inq.filter (fun x => match x with
    | .req r => r.port == port && r.epoch != c.get (Reg.PCI_WIN_SEL.EPOCH port) && r.pa.isSome
    | .cpl _ _ _ _ _ => false)).length
  + ((c.fns.out ++ c.fns.waiting).filter (fun r => match r.dest with
    | .peer p _ _ _ _ _ epoch => p == port && epoch != c.get (Reg.PCI_WIN_SEL.EPOCH port)
    | .dev _ | .agent _ _ | .queue _ _ _ _ | .sideband | .posted _ _ _ | .nobody => false)).length

/-- OLD_BUSY falls with the requests in flight; only a commit raises it. -/
def Chip.winSync (c : Chip) (port : Nat) : Chip :=
  if c.get (Reg.PCI_WIN_SEL.OLD_BUSY port) = 0 then c else c.put (Reg.PCI_WIN_SEL.OLD_BUSY port) (c.winOld port)

/-- A region check refuses an access that a port makes for a function: the function is frozen (R285, R326). -/
def Chip.fnRefused (c : Chip) (w : Who) (k i a : Nat) (write : Bool) : Chip :=
  c.violate w (whoInfo w fzRegion write i a (c.checkerAgent k (homeSlice a)))

/-- A device access ends, for whoever made it. -/
def Chip.outAnswer (c : Chip) (d : OutFor) (size : Nat) (r : DevRes) : Chip :=
  match d with
  | .dev m => c.devReply m r
  | .agent a addr =>
    match r with
    | .ok v => { c with replies := c.replies ++ [⟨a, addr, v, false, false⟩] }
    | .poison => { c with replies := c.replies ++ [⟨a, addr, 0, true, false⟩] }
    | .bus => { c with replies := c.replies ++ [⟨a, addr, 0, true, true⟩] }
    | .viol | .later => c
  | .peer port link rid tag tenant secure _ =>
    let say := fun (st v : Nat) (bad : Bool) => (c.complete port link rid tag size st v bad tenant secure).winSync port
    match r with
    | .ok v => say 0 v false
    | .poison | .bus => say 0 0 true
    | .viol => say 1 0 false
    | .later => c
  | .sideband => c.sbAnswer r
  | .queue _ _ _ _ | .posted _ _ _ | .nobody => c

/-! ### Outbound accesses (R377, R392, R396) -/

/-- All ones in `n` bytes. -/
def ones (n : Nat) : Nat := 2 ^ (8 * n) - 1

/-- Is a link a CXL link, up or down (R395, R396)? -/
def Chip.cxlLink (c : Chip) (port l : Nat) : Bool :=
  bits (c.linkBits port l) 0 3 == 3 || (port < 4 && c.on (Reg.PCI_CFG.CXL port) && c.on (Reg.PCI_CXL.EN port l))

/-- What an access to a link that is down ends with: all ones or a discarded write, counted; poison and bus errors on a CXL
link. -/
def Chip.downAccess (c : Chip) (port l size : Nat) (write : Bool) : DevRes × Chip :=
  if c.cxlLink port l then (if write then .bus else .poison, c)
  else (.ok (if write then 0 else ones size), c.count (Reg.PCI_ERR_CNT1.DOWN port) 1)

/-- An access of `size` bytes at an offset of this package's MMIO window. -/
def Chip.mmio (c : Chip) (off : Nat) (write : Bool) (size data : Nat) (d : OutFor) : DevRes × Chip :=
  let port := off / 2 ^ 42
  let part := 2 ^ 42 / c.nLinks port
  let l := off % 2 ^ 42 / part
  let o := off % part
  if c.nLinks port ≤ l then (.bus, c)
  else if o < part - 2 ^ 28 then
    if !c.linkUp port l then c.downAccess port l size write
    else
      let t : Tlp := ⟨port, l, b2n write, (c.get (Reg.PCI_OB.OFFSET port) + o) % 2 ^ 64, size, data, 0, none, false⟩
      (if write then .ok 0 else .later, c.outSend ⟨t, d⟩)
  else if c.on (Reg.PCI_CFG.PERS port) then (.bus, c)
  else if !c.linkUp port l then c.downAccess port l size write
  else
    let a := o % 2 ^ 28
    let kind := (if write then 4 else 2) + (if a / 2 ^ 20 = Config.secBus (4 * port + l) then 0 else 1)
    (.later, c.outSend ⟨⟨port, l, kind, a, size, data, 0, none, false⟩, d⟩)

/-- An outbound request ends: status 0 Successful, 1 Unsupported Request, 2 Completer Abort, 4 poisoned, 5 the link went down,
6 timeout (R377, R378, R392, R393). -/
def Chip.outDone (c : Chip) (r : OutReq) (status data : Nat) : Chip :=
  let t := r.tlp
  let write := t.kind != 0 && t.kind != 2 && t.kind != 3
  match r.dest with
  | .queue q idx dst n =>
    match SMap.get? c.hqe.queues q with
    | none => c
    | some x =>
      if !x.sqes.any (fun e => e.idx == idx && e.out != 0) then c
      else
        let c := c.sqeMod q idx (fun e => { e with out := e.out - 1 })
        if status = 0 then c.sqeStore q idx dst n data false
        else if status = 4 then (c.sqeFail q idx 2 false).sqeStore q idx dst n 0 true
        else c.sqeFail q idx 3 true
  | d =>
    c.outAnswer d t.size (
      if status = 0 then .ok (if write then 0 else data % 2 ^ (8 * t.size))
      else if status = 1 || status = 2 then .ok (if write then 0 else ones t.size)
      else if status = 4 then .poison
      else if status = 5 then (if c.cxlLink t.port t.link then (if write then .bus else .poison) else .ok (if write then 0 else ones t.size))
      else if write then .bus else .poison)

/-- The outbound request with a tag, and the package without it. -/
def Chip.outTake (c : Chip) (port link tag : Nat) : Option (OutReq × Chip) :=
  let is := fun (r : OutReq) => r.tlp.port == port && r.tlp.link == link && r.tlp.tag == tag
  (c.fns.out.find? is).map (fun r => (r, c.fnsMod (fun f => { f with out := f.out.filter (fun r => !is r) })))

/-- A completion arrives (R377, R394): a quarantined tag's is late, one that nothing waits for and a poisoned one are recorded (R376, log 97), and on Configuration Request Retry Status the port repeats a
configuration request until its timeout. -/
def Chip.completionIn (c : Chip) (port link tag status data : Nat) : Chip :=
  if c.fns.quar.contains (tagKey port link tag) then c.count (Reg.PCI_ERR_CNT0.LATE port) 1
  else
    match c.outTake port link tag with
    | none => c.aerSet port link 0 aerUnexpected
    | some (r, c1) =>
      let c1 := if status = 4 then c1.aerSet port link 0 aerPoisoned else c1
      if status = 3 && 2 ≤ r.tlp.kind then (let w := c.outWho r.dest; c.tlpSend r.tlp w.1 w.2.1 w.2.2)
      else if status = 3 then (c1.outDone r 1 0).outPump port link
      else (c1.outDone r status data).outPump port link

/-! ### Functions that end (R380) -/

/-- Results of PCI_FCMD. -/
def frDone : Nat := 1
def frBadState : Nat := 2
def frBadEntry : Nat := 3
def frBusy : Nat := 6

def Chip.fcmdReport (c : Chip) (port result st : Nat) : Chip :=
  c.puts [(Reg.PCI_FCMD_STATUS.BUSY port, 0), (Reg.PCI_FCMD_STATUS.RESULT port, result), (Reg.PCI_FCMD_STATUS.FSTATE port, st)]

/-- Is an outbound request a function's read of a peer? -/
def Chip.peerOf (c : Chip) (port n : Nat) (r : OutReq) : Bool :=
  match r.dest with
  | .peer p _ rid _ _ _ _ => p == port && c.fnIndex p rid == some n
  | .dev _ | .agent _ _ | .queue _ _ _ _ | .sideband | .posted _ _ _ | .nobody => false

/-- Is an inbound request of a function in flight: does one wait, or is its read of a peer under way? -/
def Chip.fnBusy (c : Chip) (port n : Nat) : Bool :=
  c.fns.inq.any (fun x => match x with
    | .req r => r.port == port && r.n == n
    | .cpl _ _ _ _ _ => false)
    || (c.fns.out ++ c.fns.waiting).any (c.peerOf port n)

/-- A function enters OFF. -/
def Chip.fnTurnOff (c : Chip) (port n : Nat) (w : List Nat) : Chip :=
  ((c.unfreezeKey (keyF port n) (feTenant w)).fnPut port n (qSet w 0 0 2 fnOff)).fnsMod (fun f =>
    { f with live := SMap.erase f.live (8192 * port + n) })

/-- A DISABLE that waits ends once nothing of its function is in flight. -/
def Chip.fcmdSettle (c : Chip) (port : Nat) : Chip :=
  match SMap.get? c.fns.fcmd port with
  | none => c
  | some n =>
    if c.fnBusy port n || (SMap.get? c.fns.flr (8192 * port + n)).isSome then c
    else
      match c.fnGet port n with
      | (none, c) => c
      | (some w, c) => ((c.fnTurnOff port n w).fnsMod (fun f => { f with fcmd := SMap.erase f.fcmd port })).fcmdReport port frDone fnOff

/-- Every DISABLE that waits tries to end. -/
def Chip.fcmdSettleAll (c : Chip) : Chip := (List.range 8).foldl (fun c port => c.fcmdSettle port) c

/-! ### Timeouts (R393, R394) -/

/-- A completion timeout (R393); what waits for the place that it leaves goes in its turn (R121, R376). -/
def Chip.ctoFire (c : Chip) (port link tag : Nat) : Chip :=
  match c.outTake port link tag with
  | none => c
  | some (r, c) =>
    let c := c.count (Reg.PCI_ERR_CNT0.TIMEOUTS port) 1
    let c := if c.on (Reg.PCI_CTO_LOG.VALID port) then c
      else c.puts [(Reg.PCI_CTO_LOG.TAG port, tag), (Reg.PCI_CTO_LOG.LINK port, link), (Reg.PCI_CTO_LOG.VALID port, 1)]
    let c := (c.fnsMod (fun f => { f with quar := f.quar ++ [tagKey port link tag] })).aerSet port link 0 aerTimeout
    ((c.outDone r 6 0).outPump port link).fcmdSettleAll

def execCompletionTimeout (port : Fin 8) (l : Fin 4) (tag : BitVec 14) (s : State) : Host.Outcome State Fault Refusal :=
  s.runWhole (fun c => c.ctoFire port.val l.val tag.toNat)

/-- 2 × T after its timeout a tag can be used again (R394). -/
def execTagQuarantineEnd (port : Fin 8) (l : Fin 4) (tag : BitVec 14) (s : State) : Host.Outcome State Fault Refusal :=
  s.run (fun c => (c.fnsMod (fun f => { f with quar := f.quar.filter (· != tagKey port.val l.val tag.toNat) })).outPump port.val l.val)

/-! ### Configuration and links (R374, R375, R392) -/

/-- A write of PCI_CFG: ignored while EN is 1, by a power-gated port where EN is 1 (R406), and where it breaks R375. -/
def Chip.pciCfg (c : Chip) (port v : Nat) : Chip :=
  if c.on (Reg.PCI_CFG.EN port) || (bit v 0 && c.gated (36 + port)) then c
  else
    let c1 := c.storeAt (0xCB000000 + port * 0x10000) v
    let pers := c1.on (Reg.PCI_CFG.PERS port)
    if (pers && c1.get (Reg.PCI_CFG.BIFUR port) != 0) || (c1.on (Reg.PCI_CFG.CXL port) && (pers || 4 ≤ port)) then c
    else if c1.on (Reg.PCI_CFG.EN port) then
      c1.put (Reg.PCI_LINK_STATUS.LINKS port) ((List.range (c1.nLinks port)).foldl (fun n l => n + 1 <<< (16 * l)) 0)
    else c1

/-- Most lanes of a link, log2 (R374). -/
def Chip.linkLanes (c : Chip) (port : Nat) : Nat := 4 - Nat.log2 (c.nLinks port)

/-- A link finishes training at a rate and width, both within its bounds (R374, R395). -/
def Chip.pciLinkUp (c : Chip) (port l : Nat) (cxl : Bool) (rate width : Nat) (flit : Bool) : Chip :=
  let ok := c.on (Reg.PCI_CFG.EN port) && l < c.nLinks port && !(c.on (Reg.PCI_CFG.PERS port) && bit c.pwr.perstLow port) && bits (c.linkBits port l) 0 3 == 1
    && decide (rate ≤ c.get (Reg.PCI_CFG.MAX_RATE port)) && decide (width ≤ c.linkLanes port) && (!cxl || c.on (Reg.PCI_CFG.CXL port))
  if !ok then c
  else c.putSub (Reg.PCI_LINK_STATUS.LINKS port) (16 * l) 16
    (2 + b2n cxl + rate <<< 3 + width <<< 6 + b2n (flit || rate == 5) <<< 10)

def execPcieLinkUp (port : Fin 8) (l : Fin 4) (cxl : Bool) (rate width : Fin 8) (flit : Bool) (s : State) :
    Host.Outcome State Fault Refusal :=
  s.run (fun c => c.pciLinkUp port.val l.val cxl rate.val width.val flit)

/-- A link leaves the active state: what is outstanding on it ends, and the port trains it again (R392, R396). -/
def Chip.pciLinkDown (c : Chip) (port l : Nat) : Chip :=
  if !c.linkUp port l then c
  else
    let cxl := c.cxlLink port l
    let mine := fun (r : OutReq) => r.tlp.port == port && r.tlp.link == l
    let gone := c.fns.out.filter mine ++ c.fns.waiting.filter mine
    let c := c.fnsMod (fun f => { f with out := f.out.filter (fun r => !mine r), waiting := f.waiting.filter (fun r => !mine r) })
    let c := gone.foldl (fun c r => (if cxl then c else c.count (Reg.PCI_ERR_CNT1.DOWN port) 1).outDone r 5 0) c
    ((c.putSub (Reg.PCI_LINK_STATUS.LINKS port) (16 * l) 16 1).aerSet port l 0 aerSurpriseDown).fcmdSettleAll

def execPcieLinkDown (port : Fin 8) (l : Fin 4) (s : State) : Host.Outcome State Fault Refusal :=
  s.runWhole (fun c => c.pciLinkDown port.val l.val)

/-! ### Commands of functions (R380, R382) -/

/-- A command that is not over. -/
def Chip.fcmdRun (c : Chip) (port n : Nat) : Chip :=
  (c.puts [(Reg.PCI_FCMD_STATUS.BUSY port, 1), (Reg.PCI_FCMD_STATUS.RESULT port, 0)]).fnsMod (fun f =>
    { f with fcmd := SMap.set f.fcmd port n })

/-- Is a field of an entry out of range, or a bit that is not listed nonzero (R379)? -/
def fnEntryBad (w : List Nat) : Bool :=
  bits (qw w 0) 27 37 != 0 || bits (qw w 1) 1 11 != 0 || bits (qw w 1) 52 12 != 0
    || !(decide (4 ≤ bits (qw w 2) 0 4) && decide (bits (qw w 2) 0 4 ≤ 12)) || bits (qw w 2) 4 2 != 0 || bits (qw w 2) 52 12 != 0
    || bits (qw w 3) 23 41 != 0

/-- PCI_FCMD is written (R380, R382). -/
def Chip.fcmd (c : Chip) (port op n : Nat) : Chip :=
  if op = 0 || 4 < op then c
  else if c.on (Reg.PCI_FCMD_STATUS.BUSY port) then c.put (Reg.PCI_FCMD_STATUS.RESULT port) frBusy
  else if 4096 < n then c.fcmdReport port frBadEntry 0
  else
    match c.fnGet port n with
    | (none, c) => c.fcmdReport port frBadEntry 0
    | (some w, c) =>
      let st := feState w
      if op = 4 then c.fcmdReport port frDone st
      else if op = 1 then
        if st != fnOff then c.fcmdReport port frBadState st
        else if fnEntryBad w then c.fcmdReport port frBadEntry st
        else if c.tntState (feTenant w) != tnActive then c.fcmdReport port frBadState st
        else ((c.fnPut port n (qSet w 0 0 2 fnRun)).fnsMod (fun f =>
          { f with live := SMap.set f.live (8192 * port + n) (feTenant w + 4096 * b2n (feWorld w)) })).fcmdReport port frDone fnRun
      else if st != fnRun && st != fnFrozen then c.fcmdReport port frBadState st
      else if op = 2 then (c.fcmdRun port n).fcmdSettle port
      else (c.fcmdRun port n).fnResetStart port n false

/-- Registers of an endpoint function take their reset values: MSI-X table, pending bits and mask, and its errors (R382). -/
def Chip.fnMsixReset (c : Chip) (port n : Nat) : Chip :=
  let k := 8192 * port + n
  c.fnsMod (fun f => { f with
    msix := f.msix.filter (fun p => p.1 / 64 != k)
    pba := f.pba.filter (fun p => p / 64 != k)
    fmask := f.fmask.filter (· != k)
    aer := SMap.erase f.aer k })

/-- A function reset ends (R382). -/
def Chip.fnResetDone (c : Chip) (port n : Nat) : Chip :=
  match SMap.get? c.fns.flr (8192 * port + n) with
  | none => c
  | some off =>
    let c := c.fnsMod (fun f => { f with flr := SMap.erase f.flr (8192 * port + n) })
    let c := if c.on (Reg.PCI_CFG.PERS port) then c.fnMsixReset port n else c
    match c.fnGet port n with
    | (none, c) => c
    | (some w, c) =>
      let st := if off then fnOff else fnRun
      let c := c.fnPut port n ((qSet w 0 0 2 st).take 4 ++ [0, 0, 0, 0])
      let c := if off then c.fnsMod (fun f => { f with live := SMap.erase f.live (8192 * port + n) }) else c
      let c := if bit (qw w 3) 22 then c.sendIrq (bits (qw w 3) 0 16) (bits (qw w 3) 16 6) else c
      if SMap.get? c.fns.fcmd port = some n then
        (c.fnsMod (fun f => { f with fcmd := SMap.erase f.fcmd port })).fcmdReport port frDone st
      else c

def execFunctionResetDone (port : Fin 8) (f : BitVec 13) (s : State) : Host.Outcome State Fault Refusal :=
  s.runWhole (fun c => c.fnResetDone port.val f.toNat)

/-! ### MSI-X (R389) -/

def msixKey (port n v : Nat) : Nat := (8192 * port + n) * 64 + v

/-- Send an unmasked pending vector's write, behind the posted writes of the port that wait, or keep it pending. -/
def Chip.msixTry (c : Chip) (port n v : Nat) : Chip :=
  let k := msixKey port n v
  let e := SMap.getD c.fns.msix k MsixEnt.init
  let live := SMap.getD c.fns.live (8192 * port + n) 0
  if !c.fns.pba.contains k || e.mask || c.fns.fmask.contains (8192 * port + n) then c
  else (c.fnsMod (fun f => { f with pba := f.pba.filter (· != k) })).postedSend
    ⟨⟨port, 0, 1, e.addr, 4, e.data, 0, some n, false⟩, .posted (hubAgent c.pkg 4 port) (live % 4096) (bit live 12)⟩

/-- Raise a vector of a function: sent, or its pending bit set. -/
def Chip.msixRaise (c : Chip) (port n v : Nat) : Chip :=
  let k := msixKey port n v
  (if c.fns.pba.contains k then c else c.fnsMod (fun f => { f with pba := f.pba ++ [k] })).msixTry port n v

/-- The oldest interrupt message to the port: under endpoint personality it raises its vector of the queue's FUNC, or of the
PF. -/
def Chip.msixMessage (c : Chip) (port : Nat) : Chip :=
  match c.irqs.find? (fun i => i.agent == hubAgent c.pkg 4 port) with
  | none => c
  | some i =>
    let c := { c with irqs := c.irqs.erase i }
    if c.on (Reg.PCI_CFG.PERS port) then c.msixRaise port i.func i.vec else c

def execMsixRaise (port : Fin 8) (s : State) : Host.Outcome State Fault Refusal := s.run (fun c => c.msixMessage port.val)

/-- A function's mask is set or cleared; clearing it sends what is pending. -/
def Chip.fnMask (c : Chip) (port n : Nat) (on : Bool) : Chip :=
  let k := 8192 * port + n
  if on then (if c.fns.fmask.contains k then c else c.fnsMod (fun f => { f with fmask := f.fmask ++ [k] }))
  else (List.range 64).foldl (fun c v => c.msixTry port n v) (c.fnsMod (fun f => { f with fmask := f.fmask.filter (· != k) }))

/-- A vector's entry changes; an unmasked pending vector is sent. -/
def Chip.msixSet (c : Chip) (port n v : Nat) (e : MsixEnt) : Chip :=
  (c.fnsMod (fun f => { f with msix := SMap.put f.msix MsixEnt.init (msixKey port n v) e })).msixTry port n v

def execMsixUnmask (port : Fin 8) (f : BitVec 13) (v : Option (Fin 64)) (s : State) : Host.Outcome State Fault Refusal :=
  s.run (fun c => match v with
    | some v => c.msixSet port.val f.toNat v.val { SMap.getD c.fns.msix (msixKey port.val f.toNat v.val) MsixEnt.init with mask := false }
    | none => c.fnMask port.val f.toNat false)

/-! ### ATS and page requests (R384) -/

/-- A walk of a function's tables in one piece, read with its tenant and world (R126; log 14): the leaf and its level. -/
def Chip.fnWalk : Nat → Chip → Nat → Nat → Nat → Who → Option (Nat × Nat) × Chip
  | 0, c, _, _, _, _ => (none, c)
  | n + 1, c, va, level, tab, w =>
    let a := tab + 8 * bits va (12 + 9 * (4 - level)) 9
    match c.anyReadB a 8 w with
    | (.ok, false, e, c) =>
      if !bit e 0 || pteBad e level then (none, c)
      else if bit e 5 then (some (e, level), c)
      else Chip.fnWalk n c va (level + 1) (bits e 12 40 <<< 12) w
    | (.region k i, _, _, c) => (none, c.fnRefused w k i a false)
    | (_, _, _, c) => (none, c)

/-- The answer to a translation request: the page and its R and W in bits 0 and 1, or nothing granted. A leaf of level H or S
only grants nothing at level U (R127). One that is refused is counted (R381). -/
def Chip.atsRequest (c : Chip) (port link rid tag va : Nat) : Chip :=
  let ur := fun (c : Chip) (tenant : Nat) (secure : Bool) => (c.count (Reg.PCI_ERR_CNT1.UR port) 1).complete port link rid tag 0 1 0 false tenant secure
  if c.on (Reg.PCI_CFG.PERS port) then ur c 0 false
  else
    match c.fnIndex port rid with
    | none => ur c 0 false
    | some n =>
      match c.fnGet port n with
      | (none, c) => ur c 0 false
      | (some w, c) =>
        if feState w != fnRun || !bit (qw w 1) 0 then ur c (feTenant w) (feWorld w)
        else
          let give := fun (c : Chip) (v : Nat) =>
            c.tlpSend ⟨port, link, 7, 0, 8, v, tag, some rid, false⟩ (hubAgent c.pkg 4 port) (feTenant w) (feWorld w)
          if bits va 47 17 != 0 && bits va 47 17 != 2 ^ 17 - 1 then give c 0
          else
            match Chip.fnWalk 4 c va 1 (bits (qw w 1) 12 40 <<< 12) (c.fnWho port rid w) with
            | (none, c) =>
              (match c.fnGet port n with
              | (some w', c) => if feState w' != fnRun then ur c (feTenant w) (feWorld w) else give c 0
              | (none, c) => give c 0)
            | (some (e, level), c) =>
              let b := 12 + 9 * (4 - level)
              let pa := (bits e 12 40 <<< 12) / 2 ^ b * 2 ^ b + va % 2 ^ b
              if bit e 4 && (bit e 1 || bit e 2) then give c (pa / 4096 * 4096 + bits e 1 2) else give c 0

def execAtsTranslationRequest (port : Fin 8) (l : Fin 4) (rid : BitVec 16) (tag : BitVec 14) (va : Word) (s : State) :
    Host.Outcome State Fault Refusal :=
  s.runWhole (fun c => c.atsRequest port.val l.val rid.toNat tag.toNat va.toNat)

/-- A write of a function's page request ring: does a region check refuse it, which freezes the function (R285, R326)? -/
def Chip.priPut (c : Chip) (who : Who) (a n v : Nat) : Bool × Chip :=
  match c.hubWrite a n v who .awaited with
  | (.region k i, c) => (true, c.fnRefused who k i a true)
  | (_, c) => (false, c)

/-- A page request joins its function's ring (R384); one of a function that does not run is discarded and counted (R380, R381). The spec names no consumer word: once the ring has wrapped, whether it is
full is a free value (log 1). A producer word that cannot be read leaves the request unanswered, and a write that fails is lost (log 90). -/
def Chip.priRequest (c : Chip) (port link rid page prgi rwl : Nat) : Chip :=
  let gone := fun (c : Chip) => c.count (Reg.PCI_ERR_CNT1.UR port) 1
  if c.on (Reg.PCI_CFG.PERS port) then gone c
  else
    match c.fnIndex port rid with
    | none => gone c
    | some n =>
      match c.fnGet port n with
      | (none, c) => gone c
      | (some w, c) =>
        if feState w != fnRun then gone c
        else
          let who := c.fnWho port rid w
          let base := bits (qw w 2) 6 46 * 64
          let size := 2 ^ bits (qw w 2) 0 4
          match c.hubReadB (base - 8) 8 who with
          | (.ok, false, prod, c) =>
            let (full, c) := if prod < size then (false, c) else let a := c.fresh; (a.1 % 2 == 1, a.2)
            if full then c.tlpSend ⟨port, link, 9, 2, 0, prgi, 0, some rid, false⟩ (hubAgent c.pkg 4 port) (feTenant w) (feWorld w)
            else
              match c.priPut who (base + 16 * (prod % size)) 16 (page * 4096 + (prgi + rwl <<< 10) <<< 64) with
              | (true, c) => gone c
              | (false, c) =>
                match c.priPut who (base - 8) 8 (prod + 1) with
                | (true, c) => gone c
                | (false, c) => if bit (qw w 3) 22 then c.sendIrq (bits (qw w 3) 0 16) (bits (qw w 3) 16 6) else c
          | (.region k i, _, _, c) => gone (c.fnRefused who k i (base - 8) false)
          | (_, _, _, c) => c

def execPriPageRequest (port : Fin 8) (l : Fin 4) (rid : BitVec 16) (page : BitVec 52) (prgi : BitVec 9) (rwl : BitVec 3) (s : State) :
    Host.Outcome State Fault Refusal :=
  s.runWhole (fun c => c.priRequest port.val l.val rid.toNat page.toNat prgi.toNat rwl.toNat)

/-- PCI_XCMD is written (R384): ATS_INV waits for the device's completion, a response does not. -/
def Chip.xcmd (c : Chip) (port v : Nat) : Chip :=
  let op := bits v 0 2
  if op = 0 || op = 3 then c
  else if c.on (Reg.PCI_XCMD_STATUS.BUSY port) then c.put (Reg.PCI_XCMD_STATUS.RESULT port) 3
  else
    let rid := c.fnRid port (bits v 14 13)
    let link := (c.busLink port (rid / 256)).getD 0
    if op = 1 then
      ((c.tlpSend ⟨port, link, 8, (if bit v 2 then ones 8 else bits v 27 37 * 4096), 0, b2n (bit v 2), 0, some rid, false⟩
        (hubAgent c.pkg 4 port) 0 false).puts [(Reg.PCI_XCMD_STATUS.BUSY port, 1), (Reg.PCI_XCMD_STATUS.RESULT port, 0)]).fnsMod
          (fun f => { f with xcmd := SMap.set f.xcmd port (bits v 14 13) })
    else
      (c.tlpSend ⟨port, link, 9, bits v 3 2, 0, bits v 5 9, 0, some rid, false⟩ (hubAgent c.pkg 4 port) 0 false).put
        (Reg.PCI_XCMD_STATUS.RESULT port) 1

/-- The device completes the invalidation, or it times out under R393. -/
def Chip.xcmdDone (c : Chip) (port : Nat) (ok : Bool) : Chip :=
  if !c.on (Reg.PCI_XCMD_STATUS.BUSY port) then c
  else (c.puts [(Reg.PCI_XCMD_STATUS.BUSY port, 0), (Reg.PCI_XCMD_STATUS.RESULT port, if ok then 1 else 2)]).fnsMod
    (fun f => { f with xcmd := SMap.erase f.xcmd port })

def execXcmdDone (port : Fin 8) (ok : Bool) (s : State) : Host.Outcome State Fault Refusal := s.run (fun c => c.xcmdDone port.val ok)

/-! ### Window banks (R386) -/

/-- The decoder changes to a bank. -/
def Chip.winCommit (c : Chip) (port bank : Nat) : Chip :=
  let c := c.puts [(Reg.PCI_WIN_SEL.SEL port, bank), (Reg.PCI_WIN_SEL.EPOCH port, c.get (Reg.PCI_WIN_SEL.EPOCH port) + 1)]
  c.put (Reg.PCI_WIN_SEL.OLD_BUSY port) (c.winOld port)

/-- A write of PCI_WIN_SEL that is not held. -/
def Chip.winSel (c : Chip) (port v : Nat) : Chip :=
  let b := bits v 0 1
  if b = c.get (Reg.PCI_WIN_SEL.SEL port) then c else c.winCommit port b

/-- Is an offset PCI_WIN_SEL of a port? -/
def isWinSel (off : Nat) : Bool := decide (0xCB000000 ≤ off) && decide (off < 0xCB080000) && off % 0x10000 == 0x68

/-- Is a commit held at its target while requests of the previous epoch are in flight? -/
def Chip.selParked (c : Chip) (off v : Nat) : Bool :=
  isWinSel off &&
    (let port := (off - 0xCB000000) / 0x10000
     bits v 0 1 != c.get (Reg.PCI_WIN_SEL.SEL port) && c.get (Reg.PCI_WIN_SEL.OLD_BUSY port) != 0)

/-- Does a commit wait? -/
def Chip.selWaits (c : Chip) : Bool := c.stage.held.any (fun h => isWinSel h.off)

/-- Is a CSR offset a word of the active bank of a port's windows? -/
def Chip.winActive (c : Chip) (off : Nat) : Bool :=
  let o := off - 0xCB000000
  let port := o / 0x10000
  let r := o % 0x10000
  decide (0xCB000000 ≤ off) && decide (port < 8) && decide (0x400 ≤ r) && decide (r < 0x800)
    && (r - 0x400) / 0x200 == c.get (Reg.PCI_WIN_SEL.SEL port)

end Sys2Proof.Machine
end

