-- ==== Sys2Proof/Machine/Sec.lean ====
section
/-! DEFINITION. Machine/Sec.lean: what writes to the SEC_ and OTP_ blocks do (R329, R333, R337 to R341), and the
watchdog's and OTP's own events. -/
namespace Sys2Proof.Machine

/-! ### Regions -/

/-- Write word `word` of region i of checker k; region 31 ignores writes to EN (R329; spec/13, Registers). -/
def Chip.rgnWrite1 (c : Chip) (k i word v : Nat) : Chip :=
  let c := c.storeAt (0xC9010000 + 0x200 * k + 16 * i + 8 * word) v
  if i = 31 then c.put (Reg.SEC_RGN.EN k 31) 1 else c

/-- Checker number 31 is the broadcast alias of checkers 0 to 23; 27 to 30 are reserved (spec/13, Registers). -/
def Chip.rgnWrite (c : Chip) (k i word v : Nat) : Chip :=
  if k = 31 then (List.range 24).foldl (fun c k => c.rgnWrite1 k i word v) c
  else if k < 27 then c.rgnWrite1 k i word v
  else c

/-! ### Debug enables -/

/-- A write of SEC_DBG: a bit that DBG_CAP disables reads 0 and ignores writes (R333). -/
def Chip.secDbgWrite (c : Chip) (v : Nat) : Chip :=
  let cap := bits (c.otpField 15) 0 4
  c.storeAt 0xC9000008 (v - (v &&& cap))

/-- Is invasive or non-invasive debug of a world effective (R333)? -/
def Chip.invasive (c : Chip) (secure : Bool) : Bool :=
  c.bitOf Reg.SEC_DBG.ENABLES (if secure then 2 else 0) && !bit (c.otpField 15) (if secure then 2 else 0)
def Chip.nonInvasive (c : Chip) (secure : Bool) : Bool :=
  c.bitOf Reg.SEC_DBG.ENABLES (if secure then 3 else 1) && !bit (c.otpField 15) (if secure then 3 else 1)

/-! ### Secure watchdog -/

/-- SEC_WDOG_CTRL is written: EN starts the count from PERIOD and locks the register (R337). -/
def Chip.wdogCtrl (c : Chip) (v : Nat) : Chip :=
  let was := c.on Reg.SEC_WDOG_CTRL.EN
  let c := c.storeAt 0xC9000020 v
  if c.on Reg.SEC_WDOG_CTRL.EN && !was then
    ({ c with sec := { c.sec with wdogMark := 0 } }).puts
      [(Reg.SEC_WDOG_STATUS.REMAIN, c.get Reg.SEC_WDOG_CTRL.PERIOD), (Reg.SEC_WDOG_STATUS.STAGE, 0)]
  else c

/-- A kick reloads PERIOD and clears STAGE, unless the grace period has expired in the same µs (R337, R338). -/
def Chip.wdogKick (c : Chip) (key : Nat) : Chip :=
  let expired := c.on Reg.SEC_WDOG_CTRL.EN && c.on Reg.SEC_WDOG_STATUS.STAGE && c.get Reg.SEC_WDOG_STATUS.REMAIN == 0
  if key % 2 ^ 16 = 0x5EC1 && !expired then
    c.puts [(Reg.SEC_WDOG_STATUS.REMAIN, c.get Reg.SEC_WDOG_CTRL.PERIOD), (Reg.SEC_WDOG_STATUS.STAGE, 0)]
  else c

/-- REMAIN reached 0: the grace stage begins, or the watchdog fires and waits for the audit drain (R337, R338). -/
def Chip.wdogExpiry (c : Chip) : Chip :=
  if c.on Reg.SEC_WDOG_CTRL.EN && c.get Reg.SEC_WDOG_STATUS.REMAIN == 0 && c.on Reg.TIME_STATUS.VALID then
    if c.on Reg.SEC_WDOG_STATUS.STAGE then
      ({ c with sec := { c.sec with wdogFiring := true } }).put Reg.SEC_WDOG_STATUS.FIRED 1
    else
      (c.puts [(Reg.SEC_WDOG_STATUS.STAGE, 1), (Reg.SEC_WDOG_STATUS.REMAIN, c.get Reg.SEC_WDOG_CTRL.GRACE)]).irqReg
        Reg.SEC_WDOG_IRQ.AGENT Reg.SEC_WDOG_IRQ.VEC Reg.SEC_WDOG_IRQ.EN
  else c

def execWdogExpiry (s : State) : Host.Outcome State Fault Refusal := s.run Chip.wdogExpiry

/-! ### OTP programming -/

/-- Codes of OTP_STATUS.RESULT. -/
def otpDone : Nat := 1
def otpFinal : Nat := 2
def otpVerifyFail : Nat := 3
def otpDenied : Nat := 4
def otpBusy : Nat := 5

/-- A write of 1 to OTP_CMD.PROG (R341). -/
def Chip.otpProg (c : Chip) (w : Who) (f : Nat) : Chip :=
  if c.on Reg.OTP_STATUS.BUSY then c.put Reg.OTP_STATUS.RESULT otpBusy
  else if !w.secure || w.tenant != 0 then c.put Reg.OTP_STATUS.RESULT otpDenied
  else
    match (List.range 4).find? (fun g => c.otpWord (4 * f + g) == 0) with
    | none => c.put Reg.OTP_STATUS.RESULT otpFinal
    | some g =>
      let v := c.get Reg.OTP_DATA.VALUE
      ({ c with sec := { c.sec with otpJob := some (4 * f + g, v + otpCrc v <<< 56, g) } }).puts
        [(Reg.OTP_STATUS.BUSY, 1), (Reg.OTP_STATUS.RESULT, 0)]

/-- The PROG ends and the word is read back: `got` is what the array then holds (R341). -/
def Chip.otpProgDone (c : Chip) (got : Nat) : Chip :=
  match c.sec.otpJob with
  | none => c
  | some (w, v, g) =>
    let got := if got % 2 ^ 64 = 0 then v else got % 2 ^ 64
    ({ c with otp := SMap.set c.otp w got, sec := { c.sec with otpJob := none } }).puts
      [(Reg.OTP_STATUS.BUSY, 0), (Reg.OTP_STATUS.GEN, g),
       (Reg.OTP_STATUS.RESULT, if got = v then otpDone else otpVerifyFail)]

/-- Power goes, or a reset comes, during a PROG: the word is valid with the new value, or programmed and invalid (R341). Which, and what
an invalid one holds, is a free value. -/
def Chip.otpAbort (c : Chip) : Chip :=
  match c.sec.otpJob with
  | none => c
  | some (w, v, _) =>
    let f := c.fresh
    let x := f.1 % 2 ^ 64
    let got := if x = 0 || bits x 56 8 = otpCrc (bits x 0 56) then v else x
    { f.2 with otp := SMap.set f.2.otp w got, sec := { f.2.sec with otpJob := none } }

def execOtpProgDone (got : Word) (s : State) : Host.Outcome State Fault Refusal :=
  s.run (fun c => c.otpProgDone got.toNat)

end Sys2Proof.Machine
end

