-- ==== Sys2Proof/Machine/Trap.lean ====
section
/-! DEFINITION. Machine/Trap.lean: write points (R60, R61), trap entry with its drain record and frame (R76 to R78, R132 to R136),
and the return (R79, R137). -/
namespace Sys2Proof.Machine

/-! ### Write points -/

/-- The order of R61: write point, slot, order of issue. -/
def Pend.before (a b : Pend) : Bool :=
  a.wp < b.wp || (a.wp == b.wp && (a.slot < b.slot || (a.slot == b.slot && a.seq < b.seq)))

def insPend (p : Pend) : List Pend → List Pend
  | [] => [p]
  | q :: l => if p.before q then p :: q :: l else q :: insPend p l

def sortPend (l : List Pend) : List Pend := l.foldr insPend []

/-- Codes of a control transfer (R78), and of floating-point flags whose register result is discarded (R87, R101). -/
def cdTransfer : Nat := 0x70
def cdFlags : Nat := 0x71

/-- Raise floating-point flags (R101). -/
def Chip.fpFlags (c : Chip) (x fl : Nat) : Chip :=
  if fl = 0 then c else c.ctxMod x (fun k => k.csPut csFpFlags false (k.csGet csFpFlags false ||| fl))

/-- A result reaches its write point (R60, R101). -/
def Chip.applyPend (c : Chip) (x : Nat) (p : Pend) : Chip :=
  let c :=
    if p.code < 0x40 then c.ctxMod x (fun k => k.gw p.code p.val)
    else if p.code < 0x60 then c.ctxMod x (fun k => k.vw (p.code - 0x40) p.val)
    else if p.code < 0x70 then c.ctxMod x (fun k => k.pw (p.code - 0x60) p.val)
    else if p.code = cdTransfer then c.ctxMod x (fun k => { k with pc := p.val })
    else if 0x800 ≤ p.code then c.csApply x (p.code - 0x800) p.val
    else c
  c.fpFlags x p.flags

def Chip.applyAll (c : Chip) (x : Nat) (l : List Pend) : Chip := (sortPend l).foldl (fun c p => c.applyPend x p) c

/-- Results whose write point the next bundle reaches. -/
def Ctx.due (k : Ctx) : List Pend := k.pend.filter (fun p => p.wp ≤ k.idx)

/-- Does a list hold an audited CSWR that finds no room for its record (R343, R346)? -/
def Chip.audBlocked (c : Chip) (l : List Pend) : Bool :=
  l.any (fun p => p.code == 0x800 + csTenant || p.code == 0x800 + csIrqWorld) && decide (audHold ≤ c.aud.ring.length)

/-- Drop line accesses by number. -/
def Chip.dropIds (c : Chip) (l : List Nat) : Chip := l.foldl (fun c id => c.opDrop id) c

/-- What a context was fetching, walking or gathering is dropped; a bundle that it has fetched stays (R120). -/
def Chip.dropFront (c : Chip) (x : Nat) : Chip :=
  let k := c.ctxOf x
  ((c.dropIds (k.fetchOp :: ((k.walk.map (·.ops)).getD [] ++ (k.serial.map (·.ops)).getD [])))).ctxMod x (fun k =>
    { k with fetchOp := 0, walk := none, serial := none, waitFetch := false })

/-! ### Traps -/

/-- A trap of context x: it waits for its drain (R77). -/
def Chip.raise (c : Chip) (x cause tval info word : Nat) : Chip :=
  (c.dropFront x).ctxMod x (fun k => { k with trap := some ⟨cause, tval, info, word⟩ })

/-- INFO and TVAL of a DATA_POISON trap (R136, R139). -/
def poisonInfo (l : List Pend) : Nat × Nat :=
  let b := l.filter (·.poison)
  ((b.head?.map (·.va)).getD 0, (b.head?.map (·.code)).getD 0 + b.length <<< 12)

def Chip.raisePoison (c : Chip) (x : Nat) (l : List Pend) : Chip :=
  let i := poisonInfo (sortPend l)
  c.raise x trDataPoison i.1 i.2 0

/-- A register's value as a drain record keeps it: cs_* registers whole (R77, R136). -/
def Chip.regOf (c : Chip) (x code : Nat) : Nat :=
  let k := c.ctxOf x
  if code < 0x40 then k.gr code
  else if code < 0x60 then k.vr (code - 0x40)
  else if code < 0x70 then k.pr (code - 0x60)
  else
    let n := code - 0x800
    if n = csStatus then c.statusOf x
    else if n = csIrqPend then k.irqs
    else if n = csTenant then c.cxTenant x
    else c.csr x n

/-- Drain mask bit of a code (R77). -/
def maskBit (code : Nat) : Nat := if code < 0x60 then code else if code < 0x70 then 96 + (code - 0x60) else if code = cdTransfer then 112 else 113

/-- Codes without repeats, in order. -/
def nubNat : List Nat → List Nat
  | [] => []
  | a :: l => a :: (nubNat l).filter (· != a)

/-- Frame contents as pieces (offset, bytes, value) (R136). -/
def framePieces (cause epc tidx tval status rep rs re info : Nat) (ents : List Pend) (prev : List (Nat × Nat)) : List (Nat × Nat × Nat) :=
  let mask := (nubNat (ents.map (fun p => maskBit p.code))).foldl (fun m b => m + 2 ^ b) 0
  let cs := prev.filter (fun q => 0x800 ≤ q.1)
  [(0x000, 8, cause), (0x008, 8, epc), (0x010, 8, tidx), (0x018, 8, tval), (0x020, 8, status), (0x028, 8, rep), (0x030, 8, rs),
   (0x038, 8, re), (0x040, 8, bits mask 0 64), (0x048, 8, bits mask 64 64), (0x050, 8, ents.length + cs.length <<< 8), (0x058, 8, info),
   (0x060, 8, 0), (0x068, 8, 0), (0x070, 8, 0), (0x078, 8, 0)]
  ++ prev.filterMap (fun q =>
      if q.1 < 0x40 then some (0x080 + 8 * q.1, 8, q.2)
      else if q.1 < 0x60 then some (0x300 + 64 * (q.1 - 0x40), 64, q.2)
      else if q.1 < 0x70 then some (0x280 + 8 * (q.1 - 0x60), 8, q.2)
      else none)
  ++ cs.zipIdx.flatMap (fun q => [(0xB00 + 16 * q.2, 8, q.1.1 - 0x800), (0xB08 + 16 * q.2, 8, q.1.2)])
  ++ ents.zipIdx.flatMap (fun q =>
      (0xE00 + 72 * q.2, 8, q.1.code + (q.1.wp - tidx) <<< 12 + q.1.slot <<< 17 + b2n q.1.poison <<< 20)
        :: (List.range 8).map (fun i => (0xE08 + 72 * q.2 + 8 * i, 8, bits q.1.val (64 * i) 64)))

/-- A store of a context enters its queue, or waits for an entry (R33). -/
def Chip.pushStore (c : Chip) (x pa size data : Nat) (kind : AKind) (yrw : Nat) : Chip :=
  let t := c.cxTenant x
  let s := c.cxSecure x
  let h := c.cxPriv x == 2
  c.ctxMod x (fun k =>
    let e : StoreEnt := ⟨k.seq, pa, size, data, 0, 0, false, false, 0, kind, t, s, yrw, h, 0, false⟩
    ({ k with seq := k.seq + 1, stWait := k.stWait ++ [e] }).sqRefill)

/-- The code under which the bits stand that a drain set in cs_fp_flags. -/
def cdRaised : Nat := 0x800 + csFpFlags

/-- The flags of what drains into the frame at a base, for its return, and the bits of cs_fp_flags that the drain set (R79; log 82). -/
def Ctx.drainAt (k : Ctx) (base : Nat) (ents : List Pend) (raised : Nat) : List DrainFlags :=
  k.drained.filter (fun d => d.base != base)
    ++ (ents.filter (fun p => p.flags != 0)).map (fun p => ⟨base, p.code, p.wp, p.slot, p.flags⟩)
    ++ (if raised = 0 then [] else [⟨base, cdRaised, 0, 0, raised⟩])

/-- The flags of the entries of one code, write point and slot that a return from the frame at a base re-arms. -/
def Ctx.flagsAt (k : Ctx) (base code wp slot : Nat) : Nat :=
  (k.drained.filter (fun d => d.base == base && d.code == code && d.wp == wp && d.slot == slot)).foldl (fun f d => f ||| d.flags) 0

/-- Flags of results that no entry of the frame at a base names, which its return re-arms at their write points. -/
def Ctx.flagsOnly (k : Ctx) (base tidx : Nat) : List Pend :=
  (k.drained.filter (fun d => d.base == base && d.code == cdFlags && decide (tidx < d.wp))).zipIdx.map (fun d =>
    { code := cdFlags, wp := d.1.wp, slot := d.1.slot, seq := d.2, val := 0, ready := true, poison := false, job := 0, va := 0, flags := d.1.flags })

/-- TRAP_ENTRY (R135): once every pending result is ready and every load and AMO has returned (R77), the results drain and the handler
starts. A result due at the trap point of an interrupt that turns out poisoned makes it a DATA_POISON trap (R139). -/
def Chip.trapEntry (c : Chip) (x : Nat) : Chip :=
  let k := c.ctxOf x
  match k.trap with
  | none => c
  | some t =>
    if c.cxState x != cxRunning || !k.pend.all (·.ready) || k.misses != 0 || c.audBlocked k.pend then c
    else
      let due := sortPend k.due
      let c := c.applyAll x due
      let t : TrapReq := if 0x40 ≤ t.cause && due.any (·.poison) then ⟨trDataPoison, (poisonInfo due).1, (poisonInfo due).2, 0⟩ else t
      let k := c.ctxOf x
      let ents := (sortPend (k.pend.filter (fun p => k.idx < p.wp)))
      let regs := ents.filter (fun p => p.code != cdTransfer && p.code != cdFlags)
      let prev := (nubNat (regs.map (·.code))).map (fun n => (n, c.regOf x n))
      let status := c.statusOf x
      let flags := c.csr x csFpFlags
      let c := (regs ++ ents.filter (fun p => p.code == cdFlags)).foldl (fun c p => c.applyPend x p) c
      let want :=
        if t.cause = trDebug || c.cxPriv x = 2 then 2
        else if 0x40 ≤ t.cause then c.irqLevel x (t.cause - 0x40)
        else if bit (c.csr x csDeleg) t.cause then 1 else 2
      let esc := want == 1 && c.stBit x stBusyS
      let lvl := if esc then 2 else want
      if lvl = 2 && c.stBit x stBusyH then c.freezeCx x fzDouble (c.cxAgent x)
      else
        let base := c.csr x (if lvl = 1 then csTfS else csTfH)
        if isDevice base then c.freeze (whoInfo (c.cxWho x) fzFrame true 0 base (c.cxAgent x))
        else
          let word := t.cause + b2n esc <<< 8 + t.word
          let k := c.ctxOf x
          let pieces := framePieces word k.pc k.idx t.tval status (k.csGet csRepCount false) (k.csGet csRepStart false) (k.csGet csRepEnd false)
            t.info (ents.filter (fun p => p.code != cdFlags)) prev
          let c := pieces.foldl (fun c (q : Nat × Nat × Nat) => c.pushStore x (base + q.1) q.2.1 q.2.2 .frame 0) c
          let c := c.evCore x 0x0B 1
          let c := if 0x40 ≤ t.cause then c.evCore x 0x0C 1 else c
          let c := c.ctxMod x (fun k => (({ k with trap := none, pend := [], applied := 0, drained := k.drainAt base ents (k.csGet csFpFlags false - (k.csGet csFpFlags false &&& flags)) }).csPut csRepCount false 0))
          let c := (c.stSet x (if lvl = 1 then stBusyS else stBusyH) true).stSet x (if lvl = 1 then stSie else stHie) false
          let c := c.put (fPriv x) lvl
          let vec := c.csr x (if lvl = 1 then csVecS else csVecH)
          let poison := t.cause != trDataPoison && due.any (·.poison)
          let c := (c.ctxMod x (fun k => { k with pc := vec })).ctxSync x
          if poison then c.raisePoison x due else c

def execTrapEntry (x : Fin 960) (s : State) : Host.Outcome State Fault Refusal := s.run (fun c => c.trapEntry x.val)

/-! ### Reading memory for a serialising operation -/

/-- Give back what a serialising operation has gathered. -/
def Chip.serialPut (c : Chip) (x : Nat) (got : List (Nat × LD)) (ops : List Nat) : Chip :=
  c.ctxMod x (fun k => { k with serial := k.serial.map (fun (s : Serial) => { s with got := got, ops := ops }) })

/-- Gather lines, each with its Yarrow class, for the context's serialising operation: by line, once all are there. -/
def Chip.serialLines (c : Chip) (x : Nat) (kind : AKind) (secure : Bool) (lines : List (Nat × Nat)) : Option (List (Nat × LD)) × Chip :=
  let r := lines.foldl (fun (a : Bool × List (Nat × LD) × Chip) q =>
    let line := q.1
    match (a.2.2.ctxOf x).serial with
    | none => (false, a.2)
    | some s =>
      if (a.2.2.ctxOf x).amoBlocks line (a.2.2.ctxOf x).seq then (false, a.2)
      else
        match a.2.2.gather x line q.2 kind s.got s.ops secure with
        | (none, got, ops, c) => (false, a.2.1, c.serialPut x got ops)
        | (some ld, got, ops, c) =>
          let c := c.serialPut x got ops
          (a.1, a.2.1 ++ [(line, (c.ctxOf x).overlay line (c.ctxOf x).seq ld)], c)) (true, [], c)
  if r.1 then (some r.2.1, r.2.2) else (none, r.2.2)

/-- Lines of `n` bytes at an address. -/
def linesFrom (pa n : Nat) : List Nat := if n = 0 then [] else (List.range ((pa + n - 1) / 64 - pa / 64 + 1)).map (pa / 64 + ·)

/-- `n` bytes at an address out of gathered lines: value, and whether a line is poisoned. -/
def gotBytes (got : List (Nat × LD)) (pa n : Nat) : Nat × Bool :=
  let ls := linesFrom pa n
  let ld := fun (l : Nat) => ((got.find? (fun p => p.1 == l)).map (·.2)).getD LD.bad
  let v := ls.zipIdx.foldl (fun (v : Nat) q => v + (ld q.1).data.toNat <<< (512 * q.2)) 0
  (bits v (8 * (pa % 64)) (8 * n), ls.any (fun l => (ld l).poison))

/-! ### Return (R79, R137) -/

/-- Is a code one that an entry may hold (R78, R79)? -/
def codeListed (n : Nat) : Bool := n ≤ 0x70 || (0x800 ≤ n && n < 0x1000)

/-- Read the frame at the current level's base; none while lines are awaited. -/
def Chip.frameRead (c : Chip) (x base : Nat) (parts : List (Nat × Nat)) : Option (List (Nat × Bool)) × Chip :=
  let ls := nubNat (parts.flatMap (fun p => linesFrom (base + p.1) p.2))
  match c.serialLines x .load (c.cxSecure x) (ls.map (fun l => (l, 0))) with
  | (none, c) => (none, c)
  | (some got, c) => (some (parts.map (fun p => gotBytes got (base + p.1) p.2)), c)

/-- The code of a drain mask bit. -/
def maskCode (b : Nat) : Nat := if b < 64 then b else if b < 96 then 0x40 + (b - 64) else 0x60 + (b - 96)

/-- The second half of ERET: every part of the frame at `base` is there. The frame keeps no address of a poisoned entry: the DATA_POISON
trap that it raises at its write point has TVAL 0 (log 72); nor does it keep an entry's floating-point flags, which the context keeps
beside it (log 82). -/
def Chip.eretFinish (c : Chip) (x base : Nat) (hd : List Nat) (regs : List (Nat × Nat)) (cs : List (Nat × Nat)) (ents : List (Nat × Nat)) : Chip :=
  let w := fun (i : Nat) => (hd[i]?).getD 0
  let status := w 4
  let bad := ents.any (fun e => bits e.1 12 5 == 0 || !codeListed (bits e.1 0 12)) || cs.any (fun q => !csListed (bits q.1 0 11))
    || bit status 2 != c.cxSecure x || decide (c.cxPriv x < bits status 0 2)
  if bad then c.raise x trBadFrame 0 0 0
  else
    let c := c.dropFront x
    let c := c.csRestore x csStatus status
    let c := c.ctxMod x (fun k => ((k.csPut csRepCount false (w 5)).csPut csRepStart false (w 6)).csPut csRepEnd false (w 7))
    let c := c.ctxMod x (fun k => regs.foldl (fun (k : Ctx) q =>
      if q.1 < 0x40 then k.gw q.1 q.2 else if q.1 < 0x60 then k.vw (q.1 - 0x40) q.2 else k.pw (q.1 - 0x60) q.2) k)
    let c := cs.foldl (fun c q => c.csRestore x (bits q.1 0 11) q.2) c
    let c := c.ctxMod x (fun k => k.csPut csFpFlags false (k.csGet csFpFlags false - (k.csGet csFpFlags false &&& k.flagsAt base cdRaised 0 0)))
    let c := c.put (fPriv x) (bits status 0 2)
    ((c.ctxMod x (fun k => { k with
        pc := w 1
        idx := w 2
        seq := k.seq + ents.length + k.drained.length
        drained := k.drained.filter (fun d => d.base != base)
        pend := ((k.flagsOnly base (w 2)).map (fun (p : Pend) => { p with seq := k.seq + ents.length + p.seq })) ++ (ents.zipIdx.map (fun e =>
          { code := bits e.1.1 0 12, wp := w 2 + bits e.1.1 12 5, slot := bits e.1.1 17 3, seq := k.seq + e.2,
            val := if bits e.1.1 0 12 < 0x40 || 0x60 ≤ bits e.1.1 0 12 then e.1.2 % m64 else e.1.2,
            ready := true, poison := bit e.1.1 20, job := 0, va := 0,
            flags := k.flagsAt base (bits e.1.1 0 12) (w 2 + bits e.1.1 12 5) (bits e.1.1 17 3) : Pend })).filter (fun p => p.code != 0 && p.code != 0x60) })).ctxSync x).irqRoute x

/-- ERET at the end of its bundle: pending results drain without a record, then the frame is read and checked (R137). The
context's pc and index are still those of the bundle. A poisoned result of the handler drains as zero and raises no trap (log 76). -/
def Chip.eretStep (c : Chip) (x : Nat) : Chip :=
  let k := c.ctxOf x
  if !k.pend.all (·.ready) || c.audBlocked k.pend then c
  else
    let c := ((sortPend k.pend).filter (fun p => p.code != cdTransfer)).foldl (fun c p => c.applyPend x p) c
    let c := (c.ctxMod x (fun k => { k with pend := [], applied := 0 })).ctxSync x
    let base := c.csr x (if c.cxPriv x = 1 then csTfS else csTfH)
    match c.frameRead x base ((List.range 12).map (fun i => (8 * i, 8))) with
    | (none, c) => c
    | (some hd, c) =>
      let w := fun (i : Nat) => ((hd[i]?).map (·.1)).getD 0
      let nent := bits (w 10) 0 6
      let ncs := bits (w 10) 8 6
      if hd.any (·.2) || 48 < nent || nent < ncs then c.raise x trBadFrame 0 0 0
      else
        let marked := (List.range 112).filter (fun b => b != 0 && bit (w 8 + w 9 * m64) b)
        let part := fun (b : Nat) => if b < 64 then (0x080 + 8 * b, 8) else if b < 96 then (0x300 + 64 * (b - 64), 64) else (0x280 + 8 * (b - 96), 8)
        let parts := marked.map part ++ (List.range ncs).flatMap (fun i => [(0xB00 + 16 * i, 8), (0xB08 + 16 * i, 8)])
          ++ (List.range nent).flatMap (fun i => [(0xE00 + 72 * i, 8), (0xE08 + 72 * i, 64)])
        match c.frameRead x base parts with
        | (none, c) => c
        | (some r, c) =>
          if r.any (·.2) then c.raise x trBadFrame 0 0 0
          else
            let v := fun (i : Nat) => ((r[i]?).map (·.1)).getD 0
            let n := marked.length
            c.eretFinish x base (hd.map (·.1)) (marked.zipIdx.map (fun b => (maskCode b.1, v b.2)))
              ((List.range ncs).map (fun i => (v (n + 2 * i), v (n + 2 * i + 1))))
              ((List.range nent).map (fun i => (v (n + 2 * ncs + 2 * i), v (n + 2 * ncs + 2 * i + 1))))

end Sys2Proof.Machine
end

