-- ==== Sys2Proof/Machine/Sprocket.lean ====
section
/-! DEFINITION. Machine/Sprocket.lean: Sprocket tables (R141 to R143), the micro-operations of an instruction (R144 to R146), and
loading a table (R147, R148). -/
namespace Sys2Proof.Machine

/-! ### Tables -/

/-- The entry that core k (20d + core) decodes for a slot in a world (R122, R148). -/
def Chip.sprkEnt (c : Chip) (k : Nat) (secure : Bool) (slot : Nat) : Nat :=
  if c.on Reg.HUB_SPRK_STATUS.BUSY && c.get Reg.HUB_SPRK_STATUS.WORLD == b2n secure && c.sprk.cores.contains k then SMap.getD c.sprk.next slot 0
  else SMap.getD c.sprk.tab (64 * b2n secure + slot) 0

/-! Fields of the SPR format (R83, R84). -/
def Opn.spSlot (o : Opn) : Nat := o.rd
def Opn.spRd (o : Opn) : Nat := o.ra
def Opn.spRa (o : Opn) : Nat := o.rb
def Opn.spSb (o : Opn) : Nat := bits (o.ext.getD 0) 25 6
def Opn.spSc (o : Opn) : Nat := bits (o.ext.getD 0) 19 6
def Opn.spImm (o : Opn) : Nat := match o.ext with | some x => sext64 19 (x % 2 ^ 19) | none => 0

/-! ### Registers a micro-operation names -/

def Opn.gSrcs (o : Opn) : List Nat :=
  let m := o.maj
  if [0x01, 0x02, 0x0D, 0x0E, 0x11, 0x12].contains m then [o.ra, o.rb]
  else if m = 0x03 || (0x04 ≤ m && m ≤ 0x0A) || m = 0x0F then [o.ra]
  else if m = 0x10 then (if o.min = 5 then [o.ra] else [])
  else if m = 0x22 then [o.ra, o.rb]
  else if m = 0x23 then (if o.min = 7 then [o.ra, o.rb] else [o.ra, o.rb, o.rd])
  else if m = 0x21 then (if o.min = 7 then [o.ra] else [o.ra, o.rd])
  else if m = 0x20 || m = 0x24 || m = 0x25 || m = 0x2C then [o.ra]
  else if m = 0x3D then (if o.vgOp = 0 then [] else [o.vgG])
  else []

def Opn.vSrcs (o : Opn) : List Nat :=
  let m := o.maj
  if m = 0x37 || m = 0x3C then [o.va]
  else if m = 0x39 && 3 ≤ o.vop && o.vop ≤ 5 then [o.va, o.vb, o.vd]
  else if m = 0x38 || m = 0x39 || m = 0x3A || m = 0x3B || m = 0x3E then [o.va, o.vb]
  else if m = 0x25 then [o.vd]
  else if m = 0x3D then (if o.vgOp = 2 then [] else [o.vgV])
  else []

def Opn.pSrcs (o : Opn) : List Nat :=
  let m := o.maj
  o.pred :: (if m = 0x10 then (if o.min ≤ 3 then [o.ra, o.rb] else if o.min = 5 then [] else [o.ra])
    else if (m = 0x21 || m = 0x23) && o.min = 7 then [o.rd] else [])

/-- The destination of a register operation or load. -/
def Opn.dst (o : Opn) : Option Dst :=
  if o.isLoad then some o.loadDst
  else if o.isStore || o.isPref then none
  else if o.maj = 0x15 then some (.g o.rd)
  else (o.eval ⟨fun _ => 0, fun _ => 0, fun _ => 0⟩).map (·.1)

/-! ### Validation (R142, R143) -/

/-- Majors that an entry may not use. -/
def uopExcluded (m : Nat) : Bool :=
  m == 0x00 || m == 0x0C || m == 0x13 || m == 0x14 || (0x18 ≤ m && m ≤ 0x1B) || m == 0x28 || m == 0x29 || m == 0x30 || m == 0x3F
    || !([0x01, 0x02, 0x03, 0x04, 0x05, 0x06, 0x07, 0x08, 0x09, 0x0A, 0x0B, 0x0D, 0x0E, 0x0F, 0x10, 0x11, 0x12, 0x15, 0x20, 0x21, 0x22, 0x23,
          0x24, 0x25, 0x2C, 0x37, 0x38, 0x39, 0x3A, 0x3B, 0x3C, 0x3D, 0x3E].contains m)

/-- May a micro-operation read these registers under a header: operands of the declared file, SB and SC with LONG? -/
def uopReads (h : SprkHdr) (o : Opn) : Bool :=
  o.gSrcs.all (fun r => if r < 0x3C then true else if r = 0x3C then !h.rdV else if r = 0x3D then !h.raV
      else if r = 0x3E then h.long && !h.sbV else h.long && !h.scV)
  && o.vSrcs.all (fun r => if r < 0x1C then true else if r = 0x1C then h.rdV else if r = 0x1D then h.raV
      else if r = 0x1E then h.long && h.sbV else h.long && h.scV)

/-- May it write its destination: a temporary, or RD of the declared file? -/
def uopWrites (h : SprkHdr) (o : Opn) : Bool :=
  match o.dst with
  | none => true
  | some (.g r) => (0x30 ≤ r && r < 0x3C) || (r == 0x3C && !h.rdV)
  | some (.v r) => (0x18 ≤ r && r < 0x1C) || (r == 0x1C && h.rdV)
  | some (.p r) => 12 ≤ r

/-- The reason why a micro-operation fails, 0 for none. -/
def uopReason (h : SprkHdr) (syl : Nat) : Nat :=
  let o : Opn := ⟨0, syl % 2 ^ 31, none⟩
  if bit syl 31 then 4
  else if uopExcluded o.maj then 1
  else if !(List.range 6).any (fun s => (Opn.mk s (syl % 2 ^ 31) none).legal (fun _ => 0)) then 4
  else if !uopReads h o || !uopWrites h o then 6
  else 0

/-- The reason why an entry fails and its micro-operation, or none (R142, R143). Header checks come first. -/
def entryReason (e : Nat) : Option (Nat × Nat) :=
  let h := sprkEntryHdr e
  let mem := sprkIsMem e
  if bits e 26 38 != 0 || bits e (8 * 136) (8 * 120) != 0 then some (4, 0)
  else if h.dist = 0 then some (2, 0)
  else if h.slots = 0 || (mem && bits h.slots 0 2 + bits h.slots 4 2 != 0) then some (3, 0)
  else if h.restart && !mem then some (7, 0)
  else ((List.range (h.nuopm1 + 1)).find? (fun u => uopReason h (sprkUop e u) != 0)).map (fun u => (uopReason h (sprkUop e u), u))

/-- The entries of an image, slot by slot from `slot`: none where the read of one failed or met poison (R148). -/
def Chip.sprkImage : Nat → Chip → Nat → Who → Nat → List (Nat × Option Nat) × Chip
  | 0, c, _, _, _ => ([], c)
  | n + 1, c, base, who, slot =>
    match c.anyReadB (base + 256 * slot) 256 who with
    | (r, poison, e, c) =>
      match Chip.sprkImage n c base who (slot + 1) with
      | (l, c) => ((slot, if r != .ok || poison then none else some e) :: l, c)

/-- The commit of a table (R148): the image is read and validated; the cores then change one by one. -/
def Chip.sprkCommit (c : Chip) (w : Nat) (thenS : Bool) : Chip :=
  let off := 0xC0000300 + 8 * w
  let base := c.regs.getShadow (Reg.HUB_SPRK_SRC.ADDR w) <<< 14
  let who := c.hubWho 7 0 0 (w == 1)
  match Chip.sprkImage 64 c base who 0 with
  | (img, c) =>
    let c := c.put Reg.HUB_SPRK_STATUS.WORLD w
    match img.findSome? (fun s => match s.2 with
      | none => some (s.1, 5, 0)
      | some e => if bit e 0 then (entryReason e).map (fun x => (s.1, x)) else none) with
    | some (s, x) =>
      c.puts [(Reg.HUB_SPRK_STATUS.RESULT, 2), (Reg.HUB_SPRK_STATUS.BAD_SLOT, s), (Reg.HUB_SPRK_STATUS.BAD_UOP, x.2),
        (Reg.HUB_SPRK_STATUS.REASON, x.1)]
    | none =>
      let tab := img.foldl (fun (m : SMap Nat) s => match s.2 with
        | some e => if bit e 0 then SMap.set m s.1 e else m
        | none => m) []
      ({ (c.commitReg off) with sprk := { c.sprk with next := tab, cores := [], thenS := thenS } }).put Reg.HUB_SPRK_STATUS.BUSY 1

/-- A write of HUB_SPRK_COMMIT (R147, R148). -/
def Chip.sprkCommitWrite (c : Chip) (w : Who) (v : Nat) : Chip :=
  let n := bit v 0
  let s := bit v 1 && w.secure
  if !n && !s then c
  else if c.on Reg.HUB_SPRK_STATUS.BUSY then c.put Reg.HUB_SPRK_STATUS.RESULT 3
  else if n then c.sprkCommit 0 s
  else c.sprkCommit 1 false

/-- Core k changes to the new table; when every present core has, the commit is DONE, and a Secure one may follow (R148). -/
def Chip.sprkDone (c : Chip) (k : Nat) : Chip :=
  if !c.on Reg.HUB_SPRK_STATUS.BUSY then c
  else
    let cores := if c.sprk.cores.contains k then c.sprk.cores else k :: c.sprk.cores
    let c := { c with sprk := { c.sprk with cores := cores } }
    if (List.range 240).all (fun j => !c.corePresent (j / 20) (j % 20) || cores.contains j) then
      let w := c.get Reg.HUB_SPRK_STATUS.WORLD
      let tab := (List.range 64).foldl (fun (m : SMap Nat) s => SMap.put m 0 (64 * w + s) (SMap.getD c.sprk.next s 0)) c.sprk.tab
      let again := c.sprk.thenS
      let c := ({ c with sprk := ⟨tab, [], [], false⟩ }).puts [(Reg.HUB_SPRK_STATUS.BUSY, 0), (Reg.HUB_SPRK_STATUS.RESULT, 1)]
      if again then c.sprkCommit 1 false else c
    else c

/-! ### Running an entry (R144, R145) -/

/-- A run of an entry: temporaries and RD with the taint of poison (0, or 1 + micro-operation + 32 × virtual address of the
load that returned it), flags, and stores to make: physical address, bytes, data and Yarrow class. -/
structure SprkRun where
  g : SMap (Nat × Nat)
  v : SMap (Nat × Nat)
  p : SMap (Nat × Nat)
  flags : Nat
  stores : List (Nat × Nat × Nat × Nat)
  deriving DecidableEq, Repr

/-- How a run stops early. -/
inductive SprkStop where
  | wait
  | trap (cause tval uop : Nat)
  deriving DecidableEq, Repr

/-- What an instruction gives its entry (R144): the context's registers at issue and its operands. -/
structure SprkCtx where
  k : Ctx
  o : Opn
  h : SprkHdr
  deriving DecidableEq, Repr

def SprkRun.start (q : SprkCtx) : SprkRun :=
  { g := if q.h.rdV then [(11, (q.o.spImm, 0))] else [(11, (q.o.spImm, 0)), (12, (q.k.gr q.o.spRd, 0))],
    v := if q.h.rdV then [(4, (q.k.vr q.o.spRd, 0))] else [],
    p := [(12, (m64 - 1, 0)), (13, (m64 - 1, 0)), (14, (m64 - 1, 0)), (15, (m64 - 1, 0))], flags := 0, stores := [] }

/-- A g, v or p register as the entry reads it (R143): value and taint. -/
def SprkRun.gAt (r : SprkRun) (q : SprkCtx) (n : Nat) : Nat × Nat :=
  if n < 0x30 then (q.k.gr n, 0)
  else if n ≤ 0x3C then SMap.getD r.g (n - 0x30) (0, 0)
  else if n = 0x3D then (q.k.gr q.o.spRa, 0)
  else if n = 0x3E then (q.k.gr q.o.spSb, 0)
  else (q.k.gr q.o.spSc, 0)

def SprkRun.vAt (r : SprkRun) (q : SprkCtx) (n : Nat) : Nat × Nat :=
  if n < 0x18 then (q.k.vr n, 0)
  else if n ≤ 0x1C then SMap.getD r.v (n - 0x18) (0, 0)
  else if n = 0x1D then (q.k.vr q.o.spRa, 0)
  else if n = 0x1E then (q.k.vr q.o.spSb, 0)
  else (q.k.vr q.o.spSc, 0)

def SprkRun.pAt (r : SprkRun) (q : SprkCtx) (n : Nat) : Nat × Nat := if n % 16 < 12 then (q.k.pr n, 0) else SMap.getD r.p (n % 16) (0, 0)

def SprkRun.view (r : SprkRun) (q : SprkCtx) : RegView := ⟨fun n => (r.gAt q n).1, fun n => (r.vAt q n).1, fun n => (r.pAt q n).1⟩

/-- The first taint among registers a micro-operation reads. -/
def SprkRun.taint (r : SprkRun) (q : SprkCtx) (o : Opn) : Nat :=
  let old := match o.dst with
    | some (.v n) => if isVecMaj o.maj && (r.pAt q o.pred).1 % 2 ^ o.elems != 2 ^ o.elems - 1 then [(r.vAt q n).2] else []
    | _ => []
  ((o.gSrcs.map (fun n => (r.gAt q n).2) ++ o.vSrcs.map (fun n => (r.vAt q n).2) ++ o.pSrcs.map (fun n => (r.pAt q n).2) ++ old).find? (· != 0)).getD 0

def SprkRun.write (r : SprkRun) (d : Dst) (v t : Nat) : SprkRun :=
  match d with
  | .g n => { r with g := SMap.set r.g (n - 0x30) (v % m64, t) }
  | .v n => { r with v := SMap.set r.v (n - 0x18) (v, t) }
  | .p n => { r with p := SMap.set r.p (n % 16) (v % m64, t) }

/-- Bytes of a line under the stores that the run has gathered. -/
def SprkRun.overlay (r : SprkRun) (line : Nat) (d : Line) : Line :=
  r.stores.foldl (fun d s => if s.1 / 64 = line then linePut d (s.1 % 64) s.2.1 s.2.2.1 else d) d

/-- One memory micro-operation (R145). -/
def Chip.sprkMem (c : Chip) (x : Nat) (q : SprkCtx) (r : SprkRun) (u : Nat) (o : Opn) : Except SprkStop SprkRun × Chip :=
  let ea := o.ea (r.view q)
  let stop := fun (cause : Nat) (c : Chip) => (Except.error (SprkStop.trap cause ea u), c)
  let ta := ((o.gSrcs.map (fun n => (r.gAt q n).2) ++ o.pSrcs.map (fun n => (r.pAt q n).2)).find? (· != 0)).getD 0
  let t := if o.isStore then r.taint q o else ta
  if t != 0 then (.error (.trap trDataPoison ((t - 1) / 32) ((t - 1) % 32)), c)
  else if ea % o.size != 0 then stop trAlign c
  else
    match c.translate x ea (if o.isStore then .store else .load) (c.cxSecure x) with
    | .trap t => stop t c
    | .walk => (.error .wait, c.walkStart x ea (c.cxSecure x))
    | .ok pa yrw =>
      if isDevice pa then stop trMemAttr c
      else if o.isPref then
        (.ok r, if !c.coh.ops.any (fun l => l.ctx == x && l.line == pa / 64) then (c.opNew x (if o.min = 0 then .pref0 else if o.min = 1 then .pref1 else if o.min = 2 then .pref2 else .pref3)
          (pa / 64) false (c.cxTenant x) (c.cxSecure x) yrw (c.cxPriv x == 2)).2 else c)
      else if o.isStore then (.ok { r with stores := r.stores ++ [(pa, o.size, o.storeVal (r.view q), yrw)] }, c)
      else
        match c.serialLines x .load (c.cxSecure x) [(pa / 64, yrw)] with
        | (none, c) => (.error .wait, c)
        | (some got, c) =>
          let ld := ((got.head?).map (·.2)).getD LD.bad
          let v := lineGet (r.overlay (pa / 64) ld.data) (pa % 64) o.size
          let v := if o.signs && o.size < 8 then sext64 (8 * o.size) v else v
          (.ok (r.write o.loadDst (if ld.poison then 0 else v) (if ld.poison then 1 + u + 32 * ea else 0)), c)

/-- One micro-operation. -/
def Chip.sprkUopStep (c : Chip) (x : Nat) (q : SprkCtx) (r : SprkRun) (u : Nat) (o : Opn) : Except SprkStop SprkRun × Chip :=
  let t := r.taint q o
  if !o.activeOn (r.pAt q o.pred).1 then
    if o.isMem && (r.pAt q o.pred).2 != 0 then
      (.error (.trap trDataPoison (((r.pAt q o.pred).2 - 1) / 32) (((r.pAt q o.pred).2 - 1) % 32)), c)
    else if (r.pAt q o.pred).2 != 0 then
      (.ok (match o.dst with
        | some (.g n) => r.write (.g n) (r.gAt q n).1 t
        | some (.v n) => r.write (.v n) (r.vAt q n).1 t
        | some (.p n) => r.write (.p n) (r.pAt q n).1 t
        | none => r), c)
    else (.ok r, c)
  else if o.isMem then c.sprkMem x q r u o
  else if o.maj = 0x15 then
    let tm := c.timeRead 0
    (.ok (r.write (.g o.rd) tm.1 0), tm.2)
  else
    match o.eval (r.view q) with
    | some (d, v, fl) => (.ok { (r.write d v t) with flags := r.flags ||| fl }, c)
    | none => (.ok r, c)

/-- Every micro-operation of an entry, in order. -/
def Chip.sprkRun (c : Chip) (x : Nat) (q : SprkCtx) (e : Nat) : Except SprkStop SprkRun × Chip :=
  (List.range (q.h.nuopm1 + 1)).foldl (fun (a : Except SprkStop SprkRun × Chip) u =>
    match a.1 with
    | .error _ => a
    | .ok r => a.2.sprkUopStep x q r u ⟨q.o.slot, sprkUop e u % 2 ^ 31, none⟩) (.ok (SprkRun.start q), c)

/-- The result of an instruction (R144): destination code, value and taint. -/
def SprkRun.result (r : SprkRun) (q : SprkCtx) : Option (Nat × Nat × Nat) :=
  if q.h.nodest then none
  else if q.h.rdV then
    let old := q.k.vr q.o.spRd
    let v := r.vAt q 0x1C
    some (0x40 + q.o.spRd % 32, vecMerge (etW q.h.et) (etN q.h.et) (q.k.pr q.o.pred) old (fun j => el (etW q.h.et) v.1 j), v.2)
  else some (q.o.spRd, (r.gAt q 0x3C).1, (r.gAt q 0x3C).2)

/-- Is the instruction active (R85, R122)? -/
def SprkCtx.active (q : SprkCtx) : Bool :=
  let pv := q.k.pr q.o.pred
  if q.h.rdV && !q.h.nodest then pv % 2 ^ etN q.h.et != 0 else bit pv 0

end Sys2Proof.Machine
end

