-- ==== Sys2Proof/Machine/Issue.lean ====
section
/-! DEFINITION. Machine/Issue.lean: issuing a bundle (R56 to R70, R82 to R105, R138): the checks of its slots, what its operations
do, and the accounting of the core's cycles (R424, R425). -/
namespace Sys2Proof.Machine

/-! ### Cycles (R424, R432) -/

/-- Slot classes: fixed counters 2 RETIRED, 3 WASTED, 4 FRONT, 5 BACK. -/
def fxRetired : Nat := 2
def fxWasted : Nat := 3
def fxFront : Nat := 4
def fxBack : Nat := 5

/-- `n` cycles charged to context x with all six slots in one class. -/
def Chip.charge (c : Chip) (x cls n : Nat) : Chip :=
  let c := ((c.fixCount x 0 n).fixCount x cls (6 * n)).evCore x 0x01 n
  (c.coreMod (coreIx x) (fun s => { s with cycles := s.cycles + n })).nrgAdd (domCore (coreIx x)) (nrgKey (c.cxTenant x) (some x)) (8 * n)

/-- A cycle of core k charged to no context (event 0x0F). -/
def Chip.uncharged (c : Chip) (k : Nat) : Chip :=
  let d := k / 20
  let j := k % 20
  let c := if c.on (Reg.PMU_DIE_CTRL.FREEZE d) || c.coreStops k then c else (List.range 8).foldl (fun c i =>
    if c.on (Reg.PMU_EVSEL.EN d j i) && c.get (Reg.PMU_EVSEL.EVENT d j i) == 0x0F && !c.on (Reg.PMU_EVSEL.TNT_EN d j i) then
      c.cntEvent (Reg.PMU_CNT.VALUE d j i) (Reg.PMU_CNT.OVF d j i) (Reg.PMU_EVSEL.IRQ d j i) (some d) 1
    else c) c
  (c.coreMod k (fun s => { s with cycles := s.cycles + 1 })).nrgAdd (domCore k) (nrgKey 0 none) 1

/-- A frozen cycle of a sampled operation's write point (R426). -/
def Chip.sampleFrozen (c : Chip) (x : Nat) (late : List Pend) : Chip :=
  c.ctxMod x (fun k => match k.sample with
    | some s =>
      if late.any (fun p => (s.kind == 1 && p.job == s.id && p.job != 0) || (s.kind == 4 && p.seq == s.id)) then
        { k with sample := some { s with frozen := s.frozen + 1 } }
      else k
    | none => k)

/-! ### Checks (R68, R76) -/

/-- What a slot's check answers: it may issue, a trap (cause, TVAL, INFO), a translation that must be walked, or an AMO on a
Yarrow page (R244). -/
inductive SlotRes where
  | ok
  | trap (cause tval info : Nat)
  | walk (va : Nat)
  | yarrow (pa : Nat)
  deriving DecidableEq, Repr

/-- The registers of a context as a bundle reads them (R58). -/
def Ctx.view (k : Ctx) : RegView := ⟨k.gr, k.vr, k.pr⟩

/-- The access of a memory operation, for translation. -/
def Opn.acc (o : Opn) : XAcc := if o.isAmo then .amo else if o.isStore then .store else .load

/-- Is an operation of a bundle active (R85, R93)? -/
def Chip.opActive (c : Chip) (x : Nat) (k : Ctx) (o : Opn) : Bool :=
  if o.maj = 0x3F then
    SprkCtx.active ⟨k, o, sprkEntryHdr (c.sprkEnt (coreIx x) (c.cxSecure x) o.rd)⟩
  else o.activeOn (k.pr o.pred)

/-- Check a memory operation (R68, R95, R96, R98). -/
def Chip.memCheck (c : Chip) (x : Nat) (k : Ctx) (o : Opn) : SlotRes :=
  let ea := o.ea k.view
  if ea % o.size != 0 then .trap trAlign ea 0
  else
    match c.translate x ea o.acc (c.cxSecure x) with
    | .trap t => .trap t ea 0
    | .walk => .walk ea
    | .ok pa yrw =>
      if isDevice pa && !o.isPref && (o.isAmo || o.size == 64) then .trap trMemAttr ea 0
      else if o.isAmo && yrw != 0 then .yarrow pa
      else .ok

/-- Check one slot (R93, R94, R103, R104, R124, R129, R138). -/
def Chip.slotCheck (c : Chip) (x : Nat) (k : Ctx) (o : Opn) : SlotRes :=
  let m := o.maj
  let act := c.opActive x k o
  let rep := k.csGet csRepCount false != 0
  let lvl := c.cxPriv x
  if o.syl = 0 then .ok
  else if rep && ((0x18 ≤ m && m ≤ 0x1B) || (m == 0 && (o.min == 2 || o.min == 3)) || m == 0x30
      || (m == 0x14 && csRepCount ≤ o.immU && o.immU ≤ csRepEnd)) then .trap trInRepeat 0 0
  else if !act then .ok
  else if m = 0 then
    (if (o.min = 2 || o.min = 3) && lvl = 0 then .trap trPriv 0 0
     else if o.min = 5 then
       (if c.invasive (c.cxSecure x) && c.on (if c.cxSecure x then Reg.SEC_DBG.BRK_S else Reg.SEC_DBG.BRK_N) then .trap trDebug 0 0
        else .trap trBreak 0 0)
     else .ok)
  else if m = 0x13 then
    (if !csListed o.immU then .trap trIllegal 0 0 else if lvl < csReadLevel o.immU then .trap trPriv 0 o.immU else .ok)
  else if m = 0x14 then
    (if !csListed o.immU then .trap trIllegal 0 0
     else if lvl < csWriteLevel o.immU || (o.immU == csIrqWorld && !c.cxSecure x) then .trap trPriv 0 o.immU else .ok)
  else if m = 0x1A then (if k.gr o.ra % 32 != 0 then .trap trAlign (k.gr o.ra) 0 else .ok)
  else if m = 0x1B then (if k.pend.any (fun p => p.code == cdTransfer) then .trap trInDelay 0 0 else .ok)
  else if o.isMem then c.memCheck x k o
  else .ok

/-- The first slot, in order, that stops the bundle. -/
def Chip.slotsCheck (c : Chip) (x : Nat) (k : Ctx) : List Opn → Option (Nat × SlotRes)
  | [] => none
  | o :: l =>
    match c.slotCheck x k o with
    | .ok => Chip.slotsCheck c x k l
    | r => some (o.slot, r)

/-- MOVS copies backward (R109). -/
def movsBack (gd gs gc : Nat) : Bool := decide (gs < gd) && decide (gd < gs + gc)

/-- The registers that an operation has updated at its end: all it names but a pattern or value; MOVS backward only its count
(R106, R109). -/
def Opn.stringRegs (o : Opn) (back : Bool) : List Nat :=
  if o.min = 1 then (if back then [o.rb] else [o.rd, o.ra, o.rb])
  else if o.min = 3 then [o.rd, o.ra, o.rb]
  else [o.rd, o.rb]

/-- The results of a string operation, by its registers at issue: what its last chunk updates, for MOVS by
that chunk's direction, and its predicate (R107, R109). -/
def Opn.stringResults (o : Opn) (k : Ctx) : Nat :=
  (if k.gr o.rb = 0 then 0
   else (o.stringRegs (movsBack (k.gr o.rd) (k.gr o.ra) (Nat.min (k.gr o.rb) (256 - k.gr o.rd % 256)))).length)
    + (if 3 ≤ o.min && o.pred != 0 then 1 else 0)

/-- How many results a bundle adds to the pending ones (R67): not those for g0 or p0. -/
def Opn.results (o : Opn) (k : Ctx) (ent : Nat → Nat) : Nat :=
  let n := fun (d : Option Dst) => match d with
    | some d => if d.code = 0 || d.code = 0x60 then 0 else 1
    | none => 0
  let m := o.maj
  if m = 0x14 then 1
  else if m = 0x1B then 3
  else if m = 0x30 then (if 1 ≤ o.min && o.min ≤ 4 then o.stringResults k else 0)
  else if m = 0x18 then 1
  else if m = 0x19 then 2
  else if m = 0x1A then 1 + (if o.min = 1 && o.rd != 0 then 1 else 0)
  else if m = 0x13 || m = 0x15 || o.isAmo then (if o.rd = 0 then 0 else 1)
  else if m = 0x3F then
    let h := sprkEntryHdr (ent o.rd)
    if h.nodest || (!h.rdV && o.spRd == 0) then 0 else 1
  else n o.dst

/-- Does an operation access memory, in whatever form (R70): a load, store, prefetch or AMO, a string operation, CALLM, RETM, or a
memory Sprocket entry? -/
def Opn.touchesMem (o : Opn) (ent : Nat → Nat) : Bool :=
  o.isMem || (o.maj == 0x30 && decide (1 ≤ o.min) && decide (o.min ≤ 6)) || (o.maj == 0x3F && sprkIsMem (ent o.rd))

/-! ### Sampling (R425) -/

/-- Row of an operation's class in the table of R63. -/
def Opn.classRow (o : Opn) : Option Nat :=
  let m := o.maj
  if o.syl = 0 || m = 0 || m = 0x2C then none
  else if m = 0x0E || m = 0x0F then some 1
  else if m ≤ 0x0D then some 0
  else if m = 0x10 then some 2
  else if m = 0x11 then some (if o.min = 0 then 3 else 4)
  else if m = 0x12 then some 5
  else if m = 0x13 then some 20
  else if m = 0x14 then some 21
  else if m = 0x15 then some 22
  else if m = 0x18 || m = 0x19 then some 6
  else if m = 0x1A then some 7
  else if m = 0x1B then some 8
  else if m = 0x24 then some 10
  else if o.isLoad then some 9
  else if o.isStore then some 11
  else if o.isAmo then some 12
  else if m = 0x30 then some 23
  else if m = 0x37 then some 18
  else if m = 0x38 then some 13
  else if m = 0x39 then some 17
  else if m = 0x3A then some 19
  else if m = 0x3B then some 14
  else if m = 0x3C then some 15
  else if m = 0x3D then some (if o.vgOp = 0 then 16 else 13)
  else if m = 0x3E then some 16
  else some 24

/-- Does an operation qualify under a selection; `first`: it represents its bundle? -/
def Opn.qualifies (o : Opn) (sel : Nat) (first : Bool) : Bool :=
  if sel = 0 then first
  else if sel = 1 then o.isLoad || o.isAmo
  else if sel = 2 then o.isStore
  else if sel = 5 then 0x18 ≤ o.maj && o.maj ≤ 0x1A
  else if sel = 6 then o.maj == 0x39 || o.maj == 0x3A
  else false

/-- An operation that issues counts for the sampler; the class of an operation outside R63 is a free value (log 1). -/
def Chip.smpIssue (c : Chip) (x : Nat) (k : Ctx) (o : Opn) (first : Bool) (kind id va pa yrw : Nat) : Chip :=
  let sel := c.get (Reg.PMU_SMP_CTRL.SEL (ctxDie x) (ctxCore x))
  if !o.qualifies sel first then c
  else
    let r := c.smpTick x sel
    if r.1 then
      let f := match o.classRow with
        | some n => (n, r.2)
        | none => let f := r.2.fresh; (f.1 % 32, f.2)
      f.2.ctxMod x (fun q => { q with sample := some (f.2.newSample x kind id k.pc k.idx o.slot sel f.1 yrw va pa) })
    else r.2

/-- A bundle that faults while COUNT would have reached 0 on it leaves COUNT 0. -/
def Chip.smpFault (c : Chip) (x : Nat) (k : Ctx) (ops : List Opn) : Chip :=
  let d := ctxDie x
  let j := ctxCore x
  let sel := c.get (Reg.PMU_SMP_CTRL.SEL d j)
  let n := if sel = 0 then 1 else (ops.filter (fun o => o.qualifies sel false && c.opActive x k o)).length
  if c.on (Reg.PMU_SMP_CTRL.EN d j) && !c.cxSecure x && c.bitOf (Reg.PMU_SMP_CTRL.CTX d j) (x % 4)
      && c.bitOf (Reg.PMU_SMP_CTRL.PRIV d j) (c.cxPriv x) && c.get (Reg.PMU_SMP_COUNT.COUNT d j) ≤ n && n != 0 then
    c.put (Reg.PMU_SMP_COUNT.COUNT d j) 0
  else c

/-! ### Effects -/

/-- A new job number. -/
def Chip.newJob (c : Chip) : Nat × Chip := (c.nextJob, { c with nextJob := c.nextJob + 1 })

/-- A result becomes pending; one for g0 or p0 does not, though its flags are raised (R61, R87, R101). -/
def Chip.pendPush (c : Chip) (x : Nat) (p : Pend) : Chip :=
  let p := if p.code = 0 || p.code = 0x60 then { p with code := cdFlags, val := 0, job := 0, ready := true } else p
  if p.code = cdFlags && p.flags = 0 then c
  else c.ctxMod x (fun k => { k with seq := k.seq + 1, pend := k.pend ++ [{ p with seq := k.seq }] })

/-- A result that is ready at once. -/
def Chip.pendNow (c : Chip) (x code wp slot val flags : Nat) : Chip :=
  c.pendPush x { code := code, wp := wp, slot := slot, seq := 0, val := val, ready := true, poison := false, job := 0, va := 0, flags := flags }

/-- A result that waits for a job. -/
def Chip.pendJob (c : Chip) (x code wp slot val job va flags : Nat) (poison : Bool) : Chip :=
  c.pendPush x { code := code, wp := wp, slot := slot, seq := 0, val := val, ready := false, poison := poison, job := job, va := va, flags := flags }

/-- A job for one of the core's shared units (R66, R144). -/
def Chip.unitPush (c : Chip) (x unit job : Nat) : Chip := c.coreMod (coreIx x) (fun s => { s with units := s.units ++ [⟨job, x, unit⟩] })

/-- The oldest job of a shared unit is done: its result is ready. -/
def Chip.unitResult (c : Chip) (k unit : Nat) : Chip :=
  match (c.coreOf k).units.find? (fun u => u.unit == unit) with
  | none => c
  | some u =>
    let c := c.coreMod k (fun s => { s with units := s.units.filter (fun v => v.job != u.job) })
    (c.ctxMod u.ctx (fun q => { q with pend := q.pend.map (fun p => if p.job = u.job then { p with ready := true } else p) })).ctxSync u.ctx

def execExecutionUnitResult (k : Fin 240) (unit : Fin 3) (s : State) : Host.Outcome State Fault Refusal :=
  s.run (fun c => c.unitResult k.val unit.val)

/-- A load, store, prefetch or AMO that has passed its checks (R33, R69, R95 to R98, R118). -/
def Chip.execMem (c : Chip) (x : Nat) (k : Ctx) (o : Opn) (wp : Nat) (first : Bool) : Chip :=
  let ea := o.ea k.view
  match c.translate x ea o.acc (c.cxSecure x) with
  | .ok pa yrw =>
    let t := c.cxTenant x
    let s := c.cxSecure x
    let h := c.cxPriv x == 2
    let dev := isDevice pa
    if o.isLoad then
      match c.newJob with
      | (job, c) =>
        let c := c.ctxMod x (fun q => { q with
          seq := q.seq + 1
          loads := q.loads ++ [⟨job, k.pc, k.idx, o.slot, ea, pa, o.size, o.signs, q.seq, t, s, yrw, h, 0, dev, false⟩] })
        let c := (c.pendJob x o.loadDst.code wp o.slot 0 job ea 0 false).smpIssue x k o first 1 job ea pa yrw
        if dev then c.devPump x else c.loadTry x job
    else if o.isStore then
      let seq := (c.ctxOf x).seq
      (c.pushStore x pa o.size (o.storeVal k.view) .store yrw).smpIssue x k o first 2 seq ea pa yrw
    else if o.isPref then
      if dev || (o.min = 0 && (c.l1dFind (coreIx x) (pa / 64)).isSome) then c.smpIssue x k o first 4 0 ea (if dev then 0 else pa) yrw
      else ((c.opNew x (if o.min = 0 then .pref0 else if o.min = 1 then .pref1 else if o.min = 2 then .pref2 else .pref3) (pa / 64)
        false t s yrw h).2).smpIssue x k o first 4 0 ea pa yrw
    else
      match c.newJob with
      | (job, c) =>
        let cas := o.min = 7
        let c := c.ctxMod x (fun q => { q with
          seq := q.seq + 1
          sq := q.sq ++ [⟨q.seq, pa, o.size, if cas then k.gr o.amoRn else k.gr o.rb, o.min + 1, k.gr o.rb, o.amoAq, o.amoRl, job, .amo, t, s,
            yrw, h, 0, false⟩] })
        (c.pendJob x o.rd wp o.slot 0 job ea 0 false).smpIssue x k o first 1 job ea pa yrw
  | _ => c

/-- REPB (R103). The repeat registers change at its issue: the bundles after it see them, and an operation of its own bundle reads
them as they were (R58). Its three results stay pending until the next bundle (R67). -/
def Chip.execRepb (c : Chip) (x : Nat) (k : Ctx) (o : Opn) : Chip :=
  let count := (k.gr o.rd + bits o.syl 0 11) % m64
  let start := (k.pc + 32) % m64
  let stop := (k.pc + 32 * (bits o.syl 11 4 + 1)) % m64
  let c := c.ctxMod x (fun q => { (((q.csPut csRepCount false count).csPut csRepStart false start).csPut csRepEnd false stop) with
    pc := if count = 0 then (stop + 32) % m64 else start })
  [(csRepCount, count), (csRepStart, start), (csRepEnd, stop)].foldl (fun c r => c.pendNow x (0x800 + r.1) (k.idx + 1) o.slot r.2 0) c

/-- One active operation of a bundle. `ent` gives Sprocket entries, `sub` the fraction of a tick at which TIME is sampled. -/
def Chip.execOp (c : Chip) (x : Nat) (k : Ctx) (ent : Nat → Nat) (sub : Nat) (first : Bool) (o : Opn) : Chip :=
  let m := o.maj
  let st := c.get Reg.HUB_PKG_ID.STEPPING
  let wp := k.idx + o.dist st (sprkEntryHdr (ent o.rd)).dist
  let seq := (c.ctxOf x).seq
  let smp := fun (c : Chip) => c.smpIssue x k o first 4 seq 0 0 0
  if o.isMem then c.execMem x k o wp first
  else if m = 0 || m = 0x30 then smp c
  else if m = 0x12 || m = 0x3A then
    match o.eval k.view, c.newJob with
    | some (d, v, fl), (job, c) =>
      if d.code = 0 then smp c
      else smp ((c.pendJob x d.code wp o.slot v job 0 fl false).unitPush x (if m = 0x12 then 0 else 1) job)
    | none, (_, c) => c
  else if m = 0x13 then
    smp (c.pendNow x o.rd wp o.slot (if csRepCount ≤ o.immU && o.immU ≤ csRepEnd then k.csGet o.immU false else c.csRead x o.immU) 0)
  else if m = 0x14 then smp (c.pendNow x (0x800 + o.immU) wp o.slot (k.gr o.ra) 0)
  else if m = 0x15 then (let t := c.timeRead sub; smp (t.2.pendNow x o.rd wp o.slot t.1 0))
  else if m = 0x18 || m = 0x19 then
    let c := c.pendNow x cdTransfer wp o.slot ((k.pc + 32 * o.disp) % m64) 0
    let c := if m = 0x19 then c.pendNow x 2 (k.idx + 1) o.slot ((k.pc + 64) % m64) 0 else c
    c.smpIssue x k o first 3 wp 0 0 0
  else if m = 0x1A then
    let c := c.pendNow x cdTransfer wp o.slot (k.gr o.ra) 0
    let c := if o.min = 1 then c.pendNow x o.rd (k.idx + 1) o.slot ((k.pc + 96) % m64) 0 else c
    c.smpIssue x k o first 3 wp 0 0 0
  else if m = 0x1B then smp (c.execRepb x k o)
  else if m = 0x3F then
    let q : SprkCtx := ⟨k, o, sprkEntryHdr (ent o.rd)⟩
    if sprkIsMem (ent o.rd) then smp c
    else
      match c.sprkRun x q (ent o.rd) with
      | (.ok r, c) =>
        match r.result q, c.newJob with
        | some (code, v, _), (job, c) => smp ((c.pendJob x code wp o.slot v job 0 r.flags false).unitPush x 2 job)
        | none, (_, c) => smp (c.pendNow x cdFlags wp o.slot 0 r.flags)
      | (.error _, c) => c
  else
    match o.eval k.view with
    | some (d, v, fl) => smp (c.pendNow x d.code wp o.slot v fl)
    | none => c

/-- The bundle index and the fetch address move on; inside a repeat the last bundle of the body goes back (R57, R103). -/
def Chip.advance (c : Chip) (x : Nat) (k : Ctx) : Chip :=
  let n := k.csGet csRepCount false
  let fin := k.csGet csRepEnd false
  let c := if n != 0 && k.pc == fin then c.evCore x 0x0D 1 else c
  c.ctxMod x (fun q =>
    let q := { q with idx := k.idx + 1, fetch := none }
    if n != 0 && k.pc == fin then
      if 1 < n then { (q.csPut csRepCount false (n - 1)) with pc := k.csGet csRepStart false }
      else { (q.csPut csRepCount false 0) with pc := (fin + 32) % m64 }
    else if q.pc = k.pc then { q with pc := (k.pc + 32) % m64 }
    else q)

/-- Start a serialising operation (R59), or the check phase of a Sprocket entry `ent` (R145): the bundle stays the context's next one
until it completes. -/
def Chip.serialStart (c : Chip) (x : Nat) (kind : SerialKind) (ent : Nat) : Chip :=
  c.ctxMod x (fun k => { k with serial := some ⟨kind, [], [], [], [], false, ent⟩ })

/-- The kind of a serialising operation (R88, R118). -/
def Opn.serialKind (o : Opn) : SerialKind :=
  if o.min = 0 then .fence o.pred
  else if o.min ≤ 4 then .string
  else if o.min = 5 then .callm
  else if o.min = 6 then .retm
  else .sgate

/-- A bundle that passes every check issues. -/
def Chip.issueBundle (c : Chip) (x : Nat) (k : Ctx) (ent : Nat → Nat) (sub : Nat) (ops : List Opn) : Chip :=
  let act := ops.filter (c.opActive x k)
  let rep := (act.head?.map (·.slot)).getD 0
  let n := act.length
  let c := ((((c.fixCount x 0 1).fixCount x 1 1).fixCount x fxRetired n).fixCount x fxWasted (6 - n)).evCore x 0x01 1
  let c := ((c.evCore x 0x02 1).evCore x 0x03 n).evCore x 0x10 ((act.filter (fun o => o.maj == 0x3F)).length)
  let c := (c.coreMod (coreIx x) (fun s => { s with cycles := s.cycles + 1, issued := some (ctxNum x), stalled := false })).nrgAdd (domCore (coreIx x))
    (nrgKey (c.cxTenant x) (some x)) 8
  let c := c.ctxMod x (fun k => { k with applied := 0 })
  let c := if act.isEmpty then (match ops.head? with | some o => c.smpIssue x k o true 4 (c.ctxOf x).seq 0 0 0 | none => c) else c
  let c := act.foldl (fun c o => c.execOp x k ent sub (o.slot == rep) o) c
  let has := fun (f : Opn → Bool) => act.any f
  match act.find? (fun o => o.maj == 0x30 || (o.maj == 0x3F && sprkIsMem (ent o.rd))) with
  | some o =>
    if o.maj = 0x3F then (c.serialStart x .sprk (ent o.rd)).ctxSync x else (c.serialStart x o.serialKind 0).ctxSync x
  | none =>
    if has (fun o => o.maj == 0 && o.min == 3) then (c.serialStart x .eret 0).ctxSync x
    else
      let c := (c.advance x k).ctxSync x
      if has (fun o => o.maj == 0 && o.min == 2) then (c.cxLeave x cxIdle).irqRoute x
      else if has (fun o => o.maj == 0 && o.min == 4) then c.raise x trSyscall 0 0 0
      else c

/-- A context with a reported miss, or that waits for the store queue, makes way (R33, R69). -/
def Chip.missSwitch (c : Chip) (x : Nat) : Chip :=
  let k := c.ctxOf x
  if k.missOps.isEmpty && !k.waitSq && !k.waitFetch then c else c.toMemwait x

/-- A context that cannot issue: one that waits on a reported miss or the store queue makes way (R69). One that cannot issue for another
reason, the drain of a trap among them, keeps its core while no other context is READY; if one becomes READY during that stall, the core
switches to it and the context returns to READY (R74; log 81). A serialising operation completes first (R72). -/
def Chip.stallSwitch (c : Chip) (x : Nat) : Chip :=
  let k := c.ctxOf x
  if !(k.missOps.isEmpty && !k.waitSq && !k.waitFetch) then c.missSwitch x
  else if c.cxState x != cxRunning then c
  else if !c.peerReady x then c.coreMod (coreIx x) (fun s => { s with stalled := true })
  else if (c.coreOf (coreIx x)).stalled && k.serial.isNone then c.cxLeave x cxReady
  else c

/-- The bundle that the context has fetched is checked and issues, or freezes (R66 to R70). A bundle that is not legal (R82), one whose
Sprocket entry is not loaded among them, traps before any slot of it is looked at, and the SLOT of a trap that belongs to no slot is 0
(log 73). A full load miss queue freezes no bundle for its prefetch, which waits for an entry by itself (R97, log 75). -/
def Chip.issueTry (c : Chip) (x sub : Nat) (f : Fetched) : Chip :=
  let k := c.ctxOf x
  let ent := c.sprkEnt (coreIx x) (c.cxSecure x)
  let ops := (List.range 6).map (opnAt f.bits)
  let act := ops.filter (c.opActive x k)
  let back := fun (c : Chip) => c.charge x fxBack 1
  let fault := fun (cause tval info word : Nat) => back ((c.smpFault x k ops).raise x cause tval info word)
  if f.poison then back (c.raise x trFetchPoison k.pc 0 0)
  else if !bundleLegal f.bits ent then fault trIllegal 0 0 0
  else
    match c.slotsCheck x k ops with
    | some (s, .trap cause tval info) => fault cause tval info (s <<< 15)
    | some (_, .walk va) => (back (c.walkStart x va (c.cxSecure x))).stallSwitch x
    | some (_, .yarrow pa) => c.freeze (whoInfo (c.cxWho x) fzYarrow true 0 pa (c.cxAgent x))
    | some (_, .ok) => c
    | none =>
      let stores := (act.filter (·.isStore)).length
      if 48 < (k.pend.filter (fun p => p.code != cdFlags)).length + (act.map (fun o => o.results k ent)).sum then fault trSched 0 0 0
      else if act.any (fun o => o.touchesMem ent && !o.isPref) && 32 ≤ c.lmqUsed (coreIx x) then ((back c).evCore x 0x09 1).stallSwitch x
      else if 0 < stores && 16 < k.sqCount + stores then
        back ((c.ctxMod x (fun k => { k with waitSq := true })).toMemwait x)
      else c.issueBundle x k ent sub ops

/-- A context that has applied what is due tries for its next bundle; its interrupts come first (R134). -/
def Chip.issueNext (c : Chip) (x sub : Nat) : Chip :=
  match c.irqBest x with
  | some v => (c.raise x (0x40 + v) 0 0 0).charge x fxBack 1
  | none =>
    match c.fetchTry x with
    | (.trap t, c) => (c.raise x t (c.ctxOf x).pc 0 0).charge x fxBack 1
    | (.wait, c) => (c.charge x fxFront 1).stallSwitch x
    | (.got f, c) => c.issueTry x sub f

/-- Is the context's next bundle, as it has fetched it or as its L1I gives it in this cycle, one with a serialising operation? -/
def Chip.nextSerial (c : Chip) (x : Nat) : Bool :=
  let k := c.ctxOf x
  match k.fetch.filter (fun f => f.va == k.pc && f.priv == c.cxPriv x && f.secure == c.cxSecure x) with
  | some f => tmplSer f.bits
  | none =>
    match c.translate x k.pc .fetch (c.cxSecure x) with
    | .ok pa _ =>
      !isDevice pa && c.l1On x &&
        (match c.l1iFind (coreIx x) (pa / 64) with
         | some (_, l) => l.flaw == 0 && l.serves (c.cxTenant x) (c.cxSecure x) rightX && tmplSer (bundleAt l.ld.data pa)
         | none => false)
    | _ => false

/-- Does the context reach a serialising operation in this cycle, once it has applied what is due, so that a switch comes after it (R72)? -/
def Chip.atSerial (c : Chip) (x : Nat) : Bool :=
  let due := (c.ctxOf x).due
  due.all (fun p => p.ready && !p.poison) && !c.audBlocked due && (c.applyAll x due).nextSerial x

/-- A CORE cycle of a running context (R60, R66, R72, R76). One whose stores wait for entries of the store queue is frozen as for an L2
miss (R33). -/
def Chip.runCycle (c : Chip) (x sub : Nat) : Chip :=
  let k := c.ctxOf x
  if k.trap.isSome || k.serial.isSome then (c.charge x fxBack 1).stallSwitch x
  else if (c.coreOf (coreIx x)).preempt && c.peerReady x && !c.atSerial x then
    c.cxLeave x cxReady
  else if !k.stWait.isEmpty then ((c.charge x fxBack 1).ctxMod x (fun k => { k with waitSq := true })).toMemwait x
  else
    let due := k.due
    if due.all (·.ready) then
      if c.audBlocked due then (c.charge x fxBack 1).stallSwitch x
      else
        let c := (c.applyAll x due).ctxMod x (fun k => { k with
          pend := k.pend.filter (fun p => k.idx < p.wp)
          applied := k.applied + (due.filter (fun p => p.code != cdFlags)).length })
        let c := c.ctxSync x
        if due.any (·.poison) then (c.raisePoison x due).charge x fxBack 1
        else c.issueNext x sub
    else
      match c.irqBest x with
      | some v => (c.raise x (0x40 + v) 0 0 0).charge x fxBack 1
      | none => (((c.charge x fxBack 1).evCore x 0x08 1).sampleFrozen x (due.filter (fun p => !p.ready))).stallSwitch x

/-- One CORE cycle of core k (20d + core) (R424). While its cluster's ratio changes no bundle issues: a running context is frozen as in a
whole-core stall (R41). -/
def Chip.coreCycle (c : Chip) (k sub : Nat) : Chip :=
  if !c.corePresent (k / 20) (k % 20) || 2 ≤ c.cstate k || (c.spkOf (k / 20)).silent then c
  else if c.ratioBusy (k / 4) && c.cstate k == 0 then
    match c.coreRunning k with
    | some x => c.charge x fxBack 1
    | none => c.uncharged k
  else if c.cstate k = 1 then c.nrgAdd (domCore k) (nrgKey 0 none) 1
  else
    match c.coreRunning k with
    | some x =>
      let c := if (c.coreOf k).waking then (c.charge x fxFront 16).coreMod k (fun s => { s with waking := false }) else c
      if (c.ctxOf x).switched then c.runCycle x sub else c
    | none =>
      let x := 4 * k + (c.coreOf k).issued.getD 0
      if (c.coreOf k).issued.isSome && c.cxState x == cxMemwait then c.charge x (if (c.ctxOf x).waitFetch then fxFront else fxBack) 1
      else c.uncharged k

/-- BUNDLE_ISSUE: one CORE cycle of a core, in which its running context issues its next bundle or is frozen; an error may strike a cache
of the core, its cluster, its die or the hub first (R166 to R169). -/
def execBundleIssue (k : Fin 240) (sub : Fin 24 × Option (Fin 11 × BitVec 46)) (s : State) : Host.Outcome State Fault Refusal :=
  s.run (fun c => (c.struck k.val sub.2).coreCycle k.val sub.1.val)

/-- The six switch cycles end (R72). -/
def Chip.switchEnd (c : Chip) (k : Nat) : Chip :=
  match c.coreRunning k with
  | some x =>
    if (c.coreOf k).switching && !(c.spkOf (k / 20)).silent then
      ((((c.charge x fxWasted 6).evCore x 0x07 1).coreMod k (fun s => { s with switching := false })).ctxMod x (fun q =>
        { q with switched := true }))
    else c
  | none => c

def execSwitchCyclesEnd (k : Fin 240) (s : State) : Host.Outcome State Fault Refusal := s.run (fun c => c.switchEnd k.val)

/-- The running context's quantum ends while another context is READY (R72). -/
def Chip.quantumEnd (c : Chip) (k : Nat) : Chip :=
  match c.coreRunning k with
  | some x => if (c.coreOf k).quantum != 0 && c.peerReady x then c.coreMod k (fun s => { s with preempt := true }) else c
  | none => c

def execQuantumExpiry (k : Fin 240) (s : State) : Host.Outcome State Fault Refusal := s.run (fun c => c.quantumEnd k.val)

end Sys2Proof.Machine
end

