-- ==== Sys2Proof/Machine/Serial.lean ====
section
/-! DEFINITION. Machine/Serial.lean: serialising operations after their bundle has issued: fences (R118, R119), strings (R106 to
R109), CALLM and RETM (R110 to R113), SGATE (R330, R331), and the check phase of a memory Sprocket entry (R145, R146). -/
namespace Sys2Proof.Machine

/-- The word of a fault in M0, the slot of every serialising operation (R88, R136). -/
def slotM0 : Nat := 2 <<< 15

/-- The operation ends: its results are visible to the next bundle (R59, R63). -/
def Chip.serialEnd (c : Chip) (x pc : Nat) : Chip :=
  let k := c.ctxOf x
  (((c.dropIds ((k.serial.map (·.ops)).getD [])).ctxMod x (fun k => { k with serial := none, fetch := none, idx := k.idx + 1, pc := pc % m64 }))).ctxSync x

/-- FENCE.ALL, FENCE.IO and SGATE discard what the context was fetching (R120). -/
def Chip.fetchDrop (c : Chip) (x : Nat) : Chip :=
  (c.opDrop (c.ctxOf x).fetchOp).ctxMod x (fun k => { k with fetch := none, fetchOp := 0, waitFetch := false })

def Chip.serialNext (c : Chip) (x : Nat) : Chip := c.serialEnd x ((c.ctxOf x).pc + 32)

def Chip.serialMod (c : Chip) (x : Nat) (f : Serial → Serial) : Chip := c.ctxMod x (fun k => { k with serial := k.serial.map f })

/-- The operation in M0 of the bundle that the context holds. -/
def Ctx.serialOp (k : Ctx) : Opn := opnAt ((k.fetch.map (·.bits)).getD 0) 2

/-- After a step of a serialising operation: once it has ended, a RESET that waited is carried out, and a context with a
reported miss makes way (R69, R72, R73). -/
def Chip.serialAfter (c : Chip) (x : Nat) : Chip :=
  if (c.ctxOf x).serial.isSome then c
  else
    let c := c.boundary x
    if (c.ctxOf x).trap.isNone then c.missSwitch x else c

/-- Does the context run, with an operation of this kind under way? -/
def Chip.serialRuns (c : Chip) (x : Nat) (p : SerialKind → Bool) : Bool :=
  c.cxState x == cxRunning && !(c.spkOf (x / 80)).silent && (c.ctxOf x).switched && (c.ctxOf x).trap.isNone && (c.ctxOf x).serial.any (fun s => p s.kind)

/-! ### Fences -/

/-- Every load and AMO read has returned; every store, AMO write and string write is visible (R118). -/
def Ctx.loadsDone (k : Ctx) : Bool := k.loads.isEmpty && k.sq.all (fun e => e.amo == 0)
def Ctx.storesDone (k : Ctx) : Bool := k.sq.all (fun e => isDevice e.pa)

/-- Markers to the hub of every present package; one for a package fenced here counts as failed (R118, R119). The crossing of a cluster whose
ratio changes holds them (R41). -/
def Chip.ioMarks (c : Chip) (x : Nat) : Chip :=
  if c.ratioBusy (cluIx x) then c
  else
  let qs := (List.range 8).filter c.present
  let live := qs.filter (fun q => !c.fencedPkg q)
  let c := c.serialMod x (fun s => { s with begun := true, marks := live, failed := qs.filter c.fencedPkg })
  live.foldl (fun c q => c.sendUp (ctxDie x) { Msg.mk0 clsRsp tIoMark 0 with
    tag := (x % 80) * 8 + q, agent := c.cxAgent x, tenant := c.cxTenant x, dstPkg := q }) c

/-- Base of a package's CSR space (R14). -/
def csrBaseOf (q : Nat) : Nat := 0xFF00000000000 + q * 0x100000000

/-- FENCE: its markers leave, or it completes once its ordering holds (R118, R119). -/
def Chip.fenceStep (c : Chip) (x : Nat) : Chip :=
  let k := c.ctxOf x
  match k.serial with
  | some s =>
    match s.kind with
    | .fence n =>
      if n = 3 && !s.begun then c.ioMarks x
      else if n = 0 then (if k.loadsDone then c.serialNext x else c)
      else if n = 1 then (if k.storesDone then c.serialNext x else c)
      else if n = 2 then (if k.loadsDone && k.storesDone then (c.serialNext x).fetchDrop x else c)
      else if k.loadsDone && k.sq.isEmpty && s.marks.isEmpty then
        s.failed.foldl (fun c q => c.busErr x (csrBaseOf q)) ((c.serialNext x).fetchDrop x)
      else c
    | _ => c
  | none => c

def execFenceComplete (x : Fin 960) (s : State) : Host.Outcome State Fault Refusal :=
  s.run (fun c => if c.serialRuns x.val (fun k => match k with | .fence _ => true | _ => false) then (c.fenceStep x.val).serialAfter x.val else c)

/-- Has the hub accepted a relaxed write of its HQE or its PCIe ports that is not visible yet (R118)? -/
def Chip.relaxedOut (c : Chip) : Bool :=
  c.wrOut (fun m => agClu m.agent == 3 || agClu m.agent == 4)
    || c.fns.inq.any (fun x => match x with | .req r => r.t.write && r.pa.isSome | .cpl _ _ _ _ _ => false)

/-- IO_MARK at the hub: its own is answered once every relaxed write accepted is visible, those accepted after it among them (log 14); one
for another package goes on (R118, R181). -/
def Chip.ioMarkIn (c : Chip) : Chip :=
  match c.takeHub (fun m => m.cls == clsRsp && m.typ == tIoMark && (c.fromFenced m || m.dstPkg != c.pkg || !c.relaxedOut)) with
  | none => c
  | some (m, c) =>
    if c.fromFenced m then c.fencedDrop m
    else if m.dstPkg != c.pkg then (if c.fencedPkg m.dstPkg then c.giveUp m m.dstPkg else c.sendAway m)
    else c.sendMsg { Msg.mk0 clsRsp tIoAck 0 with
      tag := m.tag, agent := c.tableAgent, tenant := m.tenant, dstPkg := agPkg m.agent, dstDie := agDie m.agent }

def execIoMark (s : State) : Host.Outcome State Fault Refusal := s.run Chip.ioMarkIn

/-- IO_ACK at the die of the context that sent the marker. -/
def Chip.ioAckIn (c : Chip) (d : Nat) : Chip :=
  match c.takeDie d (fun m => m.cls == clsRsp && m.typ == tIoAck && !c.ratioBusy (cluIx (80 * d + m.tag / 8 % 80))) with
  | none => c
  | some (m, c) =>
    let x := 80 * d + m.tag / 8 % 80
    let q := m.tag % 8
    c.serialMod x (fun s => if s.kind == .fence 3 && s.marks.contains q then
      { s with marks := s.marks.filter (· != q), failed := if m.poison then s.failed ++ [q] else s.failed } else s)

def execIoAck (d : Fin 12) (s : State) : Host.Outcome State Fault Refusal := s.run (fun c => c.ioAckIn d.val)

/-- The ratio of cluster cl of die d has changed: the words that its crossing held go on (R41). -/
def execRatioChangeDone (d : Fin 12) (cl : Fin 5) (s : State) : Host.Outcome State Fault Refusal :=
  s.run (fun c => (List.range 16).foldl (fun c j => c.devPump (80 * d.val + 16 * cl.val + j)) (c.ratioDone d.val cl.val))

/-! ### Ranges of virtual addresses -/

/-- A translated piece of a range: its virtual and physical address, bytes and Yarrow class. -/
structure VPiece where
  va : Nat
  pa : Nat
  len : Nat
  yrw : Nat
  deriving DecidableEq, Repr

/-- How a range fails. -/
inductive VStop where
  | walk (va : Nat)
  | trap (cause va : Nat)
  deriving DecidableEq, Repr

/-- The parts of `n` bytes at a virtual address, none crossing a page or line. -/
def vParts : Nat → Nat → Nat → List (Nat × Nat)
  | 0, _, _ => []
  | f + 1, va, n =>
    if n = 0 then []
    else
      let m := min n (64 - va % 64)
      (va % m64, m) :: vParts f ((va + m) % m64) (n - m)

/-- Translate a range for an access; device memory traps with MEM_ATTR (R96). -/
def Chip.vRange (c : Chip) (x : Nat) (a : XAcc) (va n : Nat) : Except VStop (List VPiece) :=
  (vParts 64 va n).foldl (fun (r : Except VStop (List VPiece)) p =>
    match r with
    | .error e => .error e
    | .ok l =>
      match c.translate x p.1 a (c.cxSecure x) with
      | .trap t => .error (.trap t p.1)
      | .walk => .error (.walk p.1)
      | .ok pa yrw => if isDevice pa then .error (.trap trMemAttr p.1) else .ok (l ++ [⟨p.1, pa, p.2, yrw⟩])) (.ok [])

/-- What a failed range does. -/
def Chip.vFail (c : Chip) (x : Nat) (e : VStop) : Chip :=
  match e with
  | .walk va => c.walkStart x va (c.cxSecure x)
  | .trap t va => c.raise x t va 0 slotM0

/-- Read the pieces of a range: none while lines are awaited; the value and the address of the first poisoned piece. -/
def Chip.vRead (c : Chip) (x : Nat) (kind : AKind) (l : List VPiece) : Option (Nat × Option Nat) × Chip :=
  match c.serialLines x kind (c.cxSecure x) (l.map (fun p => (p.pa / 64, p.yrw))) with
  | (none, c) => (none, c)
  | (some got, c) =>
    let r := l.foldl (fun (a : Nat × Nat × Option Nat) p =>
      let b := gotBytes got p.pa p.len
      (a.1 + b.1 <<< (8 * a.2.1), a.2.1 + p.len, if a.2.2.isNone && b.2 then some p.va else a.2.2)) (0, 0, none)
    (some (r.1, r.2.2), c)

/-- Put the pieces of a write into the store queue. -/
def Chip.vWrite (c : Chip) (x : Nat) (kind : AKind) (l : List VPiece) (v : Nat) : Chip :=
  (l.foldl (fun (a : Nat × Chip) p => (a.1 + p.len, a.2.pushStore x p.pa p.len (bits v (8 * a.1) (8 * p.len)) kind p.yrw)) (0, c)).2

/-! ### Strings -/

/-- What the chunk that starts now reads and writes: lengths and addresses (R109). -/
structure Chunk where
  k : Nat
  rd1 : Option Nat
  rd2 : Option Nat
  wr : Option Nat
  deriving DecidableEq, Repr

def Opn.chunk (o : Opn) (g : Nat → Nat) : Chunk :=
  let a := g o.rd
  let n := g o.rb
  let fwd := Nat.min n (256 - a % 256)
  if o.min = 1 then
    (if movsBack a (g o.ra) n then
      let e := (a + n) % 256
      let k := Nat.min n (if e = 0 then 256 else e)
      ⟨k, some ((g o.ra + n - k) % m64), none, some ((a + n - k) % m64)⟩
     else ⟨fwd, some (g o.ra), none, some a⟩)
  else if o.min = 2 then ⟨fwd, none, none, some a⟩
  else if o.min = 3 then ⟨fwd, some a, some (g o.ra), none⟩
  else ⟨fwd, some a, none, none⟩

/-- The FILLS bytes of a chunk (R109). -/
def fillBytes (gp a k : Nat) : Nat := ofBytes ((List.range k).map (fun i => bits gp (8 * ((a + i) % 8)) 8))

/-- The first of k byte positions that a test picks. -/
def firstByte (k : Nat) (p : Nat → Bool) : Option Nat := (List.range k).find? p

/-- Registers at the end of a chunk, and the predicate and end where the operation completes (R109). -/
def Opn.chunkEnd (o : Opn) (q : Ctx) (ch : Chunk) (v1 v2 : Nat) : Ctx × Bool × Option Nat :=
  let a := q.gr o.rd
  let b := q.gr o.ra
  let n := q.gr o.rb
  let k := ch.k
  let fin := n - k = 0
  let adv := fun (i : Nat) => (q.gw o.rd (a + i)).gw o.rb (n - i)
  if o.min = 1 then
    if movsBack a b n then (q.gw o.rb (n - k), fin, none)
    else ((adv k).gw o.ra (b + k), fin, none)
  else if o.min = 2 then (adv k, fin, none)
  else if o.min = 3 then
    match firstByte k (fun i => bits v1 (8 * i) 8 != bits v2 (8 * i) 8) with
    | some i => ((adv i).gw o.ra (b + i), true, some 0)
    | none => ((adv k).gw o.ra (b + k), fin, some (m64 - 1))
  else
    match firstByte k (fun i => bits v1 (8 * i) 8 == b % 256) with
    | some i => (adv i, true, some (m64 - 1))
    | none => (adv k, fin, some 0)

/-- The operation completes: its predicate result is written (R107), and the registers `l` it has updated stand as results of M0 with
the next bundle's index as their write point, in the order of R61. -/
def Chip.stringEnd (c : Chip) (x : Nat) (o : Opn) (l : List Nat) (p : Option Nat) : Chip :=
  let k := c.ctxOf x
  let c := l.foldl (fun c r => c.pendNow x r (k.idx + 1) 2 (k.gr r) 0) c
  match p with
  | some v => ((if 3 ≤ o.min then c.pendNow x (0x60 + o.pred) (k.idx + 1) 2 v 0 else c)).serialNext x
  | none => c.serialNext x

/-- The checks of a chunk, its reads, its writes and its register updates (R107, R108). -/
def Chip.stringChunkRun (c : Chip) (x : Nat) (o : Opn) : Chip :=
  let k := c.ctxOf x
  let ch := o.chunk k.gr
  let range := fun (a : XAcc) (va : Option Nat) => match va with
    | some va => c.vRange x a va ch.k
    | none => .ok []
  match range .load ch.rd1, range .load ch.rd2, range .store ch.wr with
  | .error e, _, _ => c.vFail x e
  | _, .error e, _ => c.vFail x e
  | _, _, .error e => c.vFail x e
  | .ok r1, .ok r2, .ok w =>
    match c.vRead x .strRead (r1 ++ r2) with
    | (none, c) => c
    | (some (_, some va), c) => c.raise x trDataPoison va 0 slotM0
    | (some (v, none), c) =>
      let v1 := bits v 0 (8 * ch.k)
      let v2 := bits v (8 * ch.k) (8 * ch.k)
      if !w.isEmpty && 16 < (c.ctxOf x).sqCount + w.length then c
      else
        let data := if o.min = 2 then fillBytes (k.gr o.ra) ((ch.wr).getD 0) ch.k else v1
        let c := (c.vWrite x .strWrite w data).evCore x 0x0E 1
        let r := o.chunkEnd (c.ctxOf x) ch v1 v2
        let c := (c.ctxSet x r.1).serialMod x (fun s => { s with begun := true, got := [], ops := [], marks := [] })
        if r.2.1 then c.stringEnd x o (o.stringRegs (movsBack (k.gr o.rd) (k.gr o.ra) (k.gr o.rb))) r.2.2 else c

/-- A chunk starts: its mark stands until it ends. -/
def Chip.chunkStart (c : Chip) (x : Nat) (o : Opn) : Chip := (c.serialMod x (fun s => { s with marks := [0] })).stringChunkRun x o

/-- STRING_CHUNK: between chunks an interrupt is taken, the core switches, or a context with a reported miss or a full store queue makes
way (R33, R69); then the next chunk runs, to its end (R107, R108). -/
def Chip.stringChunk (c : Chip) (x : Nat) : Chip :=
  let k := c.ctxOf x
  let o := k.serialOp
  let begun := k.serial.any (fun s => s.begun && s.marks.isEmpty)
  let stay := c.on (Reg.CORE_SCHED.STALL_CONTINUE (ctxDie x) (ctxCore x)) && !c.peerReady x
  if k.gr o.rb = 0 then c.stringEnd x o [] (some (if o.min = 3 then m64 - 1 else 0))
  else if begun then
    match c.irqBest x with
    | some v => c.raise x (0x40 + v) 0 0 0
    | none =>
      let full := decide (16 ≤ k.sqCount) && decide (o.min ≤ 2)
      let c := if full then c.ctxMod x (fun k => { k with waitSq := true }) else c
      if (c.coreOf (coreIx x)).preempt && c.peerReady x then c.cxLeave x cxReady
      else if (!k.missOps.isEmpty || full) && !stay then (c.evCore x 0x06 1).cxLeave x cxMemwait
      else c.chunkStart x o
  else c.chunkStart x o

def execStringChunk (x : Fin 960) (s : State) : Host.Outcome State Fault Refusal :=
  s.run (fun c => if c.serialRuns x.val (fun k => k == .string) then (c.stringChunk x.val).serialAfter x.val else c)

/-! ### CALLM and RETM -/

/-- Bytes of a frame's first part and of the whole frame (R110). -/
def frameGlen (gm : Nat) : Nat := 64 * ((16 + 32 * popc 12 gm + 63) / 64)
def frameLen (gm vm : Nat) : Nat := frameGlen gm + (if vm = 3 then 512 else 0)

/-- The selected quads' registers in order (R111). -/
def frameRegs (gm : Nat) : List Nat := ((List.range 12).filter (bit gm)).flatMap (fun q => (List.range 4).map (fun i => 16 + 4 * q + i))

/-- CALLM (R110): checks and frame stores, then, once they have drained, g1 and the target. -/
def Chip.callmStep (c : Chip) (x : Nat) : Chip :=
  let k := c.ctxOf x
  let o := k.serialOp
  let e := o.ext.getD 0
  let gm := bits o.syl 3 12
  let vm := bits e 29 2
  let tmode := bit e 28
  let target := if tmode then k.gr o.rd else (k.pc + 32 * sext64 28 (e % 2 ^ 28)) % m64
  let n := frameLen gm vm
  let sp := (k.gr 1 + m64 - n) % m64
  match k.serial with
  | none => c
  | some s =>
    if s.begun then
      if (k.sq ++ k.stWait).any (fun q => decide (s.marks.headD 0 ≤ q.seq)) then c
      else
        match s.failed.head? with
        | some pa => c.raise x trDataPoison ((sp + (pa + 2 ^ 12 - sp % 2 ^ 12) % 2 ^ 12) % m64) 0 slotM0
        | none => (c.ctxMod x (fun k => k.gw 1 sp)).serialEnd x target
    else if k.gr 1 % 64 != 0 then c.raise x trAlign (k.gr 1) 0 slotM0
    else if tmode && target % 32 != 0 then c.raise x trAlign target 0 slotM0
    else
      let regs := frameRegs gm
      let head := (k.pc + 32) % m64 + (gm + vm <<< 12 + n <<< 16 + 0xCA11 <<< 48) <<< 64
      let val := regs.zipIdx.foldl (fun (v : Nat) q => v + k.gr q.1 <<< (8 * (16 + 8 * q.2))) head
      let vval := (List.range 8).foldl (fun (v : Nat) i => v + k.vr (24 + i) <<< (512 * i)) 0
      match c.vRange x .store sp (16 + 8 * regs.length), c.vRange x .store (sp + frameGlen gm) (if vm = 3 then 512 else 0) with
      | .error e, _ => c.vFail x e
      | _, .error e => c.vFail x e
      | .ok w1, .ok w2 =>
        let seq := k.seq
        ((c.vWrite x .store w1 val).vWrite x .store w2 vval).serialMod x (fun s => { s with begun := true, marks := [seq] })

/-- RETM (R112). -/
def Chip.retmStep (c : Chip) (x : Nat) : Chip :=
  let k := c.ctxOf x
  let sp := k.gr 1
  if sp % 64 != 0 then c.raise x trAlign sp 0 slotM0
  else
    match c.vRange x .load sp 16 with
    | .error e => c.vFail x e
    | .ok l =>
      match c.vRead x .load l with
      | (none, c) => c
      | (some (_, some va), c) => c.raise x trDataPoison va 0 slotM0
      | (some (h, none), c) =>
        let ra := bits h 0 64
        let gm := bits h 64 12
        let vm := bits h 76 2
        let n := frameLen gm vm
        if bits h 112 16 != 0xCA11 || vm == 1 || vm == 2 || bits h 78 2 != 0 || bits h 96 16 != 0 || bits h 80 16 != n || ra % 32 != 0 then
          c.raise x trRetm 0 0 slotM0
        else
          let regs := frameRegs gm
          match c.vRange x .load sp (16 + 8 * regs.length), c.vRange x .load (sp + frameGlen gm) (if vm = 3 then 512 else 0) with
          | .error e, _ => c.vFail x e
          | _, .error e => c.vFail x e
          | .ok l1, .ok l2 =>
            match c.vRead x .load (l1 ++ l2) with
            | (none, c) => c
            | (some (_, some va), c) => c.raise x trDataPoison va 0 slotM0
            | (some (v, none), c) =>
              let vbase := 8 * (16 + 8 * regs.length)
              let c := c.ctxMod x (fun k => regs.zipIdx.foldl (fun (k : Ctx) q => k.gw q.1 (bits v (8 * (16 + 8 * q.2)) 64)) k)
              let c := if vm = 3 then c.ctxMod x (fun k => (List.range 8).foldl (fun (k : Ctx) i => k.vw (24 + i) (bits v (vbase + 512 * i) 512)) k) else c
              (c.ctxMod x (fun k => k.gw 1 (sp + n))).serialEnd x ra

/-! ### SGATE -/

/-- Is a physical address in an enabled gateway range of level H (R330)? -/
def Chip.hgate (c : Chip) (pa : Nat) : Bool :=
  (List.range 8).any (fun g => c.on (Reg.SEC_HGATE.EN g) && decide (c.get (Reg.SEC_HGATE.BASE g) ≤ pa / 4096)
    && decide (pa / 4096 ≤ c.get (Reg.SEC_HGATE.LIMIT g)))

/-- Step 2: where the target lies, as the world to be entered allows it. -/
def Chip.sgateTarget (c : Chip) (x t : Nat) : Xl :=
  let toS := !c.cxSecure x
  match c.translate x t .fetch toS with
  | .ok pa y =>
    let k := c.ctxOf x
    let mapped := c.cxPriv x != 2 && bit (k.csGet csPtbase toS) 0
    let gw := match k.tlbFind t toS with | some e => bit e.leaf 6 | none => false
    if isDevice pa then .trap trGate
    else if !toS then .ok pa y
    else if mapped then (if gw then .ok pa y else .trap trGate)
    else if c.hgate pa then .ok pa y else .trap trGate
  | .walk => .walk
  | .trap _ => .trap trGate

/-- SGATE (R330, R331). The bundle at the target that it read for the ENTRY check, before the ordering of step 5, is the one that issues: the spec
does not say whether it is fetched again (DESIGN CHOICE, log 71). -/
def Chip.sgateStep (c : Chip) (x : Nat) : Chip :=
  let k := c.ctxOf x
  let t := k.gr k.serialOp.ra
  let toS := !c.cxSecure x
  if t % 32 != 0 then c.raise x trAlign t 0 slotM0
  else
    match c.sgateTarget x t with
    | .trap _ => c.raise x trGate t 0 slotM0
    | .walk => c.walkStart x t toS
    | .ok pa _ =>
      match c.serialLines x .fetch toS [(pa / 64, 0)] with
      | (none, c) => c
      | (some got, c) =>
        let ld := ((got.head?).map (·.2)).getD LD.bad
        let b := bundleAt ld.data pa
        let entry := bits (sylOf b 0) 25 6 == 0 && bits (sylOf b 0) 0 3 == 1
        if ld.poison || (toS && !entry) then c.raise x trGate t 0 slotM0
        else if !k.pend.all (·.ready) || c.audBlocked k.pend then c
        else if k.pend.any (·.poison) then c.raisePoison x k.pend
        else if !(c.ctxOf x).loadsDone || !(c.ctxOf x).storesDone then c
        else
          let c := ((sortPend k.pend).filter (fun p => p.code != cdTransfer)).foldl (fun c p => c.applyPend x p) c
          let c := c.ctxMod x (fun q => { (q.gw 2 (q.pc + 32)) with pend := [], applied := 0 })
          let c := ((c.serialEnd x t).fetchDrop x).putB (fWorld x) toS
          (c.ctxMod x (fun q => { q with fetch := some ⟨t, b, false, c.cxPriv x, toS⟩ })).irqRoute x

/-! ### Memory Sprocket entries -/

/-- The check phase goes on, under the entry with which the instruction issued (R148); at its end the stores are made and the result becomes
pending (R145, R146). -/
def Chip.sprkStep (c : Chip) (x : Nat) : Chip :=
  let k := c.ctxOf x
  let b := (k.fetch.map (·.bits)).getD 0
  let ent := (k.serial.map (·.ent)).getD 0
  match ((List.range 6).map (opnAt b)).find? (fun o => o.maj == 0x3F) with
  | none => c.serialNext x
  | some o =>
    let h := sprkEntryHdr ent
    let q : SprkCtx := ⟨k, o, h⟩
    match (if h.restart then c.irqBest x else none) with
    | some v => c.raise x (0x40 + v) 0 0 0
    | none =>
      match c.sprkRun x q ent with
      | (.error .wait, c) => c
      | (.error (.trap cause tval uop), c) => c.raise x cause tval 0 (1 <<< 9 + uop <<< 10 + o.slot <<< 15)
      | (.ok r, c) =>
        let c := r.stores.foldl (fun c (s : Nat × Nat × Nat × Nat) => c.pushStore x s.1 s.2.1 s.2.2.1 .store s.2.2.2) c
        let wp := k.idx + h.dist
        let c := match r.result q, c.newJob with
          | some (code, v, t), (job, c) =>
            (c.pendJob x code wp o.slot (if t = 0 then v else 0) job ((t - 1) / 32) r.flags (t != 0)).unitPush x 2 job
          | none, (_, c) => c.pendNow x cdFlags wp o.slot 0 r.flags
        let c := c.dropIds (((c.ctxOf x).serial.map (·.ops)).getD [])
        ((c.ctxMod x (fun k => { k with serial := none })).advance x (c.ctxOf x)).ctxSync x

/-- SERIAL_COMPLETE: CALLM, RETM, SGATE, ERET or a memory Sprocket entry takes its next step, and completes when it can. -/
def Chip.serialStep (c : Chip) (x : Nat) : Chip :=
  match (c.ctxOf x).serial with
  | none => c
  | some s =>
    match s.kind with
    | .callm => c.callmStep x
    | .retm => c.retmStep x
    | .sgate => c.sgateStep x
    | .eret => c.eretStep x
    | .sprk => c.sprkStep x
    | .fence _ | .string => c

def execSerialComplete (x : Fin 960) (s : State) : Host.Outcome State Fault Refusal :=
  s.run (fun c => if c.serialRuns x.val (fun _ => true) then (c.serialStep x.val).serialAfter x.val else c)

end Sys2Proof.Machine
end

