-- ==== Sys2Proof/Machine/Flit.lean ====
section
/-! DEFINITION. Machine/Flit.lean: a flit's payload framed and read (R252, R254 to R256), and what the flit code makes of a
damaged one (R253). -/
namespace Sys2Proof.Machine

/-- A header slot (R255); `ds` is DSLOT. -/
def Msg.header (m : Msg) (ds : Nat) : Nat :=
  1 + (m.cls % 8) <<< 1 + (m.typ % 16) <<< 4 + (m.line % 2 ^ 46) <<< 8 + (m.tag % 2 ^ 12) <<< 54 + (m.agent % 2 ^ 16) <<< 66
    + (m.tenant % 2 ^ 12) <<< 82 + b2n m.secure <<< 94 + (ds % 8) <<< 95 + b2n m.dirty <<< 98 + b2n m.poison <<< 99
    + (m.yrw % 4) <<< 100 + (m.aux % 2 ^ 12) <<< 102 + (m.dstDie % 16) <<< 114 + (m.dstPkg % 8) <<< 118

/-- Payload bits of the messages from header slot `h` and data slot `k` on (R254, R256). -/
def frameFrom : List Msg → Nat → Nat → Nat
  | [], _, _ => 0
  | m :: l, h, k =>
    let n := m.slotsOfData
    let d := (match m.data with | some x => x.toNat <<< (1376 + 512 * k) | none => 0)
      + (match m.mask with | some x => if n = 2 then x.toNat <<< (1376 + 512 * (k + 1)) else 0 | none => 0)
    m.header (if n = 0 then 7 else k) <<< (80 + 121 * h) + d + frameFrom l (h + 1) (k + n)

/-- A flit's payload: control field and messages. -/
def framePayload (ctl : Nat) (l : List Msg) : Nat := ctl % 2 ^ 80 + frameFrom l 0 0

/-- Data slot k of a payload. -/
def dataSlot (p k : Nat) : Nat := bits p (1376 + 512 * k) 512

/-- The message of header slot h, if V is 1. A masked WR_NC's mask stands in the next data slot; a WR_NC whose data slot is
followed by one that no header names is masked (R256). -/
def readSlot (p h : Nat) : Option Msg :=
  let x := bits p (80 + 121 * h) 121
  if bits x 0 1 = 0 then none
  else
    let ds := bits x 95 3
    let used := (List.range 10).map (fun j => bits (bits p (80 + 121 * j) 121) 95 3)
    let masked := bits x 1 3 == clsReq && bits x 4 4 == tWrNc && decide (ds < 6) && !used.contains (ds + 1) && dataSlot p (ds + 1) != 0
    some { Msg.mk0 (bits x 1 3) (bits x 4 4) (bits x 8 46) with
      tag := bits x 54 12, agent := bits x 66 16, tenant := bits x 82 12, secure := bit x 94, dirty := bit x 98, poison := bit x 99,
      yrw := bits x 100 2, aux := bits x 102 12, dstDie := bits x 114 4, dstPkg := bits x 118 3
      data := if ds = 7 then none else some (BitVec.ofNat 512 (dataSlot p ds))
      mask := if masked then some (BitVec.ofNat 64 (dataSlot p (ds + 1))) else none }

/-- The messages of a payload, in header slot order; a reserved class is none. -/
def readPayload (p : Nat) : List Msg := (List.range 10).filterMap (fun h => (readSlot p h).filter (fun m => decide (m.cls < 5)))

/-- The active lanes of a Tandem port, in order: all sixteen at x16, the lower or upper eight at x8, renumbered from 0 (R267). -/
def tdmLanes (x8 upper : Bool) : List Nat := if x8 then (List.range 8).map (fun l => if upper then l + 8 else l) else List.range 16

/-- Where symbol s of a flit travels: its physical lane and its position on it (R267). -/
def tdmPlace (x8 upper : Bool) (s : Nat) : Nat × Nat :=
  let l := tdmLanes x8 upper
  (((l[s % l.length]?).getD 0), s / l.length)

/-- What lane l of a Tandem port carries of a flit's symbols, in order of position (R267). -/
def tdmOnLane (x8 upper : Bool) (syms : List Nat) (l : Nat) : List Nat :=
  (syms.zipIdx.filter (fun x => (tdmPlace x8 upper x.2).1 == l)).map (·.1)

/-- Symbols changed on the way: each with what its bits were XORed with, one entry a symbol. -/
def errVector (errs : List (Nat × Nat)) : SMap Nat :=
  errs.foldl (fun m e => if e.1 < 512 then SMap.put m 0 e.1 (SMap.getD m e.1 0 ^^^ (e.2 % 1024)) else m) []

/-- The 512 symbols of a flit: 16 check symbols, then the payload (R252, R253). -/
def flitSymbols (payload : Nat) : List Nat :=
  let d := (List.range 496).map (fun i => bits payload (10 * i) 10)
  gf10.checks 16 d ++ d

/-- The payload that symbols hold. -/
def symbolsPayload (s : List Nat) : Nat := ((s.drop 16).zipIdx.map (fun x => x.1 <<< (10 * x.2))).foldl (· + ·) 0

/-- Symbols with some of them changed. -/
def symbolsXor (s : List Nat) (errs : List (Nat × Nat)) : List Nat := errs.foldl (fun s e => s.modify e.1 (· ^^^ e.2)) s

/-- What the receiver makes of a flit (R253): the symbols corrected and, for a miscorrected one, the payload as read. -/
inductive FlitRes where
  | good (fixed : List Nat)
  | wrong (fixed : List Nat) (payload : Nat)
  | bad
  deriving DecidableEq, Repr

/-- Decode a flit sent with a payload and changed on the way: at most 8 changed symbols are always corrected; of more, what the
code makes of the symbols received. -/
def flitDecode (payload : Nat) (errs : List (Nat × Nat)) : FlitRes :=
  let e := errVector errs
  if e.length ≤ 8 then .good (e.map (·.1))
  else
    let got := symbolsXor (flitSymbols payload) e
    match gf10.decode 16 got [] with
    | none => .bad
    | some fix => .wrong (fix.map (·.1)) (symbolsPayload (symbolsXor got fix))

/-- Credits returned in a control field's CRD at bit `lo` (R259, R270), 8 bits a class. -/
def crdField (ret : List Nat) : Nat := (ret.zipIdx.map (fun r => Nat.min r.1 255 <<< (8 * r.2))).foldl (· + ·) 0
def crdOf (x lo : Nat) : List Nat := (List.range 5).map (fun k => bits x (lo + 8 * k) 8)

/-- The control field of a Tandem flit: paired as a Spoke's, with SEQ and CRD; packetised under R270 (R269). -/
def TdmFrame.control (f : TdmFrame) (packet : Bool) : Nat :=
  if packet then
    f.seq % 2 ^ 12 + (match f.ack with | some a => (a % 2 ^ 12) <<< 12 + 1 <<< 24 | none => 0) + b2n f.nak <<< 25 + b2n f.idle <<< 26
      + crdField f.crd <<< 32
  else crdField f.crd <<< 24 + (f.seq % 256) <<< 64

/-- The payload of a Tandem flit, and its symbols as they stand on the lanes. -/
def TdmFrame.payload (f : TdmFrame) (packet : Bool) : Nat := framePayload (f.control packet) f.msgs
def TdmFrame.symbols (f : TdmFrame) (packet : Bool) : List Nat := flitSymbols (f.payload packet)

/-- A Tandem flit's content as its payload reads. -/
def TdmFrame.ofPayload (packet : Bool) (p : Nat) : TdmFrame :=
  if packet then
    ⟨bits p 0 12, if bit p 24 then some (bits p 12 12) else none, bit p 25, bit p 26, crdOf p 32, readPayload p⟩
  else ⟨bits p 64 8, none, false, false, crdOf p 24, readPayload p⟩

end Sys2Proof.Machine
end

