-- ==== Sys2Proof/Machine/Spoke.lean ====
section
/-! DEFINITION. Machine/Spoke.lean: the Spoke links (R258 to R266): flits, corrected symbols and repairs, the width change,
training, and what a lost link does. -/
namespace Sys2Proof.Machine

/-! ### Masks and wires (R258) -/

/-- The mask of bad wires of a direction, as an end holds it. -/
def Chip.spkMask (c : Chip) (hub up : Bool) (d : Nat) : Nat :=
  (List.range 5).foldl (fun n k => n + c.get (match hub, up with
    | true, true => Reg.SPK_BAD_UP.WIRES d k
    | true, false => Reg.SPK_BAD_DN.WIRES d k
    | false, true => Reg.SPKD_BAD_UP.WIRES d k
    | false, false => Reg.SPKD_BAD_DN.WIRES d k) <<< (64 * k)) 0

/-- An end takes a mask; its SPK_STATUS counts the wires. -/
def Chip.spkMaskPut (c : Chip) (hub up : Bool) (d m : Nat) : Chip :=
  let m := m % 2 ^ 272
  let c := (List.range 5).foldl (fun c k => c.put (match hub, up with
    | true, true => Reg.SPK_BAD_UP.WIRES d k
    | true, false => Reg.SPK_BAD_DN.WIRES d k
    | false, true => Reg.SPKD_BAD_UP.WIRES d k
    | false, false => Reg.SPKD_BAD_DN.WIRES d k) (bits m (64 * k) 64)) c
  c.put (match hub, up with
    | true, true => Reg.SPK_STATUS.BAD_UP d
    | true, false => Reg.SPK_STATUS.BAD_DN d
    | false, true => Reg.SPKD_STATUS.BAD_UP d
    | false, false => Reg.SPKD_STATUS.BAD_DN d) (popc 272 m)

/-- Both ends take a mask. -/
def Chip.spkMaskBoth (c : Chip) (up : Bool) (d m : Nat) : Chip := (c.spkMaskPut true up d m).spkMaskPut false up d m

/-- Wires that may be bad at full and at half width (R258). -/
def spkFullMax : Nat := 16
def spkHalfMax : Nat := 144

/-- Physical wire of logical wire w under a mask (R258). -/
def physWire (mask w : Nat) : Option Nat := ((List.range 272).filter (fun j => !bit mask j))[w]?

/-- Logical wire that carries a symbol (R258). -/
def logWire (half : Bool) (sym : Nat) : Nat := if half && 256 ≤ sym then (sym - 256) / 2 else sym / 2

/-! ### State, log and loss of a link -/

def Chip.spkState (c : Chip) (d : Nat) : Nat := c.get (Reg.SPK_STATUS.STATE d)

/-- Both ends take a state. -/
def Chip.spkEnter (c : Chip) (d st : Nat) : Chip := (c.put (Reg.SPK_STATUS.STATE d) st).put (Reg.SPKD_STATUS.STATE d) st

def Chip.spkIrq (c : Chip) (d : Nat) : Chip := c.irqReg (Reg.SPK_IRQ.AGENT d) (Reg.SPK_IRQ.VEC d) (Reg.SPK_IRQ.EN d)

/-- Capture an event in an end's SPK_ERR_LOG, if it is armed, and send that end's message. The wire and direction of an event
that is no wire's are free values (log 1). -/
def Chip.spkLog (c : Chip) (hub : Bool) (d kind : Nat) (wire : Option (Bool × Nat)) : Chip :=
  if c.on (if hub then Reg.SPK_ERR_LOG.VALID d else Reg.SPKD_ERR_LOG.VALID d) then c
  else
    let r := match wire with
      | some (up, w) => (w, b2n (!up), c)
      | none => let a := c.fresh; (a.1 % 512, a.1 / 512 % 2, a.2)
    if hub then
      (r.2.2.puts [(Reg.SPK_ERR_LOG.WIRE d, r.1), (Reg.SPK_ERR_LOG.DIR d, r.2.1), (Reg.SPK_ERR_LOG.KIND d, kind),
        (Reg.SPK_ERR_LOG.VALID d, 1)]).spkIrq d
    else
      (r.2.2.puts [(Reg.SPKD_ERR_LOG.WIRE d, r.1), (Reg.SPKD_ERR_LOG.DIR d, r.2.1), (Reg.SPKD_ERR_LOG.KIND d, kind),
        (Reg.SPKD_ERR_LOG.VALID d, 1)]).irqReg (Reg.SPKD_IRQ.AGENT d) (Reg.SPKD_IRQ.VEC d) (Reg.SPKD_IRQ.EN d)

/-- SPK_ERR_LOG of the hub captures an event, and SPK_IRQ is sent whether or not the log was armed (R262, R265). -/
def Chip.spkLogIrq (c : Chip) (d kind : Nat) : Chip :=
  if c.on (Reg.SPK_ERR_LOG.VALID d) then c.spkIrq d else c.spkLog true d kind none

/-- Offset of SPK_STATUS of port d in the CSR space. -/
def spkStatusOff (d : Nat) : Nat := 0xC5000008 + d * 0x10000

/-- The value of a register as software reads it. -/
def Chip.regVal (c : Chip) (off : Nat) : Nat := (c.loadAt off).1

/-- The agent IDs of a package's hub units (R4). -/
def hubAgents (pkg : Nat) : List Nat :=
  [16, 8, 16, 8, 8, 6, 3, 3].zipIdx.flatMap (fun p => (List.range p.1).map (hubAgent pkg p.2))

/-- The audit record of a Spoke port's new SPK_STATUS (R262, R265, R343). R4 gives the port no agent ID: which of the hub's is a free
value (log 1). -/
def Chip.spkAudit (c : Chip) (d : Nat) : Chip :=
  let a := c.fresh
  a.2.hwRecord (((hubAgents c.pkg)[a.1 % 68]?).getD 0) (c.csrBase + spkStatusOff d) (c.regVal (spkStatusOff d))

/-- The link's queues, numbers, credits and repairs start again: what was in flight is lost (R257, R260, R266). -/
def SpkSt.clear (s : SpkSt) : SpkSt :=
  { SpkSt.init with choice := s.choice, silent := s.silent, half := s.half, rejoin := s.rejoin }

/-- Wires that were declared bad and wait for their repair join their receiver's mask: they stay bad until the reset that clears it (R261). -/
def Chip.spkKeepBad (c : Chip) (d : Nat) : Chip :=
  let s := c.spkOf d
  let wires := fun (up : Bool) (run : Option (Nat × Nat)) =>
    ((run.map (·.1)).toList ++ (s.repQ.filter (fun r => r.1 == up)).map (·.2)).foldl (fun m w => m ||| 2 ^ w) 0
  let u := wires true s.repUp
  let n := wires false s.repDn
  let c := if u = 0 then c else c.spkMaskPut true true d (c.spkMask true true d ||| u)
  if n = 0 then c else c.spkMaskPut false false d (c.spkMask false false d ||| n)

/-- The link starts again, and its buffers hold nothing (R257, R260, R261, R266). -/
def Chip.spkClear (c : Chip) (d : Nat) (f : SpkSt → SpkSt) : Chip :=
  ((c.spkKeepBad d).spkMod d (fun s => f s.clear)).bufReset [6 + d, 18 + d]

/-- The link is lost: FENCED, and the hub fences the die (R195, R260, R262 to R264), whose way back ends with it (R266); `fz` is the cause its
contexts record. -/
def Chip.spkLose (c : Chip) (d cause fz : Nat) : Chip :=
  let c := ((c.spkEnter d spkFenced).put (Reg.SPK_STATUS.FENCE_CAUSE d) cause).spkClear d (fun s => { s with rejoin := 0 })
  (c.spkLog true d 2 none).fenceDie c.pkg d fz 0

/-! ### Repairs and the width change (R261 to R263) -/

/-- Wires of a direction that are bad or wait for their repair. -/
def Chip.spkBadAll (c : Chip) (up : Bool) (d : Nat) : Nat :=
  let s := c.spkOf d
  let run := match (if up then s.repUp else s.repDn) with | some r => [r.1] | none => []
  let wait := (s.repQ.filter (fun r => r.1 == up)).map (·.2)
  (run ++ wait).foldl (fun m w => m ||| 2 ^ w) (c.spkMask true up d)

/-- Start the waiting repair with the lowest wire of a direction whose repair does not run. -/
def Chip.spkRepairNext (c : Chip) (up : Bool) (d : Nat) : Chip :=
  let s := c.spkOf d
  if (if up then s.repUp else s.repDn).isSome then c
  else
    match ((s.repQ.filter (fun r => r.1 == up)).map (·.2)).min? with
    | none => c
    | some w =>
      c.spkMod d (fun s =>
        let s := { s with repQ := s.repQ.filter (fun r => r != (up, w)) }
        if up then { s with repUp := some (w, (s.expUp + 64) % 256) } else { s with repDn := some (w, (s.expDn + 64) % 256) })

/-- The hub starts the width change: repairs asked for join the masks (R261, R262). -/
def Chip.spkWidthStart (c : Chip) (d : Nat) : Chip :=
  let u := c.spkBadAll true d
  let n := c.spkBadAll false d
  let c := ((c.spkMaskBoth true d u).spkMaskBoth false d n).spkMod d (fun s =>
    { s with repQ := [], repUp := none, repDn := none, width := 1 })
  c.spkEnter d spkQuiesce

/-- A wire is declared bad (R261, R263): repaired, or the width changes, or, at half width, it joins the masks while 144 are
not exceeded. -/
def Chip.spkWireBad (c : Chip) (up : Bool) (d w : Nat) : Chip :=
  let all := c.spkBadAll up d
  if bit all w then c
  else
    let c := c.spkLog up d 0 (some (up, w))
    if c.spkState d = spkUpSt && !c.on (Reg.SPK_STATUS.HALF d) then
      let c := c.spkMod d (fun s => { s with repQ := s.repQ ++ [(up, w)] })
      if popc 272 all < spkFullMax then c.spkRepairNext up d else c.spkWidthStart d
    else
      let m := all ||| 2 ^ w
      let c := c.spkMaskBoth up d m
      if spkHalfMax < popc 272 m then c.spkLose d 1 fzLost else c

/-- Symbols corrected at a receiver: counted, and charged to their wires (R261). -/
def Chip.spkCorrected (c : Chip) (up : Bool) (d : Nat) (syms : List Nat) : Chip :=
  if syms.isEmpty then c
  else
    let n := syms.length
    let c := if up then (c.count (Reg.SPK_ERR_CNT.CORR_SYMBOLS d) n).evHub (ugSpk d) 0x52 n evNone
      else (c.count (Reg.SPKD_ERR_CNT.CORR_SYMBOLS d) n).evSpk d 0x52 n evNone
    let half := c.on (Reg.SPK_STATUS.HALF d)
    let mask := c.spkMask true up d
    let limit := c.get (if up then Reg.SPK_CTRL.THRESH_COUNT d else Reg.SPKD_CTRL.THRESH_COUNT d)
    let window := 4000 * c.get (if up then Reg.SPK_CTRL.THRESH_WINDOW d else Reg.SPKD_CTRL.THRESH_WINDOW d)
    syms.foldl (fun c sym =>
      match physWire mask (logWire half sym) with
      | none => c
      | some w =>
        let key := if up then w else 512 + w
        let past := ((SMap.getD (c.spkOf d).wires key []).filter (fun t => decide (c.time < t + window))) ++ [c.time]
        let bad := decide (limit ≤ past.length)
        let c := c.spkMod d (fun s => { s with wires := SMap.put s.wires [] key (if bad then [] else past) })
        if bad then c.spkWireBad up d w else c) c

/-- The flit numbered REPAIR_SEQ arrives: both ends use the new map from it on (R261). -/
def Chip.spkRepairSwitch (c : Chip) (up : Bool) (d seq : Nat) : Chip :=
  let s := c.spkOf d
  match (if up then s.repUp else s.repDn) with
  | none => c
  | some (w, at_) =>
    if at_ != seq then c
    else
      let c := c.spkMaskBoth up d (c.spkMask true up d ||| 2 ^ w)
      let c := c.count (if up then Reg.SPK_ERR_CNT.REPAIRS d else Reg.SPKD_ERR_CNT.REPAIRS d) 1
      (c.spkMod d (fun s => if up then { s with repUp := none } else { s with repDn := none })).spkRepairNext up d

/-! ### Flits (R259, R260) -/

/-- The control field of a Spoke flit (R259). -/
def spkControl (rep : Option (Nat × Nat)) (change : Bool) (ret : List Nat) (seq : Nat) : Nat :=
  (match rep with | some (w, at_) => 1 + w <<< 1 + at_ <<< 10 | none => 0) + b2n change <<< 18 + crdField ret <<< 24 + (seq % 256) <<< 64

/-- The sender's counts for a flit. -/
def Chip.spkSent (c : Chip) (up : Bool) (d : Nat) (l : List Msg) : Chip :=
  let ev := fun (c : Chip) (e n : Nat) (k : EvKey) => if up then c.evSpk d e n k else c.evHub (ugSpk d) e n k
  let c := ev c 0x50 1 evNone
  let c := if l.isEmpty then ev c 0x51 1 evNone else c
  l.foldl (fun c m =>
    let c := ev c 0x53 m.slotsOfData (evOf m.tenant m.secure)
    if up then c.nrgEv (domDie d) 5 (c.keyOf m.agent m.tenant) 1 else c.nrgEv domSpk 23 (c.keyOf m.agent m.tenant) 1) c

/-- The receiver takes a flit's messages into its buffers, and the credits it brings (R257). -/
def Chip.spkDeliver (c : Chip) (up : Bool) (d : Nat) (l : List Msg) (crd : List Nat) : Chip :=
  let c := if up then
      { c with coh := { c.coh with hubIn := c.coh.hubIn ++ l.map (fun (m : Msg) => { m with arrived := c.time, buf := some (6 + d) }) } }
    else { c with coh := { c.coh with dieIn := c.coh.dieIn ++ l.map (fun (m : Msg) => (d, { m with buf := some (18 + d) })) } }
  c.spkMod d (fun s => if up then { s with crDn := addCr s.crDn crd } else { s with crUp := addCr s.crUp crd })

/-- The receiver of a direction takes the next flit: `gap` says that it is not the next one sent, `errs` which of its symbols
were changed on the way. -/
def Chip.spokeFlit (c : Chip) (d : Nat) (up gap : Bool) (errs : List (Nat × Nat)) : Chip :=
  let s := c.spkOf d
  let moving := c.spkState d == spkUpSt
  if !moving && !(c.spkState d == spkQuiesce && s.width == 1) then c
  else
    let q := if up then s.up else s.dn
    let k := if moving then packFlit q (if up then s.crUp else s.crDn) else ⟨[], q, 0, 0, if up then s.crUp else s.crDn, []⟩
    let seq := ((if up then s.seqUp else s.seqDn) + b2n gap) % 256
    let ret := if up then s.retDn else s.retUp
    let ctl := spkControl (if up then s.repDn else s.repUp) (c.spkState d == spkQuiesce) ret seq
    let c := c.spkSent up d k.take
    let c := c.spkMod d (fun s =>
      if up then { s with up := k.rest, crUp := k.cr, retDn := crdLeft s.retDn, seqUp := (seq + 1) % 256 }
      else { s with dn := k.rest, crDn := k.cr, retUp := crdLeft s.retUp, seqDn := (seq + 1) % 256 })
    let c := c.spkRepairSwitch up d seq
    let due := ((if up then s.expUp else s.expDn) + 1) % 256
    let take := fun (c : Chip) (seq : Nat) (l : List Msg) (crd : List Nat) =>
      if seq != due then (if up then c else c.put (Reg.SPKD_STATUS.FENCE_CAUSE d) 3).spkLose d 3 fzLost
      else (c.spkMod d (fun s => if up then { s with expUp := seq } else { s with expDn := seq })).spkDeliver up d l crd
    match flitDecode (framePayload ctl k.take) errs with
    | .bad => (if up then c else c.put (Reg.SPKD_STATUS.FENCE_CAUSE d) 2).spkLose d 2 fzLost
    | .good fx => (take c seq k.take (ret.map (Nat.min · 255))).spkCorrected up d fx
    | .wrong fx p => (take c (bits p 64 8) (readPayload p) (crdOf p 24)).spkCorrected up d fx

def execSpokeFlitReceive (d : Fin 12) (up gap : Bool) (errs : List (Nat × Nat)) (s : State) : Host.Outcome State Fault Refusal :=
  s.run (fun c => c.spokeFlit d.val up gap errs)

/-- A die end that has received no valid flit for 1 µs stops its cores (R260); while the width changes there are none. -/
def Chip.dieSilence (c : Chip) (d : Nat) : Chip :=
  if c.spkState d = spkUpSt || c.spkState d = spkFenced then c.spkMod d (fun s => { s with silent := true }) else c

def execDieEndSilence (d : Fin 12) (s : State) : Host.Outcome State Fault Refusal := s.run (fun c => c.dieSilence d.val)

/-- A step of the width change is ready (R262). -/
def Chip.widthStep (c : Chip) (d : Nat) : Chip :=
  if c.spkState d != spkQuiesce then c
  else
    let w := (c.spkOf d).width
    if w < 3 then c.spkMod d (fun s => { s with width := w + 1 })
    else
      let c := (c.spkEnter d spkUpSt).spkMod d (fun s => { s with width := 0, half := true })
      (((c.put (Reg.SPK_STATUS.HALF d) 1).put (Reg.SPKD_STATUS.HALF d) 1).spkLogIrq d 1).spkAudit d

def execWidthStepReady (d : Fin 12) (s : State) : Host.Outcome State Fault Refusal := s.run (fun c => c.widthStep d.val)

/-- A step of the width change times out (R262). -/
def execWidthStepTimeout (d : Fin 12) (s : State) : Host.Outcome State Fault Refusal :=
  s.run (fun c => if c.spkState d.val = spkQuiesce then c.spkLose d.val 1 fzCoh else c)

/-! ### Training (R264 to R266) -/

/-- A training begins at step 1; the port of an absent die stays OFF. -/
def Chip.spkTrain (c : Chip) (d : Nat) : Chip :=
  if !c.diePresent d then c
  else
    ((c.spkEnter d spkTraining).puts [(Reg.SPK_STATUS.DISAGREE d, 0), (Reg.SPK_STATUS.DEGRADED d, 0), (Reg.SPK_STATUS.HALF d, 0),
      (Reg.SPKD_STATUS.HALF d, 0)]).spkClear d (fun s => { s with train := 1, choice := 0 })

/-- SPK_CTRL.RETRAIN: a die whose link is up is fenced first (R266). -/
def Chip.spkRetrain (c : Chip) (d : Nat) : Chip :=
  let live := c.spkState d == spkUpSt || c.spkState d == spkQuiesce
  let c := if live then ((c.put (Reg.SPK_STATUS.FENCE_CAUSE d) 5).spkLog true d 2 none).fenceDie c.pkg d fzCoh 0 else c
  c.spkTrain d

/-- The width that both masks allow: 2 full, 1 half, 0 none (R258, R264); at half width a link stays there (R262). -/
def Chip.spkChoose (c : Chip) (d : Nat) : Nat :=
  let n := Nat.max (popc 272 (c.spkMask true true d)) (popc 272 (c.spkMask true false d))
  if n ≤ spkFullMax && !(c.spkOf d).half then 2 else if n ≤ spkHalfMax then 1 else 0

/-- Training has failed (R264, R265). -/
def Chip.spkTrainFail (c : Chip) (d : Nat) : Chip := c.spkLose d 4 fzCoh

/-- A disagreement: the hub keeps the union of the masks it has seen; the third forces half width (R265). -/
def Chip.spkDisagree (c : Chip) (d up dn : Nat) : Chip :=
  let c := c.spkMaskPut true true d (c.spkMask true true d ||| up)
  let c := c.spkMaskPut true false d (c.spkMask true false d ||| dn)
  let n := c.get (Reg.SPK_STATUS.DISAGREE d) + 1
  let c := (c.put (Reg.SPK_STATUS.DISAGREE d) n).spkLog true d 3 none
  if n < 3 then c.spkMod d (fun s => { s with train := 2 })
  else if c.spkChoose d = 0 then c.spkTrainFail d
  else
    let c := (c.put (Reg.SPK_STATUS.DEGRADED d) 1).spkMod d (fun s => { s with train := 6, choice := 1 })
    let c := (c.spkMaskPut false true d (c.spkMask true true d)).spkMaskPut false false d (c.spkMask true false d)
    (c.spkIrq d).spkAudit d

/-- The link is up; a die that was reset begins its way back into the domain (R196, R265, R266). -/
def Chip.spkUp (c : Chip) (d : Nat) : Chip :=
  let half := (c.spkOf d).choice == 1
  let c := ((c.spkEnter d spkUpSt).puts [(Reg.SPK_STATUS.DISAGREE d, 0), (Reg.SPK_STATUS.HALF d, b2n half),
    (Reg.SPKD_STATUS.HALF d, b2n half)]).spkClear d (fun s => { s with half := s.half || half, choice := 0 })
  if (c.spkOf d).rejoin != 1 then c.rejoinCheck
  else
    let ask := c.others.filter (fun q => !c.fencedPkg q)
    let c := c.spkMod d (fun s => { s with rejoin := 2 })
    let c := { c with coh := { c.coh with unfenceWait := c.coh.unfenceWait.filter (fun (u : Nat × List Nat) => u.1 != d) ++ [(d, ask)] } }
    (ask.foldl (fun (c : Chip) q => c.sendMsg { Msg.mk0 clsRsp tUnfence 0 with
      agent := c.tableAgent, aux := mkClu c.pkg d 0, dstPkg := q, dstDie := 12 }) c).rejoinCheck

/-- A training step is ready (R264): in step 3, `up` and `dn` are the wires found bad by the hub and by the die; in step 5,
`agree` says that the die's answer equals the hub's report, and otherwise `up` and `dn` are the masks it answers. -/
def Chip.spkTrainStep (c : Chip) (d up dn : Nat) (agree : Bool) : Chip :=
  if c.spkState d != spkTraining || !c.diePresent d then c
  else
    let go := fun (c : Chip) (n : Nat) => c.spkMod d (fun s => { s with train := n })
    match (c.spkOf d).train with
    | 1 => if c.bitOf Reg.HUB_CLK_STATUS.DIE_LOCK d then go c 2 else c
    | 2 => go c 3
    | 3 =>
      let c := c.spkMaskPut true true d (c.spkMask true true d ||| up)
      go (c.spkMaskPut false false d (c.spkMask false false d ||| dn)) 4
    | 4 => go (c.spkMaskPut true false d (c.spkMask true false d ||| c.spkMask false false d)) 5
    | 5 =>
      if c.spkChoose d = 0 then c.spkTrainFail d
      else if !agree then c.spkDisagree d up dn
      else
        let c := (c.spkMaskPut false true d (c.spkMask true true d)).spkMaskPut false false d (c.spkMask true false d)
        go (c.spkMod d (fun s => { s with choice := c.spkChoose d })) 6
    | 6 => go c 7
    | 7 => c.spkUp d
    | _ => c

def execSpokeTrainStepReady (d : Fin 12) (up dn : BitVec 272) (agree : Bool) (s : State) : Host.Outcome State Fault Refusal :=
  s.run (fun c => c.spkTrainStep d.val up.toNat dn.toNat agree)

/-- A training step times out, or step 6 fails (R264, R265). -/
def Chip.spkTrainTimeout (c : Chip) (d : Nat) : Chip :=
  if c.spkState d != spkTraining then c
  else
    let n := (c.spkOf d).train
    if !c.diePresent d then c
    else if n = 5 || (n = 6 && !c.on (Reg.SPK_STATUS.DEGRADED d)) then c.spkDisagree d 0 0 else c.spkTrainFail d

def execSpokeTrainStepTimeout (d : Fin 12) (s : State) : Host.Outcome State Fault Refusal := s.run (fun c => c.spkTrainTimeout d.val)

end Sys2Proof.Machine
end

