-- ==== Sys2Proof/Machine/Tandem.lean ====
section
/-! DEFINITION. Machine/Tandem.lean: the Tandem ports (R267 to R278, R461): flits, replay, port states, training and routes. -/
namespace Sys2Proof.Machine

/-! ### Routes (R278) -/

/-- Does port p lead to package q, directly or through VIA? -/
def Chip.routeUses (c : Chip) (p q : Nat) : Bool :=
  c.bitOf (Reg.TDM_ROUTE.PORTS 0 q) p
    || (c.on (Reg.TDM_ROUTE.VIA_EN 0 q) && c.bitOf (Reg.TDM_ROUTE.PORTS 0 (c.get (Reg.TDM_ROUTE.VIA 0 q))) p)

/-- New messages for package q are held until its route has settled. -/
def Chip.holdRoute (c : Chip) (q : Nat) : Chip :=
  if c.routeHold.any (fun h => h.1 == q) then c else { c with routeHold := c.routeHold ++ [(q, [])] }

/-- The set of UP ports changed at port p. -/
def Chip.holdRoutes (c : Chip) (p : Nat) : Chip :=
  (List.range 8).foldl (fun c q => if q != c.pkg && c.routeUses p q then c.holdRoute q else c) c

/-- Flits already sent toward q and not acknowledged, on a packetised port. -/
def Chip.unacked (c : Chip) (q : Nat) : Bool :=
  c.tdm.any (fun t => t.2.replay.any (fun r => r.2.1.any (fun m => m.dstPkg == q)))

/-- The hold on a package ends: its messages take the route as it now is, older ones first. -/
def Chip.routeRelease (c : Chip) (q : Nat) : Chip :=
  if c.unacked q then c
  else
    match c.routeHold.find? (fun h => h.1 == q) with
    | none => c
    | some h =>
      let c := ({ c with routeHold := c.routeHold.filter (fun h => h.1 != q) }).awayRetry
      h.2.foldl (fun c m => c.sendOrGive m) c

def execRouteHoldRelease (q : Fin 8) (s : State) : Host.Outcome State Fault Refusal := s.run (fun c => c.routeRelease q.val)

/-! ### Port states (R272, R275) -/

/-- Offset of TDM_STATUS of port p in the CSR space. -/
def tdmStatusOff (p : Nat) : Nat := 0xC5800008 + p * 0x10000

/-- A change of STATE: audited, reported on an entry to DOWN or HELD, and seen by routes and Chainline, which forgets the far end of
a port that is DOWN (R53, R275, R278). -/
def Chip.tdmEnter (c : Chip) (p st : Nat) (reason : Option Nat) : Chip :=
  let old := c.tdmState p
  let c := c.put (Reg.TDM_STATUS.STATE p) st
  let c := match reason with | some r => c.put (Reg.TDM_STATUS.REASON p) r | none => c
  if old = st then c
  else
    let c := c.hwRecord (hubAgent c.pkg 5 p) (c.csrBase + tdmStatusOff p) (c.loadAt (tdmStatusOff p)).1
    let c := if st = tdmDown || st = tdmHeld then c.irqReg (Reg.TDM_IRQ.AGENT p) (Reg.TDM_IRQ.VEC p) (Reg.TDM_IRQ.EN p) else c
    let c := if st = tdmDown then { c with clk := { c.clk with ports := SMap.erase c.clk.ports p } } else c
    (if old = tdmUp || st = tdmUp then c.holdRoutes p else c).clRefresh

/-- The port's queues, numbers and buffers start again. -/
def Chip.tdmClear (c : Chip) (p step : Nat) : Chip := (c.tdmMod p (fun t => { TdmSt.init with sent := t.sent, step := step })).bufReset [p]

/-- The port to a package goes DOWN: unacknowledged flits are lost, and the far package is fenced (R272); messages not yet framed take
another way. -/
def Chip.tdmDownFrom (c : Chip) (p reason peer : Nat) : Chip :=
  let t := c.tdmOf p
  let lost := !t.replay.isEmpty
  let c := t.out.foldl (fun (c : Chip) m => c.awayClear (fun a => a.delivered && a.msg == m)) c
  let c := (c.tdmClear p 0).tdmEnter p tdmDown (some (if lost && reason = 0 then 10 else reason))
  let c := if lost then c.fencePkg peer else c
  t.out.foldl (fun c m => c.sendOrGive m) c

/-- The port goes DOWN from the package that TDM_CTRL names. -/
def Chip.tdmGoDown (c : Chip) (p reason : Nat) : Chip := c.tdmDownFrom p reason (c.get (Reg.TDM_CTRL.PEER p))

/-- Training from step 1 (R273). -/
def Chip.tdmTrain (c : Chip) (p : Nat) : Chip :=
  (((c.tdmClear p 1).put (Reg.TDM_LANE_BAD.LANES p) 0).puts
    [(Reg.TDM_STATUS.WIDTH p, 0), (Reg.TDM_STATUS.UPPER p, 0)]).tdmEnter p tdmTraining none

/-- A write of TDM_CTRL (R272, R273, R275): what the port loses was on its way to the package that it led to before; MODE is taken only while the port is DOWN; a gated port takes no EN = 1 (R406), and once the boot ROM has stopped none trains (R360). -/
def Chip.tdmCtrl (c : Chip) (p v : Nat) : Chip :=
  if bit v 0 && c.bitOf Reg.PWR_GATED.GATED (44 + p) then c else
  let st := c.tdmState p
  let mode := c.get (Reg.TDM_CTRL.MODE p)
  let peer := c.get (Reg.TDM_CTRL.PEER p)
  let c := c.storeAt (0xC5800000 + p * 0x10000) v
  let c := if st = tdmDown then c else c.put (Reg.TDM_CTRL.MODE p) mode
  if !bit v 0 then (if st = tdmDown then c else c.tdmDownFrom p 0 peer)
  else if c.bootStopped then c
  else if bit v 3 then
    if st = tdmDown || st = tdmHeld then c.tdmTrain p
    else ((c.tdmDownFrom p 0 peer).put (Reg.TDM_STATUS.REASON p) 0).tdmTrain p
  else if st = tdmDown then c.tdmTrain p
  else c

/-! ### Flits (R267 to R271) -/

/-- A message as this hub holds it, which reached it now. -/
def Chip.ofWire (c : Chip) (m : WireMsg) : Msg :=
  { cls := m.cls, typ := m.typ, line := m.line % 2 ^ 46, tag := m.tag % 2 ^ 12, agent := m.agent % 2 ^ 16, tenant := m.tenant % 2 ^ 12,
    secure := m.secure, dirty := m.dirty, poison := m.poison, yrw := m.yrw % 4, aux := m.aux % 2 ^ 12, dstPkg := m.dstPkg % 8,
    dstDie := m.dstDie % 16, data := m.data, mask := m.mask, fetch := m.fetch, old := m.old, frame := m.frame, master := m.master,
    arrived := c.time, bus := m.bus, kind := none, buf := none }

/-- Does a message to a die of this package answer a message that still waits, and which (R198)? None for a message that
answers nothing. -/
def answersAway (m : Msg) : Option (Away → Bool) :=
  if m.cls = clsDat || (m.cls = clsRsp && (m.typ = tGrant || m.typ = tViolation)) then
    some (fun a => a.msg.cls == clsReq && a.msg.tag == m.tag && a.msg.agent == m.agent)
  else if m.cls = clsRsp && m.typ = tIoAck then
    some (fun a => a.msg.cls == clsRsp && a.msg.typ == tIoMark && a.msg.tag == m.tag && a.pkg == agPkg m.agent && agDie a.msg.agent == m.dstDie)
  else if m.cls = clsRsp && m.typ = tTntDone then
    some (fun a => a.msg.cls == clsRsp && a.msg.typ == tTntCmd && a.msg.tag == m.tag && a.pkg == agPkg m.agent)
  else none

/-- A message that port p took goes to a unit of this hub, which holds its buffer until it takes it, or on to a die (R257). -/
def Chip.sendHeld (c : Chip) (p : Nat) (m : Msg) : Chip :=
  if m.dstDie < 12 then (c.bufFree (some p) m.cls).sendMsg m else c.sendMsg { m with buf := some p }

/-- A message from another package goes on (R35, R198): toward a third package, to the hub, or to a die; an answer to what was
completed meanwhile is dropped and counted, and one to a unit of this hub ends its request (log 14). -/
def Chip.tdmDeliver (c : Chip) (p : Nat) (m : Msg) : Chip :=
  let free := c.bufFree (some p) m.cls
  if 5 ≤ m.cls then free
  else if m.dstPkg != c.pkg then free.sendOrGive m
  else
    match answersAway m with
    | some is =>
      if m.cls = clsDat && agPkg m.agent != c.pkg then c.sendHeld p m
      else if c.coh.away.any is then
        if m.cls = clsRsp && m.typ = tTntDone then c.sendHeld p m
        else
          let late := fun (c : Chip) => match c.coh.away.find? is with
            | some a => if m.cls = clsDat || m.typ = tGrant then c.latReq a.msg else c
            | none => c
          if agDie m.agent = 12 && (m.cls = clsDat || m.typ = tGrant) then
            ((late free).awayClear is).farDone m.tag m.agent (if m.bus then .bus else .ok) m.ld
          else ((late c).awayClear is).sendHeld p m
      else free.fencedDrop m
    | none =>
      if m.cls = clsRsp && m.typ = tUnfence && cluPkg m.aux = c.pkg
          && !c.coh.away.any (fun a => a.msg.cls == clsRsp && a.msg.typ == tUnfence && a.msg.aux == m.aux && a.pkg == agPkg m.agent) then
        free.fencedDrop m
      else c.sendHeld p m

/-- An ACK covers the flits up to a SEQ (R270, R271). -/
def ackDrop (ack : Nat) (l : List (Nat × List Msg × Nat)) : List (Nat × List Msg × Nat) :=
  l.filter (fun r => decide (2048 ≤ (ack + 4096 - r.1) % 4096))

/-- Resend every flit not acknowledged, each with the credits then owed; past RETRY_MAX the port enters RETRAIN (R257, R271). -/
def Chip.tdmReplay (c : Chip) (p : Nat) : Chip :=
  let t := c.tdmOf p
  if t.replay.isEmpty then c
  else
    let l := t.replay.map (fun r => (r.1, r.2.1, r.2.2 + 1))
    let c := (l.foldl (fun (c : Chip) r => c.tdmMod p (fun t => { t with sent := t.sent ++ [t.frame true r.1 r.2.1], ret := crdLeft t.ret }))
      (c.tdmMod p (fun t => { t with replay := l }))).count (Reg.TDM_ERR_CNT.RETRIES p) 1
    let c := (c.evHub (ugTdm p) 0xC0 l.length evNone).evHub (ugTdm p) 0xC1 l.length evNone
    if l.any (fun r => decide (c.get (Reg.TDM_CTRL.RETRY_MAX p) < r.2.2)) then
      (c.tdmMod p (fun t => { t with step := 2 })).tdmEnter p tdmRetrain none
    else c

/-- The messages of a flit taken in order, with what they count. -/
def Chip.tdmTake (c : Chip) (p : Nat) (f : TdmFrame) : Chip :=
  f.msgs.foldl (fun c m => (c.nrgEv domTdm 22 (c.keyOf m.agent m.tenant) 1).tdmDeliver p m) (c.tdmMod p (fun t =>
    { t with rx := f.seq, rxAny := true, nak := false }))

/-- A flit that could be read: in order, from SEQ 0 on, it is taken, and else what R269 to R271 say (log 92). -/
def Chip.tdmRead (c : Chip) (p : Nat) (f : TdmFrame) : Chip :=
  let packet := c.on (Reg.TDM_CTRL.MODE p)
  let t := c.tdmOf p
  let m := if packet then 4096 else 256
  let next := f.seq % m == (t.rx + 1) % m
  if !packet then
    if !next then (c.tdmGoDown p 9).fencePkg (c.get (Reg.TDM_CTRL.PEER p))
    else ((c.tdmTake p f).tdmMod p (fun t => { t with cr := (List.zipWith Nat.min tdmCredits (addCr t.cr f.crd)) })).tdmPump p
  else
    let dup := t.rxAny && decide ((t.rx + 4096 - f.seq % 4096) % 4096 < 2048)
    if !f.idle && !next then (if dup then c else c.tdmMod p (fun t => { t with nak := true }))
    else
      let c := c.tdmMod p (fun t => { t with
        cr := List.zipWith Nat.min tdmCredits (addCr t.cr f.crd)
        replay := match f.ack with | some a => ackDrop (a % 4096) t.replay | none => t.replay })
      let c := if f.nak then c.tdmReplay p else c
      (if f.idle then c else c.tdmTake p f).tdmPump p

/-- What a flit from another package carries, as this hub holds it. -/
def Chip.tdmFrame (c : Chip) (f : TdmFlit) : TdmFrame := ⟨f.seq, f.ack, f.nak, f.idle, f.crd, f.msgs.map c.ofWire⟩

/-- A port receives a flit (R253, R269 to R271): it is read as sent, corrected, miscorrected, or it cannot be corrected. -/
def Chip.tdmFlit (c : Chip) (p : Nat) (f : TdmFlit) : Chip :=
  if c.tdmState p != tdmUp then c
  else
    let packet := c.on (Reg.TDM_CTRL.MODE p)
    let fixed := fun (c : Chip) (fx : List Nat) =>
      if fx.isEmpty then c else (c.count (Reg.TDM_ERR_CNT.CORR_FLITS p) 1).evHub (ugTdm p) 0xC2 1 evNone
    match flitDecode ((c.tdmFrame f).payload packet) f.errs with
    | .good fx => (fixed c fx).tdmRead p (c.tdmFrame f)
    | .wrong fx x =>
      let r := TdmFrame.ofPayload packet x
      (fixed c fx).tdmRead p { r with msgs := r.msgs.map (fun m => { m with arrived := c.time }) }
    | .bad =>
      if packet then c.tdmMod p (fun t => { t with nak := true })
      else (c.tdmGoDown p 9).fencePkg (c.get (Reg.TDM_CTRL.PEER p))

def execTandemFlitReceive (p : Fin 6) (f : TdmFlit) (s : State) : Host.Outcome State Fault Refusal := s.run (fun c => c.tdmFlit p.val f)

/-- Nothing that can be decoded for 1 µs, or no training symbol in RETRAIN (R461). -/
def Chip.tdmSilence (c : Chip) (p : Nat) : Chip :=
  if c.tdmState p = tdmUp || c.tdmState p = tdmRetrain then c.tdmGoDown p 14 else c

def execTandemSilence (p : Fin 6) (s : State) : Host.Outcome State Fault Refusal := s.run (fun c => c.tdmSilence p.val)

/-! ### Training (R273, R274) -/

/-- HUB_AMAP_PRESENT.PKG as the hub uses it: its own bit counts as 1. -/
def Chip.presentMap (c : Chip) : Nat := c.get Reg.HUB_AMAP_PRESENT.PKG ||| 2 ^ c.pkg

/-- The first check of R274 that fails, as its REASON. -/
def Chip.tdmCheck (c : Chip) (p : Nat) (r : TdmReady) : Option Nat :=
  if r.pkg % 8 != c.get (Reg.TDM_CTRL.PEER p) || r.pkg % 8 == c.pkg then some 4
  else if r.mode % 2 != c.get (Reg.TDM_CTRL.MODE p) then some 5
  else if !c.on (Reg.TDM_CTRL.MODE p) && popc 8 c.presentMap != 2 then some 12
  else if r.digest != c.get Reg.HUB_AMAP_LOCK.DIGEST then some 6
  else if r.present != c.presentMap then some 7
  else none

/-- The port runs x8 on the half whose lanes are good; none where neither is. -/
def Chip.tdmHalf (c : Chip) (p : Nat) : Option Chip :=
  let bad := c.get (Reg.TDM_LANE_BAD.LANES p)
  if bits bad 0 8 = 0 then some (c.puts [(Reg.TDM_STATUS.WIDTH p, 1), (Reg.TDM_STATUS.UPPER p, 0)])
  else if bits bad 8 8 = 0 then some (c.puts [(Reg.TDM_STATUS.WIDTH p, 1), (Reg.TDM_STATUS.UPPER p, 1)])
  else none

/-- A training step's condition is met. -/
def Chip.tdmStep (c : Chip) (p : Nat) (r : TdmReady) : Chip :=
  let st := c.tdmState p
  let go := fun (c : Chip) (n : Nat) => c.tdmMod p (fun t => { t with step := n })
  if st != tdmTraining && st != tdmRetrain then c
  else
    let lanes := fun (c : Chip) => c.put (Reg.TDM_LANE_BAD.LANES p) (c.get (Reg.TDM_LANE_BAD.LANES p) ||| r.bad)
    match (c.tdmOf p).step with
    | 1 => go c 2
    | 2 => if (lanes c).get (Reg.TDM_LANE_BAD.LANES p) = 0 || ((lanes c).tdmHalf p).isSome then go (lanes c) 3 else c
    | 3 =>
      let c1 := lanes c
      if c1.get (Reg.TDM_LANE_BAD.LANES p) = 0 && !c.on (Reg.TDM_CTRL.WIDTH_MAX p) && !r.half then
        go (c1.puts [(Reg.TDM_STATUS.WIDTH p, 0), (Reg.TDM_STATUS.UPPER p, 0)]) (if st = tdmRetrain then 5 else 4)
      else
        match c1.tdmHalf p with
        | some c => go c (if st = tdmRetrain then 5 else 4)
        | none => c
    | 4 =>
      let c := c.put (Reg.TDM_STATUS.PEER_SEEN p) r.pkg
      if !c.on Reg.HUB_AMAP_LOCK.LOCK || !r.lock then c
      else
        match c.tdmCheck p r with
        | some why => (c.tdmMod p (fun t => { t with step := 0 })).tdmEnter p tdmHeld (some why)
        | none => go c 5
    | 5 =>
      if st = tdmRetrain then
        let c := (c.tdmMod p (fun t => { t with step := 0, replay := t.replay.map (fun r => (r.1, r.2.1, 0)) })).tdmEnter p tdmUp none
        (c.tdmReplay p).tdmPump p
      else go c 6
    | 6 => (((c.tdmMod p (fun t => { TdmSt.init with sent := t.sent, out := t.out })).bufReset [p]).tdmEnter p tdmUp none).tdmPump p
    | _ => c

def execTdmTrainStepReady (p : Fin 6) (r : TdmReady) (s : State) : Host.Outcome State Fault Refusal := s.run (fun c => c.tdmStep p.val r)

/-- REASON of a step that times out (R273). -/
def tdmStepReason : Nat → Nat
  | 1 => 1
  | 2 => 2
  | 3 => 3
  | 4 => 13
  | 5 => 8
  | _ => 11

/-- A training step times out or fails; `bad` names lanes that step 2, 3 or 5 found bad (R273). A failed lane test on x16 is
repeated on x8. Step 4 waits while this end's map is not locked. -/
def Chip.tdmTimeout (c : Chip) (p bad : Nat) : Chip :=
  let st := c.tdmState p
  let n := (c.tdmOf p).step
  if st != tdmTraining && st != tdmRetrain then c
  else if n = 4 && !c.on Reg.HUB_AMAP_LOCK.LOCK then c
  else
    let c := if n = 2 || n = 3 || n = 5 then c.put (Reg.TDM_LANE_BAD.LANES p) (c.get (Reg.TDM_LANE_BAD.LANES p) ||| bad) else c
    match (if n = 5 && !c.on (Reg.TDM_STATUS.WIDTH p) then c.tdmHalf p else none) with
    | some c => c
    | none => c.tdmGoDown p (if st = tdmRetrain then 10 else tdmStepReason n)

def execTdmTrainStepTimeout (p : Fin 6) (bad : BitVec 16) (s : State) : Host.Outcome State Fault Refusal :=
  s.run (fun c => c.tdmTimeout p.val bad.toNat)

end Sys2Proof.Machine
end

