-- ==== Sys2Proof/Machine/Reset.lean ====
section
/-! DEFINITION. Machine/Reset.lean: context, die, warm and cold resets (R17, R18, R73, R196, R213, R266, R448), the secure
watchdog's reset (R338), and what the power-good and brown-out events do (R440, R447). -/
namespace Sys2Proof.Machine

/-! ### Context reset (R73) -/

def execContextReset (x : Fin 960) (s : State) : Host.Outcome State Fault Refusal := s.run (fun c => c.ctxResetEv x.val)

/-! ### Die reset (R196, R266) -/

/-- Entries of a map whose key, divided, is not `v`. -/
def SMap.dropAt {α : Type} (m : SMap α) (n v : Nat) : SMap α := m.filter (fun p => p.1 / n != v)

/-- The caches of die d, and what is on its way inside it, go without writeback (R196). -/
def CohSt.dropDie (h : CohSt) (d : Nat) : CohSt :=
  { h with
    l1i := h.l1i.dropAt (20 * 1024) d
    l1d := h.l1d.dropAt (20 * 1024) d
    l2 := h.l2.dropAt (5 * 32768) d
    l3 := h.l3.dropAt (20 * 32768) d
    ops := h.ops.filter (fun o => ctxDie o.ctx != d)
    l3reqs := h.l3reqs.filter (fun r => r.slice / 20 != d)
    l3wbs := h.l3wbs.filter (fun w => w.slice / 20 != d)
    heldSnp := h.heldSnp.filter (fun p => p.1 != d)
    maint := h.maint.filter (fun m => m.level == 4 || (m.level == 3 && m.unit / 20 != d) || (m.level == 2 && m.unit / 5 != d))
    drains := h.drains.filter (fun p => p.1 / 5 != d)
    l2Same := h.l2Same.filter (fun p => p.1 / 5 != d)
    reEnable := h.reEnable.filter (fun u => u / 5 != d)
    dieIn := h.dieIn.filter (fun p => p.1 != d) }

/-- Fields of the CSR block of die d with reset kind die take their reset values (R14, R17). -/
def RegFile.resetDie (r : RegFile) (d : Nat) : RegFile :=
  { r with die := r.die.dropAt (8 * 0x10000000) d, shadow := r.shadow.dropAt (8 * 0x10000000) d }

/-- A die reset: contexts and caches start again, the die is fenced if it was not, and its link trains (R196, R266). -/
def Chip.dieReset (c : Chip) (d : Nat) : Chip :=
  if !c.diePresent d then c
  else
    let c := if c.bitOf (Reg.DIR_FENCE.DIE 0 c.pkg) d then c
      else ((c.put (Reg.SPK_STATUS.FENCE_CAUSE d) 5).spkLog true d 2 none).fenceDie c.pkg d fzCoh 0
    let c := (List.range 80).foldl (fun (c : Chip) i => c.ctxReset (80 * d + i)) c
    let c := { c with
      coh := c.coh.dropDie d, core := c.core.dropAt 20 d, regs := c.regs.resetDie d }
    (((c.spkMod d (fun _ => { SpkSt.init with rejoin := 1 })).spkTrain d).ratioCheckDie d)

def execDieReset (d : Fin 12) (s : State) : Host.Outcome State Fault Refusal := s.run (fun c => c.dieReset d.val)

/-! ### Warm reset (R17, R213, R345, R347, R373) -/

/-- Queued writes of a channel run to completion (R214 step 1). -/
def Chip.mcDrainNow (c : Chip) (ch : Nat) : Chip :=
  let m := c.mcOf ch
  let c := (m.wq ++ m.inq).foldl (fun (c : Chip) r => match r.write with
    | some raw => c.dramPut ch r.line raw
    | none => c) c
  (c.mcMod ch (fun m => { m with inq := [], rq := [], wq := [] })).mcSync ch

/-- A READY channel enters self-refresh, or fails to at some step and stays READY with FAIL set
(R213, R214). -/
def Chip.mcSleep (c : Chip) (ch : Nat) (fails : Bool) : Chip :=
  let c := (c.mcDrainNow ch).mcPayOwed ch
  if fails then
    match c.fresh with
    | (v, c) => c.srFail ch (v % 3) false
  else (c.put (Reg.MC_STATUS.STATE ch) mcSelfRefresh).count (Reg.MC_SR_STATUS.ENTRIES ch) 1

/-- Every channel at a warm reset: READY ones sleep, one asleep only until a request comes takes the writes that wait for it and sleeps on,
TRAINING and FAILED ones go OFF (R212, R213, R237); `fail` names the channels whose self-refresh entry fails. DESIGN CHOICE (log 94): that
an idle entry put a channel to sleep, or that an exit of it failed, is forgotten. -/
def Chip.mcWarm (c : Chip) (fail : Nat) : Chip :=
  let c := (List.range 24).foldl (fun (c : Chip) ch =>
    let s := c.mcState ch
    if s == mcReady then c.mcSleep ch (bit fail ch)
    else if s == mcSelfRefresh && c.mcServes ch then c.mcDrainNow ch
    else if s == mcTraining || s == mcFailed then c.put (Reg.MC_STATUS.STATE ch) mcOff
    else c) c
  { c with mc := c.mc.map (fun p => (p.1, { McSt.init with modeRegs := p.2.modeRegs })) }

/-- What a reset of the whole package leaves of its clocked parts: every field of kind warm or narrower at its reset value,
every engine idle; what the always-on domain, DRAM, OTP, MRAM and the board hold stays, and so do the hardware records that wait (R346). -/
def Chip.clear (c : Chip) : Chip :=
  let c := c.otpAbort
  { Chip.reset with
    regs := { RegFile.reset with cold := c.regs.cold, never := c.regs.never }
    free := c.free, otp := c.otp, fatalErr := c.fatalErr, wakeFault := c.wakeFault, straps := c.straps
    clk := { ClockSt.init with
      pendingLoad := c.clk.pendingLoad, needRecon := c.clk.needRecon, needLock := c.clk.needLock, atEdge := c.clk.atEdge, reconCause := c.clk.reconCause, fresh := c.clk.fresh, calOpen := c.clk.calOpen, calEdges := c.clk.calEdges,
      calLen := c.clk.calLen, phase := c.clk.phase, inc := c.clk.inc, lastK := c.clk.lastK }
    aud := { AudSt.init with waiting := c.aud.waiting }
    sec := { SecSt.init with otpRead := c.sec.otpRead }
    mc := c.mc, dram := c.dram, dramChk := c.dramChk, cxl := c.cxl, cxlPoison := c.cxlPoison, mram := c.mram, flash := c.flash
    pwr := { c.pwr with gate := none, hcGated := 0, crit := 0, chans := 0 }
    nrg := { NrgSt.init with mark := c.time / 4000 }
    sb := c.sb, tap := c.tap }

/-- A warm reset, up to the start of its reset sequence: the audit log drains to MRAM, dirty check lines are written back,
channels sleep, held locks break, everything of kind warm or narrower is restored, and the log goes on with a START
record (R17, R213, R237, R345, R347, R373). -/
def Chip.warmReset (c : Chip) (fail : Nat) : Chip :=
  let c := ((c.mramFinish.pgFinish).mcWarm fail).breakLocks (fun _ => true)
  let c := { c.clear with fatalErr := false, boot := { BootSt.init with step := 2 } }
  (c.put Reg.CFG_BOOT.WARM 1).audRestart

/-- WARM_RST_N falls, or rises and the reset sequence begins (R448); a brown-out, a cold reset that is held and Freewheel
outlast it. -/
def Chip.warmLand (c : Chip) (low : Bool) (fail : Nat) : Chip :=
  if c.pwr.asleep then c
  else if low then
    let c := if c.pwr.coldLow || c.pwr.brown || c.pwr.tripped || c.pwr.warmLow || !c.pwr.aonOk then c else c.warmReset fail
    { c with pwr := { c.pwr with warmLow := true } }
  else { c with pwr := { c.pwr with warmLow := false } }

def execWarmReset (low : Bool) (fail : BitVec 24) (s : State) : Host.Outcome State Fault Refusal :=
  s.runAlways (fun c => c.warmLand low fail.toNat)

/-- The fired watchdog has drained its log to MRAM, or has waited 100 µs: a warm reset that asserts no land (R338). -/
def Chip.wdogReset (c : Chip) (fail : Nat) : Chip := if c.sec.wdogFiring then c.warmReset fail else c

def execWdogReset (fail : BitVec 24) (s : State) : Host.Outcome State Fault Refusal := s.run (fun c => c.wdogReset fail.toNat)

/-! ### Cold reset (R17, R18, R34, R45, R448) -/

/-- The straps as a cold reset samples them: the package's number and its sideband addresses (R34, R448; spec/15, Registers). -/
def Chip.strapRead (c : Chip) (straps : Nat) : Chip :=
  ({ c with straps := straps }).puts
    [(Reg.HUB_PKG_ID.PKG, straps), (Reg.SB_CTRL.ADDR, 0x38 + straps), (Reg.SB_CTRL.WAKE_ADDR, 0x30 + straps)]

/-- A cold reset: every field but those of kind none at its reset value; OTP, MRAM, the board's devices and the test access
port stay. The content of the DRAM arrays is not kept (R212). Straps are sampled where the reset ends (R34), before the log's START
record, which carries the package's number (R3, R345). -/
def Chip.coldReset (c : Chip) (straps : Option Nat) : Chip :=
  let c := c.otpAbort
  let c := { Chip.reset with
    regs := { RegFile.reset with never := c.regs.never }
    free := c.free, otp := c.otp, mram := c.mram, flash := c.flash, cxl := c.cxl, cxlPoison := c.cxlPoison, straps := c.straps
    pwr := { PwrSt.init with
      warmLow := c.pwr.warmLow, flashLow := c.pwr.flashLow, perstLow := c.pwr.perstLow, aonOk := c.pwr.aonOk }
    tap := c.tap }
  let c := match straps with
    | some n => c.strapRead n
    | none => c
  (c.audStart false).otpLatch

/-- COLD_RST_N falls, or rises and the reset sequence begins. A cold reset is held while it is low, and ends only when a low
WARM_RST_N has risen too (R448). -/
def Chip.coldLand (c : Chip) (low : Bool) (straps : Nat) : Chip :=
  if low then
    let c := c.coldReset none
    { c with pwr := { c.pwr with coldLow := true } }
  else if c.pwr.coldLow then
    let c := c.coldReset (some straps)
    { c with pwr := { c.pwr with coldLow := false } }
  else c

def execColdReset (low : Bool) (straps : Fin 8) (s : State) : Host.Outcome State Fault Refusal :=
  s.runAlways (fun c => c.coldLand low straps.val)

/-! ### Supplies (R440, R447) -/

/-- AON_OK rises after 1,024 stable crystal periods: the always-on domain leaves reset (R439, R447). -/
def Chip.aonRise (c : Chip) : Chip :=
  if c.pwr.aonOk then c
  else
    let c := c.coldReset none
    { c with pwr := { c.pwr with aonOk := true, coldLow := true } }

def execAonOkRise (s : State) : Host.Outcome State Fault Refusal := s.runAlways Chip.aonRise

/-- A brown-out: `aon` that AON_OK falls, `main` that only VMAIN is low. Outside Freewheel FATAL_ERR is asserted and every
clock but the always-on domain's stops until a cold reset; in Freewheel a low VMAIN is none (R440). -/
def Chip.brownOut (c : Chip) (aon main : Bool) : Chip :=
  if c.pwr.coldLow && !aon then c
  else if c.pwr.asleep && main && !aon then c
  else { c.timeStop 2 with fatalErr := true, pwr := { c.pwr with brown := true, aonOk := c.pwr.aonOk && !aon } }

def execBrownOut (aon main : Bool) (s : State) : Host.Outcome State Fault Refusal := s.runAlways (fun c => c.brownOut aon main)

end Sys2Proof.Machine
end

