-- ==== Sys2Proof/Machine/Power.lean ====
section
/-! DEFINITION. Machine/Power.lean: core states (R401 to R404), cluster and block gating (R405 to R407), temperatures (R408,
R409, R443, R444), and Freewheel entry and wake (R410 to R419). -/
namespace Sys2Proof.Machine

/-! ### Core states (R401 to R404) -/

def coreDie (k : Nat) : Nat := k / 20
def coreNum (k : Nat) : Nat := k % 20
/-- The four contexts of core 20d + k. -/
def coreCtxs (k : Nat) : List Nat := (List.range 4).map (4 * k + ·)

/-- No context of the core has been READY or RUNNING for 64 cycles: its clock stops (R401). -/
def Chip.c1Entry (c : Chip) (k : Nat) : Chip :=
  if c.corePresent (coreDie k) (coreNum k) && c.cstate k == 0
      && (coreCtxs k).all (fun x => c.cxState x != cxReady && c.cxState x != cxRunning) then
    c.put (fCstate k) 1
  else c

def execC1Entry (k : Fin 240) (s : State) : Host.Outcome State Fault Refusal := s.run (fun c => c.c1Entry k.val)

/-- May core k begin an entry into C3 (R401)? -/
def Chip.c3May (c : Chip) (k : Nat) : Bool :=
  c.cstate k == 1 && (c.coreOf k).c3 == 0 && c.on (Reg.PWR_CL_CTRL.C3_EN (coreDie k) (coreNum k / 4)) &&
    (coreCtxs k).all (fun x => c.cxState x == cxOff || (c.cxState x == cxIdle && (c.ctxOf x).misses == 0 && (c.ctxOf x).loads.isEmpty && (c.ctxOf x).sq.isEmpty))

/-- Lines of the save image of context x (R403). -/
def Chip.saveLines (c : Chip) (x : Nat) : List Nat :=
  (List.range 128).map (fun i => (c.get (Reg.PWR_SAVE.BASE (ctxDie x)) * 2 ^ 20 + ctxCore x * 32768 + ctxNum x * 8192) / 64 + i)

/-- A line of an image joins the context's store queue; its bytes are the device's own layout (R403; log 1). -/
def Chip.savePush (c : Chip) (x line : Nat) : Chip :=
  let v := c.fresh
  v.2.ctxMod x (fun k =>
    let e : StoreEnt := { seq := k.seq, pa := 64 * line, size := 64, data := v.1 % 2 ^ 512, amo := 0, cmp := 0, aq := false, rl := false,
                          job := 0, kind := .save, tenant := 0, secure := true, yrw := 0, lvlH := true, op := 0, sent := false }
    { k with seq := k.seq + 1, sq := k.sq ++ [e] })

/-- The core writes a save image of each context that is not OFF (R403). -/
def Chip.c3Entry (c : Chip) (k : Nat) : Chip :=
  if c.c3May k then
    ((coreCtxs k).foldl (fun (c : Chip) x =>
      if c.cxState x == cxOff then c else (c.saveLines x).foldl (fun (c : Chip) l => c.savePush x l) c) c).coreMod k (fun s => { s with c3 := 1 })
  else c

def execC3Entry (k : Fin 240) (s : State) : Host.Outcome State Fault Refusal := s.run (fun c => c.c3Entry k.val)

/-- PWR_DIE_IRQ of a die. -/
def Chip.dieIrq (c : Chip) (d : Nat) : Chip := c.irqReg (Reg.PWR_DIE_IRQ.AGENT d) (Reg.PWR_DIE_IRQ.VEC d) (Reg.PWR_DIE_IRQ.EN d)

/-- Is every line of the core's images held in M in its L2 (R403)? -/
def Chip.savedAll (c : Chip) (k : Nat) : Bool :=
  (coreCtxs k).all (fun x => c.cxState x == cxOff || ((c.ctxOf x).sq.isEmpty && (c.saveLines x).all (fun l =>
    match c.l2Find (cluIx x) l with
    | some (_, q) => q.st == .m
    | none => false)))

/-- The images are written and power is removed, with the L1s and cached translations lost; or a save write failed and the
core stays in C1 (R401, R403). -/
def Chip.c3SaveDone (c : Chip) (k : Nat) : Chip :=
  let d := coreDie k
  if (c.coreOf k).c3 = 2 then
    ((c.c3Abandon k).put (Reg.PWR_CORE_STATUS.SAVE_ERR d (coreNum k)) 1).dieIrq d
  else if (c.coreOf k).c3 = 1 && c.savedAll k then
    let c := ((c.coreMod k (fun s => { s with c3 := 0 })).put (fCstate k) 2).count (Reg.PWR_CORE_STATUS.C3_ENTRIES d (coreNum k)) 1
    let c := { c with coh := { c.coh with l1i := c.coh.l1i.dropAt 1024 k, l1d := c.coh.l1d.dropAt 1024 k } }
    (coreCtxs k).foldl (fun (c : Chip) x => c.ctxMod x (fun q => { q with tlb := [], fetch := none })) c
  else c

def execC3SaveDone (k : Fin 240) (s : State) : Host.Outcome State Fault Refusal := s.run (fun c => c.c3SaveDone k.val)

/-- Is a line of an image poisoned when the core reads it back: in its own L2, else wherever the domain holds it (R404; log 14)? -/
def Chip.saveBad (c : Chip) (x line : Nat) : Bool × Chip :=
  match c.l2Find (cluIx x) line with
  | some (_, q) => (q.ld.poison, c)
  | none =>
    match c.hubRead false line ⟨c.cxAgent x, 0, true, 3, 0⟩ with
    | (.ok, ld, c) => (ld.poison, c)
    | (_, _, c) => (true, c)

/-- A context is restored from its image; poison gives it a context reset (R404). -/
def Chip.c3Restore (c : Chip) (x : Nat) : Chip :=
  let r := (c.saveLines x).foldl (fun (p : Bool × Chip) l => let q := p.2.saveBad x l; (p.1 || q.1, q.2)) (false, c)
  if r.1 then
    ((r.2.ctxReset x).put (Reg.PWR_CORE_STATUS.RESTORE_ERR (ctxDie x) (ctxCore x)) 1).dieIrq (ctxDie x)
  else r.2

/-- A wake event brings the core back: every context that was not OFF, and so has an image, is restored and resumes in its state (one frozen
meanwhile stays held), and one with an interrupt to take becomes READY (R401, R404). -/
def Chip.c3Exit (c : Chip) (k : Nat) : Chip :=
  if c.cstate k == 2 && (c.coreOf k).c3 == 3 then
    let c := (coreCtxs k).foldl (fun (c : Chip) x => if c.cxState x == cxIdle || c.cxState x == cxHeld then c.c3Restore x else c) c
    let c := (c.put (fCstate k) 0).coreMod k (fun s => { s with c3 := 0 })
    let c := (coreCtxs k).foldl (fun (c : Chip) x => c.irqRoute x) c
    c.coreChoose k false
  else c

def execC3Exit (k : Fin 240) (s : State) : Host.Outcome State Fault Refusal := s.runWhole (fun c => c.c3Exit k.val)

/-! ### Clusters (R405, R407) -/

/-- Does SEC_OWN keep the Normal world from cluster cl of die d (R336, R407)? -/
def Chip.cluOwned (c : Chip) (d cl : Nat) : Bool := c.bitOf Reg.SEC_OWN0.CLUSTERS (5 * d + cl) || c.bitOf Reg.SEC_OWN1.BLOCKS d

/-- Is a write of PWR_CL_CTRL refused to its writer (R407)? -/
def Chip.clDenied (c : Chip) (w : Who) (d cl : Nat) : Bool := !w.secure && c.cluOwned d cl

def prDone : Nat := 1
def prDenied : Nat := 2
def prBadState : Nat := 3
def prBadOp : Nat := 4
def prBusy : Nat := 5

/-- Contexts 80d + i of a cluster. -/
def cluCtxs (d cl : Nat) : List Nat := (List.range 16).map (80 * d + 16 * cl + ·)
/-- Cores 20d + k of a cluster. -/
def cluCores (d cl : Nat) : List Nat := (List.range 4).map (20 * d + 4 * cl + ·)

/-- A cluster loses its power: its cores read as off, and its contexts hold their reset values from then on (R405). -/
def Chip.cluOff (c : Chip) (d cl : Nat) : Chip :=
  let c := (cluCtxs d cl).foldl (fun (c : Chip) x => c.ctxReset x) c
  let c := (cluCores d cl).foldl (fun (c : Chip) k =>
    let c := { c with coh := { c.coh with l1i := c.coh.l1i.dropAt 1024 k, l1d := c.coh.l1d.dropAt 1024 k }, core := SMap.erase c.core k }
    c.put (fCstate k) 3) c
  c.put (Reg.PWR_CL_CTRL.OFF d cl) 1

/-- A cluster is powered up, with its L2 disabled. -/
def Chip.cluOn (c : Chip) (d cl : Nat) : Chip :=
  ((cluCores d cl).foldl (fun (c : Chip) k => c.put (fCstate k) 0) c).put (Reg.PWR_CL_CTRL.OFF d cl) 0

/-- PWR_CL_CTRL is written (R405, R407). -/
def Chip.clCtrl (c : Chip) (w : Who) (d cl v : Nat) : Chip :=
  let say := fun (c : Chip) (r : Nat) => c.puts [(Reg.PWR_DIE_RESULT.RESULT d, r), (Reg.PWR_DIE_RESULT.CLUSTER d, cl)]
  if !c.cluPresent d cl then c
  else if c.clDenied w d cl then say c prDenied
  else
    let was := c.on (Reg.PWR_CL_CTRL.OFF d cl)
    let set := fun (c : Chip) => c.puts [(Reg.PWR_CL_CTRL.C3_EN d cl, bits v 0 1), (Reg.PWR_CL_CTRL.C3_IDLE d cl, bits v 16 16)]
    if bit v 1 && !was then
      if c.on (Reg.CL_L2_STATUS.DRAINED d cl) && (cluCtxs d cl).all (fun x => c.cxState x == cxOff) then say ((set c).cluOff d cl) prDone
      else say c prBadState
    else if !bit v 1 && was then say ((set c).cluOn d cl) prDone
    else say (set c) prDone

/-! ### Package blocks (R406, R407) -/

/-- Is a gate command refused to its writer (R407)? -/
def Chip.gateDenied (c : Chip) (w : Who) (t : Nat) : Bool := !w.secure && c.bitOf Reg.SEC_OWN1.BLOCKS t

/-- Does a target offer an operation: 1 CLOCK, 2 POWER, 3 UNGATE (R406)? -/
def gateOffers (t op : Nat) : Bool :=
  op == 3 || (if t < 12 then op == 2 else if t < 36 then true else if t < 51 then op == 2 else op == 1)

/-- Is any service of the HQE launched and not ended? -/
def Chip.hqeServes (c : Chip) : Bool := c.hqe.queues.any (fun p => p.2.quantum != 0)

/-- The precondition of gating a target (R406). -/
def Chip.gateReady (c : Chip) (t op : Nat) : Bool :=
  if t < 12 then (List.range 5).all (fun cl => !c.cluPresent t cl || c.on (Reg.PWR_CL_CTRL.OFF t cl))
  else if t < 36 then
    let s := c.mcState (t - 12)
    s == mcOff || (op == 1 && s == mcSelfRefresh)
  else if t < 44 then !c.on (Reg.PCI_CFG.EN (t - 36))
  else if t < 50 then c.tdmState (t - 44) == tdmDown
  else if t = 50 then !c.on Reg.HC_STATUS.MBUSY
  else !c.on Reg.HQE_CTRL.EN && !c.hqeServes

/-- PWR_GATE_CMD is written (R406, R407). -/
def Chip.gateCmd (c : Chip) (w : Who) (t op : Nat) : Chip :=
  let say := fun (r : Nat) => c.put Reg.PWR_GATE_STATUS.RESULT r
  if op = 0 || 51 < t then c
  else if c.gateDenied w t then say prDenied
  else if c.on Reg.PWR_GATE_STATUS.BUSY then say prBusy
  else if !gateOffers t op then say prBadOp
  else if op = 3 && !c.gated t then say prDone
  else if op != 3 && !c.gateReady t op then say prBadState
  else
    ({ c with pwr := { c.pwr with gate := some (t, op, c.get Reg.HC_MAINT_BANKS.BANKS) } }).puts
      [(Reg.PWR_GATE_STATUS.BUSY, 1), (Reg.PWR_GATE_STATUS.RESULT, 0)]

/-- The hub cache banks of a mask are flushed. -/
def Chip.hcFlushBanks (c : Chip) (banks : Nat) : Chip :=
  (c.hcLinesOf banks).foldl (fun (c : Chip) line => (c.hcClean line).hcDrop line) c

/-- What gating or ungating a target does (R406). -/
def Chip.gateDo (c : Chip) (t op banks : Nat) : Chip :=
  if op = 3 then
    let c := c.putBit Reg.PWR_GATED.GATED t false
    if t < 12 then c.dieReset t
    else if t = 50 then { c with pwr := { c.pwr with hcGated := 0 } }
    else c
  else
    let c := if t < 12 then
        if c.bitOf (Reg.DIR_FENCE.DIE 0 c.pkg) t then c
        else ((c.put (Reg.SPK_STATUS.FENCE_CAUSE t) 5).spkLog true t 2 none).fenceDie c.pkg t fzCoh 0
      else if t = 50 then
        let c := c.hcFlushBanks banks
        { c with pwr := { c.pwr with hcGated := c.pwr.hcGated ||| banks } }
      else c
    c.putBit Reg.PWR_GATED.GATED t true

/-- The running command finishes (R406). -/
def Chip.gateComplete (c : Chip) : Chip :=
  match c.pwr.gate with
  | none => c
  | some (t, op, banks) =>
    (({ c with pwr := { c.pwr with gate := none } }).gateDo t op banks).puts
      [(Reg.PWR_GATE_STATUS.BUSY, 0), (Reg.PWR_GATE_STATUS.RESULT, prDone)]

def execGateComplete (s : State) : Host.Outcome State Fault Refusal := s.run Chip.gateComplete

/-! ### Temperatures (R408, R409, R443, R444) -/

/-- A flag with a hysteresis of 5 °C. -/
def thermFlag (was : Bool) (t th : Int) : Bool := if th ≤ t then true else if t ≤ th - 5 then false else was

/-- A sensor is sampled, with PROCHOT_N: unit 12 is the hub (R408, R409, R443, R444). -/
def Chip.tempSample (c : Chip) (u temp : Nat) (prochot : Bool) : Chip :=
  let t := toSigned 8 temp
  let c := if 125 ≤ t then { c with pwr := { c.pwr with tripped := true } } else c
  let th := fun (f : Fld) => toSigned 8 (c.get f)
  let own := thermFlag (bit c.pwr.crit u) t (th (if u = 12 then Reg.PWR_HUB_THERM.CRIT else Reg.PWR_THERM.CRIT u))
  let crit := own || prochot
  let c := { c with pwr := { c.pwr with crit := setBits c.pwr.crit u 1 (b2n own) } }
  if u = 12 then c.puts [(Reg.PWR_HUB_THERM.TEMP, temp), (Reg.PWR_HUB_THERM.HOT, b2n crit)]
  else
    let w0 := c.on (Reg.PWR_THERM.WARN_ON u)
    let k0 := c.on (Reg.PWR_THERM.CRIT_ON u)
    let warn := thermFlag w0 t (th (Reg.PWR_THERM.WARN u))
    let c := (c.puts [(Reg.PWR_THERM.TEMP u, temp), (Reg.PWR_THERM.WARN_ON u, b2n warn), (Reg.PWR_THERM.CRIT_ON u, b2n crit)])
    let c := if warn && !w0 then c.dieIrq u else c
    let c := if crit && !k0 then c.dieIrq u else c
    c.ratioCheckDie u

def execTempSample (u : Fin 13) (temp : BitVec 8) (prochot : Bool) (s : State) : Host.Outcome State Fault Refusal :=
  s.run (fun c => c.tempSample u.val temp.toNat prochot)

/-! ### Freewheel entry (R410 to R414) -/

/-- Codes of PWR_PK_STATUS.STATE and PWR_PK_RESULT.RESULT. -/
def pkEntering : Nat := 2
def pkSlept : Nat := 1
def pkNoAck : Nat := 2
def pkNotQuiet : Nat := 3
def pkAtStep : Nat := 4
def pkByAbort : Nat := 5
def pkBusy : Nat := 6

/-- Is a Freewheel entry running? -/
def Chip.entering (c : Chip) : Bool := c.get Reg.PWR_PK_STATUS.STATE == pkEntering
def Chip.fwStep (c : Chip) : Nat := c.get Reg.PWR_PK_STATUS.STEP

/-- PK0 or PK1: PK1 while every core of every present cluster that is not OFF is in C3 (R410). -/
def Chip.pkState (c : Chip) : Nat :=
  if c.entering then pkEntering
  else b2n ((List.range 240).all (fun k =>
    !c.corePresent (coreDie k) (coreNum k) || c.on (Reg.PWR_CL_CTRL.OFF (coreDie k) (coreNum k / 4)) || c.cstate k == 2))

/-- From the ready condition of step 2 onward some writes are refused (R412). -/
def Chip.fwQuiet (c : Chip) : Bool := c.entering && decide (3 ≤ c.fwStep)

/-- Channels that Freewheel's step 5 was putting to sleep become READY again: an entry that runs ends, and a channel asleep leaves
self-refresh under R215; an entry that failed goes on under R214 (R413; log 58). -/
def Chip.fwWakeChans (c : Chip) : Chip :=
  (List.range 24).foldl (fun (c : Chip) ch =>
    if !bit c.pwr.chans ch then c
    else if c.mcState ch == mcSelfRefresh then c.srStart ch true false true
    else c.mcMod ch (fun m => { m with sr := m.sr.filter (fun s => s.exit || s.failed) })) c

/-- The entry ends without sleep (R413). -/
def Chip.fwAbort (c : Chip) (result : Nat) : Chip :=
  let c := c.fwWakeChans
  ({ c with pwr := { c.pwr with seen := 0, chans := 0 } }).puts
    [(Reg.PWR_PK_RESULT.RESULT, result), (Reg.PWR_PK_RESULT.STEP, c.fwStep), (Reg.PWR_PK_STATUS.STATE, 0), (Reg.PWR_PK_STATUS.STEP, 0)]

/-- PWR_PK_CMD is written: FREEWHEEL starts an entry, ABORT ends a running one (R412, R413). -/
def Chip.pkCmd (c : Chip) (op : Nat) : Chip :=
  if op = 1 then
    if c.entering then c.put Reg.PWR_PK_RESULT.RESULT pkBusy
    else (c.puts [(Reg.PWR_PK_STATUS.STATE, pkEntering), (Reg.PWR_PK_STATUS.STEP, 1)]).irqReg
      Reg.PWR_SEC_IRQ.AGENT Reg.PWR_SEC_IRQ.VEC Reg.PWR_SEC_IRQ.EN
  else if op = 2 && c.entering then c.fwAbort pkByAbort
  else c

/-- PWR_SEC_ACK is written: a Secure 1 ends step 1 (R412, R413). -/
def Chip.secAck (c : Chip) (w : Who) : Chip :=
  if w.secure && c.entering && c.fwStep == 1 then c.put Reg.PWR_PK_STATUS.STEP 2 else c

/-- The package is quiet (R412 step 2). -/
def Chip.quiescent (c : Chip) : Bool :=
  (List.range 960).all (fun x => c.cxState x == cxOff) && !c.on Reg.HQE_CTRL.EN && !c.hqeServes
    && (List.range 8).all (fun p => !c.on (Reg.PCI_CFG.EN p))
    && c.coh.range.isNone && c.pg.scrub.isNone && !c.on Reg.CFG_STAGE_STATUS.BUSY && !c.on Reg.HUB_SPRK_STATUS.BUSY
    && !c.on Reg.CFG_POOL_STATUS.BUSY && (List.range 8).all (fun n => !c.on (Reg.HQE_SCHED.PENDING n))

/-- Every L2 and L3 begins its flush (R412 step 3). -/
def Chip.flushAll (c : Chip) : Chip :=
  let c := (List.range 60).foldl (fun (c : Chip) u => c.l2Maint (u / 5) (u % 5) 2 false) c
  (List.range 240).foldl (fun (c : Chip) s => c.l3Maint (s / 20) (s % 20) 2) c

/-- Have all writebacks of the L2s and L3s been accepted? -/
def Chip.flushed (c : Chip) : Bool := c.coh.l2.isEmpty && c.coh.l3.isEmpty && c.coh.l3wbs.isEmpty

/-- Retained banks of the hub cache are cleaned and the others flushed, the check cache is written back once their writes have
run, and the decoded blocks go (R237, R412 step 3). -/
def Chip.flushHub (c : Chip) : Chip :=
  let keep := c.get Reg.PWR_RETAIN_MASK.BANKS
  let c := c.hcFlushBanks ((2 ^ 64 - 1) - keep)
  let c := (c.coh.hc.filter (fun p => p.2.st == .m)).foldl (fun (c : Chip) p => c.hcClean p.2.line) c
  let c := c.pgFinish
  { c with pg := { c.pg with buf := [] } }

/-- Every READY channel starts its entry into self-refresh (R412 step 5). -/
def Chip.fwSleepChans (c : Chip) : Chip :=
  (List.range 24).foldl (fun (c : Chip) ch =>
    if c.mcState ch == mcReady then
      ({ c with pwr := { c.pwr with chans := c.pwr.chans + 2 ^ ch } }).srStart ch false false true
    else c) { c with pwr := { c.pwr with chans := 0 } }

/-- Power is removed: only the always-on domain, DRAM and the retained banks keep their state (R411, R412 step 6). -/
def Chip.sleep (c : Chip) : Chip :=
  let keep := c.get Reg.PWR_RETAIN_MASK.BANKS
  let hc := c.coh.hc.filter (fun p => bit keep (bankHc p.2.line))
  let c := c.breakLocks (fun _ => true)
  let boot : BootSt := { BootSt.init with step := 0 }
  let k := c.clear
  ({ k with
      coh := { CohSt.init with hc := hc }, presence := c.presence, boot := boot,
      pwr := { k.pwr with asleep := true, wakeStep := 0 },
      mc := c.mc.map (fun (p : Nat × McSt) => (p.1, { McSt.init with modeRegs := p.2.modeRegs })) }).puts
    [(Reg.SB_STATUS.AWAKE, 0), (Reg.HUB_CLK_STATUS.ROOT_LOCK, 0), (Reg.HUB_CLK_STATUS.DIE_LOCK, 0)]

/-- The ready condition of an entry step is met and the next step follows (R412); what steps 5 and 6 recorded reaches MRAM, with a new
header, before power goes (R347). -/
def Chip.fwReady (c : Chip) : Chip :=
  if !c.entering then c
  else
    let go := fun (c : Chip) (n : Nat) => c.put Reg.PWR_PK_STATUS.STEP n
    match c.fwStep with
    | 2 => if c.quiescent then (go c 3).flushAll else c
    | 3 =>
      if c.flushed then
        let c := c.flushHub
        if (List.range 24).all (fun ch => (c.mcOf ch).inq.isEmpty) then go c 4 else c
      else c
    | 4 => if c.aud.ring.isEmpty && c.aud.waiting.isEmpty then (go c.mramHeader 5).fwSleepChans else c
    | 5 =>
      if (List.range 24).all (fun ch => !bit c.pwr.chans ch || c.mcState ch == mcSelfRefresh) then
        go ((List.range 6).foldl (fun (c : Chip) p => if c.tdmState p = tdmDown then c else c.tdmGoDown p 0) c) 6
      else c
    | 6 => if c.on Reg.TIME_STATUS.VALID then c else c.mramFinish.sleep
    | _ => c

def execFwEntryStepReady (s : State) : Host.Outcome State Fault Refusal := s.run Chip.fwReady

/-- An entry step times out (R413). -/
def Chip.fwTimeout (c : Chip) : Chip :=
  if !c.entering then c
  else
    match c.fwStep with
    | 1 => c.fwAbort pkNoAck
    | 2 => c.fwAbort pkNotQuiet
    | 3 | 4 | 5 => c.fwAbort pkAtStep
    | _ => c

def execFwEntryStepTimeout (s : State) : Host.Outcome State Fault Refusal := s.run Chip.fwTimeout

/-- A self-refresh step times out; an entry that Freewheel started ends the Freewheel entry (R214, R215, R413). -/
def Chip.srTimeoutEv (c : Chip) (ch : Nat) : Chip :=
  let fw := c.entering && c.fwStep == 5 && bit c.pwr.chans ch && (c.mcOf ch).sr.isSome
  let c := c.srTimeout ch
  if fw then c.fwAbort pkAtStep else c

def execSrStepTimeout (ch : Fin 24) (s : State) : Host.Outcome State Fault Refusal := s.run (fun c => c.srTimeoutEv ch.val)

/-! ### Wake (R415 to R419) -/

/-- The first attempt of a wake starts: SOURCE holds every event seen (R415). -/
def Chip.wakeStart (c : Chip) : Chip :=
  if c.pwr.asleep && c.pwr.wakeStep = 0 && c.pwr.retry.isNone && c.pwr.seen != 0 && !c.wakeFault then
    ({ c with pwr := { c.pwr with wakeStep := 1, attempt := 1, seen := 0 } }).puts
      [(Reg.PWR_WAKE_CAUSE.SOURCE, c.pwr.seen), (Reg.PWR_WAKE_CAUSE.ATTEMPTS, 0), (Reg.PWR_WAKE_CAUSE.BANKS_LOST, 0)]
  else c

/-- A wake source fires: held during an entry, acted on in Freewheel at a crystal edge, recorded during a wake, and without
effect otherwise (R413, R415). -/
def Chip.wakeSource (c : Chip) (b : Nat) : Chip :=
  if c.wakeFault then c
  else if c.pwr.wakeStep != 0 || c.pwr.retry.isSome then
    c.put Reg.PWR_WAKE_CAUSE.SOURCE (c.get Reg.PWR_WAKE_CAUSE.SOURCE ||| 2 ^ b)
  else if c.pwr.asleep || c.entering then { c with pwr := { c.pwr with seen := c.pwr.seen ||| 2 ^ b } }
  else c

/-- The crystal count has reached PWR_WAKE_TIMER.COUNT (R415). -/
def Chip.wakeTimer (c : Chip) : Chip :=
  if c.on Reg.PWR_WAKE_CTRL.TIMER_EN && c.get Reg.TIME_AO_COUNT.COUNT == c.get Reg.PWR_WAKE_TIMER.COUNT then (c.wakeSource 1).wakeStart else c

def execWakeTimerExpiry (s : State) : Host.Outcome State Fault Refusal := s.runAlways Chip.wakeTimer

/-- WAKE_N falls (R415, R448). -/
def Chip.wakePin (c : Chip) : Chip :=
  if c.on Reg.PWR_WAKE_CTRL.PIN_EN && (c.pwr.asleep || c.entering) then c.wakeSource 2 else c

def execWakeNFall (s : State) : Host.Outcome State Fault Refusal := s.runAlways Chip.wakePin

/-- A rising edge of the crystal: the timekeeper's count and snapshot, TIME stops at Freewheel's last step, a wake starts, and
the wait before the next attempt grows shorter (R47, R412, R415, R417). -/
def Chip.crystal (c : Chip) : Chip :=
  if !c.pwr.aonOk then c
  else
    let c := c.crystalEdge
    let c := if c.entering && c.fwStep = 6 && c.on Reg.TIME_STATUS.VALID then c.timeStop 1 else c
    ({ c with pwr := { c.pwr with retry := c.pwr.retry.map (· - 1) } }).wakeStart

def execCrystalEdge (s : State) : Host.Outcome State Fault Refusal := s.runAlways Chip.crystal

/-- The memory step: retained banks whose check failed are dropped, and every sleeping enabled channel is READY again
(R416 step 3). -/
def Chip.wakeMemory (c : Chip) (lost : Nat) : Chip :=
  let bad := c.get Reg.PWR_RETAIN_MASK.BANKS &&& lost
  let c := { c with coh := { c.coh with hc := c.coh.hc.filter (fun p => !bit bad (bankHc p.2.line)) } }.put Reg.PWR_WAKE_CAUSE.BANKS_LOST (popc 64 bad)
  (List.range 24).foldl (fun (c : Chip) ch =>
    if c.mcState ch == mcSelfRefresh && c.on (Reg.MC_CFG.EN ch) then
      c.srExited ch
    else if c.mcState ch == mcTraining || c.mcState ch == mcFailed then c.put (Reg.MC_STATUS.STATE ch) mcOff
    else c) c

/-- Warm reset is released and the boot ROM starts at step 2 (R416 step 4). -/
def Chip.wakeRelease (c : Chip) : Chip :=
  (({ c with presence := [], boot := { BootSt.init with step := 2 }, pwr := { c.pwr with asleep := false, wakeStep := 4 } }).puts
    [(Reg.CFG_BOOT.WARM, 1), (Reg.SB_STATUS.AWAKE, 1)]).audRestart

/-- The ready condition of a wake step is met (R416, R419); `lost` names retained banks that fail their check in step 3. -/
def Chip.wakeReady (c : Chip) (lost : Nat) : Chip :=
  let go := fun (c : Chip) (n : Nat) => { c with pwr := { c.pwr with wakeStep := n } }
  match c.pwr.wakeStep with
  | 1 => go c 2
  | 2 => go ((List.range 12).foldl (fun (c : Chip) d => if c.diePresent d then c.putBit Reg.HUB_CLK_STATUS.DIE_LOCK d true else c) c.rootLock) 3
  | 3 => (c.wakeMemory lost).wakeRelease
  | 4 => (go c 0).puts [(Reg.PWR_WAKE_CAUSE.ATTEMPTS, c.pwr.attempt), (Reg.PWR_PK_RESULT.RESULT, pkSlept), (Reg.PWR_PK_RESULT.STEP, 6)]
  | _ => c

def execWakeStepReady (lost : BitVec 64) (s : State) : Host.Outcome State Fault Refusal := s.runAlways (fun c => c.wakeReady lost.toNat)

/-- Reasons and indices that a stage can report (R417). -/
def wakeCodeOk (stage reason idx : Nat) : Bool :=
  match stage with
  | 0 => (reason == 1 && decide (idx ≤ 12)) || (reason == 2 && idx == 0)
  | 1 => ((reason == 1 || reason == 2) && idx == 0) || (reason == 3 && decide (idx < 12))
  | 2 => reason == 1 && decide (idx < 24)
  | _ => reason == 1 && idx == 0

/-- A wake step times out: back to Freewheel with a record, and another attempt or WAKE_FAULT (R417, R418). -/
def Chip.wakeTimeout (c : Chip) (reason idx : Nat) : Chip :=
  let st := c.pwr.wakeStep
  if st = 0 || !wakeCodeOk (st - 1) reason idx then c
  else
    let n := c.pwr.attempt
    let c := if st = 4 then (c.timeStop 1).sleep else c
    let c := if st = 3 then
        match c.fresh with
        | (v, c) => c.srFail idx (v % 4) true
      else c
    let c := (List.range 24).foldl (fun (c : Chip) ch => if c.mcState ch == mcReady then c.put (Reg.MC_STATUS.STATE ch) mcSelfRefresh else c) c
    let last := decide (c.get Reg.PWR_WAKE_RETRIES.RETRIES < n)
    let c := c.puts [(Reg.PWR_WAKE_FAIL.STAGE, st - 1), (Reg.PWR_WAKE_FAIL.CODE, reason * 32 + idx), (Reg.PWR_WAKE_FAIL.ATTEMPT, n),
      (Reg.PWR_WAKE_FAIL.VALID, 1), (Reg.HUB_CLK_STATUS.ROOT_LOCK, 0), (Reg.HUB_CLK_STATUS.DIE_LOCK, 0)]
    if last then
      { c with pwr := { c.pwr with wakeStep := 0, retry := none, seen := 0 }, wakeFault := true }.put Reg.PWR_WAKE_FAIL.FAULT 1
    else { c with pwr := { c.pwr with wakeStep := 0, attempt := n, retry := some 33 } }

def execWakeStepTimeout (reason : Fin 8) (idx : Fin 32) (s : State) : Host.Outcome State Fault Refusal :=
  s.runAlways (fun c => c.wakeTimeout reason.val idx.val)

/-- The next attempt starts at the first crystal edge at least 32 periods after the failure (R417). -/
def Chip.wakeRetry (c : Chip) : Chip :=
  if c.pwr.retry = some 0 then { c with pwr := { c.pwr with retry := none, wakeStep := 1, attempt := c.pwr.attempt + 1 } } else c

def execWakeRetry (s : State) : Host.Outcome State Fault Refusal := s.runAlways Chip.wakeRetry

end Sys2Proof.Machine
end

