-- ==== Sys2Proof/Machine/Pool.lean ====
section
/-! DEFINITION. Machine/Pool.lean: tenant pools and their commit (R363, R364, R366 to R368), and hardware locks (R372, R373). -/
namespace Sys2Proof.Machine

/-! ### Pools -/

/-- A pool of the active or the staged set (R366). -/
structure Pool where
  en : Bool
  first : Nat
  count : Nat
  quota : Nat
  deriving DecidableEq, Repr

def Chip.poolActive (c : Chip) (p : Nat) : Pool :=
  ⟨c.on (Reg.CFG_POOL.EN p), c.get (Reg.CFG_POOL.TFIRST p), c.get (Reg.CFG_POOL.TCOUNT p), c.get (Reg.CFG_POOL.QUOTA p)⟩

def Chip.poolStaged (c : Chip) (p : Nat) : Pool :=
  let g := fun (f : Fld) => c.regs.getShadow f
  ⟨g (Reg.CFG_POOL.EN p) == 1, g (Reg.CFG_POOL.TFIRST p), g (Reg.CFG_POOL.TCOUNT p), g (Reg.CFG_POOL.QUOTA p)⟩

/-- Does a pool cover a tenant? -/
def Pool.covers (q : Pool) (t : Nat) : Bool := q.en && decide (q.first ≤ t) && decide (t < q.first + q.count)

/-- The pool of a set that a tenant belongs to. -/
def poolOf (l : List Pool) (t : Nat) : Option Nat := (List.range l.length).find? (fun i => (l[i]?.map (·.covers t)).getD false)

/-- The first failure of R367: pool, reason and tenant. Rules 1 to 3 in ascending pool index. -/
def poolFault (live : Nat → Bool) (act stg : List Pool) (p : Nat) : Option (Nat × Nat × Nat) :=
  match stg[p]?, act[p]? with
  | some s, some a =>
    if s.en && !(decide (1 ≤ s.first) && decide (1 ≤ s.count) && decide (s.first + s.count - 1 ≤ 4095)) then some (p, 1, 0)
    else if s.en && (stg.take p).any (fun q => q.en && decide (q.first < s.first + s.count) && decide (s.first < q.first + q.count)) then
      some (p, 2, 0)
    else
      ((List.range 4096).find? (fun t => (a.covers t || s.covers t) && live t && poolOf act t != poolOf stg t)).map (fun t => (p, 3, t))
  | _, _ => none

/-- The pool at which the running sum of quotas first exceeds 1,048,576 (R367 rule 4). -/
def poolSum : List Pool → Nat → Nat → Option Nat
  | [], _, _ => none
  | q :: l, p, n =>
    let n := if q.en then n + q.count * q.quota else n
    if 1048576 < n then some p else poolSum l (p + 1) n

/-- What GO finds wrong with a staged set (R367). -/
def poolCheck (live : Nat → Bool) (act stg : List Pool) : Option (Nat × Nat × Nat) :=
  match (List.range 32).findSome? (poolFault live act stg) with
  | some f => some f
  | none => (poolSum stg 0 0).map (fun p => (p, 4, 0))

/-- The tenants of this package's table that are not FREE. -/
def Chip.tntLive (c : Chip) (t : Nat) : Bool := c.tntState t != tnFree

def Chip.poolsActive (c : Chip) : List Pool := (List.range 32).map c.poolActive
def Chip.poolsStaged (c : Chip) : List Pool := (List.range 32).map c.poolStaged

/-- Offsets of CFG_POOL[p]. -/
def poolOffs : List Nat := (List.range 64).map (fun i => 0xCA000100 + 8 * i)

/-- Record a conflict of the pools in CFG_POOL_STATUS (R363, R367, R370). -/
def Chip.poolConflict (c : Chip) (f : Nat × Nat × Nat) : Chip :=
  c.puts [(Reg.CFG_POOL_STATUS.RESULT, 2), (Reg.CFG_POOL_STATUS.BAD_POOL, f.1), (Reg.CFG_POOL_STATUS.REASON, f.2.1),
    (Reg.CFG_POOL_STATUS.BAD_TENANT, f.2.2)]

/-- CFG_POOL_COMMIT is written: GO, then DISCARD (R364, R367). -/
def Chip.poolCommit (c : Chip) (v : Nat) : Chip :=
  let c := if !bit v 0 then c
    else match poolCheck c.tntLive c.poolsActive c.poolsStaged with
      | some f => c.poolConflict f
      | none => (poolOffs.foldl Chip.commitReg c).put Reg.CFG_POOL_STATUS.RESULT 1
  if bit v 1 then poolOffs.foldl Chip.shadowReg c else c

/-- May an agent manage pool p and name tenant t (R368)? -/
def Chip.poolAdmits (c : Chip) (w : Who) (p t : Nat) (any : Bool) : Bool :=
  let m := c.get (Reg.CFG_POOL.MGR_MASK p)
  (c.poolActive p).en && (w.agent &&& m) == (c.get (Reg.CFG_POOL.MGR_AGENT p) &&& m) && (any || (c.poolActive p).covers t)

/-- After a CREATE the tenant has its pool's quota, with a hardware record (R368). -/
def Chip.poolQuota (c : Chip) (p t : Nat) : Chip :=
  let f := Reg.TNT_ENT.QUOTA t
  let c := c.put f (c.get (Reg.CFG_POOL.QUOTA p))
  let off := f.addr / 64 * 8
  c.hwRecord c.tableAgent (c.csrBase + off) (c.regVal off)

/-- CFG_POOL_CMD[p] is written (R368). -/
def Chip.poolCmd (c : Chip) (w : Who) (p v : Nat) : Chip :=
  let op := bits v 0 3
  let t := bits v 16 12
  let any := op == opCreate && bit v 3
  if op = 0 || op > 5 then c
  else if !c.poolAdmits w p t any then
    (c.put (Reg.CFG_POOL_CMD_STATUS.RESULT p) trDenied).count (Reg.CFG_POOL_CMD_STATUS.DENIED p) 1
  else if c.on (Reg.CFG_POOL_CMD_STATUS.BUSY p) then c.put (Reg.CFG_POOL_CMD_STATUS.RESULT p) trBusy
  else if op = opCreate then
    let q := c.poolActive p
    let c := c.tntCreateFor 2 p t q.first q.count any
    if c.get (Reg.CFG_POOL_CMD_STATUS.RESULT p) = trDone then c.poolQuota p (c.get (Reg.CFG_POOL_CMD_STATUS.TENANT p)) else c
  else if t = 0 then c.tntReport 2 p t trDenied 0
  else
    (c.puts [(Reg.CFG_POOL_CMD_STATUS.BUSY p, 1), (Reg.CFG_POOL_CMD_STATUS.RESULT p, 0), (Reg.CFG_POOL_CMD_STATUS.TENANT p, t)]).tntCommand
      2 p op t w.agent

/-! ### Hardware locks -/

/-- Is a writer the owner of lock n: agent ID, tenant and world (R373)? -/
def Chip.lockOwner (c : Chip) (w : Who) (n : Nat) : Bool :=
  c.get (Reg.CFG_LOCK.OWNER n) == w.agent && c.get (Reg.CFG_LOCK.TENANT n) == w.tenant && c.on (Reg.CFG_LOCK.WORLD n) == w.secure

/-- ACQ from a context takes a free lock; a held one counts contention (R372). -/
def Chip.lockAcq (c : Chip) (w : Who) (n : Nat) : Chip :=
  if !isCtxAgent w.agent then c
  else if c.on (Reg.CFG_LOCK.HELD n) then c.count Reg.CFG_LOCK_CNT.CONTENDED 1
  else c.puts [(Reg.CFG_LOCK.HELD n, 1), (Reg.CFG_LOCK.OWNER n, w.agent), (Reg.CFG_LOCK.TENANT n, w.tenant), (Reg.CFG_LOCK.WORLD n, b2n w.secure)]

/-- CFG_LOCK[n] is written: BROKEN clears for the owner, whether or not the lock is held (log 90), then ACQ, then REL (R372, R373). -/
def Chip.lockWrite (c : Chip) (w : Who) (n v : Nat) : Chip :=
  let c := if bit v 1 && c.lockOwner w n then c.put (Reg.CFG_LOCK.BROKEN n) 0 else c
  let c := if bit v 2 then c.lockAcq w n else c
  if bit v 3 && c.on (Reg.CFG_LOCK.HELD n) && c.lockOwner w n then c.put (Reg.CFG_LOCK.HELD n) 0 else c

end Sys2Proof.Machine
end

