-- ==== Sys2Proof/Machine/Image.lean ====
section
/-! DEFINITION. Machine/Image.lean: configuration images: header, directory and records (R349 to R354), ECDSA over P-384
(R352), and the checks of R356. An image is held as the number whose bytes, lowest first, it is. ECDSA and its curve are those
of FIPS 186-5, which the spec names and does not restate (log 4). -/
namespace Sys2Proof.Machine

/-! ### ECDSA over P-384 -/

def p384P : Nat := 2 ^ 384 - 2 ^ 128 - 2 ^ 96 + 2 ^ 32 - 1
def p384N : Nat :=
  0xFFFFFFFFFFFFFFFFFFFFFFFFFFFFFFFFFFFFFFFFFFFFFFFFC7634D81F4372DDF581A0DB248B0A77AECEC196ACCC52973
def p384B : Nat :=
  0xB3312FA7E23EE7E4988E056BE3F82D19181D9C6EFE8141120314088F5013875AC656398D8A2ED19D2A85C8EDD3EC2AEF
def p384G : Nat × Nat :=
  (0xAA87CA22BE8B05378EB1C71EF320AD746E1D3B628BA79B9859F741E082542A385502F25DBF55296C3A545E3872760AB7,
   0x3617DE4A96262C6F5D9E98BF9292DC29F8F41DBD289A147CE9DA3113B5F0B8C00A60B1CE1D7E819D7A431D7C90EA0E5F)

/-- `b` to the power of the low `n` bits of `e`, modulo `m`, scanning from the highest bit. -/
def powMod (b e m : Nat) : Nat → Nat → Nat
  | 0, acc => acc
  | n + 1, acc => powMod b e m n (if bit e n then acc * acc % m * b % m else acc * acc % m)

/-- Inverse modulo a prime of 384 bits. -/
def invMod (a m : Nat) : Nat := powMod (a % m) (m - 2) m 384 1

/-- Sum of two points of the curve; none is the point at infinity. -/
def ecAdd (p q : Option (Nat × Nat)) : Option (Nat × Nat) :=
  match p, q with
  | none, q => q
  | p, none => p
  | some (x1, y1), some (x2, y2) =>
    if x1 = x2 && (y1 + y2) % p384P = 0 then none
    else
      let l := if x1 = x2 then (3 * x1 * x1 + p384P - 3) * invMod (2 * y1) p384P % p384P
        else (y2 + p384P - y1) * invMod (x2 + p384P - x1) p384P % p384P
      let x := (l * l + 2 * p384P - x1 - x2) % p384P
      some (x, (l * (x1 + p384P - x) + p384P - y1) % p384P)

/-- Sum of the points `p` times the low `n` bits of `u` and `q` times those of `v`. -/
def ecSum (p q : Option (Nat × Nat)) (u v : Nat) : Nat → Option (Nat × Nat) → Option (Nat × Nat)
  | 0, acc => acc
  | n + 1, acc =>
    let a := ecAdd acc acc
    let a := if bit u n then ecAdd a p else a
    ecSum p q u v n (if bit v n then ecAdd a q else a)

/-- Does a signature over a digest, both as numbers, verify with a key? -/
def ecdsaVerify (qx qy r s e : Nat) : Bool :=
  if p384P ≤ qx || p384P ≤ qy || (qy * qy) % p384P != (qx * qx * qx + (p384P - 3) * qx + p384B) % p384P then false
  else if r = 0 || p384N ≤ r || s = 0 || p384N ≤ s then false
  else
    let w := invMod s p384N
    match ecSum (some p384G) (some (qx, qy)) (e * w % p384N) (r * w % p384N) 384 none with
    | none => false
    | some (x, _) => x % p384N == r

/-! ### Header and directory -/

/-- The `n` bytes at an offset of an image. -/
def imgAt (img off n : Nat) : Nat := bits img (8 * off) (8 * n)

def imgNsect (img : Nat) : Nat := imgAt img 0x00C 4
def imgSize (img : Nat) : Nat := imgAt img 0x010 4
def imgSvn (img : Nat) : Nat := imgAt img 0x014 4
def imgKeysel (img : Nat) : Nat := imgAt img 0x018 1

/-- MAGIC, FORMAT (R350). -/
def imgMagic : Nat := 0x314E454E41584548
def headOk (img : Nat) : Bool := imgAt img 0 8 == imgMagic && imgAt img 8 4 == 1

/-- A directory entry (R351). -/
structure Sect where
  typ : Nat
  off : Nat
  len : Nat
  deriving DecidableEq, Repr

def imgSect (img i : Nat) : Sect := ⟨imgAt img (0x40 + 16 * i) 2, imgAt img (0x44 + 16 * i) 4, imgAt img (0x48 + 16 * i) 4⟩
def imgSects (img : Nat) : List Sect := (List.range (Nat.min (imgNsect img) 32)).map (imgSect img)

/-! Section types (R353). -/
def stStruct : Nat := 0x01
def stClock : Nat := 0x02
def stMemory : Nat := 0x03
def stRouting : Nat := 0x04
def stRegions : Nat := 0x05
def stSprocket : Nat := 0x06
def stPools : Nat := 0x07
def stHqe : Nat := 0x08
def stRegulator : Nat := 0x09
def stRetain : Nat := 0x0A
def stAudit : Nat := 0x0B
def stCode : Nat := 0x10
def stCall : Nat := 0x11
def stStart : Nat := 0x12

/-- A section type that R353 lists. -/
def sectListed (t : Nat) : Bool := (1 ≤ t && t ≤ 0x0B) || (0x10 ≤ t && t ≤ 0x12)

/-- RELOAD of a type. -/
def sectReload (t : Nat) : Bool := 6 ≤ t && t ≤ 9

/-- The LENGTH rule of a type. -/
def sectLenOk (t len : Nat) : Bool :=
  if t = stSprocket then len == 32768
  else if t = stCode then true
  else if t = stCall then len == 16
  else len % 24 == 0 && 0 < len

/-- Is entry i well formed by itself (R351)? -/
def sectOk (img size i : Nat) : Bool :=
  let e := imgSect img i
  let attr := imgAt img (0x42 + 16 * i) 2
  decide (0x240 ≤ e.off) && decide (e.off + e.len ≤ size - 256) && e.off % 64 == 0 && (e.typ != stSprocket || e.off % 16384 == 0)
    && sectListed e.typ && attr == b2n (sectReload e.typ) && imgAt img (0x4C + 16 * i) 4 == 0 && sectLenOk e.typ e.len

/-- Do two sections share a byte? -/
def sectOverlap (a b : Sect) : Bool := decide (a.off < b.off + b.len) && decide (b.off < a.off + a.len)

/-- Is the directory well formed (R351)? -/
def dirOk (img : Nat) : Bool :=
  let n := imgNsect img
  let size := imgSize img
  decide (1 ≤ n) && decide (n ≤ 32) && (List.range 32).all (fun i => if i < n then sectOk img size i else imgAt img (0x40 + 16 * i) 16 == 0)
    && (List.range n).all (fun i => (List.range i).all (fun j => !sectOverlap (imgSect img i) (imgSect img j)))

/-- SIZE meets R349. -/
def sizeOk (img : Nat) : Bool := decide (1024 ≤ imgSize img) && decide (imgSize img ≤ 0x400000) && imgSize img % 64 == 0

/-- The order that only a boot asks for: STRUCT first, nothing after START (R356). -/
def bootOrderOk (img : Nat) : Bool :=
  let l := (imgSects img).map (·.typ)
  l.head? == some stStruct && !(l.dropLast.contains stStart)

/-! ### The checks of R356 -/

/-- The named key's digest (R342). -/
def Chip.keyDigest (c : Chip) (k : Nat) : List Nat := ((List.range 7).flatMap (fun j => toBytes 7 (c.otpField (7 * k + j)))).take 48

/-- The checks that need only the header and directory, in their order: 0 if all pass. -/
def Chip.headFail (c : Chip) (img : Nat) (boot : Bool) : Nat :=
  let ks := imgKeysel img
  let kc := c.otpField 14
  if !headOk img then 1
  else if !sizeOk img || !dirOk img || (boot && !bootOrderOk img) then 2
  else if !bit (imgAt img 0x19 1) c.pkg || c.get Reg.HUB_PKG_ID.STEPPING < imgAt img 0x1A 1 then 3
  else if ks != 0xFF && (1 < ks || bit kc ks || !(List.range 7).all (fun j => c.otpHeld (7 * ks + j))) then 4
  else if ks = 0xFF && bit kc 2 then 5
  else 0

/-- The key digest and the signature (R352, R356 check 6). -/
def Chip.signed (c : Chip) (img : Nat) : Bool :=
  let size := imgSize img
  let sig := size - 256
  let be := fun (o : Nat) => ofBytesBE (toBytes 48 (imgAt img (sig + o) 48))
  sha384 (toBytes 96 (imgAt img sig 96)) == c.keyDigest (imgKeysel img) &&
    ecdsaVerify (be 0) (be 0x30) (be 0x60) (be 0x90) (ofBytesBE (sha384 (toBytes sig img)))

/-- The checks that need the whole image: 0 if all pass. `floor` is the lowest SVN admitted. -/
def Chip.bodyFail (c : Chip) (img floor : Nat) : Nat :=
  if imgKeysel img != 0xFF && !c.signed img then 6
  else if imgSvn img < floor then 7
  else 0

/-- CFG_BOOT.KEY of an image. -/
def imgKey (img : Nat) : Nat := if imgKeysel img = 0xFF then 3 else imgKeysel img

/-! ### Records (R353, R354) -/

/-- A record of 24 bytes. -/
structure Rcd where
  op : Nat
  off : Nat
  timeout : Nat
  value : Nat
  mask : Nat
  deriving DecidableEq, Repr

def imgRcd (img : Nat) (e : Sect) (i : Nat) : Rcd :=
  let a := e.off + 24 * i
  let w := imgAt img a 4
  ⟨w % 8, w - w % 8, imgAt img (a + 4) 4, imgAt img (a + 8) 8, imgAt img (a + 16) 8⟩

def Sect.rcds (e : Sect) : Nat := e.len / 24

/-- Is an offset in a block of the hub, or in one of a compute die (R14, R30, R31)? -/
def inBlk (off base size : Nat) : Bool := decide (base ≤ off) && decide (off < base + size)
def inDieBlk (off base size : Nat) : Bool := decide (off < 0xC0000000) && inBlk (off % 0x10000000) base size

/-- May a record section of a type name the register at an offset (R353)? -/
def sectNames (t off : Nat) : Bool :=
  if t = stStruct then off == 0xCA000008 || inBlk off 0xCA000040 96
  else if t = stClock then inBlk off 0xC0000140 96 || inBlk off 0xCD000000 0x1000000
  else if t = stMemory then inBlk off 0xC0000008 0x20 || inBlk off 0xC0000040 64 || inBlk off 0xC3000000 0x1000000
    || inBlk off 0xC4000000 0x800000 || inBlk off 0xC4800000 0x800000 || inBlk off 0xC1000000 0x1000000
  else if t = stRouting then inDieBlk off 0x3000000 0x1000000 || inDieBlk off 0x4000000 0x1000000 || inBlk off 0xC5000000 0x1000000
  else if t = stRegions then inBlk off 0xC9000000 0x800000
  else if t = stPools then inBlk off 0xCA000100 0x200 || off == 0xCA000300 || inBlk off 0xC6000000 0x1000000
  else if t = stHqe then inBlk off 0xC7000000 0x1000000
  else if t = stRegulator then inBlk off 0xC8000000 0x1000000
  else if t = stRetain then inDieBlk off 0x7000000 0x1000000 || inBlk off 0xCC800000 0x800000
  else if t = stAudit then inBlk off 0xC9C00000 0x400000
  else if t = stStart then inDieBlk off 0 0x1000000 || inBlk off 0xC8040000 (8 * 960)
  else false

/-- The names that a run-time reload admits (R370). -/
def stageNames (t off : Nat) : Bool :=
  if t = stPools then inBlk off 0xCA000100 0x200 || off == 0xCA000300
  else if t = stHqe then inBlk off 0xC7000100 64 || inBlk off 0xC7010000 (16384 * 8)
  else sectNames t off

/-- Whose fields a register shows: the alias of checkers 0 to 23 shows checker 0's (spec/13, Registers). -/
def regAlias (off : Nat) : Nat := if inBlk off 0xC9013E00 0x200 then off - 0x3E00 else off

/-- What a WRITE takes as the old value of a register: current values of RW and RWL fields, shadows of RWS fields, 0 elsewhere. -/
def Chip.rcdOld (c : Chip) (off : Nat) : Nat :=
  let off := regAlias off
  match findReg Reg.blocks off with
  | some r => r.flds.foldl (fun v f => match f.acc with
      | .rw | .rwl => v + c.get f <<< (f.addr - 8 * off)
      | .rws => v + c.regs.getShadow f <<< (f.addr - 8 * off)
      | .ro | .rw1c | .rc | .wo => v) 0
  | none => 0

/-- The value that a WRITE record writes. -/
def Chip.rcdValue (c : Chip) (r : Rcd) : Nat :=
  let old := c.rcdOld r.off
  (old - (old &&& r.mask)) ||| (r.value &&& r.mask)

/-! ### The staged image -/

/-- Base of the staging area in MRAM (R369). -/
def stageBase : Nat := 0x400000

/-- The image in the staging area. -/
def Chip.staged (c : Chip) : Nat := c.mram.read stageBase (imgAt (c.mram.read stageBase 64) 0x010 4)

/-- The Seurv core as the writer of the boot ROM and the CFG engine (R320, R354). -/
def Chip.seurv (c : Chip) : Who := c.hubWho 7 0 0 true

end Sys2Proof.Machine
end

