-- ==== Sys2Proof/Machine/Monitor.lean ====
section
/-! DEFINITION. Machine/Monitor.lean: counters as registers (R420 to R422), sample records (R426, R427), the Counter Collector
(R428 to R430), and the division and crediting of energy (R431 to R434). -/
namespace Sys2Proof.Machine

/-! ### Counters (R420) -/

/-- Does an offset lie in a PMU_ or NRG_ block (R30, R31)? -/
def inCounterBlock (off : Nat) : Bool :=
  let d := off / 0x10000000
  let o := off % 0x10000000
  (decide (d < 12) && decide (0x5000000 ≤ o) && decide (o < 0x7000000)) || (d == 12 && decide (0xE000000 ≤ o))

/-- A register found at an offset, if it is a counter's VALUE: 64 bits, with OVF and LOVF at +0x8 (R420). -/
def counterAt (off : Nat) : Option (Fld × Fld × Fld) :=
  if !inCounterBlock off then none
  else
    match findReg Reg.blocks off, findReg Reg.blocks (off + 8) with
    | some r, some q =>
      match r.flds, q.flds with
      | [v], [o, l] => if v.width = 64 && o.acc == .rw1c && l.acc == .ro then some (v, o, l) else none
      | _, _ => none
    | _, _ => none

/-- A read of VALUE copies OVF into LOVF (R420). -/
def Chip.counterRead (c : Chip) (off : Nat) : Chip :=
  match counterAt off with
  | some (_, o, l) => c.put l (c.get o)
  | none => c

/-- Does an offset belong to an absent die, or to a core or cluster that is absent (R22, R422)? -/
def Chip.csrAbsent (c : Chip) (off : Nat) : Bool :=
  let d := off / 0x10000000
  let o := off % 0x10000000
  if 12 ≤ d then false
  else if !c.diePresent d then true
  else if o < 0x140000 then !c.corePresent d (o / 0x10000)
  else if 0x1000000 ≤ o && o < 0x1050000 then !c.cluPresent d ((o - 0x1000000) / 0x10000)
  else if 0x5000000 ≤ o && o < 0x5014000 then !c.corePresent d ((o - 0x5000000) / 0x1000)
  else if 0x5020000 ≤ o && o < 0x5021400 then !c.cluPresent d ((o - 0x5020000) / 0x400)
  else if 0x6000000 ≤ o && o < 0x6000500 then !c.corePresent d ((o - 0x6000000) / 64)
  else if 0x6000800 ≤ o && o < 0x6000940 then !c.corePresent d ((o - 0x6000800) / 16)
  else if 0x6000940 ≤ o && o < 0x6000990 then !c.cluPresent d ((o - 0x6000940) / 16)
  else false

/-! ### Samples (R426, R427) -/

/-- Is a sampled operation complete (R426)? -/
def Ctx.sampleOver (k : Ctx) (s : Sample) : Bool :=
  if s.kind = 1 then !k.loads.any (fun l => l.job == s.id) && !k.sq.any (fun e => e.amo != 0 && e.job == s.id)
      && !k.pend.any (fun p => p.job == s.id && !p.ready)
  else if s.kind = 2 then !k.sq.any (fun e => e.seq == s.id)
  else if s.kind = 3 then decide (s.id < k.idx)
  else !k.pend.any (fun p => p.seq == s.id)

/-- The record's 64 bytes at its close (R426). -/
def Sample.record (s : Sample) (cycles : Nat) : Nat :=
  packWords (s.words.set 5 (Nat.min (cycles - s.start) 0xFFFF + (s.words[5]?).getD 0 + (Nat.min s.frozen 0xFFFF) <<< 20))

/-- The record is written to the ring of core k, or dropped (R427). -/
def Chip.samplePut (c : Chip) (x rec : Nat) : Chip :=
  let d := ctxDie x
  let k := ctxCore x
  let n := 2 ^ c.get (Reg.PMU_SMP_BUF.LOG2 d k)
  let prod := c.get (Reg.PMU_SMP_PTR.PROD d k)
  let used := (prod + 2 ^ 32 - c.get (Reg.PMU_SMP_PTR.CONS d k)) % 2 ^ 32
  let lost := fun (c : Chip) => c.count (Reg.PMU_SMP_CNT.LOST d k) 1
  if n ≤ used then lost c
  else
    match c.hubWrite (c.get (Reg.PMU_SMP_BUF.BASE d k) * 4096 + 64 * (prod % n)) 64 rec ⟨c.cxAgent x, 0, false, 3, 0⟩ .awaited with
    | (.ok, c) =>
      let c := c.addMod (Reg.PMU_SMP_PTR.PROD d k) 1
      if used + 1 = c.get (Reg.PMU_SMP_IRQ.WMARK d k) then
        c.irqReg (Reg.PMU_SMP_IRQ.AGENT d k) (Reg.PMU_SMP_IRQ.VEC d k) (Reg.PMU_SMP_IRQ.EN d k)
      else c
    | (.bus, c) | (.away, c) => lost c
    | (.region _ _, _) => lost c

/-- SAMPLE_CLOSE: the open sample of context x closes once its operation is complete. -/
def Chip.sampleClose (c : Chip) (x : Nat) : Chip :=
  match (c.ctxOf x).sample with
  | none => c
  | some s =>
    if (c.ctxOf x).sampleOver s then
      (c.ctxMod x (fun k => { k with sample := none })).samplePut x (s.record (c.coreOf (coreIx x)).cycles)
    else c

def execSampleClose (x : Fin 960) (s : State) : Host.Outcome State Fault Refusal := s.runWhole (fun c => c.sampleClose x.val)

/-! ### Counter Collector (R428 to R430) -/

def Chip.ccIrq (c : Chip) : Chip := c.irqReg Reg.PMU_CC_IRQ.AGENT Reg.PMU_CC_IRQ.VEC Reg.PMU_CC_IRQ.EN
def Chip.ccWho (c : Chip) : Who := c.hubWho 7 0 0 (c.on Reg.PMU_CC_CTRL.WORLD)
/-- floor(TIME ÷ (INTERVAL × 4,000)). -/
def Chip.ccMark (c : Chip) : Nat := c.time / (c.get Reg.PMU_CC_CTRL.INTERVAL * 4000)

/-- EN becomes 1: edges are counted from here (R429, R430). -/
def Chip.ccStart (c : Chip) : Chip :=
  ({ c with cc := { c.cc with mark := c.ccMark, skip := false } }).puts [(Reg.PMU_CC_STATUS.ERR, 0), (Reg.PMU_CC_STATUS.SEQ, 0)]

/-- A latch edge (R428, R430). -/
def Chip.latchEdge (c : Chip) : Chip :=
  if !c.on Reg.PMU_CC_CTRL.EN || c.on Reg.PMU_CC_STATUS.ERR || !decide (c.cc.mark < c.ccMark) then c
  else
    let jump := decide (c.cc.mark + 1 < c.ccMark)
    let c := { c with cc := { c.cc with mark := c.ccMark, skip := c.cc.skip || jump } }.addMod Reg.PMU_CC_STATUS.SEQ 1
    match c.cc.snap with
    | some _ => ({ c with cc := { c.cc with skip := true } }).count Reg.PMU_CC_CNT.MISSED 1
    | none => ({ c with cc := { c.cc with snap := some (c.time, c.get Reg.PMU_CC_STATUS.SEQ, c.regs) } }).put Reg.PMU_CC_STATUS.BUSY 1

def execLatchEdge (s : State) : Host.Outcome State Fault Refusal := s.run Chip.latchEdge

/-- An entry of a snapshot: VALUE, and OVF, INVALID and ABSENT (R429). -/
def Chip.ccEntry (c : Chip) (r : RegFile) (off : Nat) : Nat :=
  match counterAt off with
  | none => 2 <<< 64
  | some (v, o, _) => if c.csrAbsent off then 4 <<< 64 else r.get v + r.get o <<< 64

/-- The entries of the COUNT list, as (offset, bits) in order. -/
def listEntries (n v : Nat) : List Nat := (List.range n).map (fun i => bits v (64 * i) 32)

/-- The snapshot that is being written ends with an outcome: 0 written, 1 the ring was full, 2 an access failed. -/
def Chip.ccEnd (c : Chip) (r : Nat) : Chip :=
  let c := ({ c with cc := { c.cc with snap := none, skip := if r = 0 then false else c.cc.skip } }).put Reg.PMU_CC_STATUS.BUSY 0
  let c := if r = 1 then c.count Reg.PMU_CC_CNT.FULL 1 else if r = 2 then c.put Reg.PMU_CC_STATUS.ERR 1 else c
  c.ccIrq

/-- SNAPSHOT_WRITE: the latched counters go into snapshot PROD, and PROD advances (R429, R430). -/
def Chip.snapshotWrite (c : Chip) : Chip :=
  match c.cc.snap with
  | none => c
  | some (t, seq, r) =>
    let base := c.get Reg.PMU_CC_RING.BASE * 65536
    let n := c.get Reg.PMU_CC_CTRL.COUNT
    let w := c.ccWho
    match c.hubReadB base 16 w with
    | (.ok, false, v, c) =>
      let cons := bits v 0 64
      let prod := bits v 64 64
      if (prod + 2 ^ 64 - cons) % 2 ^ 64 = 2 ^ c.get Reg.PMU_CC_RING.LOG2 then c.ccEnd 1
      else
        match c.hubReadB (c.get Reg.PMU_CC_LIST.BASE * 4096) (8 * n) w with
        | (.ok, false, l, c) =>
          let size := 64 * ((64 + 16 * n + 63) / 64)
          let hdr := t + (seq % 2 ^ 64) <<< 64 + n <<< 128 + c.pkg <<< 144 + b2n c.cc.skip <<< 152
          let body := ((listEntries n l).zipIdx.map (fun p => c.ccEntry r p.1 <<< (8 * (64 + 16 * p.2)))).foldl (· + ·) hdr
          match c.hubWrite (base + 64 + size * (prod % 2 ^ c.get Reg.PMU_CC_RING.LOG2)) (64 + 16 * n) body w .awaited with
          | (.ok, c) =>
            match c.hubWrite (base + 8) 8 ((prod + 1) % 2 ^ 64) w .awaited with
            | (.ok, c) => c.ccEnd 0
            | (_, c) => c.ccEnd 2
          | (_, c) => c.ccEnd 2
        | (_, _, _, c) => c.ccEnd 2
    | (_, _, _, c) => c.ccEnd 2

def execSnapshotWrite (s : State) : Host.Outcome State Fault Refusal := s.runWhole Chip.snapshotWrite

/-! ### Energy (R431 to R434) -/

/-- Number of domains, and which of them are cores. -/
def nrgDoms : Nat := 317
def isCoreDom (j : Nat) : Bool := decide (j < 312) && decide (j % 26 < 20)

/-- Has a domain failed its self-check (R434)? -/
def Chip.nrgFailed (c : Chip) (j : Nat) : Bool :=
  if j < 312 then c.bitOf (Reg.NRG_DIE_STATUS.FAIL (j / 26)) (j % 26) else c.bitOf Reg.NRG_STATUS.HFAIL (j - 312)

/-- Baseline of a domain in 1/256 pJ (R432). -/
def Chip.nrgBase (c : Chip) (j : Nat) : Nat :=
  let k := if j < 312 then (if j % 26 < 25 then 24 else 25) else 26 + (j - 312)
  let t := toSigned 8 (if j < 312 then c.get (Reg.PWR_THERM.TEMP (j / 26)) else c.get Reg.PWR_HUB_THERM.TEMP)
  ((c.nrgA k : Int) + c.nrgB k * (t - 25)).toNat

def sumSnd (l : List (Nat × Nat)) : Nat := (l.map (·.2)).foldl (· + ·) 0

/-- Give one pJ each to the `n` shares with the largest fractions, earlier keys first among equals: entries are
(key, floor, fraction). -/
def topUp : Nat → List (Nat × Nat × Nat) → List (Nat × Nat × Nat)
  | 0, l => l
  | n + 1, l =>
    let best := l.foldl (fun (b : Option (Nat × Nat × Nat)) e => match b with
      | none => some e
      | some b => if b.2.2 < e.2.2 then some e else some b) none
    match best with
    | none => l
    | some b => topUp n (l.map (fun e => if e.1 = b.1 then (e.1, e.2.1 + 1, 0) else e))

/-- Divide `e` whole pJ by numerators that sum to e × den (R432). -/
def divide (e den : Nat) (l : List (Nat × Nat)) : List (Nat × Nat) :=
  let f := l.map (fun p => (p.1, p.2 / den, p.2 % den))
  let given := (f.map (fun p => p.2.1)).foldl (· + ·) 0
  (topUp (e - given) f).map (fun p => (p.1, p.2.1))

/-- The shares of a domain's whole pJ: by cycles for a core, otherwise the baseline for tenant 0 and the rest by model
energy (R432). -/
def Chip.nrgShares (c : Chip) (j e : Nat) (use : SMap Nat) : List (Nat × Nat) :=
  let total := sumSnd use
  if isCoreDom j then
    if total = 0 then [(0, e)] else divide e total (use.map (fun p => (p.1, e * p.2)))
  else if total = 0 then [(0, e)]
  else
    let s := Nat.min (256 * e) (c.nrgBase j)
    let rest := fun (k : Nat) => (256 * e - s) * SMap.getD use k 0
    divide e (256 * total) ((0, s * total + rest 0) :: (use.filter (fun p => p.1 != 0)).map (fun p => (p.1, rest p.1)))

/-- What a domain is taken to have drawn, in 1/65,536 pJ, with the fraction carried from its last epoch: as measured, or from the
model (R432, R434). A core has no model, and its energy is then a free value (log 1). -/
def Chip.nrgDrawn (c : Chip) (j measured : Nat) : Nat × Chip :=
  let carry := SMap.getD c.nrg.carry j 0
  if !c.nrg.degr.contains j then (measured + carry, c)
  else if isCoreDom j then let f := c.fresh; (f.1 + carry, f.2)
  else (256 * (c.nrgBase j + sumSnd (SMap.getD c.nrg.use j [])) + carry, c)

/-- One domain's part of an epoch's end. -/
def Chip.nrgClose (c : Chip) (j measured : Nat) (k : Credit) : Credit × Chip :=
  let r := c.nrgDrawn j measured
  let e := r.1 / 65536
  let c := { r.2 with nrg := { r.2.nrg with carry := SMap.put r.2.nrg.carry 0 j (r.1 % 65536) } }
  ({ k with doms := k.doms ++ [(j, e)], shares := k.shares ++ c.nrgShares j e (SMap.getD c.nrg.use j []) }, c)

/-- EPOCH_END: `es` lists what each domain drew in the epoch, in 1/65,536 pJ (R431 to R434). -/
def Chip.epochEnd (c : Chip) (es : List (Nat × Nat)) : Chip :=
  if !(decide (c.nrg.mark < c.time / 4000)) then c
  else
    let r := (List.range nrgDoms).foldl (fun (p : Credit × Chip) j =>
      p.2.nrgClose j ((es.find? (fun e => e.1 == j)).map (·.2) |>.getD 0) p.1) (⟨1600, [], []⟩, c)
    let c := r.2
    { c with nrg := { c.nrg with
        use := [], mark := c.time / 4000, due := c.nrg.due ++ [r.1], degr := (List.range nrgDoms).filter c.nrgFailed } }

def execEpochEnd (es : List (Nat × Nat)) (s : State) : Host.Outcome State Fault Refusal := s.run (fun c => c.epochEnd es)

/-- Credit a domain's energy: its counter and the package's. -/
def Chip.creditDom (c : Chip) (j e : Nat) : Chip :=
  let c := if j < 312 then c.cntPlus (Reg.NRG_DOM.VALUE (j / 26) (j % 26)) (Reg.NRG_DOM.OVF (j / 26) (j % 26)) e
    else c.cntPlus (Reg.NRG_HDOM.VALUE (j - 312)) (Reg.NRG_HDOM.OVF (j - 312)) e
  c.cntPlus Reg.NRG_PKG.VALUE Reg.NRG_PKG.OVF e

/-- Credit a share: its tenant's counter, and its context's (R433). -/
def Chip.creditShare (c : Chip) (key e : Nat) : Chip :=
  let t := key / 1024
  let c := c.cntPlus (Reg.NRG_TNT.VALUE t) (Reg.NRG_TNT.OVF t) e
  if key % 1024 = 0 then c
  else
    let x := key % 1024 - 1
    c.cntPlus (Reg.NRG_CTX.VALUE (x / 80) (x % 80)) (Reg.NRG_CTX.OVF (x / 80) (x % 80)) e

/-- EPOCH_CREDIT: 1,600 tick edges after an epoch its energy appears in every counter together (R433). -/
def Chip.epochCredit (c : Chip) : Chip :=
  match c.nrg.due with
  | k :: l =>
    if k.ticks = 0 then
      let c := { c with nrg := { c.nrg with due := l } }
      let c := k.doms.foldl (fun (c : Chip) p => c.creditDom p.1 p.2) c
      (k.shares.foldl (fun (c : Chip) p => c.creditShare p.1 p.2) c).addMod Reg.NRG_EPOCH.EPOCHS 1
    else c
  | [] => c

def execEpochCredit (s : State) : Host.Outcome State Fault Refusal := s.run Chip.epochCredit

/-- PHASE_SELF_CHECK_FAIL of a domain (R434). -/
def Chip.phaseFail (c : Chip) (j : Nat) : Chip :=
  let c := if j < 312 then c.putBit (Reg.NRG_DIE_STATUS.FAIL (j / 26)) (j % 26) true else c.putBit Reg.NRG_STATUS.HFAIL (j - 312) true
  (c.put Reg.NRG_STATUS.DEGRADED 1).irqReg Reg.NRG_IRQ.AGENT Reg.NRG_IRQ.VEC Reg.NRG_IRQ.EN

def execPhaseSelfCheckFail (j : Fin 317) (s : State) : Host.Outcome State Fault Refusal := s.run (fun c => c.phaseFail j.val)

end Sys2Proof.Machine
end

