-- ==== Sys2Proof/Machine/Csr.lean ====
section
/-! DEFINITION. Machine/Csr.lean: an access to the CSR space (R13 to R16, R19, R22): its region check, what holds it, what ignores
it, its audit record, and what each register does when it is written. -/
namespace Sys2Proof.Machine

/-! ### Registers with actions of their own -/

/-- The address-map fields that a lock covers, as the digest takes them (R29). -/
def Chip.amapWords (c : Chip) : List Nat :=
  [c.get Reg.HUB_AMAP_PRESENT.PKG, c.get Reg.HUB_AMAP_DRAM.SIZE, c.get Reg.HUB_AMAP_CXL.SIZE]
    ++ (List.range 8).map (fun n => c.regVal (0xC0000040 + 8 * n))

/-- The conditions of R29 over the enabled sets. -/
def Chip.amapOk (c : Chip) : Bool :=
  let en := (List.range 8).filter (fun n => c.on (Reg.HUB_ILV.EN n))
  let b := fun n => c.get (Reg.HUB_ILV.BASE n)
  let z := fun n => c.get (Reg.HUB_ILV.SIZE n)
  let f := fun n => c.get (Reg.HUB_ILV.FIRST_CH n)
  let k := fun n => c.get (Reg.HUB_ILV.NUM_CH n)
  en.all (fun n => decide (1 ≤ k n) && decide (k n ≤ 24) && decide (f n + k n ≤ 24) && decide (b n + z n ≤ c.get Reg.HUB_AMAP_DRAM.SIZE)
    && en.all (fun m => m == n || ((z n == 0 || z m == 0 || decide (b n + z n ≤ b m) || decide (b m + z m ≤ b n))
      && (decide (f n + k n ≤ f m) || decide (f m + k m ≤ f n)))))

/-- HUB_AMAP_LOCK is written (R29). -/
def Chip.amapLock (c : Chip) (v : Nat) : Chip :=
  let c := if bit v 1 then c.put Reg.HUB_AMAP_LOCK.BAD 0 else c
  if !bit v 0 || c.on Reg.HUB_AMAP_LOCK.LOCK then c
  else if c.amapOk then
    c.puts [(Reg.HUB_AMAP_LOCK.LOCK, 1), (Reg.HUB_AMAP_LOCK.DIGEST, (Config.amapDigest c.amapWords).toNat)]
  else c.put Reg.HUB_AMAP_LOCK.BAD 1

/-- SB_CTRL is written; WORLD and WAKE_EN only by the Secure world (R400). -/
def Chip.sbCtrl (c : Chip) (w : Who) (v : Nat) : Chip :=
  let a := c.get Reg.SB_CTRL.WAKE_EN
  let b := c.get Reg.SB_CTRL.WORLD
  let c := c.storeAt 0xCC000000 v
  if w.secure then c else c.puts [(Reg.SB_CTRL.WAKE_EN, a), (Reg.SB_CTRL.WORLD, b)]

/-- SB_ALERT.SET: ALERT_N is driven low, or in I3C mode an in-band interrupt is raised (R451). -/
def Chip.sbAlert (c : Chip) (v : Nat) : Chip :=
  if !bit v 0 then c
  else if c.on Reg.SB_CTRL.I3C then { c with sb := { c.sb with ibi := c.sb.ibi + 1 } }
  else c.put Reg.SB_ALERT.PENDING 1

/-- AUD_CTRL is written; a DRAM_EN that becomes 1 starts the sink (R347). -/
def Chip.audCtrl (c : Chip) (v : Nat) : Chip :=
  let was := c.on Reg.AUD_CTRL.DRAM_EN
  let c := c.storeAt 0xC9C00008 v
  if c.on Reg.AUD_CTRL.DRAM_EN && !was then c.dramSinkStart else c

/-- PMU_CC_CTRL is written; INTERVAL and COUNT only while EN is 0 (R430). -/
def Chip.ccCtrl (c : Chip) (v : Nat) : Chip :=
  let was := c.on Reg.PMU_CC_CTRL.EN
  let a := c.get Reg.PMU_CC_CTRL.INTERVAL
  let b := c.get Reg.PMU_CC_CTRL.COUNT
  let c := c.storeAt 0xCE030100 v
  if was then c.puts [(Reg.PMU_CC_CTRL.INTERVAL, a), (Reg.PMU_CC_CTRL.COUNT, b)]
  else if c.on Reg.PMU_CC_CTRL.EN then c.ccStart
  else c

/-- CORE_CTX_CTRL of context x is written: RESET, which waits for the bundle boundary of a RUNNING context, then START (R71, R73). -/
def Chip.ctxCtrl (c : Chip) (w : Who) (x v : Nat) : Chip :=
  let start := bit v 0 && !c.fwQuiet
  let how := if start then 2 + b2n w.secure else 1
  let k := c.ctxOf x
  if bit v 1 then
    (if c.cxState x == cxRunning && k.serial.any (fun s => s.kind != .string) then c.ctxMod x (fun k => { k with resetWait := how })
     else c.ctxResetThen x how)
  else if start then c.ctxStart w.secure x
  else c

/-- CFG_STAGE_CMD is written: any write while BUSY is refused; else the engine begins after it, a LOAD with VALID at 0 (R369 to R371). -/
def Chip.stageCmd (c : Chip) (v : Nat) : Chip :=
  let op := bits v 0 2
  let mask := bits v 8 4
  if c.on Reg.CFG_STAGE_STATUS.BUSY then c.put Reg.CFG_STAGE_STATUS.RESULT 5
  else if op = 0 || op = 3 || (op = 2 && mask = 0) then c
  else if op = 2 && !c.on Reg.CFG_STAGE_STATUS.VALID then c.put Reg.CFG_STAGE_STATUS.RESULT 4
  else
    ({ c with stage := { c.stage with op := op, mask := mask, sect := 0, rcd := 0, begun := false } }).puts
      ([(Reg.CFG_STAGE_STATUS.BUSY, 1), (Reg.CFG_STAGE_STATUS.RESULT, 0)] ++ if op = 1 then [(Reg.CFG_STAGE_STATUS.VALID, 0)] else [])

/-! ### What a write does -/

/-- A write to a compute die's CSR block: die d, offset o in the block. -/
def Chip.csrDie (c : Chip) (w : Who) (d o v : Nat) : Chip :=
  let off := 0x10000000 * d + o
  if o < 0x1000000 then
    let k := o / 0x10000
    let r := o % 0x10000
    if 0x50 ≤ r && r < 0x70 then c.ctxCtrl w (80 * d + 4 * k + (r - 0x50) / 8) v else c.storeAt off v
  else if o < 0x2000000 then
    let cl := (o - 0x1000000) / 0x10000
    let r := o % 0x10000
    if r = 0 then (if bit v 0 then c.l2Enable d cl else c.l2Disable d cl)
    else if r = 0x10 then c.l2Lock d cl v
    else if r = 0x18 then c.l2Maint d cl (bits v 0 2) (bit v 2)
    else c.storeAt off v
  else if o < 0x3000000 then
    (if o % 0x10000 = 0 then c.l3Maint d ((o - 0x2000000) / 0x10000) (bits v 0 2) else c.storeAt off v)
  else if 0x7000000 ≤ o && o < 0x7000028 then c.clCtrl w d ((o - 0x7000000) / 8) v
  else if o = 0x7000108 then (c.storeAt off v).ratioCheckDie d
  else c.storeAt off v

/-- A write to a port's PCI_ block. -/
def Chip.csrPci (c : Chip) (off v : Nat) : Chip :=
  let port := (off - 0xCB000000) / 0x10000
  let r := off % 0x10000
  if r = 0 then (if bit v 0 && c.fwQuiet then c else c.pciCfg port v)
  else if r = 0x20 then c.fcmd port (bits v 0 3) (bits v 16 13)
  else if r = 0x68 then c.winSel port v
  else if r = 0x70 then c.xcmd port v
  else c.storeAt off v

/-- A write to the tenant block: TNT_CMD, and the supervisor pages (R281, R291). -/
def Chip.csrTnt (c : Chip) (w : Who) (off v : Nat) : Chip :=
  if off = 0xC6000008 then c.tntCmdWrite w v
  else if 0xC6200000 ≤ off && off < 0xC6240000 && off % 64 = 0 then c.svCmd w ((off - 0xC6200000) / 64) v
  else c.storeAt off v

/-- A write to the regulator block (R305 to R311). -/
def Chip.csrReg (c : Chip) (off v : Nat) : Chip :=
  if off = 0xC8000008 then (if bit v 0 then c.regCtrl v else (c.regCtrl v).qResumeAll)
  else if off = 0xC8000030 then c.rsvCmd v
  else if 0xC8010000 ≤ off && off < 0xC8030000 then c.regEntWrite ((off - 0xC8010000) / 32) (off % 32 / 8) v
  else c.storeAt off v

/-- A write to the security, OTP and audit blocks. -/
def Chip.csrSec (c : Chip) (w : Who) (off v : Nat) : Chip :=
  if off = 0xC9000008 then c.secDbgWrite v
  else if off = 0xC9000020 then c.wdogCtrl v
  else if off = 0xC9000028 then c.wdogKick v
  else if 0xC9010000 ≤ off && off < 0xC9014000 then
    c.rgnWrite ((off - 0xC9010000) / 512) (off % 512 / 16) (off % 16 / 8) v
  else if off = 0xC9800008 then (if bit v 0 then c.otpProg w (bits v 8 7) else c)
  else if off = 0xC9C00008 then c.audCtrl v
  else c.storeAt off v

/-- A write to the configuration block (R367 to R373). -/
def Chip.csrCfg (c : Chip) (w : Who) (off v : Nat) : Chip :=
  if off = 0xCA000028 then c.stageCmd v
  else if off = 0xCA000300 then c.poolCommit v
  else if 0xCA000400 ≤ off && off < 0xCA000600 then c.poolCmd w ((off - 0xCA000400) / 16) v
  else if 0xCA000800 ≤ off && off < 0xCA000A00 then c.lockWrite w ((off - 0xCA000800) / 8) v
  else c.storeAt off v

/-- A write to the package's PWR_ block. -/
def Chip.csrPwr (c : Chip) (w : Who) (off v : Nat) : Chip :=
  if off = 0xCC800008 then c.pkCmd (bits v 0 2)
  else if off = 0xCC800018 then (if bit v 0 then c.secAck w else c)
  else if off = 0xCC800060 then c.gateCmd w (bits v 0 6) (bits v 6 2)
  else c.storeAt off v

/-- A write of a whole register takes effect: an action of its own, or the access types of its fields (R16). -/
def Chip.csrAction (c : Chip) (w : Who) (off v : Nat) : Chip :=
  if off < 0xC0000000 then c.csrDie w (off / 0x10000000) (off % 0x10000000) v
  else if off = 0xC0000008 then c.amapLock v
  else if 0xC0000140 ≤ off && off < 0xC00001A0 then c.coreDivReq ((off - 0xC0000140) / 8) (bits v 0 10)
  else if off = 0xC0000310 then c.sprkCommitWrite w v
  else if off = 0xC1000008 then c.hcMaint (bits v 0 2)
  else if off = 0xC1000110 then c.rangeCmd w (bits v 0 2)
  else if 0xC2000000 ≤ off && off < 0xC3000000 && off % 0x10000 = 0x180 then c.dirProbe ((off - 0xC2000000) / 0x10000) v
  else if 0xC3000000 ≤ off && off < 0xC4000000 then c.mcWrite ((off - 0xC3000000) / 0x10000) (off % 0x10000) v
  else if off = 0xC4000008 then c.pgCtrl v
  else if off = 0xC4000110 then c.scrubCmd v
  else if 0xC5000000 ≤ off && off < 0xC5800000 && off % 0x10000 = 0 then
    let c := c.storeAt off v
    if bit v 0 then c.spkRetrain ((off - 0xC5000000) / 0x10000) else c
  else if 0xC5800000 ≤ off && off < 0xC6000000 && off % 0x10000 = 0 then c.tdmCtrl ((off - 0xC5800000) / 0x10000) v
  else if 0xC5800100 ≤ off && off < 0xC5800140 then (c.storeAt off v).holdRoute ((off - 0xC5800100) / 8)
  else if 0xC6000000 ≤ off && off < 0xC7000000 then c.csrTnt w off v
  else if off = 0xC7000008 then (if bit v 0 && c.fwQuiet then c else c.storeAt off v)
  else if off = 0xC7000020 then c.qcmd (bits v 0 3) (bits v 8 20)
  else if 0xC7000100 ≤ off && off < 0xC7000140 then
    (if bit v 0 then c.put (Reg.HQE_SCHED.PENDING ((off - 0xC7000100) / 8)) 1 else c)
  else if 0xC8000000 ≤ off && off < 0xC8800000 then c.csrReg off v
  else if 0xC9000000 ≤ off && off < 0xCA000000 then c.csrSec w off v
  else if 0xCA000000 ≤ off && off < 0xCB000000 then c.csrCfg w off v
  else if 0xCB000000 ≤ off && off < 0xCC000000 then c.csrPci off v
  else if off = 0xCC000000 then c.sbCtrl w v
  else if off = 0xCC000018 then c.sbAlert v
  else if 0xCC800000 ≤ off && off < 0xCD000000 then c.csrPwr w off v
  else if off = 0xCD000008 then c.timeLoad v
  else if off = 0xCD000080 then
    let was := c.on Reg.TIME_CL_CTRL.EN
    (c.storeAt off v).chainlineCtrl was
  else if off = 0xCE030100 then c.ccCtrl v
  else c.storeAt off v

/-! ### What ignores a write -/

/-- Registers whose every field only the Secure world may write (R147, R322, and the register lists of spec/14 and spec/16). -/
def secureOnly (off : Nat) : Bool :=
  inBlk off 0xC9000000 0x800000 || off == 0xC0000308 || off == 0xCA000008 || inBlk off 0xCA000020 16 || inBlk off 0xCA000040 96
    || inBlk off 0xCA000100 0x208 || off == 0xCC800018 || off == 0xCC800020 || off == 0xCC800030
    || (off < 0xC0000000 && off % 0x10000000 == 0x7000100)

/-- Instances that a register's block does not have: DIR_ registers of slices 1 to 15 (spec/07), TDM_ROUTE of ports 1 to 5, PCI_CXL of
ports 4 to 7, checkers 27 to 30. -/
def csrNoInstance (off : Nat) : Bool :=
  (inBlk off 0xC2010000 0xF0000 && decide (off % 0x10000 ≤ 0xB0) && decide (8 ≤ off % 0x10000))
    || (inBlk off 0xC5810000 0x50000 && decide (0x100 ≤ off % 0x10000))
    || (inBlk off 0xCB040000 0x40000 && decide (0x800 ≤ off % 0x10000))
    || (inBlk off 0xC9013600 0x800)

/-- Is an offset on the supervisor page of a tenant, and whose? -/
def svPage (off : Nat) : Option Nat := if inBlk off 0xC6200000 0x40000 then some ((off - 0xC6200000) / 64) else none

/-- Does the running APPLY name a register (R371)? -/
def Chip.stageHolds (c : Chip) (off : Nat) : Bool :=
  c.stage.op == 2 && c.stage.begun &&
    (let img := c.staged
     (imgSects img).any (fun e =>
       sectReload e.typ && bit c.stage.mask (e.typ - stSprocket) &&
         (if e.typ = stSprocket then inBlk off 0xC0000300 24 else (List.range e.rcds).any (fun i => (imgRcd img e i).off == off))))

/-- A write that meets nothing to take effect on: a reserved or absent register, no writable field, a field of the Secure world, a
table entry, bank or base that ignores writes now (R15, R16, R22, R280, R290, R322, R386, R427, R430). -/
def Chip.csrBlocked (c : Chip) (w : Who) (off : Nat) : Bool :=
  c.csrAbsent off || csrNoInstance off || !c.writable off || (secureOnly off && !w.secure)
    || (match svPage off with | some t => !c.svAdmits w t | none => false)
    || (inBlk off 0xC6100000 0x20000 && (let st := c.tntState ((off - 0xC6100000) / 32); st != tnActive && st != tnFrozen))
    || c.winActive off
    || (inBlk off 0xCB000000 0x80000 && off % 0x10000 == 0x18 && c.on (Reg.PCI_CFG.EN ((off - 0xCB000000) / 0x10000)))
    || ((off == 0xC7000010 || off == 0xC7000018) && c.on Reg.HQE_CTRL.EN)
    || ((off == 0xCE030108 || off == 0xCE030110) && c.on Reg.PMU_CC_CTRL.EN)
    || (decide (off < 0xC0000000) && decide (0x5000000 ≤ off % 0x10000000) && decide (off % 0x10000000 < 0x5014000) && off % 0x1000 == 0x610
        && c.on (Reg.PMU_SMP_CTRL.EN (off / 0x10000000) ((off % 0x10000000 - 0x5000000) / 0x1000)))

/-- Does the channel's state list a command that MC_CMD is written with (R212)? -/
def Chip.mcCmdListed (c : Chip) (ch v : Nat) : Bool :=
  let st := c.mcState ch
  (bit v 0 && (st == mcTraining || st == mcFailed || (st == mcOff && c.on (Reg.MC_CFG.LOCK ch)))) || (bit v 1 && st == mcTraining)
    || (bit v 2 && st == mcReady) || (bit v 3 && st == mcSelfRefresh)

/-- A write that its register's own rule refuses or ignores whole (R46, R147, R160, R212, R221, R341, R372 to R375, R405 to R407, R412,
R413). -/
def Chip.csrRefuses (c : Chip) (w : Who) (off v : Nat) : Bool :=
  let d := off / 0x10000000
  let o := off % 0x10000000
  if off < 0xC0000000 then
    if 0x7000000 ≤ o && o < 0x7000028 then !c.cluPresent d ((o - 0x7000000) / 8) || c.clDenied w d ((o - 0x7000000) / 8)
    else if o < 0x1000000 && 0x50 ≤ o % 0x10000 && o % 0x10000 < 0x70 then bit v 0 && !bit v 1 && c.fwQuiet
    else if 0x1000000 ≤ o && o < 0x2000000 && o % 0x10000 = 0x18 then
      bits v 0 2 != 0 && c.on (Reg.CL_L2_STATUS.MBUSY d ((o - 0x1000000) / 0x10000))
    else if 0x2000000 ≤ o && o < 0x3000000 && o % 0x10000 = 0 then bits v 0 2 != 0 && c.on (Reg.L3_STATUS.MBUSY d ((o - 0x2000000) / 0x10000))
    else false
  else if off = 0xC1000008 then bits v 0 2 != 0 && c.on Reg.HC_STATUS.MBUSY
  else if 0xC3000000 ≤ off && off < 0xC4000000 && off % 0x10000 = 0x50 then
    bits v 0 4 != 0 && !c.mcCmdListed ((off - 0xC3000000) / 0x10000) v
  else if 0xC3000000 ≤ off && off < 0xC4000000 && off % 0x10000 = 0x60 then c.on (Reg.MC_MR_RESULT1.BUSY ((off - 0xC3000000) / 0x10000))
  else if 0xC5800000 ≤ off && off < 0xC6000000 && off % 0x10000 = 0 then bit v 0 && c.gated (44 + (off - 0xC5800000) / 0x10000)
  else if off = 0xC0000310 then bits v 0 2 == 2 && !w.secure
  else if off = 0xC7000008 then bit v 0 && c.fwQuiet
  else if off = 0xC9000028 then v % 2 ^ 16 != 0x5EC1
  else if off = 0xC9800008 then !w.secure || (bit v 0 && w.tenant != 0)
  else if off = 0xCC000000 then !w.secure
  else if 0xCA000800 ≤ off && off < 0xCA000A00 then
    let n := (off - 0xCA000800) / 8
    !((bit v 2 && isCtxAgent w.agent) || ((bit v 1 || bit v 3) && c.lockOwner w n))
  else if 0xCB000000 ≤ off && off < 0xCC000000 && off % 0x10000 = 0 then
    let p := (off - 0xCB000000) / 0x10000
    c.on (Reg.PCI_CFG.EN p) || (bit v 0 && (c.fwQuiet || c.gated (36 + p)))
  else if off = 0xCC800008 then bits v 0 2 == 2 && !c.entering
  else if off = 0xCC800018 then bit v 0 && !(c.entering && c.fwStep == 1)
  else if off = 0xCC800060 then bits v 6 2 != 0 && decide (bits v 0 6 ≤ 51) && c.gateDenied w (bits v 0 6)
  else if off = 0xCD000008 then !c.timeLoadOk v
  else false

/-! ### Writes -/

/-- The address of a register of this package. -/
def Chip.csrAddr (c : Chip) (off : Nat) : Nat := c.csrBase + off

/-- The master of an access that broke a rule is frozen; a message is answered with the violation (R285, R458; log 13). -/
def Chip.devViolates (c : Chip) (w : Who) (d : Option OutFor) (i : FInfo) : Chip :=
  match d with
  | some (.dev m) =>
    let v := c.violMsg i m.line m.tag m.agent
    if agPkg m.agent = c.pkg then
      if agDie m.agent < 12 then (if w.kind < 3 then c.freeze i else c).sendMsg { v with dstDie := agDie m.agent } else c.farViol m.tag m.agent i
    else c.sendMsg v
  | _ => c.violate w i

/-- A failed check at checker k, logged and answered (R326). -/
def Chip.devRegion (c : Chip) (w : Who) (d : Option OutFor) (k region addr : Nat) (write : Bool) : Chip :=
  (c.violLog k region addr w write).devViolates w d (whoInfo w fzRegion write region addr (c.checkerAgent k 0))

/-- The audit record of a write that is carried out. One that restarts the DRAM sink takes a slot kept for hardware records, or waits as one
of these does (R343, R346, R347). -/
def Chip.csrRecord (c : Chip) (h : HeldWrite) (refused : Bool) : Chip :=
  let addr := c.csrAddr h.off
  if h.off = 0xC9C00020 && bit h.value 16 then c.hwEnter ⟨0, c.time, h.value, addr, some h.who, refused⟩
  else c.audPush (c.swBody h.who addr h.value refused)

/-- A write is carried out: checked, recorded and, unless something ignores it, given its effect (R13, R15, R16, R290, R322, R326,
R343, R344). -/
def Chip.csrPerform (c : Chip) (h : HeldWrite) : DevRes × Chip :=
  let w := h.who
  let addr := c.csrAddr h.off
  let c := c.nrgEv domHubc 12 (c.keyOf w.agent w.tenant) 1
  let c := if h.off = 0xCD000008 then c.timeNow.2 else c
  let r := c.rgnCheck 26 addr w rightW
  if !r.ok then (.viol, ((c.csrRecord h true).devRegion w h.dest 26 r.region addr true))
  else if h.size != 8 || h.off % 8 != 0 then (.bus, c.csrRecord h true)
  else if c.csrBlocked w h.off then
    let c := c.csrRecord h true
    match svPage h.off with
    | some t =>
      if c.svAdmits w t then (.ok 0, c)
      else (.viol, c.devViolates w h.dest (whoInfo w fzCtrl true 0 addr c.tableAgent))
    | none => (.ok 0, c)
  else (.ok 0, (c.csrRecord h (c.csrRefuses w h.off h.value)).csrAction w h.off h.value)

/-- Does a write wait at its target for a staged set or an APPLY (R364, R371)? -/
def Chip.csrParked (c : Chip) (off : Nat) : Bool :=
  (inBlk off 0xC0000300 16 && c.on Reg.HUB_SPRK_STATUS.BUSY) || c.stageHolds off

/-- Does a write of a register wait (R346, R364, R371)? -/
def Chip.csrHeld (c : Chip) (off : Nat) : Bool := c.aud.held.any (fun h => h.off == off) || c.stage.held.any (fun h => h.off == off)

/-- The block whose hardware record a write of a register can lead to: a Tandem port's for TDM_CTRL, the tenant table's for CFG_POOL_CMD
(R275, R368). -/
def Chip.recBlock (c : Chip) (off : Nat) : Option Nat :=
  if inBlk off 0xC5800000 0x60000 && off % 0x10000 == 0 then some (hubAgent c.pkg 5 ((off - 0xC5800000) / 0x10000))
  else if inBlk off 0xCA000400 0x200 && off % 16 == 0 then some c.tableAgent
  else none

/-- Does the block of a write hold 16 records, so that the change waits (R346)? -/
def Chip.hwHolds (c : Chip) (off : Nat) : Bool :=
  match c.recBlock off with
  | some b => c.hwFull b
  | none => false

/-- A write waits or is carried out: behind one of its register that waits for a staged set or an APPLY (R121), or a full audit ring or a block full of records holds it (R346), except the write that restarts the DRAM sink (R347). -/
def Chip.csrArrive (c : Chip) (h : HeldWrite) : DevRes × Chip :=
  if c.stage.held.any (fun x => x.off == h.off) then (.later, { c with stage := { c.stage with held := c.stage.held ++ [h] } })
  else if !(h.off == 0xC9C00020 && bit h.value 16) && (decide (audHold ≤ c.aud.ring.length) || !c.aud.held.isEmpty || c.hwHolds h.off) then
    (.later, ({ c with aud := { c.aud with held := c.aud.held ++ [h] } }).count Reg.AUD_STALL_CNT.STALLS 1)
  else if c.csrParked h.off || c.selParked h.off h.value then (.later, { c with stage := { c.stage with held := c.stage.held ++ [h] } })
  else c.csrPerform h

/-- A write that was held is answered to whoever made it. -/
def Chip.heldAnswer (c : Chip) (h : HeldWrite) (r : DevRes) : Chip :=
  match h.dest with
  | some d => c.outAnswer d h.size r
  | none => c

/-- The writes parked for a staged set, an APPLY or requests of an old window bank come again, in order (R364, R371, R386). -/
def Chip.parkedRetry (c : Chip) : Chip :=
  let l := c.stage.held
  l.foldl (fun (c : Chip) h =>
    match c.csrArrive h with
    | (r, c) => c.heldAnswer h r) { c with stage := { c.stage with held := [] } }

/-- Core k changes to the new Sprocket table; a commit that ends lets the held shadow writes land (R148, R364). -/
def execSprkCommitDone (k : Fin 240) (s : State) : Host.Outcome State Fault Refusal :=
  s.runWhole (fun c =>
    let was := c.on Reg.HUB_SPRK_STATUS.BUSY
    let c := c.sprkDone k.val
    if was && !c.on Reg.HUB_SPRK_STATUS.BUSY then c.parkedRetry else c)

/-! ### Reads -/

/-- Distance column of a stepping (spec/03). -/
def distSet (stepping : Nat) : Nat := if stepping = 0x01 then 1 else if stepping = 0x10 then 2 else if stepping = 0x11 then 3 else 0

/-- OTP_FIELD[f]: value, winning generation, NONE, FINAL, USED (R340). -/
def Chip.otpFieldReg (c : Chip) (f : Nat) : Nat :=
  let u := c.otpUsed f
  c.otpValue f + (c.otpGen f).getD 0 <<< 56 + b2n (c.otpGen f).isNone <<< 58 + b2n (u == 15) <<< 59 + u <<< 60

/-- What a read returns where the fields alone do not say it. -/
def Chip.csrValue (c : Chip) (w : Who) (off : Nat) : Nat :=
  let v := c.regVal off
  let o := off % 0x10000000
  if c.csrAbsent off || csrNoInstance off then 0
  else if off < 0xC0000000 then
    if o < 0x1000000 && o % 0x10000 = 0 then setBits v 0 4 (distSet (c.get Reg.HUB_PKG_ID.STEPPING))
    else if 0x7000040 ≤ o && o < 0x70000E0 && !c.corePresent (off / 0x10000000) ((o - 0x7000040) / 8) then setBits v 0 2 3
    else v
  else if off = 0xC8010000 then setBits v 0 1 1
  else if inBlk off 0xC6200000 0x40000 then (if c.svAdmits w ((off - 0xC6200000) / 64) then v else 0)
  else if inBlk off 0xC9013E00 0x200 then c.regVal (regAlias off)
  else if inBlk off 0xC9800400 0x400 then c.otpFieldReg ((off - 0xC9800400) / 8)
  else if inBlk off 0xC9C00048 24 then bits c.aud.latch (64 * ((off - 0xC9C00048) / 8)) 64
  else if off = 0xCC800000 then setBits v 0 2 c.pkState
  else if inBlk off 0xCF000200 256 then
    let k := (off - 0xCF000200) / 8
    bits (c.otpField (96 + k)) 0 (if k < 24 then 24 else 56)
  else v

/-- What a read changes: RC fields, latched overflow bits, latched digest words (R16, R345, R420). -/
def Chip.csrReadEffect (c : Chip) (w : Who) (off : Nat) : Chip :=
  if c.csrAbsent off || csrNoInstance off then c
  else if (match svPage off with | some t => !c.svAdmits w t | none => false) then c
  else
    let c := (c.loadAt off).2.counterRead off
    if off = 0xC9C00040 then
      let l := c.get (Reg.AUD_DIGEST.DIGEST 1) + c.get (Reg.AUD_DIGEST.DIGEST 2) <<< 64 + c.get (Reg.AUD_DIGEST.DIGEST 3) <<< 128
      { c with aud := { c.aud with latch := l } }
    else c

/-- A read of the CSR space (R13, R15, R16, R326). -/
def Chip.csrRead (c : Chip) (w : Who) (off size : Nat) (d : Option OutFor) : DevRes × Chip :=
  let addr := c.csrAddr off
  let c := c.nrgEv domHubc 12 (c.keyOf w.agent w.tenant) 1
  let r := c.rgnCheck 26 addr w rightR
  if !r.ok then (.viol, c.devRegion w d 26 r.region addr false)
  else if size != 8 || off % 8 != 0 then (.poison, c)
  else if off = 0xCD000000 then (let t := c.timeNow; (.ok t.1, t.2))
  else (.ok (c.csrValue w off), c.csrReadEffect w off)

end Sys2Proof.Machine
end

