-- ==== Sys2Proof/Machine/Boot.lean ====
section
/-! DEFINITION. Machine/Boot.lean: the boot ROM (R349, R354 to R361) and the CFG engine of run-time reload (R369 to R371). -/
namespace Sys2Proof.Machine

/-! ### Writes of the boot ROM and the CFG engine -/

/-- The audit ring holds software writes (R346). -/
def Chip.audFull (c : Chip) : Bool := decide (audHold ≤ c.aud.ring.length) || !c.aud.held.isEmpty

/-- A software write of a register waits for the log (R346). -/
def Chip.audHolds (c : Chip) (off : Nat) : Bool := c.audFull || c.hwHolds off

/-- A write as the Seurv core (R354). -/
def Chip.engineWrite (c : Chip) (off v : Nat) : Chip := (c.csrPerform ⟨c.seurv, off, v, 8, none⟩).2

/-- Address of the staged image in the hub-local window (R24). -/
def Chip.stageAddr (c : Chip) : Nat := 0xFF80000000000 + c.pkg * 2 ^ 32 + stageBase

/-- Write number i of a SPROCKET section: the two sources, then COMMIT of both tables (R147). -/
def Chip.sprkWrite (c : Chip) (e : Sect) (i : Nat) : Chip :=
  if i < 2 then c.engineWrite (0xC0000300 + 8 * i) (c.stageAddr + e.off + 16384 * i)
  else c.engineWrite 0xC0000310 3

/-- Each record is one register write or one section step: fuel for a whole image. -/
def imgFuel (img : Nat) : Nat := imgSize img / 24 + 512

/-! ### Reading an image -/

/-- The CFG engine reads bytes of an image in DRAM: none where a line is poisoned or refused (R369). -/
def Chip.imgRead (c : Chip) (n : Nat) : Option Nat × Chip :=
  match c.anyReadB (c.get Reg.CFG_STAGE_SRC.ADDR * 65536) n c.seurv with
  | (.ok, false, v, c) => (some v, c)
  | (_, _, _, c) => (none, c)

/-- The checks of R356 over an image in DRAM: the reason, or the image (R369). -/
def Chip.loadCheck (c : Chip) : Sum Nat Nat × Chip :=
  match c.imgRead 0x240 with
  | (none, c) => (.inl 8, c)
  | (some h, c) =>
    let r := c.headFail h false
    if r != 0 then (.inl r, c)
    else
      match c.imgRead (imgSize h) with
      | (none, c) => (.inl 8, c)
      | (some img, c) =>
        let r := c.bodyFail img (Nat.max (c.otpField 16) (c.get Reg.CFG_BOOT.SVN))
        (if r != 0 then .inl r else .inr img, c)

/-! ### LOAD and APPLY -/

/-- The engine's operation ends with a result. -/
def Chip.stageEnd (c : Chip) (result : Nat) : Chip :=
  ({ c with stage := { c.stage with op := 0, begun := false } }).puts
    [(Reg.CFG_STAGE_STATUS.BUSY, 0), (Reg.CFG_STAGE_STATUS.RESULT, result)]

/-- LOAD: the image is checked, and a sound one is copied (R369). -/
def Chip.stageLoad (c : Chip) : Chip :=
  match c.loadCheck with
  | (.inl r, c) => (c.put Reg.CFG_STAGE_STATUS.AUTH r).stageEnd 2
  | (.inr img, c) => { c with mram := c.mram.write stageBase (imgSize img) img, stage := { c.stage with begun := true } }

/-- The first failing entry of a Sprocket table image of 16 KiB (R148). -/
def tableBad (img : Nat) : Bool :=
  (List.range 64).any (fun s => let e := bits img (2048 * s) 2048; bit e 0 && (entryReason e).isSome)

/-- The first record that breaks the rules of R370 for its section: its index and reason. -/
def Chip.rcdConflict (c : Chip) (img : Nat) (e : Sect) : Option (Nat × Nat) :=
  (List.range e.rcds).findSome? (fun i =>
    let r := imgRcd img e i
    if r.op != 0 then some (i, 6)
    else if (r.off == 0xC7000010 || r.off == 0xC7000018) && c.on Reg.HQE_CTRL.EN then some (i, 2)
    else if !stageNames e.typ r.off then some (i, 1)
    else none)

/-- ADMIT of every resource. -/
def Chip.admits (c : Chip) : List Nat := (List.range 24).map (fun r => c.get (Reg.REG_RES.ADMIT r))

/-- Is more reserved of some resource than ADMIT (R370)? -/
def Chip.overCommit (c : Chip) : Bool := (List.range 24).any (fun r => decide (c.get (Reg.REG_RES.ADMIT r) < c.get (Reg.REG_RES.RESERVED r)))

/-- What trying a REGULATOR section gives: the record that fails, ADMIT as each of its REG_RSV commands found it, and the copy after it. -/
structure RegTry where
  bad : Option Nat
  adm : List (List Nat)
  chip : Chip

/-- The records of a REGULATOR section, tried in order on a copy of the package: the first command that would reserve more than ADMIT fails,
and at the end nothing may be reserved beyond it (R370). -/
def regTry (img : Nat) (e : Sect) : List Nat → List (List Nat) → Chip → RegTry
  | [], adm, c => ⟨if c.overCommit then some 0 else none, adm, c⟩
  | i :: l, adm, c =>
    let r := imgRcd img e i
    let rsv := r.off = 0xC8000030
    let adm := if rsv then adm ++ [c.admits] else adm
    let c := (c.put Reg.REG_RSV_STATUS.RESULT 0).csrReg r.off (c.rcdValue r)
    if rsv && c.get Reg.REG_RSV_STATUS.RESULT = 2 then ⟨some i, adm, c⟩ else regTry img e l adm c

/-- The records of a POOLS section on a copy of the package. -/
def poolTry (img : Nat) (e : Sect) (c : Chip) : Chip :=
  (List.range e.rcds).foldl (fun (c : Chip) i =>
    let r := imgRcd img e i
    if r.off = 0xCA000300 then c.poolCommit (c.rcdValue r) else c.storeAt r.off (c.rcdValue r)) c

/-- What validation finds: section, record, reason, and the pools' failure (R370). -/
structure Conflict where
  sect : Nat
  rcd : Nat
  reason : Nat
  pool : Option (Nat × Nat × Nat)
  deriving DecidableEq, Repr

/-- Validate the selected sections in directory order, with the ADMIT that their REG_RSV commands meet; `t` is the copy on which their
records are tried. -/
def Chip.stageScan (c : Chip) (img : Nat) : List (Nat × Sect) → List (List Nat) → Chip → Option Conflict × List (List Nat)
  | [], adm, _ => (none, adm)
  | (i, e) :: l, adm, t =>
    if e.typ = stSprocket then
      if tableBad (imgAt img e.off 16384) || tableBad (imgAt img (e.off + 16384) 16384) then (some ⟨i, 0, 4, none⟩, adm)
      else Chip.stageScan c img l adm t
    else
      match c.rcdConflict img e with
      | some (r, why) => (some ⟨i, r, why, none⟩, adm)
      | none =>
        if e.typ = stPools then
          let t := poolTry img e t
          match poolCheck c.tntLive t.poolsActive t.poolsStaged with
          | some f => (some ⟨i, 0, 5, some f⟩, adm)
          | none => Chip.stageScan c img l adm t
        else if e.typ = stRegulator then
          let r := regTry img e (List.range e.rcds) adm t
          match r.bad with
          | some n => (some ⟨i, n, 3, none⟩, adm)
          | none => Chip.stageScan c img l r.adm r.chip
        else Chip.stageScan c img l adm t

/-- Is a section one that the running APPLY selects? -/
def Chip.stageSel (c : Chip) (e : Sect) : Bool := sectReload e.typ && bit c.stage.mask (e.typ - stSprocket)

/-- Schedulers whose slots a section writes (R371). -/
def slotScheds (img : Nat) (e : Sect) : List Nat :=
  (List.range 8).filter (fun n => (List.range e.rcds).any (fun i => inBlk (imgRcd img e i).off (0xC7010000 + 16384 * n) 16384))

/-- ADMIT of every resource takes the values of a list. -/
def Chip.putAdmits (c : Chip) (l : List Nat) : Chip := c.puts ((List.range 24).map (fun r => (Reg.REG_RES.ADMIT r, (l[r]?).getD 0)))

/-- A record of an APPLY is written; REG_RSV commands see ADMIT as validation took it (R371). -/
def Chip.stageWrite (c : Chip) (off v : Nat) : Chip :=
  if off = 0xC8000030 then
    let now := c.admits
    let c := ((c.putAdmits (c.stage.adm.headD now)).engineWrite off v).putAdmits now
    (List.range 24).foldl (fun (c : Chip) r => c.regDegrade r) { c with stage := { c.stage with adm := c.stage.adm.tail } }
  else c.engineWrite off v

/-- Move the engine on within its section, or to the next one. -/
def Chip.stageRcd (c : Chip) (n : Nat) : Chip := { c with stage := { c.stage with rcd := n } }
def Chip.stageNext (c : Chip) : Chip := { c with stage := { c.stage with sect := c.stage.sect + 1, rcd := 0 } }

/-- One step of a running APPLY; false where it waits or has ended (R371). -/
def Chip.stageOne (c : Chip) : Bool × Chip :=
  let img := c.staged
  let i := c.stage.rcd
  match (imgSects img)[c.stage.sect]? with
  | none => (false, (c.stageEnd 1).parkedRetry)
  | some e =>
    if !c.stageSel e then (true, c.stageNext)
    else if e.typ = stSprocket then
      if c.on Reg.HUB_SPRK_STATUS.BUSY then (false, c)
      else if 3 ≤ i then (true, c.stageNext)
      else if c.audFull then (false, c)
      else (true, (c.sprkWrite e i).stageRcd (i + 1))
    else if i < e.rcds then
      let r := imgRcd img e i
      if c.audHolds r.off then (false, c)
      else
        (true, (c.stageWrite r.off (c.rcdValue r)).stageRcd (i + 1))
    else if e.typ = stPools && i = e.rcds then
      (if c.audFull then (false, c) else (true, (c.engineWrite 0xCA000300 1).stageRcd (i + 1)))
    else if e.typ = stHqe then
      let l := slotScheds img e
      match l[i - e.rcds]? with
      | some n => if c.audFull then (false, c) else (true, (c.engineWrite (0xC7000100 + 8 * n) 1).stageRcd (i + 1))
      | none => if l.any (fun n => c.on (Reg.HQE_SCHED.PENDING n)) then (false, c) else (true, c.stageNext)
    else (true, c.stageNext)

/-- The engine goes on until it waits or ends. -/
def Chip.stageRun : Nat → Chip → Chip
  | 0, c => c
  | n + 1, c =>
    match c.stageOne with
    | (true, c) => Chip.stageRun n c
    | (false, c) => c

/-- APPLY: validation, then the records (R370, R371). -/
def Chip.stageApply (c : Chip) : Chip :=
  let img := c.staged
  let l := ((List.range (imgSects img).length).zip (imgSects img)).filter (fun p => c.stageSel p.2)
  match c.stageScan img l [] c with
  | (some f, _) =>
    let c := match f.pool with | some p => c.poolConflict p | none => c
    (c.puts [(Reg.CFG_STAGE_STATUS.SECTION, f.sect), (Reg.CFG_STAGE_STATUS.RECORD, f.rcd), (Reg.CFG_STAGE_STATUS.REASON, f.reason)]).stageEnd 3
  | (none, adm) => Chip.stageRun (imgFuel img) { c with stage := { c.stage with begun := true, adm := adm } }

/-- The engine takes up an APPLY that was just accepted; a LOAD reads its image by itself. -/
def Chip.stageKick (c : Chip) : Chip := if !c.stage.begun && c.stage.op = 2 then c.stageApply else c

/-- A LOAD has read its image, its copy has ended, or an APPLY goes on after a commit (R369, R371). -/
def Chip.stageDone (c : Chip) : Chip :=
  if !c.stage.begun then (if c.stage.op = 1 then c.stageLoad else c)
  else if c.stage.op = 1 then
    (c.puts [(Reg.CFG_STAGE_STATUS.VALID, 1), (Reg.CFG_STAGE_SVN.SVN, imgSvn c.staged)]).stageEnd 1
  else Chip.stageRun (imgFuel c.staged) c

def execStageDone (s : State) : Host.Outcome State Fault Refusal := s.runWhole Chip.stageDone

/-! ### Software writes -/

/-- A write to the CSR space by a master; the engine takes up what it asks for. -/
def Chip.csrWrite (c : Chip) (h : HeldWrite) : DevRes × Chip :=
  match c.csrArrive h with
  | (r, c) => (r, c.stageKick)

/-- AUDIT_SLOT_FREE: a waiting hardware record enters the ring, else the oldest held write takes effect, or waits behind one of its register that waits for something else (R121, R346). -/
def Chip.audSlotFree (c : Chip) : Chip :=
  match c.aud.waiting with
  | _ :: _ => Chip.hwFill 1 c
  | [] =>
    match c.aud.held with
    | [] => c
    | h :: l =>
      if audHold ≤ c.aud.ring.length then c
      else
        let c := { c with aud := { c.aud with held := l } }
        if c.stage.held.any (fun x => x.off == h.off) || c.csrParked h.off || c.selParked h.off h.value then { c with stage := { c.stage with held := c.stage.held ++ [h] } }
        else
          match c.csrPerform h with
          | (r, c) => (c.heldAnswer h r).stageKick

def execAuditSlotFree (s : State) : Host.Outcome State Fault Refusal := s.runWhole Chip.audSlotFree

/-! ### Boot (R357 to R361) -/

def Chip.bootMod (c : Chip) (f : BootSt → BootSt) : Chip := { c with boot := f c.boot }

/-- The ROM stops with a result: every Tandem port goes DOWN, and what step 5 started of the contexts is undone (R360; log 98). -/
def Chip.bootStop (c : Chip) (result : Nat) : Chip :=
  let c := (c.put Reg.CFG_BOOT.RESULT result).bootMod (fun b => { b with step := 0, wait := 0 })
  let c := (List.range 6).foldl (fun (c : Chip) p => if c.tdmState p = tdmDown then c else c.tdmGoDown p 0) c
  (List.range 960).foldl (fun (c : Chip) x => if c.cxState x == cxOff then c else c.ctxResetEv x) c

/-- A slot fails with a reason: the next slot, or NO_IMAGE (R357, R360). -/
def Chip.slotFail (c : Chip) (reason : Nat) : Chip :=
  if c.boot.slot = 0 then (c.put Reg.CFG_BOOT.A_FAIL reason).bootMod (fun _ => ⟨3, 1, 0, 0, 0⟩)
  else (c.put Reg.CFG_BOOT.B_FAIL reason).bootStop 2

/-- A record, call or commit fails: APPLY_FAIL, and the ROM stops (R360). -/
def Chip.bootFail (c : Chip) (rcd : Nat) : Chip :=
  (c.puts [(Reg.CFG_BOOT_FAIL.RECORD, rcd), (Reg.CFG_BOOT_FAIL.SECTION, c.boot.sect)]).bootStop 3

/-- Step 3: the slot is read into the staging area and checked (R356, R357). `bad`: a read failed or the slot's time ran out.
Before slot A the ROM waits for FLASH_OWN_N to rise; slot B reads poison while it is low (R450). -/
def Chip.bootSlot (c : Chip) (bad : Bool) : Chip :=
  let c := c.put Reg.CFG_STAGE_STATUS.VALID 0
  if bad then c.slotFail 8
  else if c.pwr.flashLow then (if c.boot.slot = 0 then c else c.slotFail 8)
  else
    let base := 0x800000 * c.boot.slot
    let h := c.flash.read base 0x240
    let stage := fun (c : Chip) (n v : Nat) => { c with mram := c.mram.write stageBase n v }
    let r := c.headFail h true
    if r != 0 then (stage c 0x240 h).slotFail r
    else
      let img := c.flash.read base (imgSize h)
      let c := stage c (imgSize h) img
      let r := c.bodyFail img (c.otpField 16)
      if r != 0 then c.slotFail r else c.bootMod (fun b => { b with step := 4 })

/-- Is a SEURV_CALL record sound: a code section, zeros, an entry inside it (R355)? -/
def callOk (img : Nat) (e : Sect) : Bool :=
  match (imgSects img)[imgAt img e.off 1]? with
  | some k => k.typ == stCode && imgAt img (e.off + 1) 3 == 0 && decide (imgAt img (e.off + 4) 4 < k.len)
  | none => false

def Chip.bootNext (c : Chip) : Chip := c.bootMod (fun b => { b with sect := b.sect + 1, rcd := 0, wait := 0 })
def Chip.bootRcd (c : Chip) : Chip := c.bootMod (fun b => { b with rcd := b.rcd + 1, wait := 0 })
def Chip.bootWait (c : Chip) (w : Nat) : Chip := c.bootMod (fun b => { b with wait := w })

/-- A cluster is marked absent: CUR reads 0b11 and no change runs (R41). -/
def Chip.ratioAbsent (c : Chip) (d cl : Nat) : Chip :=
  let c := (c.putSub (Reg.HUB_CORE_DIV.CUR d) (2 * cl) 2 3).putBit (Reg.HUB_CORE_DIV.BUSY d) cl false
  { c with clk := { c.clk with ratioTarget := SMap.erase c.clk.ratioTarget (5 * d + cl) } }

/-- CFG_PRESENT takes effect: contexts of absent units are held in reset, absent clusters have no ratio, the links of present dies train, and
an absent die's is OFF (R41, R264, R361). -/
def Chip.presenceApply (c : Chip) : Chip :=
  let all := 2 ^ 63 + 2 ^ 25 - 1
  let c := { c with presence := (List.range 12).foldl (fun (m : SMap Nat) d =>
    SMap.put m all d (c.get (Reg.CFG_PRESENT.CLU d) + c.get (Reg.CFG_PRESENT.CORE d) <<< 5 + c.get (Reg.CFG_PRESENT.DIE d) <<< 63)) [] }
  let c := (List.range 960).foldl (fun (c : Chip) x => if c.cxPresent x then c else c.ctxReset x) c
  let c := (List.range 60).foldl (fun (c : Chip) u => if c.cluPresent (u / 5) (u % 5) then c else c.ratioAbsent (u / 5) (u % 5)) c
  (List.range 12).foldl (fun (c : Chip) d =>
    if !c.diePresent d then (if c.spkState d == spkOff then c else (c.spkClear d (fun s => { s with rejoin := 0 })).spkEnter d spkOff)
    else if c.spkState d == spkOff then c.spkTrain d else c) c

/-- One step of applying the image; false where the ROM waits or has ended (R354, R355, R357 step 5). -/
def Chip.bootOne (c : Chip) : Bool × Chip :=
  let img := c.staged
  let b := c.boot
  match (imgSects img)[b.sect]? with
  | none => (false, c.presenceApply.bootMod (fun b => { b with step := 6 }))
  | some e =>
    if e.typ = stCode then (true, c.bootNext)
    else if e.typ = stCall then (if callOk img e then (false, c.bootWait 2) else (false, c.bootFail 0))
    else if e.typ = stSprocket then
      if c.on Reg.HUB_SPRK_STATUS.BUSY then (false, c.bootWait 3)
      else if 3 ≤ b.rcd then (if c.get Reg.HUB_SPRK_STATUS.RESULT = 1 then (true, c.bootNext) else (false, c.bootFail 0))
      else if c.audFull then (false, c)
      else (true, (c.sprkWrite e b.rcd).bootRcd)
    else if e.rcds ≤ b.rcd then (true, c.bootNext)
    else
      let r := imgRcd img e b.rcd
      if !sectNames e.typ r.off || 2 ≤ r.op then (false, c.bootFail b.rcd)
      else if r.op = 0 then (if c.audHolds r.off then (false, c) else (true, (c.engineWrite r.off (c.rcdValue r)).bootRcd))
      else
        match c.csrRead c.seurv r.off 8 none with
        | (.ok v, c) => if v &&& r.mask = r.value then (true, c.bootRcd) else (false, c.bootWait 1)
        | (_, c) => (false, c.bootWait 1)

def Chip.bootRun : Nat → Chip → Chip
  | 0, c => c
  | n + 1, c =>
    match c.bootOne with
    | (true, c) => Chip.bootRun n c
    | (false, c) => c

/-- Step 6: CFG_CTRL.LOCK, DONE, and tenant 0 is ACTIVE (R357; spec/11, Registers). -/
def Chip.bootFinish (c : Chip) : Chip :=
  if c.audFull then c
  else
    ((c.engineWrite 0xCA000008 1).puts [(Reg.CFG_BOOT.DONE, 1), (Reg.CFG_BOOT.RESULT, 1), (Reg.TNT_ENT.STATE 0, tnActive)]).bootMod
      (fun _ => ⟨0, 0, 0, 0, 0⟩)

/-- BOOT_STEP_READY: the running step's condition is met (R357). `bad`: the slot could not be read, or its copy does not match. -/
def Chip.bootReady (c : Chip) (bad : Bool) : Chip :=
  match c.boot.step with
  | 1 =>
    if c.on Reg.HUB_CLK_STATUS.ROOT_LOCK then (c.put Reg.SB_STATUS.AWAKE 1).bootMod (fun b => { b with step := 2 }) else c
  | 2 =>
    (c.puts [(Reg.CFG_BOOT.SLOT, 3), (Reg.CFG_BOOT.KEY, 0), (Reg.CFG_BOOT.DONE, 0), (Reg.CFG_BOOT.RESULT, 0), (Reg.CFG_BOOT.A_FAIL, 0),
      (Reg.CFG_BOOT.B_FAIL, 0), (Reg.CFG_BOOT.SVN, 0)]).bootMod (fun _ => ⟨3, 0, 0, 0, 0⟩)
  | 3 => c.bootSlot bad
  | 4 =>
    if bad then c.slotFail 8
    else
      let img := c.staged
      Chip.bootRun (imgFuel img) ((c.puts [(Reg.CFG_STAGE_STATUS.VALID, 1), (Reg.CFG_STAGE_SVN.SVN, imgSvn img),
        (Reg.CFG_BOOT.SLOT, c.boot.slot), (Reg.CFG_BOOT.KEY, imgKey img), (Reg.CFG_BOOT.SVN, imgSvn img)]).bootMod
          (fun b => ⟨5, b.slot, 0, 0, 0⟩))
  | 5 => if c.boot.wait = 2 then c else Chip.bootRun (imgFuel c.staged) c
  | 6 => c.bootFinish
  | _ => c

def execBootStepReady (bad : Bool) (s : State) : Host.Outcome State Fault Refusal := s.runWhole (fun c => c.bootReady bad)

/-- A WAIT record's TIMEOUT expires (R354, R360). -/
def execRecordWaitTimeout (s : State) : Host.Outcome State Fault Refusal :=
  s.run (fun c => if c.boot.step = 5 && c.boot.wait = 1 then c.bootFail c.boot.rcd else c)

/-- The called code returns (R355). -/
def Chip.callReturn (c : Chip) (status : Nat) : Chip :=
  if c.boot.step != 5 || c.boot.wait != 2 then c
  else if status != 0 then c.bootFail 0
  else Chip.bootRun (imgFuel c.staged) c.bootNext

def execSeurvCallReturn (status : BitVec 32) (s : State) : Host.Outcome State Fault Refusal := s.runWhole (fun c => c.callReturn status.toNat)

/-- The called code has not returned in time (R355, R360). -/
def execSeurvCallTimeout (s : State) : Host.Outcome State Fault Refusal :=
  s.run (fun c => if c.boot.step = 5 && c.boot.wait = 2 then c.bootFail 0 else c)

end Sys2Proof.Machine
end

