-- ==== Sys2Proof/Machine/Hub.lean ====
section
/-! DEFINITION. Machine/Hub.lean: requests that reach the hub (R25): device accesses of every kind, requests of dies and of other
packages, and inbound PCIe requests with their ordering (R383, R385 to R391). -/
namespace Sys2Proof.Machine

/-! ### Device accesses (R24 to R26, R32, R323) -/

/-- An access to this package's hub-local window, through checker 25. -/
def Chip.localAccess (c : Chip) (w : Who) (off pa : Nat) (write : Bool) (size v : Nat) (d : OutFor) : DevRes × Chip :=
  let c := c.nrgEv domHubc 12 (c.keyOf w.agent w.tenant) 1
  let r := c.rgnCheck 25 pa w (if write then rightW else rightR)
  if !r.ok then (.viol, c.devRegion w (some d) 25 r.region pa write)
  else if write then
    if 0x400000 ≤ off then (.bus, c) else (.ok 0, { c with mram := c.mram.write off size v })
  else
    match c.localRead off size with
    | (v, bad, c) => (if bad then .poison else .ok v, c)

/-- A device access performed by this package's hub, which is its home. A write that needs no answer names `OutFor.posted`. -/
def Chip.devAccess (c : Chip) (w : Who) (pa : Nat) (write : Bool) (size v : Nat) (d : OutFor) : DevRes × Chip :=
  if c.decodeMiss pa then (if write then .bus else .poison, c.decErr w pa write)
  else
    match regionOf pa with
    | .csr _ off => if write then c.csrWrite ⟨w, off, v, size, some d⟩ else c.csrRead w off size (some d)
    | .bell _ off =>
      if !write then (.ok 0, c)
      else
        match c.doorbellTo w (off / 64) (off % 64) size v with
        | (some i, c) => (.viol, c.devViolates w (some d) i)
        | (none, c) => (.ok 0, c)
    | .mmio _ off => c.mmio off write size v d
    | .local_ _ off => c.localAccess w off pa write size v d
    | .dram _ _ | .cxl _ _ | .reserved => (.bus, c)

/-- How a far device access of a unit of the hub ends. -/
def farRes (off size : Nat) (write : Bool) (r : HubRes × LD) : DevRes :=
  match r.1 with
  | .ok => if r.2.poison then (if write then .bus else .poison) else .ok (if write then 0 else lineGet r.2.data off size)
  | .bus => if write then .bus else .poison
  | .region _ _ | .away => .viol

/-- An access to the MMIO window of another package, which its home performs (R25): a context's leaves as its request; a unit of the hub
takes the answer (log 14). One for a fenced package completes with poison (R197). -/
def Chip.farMmio (c : Chip) (w : Who) (pa : Nat) (write : Bool) (size v : Nat) (d : OutFor) : Chip :=
  if c.fencedPkg (((regionOf pa).pkg).getD c.pkg) then c.outAnswer d size .poison
  else if agDie w.agent < 12 then
    c.sendAway { farMsg (pa / 64) w with
      typ := if write then tWrNc else tRdNc, tag := 0xFFF, dstPkg := ((regionOf pa).pkg).getD c.pkg, mask := some (BitVec.ofNat 64 (byteMask (pa % 64) size))
      data := if write then some (linePut 0#512 (pa % 64) size v) else none }
  else
    c.whole (fun c => match c.farDev w pa write size v with
      | (some r, c) => c.outAnswer d size (farRes (pa % 64) size write r)
      | (none, c) => c)

/-- MMIO_ACCESS: an agent of this package reaches an MMIO window (R25, R377); an access elsewhere is no such event. -/
def execMmioAccess (w : Who) (addr : BitVec 49) (write : Bool) (size : Fin 4) (data : Word) (s : State) :
    Host.Outcome State Fault Refusal :=
  s.run (fun c =>
    match regionOf addr.toNat with
    | .mmio p _ =>
      let d := OutFor.agent w.agent addr.toNat
      if c.decodeMiss addr.toNat then (c.decErr w addr.toNat write).outAnswer d (2 ^ size.val) (if write then .bus else .poison)
      else if p != c.pkg then c.farMmio w addr.toNat write (2 ^ size.val) (data.toNat % 2 ^ (8 * 2 ^ size.val)) d
      else
        c.whole (fun c => match c.devAccess w addr.toNat write (2 ^ size.val) (data.toNat % 2 ^ (8 * 2 ^ size.val)) d with
          | (r, c) => c.outAnswer d (2 ^ size.val) r)
    | _ => c)

/-! ### Requests at the hub -/

/-- The register of this package that a request reads or writes. -/
def Chip.csrOf (c : Chip) (m : Msg) : Option Nat :=
  match regionOf (64 * m.line + m.maskOff) with
  | .csr p off => if p = c.pkg && m.cls == clsReq && m.typ < tMClean then some off else none
  | _ => none

/-- Does a request wait for an earlier write of its register: a read behind a write that is held, or a write behind such a read (R121)? -/
def Chip.csrWaitsTurn (c : Chip) (m : Msg) : Bool :=
  match c.csrOf m with
  | some off => c.csrHeld off && (m.typ == tRdNc || c.coh.hubIn.any (fun x => x.typ == tRdNc && c.csrOf x == some off))
  | none => false

/-- May the hub take a message now? A die that is not admitted waits (R196, R266), and so does a register access whose turn has not come. -/
def Chip.hubTakes (c : Chip) (m : Msg) : Bool :=
  (m.cls == clsReq || m.cls == clsWbk) && !c.csrWaitsTurn m &&
    (agPkg m.agent != c.pkg || decide (12 ≤ agDie m.agent) || c.fencedDie c.pkg (agDie m.agent) || c.dieAdmitted (agDie m.agent))

/-- The home package of a request's line (R25). -/
def Chip.reqHome (c : Chip) (line : Nat) : Nat := ((regionOf (64 * line)).pkg).getD c.pkg

/-- A request or writeback at the hub: decoded, forwarded to its home, or performed here (R25, R26, R197). -/
def Chip.hubServe (c : Chip) (m : Msg) : Chip :=
  let home := c.reqHome m.line
  if c.fromFenced m then c.fencedDrop m
  else if m.cls = clsWbk then
    if home = c.pkg then { c with coh := { c.coh with homeQ := c.coh.homeQ ++ [m] } } else c.sendAway { m with dstPkg := home, dstDie := 12 }
  else
    let write := needOf m.typ &&& rightW != 0
    let pa := 64 * m.line + (if isNormal (64 * m.line) then 0 else m.maskOff)
    if m.typ < tMClean && c.decodeMiss pa then (c.decErr m.who pa write).devReply m .bus
    else if home != c.pkg then
      if c.fencedPkg home then c.devReply m .poison else c.sendAway { m with dstPkg := home, dstDie := 12 }
    else if isNormal (64 * m.line) then c.homeAccept m
    else
      match c.devAccess m.who pa write m.maskLen (lineGet (m.data.getD 0#512) m.maskOff m.maskLen) (.dev m) with
      | (r, c) => c.devReply m r

/-! ### Inbound requests: function, windows, BAR0 -/

/-- Counts of a TLP that arrives (R423, R431). -/
def Chip.tlpGot (c : Chip) (port units : Nat) (agent tenant : Nat) (secure : Bool) : Chip :=
  let k := evOf tenant secure
  let c := c.evHub (ugPci port) 0xB0 1 k
  if units = 0 then c else (c.evHub (ugPci port) 0xB2 units k).nrgEv domIo 18 (c.keyOf agent tenant) units

/-- A request is refused: UR if it is non-posted, discarded if posted; counted (R376, R379 to R381, R385). -/
def Chip.inRefuse (c : Chip) (port link : Nat) (t : TlpIn) (tenant : Nat) (secure : Bool) : Chip :=
  let c := c.count (Reg.PCI_ERR_CNT1.UR port) 1
  if t.write then c else c.complete port link t.rid t.tag t.len 1 0 false tenant secure

/-- Does window w of the active bank take an access of function n (R385)? -/
def Chip.winHits (c : Chip) (port n addr : Nat) (write : Bool) (w : Nat) : Bool :=
  let b := c.get (Reg.PCI_WIN_SEL.SEL port)
  let m := c.get (Reg.PCI_IWIN.MATCH port b w) * 4096
  c.on (Reg.PCI_IWIN.EN port b w) && decide (m ≤ addr) && decide (addr < m + 2 ^ c.get (Reg.PCI_IWIN.SIZE_LOG2 port b w))
    && (c.on (Reg.PCI_IWIN.FANY port b w) || c.get (Reg.PCI_IWIN.FUNC port b w) == n)
    && c.on (if write then Reg.PCI_IWIN.WR port b w else Reg.PCI_IWIN.RD port b w)

/-- The physical address of a decode address: the lowest window that takes it. -/
def Chip.winDecode (c : Chip) (port n addr : Nat) (write : Bool) : Option Nat :=
  let b := c.get (Reg.PCI_WIN_SEL.SEL port)
  ((List.range 16).find? (c.winHits port n addr write)).map (fun w =>
    (c.get (Reg.PCI_IWIN.TARGET port b w) * 4096 + (addr - c.get (Reg.PCI_IWIN.MATCH port b w) * 4096)) % 2 ^ 52)

/-- Is an address in the interrupt window (R388)? -/
def Chip.inMsiWin (c : Chip) (port addr : Nat) : Bool :=
  let b := c.get (Reg.PCI_MSI.BASE port) * 65536
  decide (b ≤ addr) && decide (addr < b + 65536)

/-- One entry of the Capability ROM: TYPE, BAR 2, window, RD and WR; offset; size; first queue ID (R391). -/
def Chip.capEntry (c : Chip) (port w : Nat) : Nat :=
  let b := c.get (Reg.PCI_WIN_SEL.SEL port)
  let r := regionOf (c.get (Reg.PCI_IWIN.TARGET port b w) * 4096)
  let typ := match r with
    | .bell _ _ => 2
    | .mmio _ _ => 3
    | _ => 1
  let q := match r with
    | .bell _ off => off / 64 % 2 ^ 20
    | _ => 0
  let flags := c.get (Reg.PCI_IWIN.RD port b w) + 2 * c.get (Reg.PCI_IWIN.WR port b w)
  packWords [typ + 2 <<< 8 + w <<< 16 + flags <<< 20, c.get (Reg.PCI_IWIN.MATCH port b w) * 4096,
    2 ^ c.get (Reg.PCI_IWIN.SIZE_LOG2 port b w), q]

/-- The Capability ROM of function n. -/
def Chip.capRom (c : Chip) (port n : Nat) : Nat :=
  let b := c.get (Reg.PCI_WIN_SEL.SEL port)
  let ws := (List.range 16).filter (fun w =>
    c.on (Reg.PCI_IWIN.EN port b w) && (c.on (Reg.PCI_IWIN.FANY port b w) || c.get (Reg.PCI_IWIN.FUNC port b w) == n))
  let head := 1 + ws.length <<< 16 + c.get (Reg.PCI_WIN_SEL.EPOCH port) <<< 32 + n <<< 48 + 64 <<< 64
  (ws.zipIdx).foldl (fun v p => v + c.capEntry port p.1 <<< (8 * (0x40 + 32 * p.2))) head

/-- The MSI-X table and pending bits of function n (R389): 16-byte entries of address, data and mask bit. -/
def MsixEnt.word (e : MsixEnt) : Nat := e.addr + e.data <<< 64 + b2n e.mask <<< 96
def Chip.msixTable (c : Chip) (port n : Nat) : Nat :=
  (List.range 64).foldl (fun v k => v + (SMap.getD c.fns.msix (msixKey port n k) MsixEnt.init).word <<< (128 * k)) 0
def Chip.msixPba (c : Chip) (port n : Nat) : Nat :=
  (List.range 64).foldl (fun v k => v + b2n (c.fns.pba.contains (msixKey port n k)) <<< k) 0

/-- BAR0 of function n, as one number (R390). -/
def Chip.bar0 (c : Chip) (port n : Nat) : Nat :=
  c.capRom port n + c.msixTable port n <<< (8 * 0x2000) + c.msixPba port n <<< (8 * 0x3000)

/-- A write to the MSI-X table: each entry it touches changes. -/
def Chip.msixWrite (c : Chip) (port n off len data : Nat) : Chip :=
  let t := setBits (c.msixTable port n) (8 * off) (8 * len) data
  ((List.range 64).filter (fun k => decide (off < 16 * (k + 1)) && decide (16 * k < off + len))).foldl (fun c k =>
    let e := bits t (128 * k) 128
    c.msixSet port n k ⟨bits e 0 64, bits e 64 32, bit e 96⟩) c

/-- A request to BAR0, or to the function's configuration space, of which only the MSI-X function mask acts (R389; log 41). -/
def Chip.barAccess (c : Chip) (r : InReq) : Chip :=
  let t := r.t
  let say := fun (c : Chip) (v : Nat) => c.complete r.port r.link t.rid t.tag t.len 0 v false r.tenant r.secure
  if t.bar = 0 then
    if !t.write then say c (bits (c.bar0 r.port r.n) (8 * t.addr) (8 * t.len))
    else
      let lo := max t.addr 0x2000
      let hi := min (t.addr + t.len) 0x2400
      if lo < hi then c.msixWrite r.port r.n (lo - 0x2000) (hi - lo) (t.data >>> (8 * (lo - t.addr)) % 2 ^ (8 * (hi - lo))) else c
  else
    let o := Config.msixCap + 3
    if !t.write then say c.fresh.2 (c.fresh.1 % 2 ^ (8 * t.len))
    else if t.addr ≤ o && o < t.addr + t.len then c.fnMask r.port r.n (bit t.data (8 * (o - t.addr) + 6))
    else c

/-! ### Inbound requests: performing -/

/-- An interrupt message of a function (R388). Whether a context of another package has the function's tenant is a free value
(log 1). -/
def Chip.msiWrite (c : Chip) (r : InReq) : Chip :=
  let a := bits r.t.data 0 16
  let x := ctxOfAgent a
  let far := isCtxAgent a && agPkg a != c.pkg
  let ok := r.t.len == 4 &&
    (r.tenant == 0 || (if far then c.fresh.1 % 2 == 1 else isCtxAgent a && c.cxPresent x && c.cxTenant x == r.tenant))
  let c := if far && r.t.len == 4 && r.tenant != 0 then c.fresh.2 else c
  if ok then c.sendIrq a (bits r.t.data 16 6) else c.count (Reg.PCI_ERR_CNT2.IRQ_DROP r.port) 1

/-- A function's request ends: nothing for a write; a completion for a read. -/
def Chip.inEnd (c : Chip) (r : InReq) (res : DevRes) : Chip :=
  let t := r.t
  let say := fun (st v : Nat) (bad : Bool) => c.complete r.port r.link t.rid t.tag t.len st v bad r.tenant r.secure
  match res with
  | .later => c
  | .viol => c.inRefuse r.port r.link t r.tenant r.secure
  | .ok v => if t.write then c else say 0 v false
  | .poison | .bus => if t.write then c else say 0 0 true

/-- The parts of an access in the lines it meets: address and length. -/
def linePieces (pa len : Nat) : List (Nat × Nat) :=
  (List.range (units64 (len + pa % 64))).map (fun i =>
    let a := max pa (64 * (pa / 64 + i))
    (a, min (pa + len) (64 * (pa / 64 + i + 1)) - a))

/-- How a read in parts ends: later while a part lacks, the first failure, or the bytes of all. -/
def joinReads (pa : Nat) (l : List (Nat × DevRes)) : DevRes :=
  if l.any (fun p => p.2 == .later) then .later
  else l.foldl (fun acc p => match acc, p.2 with
    | .ok v, .ok x => .ok (v + x <<< (8 * (p.1 - pa)))
    | .ok _, r => r
    | r, _ => r) (.ok 0)

/-- A function's access outside memory of this package: device targets here, or any in another package (R25, R385; log 14). -/
def Chip.inDevice (c : Chip) (r : InReq) (w : Who) (pa : Nat) : DevRes × Chip :=
  let t := r.t
  let home := ((regionOf pa).pkg).getD c.pkg
  if home = c.pkg || c.decodeMiss pa then
    c.devAccess w pa t.write t.len t.data (if t.write then .posted w.agent w.tenant w.secure else .peer r.port r.link t.rid t.tag r.tenant r.secure r.epoch)
  else if c.fencedPkg home then (.bus, c)
  else
    if !t.write then
      let r := (linePieces pa t.len).foldl (fun (s : List (Nat × DevRes) × Chip) p =>
        match s.2.farDev w p.1 false p.2 0 with
        | (some r, c) => (s.1 ++ [(p.1, farRes (p.1 % 64) p.2 false r)], c)
        | (none, c) => (s.1 ++ [(p.1, .later)], c)) ([], c)
      (joinReads pa r.1, r.2)
    else
      (.ok 0, (linePieces pa t.len).foldl (fun c p =>
        c.farSend { Sys2Proof.Machine.devMsg w p.1 home true p.2 (t.data >>> (8 * (p.1 - pa)) % 2 ^ (8 * p.2)) with poison := t.poison } .plain) c)

/-- The next line of a function's access to memory, checked and performed at its home (R25, R323): how it ends, and the access with it
done. -/
def Chip.inLine (c : Chip) (r : InReq) (w : Who) (pa : Nat) : DevRes × InReq × Chip :=
  let t := r.t
  let a := pa + r.done
  let n := min (t.len - r.done) (64 - a % 64)
  let r' := { r with done := r.done + n }
  if t.write then
    match c.hubWriteLine true (a / 64) (linePut 0#512 (a % 64) n (t.data >>> (8 * r.done) % 2 ^ (8 * n))) (byteMask (a % 64) n) t.poison w with
    | (.ok, c) => (.ok 0, r', c)
    | (.bus, c) => (.bus, r', c)
    | (.away, c) => (.viol, r', c)
    | (.region k i, c) => (.viol, r', c.fnRefused w k i a true)
  else
    match c.hubRead true (a / 64) w with
    | (.ok, ld, c) => (.ok 0, { r' with acc := r.acc + lineGet ld.data (a % 64) n <<< (8 * r.done), bad := r.bad || ld.poison }, c)
    | (.bus, _, c) => (.bus, r', c)
    | (.away, _, c) => (.viol, r', c)
    | (.region k i, _, c) => (.viol, r', c.fnRefused w k i a false)

/-- How an access to memory goes on after a line: what is left of it; or its end. A write goes on past a line that is a bus error. -/
def Chip.inNextLine (c : Chip) (r : InReq) (res : DevRes) : Option InReq × Chip :=
  match res with
  | .ok _ => if r.done < r.t.len then (some r, c) else (none, c.inEnd r (if r.bad then .poison else .ok r.acc))
  | .bus => if r.t.write && decide (r.done < r.t.len) then (some r, c) else (none, c.inEnd r .bus)
  | .poison | .viol | .later => (none, c.inEnd r res)

/-- A request whose turn has come is performed, an access to memory by one line, if its function still runs (R284, R380, R381, R385): what
is left of it. The port checks its binding and charges what it moves (R307, R308). -/
def Chip.inPerform (c : Chip) (r : InReq) : Option InReq × Chip :=
  match c.fnGet r.port r.n with
  | (none, c) => (none, c.inRefuse r.port r.link r.t r.tenant r.secure)
  | (some e, c) =>
    if feState e != fnRun || c.tntState r.tenant == tnResetting then (none, c.inRefuse r.port r.link r.t r.tenant r.secure)
    else
      let w := { c.fnWho r.port (c.fnRid r.port r.n) e with tenant := r.tenant, secure := r.secure }
      if c.regMisuse r.rent r.tenant false then
        (none, (c.regMisused w r.rent (match r.pa with | some pa => pa + r.done | none => r.t.addr % 2 ^ 52) (hubAgent c.pkg 4 r.port) r.t.write).inRefuse
          r.port r.link r.t r.tenant r.secure)
      else
        match r.pa with
        | none => (none, if c.on (Reg.PCI_CFG.PERS r.port) then c.barAccess r else c.msiWrite r)
        | some pa =>
          if isNormal pa then
            match (c.hubCharge r.rent 1).inLine r w pa with
            | (res, r, c) => c.inNextLine r res
          else
            match (c.hubCharge r.rent (units64 (r.t.len + pa % 64))).inDevice r w pa with
            | (res, c) => (none, c.inEnd r res)

/-! ### Inbound requests: order (R383, R387) -/

/-- Does the regulator hold a request? -/
def Chip.inHeld (c : Chip) (r : InReq) : Bool := r.pa.isSome && c.regHolds r.rent (c.get (Reg.REG_ENT.USED r.rent))

/-- Is an item a write of a link, and of a function of it? -/
def InItem.writeOn (port link : Nat) (n : Option Nat) : InItem → Bool
  | .req r => r.t.write && r.port == port && r.link == link && (match n with | some n => r.n == n | none => true)
  | .cpl _ _ _ _ _ => false

/-- Is a write of a port, or of one function of it, performed and not yet visible to all agents? -/
def Chip.inWrOut (c : Chip) (port : Nat) (master : Option Nat) : Bool :=
  c.wrOut (fun m => m.agent == hubAgent c.pkg 4 port && (match master with | some k => m.master == k | none => true))

/-- May an item go, with these before it? -/
def Chip.inReady (c : Chip) (before : List InItem) (x : InItem) : Bool :=
  match x with
  | .cpl port link _ _ _ => !before.any (InItem.writeOn port link none) && !c.inWrOut port none
  | .req r =>
    !c.inHeld r &&
      (if r.t.write then r.pa.isSome || (!before.any (InItem.writeOn r.port r.link none) && !c.inWrOut r.port none)
       else !before.any (InItem.writeOn r.port r.link (some r.n)) && !c.inWrOut r.port (some (r.port <<< 16 + c.fnRid r.port r.n)))

/-- The position of the first item that may go. -/
def Chip.inNext (c : Chip) : List InItem → List InItem → Option Nat
  | _, [] => none
  | before, x :: l => if c.inReady before x then some before.length else c.inNext (before ++ [x]) l

/-- Items go while any may; `n` bounds their lines. A line may go only below its entry's limit (R309). -/
def Chip.inGo : Nat → Chip → Chip
  | 0, c => c
  | n + 1, c =>
    match c.inNext [] c.fns.inq with
    | none => c
    | some i =>
      let x := c.fns.inq[i]?
      let c := c.fnsMod (fun f => { f with inq := f.inq.eraseIdx i })
      Chip.inGo n (match x with
        | some (.req r) =>
          match c.inPerform r with
          | (some r, c) => c.fnsMod (fun f => { f with inq := f.inq.take i ++ [.req r] ++ f.inq.drop i })
          | (none, c) => c
        | some (.cpl port link tag status data) => c.completionIn port link tag status data
        | none => c)

/-- Lines that an item still moves, and one. -/
def InItem.lines : InItem → Nat
  | .req r => units64 r.t.len + 2
  | .cpl _ _ _ _ _ => 1

/-- Does nothing wait at the ports? -/
def Chip.inIdle (c : Chip) : Bool :=
  c.fns.inq.isEmpty && c.fns.fcmd.isEmpty && !c.selWaits
    && (List.range 8).all (fun port => c.get (Reg.PCI_WIN_SEL.OLD_BUSY port) == 0)

/-- What waits at the ports goes on as far as it may; held entries count their window, a DISABLE that waits ends, and OLD_BUSY
follows. -/
def Chip.inPump (c : Chip) : Chip :=
  if c.inIdle then c
  else
  let c := Chip.inGo ((c.fns.inq.map InItem.lines).sum) c
  let c := c.fns.inq.foldl (fun c x => match x with
    | .req r => if c.inHeld r then c.hubHeld r.rent else c
    | .cpl _ _ _ _ _ => c) c
  let c := (List.range 8).foldl (fun c port => if c.on (Reg.PCI_CFG.EN port) then (c.fcmdSettle port).winSync port else c) c
  if c.stage.held.any (fun h => isWinSel h.off && !c.selParked h.off h.value) then c.parkedRetry else c

/-- The hub takes its first request or writeback. -/
def Chip.hubRequest (c : Chip) : Chip :=
  match c.takeHub c.hubTakes with
  | none => c.inPump
  | some (m, c) => (c.hubServe m).inPump

def execHubRequest (s : State) : Host.Outcome State Fault Refusal := s.runWhole Chip.hubRequest

/-! ### Inbound requests: arrival -/

/-- A request of a running function: errors of its own (R376, R381), translated requests (R384), the interrupt window (R388), the
windows (R385) or a BAR (R390). -/
def Chip.inRun (c : Chip) (port link : Nat) (t : TlpIn) (n : Nat) (e : List Nat) : Chip :=
  let w := c.fnWho port (c.fnRid port n) e
  let ep := c.on (Reg.PCI_CFG.PERS port)
  let refuse := fun (c : Chip) => c.inRefuse port link t w.tenant w.secure
  let me := hubAgent c.pkg 4 port
  let bad := t.err == 1 || t.err == 2 || t.poison || (t.translated && !bit (qw e 1) 0)
  let c := if bad then c.aerSet port link n (if t.err = 1 then aerMalformed else if t.err = 2 then aerAcs else if t.poison then aerPoisoned else aerAcs) else c
  if bad && c.on (Reg.PCI_CFG.ERR_FREEZE port) then refuse (c.violate w (whoInfo w fzIo t.write 0 (t.addr % 2 ^ 52) me))
  else if t.err = 1 || t.err = 2 || (t.translated && (ep || !bit (qw e 1) 0)) then refuse c
  else
    let rent := feRent e
    let queue := fun (pa : Option Nat) =>
      (({ c with rg := { c.rg with fent := SMap.set c.rg.fent w.master rent } } : Chip).fnsMod (fun f => { f with
        inq := f.inq ++ [InItem.req ⟨port, link, t, n, w.tenant, w.secure, rent, c.get (Reg.PCI_WIN_SEL.EPOCH port), pa, 0, 0, false⟩] })).inPump
    let dec := if t.translated then some (t.addr % 2 ^ 52) else c.winDecode port n t.addr t.write
    if (ep && t.bar != 2) || (!ep && !t.translated && t.write && c.inMsiWin port t.addr) then queue none
    else
      match dec with
      | none => refuse c
      | some pa => queue (some pa)

/-- ACS Source Validation: under root personality a requester's bus is in its link's range (R376; log 97). -/
def Chip.acsSource (c : Chip) (port link rid : Nat) : Bool :=
  c.on (Reg.PCI_CFG.PERS port) || (decide (Config.secBus (4 * port + link) ≤ rid / 256) && decide (rid / 256 ≤ Config.subBus (4 * port + link)))

/-- What the port finds wrong with a request: a write above the largest payload is malformed, and a requester of another link violates ACS
(R376; log 97). -/
def Chip.tlpCheck (c : Chip) (port link : Nat) (t : TlpIn) : TlpIn :=
  if t.err != 0 then t
  else if t.write && decide (maxPayload < t.len) then { t with err := 1 }
  else if !c.acsSource port link t.rid then { t with err := 2 }
  else t

/-- A request arrives on a link that is up (R376, R379, R380). -/
def Chip.inbound (c : Chip) (port link : Nat) (t : TlpIn) : Chip :=
  if !c.linkUp port link || t.len = 0 || 4096 < t.len then c
  else
    let t := c.tlpCheck port link t
    let lone := fun (c : Chip) => (c.tlpGot port (if t.write then units64 t.len else 0) (hubAgent c.pkg 4 port) 0 false).inRefuse port link t 0 false
    let n := if c.on (Reg.PCI_CFG.PERS port) then (if t.fn ≤ 4096 then some t.fn else none) else c.fnIndex port t.rid
    match n with
    | none => lone c
    | some n =>
      match c.fnGet port n with
      | (none, c) => lone c
      | (some e, c) =>
        let c := c.tlpGot port (if t.write then units64 t.len else 0) (hubAgent c.pkg 4 port) (feTenant e) (feWorld e)
        if t.err = 3 || feState e != fnRun then c.inRefuse port link t (feTenant e) (feWorld e) else c.inRun port link t n e

def execInboundRequest (port : Fin 8) (l : Fin 4) (t : TlpIn) (s : State) : Host.Outcome State Fault Refusal :=
  s.runWhole (fun c => c.inbound port.val l.val t)

/-- PCIE_COMPLETION: a completion waits for the inbound writes before it on its link (R387). -/
def execPcieCompletion (port : Fin 8) (l : Fin 4) (tag : BitVec 14) (status : Fin 5) (data : Nat) (s : State) :
    Host.Outcome State Fault Refusal :=
  s.runWhole (fun c =>
    let r := (c.outOn port.val l.val).find? (fun r => r.tlp.tag == tag.toNat)
    let w := match r with | some r => c.outWho r.dest | none => (hubAgent c.pkg 4 port.val, 0, false)
    let n := match r with | some r => (if status.val = 0 && (r.tlp.kind = 0 || r.tlp.kind = 2 || r.tlp.kind = 3) then units64 r.tlp.size else 0) | none => 0
    let c := c.tlpGot port.val n w.1 w.2.1 w.2.2
    (c.fnsMod (fun f => { f with inq := f.inq ++ [.cpl port.val l.val tag.toNat status.val data] })).inPump)

/-- WINDOW_BOUNDARY: the counters of an entry restart (R309), and what it held of queues and functions goes on. -/
def execWindowBoundary (m : BitVec 12) (s : State) : Host.Outcome State Fault Refusal :=
  s.runWhole (fun c => ((c.windowBoundary m.toNat).qResume m.toNat).inPump)

end Sys2Proof.Machine
end

