-- ==== Sys2Proof/Machine/Board.lean ====
section
/-! DEFINITION. Machine/Board.lean: the board's side: the sideband target (R397 to R400, R451), the flash lands (R450), PERST_N
(R436), and the test access port with its debug accesses (R334, R454 to R457). -/
namespace Sys2Proof.Machine

/-! ### Sideband -/

/-- A header with the wake address sets WAKE_SEEN and asks for a wake, in every package state (R398). -/
def Chip.sbWake (c : Chip) (addr : Nat) : Chip :=
  if c.pwr.aonOk && c.on Reg.SB_CTRL.WAKE_EN && addr == c.get Reg.SB_CTRL.WAKE_ADDR then (c.put Reg.SB_STATUS.WAKE_SEEN 1).wakeSource 0 else c

def execSbWakeMatch (addr : BitVec 7) (s : State) : Host.Outcome State Fault Refusal := s.runAlways (fun c => c.sbWake addr.toNat)

/-- Is a transfer to an address the target's: ADDR, or its dynamic address on an I3C bus (R397)? -/
def Chip.sbMine (c : Chip) (addr : Nat) : Bool :=
  if c.on Reg.SB_CTRL.I3C && c.on Reg.SB_STATUS.DYN_VALID then addr == c.get Reg.SB_STATUS.DYN_ADDR else addr == c.get Reg.SB_CTRL.ADDR

/-- What sideband accesses carry (R399). -/
def Chip.sbWho (c : Chip) : Who := ⟨hubAgent c.pkg 7 1, 0, c.on Reg.SB_CTRL.WORLD, 3, 0⟩

/-- Is a write of the sideband target held (R346, R364, R371)? -/
def Chip.sbBusy (c : Chip) : Bool := (c.aud.held ++ c.stage.held).any (fun h => h.dest == some .sideband)

/-- A command: served while AWAKE is 1 and no access of the target is held; ignored and counted if its PEC fails (R399). What a write
lets go goes after its answer. -/
def Chip.sbCommand (c : Chip) (addr : Nat) (pecOk write : Bool) (f : Chip → DevRes × Chip) : Chip :=
  if c.halted || !c.sbMine addr || !c.on Reg.SB_STATUS.AWAKE || c.sbBusy then c
  else if c.on Reg.SB_CTRL.PEC && !pecOk then c.count Reg.SB_CNT.ERRORS 1
  else
    match f { c with sb := { c.sb with due := true } } with
    | (r, c) =>
      let c := (c.count Reg.SB_CNT.ACCESSES 1).sbAnswer r
      if write then c.inPump else c

def execSbReadCommand (addr : BitVec 7) (off : BitVec 32) (pecOk : Bool) (s : State) : Host.Outcome State Fault Refusal :=
  s.runAlways (fun c => c.sbCommand addr.toNat pecOk false (fun c => c.csrRead c.sbWho off.toNat 8 (some .sideband)))

def execSbWriteCommand (addr : BitVec 7) (off : BitVec 32) (data : Word) (pecOk : Bool) (s : State) :
    Host.Outcome State Fault Refusal :=
  s.runAlways (fun c => c.whole (fun c =>
    c.sbCommand addr.toNat pecOk true (fun c => c.csrWrite ⟨c.sbWho, off.toNat, data.toNat, 8, some .sideband⟩)))

/-- The nine bytes of the last command's result are read: its status, or ASLEEP in Freewheel, and its data (R399, R400). In I3C
mode the header is refused while the access runs. -/
def Chip.sbResult (c : Chip) (addr : Nat) : Chip :=
  let asleep := c.pwr.asleep && c.sb.due
  if !c.pwr.aonOk || !c.sbMine addr || !(asleep || (!c.halted && c.on Reg.SB_STATUS.AWAKE)) then c
  else if asleep then { c with sb := { c.sb with got := 3, due := false } }
  else if c.sbBusy && c.on Reg.SB_CTRL.I3C then c
  else { c with sb := { c.sb with got := c.sb.status + c.sb.data <<< 8, due := c.sbBusy } }

def execSbResultRead (addr : BitVec 7) (s : State) : Host.Outcome State Fault Refusal := s.runAlways (fun c => c.sbResult addr.toNat)

/-- The Alert Response Address is read and answered with the target's address: ALERT_N is released (R451). -/
def Chip.alertResponse (c : Chip) : Chip :=
  if c.pwr.aonOk && !c.on Reg.SB_CTRL.I3C && c.on Reg.SB_ALERT.PENDING then
    ({ c with sb := { c.sb with got := 2 * c.get Reg.SB_CTRL.ADDR } }).put Reg.SB_ALERT.PENDING 0
  else c

def execAlertResponse (s : State) : Host.Outcome State Fault Refusal := s.runAlways Chip.alertResponse

/-- SETDASA or ENTDAA gives the target its dynamic address, in I3C mode (R397). -/
def Chip.i3cAssign (c : Chip) (dyn : Nat) : Chip :=
  if c.pwr.aonOk && c.on Reg.SB_CTRL.I3C then c.puts [(Reg.SB_STATUS.DYN_ADDR, dyn), (Reg.SB_STATUS.DYN_VALID, 1)] else c

def execI3cAddressAssign (dyn : BitVec 7) (s : State) : Host.Outcome State Fault Refusal := s.runAlways (fun c => c.i3cAssign dyn.toNat)

/-! ### Flash lands and PERST_N -/

/-- FLASH_OWN_N changes: a slot that is being read when it falls fails with reason 8 (R450). -/
def Chip.flashOwn (c : Chip) (low : Bool) : Chip :=
  let reading := !c.halted && low && !c.pwr.flashLow && c.boot.step == 3
  let c := { c with pwr := { c.pwr with flashLow := low } }
  if reading then c.slotFail 8 else c

def execFlashOwnChange (low : Bool) (s : State) : Host.Outcome State Fault Refusal := s.runAlways (fun c => c.flashOwn low)

/-- The host's fundamental reset of a port in endpoint personality: link 0 leaves the active state and every function's
MSI-X table, pending bits, mask and recorded errors take their reset values (R436; PRESUMED PCI Express, log 42). -/
def Chip.perst (c : Chip) (port : Nat) (low : Bool) : Chip :=
  let fell := low && !bit c.pwr.perstLow port
  let c := { c with pwr := { c.pwr with perstLow := setBits c.pwr.perstLow port 1 (b2n low) } }
  if fell && !c.halted && c.on (Reg.PCI_CFG.PERS port) then
    (c.pciLinkDown port 0).fnsMod (fun f => { f with
      msix := f.msix.filter (fun p => p.1 / 64 / 8192 != port)
      pba := f.pba.filter (fun p => p / 64 / 8192 != port)
      fmask := f.fmask.filter (fun k => k / 8192 != port)
      aer := f.aer.filter (fun p => p.1 / 8192 != port) })
  else c

def execPerstN (port : Fin 8) (low : Bool) (s : State) : Host.Outcome State Fault Refusal := s.runAlways (fun c => c.whole (fun c => c.perst port.val low))

/-- The level that the package drives on the PERST_N land of a link: low for links 1 to 3 of a port in endpoint personality, whose link 0
is an input; in root personality the land is an output whose level the spec does not state (R436). -/
def Chip.perstOut (c : Chip) (port l : Nat) : Option Bool := if c.on (Reg.PCI_CFG.PERS port) && l != 0 then some false else none

/-! ### Test access port -/

/-- Is a position of the chain a die of its own? An absent or power-gated compute die is replaced by a stage of the hub, whose
instructions select nothing (R456). -/
def Chip.tapDie (c : Chip) (pos : Nat) : Bool :=
  pos == 0 || (decide (pos < 13) && c.diePresent (pos - 1) && !(c.bitOf Reg.PWR_GATED.GATED (pos - 1)))

def Chip.tapOf (c : Chip) (pos : Nat) : TapDie := SMap.getD c.tap.dies pos TapDie.init
def Chip.tapMod (c : Chip) (pos : Nat) (f : TapDie → TapDie) : Chip :=
  if c.tapDie pos then { c with tap := { c.tap with dies := SMap.put c.tap.dies TapDie.init pos (f (c.tapOf pos)) } } else c

/-- An instruction is shifted into a die; BYPASS is all ones of the die's register (R455). -/
def Chip.tapInstr (c : Chip) (pos code : Nat) : Chip := c.tapMod pos (fun t => { t with instr := code })
def tapBypass (pos : Nat) : Nat := if pos = 0 then 0xFFFF else 0xFF

/-- The instruction that acts in a die: EXTEST, CLAMP and HIGHZ only while COLD_RST_N is low (R455). -/
def Chip.tapActs (c : Chip) (pos : Nat) : Nat :=
  let i := (c.tapOf pos).instr
  if (i = 3 || i = 4 || i = 5) && !c.pwr.coldLow then tapBypass pos else i

def execTapBypass (pos : Fin 13) (s : State) : Host.Outcome State Fault Refusal := s.runAlways (fun c => c.tapInstr pos.val (tapBypass pos.val))
def execTapIdcode (pos : Fin 13) (s : State) : Host.Outcome State Fault Refusal := s.runAlways (fun c => c.tapInstr pos.val 1)
def execTapSamplePreload (pos : Fin 13) (cells : Nat) (s : State) : Host.Outcome State Fault Refusal :=
  s.runAlways (fun c => c.tapMod pos.val (fun _ => ⟨2, cells⟩))
def execTapExtest (pos : Fin 13) (s : State) : Host.Outcome State Fault Refusal := s.runAlways (fun c => c.tapInstr pos.val 3)
def execTapClamp (s : State) : Host.Outcome State Fault Refusal := s.runAlways (fun c => c.tapInstr 0 4)
def execTapHighz (s : State) : Host.Outcome State Fault Refusal := s.runAlways (fun c => c.tapInstr 0 5)
def execTapDebug (s : State) : Host.Outcome State Fault Refusal := s.runAlways (fun c => c.tapInstr 0 0x10)

/-- A test reset selects IDCODE in every die (R455). -/
def execTapTestReset (s : State) : Host.Outcome State Fault Refusal :=
  s.runAlways (fun c => (List.range 13).foldl (fun c pos => c.tapInstr pos 1) c)

/-! ### Debug accesses (R334, R457) -/

/-- The DEBUG register as a capture returns it: DONE, REFUSED, POISON and the data. -/
def dbgWord (refused poison : Bool) (data : Nat) : Nat := 1 + 2 * b2n refused + 4 * b2n poison + (data % 2 ^ 64) <<< 64

def Chip.dbgEnd (c : Chip) (refused poison : Bool) (data : Nat) : Chip :=
  { c with tap := { c.tap with dbg := none, capture := dbgWord refused poison data } }

/-- May the port access memory and CSRs of a world (R334)? Other address ranges are neither. -/
def Chip.dbgAllows (c : Chip) (write secure : Bool) (pa : Nat) : Bool :=
  (c.invasive secure || (!write && c.nonInvasive secure)) &&
    (match regionOf pa with
     | .mmio _ _ | .bell _ _ => false
     | _ => true)

/-- An update of the DEBUG register with OP 1 or 2, while DEBUG is the hub's instruction. -/
def Chip.dbgStart (c : Chip) (write secure : Bool) (pa data : Nat) : Chip :=
  if (c.tapOf 0).instr != 0x10 || c.tap.dbg.isSome then c
  else if pa % 8 != 0 || !c.dbgAllows write secure pa then c.dbgEnd true false 0
  else { c with tap := { c.tap with dbg := some (write, secure, pa, data), capture := 0 } }

def execDebugRead (secure : Bool) (pa : BitVec 52) (s : State) : Host.Outcome State Fault Refusal :=
  s.runAlways (fun c => c.dbgStart false secure pa.toNat 0)
def execDebugWrite (secure : Bool) (pa : BitVec 52) (data : Word) (s : State) : Host.Outcome State Fault Refusal :=
  s.runAlways (fun c => c.dbgStart true secure pa.toNat data.toNat)

/-- An update with OP 0 or 3. -/
def execDebugUpdate (op3 : Bool) (s : State) : Host.Outcome State Fault Refusal :=
  s.runAlways (fun c =>
    if (c.tapOf 0).instr = 0x10 && op3 && c.tap.dbg.isNone then c.dbgEnd true false 0 else c)

/-- Would a CSR write wait behind another of its register, at the audit log or at its target (R121, R346, R364, R371)? -/
def Chip.csrWaits (c : Chip) (off v : Nat) : Bool :=
  c.stage.held.any (fun h => h.off == off)
    || (!(off == 0xC9C00020 && bit v 16) && (decide (audHold ≤ c.aud.ring.length) || !c.aud.held.isEmpty || c.hwHolds off))
    || c.csrParked off || c.selParked off v

/-- The access that runs is performed and completes. A write that would wait keeps running. -/
def Chip.dbgDone (c : Chip) : Chip :=
  match c.tap.dbg with
  | none => c
  | some (write, secure, pa, data) =>
    let w : Who := ⟨hubAgent c.pkg 6 0, 0, secure, 3, 0⟩
    let fin := fun (r : DevRes × Chip) => match r with
      | (.ok v, c) => c.dbgEnd false false v
      | (.poison, c) => c.dbgEnd false true 0
      | (.bus, c) => c.dbgEnd false (!write) 0
      | (.viol, c) => c.dbgEnd true false 0
      | (.later, c) => c
    let home := ((regionOf pa).pkg).getD c.pkg
    let far := home != c.pkg && !c.decodeMiss pa && !isNormal pa
    let away := fun (c : Chip) => match c.farDev w pa write 8 data with
      | (some r, c) => fin (farRes (pa % 64) 8 write r, c)
      | (none, c) => c
    match regionOf pa with
    | .csr _ off => if write && home = c.pkg && c.csrWaits off data then c else
        if far then away c else fin (c.devAccess w pa write 8 data .nobody)
    | _ =>
      if far then away c
      else if !isNormal pa then fin (c.devAccess w pa write 8 data .nobody)
      else if write then
        match Chip.hubWriteN true .awaited 2 c pa 8 data false w with
        | (.ok, c) => fin (.ok 0, c)
        | (.bus, c) => fin (.bus, c)
        | (.region _ _, c) | (.away, c) => fin (.viol, c)
      else
        match c.anyReadB pa 8 w with
        | (.ok, bad, v, c) => fin (if bad then .poison else .ok v, c)
        | (.bus, _, _, c) => fin (.bus, c)
        | (.region _ _, _, _, c) | (.away, _, _, c) => fin (.viol, c)

def execDebugAccessDone (s : State) : Host.Outcome State Fault Refusal := s.runWhole (fun c => c.dbgDone.inPump)

end Sys2Proof.Machine
end

