-- ==== Sys2Proof/Machine/Rows.lean ====
section
/-! DEFINITION. Machine/Rows.lean: the commands that software gives by writing or reading one register: each is that access, with
the value its row names (R13–R16, R326, R343). -/
namespace Sys2Proof.Machine

/-- Byte offset of the register a field belongs to. -/
def Fld.off (f : Fld) : Nat := f.addr / 64 * 8

/-- A value with some fields of its register set. -/
def withFields (v : Nat) (l : List (Fld × Nat)) : Nat := l.foldl (fun v p => setBits v (p.1.addr % 64) p.1.width p.2) v

/-- An 8-byte write of the CSR space by an agent of this package, answered to it; what it releases at the ports goes on (R309). -/
def Chip.regWrite (c : Chip) (w : Who) (off v : Nat) : Chip :=
  let d := OutFor.agent w.agent (c.csrAddr off)
  match c.csrWrite ⟨w, off, v, 8, some d⟩ with
  | (r, c) => (c.outAnswer d 8 r).inPump

/-- An 8-byte read of the CSR space by an agent of this package. Behind a held write of the register it does not come to pass yet, and is to
be given again (R121; log 14). -/
def Chip.regRead (c : Chip) (w : Who) (off : Nat) : Chip :=
  if c.csrHeld off then c else
  let d := OutFor.agent w.agent (c.csrAddr off)
  match c.csrRead w off 8 (some d) with
  | (r, c) => c.outAnswer d 8 r

/-- A write of the register of the list's first field: a base value with the list's fields set. -/
def Chip.fieldsWrite (c : Chip) (w : Who) (base : Nat) (l : List (Fld × Nat)) : Chip :=
  match l with
  | [] => c
  | p :: _ => c.regWrite w p.1.off (withFields base l)

/-- CSR_WRITE: a write of any register (R16). -/
def execCsrWrite (w : Who) (off : BitVec 32) (v : Word) (s : State) : Host.Outcome State Fault Refusal :=
  s.runWhole (fun c => c.regWrite w off.toNat v.toNat)

/-- RC_READ: a read of any register; its RC fields are cleared (R16). -/
def execRcRead (w : Who) (off : BitVec 32) (s : State) : Host.Outcome State Fault Refusal :=
  s.run (fun c => c.regRead w off.toNat)

/-- CSR_SUBWORD_ACCESS: an access of 1, 2 or 4 bytes (R13); another size names 4. -/
def execCsrSubwordAccess (w : Who) (off : BitVec 32) (size : Nat) (write : Bool) (v : Word) (s : State) :
    Host.Outcome State Fault Refusal :=
  s.runWhole (fun c =>
    let size := if size = 1 || size = 2 then size else 4
    let d := OutFor.agent w.agent (c.csrAddr off.toNat)
    match (if write then c.csrWrite ⟨w, off.toNat, v.toNat, size, some d⟩ else c.csrRead w off.toNat size (some d)) with
    | (r, c) => c.outAnswer d size r)

/-- COUNTER_READ: a read of a counter's register (R420). -/
def execCounterRead (w : Who) (off : BitVec 32) (s : State) : Host.Outcome State Fault Refusal :=
  s.run (fun c => c.regRead w off.toNat)

/-- COUNTER_WRITE: a write of a counter's register (R421). -/
def execCounterWrite (w : Who) (off : BitVec 32) (v : Word) (s : State) : Host.Outcome State Fault Refusal :=
  s.run (fun c => c.regWrite w off.toNat v.toNat)

/-- AUD_DIGEST_READ: a read of AUD_DIGEST[0] latches the other words (R345). -/
def execAudDigestRead (w : Who) (s : State) : Host.Outcome State Fault Refusal :=
  s.run (fun c => c.regRead w (Reg.AUD_DIGEST.DIGEST 0).off)

/-- AMAP_LOCK: the address map is checked and locked; BAD is cleared by the same write where the writer asks (R29). -/
def execAmapLock (w : Who) (clearBad : Bool) (s : State) : Host.Outcome State Fault Refusal :=
  s.run (fun c => c.fieldsWrite w 0 [(Reg.HUB_AMAP_LOCK.LOCK, 1), (Reg.HUB_AMAP_LOCK.BAD, b2n clearBad)])

/-- CORE_DIV_REQ: a write of HUB_CORE_DIV.REQ (R41). -/
def execCoreDivReq (w : Who) (d : Fin 12) (req : BitVec 10) (s : State) : Host.Outcome State Fault Refusal :=
  s.run (fun c => c.fieldsWrite w 0 [(Reg.HUB_CORE_DIV.REQ d.val, req.toNat)])

/-- TIME_LOAD: a write of TIME_LOAD (R46). -/
def execTimeLoad (w : Who) (v : Word) (s : State) : Host.Outcome State Fault Refusal :=
  s.run (fun c => c.fieldsWrite w 0 [(Reg.TIME_LOAD.VALUE, v.toNat)])

/-- CHAINLINE_ENABLE: TIME_CL_CTRL written with EN 1 (R53). -/
def execChainlineEnable (w : Who) (v : Word) (s : State) : Host.Outcome State Fault Refusal :=
  s.run (fun c => c.fieldsWrite w v.toNat [(Reg.TIME_CL_CTRL.EN, 1)])

/-- CHAINLINE_DISABLE: TIME_CL_CTRL written with EN 0 (R53). -/
def execChainlineDisable (w : Who) (v : Word) (s : State) : Host.Outcome State Fault Refusal :=
  s.run (fun c => c.fieldsWrite w v.toNat [(Reg.TIME_CL_CTRL.EN, 0)])

/-- CL_L2_LOCK_WRITE: a write of CL_L2_LOCK (R155). -/
def execClL2LockWrite (w : Who) (d : Fin 12) (cl : Fin 5) (v : Word) (s : State) : Host.Outcome State Fault Refusal :=
  s.run (fun c => c.regWrite w (Reg.CL_L2_LOCK.WAYS d.val cl.val).off v.toNat)

/-- L2_MAINT_CLEAN: CL_L2_MAINT CLEAN (R160). -/
def execL2MaintClean (w : Who) (d : Fin 12) (cl : Fin 5) (s : State) : Host.Outcome State Fault Refusal :=
  s.run (fun c => c.fieldsWrite w 0 [(Reg.CL_L2_MAINT.OP d.val cl.val, 1)])

/-- L2_MAINT_FLUSH: CL_L2_MAINT FLUSH, with or without KEEP_LOCKED (R160). -/
def execL2MaintFlush (w : Who) (d : Fin 12) (cl : Fin 5) (keep : Bool) (s : State) : Host.Outcome State Fault Refusal :=
  s.run (fun c => c.fieldsWrite w 0 [(Reg.CL_L2_MAINT.OP d.val cl.val, 2),
    (Reg.CL_L2_MAINT.KEEP_LOCKED d.val cl.val, b2n keep)])

/-- L2_DISABLE: CL_L2_CTRL.EN written 0 (R164). -/
def execL2Disable (w : Who) (d : Fin 12) (cl : Fin 5) (s : State) : Host.Outcome State Fault Refusal :=
  s.run (fun c => c.fieldsWrite w 0 [(Reg.CL_L2_CTRL.EN d.val cl.val, 0)])

/-- L2_ENABLE: CL_L2_CTRL.EN written 1 (R165). -/
def execL2Enable (w : Who) (d : Fin 12) (cl : Fin 5) (s : State) : Host.Outcome State Fault Refusal :=
  s.run (fun c => c.fieldsWrite w 0 [(Reg.CL_L2_CTRL.EN d.val cl.val, 1)])

/-- L3_MAINT_CLEAN: L3_CTRL CLEAN (R160). -/
def execL3MaintClean (w : Who) (d : Fin 12) (sl : Fin 20) (s : State) : Host.Outcome State Fault Refusal :=
  s.run (fun c => c.fieldsWrite w 0 [(Reg.L3_CTRL.MAINT d.val sl.val, 1)])

/-- L3_MAINT_FLUSH: L3_CTRL FLUSH (R160). -/
def execL3MaintFlush (w : Who) (d : Fin 12) (sl : Fin 20) (s : State) : Host.Outcome State Fault Refusal :=
  s.run (fun c => c.fieldsWrite w 0 [(Reg.L3_CTRL.MAINT d.val sl.val, 2)])

/-- HC_MAINT_CLEAN: HC_MAINT_CMD CLEAN (R160). -/
def execHcMaintClean (w : Who) (s : State) : Host.Outcome State Fault Refusal :=
  s.run (fun c => c.fieldsWrite w 0 [(Reg.HC_MAINT_CMD.OP, 1)])

/-- HC_MAINT_FLUSH: HC_MAINT_CMD FLUSH (R160). -/
def execHcMaintFlush (w : Who) (s : State) : Host.Outcome State Fault Refusal :=
  s.run (fun c => c.fieldsWrite w 0 [(Reg.HC_MAINT_CMD.OP, 2)])

/-- RANGE_CLEAN: HC_RANGE_CMD CLEAN (R161). -/
def execRangeClean (w : Who) (s : State) : Host.Outcome State Fault Refusal :=
  s.run (fun c => c.fieldsWrite w 0 [(Reg.HC_RANGE_CMD.OP, 1)])

/-- RANGE_FLUSH: HC_RANGE_CMD FLUSH (R161). -/
def execRangeFlush (w : Who) (s : State) : Host.Outcome State Fault Refusal :=
  s.run (fun c => c.fieldsWrite w 0 [(Reg.HC_RANGE_CMD.OP, 2)])

/-- RANGE_INVAL: HC_RANGE_CMD INVAL (R161). -/
def execRangeInval (w : Who) (s : State) : Host.Outcome State Fault Refusal :=
  s.run (fun c => c.fieldsWrite w 0 [(Reg.HC_RANGE_CMD.OP, 3)])

/-- DIR_PROBE: a write of DIR_PROBE (R200). -/
def execDirProbe (w : Who) (sl : Fin 16) (line : BitVec 46) (s : State) : Host.Outcome State Fault Refusal :=
  s.run (fun c => c.fieldsWrite w 0 [(Reg.DIR_PROBE.ADDR sl.val, line.toNat)])

/-- MC_SCHED_WRITE: a write of MC_SCHED (R209). -/
def execMcSchedWrite (w : Who) (ch : Fin 24) (v : Word) (s : State) : Host.Outcome State Fault Refusal :=
  s.run (fun c => c.regWrite w (Reg.MC_SCHED.AGE_CAP ch.val).off v.toNat)

/-- POSTPONE_MAX_WRITE: a write of MC_REF_POSTPONE_MAX (R211). -/
def execPostponeMaxWrite (w : Who) (ch : Fin 24) (v : Word) (s : State) : Host.Outcome State Fault Refusal :=
  s.run (fun c => c.regWrite w (Reg.MC_REF_POSTPONE_MAX.MAX ch.val).off v.toNat)

/-- MC_INIT: MC_CMD.INIT (R212). -/
def execMcInit (w : Who) (ch : Fin 24) (s : State) : Host.Outcome State Fault Refusal :=
  s.run (fun c => c.fieldsWrite w 0 [(Reg.MC_CMD.INIT ch.val, 1)])

/-- MC_READY: MC_CMD.READY (R212). -/
def execMcReady (w : Who) (ch : Fin 24) (s : State) : Host.Outcome State Fault Refusal :=
  s.run (fun c => c.fieldsWrite w 0 [(Reg.MC_CMD.READY ch.val, 1)])

/-- SR_ENTER: MC_CMD.SR_ENTER (R214). -/
def execSrEnter (w : Who) (ch : Fin 24) (s : State) : Host.Outcome State Fault Refusal :=
  s.run (fun c => c.fieldsWrite w 0 [(Reg.MC_CMD.SR_ENTER ch.val, 1)])

/-- SR_EXIT: MC_CMD.SR_EXIT (R215). -/
def execSrExit (w : Who) (ch : Fin 24) (s : State) : Host.Outcome State Fault Refusal :=
  s.run (fun c => c.fieldsWrite w 0 [(Reg.MC_CMD.SR_EXIT ch.val, 1)])

/-- MC_CFG_LOCK: MC_CFG written with LOCK 1 (R222). -/
def execMcCfgLock (w : Who) (ch : Fin 24) (v : Word) (s : State) : Host.Outcome State Fault Refusal :=
  s.run (fun c => c.fieldsWrite w v.toNat [(Reg.MC_CFG.LOCK ch.val, 1)])

/-- MODE_REGISTER_WRITE: MC_MR_CMD OP 1 (R221). -/
def execModeRegisterWrite (w : Who) (ch : Fin 24) (rank : Fin 8) (sub : Fin 2) (addr data : BitVec 8) (s : State) : Host.Outcome State Fault Refusal :=
  s.run (fun c => c.fieldsWrite w 0 [(Reg.MC_MR_CMD.OP ch.val, 1),
    (Reg.MC_MR_CMD.RANK ch.val, rank.val),
    (Reg.MC_MR_CMD.SUBCH ch.val, sub.val),
    (Reg.MC_MR_CMD.ADDR ch.val, addr.toNat),
    (Reg.MC_MR_CMD.DATA ch.val, data.toNat)])

/-- MODE_REGISTER_READ: MC_MR_CMD OP 2 (R221). -/
def execModeRegisterRead (w : Who) (ch : Fin 24) (rank : Fin 8) (sub : Fin 2) (addr : BitVec 8) (s : State) : Host.Outcome State Fault Refusal :=
  s.run (fun c => c.fieldsWrite w 0 [(Reg.MC_MR_CMD.OP ch.val, 2),
    (Reg.MC_MR_CMD.RANK ch.val, rank.val),
    (Reg.MC_MR_CMD.SUBCH ch.val, sub.val),
    (Reg.MC_MR_CMD.ADDR ch.val, addr.toNat)])

/-- CLOCK_DRIVER_WRITE: MC_MR_CMD OP 3 (R221). -/
def execClockDriverWrite (w : Who) (ch : Fin 24) (rank : Fin 8) (sub : Fin 2) (addr data : BitVec 8) (s : State) : Host.Outcome State Fault Refusal :=
  s.run (fun c => c.fieldsWrite w 0 [(Reg.MC_MR_CMD.OP ch.val, 3),
    (Reg.MC_MR_CMD.RANK ch.val, rank.val),
    (Reg.MC_MR_CMD.SUBCH ch.val, sub.val),
    (Reg.MC_MR_CMD.ADDR ch.val, addr.toNat),
    (Reg.MC_MR_CMD.DATA ch.val, data.toNat)])

/-- MULTI_PURPOSE_COMMAND: MC_MR_CMD OP 4 (R221). -/
def execMultiPurposeCommand (w : Who) (ch : Fin 24) (rank : Fin 8) (sub : Fin 2) (data : BitVec 8) (s : State) : Host.Outcome State Fault Refusal :=
  s.run (fun c => c.fieldsWrite w 0 [(Reg.MC_MR_CMD.OP ch.val, 4),
    (Reg.MC_MR_CMD.RANK ch.val, rank.val),
    (Reg.MC_MR_CMD.SUBCH ch.val, sub.val),
    (Reg.MC_MR_CMD.DATA ch.val, data.toNat)])

/-- TRN_WRITE: MC_TRN_CTRL written with GO 1 and OP 1 (R219). -/
def execTrnWrite (w : Who) (ch : Fin 24) (v : Word) (s : State) : Host.Outcome State Fault Refusal :=
  s.run (fun c => c.fieldsWrite w v.toNat [(Reg.MC_TRN_CTRL.OP ch.val, 1), (Reg.MC_TRN_CTRL.GO ch.val, 1)])

/-- TRN_READ_COMPARE: MC_TRN_CTRL written with GO 1 and OP 2 (R219). -/
def execTrnReadCompare (w : Who) (ch : Fin 24) (v : Word) (s : State) : Host.Outcome State Fault Refusal :=
  s.run (fun c => c.fieldsWrite w v.toNat [(Reg.MC_TRN_CTRL.OP ch.val, 2), (Reg.MC_TRN_CTRL.GO ch.val, 1)])

/-- TRN_WRITE_READ: MC_TRN_CTRL written with GO 1 and OP 3 (R219). -/
def execTrnWriteRead (w : Who) (ch : Fin 24) (v : Word) (s : State) : Host.Outcome State Fault Refusal :=
  s.run (fun c => c.fieldsWrite w v.toNat [(Reg.MC_TRN_CTRL.OP ch.val, 3), (Reg.MC_TRN_CTRL.GO ch.val, 1)])

/-- TRN_SWEEP: MC_TRN_CTRL written with GO 1 and OP 4 (R220). -/
def execTrnSweep (w : Who) (ch : Fin 24) (v : Word) (s : State) : Host.Outcome State Fault Refusal :=
  s.run (fun c => c.fieldsWrite w v.toNat [(Reg.MC_TRN_CTRL.OP ch.val, 4), (Reg.MC_TRN_CTRL.GO ch.val, 1)])

/-- PG_CTRL_LOCK: PG_CTRL.LOCK written 1 (R231). -/
def execPgCtrlLock (w : Who) (s : State) : Host.Outcome State Fault Refusal :=
  s.run (fun c => c.fieldsWrite w 0 [(Reg.PG_CTRL.LOCK, 1)])

/-- SCRUB_CHECK: PG_SCRUB_CMD CHECK (R240). -/
def execScrubCheck (w : Who) (s : State) : Host.Outcome State Fault Refusal :=
  s.run (fun c => c.fieldsWrite w 0 [(Reg.PG_SCRUB_CMD.OP, 1)])

/-- SCRUB_CORRECT: PG_SCRUB_CMD CORRECT (R240). -/
def execScrubCorrect (w : Who) (s : State) : Host.Outcome State Fault Refusal :=
  s.run (fun c => c.fieldsWrite w 0 [(Reg.PG_SCRUB_CMD.OP, 2)])

/-- SCRUB_INIT: PG_SCRUB_CMD INIT (R240). -/
def execScrubInit (w : Who) (s : State) : Host.Outcome State Fault Refusal :=
  s.run (fun c => c.fieldsWrite w 0 [(Reg.PG_SCRUB_CMD.OP, 3)])

/-- SCRUB_ABORT: PG_SCRUB_CMD.ABORT (R241). -/
def execScrubAbort (w : Who) (s : State) : Host.Outcome State Fault Refusal :=
  s.run (fun c => c.fieldsWrite w 0 [(Reg.PG_SCRUB_CMD.ABORT, 1)])

/-- SPOKE_RETRAIN: SPK_CTRL.RETRAIN, the thresholds rewritten as they stand (R266). -/
def execSpokeRetrain (w : Who) (d : Fin 12) (s : State) : Host.Outcome State Fault Refusal :=
  s.run (fun c => c.fieldsWrite w (c.regVal (Reg.SPK_CTRL.RETRAIN d.val).off) [(Reg.SPK_CTRL.RETRAIN d.val, 1)])

/-- TDM_ENABLE: TDM_CTRL written with EN 1 and no TRAIN (R273). -/
def execTdmEnable (w : Who) (p : Fin 6) (v : Word) (s : State) : Host.Outcome State Fault Refusal :=
  s.run (fun c => c.fieldsWrite w v.toNat [(Reg.TDM_CTRL.EN p.val, 1), (Reg.TDM_CTRL.TRAIN p.val, 0)])

/-- TDM_DISABLE: TDM_CTRL written with EN 0 (R275). -/
def execTdmDisable (w : Who) (p : Fin 6) (v : Word) (s : State) : Host.Outcome State Fault Refusal :=
  s.run (fun c => c.fieldsWrite w v.toNat [(Reg.TDM_CTRL.EN p.val, 0), (Reg.TDM_CTRL.TRAIN p.val, 0)])

/-- TDM_TRAIN: TDM_CTRL written with TRAIN 1 (R273). -/
def execTdmTrain (w : Who) (p : Fin 6) (v : Word) (s : State) : Host.Outcome State Fault Refusal :=
  s.run (fun c => c.fieldsWrite w v.toNat [(Reg.TDM_CTRL.TRAIN p.val, 1)])

/-- TNT_CREATE: TNT_CMD CREATE (R281). -/
def execTntCreate (w : Who) (any : Bool) (t : BitVec 12) (s : State) : Host.Outcome State Fault Refusal :=
  s.run (fun c => c.fieldsWrite w 0 [(Reg.TNT_CMD.OP, 1), (Reg.TNT_CMD.ANY, b2n any), (Reg.TNT_CMD.TENANT, t.toNat)])

/-- TNT_DESTROY: TNT_CMD DESTROY (R281). -/
def execTntDestroy (w : Who) (t : BitVec 12) (s : State) : Host.Outcome State Fault Refusal :=
  s.runWhole (fun c => c.fieldsWrite w 0 [(Reg.TNT_CMD.OP, 2), (Reg.TNT_CMD.TENANT, t.toNat)])

/-- TNT_FREEZE: TNT_CMD FREEZE (R281). -/
def execTntFreeze (w : Who) (t : BitVec 12) (s : State) : Host.Outcome State Fault Refusal :=
  s.runWhole (fun c => c.fieldsWrite w 0 [(Reg.TNT_CMD.OP, 3), (Reg.TNT_CMD.TENANT, t.toNat)])

/-- TNT_THAW: TNT_CMD THAW (R281). -/
def execTntThaw (w : Who) (t : BitVec 12) (s : State) : Host.Outcome State Fault Refusal :=
  s.runWhole (fun c => c.fieldsWrite w 0 [(Reg.TNT_CMD.OP, 4), (Reg.TNT_CMD.TENANT, t.toNat)])

/-- TNT_RESET: TNT_CMD RESET (R281). -/
def execTntReset (w : Who) (t : BitVec 12) (s : State) : Host.Outcome State Fault Refusal :=
  s.runWhole (fun c => c.fieldsWrite w 0 [(Reg.TNT_CMD.OP, 5), (Reg.TNT_CMD.TENANT, t.toNat)])

/-- SV_THAW: TNT_SV_CMD THAW (R291). -/
def execSvThaw (w : Who) (t : BitVec 12) (kind : BitVec 2) (m : BitVec 20) (s : State) : Host.Outcome State Fault Refusal :=
  s.runWhole (fun c => c.fieldsWrite w 0 [(Reg.TNT_SV_CMD.OP t.toNat, 1),
    (Reg.TNT_SV_CMD.KIND t.toNat, kind.toNat),
    (Reg.TNT_SV_CMD.MASTER t.toNat, m.toNat)])

/-- SV_FREEZE: TNT_SV_CMD FREEZE (R291). -/
def execSvFreeze (w : Who) (t : BitVec 12) (kind : BitVec 2) (m : BitVec 20) (s : State) : Host.Outcome State Fault Refusal :=
  s.runWhole (fun c => c.fieldsWrite w 0 [(Reg.TNT_SV_CMD.OP t.toNat, 2),
    (Reg.TNT_SV_CMD.KIND t.toNat, kind.toNat),
    (Reg.TNT_SV_CMD.MASTER t.toNat, m.toNat)])

/-- SV_RESET_TENANT: TNT_SV_CMD RESET_TENANT (R291). -/
def execSvResetTenant (w : Who) (t : BitVec 12) (s : State) : Host.Outcome State Fault Refusal :=
  s.runWhole (fun c => c.fieldsWrite w 0 [(Reg.TNT_SV_CMD.OP t.toNat, 3)])

/-- QCMD_ENABLE: HQE_QCMD ENABLE (R293). -/
def execQcmdEnable (w : Who) (q : BitVec 20) (s : State) : Host.Outcome State Fault Refusal :=
  s.runWhole (fun c => c.fieldsWrite w 0 [(Reg.HQE_QCMD.OP, 1), (Reg.HQE_QCMD.QUEUE, q.toNat)])

/-- QCMD_DISABLE: HQE_QCMD DISABLE (R293). -/
def execQcmdDisable (w : Who) (q : BitVec 20) (s : State) : Host.Outcome State Fault Refusal :=
  s.runWhole (fun c => c.fieldsWrite w 0 [(Reg.HQE_QCMD.OP, 2), (Reg.HQE_QCMD.QUEUE, q.toNat)])

/-- QCMD_PROBE: HQE_QCMD PROBE (R293). -/
def execQcmdProbe (w : Who) (q : BitVec 20) (s : State) : Host.Outcome State Fault Refusal :=
  s.runWhole (fun c => c.fieldsWrite w 0 [(Reg.HQE_QCMD.OP, 3), (Reg.HQE_QCMD.QUEUE, q.toNat)])

/-- SWAP: HQE_SCHED.SWAP (R302). -/
def execSwap (w : Who) (n : Fin 8) (s : State) : Host.Outcome State Fault Refusal :=
  s.run (fun c => c.fieldsWrite w 0 [(Reg.HQE_SCHED.SWAP n.val, 1)])

/-- HQE_CTRL_WRITE: a write of HQE_CTRL (R301). -/
def execHqeCtrlWrite (w : Who) (v : Word) (s : State) : Host.Outcome State Fault Refusal :=
  s.runWhole (fun c => c.regWrite w Reg.HQE_CTRL.EN.off v.toNat)

/-- RSV_ADD: REG_RSV_CMD ADD (R311). -/
def execRsvAdd (w : Who) (slot : Fin 1024) (s : State) : Host.Outcome State Fault Refusal :=
  s.run (fun c => c.fieldsWrite w 0 [(Reg.REG_RSV_CMD.OP, 1), (Reg.REG_RSV_CMD.SLOT, slot.val)])

/-- RSV_REMOVE: REG_RSV_CMD REMOVE (R311). -/
def execRsvRemove (w : Who) (slot : Fin 1024) (s : State) : Host.Outcome State Fault Refusal :=
  s.run (fun c => c.fieldsWrite w 0 [(Reg.REG_RSV_CMD.OP, 2), (Reg.REG_RSV_CMD.SLOT, slot.val)])

/-- REG_CTRL_WRITE: a write of REG_CTRL (R307). -/
def execRegCtrlWrite (w : Who) (v : Word) (s : State) : Host.Outcome State Fault Refusal :=
  s.runWhole (fun c => c.regWrite w Reg.REG_CTRL.EN.off v.toNat)

/-- WDOG_ENABLE: SEC_WDOG_CTRL written with EN 1 (R337). -/
def execWdogEnable (w : Who) (grace : BitVec 16) (period : BitVec 32) (s : State) : Host.Outcome State Fault Refusal :=
  s.run (fun c => c.fieldsWrite w 0 [(Reg.SEC_WDOG_CTRL.EN, 1),
    (Reg.SEC_WDOG_CTRL.GRACE, grace.toNat),
    (Reg.SEC_WDOG_CTRL.PERIOD, period.toNat)])

/-- WDOG_KICK: a write of SEC_WDOG_KICK (R337). -/
def execWdogKick (w : Who) (key : BitVec 16) (s : State) : Host.Outcome State Fault Refusal :=
  s.run (fun c => c.fieldsWrite w 0 [(Reg.SEC_WDOG_KICK.KEY, key.toNat)])

/-- OTP_PROG: OTP_CMD.PROG (R341). -/
def execOtpProg (w : Who) (f : Fin 128) (s : State) : Host.Outcome State Fault Refusal :=
  s.run (fun c => c.fieldsWrite w 0 [(Reg.OTP_CMD.PROG, 1), (Reg.OTP_CMD.FIELD, f.val)])

/-- DRAM_SINK_RESTART: 1 written to AUD_STATUS.DRAM_REFUSED (R347). -/
def execDramSinkRestart (w : Who) (s : State) : Host.Outcome State Fault Refusal :=
  s.run (fun c => c.fieldsWrite w 0 [(Reg.AUD_STATUS.DRAM_REFUSED, 1)])

/-- SPRK_COMMIT_N: HUB_SPRK_COMMIT.N (R148). -/
def execSprkCommitN (w : Who) (s : State) : Host.Outcome State Fault Refusal :=
  s.runWhole (fun c => c.fieldsWrite w 0 [(Reg.HUB_SPRK_COMMIT.N, 1)])

/-- SPRK_COMMIT_S: HUB_SPRK_COMMIT.S (R148). -/
def execSprkCommitS (w : Who) (s : State) : Host.Outcome State Fault Refusal :=
  s.runWhole (fun c => c.fieldsWrite w 0 [(Reg.HUB_SPRK_COMMIT.S, 1)])

/-- STAGE_LOAD: CFG_STAGE_CMD LOAD (R369). -/
def execStageLoad (w : Who) (s : State) : Host.Outcome State Fault Refusal :=
  s.run (fun c => c.fieldsWrite w 0 [(Reg.CFG_STAGE_CMD.OP, 1)])

/-- STAGE_APPLY: CFG_STAGE_CMD APPLY of the selected sections (R370). -/
def execStageApply (w : Who) (sect : BitVec 4) (s : State) : Host.Outcome State Fault Refusal :=
  s.runWhole (fun c => c.fieldsWrite w 0 [(Reg.CFG_STAGE_CMD.OP, 2), (Reg.CFG_STAGE_CMD.SECT, sect.toNat)])

/-- POOL_COMMIT_GO: CFG_POOL_COMMIT.GO (R367). -/
def execPoolCommitGo (w : Who) (s : State) : Host.Outcome State Fault Refusal :=
  s.run (fun c => c.fieldsWrite w 0 [(Reg.CFG_POOL_COMMIT.GO, 1)])

/-- POOL_COMMIT_DISCARD: CFG_POOL_COMMIT.DISCARD (R364). -/
def execPoolCommitDiscard (w : Who) (s : State) : Host.Outcome State Fault Refusal :=
  s.run (fun c => c.fieldsWrite w 0 [(Reg.CFG_POOL_COMMIT.DISCARD, 1)])

/-- POOL_CREATE: CFG_POOL_CMD CREATE (R368). -/
def execPoolCreate (w : Who) (p : Fin 32) (any : Bool) (t : BitVec 12) (s : State) : Host.Outcome State Fault Refusal :=
  s.run (fun c => c.fieldsWrite w 0 [(Reg.CFG_POOL_CMD.OP p.val, 1),
    (Reg.CFG_POOL_CMD.ANY p.val, b2n any),
    (Reg.CFG_POOL_CMD.TENANT p.val, t.toNat)])

/-- POOL_DESTROY: CFG_POOL_CMD DESTROY (R368). -/
def execPoolDestroy (w : Who) (p : Fin 32) (t : BitVec 12) (s : State) : Host.Outcome State Fault Refusal :=
  s.runWhole (fun c => c.fieldsWrite w 0 [(Reg.CFG_POOL_CMD.OP p.val, 2), (Reg.CFG_POOL_CMD.TENANT p.val, t.toNat)])

/-- POOL_FREEZE: CFG_POOL_CMD FREEZE (R368). -/
def execPoolFreeze (w : Who) (p : Fin 32) (t : BitVec 12) (s : State) : Host.Outcome State Fault Refusal :=
  s.runWhole (fun c => c.fieldsWrite w 0 [(Reg.CFG_POOL_CMD.OP p.val, 3), (Reg.CFG_POOL_CMD.TENANT p.val, t.toNat)])

/-- POOL_THAW: CFG_POOL_CMD THAW (R368). -/
def execPoolThaw (w : Who) (p : Fin 32) (t : BitVec 12) (s : State) : Host.Outcome State Fault Refusal :=
  s.runWhole (fun c => c.fieldsWrite w 0 [(Reg.CFG_POOL_CMD.OP p.val, 4), (Reg.CFG_POOL_CMD.TENANT p.val, t.toNat)])

/-- POOL_RESET: CFG_POOL_CMD RESET (R368). -/
def execPoolReset (w : Who) (p : Fin 32) (t : BitVec 12) (s : State) : Host.Outcome State Fault Refusal :=
  s.runWhole (fun c => c.fieldsWrite w 0 [(Reg.CFG_POOL_CMD.OP p.val, 5), (Reg.CFG_POOL_CMD.TENANT p.val, t.toNat)])

/-- CFG_LOCK_ACQ: CFG_LOCK.ACQ (R372). -/
def execCfgLockAcq (w : Who) (n : Fin 64) (s : State) : Host.Outcome State Fault Refusal :=
  s.run (fun c => c.fieldsWrite w 0 [(Reg.CFG_LOCK.ACQ n.val, 1)])

/-- CFG_LOCK_REL: CFG_LOCK.REL (R373). -/
def execCfgLockRel (w : Who) (n : Fin 64) (s : State) : Host.Outcome State Fault Refusal :=
  s.run (fun c => c.fieldsWrite w 0 [(Reg.CFG_LOCK.REL n.val, 1)])

/-- CFG_LOCK_BROKEN_CLEAR: 1 written to CFG_LOCK.BROKEN (R373). -/
def execCfgLockBrokenClear (w : Who) (n : Fin 64) (s : State) : Host.Outcome State Fault Refusal :=
  s.run (fun c => c.fieldsWrite w 0 [(Reg.CFG_LOCK.BROKEN n.val, 1)])

/-- PCI_CFG_WRITE: a write of PCI_CFG (R375). -/
def execPciCfgWrite (w : Who) (port : Fin 8) (v : Word) (s : State) : Host.Outcome State Fault Refusal :=
  s.run (fun c => c.regWrite w (Reg.PCI_CFG.EN port.val).off v.toNat)

/-- FCMD_ENABLE: PCI_FCMD ENABLE (R380). -/
def execFcmdEnable (w : Who) (port : Fin 8) (f : BitVec 13) (s : State) : Host.Outcome State Fault Refusal :=
  s.runWhole (fun c => c.fieldsWrite w 0 [(Reg.PCI_FCMD.OP port.val, 1), (Reg.PCI_FCMD.FUNC port.val, f.toNat)])

/-- FCMD_DISABLE: PCI_FCMD DISABLE (R380). -/
def execFcmdDisable (w : Who) (port : Fin 8) (f : BitVec 13) (s : State) : Host.Outcome State Fault Refusal :=
  s.runWhole (fun c => c.fieldsWrite w 0 [(Reg.PCI_FCMD.OP port.val, 2), (Reg.PCI_FCMD.FUNC port.val, f.toNat)])

/-- FCMD_RESET: PCI_FCMD RESET (R382). -/
def execFcmdReset (w : Who) (port : Fin 8) (f : BitVec 13) (s : State) : Host.Outcome State Fault Refusal :=
  s.runWhole (fun c => c.fieldsWrite w 0 [(Reg.PCI_FCMD.OP port.val, 3), (Reg.PCI_FCMD.FUNC port.val, f.toNat)])

/-- FCMD_PROBE: PCI_FCMD PROBE (R380). -/
def execFcmdProbe (w : Who) (port : Fin 8) (f : BitVec 13) (s : State) : Host.Outcome State Fault Refusal :=
  s.runWhole (fun c => c.fieldsWrite w 0 [(Reg.PCI_FCMD.OP port.val, 4), (Reg.PCI_FCMD.FUNC port.val, f.toNat)])

/-- WINDOW_BANK_COMMIT: a write of PCI_WIN_SEL (R386). -/
def execWindowBankCommit (w : Who) (port : Fin 8) (v : Word) (s : State) : Host.Outcome State Fault Refusal :=
  s.run (fun c => c.regWrite w (Reg.PCI_WIN_SEL.SEL port.val).off v.toNat)

/-- ATS_INV: PCI_XCMD ATS_INV (R384). -/
def execAtsInv (w : Who) (port : Fin 8) (f : BitVec 13) (all : Bool) (page : BitVec 37) (s : State) : Host.Outcome State Fault Refusal :=
  s.runWhole (fun c => c.fieldsWrite w 0 [(Reg.PCI_XCMD.OP port.val, 1),
    (Reg.PCI_XCMD.ALL port.val, b2n all),
    (Reg.PCI_XCMD.FUNC port.val, f.toNat),
    (Reg.PCI_XCMD.PAGE port.val, page.toNat)])

/-- PRG_RESP: PCI_XCMD PRG_RESP (R384). -/
def execPrgResp (w : Who) (port : Fin 8) (f : BitVec 13) (code : Fin 4) (prgi : BitVec 9) (s : State) : Host.Outcome State Fault Refusal :=
  s.runWhole (fun c => c.fieldsWrite w 0 [(Reg.PCI_XCMD.OP port.val, 2),
    (Reg.PCI_XCMD.CODE port.val, code.val),
    (Reg.PCI_XCMD.PRGI port.val, prgi.toNat),
    (Reg.PCI_XCMD.FUNC port.val, f.toNat)])

/-- SB_ALERT_SET: SB_ALERT.SET (R451). -/
def execSbAlertSet (w : Who) (s : State) : Host.Outcome State Fault Refusal :=
  s.run (fun c => c.fieldsWrite w 0 [(Reg.SB_ALERT.SET, 1)])

/-- CORE_CTX_START: CORE_CTX_CTRL.START (R71). -/
def execCoreCtxStart (w : Who) (x : Fin 960) (s : State) : Host.Outcome State Fault Refusal :=
  s.run (fun c => c.fieldsWrite w 0 [(Reg.CORE_CTX_CTRL.START (x.val / 80) (x.val % 80 / 4) (x.val % 4), 1)])

/-- CORE_CTX_RESET: CORE_CTX_CTRL.RESET (R73). -/
def execCoreCtxReset (w : Who) (x : Fin 960) (s : State) : Host.Outcome State Fault Refusal :=
  s.run (fun c => c.fieldsWrite w 0 [(Reg.CORE_CTX_CTRL.RESET (x.val / 80) (x.val % 80 / 4) (x.val % 4), 1)])

/-- PWR_CL_CTRL_WRITE: a write of PWR_CL_CTRL (R405). -/
def execPwrClCtrlWrite (w : Who) (d : Fin 12) (cl : Fin 5) (v : Word) (s : State) : Host.Outcome State Fault Refusal :=
  s.run (fun c => c.regWrite w (Reg.PWR_CL_CTRL.C3_EN d.val cl.val).off v.toNat)

/-- GATE_CLOCK: PWR_GATE_CMD CLOCK (R406). -/
def execGateClock (w : Who) (t : BitVec 6) (s : State) : Host.Outcome State Fault Refusal :=
  s.run (fun c => c.fieldsWrite w 0 [(Reg.PWR_GATE_CMD.TARGET, t.toNat), (Reg.PWR_GATE_CMD.OP, 1)])

/-- GATE_POWER: PWR_GATE_CMD POWER (R406). -/
def execGatePower (w : Who) (t : BitVec 6) (s : State) : Host.Outcome State Fault Refusal :=
  s.run (fun c => c.fieldsWrite w 0 [(Reg.PWR_GATE_CMD.TARGET, t.toNat), (Reg.PWR_GATE_CMD.OP, 2)])

/-- GATE_UNGATE: PWR_GATE_CMD UNGATE (R406). -/
def execGateUngate (w : Who) (t : BitVec 6) (s : State) : Host.Outcome State Fault Refusal :=
  s.run (fun c => c.fieldsWrite w 0 [(Reg.PWR_GATE_CMD.TARGET, t.toNat), (Reg.PWR_GATE_CMD.OP, 3)])

/-- FREEWHEEL: PWR_PK_CMD FREEWHEEL (R412). -/
def execFreewheel (w : Who) (s : State) : Host.Outcome State Fault Refusal :=
  s.run (fun c => c.fieldsWrite w 0 [(Reg.PWR_PK_CMD.OP, 1)])

/-- FREEWHEEL_ABORT: PWR_PK_CMD ABORT (R413). -/
def execFreewheelAbort (w : Who) (s : State) : Host.Outcome State Fault Refusal :=
  s.run (fun c => c.fieldsWrite w 0 [(Reg.PWR_PK_CMD.OP, 2)])

/-- SEC_ACK: PWR_SEC_ACK.ACK (R412). -/
def execSecAck (w : Who) (s : State) : Host.Outcome State Fault Refusal :=
  s.run (fun c => c.fieldsWrite w 0 [(Reg.PWR_SEC_ACK.ACK, 1)])

/-- REG_ENT_WRITE: a write of one of the four words of a regulator entry (R309). -/
def execRegEntWrite (w : Who) (m : Fin 4096) (word : Fin 4) (v : Word) (s : State) : Host.Outcome State Fault Refusal :=
  s.runWhole (fun c => c.regWrite w ((Reg.REG_ENT.EN m.val).off + 8 * word.val) v.toNat)

/-- SEC_RGN_WRITE: a write of one of the two words of a region (R329). -/
def execSecRgnWrite (w : Who) (k : Fin 32) (r : Fin 32) (hi : Bool) (v : Word) (s : State) : Host.Outcome State Fault Refusal :=
  s.run (fun c => c.regWrite w ((Reg.SEC_RGN.EN k.val r.val).off + 8 * b2n hi) v.toNat)

end Sys2Proof.Machine
end

