-- ==== Sys2Proof/Machine/Dispatch.lean ====
section
/-! DEFINITION. Machine/Dispatch.lean: the meaning of each command, one arm for each constructor. -/
namespace Sys2Proof.Machine

def exec (i : Instr) (s : State) : Host.Outcome State Fault Refusal :=
  match i with
  | .coldReset low straps => Sys2Proof.Machine.execColdReset low straps s
  | .warmReset low fail => Sys2Proof.Machine.execWarmReset low fail s
  | .dieReset d => Sys2Proof.Machine.execDieReset d s
  | .contextReset x => Sys2Proof.Machine.execContextReset x s
  | .csrWrite w off v => Sys2Proof.Machine.execCsrWrite w off v s
  | .rcRead w off => Sys2Proof.Machine.execRcRead w off s
  | .csrSubwordAccess w off size write v => Sys2Proof.Machine.execCsrSubwordAccess w off size write v s
  | .hubRequest => Sys2Proof.Machine.execHubRequest s
  | .doorbell w q v => Sys2Proof.Machine.execDoorbell w q v s
  | .amapLock w clearBad => Sys2Proof.Machine.execAmapLock w clearBad s
  | .rootSynthLock => Sys2Proof.Machine.execRootSynthLock s
  | .dieSynthLock d => Sys2Proof.Machine.execDieSynthLock d s
  | .lockLost u => Sys2Proof.Machine.execLockLost u s
  | .coreDivReq w d req => Sys2Proof.Machine.execCoreDivReq w d req s
  | .ratioChangeDone d cl => Sys2Proof.Machine.execRatioChangeDone d cl s
  | .timeLoad w v => Sys2Proof.Machine.execTimeLoad w v s
  | .timeRestart => Sys2Proof.Machine.execTimeRestart s
  | .calibrationWindowEnd period => Sys2Proof.Machine.execCalibrationWindowEnd period s
  | .chainlineEnable w v => Sys2Proof.Machine.execChainlineEnable w v s
  | .chainlineDisable w v => Sys2Proof.Machine.execChainlineDisable w v s
  | .alignmentSymbolSend p sub => Sys2Proof.Machine.execAlignmentSymbolSend p sub s
  | .alignmentSymbolReceive p sym sub => Sys2Proof.Machine.execAlignmentSymbolReceive p sym sub s
  | .bundleIssue k sub => Sys2Proof.Machine.execBundleIssue k sub s
  | .fenceComplete x => Sys2Proof.Machine.execFenceComplete x s
  | .stringChunk x => Sys2Proof.Machine.execStringChunk x s
  | .serialComplete x => Sys2Proof.Machine.execSerialComplete x s
  | .dataReturn op => Sys2Proof.Machine.execDataReturn op s
  | .fetchReturn op => Sys2Proof.Machine.execFetchReturn op s
  | .tableWalkDone x => Sys2Proof.Machine.execTableWalkDone x s
  | .storeQueueDrain x n => Sys2Proof.Machine.execStoreQueueDrain x n s
  | .l2Request op err => Sys2Proof.Machine.execL2Request op err s
  | .l2MissReport op => Sys2Proof.Machine.execL2MissReport op s
  | .l3Request op err => Sys2Proof.Machine.execL3Request op err s
  | .lineFill op => Sys2Proof.Machine.execLineFill op s
  | .fillRetry level n => Sys2Proof.Machine.execFillRetry level n s
  | .clL2LockWrite w d cl v => Sys2Proof.Machine.execClL2LockWrite w d cl v s
  | .l2MaintClean w d cl => Sys2Proof.Machine.execL2MaintClean w d cl s
  | .l2MaintFlush w d cl keep => Sys2Proof.Machine.execL2MaintFlush w d cl keep s
  | .l3MaintClean w d sl => Sys2Proof.Machine.execL3MaintClean w d sl s
  | .l3MaintFlush w d sl => Sys2Proof.Machine.execL3MaintFlush w d sl s
  | .hcMaintClean w => Sys2Proof.Machine.execHcMaintClean w s
  | .hcMaintFlush w => Sys2Proof.Machine.execHcMaintFlush w s
  | .cacheMaintDone level unit => Sys2Proof.Machine.execCacheMaintDone level unit s
  | .rangeClean w => Sys2Proof.Machine.execRangeClean w s
  | .rangeFlush w => Sys2Proof.Machine.execRangeFlush w s
  | .rangeInval w => Sys2Proof.Machine.execRangeInval w s
  | .l2Disable w d cl => Sys2Proof.Machine.execL2Disable w d cl s
  | .l2Drained d cl => Sys2Proof.Machine.execL2Drained d cl s
  | .l2Enable w d cl => Sys2Proof.Machine.execL2Enable w d cl s
  | .rdS line err => Sys2Proof.Machine.execRdS line err s
  | .rdX line => Sys2Proof.Machine.execRdX line s
  | .upg line => Sys2Proof.Machine.execUpg line s
  | .claim line => Sys2Proof.Machine.execClaim line s
  | .rdNc line => Sys2Proof.Machine.execRdNc line s
  | .wrNc line => Sys2Proof.Machine.execWrNc line s
  | .maintClean => Sys2Proof.Machine.execMaintClean s
  | .maintFlush => Sys2Proof.Machine.execMaintFlush s
  | .maintInval => Sys2Proof.Machine.execMaintInval s
  | .reqRetry line => Sys2Proof.Machine.execReqRetry line s
  | .transactionClose line => Sys2Proof.Machine.execTransactionClose line s
  | .wbDirty line => Sys2Proof.Machine.execWbDirty line s
  | .evictClean line => Sys2Proof.Machine.execEvictClean line s
  | .snpS d => Sys2Proof.Machine.execSnpS d s
  | .snpInv d => Sys2Proof.Machine.execSnpInv d s
  | .snpInvNd d => Sys2Proof.Machine.execSnpInvNd d s
  | .snpCur d => Sys2Proof.Machine.execSnpCur d s
  | .snpClean d => Sys2Proof.Machine.execSnpClean d s
  | .broadcastSnoopFanout => Sys2Proof.Machine.execBroadcastSnoopFanout s
  | .ackI => Sys2Proof.Machine.execAckI s
  | .ackS => Sys2Proof.Machine.execAckS s
  | .miss => Sys2Proof.Machine.execMiss s
  | .inEvict => Sys2Proof.Machine.execInEvict s
  | .dead => Sys2Proof.Machine.execDead s
  | .grant d => Sys2Proof.Machine.execGrant d s
  | .dat d => Sys2Proof.Machine.execDat d s
  | .wbkAck d => Sys2Proof.Machine.execWbkAck d s
  | .snoopTimeout line n => Sys2Proof.Machine.execSnoopTimeout line n s
  | .fwdTimeout n => Sys2Proof.Machine.execFwdTimeout n s
  | .deliveryTimeout n => Sys2Proof.Machine.execDeliveryTimeout n s
  | .answerTimeout n => Sys2Proof.Machine.execAnswerTimeout n s
  | .fence => Sys2Proof.Machine.execFence s
  | .fenceSettle line => Sys2Proof.Machine.execFenceSettle line s
  | .unfence => Sys2Proof.Machine.execUnfence s
  | .tntCmd => Sys2Proof.Machine.execTntCmd s
  | .tntDone => Sys2Proof.Machine.execTntDone s
  | .ioMark => Sys2Proof.Machine.execIoMark s
  | .ioAck d => Sys2Proof.Machine.execIoAck d s
  | .dirProbe w sl line => Sys2Proof.Machine.execDirProbe w sl line s
  | .mcRead ch => Sys2Proof.Machine.execMcRead ch s
  | .mcWrite ch => Sys2Proof.Machine.execMcWrite ch s
  | .mcReadData ch => Sys2Proof.Machine.execMcReadData ch s
  | .mcSchedWrite w ch v => Sys2Proof.Machine.execMcSchedWrite w ch v s
  | .refreshDue ch r => Sys2Proof.Machine.execRefreshDue ch r s
  | .refreshBurst ch r => Sys2Proof.Machine.execRefreshBurst ch r s
  | .mr4Poll ch hot => Sys2Proof.Machine.execMr4Poll ch hot s
  | .postponeMaxWrite w ch v => Sys2Proof.Machine.execPostponeMaxWrite w ch v s
  | .mcInit w ch => Sys2Proof.Machine.execMcInit w ch s
  | .mcReady w ch => Sys2Proof.Machine.execMcReady w ch s
  | .srEnter w ch => Sys2Proof.Machine.execSrEnter w ch s
  | .srExit w ch => Sys2Proof.Machine.execSrExit w ch s
  | .srIdleTimeout ch => Sys2Proof.Machine.execSrIdleTimeout ch s
  | .srStepReady ch => Sys2Proof.Machine.execSrStepReady ch s
  | .srStepTimeout ch => Sys2Proof.Machine.execSrStepTimeout ch s
  | .mcAlert ch => Sys2Proof.Machine.execMcAlert ch s
  | .mcCfgLock w ch v => Sys2Proof.Machine.execMcCfgLock w ch v s
  | .modeRegisterWrite w ch rank sub addr data => Sys2Proof.Machine.execModeRegisterWrite w ch rank sub addr data s
  | .modeRegisterRead w ch rank sub addr => Sys2Proof.Machine.execModeRegisterRead w ch rank sub addr s
  | .clockDriverWrite w ch rank sub addr data => Sys2Proof.Machine.execClockDriverWrite w ch rank sub addr data s
  | .multiPurposeCommand w ch rank sub data => Sys2Proof.Machine.execMultiPurposeCommand w ch rank sub data s
  | .mrCmdDone ch res => Sys2Proof.Machine.execMrCmdDone ch res s
  | .trnWrite w ch v => Sys2Proof.Machine.execTrnWrite w ch v s
  | .trnReadCompare w ch v => Sys2Proof.Machine.execTrnReadCompare w ch v s
  | .trnWriteRead w ch v => Sys2Proof.Machine.execTrnWriteRead w ch v s
  | .trnSweep w ch v => Sys2Proof.Machine.execTrnSweep w ch v s
  | .trnDone ch errs => Sys2Proof.Machine.execTrnDone ch errs s
  | .pgLineRead job => Sys2Proof.Machine.execPgLineRead job s
  | .pgLineWrite job chkBad => Sys2Proof.Machine.execPgLineWrite job chkBad s
  | .pgCtrlLock w => Sys2Proof.Machine.execPgCtrlLock w s
  | .scrubCheck w => Sys2Proof.Machine.execScrubCheck w s
  | .scrubCorrect w => Sys2Proof.Machine.execScrubCorrect w s
  | .scrubInit w => Sys2Proof.Machine.execScrubInit w s
  | .scrubAbort w => Sys2Proof.Machine.execScrubAbort w s
  | .scrubPage => Sys2Proof.Machine.execScrubPage s
  | .spokeFlitReceive d up gap errs => Sys2Proof.Machine.execSpokeFlitReceive d up gap errs s
  | .widthStepReady d => Sys2Proof.Machine.execWidthStepReady d s
  | .widthStepTimeout d => Sys2Proof.Machine.execWidthStepTimeout d s
  | .dieEndSilence d => Sys2Proof.Machine.execDieEndSilence d s
  | .spokeRetrain w d => Sys2Proof.Machine.execSpokeRetrain w d s
  | .spokeTrainStepReady d up dn agree => Sys2Proof.Machine.execSpokeTrainStepReady d up dn agree s
  | .spokeTrainStepTimeout d => Sys2Proof.Machine.execSpokeTrainStepTimeout d s
  | .tandemFlitReceive p f => Sys2Proof.Machine.execTandemFlitReceive p f s
  | .tdmEnable w p v => Sys2Proof.Machine.execTdmEnable w p v s
  | .tdmDisable w p v => Sys2Proof.Machine.execTdmDisable w p v s
  | .tdmTrain w p v => Sys2Proof.Machine.execTdmTrain w p v s
  | .tdmTrainStepReady p r => Sys2Proof.Machine.execTdmTrainStepReady p r s
  | .tdmTrainStepTimeout p bad => Sys2Proof.Machine.execTdmTrainStepTimeout p bad s
  | .tandemSilence p => Sys2Proof.Machine.execTandemSilence p s
  | .routeHoldRelease q => Sys2Proof.Machine.execRouteHoldRelease q s
  | .tntCreate w any t => Sys2Proof.Machine.execTntCreate w any t s
  | .tntDestroy w t => Sys2Proof.Machine.execTntDestroy w t s
  | .tntFreeze w t => Sys2Proof.Machine.execTntFreeze w t s
  | .tntThaw w t => Sys2Proof.Machine.execTntThaw w t s
  | .tntReset w t => Sys2Proof.Machine.execTntReset w t s
  | .tenantResetStep t => Sys2Proof.Machine.execTenantResetStep t s
  | .tenantResetStuck t => Sys2Proof.Machine.execTenantResetStuck t s
  | .violationReturn d => Sys2Proof.Machine.execViolationReturn d s
  | .svThaw w t kind m => Sys2Proof.Machine.execSvThaw w t kind m s
  | .svFreeze w t kind m => Sys2Proof.Machine.execSvFreeze w t kind m s
  | .svResetTenant w t => Sys2Proof.Machine.execSvResetTenant w t s
  | .qcmdEnable w q => Sys2Proof.Machine.execQcmdEnable w q s
  | .qcmdDisable w q => Sys2Proof.Machine.execQcmdDisable w q s
  | .qcmdProbe w q => Sys2Proof.Machine.execQcmdProbe w q s
  | .contextFill q => Sys2Proof.Machine.execContextFill q s
  | .serviceLaunch n => Sys2Proof.Machine.execServiceLaunch n s
  | .sqeFetch q => Sys2Proof.Machine.execSqeFetch q s
  | .sqeComplete q idx => Sys2Proof.Machine.execSqeComplete q idx s
  | .swap w n => Sys2Proof.Machine.execSwap w n s
  | .slotTableWrap n => Sys2Proof.Machine.execSlotTableWrap n s
  | .hqeCtrlWrite w v => Sys2Proof.Machine.execHqeCtrlWrite w v s
  | .rsvAdd w slot => Sys2Proof.Machine.execRsvAdd w slot s
  | .rsvRemove w slot => Sys2Proof.Machine.execRsvRemove w slot s
  | .windowBoundary m => Sys2Proof.Machine.execWindowBoundary m s
  | .capacityRecompute r => Sys2Proof.Machine.execCapacityRecompute r s
  | .regEntWrite w m word v => Sys2Proof.Machine.execRegEntWrite w m word v s
  | .regCtrlWrite w v => Sys2Proof.Machine.execRegCtrlWrite w v s
  | .arbitrationRound a => Sys2Proof.Machine.execArbitrationRound a s
  | .secRgnWrite w k r hi v => Sys2Proof.Machine.execSecRgnWrite w k r hi v s
  | .wdogEnable w grace period => Sys2Proof.Machine.execWdogEnable w grace period s
  | .wdogKick w key => Sys2Proof.Machine.execWdogKick w key s
  | .wdogExpiry => Sys2Proof.Machine.execWdogExpiry s
  | .wdogReset fail => Sys2Proof.Machine.execWdogReset fail s
  | .otpProg w f => Sys2Proof.Machine.execOtpProg w f s
  | .otpProgDone got => Sys2Proof.Machine.execOtpProgDone got s
  | .auditDrain => Sys2Proof.Machine.execAuditDrain s
  | .auditSlotFree => Sys2Proof.Machine.execAuditSlotFree s
  | .dramSinkRestart w => Sys2Proof.Machine.execDramSinkRestart w s
  | .audDigestRead w => Sys2Proof.Machine.execAudDigestRead w s
  | .sprkCommitN w => Sys2Proof.Machine.execSprkCommitN w s
  | .sprkCommitS w => Sys2Proof.Machine.execSprkCommitS w s
  | .sprkCommitDone k => Sys2Proof.Machine.execSprkCommitDone k s
  | .bootStepReady bad => Sys2Proof.Machine.execBootStepReady bad s
  | .recordWaitTimeout => Sys2Proof.Machine.execRecordWaitTimeout s
  | .seurvCallReturn status => Sys2Proof.Machine.execSeurvCallReturn status s
  | .seurvCallTimeout => Sys2Proof.Machine.execSeurvCallTimeout s
  | .stageLoad w => Sys2Proof.Machine.execStageLoad w s
  | .stageApply w sect => Sys2Proof.Machine.execStageApply w sect s
  | .stageDone => Sys2Proof.Machine.execStageDone s
  | .poolCommitGo w => Sys2Proof.Machine.execPoolCommitGo w s
  | .poolCommitDiscard w => Sys2Proof.Machine.execPoolCommitDiscard w s
  | .poolCreate w p any t => Sys2Proof.Machine.execPoolCreate w p any t s
  | .poolDestroy w p t => Sys2Proof.Machine.execPoolDestroy w p t s
  | .poolFreeze w p t => Sys2Proof.Machine.execPoolFreeze w p t s
  | .poolThaw w p t => Sys2Proof.Machine.execPoolThaw w p t s
  | .poolReset w p t => Sys2Proof.Machine.execPoolReset w p t s
  | .cfgLockAcq w n => Sys2Proof.Machine.execCfgLockAcq w n s
  | .cfgLockRel w n => Sys2Proof.Machine.execCfgLockRel w n s
  | .cfgLockBrokenClear w n => Sys2Proof.Machine.execCfgLockBrokenClear w n s
  | .pciCfgWrite w port v => Sys2Proof.Machine.execPciCfgWrite w port v s
  | .pcieLinkUp port l cxl rate width flit => Sys2Proof.Machine.execPcieLinkUp port l cxl rate width flit s
  | .pcieLinkDown port l => Sys2Proof.Machine.execPcieLinkDown port l s
  | .fcmdEnable w port f => Sys2Proof.Machine.execFcmdEnable w port f s
  | .fcmdDisable w port f => Sys2Proof.Machine.execFcmdDisable w port f s
  | .fcmdReset w port f => Sys2Proof.Machine.execFcmdReset w port f s
  | .fcmdProbe w port f => Sys2Proof.Machine.execFcmdProbe w port f s
  | .functionResetDone port f => Sys2Proof.Machine.execFunctionResetDone port f s
  | .mmioAccess w addr write size data => Sys2Proof.Machine.execMmioAccess w addr write size data s
  | .pcieCompletion port l tag status data => Sys2Proof.Machine.execPcieCompletion port l tag status data s
  | .completionTimeout port l tag => Sys2Proof.Machine.execCompletionTimeout port l tag s
  | .tagQuarantineEnd port l tag => Sys2Proof.Machine.execTagQuarantineEnd port l tag s
  | .inboundRequest port l t => Sys2Proof.Machine.execInboundRequest port l t s
  | .atsTranslationRequest port l rid tag va => Sys2Proof.Machine.execAtsTranslationRequest port l rid tag va s
  | .priPageRequest port l rid page prgi rwl => Sys2Proof.Machine.execPriPageRequest port l rid page prgi rwl s
  | .atsInv w port f all page => Sys2Proof.Machine.execAtsInv w port f all page s
  | .prgResp w port f code prgi => Sys2Proof.Machine.execPrgResp w port f code prgi s
  | .xcmdDone port ok => Sys2Proof.Machine.execXcmdDone port ok s
  | .windowBankCommit w port v => Sys2Proof.Machine.execWindowBankCommit w port v s
  | .msixRaise port => Sys2Proof.Machine.execMsixRaise port s
  | .msixUnmask port f v => Sys2Proof.Machine.execMsixUnmask port f v s
  | .sbWakeMatch addr => Sys2Proof.Machine.execSbWakeMatch addr s
  | .sbReadCommand addr off pecOk => Sys2Proof.Machine.execSbReadCommand addr off pecOk s
  | .sbWriteCommand addr off data pecOk => Sys2Proof.Machine.execSbWriteCommand addr off data pecOk s
  | .sbResultRead addr => Sys2Proof.Machine.execSbResultRead addr s
  | .sbAlertSet w => Sys2Proof.Machine.execSbAlertSet w s
  | .alertResponse => Sys2Proof.Machine.execAlertResponse s
  | .interruptMessage => Sys2Proof.Machine.execInterruptMessage s
  | .timerCompare x => Sys2Proof.Machine.execTimerCompare x s
  | .quantumExpiry k => Sys2Proof.Machine.execQuantumExpiry k s
  | .switchCyclesEnd k => Sys2Proof.Machine.execSwitchCyclesEnd k s
  | .coreCtxStart w x => Sys2Proof.Machine.execCoreCtxStart w x s
  | .coreCtxReset w x => Sys2Proof.Machine.execCoreCtxReset w x s
  | .trapEntry x => Sys2Proof.Machine.execTrapEntry x s
  | .c1Entry k => Sys2Proof.Machine.execC1Entry k s
  | .c3Entry k => Sys2Proof.Machine.execC3Entry k s
  | .c3SaveDone k => Sys2Proof.Machine.execC3SaveDone k s
  | .c3Exit k => Sys2Proof.Machine.execC3Exit k s
  | .pwrClCtrlWrite w d cl v => Sys2Proof.Machine.execPwrClCtrlWrite w d cl v s
  | .gateClock w t => Sys2Proof.Machine.execGateClock w t s
  | .gatePower w t => Sys2Proof.Machine.execGatePower w t s
  | .gateUngate w t => Sys2Proof.Machine.execGateUngate w t s
  | .tempSample u temp prochot => Sys2Proof.Machine.execTempSample u temp prochot s
  | .freewheel w => Sys2Proof.Machine.execFreewheel w s
  | .freewheelAbort w => Sys2Proof.Machine.execFreewheelAbort w s
  | .secAck w => Sys2Proof.Machine.execSecAck w s
  | .fwEntryStepReady => Sys2Proof.Machine.execFwEntryStepReady s
  | .fwEntryStepTimeout => Sys2Proof.Machine.execFwEntryStepTimeout s
  | .wakeTimerExpiry => Sys2Proof.Machine.execWakeTimerExpiry s
  | .wakeNFall => Sys2Proof.Machine.execWakeNFall s
  | .wakeStepReady lost => Sys2Proof.Machine.execWakeStepReady lost s
  | .wakeStepTimeout reason idx => Sys2Proof.Machine.execWakeStepTimeout reason idx s
  | .wakeRetry => Sys2Proof.Machine.execWakeRetry s
  | .counterRead w off => Sys2Proof.Machine.execCounterRead w off s
  | .counterWrite w off v => Sys2Proof.Machine.execCounterWrite w off v s
  | .sampleClose x => Sys2Proof.Machine.execSampleClose x s
  | .latchEdge => Sys2Proof.Machine.execLatchEdge s
  | .snapshotWrite => Sys2Proof.Machine.execSnapshotWrite s
  | .epochEnd es => Sys2Proof.Machine.execEpochEnd es s
  | .epochCredit => Sys2Proof.Machine.execEpochCredit s
  | .phaseSelfCheckFail j => Sys2Proof.Machine.execPhaseSelfCheckFail j s
  | .aonOkRise => Sys2Proof.Machine.execAonOkRise s
  | .brownOut aon main => Sys2Proof.Machine.execBrownOut aon main s
  | .flashOwnChange low => Sys2Proof.Machine.execFlashOwnChange low s
  | .tapBypass pos => Sys2Proof.Machine.execTapBypass pos s
  | .tapIdcode pos => Sys2Proof.Machine.execTapIdcode pos s
  | .tapSamplePreload pos cells => Sys2Proof.Machine.execTapSamplePreload pos cells s
  | .tapExtest pos => Sys2Proof.Machine.execTapExtest pos s
  | .tapClamp => Sys2Proof.Machine.execTapClamp s
  | .tapHighz => Sys2Proof.Machine.execTapHighz s
  | .tapDebug => Sys2Proof.Machine.execTapDebug s
  | .debugRead secure pa => Sys2Proof.Machine.execDebugRead secure pa s
  | .debugWrite secure pa data => Sys2Proof.Machine.execDebugWrite secure pa data s
  | .debugAccessDone => Sys2Proof.Machine.execDebugAccessDone s
  | .timeTick => Sys2Proof.Machine.execTimeTick s
  | .crystalEdge => Sys2Proof.Machine.execCrystalEdge s
  | .executionUnitResult k unit => Sys2Proof.Machine.execExecutionUnitResult k unit s
  | .dramCommandIssue ch sub ck => Sys2Proof.Machine.execDramCommandIssue ch sub ck s
  | .rowCloseIdle ch bank ck => Sys2Proof.Machine.execRowCloseIdle ch bank ck s
  | .i3cAddressAssign dyn => Sys2Proof.Machine.execI3cAddressAssign dyn s
  | .tapTestReset => Sys2Proof.Machine.execTapTestReset s
  | .gateComplete => Sys2Proof.Machine.execGateComplete s
  | .perstN port low => Sys2Proof.Machine.execPerstN port low s
  | .debugUpdate op3 => Sys2Proof.Machine.execDebugUpdate op3 s

end Sys2Proof.Machine
end

