-- ==== Sys2Proof/Safety.lean ====
section
/-! DEFINITION. Safety.lean: the words in which claims are stated: what a command leaves as it was, when a register access goes
straight through, and what every step keeps. -/
namespace Sys2Proof.Machine

/-! ### What is left as it was -/

/-- Every field outside a list of registers' fields reads after as it read before. -/
def Untouched (a b : Chip) (l : List Fld) : Prop := ∀ f : Fld, (∀ g ∈ l, f.addr ≠ g.addr) → b.get f = a.get f

/-- Only registers may differ, and among those only a list of fields; the staged values of RWS fields stand. -/
structure OnlyFields (a b : Chip) (l : List Fld) : Prop where
  rest : b = { a with regs := b.regs }
  regs : Untouched a b l
  shadow : b.regs.shadow = a.regs.shadow

/-- Is a field one of a performance monitoring block (spec/17)? -/
def pmuFld (f : Fld) : Bool :=
  let o := f.addr / 64 * 8
  (decide (o < 0xC0000000) && decide (0x5000000 ≤ o % 0x10000000) && decide (o % 0x10000000 < 0x6000000))
    || (decide (0xCE000000 ≤ o) && decide (o < 0xCF000000))

/-- Only a list of fields and, where events are counted, performance counters may differ, with the interrupts and the energy that
counting gives. -/
structure CountedOnly (a b : Chip) (l : List Fld) : Prop where
  rest : b = { a with regs := b.regs, irqs := b.irqs, nrg := b.nrg }
  regs : ∀ f : Fld, pmuFld f = false → (∀ g ∈ l, f.addr ≠ g.addr) → b.get f = a.get f
  shadow : b.regs.shadow = a.regs.shadow

/-- No byte of any memory differs, nor a bit of the OTP array. -/
structure SameMemory (a b : Chip) : Prop where
  dram : b.dram = a.dram
  check : b.dramChk = a.dramChk
  cxl : b.cxl = a.cxl
  poison : b.cxlPoison = a.cxlPoison
  mram : b.mram = a.mram
  flash : b.flash = a.flash
  otp : b.otp = a.otp

/-- The messages at the hub and at the dies are those they were, but for the buffers that they hold (R257). -/
structure SameMessages (a b : CohSt) : Prop where
  rest : b = { a with hubIn := b.hubIn, dieIn := b.dieIn }
  hub : b.hubIn.map Msg.unbuf = a.hubIn.map Msg.unbuf
  dies : b.dieIn.map (fun x => (x.1, x.2.unbuf)) = a.dieIn.map (fun x => (x.1, x.2.unbuf))

/-- What a command of the hub's units that ran whole leaves of the lines that such commands asked for: none is wanted, and those used are
gone (log 14). -/
def Chip.asked (c : Chip) : Chip := { c with coh := { c.coh with wants := none, far := c.coh.far.filter (fun x => !x.used) } }

/-- The package as a command that runs whole starts: no line is asked for yet (log 14). -/
def Chip.asking (c : Chip) : Chip := { c with coh := { c.coh with wants := some none } }

/-- The package with the lines that another one's units of the hub asked for, where it may have run a command of theirs (log 14). -/
def Chip.askedAs (c b : Chip) : Chip := { c with coh := { c.coh with wants := b.coh.wants, far := b.coh.far } }

/-- Has a boot started nothing yet: no Tandem port trains and no context runs (R360; log 98)? -/
def Chip.unstarted (c : Chip) : Bool :=
  (List.range 6).all (fun p => c.tdmState p == tdmDown) && (List.range 960).all (fun x => c.cxState x == cxOff)

/-- The hub cache holds what it held, but for the ages of its lines (R153). -/
def SameHubCache (a b : Chip) : Prop :=
  b.coh.hc.map (fun p => (p.1, { p.2 with age := 0 })) = a.coh.hc.map (fun p => (p.1, { p.2 with age := 0 }))

/-- The package after a read of units of the hub that found their lines in the hub cache: besides, ages of its lines and the lines asked
for differ. -/
def Chip.readHub (a b : Chip) : Chip := { a with coh := { a.coh with hc := b.coh.hc, far := b.coh.far, wants := none } }

/-! ### A register access that goes straight through -/

/-- The fields that a record of the audit log writes (R344 to R346). -/
def auditFields : List Fld :=
  [Reg.AUD_LAST.REC 0, Reg.AUD_LAST.REC 1, Reg.AUD_LAST.REC 2, Reg.AUD_LAST.REC 3, Reg.AUD_DIGEST.DIGEST 0, Reg.AUD_DIGEST.DIGEST 1,
   Reg.AUD_DIGEST.DIGEST 2, Reg.AUD_DIGEST.DIGEST 3, Reg.AUD_SEQ.SEQ, Reg.AUD_STATUS.USED, Reg.AUD_STATUS.STALL, Reg.AUD_STATUS.HW_WAIT]

/-- Is a package clocked, is no command of its configuration engine about to begin, and are its ports at rest, so that nothing but a
command's own effect happens? -/
def Chip.quiet (c : Chip) : Bool := !c.halted && (c.stage.op != 2 || c.stage.begun) && c.inIdle

/-- Does a write of a register meet nothing that holds, refuses or ignores it: checker 26 allows it (R326), the register has a field that
the master may write (R15, R16), the audit ring has room, and so has the block that may record it (R346), no staged set or APPLY holds it (R364, R371), and no earlier write of
it waits (R121)? -/
def Chip.writeRuns (c : Chip) (w : Who) (off : Nat) : Bool :=
  c.quiet && (c.rgnCheck 26 (c.csrAddr off) w rightW).ok && !c.csrBlocked w off && decide (c.aud.ring.length < audHold) && c.aud.held.isEmpty
    && !c.csrParked off && !c.csrHeld off && !c.hwHolds off

/-- The package as a register write meets it: a write of TIME_LOAD reads TIME first (R46). -/
def Chip.atWrite (c : Chip) (off : Nat) : Chip := if off = 0xCD000008 then c.timeNow.2 else c

/-- Is a read of a register one that checker 26 allows (R326), with no write of it held (R121)? -/
def Chip.readRuns (c : Chip) (w : Who) (off : Nat) : Bool := !c.halted && !c.csrHeld off && (c.rgnCheck 26 (c.csrAddr off) w rightR).ok

/-- Does the hub cache hold a line of this package that no die has and that nothing keeps from a unit of the hub which reads or writes
it, and is this its content? -/
def Chip.hubHolds (c : Chip) (line : Nat) (w : Who) (ld : LD) : Bool :=
  isNormal (64 * line) && homePkg line == c.pkg && c.homeCheck line w rightR == .ok && c.homeCheck line w rightW == .ok
    && (c.dirFind line).isNone && !c.lineHard line && (c.hcWaitOf line).isNone
    && (match c.hcFind line with | some (_, l) => l.flaw == 0 && l.ld == ld | none => false)

/-- Does context x of a core run, with nothing that keeps it from issuing the bundle `b` that it has fetched at its pc but what is due to
it and the bundle itself (R60, R66, R72, R134)? -/
def Chip.issues (c : Chip) (x b : Nat) : Bool :=
  let k := c.ctxOf x
  !c.halted && c.corePresent (ctxDie x) (ctxCore x) && c.cstate (coreIx x) == 0 && !(c.spkOf (ctxDie x)).silent
    && c.coreRunning (coreIx x) == some x && !(c.coreOf (coreIx x)).waking && !(c.coreOf (coreIx x)).preempt && k.switched && k.trap.isNone
    && k.serial.isNone && (c.irqBest x).isNone && k.fetch == some ⟨k.pc, b, false, c.cxPriv x, c.cxSecure x⟩
    && k.stWait.isEmpty && !c.ratioBusy (cluIx x)

/-- The registers of a context are as they were (R86, R129), and so is where it goes on. -/
structure SameRegs (a b : Ctx) : Prop where
  g : b.g = a.g
  v : b.v = a.v
  p : b.p = a.p
  cs : b.cs = a.cs
  pc : b.pc = a.pc
  idx : b.idx = a.idx

/-- Is a command one that the always-on domain, the board's lands or the test access port carry out while nothing else runs (R410, R440, R443,
R448, R454)? -/
def alwaysOn : Instr → Bool
  | .sbWakeMatch .. | .sbReadCommand .. | .sbWriteCommand .. | .sbResultRead .. | .alertResponse | .i3cAddressAssign .. | .flashOwnChange ..
  | .perstN .. | .tapBypass .. | .tapIdcode .. | .tapSamplePreload .. | .tapExtest .. | .tapClamp | .tapHighz | .tapDebug | .tapTestReset
  | .debugRead .. | .debugWrite .. | .debugUpdate .. | .wakeTimerExpiry | .wakeNFall | .crystalEdge | .wakeStepReady .. | .wakeStepTimeout ..
  | .wakeRetry | .warmReset .. | .coldReset .. | .aonOkRise | .brownOut .. => true
  | _ => false

/-- Is a command one of the synthesizers or of TIME, which go on while a warm reset is held (R42, R45)? -/
def keepsTime : Instr → Bool
  | .rootSynthLock | .dieSynthLock .. | .lockLost .. | .calibrationWindowEnd .. | .timeTick => true
  | _ => false

/-- Every bit that an OTP array has programmed is programmed in a state (R339). -/
def OtpKeeps (old : SMap Nat) (s : State) : Prop :=
  ∀ w i : Nat, (SMap.getD old w 0).testBit i = true → (SMap.getD s.chip.otp w 0).testBit i = true

/-- Commands carried out in order from a state with an empty queue. -/
def runAll : List Instr → State → Option State
  | [], s => some s
  | c :: l, s => match exec c s with
    | .next t => runAll l t
    | .fault _ => none
    | .refused _ => none

/-- What a software write leaves beside its own effect: its record in the audit log and the interrupt of that, its energy, and
the answer to its master. -/
structure Recorded (a b : Chip) : Prop where
  rest : b = { a with regs := b.regs, aud := b.aud, nrg := b.nrg, irqs := b.irqs }
  regs : Untouched a b auditFields
  shadow : b.regs.shadow = a.regs.shadow
  ring : ∃ r, b.aud = { a.aud with ring := a.aud.ring ++ [r] }

/-- A software write ends: beside the fields of a list, the package keeps everything but the write's record and energy, and its
master has its answer. -/
structure WroteOnly (a b : Chip) (w : Who) (off : Nat) (l : List Fld) : Prop where
  rest : b = { a with regs := b.regs, aud := b.aud, nrg := b.nrg, irqs := b.irqs, replies := b.replies }
  regs : Untouched a b (l ++ auditFields)
  shadow : b.regs.shadow = a.regs.shadow
  record : ∃ r, b.aud = { a.aud with ring := a.aud.ring ++ [r] }
  answer : b.replies = a.replies ++ [⟨w.agent, a.csrAddr off, 0, false, false⟩]

end Sys2Proof.Machine
end

