-- ==== Sys2Proof/Certificates/Slice0/Obligations.lean ====
section
/-! DEFINITION. Certificates/Slice0/Obligations.lean: the statements for the provers. -/

open Sys2Proof Sys2Proof.Machine

/-- Clocks (R36, R38, R41, R42, R45): the root synthesizer's lock starts TIME unless TIME waits for its reconstruction; a die's lock is its
own bit; a lock lost while running stops TIME, is latched and drives FATAL_ERR; HUB_CORE_DIV.REQ takes the written ratio of every present
cluster and of no other; a change that ends gives the cluster its target ratio. -/
def Obligations.SynthesizersAndRatios : Prop :=
  (∀ s : State, s.chip.halted = false → s.chip.clk.needRecon = false →
    ∃ t, exec .rootSynthLock s = .next t ∧ t.pending = s.pending
      ∧ t.chip.get Reg.HUB_CLK_STATUS.ROOT_LOCK = 1 ∧ t.chip.get Reg.TIME_STATUS.VALID = 1
      ∧ OnlyFields s.chip t.chip [Reg.HUB_CLK_STATUS.ROOT_LOCK, Reg.TIME_STATUS.VALID])
  ∧ (∀ (s : State) (d : Fin 12), s.chip.halted = false →
    ∃ t, exec (.dieSynthLock d) s = .next t ∧ t.pending = s.pending
      ∧ (∀ e : Fin 12, t.chip.bitOf Reg.HUB_CLK_STATUS.DIE_LOCK e.val = (e == d || s.chip.bitOf Reg.HUB_CLK_STATUS.DIE_LOCK e.val))
      ∧ OnlyFields s.chip t.chip [Reg.HUB_CLK_STATUS.DIE_LOCK])
  ∧ (∀ s : State, s.chip.halted = false → s.chip.on Reg.HUB_CLK_STATUS.ROOT_LOCK = true →
    ∃ t, exec (.lockLost 12) s = .next t ∧ t.pending = s.pending
      ∧ t.chip.get Reg.HUB_CLK_STATUS.ROOT_LOCK = 0 ∧ t.chip.get Reg.HUB_CLK_STATUS.LOCK_LOST = 1 ∧ t.chip.get Reg.TIME_STATUS.VALID = 0
      ∧ t.chip.fatalErr = true ∧ t.chip.clk.needRecon = true ∧ t.chip.clk.reconCause = 2
      ∧ OnlyFields { s.chip with clk := t.chip.clk, fatalErr := true } t.chip
          [Reg.HUB_CLK_STATUS.ROOT_LOCK, Reg.HUB_CLK_STATUS.LOCK_LOST, Reg.TIME_STATUS.VALID])
  ∧ (∀ (s : State) (w : Who) (d : Fin 12) (req : BitVec 10), s.chip.writeRuns w (Reg.HUB_CORE_DIV.REQ d.val).off = true →
    ∃ t, exec (.coreDivReq w d req) s = .next t ∧ t.pending = s.pending
      ∧ (∀ cl : Fin 5, bits (t.chip.get (Reg.HUB_CORE_DIV.REQ d.val)) (2 * cl.val) 2
          = if s.chip.cluPresent d.val cl.val then bits req.toNat (2 * cl.val) 2 else bits (s.chip.get (Reg.HUB_CORE_DIV.REQ d.val)) (2 * cl.val) 2)
      ∧ WroteOnly { s.chip with clk := t.chip.clk } t.chip w (Reg.HUB_CORE_DIV.REQ d.val).off
          [Reg.HUB_CORE_DIV.REQ d.val, Reg.HUB_CORE_DIV.BUSY d.val])
  ∧ (∀ (s : State) (d : Fin 12) (cl : Fin 5), s.chip.halted = false → s.chip.bitOf (Reg.HUB_CORE_DIV.BUSY d.val) cl.val = true →
    ∃ t, exec (.ratioChangeDone d cl) s = .next t ∧ t.pending = s.pending
      ∧ bits (t.chip.get (Reg.HUB_CORE_DIV.CUR d.val)) (2 * cl.val) 2 = SMap.getD s.chip.clk.ratioTarget (5 * d.val + cl.val) 3 % 4
      ∧ OnlyFields { s.chip with clk := t.chip.clk } t.chip [Reg.HUB_CORE_DIV.CUR d.val, Reg.HUB_CORE_DIV.BUSY d.val])

/-- TIME (R43, R46, R47, R49): a tick adds to TIME, or gives it an accepted load; a crystal edge counts and, while TIME runs, latches the
snapshot; a complete calibration window gives PERIOD; TIME_LOAD is accepted forward of TIME at the write and refused otherwise; a restart
computes TIME from the snapshot and the crystal's count. TIME between two tick edges is R43's, at a moment that no command names: a free value
(log 68). -/
def Obligations.TimeCounts : Prop :=
  (∀ s : State, s.chip.halted = false → s.chip.on Reg.TIME_STATUS.VALID = true → s.chip.on Reg.SEC_WDOG_CTRL.EN = false →
    ∃ t, exec .timeTick s = .next t ∧ t.pending = s.pending
      ∧ t.chip.time = (match s.chip.clk.pendingLoad with
          | some v => v
          | none => s.chip.time + s.chip.clk.inc + s.chip.clk.stepBy) % 2 ^ 64
      ∧ t.chip.clk.pendingLoad = none ∧ t.chip.clk.stepBy = 0 ∧ t.chip.clk.phase = (s.chip.clk.phase + 1) % 16
      ∧ t.chip.clk.inc = (if (s.chip.clk.phase + 1) % 16 = 15 then (match s.chip.clk.slew with | .none => 10 | .up => 11 | .down => 9) else 10)
      ∧ OnlyFields { s.chip with clk := t.chip.clk, nrg := t.chip.nrg } t.chip [Reg.TIME_NOW.VALUE])
  ∧ (∀ s : State, s.chip.pwr.aonOk = true → s.chip.pwr.asleep = false → s.chip.entering = false → s.chip.on Reg.TIME_STATUS.VALID = true →
    ∃ t, exec .crystalEdge s = .next t ∧ t.pending = s.pending
      ∧ t.chip.get Reg.TIME_AO_COUNT.COUNT = (s.chip.get Reg.TIME_AO_COUNT.COUNT + 1) % 2 ^ 48
      ∧ t.chip.get Reg.TIME_AO_SNAP_COUNT.COUNT = (s.chip.get Reg.TIME_AO_COUNT.COUNT + 1) % 2 ^ 48
      ∧ t.chip.get Reg.TIME_AO_SNAP_TIME.TIME = s.chip.timeNow.1 % 2 ^ 64
      ∧ OnlyFields { s.chip with clk := t.chip.clk, pwr := t.chip.pwr, free := t.chip.free } t.chip
          [Reg.TIME_AO_COUNT.COUNT, Reg.TIME_AO_SNAP_COUNT.COUNT, Reg.TIME_AO_SNAP_TIME.TIME])
  ∧ (∀ (s : State) (p : BitVec 49), s.chip.halted = false → s.chip.on Reg.TIME_STATUS.VALID = true →
      s.chip.clk.calOpen = true → 2 ^ s.chip.clk.calLen ≤ s.chip.clk.calEdges →
    ∃ t, exec (.calibrationWindowEnd p) s = .next t ∧ t.pending = s.pending
      ∧ t.chip.get Reg.TIME_AO_PERIOD.PERIOD = p.toNat ∧ t.chip.get Reg.TIME_AO_PERIOD.VALID = 1 ∧ t.chip.clk.calEdges = 0
      ∧ OnlyFields { s.chip with clk := t.chip.clk } t.chip [Reg.TIME_AO_PERIOD.PERIOD, Reg.TIME_AO_PERIOD.VALID])
  ∧ (∀ (s : State) (w : Who) (v : Word), s.chip.writeRuns w Reg.TIME_LOAD.VALUE.off = true → s.chip.get Reg.TIME_CL_STATUS.STATE = 0 →
    ∃ t, exec (.timeLoad w v) s = .next t ∧ t.pending = s.pending
      ∧ (s.chip.timeNow.1 < v.toNat → t.chip.clk.pendingLoad = some v.toNat
          ∧ WroteOnly { s.chip with clk := t.chip.clk, free := t.chip.free } t.chip w Reg.TIME_LOAD.VALUE.off [])
      ∧ (v.toNat ≤ s.chip.timeNow.1 → t.chip.get Reg.TIME_STATUS.LOAD_REFUSED = 1 ∧ t.chip.clk.pendingLoad = s.chip.clk.pendingLoad
          ∧ WroteOnly { s.chip with clk := t.chip.clk, free := t.chip.free } t.chip w Reg.TIME_LOAD.VALUE.off [Reg.TIME_STATUS.LOAD_REFUSED]))
  ∧ (∀ s : State, s.chip.halted = false → s.chip.clk.needRecon = true → s.chip.relocked = true → s.chip.clk.atEdge = true →
      s.chip.fatalErr = false →
    ∃ t, exec .timeRestart s = .next t ∧ t.pending = s.pending
      ∧ t.chip.time = (s.chip.get Reg.TIME_AO_SNAP_TIME.TIME
          + (((s.chip.get Reg.TIME_AO_COUNT.COUNT + 2 ^ 48 - s.chip.get Reg.TIME_AO_SNAP_COUNT.COUNT) % 2 ^ 48)
              * s.chip.get Reg.TIME_AO_PERIOD.PERIOD + 2 ^ 31) / 2 ^ 32) % 2 ^ 64
      ∧ t.chip.get Reg.TIME_STATUS.VALID = 1 ∧ t.chip.get Reg.TIME_STATUS.RECON = 1
      ∧ t.chip.get Reg.TIME_STATUS.CAUSE = s.chip.clk.reconCause % 4 ∧ t.chip.clk.needRecon = false
      ∧ OnlyFields { s.chip with clk := t.chip.clk, sec := t.chip.sec } t.chip
          [Reg.TIME_NOW.VALUE, Reg.TIME_UNCERTAINTY.LAST, Reg.TIME_UNCERTAINTY.ACCUM, Reg.TIME_STATUS.RECON, Reg.TIME_STATUS.CAUSE,
           Reg.TIME_STATUS.VALID, Reg.SEC_WDOG_STATUS.REMAIN, Reg.SEC_WDOG_STATUS.STAGE])

/-- Chainline (R51, R53): a root that is switched on is LOCKED with HOPS 0; switched off, Chainline is OFF and knows nothing of its ports; a
symbol sent records its time and carries the package's number, state, HOPS and TIME, and a symbol that arrives completes an exchange, of which a
port keeps the last 16, once each end has received a symbol of the other. -/
def Obligations.ChainlineRuns : Prop :=
  (∀ (s : State) (w : Who) (v : Word), s.chip.writeRuns w Reg.TIME_CL_CTRL.EN.off = true → s.chip.on Reg.TIME_CL_CTRL.EN = false →
      s.chip.clk.fresh = false → bits v.toNat 1 3 = s.chip.pkg →
    ∃ t, exec (.chainlineEnable w v) s = .next t ∧ t.pending = s.pending
      ∧ t.chip.get Reg.TIME_CL_CTRL.EN = 1 ∧ t.chip.get Reg.TIME_CL_CTRL.ROOT = s.chip.pkg
      ∧ t.chip.get Reg.TIME_CL_STATUS.STATE = clLocked ∧ t.chip.get Reg.TIME_CL_STATUS.HOPS = 0
      ∧ WroteOnly { s.chip with clk := t.chip.clk } t.chip w Reg.TIME_CL_CTRL.EN.off
          [Reg.TIME_CL_CTRL.EN, Reg.TIME_CL_CTRL.ROOT, Reg.TIME_CL_CTRL.INTERVAL, Reg.TIME_CL_CTRL.PORT_EN, Reg.TIME_CL_CTRL.ERR_THRESH,
           Reg.TIME_CL_STATUS.STATE, Reg.TIME_CL_STATUS.HOPS, Reg.TIME_CL_STATUS.SRC_PORT])
  ∧ (∀ (s : State) (w : Who) (v : Word), s.chip.writeRuns w Reg.TIME_CL_CTRL.EN.off = true →
    ∃ t, exec (.chainlineDisable w v) s = .next t ∧ t.pending = s.pending
      ∧ t.chip.get Reg.TIME_CL_CTRL.EN = 0 ∧ t.chip.get Reg.TIME_CL_STATUS.STATE = clOff ∧ t.chip.clk.ports = [] ∧ t.chip.clk.slew = .none
      ∧ WroteOnly { s.chip with clk := t.chip.clk } t.chip w Reg.TIME_CL_CTRL.EN.off
          [Reg.TIME_CL_CTRL.EN, Reg.TIME_CL_CTRL.ROOT, Reg.TIME_CL_CTRL.INTERVAL, Reg.TIME_CL_CTRL.PORT_EN, Reg.TIME_CL_CTRL.ERR_THRESH,
           Reg.TIME_CL_STATUS.STATE, Reg.TIME_CL_STATUS.HOPS, Reg.TIME_CL_STATUS.SRC_PORT])
  ∧ (∀ (s : State) (p : Fin 6) (sub : Nat), s.chip.halted = false → s.chip.get Reg.TIME_CL_STATUS.STATE ≠ clOff →
      s.chip.bitOf Reg.TIME_CL_CTRL.PORT_EN p.val = true → s.chip.clCarries p.val = true →
    ∃ t, exec (.alignmentSymbolSend p sub) s = .next t ∧ t.pending = s.pending
      ∧ SMap.get? (t.chip.clPort p.val).t1 (s.chip.clPort p.val).sent = some ((16 * s.chip.time + sub) % 2 ^ 68) ∧ (t.chip.clPort p.val).hist = (s.chip.clPort p.val).hist
      ∧ t.chip.clk.sent = s.chip.clk.sent ++ [(p.val, ⟨s.chip.pkg, s.chip.get Reg.TIME_CL_STATUS.STATE,
          s.chip.get Reg.TIME_CL_STATUS.HOPS, (s.chip.clPort p.val).rx.map (·.2), (16 * s.chip.time + sub) % 2 ^ 68,
          (s.chip.clPort p.val).sent, ((s.chip.clPort p.val).rx.map (·.1)).getD 0⟩)]
      ∧ OnlyFields { s.chip with clk := t.chip.clk } t.chip [])
  ∧ (∀ (s : State) (p : Fin 6) (y : AlignSym) (sub : Nat), s.chip.halted = false → s.chip.get Reg.TIME_CL_STATUS.STATE = clLocked →
      s.chip.get Reg.TIME_CL_CTRL.ROOT = s.chip.pkg → s.chip.get Reg.TIME_CL_STATUS.SRC_PORT = 7 →
      s.chip.bitOf Reg.TIME_CL_CTRL.PORT_EN p.val = true → s.chip.clCarries p.val = true →
    ∃ t, exec (.alignmentSymbolReceive p y sub) s = .next t ∧ t.pending = s.pending
      ∧ (∀ t1 t2, SMap.get? (s.chip.clPort p.val).t1 y.echo = some t1 → y.t2 = some t2 →
          (t.chip.clPort p.val).hist = (exchange t1 t2 y.t3 ((16 * s.chip.time + sub) % 2 ^ 68)
            (toSigned 16 (s.chip.get (Reg.TIME_CL_ASYM.ASYM p.val))) :: (s.chip.clPort p.val).hist).take 16)
      ∧ (SMap.get? (s.chip.clPort p.val).t1 y.echo = none ∨ y.t2 = none → (t.chip.clPort p.val).hist = (s.chip.clPort p.val).hist)
      ∧ (t.chip.clPort p.val).rx = some (y.seq, (16 * s.chip.time + sub) % 2 ^ 68) ∧ (t.chip.clPort p.val).seen = true ∧ t.chip.get Reg.TIME_CL_STATUS.STATE = clLocked)

/-- Line accesses (R33, R69, R151, R153, R182, R327): a load that hits a line of the L2 that serves its key takes its data on the way to the
L1; a reported miss is recorded for its context; an access that no copy of its die serves becomes a request of its L3 slice to the home, of the
type that its kind needs; a fill that reaches the L1 ends the access with its data; a retried fill is that fill. -/
def Obligations.LineAccessesMoveThroughCaches : Prop :=
  (∀ (s : State) (op : Nat) (o : LineOp) (k : Nat) (q : CLine), s.chip.halted = false → s.chip.opOf op = some o → o.ctx < 960 → o.stage = .toL2 →
      o.kind = .load → o.lmq ≠ .waits → s.chip.l2On (cluIx o.ctx) = true → s.chip.l2Find (cluIx o.ctx) o.line = some (k, q) → q.flaw = 0 →
      q.serves o.tenant o.secure AKind.load.needs = true →
    ∃ t, exec (.l2Request op 0) s = .next t ∧ t.pending = s.pending
      ∧ t.chip.opOf op = some { o with res := some q.ld, rights := q.rights, src := 2, stage := .l1Fill }
      ∧ t.chip.coh.l2 = SMap.set s.chip.coh.l2 k { q with age := 0 }
      ∧ CountedOnly { s.chip with coh := { s.chip.coh with ops := t.chip.coh.ops, l2 := t.chip.coh.l2, l2Same := t.chip.coh.l2Same } } t.chip [])
  ∧ (∀ (s : State) (op : Nat) (o : LineOp), s.chip.halted = false → s.chip.opOf op = some o → o.missed = true → o.reported = false →
      o.kind = .load → o.stage = .toL3 →
    ∃ t, exec (.l2MissReport op) s = .next t ∧ t.pending = s.pending
      ∧ t.chip.opOf op = some { o with reported := true } ∧ op ∈ (t.chip.ctxOf o.ctx).missOps
      ∧ SameMemory s.chip t.chip ∧ t.chip.coh.l2 = s.chip.coh.l2 ∧ t.chip.coh.l3 = s.chip.coh.l3)
  ∧ (∀ (s : State) (op : Nat) (o : LineOp), s.chip.halted = false → s.chip.opOf op = some o → o.ctx < 960 → o.stage = .toL3 →
      s.chip.l3Busy (ctxDie o.ctx) o.line = false → s.chip.l3Find (ctxDie o.ctx) o.line = none → s.chip.ratioBusy (cluIx o.ctx) = false →
      (s.chip.l3Idx (20 * ctxDie o.ctx + l3Slice (64 * o.line))).isSome = true → (∀ cl < 5, s.chip.l2Find (5 * ctxDie o.ctx + cl) o.line = none) →
    ∃ t r, exec (.l3Request op 0) s = .next t ∧ t.pending = s.pending
      ∧ t.chip.coh.l3reqs = s.chip.coh.l3reqs ++ [r] ∧ r.line = o.line ∧ r.op = op ∧ r.slice = 20 * ctxDie o.ctx + l3Slice (64 * o.line)
      ∧ r.typ = (if o.kind.owns then (if o.whole then tClaim else tRdX) else tRdS)
      ∧ (∃ m, (t.chip.spkOf (ctxDie o.ctx)).up = (s.chip.spkOf (ctxDie o.ctx)).up ++ [m] ∧ m.cls = clsReq ∧ m.typ = r.typ ∧ m.line = o.line
          ∧ m.tenant = o.tenant ∧ m.secure = o.secure ∧ m.dstPkg = homePkg o.line)
      ∧ CountedOnly { s.chip with coh := { s.chip.coh with ops := t.chip.coh.ops, l3reqs := t.chip.coh.l3reqs }, spk := t.chip.spk } t.chip [])
  ∧ (∀ (s : State) (op : Nat) (o : LineOp) (k : Nat) (q : CLine) (c1 : Chip), s.chip.halted = false → s.chip.opOf op = some o →
      o.stage = .l1Fill → o.kind = .load → s.chip.l2On (cluIx o.ctx) = true → s.chip.l2Find (cluIx o.ctx) o.line = some (k, q) → q.flaw = 0 →
      q.serves o.tenant o.secure AKind.load.needs = true →
      s.chip.l1Fill false (coreIx o.ctx) { q with age := 0, st := .s, flaw := 0 } = some c1 →
    ∀ i ∈ [Instr.lineFill op, .fillRetry 0 op], ∃ t, exec i s = .next t ∧ t.pending = s.pending
      ∧ t.chip.opOf op = some { o with res := some q.ld, stage := .ready } ∧ t.chip.coh.l1d = c1.coh.l1d
      ∧ t.chip.coh.l2 = s.chip.coh.l2 ∧ t.chip.coh.l3 = s.chip.coh.l3 ∧ SameMemory s.chip t.chip)

/-- Snoops at a die (R186, R187): a die that holds no copy of the line, and has no request or writeback of it under way, answers each of the
five snoops with MISS under the snoop's tag; a die whose L3 holds the line in S, with no ratio change of a cluster that holds it, gives it up to SNP_INV
and answers ACK_I. Taking the snoop frees its buffer. -/
def Obligations.SnoopsAreAnswered : Prop :=
  (∀ (s : State) (d : Fin 12) (m : Msg) (c1 : Chip), s.chip.halted = false → ∀ p ∈ [(Instr.snpS d, tSnpS), (.snpInv d, tSnpInv), (.snpInvNd d, tSnpInvNd),
      (.snpCur d, tSnpCur), (.snpClean d, tSnpClean)],
      s.chip.takeDie d.val (fun m => m.cls == clsSnp && m.typ == p.2) = some (m, c1) →
      s.chip.l3Find d.val m.line = none → (∀ cl < 5, s.chip.l2Find (5 * d.val + cl) m.line = none) →
      s.chip.l3Busy d.val m.line = false →
    ∃ t r, exec p.1 s = .next t ∧ t.pending = s.pending
      ∧ (t.chip.spkOf d.val).up = (s.chip.spkOf d.val).up ++ [r] ∧ r.cls = clsRsp ∧ r.typ = tMiss ∧ r.line = m.line ∧ r.tag = m.tag
      ∧ CountedOnly { c1 with spk := t.chip.spk } t.chip [])
  ∧ (∀ (s : State) (d : Fin 12) (m : Msg) (k : Nat) (l : CLine) (c1 : Chip), s.chip.halted = false →
      s.chip.takeDie d.val (fun m => m.cls == clsSnp && m.typ == tSnpInv) = some (m, c1) →
      s.chip.l3Find d.val m.line = some (k, l) → l.st = .s → l.flaw = 0 → (∀ cl < 5, s.chip.l2Find (5 * d.val + cl) m.line = none) →
      s.chip.l3Busy d.val m.line = false → s.chip.ratioHeld d.val m.line = false →
    ∃ t r, exec (.snpInv d) s = .next t ∧ t.pending = s.pending
      ∧ SMap.get? t.chip.coh.l3 k = none
      ∧ (t.chip.spkOf d.val).up = (s.chip.spkOf d.val).up ++ [r] ∧ r.cls = clsRsp ∧ r.typ = tAckI ∧ r.line = m.line ∧ r.tag = m.tag
      ∧ CountedOnly { c1 with coh := { c1.coh with l3 := t.chip.coh.l3 }, spk := t.chip.spk } t.chip [])

/-- The home's requests (R183, R184): for a line with no directory entry that the hub cache holds sound, RD_S is answered with the data and
state E, RD_X and an UPG that cannot be one with the data and state M, CLAIM with GRANT, each registering the requester's cluster as the owner;
RD_NC is answered with the data and no state, registering nothing; a whole-line WR_NC puts its data into the hub cache and is answered with
GRANT. The transaction is then done. -/
def Obligations.HomeServesUnheldLine : Prop :=
  ∀ (s : State) (line : BitVec 46) (m : Msg) (q : List Msg) (k : Nat) (l : CLine), s.chip.halted = false → s.chip.lineBusy line.toNat = false →
    takeMsg (fun m => m.line == line.toNat) s.chip.coh.homeQ = some (m, q) → m.line = line.toNat → m.cls = clsReq →
    (s.chip.homeTake m.typ line.toNat).isSome = true →
    s.chip.dirFind line.toNat = none → s.chip.dirFull line.toNat = false → s.chip.hcWaitOf line.toNat = none →
    s.chip.hcFind line.toNat = some (k, l) → l.ld.poison = false → l.flaw = 0 →
    agPkg m.agent = s.chip.pkg → agDie m.agent < 12 → s.chip.fencedDie s.chip.pkg (agDie m.agent) = false →
    (∀ p ∈ [(Instr.rdS line 0, tRdS, grantE), (.rdX line, tRdX, grantM), (.upg line, tUpg, grantM)], m.typ = p.2.1 →
      ∃ t r, exec p.1 s = .next t ∧ t.pending = s.pending
        ∧ (t.chip.spkOf (agDie m.agent)).dn = (s.chip.spkOf (agDie m.agent)).dn ++ [r]
        ∧ r.cls = clsDat ∧ r.line = line.toNat ∧ r.tag = m.tag ∧ r.aux % 4 = p.2.2 ∧ r.data = some l.ld.data ∧ r.poison = false
        ∧ (t.chip.dirEnt line.toNat).st = dX ∧ (t.chip.dirEnt line.toNat).ptrs = [cluOf m.agent]
        ∧ t.chip.coh.homeQ = q ∧ (∃ x, t.chip.txOf line.toNat = some x ∧ x.done = true) ∧ SameMemory s.chip t.chip)
    ∧ (m.typ = tClaim →
      ∃ t r, exec (.claim line) s = .next t ∧ t.pending = s.pending
        ∧ (t.chip.spkOf (agDie m.agent)).dn = (s.chip.spkOf (agDie m.agent)).dn ++ [r]
        ∧ r.cls = clsRsp ∧ r.typ = tGrant ∧ r.line = line.toNat ∧ r.tag = m.tag
        ∧ (t.chip.dirEnt line.toNat).st = dX ∧ (t.chip.dirEnt line.toNat).ptrs = [cluOf m.agent]
        ∧ t.chip.coh.homeQ = q ∧ (∃ x, t.chip.txOf line.toNat = some x ∧ x.done = true) ∧ SameMemory s.chip t.chip)
    ∧ (m.typ = tRdNc →
      ∃ t r, exec (.rdNc line) s = .next t ∧ t.pending = s.pending
        ∧ (t.chip.spkOf (agDie m.agent)).dn = (s.chip.spkOf (agDie m.agent)).dn ++ [r]
        ∧ r.cls = clsDat ∧ r.line = line.toNat ∧ r.tag = m.tag ∧ r.aux % 4 = 0 ∧ r.data = some l.ld.data ∧ r.poison = false
        ∧ t.chip.coh.dir = s.chip.coh.dir
        ∧ t.chip.coh.homeQ = q ∧ (∃ x, t.chip.txOf line.toNat = some x ∧ x.done = true) ∧ SameMemory s.chip t.chip)
    ∧ (m.typ = tWrNc → m.mask = none →
      ∃ t r, exec (.wrNc line) s = .next t ∧ t.pending = s.pending
        ∧ (t.chip.spkOf (agDie m.agent)).dn = (s.chip.spkOf (agDie m.agent)).dn ++ [r]
        ∧ r.cls = clsRsp ∧ r.typ = tGrant ∧ r.line = line.toNat ∧ r.tag = m.tag
        ∧ SMap.get? t.chip.coh.hc k = some { l with ld := m.ld, st := .m, yrw := m.yrw, age := 0 } ∧ t.chip.coh.dir = s.chip.coh.dir
        ∧ t.chip.coh.homeQ = q ∧ (∃ x, t.chip.txOf line.toNat = some x ∧ x.done = true) ∧ SameMemory s.chip t.chip)

/-- Ends of transactions (R184, R188, R190, R192): a retried request goes back in front of its home's queue once a way of its set can be taken;
a transaction whose answer is sent and whose writes are accepted closes; a WB_DIRTY of the owner puts its data into the hub cache, and it and an EVICT_CLEAN end the owner's
registration, each with a WBK_ACK; a cache frees its buffer at the acknowledgement. -/
def Obligations.TransactionsEnd : Prop :=
  (∀ (s : State) (line : BitVec 46) (m : Msg) (q : List Msg) (w : Nat), s.chip.halted = false →
      takeMsg (fun m => m.line == line.toNat) s.chip.coh.retryQ = some (m, q) → w < 16 → SMap.get? s.chip.coh.dir (dirBase line.toNat + w) = none →
    exec (.reqRetry line) s
      = .next { s with chip := { s.chip with coh := { s.chip.coh with retryQ := q, homeQ := m :: s.chip.coh.homeQ } } })
  ∧ (∀ (s : State) (line : BitVec 46) (x : Tx), s.chip.halted = false → s.chip.txOf line.toNat = some x → x.done = true → x.victim = false →
      s.chip.writeOpen x = false → s.chip.coh.range = none →
    ∃ t, exec (.transactionClose line) s = .next t ∧ t.pending = s.pending ∧ t.chip.txOf line.toNat = none
      ∧ (∀ l, l ≠ line.toNat → t.chip.txOf l = s.chip.txOf l)
      ∧ t.chip = { s.chip with coh := { s.chip.coh with txs := t.chip.coh.txs } })
  ∧ (∀ (s : State) (line : BitVec 46) (m : Msg) (q : List Msg) (k d : Nat) (l : CLine) (e : DirEnt), s.chip.halted = false → m.line = line.toNat →
      s.chip.coh.evTags = [] → s.chip.txOpenOn line.toNat = false → s.chip.dirFind line.toNat = some (d, e) → e.st = dX →
      e.ptrs = [cluOf m.agent] → s.chip.hcFind line.toNat = some (k, l) → l.flaw = 0 → m.old = false → s.chip.buffered line.toNat = true →
      agPkg m.agent = s.chip.pkg → agDie m.agent < 12 → s.chip.fencedDie s.chip.pkg (agDie m.agent) = false →
    ∀ p ∈ [(Instr.wbDirty line, 0), (.evictClean line, 1)],
      takeMsg (fun m => m.cls == clsWbk && m.typ == p.2 && m.line == line.toNat) s.chip.coh.homeQ = some (m, q) →
      ∃ t r, exec p.1 s = .next t ∧ t.pending = s.pending
        ∧ (t.chip.spkOf (agDie m.agent)).dn = (s.chip.spkOf (agDie m.agent)).dn ++ [r]
        ∧ r.cls = clsRsp ∧ r.typ = tWbkAck ∧ r.line = line.toNat ∧ r.tag = m.tag
        ∧ SMap.get? t.chip.coh.dir d = none ∧ t.chip.coh.homeQ = q
        ∧ SMap.get? t.chip.coh.hc k = (if p.2 = 0 then some { l with ld := m.ld, st := .m, yrw := m.yrw, age := 0 } else SMap.get? s.chip.coh.hc k)
        ∧ SameMemory s.chip t.chip)
  ∧ (∀ (s : State) (d : Fin 12) (m : Msg) (c1 : Chip), s.chip.halted = false →
      s.chip.takeDie d.val (fun m => m.cls == clsRsp && m.typ == tWbkAck) = some (m, c1) →
    ∃ t, exec (.wbkAck d) s = .next t ∧ t.pending = s.pending
      ∧ (∀ w ∈ t.chip.coh.l3wbs, ¬ (w.slice = 20 * d.val + m.tag / 128 ∧ w.idx = m.tag % 128))
      ∧ t.chip = { c1 with coh := { c1.coh with l3wbs := t.chip.coh.l3wbs, drains := t.chip.coh.drains } })

/-- Answers to snoops (R186, R188, R193): while more snoops of the transaction are out, ACK_I and MISS take theirs off and note that the die holds
nothing, ACK_S takes its own off, and IN_EVICT leaves its tag for the writeback to come; a foreign broadcast snoop goes to every die that may hold
the line and waits for each. -/
def Obligations.AnswersReachTheirTransaction : Prop :=
  (∀ (s : State) (m : Msg) (x : Tx) (c1 : Chip), s.chip.halted = false → s.chip.fromFenced m = false → s.chip.ownLine m.line = true →
      s.chip.txOf m.line = some x → x.snoops.any (snoopFrom m.agent) = true → x.snoops.all (snoopFrom m.agent) = false →
    ∀ p ∈ [(Instr.ackI, tAckI, true), (.ackS, tAckS, false), (.miss, tMiss, true)],
      s.chip.takeHub (fun m => m.cls == clsRsp && m.typ == p.2.1) = some (m, c1) →
      ∃ t, exec p.1 s = .next t ∧ t.pending = s.pending
        ∧ t.chip.txOf m.line = some { x with snoops := x.snoops.filter (fun n => !snoopFrom m.agent n),
                                             lost := if p.2.2 then cluOf m.agent :: x.lost else x.lost }
        ∧ t.chip = { c1 with coh := { c1.coh with txs := t.chip.coh.txs } })
  ∧ (∀ (s : State) (m : Msg) (x : Tx) (c1 : Chip), s.chip.halted = false → s.chip.fromFenced m = false → s.chip.ownLine m.line = true → m.dirty = false →
      s.chip.txOf m.line = some x → x.snoops.any (snoopFrom m.agent) = true → x.snoops.all (snoopFrom m.agent) = false →
      s.chip.coh.homeQ = [] → s.chip.coh.evTags.any (isTag m.line m.agent m.aux) = false →
      s.chip.takeHub (fun n => n.cls == clsRsp && n.typ == tInEvict) = some (m, c1) →
    ∃ t, exec .inEvict s = .next t ∧ t.pending = s.pending
      ∧ t.chip.coh.evTags = s.chip.coh.evTags ++ [(m.line, cluOf m.agent, m.aux)]
      ∧ t.chip.txOf m.line = some { x with snoops := x.snoops.filter (fun n => !snoopFrom m.agent n), lost := cluOf m.agent :: x.lost }
      ∧ t.chip = { c1 with coh := { c1.coh with txs := t.chip.coh.txs, evTags := t.chip.coh.evTags } })
  ∧ (∀ (s : State) (m : Msg) (d : Nat) (c1 : Chip), s.chip.halted = false → s.chip.takeHub (fun m => m.cls == clsSnp) = some (m, c1) → d < 12 →
      s.chip.diePresent d = true → s.chip.fencedDie s.chip.pkg d = false → sameDie (mkClu s.chip.pkg d 0) (m.aux % 1024) = false →
    ∃ t f, exec .broadcastSnoopFanout s = .next t ∧ t.pending = s.pending
      ∧ t.chip.coh.fans = s.chip.coh.fans ++ [f] ∧ f.msg = m ∧ d ∈ f.dies ∧ f.sentAt = s.chip.time
      ∧ (∃ l r, (t.chip.spkOf d).dn = l ++ [r] ∧ l = (s.chip.spkOf d).dn ∧ r.cls = clsSnp ∧ r.typ = m.typ ∧ r.line = m.line ∧ r.tag = m.tag)
      ∧ t.chip = { c1 with coh := { c1.coh with fans := t.chip.coh.fans }, spk := t.chip.spk })

/-- Fences (R193 to R198, R460): a package whose broadcast snoop or answer stays away is fenced and recorded; a DEAD answer fences the die it names;
an undelivered request ends in poison; FENCE sets the named die's bit and UNFENCE clears it; the entry of a line drops the dies that are fenced; a
die silent in a fan-out is reported DEAD to the line's home. -/
def Obligations.DeadTargetsAreFenced : Prop :=
  (∀ (s : State) (line : BitVec 46) (n : Nat) (x : Tx) (sn : Snoop), s.chip.halted = false → s.chip.txOf line.toNat = some x →
      x.snoops[n]? = some sn → 2 ≤ x.snoops.length → sn.isPkg = true → sn.tgt < 8 → x.poisoned = true → s.chip.on (Reg.DIR_DEAD_ADDR.VALID 0) = false →
      s.chip.fencedPkg sn.tgt = false → s.chip.coh.away = [] → s.chip.heldFor sn.tgt = [] →
    ∃ t, exec (.snoopTimeout line n) s = .next t ∧ t.pending = s.pending
      ∧ t.chip.fencedPkg sn.tgt = true ∧ t.chip.on (Reg.DIR_DEAD_ADDR.VALID 0) = true)
  ∧ (∀ (s : State) (m : Msg) (x : Tx) (sn : Snoop), s.chip.halted = false → (s.chip.takeHub (fun m => m.cls == clsRsp && m.typ == tDead)).map (·.1) = some m →
      s.chip.fromFenced m = false → s.chip.txOf m.line = some x → x.snoops.find? (snoopFrom m.agent) = some sn → 2 ≤ x.snoops.length → sn.isPkg = false →
      x.poisoned = true → cluPkg (m.aux % 1024) ≠ s.chip.pkg → cluDie (m.aux % 1024) < 12 →
    ∃ t, exec .dead s = .next t ∧ t.pending = s.pending
      ∧ t.chip.bitOf (Reg.DIR_FENCE.DIE 0 (cluPkg (m.aux % 1024))) (cluDie (m.aux % 1024)) = true)
  ∧ (∀ (s : State) (n : Nat) (f : Fan) (d : Nat), s.chip.halted = false → s.chip.coh.fans[n]? = some f → f.dies = [d] →
    exec (.fwdTimeout n) s = .next { s with chip :=
      (({ s.chip with coh := { s.chip.coh with fans := s.chip.coh.fans.eraseIdx n } } : Chip).sendMsg
        { Msg.mk0 clsRsp tDead f.msg.line with
          tag := f.msg.tag, agent := s.chip.tableAgent, tenant := f.msg.tenant, secure := f.msg.secure, aux := mkClu s.chip.pkg d 0,
          dstPkg := homePkg f.msg.line, dstDie := 12 }) })
  ∧ (∀ (s : State) (n : Nat) (a : Away), s.chip.halted = false → s.chip.coh.away[n]? = some a → a.delivered = false → a.msg.cls = clsReq →
      agPkg a.msg.agent = s.chip.pkg → agDie a.msg.agent < 12 → s.chip.fencedDie s.chip.pkg (agDie a.msg.agent) = false →
    ∃ t, exec (.deliveryTimeout n) s = .next t ∧ t.pending = s.pending
      ∧ t.chip.coh.away = s.chip.coh.away.eraseIdx n
      ∧ (t.chip.spkOf (agDie a.msg.agent)).dn = (s.chip.spkOf (agDie a.msg.agent)).dn ++ [poisonDat a.msg]
      ∧ OnlyFields { s.chip with coh := t.chip.coh, spk := t.chip.spk, rg := t.chip.rg } t.chip
          [Reg.REG_ENT.LAT (s.chip.entOf a.msg.agent a.msg.master)])
  ∧ (∀ (s : State) (n : Nat) (a : Away), s.chip.halted = false → s.chip.coh.away = [a] → n = 0 → a.delivered = true → a.msg.cls = clsReq →
      agPkg a.msg.agent = s.chip.pkg → 12 ≤ agDie a.msg.agent → s.chip.heldFor a.pkg = [] → a.pkg < 8 → s.chip.on (Reg.DIR_DEAD_ADDR.VALID 0) = false →
    ∃ t, exec (.answerTimeout n) s = .next t ∧ t.pending = s.pending
      ∧ t.chip.coh.away = [] ∧ t.chip.fencedPkg a.pkg = true ∧ t.chip.get (Reg.DIR_DEAD_SRC.PKG 0) = a.pkg)
  ∧ (∀ (s : State) (m : Msg), s.chip.halted = false → cluPkg m.aux ≠ s.chip.pkg → cluDie m.aux < 12 →
      (s.chip.takeHub (fun m => m.cls == clsRsp && m.typ == tFence)).map (·.1) = some m →
    ∃ t, exec .fence s = .next t ∧ t.pending = s.pending ∧ t.chip.bitOf (Reg.DIR_FENCE.DIE 0 (cluPkg m.aux)) (cluDie m.aux) = true
      ∧ SameMemory s.chip t.chip ∧ t.chip.coh.txs = s.chip.coh.txs ∧ t.chip.coh.dir = s.chip.coh.dir)
  ∧ (∀ (s : State) (m : Msg), s.chip.halted = false → cluPkg m.aux ≠ s.chip.pkg → cluDie m.aux < 12 →
      (s.chip.takeHub (fun m => m.cls == clsRsp && m.typ == tUnfence && (cluPkg m.aux == s.chip.pkg || !s.chip.dirNames (cluPkg m.aux) (cluDie m.aux)))).map (·.1)
        = some m →
    ∃ t, exec .unfence s = .next t ∧ t.pending = s.pending ∧ t.chip.bitOf (Reg.DIR_FENCE.DIE 0 (cluPkg m.aux)) (cluDie m.aux) = false
      ∧ SameMemory s.chip t.chip ∧ t.chip.coh.txs = s.chip.coh.txs ∧ t.chip.coh.dir = s.chip.coh.dir)
  ∧ (∀ (s : State) (line : BitVec 46) (k : Nat) (e : DirEnt), s.chip.halted = false → s.chip.dirFind line.toNat = some (k, e) →
      s.chip.namesFenced e = true → s.chip.lineBusy line.toNat = false → s.chip.ownerFenced e = false → (∀ d < 12, (s.chip.spkOf d).rejoin = 0) →
    exec (.fenceSettle line) s = .next { s with chip := s.chip.dirPut { e with ptrs := s.chip.livePtrs e }.norm })

/-- Range operations and the directory probe (R161, R163, R200): a command over a legal range starts at its first line and clears the counts, one over
any other is refused; the home takes the next line of the running operation, of a line nobody holds there is nothing to write; DIR_PROBE reports
whether a line's entry exists, and that a line of another slice is BAD. -/
def Obligations.RangeOperationsWalk : Prop :=
  (∀ (s : State) (w : Who), s.chip.writeRuns w Reg.HC_RANGE_CMD.OP.off = true → s.chip.on Reg.HC_RANGE_STATUS.BUSY = false →
    ∀ p ∈ [(Instr.rangeClean w, 1), (.rangeFlush w, 2), (.rangeInval w, 3)],
      ∃ t, exec p.1 s = .next t ∧ t.pending = s.pending
        ∧ (s.chip.rangeOk (s.chip.get Reg.HC_RANGE_BASE.ADDR) (s.chip.get Reg.HC_RANGE_LEN.LINES) = true →
            t.chip.coh.range = some ⟨s.chip.get Reg.HC_RANGE_BASE.ADDR, s.chip.get Reg.HC_RANGE_LEN.LINES, p.2, w, false⟩
            ∧ t.chip.get Reg.HC_RANGE_STATUS.BUSY = 1 ∧ t.chip.get Reg.HC_RANGE_COUNT.SKIPPED = 0 ∧ t.chip.get Reg.HC_RANGE_COUNT.POISONED = 0)
        ∧ (s.chip.rangeOk (s.chip.get Reg.HC_RANGE_BASE.ADDR) (s.chip.get Reg.HC_RANGE_LEN.LINES) = false →
            t.chip.coh.range = s.chip.coh.range ∧ t.chip.get Reg.HC_RANGE_STATUS.RESULT = 2)
        ∧ WroteOnly { s.chip with coh := { s.chip.coh with range := t.chip.coh.range } } t.chip w Reg.HC_RANGE_CMD.OP.off
            [Reg.HC_RANGE_STATUS.BUSY, Reg.HC_RANGE_STATUS.RESULT, Reg.HC_RANGE_COUNT.SKIPPED, Reg.HC_RANGE_COUNT.POISONED])
  ∧ (∀ (s : State) (r : RangeOp), s.chip.halted = false → s.chip.coh.range = some r → r.busy = false → s.chip.lineBusy r.next = false →
      (s.chip.rgnCheck (s.chip.checkerOf r.next) (64 * r.next) r.who rightW).ok = true → s.chip.dirFind r.next = none →
      s.chip.hcFind r.next = none → s.chip.hcWaitOf r.next = none → (∀ m ∈ s.chip.coh.homeQ, m.typ ≠ tMClean) →
    ∀ p ∈ [(Instr.maintClean, 1), (.maintFlush, 2), (.maintInval, 3)], r.op = p.2 →
      ∃ t x, exec p.1 s = .next t ∧ t.pending = s.pending
        ∧ t.chip.coh.range = some { r with busy := true } ∧ t.chip.coh.txs = s.chip.coh.txs ++ [x] ∧ x.line = r.next ∧ x.done = true
        ∧ CountedOnly { s.chip with coh := { s.chip.coh with range := t.chip.coh.range, txs := t.chip.coh.txs } } t.chip [])
  ∧ (∀ (s : State) (w : Who) (sl : Fin 16) (line : BitVec 46), s.chip.writeRuns w (Reg.DIR_PROBE.ADDR sl.val).off = true →
    ∃ t, exec (.dirProbe w sl line) s = .next t ∧ t.pending = s.pending
      ∧ (s.chip.ownLine line.toNat = true → homeSlice (64 * line.toNat) = sl.val →
          t.chip.get (Reg.DIR_PROBE_ENTRY.BAD sl.val) = 0
          ∧ t.chip.get (Reg.DIR_PROBE_ENTRY.HIT sl.val) = b2n (s.chip.dirFind line.toNat).isSome
          ∧ t.chip.get (Reg.DIR_PROBE_ENTRY.OPEN sl.val) = b2n (s.chip.txOpenOn line.toNat)
          ∧ t.chip.get (Reg.DIR_PROBE_ENTRY.STATE sl.val) = (if (s.chip.dirFind line.toNat).isSome then (s.chip.dirEnt line.toNat).st % 8 else 0))
      ∧ (homeSlice (64 * line.toNat) ≠ sl.val → t.chip.get (Reg.DIR_PROBE_ENTRY.BAD sl.val) = 1 ∧ t.chip.get (Reg.DIR_PROBE_ENTRY.HIT sl.val) = 0)
      ∧ WroteOnly s.chip t.chip w (Reg.DIR_PROBE.ADDR sl.val).off
          [Reg.DIR_PROBE_ENTRY.STATE sl.val, Reg.DIR_PROBE_ENTRY.OVF sl.val, Reg.DIR_PROBE_ENTRY.XPKG sl.val, Reg.DIR_PROBE_ENTRY.OPEN sl.val,
           Reg.DIR_PROBE_ENTRY.HIT sl.val, Reg.DIR_PROBE_ENTRY.BAD sl.val, Reg.DIR_PROBE_ENTRY.PTR0 sl.val, Reg.DIR_PROBE_ENTRY.PTR1 sl.val,
           Reg.DIR_PROBE_ENTRY.PTR2 sl.val, Reg.DIR_PROBE_ENTRY.PTR3 sl.val, Reg.DIR_PROBE_ENTRY.AGE sl.val])

/-- Cache commands (R155, R160, R164, R165): a lock of more than 8 ways is BAD and changes nothing, any other is taken; each whole-cache operation
makes its cache busy, and of a cache that holds nothing changes nothing else; its end makes the cache free; an empty L2 that is switched off drains
at once, and is used again when it is switched on. -/
def Obligations.CacheOperationsRun : Prop :=
  (∀ (s : State) (w : Who) (d : Fin 12) (cl : Fin 5) (v : Word), s.chip.writeRuns w (Reg.CL_L2_LOCK.WAYS d.val cl.val).off = true →
    ∃ t, exec (.clL2LockWrite w d cl v) s = .next t ∧ t.pending = s.pending
      ∧ (8 < ((List.range 16).filter (fun i => bit v.toNat i)).length →
          t.chip.get (Reg.CL_L2_LOCK.BAD d.val cl.val) = 1 ∧ t.chip.get (Reg.CL_L2_LOCK.WAYS d.val cl.val) = s.chip.get (Reg.CL_L2_LOCK.WAYS d.val cl.val))
      ∧ (((List.range 16).filter (fun i => bit v.toNat i)).length ≤ 8 →
          t.chip.get (Reg.CL_L2_LOCK.WAYS d.val cl.val) = bits v.toNat 0 16 ∧ t.chip.get (Reg.CL_L2_LOCK.FILL d.val cl.val) = bits v.toNat 16 1
          ∧ t.chip.get (Reg.CL_L2_LOCK.FILL_AGENT d.val cl.val) = bits v.toNat 34 14 * 4
          ∧ t.chip.get (Reg.CL_L2_LOCK.BAD d.val cl.val) = (if bit v.toNat 17 then 0 else s.chip.get (Reg.CL_L2_LOCK.BAD d.val cl.val)))
      ∧ WroteOnly s.chip t.chip w (Reg.CL_L2_LOCK.WAYS d.val cl.val).off
          [Reg.CL_L2_LOCK.WAYS d.val cl.val, Reg.CL_L2_LOCK.FILL d.val cl.val, Reg.CL_L2_LOCK.FILL_AGENT d.val cl.val, Reg.CL_L2_LOCK.BAD d.val cl.val])
  ∧ (∀ (s : State) (w : Who) (d : Fin 12) (cl : Fin 5) (keep : Bool), s.chip.writeRuns w (Reg.CL_L2_MAINT.OP d.val cl.val).off = true →
      s.chip.on (Reg.CL_L2_STATUS.MBUSY d.val cl.val) = false → s.chip.l2Lines (5 * d.val + cl.val) = [] →
    ∀ p ∈ [(Instr.l2MaintClean w d cl, false, false), (.l2MaintFlush w d cl keep, true, keep)],
      ∃ t, exec p.1 s = .next t ∧ t.pending = s.pending ∧ t.chip.get (Reg.CL_L2_STATUS.MBUSY d.val cl.val) = 1
        ∧ t.chip.coh.maint = s.chip.coh.maint ++ [⟨2, 5 * d.val + cl.val, p.2.1, p.2.2, []⟩]
        ∧ WroteOnly { s.chip with coh := { s.chip.coh with maint := t.chip.coh.maint } } t.chip w (Reg.CL_L2_MAINT.OP d.val cl.val).off
            [Reg.CL_L2_STATUS.MBUSY d.val cl.val])
  ∧ (∀ (s : State) (w : Who) (d : Fin 12) (sl : Fin 20), s.chip.writeRuns w (Reg.L3_CTRL.MAINT d.val sl.val).off = true →
      s.chip.on (Reg.L3_STATUS.MBUSY d.val sl.val) = false → s.chip.l3Lines d.val sl.val = [] →
      s.chip.coh.maint.any (fun m => m.level == 3 && m.unit == 20 * d.val + sl.val) = false →
    ∀ p ∈ [(Instr.l3MaintClean w d sl, false), (.l3MaintFlush w d sl, true)],
      ∃ t, exec p.1 s = .next t ∧ t.pending = s.pending ∧ t.chip.get (Reg.L3_STATUS.MBUSY d.val sl.val) = 1
        ∧ t.chip.coh.maint = s.chip.coh.maint ++ [⟨3, 20 * d.val + sl.val, p.2, false, []⟩]
        ∧ WroteOnly { s.chip with coh := { s.chip.coh with maint := t.chip.coh.maint } } t.chip w (Reg.L3_CTRL.MAINT d.val sl.val).off
            [Reg.L3_STATUS.MBUSY d.val sl.val])
  ∧ (∀ (s : State) (w : Who), s.chip.writeRuns w Reg.HC_MAINT_CMD.OP.off = true → s.chip.on Reg.HC_STATUS.MBUSY = false → s.chip.coh.hc = [] →
      s.chip.coh.hcFills = [] →
    ∀ p ∈ [(Instr.hcMaintClean w, false), (.hcMaintFlush w, true)],
      ∃ t, exec p.1 s = .next t ∧ t.pending = s.pending ∧ t.chip.get Reg.HC_STATUS.MBUSY = 1
        ∧ t.chip.coh.maint = s.chip.coh.maint ++ [⟨4, 0, p.2, false, []⟩]
        ∧ WroteOnly { s.chip with coh := { s.chip.coh with maint := t.chip.coh.maint } } t.chip w Reg.HC_MAINT_CMD.OP.off [Reg.HC_STATUS.MBUSY])
  ∧ (∀ (s : State) (d : Fin 12) (sl : Fin 20), s.chip.halted = false → s.chip.coh.maint.any (fun m => m.level == 3 && m.unit == 20 * d.val + sl.val) = true →
      (∀ m ∈ s.chip.coh.maint, m.level = 3 → m.unit = 20 * d.val + sl.val → m.lines = []) →
    ∃ t, exec (.cacheMaintDone 3 (20 * d.val + sl.val)) s = .next t ∧ t.pending = s.pending ∧ t.chip.get (Reg.L3_STATUS.MBUSY d.val sl.val) = 0
      ∧ (∀ m ∈ t.chip.coh.maint, ¬ (m.level = 3 ∧ m.unit = 20 * d.val + sl.val))
      ∧ OnlyFields { s.chip with coh := { s.chip.coh with maint := t.chip.coh.maint } } t.chip [Reg.L3_STATUS.MBUSY d.val sl.val])
  ∧ (∀ (s : State) (w : Who) (d : Fin 12) (cl : Fin 5), s.chip.writeRuns w (Reg.CL_L2_CTRL.EN d.val cl.val).off = true →
      s.chip.l2Lines (5 * d.val + cl.val) = [] →
    (s.chip.on (Reg.CL_L2_CTRL.EN d.val cl.val) = true →
      ∃ t, exec (.l2Disable w d cl) s = .next t ∧ t.pending = s.pending ∧ t.chip.get (Reg.CL_L2_CTRL.EN d.val cl.val) = 0
        ∧ t.chip.get (Reg.CL_L2_STATUS.BUSY d.val cl.val) = 1
        ∧ WroteOnly s.chip t.chip w (Reg.CL_L2_CTRL.EN d.val cl.val).off [Reg.CL_L2_CTRL.EN d.val cl.val, Reg.CL_L2_STATUS.BUSY d.val cl.val])
    ∧ (s.chip.on (Reg.CL_L2_CTRL.EN d.val cl.val) = false → s.chip.on (Reg.CL_L2_STATUS.BUSY d.val cl.val) = false →
      ∃ t, exec (.l2Enable w d cl) s = .next t ∧ t.pending = s.pending ∧ t.chip.get (Reg.CL_L2_CTRL.EN d.val cl.val) = 1
        ∧ t.chip.get (Reg.CL_L2_STATUS.DRAINED d.val cl.val) = 0
        ∧ WroteOnly s.chip t.chip w (Reg.CL_L2_CTRL.EN d.val cl.val).off [Reg.CL_L2_CTRL.EN d.val cl.val, Reg.CL_L2_STATUS.DRAINED d.val cl.val]))
  ∧ (∀ (s : State) (d : Fin 12) (cl : Fin 5), s.chip.halted = false → s.chip.on (Reg.CL_L2_STATUS.BUSY d.val cl.val) = true →
      s.chip.coh.drains = [] → s.chip.coh.reEnable = [] →
    ∃ t, exec (.l2Drained d cl) s = .next t ∧ t.pending = s.pending
      ∧ t.chip.get (Reg.CL_L2_STATUS.BUSY d.val cl.val) = 0 ∧ t.chip.get (Reg.CL_L2_STATUS.DRAINED d.val cl.val) = 1
      ∧ OnlyFields s.chip t.chip [Reg.CL_L2_STATUS.BUSY d.val cl.val, Reg.CL_L2_STATUS.DRAINED d.val cl.val])

/-- Cache commands over lines (R151, R160, R164, R165, R179), whatever the caches hold: a whole-cache operation starts, and an L2 that is switched off
starts to drain. A dirty L2 line goes to its L3 line, and stays clean after CLEAN, or in a locked way that FLUSH keeps; a slice asks a dirty line's home
to clean it, or sends it off with WB_DIRTY; a dirty hub cache line is posted to memory; a drained dirty line goes on from the L3 to its home. The end of an
operation frees its L2 or the hub cache. A drain waits for its writebacks, and an L2 whose use was asked for meanwhile is used again at its end. -/
def Obligations.CacheOperationsMoveLines : Prop :=
  (∀ (s : State) (w : Who) (d : Fin 12) (cl : Fin 5) (keep : Bool) (u : Nat), 5 * d.val + cl.val = u →
      s.chip.writeRuns w (Reg.CL_L2_MAINT.OP d.val cl.val).off = true → s.chip.on (Reg.CL_L2_STATUS.MBUSY d.val cl.val) = false →
    ∀ p ∈ [(Instr.l2MaintClean w d cl, false, false), (.l2MaintFlush w d cl keep, true, keep)],
      ∃ t, exec p.1 s = .next t ∧ t.pending = s.pending ∧ t.chip.get (Reg.CL_L2_STATUS.MBUSY d.val cl.val) = 1
        ∧ t.chip.coh.maint = s.chip.coh.maint ++ [⟨2, u, p.2.1, p.2.2, []⟩] ∧ SameMemory s.chip t.chip
        ∧ (∀ (k k3 : Nat) (q l : CLine), s.chip.coh.l2 = [(k, q)] → s.chip.coh.l3 = [(k3, l)] → s.chip.l2Find u q.line = some (k, q) →
            s.chip.l3Find d.val q.line = some (k3, l) → q.flaw = 0 → q.st = .m →
            (p.2.1 = false ∨ (p.2.2 = true ∧ s.chip.wayLocked u k = true) →
              t.chip.coh.l2 = [(k, { q with st := .e })] ∧ t.chip.coh.l3 = [(k3, { l with ld := q.ld, st := .m })])
            ∧ (p.2.1 = true → p.2.2 = false ∨ s.chip.wayLocked u k = false →
              t.chip.coh.l2 = [] ∧ t.chip.coh.l3 = [(k3, { l with ld := q.ld, st := .m, pres := setBits l.pres cl.val 1 0 })])))
  ∧ (∀ (s : State) (w : Who) (d : Fin 12) (sl : Fin 20) (u : Nat), 20 * d.val + sl.val = u →
      s.chip.writeRuns w (Reg.L3_CTRL.MAINT d.val sl.val).off = true → s.chip.on (Reg.L3_STATUS.MBUSY d.val sl.val) = false →
    ∀ p ∈ [(Instr.l3MaintClean w d sl, false), (.l3MaintFlush w d sl, true)],
      ∃ t, exec p.1 s = .next t ∧ t.pending = s.pending ∧ t.chip.get (Reg.L3_STATUS.MBUSY d.val sl.val) = 1
        ∧ t.chip.coh.maint.any (fun m => m.level == 3 && m.unit == u) = true ∧ SameMemory s.chip t.chip
        ∧ (∀ (k i : Nat) (l : CLine), s.chip.coh.l2 = [] → s.chip.coh.l3 = [(k, l)] → s.chip.l3Find d.val l.line = some (k, l) →
            l3Slice (64 * l.line) = sl.val → l.flaw = 0 → l.st = .m → s.chip.l3Busy d.val l.line = false →
            s.chip.ratioHeld d.val l.line = false → s.chip.l3Idx u = some i →
            (p.2 = false → t.chip.coh.l3 = [(k, l)] ∧ ∃ r, t.chip.coh.l3reqs = s.chip.coh.l3reqs ++ [r] ∧ r.line = l.line ∧ r.typ = tMClean ∧ r.idx = i)
            ∧ (p.2 = true → t.chip.coh.l3 = [] ∧ t.chip.coh.l3wbs = s.chip.coh.l3wbs ++ [⟨u, i, l.line, l.ld, true, l.yrw, l.last⟩])))
  ∧ (∀ (s : State) (w : Who), s.chip.writeRuns w Reg.HC_MAINT_CMD.OP.off = true → s.chip.on Reg.HC_STATUS.MBUSY = false →
    ∀ p ∈ [(Instr.hcMaintClean w, false), (.hcMaintFlush w, true)],
      ∃ t, exec p.1 s = .next t ∧ t.pending = s.pending ∧ t.chip.get Reg.HC_STATUS.MBUSY = 1
        ∧ t.chip.coh.maint = s.chip.coh.maint ++ [⟨4, 0, p.2, false, []⟩]
        ∧ (∀ (k : Nat) (l : CLine), s.chip.coh.hc = [(k, l)] → s.chip.coh.hcFills = [] → s.chip.hcFind l.line = some (k, l) → l.flaw = 0 → l.st = .m →
            bit (s.chip.get Reg.HC_MAINT_BANKS.BANKS) (bankHc l.line) = true → isDram l.line = true →
            t.chip.coh.hc = (if p.2 then [] else [(k, { l with st := .s })])
            ∧ ∃ j, t.chip.pg.jobs = s.chip.pg.jobs ++ [j] ∧ j.kind = .write ∧ j.line = l.line ∧ j.ld = l.ld))
  ∧ (∀ (s : State) (n : Nat) (f : Fld), s.chip.halted = false → (∃ d : Fin 12, ∃ cl : Fin 5, n = 5 * d.val + cl.val ∧ f = Reg.CL_L2_STATUS.MBUSY d.val cl.val) →
      s.chip.coh.maint.any (fun m => m.level == 2 && m.unit == n) = true → (∀ m ∈ s.chip.coh.maint, m.level = 2 → m.lines = []) →
    ∃ t, exec (.cacheMaintDone 2 n) s = .next t ∧ t.pending = s.pending ∧ t.chip.get f = 0
      ∧ (∀ m ∈ t.chip.coh.maint, ¬ (m.level = 2 ∧ m.unit = n))
      ∧ OnlyFields { s.chip with coh := { s.chip.coh with maint := t.chip.coh.maint } } t.chip [f])
  ∧ (∀ s : State, s.chip.halted = false → s.chip.coh.maint.any (fun m => m.level == 4 && m.unit == 0) = true →
      (∀ m ∈ s.chip.coh.maint, m.level = 4 → m.lines = []) →
    ∃ t, exec (.cacheMaintDone 4 0) s = .next t ∧ t.pending = s.pending ∧ t.chip.get Reg.HC_STATUS.MBUSY = 0
      ∧ (∀ m ∈ t.chip.coh.maint, ¬ (m.level = 4 ∧ m.unit = 0))
      ∧ OnlyFields { s.chip with coh := { s.chip.coh with maint := t.chip.coh.maint } } t.chip [Reg.HC_STATUS.MBUSY])
  ∧ (∀ (s : State) (w : Who) (d : Fin 12) (cl : Fin 5) (u : Nat), 5 * d.val + cl.val = u →
      s.chip.writeRuns w (Reg.CL_L2_CTRL.EN d.val cl.val).off = true →
    (s.chip.on (Reg.CL_L2_CTRL.EN d.val cl.val) = true →
      ∃ t, exec (.l2Disable w d cl) s = .next t ∧ t.pending = s.pending ∧ t.chip.get (Reg.CL_L2_CTRL.EN d.val cl.val) = 0
        ∧ t.chip.get (Reg.CL_L2_STATUS.BUSY d.val cl.val) = 1 ∧ SameMemory s.chip t.chip
        ∧ (∀ (k k3 i : Nat) (q l : CLine), s.chip.coh.l2 = [(k, q)] → s.chip.coh.l3 = [(k3, l)] → s.chip.l2Find u q.line = some (k, q) →
            s.chip.l3Find d.val q.line = some (k3, l) → q.flaw = 0 → l.flaw = 0 → q.st = .m → s.chip.l3Idx (20 * d.val + l3Slice (64 * q.line)) = some i →
            t.chip.coh.l2 = [] ∧ t.chip.coh.l3 = [] ∧ t.chip.coh.drains = s.chip.coh.drains ++ [(u, q.line)]
            ∧ t.chip.coh.l3wbs = s.chip.coh.l3wbs ++ [⟨20 * d.val + l3Slice (64 * q.line), i, q.line, q.ld, true, l.yrw, l.last⟩]))
    ∧ (s.chip.on (Reg.CL_L2_CTRL.EN d.val cl.val) = false → s.chip.on (Reg.CL_L2_STATUS.BUSY d.val cl.val) = true →
      ∃ t, exec (.l2Enable w d cl) s = .next t ∧ t.pending = s.pending ∧ u ∈ t.chip.coh.reEnable
        ∧ WroteOnly { s.chip with coh := { s.chip.coh with reEnable := t.chip.coh.reEnable } } t.chip w (Reg.CL_L2_CTRL.EN d.val cl.val).off []))
  ∧ (∀ (s : State) (d : Fin 12) (cl : Fin 5) (u : Nat), 5 * d.val + cl.val = u → s.chip.halted = false →
      s.chip.on (Reg.CL_L2_STATUS.BUSY d.val cl.val) = true →
    (s.chip.coh.drains = [] → u ∈ s.chip.coh.reEnable →
      ∃ t, exec (.l2Drained d cl) s = .next t ∧ t.pending = s.pending ∧ t.chip.get (Reg.CL_L2_CTRL.EN d.val cl.val) = 1
        ∧ t.chip.get (Reg.CL_L2_STATUS.BUSY d.val cl.val) = 0 ∧ t.chip.get (Reg.CL_L2_STATUS.DRAINED d.val cl.val) = 0 ∧ u ∉ t.chip.coh.reEnable
        ∧ OnlyFields { s.chip with coh := { s.chip.coh with reEnable := t.chip.coh.reEnable } } t.chip
            [Reg.CL_L2_CTRL.EN d.val cl.val, Reg.CL_L2_STATUS.BUSY d.val cl.val, Reg.CL_L2_STATUS.DRAINED d.val cl.val])
    ∧ (∀ (line : Nat) (b : L3Wb), s.chip.coh.drains = [(u, line)] → b ∈ s.chip.coh.l3wbs → b.line = line → b.slice / 20 = d.val →
      exec (.l2Drained d cl) s = .next s))

/-- A READY channel (R206 to R208, R316): the read or the write that its group's arbiter takes next enters its queue with the cycle of its arrival; a read whose row
is open and whose command is legal takes its line from the array; the oldest read whose data has come gives it to its job; a row that no
queued request wants closes after CLOSE_IDLE cycles, once its precharge is legal. -/
def Obligations.ChannelQueuesServe : Prop :=
  (∀ (s : State) (ch : Fin 24) (g : Nat) (r : McReq) (rest : List McReq), s.chip.halted = false → s.chip.mcState ch.val = mcReady →
      s.chip.bitOf Reg.PWR_GATED.GATED (12 + ch.val) = false → ch.val / 4 = g → s.chip.arbNext g = some (ch.val, r) →
      (s.chip.mcOf ch.val).inq.filter (fun q => q.seq != r.seq) = rest → (s.chip.mcOf ch.val).sr = none →
    (r.write = none → (s.chip.mcOf ch.val).rq.length < 64 →
      ∃ t x, exec (.mcRead ch) s = .next t ∧ t.pending = s.pending
        ∧ (t.chip.mcOf ch.val).inq = rest ∧ (t.chip.mcOf ch.val).rq = (s.chip.mcOf ch.val).rq ++ [x]
        ∧ x.line = r.line ∧ x.agent = r.agent ∧ x.enter = (s.chip.mcOf ch.val).ck
        ∧ ((∀ w ∈ (s.chip.mcOf ch.val).wq, w.line ≠ r.line) → x.data = none)
        ∧ (∀ w, (s.chip.mcOf ch.val).wq = [w] → w.line = r.line → x.data = w.write)
        ∧ CountedOnly { s.chip with mc := t.chip.mc, rg := t.chip.rg } t.chip
            [Reg.MC_STATUS.RQ ch.val, Reg.MC_STATUS.WQ ch.val, Reg.MC_STATUS.DRAIN ch.val, Reg.ARB_STATUS.CAND g, Reg.ARB_STATUS.WAITING g,
             Reg.ARB_STARVE.ENT g, Reg.ARB_STARVE.VALID g, Reg.ARB_STARVE_CNT.COUNT g, Reg.ARB_STARVE_CNT.ROUNDS g])
    ∧ (r.write ≠ none → (s.chip.mcOf ch.val).wq.length < 48 → (∀ w ∈ (s.chip.mcOf ch.val).wq, w.line ≠ r.line) →
      (∀ q ∈ (s.chip.mcOf ch.val).rq, q.sameSource r = false) →
      ∃ t, exec (.mcWrite ch) s = .next t ∧ t.pending = s.pending
        ∧ (t.chip.mcOf ch.val).inq = rest ∧ (t.chip.mcOf ch.val).wq = (s.chip.mcOf ch.val).wq ++ [{ r with enter := (s.chip.mcOf ch.val).ck }]
        ∧ CountedOnly { s.chip with mc := t.chip.mc, rg := t.chip.rg } t.chip
            [Reg.MC_STATUS.RQ ch.val, Reg.MC_STATUS.WQ ch.val, Reg.MC_STATUS.DRAIN ch.val, Reg.ARB_STATUS.CAND g, Reg.ARB_STATUS.WAITING g,
             Reg.ARB_STARVE.ENT g, Reg.ARB_STARVE.VALID g, Reg.ARB_STARVE_CNT.COUNT g, Reg.ARB_STARVE_CNT.ROUNDS g]))
  ∧ (∀ (s : State) (ch : Fin 24) (r : McReq) (l : List McReq) (d : Raw), s.chip.halted = false → (s.chip.mcOf ch.val).rq = r :: l → r.data = some d →
      (∀ q ∈ l, r.seq < q.seq) →
    ∃ t, exec (.mcReadData ch) s = .next t ∧ t.pending = s.pending ∧ (t.chip.mcOf ch.val).rq = l
      ∧ (∀ j ∈ t.chip.pg.jobs, j.id = r.job → SMap.get? j.got (ch.val * 2 ^ 34 + r.line) = some (some d))
      ∧ OnlyFields { s.chip with mc := t.chip.mc, pg := { s.chip.pg with jobs := t.chip.pg.jobs } } t.chip
          [Reg.MC_STATUS.RQ ch.val, Reg.MC_STATUS.WQ ch.val, Reg.MC_STATUS.DRAIN ch.val])
  ∧ (∀ (s : State) (ch : Fin 24) (sub : Fin 2) (ck : Nat) (r : McReq), s.chip.halted = false → s.chip.mcState ch.val = mcReady →
      (s.chip.mcOf ch.val).rq = [r] → (s.chip.mcOf ch.val).wq = [] → r.data = none → r.write = none → lineSub r.line = sub.val →
      (s.chip.mcOf ch.val).cycle sub.val ck = ck → (s.chip.mcOf ch.val).refAt.contains ck = false → s.chip.mcLegal ch.val r ck = true → (s.chip.mcOf ch.val).nextCmd (s.chip.mcRb ch.val) r = 2 →
    ∃ t, exec (.dramCommandIssue ch sub ck) s = .next t ∧ t.pending = s.pending
      ∧ (t.chip.mcOf ch.val).rq = [{ r with data := some (s.chip.dramRaw ch.val r.line) }] ∧ (t.chip.mcOf ch.val).ck = ck
      ∧ CountedOnly { s.chip with mc := t.chip.mc } t.chip [])
  ∧ (∀ (s : State) (ch : Fin 24) (bank : Fin 512) (ck row : Nat), s.chip.halted = false → ((s.chip.mcOf ch.val).bank bank.val).row = some row →
      (s.chip.mcOf ch.val).rq = [] → (s.chip.mcOf ch.val).wq = [] → s.chip.get (Reg.MC_SCHED.CLOSE_IDLE ch.val) ≠ 0 →
      (s.chip.mcOf ch.val).cycle (bank.val / 256) ck = ck → (s.chip.mcOf ch.val).refAt.contains ck = false →
      ((s.chip.mcOf ch.val).bank bank.val).hitAt + 2 * s.chip.get (Reg.MC_SCHED.CLOSE_IDLE ch.val) ≤ ck →
      s.chip.preLegal ch.val ((s.chip.mcOf ch.val).bank bank.val) ck = true →
    ∃ t, exec (.rowCloseIdle ch bank ck) s = .next t ∧ t.pending = s.pending
      ∧ ((t.chip.mcOf ch.val).bank bank.val).row = none ∧ ((t.chip.mcOf ch.val).bank bank.val).preAt = ck
      ∧ (∀ k, k ≠ bank.val → (t.chip.mcOf ch.val).bank k = (s.chip.mcOf ch.val).bank k)
      ∧ t.chip = { s.chip with mc := t.chip.mc })

/-- Refresh (R209 to R211): a refresh that falls due while a queued request targets its rank is postponed while fewer than the maximum are owed; the end
of a make-up burst leaves none owed, or what a lowered maximum let stand; the ranks that report heat are refreshed at half the interval; MC_REF_POSTPONE_MAX takes 0 to 8 and ignores
more, and a READY channel makes up at once what a rank owes beyond it; MC_SCHED takes consistent watermarks and ignores others. -/
def Obligations.RefreshIsPostponed : Prop :=
  (∀ (s : State) (ch : Fin 24) (r : Fin 8), s.chip.halted = false → s.chip.mcState ch.val = mcReady → r.val < 2 ^ s.chip.mcRb ch.val →
      r.val ∉ (s.chip.mcOf ch.val).refBurst → s.chip.mcTargets ch.val r.val = true →
      s.chip.mcOwed ch.val r.val < s.chip.get (Reg.MC_REF_POSTPONE_MAX.MAX ch.val) →
    ∃ t, exec (.refreshDue ch r) s = .next t ∧ t.pending = s.pending
      ∧ t.chip.mcOwed ch.val r.val = s.chip.mcOwed ch.val r.val + 1
      ∧ (∀ q : Fin 8, q ≠ r → t.chip.mcOwed ch.val q.val = s.chip.mcOwed ch.val q.val)
      ∧ OnlyFields s.chip t.chip [Reg.MC_REF_STATUS.OWED ch.val])
  ∧ (∀ (s : State) (ch : Fin 24) (r : Fin 8), s.chip.halted = false → s.chip.mcState ch.val = mcReady → r.val ∈ (s.chip.mcOf ch.val).refBurst →
    ∃ t, exec (.refreshBurst ch r) s = .next t ∧ t.pending = s.pending
      ∧ t.chip.mcOwed ch.val r.val = SMap.getD (s.chip.mcOf ch.val).refKeep r.val 0 % 16 ∧ r.val ∉ (t.chip.mcOf ch.val).refBurst
      ∧ OnlyFields { s.chip with mc := t.chip.mc } t.chip [Reg.MC_REF_STATUS.OWED ch.val])
  ∧ (∀ (s : State) (ch : Fin 24) (hot : BitVec 8), s.chip.halted = false → s.chip.mcState ch.val = mcReady →
    exec (.mr4Poll ch hot) s = .next { s with chip := s.chip.mcMod ch.val (fun m => { m with fast := hot.toNat }) })
  ∧ (∀ (s : State) (w : Who) (ch : Fin 24) (v : Word), s.chip.writeRuns w (Reg.MC_REF_POSTPONE_MAX.MAX ch.val).off = true →
      ∃ t, exec (.postponeMaxWrite w ch v) s = .next t ∧ t.pending = s.pending
      ∧ t.chip.get (Reg.MC_REF_POSTPONE_MAX.MAX ch.val)
          = (if bits v.toNat 0 4 ≤ 8 then bits v.toNat 0 4 else s.chip.get (Reg.MC_REF_POSTPONE_MAX.MAX ch.val))
      ∧ (s.chip.mcState ch.val ≠ mcReady →
          WroteOnly s.chip t.chip w (Reg.MC_REF_POSTPONE_MAX.MAX ch.val).off [Reg.MC_REF_POSTPONE_MAX.MAX ch.val])
      ∧ (s.chip.mcState ch.val = mcReady → ∀ r < 8,
          (t.chip.get (Reg.MC_REF_POSTPONE_MAX.MAX ch.val) < s.chip.mcOwed ch.val r → r ∉ (s.chip.mcOf ch.val).refBurst →
            t.chip.mcOwed ch.val r = t.chip.get (Reg.MC_REF_POSTPONE_MAX.MAX ch.val) ∧ r ∈ (t.chip.mcOf ch.val).refBurst)
          ∧ (s.chip.mcOwed ch.val r ≤ t.chip.get (Reg.MC_REF_POSTPONE_MAX.MAX ch.val) → t.chip.mcOwed ch.val r = s.chip.mcOwed ch.val r)))
  ∧ (∀ (s : State) (w : Who) (ch : Fin 24) (v : Word), s.chip.writeRuns w (Reg.MC_SCHED.AGE_CAP ch.val).off = true →
    ∃ t, exec (.mcSchedWrite w ch v) s = .next t ∧ t.pending = s.pending
      ∧ (bits v.toNat 24 6 < bits v.toNat 16 6 → bits v.toNat 16 6 ≤ 48 →
          t.chip.get (Reg.MC_SCHED.AGE_CAP ch.val) = bits v.toNat 0 16 ∧ t.chip.get (Reg.MC_SCHED.WQ_HI ch.val) = bits v.toNat 16 6
          ∧ t.chip.get (Reg.MC_SCHED.WQ_LO ch.val) = bits v.toNat 24 6 ∧ t.chip.get (Reg.MC_SCHED.CLOSE_IDLE ch.val) = bits v.toNat 32 16)
      ∧ (bits v.toNat 16 6 ≤ bits v.toNat 24 6 → t.chip.get (Reg.MC_SCHED.WQ_HI ch.val) = s.chip.get (Reg.MC_SCHED.WQ_HI ch.val))
      ∧ WroteOnly s.chip t.chip w (Reg.MC_SCHED.AGE_CAP ch.val).off
          [Reg.MC_SCHED.AGE_CAP ch.val, Reg.MC_SCHED.WQ_HI ch.val, Reg.MC_SCHED.WQ_LO ch.val, Reg.MC_SCHED.CLOSE_IDLE ch.val,
           Reg.MC_STATUS.RQ ch.val, Reg.MC_STATUS.WQ ch.val, Reg.MC_STATUS.DRAIN ch.val])

/-- Channel states (R212, R214 to R217, R222): a configuration whose timings are all set and whose stacking is legal is locked; INIT of a locked OFF
channel starts training, and READY ends it; SR_ENTER, SR_EXIT and the idle timer start their sequences; the last step of an entry ends in SELF_REFRESH and
is counted; a step that times out is latched with its number and direction; a parity alert is counted, closes every row and
keeps what is queued, and within the limit keeps the state. -/
def Obligations.ChannelStatesChange : Prop :=
  (∀ (s : State) (w : Who) (ch : Fin 24) (v : Word), s.chip.writeRuns w (Reg.MC_CFG.LOCK ch.val).off = true → s.chip.on (Reg.MC_CFG.LOCK ch.val) = false →
      (∀ f ∈ [Reg.MC_TIMING0.CL, Reg.MC_TIMING0.CWL, Reg.MC_TIMING0.RCD, Reg.MC_TIMING0.RP, Reg.MC_TIMING0.RAS, Reg.MC_TIMING0.RC,
        Reg.MC_TIMING0.WR, Reg.MC_TIMING0.RTP, Reg.MC_TIMING1.RRD_S, Reg.MC_TIMING1.RRD_L, Reg.MC_TIMING1.FAW, Reg.MC_TIMING1.CCD_L,
        Reg.MC_TIMING1.WTR_S, Reg.MC_TIMING1.WTR_L, Reg.MC_TIMING1.RFC, Reg.MC_REF_CTRL.TREFI], s.chip.get (f ch.val) ≠ 0) →
      (bit v.toNat 3 = false ∨ bit v.toNat 4 = true) →
    ∃ t, exec (.mcCfgLock w ch v) s = .next t ∧ t.pending = s.pending
      ∧ t.chip.get (Reg.MC_CFG.LOCK ch.val) = 1 ∧ t.chip.get (Reg.MC_CFG.EN ch.val) = bits v.toNat 0 1
      ∧ t.chip.get (Reg.MC_CFG.DENSITY ch.val) = bits v.toNat 4 1
      ∧ WroteOnly s.chip t.chip w (Reg.MC_CFG.LOCK ch.val).off
          [Reg.MC_CFG.EN ch.val, Reg.MC_CFG.DIMMS ch.val, Reg.MC_CFG.RANKS ch.val, Reg.MC_CFG.STACK ch.val, Reg.MC_CFG.DENSITY ch.val,
           Reg.MC_CFG.LOCK ch.val, Reg.MC_CFG.BAD ch.val, Reg.MC_STATUS.CAP ch.val])
  ∧ (∀ (s : State) (w : Who) (ch : Fin 24), s.chip.writeRuns w (Reg.MC_CMD.INIT ch.val).off = true →
    (s.chip.mcState ch.val = mcOff → s.chip.on (Reg.MC_CFG.LOCK ch.val) = true →
      ∃ t, exec (.mcInit w ch) s = .next t ∧ t.pending = s.pending ∧ t.chip.mcState ch.val = mcTraining
        ∧ WroteOnly { s.chip with mc := t.chip.mc } t.chip w (Reg.MC_CMD.INIT ch.val).off
            [Reg.MC_STATUS.STATE ch.val, Reg.MC_MR_RESULT1.BUSY ch.val, Reg.MC_TRN_STATUS.BUSY ch.val])
    ∧ (s.chip.mcState ch.val = mcTraining →
      ∃ t, exec (.mcReady w ch) s = .next t ∧ t.pending = s.pending ∧ t.chip.mcState ch.val = mcReady
        ∧ t.chip.get (Reg.MC_REF_STATUS.OWED ch.val) = 0
        ∧ WroteOnly { s.chip with mc := t.chip.mc } t.chip w (Reg.MC_CMD.INIT ch.val).off
            [Reg.MC_STATUS.STATE ch.val, Reg.MC_REF_STATUS.OWED ch.val, Reg.MC_TRN_STATUS.BUSY ch.val])
    ∧ (s.chip.mcState ch.val = mcReady → (s.chip.mcOf ch.val).sr = none →
      ∃ t, exec (.srEnter w ch) s = .next t ∧ t.pending = s.pending ∧ (t.chip.mcOf ch.val).sr = some ⟨false, 1, false, false, false⟩
        ∧ WroteOnly { s.chip with mc := t.chip.mc } t.chip w (Reg.MC_CMD.INIT ch.val).off [])
    ∧ (s.chip.mcState ch.val = mcSelfRefresh → (s.chip.mcOf ch.val).sr = none →
      ∃ t, exec (.srExit w ch) s = .next t ∧ t.pending = s.pending ∧ (t.chip.mcOf ch.val).sr = some ⟨true, 1, false, false, false⟩
        ∧ WroteOnly { s.chip with mc := t.chip.mc } t.chip w (Reg.MC_CMD.INIT ch.val).off []))
  ∧ (∀ (s : State) (ch : Fin 24), s.chip.halted = false → s.chip.mcState ch.val = mcReady → (s.chip.mcOf ch.val).sr = none →
      s.chip.get (Reg.MC_PWR.SR_IDLE ch.val) ≠ 0 → (s.chip.mcOf ch.val).inq = [] → (s.chip.mcOf ch.val).rq = [] → (s.chip.mcOf ch.val).wq = [] →
    ∃ t, exec (.srIdleTimeout ch) s = .next t ∧ t.pending = s.pending ∧ (t.chip.mcOf ch.val).sr = some ⟨false, 1, true, false, false⟩
      ∧ t.chip = { s.chip with mc := t.chip.mc })
  ∧ (∀ (s : State) (ch : Fin 24) (q : SrSeq), s.chip.halted = false → (s.chip.mcOf ch.val).sr = some q →
    (q.exit = false → q.step = 3 →
      ∃ t, exec (.srStepReady ch) s = .next t ∧ t.pending = s.pending ∧ t.chip.mcState ch.val = mcSelfRefresh
        ∧ (t.chip.mcOf ch.val).sr = none ∧ (t.chip.mcOf ch.val).idleSr = q.idle
        ∧ t.chip.get (Reg.MC_SR_STATUS.ENTRIES ch.val) = min (s.chip.get (Reg.MC_SR_STATUS.ENTRIES ch.val) + 1) (2 ^ 32 - 1)
        ∧ OnlyFields { s.chip with mc := t.chip.mc } t.chip [Reg.MC_STATUS.STATE ch.val, Reg.MC_SR_STATUS.ENTRIES ch.val])
    ∧ (q.exit = true → q.failed = false → 1 ≤ q.step → q.step ≤ 4 →
      ∃ t, exec (.srStepTimeout ch) s = .next t ∧ t.pending = s.pending ∧ (t.chip.mcOf ch.val).sr = none ∧ (t.chip.mcOf ch.val).exitFail = true
        ∧ t.chip.get (Reg.MC_SR_STATUS.FAIL ch.val) = 1 ∧ t.chip.get (Reg.MC_SR_STATUS.STEP ch.val) = q.step - 1
        ∧ t.chip.get (Reg.MC_SR_STATUS.DIR ch.val) = 1
        ∧ OnlyFields { s.chip with mc := t.chip.mc, irqs := t.chip.irqs } t.chip
            [Reg.MC_SR_STATUS.FAIL ch.val, Reg.MC_SR_STATUS.STEP ch.val, Reg.MC_SR_STATUS.DIR ch.val]))
  ∧ (∀ (s : State) (ch : Fin 24), s.chip.halted = false →
      s.chip.mcState ch.val = mcTraining ∨ s.chip.mcState ch.val = mcSelfRefresh ∨ (s.chip.mcState ch.val = mcReady
        ∧ ((s.chip.mcOf ch.val).alerts.filter (fun t => s.chip.time < t + 4000000)).length < s.chip.get (Reg.MC_ALERT.LIMIT ch.val)) →
    ∃ t, exec (.mcAlert ch) s = .next t ∧ t.pending = s.pending
      ∧ t.chip.get (Reg.MC_ALERT.COUNT ch.val) = min (s.chip.get (Reg.MC_ALERT.COUNT ch.val) + 1) (2 ^ 16 - 1)
      ∧ t.chip.mcState ch.val = s.chip.mcState ch.val
      ∧ (∀ k, ((t.chip.mcOf ch.val).bank k).row = none) ∧ (t.chip.mcOf ch.val).inq = (s.chip.mcOf ch.val).inq
      ∧ (t.chip.mcOf ch.val).rq = (s.chip.mcOf ch.val).rq ∧ (t.chip.mcOf ch.val).wq = (s.chip.mcOf ch.val).wq
      ∧ OnlyFields { s.chip with mc := t.chip.mc, irqs := t.chip.irqs } t.chip [Reg.MC_ALERT.COUNT ch.val])

/-- Mode registers and training (R218, R219, R221): a mode register write, read, clock driver write or multi-purpose command makes the channel's command
engine busy, and its end frees it, giving a read's answer; a helper run starts only while the channel trains and no run is under way, and is
refused otherwise; its end leaves DONE. -/
def Obligations.ChannelTrainingRuns : Prop :=
  (∀ (s : State) (w : Who) (ch : Fin 24) (rank : Fin 8) (sub : Fin 2) (a v : BitVec 8), s.chip.writeRuns w (Reg.MC_MR_CMD.OP ch.val).off = true →
      s.chip.on (Reg.MC_MR_RESULT1.BUSY ch.val) = false →
    ∀ p ∈ [(Instr.modeRegisterWrite w ch rank sub a v, 1), (.modeRegisterRead w ch rank sub a, 2), (.clockDriverWrite w ch rank sub a v, 3),
        (.multiPurposeCommand w ch rank sub v, 4)],
      ∃ t x, exec p.1 s = .next t ∧ t.pending = s.pending ∧ t.chip.get (Reg.MC_MR_RESULT1.BUSY ch.val) = 1
        ∧ (t.chip.mcOf ch.val).mrCmd = some x ∧ bits x 0 3 = p.2 ∧ bits x 3 3 = rank.val ∧ bits x 6 1 = sub.val
        ∧ WroteOnly { s.chip with mc := t.chip.mc } t.chip w (Reg.MC_MR_CMD.OP ch.val).off [Reg.MC_MR_RESULT1.BUSY ch.val])
  ∧ (∀ (s : State) (ch : Fin 24) (x : Nat) (res : BitVec 80), s.chip.halted = false → (s.chip.mcOf ch.val).mrCmd = some x → bits x 0 3 = 2 →
    ∃ t, exec (.mrCmdDone ch res) s = .next t ∧ t.pending = s.pending ∧ t.chip.get (Reg.MC_MR_RESULT1.BUSY ch.val) = 0
      ∧ t.chip.get (Reg.MC_MR_RESULT0.DEV ch.val) = bits res.toNat 0 64 ∧ t.chip.get (Reg.MC_MR_RESULT1.DEV ch.val) = bits res.toNat 64 16
      ∧ (t.chip.mcOf ch.val).mrCmd = none
      ∧ OnlyFields { s.chip with mc := t.chip.mc } t.chip [Reg.MC_MR_RESULT1.BUSY ch.val, Reg.MC_MR_RESULT0.DEV ch.val, Reg.MC_MR_RESULT1.DEV ch.val])
  ∧ (∀ (s : State) (w : Who) (ch : Fin 24) (v : Word), s.chip.writeRuns w (Reg.MC_TRN_CTRL.OP ch.val).off = true →
    ∀ p ∈ [(Instr.trnWrite w ch v, 1), (.trnReadCompare w ch v, 2), (.trnWriteRead w ch v, 3), (.trnSweep w ch v, 4)],
      ∃ t, exec p.1 s = .next t ∧ t.pending = s.pending
        ∧ (s.chip.mcState ch.val = mcTraining → s.chip.on (Reg.MC_TRN_STATUS.BUSY ch.val) = false →
            t.chip.get (Reg.MC_TRN_STATUS.BUSY ch.val) = 1 ∧ t.chip.get (Reg.MC_TRN_STATUS.DONE ch.val) = 0
            ∧ t.chip.get (Reg.MC_TRN_CTRL.OP ch.val) = p.2 ∧ (t.chip.mcOf ch.val).trn = some p.2)
        ∧ (s.chip.mcState ch.val ≠ mcTraining →
            t.chip.get (Reg.MC_TRN_STATUS.REFUSED ch.val) = 1
            ∧ WroteOnly s.chip t.chip w (Reg.MC_TRN_CTRL.OP ch.val).off [Reg.MC_TRN_STATUS.REFUSED ch.val]))
  ∧ (∀ (s : State) (ch : Fin 24) (op : Nat) (errs : List (Nat × Nat)), s.chip.halted = false → (s.chip.mcOf ch.val).trn = some op →
    ∃ t, exec (.trnDone ch errs) s = .next t ∧ t.pending = s.pending ∧ t.chip.get (Reg.MC_TRN_STATUS.BUSY ch.val) = 0
      ∧ t.chip.get (Reg.MC_TRN_STATUS.DONE ch.val) = 1 ∧ (t.chip.mcOf ch.val).trn = none
      ∧ (op = 2 → SameMemory s.chip t.chip) ∧ t.chip.coh = s.chip.coh ∧ t.chip.pg = s.chip.pg)

/-- Page Guard jobs (R232, R236, R237): the oldest read of its page whose slot came back plain and clean gives its line to the RD_NC that waits
for it, which is answered; a write of a plain line over a plain clean slot, outside every region, writes that one slot; inside a region, with
the page's one check line in the check cache, it also adds the code of the change to that check line. -/
def Obligations.PageGuardServes : Prop :=
  (∀ (s : State) (job : Nat) (j : PgJob) (r : Raw) (ch ca : Nat) (x : Tx), s.chip.halted = false → s.chip.pgFront .read job = some j → j.res = none →
      s.chip.pg.buf.find? (fun b => b.1 == j.line / 4) = none → s.chip.chkFind (winLine j.line) = none →
      s.chip.channelOf (64 * winLine j.line) = some (ch, ca) → SMap.get? j.got (ch * 2 ^ 34 + ca / 64) = some (some r) →
      r.form (winLine j.line % 4) false = .plain → r.flags .plain = [] →
      s.chip.txOf j.line = some x → x.req.cls = clsReq → x.req.typ = tRdNc → x.req.line = j.line → x.done = false → x.victim = false →
      x.snoops = [] → x.own = none → x.poisoned = false → x.wantMem = true → s.chip.dirFind j.line = none →
      agPkg x.req.agent = s.chip.pkg → agDie x.req.agent < 12 → s.chip.fencedDie s.chip.pkg (agDie x.req.agent) = false →
    ∃ t m, exec (.pgLineRead job) s = .next t ∧ t.pending = s.pending
      ∧ (t.chip.spkOf (agDie x.req.agent)).dn = (s.chip.spkOf (agDie x.req.agent)).dn ++ [m]
      ∧ m.cls = clsDat ∧ m.line = j.line ∧ m.tag = x.req.tag ∧ m.data = some r.data ∧ m.poison = false
      ∧ t.chip.pg.jobs = s.chip.pg.jobs.filter (fun q => q.id != j.id)
      ∧ (∃ y, t.chip.txOf j.line = some y ∧ y.done = true) ∧ SameMemory s.chip t.chip)
  ∧ (∀ (s : State) (job : Nat) (j : PgJob) (r : Raw) (ch ca : Nat), s.chip.halted = false → s.chip.pgFront .write job = some j →
      s.chip.chkFind (winLine j.line) = none → s.chip.channelOf (64 * winLine j.line) = some (ch, ca) →
      SMap.get? j.got (ch * 2 ^ 34 + ca / 64) = some (some r) → r.form (winLine j.line % 4) false = .plain → r.flags .plain = [] →
      j.ld.poison = false → j.yrw = 0 → r ≠ rawPlain j.ld.data → s.chip.on Reg.PG_FLIP_MASK.ARM = false →
    (s.chip.pgDataRgn (winLine j.line) = none →
      ∃ t, exec (.pgLineWrite job false) s = .next t ∧ t.pending = s.pending
        ∧ (t.chip.mcOf ch).inq = (s.chip.mcOf ch).inq
            ++ [⟨ca / 64, j.agent, j.tenant, 0, 0, some (rawPlain j.ld.data), (s.chip.mcOf ch).ck, (s.chip.mcOf ch).seq, none, s.chip.pg.sent,
              some (s.chip.paLine (winLine j.line))⟩]
        ∧ (∀ k, k ≠ ch → t.chip.mcOf k = s.chip.mcOf k)
        ∧ t.chip.pg.jobs = s.chip.pg.jobs.filter (fun q => q.id != j.id) ∧ t.chip.pg.chk = s.chip.pg.chk
        ∧ OnlyFields { s.chip with mc := t.chip.mc, pg := { s.chip.pg with jobs := t.chip.pg.jobs, buf := t.chip.pg.buf, sent := t.chip.pg.sent } } t.chip
            [Reg.YRW_CNT2.TAG_BAD])
    ∧ (∀ (rg : PgRgn) (ck : Nat) (k : ChkLine), s.chip.pgDataRgn (winLine j.line) = some rg → rg.chkLines (winLine j.line) = [ck] →
        s.chip.chkFind ck = some k → (rawPlain k.data).flags .plain = [] → j.ld.data ≠ r.data →
      ∃ t, exec (.pgLineWrite job false) s = .next t ∧ t.pending = s.pending
        ∧ (t.chip.mcOf ch).inq = (s.chip.mcOf ch).inq
            ++ [⟨ca / 64, j.agent, j.tenant, 0, 0, some (rawPlain j.ld.data), (s.chip.mcOf ch).ck, (s.chip.mcOf ch).seq, none, s.chip.pg.sent,
              some (s.chip.paLine (winLine j.line))⟩]
        ∧ (∀ d, (chkLinesOf rg (pageChk rg.t ((List.range 64).map (fun i =>
              if winLine j.line / 64 * 64 + i = winLine j.line then j.ld.data ^^^ r.data else 0#512))))[0]? = some d →
            t.chip.chkFind ck = some ⟨k.data ^^^ d, true, 0⟩)
        ∧ t.chip.pg.jobs = s.chip.pg.jobs.filter (fun q => q.id != j.id)
        ∧ CountedOnly { s.chip with
              mc := t.chip.mc
              pg := { s.chip.pg with jobs := t.chip.pg.jobs, buf := t.chip.pg.buf, sent := t.chip.pg.sent, chk := t.chip.pg.chk } } t.chip [Reg.YRW_CNT2.TAG_BAD]))

/-- Regions and scrub (R231, R240, R241): LOCK succeeds exactly if every enabled region has a size, lies in DRAM and overlaps no other; a scrub of
pages that exist is taken and clears its results, one of no page, or of pages beyond DRAM, is refused with RESULT 2, and one while another runs
with RESULT 3; ABORT marks the running pass; INIT counts 4,096 bytes for a page outside a carve-out whose channel serves, a pass waits for earlier
operations of its page, goes over a page inside a carve-out, and ends
with RESULT 1 after its last page, or with RESULT 4 where it is to stop. -/
def Obligations.ScrubPasses : Prop :=
  (∀ (s : State) (w : Who), s.chip.writeRuns w Reg.PG_CTRL.LOCK.off = true → s.chip.on Reg.PG_CTRL.LOCK = false →
    ∃ t, exec (.pgCtrlLock w) s = .next t ∧ t.pending = s.pending
      ∧ (t.chip.get Reg.PG_CTRL.LOCK = 1 ↔ ∀ n < 16, s.chip.on (Reg.PG_RGN.EN n) = true →
          1 ≤ s.chip.get (Reg.PG_RGN.SIZE n)
          ∧ s.chip.get (Reg.PG_RGN.BASE n) + s.chip.get (Reg.PG_RGN.SIZE n) ≤ 16 * s.chip.get Reg.HUB_AMAP_DRAM.SIZE
          ∧ ∀ m < 16, s.chip.on (Reg.PG_RGN.EN m) = true → m ≠ n →
              s.chip.get (Reg.PG_RGN.BASE n) + s.chip.get (Reg.PG_RGN.SIZE n) ≤ s.chip.get (Reg.PG_RGN.BASE m)
              ∨ s.chip.get (Reg.PG_RGN.BASE m) + s.chip.get (Reg.PG_RGN.SIZE m) ≤ s.chip.get (Reg.PG_RGN.BASE n))
      ∧ (t.chip.get Reg.PG_CTRL.LOCK = 0 → t.chip.get Reg.PG_CTRL.BAD = 1)
      ∧ WroteOnly s.chip t.chip w Reg.PG_CTRL.LOCK.off [Reg.PG_CTRL.LOCK, Reg.PG_CTRL.BAD])
  ∧ (∀ (s : State) (w : Who), s.chip.writeRuns w Reg.PG_SCRUB_CMD.OP.off = true →
    (∀ p ∈ [(Instr.scrubCheck w, 1), (.scrubCorrect w, 2), (.scrubInit w, 3)],
      (s.chip.on Reg.PG_SCRUB_STATUS.BUSY = false →
        ∃ t, exec p.1 s = .next t ∧ t.pending = s.pending
          ∧ (s.chip.get Reg.PG_SCRUB_LEN.PAGES ≠ 0 → s.chip.pkg * 2 ^ 32 ≤ s.chip.get Reg.PG_SCRUB_BASE.ADDR →
              s.chip.get Reg.PG_SCRUB_BASE.ADDR + s.chip.get Reg.PG_SCRUB_LEN.PAGES
                ≤ s.chip.pkg * 2 ^ 32 + s.chip.get Reg.HUB_AMAP_DRAM.SIZE * 2 ^ 22 →
              s.chip.get Reg.PG_SCRUB_BASE.ADDR + s.chip.get Reg.PG_SCRUB_LEN.PAGES ≤ 2 ^ 35 →
              t.chip.get Reg.PG_SCRUB_STATUS.BUSY = 1 ∧ t.chip.get Reg.PG_SCRUB_STATUS.RESULT = 0 ∧ t.chip.get Reg.PG_SCRUB_BYTES.BYTES = 0
              ∧ t.chip.get Reg.PG_SCRUB_CORR.SYMBOLS = 0 ∧ t.chip.get Reg.PG_SCRUB_CORR.UNCORR_PAGES = 0
              ∧ t.chip.pg.scrub = some ⟨s.chip.get Reg.PG_SCRUB_BASE.ADDR, s.chip.get Reg.PG_SCRUB_LEN.PAGES, p.2, false, none⟩)
          ∧ (s.chip.get Reg.PG_SCRUB_LEN.PAGES = 0 ∨ s.chip.get Reg.PG_SCRUB_BASE.ADDR < s.chip.pkg * 2 ^ 32
              ∨ s.chip.pkg * 2 ^ 32 + s.chip.get Reg.HUB_AMAP_DRAM.SIZE * 2 ^ 22
                  < s.chip.get Reg.PG_SCRUB_BASE.ADDR + s.chip.get Reg.PG_SCRUB_LEN.PAGES →
              t.chip.get Reg.PG_SCRUB_STATUS.RESULT = 2 ∧ t.chip.get Reg.PG_SCRUB_STATUS.BUSY = 0 ∧ t.chip.pg.scrub = s.chip.pg.scrub)
          ∧ WroteOnly { s.chip with pg := { s.chip.pg with scrub := t.chip.pg.scrub } } t.chip w Reg.PG_SCRUB_CMD.OP.off
              [Reg.PG_SCRUB_STATUS.BUSY, Reg.PG_SCRUB_STATUS.RESULT, Reg.PG_SCRUB_BYTES.BYTES, Reg.PG_SCRUB_CORR.SYMBOLS,
               Reg.PG_SCRUB_CORR.UNCORR_PAGES, Reg.PG_SCRUB_FIRST.ADDR, Reg.PG_SCRUB_FIRST.VALID])
      ∧ (s.chip.on Reg.PG_SCRUB_STATUS.BUSY = true →
        ∃ t, exec p.1 s = .next t ∧ t.pending = s.pending ∧ t.chip.get Reg.PG_SCRUB_STATUS.RESULT = 3
          ∧ WroteOnly s.chip t.chip w Reg.PG_SCRUB_CMD.OP.off [Reg.PG_SCRUB_STATUS.RESULT]))
    ∧ (∀ q, s.chip.pg.scrub = some q →
      ∃ t, exec (.scrubAbort w) s = .next t ∧ t.pending = s.pending ∧ t.chip.pg.scrub = some { q with abort := true }
        ∧ WroteOnly { s.chip with pg := { s.chip.pg with scrub := t.chip.pg.scrub } } t.chip w Reg.PG_SCRUB_CMD.OP.off []))
  ∧ (∀ (s : State) (q : Scrub), s.chip.halted = false → s.chip.pg.scrub = some q →
    (s.chip.isCarve (64 * winLine (64 * q.next)) = true →
      ∃ t, exec .scrubPage s = .next t ∧ t.pending = s.pending
        ∧ (1 < q.left → q.abort = false → t.chip = { s.chip with pg := { s.chip.pg with scrub := some { q with next := q.next + 1, left := q.left - 1, job := none } } })
        ∧ (q.left ≤ 1 ∨ q.abort = true → t.chip.pg.scrub = none ∧ t.chip.get Reg.PG_SCRUB_STATUS.BUSY = 0
            ∧ t.chip.get Reg.PG_SCRUB_STATUS.RESULT = (if q.abort then 4 else 1))
        ∧ OnlyFields { s.chip with pg := { s.chip.pg with scrub := t.chip.pg.scrub } } t.chip
            [Reg.PG_SCRUB_STATUS.BUSY, Reg.PG_SCRUB_STATUS.RESULT])
    ∧ (∀ ch ca, s.chip.isCarve (64 * winLine (64 * q.next)) = false → q.op = 3 → s.chip.channelOf (64 * winLine (64 * q.next)) = some (ch, ca) →
        s.chip.mcServes ch = true → q.job = none → s.chip.pg.jobs = [] →
      ∃ t, exec .scrubPage s = .next t ∧ t.pending = s.pending
        ∧ t.chip.get Reg.PG_SCRUB_BYTES.BYTES = (s.chip.get Reg.PG_SCRUB_BYTES.BYTES + 4096) % 2 ^ Reg.PG_SCRUB_BYTES.BYTES.width
        ∧ t.chip.coh = s.chip.coh ∧ t.chip.dram = s.chip.dram ∧ t.chip.ctx = s.chip.ctx ∧ t.chip.aud = s.chip.aud)
    ∧ (∀ id, s.chip.isCarve (64 * winLine (64 * q.next)) = false → q.job = some id → s.chip.pgFront .scrub id = none → exec .scrubPage s = .next s))

/-- Spoke flits and the width change (R256, R257, R260, R262): an undamaged flit that follows the last delivers, in order, the messages that it
carries; one that does not follow it ends in FENCED with FENCE_CAUSE 3 and the die's fence bit; the steps of a width change end in UP at half
width, and one that times out in FENCED with cause 1; a die end that hears nothing stops its cores. -/
def Obligations.SpokeFlitsAreTaken : Prop :=
  (∀ (s : State) (d : Fin 12), s.chip.halted = false → s.chip.spkState d.val = spkUpSt →
    ((s.chip.spkOf d.val).seqUp % 256 = ((s.chip.spkOf d.val).expUp + 1) % 256 → (s.chip.spkOf d.val).repUp = none →
      ∃ t, exec (.spokeFlitReceive d true false []) s = .next t ∧ t.pending = s.pending
        ∧ t.chip.coh.hubIn = s.chip.coh.hubIn
            ++ (packFlit (s.chip.spkOf d.val).up (s.chip.spkOf d.val).crUp).take.map (fun m => { m with arrived := s.chip.time, buf := some (6 + d.val) })
        ∧ (t.chip.spkOf d.val).up = (packFlit (s.chip.spkOf d.val).up (s.chip.spkOf d.val).crUp).rest
        ∧ (t.chip.spkOf d.val).dn = (s.chip.spkOf d.val).dn ∧ (t.chip.spkOf d.val).expUp = (s.chip.spkOf d.val).seqUp % 256
        ∧ (∀ e, e ≠ d.val → t.chip.spkOf e = s.chip.spkOf e)
        ∧ CountedOnly { s.chip with coh := { s.chip.coh with hubIn := t.chip.coh.hubIn }, spk := t.chip.spk } t.chip [])
    ∧ ((s.chip.spkOf d.val).seqDn % 256 = ((s.chip.spkOf d.val).expDn + 1) % 256 → (s.chip.spkOf d.val).repDn = none →
      ∃ t, exec (.spokeFlitReceive d false false []) s = .next t ∧ t.pending = s.pending
        ∧ t.chip.coh.dieIn = s.chip.coh.dieIn
            ++ (packFlit (s.chip.spkOf d.val).dn (s.chip.spkOf d.val).crDn).take.map (fun m => (d.val, { m with buf := some (18 + d.val) }))
        ∧ (t.chip.spkOf d.val).dn = (packFlit (s.chip.spkOf d.val).dn (s.chip.spkOf d.val).crDn).rest
        ∧ (t.chip.spkOf d.val).up = (s.chip.spkOf d.val).up ∧ (t.chip.spkOf d.val).expDn = (s.chip.spkOf d.val).seqDn % 256
        ∧ CountedOnly { s.chip with coh := { s.chip.coh with dieIn := t.chip.coh.dieIn }, spk := t.chip.spk } t.chip [])
    ∧ ((s.chip.spkOf d.val).seqUp % 256 = ((s.chip.spkOf d.val).expUp + 1) % 256 →
      ∃ t, exec (.spokeFlitReceive d true true []) s = .next t ∧ t.pending = s.pending ∧ t.chip.spkState d.val = spkFenced
        ∧ t.chip.get (Reg.SPK_STATUS.FENCE_CAUSE d.val) = 3 ∧ t.chip.bitOf (Reg.DIR_FENCE.DIE 0 s.chip.pkg) d.val = true))
  ∧ (∀ (s : State) (d : Fin 12), s.chip.halted = false → s.chip.spkState d.val = spkQuiesce →
    ((s.chip.spkOf d.val).width < 3 →
      ∃ t, exec (.widthStepReady d) s = .next t ∧ t.pending = s.pending
        ∧ t.chip.spkOf d.val = { s.chip.spkOf d.val with width := (s.chip.spkOf d.val).width + 1 }
        ∧ t.chip = { s.chip with spk := t.chip.spk })
    ∧ ((s.chip.spkOf d.val).width = 3 →
      ∃ t, exec (.widthStepReady d) s = .next t ∧ t.pending = s.pending ∧ t.chip.spkState d.val = spkUpSt
        ∧ t.chip.get (Reg.SPK_STATUS.HALF d.val) = 1 ∧ t.chip.get (Reg.SPKD_STATUS.HALF d.val) = 1
        ∧ t.chip.spkOf d.val = { s.chip.spkOf d.val with width := 0, half := true }
        ∧ (s.chip.aud.ring.length < audSlots → s.chip.aud.waiting = [] → ∃ r, t.chip.aud.ring = s.chip.aud.ring ++ [r])
        ∧ t.chip = { s.chip with spk := t.chip.spk, regs := t.chip.regs, aud := t.chip.aud, irqs := t.chip.irqs, free := t.chip.free })
    ∧ (∃ t, exec (.widthStepTimeout d) s = .next t ∧ t.pending = s.pending ∧ t.chip.spkState d.val = spkFenced
        ∧ t.chip.get (Reg.SPK_STATUS.FENCE_CAUSE d.val) = 1 ∧ t.chip.bitOf (Reg.DIR_FENCE.DIE 0 s.chip.pkg) d.val = true))
  ∧ (∀ (s : State) (d : Fin 12), s.chip.halted = false → s.chip.spkState d.val = spkUpSt ∨ s.chip.spkState d.val = spkFenced →
    ∃ t, exec (.dieEndSilence d) s = .next t ∧ t.pending = s.pending ∧ t.chip.spkOf d.val = { s.chip.spkOf d.val with silent := true }
      ∧ t.chip = { s.chip with spk := t.chip.spk })

/-- Spoke training (R264 to R266): RETRAIN of a link that is not up starts training at step 1, and of a live one fences the die first with
FENCE_CAUSE 5; step 1 waits for the die's synthesizer; step 5 chooses full width where the die agrees and each mask holds at most 16 wires;
after step 7 the link is UP; a timeout of step 1, 2, 3, 4 or 7 fences the die with FENCE_CAUSE 4, and of step 5 is a disagreement. -/
def Obligations.SpokeTrains : Prop :=
  (∀ (s : State) (w : Who) (d : Fin 12), s.chip.writeRuns w (Reg.SPK_CTRL.RETRAIN d.val).off = true → s.chip.diePresent d.val = true →
    ((s.chip.spkState d.val = spkOff ∨ s.chip.spkState d.val = spkFenced) →
      ∃ t, exec (.spokeRetrain w d) s = .next t ∧ t.pending = s.pending ∧ t.chip.spkState d.val = spkTraining
        ∧ (t.chip.spkOf d.val).train = 1 ∧ (t.chip.spkOf d.val).up = [] ∧ (t.chip.spkOf d.val).dn = []
        ∧ t.chip.get (Reg.SPK_STATUS.HALF d.val) = 0 ∧ t.chip.get (Reg.SPK_STATUS.DISAGREE d.val) = 0
        ∧ SameMessages s.chip.coh t.chip.coh
        ∧ WroteOnly { s.chip with spk := t.chip.spk, coh := t.chip.coh } t.chip w (Reg.SPK_CTRL.RETRAIN d.val).off
            ((List.range 5).map (fun k => Reg.SPK_BAD_UP.WIRES d.val k) ++ (List.range 5).map (fun k => Reg.SPKD_BAD_DN.WIRES d.val k) ++
              [Reg.SPK_STATUS.STATE d.val, Reg.SPKD_STATUS.STATE d.val, Reg.SPK_STATUS.HALF d.val, Reg.SPKD_STATUS.HALF d.val,
               Reg.SPK_STATUS.DISAGREE d.val, Reg.SPK_STATUS.DEGRADED d.val, Reg.SPK_STATUS.BAD_UP d.val, Reg.SPKD_STATUS.BAD_DN d.val]))
    ∧ (s.chip.spkState d.val = spkUpSt →
      ∃ t, exec (.spokeRetrain w d) s = .next t ∧ t.pending = s.pending ∧ t.chip.spkState d.val = spkTraining
        ∧ (t.chip.spkOf d.val).train = 1 ∧ t.chip.get (Reg.SPK_STATUS.FENCE_CAUSE d.val) = 5
        ∧ t.chip.bitOf (Reg.DIR_FENCE.DIE 0 s.chip.pkg) d.val = true))
  ∧ (∀ (s : State) (d : Fin 12) (up dn : BitVec 272) (agree : Bool), s.chip.halted = false → s.chip.spkState d.val = spkTraining →
      s.chip.diePresent d.val = true →
    ((s.chip.spkOf d.val).train = 1 →
      ∃ t, exec (.spokeTrainStepReady d up dn agree) s = .next t ∧ t.pending = s.pending
        ∧ (t.chip.spkOf d.val).train = (if s.chip.bitOf Reg.HUB_CLK_STATUS.DIE_LOCK d.val then 2 else 1)
        ∧ t.chip = { s.chip with spk := t.chip.spk })
    ∧ ((s.chip.spkOf d.val).train = 5 → agree = true → (s.chip.spkOf d.val).half = false →
        popc 272 (s.chip.spkMask true true d.val) ≤ 16 → popc 272 (s.chip.spkMask true false d.val) ≤ 16 →
      ∃ t, exec (.spokeTrainStepReady d up dn agree) s = .next t ∧ t.pending = s.pending
        ∧ (t.chip.spkOf d.val).train = 6 ∧ (t.chip.spkOf d.val).choice = 2
        ∧ t.chip.spkMask false true d.val = s.chip.spkMask true true d.val % 2 ^ 272
        ∧ t.chip = { s.chip with spk := t.chip.spk, regs := t.chip.regs })
    ∧ ((s.chip.spkOf d.val).train = 7 → (s.chip.spkOf d.val).rejoin = 0 → (s.chip.spkOf d.val).choice = 2 →
      ∃ t, exec (.spokeTrainStepReady d up dn agree) s = .next t ∧ t.pending = s.pending ∧ t.chip.spkState d.val = spkUpSt
        ∧ t.chip.get (Reg.SPK_STATUS.HALF d.val) = 0 ∧ (t.chip.spkOf d.val).crUp = spkCredits ∧ (t.chip.spkOf d.val).crDn = spkCredits
        ∧ SameMessages s.chip.coh t.chip.coh
        ∧ OnlyFields { s.chip with spk := t.chip.spk, coh := t.chip.coh } t.chip
            ((List.range 5).map (fun k => Reg.SPK_BAD_UP.WIRES d.val k) ++ (List.range 5).map (fun k => Reg.SPKD_BAD_DN.WIRES d.val k) ++
              [Reg.SPK_STATUS.STATE d.val, Reg.SPKD_STATUS.STATE d.val, Reg.SPK_STATUS.HALF d.val, Reg.SPKD_STATUS.HALF d.val,
               Reg.SPK_STATUS.DISAGREE d.val, Reg.SPK_STATUS.BAD_UP d.val, Reg.SPKD_STATUS.BAD_DN d.val, Reg.DIR_FENCE.DIE 0 s.chip.pkg]))
    ∧ ((s.chip.spkOf d.val).train ∈ [1, 2, 3, 4, 7] →
      ∃ t, exec (.spokeTrainStepTimeout d) s = .next t ∧ t.pending = s.pending ∧ t.chip.spkState d.val = spkFenced
        ∧ t.chip.get (Reg.SPK_STATUS.FENCE_CAUSE d.val) = 4 ∧ t.chip.bitOf (Reg.DIR_FENCE.DIE 0 s.chip.pkg) d.val = true)
    ∧ ((s.chip.spkOf d.val).train = 5 → s.chip.get (Reg.SPK_STATUS.DISAGREE d.val) < 2 →
      ∃ t, exec (.spokeTrainStepTimeout d) s = .next t ∧ t.pending = s.pending ∧ t.chip.spkState d.val = spkTraining
        ∧ (t.chip.spkOf d.val).train = 2
        ∧ t.chip.get (Reg.SPK_STATUS.DISAGREE d.val) = s.chip.get (Reg.SPK_STATUS.DISAGREE d.val) + 1))

/-- Tandem flits (R269 to R271, R278, R461): a packetised port takes the next flit in order and its message reaches the hub; a flit received
before changes nothing, and one too damaged is answered with NAK; a paired port goes DOWN on it with REASON 9 and the far package is fenced; a
port that hears nothing goes DOWN with REASON 14; messages held for a package leave on its new route, or wait while there is none. -/
def Obligations.TandemFlitsAreTaken : Prop :=
  (∀ (s : State) (p : Fin 6) (f : TdmFlit), s.chip.halted = false → s.chip.tdmState p.val = tdmUp → s.chip.on (Reg.TDM_CTRL.MODE p.val) = true →
    (∀ m : WireMsg, f.errs = [] → f.idle = false → f.nak = false → f.ack = none → f.msgs = [m] → (s.chip.tdmOf p.val).rxAny = true →
        f.seq % 4096 = ((s.chip.tdmOf p.val).rx + 1) % 4096 → (s.chip.tdmOf p.val).out = [] → m.cls = clsReq → m.dstPkg % 8 = s.chip.pkg →
        m.dstDie % 16 = 12 →
      ∃ t, exec (.tandemFlitReceive p f) s = .next t ∧ t.pending = s.pending
        ∧ t.chip.coh.hubIn = s.chip.coh.hubIn ++ [{ s.chip.ofWire m with buf := some p.val }] ∧ (t.chip.tdmOf p.val).rx = f.seq ∧ (t.chip.tdmOf p.val).nak = false
        ∧ t.chip = { s.chip with coh := { s.chip.coh with hubIn := t.chip.coh.hubIn }, tdm := t.chip.tdm, nrg := t.chip.nrg })
    ∧ (f.errs = [] → f.idle = false → (s.chip.tdmOf p.val).rxAny = true → (s.chip.tdmOf p.val).rx < 4096 → f.seq % 4096 = (s.chip.tdmOf p.val).rx →
      exec (.tandemFlitReceive p f) s = .next s)
    ∧ (flitDecode ((s.chip.tdmFrame f).payload true) f.errs = .bad →
      ∃ t, exec (.tandemFlitReceive p f) s = .next t ∧ t.pending = s.pending
        ∧ t.chip.tdmOf p.val = { s.chip.tdmOf p.val with nak := true } ∧ t.chip = { s.chip with tdm := t.chip.tdm }))
  ∧ (∀ (s : State) (p : Fin 6) (f : TdmFlit), s.chip.halted = false → s.chip.tdmState p.val = tdmUp → s.chip.on (Reg.TDM_CTRL.MODE p.val) = false →
      flitDecode ((s.chip.tdmFrame f).payload false) f.errs = .bad → (s.chip.tdmOf p.val).out = [] → s.chip.get (Reg.TDM_CTRL.PEER p.val) ≠ s.chip.pkg →
    ∃ t, exec (.tandemFlitReceive p f) s = .next t ∧ t.pending = s.pending ∧ t.chip.tdmState p.val = tdmDown
      ∧ t.chip.get (Reg.TDM_STATUS.REASON p.val) = 9 ∧ t.chip.fencedPkg (s.chip.get (Reg.TDM_CTRL.PEER p.val)) = true)
  ∧ (∀ (s : State) (p : Fin 6), s.chip.halted = false → s.chip.tdmState p.val = tdmUp ∨ s.chip.tdmState p.val = tdmRetrain →
      (s.chip.tdmOf p.val).out = [] → (s.chip.tdmOf p.val).replay = [] →
    ∃ t, exec (.tandemSilence p) s = .next t ∧ t.pending = s.pending ∧ t.chip.tdmState p.val = tdmDown
      ∧ t.chip.get (Reg.TDM_STATUS.REASON p.val) = 14 ∧ SameMessages s.chip.coh t.chip.coh ∧ SameMemory s.chip t.chip)
  ∧ (∀ (s : State) (q : Fin 8) (m : Msg), s.chip.halted = false → s.chip.routeHold = [(q.val, [m])] → m.dstPkg = q.val → m.cls = clsDat →
      s.chip.unacked q.val = false → s.chip.coh.away = [] → s.chip.fencedPkg q.val = false →
    (s.chip.routePort q.val m = none →
      ∃ t, exec (.routeHoldRelease q) s = .next t ∧ t.pending = s.pending ∧ t.chip.routeHold = []
        ∧ t.chip.coh.away = [⟨m, q.val, false, s.chip.time⟩]
        ∧ t.chip = { s.chip with routeHold := [], coh := { s.chip.coh with away := t.chip.coh.away } })
    ∧ (∀ p, s.chip.routePort q.val m = some p → (s.chip.tdmOf p).out = [] → (s.chip.tdmOf p).replay = [] →
        0 < ((s.chip.tdmOf p).cr[clsDat]?).getD 0 →
      ∃ t, exec (.routeHoldRelease q) s = .next t ∧ t.pending = s.pending ∧ t.chip.routeHold = [] ∧ t.chip.coh = s.chip.coh
        ∧ (t.chip.tdmOf p).sent = (s.chip.tdmOf p).sent ++ [(s.chip.tdmOf p).frame (s.chip.on (Reg.TDM_CTRL.MODE p)) (s.chip.tdmOf p).seq [m]]
        ∧ CountedOnly { s.chip with routeHold := [], tdm := t.chip.tdm, rg := t.chip.rg } t.chip
            [Reg.ARB_STATUS.CAND (6 + p), Reg.ARB_STATUS.WAITING (6 + p)]))

/-- Tandem port states (R273 to R275): EN written 1, or TRAIN with EN 1, of a DOWN port starts training at step 1 with no lane marked bad; EN
written 0 takes a port DOWN with REASON 0 where nothing is unacknowledged; step 4 passes where every check of R274 holds, and a far package
that is not PEER ends in HELD with REASON 4; after step 6 the port is UP; a step that times out leaves it DOWN with the step's REASON. -/
def Obligations.TandemTrains : Prop :=
  (∀ (s : State) (w : Who) (p : Fin 6) (v : Word), s.chip.writeRuns w (Reg.TDM_CTRL.EN p.val).off = true →
      s.chip.bitOf Reg.PWR_GATED.GATED (44 + p.val) = false → s.chip.bootStopped = false → s.chip.tdmState p.val = tdmDown →
      bit v.toNat 0 = true →
    ∀ i ∈ [Instr.tdmEnable w p v, .tdmTrain w p v],
      ∃ t, exec i s = .next t ∧ t.pending = s.pending ∧ t.chip.tdmState p.val = tdmTraining ∧ (t.chip.tdmOf p.val).step = 1
        ∧ t.chip.get (Reg.TDM_LANE_BAD.LANES p.val) = 0 ∧ t.chip.get (Reg.TDM_CTRL.EN p.val) = 1
        ∧ SameMessages s.chip.coh t.chip.coh ∧ t.chip.spk = s.chip.spk ∧ SameMemory s.chip t.chip)
  ∧ (∀ (s : State) (w : Who) (p : Fin 6) (v : Word), s.chip.writeRuns w (Reg.TDM_CTRL.EN p.val).off = true → s.chip.tdmState p.val ≠ tdmDown →
      (s.chip.tdmOf p.val).out = [] → (s.chip.tdmOf p.val).replay = [] →
    ∃ t, exec (.tdmDisable w p v) s = .next t ∧ t.pending = s.pending ∧ t.chip.tdmState p.val = tdmDown
      ∧ t.chip.get (Reg.TDM_STATUS.REASON p.val) = 0 ∧ t.chip.get (Reg.TDM_CTRL.EN p.val) = 0
      ∧ t.chip.get (Reg.TDM_CTRL.MODE p.val) = s.chip.get (Reg.TDM_CTRL.MODE p.val)
      ∧ SameMessages s.chip.coh t.chip.coh ∧ t.chip.spk = s.chip.spk ∧ SameMemory s.chip t.chip)
  ∧ (∀ (s : State) (p : Fin 6) (r : TdmReady), s.chip.halted = false → s.chip.tdmState p.val = tdmTraining →
    ((s.chip.tdmOf p.val).step = 1 →
      ∃ t, exec (.tdmTrainStepReady p r) s = .next t ∧ t.pending = s.pending ∧ (t.chip.tdmOf p.val).step = 2
        ∧ t.chip = { s.chip with tdm := t.chip.tdm })
    ∧ ((s.chip.tdmOf p.val).step = 4 → s.chip.on Reg.HUB_AMAP_LOCK.LOCK = true → r.lock = true →
      ∃ t, exec (.tdmTrainStepReady p r) s = .next t ∧ t.pending = s.pending
        ∧ t.chip.get (Reg.TDM_STATUS.PEER_SEEN p.val) = r.pkg % 8
        ∧ (r.pkg % 8 ≠ s.chip.get (Reg.TDM_CTRL.PEER p.val) ∨ r.pkg % 8 = s.chip.pkg →
            t.chip.tdmState p.val = tdmHeld ∧ t.chip.get (Reg.TDM_STATUS.REASON p.val) = 4)
        ∧ (r.pkg % 8 = s.chip.get (Reg.TDM_CTRL.PEER p.val) → r.pkg % 8 ≠ s.chip.pkg → r.mode % 2 = s.chip.get (Reg.TDM_CTRL.MODE p.val) →
            s.chip.on (Reg.TDM_CTRL.MODE p.val) = true ∨ popc 8 s.chip.presentMap = 2 →
            r.digest = s.chip.get Reg.HUB_AMAP_LOCK.DIGEST → r.present = s.chip.presentMap →
            t.chip.tdmState p.val = tdmTraining ∧ (t.chip.tdmOf p.val).step = 5))
    ∧ ((s.chip.tdmOf p.val).step = 6 → (s.chip.tdmOf p.val).out = [] →
      ∃ t, exec (.tdmTrainStepReady p r) s = .next t ∧ t.pending = s.pending ∧ t.chip.tdmState p.val = tdmUp
        ∧ (t.chip.tdmOf p.val).cr = tdmCredits ∧ (t.chip.tdmOf p.val).replay = [] ∧ SameMessages s.chip.coh t.chip.coh)
    ∧ (∀ bad : BitVec 16, (s.chip.tdmOf p.val).out = [] → (s.chip.tdmOf p.val).replay = [] →
      ∀ k ∈ [(1, 1), (2, 2), (3, 3), (6, 11)], (s.chip.tdmOf p.val).step = k.1 →
      ∃ t, exec (.tdmTrainStepTimeout p bad) s = .next t ∧ t.pending = s.pending ∧ t.chip.tdmState p.val = tdmDown
        ∧ t.chip.get (Reg.TDM_STATUS.REASON p.val) = k.2 ∧ SameMessages s.chip.coh t.chip.coh))

/-- Answers and markers (R25, R118, R121, R181, R197, R458): a GRANT ends the device write that its tag names, and a DAT the device read; the answer
that carries a violation to the hub of its master freezes the context that it names; an IO_MARK of this package is answered with IO_ACK, which takes the
package from those the fence waits for; the hub gives a writeback of its own memory to the line's home, and drops what a fenced die sends. -/
def Obligations.DeviceAnswersAndMarkers : Prop :=
  (∀ (s : State) (d : Fin 12) (m : Msg) (c1 : Chip) (e : StoreEnt), s.chip.halted = false →
      s.chip.takeDie d.val (fun m => m.cls == clsRsp && m.typ == tGrant && !s.chip.ansHeld d.val m) = some (m, c1) → isDevTag m.tag = true →
      (s.chip.ctxOf (ctxOfAgent m.agent)).loads = [] → (s.chip.coreOf (coreIx (ctxOfAgent m.agent))).c3 = 0 →
      (s.chip.ctxOf (ctxOfAgent m.agent)).sq.find? (fun e => isDevice e.pa && e.sent && devTag e.seq == m.tag) = some e →
    ∃ t, exec (.grant d) s = .next t ∧ t.pending = s.pending
      ∧ (t.chip.ctxOf (ctxOfAgent m.agent)).sq = (s.chip.ctxOf (ctxOfAgent m.agent)).sq.filter (fun q => q.seq != e.seq)
      ∧ (∀ y, y ≠ ctxOfAgent m.agent → (t.chip.ctxOf y).sq = (s.chip.ctxOf y).sq)
      ∧ t.chip.coh = c1.coh ∧ SameMemory s.chip t.chip)
  ∧ (∀ (s : State) (d : Fin 12) (m : Msg) (c1 : Chip) (l : LoadJob), s.chip.halted = false →
      s.chip.takeDie d.val (fun m => m.cls == clsDat && !s.chip.ansHeld d.val m) = some (m, c1) → isDevTag m.tag = true →
      (s.chip.ctxOf (ctxOfAgent m.agent)).loads = [l] → l.dev = true → l.sent = true → devTag l.job = m.tag →
    ∃ t, exec (.dat ⟨d.val, by omega⟩) s = .next t ∧ t.pending = s.pending
      ∧ (t.chip.ctxOf (ctxOfAgent m.agent)).loads = []
      ∧ (∀ p ∈ (t.chip.ctxOf (ctxOfAgent m.agent)).pend, p.job = l.job → l.job ≠ 0 →
          p.ready = true ∧ p.poison = m.poison ∧ p.val = (if m.poison then 0 else l.value (m.data.getD 0#512)))
      ∧ t.chip.coh = c1.coh ∧ SameMemory s.chip t.chip)
  ∧ (∀ (s : State) (m : Msg) (i : FInfo), s.chip.halted = false →
      (s.chip.takeHub (fun m => m.cls == clsRsp && m.typ == tViolation)).map (·.1) = some m →
      FInfo.ofWords (bits (m.data.getD 0#512).toNat 0 64) (bits (m.data.getD 0#512).toNat 64 64) (bits (m.data.getD 0#512).toNat 192 64) = i →
      agPkg m.agent = s.chip.pkg → agDie m.agent < 12 → i.kind = 0 → s.chip.ownCtx i.master = true → ctxOfAgent i.master < 960 → s.chip.tntState (s.chip.cxTenant (ctxOfAgent i.master)) ≠ tnResetting →
      (s.chip.coreOf (coreIx (ctxOfAgent i.master))).c3 = 0 → SMap.get? s.chip.frozen (ctxOfAgent i.master) = none →
      s.chip.cxState (ctxOfAgent i.master) ≠ cxOff →
    ∃ t, exec (.violationReturn 12) s = .next t ∧ t.pending = s.pending
      ∧ SMap.get? t.chip.frozen (ctxOfAgent i.master) = some i.cause ∧ t.chip.cxState (ctxOfAgent i.master) = cxHeld
      ∧ (t.chip.ctxOf (ctxOfAgent i.master)).loads = [] ∧ (t.chip.ctxOf (ctxOfAgent i.master)).sq = [])
  ∧ (∀ (s : State) (m : Msg) (c1 : Chip), s.chip.halted = false →
      s.chip.takeHub (fun m => m.cls == clsRsp && m.typ == tIoMark
        && (s.chip.fromFenced m || m.dstPkg != s.chip.pkg || !s.chip.relaxedOut)) = some (m, c1) →
      s.chip.fromFenced m = false → s.chip.relaxedOut = false → m.dstPkg = s.chip.pkg → agPkg m.agent = s.chip.pkg → agDie m.agent < 12 →
      s.chip.fencedDie s.chip.pkg (agDie m.agent) = false →
    ∃ t r, exec .ioMark s = .next t ∧ t.pending = s.pending
      ∧ (t.chip.spkOf (agDie m.agent)).dn = (s.chip.spkOf (agDie m.agent)).dn ++ [r] ∧ r.cls = clsRsp ∧ r.typ = tIoAck ∧ r.tag = m.tag
      ∧ r.poison = false ∧ t.chip = { c1 with spk := t.chip.spk })
  ∧ (∀ (s : State) (d : Fin 12) (m : Msg) (c1 : Chip) (q : Serial), s.chip.halted = false →
      s.chip.takeDie d.val (fun m => m.cls == clsRsp && m.typ == tIoAck && !s.chip.ratioBusy (cluIx (80 * d.val + m.tag / 8 % 80)))
        = some (m, c1) →
      (s.chip.ctxOf (80 * d.val + m.tag / 8 % 80)).serial = some q → q.kind = .fence 3 → m.tag % 8 ∈ q.marks →
    ∃ t, exec (.ioAck d) s = .next t ∧ t.pending = s.pending
      ∧ (t.chip.ctxOf (80 * d.val + m.tag / 8 % 80)).serial
          = some { q with marks := q.marks.filter (· != m.tag % 8), failed := if m.poison then q.failed ++ [m.tag % 8] else q.failed }
      ∧ (∀ y, y ≠ 80 * d.val + m.tag / 8 % 80 → t.chip.ctxOf y = s.chip.ctxOf y)
      ∧ t.chip = { c1 with ctx := t.chip.ctx })
  ∧ (∀ (s : State) (m : Msg) (c1 : Chip), s.chip.halted = false → s.chip.inIdle = true → s.chip.takeHub s.chip.hubTakes = some (m, c1) →
    (s.chip.fromFenced m = true →
      ∃ t, exec .hubRequest s = .next t ∧ t.pending = s.pending
        ∧ OnlyFields c1.asked t.chip
            [Reg.DIR_CNT2.FENCED_DROP (if m.isLine then homeSlice (64 * m.line) else 0)])
    ∧ (s.chip.fromFenced m = false → m.cls = clsWbk → s.chip.reqHome m.line = s.chip.pkg →
      ∃ t, exec .hubRequest s = .next t ∧ t.pending = s.pending ∧ t.chip.coh.homeQ = s.chip.coh.homeQ ++ [m]
        ∧ t.chip = { c1.asked with coh := { c1.asked.coh with homeQ := t.chip.coh.homeQ } }))

/-- Tenant commands (R281 to R283), of which none waits here for another hub's: CREATE takes a FREE entry by number, or the lowest one, and
reports DONE, FULL, IN_USE or DENIED; FREEZE and THAW, of a tenant with no queue and no function, and RESET and DESTROY move an entry from the
states they apply to, and report BAD_STATE from others and DENIED for tenant 0; a hub that is asked by another does the same to its own entry;
the last answer ends the command. -/
def Obligations.TenantCommandsRun : Prop :=
  (∀ (s : State) (w : Who) (t' : BitVec 12), s.chip.writeRuns w Reg.TNT_CMD.OP.off = true → s.chip.on Reg.TNT_CMD_STATUS.BUSY = false →
    (∃ t, exec (.tntCreate w false t') s = .next t ∧ t.pending = s.pending
      ∧ (t' = 0#12 → t.chip.get Reg.TNT_CMD_STATUS.RESULT = trDenied)
      ∧ (t' ≠ 0#12 → s.chip.tntState t'.toNat = tnFree → t.chip.tntState t'.toNat = tnActive ∧ t.chip.get Reg.TNT_CMD_STATUS.RESULT = trDone
          ∧ t.chip.get Reg.TNT_CMD_STATUS.TENANT = t'.toNat)
      ∧ (t' ≠ 0#12 → s.chip.tntState t'.toNat ≠ tnFree → t.chip.tntState t'.toNat = s.chip.tntState t'.toNat
          ∧ t.chip.get Reg.TNT_CMD_STATUS.RESULT = trInUse)
      ∧ (∀ u < 4096, u ≠ t'.toNat → t.chip.tntState u = s.chip.tntState u)
      ∧ SameMemory s.chip t.chip ∧ t.chip.ctx = s.chip.ctx ∧ t.chip.coh = s.chip.coh)
    ∧ (∃ t, exec (.tntCreate w true t') s = .next t ∧ t.pending = s.pending
      ∧ (∀ u, 1 ≤ u → u < 4096 → s.chip.tntState u = tnFree → (∀ v, 1 ≤ v → v < u → s.chip.tntState v ≠ tnFree) →
          t.chip.tntState u = tnActive ∧ t.chip.get Reg.TNT_CMD_STATUS.RESULT = trDone ∧ t.chip.get Reg.TNT_CMD_STATUS.TENANT = u)
      ∧ ((∀ u, 1 ≤ u → u < 4096 → s.chip.tntState u ≠ tnFree) → t.chip.get Reg.TNT_CMD_STATUS.RESULT = trFull)))
  ∧ (∀ (s : State) (w : Who) (t' : BitVec 12), s.chip.writeRuns w Reg.TNT_CMD.OP.off = true → s.chip.on Reg.TNT_CMD_STATUS.BUSY = false →
      s.chip.hqe.jobs = [] → (∀ q, q ≠ s.chip.pkg → s.chip.present q = false) → s.chip.tntBehind t'.toNat = false →
    (s.chip.queuesOf t'.toNat = [] → s.chip.fnsOf t'.toNat = [] →
      ∀ p ∈ [(Instr.tntFreeze w t', tnActive, tnFrozen), (.tntThaw w t', tnFrozen, tnActive)],
      ∃ t, exec p.1 s = .next t ∧ t.pending = s.pending ∧ t.chip.get Reg.TNT_CMD_STATUS.BUSY = 0
        ∧ (t' ≠ 0#12 → s.chip.tntState t'.toNat = p.2.1 → t.chip.tntState t'.toNat = p.2.2 ∧ t.chip.get Reg.TNT_CMD_STATUS.RESULT = trDone)
        ∧ (t' ≠ 0#12 → s.chip.tntState t'.toNat ≠ p.2.1 → t.chip.tntState t'.toNat = s.chip.tntState t'.toNat
            ∧ t.chip.get Reg.TNT_CMD_STATUS.RESULT = trBadState)
        ∧ (t' = 0#12 → t.chip.get Reg.TNT_CMD_STATUS.RESULT = trDenied))
    ∧ (∀ p ∈ [(Instr.tntReset w t', false), (.tntDestroy w t', true)],
      ∃ t, exec p.1 s = .next t ∧ t.pending = s.pending
        ∧ (t' ≠ 0#12 → s.chip.tntState t'.toNat = tnActive ∨ s.chip.tntState t'.toNat = tnFrozen →
            t.chip.tntState t'.toNat = tnResetting ∧ t.chip.get Reg.TNT_CMD_STATUS.BUSY = 1
            ∧ t.chip.hqe.resets = s.chip.hqe.resets ++ [⟨t'.toNat, 1, p.2, none⟩])
        ∧ (t' ≠ 0#12 → s.chip.tntState t'.toNat = tnFree ∨ s.chip.tntState t'.toNat = tnResetting →
            t.chip.tntState t'.toNat = s.chip.tntState t'.toNat ∧ t.chip.get Reg.TNT_CMD_STATUS.RESULT = trBadState)
        ∧ (t' = 0#12 → t.chip.get Reg.TNT_CMD_STATUS.RESULT = trDenied)))
  ∧ (∀ (s : State) (m : Msg), s.chip.halted = false →
      (s.chip.takeHub (fun m => m.cls == clsRsp && m.typ == tTntCmd && (s.chip.resetOf m.tenant).isNone)).map (·.1) = some m →
      m.tenant < 4096 →
    ∃ t, exec .tntCmd s = .next t ∧ t.pending = s.pending
      ∧ (s.chip.queuesOf m.tenant = [] → s.chip.fnsOf m.tenant = [] →
          (m.aux = opFreeze → s.chip.tntState m.tenant = tnActive → t.chip.tntState m.tenant = tnFrozen)
          ∧ (m.aux = opThaw → s.chip.tntState m.tenant = tnFrozen → t.chip.tntState m.tenant = tnActive))
      ∧ (m.aux = opReset ∨ m.aux = opDestroy → s.chip.tntState m.tenant = tnActive → t.chip.tntState m.tenant = tnResetting
          ∧ t.chip.hqe.resets = s.chip.hqe.resets ++ [⟨m.tenant, 1, decide (m.aux = opDestroy), some m⟩]))
  ∧ (∀ (s : State) (m : Msg) (c1 : Chip) (j : TntJob), s.chip.halted = false →
      s.chip.takeHub (fun m => m.cls == clsRsp && m.typ == tTntDone) = some (m, c1) →
      s.chip.hqe.jobs = [j] → s.chip.hqe.tntWait = [] → j.src = 0 → j.tag = m.tag → j.waits = [agPkg m.agent] → j.ownDone = true → j.missing = 0 →
    ∃ t, exec .tntDone s = .next t ∧ t.pending = s.pending ∧ t.chip.hqe.jobs = [] ∧ t.chip.get Reg.TNT_CMD_STATUS.BUSY = 0
      ∧ t.chip.get Reg.TNT_CMD_STATUS.RESULT = (if j.applied || bit m.aux 0 then trDone else trBadState)
      ∧ OnlyFields { c1 with coh := { c1.coh with away := t.chip.coh.away }, hqe := { c1.hqe with jobs := [] }, irqs := t.chip.irqs } t.chip
          [Reg.TNT_CMD_STATUS.BUSY, Reg.TNT_CMD_STATUS.RESULT, Reg.TNT_CMD_STATUS.TENANT, Reg.TNT_CMD_STATUS.MISSING])

/-- Tenant resets and supervisors (R284, R289, R291): step 1 of a tenant without queues goes on to step 2, which waits while the tenant owns queues; the end of a reset makes the tenant ACTIVE, and of a
DESTROY FREE; a step that runs too long is reported with its number; a supervisor page thaws a frozen context of its tenant whose cause R289
lets it thaw, which enters OFF, freezes one, and resets its tenant; a master of another tenant is NOT_OWNER. -/
def Obligations.TenantResetsAndSupervisors : Prop :=
  (∀ (s : State) (u : BitVec 12) (r : TntReset), s.chip.halted = false → s.chip.resetOf u.toNat = some r →
    (r.step = 1 → s.chip.queuesOf u.toNat = [] → (r.destroy = true → ∀ p ∈ s.chip.hqe.off, p.2 ≠ u.toNat) →
      ∃ t x, exec (.tenantResetStep u) s = .next t ∧ t.pending = s.pending ∧ t.chip.resetOf u.toNat = some x ∧ x.step = 2
        ∧ t.chip.tntState u.toNat = s.chip.tntState u.toNat)
    ∧ (r.step = 2 → s.chip.queuesOf u.toNat ≠ [] → exec (.tenantResetStep u) s = .next { s with chip := s.chip.asked })
    ∧ (r.step = 4 → s.chip.fnsOf u.toNat = [] → r.answer = none → s.chip.hqe.jobs = [] →
      ∃ t, exec (.tenantResetStep u) s = .next t ∧ t.pending = s.pending ∧ t.chip.resetOf u.toNat = none
        ∧ t.chip.tntState u.toNat = (if r.destroy then tnFree else tnActive)
        ∧ (∀ v < 4096, v ≠ u.toNat → t.chip.tntState v = s.chip.tntState v)
        ∧ t.chip = { s.chip.asked with hqe := t.chip.hqe, regs := t.chip.regs })
    ∧ (∃ t, exec (.tenantResetStuck u) s = .next t ∧ t.pending = s.pending ∧ t.chip.get Reg.TNT_STATUS.STUCK = 1
        ∧ t.chip.get Reg.TNT_STATUS.STEP = r.step % 2 ^ Reg.TNT_STATUS.STEP.width
        ∧ OnlyFields { s.chip with irqs := t.chip.irqs } t.chip [Reg.TNT_STATUS.STUCK, Reg.TNT_STATUS.STEP]))
  ∧ (∀ (s : State) (w : Who) (u : BitVec 12) (m : BitVec 20), s.chip.writeRuns w (Reg.TNT_SV_CMD.OP u.toNat).off = true →
      s.chip.ownCtx (m.toNat % 2 ^ 16) = true → s.chip.cxPresent (ctxOfAgent (m.toNat % 2 ^ 16)) = true →
    (s.chip.cxTenant (ctxOfAgent (m.toNat % 2 ^ 16)) = u.toNat →
      (∀ cause, SMap.get? s.chip.frozen (ctxOfAgent (m.toNat % 2 ^ 16)) = some cause →
        ∃ t, exec (.svThaw w u 0#2 m) s = .next t ∧ t.pending = s.pending
          ∧ (svThawable cause = true → SMap.get? t.chip.frozen (ctxOfAgent (m.toNat % 2 ^ 16)) = none
              ∧ t.chip.cxState (ctxOfAgent (m.toNat % 2 ^ 16)) = cxOff ∧ t.chip.get (Reg.TNT_SV_STATUS.RESULT u.toNat) = svDone)
          ∧ (svThawable cause = false → t.chip.frozen = s.chip.frozen
              ∧ WroteOnly s.chip.asked t.chip w (Reg.TNT_SV_CMD.OP u.toNat).off [Reg.TNT_SV_STATUS.RESULT u.toNat]
              ∧ t.chip.get (Reg.TNT_SV_STATUS.RESULT u.toNat) = svDenied))
      ∧ (SMap.get? s.chip.frozen (ctxOfAgent (m.toNat % 2 ^ 16)) = none → s.chip.tntState u.toNat ≠ tnResetting →
          (s.chip.coreOf (coreIx (ctxOfAgent (m.toNat % 2 ^ 16)))).c3 = 0 → s.chip.cxState (ctxOfAgent (m.toNat % 2 ^ 16)) ≠ cxOff →
        ∃ t, exec (.svFreeze w u 0#2 m) s = .next t ∧ t.pending = s.pending
          ∧ SMap.get? t.chip.frozen (ctxOfAgent (m.toNat % 2 ^ 16)) = some fzExplicit
          ∧ t.chip.cxState (ctxOfAgent (m.toNat % 2 ^ 16)) = cxHeld ∧ t.chip.get (Reg.TNT_SV_STATUS.RESULT u.toNat) = svDone))
    ∧ (s.chip.cxTenant (ctxOfAgent (m.toNat % 2 ^ 16)) ≠ u.toNat →
      ∀ i ∈ [Instr.svThaw w u 0#2 m, .svFreeze w u 0#2 m],
        ∃ t, exec i s = .next t ∧ t.pending = s.pending ∧ t.chip.get (Reg.TNT_SV_STATUS.RESULT u.toNat) = svNotOwner
          ∧ WroteOnly s.chip.asked t.chip w (Reg.TNT_SV_CMD.OP u.toNat).off [Reg.TNT_SV_STATUS.RESULT u.toNat]))
  ∧ (∀ (s : State) (w : Who) (u : BitVec 12), s.chip.writeRuns w (Reg.TNT_SV_CMD.OP u.toNat).off = true →
    ∃ t, exec (.svResetTenant w u) s = .next t ∧ t.pending = s.pending
      ∧ (u ≠ 0#12 → s.chip.resetOf u.toNat = none → (∀ j ∈ s.chip.hqe.jobs, j.tenant ≠ u.toNat) → s.chip.tntBehind u.toNat = false →
          s.chip.tntState u.toNat = tnActive ∨ s.chip.tntState u.toNat = tnFrozen →
          t.chip.tntState u.toNat = tnResetting ∧ t.chip.hqe.resets = s.chip.hqe.resets ++ [⟨u.toNat, 1, false, none⟩])
      ∧ (u = 0#12 → t.chip.get (Reg.TNT_SV_STATUS.RESULT 0) = svDenied))

/-- Queues (R293, R294, R300, R301): a doorbell of the queue's owner that keeps its rules moves SQ_TAIL, makes an IDLE queue with work ACTIVE, and
is discarded and counted while the engine is off; ENABLE of a sound descriptor in OFF makes it an IDLE queue of its owner, which counts
one more; DISABLE turns off a queue with nothing in flight, and waits for started SQEs; PROBE reports; the oldest parked queue is filled where
an entry is free; HQE_CTRL takes EN. -/
def Obligations.QueuesTakeDoorbellsAndCommands : Prop :=
  (∀ (s : State) (w : Who) (q : BitVec 20) (v : Word) (x : QCtx), s.chip.halted = false → SMap.get? s.chip.hqe.queues q.toNat = some x →
      x.w.length = 8 →
    (s.chip.on Reg.HQE_CTRL.EN = true → s.chip.gated 51 = false → w.tenant = qOwner x.w → qState x.w ≠ qOff → bellBad x.w v.toNat = false →
      ∃ t y, exec (.doorbell w q v) s = .next t ∧ t.pending = s.pending ∧ SMap.get? t.chip.hqe.queues q.toNat = some y
        ∧ qSqTail y.w = bits v.toNat 0 24 ∧ qSqFetch y.w = qSqFetch x.w ∧ y.sqes = x.sqes
        ∧ qCqHead y.w = (if bit v.toNat 63 then bits v.toNat 32 24 else qCqHead x.w)
        ∧ qState y.w = (if qState x.w = qIdle ∧ bits v.toNat 0 24 ≠ qSqFetch x.w then qActive else qState x.w)
        ∧ (∀ k, k ≠ q.toNat → SMap.get? t.chip.hqe.queues k = SMap.get? s.chip.hqe.queues k)
        ∧ OnlyFields { s.chip.asked with hqe := t.chip.hqe } t.chip [Reg.HQE_CACHE_STATUS.VALID, Reg.HQE_CACHE_STATUS.ACTIVE])
    ∧ (s.chip.on Reg.HQE_CTRL.EN = false →
      ∃ t, exec (.doorbell w q v) s = .next t ∧ t.pending = s.pending
        ∧ t.chip.get Reg.HQE_ERR_CNT.DB_DISCARD = satAdd Reg.HQE_ERR_CNT.DB_DISCARD.width (s.chip.get Reg.HQE_ERR_CNT.DB_DISCARD) 1
        ∧ OnlyFields s.chip.asked t.chip [Reg.HQE_ERR_CNT.DB_DISCARD]))
  ∧ (∀ (s : State) (w : Who) (q : BitVec 20) (d : Line), s.chip.writeRuns w Reg.HQE_QCMD.OP.off = true → s.chip.on Reg.HQE_QCMD_STATUS.BUSY = false →
      SMap.get? s.chip.hqe.queues q.toNat = none → s.chip.hqe.queues.length < hqeCacheSize →
      s.chip.hubHolds (s.chip.qAddr q.toNat / 64) s.chip.hqeWho ⟨d, false⟩ = true →
      qState (wordsOf 8 d.toNat) = qOff → descBad (wordsOf 8 d.toNat) = false → s.chip.tntState (qOwner (wordsOf 8 d.toNat)) = tnActive →
      s.chip.get (Reg.TNT_ENT.QUEUES (qOwner (wordsOf 8 d.toNat))) < s.chip.get (Reg.TNT_ENT.QUOTA (qOwner (wordsOf 8 d.toNat))) →
    ∃ t y, exec (.qcmdEnable w q) s = .next t ∧ t.pending = s.pending ∧ t.chip.get Reg.HQE_QCMD_STATUS.RESULT = qrDone
      ∧ t.chip.get Reg.HQE_QCMD_STATUS.QSTATE = qIdle ∧ t.chip.get Reg.HQE_QCMD_STATUS.BUSY = 0
      ∧ SMap.get? t.chip.hqe.queues q.toNat = some y ∧ qState y.w = qIdle ∧ qSqTail y.w = 0 ∧ qSqFetch y.w = 0 ∧ y.sqes = []
      ∧ SMap.get? t.chip.hqe.live q.toNat = some (qOwner (wordsOf 8 d.toNat))
      ∧ t.chip.get (Reg.TNT_ENT.QUEUES (qOwner (wordsOf 8 d.toNat)))
          = (s.chip.get (Reg.TNT_ENT.QUEUES (qOwner (wordsOf 8 d.toNat))) + 1) % 2 ^ (Reg.TNT_ENT.QUEUES 0).width)
  ∧ (∀ (s : State) (w : Who) (q : BitVec 20) (x : QCtx), s.chip.writeRuns w Reg.HQE_QCMD.OP.off = true → s.chip.on Reg.HQE_QCMD_STATUS.BUSY = false →
      SMap.get? s.chip.hqe.queues q.toNat = some x → x.w.length = 8 → s.chip.tntState (qOwner x.w) ≠ tnResetting →
    (qState x.w = qIdle ∨ qState x.w = qFrozen ∨ (qState x.w = qActive ∧ x.sqes = []) →
      ∃ t, exec (.qcmdDisable w q) s = .next t ∧ t.pending = s.pending ∧ t.chip.get Reg.HQE_QCMD_STATUS.RESULT = qrDone
        ∧ t.chip.get Reg.HQE_QCMD_STATUS.QSTATE = qOff ∧ SMap.get? t.chip.hqe.queues q.toNat = none
        ∧ SMap.get? t.chip.hqe.live q.toNat = none ∧ SMap.get? t.chip.frozen (keyQ q.toNat) = none)
    ∧ (qState x.w = qActive → x.sqes ≠ [] →
      ∃ t, exec (.qcmdDisable w q) s = .next t ∧ t.pending = s.pending ∧ t.chip.get Reg.HQE_QCMD_STATUS.BUSY = 1
        ∧ SMap.get? t.chip.hqe.queues q.toNat = some { x with disabling := true } ∧ t.chip.hqe.qcmd = some q.toNat)
    ∧ (∃ t, exec (.qcmdProbe w q) s = .next t ∧ t.pending = s.pending ∧ t.chip.get Reg.HQE_QCMD_STATUS.RESULT = qrDone
        ∧ t.chip.get Reg.HQE_QCMD_STATUS.QSTATE = qState x.w ∧ t.chip.get Reg.HQE_QCMD_STATUS.CACHED = 1
        ∧ t.chip.get Reg.HQE_QCMD_STATUS.INFLIGHT = x.sqes.length % 2 ^ Reg.HQE_QCMD_STATUS.INFLIGHT.width
        ∧ WroteOnly s.chip.asked t.chip w Reg.HQE_QCMD.OP.off
            [Reg.HQE_QCMD_STATUS.BUSY, Reg.HQE_QCMD_STATUS.RESULT, Reg.HQE_QCMD_STATUS.QSTATE, Reg.HQE_QCMD_STATUS.CACHED,
             Reg.HQE_QCMD_STATUS.PARKED, Reg.HQE_QCMD_STATUS.INFLIGHT]))
  ∧ (∀ (s : State) (q : BitVec 20) (r d : Line) (a : Nat), s.chip.halted = false → s.chip.hqe.parkHead ≠ s.chip.hqe.parkTail →
      s.chip.get Reg.HQE_PARK.BASE * 2 ^ 22 + 4 * (s.chip.hqe.parkHead % 2 ^ 20) = a → s.chip.hubHolds (a / 64) s.chip.hqeWho ⟨r, false⟩ = true →
      lineGet r (a % 64) 4 % 2 ^ 20 = q.toNat → SMap.get? s.chip.hqe.queues q.toNat = none → s.chip.hqe.queues.length < hqeCacheSize →
      s.chip.hubHolds (s.chip.qAddr q.toNat / 64) s.chip.hqeWho ⟨d, false⟩ = true →
      qState (wordsOf 8 d.toNat) ≠ qOff → qParked (wordsOf 8 d.toNat) = true →
    ∃ t y, exec (.contextFill q) s = .next t ∧ t.pending = s.pending ∧ t.chip.hqe.parkHead = s.chip.hqe.parkHead + 1
      ∧ SMap.get? t.chip.hqe.queues q.toNat = some y ∧ y.w = qSet (wordsOf 8 d.toNat) 0 7 1 0 ∧ y.sqes = []
      ∧ SameHubCache s.chip t.chip
      ∧ CountedOnly { s.chip.readHub t.chip with hqe := t.chip.hqe } t.chip [Reg.HQE_CACHE_STATUS.VALID, Reg.HQE_CACHE_STATUS.ACTIVE])
  ∧ (∀ (s : State) (w : Who) (v : Word), s.chip.writeRuns w Reg.HQE_CTRL.EN.off = true → s.chip.fwQuiet = false →
    ∃ t, exec (.hqeCtrlWrite w v) s = .next t ∧ t.pending = s.pending ∧ t.chip.get Reg.HQE_CTRL.EN = bits v.toNat 0 1
      ∧ WroteOnly s.chip.asked t.chip w Reg.HQE_CTRL.EN.off [Reg.HQE_CTRL.EN])

/-- Services (R295 to R298, R301, R302): the next slot that names an eligible queue adds 256 bytes times QUANTUM to the queue's allowance and, with every
consumed SQE asked for, fetches its next SQE; a fetched SQE is consumed and SQ_FETCH advances; the last SQE of a queue that is done writes a
16-byte entry with its USER word to the completion ring, CQ_TAIL advances, and a queue with nothing left becomes IDLE; a table that wraps counts, and
makes a pending shadow table active; SWAP makes it pending. The reads of a ring and the writes of a completion ring are requests, charged to the
queue's entry (R307 to R309). -/
def Obligations.SchedulersServeQueues : Prop :=
  (∀ (s : State) (n : Fin 8) (j q : Nat) (x : QCtx), s.chip.halted = false → s.chip.gated 51 = false → s.chip.on Reg.HQE_CTRL.EN = true →
      s.chip.slotAt n.val = j → j < 4096 → bits (s.chip.slotWord n.val j) 20 2 = 1 → bits (s.chip.slotWord n.val j) 0 20 = q →
      s.chip.hqe.queues = [(q, x)] → x.eligible n.val = true → x.allAsked = true → x.may = true → (∀ e ∈ x.sqes, e.wr = []) → qQuantum x.w ≠ 0 →
      s.chip.qStopped x = false → s.chip.regMisuse (qRmaster x.w) (qOwner x.w) false = false → s.chip.qHeld x = false →
    ∃ t y, exec (.serviceLaunch n) s = .next t ∧ t.pending = s.pending ∧ t.chip.slotAt n.val = j + 1
      ∧ SMap.get? t.chip.hqe.queues q = some y ∧ y.fetching = true ∧ y.quantum = x.quantum + 256 * qQuantum x.w ∧ y.w = x.w ∧ y.sqes = x.sqes
      ∧ (qRmaster x.w < 4096 → t.chip.get (Reg.REG_ENT.USED (qRmaster x.w))
          = satAdd (Reg.REG_ENT.USED (qRmaster x.w)).width (s.chip.get (Reg.REG_ENT.USED (qRmaster x.w))) 1)
      ∧ CountedOnly { s.chip.asked with hqe := t.chip.hqe } t.chip (if qRmaster x.w < 4096 then [Reg.REG_ENT.USED (qRmaster x.w)] else []))
  ∧ (∀ (s : State) (q : BitVec 20) (x : QCtx) (a : Nat) (d : Line), s.chip.halted = false → SMap.get? s.chip.hqe.queues q.toNat = some x →
      x.w.length = 8 → x.fetching = true → x.quantum = 0 → x.disabling = false → s.chip.qStopped x = false → (∀ e ∈ x.sqes, e.wr = []) → qSqBase x.w + 64 * (qSqFetch x.w % 2 ^ qSqLog x.w) = a →
      s.chip.hubHolds (a / 64) (s.chip.qWho q.toNat x.w) ⟨d, false⟩ = true → sqeBad (qTarget x.w) (wordsOf 8 d.toNat) = false →
    ∃ t y, exec (.sqeFetch q) s = .next t ∧ t.pending = s.pending ∧ SMap.get? t.chip.hqe.queues q.toNat = some y
      ∧ y.sqes = x.sqes ++ [sqeOf (qSqFetch x.w) (wordsOf 8 d.toNat)] ∧ y.fetching = false ∧ qSqFetch y.w = (qSqFetch x.w + 1) % 2 ^ 24
      ∧ qSqTail y.w = qSqTail x.w ∧ SameHubCache s.chip t.chip
      ∧ CountedOnly { s.chip.readHub t.chip with hqe := t.chip.hqe, rg := { s.chip.rg with lat := t.chip.rg.lat } } t.chip
          [Reg.REG_ENT.LAT (s.chip.entOf (s.chip.qWho q.toNat x.w).agent q.toNat)])
  ∧ (∀ (s : State) (q : BitVec 20) (idx : BitVec 24) (x : QCtx) (e : Sqe) (a : Nat) (d : Line), s.chip.halted = false →
      SMap.get? s.chip.hqe.queues q.toNat = some x → x.w.length = 8 → qState x.w = qActive → x.disabling = false → x.fetching = false →
      x.sqes = [e] → s.chip.useOut (.sqe q.toNat idx.toNat) = false → s.chip.useOut (.cqe q.toNat idx.toNat) = false → e.wr = [] → e.cqe = false →
      s.chip.qStopped x = false → s.chip.regMisuse (qRmaster x.w) (qOwner x.w) false = false → s.chip.qHeld x = false → e.idx = idx.toNat → e.req = e.len → e.out = 0 → e.status < 256 →
      qCqBase x.w + 16 * (qCqTail x.w % 2 ^ qCqLog x.w) = a → s.chip.hubHolds (a / 64) (s.chip.qWho q.toNat x.w) ⟨d, false⟩ = true →
    ∃ t y k l, exec (.sqeComplete q idx) s = .next t ∧ t.pending = s.pending ∧ SMap.get? t.chip.hqe.queues q.toNat = some y
      ∧ y.sqes = [] ∧ qCqTail y.w = (qCqTail x.w + 1) % 2 ^ 24
      ∧ qState y.w = (if qSqFetch x.w = qSqTail x.w then qIdle else qActive)
      ∧ t.chip.hcFind (a / 64) = some (k, l)
      ∧ lineGet l.ld.data (a % 64) 16 = e.user % 2 ^ 64 + cqeWord (qSqFetch x.w) e.status (qCqTail x.w) (qCqLog x.w) <<< 64
      ∧ (∀ o, o + 1 ≤ a % 64 ∨ (a % 64 + 16 ≤ o ∧ o < 64) → lineGet l.ld.data o 1 = lineGet d o 1))
  ∧ (∀ (s : State) (n : Fin 8), s.chip.halted = false → s.chip.gated 51 = false → s.chip.slotAt n.val = 4096 →
    ∃ t, exec (.slotTableWrap n) s = .next t ∧ t.pending = s.pending ∧ t.chip.slotAt n.val = 0
      ∧ t.chip.get (Reg.HQE_SCHED.WRAPS n.val) = satAdd (Reg.HQE_SCHED.WRAPS n.val).width (s.chip.get (Reg.HQE_SCHED.WRAPS n.val)) 1
      ∧ (s.chip.on (Reg.HQE_SCHED.PENDING n.val) = true → t.chip.get (Reg.HQE_SCHED.PENDING n.val) = 0
          ∧ ∀ j < 2048, t.chip.get (Reg.HQE_SLOT.SLOT_LO n.val j) = s.chip.regs.getShadow (Reg.HQE_SLOT.SLOT_LO n.val j)
            ∧ t.chip.get (Reg.HQE_SLOT.SLOT_HI n.val j) = s.chip.regs.getShadow (Reg.HQE_SLOT.SLOT_HI n.val j))
      ∧ (s.chip.on (Reg.HQE_SCHED.PENDING n.val) = false →
          OnlyFields { s.chip with hqe := t.chip.hqe } t.chip [Reg.HQE_SCHED.WRAPS n.val])
      ∧ t.chip = { s.chip with hqe := t.chip.hqe, regs := t.chip.regs })
  ∧ (∀ (s : State) (w : Who) (n : Fin 8), s.chip.writeRuns w (Reg.HQE_SCHED.SWAP n.val).off = true →
    ∃ t, exec (.swap w n) s = .next t ∧ t.pending = s.pending ∧ t.chip.get (Reg.HQE_SCHED.PENDING n.val) = 1
      ∧ WroteOnly s.chip t.chip w (Reg.HQE_SCHED.SWAP n.val).off [Reg.HQE_SCHED.PENDING n.val])

/-- Regulation (R303 to R305, R309 to R314): ADD of a valid reservation within ADMIT reserves its rate in the named slot; one beyond ADMIT is refused
with OVERCOMMIT, counted and logged; wrong arguments and an occupied slot are refused; REMOVE gives the rate back; a write of an entry takes its
fields and restarts its counters, but WINDOW and the counters stand while reservations name it; DERATE changes ADMIT and SCALE of every
resource; a window boundary of an entry that no queue waits for zeroes the counters and gives each reservation its guarantee times SCALE; BASE counts the channels in READY or SELF_REFRESH. -/
def Obligations.RegulatorsReserve : Prop :=
  (∀ (s : State) (w : Who) (slot : Fin 1024) (e r n rate : Nat), s.chip.writeRuns w Reg.REG_RSV_CMD.OP.off = true →
      s.chip.get Reg.REG_RSV_ARG.ENT = e → s.chip.get Reg.REG_RSV_ARG.RES = r → s.chip.get Reg.REG_RSV_ARG.LINES = n →
      (n * 64 * 3072 + s.chip.get (Reg.REG_ENT.WINDOW e)) / (s.chip.get (Reg.REG_ENT.WINDOW e) + 1) = rate →
    (s.chip.on (Reg.REG_RSV.VALID slot.val) = true →
      ∃ t, exec (.rsvAdd w slot) s = .next t ∧ t.pending = s.pending ∧ t.chip.get Reg.REG_RSV_STATUS.RESULT = 4
        ∧ WroteOnly s.chip t.chip w Reg.REG_RSV_CMD.OP.off [Reg.REG_RSV_STATUS.RESULT])
    ∧ (s.chip.on (Reg.REG_RSV.VALID slot.val) = false → e = 0 ∨ s.chip.on (Reg.REG_ENT.EN e) = false ∨ 23 < r ∨ n = 0 →
      ∃ t, exec (.rsvAdd w slot) s = .next t ∧ t.pending = s.pending ∧ t.chip.get Reg.REG_RSV_STATUS.RESULT = 3
        ∧ WroteOnly s.chip t.chip w Reg.REG_RSV_CMD.OP.off [Reg.REG_RSV_STATUS.RESULT])
    ∧ (s.chip.on (Reg.REG_RSV.VALID slot.val) = false → e ≠ 0 → s.chip.on (Reg.REG_ENT.EN e) = true → r ≤ 23 → n ≠ 0 →
      (s.chip.get (Reg.REG_RES.ADMIT r) < s.chip.get (Reg.REG_RES.RESERVED r) + rate →
        ∃ t, exec (.rsvAdd w slot) s = .next t ∧ t.pending = s.pending ∧ t.chip.get Reg.REG_RSV_STATUS.RESULT = 2
          ∧ t.chip.get Reg.REG_DEG_CNT.OVERCOMMITS = satAdd Reg.REG_DEG_CNT.OVERCOMMITS.width (s.chip.get Reg.REG_DEG_CNT.OVERCOMMITS) 1
          ∧ (s.chip.on Reg.REG_ADM_LOG.VALID = false → t.chip.get Reg.REG_ADM_LOG.VALID = 1 ∧ t.chip.get Reg.REG_ADM_LOG.ENT = e
              ∧ t.chip.get Reg.REG_ADM_LOG.RES = r)
          ∧ (s.chip.on Reg.REG_IRQ.EN = true → ⟨s.chip.get Reg.REG_IRQ.AGENT, s.chip.get Reg.REG_IRQ.VEC, 0⟩ ∈ t.chip.irqs)
          ∧ WroteOnly s.chip t.chip w Reg.REG_RSV_CMD.OP.off ([Reg.REG_RSV_STATUS.RESULT, Reg.REG_DEG_CNT.OVERCOMMITS]
              ++ (if s.chip.on Reg.REG_ADM_LOG.VALID then []
                  else [Reg.REG_ADM_LOG.ENT, Reg.REG_ADM_LOG.RES, Reg.REG_ADM_LOG1.REQ, Reg.REG_ADM_LOG1.AVAIL, Reg.REG_ADM_LOG.VALID])))
      ∧ (s.chip.get (Reg.REG_RES.RESERVED r) + rate ≤ s.chip.get (Reg.REG_RES.ADMIT r) →
        ∃ t, exec (.rsvAdd w slot) s = .next t ∧ t.pending = s.pending ∧ t.chip.get Reg.REG_RSV_STATUS.RESULT = 1
          ∧ t.chip.get (Reg.REG_RSV.VALID slot.val) = 1 ∧ t.chip.get (Reg.REG_RSV.ENT slot.val) = e
          ∧ t.chip.get (Reg.REG_RSV.RES slot.val) = r ∧ t.chip.get (Reg.REG_RSV.LINES slot.val) = n
          ∧ t.chip.get (Reg.REG_RES.RESERVED r) = s.chip.get (Reg.REG_RES.RESERVED r) + rate
          ∧ t.chip.get (Reg.REG_ENT.RSVS e) = (s.chip.get (Reg.REG_ENT.RSVS e) + 1) % 2 ^ 11
          ∧ t.chip.get (Reg.REG_SCALE.SCALE r)
              = regScale (s.chip.get (Reg.REG_RES.CUR r)) (s.chip.get Reg.REG_CTRL.DERATE) (s.chip.get (Reg.REG_RES.RESERVED r) + rate)
          ∧ WroteOnly s.chip t.chip w Reg.REG_RSV_CMD.OP.off
              [Reg.REG_RSV_STATUS.RESULT, Reg.REG_RSV.VALID slot.val, Reg.REG_RSV.ENT slot.val, Reg.REG_RSV.RES slot.val, Reg.REG_RSV.LINES slot.val,
               Reg.REG_RES.RESERVED r, Reg.REG_ENT.RSVS e, Reg.REG_SCALE.SCALE r, Reg.REG_DEGRADED.NOW, Reg.REG_DEGRADED.SEEN,
               Reg.REG_DEG_CNT.ENTRIES])))
  ∧ (∀ (s : State) (w : Who) (slot : Fin 1024) (e r rate : Nat), s.chip.writeRuns w Reg.REG_RSV_CMD.OP.off = true →
      s.chip.get (Reg.REG_RSV.ENT slot.val) = e → s.chip.get (Reg.REG_RSV.RES slot.val) = r →
      (s.chip.get (Reg.REG_RSV.LINES slot.val) * 64 * 3072 + s.chip.get (Reg.REG_ENT.WINDOW e)) / (s.chip.get (Reg.REG_ENT.WINDOW e) + 1) = rate →
    (s.chip.on (Reg.REG_RSV.VALID slot.val) = true →
      ∃ t, exec (.rsvRemove w slot) s = .next t ∧ t.pending = s.pending ∧ t.chip.get Reg.REG_RSV_STATUS.RESULT = 1
        ∧ t.chip.get (Reg.REG_RSV.VALID slot.val) = 0 ∧ t.chip.get (Reg.REG_RES.RESERVED r) = s.chip.get (Reg.REG_RES.RESERVED r) - rate
        ∧ t.chip.get (Reg.REG_ENT.RSVS e) = s.chip.get (Reg.REG_ENT.RSVS e) - 1 ∧ SMap.get? t.chip.rg.rsv slot.val = none)
    ∧ (s.chip.on (Reg.REG_RSV.VALID slot.val) = false →
      ∃ t, exec (.rsvRemove w slot) s = .next t ∧ t.pending = s.pending ∧ t.chip.get Reg.REG_RSV_STATUS.RESULT = 5
        ∧ WroteOnly s.chip t.chip w Reg.REG_RSV_CMD.OP.off [Reg.REG_RSV_STATUS.RESULT]))
  ∧ (∀ (s : State) (w : Who) (m : Fin 4096) (v : Word), s.chip.writeRuns w (Reg.REG_ENT.EN m.val).off = true →
    ∃ t, exec (.regEntWrite w m 0 v) s = .next t ∧ t.pending = s.pending
      ∧ t.chip.get (Reg.REG_ENT.EN m.val) = (if m.val = 0 then 0 else bits v.toNat 0 1) ∧ t.chip.get (Reg.REG_ENT.PRIO m.val) = bits v.toNat 4 4
      ∧ t.chip.get (Reg.REG_ENT.TENANT m.val) = (if m.val = 0 then 0 else bits v.toNat 16 12)
      ∧ (s.chip.get (Reg.REG_ENT.RSVS m.val) = 0 →
          t.chip.get (Reg.REG_ENT.WINDOW m.val) = bits v.toNat 32 16 ∧ t.chip.get (Reg.REG_ENT.USED m.val) = 0
          ∧ ∀ d < 16, t.chip.dieUsed m.val d = 0)
      ∧ (s.chip.get (Reg.REG_ENT.RSVS m.val) ≠ 0 →
          t.chip.get (Reg.REG_ENT.WINDOW m.val) = s.chip.get (Reg.REG_ENT.WINDOW m.val) ∧ t.chip.rg = s.chip.rg
          ∧ t.chip.get (Reg.REG_ENT.USED m.val) = s.chip.get (Reg.REG_ENT.USED m.val))
      ∧ WroteOnly { s.chip.asked with rg := t.chip.rg } t.chip w (Reg.REG_ENT.EN m.val).off
          [Reg.REG_ENT.EN m.val, Reg.REG_ENT.PRIO m.val, Reg.REG_ENT.TENANT m.val, Reg.REG_ENT.WINDOW m.val, Reg.REG_ENT.USED m.val])
  ∧ (∀ (s : State) (w : Who) (m : Fin 4096) (v : Word), s.chip.writeRuns w (Reg.REG_ENT.LIMIT m.val).off = true →
    ∃ t, exec (.regEntWrite w m 1 v) s = .next t ∧ t.pending = s.pending
      ∧ t.chip.get (Reg.REG_ENT.LIMIT m.val) = bits v.toNat 0 16 ∧ t.chip.get (Reg.REG_ENT.LIMIT_EN m.val) = bits v.toNat 16 1
      ∧ t.chip.get (Reg.REG_ENT.LAT_TARGET m.val) = bits v.toNat 32 16
      ∧ WroteOnly s.chip.asked t.chip w (Reg.REG_ENT.LIMIT m.val).off
          [Reg.REG_ENT.LIMIT m.val, Reg.REG_ENT.LIMIT_EN m.val, Reg.REG_ENT.LAT_TARGET m.val])
  ∧ (∀ (s : State) (w : Who) (v : Word) (d : Nat), s.chip.writeRuns w Reg.REG_CTRL.EN.off = true →
      (bit v.toNat 0 = true ∨ ∀ p ∈ s.chip.hqe.queues, p.2.quantum = 0 ∧ ∀ e ∈ p.2.sqes, e.wr = []) →
      (if 50 ≤ bits v.toNat 8 7 ∧ bits v.toNat 8 7 ≤ 100 then bits v.toNat 8 7 else s.chip.get Reg.REG_CTRL.DERATE) = d →
    ∃ t, exec (.regCtrlWrite w v) s = .next t ∧ t.pending = s.pending
      ∧ t.chip.get Reg.REG_CTRL.EN = bits v.toNat 0 1 ∧ t.chip.get Reg.REG_CTRL.REMOTE_ENT = bits v.toNat 16 12
      ∧ t.chip.get Reg.REG_CTRL.DERATE = d
      ∧ ∀ r < 24, t.chip.get (Reg.REG_RES.ADMIT r) = s.chip.get (Reg.REG_RES.BASE r) * d / 100 % 2 ^ 20
          ∧ t.chip.get (Reg.REG_SCALE.SCALE r) = regScale (s.chip.get (Reg.REG_RES.CUR r)) d (s.chip.get (Reg.REG_RES.RESERVED r)))
  ∧ (∀ (s : State) (m : BitVec 12), s.chip.halted = false → s.chip.inIdle = true →
      (∀ p ∈ s.chip.hqe.queues, qRmaster p.2.w = m.toNat → p.2.quantum = 0 ∧ ∀ e ∈ p.2.sqes, e.wr = []) →
    ∃ t, exec (.windowBoundary m) s = .next t ∧ t.pending = s.pending ∧ t.chip.get (Reg.REG_ENT.USED m.toNat) = 0
      ∧ (∀ d < 16, t.chip.dieUsed m.toNat d = 0)
      ∧ (∀ k < 1024, s.chip.on (Reg.REG_RSV.VALID k) = true → s.chip.get (Reg.REG_RSV.ENT k) = m.toNat →
          SMap.get? t.chip.rg.rsv k
            = some (s.chip.get (Reg.REG_RSV.LINES k) * s.chip.get (Reg.REG_SCALE.SCALE (s.chip.get (Reg.REG_RSV.RES k))) / 65536, 0))
      ∧ OnlyFields { s.chip.asked with rg := t.chip.rg } t.chip [Reg.REG_ENT.USED m.toNat])
  ∧ (∀ (s : State) (r : Fin 24), s.chip.halted = false → s.chip.get Reg.REG_CTRL.DERATE ≤ 100 →
    ∃ t, exec (.capacityRecompute r) s = .next t ∧ t.pending = s.pending
      ∧ (r.val < 6 → t.chip.get (Reg.REG_RES.BASE r.val)
          = 65536 * ((List.range 4).filter (fun i => s.chip.mcState (4 * r.val + i) == mcReady || s.chip.mcState (4 * r.val + i) == mcSelfRefresh)).length)
      ∧ (∀ p, r.val = 6 + p → p < 6 → t.chip.get (Reg.REG_RES.BASE r.val)
          = if s.chip.tdmState p = tdmUp then (if s.chip.get (Reg.TDM_STATUS.WIDTH p) = 1 then 100352 else 200704) else 0)
      ∧ t.chip.get (Reg.REG_RES.ADMIT r.val) = t.chip.get (Reg.REG_RES.BASE r.val) * s.chip.get Reg.REG_CTRL.DERATE / 100
      ∧ (6 ≤ r.val → s.chip.throttle r.val = 16 → t.chip.get (Reg.REG_RES.CUR r.val) = t.chip.get (Reg.REG_RES.BASE r.val))
      ∧ t.chip.get (Reg.REG_SCALE.SCALE r.val)
          = regScale (t.chip.get (Reg.REG_RES.CUR r.val)) (s.chip.get Reg.REG_CTRL.DERATE) (s.chip.get (Reg.REG_RES.RESERVED r.val)))
  ∧ (∀ (s : State) (a : Fin 12) (i : Nat) (q : McReq), s.chip.halted = false → a.val < 6 → i < 4 → q.write = none →
      SMap.getD s.chip.rg.cand a.val [] = [] → SMap.getD s.chip.rg.wait a.val [] = [] →
      (∀ j < 4, (s.chip.mcOf (4 * a.val + j)).inq = if j = i then [q] else []) →
      s.chip.mcState (4 * a.val + i) = mcReady → s.chip.bitOf Reg.PWR_GATED.GATED (12 + (4 * a.val + i)) = false →
      (s.chip.mcOf (4 * a.val + i)).sr = none → (s.chip.mcOf (4 * a.val + i)).rq.length < 64 →
    ∃ t fwd, exec (.arbitrationRound a) s = .next t ∧ t.pending = s.pending ∧ (t.chip.mcOf (4 * a.val + i)).inq = []
      ∧ (t.chip.mcOf (4 * a.val + i)).rq
          = (s.chip.mcOf (4 * a.val + i)).rq ++ [{ q with enter := (s.chip.mcOf (4 * a.val + i)).ck, data := fwd }]
      ∧ ((∀ x ∈ (s.chip.mcOf (4 * a.val + i)).wq, x.line ≠ q.line) → fwd = none)
      ∧ t.chip.get (Reg.ARB_STATUS.CAND a.val) = 0 ∧ t.chip.get (Reg.ARB_STATUS.WAITING a.val) = 0
      ∧ t.chip.get (Reg.ARB_STARVE_CNT.ROUNDS a.val)
          = satAdd (Reg.ARB_STARVE_CNT.ROUNDS a.val).width (s.chip.get (Reg.ARB_STARVE_CNT.ROUNDS a.val)) 1
      ∧ (∀ ch, ch ≠ 4 * a.val + i → t.chip.mcOf ch = s.chip.mcOf ch))

/-- Security registers (R324, R329, R337 to R339, R341): a write of an unlocked region gives it its rights, world, tenant and limits, region 31 stays
enabled, and checker number 31 writes checkers 0 to 23; enabling the watchdog starts it from PERIOD; a kick with the key reloads it and another
key does nothing; an expiry begins the grace stage with its interrupt, and in the grace stage fires; PROG takes the first blank generation, reports FINAL
where none is left, DENIED outside Secure tenant 0 and BUSY while one runs; its end programs the word and reads it back. -/
def Obligations.SecurityGuards : Prop :=
  (∀ (s : State) (w : Who) (k r : Fin 32) (v : Word), s.chip.writeRuns w (Reg.SEC_RGN.EN k.val r.val).off = true →
    (k.val < 27 →
      ∃ t, exec (.secRgnWrite w k r false v) s = .next t ∧ t.pending = s.pending
        ∧ t.chip.get (Reg.SEC_RGN.EN k.val r.val) = (if r.val = 31 then 1 else bits v.toNat 0 1)
        ∧ t.chip.get (Reg.SEC_RGN.RIGHTS k.val r.val) = bits v.toNat 1 3 ∧ t.chip.get (Reg.SEC_RGN.ANY k.val r.val) = bits v.toNat 6 1
        ∧ (bits v.toNat 4 2 ≤ 2 → t.chip.get (Reg.SEC_RGN.WORLD k.val r.val) = bits v.toNat 4 2)
        ∧ t.chip.get (Reg.SEC_RGN.LOCK k.val r.val) = bits v.toNat 7 1 ∧ t.chip.get (Reg.SEC_RGN.BASE k.val r.val) = bits v.toNat 12 40
        ∧ t.chip.get (Reg.SEC_RGN.TENANT k.val r.val) = bits v.toNat 52 12
        ∧ WroteOnly s.chip t.chip w (Reg.SEC_RGN.EN k.val r.val).off
            [Reg.SEC_RGN.EN k.val r.val, Reg.SEC_RGN.RIGHTS k.val r.val, Reg.SEC_RGN.ANY k.val r.val, Reg.SEC_RGN.WORLD k.val r.val,
             Reg.SEC_RGN.LOCK k.val r.val, Reg.SEC_RGN.BASE k.val r.val, Reg.SEC_RGN.TENANT k.val r.val])
    ∧ (k.val = 31 →
      ∃ t, exec (.secRgnWrite w k r false v) s = .next t ∧ t.pending = s.pending
        ∧ ∀ q < 24, s.chip.on (Reg.SEC_RGN.LOCK q r.val) = false →
            t.chip.get (Reg.SEC_RGN.RIGHTS q r.val) = bits v.toNat 1 3 ∧ t.chip.get (Reg.SEC_RGN.BASE q r.val) = bits v.toNat 12 40
            ∧ t.chip.get (Reg.SEC_RGN.TENANT q r.val) = bits v.toNat 52 12 ∧ t.chip.get (Reg.SEC_RGN.LOCK q r.val) = bits v.toNat 7 1))
  ∧ (∀ (s : State) (w : Who) (k r : Fin 32) (v : Word), k.val < 27 → s.chip.writeRuns w (Reg.SEC_RGN.LIMIT k.val r.val).off = true →
    ∃ t, exec (.secRgnWrite w k r true v) s = .next t ∧ t.pending = s.pending
      ∧ t.chip.get (Reg.SEC_RGN.LIMIT k.val r.val) = bits v.toNat 12 40
      ∧ (r.val ≠ 31 → WroteOnly s.chip t.chip w (Reg.SEC_RGN.LIMIT k.val r.val).off [Reg.SEC_RGN.LIMIT k.val r.val]))
  ∧ (∀ (s : State) (w : Who) (grace : BitVec 16) (period : BitVec 32), s.chip.writeRuns w Reg.SEC_WDOG_CTRL.EN.off = true →
    ∃ t, exec (.wdogEnable w grace period) s = .next t ∧ t.pending = s.pending
      ∧ t.chip.get Reg.SEC_WDOG_CTRL.EN = 1 ∧ t.chip.get Reg.SEC_WDOG_CTRL.GRACE = grace.toNat
      ∧ t.chip.get Reg.SEC_WDOG_CTRL.PERIOD = period.toNat ∧ t.chip.get Reg.SEC_WDOG_STATUS.REMAIN = period.toNat
      ∧ t.chip.get Reg.SEC_WDOG_STATUS.STAGE = 0
      ∧ WroteOnly { s.chip with sec := { s.chip.sec with wdogMark := 0 } } t.chip w Reg.SEC_WDOG_CTRL.EN.off
          [Reg.SEC_WDOG_CTRL.EN, Reg.SEC_WDOG_CTRL.GRACE, Reg.SEC_WDOG_CTRL.PERIOD, Reg.SEC_WDOG_STATUS.REMAIN, Reg.SEC_WDOG_STATUS.STAGE])
  ∧ (∀ (s : State) (w : Who) (key : BitVec 16), s.chip.writeRuns w Reg.SEC_WDOG_KICK.KEY.off = true →
    ∃ t, exec (.wdogKick w key) s = .next t ∧ t.pending = s.pending
      ∧ (key = 0x5EC1 → s.chip.get Reg.SEC_WDOG_STATUS.STAGE = 0 ∨ s.chip.get Reg.SEC_WDOG_STATUS.REMAIN ≠ 0 →
          t.chip.get Reg.SEC_WDOG_STATUS.REMAIN = s.chip.get Reg.SEC_WDOG_CTRL.PERIOD ∧ t.chip.get Reg.SEC_WDOG_STATUS.STAGE = 0)
      ∧ WroteOnly s.chip t.chip w Reg.SEC_WDOG_KICK.KEY.off
          (if key = 0x5EC1 then [Reg.SEC_WDOG_STATUS.REMAIN, Reg.SEC_WDOG_STATUS.STAGE] else []))
  ∧ (∀ s : State, s.chip.halted = false → s.chip.on Reg.SEC_WDOG_CTRL.EN = true → s.chip.get Reg.SEC_WDOG_STATUS.REMAIN = 0 →
      s.chip.on Reg.TIME_STATUS.VALID = true →
    (s.chip.get Reg.SEC_WDOG_STATUS.STAGE = 0 →
      ∃ t, exec .wdogExpiry s = .next t ∧ t.pending = s.pending ∧ t.chip.get Reg.SEC_WDOG_STATUS.STAGE = 1
        ∧ t.chip.get Reg.SEC_WDOG_STATUS.REMAIN = s.chip.get Reg.SEC_WDOG_CTRL.GRACE
        ∧ t.chip.irqs = (if s.chip.on Reg.SEC_WDOG_IRQ.EN
            then s.chip.irqs ++ [⟨s.chip.get Reg.SEC_WDOG_IRQ.AGENT, s.chip.get Reg.SEC_WDOG_IRQ.VEC, 0⟩] else s.chip.irqs)
        ∧ OnlyFields { s.chip with irqs := t.chip.irqs } t.chip [Reg.SEC_WDOG_STATUS.STAGE, Reg.SEC_WDOG_STATUS.REMAIN])
    ∧ (s.chip.get Reg.SEC_WDOG_STATUS.STAGE = 1 →
      ∃ t, exec .wdogExpiry s = .next t ∧ t.pending = s.pending ∧ t.chip.get Reg.SEC_WDOG_STATUS.FIRED = 1 ∧ t.chip.sec.wdogFiring = true
        ∧ OnlyFields { s.chip with sec := { s.chip.sec with wdogFiring := true } } t.chip [Reg.SEC_WDOG_STATUS.FIRED]))
  ∧ (∀ (s : State) (w : Who) (f : Fin 128), s.chip.writeRuns w Reg.OTP_CMD.PROG.off = true →
    ∃ t, exec (.otpProg w f) s = .next t ∧ t.pending = s.pending ∧ t.chip.otp = s.chip.otp
      ∧ (s.chip.on Reg.OTP_STATUS.BUSY = true → t.chip.get Reg.OTP_STATUS.RESULT = 5 ∧ t.chip.sec = s.chip.sec)
      ∧ (s.chip.on Reg.OTP_STATUS.BUSY = false → w.secure = false ∨ w.tenant ≠ 0 →
          t.chip.get Reg.OTP_STATUS.RESULT = 4 ∧ t.chip.get Reg.OTP_STATUS.BUSY = 0 ∧ t.chip.sec = s.chip.sec)
      ∧ (s.chip.on Reg.OTP_STATUS.BUSY = false → w.secure = true → w.tenant = 0 →
          ((∀ g < 4, s.chip.otpWord (4 * f.val + g) ≠ 0) → t.chip.get Reg.OTP_STATUS.RESULT = 2 ∧ t.chip.sec = s.chip.sec)
          ∧ (∀ g < 4, s.chip.otpWord (4 * f.val + g) = 0 → (∀ h < g, s.chip.otpWord (4 * f.val + h) ≠ 0) →
              t.chip.get Reg.OTP_STATUS.BUSY = 1
              ∧ t.chip.sec.otpJob
                  = some (4 * f.val + g, s.chip.get Reg.OTP_DATA.VALUE + otpCrc (s.chip.get Reg.OTP_DATA.VALUE) <<< 56, g)))
      ∧ WroteOnly { s.chip with sec := t.chip.sec } t.chip w Reg.OTP_CMD.PROG.off [Reg.OTP_STATUS.BUSY, Reg.OTP_STATUS.RESULT])
  ∧ (∀ (s : State) (got : Word) (k v g : Nat), s.chip.halted = false → s.chip.sec.otpJob = some (k, v, g) → s.chip.otpWord k = 0 → v < 2 ^ 64 →
      g < 4 → SMap.sorted s.chip.otp = true →
    ∃ t, exec (.otpProgDone got) s = .next t ∧ t.pending = s.pending
      ∧ t.chip.otpWord k = (if got = 0 then v else got.toNat) ∧ (∀ j, j ≠ k → t.chip.otpWord j = s.chip.otpWord j)
      ∧ t.chip.get Reg.OTP_STATUS.BUSY = 0 ∧ t.chip.get Reg.OTP_STATUS.GEN = g
      ∧ t.chip.get Reg.OTP_STATUS.RESULT = (if got = 0 ∨ got.toNat = v then 1 else 3)
      ∧ OnlyFields { s.chip with otp := t.chip.otp, sec := { s.chip.sec with otpJob := none } } t.chip
          [Reg.OTP_STATUS.BUSY, Reg.OTP_STATUS.GEN, Reg.OTP_STATUS.RESULT])

/-- The audit log and Sprocket tables (R142, R147, R148, R345 to R347): the drain copies the oldest record to the MRAM sink, or, with its line and the sink's
header in the hub cache, to the DRAM sink and advances PROD; a waiting record takes a slot; DRAM_REFUSED is cleared by a write of 1; a read of the
digest's first word latches the others; a commit of a readable image whose valid entries pass the checks stages the table, and one that fails names
slot, micro-operation and reason; the last present core to change makes the table active. -/
def Obligations.AuditAndSprocketTables : Prop :=
  (∀ (s : State) (r : AudRec) (l : List AudRec), s.chip.halted = false → s.chip.aud.ring = r :: l → (r.seq + 1) % 65536 ≠ 0 →
    (s.chip.on Reg.AUD_CTRL.MRAM_EN = true → s.chip.on Reg.AUD_CTRL.DRAM_EN = false → r.inMram = false →
        (∀ q ∈ l, q.inMram = false ∧ q.seq ≠ r.seq) →
      ∃ t, exec .auditDrain s = .next t ∧ t.pending = s.pending ∧ t.chip.aud.ring = l
        ∧ t.chip.mram = s.chip.mram.write (s.chip.get Reg.AUD_MRAM.OFFSET * 65536 + 64 + 32 * (r.seq % 2 ^ s.chip.get Reg.AUD_MRAM.LOG2)) 32 r.data
        ∧ t.chip.get Reg.AUD_STATUS.USED = l.length % 2 ^ 13
        ∧ OnlyFields { s.chip.asked with aud := { s.chip.aud with ring := l }, mram := t.chip.mram } t.chip
            [Reg.AUD_STATUS.USED, Reg.AUD_STATUS.STALL, Reg.AUD_STATUS.HW_WAIT])
    ∧ (∀ (b n p : Nat) (h d : Line), s.chip.on Reg.AUD_CTRL.MRAM_EN = false → s.chip.on Reg.AUD_CTRL.DRAM_EN = true →
        s.chip.get Reg.AUD_STATUS.DRAM_REFUSED = 0 → r.inDram = false → (∀ q ∈ l, q.inDram = false ∧ q.seq ≠ r.seq) →
        s.chip.get Reg.AUD_DRAM.BASE * 65536 = b → 2 ^ s.chip.get Reg.AUD_DRAM.LOG2 = n → s.chip.aud.dramCount = p → p < 2 ^ 63 →
        s.chip.hubHolds (b / 64) s.chip.drainWho ⟨h, false⟩ = true →
        s.chip.hubHolds ((b + 64 + 32 * (p % n)) / 64) s.chip.drainWho ⟨d, false⟩ = true →
        lineGet h 0 8 ≤ p → p < lineGet h 0 8 + n →
      ∃ t k l1 k2 l2, exec .auditDrain s = .next t ∧ t.pending = s.pending ∧ t.chip.aud.ring = l ∧ t.chip.aud.dramCount = p + 1
        ∧ t.chip.hcFind ((b + 64 + 32 * (p % n)) / 64) = some (k, l1) ∧ lineGet l1.ld.data (32 * (p % n) % 64) 32 = r.data % 2 ^ 256
        ∧ t.chip.hcFind (b / 64) = some (k2, l2) ∧ lineGet l2.ld.data 8 8 = p + 1 ∧ lineGet l2.ld.data 0 8 = lineGet h 0 8
        ∧ t.chip.get Reg.AUD_STATUS.DRAM_FULL = 0))
  ∧ (∀ (s : State) (h : HwRec) (l : List HwRec), s.chip.halted = false → s.chip.aud.waiting = h :: l → s.chip.aud.ring.length < 4096 →
    ∃ t r, exec .auditSlotFree s = .next t ∧ t.pending = s.pending ∧ t.chip.aud.waiting = l ∧ t.chip.aud.ring = s.chip.aud.ring ++ [r]
      ∧ r.seq = s.chip.get Reg.AUD_SEQ.SEQ ∧ t.chip.get Reg.AUD_SEQ.SEQ = (s.chip.get Reg.AUD_SEQ.SEQ + 1) % 2 ^ 64
      ∧ OnlyFields { s.chip.asked with aud := t.chip.aud, irqs := t.chip.irqs } t.chip auditFields)
  ∧ (∀ (s : State) (w : Who), s.chip.writeRuns w Reg.AUD_STATUS.DRAM_REFUSED.off = true → s.chip.aud.waiting = [] →
    ∃ t, exec (.dramSinkRestart w) s = .next t ∧ t.pending = s.pending ∧ t.chip.get Reg.AUD_STATUS.DRAM_REFUSED = 0
      ∧ WroteOnly s.chip t.chip w Reg.AUD_STATUS.DRAM_REFUSED.off [Reg.AUD_STATUS.DRAM_REFUSED])
  ∧ (∀ (s : State) (w : Who), s.chip.readRuns w (Reg.AUD_DIGEST.DIGEST 0).off = true →
    ∃ t, exec (.audDigestRead w) s = .next t ∧ t.pending = s.pending
      ∧ t.chip.replies = s.chip.replies ++ [⟨w.agent, s.chip.csrAddr (Reg.AUD_DIGEST.DIGEST 0).off, s.chip.get (Reg.AUD_DIGEST.DIGEST 0), false, false⟩]
      ∧ (∀ j < 3, bits t.chip.aud.latch (64 * j) 64 = s.chip.get (Reg.AUD_DIGEST.DIGEST (j + 1)))
      ∧ t.chip = { s.chip with aud := { s.chip.aud with latch := t.chip.aud.latch }, nrg := t.chip.nrg, replies := t.chip.replies })
  ∧ (∀ (s : State) (w : Who), s.chip.writeRuns w Reg.HUB_SPRK_COMMIT.N.off = true →
    ∀ p ∈ [(Instr.sprkCommitN w, 0), (.sprkCommitS w, 1)], (p.2 = 1 → w.secure = true) →
      (s.chip.on Reg.HUB_SPRK_STATUS.BUSY = true →
        ∃ t, exec p.1 s = .next t ∧ t.pending = s.pending ∧ t.chip.get Reg.HUB_SPRK_STATUS.RESULT = 3
          ∧ WroteOnly s.chip.asked t.chip w Reg.HUB_SPRK_COMMIT.N.off [Reg.HUB_SPRK_STATUS.RESULT])
      ∧ (∀ (L : Nat → Line) (e : Nat), s.chip.on Reg.HUB_SPRK_STATUS.BUSY = false →
          (∀ i < 256, s.chip.hubHolds (s.chip.regs.getShadow (Reg.HUB_SPRK_SRC.ADDR p.2) * 2 ^ 14 / 64 + i) (s.chip.hubWho 7 0 0 (p.2 == 1)) ⟨L i, false⟩ = true) →
          (∀ i, 1 ≤ i → i < 64 → (L (4 * i)).toNat % 2 = 0) → (L 0).toNat % 2 = 1 →
          (L 0).toNat + 2 ^ 512 * (L 1).toNat + 2 ^ 1024 * (L 2).toNat + 2 ^ 1536 * (L 3).toNat = e →
        (entryReason e = none →
          ∃ t, exec p.1 s = .next t ∧ t.pending = s.pending ∧ t.chip.get Reg.HUB_SPRK_STATUS.BUSY = 1
            ∧ t.chip.get Reg.HUB_SPRK_STATUS.WORLD = p.2 ∧ t.chip.sprk.next = [(0, e)] ∧ t.chip.sprk.cores = []
            ∧ t.chip.sprk.tab = s.chip.sprk.tab
            ∧ t.chip.get (Reg.HUB_SPRK_SRC.ADDR p.2) = s.chip.regs.getShadow (Reg.HUB_SPRK_SRC.ADDR p.2))
        ∧ (∀ reason u, entryReason e = some (reason, u) →
          ∃ t, exec p.1 s = .next t ∧ t.pending = s.pending ∧ t.chip.get Reg.HUB_SPRK_STATUS.BUSY = 0
            ∧ t.chip.get Reg.HUB_SPRK_STATUS.RESULT = 2 ∧ t.chip.get Reg.HUB_SPRK_STATUS.BAD_SLOT = 0
            ∧ t.chip.get Reg.HUB_SPRK_STATUS.BAD_UOP = u % 32 ∧ t.chip.get Reg.HUB_SPRK_STATUS.REASON = reason % 16
            ∧ t.chip.sprk = s.chip.sprk)))
  ∧ (∀ (s : State) (k : Fin 240), s.chip.halted = false → s.chip.on Reg.HUB_SPRK_STATUS.BUSY = true → k.val ∉ s.chip.sprk.cores →
    ((∀ j < 240, s.chip.corePresent (j / 20) (j % 20) = true → j = k.val ∨ j ∈ s.chip.sprk.cores) → s.chip.sprk.thenS = false →
        s.chip.stage.held = [] →
      ∃ t, exec (.sprkCommitDone k) s = .next t ∧ t.pending = s.pending ∧ t.chip.get Reg.HUB_SPRK_STATUS.BUSY = 0
        ∧ t.chip.get Reg.HUB_SPRK_STATUS.RESULT = 1
        ∧ (∀ i < 64, SMap.getD t.chip.sprk.tab (64 * s.chip.get Reg.HUB_SPRK_STATUS.WORLD + i) 0 = SMap.getD s.chip.sprk.next i 0)
        ∧ (∀ i < 64, SMap.getD t.chip.sprk.tab (64 * (1 - s.chip.get Reg.HUB_SPRK_STATUS.WORLD) + i) 0
            = SMap.getD s.chip.sprk.tab (64 * (1 - s.chip.get Reg.HUB_SPRK_STATUS.WORLD) + i) 0)
        ∧ OnlyFields { s.chip.asked with sprk := t.chip.sprk } t.chip [Reg.HUB_SPRK_STATUS.BUSY, Reg.HUB_SPRK_STATUS.RESULT])
    ∧ ((∃ j < 240, s.chip.corePresent (j / 20) (j % 20) = true ∧ j ≠ k.val ∧ j ∉ s.chip.sprk.cores) →
      ∃ t, exec (.sprkCommitDone k) s = .next t ∧ t.pending = s.pending
        ∧ t.chip = { s.chip.asked with sprk := { s.chip.sprk with cores := k.val :: s.chip.sprk.cores } }))

/-- Boot (R354 to R361): step 1 ends at the root synthesizer's lock with AWAKE set; step 2 clears CFG_BOOT and turns to slot A; a slot that cannot be read,
or whose header fails a check, leaves its reason, slot A turns to slot B, and slot B ends with NO_IMAGE; a slot that passes goes to step 4; a copy
that does not match fails the slot; a copy that does gives SLOT, KEY and SVN, and a record that names no register of its section stops the boot with
its index, where nothing that step 5 started has to be undone; a WAIT record that runs out of time, and a call that fails or does not return, stop it too; after the last section presence is in force and
step 6 sets DONE with tenant 0 ACTIVE. -/
def Obligations.ImagesBoot : Prop :=
  (∀ (s : State) (bad : Bool), s.chip.halted = false →
    (s.chip.boot.step = 1 → s.chip.on Reg.HUB_CLK_STATUS.ROOT_LOCK = true →
      ∃ t, exec (.bootStepReady bad) s = .next t ∧ t.pending = s.pending ∧ t.chip.get Reg.SB_STATUS.AWAKE = 1 ∧ t.chip.boot.step = 2
        ∧ OnlyFields { s.chip.asked with boot := t.chip.boot } t.chip [Reg.SB_STATUS.AWAKE])
    ∧ (s.chip.boot.step = 2 →
      ∃ t, exec (.bootStepReady bad) s = .next t ∧ t.pending = s.pending ∧ t.chip.boot = ⟨3, 0, 0, 0, 0⟩ ∧ t.chip.get Reg.CFG_BOOT.SLOT = 3
        ∧ t.chip.get Reg.CFG_BOOT.DONE = 0 ∧ t.chip.get Reg.CFG_BOOT.RESULT = 0 ∧ t.chip.get Reg.CFG_BOOT.SVN = 0
        ∧ OnlyFields { s.chip.asked with boot := t.chip.boot } t.chip
            [Reg.CFG_BOOT.SLOT, Reg.CFG_BOOT.KEY, Reg.CFG_BOOT.DONE, Reg.CFG_BOOT.RESULT, Reg.CFG_BOOT.A_FAIL, Reg.CFG_BOOT.B_FAIL, Reg.CFG_BOOT.SVN]))
  ∧ (∀ (s : State) (bad : Bool) (reason : Nat), s.chip.halted = false → reason ≠ 0 → reason < 16 →
      (s.chip.boot.step = 3 ∧ bad = true ∧ reason = 8) ∨ (s.chip.boot.step = 4 ∧ bad = true ∧ reason = 8)
        ∨ (s.chip.boot.step = 3 ∧ bad = false ∧ s.chip.pwr.flashLow = false
            ∧ s.chip.headFail (s.chip.flash.read (0x800000 * s.chip.boot.slot) 0x240) true = reason) →
    (s.chip.boot.slot = 0 →
      ∃ t, exec (.bootStepReady bad) s = .next t ∧ t.pending = s.pending ∧ t.chip.get Reg.CFG_BOOT.A_FAIL = reason
        ∧ t.chip.boot = ⟨3, 1, 0, 0, 0⟩ ∧ t.chip.get Reg.CFG_BOOT.RESULT = s.chip.get Reg.CFG_BOOT.RESULT
        ∧ OnlyFields { s.chip.asked with boot := t.chip.boot, mram := t.chip.mram } t.chip [Reg.CFG_BOOT.A_FAIL, Reg.CFG_STAGE_STATUS.VALID])
    ∧ (s.chip.boot.slot = 1 → s.chip.unstarted = true →
      ∃ t, exec (.bootStepReady bad) s = .next t ∧ t.pending = s.pending ∧ t.chip.get Reg.CFG_BOOT.B_FAIL = reason
        ∧ t.chip.get Reg.CFG_BOOT.RESULT = 2 ∧ t.chip.boot = { s.chip.boot with step := 0, wait := 0 }
        ∧ OnlyFields { s.chip.asked with boot := t.chip.boot, mram := t.chip.mram } t.chip
            [Reg.CFG_BOOT.B_FAIL, Reg.CFG_BOOT.RESULT, Reg.CFG_STAGE_STATUS.VALID]))
  ∧ (∀ (s : State) (h img : Nat), s.chip.halted = false → s.chip.boot.step = 3 → s.chip.pwr.flashLow = false →
      s.chip.flash.read (0x800000 * s.chip.boot.slot) 0x240 = h → s.chip.headFail h true = 0 →
      s.chip.flash.read (0x800000 * s.chip.boot.slot) (imgSize h) = img → s.chip.bodyFail img (s.chip.otpField 16) = 0 →
    ∃ t, exec (.bootStepReady false) s = .next t ∧ t.pending = s.pending ∧ t.chip.boot = { s.chip.boot with step := 4 }
      ∧ t.chip.mram = s.chip.mram.write stageBase (imgSize h) img ∧ t.chip.get Reg.CFG_STAGE_STATUS.VALID = 0
      ∧ OnlyFields { s.chip.asked with boot := t.chip.boot, mram := t.chip.mram } t.chip [Reg.CFG_STAGE_STATUS.VALID])
  ∧ (∀ (s : State) (e : Sect), s.chip.halted = false → s.chip.boot.step = 4 → (imgSects s.chip.staged)[0]? = some e → e.typ = stStruct → 0 < e.rcds →
      sectNames e.typ (imgRcd s.chip.staged e 0).off = false ∨ 2 ≤ (imgRcd s.chip.staged e 0).op → s.chip.unstarted = true →
    ∃ t, exec (.bootStepReady false) s = .next t ∧ t.pending = s.pending ∧ t.chip.get Reg.CFG_BOOT.RESULT = 3
      ∧ t.chip.get Reg.CFG_BOOT_FAIL.RECORD = 0 ∧ t.chip.get Reg.CFG_BOOT_FAIL.SECTION = 0 ∧ t.chip.boot.step = 0
      ∧ t.chip.get Reg.CFG_BOOT.SLOT = s.chip.boot.slot % 4 ∧ t.chip.get Reg.CFG_BOOT.SVN = imgSvn s.chip.staged
      ∧ t.chip.get Reg.CFG_BOOT.KEY = (if imgKeysel s.chip.staged = 0xFF then 3 else imgKeysel s.chip.staged % 4)
      ∧ t.chip.get Reg.CFG_STAGE_STATUS.VALID = 1)
  ∧ (∀ s : State, s.chip.halted = false → s.chip.boot.step = 6 → s.chip.aud.ring.length < audHold → s.chip.aud.held = [] →
    ∃ t, exec (.bootStepReady false) s = .next t ∧ t.pending = s.pending ∧ t.chip.get Reg.CFG_BOOT.DONE = 1 ∧ t.chip.get Reg.CFG_BOOT.RESULT = 1
      ∧ t.chip.tntState 0 = tnActive ∧ t.chip.boot.step = 0
      ∧ ((s.chip.rgnCheck 26 (s.chip.csrAddr 0xCA000008) s.chip.seurv rightW).ok = true → t.chip.get Reg.CFG_CTRL.LOCK = 1))
  ∧ (∀ (s : State) (status : BitVec 32), s.chip.halted = false → s.chip.boot.step = 5 →
    (s.chip.boot.wait = 1 → s.chip.unstarted = true →
      ∃ t, exec .recordWaitTimeout s = .next t ∧ t.pending = s.pending ∧ t.chip.get Reg.CFG_BOOT.RESULT = 3
        ∧ t.chip.get Reg.CFG_BOOT_FAIL.RECORD = s.chip.boot.rcd % 2 ^ 16 ∧ t.chip.get Reg.CFG_BOOT_FAIL.SECTION = s.chip.boot.sect % 2 ^ 5
        ∧ t.chip.boot = { s.chip.boot with step := 0, wait := 0 }
        ∧ OnlyFields { s.chip with boot := t.chip.boot } t.chip [Reg.CFG_BOOT.RESULT, Reg.CFG_BOOT_FAIL.RECORD, Reg.CFG_BOOT_FAIL.SECTION])
    ∧ (s.chip.boot.wait = 2 → s.chip.unstarted = true → ∀ i ∈ (if status = 0 then [Instr.seurvCallTimeout] else [.seurvCallTimeout, .seurvCallReturn status]),
      ∃ t, exec i s = .next t ∧ t.pending = s.pending ∧ t.chip.get Reg.CFG_BOOT.RESULT = 3
        ∧ t.chip.get Reg.CFG_BOOT_FAIL.RECORD = 0 ∧ t.chip.get Reg.CFG_BOOT_FAIL.SECTION = s.chip.boot.sect % 2 ^ 5
        ∧ t.chip.boot = { s.chip.boot with step := 0, wait := 0 }
        ∧ OnlyFields { s.chip.askedAs t.chip with boot := t.chip.boot } t.chip [Reg.CFG_BOOT.RESULT, Reg.CFG_BOOT_FAIL.RECORD, Reg.CFG_BOOT_FAIL.SECTION])
    ∧ (s.chip.boot.wait = 2 → (imgSects s.chip.staged)[s.chip.boot.sect + 1]? = none →
      ∃ t, exec (.seurvCallReturn 0) s = .next t ∧ t.pending = s.pending ∧ t.chip.boot.step = 6
        ∧ ∀ d < 12, t.chip.diePresent d = s.chip.on (Reg.CFG_PRESENT.DIE d)))

/-- Run-time reload (R369 to R371): LOAD sets BUSY and clears VALID; a source that cannot be read ends it with AUTH_FAIL and reason 8, one whose header fails
with its reason, and one that passes every check is copied while BUSY; the copy's end sets VALID and the SVN; APPLY without a valid image reports NO_IMAGE, with a
selected section that breaks a rule CONFLICT with section, record and reason, and nothing written, and with nothing selected in the image DONE; either
command while BUSY is answered BUSY. -/
def Obligations.ReloadsRun : Prop :=
  (∀ (s : State) (w : Who) (sect : BitVec 4), s.chip.writeRuns w Reg.CFG_STAGE_CMD.OP.off = true → s.chip.on Reg.CFG_STAGE_STATUS.BUSY = true →
    ∀ i ∈ [Instr.stageLoad w, .stageApply w sect],
      ∃ t, exec i s = .next t ∧ t.pending = s.pending ∧ t.chip.get Reg.CFG_STAGE_STATUS.RESULT = 5 ∧ t.chip.stage = s.chip.stage
        ∧ WroteOnly (s.chip.askedAs t.chip) t.chip w Reg.CFG_STAGE_CMD.OP.off [Reg.CFG_STAGE_STATUS.RESULT])
  ∧ (∀ (s : State) (w : Who), s.chip.writeRuns w Reg.CFG_STAGE_CMD.OP.off = true → s.chip.on Reg.CFG_STAGE_STATUS.BUSY = false →
    ∃ t, exec (.stageLoad w) s = .next t ∧ t.pending = s.pending ∧ t.chip.get Reg.CFG_STAGE_STATUS.BUSY = 1
      ∧ t.chip.get Reg.CFG_STAGE_STATUS.VALID = 0 ∧ t.chip.get Reg.CFG_STAGE_STATUS.RESULT = 0
      ∧ t.chip.stage = { s.chip.stage with op := 1, mask := 0, sect := 0, rcd := 0, begun := false }
      ∧ WroteOnly { s.chip with stage := t.chip.stage } t.chip w Reg.CFG_STAGE_CMD.OP.off
          [Reg.CFG_STAGE_STATUS.BUSY, Reg.CFG_STAGE_STATUS.VALID, Reg.CFG_STAGE_STATUS.RESULT])
  ∧ (∀ s : State, s.chip.halted = false → s.chip.stage.op = 1 → s.chip.stage.begun = false →
    (s.chip.decodeMiss (s.chip.get Reg.CFG_STAGE_SRC.ADDR * 65536) = true →
      ∃ t, exec .stageDone s = .next t ∧ t.pending = s.pending ∧ t.chip.get Reg.CFG_STAGE_STATUS.RESULT = 2
        ∧ t.chip.get Reg.CFG_STAGE_STATUS.AUTH = 8 ∧ t.chip.get Reg.CFG_STAGE_STATUS.BUSY = 0 ∧ t.chip.mram = s.chip.mram)
    ∧ (∀ (L : Nat → Line) (img n : Nat), 9 ≤ n → n ≤ 65536 →
        (∀ i < n, s.chip.hubHolds (s.chip.get Reg.CFG_STAGE_SRC.ADDR * 1024 + i) s.chip.seurv ⟨L i, false⟩ = true) →
        (∀ i < n, bits img (512 * i) 512 = (L i).toNat) → img < 2 ^ (512 * n) →
      (s.chip.headFail (img % 2 ^ (8 * 0x240)) false ≠ 0 →
        ∃ t, exec .stageDone s = .next t ∧ t.pending = s.pending ∧ t.chip.get Reg.CFG_STAGE_STATUS.RESULT = 2
          ∧ t.chip.get Reg.CFG_STAGE_STATUS.AUTH = s.chip.headFail (img % 2 ^ (8 * 0x240)) false
          ∧ t.chip.get Reg.CFG_STAGE_STATUS.BUSY = 0 ∧ t.chip.mram = s.chip.mram)
      ∧ (s.chip.headFail (img % 2 ^ (8 * 0x240)) false = 0 → imgSize (img % 2 ^ (8 * 0x240)) = 64 * n →
          s.chip.bodyFail img (Nat.max (s.chip.otpField 16) (s.chip.get Reg.CFG_BOOT.SVN)) = 0 →
        ∃ t, exec .stageDone s = .next t ∧ t.pending = s.pending
          ∧ t.chip.mram = s.chip.mram.write stageBase (64 * n) img ∧ t.chip.stage = { s.chip.stage with begun := true })))
  ∧ (∀ (s : State) (w : Who) (sect : BitVec 4), s.chip.writeRuns w Reg.CFG_STAGE_CMD.OP.off = true → s.chip.on Reg.CFG_STAGE_STATUS.BUSY = false →
      sect ≠ 0 → s.chip.stage.held = [] →
    (s.chip.on Reg.CFG_STAGE_STATUS.VALID = false →
      ∃ t, exec (.stageApply w sect) s = .next t ∧ t.pending = s.pending ∧ t.chip.get Reg.CFG_STAGE_STATUS.RESULT = 4)
    ∧ (s.chip.on Reg.CFG_STAGE_STATUS.VALID = true →
        (∀ e ∈ imgSects s.chip.staged, sectReload e.typ = false ∨ bit sect.toNat (e.typ - stSprocket) = false) →
      ∃ t, exec (.stageApply w sect) s = .next t ∧ t.pending = s.pending ∧ t.chip.get Reg.CFG_STAGE_STATUS.RESULT = 1
        ∧ t.chip.get Reg.CFG_STAGE_STATUS.BUSY = 0)
    ∧ (∀ (i : Nat) (e : Sect) (r why : Nat), s.chip.on Reg.CFG_STAGE_STATUS.VALID = true → (imgSects s.chip.staged)[i]? = some e →
        sectReload e.typ = true → bit sect.toNat (e.typ - stSprocket) = true → e.typ ≠ stSprocket →
        (∀ j < i, ∀ f, (imgSects s.chip.staged)[j]? = some f → sectReload f.typ = false ∨ bit sect.toNat (f.typ - stSprocket) = false) →
        s.chip.rcdConflict s.chip.staged e = some (r, why) →
      ∃ t, exec (.stageApply w sect) s = .next t ∧ t.pending = s.pending ∧ t.chip.get Reg.CFG_STAGE_STATUS.RESULT = 3
        ∧ t.chip.get Reg.CFG_STAGE_STATUS.BUSY = 0 ∧ t.chip.get Reg.CFG_STAGE_STATUS.SECTION = i % 2 ^ 5
        ∧ t.chip.get Reg.CFG_STAGE_STATUS.RECORD = r % 2 ^ 16 ∧ t.chip.get Reg.CFG_STAGE_STATUS.REASON = why % 2 ^ 3
        ∧ WroteOnly { s.chip.asked with stage := t.chip.stage } t.chip w Reg.CFG_STAGE_CMD.OP.off
            [Reg.CFG_STAGE_STATUS.BUSY, Reg.CFG_STAGE_STATUS.RESULT, Reg.CFG_STAGE_STATUS.SECTION, Reg.CFG_STAGE_STATUS.RECORD,
             Reg.CFG_STAGE_STATUS.REASON]))
  ∧ (∀ s : State, s.chip.halted = false → s.chip.stage.begun = true →
    (s.chip.stage.op = 1 →
      ∃ t, exec .stageDone s = .next t ∧ t.pending = s.pending ∧ t.chip.get Reg.CFG_STAGE_STATUS.VALID = 1
        ∧ t.chip.get Reg.CFG_STAGE_STATUS.RESULT = 1 ∧ t.chip.get Reg.CFG_STAGE_STATUS.BUSY = 0
        ∧ t.chip.get Reg.CFG_STAGE_SVN.SVN = imgSvn s.chip.staged ∧ t.chip.stage.op = 0
        ∧ OnlyFields { s.chip.asked with stage := t.chip.stage } t.chip
            [Reg.CFG_STAGE_STATUS.VALID, Reg.CFG_STAGE_STATUS.RESULT, Reg.CFG_STAGE_STATUS.BUSY, Reg.CFG_STAGE_SVN.SVN])
    ∧ (s.chip.stage.op = 2 → s.chip.stage.held = [] → (imgSects s.chip.staged)[s.chip.stage.sect]? = none →
      ∃ t, exec .stageDone s = .next t ∧ t.pending = s.pending ∧ t.chip.get Reg.CFG_STAGE_STATUS.RESULT = 1
        ∧ t.chip.get Reg.CFG_STAGE_STATUS.BUSY = 0 ∧ t.chip.stage.op = 0))

/-- Pools and locks (R362 to R368, R372, R373): GO makes the staged set active exactly if its pools are in range, do not overlap, leave every live tenant in
its pool and stay within the quota's sum, and otherwise changes nothing active; DISCARD copies the active set to the staged one; a manager's commands
run like TNT_CMD inside its pool, a created tenant has the pool's quota, and any other writer is DENIED and counted; ACQ of a free lock by a context
records its owner, of a held one counts contention, and only the owner releases it or clears BROKEN. -/
def Obligations.PoolsAndLocks : Prop :=
  (∀ (s : State) (w : Who), s.chip.writeRuns w Reg.CFG_POOL_COMMIT.GO.off = true →
    (∃ t, exec (.poolCommitGo w) s = .next t ∧ t.pending = s.pending
      ∧ (t.chip.get Reg.CFG_POOL_STATUS.RESULT = 1 ↔
          (∀ p < 32, (s.chip.poolStaged p).en = true → 1 ≤ (s.chip.poolStaged p).first ∧ 1 ≤ (s.chip.poolStaged p).count
              ∧ (s.chip.poolStaged p).first + (s.chip.poolStaged p).count ≤ 4096)
          ∧ (∀ p < 32, ∀ q < 32, p ≠ q → (s.chip.poolStaged p).en = true → (s.chip.poolStaged q).en = true →
              (s.chip.poolStaged p).first + (s.chip.poolStaged p).count ≤ (s.chip.poolStaged q).first
              ∨ (s.chip.poolStaged q).first + (s.chip.poolStaged q).count ≤ (s.chip.poolStaged p).first)
          ∧ (∀ u < 4096, s.chip.tntState u ≠ tnFree → poolOf s.chip.poolsActive u = poolOf s.chip.poolsStaged u)
          ∧ ((s.chip.poolsStaged.filter (·.en)).map (fun q => q.count * q.quota)).sum ≤ 1048576)
      ∧ (t.chip.get Reg.CFG_POOL_STATUS.RESULT = 1 → t.chip.poolsActive = s.chip.poolsStaged)
      ∧ (t.chip.get Reg.CFG_POOL_STATUS.RESULT ≠ 1 → t.chip.get Reg.CFG_POOL_STATUS.RESULT = 2
          ∧ WroteOnly s.chip t.chip w Reg.CFG_POOL_COMMIT.GO.off
              [Reg.CFG_POOL_STATUS.RESULT, Reg.CFG_POOL_STATUS.BAD_POOL, Reg.CFG_POOL_STATUS.REASON, Reg.CFG_POOL_STATUS.BAD_TENANT])
      ∧ t.chip.poolsStaged = s.chip.poolsStaged)
    ∧ (∃ t, exec (.poolCommitDiscard w) s = .next t ∧ t.pending = s.pending ∧ t.chip.poolsStaged = s.chip.poolsActive
      ∧ t.chip.poolsActive = s.chip.poolsActive ∧ Untouched s.chip t.chip auditFields))
  ∧ (∀ (s : State) (w : Who) (p : Fin 32) (u : BitVec 12), s.chip.writeRuns w (Reg.CFG_POOL_CMD.OP p.val).off = true →
    (s.chip.poolAdmits w p.val u.toNat false = false →
      ∀ i ∈ [Instr.poolCreate w p false u, .poolDestroy w p u, .poolFreeze w p u, .poolThaw w p u, .poolReset w p u],
        ∃ t, exec i s = .next t ∧ t.pending = s.pending ∧ t.chip.get (Reg.CFG_POOL_CMD_STATUS.RESULT p.val) = trDenied
          ∧ t.chip.get (Reg.CFG_POOL_CMD_STATUS.DENIED p.val)
              = satAdd (Reg.CFG_POOL_CMD_STATUS.DENIED p.val).width (s.chip.get (Reg.CFG_POOL_CMD_STATUS.DENIED p.val)) 1
          ∧ WroteOnly (s.chip.askedAs t.chip) t.chip w (Reg.CFG_POOL_CMD.OP p.val).off
              [Reg.CFG_POOL_CMD_STATUS.RESULT p.val, Reg.CFG_POOL_CMD_STATUS.DENIED p.val])
    ∧ (s.chip.poolAdmits w p.val u.toNat false = true → s.chip.on (Reg.CFG_POOL_CMD_STATUS.BUSY p.val) = false → u ≠ 0 →
      (s.chip.tntState u.toNat = tnFree →
        ∃ t, exec (.poolCreate w p false u) s = .next t ∧ t.pending = s.pending ∧ t.chip.tntState u.toNat = tnActive
          ∧ t.chip.get (Reg.CFG_POOL_CMD_STATUS.RESULT p.val) = trDone ∧ t.chip.get (Reg.CFG_POOL_CMD_STATUS.TENANT p.val) = u.toNat
          ∧ t.chip.get (Reg.TNT_ENT.QUOTA u.toNat) = s.chip.get (Reg.CFG_POOL.QUOTA p.val)
          ∧ (∀ v < 4096, v ≠ u.toNat → t.chip.tntState v = s.chip.tntState v))
      ∧ (s.chip.hqe.jobs = [] → (∀ q, q ≠ s.chip.pkg → s.chip.present q = false) → s.chip.tntBehind u.toNat = false →
        (s.chip.queuesOf u.toNat = [] → s.chip.fnsOf u.toNat = [] → ∀ x ∈ [(Instr.poolFreeze w p u, tnActive, tnFrozen), (.poolThaw w p u, tnFrozen, tnActive)],
          ∃ t, exec x.1 s = .next t ∧ t.pending = s.pending ∧ t.chip.get (Reg.CFG_POOL_CMD_STATUS.BUSY p.val) = 0
            ∧ (s.chip.tntState u.toNat = x.2.1 → t.chip.tntState u.toNat = x.2.2
                ∧ t.chip.get (Reg.CFG_POOL_CMD_STATUS.RESULT p.val) = trDone)
            ∧ (s.chip.tntState u.toNat ≠ x.2.1 → t.chip.tntState u.toNat = s.chip.tntState u.toNat
                ∧ t.chip.get (Reg.CFG_POOL_CMD_STATUS.RESULT p.val) = trBadState))
        ∧ (∀ x ∈ [(Instr.poolReset w p u, false), (.poolDestroy w p u, true)],
          ∃ t, exec x.1 s = .next t ∧ t.pending = s.pending
            ∧ (s.chip.tntState u.toNat = tnActive → t.chip.tntState u.toNat = tnResetting
                ∧ t.chip.get (Reg.CFG_POOL_CMD_STATUS.BUSY p.val) = 1
                ∧ t.chip.hqe.resets = s.chip.hqe.resets ++ [⟨u.toNat, 1, x.2, none⟩])
            ∧ (s.chip.tntState u.toNat = tnFree → t.chip.tntState u.toNat = tnFree
                ∧ t.chip.get (Reg.CFG_POOL_CMD_STATUS.RESULT p.val) = trBadState)))))
  ∧ (∀ (s : State) (w : Who) (n : Fin 64), s.chip.writeRuns w (Reg.CFG_LOCK.HELD n.val).off = true →
    (∃ t, exec (.cfgLockAcq w n) s = .next t ∧ t.pending = s.pending
      ∧ (isCtxAgent w.agent = true → s.chip.on (Reg.CFG_LOCK.HELD n.val) = false → w.agent < 2 ^ 16 → w.tenant < 2 ^ 12 →
          t.chip.get (Reg.CFG_LOCK.HELD n.val) = 1 ∧ t.chip.lockOwner w n.val = true
          ∧ WroteOnly s.chip t.chip w (Reg.CFG_LOCK.HELD n.val).off
              [Reg.CFG_LOCK.HELD n.val, Reg.CFG_LOCK.OWNER n.val, Reg.CFG_LOCK.TENANT n.val, Reg.CFG_LOCK.WORLD n.val])
      ∧ (isCtxAgent w.agent = true → s.chip.on (Reg.CFG_LOCK.HELD n.val) = true →
          t.chip.get Reg.CFG_LOCK_CNT.CONTENDED = satAdd Reg.CFG_LOCK_CNT.CONTENDED.width (s.chip.get Reg.CFG_LOCK_CNT.CONTENDED) 1
          ∧ WroteOnly s.chip t.chip w (Reg.CFG_LOCK.HELD n.val).off [Reg.CFG_LOCK_CNT.CONTENDED])
      ∧ (isCtxAgent w.agent = false → WroteOnly s.chip t.chip w (Reg.CFG_LOCK.HELD n.val).off []))
    ∧ (∀ p ∈ [(Instr.cfgLockRel w n, Reg.CFG_LOCK.HELD n.val), (.cfgLockBrokenClear w n, Reg.CFG_LOCK.BROKEN n.val)],
      ∃ t, exec p.1 s = .next t ∧ t.pending = s.pending
        ∧ (s.chip.lockOwner w n.val = true → t.chip.get p.2 = 0)
        ∧ WroteOnly s.chip t.chip w (Reg.CFG_LOCK.HELD n.val).off (if s.chip.lockOwner w n.val then [p.2] else [])))

/-- PCIe ports (R374 to R377, R386, R387, R392 to R394): PCI_CFG takes a legal value while EN is 0 and refuses one that breaks R375; a link comes up with the
rate and width it trained; a link that leaves the active state ends what is outstanding on it with all ones, and trains again; an MMIO access to memory
space leaves as a TLP at OFFSET plus its offset, a read with a free tag, and on a link that is down reads all ones; a completion ends the request with its
tag, after the writes before it, and one that is poisoned is recorded (PRESUMED bits, log 97); a timeout ends it with poison, is counted and logged and recorded at its reporter, and quarantines the tag until its time has passed; a
window bank is committed with the next epoch. -/
def Obligations.PortsCarryAccesses : Prop :=
  (∀ (s : State) (w : Who) (port : Fin 8) (v : Word), s.chip.writeRuns w (Reg.PCI_CFG.EN port.val).off = true →
      s.chip.on (Reg.PCI_CFG.EN port.val) = false → s.chip.fwQuiet = false → s.chip.gated (36 + port.val) = false →
    (bits v.toNat 2 2 ≤ 2 → bits v.toNat 5 3 ≤ 5 → 20 ≤ bits v.toNat 17 6 → bits v.toNat 17 6 ≤ 46 →
        (bit v.toNat 1 = true → bits v.toNat 2 2 = 0) → (bit v.toNat 4 = true → bit v.toNat 1 = false ∧ port.val < 4) →
      ∃ t, exec (.pciCfgWrite w port v) s = .next t ∧ t.pending = s.pending
        ∧ t.chip.get (Reg.PCI_CFG.EN port.val) = bits v.toNat 0 1 ∧ t.chip.get (Reg.PCI_CFG.PERS port.val) = bits v.toNat 1 1
        ∧ t.chip.get (Reg.PCI_CFG.BIFUR port.val) = bits v.toNat 2 2 ∧ t.chip.get (Reg.PCI_CFG.CXL port.val) = bits v.toNat 4 1
        ∧ t.chip.get (Reg.PCI_CFG.MAX_RATE port.val) = bits v.toNat 5 3 ∧ t.chip.get (Reg.PCI_CFG.FBUS port.val) = bits v.toNat 8 8
        ∧ t.chip.get (Reg.PCI_CFG.ERR_FREEZE port.val) = bits v.toNat 16 1 ∧ t.chip.get (Reg.PCI_CFG.BAR2_LOG2 port.val) = bits v.toNat 17 6
        ∧ (bit v.toNat 0 = true → ∀ l < 4, t.chip.linkBits port.val l = if l < 2 ^ bits v.toNat 2 2 then 1 else 0)
        ∧ WroteOnly s.chip t.chip w (Reg.PCI_CFG.EN port.val).off
            [Reg.PCI_CFG.EN port.val, Reg.PCI_CFG.PERS port.val, Reg.PCI_CFG.BIFUR port.val, Reg.PCI_CFG.CXL port.val, Reg.PCI_CFG.MAX_RATE port.val,
             Reg.PCI_CFG.FBUS port.val, Reg.PCI_CFG.ERR_FREEZE port.val, Reg.PCI_CFG.BAR2_LOG2 port.val, Reg.PCI_LINK_STATUS.LINKS port.val])
    ∧ (bits v.toNat 2 2 ≤ 2 → (bit v.toNat 1 = true ∧ bits v.toNat 2 2 ≠ 0) ∨ (bit v.toNat 4 = true ∧ (bit v.toNat 1 = true ∨ 4 ≤ port.val)) →
      ∃ t, exec (.pciCfgWrite w port v) s = .next t ∧ t.pending = s.pending ∧ WroteOnly s.chip t.chip w (Reg.PCI_CFG.EN port.val).off []))
  ∧ (∀ (s : State) (port : Fin 8) (l : Fin 4) (rate width : Fin 8) (cxl flit : Bool), s.chip.halted = false → s.chip.on (Reg.PCI_CFG.EN port.val) = true →
      s.chip.on (Reg.PCI_CFG.PERS port.val) = false ∨ bit s.chip.pwr.perstLow port.val = false →
      (cxl = true → s.chip.on (Reg.PCI_CFG.CXL port.val) = true) → l.val < s.chip.nLinks port.val → bits (s.chip.linkBits port.val l.val) 0 3 = 1 →
      rate.val ≤ s.chip.get (Reg.PCI_CFG.MAX_RATE port.val) → width.val ≤ s.chip.linkLanes port.val →
    ∃ t, exec (.pcieLinkUp port l cxl rate width flit) s = .next t ∧ t.pending = s.pending ∧ t.chip.linkUp port.val l.val = true
      ∧ bits (t.chip.linkBits port.val l.val) 0 3 = 2 + b2n cxl ∧ bits (t.chip.linkBits port.val l.val) 3 3 = rate.val
      ∧ bits (t.chip.linkBits port.val l.val) 6 3 = width.val ∧ (∀ k < 4, k ≠ l.val → t.chip.linkBits port.val k = s.chip.linkBits port.val k)
      ∧ OnlyFields s.chip t.chip [Reg.PCI_LINK_STATUS.LINKS port.val])
  ∧ (∀ (s : State) (port : Fin 8) (l : Fin 4) (r : OutReq) (a addr n : Nat), s.chip.halted = false → s.chip.linkUp port.val l.val = true →
      s.chip.cxlLink port.val l.val = false → s.chip.fns.waiting = [] → s.chip.fns.fcmd = [] → s.chip.fns.out = [r] → r.dest = .agent a addr →
      r.tlp.kind = 0 → r.tlp.size = n → r.tlp.port = port.val → r.tlp.link = l.val →
    ∃ t, exec (.pcieLinkDown port l) s = .next t ∧ t.pending = s.pending ∧ bits (t.chip.linkBits port.val l.val) 0 3 = 1
      ∧ t.chip.fns = { s.chip.fns with out := [], aer := SMap.set s.chip.fns.aer (s.chip.aerKey port.val l.val 0)
                                                   (SMap.getD s.chip.fns.aer (s.chip.aerKey port.val l.val 0) 0 ||| 2 ^ aerSurpriseDown) }
      ∧ t.chip.replies = s.chip.replies ++ [⟨a, addr, ones n, false, false⟩]
      ∧ t.chip.get (Reg.PCI_ERR_CNT1.DOWN port.val)
          = satAdd (Reg.PCI_ERR_CNT1.DOWN port.val).width (s.chip.get (Reg.PCI_ERR_CNT1.DOWN port.val)) 1
      ∧ OnlyFields { s.chip.asked with fns := t.chip.fns, replies := t.chip.replies, irqs := t.chip.irqs } t.chip
          [Reg.PCI_LINK_STATUS.LINKS port.val, Reg.PCI_ERR_CNT1.DOWN port.val])
  ∧ (∀ (s : State) (w : Who) (addr : BitVec 49) (size : Fin 4) (data : Word) (off n : Nat) (port : Fin 8), s.chip.halted = false →
      regionOf addr.toNat = .mmio s.chip.pkg off → s.chip.decodeMiss addr.toNat = false → off / 2 ^ 42 = port.val →
      s.chip.get (Reg.PCI_CFG.BIFUR port.val) = 0 → off % 2 ^ 42 < 2 ^ 42 - 2 ^ 28 → 2 ^ size.val = n →
    (s.chip.linkUp port.val 0 = true →
      (s.chip.linkWaits port.val 0 = false → ∃ t, exec (.mmioAccess w addr true size data) s = .next t ∧ t.pending = s.pending
        ∧ t.chip.fns = { s.chip.fns with sent := s.chip.fns.sent
            ++ [⟨port.val, 0, 1, (s.chip.get (Reg.PCI_OB.OFFSET port.val) + off % 2 ^ 42) % 2 ^ 64, n, data.toNat % 2 ^ (8 * n), 0, none, false⟩] }
        ∧ t.chip.replies = s.chip.replies ++ [⟨w.agent, addr.toNat, 0, false, false⟩]
        ∧ CountedOnly { s.chip.asked with fns := t.chip.fns, replies := t.chip.replies } t.chip [])
      ∧ (s.chip.linkWaits port.val 0 = false → s.chip.fns.out = [] → s.chip.fns.quar = [] →
        ∃ t r, exec (.mmioAccess w addr false size data) s = .next t ∧ t.pending = s.pending
          ∧ t.chip.fns = { s.chip.fns with out := [r], sent := s.chip.fns.sent ++ [r.tlp] } ∧ r.dest = .agent w.agent addr.toNat
          ∧ r.tlp.kind = 0 ∧ r.tlp.port = port.val ∧ r.tlp.link = 0 ∧ r.tlp.size = n
          ∧ r.tlp.addr = (s.chip.get (Reg.PCI_OB.OFFSET port.val) + off % 2 ^ 42) % 2 ^ 64 ∧ r.tlp.tag < 16384
          ∧ CountedOnly { s.chip.asked with fns := t.chip.fns, free := t.chip.free } t.chip []))
    ∧ (s.chip.linkUp port.val 0 = false → s.chip.cxlLink port.val 0 = false → ∀ write,
      ∃ t, exec (.mmioAccess w addr write size data) s = .next t ∧ t.pending = s.pending
        ∧ t.chip.replies = s.chip.replies ++ [⟨w.agent, addr.toNat, if write then 0 else ones n, false, false⟩]
        ∧ t.chip.get (Reg.PCI_ERR_CNT1.DOWN port.val)
            = satAdd (Reg.PCI_ERR_CNT1.DOWN port.val).width (s.chip.get (Reg.PCI_ERR_CNT1.DOWN port.val)) 1
        ∧ OnlyFields { s.chip.asked with replies := t.chip.replies } t.chip [Reg.PCI_ERR_CNT1.DOWN port.val]))
  ∧ (∀ (s : State) (port : Fin 8) (l : Fin 4) (tag : BitVec 14) (data : Nat) (r : OutReq) (a addr n : Nat), s.chip.halted = false →
      s.chip.fns.out = [r] → s.chip.fns.waiting = [] → r.dest = .agent a addr → r.tlp.kind = 0 → r.tlp.size = n →
      r.tlp.port = port.val → r.tlp.link = l.val → r.tlp.tag = tag.toNat →
    (s.chip.inIdle = true → s.chip.inWrOut port.val none = false → s.chip.fns.quar.contains (tagKey port.val l.val tag.toNat) = false → ∀ st : Fin 5,
      ∃ t, exec (.pcieCompletion port l tag st data) s = .next t ∧ t.pending = s.pending
        ∧ t.chip.fns = { s.chip.fns with out := []
                                         aer := if st = 4 then SMap.set s.chip.fns.aer (s.chip.aerKey port.val l.val 0)
                                             (SMap.getD s.chip.fns.aer (s.chip.aerKey port.val l.val 0) 0 ||| 2 ^ aerPoisoned)
                                           else s.chip.fns.aer }
        ∧ t.chip.replies = s.chip.replies
            ++ [⟨a, addr, if st = 0 then data % 2 ^ (8 * n) else if st = 4 then 0 else ones n, decide (st = 4), false⟩]
        ∧ (st ≠ 4 → t.chip.irqs = s.chip.irqs)
        ∧ CountedOnly { s.chip.asked with fns := t.chip.fns, replies := t.chip.replies, irqs := t.chip.irqs } t.chip [])
    ∧ (s.chip.fns.fcmd = [] → ∃ t, exec (.completionTimeout port l tag) s = .next t ∧ t.pending = s.pending
      ∧ t.chip.fns = { s.chip.fns with out := [], quar := s.chip.fns.quar ++ [tagKey port.val l.val tag.toNat]
                                       aer := SMap.set s.chip.fns.aer (s.chip.aerKey port.val l.val 0)
                                         (SMap.getD s.chip.fns.aer (s.chip.aerKey port.val l.val 0) 0 ||| 2 ^ aerTimeout) }
      ∧ t.chip.replies = s.chip.replies ++ [⟨a, addr, 0, true, false⟩]
      ∧ t.chip.get (Reg.PCI_ERR_CNT0.TIMEOUTS port.val)
          = satAdd (Reg.PCI_ERR_CNT0.TIMEOUTS port.val).width (s.chip.get (Reg.PCI_ERR_CNT0.TIMEOUTS port.val)) 1
      ∧ (s.chip.on (Reg.PCI_CTO_LOG.VALID port.val) = false → t.chip.get (Reg.PCI_CTO_LOG.VALID port.val) = 1
          ∧ t.chip.get (Reg.PCI_CTO_LOG.TAG port.val) = tag.toNat ∧ t.chip.get (Reg.PCI_CTO_LOG.LINK port.val) = l.val)
      ∧ OnlyFields { s.chip.asked with fns := t.chip.fns, replies := t.chip.replies, irqs := t.chip.irqs } t.chip
          ([Reg.PCI_ERR_CNT0.TIMEOUTS port.val] ++ (if s.chip.on (Reg.PCI_CTO_LOG.VALID port.val) then []
            else [Reg.PCI_CTO_LOG.VALID port.val, Reg.PCI_CTO_LOG.TAG port.val, Reg.PCI_CTO_LOG.LINK port.val]))))
  ∧ (∀ (s : State) (port : Fin 8) (l : Fin 4) (tag : BitVec 14), s.chip.halted = false → s.chip.fns.waiting = [] →
    ∃ t, exec (.tagQuarantineEnd port l tag) s = .next t ∧ t.pending = s.pending
      ∧ t.chip = { s.chip with fns := { s.chip.fns with quar := s.chip.fns.quar.filter (· != tagKey port.val l.val tag.toNat) } })
  ∧ (∀ (s : State) (w : Who) (port : Fin 8) (v : Word), s.chip.writeRuns w (Reg.PCI_WIN_SEL.SEL port.val).off = true →
    ∃ t, exec (.windowBankCommit w port v) s = .next t ∧ t.pending = s.pending ∧ t.chip.get (Reg.PCI_WIN_SEL.SEL port.val) = bits v.toNat 0 1
      ∧ t.chip.get (Reg.PCI_WIN_SEL.EPOCH port.val)
          = (if bits v.toNat 0 1 = s.chip.get (Reg.PCI_WIN_SEL.SEL port.val) then s.chip.get (Reg.PCI_WIN_SEL.EPOCH port.val)
             else (s.chip.get (Reg.PCI_WIN_SEL.EPOCH port.val) + 1) % 16)
      ∧ WroteOnly s.chip t.chip w (Reg.PCI_WIN_SEL.SEL port.val).off
          (if bits v.toNat 0 1 = s.chip.get (Reg.PCI_WIN_SEL.SEL port.val) then []
           else [Reg.PCI_WIN_SEL.SEL port.val, Reg.PCI_WIN_SEL.EPOCH port.val, Reg.PCI_WIN_SEL.OLD_BUSY port.val]))

/-- Functions (R379, R380, R382 to R385, R389, R390, R436), with the function's table entry in the hub cache: ENABLE of a sound OFF entry of an ACTIVE tenant makes
it RUN, DISABLE turns it OFF, RESET makes it RESETTING until its end, PROBE reports, each wrong state is BAD_STATE; an inbound write of a
running function through a window lands in memory and a read is completed with memory's bytes, a request of no function is refused; a translation is
answered from the function's tables; a page request joins its ring; ATS_INV and PRG_RESP send their messages, and the invalidation's end is
reported; a message to the port raises the vector, which is sent, or pending while masked; PERST_N falling resets a port's MSI-X state. -/
def Obligations.FunctionsRun : Prop :=
  (∀ (s : State) (w : Who) (port : Fin 8) (f : BitVec 13) (d : Line) (W : List Nat), s.chip.writeRuns w (Reg.PCI_FCMD.OP port.val).off = true →
      s.chip.on (Reg.PCI_FCMD_STATUS.BUSY port.val) = false → f.toNat ≤ 4096 → wordsOf 8 d.toNat = W →
      s.chip.hubHolds (s.chip.fnAddr port.val f.toNat / 64) (s.chip.portWho port.val) ⟨d, false⟩ = true →
    (∃ t, exec (.fcmdProbe w port f) s = .next t ∧ t.pending = s.pending ∧ t.chip.get (Reg.PCI_FCMD_STATUS.RESULT port.val) = frDone
      ∧ t.chip.get (Reg.PCI_FCMD_STATUS.FSTATE port.val) = feState W ∧ t.chip.get (Reg.PCI_FCMD_STATUS.BUSY port.val) = 0 ∧ t.chip.fns = s.chip.fns
      ∧ t.chip.frozen = s.chip.frozen)
    ∧ (feState W ≠ fnOff →
      ∃ t, exec (.fcmdEnable w port f) s = .next t ∧ t.pending = s.pending ∧ t.chip.get (Reg.PCI_FCMD_STATUS.RESULT port.val) = frBadState
        ∧ t.chip.get (Reg.PCI_FCMD_STATUS.FSTATE port.val) = feState W ∧ t.chip.fns = s.chip.fns)
    ∧ (feState W = fnOff → fnEntryBad W = true →
      ∃ t, exec (.fcmdEnable w port f) s = .next t ∧ t.pending = s.pending ∧ t.chip.get (Reg.PCI_FCMD_STATUS.RESULT port.val) = frBadEntry
        ∧ t.chip.fns = s.chip.fns)
    ∧ (feState W = fnOff → fnEntryBad W = false → s.chip.tntState (feTenant W) = tnActive →
      ∃ t k y, exec (.fcmdEnable w port f) s = .next t ∧ t.pending = s.pending ∧ t.chip.get (Reg.PCI_FCMD_STATUS.RESULT port.val) = frDone
        ∧ t.chip.get (Reg.PCI_FCMD_STATUS.FSTATE port.val) = fnRun ∧ SMap.get? t.chip.fns.live (8192 * port.val + f.toNat) = some (feTenant W + 4096 * b2n (feWorld W))
        ∧ t.chip.hcFind (s.chip.fnAddr port.val f.toNat / 64) = some (k, y) ∧ y.ld.data.toNat % 4 = fnRun ∧ y.ld.data.toNat / 4 = d.toNat / 4)
    ∧ (feState W = fnOff ∨ feState W = fnResetting → ∀ i ∈ [Instr.fcmdDisable w port f, .fcmdReset w port f],
      ∃ t, exec i s = .next t ∧ t.pending = s.pending ∧ t.chip.get (Reg.PCI_FCMD_STATUS.RESULT port.val) = frBadState ∧ t.chip.fns = s.chip.fns)
    ∧ (feState W = fnRun ∨ feState W = fnFrozen → SMap.get? s.chip.fns.flr (8192 * port.val + f.toNat) = none →
      (s.chip.fnBusy port.val f.toNat = false →
        ∃ t k y, exec (.fcmdDisable w port f) s = .next t ∧ t.pending = s.pending ∧ t.chip.get (Reg.PCI_FCMD_STATUS.RESULT port.val) = frDone
        ∧ t.chip.get (Reg.PCI_FCMD_STATUS.FSTATE port.val) = fnOff ∧ SMap.get? t.chip.fns.live (8192 * port.val + f.toNat) = none
        ∧ SMap.get? t.chip.frozen (keyF port.val f.toNat) = none
        ∧ t.chip.hcFind (s.chip.fnAddr port.val f.toNat / 64) = some (k, y) ∧ y.ld.data.toNat % 4 = fnOff)
      ∧ (∃ t k y, exec (.fcmdReset w port f) s = .next t ∧ t.pending = s.pending ∧ t.chip.get (Reg.PCI_FCMD_STATUS.BUSY port.val) = 1
        ∧ SMap.get? t.chip.fns.flr (8192 * port.val + f.toNat) = some false
        ∧ t.chip.hcFind (s.chip.fnAddr port.val f.toNat / 64) = some (k, y) ∧ y.ld.data.toNat % 4 = fnResetting)))
  ∧ (∀ (s : State) (port : Fin 8) (f : BitVec 13) (off : Bool) (d : Line), s.chip.halted = false →
      SMap.get? s.chip.fns.flr (8192 * port.val + f.toNat) = some off →
      s.chip.hubHolds (s.chip.fnAddr port.val f.toNat / 64) (s.chip.portWho port.val) ⟨d, false⟩ = true →
    ∃ t k y, exec (.functionResetDone port f) s = .next t ∧ t.pending = s.pending
      ∧ SMap.get? t.chip.fns.flr (8192 * port.val + f.toNat) = none
      ∧ t.chip.hcFind (s.chip.fnAddr port.val f.toNat / 64) = some (k, y) ∧ y.ld.data.toNat % 4 = (if off then fnOff else fnRun)
      ∧ y.ld.data.toNat / 2 ^ 256 = 0
      ∧ (SMap.get? s.chip.fns.fcmd port.val = some f.toNat → t.chip.get (Reg.PCI_FCMD_STATUS.BUSY port.val) = 0
          ∧ t.chip.get (Reg.PCI_FCMD_STATUS.RESULT port.val) = frDone))
  ∧ (∀ (s : State) (port : Fin 8) (l : Fin 4) (t' : TlpIn) (n pa : Nat) (d D : Line) (W : List Nat), s.chip.halted = false → s.chip.inIdle = true →
      s.chip.linkUp port.val l.val = true → 1 ≤ t'.len → t'.len ≤ 64 - pa % 64 →
      (s.chip.on (Reg.PCI_CFG.PERS port.val) = false → s.chip.fnIndex port.val t'.rid = some n ∧ s.chip.acsSource port.val l.val t'.rid = true
        ∧ (t'.write = true → s.chip.inMsiWin port.val t'.addr = false)) →
      (s.chip.on (Reg.PCI_CFG.PERS port.val) = true → t'.fn = n ∧ n ≤ 4096 ∧ t'.bar = 2) →
      s.chip.hubHolds (s.chip.fnAddr port.val n / 64) (s.chip.portWho port.val) ⟨d, false⟩ = true → wordsOf 8 d.toNat = W → feState W = fnRun →
      t'.err = 0 → t'.poison = false → t'.translated = false → s.chip.tntState (feTenant W) ≠ tnResetting →
      s.chip.winDecode port.val n t'.addr t'.write = some pa → s.chip.on Reg.REG_CTRL.EN = false → isNormal pa = true →
      s.chip.hubHolds (pa / 64) (s.chip.fnWho port.val (s.chip.fnRid port.val n) W) ⟨D, false⟩ = true →
    (t'.write = true →
      ∃ t k y, exec (.inboundRequest port l t') s = .next t ∧ t.pending = s.pending ∧ t.chip.fns.inq = []
        ∧ t.chip.hcFind (pa / 64) = some (k, y) ∧ lineGet y.ld.data (pa % 64) t'.len = t'.data % 2 ^ (8 * t'.len)
        ∧ (∀ o, o < pa % 64 ∨ (pa % 64 + t'.len ≤ o ∧ o < 64) → lineGet y.ld.data o 1 = lineGet D o 1))
    ∧ (t'.write = false → s.chip.inWrOut port.val none = false →
      ∃ t, exec (.inboundRequest port l t') s = .next t ∧ t.pending = s.pending
        ∧ t.chip.fns = { s.chip.fns with sent := s.chip.fns.sent
            ++ [⟨port.val, l.val, 6, 0, t'.len, lineGet D (pa % 64) t'.len, t'.tag, some t'.rid, false⟩] }))
  ∧ (∀ (s : State) (port : Fin 8) (l : Fin 4) (t' : TlpIn), s.chip.halted = false → s.chip.linkUp port.val l.val = true →
      1 ≤ t'.len → t'.len ≤ 4096 →
      (s.chip.on (Reg.PCI_CFG.PERS port.val) = false ∧ s.chip.fnIndex port.val t'.rid = none)
        ∨ (s.chip.on (Reg.PCI_CFG.PERS port.val) = true ∧ 4096 < t'.fn) →
    ∃ t, exec (.inboundRequest port l t') s = .next t ∧ t.pending = s.pending
      ∧ t.chip.get (Reg.PCI_ERR_CNT1.UR port.val) = satAdd (Reg.PCI_ERR_CNT1.UR port.val).width (s.chip.get (Reg.PCI_ERR_CNT1.UR port.val)) 1
      ∧ t.chip.fns = { s.chip.fns with sent := s.chip.fns.sent
          ++ (if t'.write then [] else [⟨port.val, l.val, 6, 1, 0, 0, t'.tag, some t'.rid, false⟩]) }
      ∧ CountedOnly { s.chip.asked with fns := t.chip.fns } t.chip [Reg.PCI_ERR_CNT1.UR port.val])
  ∧ (∀ (s : State) (port : Fin 8) (l : Fin 4) (rid : BitVec 16) (tag : BitVec 14) (va : Word) (n : Nat) (d L1 L2 : Line) (W : List Nat)
      (a1 a2 e1 e2 : Nat), s.chip.halted = false → s.chip.on (Reg.PCI_CFG.PERS port.val) = false →
      s.chip.get (Reg.PCI_CFG.FBUS port.val) * 256 + n = rid.toNat → n < 4096 →
      s.chip.hubHolds (s.chip.fnAddr port.val n / 64) (s.chip.portWho port.val) ⟨d, false⟩ = true → wordsOf 8 d.toNat = W → feState W = fnRun →
      bit (qw W 1) 0 = true → bits va.toNat 47 17 = 0 →
      bits (qw W 1) 12 40 * 4096 + 8 * bits va.toNat 39 9 = a1 → s.chip.hubHolds (a1 / 64) (s.chip.fnWho port.val rid.toNat W) ⟨L1, false⟩ = true →
      lineGet L1 (a1 % 64) 8 = e1 →
    (bit e1 0 = false →
      ∃ t, exec (.atsTranslationRequest port l rid tag va) s = .next t ∧ t.pending = s.pending
        ∧ t.chip.fns = { s.chip.fns with sent := s.chip.fns.sent ++ [⟨port.val, l.val, 7, 0, 8, 0, tag.toNat, some rid.toNat, false⟩] })
    ∧ (bit e1 0 = true → pteBad e1 1 = false → bits e1 12 40 * 4096 + 8 * bits va.toNat 30 9 = a2 →
        s.chip.hubHolds (a2 / 64) (s.chip.fnWho port.val rid.toNat W) ⟨L2, false⟩ = true → lineGet L2 (a2 % 64) 8 = e2 →
        bit e2 0 = true → bit e2 5 = true → pteBad e2 2 = false → bit e2 4 = true → bit e2 1 = true →
      ∃ t, exec (.atsTranslationRequest port l rid tag va) s = .next t ∧ t.pending = s.pending
        ∧ t.chip.fns = { s.chip.fns with sent := s.chip.fns.sent
            ++ [⟨port.val, l.val, 7, 0, 8, bits e2 12 40 * 4096 / 2 ^ 30 * 2 ^ 30 + va.toNat % 2 ^ 30 / 4096 * 4096 + bits e2 1 2, tag.toNat,
                some rid.toNat, false⟩] }))
  ∧ (∀ (s : State) (port : Fin 8) (l : Fin 4) (rid : BitVec 16) (page : BitVec 52) (prgi : BitVec 9) (rwl : BitVec 3) (n base prod : Nat)
      (d P E : Line) (W : List Nat), s.chip.halted = false → s.chip.on (Reg.PCI_CFG.PERS port.val) = false →
      s.chip.get (Reg.PCI_CFG.FBUS port.val) * 256 + n = rid.toNat → n < 4096 →
      s.chip.hubHolds (s.chip.fnAddr port.val n / 64) (s.chip.portWho port.val) ⟨d, false⟩ = true → wordsOf 8 d.toNat = W → feState W = fnRun →
      bits (qw W 2) 6 46 * 64 = base → 64 ≤ base → lineGet P 56 8 = prod → prod < 2 ^ bits (qw W 2) 0 4 →
      s.chip.hubHolds (base / 64 - 1) (s.chip.fnWho port.val rid.toNat W) ⟨P, false⟩ = true →
      s.chip.hubHolds ((base + 16 * prod) / 64) (s.chip.fnWho port.val rid.toNat W) ⟨E, false⟩ = true →
    ∃ t k y k2 y2, exec (.priPageRequest port l rid page prgi rwl) s = .next t ∧ t.pending = s.pending
      ∧ t.chip.hcFind ((base + 16 * prod) / 64) = some (k, y)
      ∧ lineGet y.ld.data (16 * prod % 64) 16 = page.toNat * 2 ^ 12 + (prgi.toNat + rwl.toNat * 2 ^ 10) * 2 ^ 64
      ∧ t.chip.hcFind (base / 64 - 1) = some (k2, y2) ∧ lineGet y2.ld.data 56 8 = prod + 1
      ∧ (bit (qw W 3) 22 = true → ⟨bits (qw W 3) 0 16, bits (qw W 3) 16 6, 0⟩ ∈ t.chip.irqs))
  ∧ (∀ (s : State) (w : Who) (port : Fin 8) (f : BitVec 13) (all : Bool) (page : BitVec 37) (code : Fin 4) (prgi : BitVec 9),
      s.chip.writeRuns w (Reg.PCI_XCMD.OP port.val).off = true → s.chip.on (Reg.PCI_XCMD_STATUS.BUSY port.val) = false →
    (∃ t k, exec (.atsInv w port f all page) s = .next t ∧ t.pending = s.pending ∧ t.chip.get (Reg.PCI_XCMD_STATUS.BUSY port.val) = 1
      ∧ t.chip.fns.sent = s.chip.fns.sent
          ++ [⟨port.val, k, 8, if all then ones 8 else page.toNat * 4096, 0, b2n all, 0, some (s.chip.fnRid port.val f.toNat), false⟩]
      ∧ SMap.get? t.chip.fns.xcmd port.val = some f.toNat)
    ∧ (∃ t k, exec (.prgResp w port f code prgi) s = .next t ∧ t.pending = s.pending ∧ t.chip.get (Reg.PCI_XCMD_STATUS.RESULT port.val) = 1
      ∧ t.chip.fns = { s.chip.fns with sent := s.chip.fns.sent
          ++ [⟨port.val, k, 9, code.val, 0, prgi.toNat, 0, some (s.chip.fnRid port.val f.toNat), false⟩] }))
  ∧ (∀ (s : State) (port : Fin 8) (ok : Bool), s.chip.halted = false → s.chip.on (Reg.PCI_XCMD_STATUS.BUSY port.val) = true →
    ∃ t, exec (.xcmdDone port ok) s = .next t ∧ t.pending = s.pending ∧ t.chip.get (Reg.PCI_XCMD_STATUS.BUSY port.val) = 0
      ∧ t.chip.get (Reg.PCI_XCMD_STATUS.RESULT port.val) = (if ok then 1 else 2) ∧ SMap.get? t.chip.fns.xcmd port.val = none
      ∧ OnlyFields { s.chip with fns := { s.chip.fns with xcmd := t.chip.fns.xcmd } } t.chip
          [Reg.PCI_XCMD_STATUS.BUSY port.val, Reg.PCI_XCMD_STATUS.RESULT port.val])
  ∧ (∀ (s : State) (port : Fin 8) (i : Irq) (rest : List Irq) (k : Nat) (e : MsixEnt), s.chip.halted = false → s.chip.irqs = i :: rest →
      i.agent = hubAgent s.chip.pkg 4 port.val → msixKey port.val i.func i.vec = k → SMap.getD s.chip.fns.msix k MsixEnt.init = e → k ∉ s.chip.fns.pba →
    (s.chip.on (Reg.PCI_CFG.PERS port.val) = false →
      ∃ t, exec (.msixRaise port) s = .next t ∧ t.pending = s.pending ∧ t.chip = { s.chip with irqs := rest })
    ∧ (s.chip.on (Reg.PCI_CFG.PERS port.val) = true → e.mask = true →
      ∃ t, exec (.msixRaise port) s = .next t ∧ t.pending = s.pending
        ∧ t.chip = { s.chip with irqs := rest, fns := { s.chip.fns with pba := s.chip.fns.pba ++ [k] } })
    ∧ (s.chip.on (Reg.PCI_CFG.PERS port.val) = true → e.mask = false → 8192 * port.val + i.func ∉ s.chip.fns.fmask →
        s.chip.linkWaits port.val 0 = false →
      ∃ t, exec (.msixRaise port) s = .next t ∧ t.pending = s.pending
        ∧ t.chip.fns = { s.chip.fns with sent := s.chip.fns.sent ++ [⟨port.val, 0, 1, e.addr, 4, e.data, 0, some i.func, false⟩] }
        ∧ CountedOnly { s.chip with fns := t.chip.fns, irqs := rest } t.chip []))
  ∧ (∀ (s : State) (port : Fin 8) (f : BitVec 13) (v : Fin 64), s.chip.halted = false →
    (∃ t, exec (.msixUnmask port f (some v)) s = .next t ∧ t.pending = s.pending
      ∧ (SMap.getD t.chip.fns.msix (msixKey port.val f.toNat v.val) MsixEnt.init).mask = false
      ∧ (∀ k, k ≠ msixKey port.val f.toNat v.val → SMap.getD t.chip.fns.msix k MsixEnt.init = SMap.getD s.chip.fns.msix k MsixEnt.init)
      ∧ (8192 * port.val + f.toNat ∉ s.chip.fns.fmask → msixKey port.val f.toNat v.val ∉ t.chip.fns.pba))
    ∧ (∃ t, exec (.msixUnmask port f none) s = .next t ∧ t.pending = s.pending ∧ 8192 * port.val + f.toNat ∉ t.chip.fns.fmask
      ∧ t.chip.fns.msix = s.chip.fns.msix
      ∧ (∀ u < 64, (SMap.getD s.chip.fns.msix (msixKey port.val f.toNat u) MsixEnt.init).mask = false → msixKey port.val f.toNat u ∉ t.chip.fns.pba)))
  ∧ (∀ (s : State) (port : Fin 8), s.chip.halted = false → s.chip.linkUp port.val 0 = false → bit s.chip.pwr.perstLow port.val = false →
    (∃ t, exec (.perstN port true) s = .next t ∧ t.pending = s.pending ∧ bit t.chip.pwr.perstLow port.val = true
      ∧ (s.chip.on (Reg.PCI_CFG.PERS port.val) = true → ∀ n ≤ 4096, ∀ u < 64,
          SMap.getD t.chip.fns.msix (msixKey port.val n u) MsixEnt.init = MsixEnt.init ∧ msixKey port.val n u ∉ t.chip.fns.pba
          ∧ 8192 * port.val + n ∉ t.chip.fns.fmask)
      ∧ t.chip = { s.chip.asked with pwr := t.chip.pwr, fns := t.chip.fns })
    ∧ (∃ t, exec (.perstN port false) s = .next t ∧ t.pending = s.pending ∧ t.chip = { s.chip.asked with pwr := t.chip.pwr }
      ∧ bit t.chip.pwr.perstLow port.val = false))

/-- The sideband target (R397 to R400, R415, R451): a read command to its address returns the register's value as DONE, a misaligned one is REFUSED and
counted; a write of a register takes effect and is DONE, and while the audit ring holds software writes it is BUSY; a command with a wrong PEC is counted and
ignored; the result read returns status and data, or ASLEEP in Freewheel; SET drives the alert, or raises an in-band interrupt in I3C mode; the
Alert Response Address releases it; an assigned address is taken in I3C mode; the wake address sets WAKE_SEEN and asks for a wake. -/
def Obligations.SidebandServes : Prop :=
  (∀ (s : State) (addr : BitVec 7) (off : BitVec 32) (data : Word) (ok : Bool), s.chip.halted = false → s.chip.inIdle = true →
      s.chip.sbMine addr.toNat = true → s.chip.on Reg.SB_STATUS.AWAKE = true → s.chip.sbBusy = false →
    (s.chip.on Reg.SB_CTRL.PEC = true → ok = false → ∀ i ∈ [Instr.sbReadCommand addr off ok, .sbWriteCommand addr off data ok],
      ∃ t, exec i s = .next t ∧ t.pending = s.pending ∧ t.chip.get Reg.SB_CNT.ERRORS = satAdd Reg.SB_CNT.ERRORS.width (s.chip.get Reg.SB_CNT.ERRORS) 1
        ∧ OnlyFields (s.chip.askedAs t.chip) t.chip [Reg.SB_CNT.ERRORS])
    ∧ (s.chip.on Reg.SB_CTRL.PEC = false ∨ ok = true →
      (off.toNat % 8 = 0 → (s.chip.rgnCheck 26 (s.chip.csrAddr off.toNat) s.chip.sbWho rightR).ok = true →
        ∃ t, exec (.sbReadCommand addr off ok) s = .next t ∧ t.pending = s.pending ∧ t.chip.sb.status = 0
          ∧ t.chip.sb.data = (if off.toNat = Reg.TIME_NOW.VALUE.off then s.chip.timeNow.1 else s.chip.csrValue s.chip.sbWho off.toNat)
          ∧ t.chip.sb.due = true
          ∧ (off.toNat / 8 ≠ Reg.SB_CNT.ACCESSES.off / 8 →
              t.chip.get Reg.SB_CNT.ACCESSES = satAdd Reg.SB_CNT.ACCESSES.width (s.chip.get Reg.SB_CNT.ACCESSES) 1)
          ∧ SameMemory s.chip t.chip ∧ t.chip.ctx = s.chip.ctx ∧ t.chip.coh = s.chip.coh)
      ∧ (off.toNat % 8 ≠ 0 → (s.chip.rgnCheck 26 (s.chip.csrAddr off.toNat) s.chip.sbWho rightR).ok = true →
        ∃ t, exec (.sbReadCommand addr off ok) s = .next t ∧ t.pending = s.pending ∧ t.chip.sb.status = 2 ∧ t.chip.sb.data = 0
          ∧ t.chip.get Reg.SB_CNT.ERRORS = satAdd Reg.SB_CNT.ERRORS.width (s.chip.get Reg.SB_CNT.ERRORS) 1
          ∧ OnlyFields { s.chip with sb := t.chip.sb, nrg := t.chip.nrg } t.chip [Reg.SB_CNT.ERRORS, Reg.SB_CNT.ACCESSES])
      ∧ (off.toNat = Reg.OTP_DATA.VALUE.off → s.chip.writeRuns s.chip.sbWho off.toNat = true →
        ∃ t, exec (.sbWriteCommand addr off data ok) s = .next t ∧ t.pending = s.pending ∧ t.chip.sb.status = 0 ∧ t.chip.sb.data = 0
          ∧ t.chip.get Reg.OTP_DATA.VALUE = bits data.toNat 0 56
          ∧ t.chip.get Reg.SB_CNT.ACCESSES = satAdd Reg.SB_CNT.ACCESSES.width (s.chip.get Reg.SB_CNT.ACCESSES) 1
          ∧ Untouched s.chip t.chip (Reg.OTP_DATA.VALUE :: Reg.SB_CNT.ACCESSES :: auditFields))
      ∧ (audHold ≤ s.chip.aud.ring.length → off.toNat ≠ 0xC9C00020 → s.chip.csrHeld off.toNat = false →
          s.chip.stage.begun = true ∨ s.chip.stage.op ≠ 2 →
        ∃ t, exec (.sbWriteCommand addr off data ok) s = .next t ∧ t.pending = s.pending ∧ t.chip.sb.status = 1 ∧ t.chip.sb.data = 0
          ∧ t.chip.aud.held = s.chip.aud.held ++ [⟨s.chip.sbWho, off.toNat, data.toNat, 8, some .sideband⟩]
          ∧ OnlyFields { s.chip.asked with sb := t.chip.sb, aud := t.chip.aud } t.chip [Reg.AUD_STALL_CNT.STALLS, Reg.SB_CNT.ACCESSES])))
  ∧ (∀ (s : State) (addr : BitVec 7), s.chip.sbMine addr.toNat = true → s.chip.pwr.aonOk = true →
    (s.chip.halted = false → s.chip.on Reg.SB_STATUS.AWAKE = true → s.chip.sbBusy = false →
      ∃ t, exec (.sbResultRead addr) s = .next t ∧ t.pending = s.pending ∧ t.chip.sb.got = s.chip.sb.status + s.chip.sb.data * 256
        ∧ t.chip = { s.chip with sb := { s.chip.sb with got := t.chip.sb.got, due := false } })
    ∧ (s.chip.pwr.asleep = true → s.chip.sb.due = true →
      ∃ t, exec (.sbResultRead addr) s = .next t ∧ t.pending = s.pending
        ∧ t.chip = { s.chip with sb := { s.chip.sb with got := 3, due := false } }))
  ∧ (∀ (s : State) (w : Who), s.chip.writeRuns w Reg.SB_ALERT.SET.off = true →
    ∃ t, exec (.sbAlertSet w) s = .next t ∧ t.pending = s.pending
      ∧ (s.chip.on Reg.SB_CTRL.I3C = false → t.chip.get Reg.SB_ALERT.PENDING = 1
          ∧ WroteOnly s.chip t.chip w Reg.SB_ALERT.SET.off [Reg.SB_ALERT.PENDING])
      ∧ (s.chip.on Reg.SB_CTRL.I3C = true →
          WroteOnly { s.chip with sb := { s.chip.sb with ibi := s.chip.sb.ibi + 1 } } t.chip w Reg.SB_ALERT.SET.off []))
  ∧ (∀ s : State, s.chip.pwr.aonOk = true → s.chip.on Reg.SB_CTRL.I3C = false → s.chip.on Reg.SB_ALERT.PENDING = true →
    ∃ t, exec .alertResponse s = .next t ∧ t.pending = s.pending ∧ t.chip.get Reg.SB_ALERT.PENDING = 0
      ∧ t.chip.sb.got = 2 * s.chip.get Reg.SB_CTRL.ADDR
      ∧ OnlyFields { s.chip with sb := { s.chip.sb with got := t.chip.sb.got } } t.chip [Reg.SB_ALERT.PENDING])
  ∧ (∀ (s : State) (dyn : BitVec 7), s.chip.pwr.aonOk = true → s.chip.on Reg.SB_CTRL.I3C = true →
    ∃ t, exec (.i3cAddressAssign dyn) s = .next t ∧ t.pending = s.pending ∧ t.chip.get Reg.SB_STATUS.DYN_ADDR = dyn.toNat
      ∧ t.chip.get Reg.SB_STATUS.DYN_VALID = 1 ∧ t.chip.sbMine dyn.toNat = true
      ∧ OnlyFields s.chip t.chip [Reg.SB_STATUS.DYN_ADDR, Reg.SB_STATUS.DYN_VALID])
  ∧ (∀ (s : State) (addr : BitVec 7), s.chip.pwr.aonOk = true → s.chip.on Reg.SB_CTRL.WAKE_EN = true →
      s.chip.get Reg.SB_CTRL.WAKE_ADDR = addr.toNat → s.chip.wakeFault = false → s.chip.pwr.asleep = true → s.chip.pwr.wakeStep = 0 →
      s.chip.pwr.retry = none →
    ∃ t, exec (.sbWakeMatch addr) s = .next t ∧ t.pending = s.pending ∧ t.chip.get Reg.SB_STATUS.WAKE_SEEN = 1
      ∧ t.chip.pwr = { s.chip.pwr with seen := s.chip.pwr.seen ||| 1 }
      ∧ OnlyFields { s.chip with pwr := t.chip.pwr } t.chip [Reg.SB_STATUS.WAKE_SEEN])

/-- The test access port (R334, R454 to R457) and the flash lands (R450): an instruction shifted into a die of its own is that die's instruction and leaves the
other dies' and the cells; one for the stage of an absent or gated die changes nothing; SAMPLE/PRELOAD takes the cells; a test reset gives every die
IDCODE; a debug access begins while DEBUG is the hub's instruction if it is aligned and its world's debug is effective, and is REFUSED otherwise; its end
captures the 8 bytes with DONE, or writes them; a slot that is being read when FLASH_OWN_N falls fails. -/
def Obligations.TestPortActs : Prop :=
  (∀ (s : State) (pos : Fin 13) (cells : Nat),
    (s.chip.tapDie pos.val = true →
      ∀ p ∈ [(Instr.tapBypass pos, ⟨if pos.val = 0 then 0xFFFF else 0xFF, (s.chip.tapOf pos.val).cells⟩), (.tapIdcode pos, ⟨1, (s.chip.tapOf pos.val).cells⟩),
             (.tapExtest pos, ⟨3, (s.chip.tapOf pos.val).cells⟩), (.tapSamplePreload pos cells, TapDie.mk 2 cells)],
        ∃ t, exec p.1 s = .next t ∧ t.pending = s.pending ∧ t.chip.tapOf pos.val = p.2
          ∧ (∀ q, q ≠ pos.val → t.chip.tapOf q = s.chip.tapOf q) ∧ t.chip = { s.chip with tap := { s.chip.tap with dies := t.chip.tap.dies } })
    ∧ (s.chip.tapDie pos.val = false →
      ∀ i ∈ [Instr.tapBypass pos, .tapIdcode pos, .tapExtest pos, .tapSamplePreload pos cells], exec i s = .next s))
  ∧ (∀ s : State,
    (∀ p ∈ [(Instr.tapClamp, 4), (.tapHighz, 5), (.tapDebug, 16)],
      ∃ t, exec p.1 s = .next t ∧ t.pending = s.pending ∧ (t.chip.tapOf 0).instr = p.2 ∧ (t.chip.tapOf 0).cells = (s.chip.tapOf 0).cells
        ∧ (∀ q, q ≠ 0 → t.chip.tapOf q = s.chip.tapOf q) ∧ t.chip = { s.chip with tap := { s.chip.tap with dies := t.chip.tap.dies } })
    ∧ (∃ t, exec .tapTestReset s = .next t ∧ t.pending = s.pending
      ∧ (∀ q < 13, s.chip.tapDie q = true → t.chip.tapOf q = ⟨1, (s.chip.tapOf q).cells⟩)
      ∧ t.chip = { s.chip with tap := { s.chip.tap with dies := t.chip.tap.dies } }))
  ∧ (∀ (s : State) (sec : Bool) (pa : BitVec 52) (data : Word), (s.chip.tapOf 0).instr = 16 → s.chip.tap.dbg = none →
    ∀ p ∈ [(Instr.debugRead sec pa, false, 0), (.debugWrite sec pa data, true, data.toNat)],
      (pa.toNat % 8 = 0 → s.chip.dbgAllows p.2.1 sec pa.toNat = true →
        ∃ t, exec p.1 s = .next t ∧ t.pending = s.pending
          ∧ t.chip = { s.chip with tap := { s.chip.tap with dbg := some (p.2.1, sec, pa.toNat, p.2.2), capture := 0 } })
      ∧ (pa.toNat % 8 ≠ 0 ∨ s.chip.dbgAllows p.2.1 sec pa.toNat = false →
        ∃ t, exec p.1 s = .next t ∧ t.pending = s.pending ∧ t.chip = { s.chip with tap := { s.chip.tap with capture := 3 } }))
  ∧ (∀ s : State, (s.chip.tapOf 0).instr = 16 → s.chip.tap.dbg = none →
    exec (.debugUpdate false) s = .next s
    ∧ ∃ t, exec (.debugUpdate true) s = .next t ∧ t.pending = s.pending ∧ t.chip = { s.chip with tap := { s.chip.tap with capture := 3 } })
  ∧ (∀ (s : State) (sec : Bool) (pa data : Nat) (d : Line), s.chip.halted = false → s.chip.inIdle = true → pa % 8 = 0 →
      s.chip.hubHolds (pa / 64) ⟨hubAgent s.chip.pkg 6 0, 0, sec, 3, 0⟩ ⟨d, false⟩ = true →
    (s.chip.tap.dbg = some (false, sec, pa, data) →
      ∃ t, exec .debugAccessDone s = .next t ∧ t.pending = s.pending ∧ t.chip.tap.dbg = none
        ∧ t.chip.tap.capture = 1 + lineGet d (pa % 64) 8 * 2 ^ 64 ∧ SameMemory s.chip t.chip)
    ∧ (s.chip.tap.dbg = some (true, sec, pa, data) →
      ∃ t k l, exec .debugAccessDone s = .next t ∧ t.pending = s.pending ∧ t.chip.tap.dbg = none ∧ t.chip.tap.capture = 1
        ∧ t.chip.hcFind (pa / 64) = some (k, l) ∧ lineGet l.ld.data (pa % 64) 8 = data % 2 ^ 64
        ∧ (∀ o, o < pa % 64 ∨ (pa % 64 + 8 ≤ o ∧ o < 64) → lineGet l.ld.data o 1 = lineGet d o 1)))
  ∧ (∀ (s : State) (low : Bool),
    (low = false ∨ s.chip.pwr.flashLow = true ∨ s.chip.boot.step ≠ 3 →
      ∃ t, exec (.flashOwnChange low) s = .next t ∧ t.pending = s.pending ∧ t.chip = { s.chip with pwr := { s.chip.pwr with flashLow := low } })
    ∧ (low = true → s.chip.halted = false → s.chip.pwr.flashLow = false → s.chip.boot.step = 3 → s.chip.boot.slot = 0 →
      ∃ t, exec (.flashOwnChange low) s = .next t ∧ t.pending = s.pending ∧ t.chip.get Reg.CFG_BOOT.A_FAIL = 8 ∧ t.chip.boot = ⟨3, 1, 0, 0, 0⟩
        ∧ OnlyFields { s.chip with pwr := { s.chip.pwr with flashLow := true }, boot := t.chip.boot } t.chip [Reg.CFG_BOOT.A_FAIL]))

/-- Power states (R71, R401, R403 to R409): an idle core enters C1; a core that may enter C3 writes 128 lines for each context that is not OFF; the entry ends in C3
when every line is in its L2, and a failed save leaves C1 with SAVE_ERR; a woken core is back in C0, and a context whose image is poisoned is reset; START makes
an OFF context READY at its entry in the writer's world at level H; a cluster goes off only when its L2 is drained and its contexts are OFF; a gate command is
answered by the rules' order and runs until it completes; a sampled temperature sets its flags with a hysteresis of 5 degrees and trips at 125. -/
def Obligations.CoresAndBlocksPower : Prop :=
  (∀ (s : State) (k : Fin 240), s.chip.halted = false →
    (s.chip.corePresent (k.val / 20) (k.val % 20) = true → s.chip.cstate k.val = 0 →
        (∀ x ∈ coreCtxs k.val, s.chip.cxState x ≠ cxReady ∧ s.chip.cxState x ≠ cxRunning) →
      ∃ t, exec (.c1Entry k) s = .next t ∧ t.pending = s.pending ∧ t.chip.cstate k.val = 1 ∧ OnlyFields s.chip t.chip [fCstate k.val])
    ∧ (s.chip.c3May k.val = true →
      ∃ t, exec (.c3Entry k) s = .next t ∧ t.pending = s.pending ∧ (t.chip.coreOf k.val).c3 = 1
        ∧ (∀ x ∈ coreCtxs k.val, s.chip.cxState x ≠ cxOff →
            (t.chip.ctxOf x).sq.map (fun e => (e.pa, e.size, e.kind)) = (s.chip.saveLines x).map (fun l => (64 * l, 64, AKind.save)))
        ∧ (∀ x, x ∉ coreCtxs k.val → t.chip.ctxOf x = s.chip.ctxOf x)
        ∧ t.chip = { s.chip with ctx := t.chip.ctx, core := t.chip.core, free := t.chip.free })
    ∧ ((s.chip.coreOf k.val).c3 = 1 → s.chip.savedAll k.val = true →
      ∃ t, exec (.c3SaveDone k) s = .next t ∧ t.pending = s.pending ∧ t.chip.cstate k.val = 2 ∧ (t.chip.coreOf k.val).c3 = 0
        ∧ (∀ x ∈ coreCtxs k.val, (t.chip.ctxOf x).tlb = [] ∧ (t.chip.ctxOf x).pc = (s.chip.ctxOf x).pc)
        ∧ t.chip.coh = { s.chip.coh with l1i := t.chip.coh.l1i, l1d := t.chip.coh.l1d }
        ∧ Untouched s.chip t.chip [fCstate k.val, Reg.PWR_CORE_STATUS.C3_ENTRIES (k.val / 20) (k.val % 20)])
    ∧ ((s.chip.coreOf k.val).c3 = 2 →
      ∃ t, exec (.c3SaveDone k) s = .next t ∧ t.pending = s.pending ∧ t.chip.cstate k.val = s.chip.cstate k.val ∧ (t.chip.coreOf k.val).c3 = 0
        ∧ t.chip.get (Reg.PWR_CORE_STATUS.SAVE_ERR (k.val / 20) (k.val % 20)) = 1
        ∧ Untouched s.chip t.chip [Reg.PWR_CORE_STATUS.SAVE_ERR (k.val / 20) (k.val % 20)])
    ∧ (s.chip.cstate k.val = 2 → (s.chip.coreOf k.val).c3 = 3 →
        (∀ x ∈ coreCtxs k.val, ∀ l ∈ s.chip.saveLines x, (s.chip.l2Find (cluIx x) l).isSome = true) →
      ∃ t, exec (.c3Exit k) s = .next t ∧ t.pending = s.pending ∧ t.chip.cstate k.val = 0 ∧ (t.chip.coreOf k.val).c3 = 0
        ∧ (∀ x ∈ coreCtxs k.val, s.chip.cxState x = cxIdle →
            ((∀ l ∈ s.chip.saveLines x, ∀ p, s.chip.l2Find (cluIx x) l = some p → p.2.ld.poison = false) → (t.chip.ctxOf x).pc = (s.chip.ctxOf x).pc)
            ∧ ((∃ l ∈ s.chip.saveLines x, ∃ p, s.chip.l2Find (cluIx x) l = some p ∧ p.2.ld.poison = true) →
                t.chip.cxState x = cxOff ∧ t.chip.get (Reg.PWR_CORE_STATUS.RESTORE_ERR (k.val / 20) (k.val % 20)) = 1))))
  ∧ (∀ (s : State) (w : Who) (x : Fin 960), s.chip.writeRuns w (Reg.CORE_CTX_CTRL.START (x.val / 80) (x.val % 80 / 4) (x.val % 4)).off = true →
      s.chip.cxPresent x.val = true → (s.chip.coreOf (coreIx x.val)).c3 = 0 →
    (s.chip.fwQuiet = false → s.chip.bootStopped = false → s.chip.on (Reg.PWR_CL_CTRL.OFF (x.val / 80) (x.val % 80 / 4 / 4)) = false →
        s.chip.cxState x.val = cxOff →
      ∃ t, exec (.coreCtxStart w x) s = .next t ∧ t.pending = s.pending ∧ (t.chip.cxState x.val = cxReady ∨ t.chip.cxState x.val = cxRunning)
        ∧ t.chip.cxSecure x.val = w.secure ∧ t.chip.cxPriv x.val = 2 ∧ t.chip.cxTenant x.val = s.chip.cxTenant x.val
        ∧ (t.chip.ctxOf x.val).pc = 32 * s.chip.get (Reg.CORE_CTX_ENTRY.ADDR (x.val / 80) (x.val % 80 / 4) (x.val % 4))
        ∧ SameMemory s.chip t.chip ∧ t.chip.coh = s.chip.coh)
    ∧ (s.chip.cxState x.val ≠ cxOff →
      ∃ t, exec (.coreCtxStart w x) s = .next t ∧ t.pending = s.pending
        ∧ WroteOnly s.chip t.chip w (Reg.CORE_CTX_CTRL.START (x.val / 80) (x.val % 80 / 4) (x.val % 4)).off [])
    ∧ ((s.chip.cxState x.val = cxRunning → (s.chip.ctxOf x.val).serial = none) →
      ∃ t, exec (.coreCtxReset w x) s = .next t ∧ t.pending = s.pending ∧ t.chip.cxState x.val = cxOff ∧ t.chip.ctxOf x.val = Ctx.init
      ∧ t.chip.cxTenant x.val = 0 ∧ t.chip.cxSecure x.val = false ∧ SMap.get? t.chip.frozen x.val = none ∧ SameMemory s.chip t.chip)
    ∧ (∀ q : Serial, s.chip.cxState x.val = cxRunning → (s.chip.ctxOf x.val).serial = some q → q.kind ≠ .string →
      ∃ t, exec (.coreCtxReset w x) s = .next t ∧ t.pending = s.pending ∧ t.chip.ctxOf x.val = { s.chip.ctxOf x.val with resetWait := 1 }
        ∧ (∀ y, y ≠ x.val → t.chip.ctxOf y = s.chip.ctxOf y)
        ∧ WroteOnly { s.chip with ctx := t.chip.ctx } t.chip w (Reg.CORE_CTX_CTRL.START (x.val / 80) (x.val % 80 / 4) (x.val % 4)).off []))
  ∧ (∀ (s : State) (w : Who) (d : Fin 12) (cl : Fin 5) (v : Word), s.chip.writeRuns w (Reg.PWR_CL_CTRL.C3_EN d.val cl.val).off = true →
      s.chip.cluPresent d.val cl.val = true →
    (s.chip.clDenied w d.val cl.val = true →
      ∃ t, exec (.pwrClCtrlWrite w d cl v) s = .next t ∧ t.pending = s.pending ∧ t.chip.get (Reg.PWR_DIE_RESULT.RESULT d.val) = prDenied
        ∧ WroteOnly s.chip t.chip w (Reg.PWR_CL_CTRL.C3_EN d.val cl.val).off [Reg.PWR_DIE_RESULT.RESULT d.val, Reg.PWR_DIE_RESULT.CLUSTER d.val])
    ∧ (s.chip.clDenied w d.val cl.val = false →
      (bit v.toNat 1 = s.chip.on (Reg.PWR_CL_CTRL.OFF d.val cl.val) →
        ∃ t, exec (.pwrClCtrlWrite w d cl v) s = .next t ∧ t.pending = s.pending ∧ t.chip.get (Reg.PWR_DIE_RESULT.RESULT d.val) = prDone
          ∧ t.chip.get (Reg.PWR_CL_CTRL.C3_EN d.val cl.val) = bits v.toNat 0 1 ∧ t.chip.get (Reg.PWR_CL_CTRL.C3_IDLE d.val cl.val) = bits v.toNat 16 16
          ∧ WroteOnly s.chip t.chip w (Reg.PWR_CL_CTRL.C3_EN d.val cl.val).off
              [Reg.PWR_CL_CTRL.C3_EN d.val cl.val, Reg.PWR_CL_CTRL.C3_IDLE d.val cl.val, Reg.PWR_DIE_RESULT.RESULT d.val, Reg.PWR_DIE_RESULT.CLUSTER d.val])
      ∧ (bit v.toNat 1 = true → s.chip.on (Reg.PWR_CL_CTRL.OFF d.val cl.val) = false →
        ((s.chip.on (Reg.CL_L2_STATUS.DRAINED d.val cl.val) = false ∨ ∃ x ∈ cluCtxs d.val cl.val, s.chip.cxState x ≠ cxOff) →
          ∃ t, exec (.pwrClCtrlWrite w d cl v) s = .next t ∧ t.pending = s.pending ∧ t.chip.get (Reg.PWR_DIE_RESULT.RESULT d.val) = prBadState
            ∧ WroteOnly s.chip t.chip w (Reg.PWR_CL_CTRL.C3_EN d.val cl.val).off [Reg.PWR_DIE_RESULT.RESULT d.val, Reg.PWR_DIE_RESULT.CLUSTER d.val])
        ∧ (s.chip.on (Reg.CL_L2_STATUS.DRAINED d.val cl.val) = true → (∀ x ∈ cluCtxs d.val cl.val, s.chip.cxState x = cxOff) →
          ∃ t, exec (.pwrClCtrlWrite w d cl v) s = .next t ∧ t.pending = s.pending ∧ t.chip.get (Reg.PWR_DIE_RESULT.RESULT d.val) = prDone
            ∧ t.chip.on (Reg.PWR_CL_CTRL.OFF d.val cl.val) = true ∧ (∀ k ∈ cluCores d.val cl.val, t.chip.cstate k = 3)
            ∧ (∀ x ∈ cluCtxs d.val cl.val, t.chip.ctxOf x = Ctx.init)))
      ∧ (bit v.toNat 1 = false → s.chip.on (Reg.PWR_CL_CTRL.OFF d.val cl.val) = true →
        ∃ t, exec (.pwrClCtrlWrite w d cl v) s = .next t ∧ t.pending = s.pending ∧ t.chip.get (Reg.PWR_DIE_RESULT.RESULT d.val) = prDone
          ∧ t.chip.on (Reg.PWR_CL_CTRL.OFF d.val cl.val) = false ∧ (∀ k ∈ cluCores d.val cl.val, t.chip.cstate k = 0))))
  ∧ (∀ (s : State) (w : Who) (t' : BitVec 6), s.chip.writeRuns w Reg.PWR_GATE_CMD.OP.off = true → t'.toNat ≤ 51 →
    ∀ p ∈ [(Instr.gateClock w t', 1), (.gatePower w t', 2), (.gateUngate w t', 3)],
      ∃ t, exec p.1 s = .next t ∧ t.pending = s.pending
        ∧ (s.chip.gateDenied w t'.toNat = true → t.chip.get Reg.PWR_GATE_STATUS.RESULT = prDenied ∧ t.chip.pwr = s.chip.pwr)
        ∧ (s.chip.gateDenied w t'.toNat = false →
            (s.chip.on Reg.PWR_GATE_STATUS.BUSY = true → t.chip.get Reg.PWR_GATE_STATUS.RESULT = prBusy ∧ t.chip.pwr = s.chip.pwr)
            ∧ (s.chip.on Reg.PWR_GATE_STATUS.BUSY = false →
                (gateOffers t'.toNat p.2 = false → t.chip.get Reg.PWR_GATE_STATUS.RESULT = prBadOp ∧ t.chip.pwr = s.chip.pwr)
                ∧ (p.2 = 3 → s.chip.gated t'.toNat = false → t.chip.get Reg.PWR_GATE_STATUS.RESULT = prDone ∧ t.chip.pwr = s.chip.pwr)
                ∧ (gateOffers t'.toNat p.2 = true → p.2 ≠ 3 → s.chip.gateReady t'.toNat p.2 = false →
                    t.chip.get Reg.PWR_GATE_STATUS.RESULT = prBadState ∧ t.chip.pwr = s.chip.pwr)
                ∧ (gateOffers t'.toNat p.2 = true → (if p.2 = 3 then s.chip.gated t'.toNat else s.chip.gateReady t'.toNat p.2) = true →
                    t.chip.get Reg.PWR_GATE_STATUS.BUSY = 1
                    ∧ t.chip.pwr = { s.chip.pwr with gate := some (t'.toNat, p.2, s.chip.get Reg.HC_MAINT_BANKS.BANKS) })))
        ∧ WroteOnly { s.chip with pwr := t.chip.pwr } t.chip w Reg.PWR_GATE_CMD.OP.off [Reg.PWR_GATE_STATUS.RESULT, Reg.PWR_GATE_STATUS.BUSY])
  ∧ (∀ (s : State) (n op b : Nat), s.chip.halted = false → s.chip.pwr.gate = some (n, op, b) → 12 ≤ n → n ≤ 51 → n ≠ 50 →
    ∃ t, exec .gateComplete s = .next t ∧ t.pending = s.pending ∧ t.chip.gated n = decide (op ≠ 3)
      ∧ (∀ m < 52, m ≠ n → t.chip.gated m = s.chip.gated m) ∧ t.chip.get Reg.PWR_GATE_STATUS.BUSY = 0
      ∧ t.chip.get Reg.PWR_GATE_STATUS.RESULT = prDone
      ∧ OnlyFields { s.chip with pwr := { s.chip.pwr with gate := none } } t.chip
          [Reg.PWR_GATED.GATED, Reg.PWR_GATE_STATUS.BUSY, Reg.PWR_GATE_STATUS.RESULT])
  ∧ (∀ (s : State) (u : Fin 13) (temp : BitVec 8), s.chip.halted = false → u.val < 12 →
    ∃ t, exec (.tempSample u temp false) s = .next t ∧ t.pending = s.pending ∧ t.chip.get (Reg.PWR_THERM.TEMP u.val) = temp.toNat
      ∧ t.chip.pwr.tripped = decide (125 ≤ toSigned 8 temp.toNat)
      ∧ (toSigned 8 (s.chip.get (Reg.PWR_THERM.WARN u.val)) ≤ toSigned 8 temp.toNat → t.chip.get (Reg.PWR_THERM.WARN_ON u.val) = 1)
      ∧ (toSigned 8 temp.toNat ≤ toSigned 8 (s.chip.get (Reg.PWR_THERM.WARN u.val)) - 5 → t.chip.get (Reg.PWR_THERM.WARN_ON u.val) = 0)
      ∧ (toSigned 8 (s.chip.get (Reg.PWR_THERM.WARN u.val)) - 5 < toSigned 8 temp.toNat →
          toSigned 8 temp.toNat < toSigned 8 (s.chip.get (Reg.PWR_THERM.WARN u.val)) →
          t.chip.get (Reg.PWR_THERM.WARN_ON u.val) = s.chip.get (Reg.PWR_THERM.WARN_ON u.val))
      ∧ (toSigned 8 (s.chip.get (Reg.PWR_THERM.CRIT u.val)) ≤ toSigned 8 temp.toNat → t.chip.get (Reg.PWR_THERM.CRIT_ON u.val) = 1)
      ∧ (toSigned 8 temp.toNat ≤ toSigned 8 (s.chip.get (Reg.PWR_THERM.CRIT u.val)) - 5 → t.chip.get (Reg.PWR_THERM.CRIT_ON u.val) = 0)
      ∧ SameMemory s.chip t.chip ∧ t.chip.ctx = s.chip.ctx)

/-- Freewheel (R410 to R413, R415 to R419): FREEWHEEL starts an entry with its interrupt, and is BUSY during one; ABORT ends it; a Secure acknowledgement ends step 1; each step's
ready condition leads to the next, and the last removes power, with memory, OTP and retained hub cache banks kept and every warm field at its reset value; a step
that runs out of time ends the entry with its result; the timer and the pin ask for a wake; the wake's steps lead to ROOT_LOCK, channels that are READY again, and a
warm boot; a wake step that fails is logged and tried again, or is a wake fault once the retries are spent. -/
def Obligations.FreewheelSleepsAndWakes : Prop :=
  (∀ (s : State) (w : Who), s.chip.writeRuns w Reg.PWR_PK_CMD.OP.off = true →
    (s.chip.entering = false →
      (∃ t, exec (.freewheel w) s = .next t ∧ t.pending = s.pending ∧ t.chip.get Reg.PWR_PK_STATUS.STATE = pkEntering ∧ t.chip.fwStep = 1
        ∧ (s.chip.on Reg.PWR_SEC_IRQ.EN = true → ⟨s.chip.get Reg.PWR_SEC_IRQ.AGENT, s.chip.get Reg.PWR_SEC_IRQ.VEC, 0⟩ ∈ t.chip.irqs)
        ∧ WroteOnly s.chip t.chip w Reg.PWR_PK_CMD.OP.off [Reg.PWR_PK_STATUS.STATE, Reg.PWR_PK_STATUS.STEP])
      ∧ (∃ t, exec (.freewheelAbort w) s = .next t ∧ t.pending = s.pending ∧ WroteOnly s.chip t.chip w Reg.PWR_PK_CMD.OP.off []))
    ∧ (s.chip.entering = true →
      (∃ t, exec (.freewheel w) s = .next t ∧ t.pending = s.pending ∧ t.chip.get Reg.PWR_PK_RESULT.RESULT = pkBusy
        ∧ WroteOnly s.chip t.chip w Reg.PWR_PK_CMD.OP.off [Reg.PWR_PK_RESULT.RESULT])
      ∧ (∃ t, exec (.freewheelAbort w) s = .next t ∧ t.pending = s.pending ∧ t.chip.get Reg.PWR_PK_RESULT.RESULT = pkByAbort
        ∧ t.chip.get Reg.PWR_PK_RESULT.STEP = s.chip.fwStep ∧ t.chip.entering = false
        ∧ (∀ ch < 24, bit s.chip.pwr.chans ch = true → s.chip.mcState ch = mcSelfRefresh → (s.chip.mcOf ch).sr = none →
            (t.chip.mcOf ch).sr = some ⟨true, 1, false, true, false⟩)
        ∧ WroteOnly { s.chip with mc := s.chip.fwWakeChans.mc, pwr := { s.chip.pwr with seen := 0, chans := 0 } } t.chip w Reg.PWR_PK_CMD.OP.off
            [Reg.PWR_PK_RESULT.RESULT, Reg.PWR_PK_RESULT.STEP, Reg.PWR_PK_STATUS.STATE, Reg.PWR_PK_STATUS.STEP])))
  ∧ (∀ (s : State) (w : Who), s.chip.writeRuns w Reg.PWR_SEC_ACK.ACK.off = true →
    ∃ t, exec (.secAck w) s = .next t ∧ t.pending = s.pending ∧ (s.chip.entering = true → s.chip.fwStep = 1 → t.chip.fwStep = 2)
      ∧ WroteOnly s.chip t.chip w Reg.PWR_SEC_ACK.ACK.off (if s.chip.entering && s.chip.fwStep == 1 then [Reg.PWR_PK_STATUS.STEP] else []))
  ∧ (∀ s : State, s.chip.halted = false → s.chip.entering = true →
    (s.chip.fwStep = 2 →
      (s.chip.quiescent = false → exec .fwEntryStepReady s = .next s)
      ∧ (s.chip.quiescent = true → ∃ t, exec .fwEntryStepReady s = .next t ∧ t.pending = s.pending ∧ t.chip.fwStep = 3 ∧ t.chip.entering = true))
    ∧ (s.chip.fwStep = 3 →
      (s.chip.flushed = false → exec .fwEntryStepReady s = .next s)
      ∧ (s.chip.flushed = true → s.chip.coh.hc = [] → s.chip.coh.hcFills = [] → s.chip.pg.jobs = [] → s.chip.pg.chk = [] →
          (∀ ch < 24, (s.chip.mcOf ch).inq = []) →
        ∃ t, exec .fwEntryStepReady s = .next t ∧ t.pending = s.pending ∧ t.chip.fwStep = 4
          ∧ OnlyFields { s.chip with pg := { s.chip.pg with buf := [] } } t.chip [Reg.PWR_PK_STATUS.STEP]))
    ∧ (s.chip.fwStep = 4 →
      (s.chip.aud.ring ≠ [] ∨ s.chip.aud.waiting ≠ [] → exec .fwEntryStepReady s = .next s)
      ∧ (s.chip.aud.ring = [] → s.chip.aud.waiting = [] → s.chip.on Reg.AUD_CTRL.MRAM_EN = false → (∀ ch < 24, s.chip.mcState ch ≠ mcReady) →
        ∃ t, exec .fwEntryStepReady s = .next t ∧ t.pending = s.pending ∧ t.chip.fwStep = 5
          ∧ OnlyFields { s.chip with pwr := { s.chip.pwr with chans := 0 } } t.chip [Reg.PWR_PK_STATUS.STEP]))
    ∧ (s.chip.fwStep = 5 → (∀ ch < 24, bit s.chip.pwr.chans ch = true → s.chip.mcState ch = mcSelfRefresh) →
      ∃ t, exec .fwEntryStepReady s = .next t ∧ t.pending = s.pending ∧ t.chip.fwStep = 6 ∧ t.chip.entering = true)
    ∧ (s.chip.fwStep = 6 →
      (s.chip.on Reg.TIME_STATUS.VALID = true → exec .fwEntryStepReady s = .next s)
      ∧ (s.chip.on Reg.TIME_STATUS.VALID = false →
        ∃ t, exec .fwEntryStepReady s = .next t ∧ t.pending = s.pending ∧ t.chip.pwr.asleep = true ∧ t.chip.halted = true ∧ t.chip.ctx = []
          ∧ t.chip.dram = s.chip.dram ∧ t.chip.dramChk = s.chip.dramChk ∧ t.chip.flash = s.chip.flash
          ∧ (s.chip.on Reg.AUD_CTRL.MRAM_EN = false → t.chip.mram = s.chip.mram)
          ∧ (s.chip.sec.otpJob = none → t.chip.otp = s.chip.otp)
          ∧ t.chip.coh.hc = s.chip.coh.hc.filter (fun p => bit (s.chip.get Reg.PWR_RETAIN_MASK.BANKS) (bankHc p.2.line))
          ∧ t.chip.get Reg.SB_STATUS.AWAKE = 0 ∧ t.chip.get Reg.HUB_CLK_STATUS.ROOT_LOCK = 0
          ∧ (∀ f : Fld, f.rk = .warm ∨ f.rk = .die ∨ f.rk = .tenant ∨ f.rk = .context → t.chip.get f = Chip.reset.get f))))
  ∧ (∀ s : State, s.chip.halted = false → s.chip.entering = true → 1 ≤ s.chip.fwStep → s.chip.fwStep ≤ 5 →
    ∃ t, exec .fwEntryStepTimeout s = .next t ∧ t.pending = s.pending ∧ t.chip.entering = false
      ∧ t.chip.get Reg.PWR_PK_RESULT.RESULT = (if s.chip.fwStep = 1 then pkNoAck else if s.chip.fwStep = 2 then pkNotQuiet else pkAtStep)
      ∧ t.chip.get Reg.PWR_PK_RESULT.STEP = s.chip.fwStep
      ∧ OnlyFields { s.chip with mc := s.chip.fwWakeChans.mc, pwr := { s.chip.pwr with seen := 0, chans := 0 } } t.chip
          [Reg.PWR_PK_RESULT.RESULT, Reg.PWR_PK_RESULT.STEP, Reg.PWR_PK_STATUS.STATE, Reg.PWR_PK_STATUS.STEP])
  ∧ (∀ s : State, s.chip.pwr.asleep = true → s.chip.pwr.wakeStep = 0 → s.chip.pwr.retry = none → s.chip.wakeFault = false →
    (s.chip.on Reg.PWR_WAKE_CTRL.TIMER_EN = true → s.chip.get Reg.TIME_AO_COUNT.COUNT = s.chip.get Reg.PWR_WAKE_TIMER.COUNT →
      ∃ t, exec .wakeTimerExpiry s = .next t ∧ t.pending = s.pending ∧ t.chip.pwr = { s.chip.pwr with wakeStep := 1, attempt := 1, seen := 0 }
        ∧ t.chip.get Reg.PWR_WAKE_CAUSE.SOURCE = (s.chip.pwr.seen ||| 2) % 8 ∧ t.chip.get Reg.PWR_WAKE_CAUSE.ATTEMPTS = 0
        ∧ OnlyFields { s.chip with pwr := t.chip.pwr } t.chip
            [Reg.PWR_WAKE_CAUSE.SOURCE, Reg.PWR_WAKE_CAUSE.ATTEMPTS, Reg.PWR_WAKE_CAUSE.BANKS_LOST])
    ∧ (s.chip.on Reg.PWR_WAKE_CTRL.PIN_EN = true →
      ∃ t, exec .wakeNFall s = .next t ∧ t.pending = s.pending ∧ t.chip = { s.chip with pwr := { s.chip.pwr with seen := s.chip.pwr.seen ||| 4 } }))
  ∧ (∀ (s : State) (lost : BitVec 64),
    (s.chip.pwr.wakeStep = 1 → exec (.wakeStepReady lost) s = .next { s with chip := { s.chip with pwr := { s.chip.pwr with wakeStep := 2 } } })
    ∧ (s.chip.pwr.wakeStep = 2 →
      ∃ t, exec (.wakeStepReady lost) s = .next t ∧ t.pending = s.pending ∧ t.chip.pwr = { s.chip.pwr with wakeStep := 3 }
        ∧ t.chip.get Reg.HUB_CLK_STATUS.ROOT_LOCK = 1 ∧ (∀ d < 12, s.chip.diePresent d = true → t.chip.bitOf Reg.HUB_CLK_STATUS.DIE_LOCK d = true)
        ∧ OnlyFields { s.chip with pwr := t.chip.pwr } t.chip
            [Reg.HUB_CLK_STATUS.ROOT_LOCK, Reg.HUB_CLK_STATUS.DIE_LOCK, Reg.TIME_STATUS.VALID])
    ∧ (s.chip.pwr.wakeStep = 3 →
      ∃ t, exec (.wakeStepReady lost) s = .next t ∧ t.pending = s.pending ∧ t.chip.pwr.asleep = false ∧ t.chip.pwr.wakeStep = 4
        ∧ t.chip.boot = ⟨2, 0, 0, 0, 0⟩ ∧ t.chip.get Reg.CFG_BOOT.WARM = 1 ∧ t.chip.get Reg.SB_STATUS.AWAKE = 1
        ∧ t.chip.get Reg.PWR_WAKE_CAUSE.BANKS_LOST = popc 64 (s.chip.get Reg.PWR_RETAIN_MASK.BANKS &&& lost.toNat)
        ∧ (∀ ch < 24, s.chip.mcState ch = mcSelfRefresh → s.chip.on (Reg.MC_CFG.EN ch) = true → t.chip.mcState ch = mcReady)
        ∧ t.chip.dram = s.chip.dram)
    ∧ (s.chip.pwr.wakeStep = 4 →
      ∃ t, exec (.wakeStepReady lost) s = .next t ∧ t.pending = s.pending ∧ t.chip.pwr = { s.chip.pwr with wakeStep := 0 }
        ∧ t.chip.get Reg.PWR_WAKE_CAUSE.ATTEMPTS = s.chip.pwr.attempt % 32 ∧ t.chip.get Reg.PWR_PK_RESULT.RESULT = pkSlept
        ∧ OnlyFields { s.chip with pwr := t.chip.pwr } t.chip [Reg.PWR_WAKE_CAUSE.ATTEMPTS, Reg.PWR_PK_RESULT.RESULT, Reg.PWR_PK_RESULT.STEP]))
  ∧ (∀ (s : State) (reason : Fin 8) (idx : Fin 32), 1 ≤ s.chip.pwr.wakeStep → s.chip.pwr.wakeStep ≤ 3 →
      wakeCodeOk (s.chip.pwr.wakeStep - 1) reason.val idx.val = true →
    ∃ t, exec (.wakeStepTimeout reason idx) s = .next t ∧ t.pending = s.pending ∧ t.chip.get Reg.PWR_WAKE_FAIL.VALID = 1
      ∧ t.chip.get Reg.PWR_WAKE_FAIL.STAGE = s.chip.pwr.wakeStep - 1 ∧ t.chip.get Reg.PWR_WAKE_FAIL.CODE = reason.val * 32 + idx.val
      ∧ t.chip.get Reg.PWR_WAKE_FAIL.ATTEMPT = s.chip.pwr.attempt % 16
      ∧ (s.chip.pwr.attempt ≤ s.chip.get Reg.PWR_WAKE_RETRIES.RETRIES →
          t.chip.pwr = { s.chip.pwr with wakeStep := 0, retry := some 33 } ∧ t.chip.wakeFault = s.chip.wakeFault)
      ∧ (s.chip.get Reg.PWR_WAKE_RETRIES.RETRIES < s.chip.pwr.attempt → t.chip.wakeFault = true ∧ t.chip.get Reg.PWR_WAKE_FAIL.FAULT = 1
          ∧ t.chip.pwr = { s.chip.pwr with wakeStep := 0, retry := none, seen := 0 })
      ∧ SameMemory s.chip t.chip)
  ∧ (∀ s : State, s.chip.pwr.retry = some 0 →
    exec .wakeRetry s = .next { s with chip := { s.chip with pwr :=
      { s.chip.pwr with retry := none, wakeStep := 1, attempt := s.chip.pwr.attempt + 1 } } })

/-- Resets (R17, R18, R34, R73, R196, R266, R338, R373, R440, R447, R448): a cold reset gives every field but the audit log's and those of kind none its reset value, keeps MRAM and
flash, and OTP where no word of it is being programmed, and at its end takes the straps; a warm reset, from its land or the watchdog, restores every field of kind warm or narrower but the log's, keeps OTP so and starts the boot at
step 2; a die reset restores its die's fields and contexts, drops its caches and leaves it fenced; a context reset makes its context OFF with nothing left, and
breaks its locks; AON_OK rising leaves the always-on domain in a cold reset; a brown-out outside Freewheel stops the clocks with FATAL_ERR, and in Freewheel a low VMAIN does nothing. -/
def Obligations.ResetsRestore : Prop :=
  (∀ (s : State) (straps : Fin 8),
    (∃ t, exec (.coldReset true straps) s = .next t ∧ t.pending = s.pending ∧ t.chip.pwr.coldLow = true ∧ t.chip.halted = true
      ∧ (∀ f : Fld, f.rk ≠ .never → (∀ g ∈ auditFields, f.addr ≠ g.addr) → t.chip.get f = Chip.reset.get f)
      ∧ (s.chip.sec.otpJob = none → t.chip.otp = s.chip.otp) ∧ t.chip.mram = s.chip.mram ∧ t.chip.flash = s.chip.flash
      ∧ t.chip.regs.never = s.chip.regs.never
      ∧ t.chip.ctx = [] ∧ t.chip.coh = CohSt.init ∧ t.chip.aud.ring.length = 1)
    ∧ (s.chip.pwr.coldLow = true →
      ∃ t, exec (.coldReset false straps) s = .next t ∧ t.pending = s.pending ∧ t.chip.pwr.coldLow = false
        ∧ t.chip.pkg = straps.val ∧ t.chip.get Reg.SB_CTRL.ADDR = 0x38 + straps.val ∧ t.chip.get Reg.SB_CTRL.WAKE_ADDR = 0x30 + straps.val
        ∧ (∀ f : Fld, f.rk ≠ .never →
            (∀ g ∈ [Reg.HUB_PKG_ID.PKG, Reg.SB_CTRL.ADDR, Reg.SB_CTRL.WAKE_ADDR] ++ auditFields, f.addr ≠ g.addr) → t.chip.get f = Chip.reset.get f)
        ∧ (s.chip.sec.otpJob = none → t.chip.otp = s.chip.otp) ∧ t.chip.mram = s.chip.mram ∧ t.chip.flash = s.chip.flash)
    ∧ (s.chip.pwr.coldLow = false → exec (.coldReset false straps) s = .next s))
  ∧ (∀ (s : State) (fail : BitVec 24), s.chip.halted = false →
    ∀ p ∈ [(Instr.warmReset true fail, true), (.wdogReset fail, false)], (p.2 = false → s.chip.sec.wdogFiring = true) →
      ∃ t, exec p.1 s = .next t ∧ t.pending = s.pending ∧ t.chip.pwr.warmLow = p.2
        ∧ (∀ f : Fld, f.rk = .warm ∨ f.rk = .die ∨ f.rk = .tenant ∨ f.rk = .context → (∀ g ∈ auditFields, f.addr ≠ g.addr) →
            t.chip.get f = Chip.reset.get f)
        ∧ t.chip.get Reg.CFG_BOOT.WARM = 1 ∧ t.chip.boot = ⟨2, 0, 0, 0, 0⟩ ∧ t.chip.ctx = [] ∧ t.chip.coh = CohSt.init ∧ t.chip.fatalErr = false
        ∧ (s.chip.sec.otpJob = none → t.chip.otp = s.chip.otp) ∧ t.chip.flash = s.chip.flash
        ∧ (∀ n < 64, s.chip.on (Reg.CFG_LOCK.HELD n) = true → t.chip.on (Reg.CFG_LOCK.HELD n) = false ∧ t.chip.on (Reg.CFG_LOCK.BROKEN n) = true))
  ∧ (∀ (s : State) (d : Fin 12), s.chip.halted = false →
    (s.chip.diePresent d.val = false → exec (.dieReset d) s = .next s)
    ∧ (s.chip.diePresent d.val = true →
      ∃ t, exec (.dieReset d) s = .next t ∧ t.pending = s.pending ∧ t.chip.bitOf (Reg.DIR_FENCE.DIE 0 s.chip.pkg) d.val = true
        ∧ (∀ f : Fld, f.rk = .die → f.addr / (8 * 0x10000000) = d.val → f.addr ≠ (Reg.SPKD_STATUS.STATE d.val).addr →
            t.chip.get f = f.rst % 2 ^ f.width)
        ∧ (∀ x, 80 * d.val ≤ x → x < 80 * d.val + 80 → t.chip.ctxOf x = Ctx.init ∧ t.chip.cxState x = cxOff)
        ∧ (∀ p ∈ t.chip.coh.l2, p.1 / (5 * 32768) ≠ d.val) ∧ (∀ p ∈ t.chip.coh.l3, p.1 / (20 * 32768) ≠ d.val)
        ∧ SameMemory s.chip t.chip))
  ∧ (∀ (s : State) (x : Fin 960), s.chip.halted = false →
    (s.chip.cxPresent x.val = false → exec (.contextReset x) s = .next s)
    ∧ (s.chip.cxPresent x.val = true →
      ∃ t, exec (.contextReset x) s = .next t ∧ t.pending = s.pending ∧ t.chip.ctxOf x.val = Ctx.init ∧ t.chip.cxState x.val = cxOff
        ∧ t.chip.cxTenant x.val = 0 ∧ t.chip.cxSecure x.val = false ∧ t.chip.get (Reg.REG_CTX_MAP.ENT x.val) = 0
        ∧ SMap.get? t.chip.frozen x.val = none
        ∧ (∀ n < 64, s.chip.on (Reg.CFG_LOCK.HELD n) = true → s.chip.get (Reg.CFG_LOCK.OWNER n) = s.chip.cxAgent x.val →
            t.chip.on (Reg.CFG_LOCK.HELD n) = false ∧ t.chip.on (Reg.CFG_LOCK.BROKEN n) = true)
        ∧ (∀ y, y / 4 ≠ x.val / 4 → t.chip.ctxOf y = s.chip.ctxOf y) ∧ SameMemory s.chip t.chip))
  ∧ (∀ s : State,
    (s.chip.pwr.aonOk = true → exec .aonOkRise s = .next s)
    ∧ (s.chip.pwr.aonOk = false →
      ∃ t, exec .aonOkRise s = .next t ∧ t.pending = s.pending ∧ t.chip.pwr.aonOk = true ∧ t.chip.pwr.coldLow = true ∧ t.chip.halted = true
        ∧ (∀ f : Fld, f.rk ≠ .never → (∀ g ∈ auditFields, f.addr ≠ g.addr) → t.chip.get f = Chip.reset.get f)
        ∧ (s.chip.sec.otpJob = none → t.chip.otp = s.chip.otp)))
  ∧ (∀ (s : State) (aon main : Bool),
    (s.chip.pwr.asleep = true → main = true → aon = false → exec (.brownOut aon main) s = .next s)
    ∧ (s.chip.pwr.asleep = false → s.chip.pwr.coldLow = false →
      ∃ t, exec (.brownOut aon main) s = .next t ∧ t.pending = s.pending ∧ t.chip.fatalErr = true ∧ t.chip.halted = true
        ∧ t.chip.get Reg.TIME_STATUS.VALID = 0 ∧ t.chip.pwr = { s.chip.pwr with brown := true, aonOk := s.chip.pwr.aonOk && !aon }
        ∧ OnlyFields { s.chip with fatalErr := true, pwr := t.chip.pwr, clk := t.chip.clk } t.chip [Reg.TIME_STATUS.VALID]))

/-- Register accesses (R13, R15, R16, R29, R344, R345): an 8-byte write of a register of plain fields stores each field, with an agent ID's low two bits as 0, and is answered
and recorded; one that meets nothing to take effect on is answered, recorded as refused, and changes nothing else; an access of 1, 2 or 4 bytes is a bus error for a write,
with its record, and poison for a read; a read of RC fields returns them and clears them; AMAP_LOCK locks the map and takes its digest if the enabled sets meet the conditions of
R29 and sets BAD otherwise. -/
def Obligations.RegistersAnswer : Prop :=
  (∀ (s : State) (w : Who) (v : Word), s.chip.writeRuns w (Reg.AUD_IRQ.EN).off = true →
    ∃ t, exec (.csrWrite w (BitVec.ofNat 32 Reg.AUD_IRQ.EN.off) v) s = .next t ∧ t.pending = s.pending
      ∧ t.chip.get Reg.AUD_IRQ.AGENT = 4 * bits v.toNat 2 14 ∧ t.chip.get Reg.AUD_IRQ.VEC = bits v.toNat 16 6
      ∧ t.chip.get Reg.AUD_IRQ.EN = bits v.toNat 22 1
      ∧ WroteOnly s.chip.asked t.chip w Reg.AUD_IRQ.EN.off [Reg.AUD_IRQ.AGENT, Reg.AUD_IRQ.VEC, Reg.AUD_IRQ.EN, Reg.AUD_IRQ.THRESH])
  ∧ (∀ (s : State) (w : Who) (off : BitVec 32) (v : Word), s.chip.quiet = true → (s.chip.rgnCheck 26 (s.chip.csrAddr off.toNat) w rightW).ok = true →
      s.chip.aud.ring.length < audHold → s.chip.aud.held = [] → s.chip.csrParked off.toNat = false → s.chip.csrHeld off.toNat = false → s.chip.hwHolds off.toNat = false →
    (off.toNat % 8 = 0 → s.chip.csrBlocked w off.toNat = true → svPage off.toNat = none →
      off.toNat ≠ 0xC9C00020 →
      ∀ p ∈ [(Instr.csrWrite w off v, s.chip.asked), (.counterWrite w off v, s.chip)],
      ∃ t r, exec p.1 s = .next t ∧ t.pending = s.pending ∧ WroteOnly (p.2.atWrite off.toNat) t.chip w off.toNat []
        ∧ t.chip.aud.ring = s.chip.aud.ring ++ [r] ∧ bits r.data 0 64 = s.chip.time ∧ bits r.data 64 64 = v.toNat)
    ∧ (∀ size : Nat, off.toNat ≠ 0xC9C00020 →
      ∃ t, exec (.csrSubwordAccess w off size true v) s = .next t ∧ t.pending = s.pending
        ∧ t.chip.replies = s.chip.replies ++ [⟨w.agent, s.chip.csrAddr off.toNat, 0, true, true⟩]
        ∧ t.chip = { s.chip.asked.atWrite off.toNat with
            regs := t.chip.regs, aud := t.chip.aud, nrg := t.chip.nrg, irqs := t.chip.irqs, replies := t.chip.replies }
        ∧ Untouched s.chip t.chip auditFields ∧ (∃ r, t.chip.aud = { s.chip.aud with ring := s.chip.aud.ring ++ [r] })))
  ∧ (∀ (s : State) (w : Who) (off : BitVec 32) (v : Word) (size : Nat), s.chip.readRuns w off.toNat = true →
    ∃ t, exec (.csrSubwordAccess w off size false v) s = .next t ∧ t.pending = s.pending
      ∧ t.chip.replies = s.chip.replies ++ [⟨w.agent, s.chip.csrAddr off.toNat, 0, true, false⟩]
      ∧ t.chip = { s.chip.asked with nrg := t.chip.nrg, replies := t.chip.replies })
  ∧ (∀ (s : State) (w : Who), s.chip.readRuns w Reg.AUD_STALL_CNT.STALLS.off = true →
    ∃ t, exec (.rcRead w (BitVec.ofNat 32 Reg.AUD_STALL_CNT.STALLS.off)) s = .next t ∧ t.pending = s.pending
      ∧ t.chip.replies = s.chip.replies ++ [⟨w.agent, s.chip.csrAddr Reg.AUD_STALL_CNT.STALLS.off,
          s.chip.get Reg.AUD_STALL_CNT.STALLS + s.chip.get Reg.AUD_STALL_CNT.HW_WAITS * 2 ^ 32, false, false⟩]
      ∧ t.chip.get Reg.AUD_STALL_CNT.STALLS = 0 ∧ t.chip.get Reg.AUD_STALL_CNT.HW_WAITS = 0
      ∧ OnlyFields { s.chip with nrg := t.chip.nrg, replies := t.chip.replies } t.chip [Reg.AUD_STALL_CNT.STALLS, Reg.AUD_STALL_CNT.HW_WAITS])
  ∧ (∀ (s : State) (w : Who) (off : BitVec 32) (v : Word) (r : Found), s.chip.writeRuns w off.toNat = true → off.toNat % 8 = 0 →
      off.toNat ≠ 0xC9C00020 → off.toNat ≠ Reg.TIME_LOAD.VALUE.off → findReg Reg.blocks off.toNat = some r →
      (∀ c : Chip, c.csrAction w off.toNat v.toNat = c.storeAt off.toNat v.toNat) →
    ∃ t a, exec (.csrWrite w off v) s = .next t ∧ t.pending = s.pending
      ∧ (∀ f ∈ r.flds, ∀ x : Nat, bits v.toNat (f.addr - 8 * off.toNat) f.width = x →
          (f.acc = .rw → t.chip.get f = if f.legal.ok x then f.legal.cut x else s.chip.get f)
          ∧ (f.acc = .rwl → t.chip.get f = if !s.chip.lockedBy r.lock && f.legal.ok x then f.legal.cut x else s.chip.get f)
          ∧ (f.acc = .rw1c → t.chip.get f = s.chip.get f - (s.chip.get f &&& x))
          ∧ (f.acc = .rws → f.legal.ok x = true → t.chip.regs.getShadow f = f.legal.cut x))
      ∧ Untouched s.chip t.chip (r.flds ++ auditFields)
      ∧ t.chip.replies = s.chip.replies ++ [⟨w.agent, s.chip.csrAddr off.toNat, 0, false, false⟩]
      ∧ t.chip.aud = { s.chip.aud with ring := s.chip.aud.ring ++ [a] } ∧ bits a.data 64 64 = v.toNat
      ∧ t.chip = { s.chip.asked with regs := t.chip.regs, aud := t.chip.aud, nrg := t.chip.nrg, irqs := t.chip.irqs, replies := t.chip.replies })
  ∧ (∀ (s : State) (w : Who) (off : BitVec 32) (r : Found), s.chip.readRuns w off.toNat = true → off.toNat % 8 = 0 →
      off.toNat ≠ Reg.TIME_NOW.VALUE.off → findReg Reg.blocks off.toNat = some r → s.chip.csrAbsent off.toNat = false → csrNoInstance off.toNat = false →
      (∀ tn, svPage off.toNat = some tn → s.chip.svAdmits w tn = true) →
    ∃ t, exec (.rcRead w off) s = .next t ∧ t.pending = s.pending
      ∧ t.chip.replies = s.chip.replies ++ [⟨w.agent, s.chip.csrAddr off.toNat, s.chip.csrValue w off.toNat, false, false⟩]
      ∧ (∀ f ∈ r.flds, f.acc = .rc → t.chip.get f = 0) ∧ t.chip.regs.shadow = s.chip.regs.shadow
      ∧ t.chip = { s.chip with
          regs := t.chip.regs, nrg := t.chip.nrg, replies := t.chip.replies, aud := { s.chip.aud with latch := t.chip.aud.latch } })
  ∧ (∀ (s : State) (w : Who) (clear : Bool), s.chip.writeRuns w Reg.HUB_AMAP_LOCK.LOCK.off = true → s.chip.on Reg.HUB_AMAP_LOCK.LOCK = true →
    ∃ t, exec (.amapLock w clear) s = .next t ∧ t.pending = s.pending
      ∧ t.chip.get Reg.HUB_AMAP_LOCK.BAD = (if clear then 0 else s.chip.get Reg.HUB_AMAP_LOCK.BAD)
      ∧ WroteOnly s.chip t.chip w Reg.HUB_AMAP_LOCK.LOCK.off [Reg.HUB_AMAP_LOCK.BAD])
  ∧ (∀ (s : State) (w : Who) (clear : Bool), s.chip.writeRuns w Reg.HUB_AMAP_LOCK.LOCK.off = true → s.chip.on Reg.HUB_AMAP_LOCK.LOCK = false →
    (s.chip.amapOk = true →
      ∃ t, exec (.amapLock w clear) s = .next t ∧ t.pending = s.pending ∧ t.chip.get Reg.HUB_AMAP_LOCK.LOCK = 1
        ∧ t.chip.get Reg.HUB_AMAP_LOCK.DIGEST = (Config.amapDigest s.chip.amapWords).toNat
        ∧ t.chip.get Reg.HUB_AMAP_LOCK.BAD = (if clear then 0 else s.chip.get Reg.HUB_AMAP_LOCK.BAD)
        ∧ WroteOnly s.chip t.chip w Reg.HUB_AMAP_LOCK.LOCK.off [Reg.HUB_AMAP_LOCK.LOCK, Reg.HUB_AMAP_LOCK.BAD, Reg.HUB_AMAP_LOCK.DIGEST])
    ∧ (s.chip.amapOk = false →
      ∃ t, exec (.amapLock w clear) s = .next t ∧ t.pending = s.pending ∧ t.chip.get Reg.HUB_AMAP_LOCK.BAD = 1
        ∧ WroteOnly s.chip t.chip w Reg.HUB_AMAP_LOCK.LOCK.off [Reg.HUB_AMAP_LOCK.BAD]))

/-- Monitoring (R420, R421, R426 to R430): a read of a counter returns its VALUE and copies OVF to LOVF; a write stores it; a sample whose operation is over closes, and its
64-byte record goes to entry PROD of its core's ring, or is lost when the ring is full; a latch edge takes the registers and TIME and counts SEQ, or counts MISSED while a
snapshot is being written; a snapshot with its header, the listed counters in order, goes to its place in the ring and PROD advances, or FULL is counted. -/
def Obligations.CountersAndSamplesRecord : Prop :=
  (∀ (s : State) (w : Who) (d k i : Nat) (v : Word), d < 12 → k < 20 → i < 8 → s.chip.corePresent d k = true → s.chip.diePresent d = true →
    (s.chip.readRuns w (Reg.PMU_CNT.VALUE d k i).off = true →
      ∃ t, exec (.counterRead w (BitVec.ofNat 32 (Reg.PMU_CNT.VALUE d k i).off)) s = .next t ∧ t.pending = s.pending
        ∧ t.chip.replies = s.chip.replies ++ [⟨w.agent, s.chip.csrAddr (Reg.PMU_CNT.VALUE d k i).off, s.chip.get (Reg.PMU_CNT.VALUE d k i), false, false⟩]
        ∧ t.chip.get (Reg.PMU_CNT.LOVF d k i) = s.chip.get (Reg.PMU_CNT.OVF d k i)
        ∧ OnlyFields { s.chip with nrg := t.chip.nrg, replies := t.chip.replies } t.chip [Reg.PMU_CNT.LOVF d k i])
    ∧ (s.chip.writeRuns w (Reg.PMU_CNT.VALUE d k i).off = true →
      ∃ t, exec (.counterWrite w (BitVec.ofNat 32 (Reg.PMU_CNT.VALUE d k i).off) v) s = .next t ∧ t.pending = s.pending
        ∧ t.chip.get (Reg.PMU_CNT.VALUE d k i) = v.toNat
        ∧ WroteOnly s.chip t.chip w (Reg.PMU_CNT.VALUE d k i).off [Reg.PMU_CNT.VALUE d k i]))
  ∧ (∀ (s : State) (x : Fin 960) (m : Sample) (n prod used : Nat), s.chip.halted = false → (s.chip.ctxOf x.val).sample = some m →
      2 ^ s.chip.get (Reg.PMU_SMP_BUF.LOG2 (x.val / 80) (x.val % 80 / 4)) = n → s.chip.get (Reg.PMU_SMP_PTR.PROD (x.val / 80) (x.val % 80 / 4)) = prod →
      (prod + 2 ^ 32 - s.chip.get (Reg.PMU_SMP_PTR.CONS (x.val / 80) (x.val % 80 / 4))) % 2 ^ 32 = used →
    ((s.chip.ctxOf x.val).sampleOver m = false → exec (.sampleClose x) s = .next { s with chip := s.chip.asked })
    ∧ ((s.chip.ctxOf x.val).sampleOver m = true → n ≤ used →
      ∃ t, exec (.sampleClose x) s = .next t ∧ t.pending = s.pending ∧ (t.chip.ctxOf x.val).sample = none
        ∧ t.chip.get (Reg.PMU_SMP_CNT.LOST (x.val / 80) (x.val % 80 / 4))
            = satAdd 32 (s.chip.get (Reg.PMU_SMP_CNT.LOST (x.val / 80) (x.val % 80 / 4))) 1
        ∧ OnlyFields { s.chip.asked with ctx := t.chip.ctx } t.chip [Reg.PMU_SMP_CNT.LOST (x.val / 80) (x.val % 80 / 4)])
    ∧ (∀ d : Line, (s.chip.ctxOf x.val).sampleOver m = true → used < n →
        s.chip.hubHolds (s.chip.get (Reg.PMU_SMP_BUF.BASE (x.val / 80) (x.val % 80 / 4)) * 64 + prod % n) ⟨s.chip.cxAgent x.val, 0, false, 3, 0⟩ ⟨d, false⟩
          = true →
      ∃ t k l, exec (.sampleClose x) s = .next t ∧ t.pending = s.pending ∧ (t.chip.ctxOf x.val).sample = none
        ∧ t.chip.get (Reg.PMU_SMP_PTR.PROD (x.val / 80) (x.val % 80 / 4)) = (prod + 1) % 2 ^ 32
        ∧ t.chip.hcFind (s.chip.get (Reg.PMU_SMP_BUF.BASE (x.val / 80) (x.val % 80 / 4)) * 64 + prod % n) = some (k, l)
        ∧ l.ld = ⟨BitVec.ofNat 512 (m.record (s.chip.coreOf (x.val / 4)).cycles), false⟩
        ∧ SameMemory s.chip t.chip ∧ ∀ y, y ≠ x.val → t.chip.ctxOf y = s.chip.ctxOf y))
  ∧ (∀ s : State, s.chip.halted = false → s.chip.on Reg.PMU_CC_CTRL.EN = true → s.chip.on Reg.PMU_CC_STATUS.ERR = false → s.chip.cc.mark < s.chip.ccMark →
    (s.chip.cc.snap = none →
      ∃ t r, exec .latchEdge s = .next t ∧ t.pending = s.pending
        ∧ t.chip.cc = ⟨s.chip.ccMark, some (s.chip.time, (s.chip.get Reg.PMU_CC_STATUS.SEQ + 1) % 2 ^ 32, r),
            s.chip.cc.skip || decide (s.chip.cc.mark + 1 < s.chip.ccMark)⟩
        ∧ (∀ f : Fld, f.addr ≠ Reg.PMU_CC_STATUS.SEQ.addr → r.get f = s.chip.get f)
        ∧ t.chip.get Reg.PMU_CC_STATUS.SEQ = (s.chip.get Reg.PMU_CC_STATUS.SEQ + 1) % 2 ^ 32 ∧ t.chip.get Reg.PMU_CC_STATUS.BUSY = 1
        ∧ OnlyFields { s.chip with cc := t.chip.cc } t.chip [Reg.PMU_CC_STATUS.SEQ, Reg.PMU_CC_STATUS.BUSY])
    ∧ (s.chip.cc.snap.isSome = true →
      ∃ t, exec .latchEdge s = .next t ∧ t.pending = s.pending ∧ t.chip.cc = ⟨s.chip.ccMark, s.chip.cc.snap, true⟩
        ∧ t.chip.get Reg.PMU_CC_CNT.MISSED = satAdd 32 (s.chip.get Reg.PMU_CC_CNT.MISSED) 1
        ∧ OnlyFields { s.chip with cc := t.chip.cc } t.chip [Reg.PMU_CC_STATUS.SEQ, Reg.PMU_CC_CNT.MISSED]))
  ∧ (∀ (s : State) (time seq base n : Nat) (r : RegFile) (v : Nat) (c1 : Chip), s.chip.halted = false → s.chip.cc.snap = some (time, seq, r) →
      s.chip.get Reg.PMU_CC_RING.BASE * 65536 = base → s.chip.get Reg.PMU_CC_CTRL.COUNT = n →
      s.chip.asking.hubReadB base 16 s.chip.ccWho = (.ok, false, v, c1) →
    (c1.coh.wants = some none → (bits v 64 64 + 2 ^ 64 - bits v 0 64) % 2 ^ 64 = 2 ^ s.chip.get Reg.PMU_CC_RING.LOG2 →
      ∃ t, exec .snapshotWrite s = .next t ∧ t.pending = s.pending ∧ t.chip.cc.snap = none ∧ t.chip.get Reg.PMU_CC_STATUS.BUSY = 0
        ∧ t.chip.get Reg.PMU_CC_CNT.FULL = satAdd 32 (c1.get Reg.PMU_CC_CNT.FULL) 1
        ∧ OnlyFields { c1.asked with cc := t.chip.cc, irqs := t.chip.irqs } t.chip [Reg.PMU_CC_STATUS.BUSY, Reg.PMU_CC_CNT.FULL])
    ∧ (∀ (l : Nat) (c2 : Chip), (bits v 64 64 + 2 ^ 64 - bits v 0 64) % 2 ^ 64 ≠ 2 ^ s.chip.get Reg.PMU_CC_RING.LOG2 →
        c1.hubReadB (s.chip.get Reg.PMU_CC_LIST.BASE * 4096) (8 * n) s.chip.ccWho = (.ok, false, l, c2) → c2.get Reg.PMU_CC_RING.BASE * 65536 = base →
        c2.get Reg.PMU_CC_RING.LOG2 = s.chip.get Reg.PMU_CC_RING.LOG2 → time < 2 ^ 64 →
      ∃ body, bits body 0 64 = time ∧ bits body 64 64 = seq % 2 ^ 64 ∧ bits body 128 16 = n % 2 ^ 16
        ∧ (∀ i < n, ∀ f o g, counterAt (bits l (64 * i) 32) = some (f, o, g) → c2.csrAbsent (bits l (64 * i) 32) = false →
            bits body (8 * (64 + 16 * i)) 64 = r.get f ∧ bits body (8 * (72 + 16 * i)) 1 = r.get o % 2)
        ∧ (∀ c3 c4 : Chip, c2.hubWrite (base + 64 + 64 * ((64 + 16 * n + 63) / 64) * (bits v 64 64 % 2 ^ s.chip.get Reg.PMU_CC_RING.LOG2))
              (64 + 16 * n) body s.chip.ccWho .awaited = (.ok, c3) →
            c3.hubWrite (base + 8) 8 ((bits v 64 64 + 1) % 2 ^ 64) s.chip.ccWho .awaited = (.ok, c4) → c4.coh.wants = some none →
          ∃ t, exec .snapshotWrite s = .next t ∧ t.pending = s.pending ∧ t.chip.cc.snap = none ∧ t.chip.cc.skip = false
            ∧ t.chip.get Reg.PMU_CC_STATUS.BUSY = 0
            ∧ OnlyFields { c4.asked with cc := t.chip.cc, irqs := t.chip.irqs } t.chip [Reg.PMU_CC_STATUS.BUSY])))

/-- Energy (R431 to R434): the shares of a domain add up to the whole picojoules it drew; an epoch's end closes every domain with its fraction carried on and lets its credits wait 1,600
ticks; they then appear in every counter together, the package's among them, and EPOCHS counts; a failed phase check marks its domain and sets DEGRADED. -/
def Obligations.EnergyIsCredited : Prop :=
  (∀ (c : Chip) (j e : Nat) (use : SMap Nat), (use.map (·.1)).Nodup → sumSnd (c.nrgShares j e use) = e)
  ∧ (∀ (s : State) (es : List (Nat × Nat)), s.chip.halted = false →
    (s.chip.time / 4000 ≤ s.chip.nrg.mark → exec (.epochEnd es) s = .next s)
    ∧ (s.chip.nrg.mark < s.chip.time / 4000 → s.chip.nrg.degr = [] →
      ∃ t k, exec (.epochEnd es) s = .next t ∧ t.pending = s.pending ∧ t.chip.nrg.due = s.chip.nrg.due ++ [k] ∧ k.ticks = 1600
        ∧ k.doms.map (·.1) = List.range 317
        ∧ (∀ p ∈ k.doms, p.2 = (((es.find? (fun e => e.1 == p.1)).map (·.2)).getD 0 + SMap.getD s.chip.nrg.carry p.1 0) / 65536)
        ∧ t.chip.nrg.use = [] ∧ t.chip.nrg.mark = s.chip.time / 4000 ∧ t.chip = { s.chip with nrg := t.chip.nrg }))
  ∧ (∀ (s : State) (k : Credit) (l : List Credit), s.chip.halted = false → s.chip.nrg.due = k :: l →
    (k.ticks ≠ 0 → exec .epochCredit s = .next s)
    ∧ (k.ticks = 0 → (∀ p ∈ k.doms, p.1 < 317) → (∀ p ∈ k.shares, p.1 / 1024 < 4096 ∧ p.1 % 1024 ≤ 960) →
      ∃ t, exec .epochCredit s = .next t ∧ t.pending = s.pending ∧ t.chip.nrg = { s.chip.nrg with due := l }
        ∧ t.chip.get Reg.NRG_PKG.VALUE = (s.chip.get Reg.NRG_PKG.VALUE + sumSnd k.doms) % 2 ^ 64
        ∧ (∀ tn < 4096, t.chip.get (Reg.NRG_TNT.VALUE tn)
            = (s.chip.get (Reg.NRG_TNT.VALUE tn) + sumSnd (k.shares.filter (fun p => p.1 / 1024 == tn))) % 2 ^ 64)
        ∧ t.chip.get Reg.NRG_EPOCH.EPOCHS = (s.chip.get Reg.NRG_EPOCH.EPOCHS + 1) % 2 ^ 64
        ∧ t.chip = { s.chip with regs := t.chip.regs, nrg := t.chip.nrg }))
  ∧ (∀ (s : State) (j : Fin 317), s.chip.halted = false →
    ∃ t, exec (.phaseSelfCheckFail j) s = .next t ∧ t.pending = s.pending ∧ t.chip.nrgFailed j.val = true ∧ t.chip.get Reg.NRG_STATUS.DEGRADED = 1
      ∧ (∀ i < 317, i ≠ j.val → t.chip.nrgFailed i = s.chip.nrgFailed i)
      ∧ OnlyFields { s.chip with irqs := t.chip.irqs } t.chip
          [Reg.NRG_STATUS.DEGRADED, if j.val < 312 then Reg.NRG_DIE_STATUS.FAIL (j.val / 26) else Reg.NRG_STATUS.HFAIL])

/-- Interrupts and turns of contexts (R71, R72, R129, R131, R134): an interrupt message sets its vector in its context, and does no more where the vector is not enabled; one that is
deliverable makes an IDLE context of an awake core READY, and so does the timer; a quantum that ends while another context of the core is READY asks for a switch; after its six switch
cycles the chosen context may issue. -/
def Obligations.ContextsTakeInterruptsAndTurns : Prop :=
  (∀ (s : State) (i : Irq) (l : List Irq) (x : Fin 960), s.chip.halted = false → s.chip.irqs = i :: l → s.chip.portIrq i = false →
      s.chip.ownCtx i.agent = true → ctxOfAgent i.agent = x.val → s.chip.cxPresent x.val = true → i.vec < 64 →
    (s.chip.irqBest x.val = none → bit (s.chip.csr x.val csIrqEn) i.vec = false →
      ∃ t, exec .interruptMessage s = .next t ∧ t.pending = s.pending
        ∧ t.chip.ctxOf x.val = { s.chip.ctxOf x.val with irqs := (s.chip.ctxOf x.val).irqs ||| 2 ^ i.vec }
        ∧ (∀ y, y ≠ x.val → t.chip.ctxOf y = s.chip.ctxOf y) ∧ t.chip = { s.chip with irqs := l, ctx := t.chip.ctx })
    ∧ (s.chip.cxState x.val = cxIdle → s.chip.cstate (x.val / 4) ≤ 1 → bit (s.chip.csr x.val csIrqEn) i.vec = true →
        bit (s.chip.csr x.val csIrqWorld) i.vec = s.chip.cxSecure x.val → s.chip.irqLevel x.val i.vec = 2 → s.chip.cxPriv x.val < 2 →
      ∃ t, exec .interruptMessage s = .next t ∧ t.pending = s.pending ∧ t.chip.irqs = l
        ∧ (t.chip.ctxOf x.val).irqs = (s.chip.ctxOf x.val).irqs ||| 2 ^ i.vec
        ∧ (t.chip.cxState x.val = cxReady ∨ t.chip.cxState x.val = cxRunning) ∧ t.chip.cstate (x.val / 4) = 0
        ∧ (∀ y, SameRegs (s.chip.ctxOf y) (t.chip.ctxOf y)) ∧ SameMemory s.chip t.chip))
  ∧ (∀ (s : State) (x : Fin 960), s.chip.halted = false →
    (s.chip.irqBest x.val = none → exec (.timerCompare x) s = .next s)
    ∧ (s.chip.cxState x.val = cxIdle → s.chip.cstate (x.val / 4) ≤ 1 → (s.chip.ctxOf x.val).csGet csTimerCmp false ≠ 0 →
        (s.chip.ctxOf x.val).csGet csTimerCmp false ≤ s.chip.time → bit (s.chip.csr x.val csIrqEn) 63 = true →
        bit (s.chip.csr x.val csIrqWorld) 63 = s.chip.cxSecure x.val → s.chip.irqLevel x.val 63 = 2 → s.chip.cxPriv x.val < 2 →
      ∃ t, exec (.timerCompare x) s = .next t ∧ t.pending = s.pending
        ∧ (t.chip.cxState x.val = cxReady ∨ t.chip.cxState x.val = cxRunning) ∧ t.chip.cstate (x.val / 4) = 0
        ∧ bit (t.chip.irqPend x.val) 63 = true ∧ (∀ y, SameRegs (s.chip.ctxOf y) (t.chip.ctxOf y)) ∧ SameMemory s.chip t.chip))
  ∧ (∀ (s : State) (k : Fin 240) (x : Nat), s.chip.halted = false → s.chip.coreRunning k.val = some x →
    ((s.chip.coreOf k.val).quantum ≠ 0 → s.chip.peerReady x = true →
      ∃ t, exec (.quantumExpiry k) s = .next t ∧ t.pending = s.pending ∧ t.chip.coreOf k.val = { s.chip.coreOf k.val with preempt := true }
        ∧ (∀ j, j ≠ k.val → t.chip.coreOf j = s.chip.coreOf j) ∧ t.chip = { s.chip with core := t.chip.core })
    ∧ ((s.chip.coreOf k.val).quantum = 0 ∨ s.chip.peerReady x = false → exec (.quantumExpiry k) s = .next s)
    ∧ ((s.chip.coreOf k.val).switching = true → (s.chip.spkOf (k.val / 20)).silent = false →
      ∃ t, exec (.switchCyclesEnd k) s = .next t ∧ t.pending = s.pending ∧ t.chip.ctxOf x = { s.chip.ctxOf x with switched := true }
        ∧ (∀ y, y ≠ x → t.chip.ctxOf y = s.chip.ctxOf y)
        ∧ t.chip.coreOf k.val = { s.chip.coreOf k.val with switching := false, cycles := (s.chip.coreOf k.val).cycles + 6 }
        ∧ CountedOnly { s.chip with ctx := t.chip.ctx, core := t.chip.core } t.chip [])
    ∧ ((s.chip.coreOf k.val).switching = false → exec (.switchCyclesEnd k) s = .next s))

/-- A core's cycle (R57, R58, R60, R61, R66, R68, R82, R85, R98, R139): a result whose write point has come is written and the next bundle issues; an operation of a plain class makes its result
pending at its write point, and the bundle address and index move on; a store puts its bytes into the store queue; an illegal bundle asks for its trap and leaves every register;
a unit's oldest job makes its result ready; a core that is absent or in C3 does nothing. -/
def Obligations.BundlesIssue : Prop :=
  (∀ (s : State) (x : Fin 960) (k : Fin 240) (sub : Fin 24) (p : Pend), s.chip.issues x.val 0 = true → k.val = x.val / 4 →
      (s.chip.ctxOf x.val).csGet csRepCount false = 0 → (s.chip.ctxOf x.val).pend = [p] → p.wp ≤ (s.chip.ctxOf x.val).idx → p.ready = true → p.poison = false → p.code < 0x40 → p.flags = 0 →
    ∃ t, exec (.bundleIssue k (sub, none)) s = .next t ∧ t.pending = s.pending
      ∧ t.chip.ctxOf x.val = { (s.chip.ctxOf x.val).gw p.code p.val with
          pend := []
          applied := 0
          pc := ((s.chip.ctxOf x.val).pc + 32) % m64
          idx := (s.chip.ctxOf x.val).idx + 1
          fetch := none
          sample := (t.chip.ctxOf x.val).sample }
      ∧ (∀ y, y ≠ x.val → t.chip.ctxOf y = s.chip.ctxOf y)
      ∧ CountedOnly { s.chip with ctx := t.chip.ctx, core := t.chip.core, free := t.chip.free } t.chip
          [Reg.CORE_CTX_STATUS.PEND (x.val / 80) (x.val % 80 / 4) (x.val % 4), Reg.CORE_CTX_STATUS.MISS (x.val / 80) (x.val % 80 / 4) (x.val % 4)])
  ∧ (∀ (s : State) (x : Fin 960) (k : Fin 240) (sub : Fin 24) (b n : Nat) (o : Opn), s.chip.issues x.val b = true → k.val = x.val / 4 →
      (s.chip.ctxOf x.val).csGet csRepCount false = 0 → (s.chip.ctxOf x.val).pend = [] → (∀ i < 6, i ≠ n → (opnAt b i).syl = 0) → n < 6 → opnAt b n = o → o.activeOn ((s.chip.ctxOf x.val).pr o.pred) = true →
    (bundleLegal b (s.chip.sprkEnt (x.val / 4) (s.chip.cxSecure x.val)) = true →
      (∀ (d : Dst) (v fl : Nat), o.maj ∈ [0x01, 0x02, 0x03, 0x04, 0x05, 0x06, 0x07, 0x08, 0x09, 0x0A, 0x0B, 0x0D, 0x0E, 0x0F, 0x10, 0x11, 0x37, 0x38, 0x39, 0x3B, 0x3C, 0x3D, 0x3E] →
          o.eval (s.chip.ctxOf x.val).view = some (d, v, fl) → d.code ≠ 0 → d.code ≠ 0x60 →
        ∃ t p, exec (.bundleIssue k (sub, none)) s = .next t ∧ t.pending = s.pending
          ∧ p.code = d.code ∧ p.val = v ∧ p.flags = fl ∧ p.ready = true ∧ p.poison = false ∧ p.slot = o.slot
          ∧ p.wp = (s.chip.ctxOf x.val).idx + o.dist (s.chip.get Reg.HUB_PKG_ID.STEPPING) 0
          ∧ t.chip.ctxOf x.val = { s.chip.ctxOf x.val with
              pend := [p]
              applied := 0
              seq := (s.chip.ctxOf x.val).seq + 1
              pc := ((s.chip.ctxOf x.val).pc + 32) % m64
              idx := (s.chip.ctxOf x.val).idx + 1
              fetch := none
              sample := (t.chip.ctxOf x.val).sample }
          ∧ (∀ y, y ≠ x.val → t.chip.ctxOf y = s.chip.ctxOf y) ∧ SameMemory s.chip t.chip ∧ t.chip.coh = s.chip.coh)
      ∧ (∀ pa yrw : Nat, o.isStore = true → o.ea (s.chip.ctxOf x.val).view % o.size = 0 →
          s.chip.translate x.val (o.ea (s.chip.ctxOf x.val).view) .store (s.chip.cxSecure x.val) = .ok pa yrw → isNormal pa = true →
          s.chip.lmqUsed (x.val / 4) < 32 → (s.chip.ctxOf x.val).sqCount < 16 →
        ∃ t e, exec (.bundleIssue k (sub, none)) s = .next t ∧ t.pending = s.pending
          ∧ e.pa = pa ∧ e.size = o.size ∧ e.data = o.storeVal (s.chip.ctxOf x.val).view ∧ e.amo = 0 ∧ e.kind = .store ∧ e.tenant = s.chip.cxTenant x.val
          ∧ e.secure = s.chip.cxSecure x.val ∧ e.yrw = yrw
          ∧ t.chip.ctxOf x.val = { s.chip.ctxOf x.val with
              sq := (s.chip.ctxOf x.val).sq ++ [e]
              applied := 0
              seq := (s.chip.ctxOf x.val).seq + 1
              pc := ((s.chip.ctxOf x.val).pc + 32) % m64
              idx := (s.chip.ctxOf x.val).idx + 1
              fetch := none
              sample := (t.chip.ctxOf x.val).sample }
          ∧ (∀ y, y ≠ x.val → t.chip.ctxOf y = s.chip.ctxOf y) ∧ SameMemory s.chip t.chip ∧ t.chip.coh = s.chip.coh))
    ∧ (bundleLegal b (s.chip.sprkEnt (x.val / 4) (s.chip.cxSecure x.val)) = false →
      ∃ t, exec (.bundleIssue k (sub, none)) s = .next t ∧ t.pending = s.pending ∧ (t.chip.ctxOf x.val).trap = some ⟨trIllegal, 0, 0, 0⟩
        ∧ SameRegs (s.chip.ctxOf x.val) (t.chip.ctxOf x.val) ∧ (t.chip.ctxOf x.val).pend = [] ∧ SameMemory s.chip t.chip))
  ∧ (∀ (s : State) (k : Fin 240) (u : UnitJob) (unit : Fin 3), s.chip.halted = false →
      (s.chip.coreOf k.val).units.find? (fun v => v.unit == unit.val) = some u →
    ∃ t, exec (.executionUnitResult k unit) s = .next t ∧ t.pending = s.pending
      ∧ t.chip.ctxOf u.ctx = { s.chip.ctxOf u.ctx with
          pend := (s.chip.ctxOf u.ctx).pend.map (fun p => if p.job = u.job then { p with ready := true } else p) }
      ∧ (∀ y, y ≠ u.ctx → t.chip.ctxOf y = s.chip.ctxOf y)
      ∧ (t.chip.coreOf k.val).units = (s.chip.coreOf k.val).units.filter (fun v => v.job != u.job)
      ∧ OnlyFields { s.chip with ctx := t.chip.ctx, core := t.chip.core } t.chip
          [Reg.CORE_CTX_STATUS.PEND (u.ctx / 80) (u.ctx % 80 / 4) (u.ctx % 4), Reg.CORE_CTX_STATUS.MISS (u.ctx / 80) (u.ctx % 80 / 4) (u.ctx % 4)])
  ∧ (∀ (s : State) (k : Fin 240) (sub : Fin 24), s.chip.corePresent (k.val / 20) (k.val % 20) = false ∨ 2 ≤ s.chip.cstate k.val →
    exec (.bundleIssue k (sub, none)) s = .next s)
  ∧ (∀ (s : State) (k : Fin 240) (sub : Fin 24) (what : Fin 11) (line : BitVec 46), s.chip.halted = false →
    exec (.bundleIssue k (sub, some (what, line))) s
        = exec (.bundleIssue k (sub, none)) { s with chip := s.chip.strike k.val what.val line.toNat }
    ∧ (∀ (w : Nat) (l : CLine), what.val = 1 → s.chip.l1dFind k.val line.toNat = some (w, l) →
        ∃ c, c = (s.chip.strike k.val 1 line.toNat).l1Check false k.val line.toNat ∧ c.coh.l1d = SMap.erase (SMap.set s.chip.coh.l1d w { l with flaw := 1 }) w
          ∧ c.get (Reg.CL_ERR_CNT0.L1 (k.val / 20) (k.val % 20 / 4))
              = satAdd (Reg.CL_ERR_CNT0.L1 (k.val / 20) (k.val % 20 / 4)).width (s.chip.get (Reg.CL_ERR_CNT0.L1 (k.val / 20) (k.val % 20 / 4))) 1))

/-- Memory as a context meets it (R33, R69, R95, R98, R120, R126 to R128): a load whose line has come makes its result ready with the value its line holds; a fetch whose line has come gives the
context the bundle at its pc; a walk whose entries have come caches the leaf, or keeps its fault where an entry is not valid; a store whose line its L2 owns changes those bytes of
the line, leaves the queue and changes no other line of the L2; an atomic delivers the old value as well. -/
def Obligations.MemoryReachesContexts : Prop :=
  (∀ (s : State) (op : Nat) (o : LineOp) (l : LoadJob) (ld : LD), s.chip.halted = false → s.chip.opOf op = some o → o.stage = .ready → o.res = some ld →
      (s.chip.ctxOf o.ctx).loads.find? (fun j => j.op == op) = some l → (s.chip.ctxOf o.ctx).loads.find? (fun j => j.job == l.job) = some l →
      l.dev = false → (s.chip.ctxOf o.ctx).sq = [] → l.job ≠ 0 →
    ∃ t, exec (.dataReturn op) s = .next t ∧ t.pending = s.pending ∧ t.chip.opOf op = none
      ∧ t.chip.ctxOf o.ctx = { s.chip.ctxOf o.ctx with
          loads := (s.chip.ctxOf o.ctx).loads.filter (fun j => j.job != l.job)
          pend := (s.chip.ctxOf o.ctx).pend.map (fun p => if p.job = l.job then
            { p with val := if ld.poison then 0 else l.value ld.data, ready := true, poison := ld.poison } else p)
          sample := (t.chip.ctxOf o.ctx).sample }
      ∧ (∀ y, y ≠ o.ctx → t.chip.ctxOf y = s.chip.ctxOf y)
      ∧ OnlyFields { s.chip with ctx := t.chip.ctx, coh := { s.chip.coh with ops := t.chip.coh.ops } } t.chip
          [Reg.CORE_CTX_STATUS.PEND (o.ctx / 80) (o.ctx % 80 / 4) (o.ctx % 4), Reg.CORE_CTX_STATUS.MISS (o.ctx / 80) (o.ctx % 80 / 4) (o.ctx % 4)])
  ∧ (∀ (s : State) (op pa yrw : Nat) (o : LineOp) (ld : LD), s.chip.halted = false → s.chip.opOf op = some o → o.kind = .fetch → o.stage = .ready →
      o.res = some ld → (s.chip.ctxOf o.ctx).fetchOp = op →
      s.chip.translate o.ctx (s.chip.ctxOf o.ctx).pc .fetch (s.chip.cxSecure o.ctx) = .ok pa yrw → pa / 64 = o.line →
    ∃ t, exec (.fetchReturn op) s = .next t ∧ t.pending = s.pending ∧ t.chip.opOf op = none
      ∧ (t.chip.ctxOf o.ctx).fetch = some ⟨(s.chip.ctxOf o.ctx).pc, bundleAt ld.data pa, ld.poison, s.chip.cxPriv o.ctx, s.chip.cxSecure o.ctx⟩ ∧ (t.chip.ctxOf o.ctx).fetchOp = 0
      ∧ (s.chip.cxState o.ctx ≠ cxMemwait →
          t.chip = { s.chip with ctx := t.chip.ctx, coh := { s.chip.coh with ops := t.chip.coh.ops } })
      ∧ (∀ y, SameRegs (s.chip.ctxOf y) (t.chip.ctxOf y)) ∧ SameMemory s.chip t.chip)
  ∧ (∀ (s : State) (x : Fin 960) (w : Walk) (a1 a2 e1 e2 : Nat) (L1 L2 : Line), s.chip.halted = false → (s.chip.ctxOf x.val).walk = some w → w.res = 0 →
      (s.chip.ctxOf x.val).sq = [] → (bits ((s.chip.ctxOf x.val).csGet csPtbase w.secure) 12 40 <<< 12) + 8 * bits w.va 39 9 = a1 →
      isNormal a1 = true → w.got.find? (fun p => p.1 == a1 / 64) = some (a1 / 64, ⟨L1, false⟩) → lineGet L1 (a1 % 64) 8 = e1 →
    (bit e1 0 = false ∨ pteBad e1 1 = true →
      ∃ t, exec (.tableWalkDone x) s = .next t ∧ t.pending = s.pending
        ∧ t.chip.ctxOf x.val = { s.chip.ctxOf x.val with walk := some { w with got := [], ops := [], res := 1 } }
        ∧ t.chip = { s.chip with ctx := t.chip.ctx })
    ∧ (bit e1 0 = true → pteBad e1 1 = false → (bits e1 12 40 <<< 12) + 8 * bits w.va 30 9 = a2 → isNormal a2 = true →
        w.got.find? (fun p => p.1 == a2 / 64) = some (a2 / 64, ⟨L2, false⟩) → lineGet L2 (a2 % 64) 8 = e2 → bit e2 0 = true → pteBad e2 2 = false →
        bit e2 5 = true →
      ∃ t, exec (.tableWalkDone x) s = .next t ∧ t.pending = s.pending
        ∧ t.chip.ctxOf x.val = { s.chip.ctxOf x.val with
            walk := none
            tlb := ⟨bits w.va 30 18, 2, e2, w.secure⟩ :: (s.chip.ctxOf x.val).tlb }
        ∧ (∀ y, y ≠ x.val → t.chip.ctxOf y = s.chip.ctxOf y) ∧ t.chip = { s.chip with ctx := t.chip.ctx }))
  ∧ (∀ (s : State) (x : Fin 960) (i : Nat) (e : StoreEnt) (w : Nat) (q : CLine), s.chip.halted = false → (s.chip.ctxOf x.val).sq[i]? = some e →
      isNormal e.pa = true → (s.chip.ctxOf x.val).sqMay e = true → s.chip.opOf e.op = none → s.chip.l2On (x.val / 16) = true →
      s.chip.l2Find (x.val / 16) (e.pa / 64) = some (w, q) → q.st = .m ∨ q.st = .e → q.serves e.tenant e.secure (rightR + rightW) = true →
      (s.chip.ctxOf x.val).loads = [] → (s.chip.ctxOf x.val).stWait = [] → q.ld.poison = false → q.flaw = 0 → s.chip.cxState x.val ≠ cxMemwait →
    ∃ t, exec (.storeQueueDrain x i) s = .next t ∧ t.pending = s.pending
      ∧ t.chip.coh.l2 = SMap.set s.chip.coh.l2 w { q with ld := ⟨(e.apply q.ld.data).1, false⟩, st := .m, age := e.kind.hitAge q.age }
      ∧ (t.chip.ctxOf x.val).sq = (s.chip.ctxOf x.val).sq.filter (fun f => f.seq != e.seq)
      ∧ (e.amo = 0 → (e.apply q.ld.data).1 = linePut q.ld.data (e.pa % 64) e.size e.data ∧ (t.chip.ctxOf x.val).pend = (s.chip.ctxOf x.val).pend)
      ∧ (e.amo ≠ 0 → e.job ≠ 0 → (t.chip.ctxOf x.val).pend = (s.chip.ctxOf x.val).pend.map (fun p => if p.job = e.job then
          { p with val := (e.apply q.ld.data).2, ready := true, poison := false } else p))
      ∧ SameRegs (s.chip.ctxOf x.val) (t.chip.ctxOf x.val) ∧ t.chip.coh.l3 = s.chip.coh.l3 ∧ SameMemory s.chip t.chip)

/-- Serialising operations and traps (R59, R77, R107, R109, R110, R118, R132, R133, R135, R136): a fence ends once what it waits for is done and not before; a string operation of count 0 completes, and a chunk of
FILLS puts its bytes into the store queue and moves its registers on; CALLM whose frame has drained enters its target with g1 lowered; RETM and SGATE with a misaligned
address ask for ALIGN; a trap with nothing pending writes its frame at its level's base, takes that level, sets its BUSY, clears its IE and goes to its vector. -/
def Obligations.SerialOperationsAndTraps : Prop :=
  (∀ (s : State) (x : Fin 960) (n : Nat) (q : Serial), s.chip.halted = false → s.chip.serialRuns x.val (fun k => k == .fence n) = true → n ≤ 2 →
      (s.chip.ctxOf x.val).serial = some q → q.ops = [] → (s.chip.ctxOf x.val).resetWait = 0 → (s.chip.ctxOf x.val).missOps = [] →
      (s.chip.ctxOf x.val).waitSq = false → (s.chip.ctxOf x.val).waitFetch = false →
    ((n = 1 ∨ (s.chip.ctxOf x.val).loadsDone = true) → (n = 0 ∨ (s.chip.ctxOf x.val).storesDone = true) →
      ∃ t, exec (.fenceComplete x) s = .next t ∧ t.pending = s.pending
        ∧ t.chip.ctxOf x.val = { s.chip.ctxOf x.val with
            serial := none
            fetch := none
            fetchOp := if n = 2 then 0 else (s.chip.ctxOf x.val).fetchOp
            idx := (s.chip.ctxOf x.val).idx + 1
            pc := ((s.chip.ctxOf x.val).pc + 32) % m64 }
        ∧ (∀ y, y ≠ x.val → t.chip.ctxOf y = s.chip.ctxOf y)
        ∧ OnlyFields { s.chip with ctx := t.chip.ctx, coh := if n = 2 then (s.chip.opDrop (s.chip.ctxOf x.val).fetchOp).coh else s.chip.coh } t.chip
            [Reg.CORE_CTX_STATUS.PEND (x.val / 80) (x.val % 80 / 4) (x.val % 4), Reg.CORE_CTX_STATUS.MISS (x.val / 80) (x.val % 80 / 4) (x.val % 4)])
    ∧ ((n ≠ 1 ∧ (s.chip.ctxOf x.val).loadsDone = false) ∨ (n ≠ 0 ∧ (s.chip.ctxOf x.val).storesDone = false) → exec (.fenceComplete x) s = .next s))
  ∧ (∀ (s : State) (x : Fin 960) (q : Serial) (o : Opn), s.chip.halted = false → s.chip.serialRuns x.val (fun k => k == .string) = true →
      (s.chip.ctxOf x.val).serial = some q → q.ops = [] → (s.chip.ctxOf x.val).resetWait = 0 → (s.chip.ctxOf x.val).serialOp = o →
    ((s.chip.ctxOf x.val).gr o.rb = 0 →
      ∃ t, exec (.stringChunk x) s = .next t ∧ t.pending = s.pending ∧ (t.chip.ctxOf x.val).serial = none
        ∧ (t.chip.ctxOf x.val).pc = ((s.chip.ctxOf x.val).pc + 32) % m64 ∧ (t.chip.ctxOf x.val).g = (s.chip.ctxOf x.val).g
        ∧ (o.min = 3 → o.pred % 16 ≠ 0 → (t.chip.ctxOf x.val).pr o.pred = m64 - 1) ∧ (o.min = 4 → o.pred % 16 ≠ 0 → (t.chip.ctxOf x.val).pr o.pred = 0)
        ∧ (o.min < 3 → (t.chip.ctxOf x.val).p = (s.chip.ctxOf x.val).p) ∧ SameMemory s.chip t.chip)
    ∧ (∀ (a n k : Nat) (v : VPiece), o.min = 2 → q.begun = false → (s.chip.ctxOf x.val).gr o.rd = a → (s.chip.ctxOf x.val).gr o.rb = n → n ≠ 0 → n < m64 →
        min n (256 - a % 256) = k → s.chip.vRange x.val .store a k = .ok [v] → (s.chip.ctxOf x.val).sqCount < 16 → (s.chip.ctxOf x.val).stWait = [] → o.rd ≠ 0 → o.rb ≠ 0 → o.rd ≠ o.rb →
      ∃ t e, exec (.stringChunk x) s = .next t ∧ t.pending = s.pending ∧ (t.chip.ctxOf x.val).sq = (s.chip.ctxOf x.val).sq ++ [e]
        ∧ e.pa = v.pa ∧ e.size = v.len ∧ e.kind = .strWrite
        ∧ e.data = bits (fillBytes ((s.chip.ctxOf x.val).gr o.ra) a k) 0 (8 * v.len)
        ∧ (t.chip.ctxOf x.val).gr o.rd = (a + k) % m64 ∧ (t.chip.ctxOf x.val).gr o.rb = n - k
        ∧ ((t.chip.ctxOf x.val).serial = none ↔ n = k) ∧ SameMemory s.chip t.chip))
  ∧ (∀ (s : State) (x : Fin 960) (q : Serial) (o : Opn), s.chip.halted = false → s.chip.serialRuns x.val (fun _ => true) = true →
      (s.chip.ctxOf x.val).serial = some q → q.ops = [] → (s.chip.ctxOf x.val).resetWait = 0 → (s.chip.ctxOf x.val).serialOp = o →
    (∀ n target : Nat, q.kind = .callm → q.begun = true → (s.chip.ctxOf x.val).sq = [] → (s.chip.ctxOf x.val).stWait = [] → q.failed = [] →
        frameLen (bits o.syl 3 12) (bits (o.ext.getD 0) 29 2) = n →
        (if bit (o.ext.getD 0) 28 then (s.chip.ctxOf x.val).gr o.rd
         else ((s.chip.ctxOf x.val).pc + 32 * sext64 28 (o.ext.getD 0 % 2 ^ 28)) % m64) = target →
      ∃ t, exec (.serialComplete x) s = .next t ∧ t.pending = s.pending ∧ (t.chip.ctxOf x.val).serial = none
        ∧ (t.chip.ctxOf x.val).gr 1 = ((s.chip.ctxOf x.val).gr 1 + m64 - n) % m64 % m64 ∧ (t.chip.ctxOf x.val).pc = target % m64
        ∧ (∀ r, r ≠ 1 → (t.chip.ctxOf x.val).gr r = (s.chip.ctxOf x.val).gr r) ∧ SameMemory s.chip t.chip)
    ∧ (q.kind = .retm → (s.chip.ctxOf x.val).gr 1 % 64 ≠ 0 →
      ∃ t, exec (.serialComplete x) s = .next t ∧ t.pending = s.pending
        ∧ (t.chip.ctxOf x.val).trap = some ⟨trAlign, (s.chip.ctxOf x.val).gr 1, 0, slotM0⟩ ∧ SameRegs (s.chip.ctxOf x.val) (t.chip.ctxOf x.val))
    ∧ (q.kind = .sgate → (s.chip.ctxOf x.val).gr o.ra % 32 ≠ 0 →
      ∃ t, exec (.serialComplete x) s = .next t ∧ t.pending = s.pending
        ∧ (t.chip.ctxOf x.val).trap = some ⟨trAlign, (s.chip.ctxOf x.val).gr o.ra, 0, slotM0⟩ ∧ SameRegs (s.chip.ctxOf x.val) (t.chip.ctxOf x.val)))
  ∧ (∀ (s : State) (x : Fin 960) (r : TrapReq), s.chip.halted = false → (s.chip.ctxOf x.val).trap = some r → s.chip.cxState x.val = cxRunning →
      (s.chip.ctxOf x.val).pend = [] → (s.chip.ctxOf x.val).misses = 0 → r.cause < 0x40 →
    ∀ p ∈ [(2, csTfH, csVecH, stBusyH, stHie), (1, csTfS, csVecS, stBusyS, stSie)],
      (p.1 = 2 → s.chip.cxPriv x.val = 2 ∨ r.cause = trDebug ∨ bit (s.chip.csr x.val csDeleg) r.cause = false) →
      (p.1 = 1 → s.chip.cxPriv x.val ≠ 2 ∧ r.cause ≠ trDebug ∧ bit (s.chip.csr x.val csDeleg) r.cause = true) →
      s.chip.stBit x.val p.2.2.2.1 = false → isNormal (s.chip.csr x.val p.2.1) = true →
    ∃ t, exec (.trapEntry x) s = .next t ∧ t.pending = s.pending ∧ (t.chip.ctxOf x.val).trap = none
      ∧ t.chip.cxPriv x.val = p.1 ∧ (t.chip.ctxOf x.val).pc = s.chip.csr x.val p.2.2.1
      ∧ t.chip.stBit x.val p.2.2.2.1 = true ∧ t.chip.stBit x.val p.2.2.2.2 = false
      ∧ ((t.chip.ctxOf x.val).sq ++ (t.chip.ctxOf x.val).stWait).map (fun e => (e.pa, e.size, e.data))
          = ((s.chip.ctxOf x.val).sq ++ (s.chip.ctxOf x.val).stWait).map (fun e => (e.pa, e.size, e.data))
          ++ (framePieces (r.cause + r.word) (s.chip.ctxOf x.val).pc (s.chip.ctxOf x.val).idx r.tval (s.chip.statusOf x.val)
                ((s.chip.ctxOf x.val).csGet csRepCount false) ((s.chip.ctxOf x.val).csGet csRepStart false) ((s.chip.ctxOf x.val).csGet csRepEnd false)
                r.info [] []).map (fun f => (s.chip.csr x.val p.2.1 + f.1, f.2.1, f.2.2))
      ∧ (t.chip.ctxOf x.val).csGet csRepCount false = 0
      ∧ (t.chip.ctxOf x.val).g = (s.chip.ctxOf x.val).g ∧ (t.chip.ctxOf x.val).v = (s.chip.ctxOf x.val).v ∧ (t.chip.ctxOf x.val).p = (s.chip.ctxOf x.val).p
      ∧ CountedOnly { s.chip with ctx := t.chip.ctx } t.chip
          [Reg.CORE_CTX_STATUS.PRIV (x.val / 80) (x.val % 80 / 4) (x.val % 4), Reg.CORE_CTX_STATUS.PEND (x.val / 80) (x.val % 80 / 4) (x.val % 4),
           Reg.CORE_CTX_STATUS.MISS (x.val / 80) (x.val % 80 / 4) (x.val % 4)])

/-- A step with a command at the front of the queue is that command's effect on the state with the rest of the queue, and a step on an empty queue leaves
the state as it is: the second is the model's choice (log 2). -/
def Obligations.StepRunsTheFrontCommand : Prop :=
  (∀ (s : State) (c : Instr) (rest : List Instr), step { s with pending := c :: rest } = exec c { s with pending := rest })
  ∧ (∀ s : State, s.pending = [] → step s = .next s)

/-- From every state, a queue of any commands is carried out in as many steps as it is long, first in first out, with no fault and no refusal; the queue is then empty and the package is
as the commands leave it one after another. No command stops: that is the model's reading of the spec, which gives every one an effect. -/
def Obligations.EveryQueueRunsToItsEnd : Prop :=
  (∀ (c : Instr) (s : State), ∃ t, exec c s = .next t ∧ t.pending = s.pending)
  ∧ (∀ (l : List Instr) (s : State), s.pending = [] →
      ∃ t : State, Sys2Proof.core.run l.length { s with pending := l } = .next t ∧ t.pending = [] ∧ runAll l s = some t)

/-- The OTP array can only gain ones (R18, R339, R341): in every state in which every bit of an array that stood before is programmed, every step, also one that resets, sleeps, wakes or browns
out, answers a next state in which every bit of it is programmed still. -/
def Obligations.OtpBitsStayProgrammed : Prop :=
  ∀ (old : SMap Nat) (s : State), OtpKeeps old s → ∃ t, step s = .next t ∧ OtpKeeps old t

/-- While the clocks of the package stand (a cold reset is held, Freewheel, a brown-out or a thermal trip: R410, R440, R443, R448), every command but those of the always-on domain, the
board's lands and the test access port leaves the package as it is; while a warm reset is held, so does every one of these but the commands of the synthesizers and of TIME, which a warm reset
does not stop (R45). -/
def Obligations.HaltedPackageWaits : Prop :=
  (∀ (c : Instr) (s : State), s.chip.clockless = true → alwaysOn c = false → exec c s = .next s)
  ∧ (∀ (c : Instr) (s : State), s.chip.halted = true → alwaysOn c = false → keepsTime c = false → exec c s = .next s)

/-- A write from the Normal world of a register whose every field only the Secure world may write (R322) is answered and recorded with REFUSED = 1 (R344), and beside its record changes
nothing of the package. -/
def Obligations.NormalWorldCannotWriteSecureRegisters : Prop :=
  ∀ (s : State) (w : Who) (off : BitVec 32) (v : Word), s.chip.quiet = true → (s.chip.rgnCheck 26 (s.chip.csrAddr off.toNat) w rightW).ok = true →
      s.chip.aud.ring.length < audHold → s.chip.aud.held = [] → s.chip.csrParked off.toNat = false → s.chip.csrHeld off.toNat = false →
      s.chip.hwHolds off.toNat = false → off.toNat % 8 = 0 → secureOnly off.toNat = true → w.secure = false →
    ∃ t r, exec (.csrWrite w off v) s = .next t ∧ t.pending = s.pending ∧ WroteOnly s.chip.asked t.chip w off.toNat []
      ∧ t.chip.aud.ring = s.chip.aud.ring ++ [r] ∧ bits r.data 64 64 = v.toNat ∧ bit r.data 210 = true

/-- Reset (R17, R18, R45, R73, R342, R345): every field but the audit log's and those of region 31 of each checker reads its reset value; region 31 is enabled with every right and Secure; every context
is OFF with its registers zero; TIME is 0; every generation of a FACTORY field of the OTP array is programmed; no memory lists a byte and no other OTP word is programmed, and these two are the model's choices (logs 20
and 43); the queue is empty; the audit log holds the START record. -/
def Obligations.ResetLeavesResetValues : Prop :=
  State.reset.pending = []
  ∧ (∀ f : Fld, (∀ g ∈ auditFields, f.addr ≠ g.addr) →
      (∀ k < 27, ∀ o ∈ [0, 1, 4], f.addr ≠ 8 * (0xC9010000 + 0x200 * k + 16 * 31) + o) → State.reset.chip.get f = f.rst % 2 ^ f.width)
  ∧ (∀ k < 27, State.reset.chip.regVal (0xC9010000 + 0x200 * k + 16 * 31) = 0x1F)
  ∧ (∀ x, State.reset.chip.ctxOf x = Ctx.init) ∧ State.reset.chip.time = 0
  ∧ State.reset.chip.dram = [] ∧ State.reset.chip.mram = [] ∧ State.reset.chip.flash = []
  ∧ (∀ f, 96 ≤ f → f < 128 → State.reset.chip.otpUsed f = 15) ∧ (∀ k < 384, State.reset.chip.otpWord k = 0)
  ∧ State.reset.chip.coh = CohSt.init ∧ State.reset.chip.get Reg.AUD_SEQ.SEQ = 1 ∧ State.reset.chip.aud.ring.length = 1
  ∧ State.reset.chip = Chip.reset.coldReset (some 0)

/-- Addressed memories (R12): after a write of n bytes, the lowest-addressed byte lowest, a read of them gives the number written, a read of any part gives that part, and every byte outside them reads as
before. -/
def Obligations.MemoriesAnswerWhatWasWritten : Prop :=
  ∀ (m : Mem) (a n v : Nat),
    (m.write a n v).read a n = v % 2 ^ (8 * n)
    ∧ (∀ o k, o + k ≤ n → (m.write a n v).read (a + o) k = bits v (8 * o) (8 * k))
    ∧ (∀ b k, b + k ≤ a ∨ a + n ≤ b → (m.write a n v).read b k = m.read b k)

/-- TIME_LOAD (R46): a write is accepted if and only if its value is greater than TIME and Chainline is OFF or has this package as its root; one that is not leaves TIME unchanged and sets
LOAD_REFUSED; each is recorded with its value. An accepted value replaces one accepted before it without setting LOAD_REFUSED, and the next tick gives TIME that value in place of
every adjustment of that tick. -/
def Obligations.LoadsOfTimeGoForward : Prop :=
  (∀ (s : State) (w : Who) (v : Word), s.chip.writeRuns w Reg.TIME_LOAD.VALUE.off = true →
    ∃ t r, exec (.timeLoad w v) s = .next t ∧ t.pending = s.pending ∧ t.chip.time = s.chip.time
      ∧ t.chip.aud.ring = s.chip.aud.ring ++ [r] ∧ bits r.data 64 64 = v.toNat
      ∧ (s.chip.timeNow.1 < v.toNat ∧ (s.chip.get Reg.TIME_CL_STATUS.STATE = 0 ∨ s.chip.get Reg.TIME_CL_CTRL.ROOT = s.chip.pkg) →
          t.chip.clk = { s.chip.timeNow.2.clk with pendingLoad := some v.toNat }
          ∧ WroteOnly { s.chip.timeNow.2 with clk := t.chip.clk } t.chip w Reg.TIME_LOAD.VALUE.off [])
      ∧ (¬ (s.chip.timeNow.1 < v.toNat ∧ (s.chip.get Reg.TIME_CL_STATUS.STATE = 0 ∨ s.chip.get Reg.TIME_CL_CTRL.ROOT = s.chip.pkg)) →
          t.chip.get Reg.TIME_STATUS.LOAD_REFUSED = 1
          ∧ WroteOnly s.chip.timeNow.2 t.chip w Reg.TIME_LOAD.VALUE.off [Reg.TIME_STATUS.LOAD_REFUSED]))
  ∧ (∀ (s : State) (v : Word), s.chip.halted = false → s.chip.on Reg.TIME_STATUS.VALID = true → s.chip.clk.pendingLoad = some v.toNat →
    ∃ t, exec .timeTick s = .next t ∧ t.pending = s.pending ∧ t.chip.time = v.toNat ∧ t.chip.clk.pendingLoad = none ∧ t.chip.clk.stepBy = 0)

/-- DIV, DIVU, REM and REMU (R90): a bundle whose one operation is one of them issues on every pair of operands, asks for no trap, and makes its result pending: for a divisor of 0 all ones, and the
dividend for a remainder; for the most negative number over -1 that number, and 0; otherwise the quotient, of signed operands rounded toward zero, or what it leaves. -/
def Obligations.DivisionNeverTraps : Prop :=
  ∀ (s : State) (x : Fin 960) (k : Fin 240) (sub : Fin 24) (b n a d : Nat) (o : Opn), s.chip.issues x.val b = true → k.val = x.val / 4 →
      (s.chip.ctxOf x.val).csGet csRepCount false = 0 → (s.chip.ctxOf x.val).pend = [] → (∀ i < 6, i ≠ n → (opnAt b i).syl = 0) → n < 6 →
      opnAt b n = o → o.activeOn ((s.chip.ctxOf x.val).pr o.pred) = true →
      bundleLegal b (s.chip.sprkEnt (x.val / 4) (s.chip.cxSecure x.val)) = true → o.maj = 0x12 → o.rd ≠ 0 →
      (s.chip.ctxOf x.val).gr o.ra = a → (s.chip.ctxOf x.val).gr o.rb = d → a < 2 ^ 64 → d < 2 ^ 64 →
    ∃ t p, exec (.bundleIssue k (sub, none)) s = .next t ∧ t.pending = s.pending ∧ (t.chip.ctxOf x.val).trap = none
      ∧ (t.chip.ctxOf x.val).pend = [p] ∧ p.code = o.rd ∧ p.flags = 0 ∧ p.poison = false
      ∧ (o.min = 0 → p.val = if d = 0 then 0xFFFFFFFFFFFFFFFF else if a = 2 ^ 63 ∧ d = 2 ^ 64 - 1 then 2 ^ 63
          else ofSigned 64 ((toSigned 64 a).tdiv (toSigned 64 d)))
      ∧ (o.min = 2 → p.val = if d = 0 then a else if a = 2 ^ 63 ∧ d = 2 ^ 64 - 1 then 0
          else ofSigned 64 (toSigned 64 a - (toSigned 64 a).tdiv (toSigned 64 d) * toSigned 64 d))
      ∧ (o.min = 1 → p.val = if d = 0 then 0xFFFFFFFFFFFFFFFF else a / d)
      ∧ (o.min = 3 → p.val = if d = 0 then a else a % d)

/-- Inside a repeat (R104): a bundle whose one operation is BR, BL, BRR, BLR, REPB, IDLE, ERET, a serialising operation or a CSWR of a repeat register asks for an ILLEGAL_IN_REPEAT trap, whatever its
predicate says, with every register as it was; SYSC and BRK take their own traps. -/
def Obligations.RepeatBodiesRefuse : Prop :=
  ∀ (s : State) (x : Fin 960) (k : Fin 240) (sub : Fin 24) (b n : Nat) (o : Opn), s.chip.issues x.val b = true → k.val = x.val / 4 →
      (s.chip.ctxOf x.val).csGet csRepCount false ≠ 0 → (s.chip.ctxOf x.val).pend = [] → (∀ i < 6, i ≠ n → (opnAt b i).syl = 0) → n < 6 →
      opnAt b n = o → o.syl ≠ 0 → bundleLegal b (s.chip.sprkEnt (x.val / 4) (s.chip.cxSecure x.val)) = true →
    (o.maj = 0x18 ∨ o.maj = 0x19 ∨ o.maj = 0x1A ∨ o.maj = 0x1B ∨ (o.maj = 0 ∧ o.min = 2) ∨ (o.maj = 0 ∧ o.min = 3) ∨ o.maj = 0x30
        ∨ (o.maj = 0x14 ∧ (o.immU = 0x21 ∨ o.immU = 0x22 ∨ o.immU = 0x23)) →
      ∃ t r, exec (.bundleIssue k (sub, none)) s = .next t ∧ t.pending = s.pending ∧ (t.chip.ctxOf x.val).trap = some r ∧ r.cause = trInRepeat
        ∧ SameRegs (s.chip.ctxOf x.val) (t.chip.ctxOf x.val) ∧ (t.chip.ctxOf x.val).pend = [])
    ∧ (o.maj = 0 → o.min = 4 ∨ o.min = 5 → o.activeOn ((s.chip.ctxOf x.val).pr o.pred) = true →
      ∃ t r, exec (.bundleIssue k (sub, none)) s = .next t ∧ t.pending = s.pending ∧ (t.chip.ctxOf x.val).trap = some r
        ∧ (if o.min = 4 then r.cause = trSyscall else r.cause = trBreak ∨ r.cause = trDebug))
end

