-- ==== Sys2Proof/Laws/Bits.lean ====
section
/-! SUPPORT. Laws/Bits.lean: reading back a replaced bit field. -/
namespace Sys2Proof.Machine

theorem bits_eq (n lo w : Nat) : bits n lo w = n / 2 ^ lo % 2 ^ w := by simp [bits, Nat.shiftRight_eq_div_pow]

theorem setBits_eq (n lo w v : Nat) : setBits n lo w v = (n / 2 ^ lo / 2 ^ w * 2 ^ w + v % 2 ^ w) * 2 ^ lo + n % 2 ^ lo := by
  have h1 : n = n / 2 ^ lo * 2 ^ lo + n % 2 ^ lo := (Nat.div_add_mod' n (2 ^ lo)).symm
  have h2 : n / 2 ^ lo = n / 2 ^ lo / 2 ^ w * 2 ^ w + n / 2 ^ lo % 2 ^ w := (Nat.div_add_mod' _ _).symm
  have h3 : n / 2 ^ lo * 2 ^ lo = n / 2 ^ lo / 2 ^ w * 2 ^ w * 2 ^ lo + n / 2 ^ lo % 2 ^ w * 2 ^ lo := by
    rw [← Nat.add_mul, ← h2]
  simp only [setBits, bits_eq, Nat.shiftLeft_eq, Nat.add_mul]
  omega

/-- Bit by bit. -/
theorem testBit_setBits (n lo w v i : Nat) :
    (setBits n lo w v).testBit i = if lo ≤ i ∧ i < lo + w then v.testBit (i - lo) else n.testBit i := by
  have hr : n % 2 ^ lo < 2 ^ lo := Nat.mod_lt _ (Nat.two_pow_pos lo)
  have hv : v % 2 ^ w < 2 ^ w := Nat.mod_lt _ (Nat.two_pow_pos w)
  rw [setBits_eq, Nat.mul_comm _ (2 ^ lo), Nat.mul_comm _ (2 ^ w), Nat.testBit_two_pow_mul_add _ hr]
  by_cases h1 : i < lo
  · simp [h1, Nat.not_le.2 h1]
  · rw [if_neg h1, Nat.testBit_two_pow_mul_add _ hv]
    by_cases h2 : i < lo + w
    · have h3 : i - lo < w := by omega
      simp [h2, h3, Nat.not_lt.1 h1]
    · have h3 : ¬ i - lo < w := by omega
      simp only [h3, if_false, h2, and_false, Nat.testBit_div_two_pow]
      congr 1
      omega

theorem testBit_bits (n lo w i : Nat) : (bits n lo w).testBit i = (decide (i < w) && n.testBit (i + lo)) := by
  rw [bits_eq, Nat.testBit_mod_two_pow, Nat.testBit_div_two_pow]

/-- The replaced field reads its new value. -/
@[simp] theorem bits_setBits_self (n lo w v : Nat) : bits (setBits n lo w v) lo w = v % 2 ^ w := by
  apply Nat.eq_of_testBit_eq
  intro i
  rw [testBit_bits, testBit_setBits, Nat.testBit_mod_two_pow]
  by_cases h : i < w
  · simp [h, Nat.add_comm]
  · simp [h]

/-- Every other field reads its old value. -/
theorem bits_setBits_other (n : Nat) {lo w l x : Nat} (v : Nat) (h : l + x ≤ lo ∨ lo + w ≤ l) :
    bits (setBits n lo w v) l x = bits n l x := by
  apply Nat.eq_of_testBit_eq
  intro i
  rw [testBit_bits, testBit_bits, testBit_setBits]
  by_cases hi : i < x
  · have : ¬ (lo ≤ i + l ∧ i + l < lo + w) := by omega
    simp [hi, this]
  · simp [hi]

/-- Cutting a number to its width keeps its low fields. -/
theorem bits_mod (n : Nat) {l x w : Nat} (h : l + x ≤ w) : bits (n % 2 ^ w) l x = bits n l x := by
  apply Nat.eq_of_testBit_eq
  intro i
  rw [testBit_bits, testBit_bits, Nat.testBit_mod_two_pow]
  by_cases hi : i < x
  · have : i + l < w := by omega
    simp [hi, this]
  · simp [hi]

theorem bit_eq (n i : Nat) : bit n i = n.testBit i := by
  simp [bit, Nat.testBit, Nat.shiftRight_eq_div_pow, bne]
  rcases Nat.mod_two_eq_zero_or_one (n / 2 ^ i) with h | h <;> simp [h]

end Sys2Proof.Machine
end

