-- ==== Sys2Proof/Laws/Memory.lean ====
section
/-! SUPPORT. Laws/Memory.lean: every operation on an addressed memory keeps its canonical form. -/
namespace Sys2Proof.Machine

/-- The canonical form, said of all cells at once. -/
theorem Mem.wf_iff (m : Mem) : m.wf = true ↔ (∀ p ∈ m, p.2 ≠ 0#8) ∧ m.Pairwise (fun p q => p.1 < q.1) := by
  induction m with
  | nil => simp [Mem.wf]
  | cons p m ih =>
    cases m with
    | nil => simp [Mem.wf]
    | cons q m =>
      simp only [Mem.wf, Bool.and_eq_true, ih, decide_eq_true_eq, bne_iff_ne, ne_eq]
      rw [List.pairwise_cons (a := p)]
      constructor
      · rintro ⟨⟨hp, hpq⟩, hne, hs⟩
        refine ⟨by simpa using ⟨hp, by simpa using hne⟩, ?_, hs⟩
        intro r hr
        rcases List.mem_cons.1 hr with rfl | hr
        · exact hpq
        · exact lt_trans hpq ((List.pairwise_cons.1 hs).1 r hr)
      · rintro ⟨hne, hlt, hs⟩
        exact ⟨⟨hne p (by simp), hlt q (by simp)⟩, fun r hr => hne r (List.mem_cons_of_mem _ hr), hs⟩

/-- The cells of a written number lie in the range that is written. -/
theorem memCells_range (a n v : Nat) : ∀ p ∈ memCells a n v, a ≤ p.1 ∧ p.1 < a + n := by
  induction n generalizing a v with
  | zero => simp [memCells]
  | succ n ih =>
    intro p hp
    simp only [memCells, List.mem_append] at hp
    rcases hp with hp | hp
    · split at hp
      · simp at hp
      · obtain rfl := List.mem_singleton.1 hp
        exact ⟨le_refl a, Nat.lt_add_of_pos_right (Nat.succ_pos n)⟩
    · have := ih (a + 1) (v / 256) p hp
      omega

/-- They are in the canonical form. -/
theorem memCells_wf (a n v : Nat) : (∀ p ∈ memCells a n v, p.2 ≠ 0#8) ∧ (memCells a n v).Pairwise (fun p q => p.1 < q.1) := by
  induction n generalizing a v with
  | zero => simp [memCells]
  | succ n ih =>
    obtain ⟨h1, h2⟩ := ih (a + 1) (v / 256)
    have hr := memCells_range (a + 1) n (v / 256)
    by_cases hv : v % 256 = 0
    · simp only [memCells, hv, if_true, List.nil_append]; exact ⟨h1, h2⟩
    · have h0 : BitVec.ofNat 8 v ≠ 0#8 := by
        intro h
        exact hv (by simpa using congrArg BitVec.toNat h)
      simp only [memCells, hv, if_false, List.singleton_append, List.mem_cons, List.pairwise_cons]
      refine ⟨?_, fun p hp => by have := hr p hp; omega, h2⟩
      rintro p (rfl | hp)
      · exact h0
      · exact h1 p hp

/-- A write keeps the canonical form. -/
theorem Mem.wf_write {m : Mem} (h : m.wf = true) (a n v : Nat) : (m.write a n v).wf = true := by
  rw [Mem.wf_iff] at h ⊢
  obtain ⟨hne, hs⟩ := h
  obtain ⟨cne, cs⟩ := memCells_wf a n v
  have cr := memCells_range a n v
  constructor
  · intro p hp
    simp only [Mem.write, List.mem_append, List.mem_filter] at hp
    rcases hp with (⟨hp, -⟩ | hp) | ⟨hp, -⟩
    · exact hne p hp
    · exact cne p hp
    · exact hne p hp
  · simp only [Mem.write, List.pairwise_append, List.mem_append, List.mem_filter, decide_eq_true_eq]
    refine ⟨⟨hs.filter _, cs, ?_⟩, hs.filter _, ?_⟩
    · rintro p ⟨-, hp⟩ q hq
      have := cr q hq
      omega
    · rintro p (⟨-, hp⟩ | hp) q ⟨-, hq⟩
      · omega
      · have := cr p hp
        omega

/-- A slot written into the DRAM array leaves the array and its check bits in the canonical form. -/
theorem Chip.wf_dramPut {c : Chip} (h : c.dram.wf = true) (hk : c.dramChk.wf = true) (ch line : Nat) (r : Raw) :
    (c.dramPut ch line r).dram.wf = true ∧ (c.dramPut ch line r).dramChk.wf = true := by
  exact ⟨Mem.wf_write h _ _ _, Mem.wf_write hk _ _ _⟩

/-- Every memory of the package has the canonical form after reset. -/
theorem State.reset_memories_wf : State.reset.chip.dram.wf = true ∧ State.reset.chip.dramChk.wf = true ∧ State.reset.chip.cxl.wf = true
    ∧ State.reset.chip.mram.wf = true ∧ State.reset.chip.flash.wf = true := ⟨rfl, rfl, rfl, rfl, rfl⟩

end Sys2Proof.Machine
end

