-- ==== Sys2Proof/Laws/State.lean ====
section
/-! SUPPORT. Laws/State.lean: what a register reads after a write of a register, and that writing registers touches nothing else of
the package. -/
namespace Sys2Proof.Machine

/-! ### Sparse maps -/

@[simp] theorem SMap.get?_set_self {α : Type} (m : SMap α) (a : Nat) (v : α) : SMap.get? (SMap.set m a v) a = some v := by
  induction m with
  | nil => simp [SMap.set, SMap.get?]
  | cons p m ih =>
    obtain ⟨k, w⟩ := p
    by_cases h1 : a < k
    · simp [SMap.set, h1, SMap.get?]
    · by_cases h2 : a = k
      · simp [SMap.set, h2, SMap.get?]
      · simp [SMap.set, h1, h2, SMap.get?, Ne.symm h2, ih]

theorem SMap.get?_set_ne {α : Type} (m : SMap α) {a b : Nat} (v : α) (h : b ≠ a) :
    SMap.get? (SMap.set m a v) b = SMap.get? m b := by
  induction m with
  | nil => simp [SMap.set, SMap.get?, Ne.symm h]
  | cons p m ih =>
    obtain ⟨k, w⟩ := p
    by_cases h1 : a < k
    · simp [SMap.set, h1, SMap.get?, Ne.symm h]
    · by_cases h2 : a = k
      · subst h2
        simp [SMap.set, SMap.get?, Ne.symm h]
      · simp only [SMap.set, h1, h2, if_false, SMap.get?, ih]

@[simp] theorem SMap.get?_erase_self {α : Type} (m : SMap α) (a : Nat) : SMap.get? (SMap.erase m a) a = none := by
  induction m with
  | nil => rfl
  | cons p m ih =>
    obtain ⟨k, w⟩ := p
    by_cases h : k = a
    · simpa [SMap.erase, h] using ih
    · simpa [SMap.erase, h, SMap.get?] using ih

theorem SMap.get?_erase_ne {α : Type} (m : SMap α) {a b : Nat} (h : b ≠ a) :
    SMap.get? (SMap.erase m a) b = SMap.get? m b := by
  induction m with
  | nil => rfl
  | cons p m ih =>
    obtain ⟨k, w⟩ := p
    by_cases h1 : k = a
    · subst h1
      simpa [SMap.erase, SMap.get?, Ne.symm h] using ih
    · by_cases h2 : k = b
      · subst h2
        simp [SMap.erase, SMap.get?, h1]
      · simpa [SMap.erase, SMap.get?, h1, h2] using ih

@[simp] theorem SMap.getD_put_self {α : Type} [DecidableEq α] (m : SMap α) (d : α) (a : Nat) (v : α) :
    SMap.getD (SMap.put m d a v) a d = v := by
  by_cases h : v = d <;> simp [SMap.put, SMap.getD, h]

theorem SMap.getD_put_ne {α : Type} [DecidableEq α] (m : SMap α) (d e : α) {a b : Nat} (v : α) (h : b ≠ a) :
    SMap.getD (SMap.put m d a v) b e = SMap.getD m b e := by
  by_cases hv : v = d <;> simp [SMap.put, SMap.getD, hv, SMap.get?_erase_ne, SMap.get?_set_ne, h]

@[simp] theorem SMap.getD_set_self {α : Type} (m : SMap α) (a : Nat) (v d : α) : SMap.getD (SMap.set m a v) a d = v := by
  simp [SMap.getD]

theorem SMap.getD_set_ne {α : Type} (m : SMap α) {a b : Nat} (v d : α) (h : b ≠ a) :
    SMap.getD (SMap.set m a v) b d = SMap.getD m b d := by
  simp [SMap.getD, SMap.get?_set_ne, h]

/-! ### The register file -/

theorem RegFile.bank_withBank (r : RegFile) (k l : RKind) (m : SMap Nat) :
    (r.withBank k m).bank l = if l = k then m else r.bank l := by
  cases k <;> cases l <;> rfl

@[simp] theorem RegFile.shadow_withBank (r : RegFile) (k : RKind) (m : SMap Nat) : (r.withBank k m).shadow = r.shadow := by
  cases k <;> rfl

@[simp] theorem RegFile.get_put_self (r : RegFile) (f : Fld) (v : Nat) : (r.put f v).get f = v % 2 ^ f.width := by
  simp [RegFile.get, RegFile.put, RegFile.bank_withBank]

theorem RegFile.get_put_ne (r : RegFile) {f g : Fld} (v : Nat) (h : g.addr ≠ f.addr) : (r.put f v).get g = r.get g := by
  by_cases hk : g.rk = f.rk
  · simp [RegFile.get, RegFile.put, RegFile.bank_withBank, hk, SMap.getD_put_ne, h]
  · simp [RegFile.get, RegFile.put, RegFile.bank_withBank, hk]

theorem RegFile.get_lt (r : RegFile) (f : Fld) : r.get f < 2 ^ f.width := Nat.mod_lt _ (Nat.two_pow_pos _)

@[simp] theorem RegFile.shadow_put (r : RegFile) (f : Fld) (v : Nat) : (r.put f v).shadow = r.shadow := by
  simp [RegFile.put]

@[simp] theorem RegFile.get_putShadow (r : RegFile) (f g : Fld) (v : Nat) : (r.putShadow f v).get g = r.get g := by
  cases h : g.rk <;> simp [RegFile.get, RegFile.putShadow, RegFile.bank, h]

@[simp] theorem RegFile.getShadow_putShadow_self (r : RegFile) (f : Fld) (v : Nat) :
    (r.putShadow f v).getShadow f = v % 2 ^ f.width := by
  simp [RegFile.getShadow, RegFile.putShadow]

@[simp] theorem RegFile.getShadow_put (r : RegFile) (f g : Fld) (v : Nat) : (r.put f v).getShadow g = r.getShadow g := by
  simp [RegFile.getShadow]

/-! ### The package's registers -/

@[simp] theorem Chip.get_put_self (c : Chip) (f : Fld) (v : Nat) : (c.put f v).get f = v % 2 ^ f.width := by
  simp [Chip.get, Chip.put]

theorem Chip.get_lt (c : Chip) (f : Fld) : c.get f < 2 ^ f.width := c.regs.get_lt f

theorem Chip.get_put_ne (c : Chip) {f g : Fld} (v : Nat) (h : g.addr ≠ f.addr) : (c.put f v).get g = c.get g := by
  simp [Chip.get, Chip.put, RegFile.get_put_ne, h]

@[simp] theorem Chip.puts_nil (c : Chip) : c.puts [] = c := rfl

@[simp] theorem Chip.puts_cons (c : Chip) (p : Fld × Nat) (l : List (Fld × Nat)) : c.puts (p :: l) = (c.put p.1 p.2).puts l := rfl

theorem Chip.get_puts_ne (c : Chip) (l : List (Fld × Nat)) {g : Fld} (h : ∀ p ∈ l, g.addr ≠ p.1.addr) : (c.puts l).get g = c.get g := by
  induction l generalizing c with
  | nil => rfl
  | cons p l ih =>
    have hp : g.addr ≠ p.1.addr := h p (by simp)
    simp only [Chip.puts_cons]
    rw [ih _ (fun q hq => h q (by simp [hq])), Chip.get_put_ne c p.2 hp]

@[simp] theorem Chip.shadow_put (c : Chip) (f : Fld) (v : Nat) : (c.put f v).regs.shadow = c.regs.shadow := by
  simp [Chip.put]

/-- Writing registers touches no other part of the package. -/
theorem Chip.put_rest (c : Chip) (f : Fld) (v : Nat) : c.put f v = { c with regs := (c.put f v).regs } := rfl

theorem Chip.puts_rest (c : Chip) (l : List (Fld × Nat)) : c.puts l = { c with regs := (c.puts l).regs } := by
  induction l generalizing c with
  | nil => rfl
  | cons p l ih =>
    rw [Chip.puts_cons, ih]
    rfl

/-! ### Each part of the package after a register's write -/

@[simp] theorem Chip.put_free (c : Chip) (f : Fld) (v : Nat) : (c.put f v).free = c.free := rfl
@[simp] theorem Chip.put_otp (c : Chip) (f : Fld) (v : Nat) : (c.put f v).otp = c.otp := rfl
@[simp] theorem Chip.put_fatalErr (c : Chip) (f : Fld) (v : Nat) : (c.put f v).fatalErr = c.fatalErr := rfl
@[simp] theorem Chip.put_wakeFault (c : Chip) (f : Fld) (v : Nat) : (c.put f v).wakeFault = c.wakeFault := rfl
@[simp] theorem Chip.put_straps (c : Chip) (f : Fld) (v : Nat) : (c.put f v).straps = c.straps := rfl
@[simp] theorem Chip.put_irqs (c : Chip) (f : Fld) (v : Nat) : (c.put f v).irqs = c.irqs := rfl
@[simp] theorem Chip.put_rawIrqs (c : Chip) (f : Fld) (v : Nat) : (c.put f v).rawIrqs = c.rawIrqs := rfl
@[simp] theorem Chip.put_clk (c : Chip) (f : Fld) (v : Nat) : (c.put f v).clk = c.clk := rfl
@[simp] theorem Chip.put_aud (c : Chip) (f : Fld) (v : Nat) : (c.put f v).aud = c.aud := rfl
@[simp] theorem Chip.put_sec (c : Chip) (f : Fld) (v : Nat) : (c.put f v).sec = c.sec := rfl
@[simp] theorem Chip.put_coh (c : Chip) (f : Fld) (v : Nat) : (c.put f v).coh = c.coh := rfl
@[simp] theorem Chip.put_mc (c : Chip) (f : Fld) (v : Nat) : (c.put f v).mc = c.mc := rfl
@[simp] theorem Chip.put_pg (c : Chip) (f : Fld) (v : Nat) : (c.put f v).pg = c.pg := rfl
@[simp] theorem Chip.put_dram (c : Chip) (f : Fld) (v : Nat) : (c.put f v).dram = c.dram := rfl
@[simp] theorem Chip.put_dramChk (c : Chip) (f : Fld) (v : Nat) : (c.put f v).dramChk = c.dramChk := rfl
@[simp] theorem Chip.put_cxl (c : Chip) (f : Fld) (v : Nat) : (c.put f v).cxl = c.cxl := rfl
@[simp] theorem Chip.put_cxlPoison (c : Chip) (f : Fld) (v : Nat) : (c.put f v).cxlPoison = c.cxlPoison := rfl
@[simp] theorem Chip.put_mram (c : Chip) (f : Fld) (v : Nat) : (c.put f v).mram = c.mram := rfl
@[simp] theorem Chip.put_flash (c : Chip) (f : Fld) (v : Nat) : (c.put f v).flash = c.flash := rfl
@[simp] theorem Chip.put_ctx (c : Chip) (f : Fld) (v : Nat) : (c.put f v).ctx = c.ctx := rfl
@[simp] theorem Chip.put_core (c : Chip) (f : Fld) (v : Nat) : (c.put f v).core = c.core := rfl
@[simp] theorem Chip.put_nextJob (c : Chip) (f : Fld) (v : Nat) : (c.put f v).nextJob = c.nextJob := rfl
@[simp] theorem Chip.put_sprk (c : Chip) (f : Fld) (v : Nat) : (c.put f v).sprk = c.sprk := rfl
@[simp] theorem Chip.put_spk (c : Chip) (f : Fld) (v : Nat) : (c.put f v).spk = c.spk := rfl
@[simp] theorem Chip.put_tdm (c : Chip) (f : Fld) (v : Nat) : (c.put f v).tdm = c.tdm := rfl
@[simp] theorem Chip.put_routeHold (c : Chip) (f : Fld) (v : Nat) : (c.put f v).routeHold = c.routeHold := rfl
@[simp] theorem Chip.put_hqe (c : Chip) (f : Fld) (v : Nat) : (c.put f v).hqe = c.hqe := rfl
@[simp] theorem Chip.put_frozen (c : Chip) (f : Fld) (v : Nat) : (c.put f v).frozen = c.frozen := rfl
@[simp] theorem Chip.put_fns (c : Chip) (f : Fld) (v : Nat) : (c.put f v).fns = c.fns := rfl
@[simp] theorem Chip.put_rg (c : Chip) (f : Fld) (v : Nat) : (c.put f v).rg = c.rg := rfl
@[simp] theorem Chip.put_replies (c : Chip) (f : Fld) (v : Nat) : (c.put f v).replies = c.replies := rfl
@[simp] theorem Chip.put_pwr (c : Chip) (f : Fld) (v : Nat) : (c.put f v).pwr = c.pwr := rfl
@[simp] theorem Chip.put_presence (c : Chip) (f : Fld) (v : Nat) : (c.put f v).presence = c.presence := rfl
@[simp] theorem Chip.put_boot (c : Chip) (f : Fld) (v : Nat) : (c.put f v).boot = c.boot := rfl
@[simp] theorem Chip.put_stage (c : Chip) (f : Fld) (v : Nat) : (c.put f v).stage = c.stage := rfl
@[simp] theorem Chip.put_sb (c : Chip) (f : Fld) (v : Nat) : (c.put f v).sb = c.sb := rfl
@[simp] theorem Chip.put_tap (c : Chip) (f : Fld) (v : Nat) : (c.put f v).tap = c.tap := rfl
@[simp] theorem Chip.put_nrg (c : Chip) (f : Fld) (v : Nat) : (c.put f v).nrg = c.nrg := rfl
@[simp] theorem Chip.put_cc (c : Chip) (f : Fld) (v : Nat) : (c.put f v).cc = c.cc := rfl

@[simp] theorem Chip.puts_free (c : Chip) (l : List (Fld × Nat)) : (c.puts l).free = c.free := by rw [Chip.puts_rest]
@[simp] theorem Chip.puts_otp (c : Chip) (l : List (Fld × Nat)) : (c.puts l).otp = c.otp := by rw [Chip.puts_rest]
@[simp] theorem Chip.puts_fatalErr (c : Chip) (l : List (Fld × Nat)) : (c.puts l).fatalErr = c.fatalErr := by rw [Chip.puts_rest]
@[simp] theorem Chip.puts_wakeFault (c : Chip) (l : List (Fld × Nat)) : (c.puts l).wakeFault = c.wakeFault := by rw [Chip.puts_rest]
@[simp] theorem Chip.puts_straps (c : Chip) (l : List (Fld × Nat)) : (c.puts l).straps = c.straps := by rw [Chip.puts_rest]
@[simp] theorem Chip.puts_irqs (c : Chip) (l : List (Fld × Nat)) : (c.puts l).irqs = c.irqs := by rw [Chip.puts_rest]
@[simp] theorem Chip.puts_rawIrqs (c : Chip) (l : List (Fld × Nat)) : (c.puts l).rawIrqs = c.rawIrqs := by rw [Chip.puts_rest]
@[simp] theorem Chip.puts_clk (c : Chip) (l : List (Fld × Nat)) : (c.puts l).clk = c.clk := by rw [Chip.puts_rest]
@[simp] theorem Chip.puts_aud (c : Chip) (l : List (Fld × Nat)) : (c.puts l).aud = c.aud := by rw [Chip.puts_rest]
@[simp] theorem Chip.puts_sec (c : Chip) (l : List (Fld × Nat)) : (c.puts l).sec = c.sec := by rw [Chip.puts_rest]
@[simp] theorem Chip.puts_coh (c : Chip) (l : List (Fld × Nat)) : (c.puts l).coh = c.coh := by rw [Chip.puts_rest]
@[simp] theorem Chip.puts_mc (c : Chip) (l : List (Fld × Nat)) : (c.puts l).mc = c.mc := by rw [Chip.puts_rest]
@[simp] theorem Chip.puts_pg (c : Chip) (l : List (Fld × Nat)) : (c.puts l).pg = c.pg := by rw [Chip.puts_rest]
@[simp] theorem Chip.puts_dram (c : Chip) (l : List (Fld × Nat)) : (c.puts l).dram = c.dram := by rw [Chip.puts_rest]
@[simp] theorem Chip.puts_dramChk (c : Chip) (l : List (Fld × Nat)) : (c.puts l).dramChk = c.dramChk := by rw [Chip.puts_rest]
@[simp] theorem Chip.puts_cxl (c : Chip) (l : List (Fld × Nat)) : (c.puts l).cxl = c.cxl := by rw [Chip.puts_rest]
@[simp] theorem Chip.puts_cxlPoison (c : Chip) (l : List (Fld × Nat)) : (c.puts l).cxlPoison = c.cxlPoison := by rw [Chip.puts_rest]
@[simp] theorem Chip.puts_mram (c : Chip) (l : List (Fld × Nat)) : (c.puts l).mram = c.mram := by rw [Chip.puts_rest]
@[simp] theorem Chip.puts_flash (c : Chip) (l : List (Fld × Nat)) : (c.puts l).flash = c.flash := by rw [Chip.puts_rest]
@[simp] theorem Chip.puts_ctx (c : Chip) (l : List (Fld × Nat)) : (c.puts l).ctx = c.ctx := by rw [Chip.puts_rest]
@[simp] theorem Chip.puts_core (c : Chip) (l : List (Fld × Nat)) : (c.puts l).core = c.core := by rw [Chip.puts_rest]
@[simp] theorem Chip.puts_nextJob (c : Chip) (l : List (Fld × Nat)) : (c.puts l).nextJob = c.nextJob := by rw [Chip.puts_rest]
@[simp] theorem Chip.puts_sprk (c : Chip) (l : List (Fld × Nat)) : (c.puts l).sprk = c.sprk := by rw [Chip.puts_rest]
@[simp] theorem Chip.puts_spk (c : Chip) (l : List (Fld × Nat)) : (c.puts l).spk = c.spk := by rw [Chip.puts_rest]
@[simp] theorem Chip.puts_tdm (c : Chip) (l : List (Fld × Nat)) : (c.puts l).tdm = c.tdm := by rw [Chip.puts_rest]
@[simp] theorem Chip.puts_routeHold (c : Chip) (l : List (Fld × Nat)) : (c.puts l).routeHold = c.routeHold := by rw [Chip.puts_rest]
@[simp] theorem Chip.puts_hqe (c : Chip) (l : List (Fld × Nat)) : (c.puts l).hqe = c.hqe := by rw [Chip.puts_rest]
@[simp] theorem Chip.puts_frozen (c : Chip) (l : List (Fld × Nat)) : (c.puts l).frozen = c.frozen := by rw [Chip.puts_rest]
@[simp] theorem Chip.puts_fns (c : Chip) (l : List (Fld × Nat)) : (c.puts l).fns = c.fns := by rw [Chip.puts_rest]
@[simp] theorem Chip.puts_rg (c : Chip) (l : List (Fld × Nat)) : (c.puts l).rg = c.rg := by rw [Chip.puts_rest]
@[simp] theorem Chip.puts_replies (c : Chip) (l : List (Fld × Nat)) : (c.puts l).replies = c.replies := by rw [Chip.puts_rest]
@[simp] theorem Chip.puts_pwr (c : Chip) (l : List (Fld × Nat)) : (c.puts l).pwr = c.pwr := by rw [Chip.puts_rest]
@[simp] theorem Chip.puts_presence (c : Chip) (l : List (Fld × Nat)) : (c.puts l).presence = c.presence := by rw [Chip.puts_rest]
@[simp] theorem Chip.puts_boot (c : Chip) (l : List (Fld × Nat)) : (c.puts l).boot = c.boot := by rw [Chip.puts_rest]
@[simp] theorem Chip.puts_stage (c : Chip) (l : List (Fld × Nat)) : (c.puts l).stage = c.stage := by rw [Chip.puts_rest]
@[simp] theorem Chip.puts_sb (c : Chip) (l : List (Fld × Nat)) : (c.puts l).sb = c.sb := by rw [Chip.puts_rest]
@[simp] theorem Chip.puts_tap (c : Chip) (l : List (Fld × Nat)) : (c.puts l).tap = c.tap := by rw [Chip.puts_rest]
@[simp] theorem Chip.puts_nrg (c : Chip) (l : List (Fld × Nat)) : (c.puts l).nrg = c.nrg := by rw [Chip.puts_rest]
@[simp] theorem Chip.puts_cc (c : Chip) (l : List (Fld × Nat)) : (c.puts l).cc = c.cc := by rw [Chip.puts_rest]

end Sys2Proof.Machine
end

