-- ==== Sys2Proof/Laws/Parts.lean ====
section
/-! SUPPORT. Laws/Parts.lean: what the parts that are kept one for each context, core, channel or link read after one of them has changed, and
that such a change touches nothing else of the package. -/
namespace Sys2Proof.Machine

/-! ### Contexts -/

@[simp] theorem Chip.ctxOf_ctxMod_self (c : Chip) (i : Nat) (f : Ctx → Ctx) : (c.ctxMod i f).ctxOf i = f (c.ctxOf i) :=
  SMap.getD_put_self _ _ _ _

theorem Chip.ctxOf_ctxMod_ne (c : Chip) {i j : Nat} (f : Ctx → Ctx) (h : j ≠ i) : (c.ctxMod i f).ctxOf j = c.ctxOf j :=
  SMap.getD_put_ne _ _ _ _ h

/-- Nothing but the contexts changes. -/
theorem Chip.ctxMod_rest (c : Chip) (i : Nat) (f : Ctx → Ctx) : c.ctxMod i f = { c with ctx := (c.ctxMod i f).ctx } := rfl

@[simp] theorem Chip.get_ctxMod (c : Chip) (i : Nat) (f : Ctx → Ctx) (g : Fld) : (c.ctxMod i f).get g = c.get g := rfl
@[simp] theorem Chip.ctxOf_put (c : Chip) (i : Nat) (g : Fld) (v : Nat) : (c.put g v).ctxOf i = c.ctxOf i := rfl
@[simp] theorem Chip.ctxOf_puts (c : Chip) (i : Nat) (l : List (Fld × Nat)) : (c.puts l).ctxOf i = c.ctxOf i := by
  unfold Chip.ctxOf
  simp

@[simp] theorem Chip.coreOf_ctxMod (c : Chip) (i j : Nat) (f : Ctx → Ctx) : (c.ctxMod i f).coreOf j = c.coreOf j := rfl
@[simp] theorem Chip.mcOf_ctxMod (c : Chip) (i j : Nat) (f : Ctx → Ctx) : (c.ctxMod i f).mcOf j = c.mcOf j := rfl
@[simp] theorem Chip.spkOf_ctxMod (c : Chip) (i j : Nat) (f : Ctx → Ctx) : (c.ctxMod i f).spkOf j = c.spkOf j := rfl
@[simp] theorem Chip.tdmOf_ctxMod (c : Chip) (i j : Nat) (f : Ctx → Ctx) : (c.ctxMod i f).tdmOf j = c.tdmOf j := rfl
@[simp] theorem Chip.coh_ctxMod (c : Chip) (i : Nat) (f : Ctx → Ctx) : (c.ctxMod i f).coh = c.coh := rfl

/-! ### Cores -/

@[simp] theorem Chip.coreOf_coreMod_self (c : Chip) (i : Nat) (f : CoreSt → CoreSt) : (c.coreMod i f).coreOf i = f (c.coreOf i) :=
  SMap.getD_put_self _ _ _ _

theorem Chip.coreOf_coreMod_ne (c : Chip) {i j : Nat} (f : CoreSt → CoreSt) (h : j ≠ i) : (c.coreMod i f).coreOf j = c.coreOf j :=
  SMap.getD_put_ne _ _ _ _ h

/-- Nothing but the cores changes. -/
theorem Chip.coreMod_rest (c : Chip) (i : Nat) (f : CoreSt → CoreSt) : c.coreMod i f = { c with core := (c.coreMod i f).core } := rfl

@[simp] theorem Chip.get_coreMod (c : Chip) (i : Nat) (f : CoreSt → CoreSt) (g : Fld) : (c.coreMod i f).get g = c.get g := rfl
@[simp] theorem Chip.coreOf_put (c : Chip) (i : Nat) (g : Fld) (v : Nat) : (c.put g v).coreOf i = c.coreOf i := rfl
@[simp] theorem Chip.coreOf_puts (c : Chip) (i : Nat) (l : List (Fld × Nat)) : (c.puts l).coreOf i = c.coreOf i := by
  unfold Chip.coreOf
  simp

@[simp] theorem Chip.ctxOf_coreMod (c : Chip) (i j : Nat) (f : CoreSt → CoreSt) : (c.coreMod i f).ctxOf j = c.ctxOf j := rfl
@[simp] theorem Chip.mcOf_coreMod (c : Chip) (i j : Nat) (f : CoreSt → CoreSt) : (c.coreMod i f).mcOf j = c.mcOf j := rfl
@[simp] theorem Chip.spkOf_coreMod (c : Chip) (i j : Nat) (f : CoreSt → CoreSt) : (c.coreMod i f).spkOf j = c.spkOf j := rfl
@[simp] theorem Chip.tdmOf_coreMod (c : Chip) (i j : Nat) (f : CoreSt → CoreSt) : (c.coreMod i f).tdmOf j = c.tdmOf j := rfl
@[simp] theorem Chip.coh_coreMod (c : Chip) (i : Nat) (f : CoreSt → CoreSt) : (c.coreMod i f).coh = c.coh := rfl

/-! ### Channels -/

@[simp] theorem Chip.mcOf_mcMod_self (c : Chip) (i : Nat) (f : McSt → McSt) : (c.mcMod i f).mcOf i = f (c.mcOf i) :=
  SMap.getD_put_self _ _ _ _

theorem Chip.mcOf_mcMod_ne (c : Chip) {i j : Nat} (f : McSt → McSt) (h : j ≠ i) : (c.mcMod i f).mcOf j = c.mcOf j :=
  SMap.getD_put_ne _ _ _ _ h

/-- Nothing but the channels changes. -/
theorem Chip.mcMod_rest (c : Chip) (i : Nat) (f : McSt → McSt) : c.mcMod i f = { c with mc := (c.mcMod i f).mc } := rfl

@[simp] theorem Chip.get_mcMod (c : Chip) (i : Nat) (f : McSt → McSt) (g : Fld) : (c.mcMod i f).get g = c.get g := rfl
@[simp] theorem Chip.mcOf_put (c : Chip) (i : Nat) (g : Fld) (v : Nat) : (c.put g v).mcOf i = c.mcOf i := rfl
@[simp] theorem Chip.mcOf_puts (c : Chip) (i : Nat) (l : List (Fld × Nat)) : (c.puts l).mcOf i = c.mcOf i := by
  unfold Chip.mcOf
  simp

@[simp] theorem Chip.ctxOf_mcMod (c : Chip) (i j : Nat) (f : McSt → McSt) : (c.mcMod i f).ctxOf j = c.ctxOf j := rfl
@[simp] theorem Chip.coreOf_mcMod (c : Chip) (i j : Nat) (f : McSt → McSt) : (c.mcMod i f).coreOf j = c.coreOf j := rfl
@[simp] theorem Chip.spkOf_mcMod (c : Chip) (i j : Nat) (f : McSt → McSt) : (c.mcMod i f).spkOf j = c.spkOf j := rfl
@[simp] theorem Chip.tdmOf_mcMod (c : Chip) (i j : Nat) (f : McSt → McSt) : (c.mcMod i f).tdmOf j = c.tdmOf j := rfl
@[simp] theorem Chip.coh_mcMod (c : Chip) (i : Nat) (f : McSt → McSt) : (c.mcMod i f).coh = c.coh := rfl

/-! ### Spoke links -/

@[simp] theorem Chip.spkOf_spkMod_self (c : Chip) (i : Nat) (f : SpkSt → SpkSt) : (c.spkMod i f).spkOf i = f (c.spkOf i) :=
  SMap.getD_put_self _ _ _ _

theorem Chip.spkOf_spkMod_ne (c : Chip) {i j : Nat} (f : SpkSt → SpkSt) (h : j ≠ i) : (c.spkMod i f).spkOf j = c.spkOf j :=
  SMap.getD_put_ne _ _ _ _ h

/-- Nothing but the Spoke links changes. -/
theorem Chip.spkMod_rest (c : Chip) (i : Nat) (f : SpkSt → SpkSt) : c.spkMod i f = { c with spk := (c.spkMod i f).spk } := rfl

@[simp] theorem Chip.get_spkMod (c : Chip) (i : Nat) (f : SpkSt → SpkSt) (g : Fld) : (c.spkMod i f).get g = c.get g := rfl
@[simp] theorem Chip.spkOf_put (c : Chip) (i : Nat) (g : Fld) (v : Nat) : (c.put g v).spkOf i = c.spkOf i := rfl
@[simp] theorem Chip.spkOf_puts (c : Chip) (i : Nat) (l : List (Fld × Nat)) : (c.puts l).spkOf i = c.spkOf i := by
  unfold Chip.spkOf
  simp

@[simp] theorem Chip.ctxOf_spkMod (c : Chip) (i j : Nat) (f : SpkSt → SpkSt) : (c.spkMod i f).ctxOf j = c.ctxOf j := rfl
@[simp] theorem Chip.coreOf_spkMod (c : Chip) (i j : Nat) (f : SpkSt → SpkSt) : (c.spkMod i f).coreOf j = c.coreOf j := rfl
@[simp] theorem Chip.mcOf_spkMod (c : Chip) (i j : Nat) (f : SpkSt → SpkSt) : (c.spkMod i f).mcOf j = c.mcOf j := rfl
@[simp] theorem Chip.tdmOf_spkMod (c : Chip) (i j : Nat) (f : SpkSt → SpkSt) : (c.spkMod i f).tdmOf j = c.tdmOf j := rfl
@[simp] theorem Chip.coh_spkMod (c : Chip) (i : Nat) (f : SpkSt → SpkSt) : (c.spkMod i f).coh = c.coh := rfl

/-! ### Tandem ports -/

@[simp] theorem Chip.tdmOf_tdmMod_self (c : Chip) (i : Nat) (f : TdmSt → TdmSt) : (c.tdmMod i f).tdmOf i = f (c.tdmOf i) :=
  SMap.getD_put_self _ _ _ _

theorem Chip.tdmOf_tdmMod_ne (c : Chip) {i j : Nat} (f : TdmSt → TdmSt) (h : j ≠ i) : (c.tdmMod i f).tdmOf j = c.tdmOf j :=
  SMap.getD_put_ne _ _ _ _ h

/-- Nothing but the Tandem ports changes. -/
theorem Chip.tdmMod_rest (c : Chip) (i : Nat) (f : TdmSt → TdmSt) : c.tdmMod i f = { c with tdm := (c.tdmMod i f).tdm } := rfl

@[simp] theorem Chip.get_tdmMod (c : Chip) (i : Nat) (f : TdmSt → TdmSt) (g : Fld) : (c.tdmMod i f).get g = c.get g := rfl
@[simp] theorem Chip.tdmOf_put (c : Chip) (i : Nat) (g : Fld) (v : Nat) : (c.put g v).tdmOf i = c.tdmOf i := rfl
@[simp] theorem Chip.tdmOf_puts (c : Chip) (i : Nat) (l : List (Fld × Nat)) : (c.puts l).tdmOf i = c.tdmOf i := by
  unfold Chip.tdmOf
  simp

@[simp] theorem Chip.ctxOf_tdmMod (c : Chip) (i j : Nat) (f : TdmSt → TdmSt) : (c.tdmMod i f).ctxOf j = c.ctxOf j := rfl
@[simp] theorem Chip.coreOf_tdmMod (c : Chip) (i j : Nat) (f : TdmSt → TdmSt) : (c.tdmMod i f).coreOf j = c.coreOf j := rfl
@[simp] theorem Chip.mcOf_tdmMod (c : Chip) (i j : Nat) (f : TdmSt → TdmSt) : (c.tdmMod i f).mcOf j = c.mcOf j := rfl
@[simp] theorem Chip.spkOf_tdmMod (c : Chip) (i j : Nat) (f : TdmSt → TdmSt) : (c.tdmMod i f).spkOf j = c.spkOf j := rfl
@[simp] theorem Chip.coh_tdmMod (c : Chip) (i : Nat) (f : TdmSt → TdmSt) : (c.tdmMod i f).coh = c.coh := rfl

end Sys2Proof.Machine
end

