-- ==== Sys2Proof/Laws/Write.lean ====
section
/-! SUPPORT. Laws/Write.lean: a software write of a register that goes straight through: its record, its effect and its answer. -/
namespace Sys2Proof.Machine

theorem Untouched.refl (c : Chip) (l : List Fld) : Untouched c c l := fun _ _ => rfl

theorem Untouched.trans {a b c : Chip} {l : List Fld} (h : Untouched a b l) (k : Untouched b c l) : Untouched a c l :=
  fun f hf => (k f hf).trans (h f hf)

theorem Untouched.mono {a b : Chip} {l m : List Fld} (h : Untouched a b l) (hm : ∀ g ∈ l, g ∈ m) : Untouched a b m :=
  fun f hf => h f (fun g hg => hf g (hm g hg))

theorem Untouched.puts (c : Chip) (l : List (Fld × Nat)) : Untouched c (c.puts l) (l.map (·.1)) := by
  intro f hf
  exact Chip.get_puts_ne c l (fun p hp => hf p.1 (List.mem_map_of_mem hp))

/-- Energy changes no register and no other part. -/
theorem Chip.nrgEv_rest (c : Chip) (d k key n : Nat) : c.nrgEv d k key n = { c with nrg := (c.nrgEv d k key n).nrg } := by
  unfold Chip.nrgEv Chip.nrgAdd
  split <;> rfl

theorem Chip.shadow_puts (c : Chip) (l : List (Fld × Nat)) : (c.puts l).regs.shadow = c.regs.shadow := by
  induction l generalizing c with
  | nil => rfl
  | cons p l ih => simp [ih]

theorem OnlyFields.puts (c : Chip) (l : List (Fld × Nat)) {m : List Fld} (h : ∀ p ∈ l, p.1 ∈ m) : OnlyFields c (c.puts l) m := by
  refine ⟨Chip.puts_rest c l, (Untouched.puts c l).mono ?_, Chip.shadow_puts c l⟩
  intro g hg
  obtain ⟨p, hp, rfl⟩ := List.mem_map.1 hg
  exact h p hp

theorem OnlyFields.trans {a b c : Chip} {l : List Fld} (h : OnlyFields a b l) (k : OnlyFields b c l) : OnlyFields a c l := by
  obtain ⟨h1, h2, h3⟩ := h
  obtain ⟨k1, k2, k3⟩ := k
  refine ⟨?_, h2.trans k2, k3.trans h3⟩
  rw [h1] at k1
  exact k1

/-- The ring takes a record. -/
theorem Recorded.ring_push {c d : Chip} (h : OnlyFields c d auditFields) (r : AudRec) :
    Recorded c ({ d with aud := { d.aud with ring := d.aud.ring ++ [r] } } : Chip).audSync := by
  have k := OnlyFields.puts ({ d with aud := { d.aud with ring := d.aud.ring ++ [r] } } : Chip)
    [(Reg.AUD_STATUS.USED, (d.aud.ring ++ [r]).length), (Reg.AUD_STATUS.STALL, b2n (decide ((d.aud.ring ++ [r]).length ≥ audHold))),
      (Reg.AUD_STATUS.HW_WAIT, b2n (!d.aud.waiting.isEmpty))] (m := auditFields) (by simp [auditFields])
  obtain ⟨h1, h2, h3⟩ := h
  obtain ⟨k1, k2, k3⟩ := k
  have ha : d.aud = c.aud := by rw [h1]
  refine ⟨?_, fun f hf => (k2 f hf).trans (h2 f hf), k3.trans h3, ⟨r, ?_⟩⟩
  · refine k1.trans ?_
    rw [h1]
    rfl
  · rw [← ha]
    rfl

/-- Its interrupt message may follow. -/
theorem Recorded.irq {c d : Chip} (h : Recorded c d) (p : Prop) [Decidable p] (a v e : Fld) :
    Recorded c (if p then d.irqReg a v e else d) := by
  split
  · unfold Chip.irqReg
    split
    · obtain ⟨h1, h2, h3, h4⟩ := h
      exact ⟨congrArg (fun x : Chip => x.sendIrq (d.get a) (d.get v)) h1, h2, h3, h4⟩
    · exact h
  · exact h

/-- A record enters the ring: what changes. -/
theorem Chip.audPush_recorded (c : Chip) (b : RecBody) : Recorded c (c.audPush b) := by
  unfold Chip.audPush Chip.audPushAfter
  exact Recorded.irq (Recorded.ring_push (OnlyFields.puts c _ (by simp [auditFields])) _) _ _ _ _

/-- Where nothing waits at the ports, no commit of a window bank waits for its requests. -/
theorem Chip.selParked_of_quiet {c : Chip} (h : c.quiet = true) (off v : Nat) : c.selParked off v = false := by
  have hq : ∀ p < 8, c.get (Reg.PCI_WIN_SEL.OLD_BUSY p) = 0 := by
    simp only [Chip.quiet, Chip.inIdle, Bool.and_eq_true, List.all_eq_true, List.mem_range, beq_iff_eq] at h
    exact h.2.2
  by_cases hw : isWinSel off
  · have hw' := hw
    simp only [isWinSel, Bool.and_eq_true, decide_eq_true_eq] at hw'
    simp [Chip.selParked, hq ((off - 0xCB000000) / 0x10000) (by omega)]
  · simp [Chip.selParked, hw]

/-- What a write does to a register that it reaches: the record comes first, then the effect, then the answer (R343, R344). -/
theorem Chip.regWrite_runs_at {c : Chip} {w : Who} {off v : Nat} (h : c.writeRuns w off = true) (h8 : off % 8 = 0) (hs : off ≠ 0xC9C00020) :
    ∃ c0, Recorded (c.atWrite off) c0 ∧ c.regWrite w off v
      = (((c0.csrAction w off v).stageKick).outAnswer (.agent w.agent (c.csrAddr off)) 8 (.ok 0)).inPump := by
  simp only [Chip.writeRuns, Bool.and_eq_true, Bool.not_eq_true', decide_eq_true_eq, List.isEmpty_iff] at h
  obtain ⟨⟨⟨⟨⟨⟨⟨h1, h2⟩, h3⟩, h4⟩, h5⟩, h6⟩, h7⟩, hh⟩ := h
  have hsel : c.selParked off v = false := Chip.selParked_of_quiet h1 off v
  have hheld : c.stage.held.any (fun x => x.off == off) = false := by
    simp [Chip.csrHeld] at h7
    simpa using h7.2
  obtain ⟨n, hn⟩ : ∃ n, c.nrgEv domHubc 12 (c.keyOf w.agent w.tenant) 1 = { c with nrg := n } := ⟨_, Chip.nrgEv_rest _ _ _ _ _⟩
  obtain ⟨f, k, hf⟩ : ∃ f k, c.atWrite off = { c with free := f, clk := k } := by
    unfold Chip.atWrite
    split
    · exact ⟨_, _, rfl⟩
    · exact ⟨c.free, c.clk, rfl⟩
  have ht : (if off = 0xCD000008 then ({ c with nrg := n } : Chip).timeNow.2 else ({ c with nrg := n } : Chip))
      = { c.atWrite off with nrg := n } := by
    unfold Chip.atWrite
    split <;> rfl
  have hr : ({ c.atWrite off with nrg := n } : Chip).rgnCheck 26 (c.csrAddr off) w rightW = c.rgnCheck 26 (c.csrAddr off) w rightW := by
    rw [hf]; rfl
  have hb : ({ c.atWrite off with nrg := n } : Chip).csrBlocked w off = c.csrBlocked w off := by rw [hf]; rfl
  have hadr : ({ c.atWrite off with nrg := n } : Chip).csrAddr off = c.csrAddr off := by rw [hf]; rfl
  have ha : ({ c with nrg := n } : Chip).csrAddr off = c.csrAddr off := rfl
  refine ⟨({ c.atWrite off with nrg := n } : Chip).audPush (({ c.atWrite off with nrg := n } : Chip).swBody w (c.csrAddr off) v
    (({ c.atWrite off with nrg := n } : Chip).csrRefuses w off v)), ?_, ?_⟩
  · obtain ⟨k1, k2, k3, k4⟩ := Chip.audPush_recorded ({ c.atWrite off with nrg := n } : Chip) (({ c.atWrite off with nrg := n } : Chip).swBody w
      (c.csrAddr off) v (({ c.atWrite off with nrg := n } : Chip).csrRefuses w off v))
    exact ⟨k1, k2, k3, k4⟩
  · have hp : c.csrPerform ⟨w, off, v, 8, some (.agent w.agent (c.csrAddr off))⟩ = (.ok 0,
        (({ c.atWrite off with nrg := n } : Chip).audPush (({ c.atWrite off with nrg := n } : Chip).swBody w (c.csrAddr off) v
          (({ c.atWrite off with nrg := n } : Chip).csrRefuses w off v))).csrAction w off v) := by
      unfold Chip.csrPerform
      simp only [hn, ht, hr, hb, h2, h3, h8]
      simp [hs, Chip.csrRecord, hadr]
    unfold Chip.regWrite Chip.csrWrite Chip.csrArrive
    simp only [hheld, h5, h6, hh, hsel, hp]
    simp [Nat.not_le.2 h4]

/-- The same for every register but TIME_LOAD. -/
theorem Chip.regWrite_runs {c : Chip} {w : Who} {off v : Nat} (h : c.writeRuns w off = true) (h8 : off % 8 = 0) (hs : off ≠ 0xC9C00020)
    (ht : off ≠ 0xCD000008) :
    ∃ c0, Recorded c c0 ∧ c.regWrite w off v
      = (((c0.csrAction w off v).stageKick).outAnswer (.agent w.agent (c.csrAddr off)) 8 (.ok 0)).inPump := by
  have k := Chip.regWrite_runs_at (v := v) h h8 hs
  rwa [Chip.atWrite, if_neg ht] at k

end Sys2Proof.Machine
end

