-- ==== Sys2Proof/Laws/Run.lean ====
section
/-! SUPPORT. Laws/Run.lean: what running a command's effect answers. -/
namespace Sys2Proof.Machine

/-- An effect that leaves the OTP array alone is the whole next state. -/
theorem State.runAlways_eq (s : State) (f : Chip → Chip) (h : (f s.chip).otp = s.chip.otp) :
    s.runAlways f = .next { s with chip := f s.chip } := by
  simp [State.runAlways, h]

/-- While the package is clocked, a command has its effect. -/
theorem State.run_eq (s : State) (f : Chip → Chip) (hh : s.chip.halted = false) (h : (f s.chip).otp = s.chip.otp) :
    s.run f = .next { s with chip := f s.chip } := by
  unfold State.run
  rw [State.runAlways_eq _ _ (by simp [hh, h])]
  simp [hh]

/-- While its clocks are stopped, a command of the clocked part changes nothing. -/
theorem State.run_halted (s : State) (f : Chip → Chip) (hh : s.chip.halted = true) : s.run f = .next s := by
  unfold State.run
  rw [State.runAlways_eq _ _ (by simp [hh])]
  simp [hh]

/-- Running an effect always answers a next state with the same queue. -/
theorem State.runAlways_next (s : State) (f : Chip → Chip) : ∃ c, s.runAlways f = .next { s with chip := c } := ⟨_, rfl⟩

theorem State.run_next (s : State) (f : Chip → Chip) : ∃ c, s.run f = .next { s with chip := c } := ⟨_, rfl⟩

theorem State.runTime_next (s : State) (f : Chip → Chip) : ∃ c, s.runTime f = .next { s with chip := c } := ⟨_, rfl⟩

/-- A package whose clocks stand runs nothing of TIME either, and one that is not halted has its clocks. -/
theorem Chip.halted_of_clockless (c : Chip) (h : c.clockless = true) : c.halted = true := by simp [Chip.halted, h]

theorem Chip.clockless_of_halted (c : Chip) (h : c.halted = false) : c.clockless = false := by
  unfold Chip.halted at h
  cases hc : c.clockless <;> simp_all

/-- While the clocks run, a command of TIME has its effect; while they stand it changes nothing. -/
theorem State.runTime_eq (s : State) (f : Chip → Chip) (hh : s.chip.clockless = false) (h : (f s.chip).otp = s.chip.otp) :
    s.runTime f = .next { s with chip := f s.chip } := by
  unfold State.runTime
  rw [State.runAlways_eq _ _ (by simp [hh, h])]
  simp [hh]

theorem State.runTime_clockless (s : State) (f : Chip → Chip) (hh : s.chip.clockless = true) : s.runTime f = .next s := by
  unfold State.runTime
  rw [State.runAlways_eq _ _ (by simp [hh])]
  simp [hh]

end Sys2Proof.Machine
end

