-- ==== Sys2Proof/Laws/Rows.lean ====
section
/-! SUPPORT. Laws/Rows.lean: the next state of a command that is a software write of one register. -/
namespace Sys2Proof.Machine

/-- A write that goes straight through: the record, the register's effect, the engine, the answer. -/
theorem State.regWrite_run {s : State} {w : Who} {off v : Nat} (h : s.chip.writeRuns w off = true) (h8 : off % 8 = 0) (hs : off ≠ 0xC9C00020) :
    ∃ c0, Recorded (s.chip.atWrite off) c0 ∧ s.run (fun c => c.regWrite w off v)
      = s.runAlways (fun _ => (((c0.csrAction w off v).stageKick).outAnswer (.agent w.agent (s.chip.csrAddr off)) 8 (.ok 0)).inPump) := by
  obtain ⟨c0, h1, h2⟩ := Chip.regWrite_runs_at (v := v) h h8 hs
  refine ⟨c0, h1, ?_⟩
  have : s.chip.halted = false := by
    simp [Chip.writeRuns, Chip.quiet] at h; exact h.1.1.1.1.1.1.1.1.1
  simp [State.run, State.runAlways, this, h2]

/-- Where nothing waits at the ports, they have nothing to do. -/
theorem Chip.inPump_idle {c : Chip} (h : c.inIdle = true) : c.inPump = c := by
  unfold Chip.inPump; simp [h]

/-- What the ports wait for is the same in two packages that agree on them. -/
theorem Chip.inIdle_congr {a b : Chip} (hf : b.fns = a.fns) (hh : b.stage.held = a.stage.held)
    (hg : ∀ p < 8, b.get (Reg.PCI_WIN_SEL.OLD_BUSY p) = a.get (Reg.PCI_WIN_SEL.OLD_BUSY p)) : b.inIdle = a.inIdle := by
  unfold Chip.inIdle Chip.selWaits
  rw [hf, hh]
  congr 1
  rw [Bool.eq_iff_iff]
  simp only [List.all_eq_true, List.mem_range]
  exact ⟨fun k p hp => by have := k p hp; rwa [hg p hp] at this, fun k p hp => by rw [hg p hp]; exact k p hp⟩

/-- Where the effect leaves the engine and the ports alone, the next state is the effect's, with the answer. -/
theorem State.regWrite_next {s : State} {w : Who} {off v : Nat} (h : s.chip.writeRuns w off = true) (h8 : off % 8 = 0) (hs : off ≠ 0xC9C00020)
    (ha : ∀ c0, Recorded (s.chip.atWrite off) c0 → (c0.csrAction w off v).stage = c0.stage ∧ (c0.csrAction w off v).fns = c0.fns
      ∧ (∀ p < 8, (c0.csrAction w off v).get (Reg.PCI_WIN_SEL.OLD_BUSY p) = c0.get (Reg.PCI_WIN_SEL.OLD_BUSY p))
      ∧ (c0.csrAction w off v).otp = c0.otp) :
    ∃ c0, Recorded (s.chip.atWrite off) c0 ∧ s.run (fun c => c.regWrite w off v)
      = .next { s with chip := { (c0.csrAction w off v) with
          replies := (c0.csrAction w off v).replies ++ [⟨w.agent, s.chip.csrAddr off, 0, false, false⟩] } } := by
  obtain ⟨c0, h1, h2⟩ := State.regWrite_run (v := v) h h8 hs
  refine ⟨c0, h1, ?_⟩
  obtain ⟨a1, a2, a3, a4⟩ := ha c0 h1
  have hat : ∃ f k, s.chip.atWrite off = { s.chip with free := f, clk := k } := by
    unfold Chip.atWrite
    split
    · exact ⟨_, _, rfl⟩
    · exact ⟨s.chip.free, s.chip.clk, rfl⟩
  obtain ⟨f, kk, hat⟩ := hat
  have hst : c0.stage = s.chip.stage := by rw [h1.rest, hat]
  have hfn : c0.fns = s.chip.fns := by rw [h1.rest, hat]
  have hot : c0.otp = s.chip.otp := by rw [h1.rest, hat]
  have hold : ∀ p < 8, c0.get (Reg.PCI_WIN_SEL.OLD_BUSY p) = s.chip.get (Reg.PCI_WIN_SEL.OLD_BUSY p) := fun p hp => by
    have k := h1.regs (Reg.PCI_WIN_SEL.OLD_BUSY p) (by
      intro g hg; simp [auditFields] at hg
      rcases hg with rfl|rfl|rfl|rfl|rfl|rfl|rfl|rfl|rfl|rfl|rfl|rfl <;> simp [Reg.PCI_WIN_SEL.OLD_BUSY, mkFld, Reg.AUD_LAST.REC, Reg.AUD_DIGEST.DIGEST, Reg.AUD_SEQ.SEQ, Reg.AUD_STATUS.USED, Reg.AUD_STATUS.STALL, Reg.AUD_STATUS.HW_WAIT] <;> omega)
    rw [k, hat]; rfl
  simp only [Chip.writeRuns, Chip.quiet, Bool.and_eq_true] at h
  have hid : s.chip.inIdle = true := h.1.1.1.1.1.1.1.2
  have e1 : (c0.csrAction w off v).stageKick = c0.csrAction w off v := by
    have hk := h.1.1.1.1.1.1.1.1.2
    simp only [Bool.or_eq_true, bne_iff_ne, ne_eq] at hk
    rcases hk with h0 | h0 <;> simp [Chip.stageKick, a1, hst, h0]
  rw [h2, e1]
  have e2 : ((c0.csrAction w off v).outAnswer (.agent w.agent (s.chip.csrAddr off)) 8 (.ok 0)).inIdle = s.chip.inIdle :=
    Chip.inIdle_congr (by simp [Chip.outAnswer, a2, hfn]) (by simp [Chip.outAnswer, a1, hst])
      (fun p hp => ((a3 p hp).trans (hold p hp)))
  rw [Chip.inPump_idle (e2.trans hid), State.runAlways_eq]
  · rfl
  · simp [Chip.outAnswer, a4, hot]

/-- A register other than TIME_LOAD is met as the package stands. -/
theorem Chip.atWrite_of_ne {c : Chip} {off : Nat} (h : off ≠ 0xCD000008) : c.atWrite off = c := if_neg h

end Sys2Proof.Machine
end

