-- ==== Sys2Proof/WellFormed.lean ====
section
/-! DEFINITION. WellFormed.lean: which commands the wires, registers and messages of the spec can carry: every operand that is a
plain number fits its field. The meanings are total all the same: a number beyond its field is cut where it is stored. -/
namespace Sys2Proof

/-- The asker of an access: a 16-bit agent ID whose bits 1 and 0 are zero (R3), a 12-bit tenant (R279), a master kind and a MASTER field
of 20 bits (R279). -/
def Who.wf (w : Who) : Bool :=
  decide (w.agent < 2 ^ 16) && w.agent % 4 == 0 && decide (w.tenant < 2 ^ 12) && decide (w.kind < 4) && decide (w.master < 2 ^ 20)

/-- An alignment symbol: a package number, a Chainline state and HOPS in their fields (R51, spec/02). -/
def AlignSym.wf (a : AlignSym) : Bool := decide (a.pkg < 8) && decide (a.state < 4) && decide (a.hops < 4)

/-- A message of another package: a class, a line number, tag, agent, tenant and destination in their header fields (R255), data of a
data slot, and a mask only of a WR_NC (R256). -/
def WireMsg.wf (m : WireMsg) : Bool :=
  decide (m.cls < 5) && decide (m.typ < 16) && decide (m.line < 2 ^ 46) && decide (m.tag < 2 ^ 12) && decide (m.agent < 2 ^ 16)
    && decide (m.tenant < 2 ^ 12) && decide (m.yrw < 4) && decide (m.dstPkg < 8) && decide (m.dstDie < 16) && decide (m.master < 2 ^ 20)
    && (m.mask.isNone || m.data.isSome)

/-- A Tandem flit: a SEQ and ACK of a sequence number's width, at most one credit count for each class, well-formed messages, and
errors on 10-bit symbols of the 512 (R252, R269 to R271). -/
def TdmFlit.wf (f : TdmFlit) : Bool :=
  decide (f.seq < 2 ^ 12) && (match f.ack with | some a => decide (a < 2 ^ 12) | none => true) && decide (f.crd.length ≤ 5)
    && (!f.idle || f.msgs.isEmpty) && f.msgs.all WireMsg.wf && f.errs.all (fun e => decide (e.1 < 512) && decide (e.2 < 1024))

/-- A training report: 16 lanes, and a parameter block of the widths of its fields (R273, R274). -/
def TdmReady.wf (r : TdmReady) : Bool :=
  decide (r.bad < 2 ^ 16) && decide (r.pkg < 8) && decide (r.mode < 4) && decide (r.digest < 2 ^ 32) && decide (r.present < 2 ^ 8)

/-- An inbound request: a requester ID of 16 bits, a function entry, a BAR of 0, 2 or 3, an address of 64 bits, 1 to 4,096 bytes, a tag of
14 bits and an error code (R376, R380, R385, R390). -/
def TlpIn.wf (t : TlpIn) : Bool :=
  decide (t.rid < 2 ^ 16) && decide (t.fn ≤ 4096) && (t.bar == 0 || t.bar == 2 || t.bar == 3) && decide (t.addr < 2 ^ 64)
    && decide (1 ≤ t.len) && decide (t.len ≤ 4096) && decide (t.data < 2 ^ (8 * t.len)) && decide (t.tag < 2 ^ 14) && decide (t.err < 4)

/-- The asker of a command that software gives. -/
def Instr.who? : Instr → Option Who
  | .coldReset _ _ => none
  | .warmReset _ _ => none
  | .dieReset _ => none
  | .contextReset _ => none
  | .csrWrite w _ _ => some w
  | .rcRead w _ => some w
  | .csrSubwordAccess w _ _ _ _ => some w
  | .hubRequest => none
  | .doorbell w _ _ => some w
  | .amapLock w _ => some w
  | .rootSynthLock => none
  | .dieSynthLock _ => none
  | .lockLost _ => none
  | .coreDivReq w _ _ => some w
  | .ratioChangeDone _ _ => none
  | .timeLoad w _ => some w
  | .timeRestart => none
  | .calibrationWindowEnd _ => none
  | .chainlineEnable w _ => some w
  | .chainlineDisable w _ => some w
  | .alignmentSymbolSend _ _ => none
  | .alignmentSymbolReceive _ _ _ => none
  | .bundleIssue _ _ => none
  | .fenceComplete _ => none
  | .stringChunk _ => none
  | .serialComplete _ => none
  | .dataReturn _ => none
  | .fetchReturn _ => none
  | .tableWalkDone _ => none
  | .storeQueueDrain _ _ => none
  | .l2Request _ _ => none
  | .l2MissReport _ => none
  | .l3Request _ _ => none
  | .lineFill _ => none
  | .fillRetry _ _ => none
  | .clL2LockWrite w _ _ _ => some w
  | .l2MaintClean w _ _ => some w
  | .l2MaintFlush w _ _ _ => some w
  | .l3MaintClean w _ _ => some w
  | .l3MaintFlush w _ _ => some w
  | .hcMaintClean w => some w
  | .hcMaintFlush w => some w
  | .cacheMaintDone _ _ => none
  | .rangeClean w => some w
  | .rangeFlush w => some w
  | .rangeInval w => some w
  | .l2Disable w _ _ => some w
  | .l2Drained _ _ => none
  | .l2Enable w _ _ => some w
  | .rdS _ _ => none
  | .rdX _ => none
  | .upg _ => none
  | .claim _ => none
  | .rdNc _ => none
  | .wrNc _ => none
  | .maintClean => none
  | .maintFlush => none
  | .maintInval => none
  | .reqRetry _ => none
  | .transactionClose _ => none
  | .wbDirty _ => none
  | .evictClean _ => none
  | .snpS _ => none
  | .snpInv _ => none
  | .snpInvNd _ => none
  | .snpCur _ => none
  | .snpClean _ => none
  | .broadcastSnoopFanout => none
  | .ackI => none
  | .ackS => none
  | .miss => none
  | .inEvict => none
  | .dead => none
  | .grant _ => none
  | .dat _ => none
  | .wbkAck _ => none
  | .snoopTimeout _ _ => none
  | .fwdTimeout _ => none
  | .deliveryTimeout _ => none
  | .answerTimeout _ => none
  | .fence => none
  | .fenceSettle _ => none
  | .unfence => none
  | .tntCmd => none
  | .tntDone => none
  | .ioMark => none
  | .ioAck _ => none
  | .dirProbe w _ _ => some w
  | .mcRead _ => none
  | .mcWrite _ => none
  | .mcReadData _ => none
  | .mcSchedWrite w _ _ => some w
  | .refreshDue _ _ => none
  | .refreshBurst _ _ => none
  | .mr4Poll _ _ => none
  | .postponeMaxWrite w _ _ => some w
  | .mcInit w _ => some w
  | .mcReady w _ => some w
  | .srEnter w _ => some w
  | .srExit w _ => some w
  | .srIdleTimeout _ => none
  | .srStepReady _ => none
  | .srStepTimeout _ => none
  | .mcAlert _ => none
  | .mcCfgLock w _ _ => some w
  | .modeRegisterWrite w _ _ _ _ _ => some w
  | .modeRegisterRead w _ _ _ _ => some w
  | .clockDriverWrite w _ _ _ _ _ => some w
  | .multiPurposeCommand w _ _ _ _ => some w
  | .mrCmdDone _ _ => none
  | .trnWrite w _ _ => some w
  | .trnReadCompare w _ _ => some w
  | .trnWriteRead w _ _ => some w
  | .trnSweep w _ _ => some w
  | .trnDone _ _ => none
  | .pgLineRead _ => none
  | .pgLineWrite _ _ => none
  | .pgCtrlLock w => some w
  | .scrubCheck w => some w
  | .scrubCorrect w => some w
  | .scrubInit w => some w
  | .scrubAbort w => some w
  | .scrubPage => none
  | .spokeFlitReceive _ _ _ _ => none
  | .widthStepReady _ => none
  | .widthStepTimeout _ => none
  | .dieEndSilence _ => none
  | .spokeRetrain w _ => some w
  | .spokeTrainStepReady _ _ _ _ => none
  | .spokeTrainStepTimeout _ => none
  | .tandemFlitReceive _ _ => none
  | .tdmEnable w _ _ => some w
  | .tdmDisable w _ _ => some w
  | .tdmTrain w _ _ => some w
  | .tdmTrainStepReady _ _ => none
  | .tdmTrainStepTimeout _ _ => none
  | .tandemSilence _ => none
  | .routeHoldRelease _ => none
  | .tntCreate w _ _ => some w
  | .tntDestroy w _ => some w
  | .tntFreeze w _ => some w
  | .tntThaw w _ => some w
  | .tntReset w _ => some w
  | .tenantResetStep _ => none
  | .tenantResetStuck _ => none
  | .violationReturn _ => none
  | .svThaw w _ _ _ => some w
  | .svFreeze w _ _ _ => some w
  | .svResetTenant w _ => some w
  | .qcmdEnable w _ => some w
  | .qcmdDisable w _ => some w
  | .qcmdProbe w _ => some w
  | .contextFill _ => none
  | .serviceLaunch _ => none
  | .sqeFetch _ => none
  | .sqeComplete _ _ => none
  | .swap w _ => some w
  | .slotTableWrap _ => none
  | .hqeCtrlWrite w _ => some w
  | .rsvAdd w _ => some w
  | .rsvRemove w _ => some w
  | .windowBoundary _ => none
  | .capacityRecompute _ => none
  | .regEntWrite w _ _ _ => some w
  | .regCtrlWrite w _ => some w
  | .arbitrationRound _ => none
  | .secRgnWrite w _ _ _ _ => some w
  | .wdogEnable w _ _ => some w
  | .wdogKick w _ => some w
  | .wdogExpiry => none
  | .wdogReset _ => none
  | .otpProg w _ => some w
  | .otpProgDone _ => none
  | .auditDrain => none
  | .auditSlotFree => none
  | .dramSinkRestart w => some w
  | .audDigestRead w => some w
  | .sprkCommitN w => some w
  | .sprkCommitS w => some w
  | .sprkCommitDone _ => none
  | .bootStepReady _ => none
  | .recordWaitTimeout => none
  | .seurvCallReturn _ => none
  | .seurvCallTimeout => none
  | .stageLoad w => some w
  | .stageApply w _ => some w
  | .stageDone => none
  | .poolCommitGo w => some w
  | .poolCommitDiscard w => some w
  | .poolCreate w _ _ _ => some w
  | .poolDestroy w _ _ => some w
  | .poolFreeze w _ _ => some w
  | .poolThaw w _ _ => some w
  | .poolReset w _ _ => some w
  | .cfgLockAcq w _ => some w
  | .cfgLockRel w _ => some w
  | .cfgLockBrokenClear w _ => some w
  | .pciCfgWrite w _ _ => some w
  | .pcieLinkUp _ _ _ _ _ _ => none
  | .pcieLinkDown _ _ => none
  | .fcmdEnable w _ _ => some w
  | .fcmdDisable w _ _ => some w
  | .fcmdReset w _ _ => some w
  | .fcmdProbe w _ _ => some w
  | .functionResetDone _ _ => none
  | .mmioAccess w _ _ _ _ => some w
  | .pcieCompletion _ _ _ _ _ => none
  | .completionTimeout _ _ _ => none
  | .tagQuarantineEnd _ _ _ => none
  | .inboundRequest _ _ _ => none
  | .atsTranslationRequest _ _ _ _ _ => none
  | .priPageRequest _ _ _ _ _ _ => none
  | .atsInv w _ _ _ _ => some w
  | .prgResp w _ _ _ _ => some w
  | .xcmdDone _ _ => none
  | .windowBankCommit w _ _ => some w
  | .msixRaise _ => none
  | .msixUnmask _ _ _ => none
  | .sbWakeMatch _ => none
  | .sbReadCommand _ _ _ => none
  | .sbWriteCommand _ _ _ _ => none
  | .sbResultRead _ => none
  | .sbAlertSet w => some w
  | .alertResponse => none
  | .interruptMessage => none
  | .timerCompare _ => none
  | .quantumExpiry _ => none
  | .switchCyclesEnd _ => none
  | .coreCtxStart w _ => some w
  | .coreCtxReset w _ => some w
  | .trapEntry _ => none
  | .c1Entry _ => none
  | .c3Entry _ => none
  | .c3SaveDone _ => none
  | .c3Exit _ => none
  | .pwrClCtrlWrite w _ _ _ => some w
  | .gateClock w _ => some w
  | .gatePower w _ => some w
  | .gateUngate w _ => some w
  | .tempSample _ _ _ => none
  | .freewheel w => some w
  | .freewheelAbort w => some w
  | .secAck w => some w
  | .fwEntryStepReady => none
  | .fwEntryStepTimeout => none
  | .wakeTimerExpiry => none
  | .wakeNFall => none
  | .wakeStepReady _ => none
  | .wakeStepTimeout _ _ => none
  | .wakeRetry => none
  | .counterRead w _ => some w
  | .counterWrite w _ _ => some w
  | .sampleClose _ => none
  | .latchEdge => none
  | .snapshotWrite => none
  | .epochEnd _ => none
  | .epochCredit => none
  | .phaseSelfCheckFail _ => none
  | .aonOkRise => none
  | .brownOut _ _ => none
  | .flashOwnChange _ => none
  | .tapBypass _ => none
  | .tapIdcode _ => none
  | .tapSamplePreload _ _ => none
  | .tapExtest _ => none
  | .tapClamp => none
  | .tapHighz => none
  | .tapDebug => none
  | .debugRead _ _ => none
  | .debugWrite _ _ _ => none
  | .debugAccessDone => none
  | .timeTick => none
  | .crystalEdge => none
  | .executionUnitResult _ _ => none
  | .dramCommandIssue _ _ _ => none
  | .rowCloseIdle _ _ _ => none
  | .i3cAddressAssign _ => none
  | .tapTestReset => none
  | .gateComplete => none
  | .perstN _ _ => none
  | .debugUpdate _ => none
/-- Is a command one that its wires can carry? -/
def Instr.wf (i : Instr) : Bool :=
  (match i.who? with | some w => w.wf | none => true) &&
  match i with
  | .alignmentSymbolSend _ sub => decide (sub < 16)
  | .alignmentSymbolReceive _ sym sub => sym.wf && decide (sub < 16)
  | .csrSubwordAccess _ _ size _ _ => size == 1 || size == 2 || size == 4
  | .trnDone _ errs => errs.all (fun e => decide (e.2 < 2 ^ 16))
  | .spokeFlitReceive _ _ _ errs => errs.all (fun e => decide (e.1 < 512))
  | .tandemFlitReceive _ f => f.wf
  | .tdmTrainStepReady _ r => r.wf
  | .pcieCompletion _ _ _ _ data => decide (data < 2 ^ (8 * 4096))
  | .inboundRequest _ _ t => t.wf
  | .coldReset _ _ | .warmReset _ _ | .dieReset _ | .contextReset _ | .csrWrite _ _ _ | .rcRead _ _ | .hubRequest
  | .doorbell _ _ _ | .amapLock _ _ | .rootSynthLock | .dieSynthLock _ | .lockLost _ | .coreDivReq _ _ _
  | .ratioChangeDone _ _ | .timeLoad _ _ | .timeRestart | .calibrationWindowEnd _ | .chainlineEnable _ _
  | .chainlineDisable _ _ | .bundleIssue _ _ | .fenceComplete _ | .stringChunk _ | .serialComplete _ | .dataReturn _
  | .fetchReturn _ | .tableWalkDone _ | .storeQueueDrain _ _ | .l2Request _ _ | .l2MissReport _ | .l3Request _ _
  | .lineFill _ | .fillRetry _ _ | .clL2LockWrite _ _ _ _ | .l2MaintClean _ _ _ | .l2MaintFlush _ _ _ _
  | .l3MaintClean _ _ _ | .l3MaintFlush _ _ _ | .hcMaintClean _ | .hcMaintFlush _ | .cacheMaintDone _ _ | .rangeClean _
  | .rangeFlush _ | .rangeInval _ | .l2Disable _ _ _ | .l2Drained _ _ | .l2Enable _ _ _ | .rdS _ _ | .rdX _ | .upg _
  | .claim _ | .rdNc _ | .wrNc _ | .maintClean | .maintFlush | .maintInval | .reqRetry _ | .transactionClose _
  | .wbDirty _ | .evictClean _ | .snpS _ | .snpInv _ | .snpInvNd _ | .snpCur _ | .snpClean _ | .broadcastSnoopFanout
  | .ackI | .ackS | .miss | .inEvict | .dead | .grant _ | .dat _ | .wbkAck _ | .snoopTimeout _ _ | .fwdTimeout _
  | .deliveryTimeout _ | .answerTimeout _ | .fence | .fenceSettle _ | .unfence | .tntCmd | .tntDone | .ioMark
  | .ioAck _ | .dirProbe _ _ _ | .mcRead _ | .mcWrite _ | .mcReadData _ | .mcSchedWrite _ _ _ | .refreshDue _ _
  | .refreshBurst _ _ | .mr4Poll _ _ | .postponeMaxWrite _ _ _ | .mcInit _ _ | .mcReady _ _ | .srEnter _ _
  | .srExit _ _ | .srIdleTimeout _ | .srStepReady _ | .srStepTimeout _ | .mcAlert _ | .mcCfgLock _ _ _
  | .modeRegisterWrite _ _ _ _ _ _ | .modeRegisterRead _ _ _ _ _ | .clockDriverWrite _ _ _ _ _ _
  | .multiPurposeCommand _ _ _ _ _ | .mrCmdDone _ _ | .trnWrite _ _ _ | .trnReadCompare _ _ _ | .trnWriteRead _ _ _
  | .trnSweep _ _ _ | .pgLineRead _ | .pgLineWrite _ _ | .pgCtrlLock _ | .scrubCheck _ | .scrubCorrect _ | .scrubInit _
  | .scrubAbort _ | .scrubPage | .widthStepReady _ | .widthStepTimeout _ | .dieEndSilence _ | .spokeRetrain _ _
  | .spokeTrainStepReady _ _ _ _ | .spokeTrainStepTimeout _ | .tdmEnable _ _ _ | .tdmDisable _ _ _ | .tdmTrain _ _ _
  | .tdmTrainStepTimeout _ _ | .tandemSilence _ | .routeHoldRelease _ | .tntCreate _ _ _ | .tntDestroy _ _
  | .tntFreeze _ _ | .tntThaw _ _ | .tntReset _ _ | .tenantResetStep _ | .tenantResetStuck _ | .violationReturn _
  | .svThaw _ _ _ _ | .svFreeze _ _ _ _ | .svResetTenant _ _ | .qcmdEnable _ _ | .qcmdDisable _ _ | .qcmdProbe _ _
  | .contextFill _ | .serviceLaunch _ | .sqeFetch _ | .sqeComplete _ _ | .swap _ _ | .slotTableWrap _
  | .hqeCtrlWrite _ _ | .rsvAdd _ _ | .rsvRemove _ _ | .windowBoundary _ | .capacityRecompute _ | .regEntWrite _ _ _ _
  | .regCtrlWrite _ _ | .arbitrationRound _ | .secRgnWrite _ _ _ _ _ | .wdogEnable _ _ _ | .wdogKick _ _ | .wdogExpiry
  | .wdogReset _ | .otpProg _ _ | .otpProgDone _ | .auditDrain | .auditSlotFree | .dramSinkRestart _ | .audDigestRead _
  | .sprkCommitN _ | .sprkCommitS _ | .sprkCommitDone _ | .bootStepReady _ | .recordWaitTimeout | .seurvCallReturn _
  | .seurvCallTimeout | .stageLoad _ | .stageApply _ _ | .stageDone | .poolCommitGo _ | .poolCommitDiscard _
  | .poolCreate _ _ _ _ | .poolDestroy _ _ _ | .poolFreeze _ _ _ | .poolThaw _ _ _ | .poolReset _ _ _ | .cfgLockAcq _ _
  | .cfgLockRel _ _ | .cfgLockBrokenClear _ _ | .pciCfgWrite _ _ _ | .pcieLinkUp _ _ _ _ _ _ | .pcieLinkDown _ _
  | .fcmdEnable _ _ _ | .fcmdDisable _ _ _ | .fcmdReset _ _ _ | .fcmdProbe _ _ _ | .functionResetDone _ _
  | .mmioAccess _ _ _ _ _ | .completionTimeout _ _ _ | .tagQuarantineEnd _ _ _ | .atsTranslationRequest _ _ _ _ _
  | .priPageRequest _ _ _ _ _ _ | .atsInv _ _ _ _ _ | .prgResp _ _ _ _ _ | .xcmdDone _ _ | .windowBankCommit _ _ _
  | .msixRaise _ | .msixUnmask _ _ _ | .sbWakeMatch _ | .sbReadCommand _ _ _ | .sbWriteCommand _ _ _ _
  | .sbResultRead _ | .sbAlertSet _ | .alertResponse | .interruptMessage | .timerCompare _ | .quantumExpiry _
  | .switchCyclesEnd _ | .coreCtxStart _ _ | .coreCtxReset _ _ | .trapEntry _ | .c1Entry _ | .c3Entry _ | .c3SaveDone _
  | .c3Exit _ | .pwrClCtrlWrite _ _ _ _ | .gateClock _ _ | .gatePower _ _ | .gateUngate _ _ | .tempSample _ _ _
  | .freewheel _ | .freewheelAbort _ | .secAck _ | .fwEntryStepReady | .fwEntryStepTimeout | .wakeTimerExpiry
  | .wakeNFall | .wakeStepReady _ | .wakeStepTimeout _ _ | .wakeRetry | .counterRead _ _ | .counterWrite _ _ _
  | .sampleClose _ | .latchEdge | .snapshotWrite | .epochEnd _ | .epochCredit | .phaseSelfCheckFail _ | .aonOkRise
  | .brownOut _ _ | .flashOwnChange _ | .tapBypass _ | .tapIdcode _ | .tapSamplePreload _ _ | .tapExtest _ | .tapClamp
  | .tapHighz | .tapDebug | .debugRead _ _ | .debugWrite _ _ _ | .debugAccessDone | .timeTick | .crystalEdge
  | .executionUnitResult _ _ | .dramCommandIssue _ _ _ | .rowCloseIdle _ _ _ | .i3cAddressAssign _ | .tapTestReset
  | .gateComplete | .perstN _ _ | .debugUpdate _ => true
end Sys2Proof
end

