-- ==== Sys2Proof/Tests/Slice0.lean ====
section
/-! SUPPORT. Tests/Slice0.lean: the smoke test of well-formedness, small tests of one step each against the spec's own examples, and for
every statement of Certificates/Slice0/Obligations.lean a witness: concrete states and operands that meet the hypotheses of each of its
clauses. -/
open Sys2Proof Sys2Proof.Machine
namespace Sys2Proof.Tests
set_option Elab.async false

/-- A state of the package after reset with some fields changed, and then some other part. -/
def st (l : List (Fld × Nat)) (f : Chip → Chip := id) : State := { State.reset with chip := f (State.reset.chip.puts l) }

/-- The Secure world of tenant 0 at context 0, and the Normal world. -/
def sec : Who := ⟨0, 0, true, 0, 0⟩
def nor : Who := ⟨0, 0, false, 0, 0⟩

/-- Do writes of these registers go straight through in a state? -/
def runs (s : State) (l : List Fld) : Bool := l.all (fun f => s.chip.writeRuns sec f.off)

/-! ### Clocks (spec/02) -/

theorem test_wit_SynthesizersAndRatios :
    ((st []).chip.halted = false ∧ (st []).chip.clk.needRecon = false)
    ∧ (st [(Reg.HUB_CLK_STATUS.ROOT_LOCK, 1)]).chip.on Reg.HUB_CLK_STATUS.ROOT_LOCK = true
    ∧ runs (st []) [Reg.HUB_CORE_DIV.REQ 0, Reg.HUB_CORE_DIV.REQ 11] = true
    ∧ (st [(Reg.HUB_CORE_DIV.BUSY 11, 16)]).chip.bitOf (Reg.HUB_CORE_DIV.BUSY 11) 4 = true := by decide +kernel

/-- TIME runs, and a calibration window of 2^18 periods is complete. -/
def ticking : State := st [(Reg.TIME_STATUS.VALID, 1)] (fun c => { c with clk := { c.clk with calOpen := true, calEdges := 262144 } })

theorem test_wit_TimeCounts :
    (ticking.chip.halted = false ∧ ticking.chip.on Reg.TIME_STATUS.VALID = true ∧ ticking.chip.on Reg.SEC_WDOG_CTRL.EN = false)
    ∧ (ticking.chip.pwr.aonOk = true ∧ ticking.chip.pwr.asleep = false ∧ ticking.chip.entering = false)
    ∧ (ticking.chip.clk.calOpen = true ∧ 2 ^ ticking.chip.clk.calLen ≤ ticking.chip.clk.calEdges)
    ∧ (runs (st []) [Reg.TIME_LOAD.VALUE] = true ∧ (st []).chip.get Reg.TIME_CL_STATUS.STATE = 0 ∧ (st []).chip.timeNow.1 = 0)
    ∧ (let s := st [(Reg.HUB_CLK_STATUS.ROOT_LOCK, 1), (Reg.HUB_CLK_STATUS.DIE_LOCK, 0x800)]
        (fun c => { c with clk := { c.clk with needRecon := true, needLock := 0x800, atEdge := true } });
      s.chip.halted = false ∧ s.chip.clk.needRecon = true ∧ s.chip.relocked = true ∧ s.chip.clk.atEdge = true ∧ s.chip.fatalErr = false) := by decide +kernel

/-- Chainline is locked at its root, with port 5 enabled and up. -/
def chained : State := st [(Reg.TIME_CL_CTRL.EN, 1), (Reg.TIME_CL_CTRL.PORT_EN, 63), (Reg.TIME_CL_STATUS.STATE, 2), (Reg.TIME_CL_STATUS.SRC_PORT, 7), (Reg.TDM_STATUS.STATE 5, 2)]

theorem test_wit_ChainlineRuns :
    (runs (st []) [Reg.TIME_CL_CTRL.EN] = true ∧ (st []).chip.on Reg.TIME_CL_CTRL.EN = false ∧ (st []).chip.clk.fresh = false
      ∧ bits 1 1 3 = (st []).chip.pkg)
    ∧ chained.chip.halted = false ∧ chained.chip.get Reg.TIME_CL_STATUS.STATE = clLocked ∧ chained.chip.bitOf Reg.TIME_CL_CTRL.PORT_EN 5 = true
    ∧ chained.chip.clCarries 5 = true ∧ chained.chip.get Reg.TIME_CL_CTRL.ROOT = chained.chip.pkg
    ∧ chained.chip.get Reg.TIME_CL_STATUS.SRC_PORT = 7 ∧ SMap.get? (chained.chip.clPort 5).t1 3 = none
    ∧ (let s : State := { chained with chip := { chained.chip with
        clk := { chained.chip.clk with ports := [(5, { PortTime.none with t1 := [(3, 7)] })] } } };
      SMap.get? (s.chip.clPort 5).t1 3 = some 7 ∧ s.chip.clCarries 5 = true ∧ s.chip.get Reg.TIME_CL_STATUS.STATE = clLocked) := by decide +kernel

/-! ### Caches and coherence (spec/06, spec/07) -/

/-- Line 0 of the address space with every right. -/
def cl0 : CLine := { line := 0, st := .s, ld := ⟨7#512, false⟩, age := 2, tenant := 0, secure := true, rights := 7, yrw := 0, pres := 1, last := 0, flaw := 0 }

/-- A load of context 0 at a stage. -/
def op0 (g : AStage) : LineOp :=
  { id := 1, ctx := 0, kind := .load, line := 0, whole := false, tenant := 0, secure := true, yrw := 0, lvlH := false, stage := g, missed := true,
    reported := false, res := none, grant := .i, rights := 0, bus := false, src := 0, lmq := .none }

/-- The package with its caches and transactions changed. -/
def stc (l : List (Fld × Nat)) (f : CohSt → CohSt) : State := st l (fun c => { c with coh := f c.coh })

theorem test_wit_LineAccessesMoveThroughCaches :
    (let s := stc [(Reg.CL_L2_CTRL.EN 0 0, 1)] (fun h => { h with ops := [op0 .toL2], l2 := [(0, cl0)] });
      s.chip.halted = false ∧ s.chip.opOf 1 = some (op0 .toL2) ∧ s.chip.l2On 0 = true ∧ s.chip.l2Find (cluIx 0) 0 = some (0, cl0)
        ∧ cl0.flaw = 0 ∧ (op0 .toL2).lmq ≠ .waits ∧ cl0.serves 0 true AKind.load.needs = true)
    ∧ (let s := stc [] (fun h => { h with ops := [op0 .toL3] });
      s.chip.halted = false ∧ s.chip.opOf 1 = some (op0 .toL3) ∧ s.chip.l3Busy (ctxDie 0) 0 = false ∧ s.chip.l3Find (ctxDie 0) 0 = none
        ∧ s.chip.ratioBusy (cluIx 0) = false ∧ (s.chip.l3Idx (20 * ctxDie 0 + l3Slice (64 * 0))).isSome = true
        ∧ (∀ cl < 5, s.chip.l2Find (5 * ctxDie 0 + cl) 0 = none))
    ∧ (let s := stc [(Reg.CL_L2_CTRL.EN 0 0, 1)] (fun h => { h with ops := [op0 .l1Fill], l2 := [(0, cl0)] });
      s.chip.halted = false ∧ s.chip.opOf 1 = some (op0 .l1Fill) ∧ s.chip.l2On 0 = true ∧ s.chip.l2Find (cluIx 0) 0 = some (0, cl0)
        ∧ s.chip.ratioBusy (cluIx 0) = false ∧ (s.chip.l1Fill false (coreIx 0) { cl0 with age := 0, st := .s, flaw := 0 }).isSome = true) := by decide +kernel

/-- A snoop of line 0 with tag 5, and an answer to it from die 11 of this package. -/
def snp (typ : Nat) : Msg := { Msg.mk0 clsSnp typ 0 with tag := 5 }
def rsp (typ : Nat) : Msg := { Msg.mk0 clsRsp typ 0 with agent := agentOf 0 11 0 0 0 }

theorem test_wit_SnoopsAreAnswered :
    (∀ p ∈ [tSnpS, tSnpInv, tSnpInvNd, tSnpCur, tSnpClean], let s := stc [] (fun h => { h with dieIn := [(11, snp p)] });
      s.chip.halted = false ∧ (s.chip.takeDie 11 (fun m => m.cls == clsSnp && m.typ == p)).map (·.1) = some (snp p)
        ∧ s.chip.l3Find 11 0 = none ∧ (∀ cl < 5, s.chip.l2Find (5 * 11 + cl) 0 = none) ∧ s.chip.l3Busy 11 0 = false)
    ∧ (let s := stc [] (fun h => { h with dieIn := [(0, snp tSnpInv)], l3 := [(0, cl0)] });
      s.chip.halted = false ∧ (s.chip.takeDie 0 (fun m => m.cls == clsSnp && m.typ == tSnpInv)).map (·.1) = some (snp tSnpInv)
        ∧ s.chip.l3Find 0 0 = some (0, cl0) ∧ cl0.st = .s ∧ cl0.flaw = 0 ∧ (∀ cl < 5, s.chip.l2Find (5 * 0 + cl) 0 = none) ∧ s.chip.l3Busy 0 0 = false
        ∧ s.chip.ratioHeld 0 0 = false) := by
  decide +kernel

/-- A request of die 11 for line 0. -/
def req (typ : Nat) : Msg := { Msg.mk0 clsReq typ 0 with agent := agentOf 0 11 0 0 0 }

theorem test_wit_HomeServesUnheldLine :
    ∀ p ∈ [tRdS, tRdX, tUpg, tClaim, tRdNc, tWrNc], let s := stc [] (fun h => { h with homeQ := [req p], hc := [(0, cl0)] });
      s.chip.halted = false ∧ s.chip.lineBusy 0 = false ∧ takeMsg (fun m => m.line == 0) s.chip.coh.homeQ = some (req p, [])
        ∧ (s.chip.homeTake p 0).isSome = true ∧ s.chip.dirFind 0 = none ∧ s.chip.dirFull 0 = false ∧ s.chip.hcWaitOf 0 = none
        ∧ s.chip.hcFind 0 = some (0, cl0) ∧ cl0.ld.poison = false ∧ cl0.flaw = 0
        ∧ agPkg (req p).agent = s.chip.pkg ∧ agDie (req p).agent < 12 ∧ s.chip.fencedDie s.chip.pkg (agDie (req p).agent) = false
        ∧ (req p).cls = clsReq ∧ (req p).mask = none := by decide +kernel

/-- A transaction on line 0 with snoops to dies 11 and 10. -/
def tx0 : Tx := { Tx.new 0 (req tRdX) with snoops := [⟨false, mkClu 0 11 0, 0, 0⟩, ⟨false, mkClu 0 10 0, 0, 0⟩] }

theorem test_wit_TransactionsEnd :
    (let s := stc [] (fun h => { h with retryQ := [req tRdS] });
      s.chip.halted = false ∧ takeMsg (fun m => m.line == 0) s.chip.coh.retryQ = some (req tRdS, []) ∧ SMap.get? s.chip.coh.dir (dirBase 0 + 15) = none)
    ∧ (let s := stc [] (fun h => { h with txs := [{ tx0 with done := true }] });
      s.chip.halted = false ∧ (s.chip.txOf 0).map (·.done) = some true ∧ (s.chip.txOf 0).map (·.victim) = some false ∧ s.chip.coh.range = none
        ∧ (s.chip.txOf 0).map s.chip.writeOpen = some false)
    ∧ (∀ p ∈ [0, 1], let m : Msg := { Msg.mk0 clsWbk p 0 with agent := agentOf 0 11 0 0 0 };
      let e : DirEnt := ⟨0, dX, false, false, [mkClu 0 11 0], 0⟩;
      let s := stc [] (fun h => { h with homeQ := [m], hc := [(0, cl0)], dir := [(0, e)] });
      s.chip.halted = false ∧ s.chip.coh.evTags = [] ∧ s.chip.buffered 0 = true ∧ m.old = false ∧ cl0.flaw = 0 ∧ s.chip.txOpenOn 0 = false ∧ s.chip.dirFind 0 = some (0, e) ∧ e.ptrs = [cluOf m.agent]
        ∧ s.chip.hcFind 0 = some (0, cl0) ∧ agPkg m.agent = s.chip.pkg ∧ agDie m.agent < 12 ∧ s.chip.fencedDie s.chip.pkg (agDie m.agent) = false
        ∧ takeMsg (fun m => m.cls == clsWbk && m.typ == p && m.line == 0) s.chip.coh.homeQ = some (m, []))
    ∧ (let s := stc [] (fun h => { h with dieIn := [(11, rsp tWbkAck)] });
      s.chip.halted = false ∧ ((s.chip.takeDie 11 (fun m => m.cls == clsRsp && m.typ == tWbkAck)).map (·.1)) = some (rsp tWbkAck)) := by decide +kernel

theorem test_wit_AnswersReachTheirTransaction :
    (∀ p ∈ [tAckI, tAckS, tMiss, tInEvict], let s := stc [] (fun h => { h with hubIn := [rsp p], txs := [tx0] });
      s.chip.halted = false ∧ s.chip.fromFenced (rsp p) = false ∧ s.chip.ownLine 0 = true ∧ s.chip.txOf 0 = some tx0
        ∧ tx0.snoops.any (snoopFrom (rsp p).agent) = true ∧ tx0.snoops.all (snoopFrom (rsp p).agent) = false
        ∧ (s.chip.takeHub (fun m => m.cls == clsRsp && m.typ == p)).map (·.1) = some (rsp p)
        ∧ (rsp p).dirty = false ∧ s.chip.coh.homeQ = [] ∧ s.chip.coh.evTags.any (isTag 0 (rsp p).agent (rsp p).aux) = false ∧ s.chip.coh.hubIn.all (fun n => !n.dirty) = true)
    ∧ (let m : Msg := { snp tSnpInv with aux := mkClu 1 3 0 };
      let s := stc [] (fun h => { h with hubIn := [m] });
      s.chip.halted = false ∧ (s.chip.takeHub (fun m => m.cls == clsSnp)).map (·.1) = some m ∧ s.chip.diePresent 11 = true
        ∧ s.chip.fencedDie s.chip.pkg 11 = false ∧ sameDie (mkClu s.chip.pkg 11 0) (m.aux % 1024) = false) := by decide +kernel

theorem test_wit_DeadTargetsAreFenced :
    (let x := { tx0 with snoops := [⟨true, 7, 0, 0⟩, ⟨false, mkClu 0 10 0, 0, 0⟩], poisoned := true };
      let s := stc [] (fun h => { h with txs := [x] });
      s.chip.halted = false ∧ s.chip.txOf 0 = some x ∧ x.snoops[0]? = some ⟨true, 7, 0, 0⟩ ∧ 2 ≤ x.snoops.length
        ∧ s.chip.on (Reg.DIR_DEAD_ADDR.VALID 0) = false ∧ s.chip.fencedPkg 7 = false ∧ s.chip.coh.away = [] ∧ s.chip.heldFor 7 = [])
    ∧ (let m : Msg := { Msg.mk0 clsRsp tDead 0 with agent := agentOf 7 12 0 0 0, aux := mkClu 7 11 0 };
      let x := { tx0 with snoops := [⟨false, mkClu 7 12 0, 0, 0⟩, ⟨false, mkClu 0 10 0, 0, 0⟩], poisoned := true };
      let s := stc [] (fun h => { h with hubIn := [m], txs := [x] });
      s.chip.halted = false ∧ (s.chip.takeHub (fun m => m.cls == clsRsp && m.typ == tDead)).map (·.1) = some m ∧ s.chip.fromFenced m = false
        ∧ s.chip.txOf m.line = some x ∧ x.snoops.find? (snoopFrom m.agent) = some ⟨false, mkClu 7 12 0, 0, 0⟩ ∧ 2 ≤ x.snoops.length
        ∧ cluPkg (m.aux % 1024) ≠ s.chip.pkg ∧ cluDie (m.aux % 1024) < 12)
    ∧ (let s := stc [] (fun h => { h with fans := [⟨snp tSnpInv, [11], 0⟩] });
      s.chip.halted = false ∧ s.chip.coh.fans[0]? = some ⟨snp tSnpInv, [11], 0⟩)
    ∧ (let s := stc [] (fun h => { h with away := [⟨req tRdS, 7, false, 0⟩] });
      s.chip.halted = false ∧ s.chip.coh.away[0]? = some ⟨req tRdS, 7, false, 0⟩ ∧ (req tRdS).cls = clsReq ∧ agPkg (req tRdS).agent = s.chip.pkg
        ∧ agDie (req tRdS).agent < 12 ∧ s.chip.fencedDie s.chip.pkg (agDie (req tRdS).agent) = false)
    ∧ (let m : Msg := { Msg.mk0 clsReq tRdNc 0 with agent := hubAgent 0 0 0 };
      let s := stc [] (fun h => { h with away := [⟨m, 7, true, 0⟩] });
      s.chip.halted = false ∧ s.chip.coh.away = [⟨m, 7, true, 0⟩] ∧ 12 ≤ agDie m.agent ∧ s.chip.on (Reg.DIR_DEAD_ADDR.VALID 0) = false
        ∧ agPkg m.agent = s.chip.pkg ∧ s.chip.heldFor 7 = [])
    ∧ (∀ p ∈ [tFence, tUnfence], let m : Msg := { Msg.mk0 clsRsp p 0 with aux := mkClu 7 11 0 };
      let s := stc [] (fun h => { h with hubIn := [m] });
      s.chip.halted = false ∧ cluPkg m.aux ≠ s.chip.pkg ∧ cluDie m.aux < 12
        ∧ (s.chip.takeHub (fun m => m.cls == clsRsp && m.typ == p && (cluPkg m.aux == s.chip.pkg || !s.chip.dirNames (cluPkg m.aux) (cluDie m.aux)))).map (·.1)
          = some m)
    ∧ (let e : DirEnt := ⟨0, dP, false, true, [mkClu 7 11 0, mkClu 0 1 0], 0⟩;
      let s := stc [(Reg.DIR_FENCE.DIE 0 7, 0x800)] (fun h => { h with dir := [(0, e)] });
      s.chip.halted = false ∧ s.chip.dirFind 0 = some (0, e) ∧ s.chip.namesFenced e = true ∧ s.chip.lineBusy 0 = false
        ∧ s.chip.ownerFenced e = false ∧ (∀ d < 12, (s.chip.spkOf d).rejoin = 0)) := by decide +kernel

theorem test_wit_RangeOperationsWalk :
    (runs (st []) [Reg.HC_RANGE_CMD.OP] = true ∧ (st []).chip.on Reg.HC_RANGE_STATUS.BUSY = false
      ∧ (st []).chip.rangeOk 0 0 = false ∧ (st [(Reg.HUB_AMAP_DRAM.SIZE, 1)]).chip.rangeOk 0 (2 ^ 28) = true)
    ∧ (∀ p ∈ [1, 2, 3], let r : RangeOp := ⟨0, 1, p, sec, false⟩;
      let s := stc [] (fun h => { h with range := some r });
      s.chip.halted = false ∧ s.chip.coh.range = some r ∧ s.chip.lineBusy 0 = false ∧ (s.chip.rgnCheck (s.chip.checkerOf 0) 0 sec rightW).ok = true
        ∧ s.chip.dirFind 0 = none ∧ s.chip.hcFind 0 = none ∧ s.chip.hcWaitOf 0 = none ∧ s.chip.coh.homeQ = [])
    ∧ (runs (st []) [Reg.DIR_PROBE.ADDR 0, Reg.DIR_PROBE.ADDR 15] = true ∧ (st []).chip.ownLine 0 = true ∧ homeSlice (64 * 0) = 0
      ∧ homeSlice (64 * 1) ≠ 0) := by decide +kernel

theorem test_wit_CacheOperationsRun :
    (runs (st []) [Reg.CL_L2_LOCK.WAYS 0 0, Reg.CL_L2_LOCK.WAYS 11 4, Reg.CL_L2_MAINT.OP 11 4, Reg.L3_CTRL.MAINT 11 19, Reg.HC_MAINT_CMD.OP,
        Reg.CL_L2_CTRL.EN 11 4] = true
      ∧ 8 < ((List.range 16).filter (fun i => bit 0x1FF i)).length ∧ ((List.range 16).filter (fun i => bit 0xFF i)).length ≤ 8)
    ∧ ((st []).chip.on (Reg.CL_L2_STATUS.MBUSY 11 4) = false ∧ (st []).chip.l2Lines 59 = []
      ∧ (st []).chip.on (Reg.L3_STATUS.MBUSY 11 19) = false ∧ (st []).chip.l3Lines 11 19 = []
      ∧ (st []).chip.on Reg.HC_STATUS.MBUSY = false ∧ (st []).chip.coh.hc = [] ∧ (st []).chip.coh.hcFills = [] ∧ (st []).chip.coh.maint = [])
    ∧ (let s := stc [] (fun h => { h with maint := [⟨3, 239, true, false, []⟩] });
      s.chip.halted = false ∧ s.chip.coh.maint.any (fun m => m.level == 3 && m.unit == 20 * 11 + 19) = true)
    ∧ ((st []).chip.on (Reg.CL_L2_CTRL.EN 11 4) = true
      ∧ (st [(Reg.CL_L2_CTRL.EN 11 4, 0)]).chip.on (Reg.CL_L2_CTRL.EN 11 4) = false
      ∧ (st [(Reg.CL_L2_CTRL.EN 11 4, 0)]).chip.on (Reg.CL_L2_STATUS.BUSY 11 4) = false
      ∧ runs (st [(Reg.CL_L2_CTRL.EN 11 4, 0)]) [Reg.CL_L2_CTRL.EN 11 4] = true)
    ∧ (let s := st [(Reg.CL_L2_STATUS.BUSY 11 4, 1)];
      s.chip.halted = false ∧ s.chip.on (Reg.CL_L2_STATUS.BUSY 11 4) = true ∧ s.chip.coh.drains = [] ∧ s.chip.coh.reEnable = []) := by decide +kernel

/-- Line 0 dirty in the last L2 of die 11, with its L3 line. -/
def dirty59 (l : List (Fld × Nat)) (f : CohSt → CohSt := id) : State :=
  stc l (fun h => f { h with l2 := [(l2Base 59 0 + 15, { cl0 with st := .m })], l3 := [(l3Base 11 0, cl0)] })

theorem test_wit_CacheOperationsMoveLines_L2 :
    (∀ locked ∈ [0, 0x8000], let s := dirty59 [(Reg.CL_L2_LOCK.WAYS 11 4, locked)];
      runs s [Reg.CL_L2_MAINT.OP 11 4, Reg.CL_L2_CTRL.EN 11 4] = true ∧ s.chip.on (Reg.CL_L2_STATUS.MBUSY 11 4) = false
        ∧ s.chip.on (Reg.CL_L2_CTRL.EN 11 4) = true ∧ s.chip.l2Find 59 0 = some (l2Base 59 0 + 15, { cl0 with st := .m })
        ∧ s.chip.l3Find 11 0 = some (l3Base 11 0, cl0) ∧ (s.chip.l3Idx (20 * 11 + l3Slice (64 * 0))).isSome = true
        ∧ s.chip.wayLocked 59 (l2Base 59 0 + 15) = (locked != 0))
    ∧ (let s := stc [] (fun h => { h with maint := [⟨2, 59, true, true, []⟩] });
      s.chip.halted = false ∧ s.chip.coh.maint.any (fun m => m.level == 2 && m.unit == 59) = true)
    ∧ (let s := st [(Reg.CL_L2_CTRL.EN 11 4, 0), (Reg.CL_L2_STATUS.BUSY 11 4, 1)];
      runs s [Reg.CL_L2_CTRL.EN 11 4] = true ∧ s.chip.on (Reg.CL_L2_CTRL.EN 11 4) = false ∧ s.chip.on (Reg.CL_L2_STATUS.BUSY 11 4) = true)
    ∧ (let b : L3Wb := ⟨220, 0, 0, ⟨7#512, false⟩, true, 0, 0⟩;
      let s := stc [(Reg.CL_L2_STATUS.BUSY 11 4, 1)] (fun h => { h with drains := [(59, 0)], reEnable := [59], l3wbs := [b] });
      s.chip.halted = false ∧ s.chip.on (Reg.CL_L2_STATUS.BUSY 11 4) = true ∧ s.chip.coh.drains = [(59, 0)] ∧ b ∈ s.chip.coh.l3wbs ∧ b.slice / 20 = 11)
    ∧ (let s := stc [(Reg.CL_L2_STATUS.BUSY 11 4, 1)] (fun h => { h with reEnable := [59] });
      s.chip.coh.drains = [] ∧ 59 ∈ s.chip.coh.reEnable ∧ s.chip.on (Reg.CL_L2_STATUS.BUSY 11 4) = true) := by decide +kernel

theorem test_wit_CacheOperationsMoveLines :
    (let s := stc [] (fun h => { h with l3 := [(l3Base 11 0, { cl0 with st := .m })] });
      runs s [Reg.L3_CTRL.MAINT 11 (l3Slice 0)] = true ∧ s.chip.on (Reg.L3_STATUS.MBUSY 11 (l3Slice 0)) = false ∧ s.chip.coh.l2 = []
        ∧ s.chip.l3Find 11 0 = some (l3Base 11 0, { cl0 with st := .m }) ∧ l3Slice (64 * 0) = l3Slice 0 ∧ s.chip.l3Busy 11 0 = false ∧ s.chip.ratioHeld 11 0 = false
        ∧ (s.chip.l3Idx (20 * 11 + l3Slice 0)).isSome = true)
    ∧ (let s := stc [(Reg.HC_MAINT_BANKS.BANKS, 2 ^ 64 - 1)] (fun h => { h with hc := [(hcBase 0, { cl0 with st := .m })] });
      runs s [Reg.HC_MAINT_CMD.OP] = true ∧ s.chip.on Reg.HC_STATUS.MBUSY = false ∧ s.chip.coh.hcFills = []
        ∧ s.chip.hcFind 0 = some (hcBase 0, { cl0 with st := .m }) ∧ bit (s.chip.get Reg.HC_MAINT_BANKS.BANKS) (bankHc 0) = true ∧ isDram 0 = true)
    ∧ (let s := stc [] (fun h => { h with maint := [⟨4, 0, true, false, []⟩] });
      s.chip.halted = false ∧ s.chip.coh.maint.any (fun m => m.level == 4 && m.unit == 0) = true) := by decide +kernel

/-! ### DRAM (spec/08, spec/09) -/

/-- A package whose first 16 GiB lie on channel 0, which is READY. -/
def dramUp : List (Fld × Nat) :=
  [(Reg.HUB_AMAP_LOCK.LOCK, 1), (Reg.HUB_AMAP_DRAM.SIZE, 1), (Reg.HUB_ILV.EN 0, 1), (Reg.HUB_ILV.SIZE 0, 1), (Reg.HUB_ILV.NUM_CH 0, 1),
   (Reg.MC_CFG.LOCK 0, 1), (Reg.MC_CFG.EN 0, 1), (Reg.MC_STATUS.STATE 0, 2)]

/-- The same with channel 0's hidden state changed. -/
def stm (l : List (Fld × Nat)) (m : McSt) : State := st (dramUp ++ l) (fun c => c.mcSet 0 m)

def rd0 : McReq := ⟨0, 0, 0, 1, 0, none, 0, 0, none, 0, none⟩

theorem test_wit_ChannelQueuesServe :
    (∀ w ∈ [none, some (rawPlain 7#512)], let r : McReq := { rd0 with write := w };
      let s := stm [] { McSt.init with inq := [r] };
      s.chip.halted = false ∧ s.chip.mcState 0 = mcReady ∧ s.chip.bitOf Reg.PWR_GATED.GATED (12 + 0) = false ∧ (s.chip.mcOf 0).inq = [r]
        ∧ (s.chip.mcOf 0).sr = none ∧ (s.chip.mcOf 0).rq = [] ∧ (s.chip.mcOf 0).wq = [] ∧ s.chip.arbNext 0 = some (0, r))
    ∧ (let s := stm [] { McSt.init with inq := [rd0], wq := [{ rd0 with write := some (rawPlain 7#512) }] };
      s.chip.mcState 0 = mcReady ∧ s.chip.arbNext 0 = some (0, rd0) ∧ (s.chip.mcOf 0).wq.map (·.line) = [rd0.line])
    ∧ (let r : McReq := { rd0 with data := some (rawPlain 7#512) };
      let s := stm [] { McSt.init with rq := [r, { rd0 with seq := 1 }] };
      s.chip.halted = false ∧ (s.chip.mcOf 0).rq = [r, { rd0 with seq := 1 }] ∧ r.seq < 1)
    ∧ (let s := stm [] { McSt.init with rq := [rd0], banks := [(0, ⟨some 0, 1, 0, 0, 0, 0⟩)] };
      s.chip.halted = false ∧ s.chip.mcState 0 = mcReady ∧ rd0.data = none ∧ rd0.write = none ∧ (s.chip.mcOf 0).rq = [rd0] ∧ (s.chip.mcOf 0).wq = [] ∧ lineSub rd0.line = 0
        ∧ (s.chip.mcOf 0).cycle 0 100 = 100 ∧ (s.chip.mcOf 0).refAt.contains 100 = false ∧ s.chip.mcLegal 0 rd0 100 = true ∧ (s.chip.mcOf 0).nextCmd (s.chip.mcRb 0) rd0 = 2)
    ∧ (let s := stm [(Reg.MC_SCHED.CLOSE_IDLE 0, 8)] { McSt.init with banks := [(511, ⟨some 3, 1, 0, 0, 0, 2⟩)] };
      s.chip.halted = false ∧ ((s.chip.mcOf 0).bank 511).row = some 3 ∧ (s.chip.mcOf 0).rq = [] ∧ (s.chip.mcOf 0).wq = []
        ∧ s.chip.get (Reg.MC_SCHED.CLOSE_IDLE 0) ≠ 0 ∧ (s.chip.mcOf 0).cycle (511 / 256) 18 = 18
        ∧ (s.chip.mcOf 0).refAt.contains 18 = false
        ∧ ((s.chip.mcOf 0).bank 511).hitAt + 2 * s.chip.get (Reg.MC_SCHED.CLOSE_IDLE 0) ≤ 18
        ∧ s.chip.preLegal 0 ((s.chip.mcOf 0).bank 511) 18 = true) := by decide +kernel

theorem test_wit_RefreshIsPostponed :
    (let s := stm [(Reg.MC_REF_POSTPONE_MAX.MAX 0, 8)] { McSt.init with rq := [rd0] };
      s.chip.halted = false ∧ s.chip.mcState 0 = mcReady ∧ 0 < 2 ^ s.chip.mcRb 0 ∧ (s.chip.mcOf 0).refBurst = [] ∧ s.chip.mcTargets 0 0 = true
        ∧ s.chip.mcOwed 0 0 < s.chip.get (Reg.MC_REF_POSTPONE_MAX.MAX 0))
    ∧ (let s := stm [] { McSt.init with refBurst := [7] };
      s.chip.halted = false ∧ s.chip.mcState 0 = mcReady ∧ (s.chip.mcOf 0).refBurst = [7])
    ∧ (runs (st []) [Reg.MC_REF_POSTPONE_MAX.MAX 23, Reg.MC_SCHED.AGE_CAP 23] = true ∧ (st []).chip.mcState 23 ≠ mcReady)
    ∧ (let s := stm [(Reg.MC_REF_POSTPONE_MAX.MAX 0, 8), (Reg.MC_REF_STATUS.OWED 0, 5 * 2 ^ 28)] McSt.init;
      runs s [Reg.MC_REF_POSTPONE_MAX.MAX 0] = true ∧ s.chip.mcState 0 = mcReady ∧ 4 < s.chip.mcOwed 0 7 ∧ s.chip.mcOwed 0 0 ≤ 4
        ∧ (s.chip.mcOf 0).refBurst = [])
    ∧ (let v : Word := 0x2F300000#64; bits v.toNat 24 6 = 47 ∧ bits v.toNat 16 6 = 48) := by decide +kernel

/-- Every timing of channel 23 set. -/
def timed : List (Fld × Nat) :=
  [Reg.MC_TIMING0.CL, Reg.MC_TIMING0.CWL, Reg.MC_TIMING0.RCD, Reg.MC_TIMING0.RP, Reg.MC_TIMING0.RAS, Reg.MC_TIMING0.RC, Reg.MC_TIMING0.WR,
    Reg.MC_TIMING0.RTP, Reg.MC_TIMING1.RRD_S, Reg.MC_TIMING1.RRD_L, Reg.MC_TIMING1.FAW, Reg.MC_TIMING1.CCD_L, Reg.MC_TIMING1.WTR_S,
    Reg.MC_TIMING1.WTR_L, Reg.MC_TIMING1.RFC, Reg.MC_REF_CTRL.TREFI].map (fun f => (f 23, 1))

theorem test_wit_ChannelStatesChange :
    (let s := st timed;
      runs s [Reg.MC_CFG.LOCK 23] = true ∧ s.chip.on (Reg.MC_CFG.LOCK 23) = false
        ∧ (∀ f ∈ [Reg.MC_TIMING0.CL, Reg.MC_TIMING0.CWL, Reg.MC_TIMING0.RCD, Reg.MC_TIMING0.RP, Reg.MC_TIMING0.RAS, Reg.MC_TIMING0.RC,
          Reg.MC_TIMING0.WR, Reg.MC_TIMING0.RTP, Reg.MC_TIMING1.RRD_S, Reg.MC_TIMING1.RRD_L, Reg.MC_TIMING1.FAW, Reg.MC_TIMING1.CCD_L,
          Reg.MC_TIMING1.WTR_S, Reg.MC_TIMING1.WTR_L, Reg.MC_TIMING1.RFC, Reg.MC_REF_CTRL.TREFI], s.chip.get (f 23) ≠ 0)
        ∧ bit 0x11 3 = false)
    ∧ (let s := st [(Reg.MC_CFG.LOCK 23, 1)];
      runs s [Reg.MC_CMD.INIT 23] = true ∧ s.chip.mcState 23 = mcOff ∧ s.chip.on (Reg.MC_CFG.LOCK 23) = true)
    ∧ (∀ p ∈ [mcTraining, mcReady, mcSelfRefresh], let s := st [(Reg.MC_STATUS.STATE 23, p)];
      runs s [Reg.MC_CMD.INIT 23] = true ∧ s.chip.mcState 23 = p ∧ (s.chip.mcOf 23).sr = none ∧ s.chip.halted = false)
    ∧ (let s := stm [(Reg.MC_PWR.SR_IDLE 0, 1)] McSt.init;
      s.chip.halted = false ∧ s.chip.mcState 0 = mcReady ∧ (s.chip.mcOf 0).sr = none ∧ s.chip.get (Reg.MC_PWR.SR_IDLE 0) ≠ 0
        ∧ (s.chip.mcOf 0).inq = [] ∧ (s.chip.mcOf 0).rq = [] ∧ (s.chip.mcOf 0).wq = [])
    ∧ (∀ q ∈ [(⟨false, 3, false, false, false⟩ : SrSeq), ⟨true, 1, false, false, false⟩, ⟨true, 4, true, false, false⟩],
      let s := stm [] { McSt.init with sr := some q };
      s.chip.halted = false ∧ (s.chip.mcOf 0).sr = some q)
    ∧ (let s := stm [(Reg.MC_ALERT.LIMIT 0, 1)] { McSt.init with banks := [(511, ⟨some 3, 1, 0, 0, 0, 2⟩)], rq := [rd0] };
      s.chip.mcState 0 = mcReady
        ∧ ((s.chip.mcOf 0).alerts.filter (fun t => s.chip.time < t + 4000000)).length < s.chip.get (Reg.MC_ALERT.LIMIT 0)) := by decide +kernel

theorem test_wit_ChannelTrainingRuns :
    (runs (st []) [Reg.MC_MR_CMD.OP 23, Reg.MC_TRN_CTRL.OP 23] = true ∧ (st []).chip.on (Reg.MC_MR_RESULT1.BUSY 23) = false
      ∧ (st []).chip.mcState 23 ≠ mcTraining)
    ∧ (let s := stm [] { McSt.init with mrCmd := some 2 }; s.chip.halted = false ∧ (s.chip.mcOf 0).mrCmd = some 2 ∧ bits 2 0 3 = 2)
    ∧ (let s := st [(Reg.MC_STATUS.STATE 23, 1)];
      runs s [Reg.MC_TRN_CTRL.OP 23] = true ∧ s.chip.mcState 23 = mcTraining ∧ s.chip.on (Reg.MC_TRN_STATUS.BUSY 23) = false)
    ∧ (let s := stm [] { McSt.init with trn := some 2 }; s.chip.halted = false ∧ (s.chip.mcOf 0).trn = some 2) := by decide +kernel

/-- A job of line 0 whose slot came back plain. -/
def job0 (k : PgKind) : PgJob := ⟨1, k, 0, 0, 0, ⟨7#512, false⟩, 0, [(0, some (rawPlain 5#512))], [0], none, 0⟩

theorem test_wit_PageGuardServes :
    (let x : Tx := { Tx.new 0 (req tRdNc) with wantMem := true };
      let s := st dramUp (fun c => { c with pg := { c.pg with jobs := [job0 .read] }, coh := { c.coh with txs := [x] } });
      s.chip.halted = false ∧ s.chip.pgFront .read 1 = some (job0 .read) ∧ s.chip.pg.buf.find? (fun b => b.1 == 0 / 4) = none
        ∧ s.chip.chkFind (winLine 0) = none ∧ s.chip.channelOf (64 * winLine 0) = some (0, 0)
        ∧ SMap.get? (job0 .read).got (0 * 2 ^ 34 + 0 / 64) = some (some (rawPlain 5#512))
        ∧ (rawPlain 5#512).form (winLine 0 % 4) false = .plain ∧ (rawPlain 5#512).flags .plain = []
        ∧ s.chip.txOf 0 = some x ∧ x.req.cls = clsReq ∧ x.req.typ = tRdNc ∧ x.req.line = 0 ∧ x.snoops = [] ∧ x.own = none
        ∧ (job0 .read).res = none ∧ x.done = false ∧ x.victim = false ∧ x.poisoned = false ∧ x.wantMem = true
        ∧ s.chip.dirFind 0 = none ∧ agPkg x.req.agent = s.chip.pkg ∧ agDie x.req.agent < 12 ∧ s.chip.fencedDie s.chip.pkg (agDie x.req.agent) = false)
    ∧ (let s := st dramUp (fun c => { c with pg := { c.pg with jobs := [job0 .write] } });
      s.chip.halted = false ∧ s.chip.pgFront .write 1 = some (job0 .write) ∧ s.chip.chkFind (winLine 0) = none
        ∧ s.chip.channelOf (64 * winLine 0) = some (0, 0) ∧ (job0 .write).yrw = 0 ∧ (job0 .write).ld.poison = false ∧ rawPlain 5#512 ≠ rawPlain (job0 .write).ld.data
        ∧ s.chip.on Reg.PG_FLIP_MASK.ARM = false ∧ s.chip.pgDataRgn (winLine 0) = none)
    ∧ (let s := st (dramUp ++ [(Reg.PG_RGN.EN 0, 1), (Reg.PG_RGN.SIZE 0, 1)]) (fun c => { c with
        pg := { c.pg with
          jobs := [job0 .write]
          chk := [(0, (16515072, ⟨0#512, false, 0⟩))] } });
      s.chip.pgFront .write 1 = some (job0 .write) ∧ s.chip.pgDataRgn (winLine 0) = some ⟨0, 1, 8, 64⟩
        ∧ (⟨0, 1, 8, 64⟩ : PgRgn).chkLines (winLine 0) = [16515072] ∧ s.chip.chkFind 16515072 = some ⟨0#512, false, 0⟩
        ∧ (rawPlain 0#512).flags .plain = [] ∧ (job0 .write).ld.data ≠ 5#512 ∧ s.chip.chkFind (winLine 0) = none
        ∧ s.chip.channelOf (64 * winLine 0) = some (0, 0) ∧ (job0 .write).yrw = 0 ∧ s.chip.on Reg.PG_FLIP_MASK.ARM = false) := by
  decide +kernel

theorem test_wit_ScrubPasses :
    (runs (st []) [Reg.PG_CTRL.LOCK, Reg.PG_SCRUB_CMD.OP] = true ∧ (st []).chip.on Reg.PG_CTRL.LOCK = false
      ∧ (st []).chip.on Reg.PG_SCRUB_STATUS.BUSY = false ∧ (st []).chip.get Reg.PG_SCRUB_LEN.PAGES = 0)
    ∧ (let s := st [(Reg.HUB_AMAP_DRAM.SIZE, 1), (Reg.PG_SCRUB_LEN.PAGES, 2 ^ 22)];
      runs s [Reg.PG_SCRUB_CMD.OP] = true ∧ s.chip.get Reg.PG_SCRUB_LEN.PAGES ≠ 0 ∧ s.chip.pkg * 2 ^ 32 ≤ s.chip.get Reg.PG_SCRUB_BASE.ADDR
        ∧ s.chip.get Reg.PG_SCRUB_BASE.ADDR + s.chip.get Reg.PG_SCRUB_LEN.PAGES ≤ s.chip.pkg * 2 ^ 32 + s.chip.get Reg.HUB_AMAP_DRAM.SIZE * 2 ^ 22
        ∧ s.chip.get Reg.PG_SCRUB_BASE.ADDR + s.chip.get Reg.PG_SCRUB_LEN.PAGES ≤ 2 ^ 35)
    ∧ (let s := st [(Reg.PG_SCRUB_STATUS.BUSY, 1)] (fun c => { c with pg := { c.pg with scrub := some ⟨0, 1, 3, false, none⟩ } });
      runs s [Reg.PG_SCRUB_CMD.OP] = true ∧ s.chip.on Reg.PG_SCRUB_STATUS.BUSY = true ∧ s.chip.pg.scrub = some ⟨0, 1, 3, false, none⟩
        ∧ s.chip.halted = false)
    ∧ (let s := st dramUp (fun c => { c with pg := { c.pg with scrub := some ⟨0, 1, 3, false, none⟩ } });
      s.chip.halted = false ∧ s.chip.isCarve (64 * winLine (64 * 0)) = false ∧ s.chip.channelOf (64 * winLine (64 * 0)) = some (0, 0)
        ∧ s.chip.mcServes 0 = true)
    ∧ (let s := st [(Reg.PG_RGN.EN 0, 1), (Reg.PG_RGN.SIZE 0, 1)] (fun c => { c with pg := { c.pg with scrub := some ⟨262143, 2, 3, false, none⟩ } });
      s.chip.halted = false ∧ s.chip.isCarve (64 * winLine (64 * 262143)) = true) := by decide +kernel

/-! ### Links (spec/10) -/

/-- The package with die 11's Spoke link in a state, and port 5's. -/
def stk (n : Nat) (f : SpkSt → SpkSt) : State := st [(Reg.SPK_STATUS.STATE 11, n)] (fun c => c.spkMod 11 f)
def stt (l : List (Fld × Nat)) (n : Nat) (f : TdmSt → TdmSt) : State := st ((Reg.TDM_STATUS.STATE 5, n) :: l) (fun c => c.tdmMod 5 f)

theorem test_wit_SpokeFlitsAreTaken :
    (let s := stk spkUpSt (fun q => { q with up := [req tRdS], dn := [rsp tGrant] });
      s.chip.halted = false ∧ s.chip.spkState 11 = spkUpSt ∧ (s.chip.spkOf 11).seqUp % 256 = ((s.chip.spkOf 11).expUp + 1) % 256
        ∧ (s.chip.spkOf 11).repUp = none ∧ (s.chip.spkOf 11).seqDn % 256 = ((s.chip.spkOf 11).expDn + 1) % 256 ∧ (s.chip.spkOf 11).repDn = none)
    ∧ (∀ w ∈ [0, 2, 3], let s := stk spkQuiesce (fun q => { q with width := w });
      s.chip.halted = false ∧ s.chip.spkState 11 = spkQuiesce ∧ (s.chip.spkOf 11).width = w ∧ s.chip.aud.ring.length < audSlots
        ∧ s.chip.aud.waiting = [])
    ∧ (stk spkFenced id).chip.spkState 11 = spkFenced := by decide +kernel

theorem test_wit_SpokeTrains :
    (∀ n ∈ [spkOff, spkFenced, spkUpSt], runs (stk n id) [Reg.SPK_CTRL.RETRAIN 11] = true ∧ (stk n id).chip.diePresent 11 = true
      ∧ (stk n id).chip.spkState 11 = n)
    ∧ (∀ k ∈ [1, 2, 3, 4, 5, 7], let s := stk spkTraining (fun q => { q with train := k, choice := if k = 7 then 2 else 0 });
      s.chip.halted = false ∧ s.chip.diePresent 11 = true ∧ s.chip.spkState 11 = spkTraining ∧ (s.chip.spkOf 11).train = k ∧ (s.chip.spkOf 11).half = false
        ∧ (s.chip.spkOf 11).rejoin = 0 ∧ (s.chip.spkOf 11).choice = (if k = 7 then 2 else 0)
        ∧ popc 272 (s.chip.spkMask true true 11) ≤ 16 ∧ popc 272 (s.chip.spkMask true false 11) ≤ 16
        ∧ s.chip.get (Reg.SPK_STATUS.DISAGREE 11) < 2) := by decide +kernel

/-- A request from another package, and the flit that brings it. -/
def wire : WireMsg := ⟨clsReq, tRdS, 0, 5, agentOf 7 11 0 0 0, 0, false, false, false, 0, 0, 0, 12, none, none, false, false, false, 0, false⟩
def flit0 : TdmFlit := ⟨1, none, false, false, [], [wire], []⟩
/-- The same with nine symbols changed, more than the code corrects. -/
def flitBad : TdmFlit := { flit0 with errs := (List.range 9).map (fun i => (40 * i, 1)) }

theorem test_wit_TandemFlitsAreTaken :
    (let s := stt [(Reg.TDM_CTRL.MODE 5, 1)] tdmUp (fun q => { q with rxAny := true, rx := 0 });
      s.chip.halted = false ∧ s.chip.tdmState 5 = tdmUp ∧ s.chip.on (Reg.TDM_CTRL.MODE 5) = true ∧ flit0.msgs = [wire]
        ∧ flit0.seq % 4096 = ((s.chip.tdmOf 5).rx + 1) % 4096 ∧ (s.chip.tdmOf 5).out = [] ∧ wire.dstPkg % 8 = s.chip.pkg ∧ wire.dstDie % 16 = 12
        ∧ flit0.wf = true)
    ∧ (let s := stt [(Reg.TDM_CTRL.MODE 5, 1)] tdmUp (fun q => { q with rxAny := true, rx := 1 });
      s.chip.tdmState 5 = tdmUp ∧ (s.chip.tdmOf 5).rxAny = true ∧ (s.chip.tdmOf 5).rx < 4096 ∧ flit0.seq % 4096 = (s.chip.tdmOf 5).rx)
    ∧ (let s := stt [(Reg.TDM_CTRL.MODE 5, 1)] tdmUp id; s.chip.tdmState 5 = tdmUp ∧ flitDecode ((s.chip.tdmFrame flitBad).payload true) flitBad.errs = .bad)
    ∧ (let s := stt [(Reg.TDM_CTRL.PEER 5, 1)] tdmUp id;
      s.chip.halted = false ∧ flitDecode ((s.chip.tdmFrame flitBad).payload false) flitBad.errs = .bad ∧ s.chip.tdmState 5 = tdmUp ∧ s.chip.on (Reg.TDM_CTRL.MODE 5) = false ∧ (s.chip.tdmOf 5).out = []
        ∧ (s.chip.tdmOf 5).replay = [] ∧ s.chip.get (Reg.TDM_CTRL.PEER 5) ≠ s.chip.pkg)
    ∧ (stt [] tdmRetrain id).chip.tdmState 5 = tdmRetrain
    ∧ (let m : Msg := { Msg.mk0 clsDat 0 0 with dstPkg := 7, data := some 1#512 };
      let s := st [] (fun c => { c with routeHold := [(7, [m])] });
      s.chip.halted = false ∧ s.chip.routeHold = [(7, [m])] ∧ s.chip.unacked 7 = false ∧ s.chip.coh.away = [] ∧ s.chip.fencedPkg 7 = false ∧ s.chip.routePort 7 m = none)
    ∧ (let m : Msg := { Msg.mk0 clsDat 0 0 with dstPkg := 7, data := some 1#512 };
      let s := st [(Reg.TDM_STATUS.STATE 5, 2), (Reg.TDM_ROUTE.PORTS 0 7, 32)] (fun c => { c with routeHold := [(7, [m])], tdm := [(5, { TdmSt.init with cr := tdmCredits })] });
      s.chip.routeHold = [(7, [m])] ∧ s.chip.unacked 7 = false ∧ s.chip.routePort 7 m = some 5 ∧ (s.chip.tdmOf 5).out = []
        ∧ (s.chip.tdmOf 5).replay = [] ∧ 0 < ((s.chip.tdmOf 5).cr[clsDat]?).getD 0) := by decide +kernel

theorem test_wit_TandemTrains :
    (runs (st []) [Reg.TDM_CTRL.EN 5] = true ∧ (st []).chip.bitOf Reg.PWR_GATED.GATED (44 + 5) = false ∧ (st []).chip.bootStopped = false ∧ (st []).chip.tdmState 5 = tdmDown)
    ∧ (let s := stt [] tdmUp id; runs s [Reg.TDM_CTRL.EN 5] = true ∧ s.chip.tdmState 5 ≠ tdmDown ∧ (s.chip.tdmOf 5).out = [] ∧ (s.chip.tdmOf 5).replay = [])
    ∧ (∀ k ∈ [1, 2, 3, 4, 6], let s := stt [(Reg.HUB_AMAP_LOCK.LOCK, 1), (Reg.TDM_CTRL.PEER 5, 7), (Reg.HUB_AMAP_PRESENT.PKG, 0x81)] tdmTraining (fun q => { q with step := k });
      s.chip.halted = false ∧ s.chip.tdmState 5 = tdmTraining ∧ (s.chip.tdmOf 5).step = k ∧ s.chip.on Reg.HUB_AMAP_LOCK.LOCK = true
        ∧ (s.chip.tdmOf 5).out = [] ∧ (s.chip.tdmOf 5).replay = [] ∧ 7 % 8 = s.chip.get (Reg.TDM_CTRL.PEER 5) ∧ 7 ≠ s.chip.pkg
        ∧ popc 8 s.chip.presentMap = 2) := by decide +kernel

/-! ### Device answers and tenants (spec/03, spec/11) -/

/-- Context 959 with a state of its own. -/
def stx (l : List (Fld × Nat)) (k : Ctx) (f : Chip → Chip := id) : State := st l (fun c => f { c with ctx := [(959, k)] })

/-- A device write of context 959, on its way, and a device read. -/
def devW : StoreEnt := ⟨0, 2 ^ 48, 8, 1, 0, 0, false, false, 0, .store, 0, true, 0, false, 0, true⟩
def devR : LoadJob := ⟨1, 0, 0, 0, 0, 2 ^ 48, 8, false, 0, 0, true, 0, false, 0, true, true⟩
def at959 (cls typ tag : Nat) : Msg := { Msg.mk0 cls typ 0 with agent := agentOf 0 11 4 3 3, tag := tag }

theorem test_wit_DeviceAnswersAndMarkers :
    (let m := at959 clsRsp tGrant 2560;
      let s := stx [] { Ctx.init with sq := [devW] } (fun c => { c with coh := { c.coh with dieIn := [(11, m)] } });
      s.chip.halted = false ∧ (s.chip.takeDie 11 (fun m => m.cls == clsRsp && m.typ == tGrant && !s.chip.ansHeld 11 m)).map (·.1) = some m ∧ isDevTag m.tag = true
        ∧ (s.chip.ctxOf (ctxOfAgent m.agent)).loads = [] ∧ (s.chip.coreOf (coreIx (ctxOfAgent m.agent))).c3 = 0
        ∧ (s.chip.ctxOf (ctxOfAgent m.agent)).sq.find? (fun e => isDevice e.pa && e.sent && devTag e.seq == m.tag) = some devW)
    ∧ (let m := at959 clsDat 0 2561;
      let s := stx [] { Ctx.init with loads := [devR] } (fun c => { c with coh := { c.coh with dieIn := [(11, m)] } });
      s.chip.halted = false ∧ (s.chip.takeDie 11 (fun m => m.cls == clsDat && !s.chip.ansHeld 11 m)).map (·.1) = some m ∧ isDevTag m.tag = true
        ∧ (s.chip.ctxOf (ctxOfAgent m.agent)).loads = [devR] ∧ devR.dev = true ∧ devR.sent = true ∧ devTag devR.job = m.tag)
    ∧ (let m : Msg := { Msg.mk0 clsRsp tViolation 0 with data := some (BitVec.ofNat 512 (1 + agentOf 0 11 4 3 3 * 2 ^ 32)) };
      let i := FInfo.ofWords (bits (m.data.getD 0#512).toNat 0 64) (bits (m.data.getD 0#512).toNat 64 64) (bits (m.data.getD 0#512).toNat 192 64);
      let s := stx [(fState 959, cxReady)] Ctx.init (fun c => { c with coh := { c.coh with hubIn := [m] } });
      s.chip.halted = false ∧ (s.chip.takeHub (fun m => m.cls == clsRsp && m.typ == tViolation)).map (·.1) = some m ∧ i.kind = 0
        ∧ agPkg m.agent = s.chip.pkg ∧ agDie m.agent < 12
        ∧ s.chip.ownCtx i.master = true ∧ ctxOfAgent i.master < 960 ∧ s.chip.tntState (s.chip.cxTenant (ctxOfAgent i.master)) ≠ tnResetting
        ∧ (s.chip.coreOf (coreIx (ctxOfAgent i.master))).c3 = 0 ∧ SMap.get? s.chip.frozen (ctxOfAgent i.master) = none
        ∧ s.chip.cxState (ctxOfAgent i.master) ≠ cxOff)
    ∧ (let m := at959 clsRsp tIoMark 2;
      let s := stc [] (fun h => { h with hubIn := [m] });
      s.chip.halted = false ∧ (s.chip.takeHub (fun m => m.cls == clsRsp && m.typ == tIoMark
          && (s.chip.fromFenced m || m.dstPkg != s.chip.pkg || !s.chip.relaxedOut))).map (·.1) = some m ∧ s.chip.fromFenced m = false
        ∧ s.chip.relaxedOut = false ∧ m.dstPkg = s.chip.pkg ∧ agPkg m.agent = s.chip.pkg ∧ agDie m.agent < 12 ∧ s.chip.fencedDie s.chip.pkg (agDie m.agent) = false)
    ∧ (let m := at959 clsRsp tIoAck (79 * 8 + 7);
      let q : Serial := ⟨.fence 3, [], [], [0, 7], [], true, 0⟩;
      let s := stx [] { Ctx.init with serial := some q } (fun c => { c with coh := { c.coh with dieIn := [(11, m)] } });
      s.chip.halted = false ∧ (s.chip.takeDie 11 (fun m => m.cls == clsRsp && m.typ == tIoAck && !s.chip.ratioBusy (cluIx (80 * 11 + m.tag / 8 % 80)))).map (·.1) = some m
        ∧ (s.chip.ctxOf (80 * 11 + m.tag / 8 % 80)).serial = some q ∧ m.tag % 8 ∈ q.marks)
    ∧ (let m := at959 clsWbk 0 0;
      let s := stc [(Reg.SPK_STATUS.STATE 11, 2)] (fun h => { h with hubIn := [m] });
      s.chip.halted = false ∧ s.chip.inIdle = true ∧ (s.chip.takeHub s.chip.hubTakes).map (·.1) = some m ∧ s.chip.fromFenced m = false
        ∧ s.chip.reqHome m.line = s.chip.pkg)
    ∧ (let m := at959 clsWbk 0 0;
      let s := stc [(Reg.DIR_FENCE.DIE 0 0, 0x800)] (fun h => { h with hubIn := [m] });
      (s.chip.takeHub s.chip.hubTakes).map (·.1) = some m ∧ s.chip.fromFenced m = true) := by decide +kernel

theorem test_wit_TenantCommandsRun :
    (runs (st []) [Reg.TNT_CMD.OP] = true ∧ (st []).chip.on Reg.TNT_CMD_STATUS.BUSY = false ∧ (st []).chip.hqe.jobs = []
      ∧ (st []).chip.tntState 4095 = tnFree ∧ (st [(Reg.TNT_ENT.STATE 1, 1)]).chip.tntState 1 ≠ tnFree ∧ (∀ q < 8, q ≠ (st []).chip.pkg → (st []).chip.present q = false)
      ∧ (st []).chip.tntBehind 4095 = false ∧ (st []).chip.queuesOf 4095 = [] ∧ (st []).chip.fnsOf 4095 = [])
    ∧ (∀ n ∈ [tnActive, tnFrozen, tnResetting], (st [(Reg.TNT_ENT.STATE 4095, n)]).chip.tntState 4095 = n)
    ∧ (let m : Msg := { Msg.mk0 clsRsp tTntCmd 0 with tenant := 4095, aux := opDestroy, agent := hubAgent 7 2 0 };
      let s := stc [(Reg.TNT_ENT.STATE 4095, 1)] (fun h => { h with hubIn := [m] });
      s.chip.halted = false ∧ (s.chip.takeHub (fun m => m.cls == clsRsp && m.typ == tTntCmd && (s.chip.resetOf m.tenant).isNone)).map (·.1) = some m
        ∧ s.chip.tntState m.tenant = tnActive ∧ m.tenant < 4096 ∧ s.chip.queuesOf m.tenant = [] ∧ s.chip.fnsOf m.tenant = [])
    ∧ (let m : Msg := { Msg.mk0 clsRsp tTntDone 0 with agent := hubAgent 7 2 0, aux := 1 };
      let j : TntJob := ⟨opFreeze, 4095, 0, 0, 0, [7], 0, false, true⟩;
      let s := st [] (fun c => { c with coh := { c.coh with hubIn := [m] }, hqe := { c.hqe with jobs := [j] } });
      s.chip.halted = false ∧ (s.chip.takeHub (fun m => m.cls == clsRsp && m.typ == tTntDone)).map (·.1) = some m ∧ s.chip.hqe.jobs = [j]
        ∧ s.chip.hqe.tntWait = [] ∧ j.src = 0 ∧ j.ownDone = true ∧ j.missing = 0 ∧ j.tag = m.tag ∧ j.waits = [agPkg m.agent]) := by decide +kernel

theorem test_wit_TenantResetsAndSupervisors :
    (∀ k ∈ [1, 2, 4], let s := st [(Reg.TNT_ENT.STATE 4095, 3)] (fun c => { c with
        hqe := { c.hqe with
          resets := [⟨4095, k, true, none⟩]
          live := if k = 2 then [(7, 4095)] else [] } });
      s.chip.halted = false ∧ s.chip.resetOf 4095 = some ⟨4095, k, true, none⟩ ∧ ((s.chip.queuesOf 4095 ≠ []) = (k = 2)) ∧ s.chip.fnsOf 4095 = []
        ∧ s.chip.hqe.jobs = [] ∧ (∀ p ∈ s.chip.hqe.off, p.2 ≠ 4095))
    ∧ (let s := stx [(fState 959, cxReady), (fTenant 959, 4095), (Reg.TNT_ENT.STATE 4095, 1)] Ctx.init;
      runs s [Reg.TNT_SV_CMD.OP 4095, Reg.TNT_SV_CMD.OP 0] = true ∧ s.chip.ownCtx (agentOf 0 11 4 3 3 % 2 ^ 16) = true
        ∧ s.chip.cxPresent (ctxOfAgent (agentOf 0 11 4 3 3 % 2 ^ 16)) = true ∧ s.chip.cxTenant (ctxOfAgent (agentOf 0 11 4 3 3 % 2 ^ 16)) = 4095
        ∧ SMap.get? s.chip.frozen (ctxOfAgent (agentOf 0 11 4 3 3 % 2 ^ 16)) = none ∧ s.chip.tntState 4095 ≠ tnResetting
        ∧ (s.chip.coreOf (coreIx (ctxOfAgent (agentOf 0 11 4 3 3 % 2 ^ 16)))).c3 = 0
        ∧ s.chip.cxState (ctxOfAgent (agentOf 0 11 4 3 3 % 2 ^ 16)) ≠ cxOff ∧ s.chip.resetOf 4095 = none
        ∧ (∀ j ∈ s.chip.hqe.jobs, j.tenant ≠ 4095) ∧ s.chip.tntBehind 4095 = false)
    ∧ (∀ cause ∈ [fzRegion, fzTenant], let s := stx [(fState 959, cxHeld), (fTenant 959, 4095)] Ctx.init (fun c => { c with frozen := [(959, cause)] });
      runs s [Reg.TNT_SV_CMD.OP 4095] = true ∧ SMap.get? s.chip.frozen 959 = some cause ∧ svThawable cause = (cause == fzRegion)) := by decide +kernel

/-! ### Queues (spec/11) -/

/-- The hub cache holds some lines, by line number. -/
def holds (l : List (Nat × Line)) (c : Chip) : Chip :=
  { c with coh := { c.coh with hc := l.zipIdx.foldl (fun m p => SMap.set m (hcBase p.1.1 + p.2 % 16) { cl0 with line := p.1.1, ld := ⟨p.1.2, false⟩ }) [] } }

/-- Descriptor words of a queue of tenant 0, Secure, with rings of 16 entries at 0x10000 and 0x20000, in a state, with its indices. -/
def qd (stt : Nat) (tail fetch : Nat) : List Nat := [stt + 0x40 + 0x4400 + 2 ^ 40, 0x10000, 0x20000, 0, 0, tail + fetch * 2 ^ 32, 0, 0]
def qc (w : List Nat) : QCtx := ⟨w, [], false, 0, 0, false⟩
def lineOf (w : List Nat) : Line := BitVec.ofNat 512 (w.reverse.foldl (fun v x => v * 2 ^ 64 + x) 0)
def sqe0 : Sqe := ⟨0, 3, false, false, 64, 0, 64, 9, 64, 0, 0, [], false⟩

/-- The package with a queue's context cached. -/
def stq (l : List (Fld × Nat)) (q : Nat) (x : QCtx) (f : Chip → Chip := id) : State :=
  st (dramUp ++ l) (fun c => f { c with hqe := { c.hqe with queues := [(q, x)] } })

theorem test_wit_QueuesTakeDoorbellsAndCommands :
    (let x := qc (qd qIdle 0 0);
      let s := stq [(Reg.HQE_CTRL.EN, 1)] 0xFFFFF x;
      s.chip.halted = false ∧ SMap.get? s.chip.hqe.queues 0xFFFFF = some x ∧ x.w.length = 8 ∧ s.chip.on Reg.HQE_CTRL.EN = true
        ∧ s.chip.gated 51 = false ∧ sec.tenant = qOwner x.w ∧ qState x.w ≠ qOff ∧ bellBad x.w 16 = false
        ∧ (stq [] 0xFFFFF x).chip.on Reg.HQE_CTRL.EN = false)
    ∧ (let d := lineOf (qd qOff 0 0);
      let s := st (dramUp ++ [(Reg.TNT_ENT.STATE 0, 1), (Reg.TNT_ENT.QUOTA 0, 1)]) (holds [(2, d)]);
      runs s [Reg.HQE_QCMD.OP] = true ∧ s.chip.on Reg.HQE_QCMD_STATUS.BUSY = false ∧ SMap.get? s.chip.hqe.queues 1 = none
        ∧ s.chip.hqe.queues.length < hqeCacheSize ∧ s.chip.hubHolds (s.chip.qAddr 1 / 64) s.chip.hqeWho ⟨d, false⟩ = true
        ∧ qState (wordsOf 8 d.toNat) = qOff ∧ descBad (wordsOf 8 d.toNat) = false ∧ s.chip.tntState (qOwner (wordsOf 8 d.toNat)) = tnActive
        ∧ s.chip.get (Reg.TNT_ENT.QUEUES (qOwner (wordsOf 8 d.toNat))) < s.chip.get (Reg.TNT_ENT.QUOTA (qOwner (wordsOf 8 d.toNat))))
    ∧ (∀ x ∈ [qc (qd qIdle 0 0), qc (qd qFrozen 0 0), qc (qd qActive 1 0), { qc (qd qActive 1 1) with sqes := [sqe0] }], let s := stq [] 7 x;
      runs s [Reg.HQE_QCMD.OP] = true ∧ s.chip.on Reg.HQE_QCMD_STATUS.BUSY = false ∧ SMap.get? s.chip.hqe.queues 7 = some x
        ∧ x.w.length = 8 ∧ s.chip.tntState (qOwner x.w) ≠ tnResetting)
    ∧ (let d := lineOf (qd (qActive + 0x80) 1 0);
      let s := st (dramUp ++ [(Reg.HQE_PARK.BASE, 1)]) (fun c => holds [(2, d), (65536, 1#512)] { c with hqe := { c.hqe with parkTail := 1 } });
      s.chip.halted = false ∧ s.chip.hqe.parkHead ≠ s.chip.hqe.parkTail
        ∧ s.chip.get Reg.HQE_PARK.BASE * 2 ^ 22 + 4 * (s.chip.hqe.parkHead % 2 ^ 20) = 4194304
        ∧ s.chip.hubHolds (4194304 / 64) s.chip.hqeWho ⟨1#512, false⟩ = true ∧ lineGet 1#512 (4194304 % 64) 4 % 2 ^ 20 = 1
        ∧ SMap.get? s.chip.hqe.queues 1 = none ∧ s.chip.hubHolds (s.chip.qAddr 1 / 64) s.chip.hqeWho ⟨d, false⟩ = true
        ∧ qState (wordsOf 8 d.toNat) ≠ qOff ∧ qParked (wordsOf 8 d.toNat) = true)
    ∧ runs (st []) [Reg.HQE_CTRL.EN] = true ∧ (st []).chip.fwQuiet = false := by decide +kernel

theorem test_wit_SchedulersServeQueues :
    (∀ j ∈ [0, 4095], let x := qc (qd qActive 1 0);
      let s := stq [(Reg.HQE_CTRL.EN, 1), (Reg.HQE_SLOT.SLOT_LO 0 0, 0x100007), (Reg.HQE_SLOT.SLOT_HI 0 2047, 0x100007)] 7 x (fun c => c.slotTo 0 j);
      s.chip.halted = false ∧ s.chip.gated 51 = false ∧ s.chip.on Reg.HQE_CTRL.EN = true ∧ s.chip.slotAt 0 = j
        ∧ bits (s.chip.slotWord 0 j) 20 2 = 1 ∧ bits (s.chip.slotWord 0 j) 0 20 = 7 ∧ s.chip.hqe.queues = [(7, x)] ∧ x.eligible 0 = true
        ∧ x.allAsked = true ∧ x.may = true ∧ (∀ e ∈ x.sqes, e.wr = []) ∧ qQuantum x.w ≠ 0 ∧ s.chip.qStopped x = false
        ∧ s.chip.regMisuse (qRmaster x.w) (qOwner x.w) false = false ∧ s.chip.qHeld x = false)
    ∧ (let x := { qc (qd (qActive + 4) 1 0) with fetching := true };
      let d := lineOf [3 + 64 * 2 ^ 32, 0, 64, 9];
      let s := stq [] 7 x (holds [(1024, d)]);
      x.fetching = true ∧ x.quantum = 0 ∧ x.disabling = false ∧ s.chip.qStopped x = false ∧ (∀ e ∈ x.sqes, e.wr = []) ∧ s.chip.halted = false ∧ SMap.get? s.chip.hqe.queues 7 = some x ∧ x.w.length = 8
        ∧ qSqBase x.w + 64 * (qSqFetch x.w % 2 ^ qSqLog x.w) = 65536
        ∧ s.chip.hubHolds (65536 / 64) (s.chip.qWho 7 x.w) ⟨d, false⟩ = true ∧ sqeBad (qTarget x.w) (wordsOf 8 d.toNat) = false)
    ∧ (let x := { qc (qd qActive 1 1) with sqes := [sqe0] };
      let s := stq [] 7 x (holds [(2048, 5#512)]);
      s.chip.halted = false ∧ SMap.get? s.chip.hqe.queues 7 = some x ∧ x.w.length = 8 ∧ qState x.w = qActive ∧ sqe0.req = sqe0.len
        ∧ x.disabling = false ∧ x.fetching = false ∧ s.chip.useOut (.sqe 7 0) = false ∧ s.chip.useOut (.cqe 7 0) = false ∧ sqe0.wr = []
        ∧ sqe0.cqe = false ∧ s.chip.qStopped x = false ∧ s.chip.regMisuse (qRmaster x.w) (qOwner x.w) false = false ∧ s.chip.qHeld x = false
        ∧ sqe0.idx = 0 ∧ sqe0.out = 0 ∧ sqe0.status < 256
        ∧ qCqBase x.w + 16 * (qCqTail x.w % 2 ^ qCqLog x.w) = 131072
        ∧ s.chip.hubHolds (131072 / 64) (s.chip.qWho 7 x.w) ⟨5#512, false⟩ = true)
    ∧ (let s := st [] (fun c => c.slotTo 7 4096); s.chip.halted = false ∧ s.chip.gated 51 = false ∧ s.chip.slotAt 7 = 4096)
    ∧ runs (st []) [Reg.HQE_SCHED.SWAP 7] = true := by decide +kernel

/-! ### Regulation and security (spec/12, spec/13) -/

theorem test_wit_RegulatorsReserve :
    (let s := st [(Reg.REG_RSV_ARG.ENT, 4095), (Reg.REG_RSV_ARG.RES, 23), (Reg.REG_RSV_ARG.LINES, 1), (Reg.REG_ENT.EN 4095, 1), (Reg.REG_RES.ADMIT 23, 196608)];
      runs s [Reg.REG_RSV_CMD.OP] = true ∧ s.chip.get Reg.REG_RSV_ARG.ENT = 4095 ∧ s.chip.get Reg.REG_RSV_ARG.RES = 23 ∧ s.chip.get Reg.REG_RSV_ARG.LINES = 1
        ∧ s.chip.on (Reg.REG_RSV.VALID 1023) = false ∧ s.chip.on (Reg.REG_ENT.EN 4095) = true
        ∧ s.chip.get (Reg.REG_RES.RESERVED 23) + (1 * 64 * 3072 + s.chip.get (Reg.REG_ENT.WINDOW 4095)) / (s.chip.get (Reg.REG_ENT.WINDOW 4095) + 1)
            ≤ s.chip.get (Reg.REG_RES.ADMIT 23))
    ∧ (let s := st [(Reg.REG_RSV_ARG.ENT, 4095), (Reg.REG_RSV_ARG.RES, 23), (Reg.REG_RSV_ARG.LINES, 1), (Reg.REG_ENT.EN 4095, 1)];
      s.chip.get (Reg.REG_RES.ADMIT 23) < s.chip.get (Reg.REG_RES.RESERVED 23)
        + (1 * 64 * 3072 + s.chip.get (Reg.REG_ENT.WINDOW 4095)) / (s.chip.get (Reg.REG_ENT.WINDOW 4095) + 1))
    ∧ (runs (st []) [Reg.REG_RSV_CMD.OP] = true ∧ (st []).chip.get Reg.REG_RSV_ARG.ENT = 0)
    ∧ (let s := st [(Reg.REG_RSV.VALID 1023, 1)]; runs s [Reg.REG_RSV_CMD.OP] = true ∧ s.chip.on (Reg.REG_RSV.VALID 1023) = true)
    ∧ (runs (st []) [Reg.REG_ENT.EN 4095, Reg.REG_ENT.EN 0, Reg.REG_ENT.LIMIT 4095, Reg.REG_CTRL.EN] = true ∧ (st []).chip.get (Reg.REG_ENT.RSVS 0) = 0
      ∧ (let s := st [(Reg.REG_ENT.RSVS 4095, 1)]; runs s [Reg.REG_ENT.EN 4095] = true ∧ s.chip.get (Reg.REG_ENT.RSVS 4095) ≠ 0))
    ∧ ((st []).chip.halted = false ∧ (st []).chip.inIdle = true ∧ (∀ p ∈ (st []).chip.hqe.queues, p.2.quantum = 0 ∧ ∀ e ∈ p.2.sqes, e.wr = [])
      ∧ (st []).chip.get Reg.REG_CTRL.DERATE ≤ 100 ∧ (st []).chip.throttle 23 = 16
      ∧ (st [(Reg.TDM_STATUS.STATE 5, 2)]).chip.tdmState 5 = tdmUp)
    ∧ (let s := st [(Reg.MC_STATUS.STATE 23, 2)] (fun c => c.mcSet 23 { McSt.init with inq := [rd0] });
      s.chip.halted = false ∧ SMap.getD s.chip.rg.cand 5 [] = [] ∧ SMap.getD s.chip.rg.wait 5 [] = []
        ∧ (∀ j < 4, (s.chip.mcOf (4 * 5 + j)).inq = if j = 3 then [rd0] else []) ∧ s.chip.mcState (4 * 5 + 3) = mcReady
        ∧ s.chip.bitOf Reg.PWR_GATED.GATED (12 + (4 * 5 + 3)) = false ∧ (s.chip.mcOf (4 * 5 + 3)).sr = none
        ∧ (s.chip.mcOf (4 * 5 + 3)).rq.length < 64) := by decide +kernel

theorem test_wit_SecurityGuards :
    (runs (st []) [Reg.SEC_RGN.EN 0 0, Reg.SEC_RGN.EN 26 30, Reg.SEC_RGN.EN 26 31, Reg.SEC_RGN.EN 31 5, Reg.SEC_RGN.LIMIT 26 30] = true
      ∧ (st []).chip.on (Reg.SEC_RGN.LOCK 23 5) = false)
    ∧ runs (st []) [Reg.SEC_WDOG_CTRL.EN, Reg.SEC_WDOG_KICK.KEY, Reg.OTP_CMD.PROG] = true
    ∧ (∀ g ∈ [0, 1], let s := st [(Reg.SEC_WDOG_CTRL.EN, 1), (Reg.TIME_STATUS.VALID, 1), (Reg.SEC_WDOG_STATUS.STAGE, g)];
      s.chip.halted = false ∧ s.chip.on Reg.SEC_WDOG_CTRL.EN = true ∧ s.chip.get Reg.SEC_WDOG_STATUS.REMAIN = 0
        ∧ s.chip.on Reg.TIME_STATUS.VALID = true ∧ s.chip.get Reg.SEC_WDOG_STATUS.STAGE = g)
    ∧ ((st []).chip.on Reg.OTP_STATUS.BUSY = false ∧ (∀ h < 0, (st []).chip.otpWord (4 * 95 + h) ≠ 0) ∧ (st []).chip.otpWord (4 * 95) = 0
      ∧ (let s := st [] (fun c => { c with otp := [(508, 1), (509, 1), (510, 1), (511, 1)] });
        runs s [Reg.OTP_CMD.PROG] = true ∧ (∀ g < 4, s.chip.otpWord (4 * 127 + g) ≠ 0)))
    ∧ (let s := st [] (fun c => { c with sec := { c.sec with otpJob := some (383, 2 ^ 64 - 1, 3) } });
      s.chip.halted = false ∧ s.chip.sec.otpJob = some (383, 2 ^ 64 - 1, 3) ∧ s.chip.otpWord 383 = 0 ∧ SMap.sorted s.chip.otp = true) := by decide +kernel

/-- A Sprocket table image with one valid entry, an ADD to the destination, and the same with distance 0 (R142). -/
def ent0 (dist : Nat) : Nat := 0xFD + dist * 256 + (0x02000000 + 0x3C * 32768) * 2 ^ 64
def image (e i : Nat) : Line := if i = 0 then BitVec.ofNat 512 e else 0#512

theorem test_wit_AuditAndSprocketTables :
    (let s := st [(Reg.AUD_CTRL.MRAM_EN, 1)];
      s.chip.halted = false ∧ s.chip.aud.ring.length = 1 ∧ s.chip.aud.ring.all (fun r => (r.seq + 1) % 65536 != 0 && !r.inMram) = true
        ∧ s.chip.on Reg.AUD_CTRL.MRAM_EN = true ∧ s.chip.on Reg.AUD_CTRL.DRAM_EN = false)
    ∧ (let s := st (dramUp ++ [(Reg.AUD_CTRL.DRAM_EN, 1)]) (holds [(0, 0#512), (1, 5#512)]);
      s.chip.aud.ring.length = 1 ∧ s.chip.aud.ring.all (fun r => !r.inDram) = true ∧ s.chip.on Reg.AUD_CTRL.MRAM_EN = false
        ∧ s.chip.on Reg.AUD_CTRL.DRAM_EN = true ∧ s.chip.get Reg.AUD_STATUS.DRAM_REFUSED = 0 ∧ s.chip.get Reg.AUD_DRAM.BASE * 65536 = 0
        ∧ s.chip.aud.dramCount = 0 ∧ s.chip.hubHolds (0 / 64) s.chip.drainWho ⟨0#512, false⟩ = true
        ∧ s.chip.hubHolds ((0 + 64 + 32 * (0 % 2 ^ s.chip.get Reg.AUD_DRAM.LOG2)) / 64) s.chip.drainWho ⟨5#512, false⟩ = true
        ∧ lineGet 0#512 0 8 ≤ 0 ∧ 0 < lineGet 0#512 0 8 + 2 ^ s.chip.get Reg.AUD_DRAM.LOG2)
    ∧ (let h : HwRec := ⟨1, 2, 3, 4, none, false⟩;
      let s := st [] (fun c => { c with aud := { c.aud with waiting := [h] } });
      s.chip.halted = false ∧ s.chip.aud.waiting = [h] ∧ s.chip.aud.ring.length < 4096)
    ∧ (runs (st []) [Reg.AUD_STATUS.DRAM_REFUSED, Reg.HUB_SPRK_COMMIT.N] = true ∧ (st []).chip.aud.waiting = []
      ∧ (st []).chip.readRuns sec (Reg.AUD_DIGEST.DIGEST 0).off = true)
    ∧ (let s := st [(Reg.HUB_SPRK_STATUS.BUSY, 1)]; runs s [Reg.HUB_SPRK_COMMIT.N] = true ∧ s.chip.on Reg.HUB_SPRK_STATUS.BUSY = true)
    ∧ entryReason (ent0 1) = none ∧ entryReason (ent0 0) = some (2, 0)
    ∧ ((∀ i, 1 ≤ i → i < 64 → (image (ent0 1) (4 * i)).toNat % 2 = 0) ∧ (image (ent0 1) 0).toNat % 2 = 1
      ∧ (image (ent0 1) 0).toNat + 2 ^ 512 * (image (ent0 1) 1).toNat + 2 ^ 1024 * (image (ent0 1) 2).toNat + 2 ^ 1536 * (image (ent0 1) 3).toNat = ent0 1)
    ∧ (let s := st [(Reg.HUB_SPRK_STATUS.BUSY, 1)] (fun c => { c with sprk := ⟨[], [], (List.range 239), false⟩ });
      s.chip.halted = false ∧ 239 ∉ s.chip.sprk.cores ∧ (∀ j < 240, j = 239 ∨ j ∈ s.chip.sprk.cores) ∧ s.chip.stage.held = [])
    ∧ (let s := st [(Reg.HUB_SPRK_STATUS.BUSY, 1)];
      s.chip.on Reg.HUB_SPRK_STATUS.BUSY = true ∧ (∃ j < 240, s.chip.corePresent (j / 20) (j % 20) = true ∧ j ≠ 239 ∧ j ∉ s.chip.sprk.cores)) := by
  decide +kernel

/-- The 256 lines of the image at address 0, as the hub cache holds them. -/
theorem test_wit_SprocketImage :
    let s := st (dramUp ++ [(Reg.SEC_RGN.EN 0 0, 1), (Reg.SEC_RGN.RIGHTS 0 0, 7), (Reg.SEC_RGN.ANY 0 0, 1), (Reg.SEC_RGN.WORLD 0 0, 2),
      (Reg.SEC_RGN.LIMIT 0 0, 2 ^ 40 - 1)]) (holds ((List.range 256).map (fun i => (i, image (ent0 1) i))));
    ∀ w ∈ [0, 1], s.chip.regs.getShadow (Reg.HUB_SPRK_SRC.ADDR w) * 2 ^ 14 / 64 = 0
      ∧ ∀ i < 256, s.chip.hubHolds (0 + i) (s.chip.hubWho 7 0 0 (w == 1)) ⟨image (ent0 1) i, false⟩ = true := by decide +kernel

/-! ### Images, pools and locks (spec/14) -/

/-- An image of 1,024 bytes for a package without keys, with one section of one record at 0x240 (R350, R351, R353). -/
def img0 (typ attr op off : Nat) : Nat :=
  [(0, imgMagic), (8, 1), (0xC, 1), (0x10, 1024), (0x18, 0xFF), (0x19, 0xFF), (0x40, typ), (0x42, attr), (0x44, 0x240), (0x48, 24),
   (0x240, off + op)].foldl (fun v p => v + p.2 <<< (8 * p.1)) 0

def booting (k slot wait : Nat) (f : Chip → Chip := id) : State := st [] (fun c => f { c with boot := ⟨k, slot, 0, 0, wait⟩ })
def stagedImg (img : Nat) (c : Chip) : Chip := { c with mram := Mem.write [] stageBase 1024 img }

theorem test_wit_ImagesBoot :
    (let s := st [(Reg.HUB_CLK_STATUS.ROOT_LOCK, 1)]; s.chip.halted = false ∧ s.chip.boot.step = 1 ∧ s.chip.on Reg.HUB_CLK_STATUS.ROOT_LOCK = true)
    ∧ ((booting 2 0 0).chip.halted = false ∧ (booting 2 0 0).chip.boot.step = 2)
    ∧ (booting 3 1 0).chip.unstarted = true ∧ (booting 4 0 0).chip.unstarted = true ∧ (booting 5 0 1).chip.unstarted = true
    ∧ (∀ n ∈ [0, 1], (booting 3 n 0).chip.boot.slot = n ∧ (booting 4 n 0).chip.boot.step = 4 ∧ (booting 3 n 0).chip.pwr.flashLow = false
      ∧ (booting 3 n 0).chip.headFail ((booting 3 n 0).chip.flash.read (0x800000 * n) 0x240) true = 1)
    ∧ (let s := booting 3 0 0 (fun c => { c with flash := Mem.write [] 0 1024 (img0 1 0 0 0xCA000008) });
      let h := s.chip.flash.read (0x800000 * 0) 0x240;
      s.chip.halted = false ∧ s.chip.boot.step = 3 ∧ s.chip.headFail h true = 0
        ∧ s.chip.bodyFail (s.chip.flash.read (0x800000 * 0) (imgSize h)) (s.chip.otpField 16) = 0)
    ∧ (let s := booting 4 0 0 (stagedImg (img0 1 0 0 0));
      (imgSects s.chip.staged)[0]? = some ⟨stStruct, 0x240, 24⟩ ∧ 0 < (⟨stStruct, 0x240, 24⟩ : Sect).rcds
        ∧ sectNames stStruct (imgRcd s.chip.staged ⟨stStruct, 0x240, 24⟩ 0).off = false)
    ∧ (let s := booting 6 0 0; s.chip.halted = false ∧ s.chip.boot.step = 6 ∧ s.chip.aud.ring.length < audHold ∧ s.chip.aud.held = []
        ∧ (s.chip.rgnCheck 26 (s.chip.csrAddr 0xCA000008) s.chip.seurv rightW).ok = true)
    ∧ (∀ k ∈ [1, 2], (booting 5 0 k).chip.halted = false ∧ (booting 5 0 k).chip.boot.step = 5 ∧ (booting 5 0 k).chip.boot.wait = k
      ∧ (imgSects (booting 5 0 k).chip.staged)[(booting 5 0 k).chip.boot.sect + 1]? = none) := by decide +kernel

/-- The lines of an image. -/
def imgLine (img i : Nat) : Line := BitVec.ofNat 512 (bits img (512 * i) 512)

theorem test_wit_ReloadsRun :
    (let s := st [(Reg.CFG_STAGE_STATUS.BUSY, 1)]; runs s [Reg.CFG_STAGE_CMD.OP] = true ∧ s.chip.on Reg.CFG_STAGE_STATUS.BUSY = true)
    ∧ (runs (st []) [Reg.CFG_STAGE_CMD.OP] = true ∧ (st []).chip.on Reg.CFG_STAGE_STATUS.BUSY = false)
    ∧ (let s := st [(Reg.CFG_STAGE_SRC.ADDR, 0xFFF000000)] (fun c => { c with stage := { c.stage with op := 1 } });
      s.chip.halted = false ∧ s.chip.stage.op = 1 ∧ s.chip.stage.begun = false ∧ s.chip.decodeMiss (s.chip.get Reg.CFG_STAGE_SRC.ADDR * 65536) = true)
    ∧ (∀ img ∈ [0, img0 1 0 0 0], let s := st dramUp (fun c => holds ((List.range 16).map (fun i => (i, imgLine img i))) { c with stage := { c.stage with op := 1 } });
      s.chip.halted = false ∧ s.chip.stage.op = 1 ∧ s.chip.stage.begun = false ∧ s.chip.get Reg.CFG_STAGE_SRC.ADDR = 0
        ∧ (∀ i < 16, s.chip.hubHolds (0 * 1024 + i) s.chip.seurv ⟨imgLine img i, false⟩ = true)
        ∧ (∀ i < 16, bits img (512 * i) 512 = (imgLine img i).toNat) ∧ img < 2 ^ (512 * 16)
        ∧ s.chip.headFail (img % 2 ^ (8 * 0x240)) false = (if img = 0 then 1 else 0)
        ∧ (img = 0 ∨ (imgSize (img % 2 ^ (8 * 0x240)) = 64 * 16
            ∧ s.chip.bodyFail img (Nat.max (s.chip.otpField 16) (s.chip.get Reg.CFG_BOOT.SVN)) = 0)))
    ∧ ((st []).chip.on Reg.CFG_STAGE_STATUS.VALID = false ∧ (st []).chip.stage.held = [])
    ∧ (let s := st [(Reg.CFG_STAGE_STATUS.VALID, 1)] (stagedImg (img0 1 0 0 0));
      runs s [Reg.CFG_STAGE_CMD.OP] = true ∧ s.chip.on Reg.CFG_STAGE_STATUS.VALID = true ∧ (∀ e ∈ imgSects s.chip.staged, sectReload e.typ = false))
    ∧ (let s := st [(Reg.CFG_STAGE_STATUS.VALID, 1)] (stagedImg (img0 stRegulator 1 1 0));
      let e : Sect := ⟨stRegulator, 0x240, 24⟩;
      runs s [Reg.CFG_STAGE_CMD.OP] = true ∧ (imgSects s.chip.staged)[0]? = some e ∧ sectReload e.typ = true ∧ bit 8 (e.typ - stSprocket) = true
        ∧ e.typ ≠ stSprocket ∧ s.chip.rcdConflict s.chip.staged e = some (0, 6))
    ∧ (∀ k ∈ [1, 2], let s := st [] (fun c => { c with stage := { c.stage with op := k, begun := true } });
      s.chip.halted = false ∧ s.chip.stage.begun = true ∧ s.chip.stage.op = k ∧ s.chip.stage.held = []
        ∧ (imgSects s.chip.staged)[s.chip.stage.sect]? = none) := by decide +kernel

theorem test_wit_PoolsAndLocks :
    (runs (st []) [Reg.CFG_POOL_COMMIT.GO, Reg.CFG_POOL_CMD.OP 31, Reg.CFG_LOCK.HELD 63] = true ∧ (st []).chip.poolAdmits sec 31 4095 false = false)
    ∧ (let s := st [(Reg.CFG_POOL.EN 31, 1), (Reg.CFG_POOL.TFIRST 31, 4095), (Reg.CFG_POOL.TCOUNT 31, 1)];
      runs s [Reg.CFG_POOL_CMD.OP 31] = true ∧ s.chip.poolAdmits sec 31 4095 false = true ∧ s.chip.on (Reg.CFG_POOL_CMD_STATUS.BUSY 31) = false
        ∧ s.chip.tntState 4095 = tnFree ∧ s.chip.hqe.jobs = [] ∧ s.chip.tntBehind 4095 = false ∧ s.chip.queuesOf 4095 = []
        ∧ s.chip.fnsOf 4095 = [])
    ∧ (isCtxAgent sec.agent = true ∧ isCtxAgent (hubAgent 0 6 0) = false ∧ (st []).chip.on (Reg.CFG_LOCK.HELD 63) = false
      ∧ (st [(Reg.CFG_LOCK.HELD 63, 1)]).chip.on (Reg.CFG_LOCK.HELD 63) = true ∧ runs (st [(Reg.CFG_LOCK.HELD 63, 1)]) [Reg.CFG_LOCK.HELD 63] = true) := by
  decide +kernel

/-! ### Host ports (spec/15) -/

/-- A memory read of 8 bytes at 0 of port 7 by context 0, in flight with tag 5. -/
def rdOut : OutReq := ⟨⟨7, 0, 0, 0, 8, 0, 5, none, false⟩, .agent 0 0⟩
def stp (l : List (Fld × Nat)) (f : FnSt → FnSt) : State := st l (fun c => { c with fns := f c.fns })

theorem test_wit_PortsCarryAccesses :
    (runs (st []) [Reg.PCI_CFG.EN 7, Reg.PCI_WIN_SEL.SEL 7] = true ∧ (st []).chip.on (Reg.PCI_CFG.EN 7) = false ∧ (st []).chip.fwQuiet = false
      ∧ (st []).chip.gated (36 + 7) = false
      ∧ (let v := 1 + 2 * 4 + 5 * 32 + 46 * 2 ^ 17; bits v 2 2 ≤ 2 ∧ bits v 5 3 ≤ 5 ∧ 20 ≤ bits v 17 6 ∧ bits v 17 6 ≤ 46 ∧ bit v 1 = false ∧ bit v 4 = false)
      ∧ (bit 0x12 4 = true ∧ bit 0x12 1 = true ∧ bits 0x12 2 2 ≤ 2))
    ∧ (let s := st [(Reg.PCI_CFG.EN 7, 1), (Reg.PCI_CFG.BIFUR 7, 2), (Reg.PCI_CFG.MAX_RATE 7, 5), (Reg.PCI_LINK_STATUS.LINKS 7, 2 ^ 48)];
      s.chip.halted = false ∧ s.chip.on (Reg.PCI_CFG.EN 7) = true ∧ s.chip.on (Reg.PCI_CFG.PERS 7) = false ∧ 3 < s.chip.nLinks 7
        ∧ bits (s.chip.linkBits 7 3) 0 3 = 1 ∧ 5 ≤ s.chip.get (Reg.PCI_CFG.MAX_RATE 7) ∧ 2 ≤ s.chip.linkLanes 7)
    ∧ (let s := st [(Reg.PCI_CFG.EN 3, 1), (Reg.PCI_CFG.CXL 3, 1), (Reg.PCI_LINK_STATUS.LINKS 3, 1)];
      s.chip.on (Reg.PCI_CFG.EN 3) = true ∧ s.chip.on (Reg.PCI_CFG.PERS 3) = false ∧ s.chip.on (Reg.PCI_CFG.CXL 3) = true ∧ 0 < s.chip.nLinks 3
        ∧ bits (s.chip.linkBits 3 0) 0 3 = 1)
    ∧ (let s := stp [(Reg.PCI_LINK_STATUS.LINKS 7, 2)] (fun f => { f with out := [rdOut] });
      s.chip.halted = false ∧ s.chip.linkUp 7 0 = true ∧ s.chip.cxlLink 7 0 = false ∧ s.chip.fns.waiting = [] ∧ s.chip.fns.fcmd = [] ∧ s.chip.fns.out = [rdOut]
        ∧ s.chip.inIdle = true ∧ s.chip.inWrOut 7 none = false ∧ s.chip.fns.quar.contains (tagKey 7 0 5) = false)
    ∧ (let a := 2 ^ 48 + 7 * 2 ^ 42;
      regionOf a = .mmio (st []).chip.pkg (7 * 2 ^ 42) ∧ (st []).chip.decodeMiss a = false ∧ 7 * 2 ^ 42 / 2 ^ 42 = 7
        ∧ (st []).chip.get (Reg.PCI_CFG.BIFUR 7) = 0 ∧ 7 * 2 ^ 42 % 2 ^ 42 < 2 ^ 42 - 2 ^ 28 ∧ (st []).chip.linkUp 7 0 = false
        ∧ (st []).chip.cxlLink 7 0 = false ∧ (st [(Reg.PCI_LINK_STATUS.LINKS 7, 2)]).chip.linkUp 7 0 = true
        ∧ (st [(Reg.PCI_LINK_STATUS.LINKS 7, 2)]).chip.linkWaits 7 0 = false) := by decide +kernel

/-- A function table entry of tenant 0, Secure, in a state, with translation, tables at 0x30000 and a page request ring at 0x40000 (R379). -/
def fe (g : Nat) : Line := lineOf [g + 4, 0x30001, 0x40004, 2 ^ 22]

/-- Port 7 with link 0 up and a window of the first MiB of its address space onto memory from 0 up. -/
def portUp : List (Fld × Nat) :=
  [(Reg.PCI_LINK_STATUS.LINKS 7, 2), (Reg.PCI_IWIN.EN 7 0 0, 1), (Reg.PCI_IWIN.SIZE_LOG2 7 0 0, 20), (Reg.PCI_IWIN.FANY 7 0 0, 1),
   (Reg.PCI_IWIN.RD 7 0 0, 1), (Reg.PCI_IWIN.WR 7 0 0, 1)]

def tlp0 (write : Bool) : TlpIn := ⟨1, 1, 2, write, 0x20000, 8, 77, 5, false, false, 0⟩

theorem test_wit_FunctionsRun :
    (∀ g ∈ [fnOff, fnRun, fnFrozen, fnResetting], let s := st (dramUp ++ [(Reg.TNT_ENT.STATE 0, 1)]) (holds [(4096, fe g)]);
      runs s [Reg.PCI_FCMD.OP 7] = true ∧ s.chip.on (Reg.PCI_FCMD_STATUS.BUSY 7) = false
        ∧ s.chip.hubHolds (s.chip.fnAddr 7 4096 / 64) (s.chip.portWho 7) ⟨fe g, false⟩ = true ∧ feState (wordsOf 8 (fe g).toNat) = g
        ∧ fnEntryBad (wordsOf 8 (fe g).toNat) = false ∧ s.chip.tntState (feTenant (wordsOf 8 (fe g).toNat)) = tnActive
        ∧ SMap.get? s.chip.fns.flr (8192 * 7 + 4096) = none ∧ s.chip.fnBusy 7 4096 = false)
    ∧ fnEntryBad (wordsOf 8 (lineOf [0]).toNat) = true := by decide +kernel

theorem test_wit_FunctionsMove :
    (∀ off ∈ [true, false], let s := st dramUp (fun c => holds [(4096, fe fnResetting)] { c with fns := { c.fns with flr := [(8192 * 7 + 4096, off)], fcmd := [(7, 4096)] } });
      s.chip.halted = false ∧ SMap.get? s.chip.fns.flr (8192 * 7 + 4096) = some off ∧ SMap.get? s.chip.fns.fcmd 7 = some 4096
        ∧ s.chip.hubHolds (s.chip.fnAddr 7 4096 / 64) (s.chip.portWho 7) ⟨fe fnResetting, false⟩ = true) := by decide +kernel

theorem test_wit_FunctionsRun_inbound :
    (∀ write ∈ [true, false], let s := st (dramUp ++ (Reg.PCI_CFG.PERS 7, 1) :: portUp) (holds [(1, fe fnRun), (2048, 9#512)]);
      let W := wordsOf 8 (fe fnRun).toNat;
      s.chip.halted = false ∧ s.chip.inIdle = true ∧ s.chip.linkUp 7 0 = true ∧ s.chip.on (Reg.PCI_CFG.PERS 7) = true
        ∧ ((tlp0 write).fn, (tlp0 write).bar) = (1, 2) ∧ s.chip.tntState (feTenant W) ≠ tnResetting
        ∧ ((tlp0 write).err, (tlp0 write).poison, (tlp0 write).translated) = (0, false, false)
        ∧ s.chip.hubHolds (s.chip.fnAddr 7 1 / 64) (s.chip.portWho 7) ⟨fe fnRun, false⟩ = true ∧ feState W = fnRun
        ∧ s.chip.inWrOut 7 none = false ∧ s.chip.winDecode 7 1 0x20000 write = some 0x20000 ∧ s.chip.on Reg.REG_CTRL.EN = false
        ∧ isNormal 0x20000 = true ∧ s.chip.hubHolds (0x20000 / 64) (s.chip.fnWho 7 (s.chip.fnRid 7 1) W) ⟨9#512, false⟩ = true ∧ 8 ≤ 64 - 0x20000 % 64
        ∧ (tlp0 write).wf = true) := by decide +kernel

theorem test_wit_FunctionsRun_refused :
    (let s := st (portUp ++ [(Reg.PCI_CFG.FBUS 7, 1)]); s.chip.linkUp 7 0 = true ∧ s.chip.on (Reg.PCI_CFG.PERS 7) = false ∧ s.chip.fnIndex 7 1 = none)
    ∧ (let s := st ((Reg.PCI_CFG.PERS 7, 1) :: portUp); s.chip.linkUp 7 0 = true ∧ s.chip.on (Reg.PCI_CFG.PERS 7) = true) := by decide +kernel

theorem test_wit_FunctionsTranslate :
    (let e1 := 0x31001;
      let e2 := 0x33;
      let s := st dramUp (holds [(1, fe fnRun), (0xC00, BitVec.ofNat 512 e1), (0xC40, BitVec.ofNat 512 e2)]);
      let W := wordsOf 8 (fe fnRun).toNat;
      s.chip.halted = false ∧ s.chip.on (Reg.PCI_CFG.PERS 7) = false ∧ s.chip.get (Reg.PCI_CFG.FBUS 7) * 256 + 1 = 1
        ∧ s.chip.hubHolds (s.chip.fnAddr 7 1 / 64) (s.chip.portWho 7) ⟨fe fnRun, false⟩ = true ∧ bit (qw W 1) 0 = true
        ∧ bits (qw W 1) 12 40 * 4096 + 8 * bits 0 39 9 = 0x30000 ∧ s.chip.hubHolds (0x30000 / 64) (s.chip.fnWho 7 1 W) ⟨BitVec.ofNat 512 e1, false⟩ = true
        ∧ lineGet (BitVec.ofNat 512 e1) (0x30000 % 64) 8 = e1 ∧ bit e1 0 = true ∧ pteBad e1 1 = false
        ∧ bits e1 12 40 * 4096 + 8 * bits 0 30 9 = 0x31000 ∧ s.chip.hubHolds (0x31000 / 64) (s.chip.fnWho 7 1 W) ⟨BitVec.ofNat 512 e2, false⟩ = true
        ∧ lineGet (BitVec.ofNat 512 e2) (0x31000 % 64) 8 = e2 ∧ bit e2 0 = true ∧ bit e2 5 = true ∧ pteBad e2 2 = false ∧ bit e2 4 = true ∧ bit e2 1 = true
        ∧ bit (lineGet 2#512 0 8) 0 = false)
    ∧ (let s := st dramUp (holds [(1, fe fnRun), (0xFFF, 0#512), (0x1000, 0#512)]);
      let W := wordsOf 8 (fe fnRun).toNat;
      bits (qw W 2) 6 46 * 64 = 0x40000 ∧ lineGet 0#512 56 8 = 0 ∧ 0 < 2 ^ bits (qw W 2) 0 4
        ∧ s.chip.hubHolds (s.chip.fnAddr 7 1 / 64) (s.chip.portWho 7) ⟨fe fnRun, false⟩ = true
        ∧ s.chip.hubHolds (0x40000 / 64 - 1) (s.chip.fnWho 7 1 W) ⟨0#512, false⟩ = true
        ∧ s.chip.hubHolds ((0x40000 + 16 * 0) / 64) (s.chip.fnWho 7 1 W) ⟨0#512, false⟩ = true)
    ∧ (runs (st []) [Reg.PCI_XCMD.OP 7] = true ∧ (st []).chip.on (Reg.PCI_XCMD_STATUS.BUSY 7) = false
      ∧ (st [(Reg.PCI_XCMD_STATUS.BUSY 7, 1)]).chip.on (Reg.PCI_XCMD_STATUS.BUSY 7) = true)
    ∧ (∀ b ∈ [true, false], let s := st [(Reg.PCI_CFG.PERS 7, 1)] (fun c => { c with
        irqs := [⟨hubAgent 0 4 7, 63, 4096⟩]
        fns := { c.fns with msix := [(msixKey 7 4096 63, ⟨4096, 1, b⟩)] } });
      s.chip.irqs = [⟨hubAgent s.chip.pkg 4 7, 63, 4096⟩] ∧ s.chip.on (Reg.PCI_CFG.PERS 7) = true ∧ s.chip.fns.pba = [] ∧ s.chip.fns.fmask = []
        ∧ s.chip.linkWaits 7 0 = false
        ∧ (SMap.getD s.chip.fns.msix (msixKey 7 4096 63) MsixEnt.init).mask = b)
    ∧ ((st []).chip.linkUp 7 0 = false ∧ bit (st []).chip.pwr.perstLow 7 = false ∧ (st []).chip.on (Reg.PCI_CFG.PERS 7) = false) := by decide +kernel

/-! ### Board (spec/15, spec/18) -/

/-- The sideband target awake at address 0x42, in the Secure world. -/
def sbUp (l : List (Fld × Nat)) (f : Chip → Chip := id) : State := st ([(Reg.SB_STATUS.AWAKE, 1), (Reg.SB_CTRL.ADDR, 0x42), (Reg.SB_CTRL.WORLD, 1)] ++ l) f

theorem test_wit_SidebandServes :
    ((sbUp []).chip.halted = false ∧ (sbUp []).chip.inIdle = true ∧ (sbUp []).chip.sbMine 0x42 = true ∧ (sbUp []).chip.on Reg.SB_STATUS.AWAKE = true
      ∧ (sbUp []).chip.sbBusy = false)
    ∧ (sbUp [(Reg.SB_CTRL.PEC, 1)]).chip.on Reg.SB_CTRL.PEC = true ∧ (sbUp [(Reg.SB_CTRL.PEC, 1)]).chip.sbMine 0x42 = true
    ∧ (sbUp []).chip.on Reg.SB_CTRL.PEC = false
    ∧ (∀ off ∈ [0, 0xC9C00020, Reg.SB_CNT.ACCESSES.off / 8 * 8, 4],
        ((sbUp []).chip.rgnCheck 26 ((sbUp []).chip.csrAddr off) (sbUp []).chip.sbWho rightR).ok = true)
    ∧ (sbUp []).chip.writeRuns (sbUp []).chip.sbWho Reg.OTP_DATA.VALUE.off = true
    ∧ (let s := sbUp [] (fun c => { c with aud := { c.aud with ring := List.replicate 3840 ⟨0, 0, false, false⟩ } });
      audHold ≤ s.chip.aud.ring.length ∧ s.chip.csrHeld 0 = false ∧ s.chip.stage.op ≠ 2 ∧ s.chip.halted = false ∧ s.chip.inIdle = true ∧ s.chip.sbBusy = false)
    ∧ (sbUp []).chip.pwr.aonOk = true
    ∧ (let s := sbUp [] (fun c => { c with pwr := { c.pwr with asleep := true }, sb := { c.sb with due := true } });
      s.chip.sbMine 0x42 = true ∧ s.chip.pwr.aonOk = true ∧ s.chip.pwr.asleep = true ∧ s.chip.sb.due = true)
    ∧ runs (st []) [Reg.SB_ALERT.SET] = true ∧ runs (st [(Reg.SB_CTRL.I3C, 1)]) [Reg.SB_ALERT.SET] = true
    ∧ (st []).chip.on Reg.SB_CTRL.I3C = false ∧ (st [(Reg.SB_CTRL.I3C, 1)]).chip.on Reg.SB_CTRL.I3C = true
    ∧ (let s := st [(Reg.SB_ALERT.PENDING, 1)]; s.chip.pwr.aonOk = true ∧ s.chip.on Reg.SB_CTRL.I3C = false ∧ s.chip.on Reg.SB_ALERT.PENDING = true)
    ∧ (let s := st [(Reg.SB_CTRL.WAKE_EN, 1), (Reg.SB_CTRL.WAKE_ADDR, 0x77)] (fun c => { c with pwr := { c.pwr with asleep := true } });
      s.chip.pwr.aonOk = true ∧ s.chip.on Reg.SB_CTRL.WAKE_EN = true ∧ s.chip.get Reg.SB_CTRL.WAKE_ADDR = 0x77 ∧ s.chip.wakeFault = false
        ∧ s.chip.pwr.asleep = true ∧ s.chip.pwr.wakeStep = 0 ∧ s.chip.pwr.retry = none) := by decide +kernel

/-- The hub's instruction is DEBUG, and every debug enable is set. -/
def dbgUp (d : Option (Bool × Bool × Nat × Nat)) : State :=
  st (dramUp ++ [(Reg.SEC_DBG.ENABLES, 15)]) (fun c => holds [(1, 7#512)] { c with tap := { dies := [(0, ⟨16, 5⟩)], dbg := d, capture := 0 } })

theorem test_wit_TestPortActs_instructions :
    ((st []).chip.tapDie 0 = true ∧ (st []).chip.tapDie 12 = true ∧ (st [(Reg.PWR_GATED.GATED, 0x800)]).chip.tapDie 12 = false
      ∧ (st [(Reg.PWR_GATED.GATED, 0x800)]).chip.tapDie 11 = true)
    ∧ (((dbgUp none).chip.tapOf 0).instr = 16 ∧ (dbgUp none).chip.tap.dbg = none
      ∧ (∀ w ∈ [true, false], ∀ s ∈ [true, false], (dbgUp none).chip.dbgAllows w s 64 = true
          ∧ (st []).chip.dbgAllows w s 64 = false ∧ (dbgUp none).chip.dbgAllows w s 0x1000000000000 = false)) := by decide +kernel

theorem test_wit_TestPortActs :
    (∀ w ∈ [true, false], let s := dbgUp (some (w, true, 64, 9));
      s.chip.halted = false ∧ s.chip.inIdle = true ∧ s.chip.tap.dbg = some (w, true, 64, 9)
        ∧ s.chip.hubHolds (64 / 64) ⟨hubAgent s.chip.pkg 6 0, 0, true, 3, 0⟩ ⟨7#512, false⟩ = true)
    ∧ ((st []).chip.boot.step ≠ 3)
    ∧ (let s := st [] (fun c => { c with boot := ⟨3, 0, 1, 2, 0⟩ });
      s.chip.halted = false ∧ s.chip.pwr.flashLow = false ∧ s.chip.boot.step = 3 ∧ s.chip.boot.slot = 0) := by decide +kernel

/-! ### Power and reset (spec/16, spec/18) -/

/-- Core 239 in a C-state with a step of C3 entry or exit. -/
def stp3 (l : List (Fld × Nat)) (cst c3 : Nat) (f : Chip → Chip := id) : State :=
  st ([(Reg.PWR_CORE_STATUS.CSTATE 11 19, cst), (Reg.PWR_CL_CTRL.C3_EN 11 4, 1)] ++ l) (fun c => f { c with core := [(239, { CoreSt.init with c3 := c3 })] })

/-- The save image of context 959 lies in its L2, one line of it poisoned or none. -/
def saved (bad : Bool) (c : Chip) : Chip :=
  c.setL2 ((c.saveLines 959).foldl (fun m l => SMap.set m (l2Base 59 l) { cl0 with line := l, st := .m, ld := ⟨0, bad && l == 10239⟩ }) [])

theorem test_wit_CoresSleep :
    (let s := stp3 [] 0 0;
      s.chip.halted = false ∧ s.chip.corePresent (239 / 20) (239 % 20) = true ∧ s.chip.cstate 239 = 0
        ∧ (∀ x ∈ coreCtxs 239, s.chip.cxState x ≠ cxReady ∧ s.chip.cxState x ≠ cxRunning))
    ∧ (stp3 [] 1 0).chip.c3May 239 = true ∧ (stp3 [(fState 959, cxIdle)] 1 0).chip.c3May 239 = true
    ∧ (((stp3 [] 1 1).chip.coreOf 239).c3 = 1 ∧ (stp3 [] 1 1).chip.savedAll 239 = true)
    ∧ ((stp3 [] 1 2).chip.coreOf 239).c3 = 2 := by decide +kernel

theorem test_wit_SavedImages :
    (let s := stp3 [(fState 959, cxIdle)] 1 1 (saved false); (s.chip.coreOf 239).c3 = 1 ∧ s.chip.savedAll 239 = true)
    ∧ (∀ bad ∈ [true, false], let s := stp3 [(fState 959, cxIdle)] 2 3 (saved bad);
      s.chip.cstate 239 = 2 ∧ (s.chip.coreOf 239).c3 = 3 ∧ s.chip.cxState 959 = cxIdle
        ∧ (∀ l ∈ s.chip.saveLines 959, (s.chip.l2Find (cluIx 959) l).isSome = true)
        ∧ (s.chip.l2Find (cluIx 959) 10239).map (·.2.ld.poison) = some bad ∧ (10239 ∈ s.chip.saveLines 959)) := by decide +kernel

theorem test_wit_CoresAndBlocksPower :
    (runs (st []) [Reg.CORE_CTX_CTRL.START 11 19 3, Reg.CORE_CTX_CTRL.START 0 0 0, Reg.PWR_CL_CTRL.C3_EN 11 4, Reg.PWR_GATE_CMD.OP] = true
      ∧ (st []).chip.cxPresent 959 = true ∧ ((st []).chip.coreOf (coreIx 959)).c3 = 0 ∧ (st []).chip.fwQuiet = false
      ∧ (st []).chip.bootStopped = false ∧ (st []).chip.on (Reg.PWR_CL_CTRL.OFF 11 4) = false ∧ (st []).chip.cxState 959 = cxOff)
    ∧ (st [(fState 959, cxIdle)]).chip.cxState 959 ≠ cxOff
    ∧ (let s := stx [(fState 959, cxRunning)] { Ctx.init with serial := some ⟨.fence 0, [], [], [], [], true, 0⟩ };
      s.chip.cxState 959 = cxRunning ∧ (s.chip.ctxOf 959).serial = some ⟨.fence 0, [], [], [], [], true, 0⟩
        ∧ runs s [Reg.CORE_CTX_CTRL.START 11 19 3] = true ∧ (s.chip.coreOf (coreIx 959)).c3 = 0)
    ∧ ((st []).chip.cluPresent 11 4 = true ∧ (st []).chip.clDenied sec 11 4 = false
      ∧ (st [(Reg.SEC_OWN0.CLUSTERS, 2 ^ 59)]).chip.clDenied nor 11 4 = true)
    ∧ ((st []).chip.on (Reg.CL_L2_STATUS.DRAINED 11 4) = false
      ∧ (let s := st [(Reg.CL_L2_STATUS.DRAINED 11 4, 1)]; s.chip.on (Reg.CL_L2_STATUS.DRAINED 11 4) = true ∧ (∀ x ∈ cluCtxs 11 4, s.chip.cxState x = cxOff))
      ∧ (st [(Reg.PWR_CL_CTRL.OFF 11 4, 1)]).chip.on (Reg.PWR_CL_CTRL.OFF 11 4) = true) := by decide +kernel

theorem test_wit_BlocksGate :
    ((st [(Reg.SEC_OWN1.BLOCKS, 2 ^ 51)]).chip.gateDenied nor 51 = true ∧ (st []).chip.gateDenied sec 51 = false
      ∧ (st [(Reg.PWR_GATE_STATUS.BUSY, 1)]).chip.on Reg.PWR_GATE_STATUS.BUSY = true ∧ (st []).chip.on Reg.PWR_GATE_STATUS.BUSY = false
      ∧ gateOffers 51 2 = false ∧ gateOffers 51 1 = true ∧ gateOffers 50 2 = true ∧ gateOffers 11 1 = false ∧ gateOffers 51 3 = true
      ∧ (st []).chip.gated 51 = false ∧ (st [(Reg.PWR_GATED.GATED, 2 ^ 51)]).chip.gated 51 = true
      ∧ (st []).chip.gateReady 51 1 = true ∧ (st [(Reg.HQE_CTRL.EN, 1)]).chip.gateReady 51 1 = false
      ∧ (st []).chip.gateReady 12 2 = true ∧ (st dramUp).chip.gateReady 12 2 = false)
    ∧ (∀ n ∈ [12, 49, 51], let s := st [] (fun c => { c with pwr := { c.pwr with gate := some (n, 2, 0) } });
      s.chip.halted = false ∧ s.chip.pwr.gate = some (n, 2, 0))
    ∧ (toSigned 8 0xFF = -1 ∧ toSigned 8 125 = 125)
    ∧ (let s := st [(Reg.PWR_THERM.WARN 11, 95), (Reg.PWR_THERM.CRIT 11, 105)];
      s.chip.halted = false ∧ toSigned 8 (s.chip.get (Reg.PWR_THERM.WARN 11)) = 95 ∧ toSigned 8 (s.chip.get (Reg.PWR_THERM.CRIT 11)) = 105) := by
  decide +kernel

/-- Freewheel entry at a step. -/
def fw (n : Nat) (l : List (Fld × Nat)) (f : Chip → Chip := id) : State := st ([(Reg.PWR_PK_STATUS.STATE, pkEntering), (Reg.PWR_PK_STATUS.STEP, n)] ++ l) f

/-- The package asleep in Freewheel. -/
def slept (l : List (Fld × Nat)) (w : PwrSt) : State := st l (fun c => { c with pwr := { w with asleep := true } })

theorem test_wit_FreewheelEntryCommands :
    (runs (st []) [Reg.PWR_PK_CMD.OP, Reg.PWR_SEC_ACK.ACK] = true ∧ runs (fw 1 []) [Reg.PWR_PK_CMD.OP, Reg.PWR_SEC_ACK.ACK] = true
      ∧ (st []).chip.entering = false ∧ (fw 1 []).chip.entering = true ∧ (fw 1 []).chip.fwStep = 1 ∧ (fw 1 []).chip.halted = false
      ∧ (st [(Reg.PWR_SEC_IRQ.EN, 1)]).chip.on Reg.PWR_SEC_IRQ.EN = true)
    ∧ ((fw 2 []).chip.fwStep = 2 ∧ (fw 2 []).chip.quiescent = true ∧ (fw 2 [(Reg.HQE_CTRL.EN, 1)]).chip.quiescent = false
      ∧ (fw 2 [(fState 959, cxIdle)]).chip.quiescent = false)
    ∧ ((fw 3 []).chip.fwStep = 3 ∧ (fw 3 []).chip.flushed = true ∧ (fw 3 [] (·.setL2 [(0, cl0)])).chip.flushed = false
      ∧ (fw 3 []).chip.coh.hc = [] ∧ (fw 3 []).chip.coh.hcFills = [] ∧ (fw 3 []).chip.pg.jobs = [] ∧ (fw 3 []).chip.pg.chk = []
      ∧ (∀ ch < 24, ((fw 3 []).chip.mcOf ch).inq = [])) := by decide +kernel

theorem test_wit_FreewheelSleepsAndWakes :
    ((fw 4 []).chip.fwStep = 4 ∧ (fw 4 []).chip.aud.ring ≠ []
      ∧ (let s := fw 4 [(Reg.AUD_CTRL.MRAM_EN, 0)] (fun c => { c with aud := { c.aud with ring := [] } });
        s.chip.aud.ring = [] ∧ s.chip.aud.waiting = [] ∧ s.chip.on Reg.AUD_CTRL.MRAM_EN = false ∧ (∀ ch < 24, s.chip.mcState ch ≠ mcReady)))
    ∧ ((fw 5 []).chip.fwStep = 5 ∧ (∀ ch < 24, bit (fw 5 []).chip.pwr.chans ch = true → (fw 5 []).chip.mcState ch = mcSelfRefresh))
    ∧ (fw 6 []).chip.fwStep = 6 ∧ (fw 6 []).chip.sec.otpJob = none ∧ (fw 6 [(Reg.TIME_STATUS.VALID, 1)]).chip.on Reg.TIME_STATUS.VALID = true ∧ (fw 6 []).chip.on Reg.TIME_STATUS.VALID = false
    ∧ (let s := slept [(Reg.PWR_WAKE_CTRL.TIMER_EN, 1), (Reg.PWR_WAKE_CTRL.PIN_EN, 1), (Reg.PWR_WAKE_TIMER.COUNT, 9), (Reg.TIME_AO_COUNT.COUNT, 9)] PwrSt.init;
      s.chip.pwr.asleep = true ∧ s.chip.pwr.wakeStep = 0 ∧ s.chip.pwr.retry = none ∧ s.chip.wakeFault = false
        ∧ s.chip.on Reg.PWR_WAKE_CTRL.TIMER_EN = true ∧ s.chip.on Reg.PWR_WAKE_CTRL.PIN_EN = true
        ∧ s.chip.get Reg.TIME_AO_COUNT.COUNT = s.chip.get Reg.PWR_WAKE_TIMER.COUNT)
    ∧ (∀ n ∈ [1, 2, 3, 4], (slept [] { PwrSt.init with wakeStep := n }).chip.pwr.wakeStep = n)
    ∧ (let s := slept [(Reg.MC_STATUS.STATE 23, mcSelfRefresh), (Reg.MC_CFG.EN 23, 1)] { PwrSt.init with wakeStep := 3 };
      s.chip.mcState 23 = mcSelfRefresh ∧ s.chip.on (Reg.MC_CFG.EN 23) = true)
    ∧ (wakeCodeOk (1 - 1) 1 12 = true ∧ wakeCodeOk (3 - 1) 1 23 = true)
    ∧ (let s := slept [(Reg.PWR_WAKE_RETRIES.RETRIES, 1)] { PwrSt.init with wakeStep := 3, attempt := 1 };
      s.chip.pwr.wakeStep = 3 ∧ s.chip.pwr.attempt ≤ s.chip.get Reg.PWR_WAKE_RETRIES.RETRIES)
    ∧ (let s := slept [(Reg.PWR_WAKE_RETRIES.RETRIES, 1)] { PwrSt.init with wakeStep := 3, attempt := 2 };
      s.chip.get Reg.PWR_WAKE_RETRIES.RETRIES < s.chip.pwr.attempt)
    ∧ (slept [] { PwrSt.init with retry := some 0 }).chip.pwr.retry = some 0 := by decide +kernel

theorem test_wit_ResetsRestore :
    ((Reg.PWR_PK_STATUS.STATE.rk ≠ .never ∧ (∀ g ∈ auditFields, Reg.PWR_PK_STATUS.STATE.addr ≠ g.addr) ∧ Reg.PWR_PK_STATUS.STATE.rk = .warm)
      ∧ (∀ g ∈ [Reg.HUB_PKG_ID.PKG, Reg.SB_CTRL.ADDR, Reg.SB_CTRL.WAKE_ADDR], Reg.PWR_PK_STATUS.STATE.addr ≠ g.addr))
    ∧ ((st []).chip.pwr.coldLow = false ∧ (st [] (fun c => { c with pwr := { c.pwr with coldLow := true } })).chip.pwr.coldLow = true
      ∧ (st [] (fun c => { c with sec := { c.sec with wdogFiring := true } })).chip.sec.wdogFiring = true)
    ∧ ((st [(Reg.CFG_LOCK.HELD 63, 1)]).chip.on (Reg.CFG_LOCK.HELD 63) = true)
    ∧ ((st []).chip.diePresent 11 = true ∧ (st [] (fun c => { c with presence := [(11, 0)] })).chip.diePresent 11 = false
      ∧ (st [] (fun c => { c with presence := [(11, 0)] })).chip.cxPresent 959 = false
      ∧ (Reg.PWR_CL_CTRL.OFF 11 4).rk = .die ∧ (Reg.PWR_CL_CTRL.OFF 11 4).addr / (8 * 0x10000000) = 11
      ∧ (Reg.PWR_CL_CTRL.OFF 11 4).addr ≠ (Reg.SPKD_STATUS.STATE 11).addr)
    ∧ ((st []).chip.cxPresent 959 = true
      ∧ (let s := st [(Reg.CFG_LOCK.HELD 63, 1), (Reg.CFG_LOCK.OWNER 63, (st []).chip.cxAgent 959)];
        s.chip.halted = false ∧ s.chip.on (Reg.CFG_LOCK.HELD 63) = true ∧ s.chip.get (Reg.CFG_LOCK.OWNER 63) = s.chip.cxAgent 959))
    ∧ (st []).chip.sec.otpJob = none
    ∧ ((st []).chip.pwr.aonOk = true ∧ (st [] (fun c => { c with pwr := { c.pwr with aonOk := false } })).chip.pwr.aonOk = false
      ∧ (st []).chip.pwr.asleep = false ∧ (slept [] PwrSt.init).chip.pwr.asleep = true) := by decide +kernel

/-! ### Registers and monitoring (spec/01, spec/17) -/

theorem test_wit_RegistersAnswer :
    (runs (st []) [Reg.AUD_IRQ.EN, Reg.HUB_AMAP_LOCK.LOCK] = true)
    ∧ (let s := st [];
      s.chip.quiet = true ∧ (∀ off ∈ [Reg.TIME_NOW.VALUE.off, 0xFFFFFFF8, 4],
          (s.chip.rgnCheck 26 (s.chip.csrAddr off) sec rightW).ok = true ∧ s.chip.csrParked off = false ∧ s.chip.csrHeld off = false ∧ s.chip.hwHolds off = false ∧ off ≠ 0xC9C00020)
        ∧ s.chip.aud.ring.length < audHold ∧ s.chip.aud.held = []
        ∧ (∀ off ∈ [Reg.TIME_NOW.VALUE.off, 0xFFFFFFF8], off % 8 = 0 ∧ s.chip.csrBlocked sec off = true ∧ svPage off = none))
    ∧ ((st []).chip.readRuns sec 0 = true ∧ (st []).chip.readRuns sec Reg.AUD_STALL_CNT.STALLS.off = true)
    ∧ (let s := st [];
      s.chip.writeRuns sec Reg.PMU_CC_RING.BASE.off = true ∧ s.chip.readRuns sec Reg.PMU_CC_RING.BASE.off = true
        ∧ (findReg Reg.blocks Reg.PMU_CC_RING.BASE.off).isSome = true ∧ (findReg Reg.blocks Reg.AUD_STALL_CNT.STALLS.off).isSome = true
        ∧ (∀ off ∈ [Reg.PMU_CC_RING.BASE.off, Reg.AUD_STALL_CNT.STALLS.off],
            off % 8 = 0 ∧ s.chip.csrAbsent off = false ∧ csrNoInstance off = false ∧ svPage off = none))
    ∧ (let s := st [(Reg.HUB_AMAP_LOCK.LOCK, 1), (Reg.HUB_AMAP_LOCK.BAD, 1)];
      runs s [Reg.HUB_AMAP_LOCK.LOCK] = true ∧ s.chip.on Reg.HUB_AMAP_LOCK.LOCK = true)
    ∧ ((st []).chip.on Reg.HUB_AMAP_LOCK.LOCK = false ∧ (st []).chip.amapOk = true ∧ (st [(Reg.HUB_ILV.EN 7, 1)]).chip.amapOk = false
      ∧ runs (st [(Reg.HUB_ILV.EN 7, 1)]) [Reg.HUB_AMAP_LOCK.LOCK] = true) := by decide +kernel

/-- A register whose write does no more than store its fields. -/
theorem test_wit_RegistersAnswer_plain (c : Chip) (w : Who) (v : Nat) :
    c.csrAction w Reg.PMU_CC_RING.BASE.off v = c.storeAt Reg.PMU_CC_RING.BASE.off v := rfl

def smp0 : Sample := ⟨1, 5, [], 0, 0⟩

/-- Context 959 has a sample, and die 11's last core a ring of two records at 0x10000. -/
def stsmp (l : List (Fld × Nat)) (k : Ctx) : State :=
  st (dramUp ++ [(Reg.SEC_RGN.EN 0 0, 1), (Reg.SEC_RGN.RIGHTS 0 0, 7), (Reg.SEC_RGN.ANY 0 0, 1), (Reg.SEC_RGN.WORLD 0 0, 2),
      (Reg.SEC_RGN.LIMIT 0 0, 2 ^ 40 - 1), (Reg.PMU_SMP_BUF.LOG2 11 19, 1), (Reg.PMU_SMP_BUF.BASE 11 19, 16)] ++ l) (fun c => holds [(1025, 7#512)] { c with ctx := [(959, k)] })

theorem test_wit_SamplesClose :
    (let s := stsmp [] { Ctx.init with sample := some ⟨2, 5, [], 0, 0⟩, sq := [{ devW with seq := 5 }] };
      s.chip.halted = false ∧ (s.chip.ctxOf 959).sampleOver ⟨2, 5, [], 0, 0⟩ = false)
    ∧ (let s := stsmp [(Reg.PMU_SMP_PTR.PROD 11 19, 1), (Reg.PMU_SMP_PTR.CONS 11 19, 2 ^ 32 - 1)] { Ctx.init with sample := some smp0 };
      s.chip.halted = false ∧ (s.chip.ctxOf 959).sample = some smp0 ∧ (s.chip.ctxOf 959).sampleOver smp0 = true
        ∧ 2 ^ s.chip.get (Reg.PMU_SMP_BUF.LOG2 (959 / 80) (959 % 80 / 4)) = 2
        ∧ (s.chip.get (Reg.PMU_SMP_PTR.PROD 11 19) + 2 ^ 32 - s.chip.get (Reg.PMU_SMP_PTR.CONS 11 19)) % 2 ^ 32 = 2)
    ∧ (let s := stsmp [(Reg.PMU_SMP_PTR.PROD 11 19, 2 ^ 32 - 1), (Reg.PMU_SMP_PTR.CONS 11 19, 2 ^ 32 - 2)] { Ctx.init with sample := some smp0 };
      s.chip.halted = false ∧ (s.chip.ctxOf 959).sample = some smp0 ∧ (s.chip.ctxOf 959).sampleOver smp0 = true
        ∧ (s.chip.get (Reg.PMU_SMP_PTR.PROD 11 19) + 2 ^ 32 - s.chip.get (Reg.PMU_SMP_PTR.CONS 11 19)) % 2 ^ 32 = 1
        ∧ s.chip.hubHolds (s.chip.get (Reg.PMU_SMP_BUF.BASE (959 / 80) (959 % 80 / 4)) * 64 + (2 ^ 32 - 1) % 2) ⟨s.chip.cxAgent 959, 0, false, 3, 0⟩
            ⟨7#512, false⟩ = true) := by decide +kernel

/-- The Collector runs, with a ring of two slots at 0x10000 whose PROD is given, and its list at 0x20000. -/
def stcc (l : List (Fld × Nat)) (prod : Nat) (k : CcSt) : State :=
  st (dramUp ++ [(Reg.PMU_CC_CTRL.EN, 1), (Reg.PMU_CC_CTRL.WORLD, 1), (Reg.PMU_CC_CTRL.INTERVAL, 1), (Reg.PMU_CC_CTRL.COUNT, 1), (Reg.PMU_CC_RING.BASE, 1),
    (Reg.PMU_CC_RING.LOG2, 1), (Reg.PMU_CC_LIST.BASE, 32), (Reg.TIME_NOW.VALUE, 8000)] ++ l)
    (fun c => holds [(1024, BitVec.ofNat 512 (prod * 2 ^ 64)), (1026, 0), (1027, 0), (1028, 0), (1029, 0),
      (2048, BitVec.ofNat 512 ((Reg.PMU_CNT.VALUE 11 19 7).off))] { c with cc := k })

theorem test_wit_CountersAndSamplesRecord :
    ((st []).chip.corePresent 11 19 = true ∧ (st []).chip.diePresent 11 = true ∧ (st []).chip.readRuns sec (Reg.PMU_CNT.VALUE 11 19 7).off = true
      ∧ runs (st []) [Reg.PMU_CNT.VALUE 11 19 7] = true)
    ∧ (let s := stcc [] 0 ⟨1, none, false⟩;
      s.chip.halted = false ∧ s.chip.on Reg.PMU_CC_CTRL.EN = true ∧ s.chip.on Reg.PMU_CC_STATUS.ERR = false ∧ s.chip.cc.mark < s.chip.ccMark
        ∧ s.chip.cc.snap = none)
    ∧ (let s := stcc [] 0 ⟨1, some (7999, 1, RegFile.reset), false⟩; s.chip.cc.mark < s.chip.ccMark ∧ s.chip.cc.snap.isSome = true) := by decide +kernel

theorem test_wit_SnapshotsFit :
    (let s := stcc [] 2 ⟨2, some (7999, 1, RegFile.reset), false⟩;
      let r := s.chip.asking.hubReadB 65536 16 s.chip.ccWho;
      s.chip.halted = false ∧ r.2.2.2.coh.wants = some none ∧ r.1 = .ok ∧ r.2.1 = false ∧ (bits r.2.2.1 64 64 + 2 ^ 64 - bits r.2.2.1 0 64) % 2 ^ 64 = 2 ^ s.chip.get Reg.PMU_CC_RING.LOG2)
    ∧ (let s := stcc [] 1 ⟨2, some (7999, 1, RegFile.reset), false⟩;
      let r := s.chip.asking.hubReadB 65536 16 s.chip.ccWho;
      let q := r.2.2.2.hubReadB (s.chip.get Reg.PMU_CC_LIST.BASE * 4096) (8 * 1) s.chip.ccWho;
      let u := q.2.2.2.hubWrite (65536 + 64 + 64 * ((64 + 16 * 1 + 63) / 64) * (bits r.2.2.1 64 64 % 2 ^ s.chip.get Reg.PMU_CC_RING.LOG2)) (64 + 16 * 1) 0 s.chip.ccWho .awaited;
      r.1 = .ok ∧ r.2.1 = false ∧ (bits r.2.2.1 64 64 + 2 ^ 64 - bits r.2.2.1 0 64) % 2 ^ 64 ≠ 2 ^ s.chip.get Reg.PMU_CC_RING.LOG2
        ∧ q.1 = .ok ∧ q.2.1 = false ∧ q.2.2.2.get Reg.PMU_CC_RING.BASE * 65536 = 65536 ∧ q.2.2.2.get Reg.PMU_CC_RING.LOG2 = s.chip.get Reg.PMU_CC_RING.LOG2
        ∧ counterAt (bits q.2.2.1 (64 * 0) 32) = some (Reg.PMU_CNT.VALUE 11 19 7, Reg.PMU_CNT.OVF 11 19 7, Reg.PMU_CNT.LOVF 11 19 7)
        ∧ q.2.2.2.csrAbsent (bits q.2.2.1 (64 * 0) 32) = false
        ∧ u.1 = .ok ∧ (u.2.hubWrite (65536 + 8) 8 ((bits r.2.2.1 64 64 + 1) % 2 ^ 64) s.chip.ccWho .awaited).1 = .ok
        ∧ (u.2.hubWrite (65536 + 8) 8 ((bits r.2.2.1 64 64 + 1) % 2 ^ 64) s.chip.ccWho .awaited).2.coh.wants = some none) := by decide +kernel

theorem test_wit_EnergyIsCredited :
    ((([(0, 1), (1024, 2)] : SMap Nat).map (·.1)).Nodup)
    ∧ (let s := st [(Reg.TIME_NOW.VALUE, 4000)]; s.chip.halted = false ∧ s.chip.nrg.mark < s.chip.time / 4000 ∧ s.chip.nrg.degr = []
      ∧ (st [(Reg.TIME_NOW.VALUE, 3999)]).chip.time / 4000 ≤ (st [(Reg.TIME_NOW.VALUE, 3999)]).chip.nrg.mark)
    ∧ (∀ n ∈ [0, 1600], let k : Credit := ⟨n, [(316, 5)], [(1024 * 4095 + 960, 5)]⟩;
      let s := st [] (fun c => { c with nrg := { c.nrg with due := [k] } });
      s.chip.nrg.due = k :: [] ∧ k.ticks = n ∧ (∀ p ∈ k.doms, p.1 < 317) ∧ (∀ p ∈ k.shares, p.1 / 1024 < 4096 ∧ p.1 % 1024 ≤ 960)) := by
  decide +kernel

/-! ### Contexts (spec/03 to spec/05) -/

/-- A syllable of the format with two sources (R83), and a bundle with one operation in a slot. -/
def syl (maj pred rd ra rb min : Nat) : Nat := maj * 2 ^ 25 + pred * 2 ^ 21 + rd * 2 ^ 15 + ra * 2 ^ 9 + rb * 2 ^ 3 + min
def inSlot (n v : Nat) : Nat := v * 2 ^ (32 * n)

/-- Context 959 runs at level H in the Secure world, and has fetched a bundle at its pc. -/
def run959 (b : Nat) (k : Ctx) (l : List (Fld × Nat)) (f : Chip → Chip := id) : State :=
  stx ([(fState 959, cxRunning), (fPriv 959, 2), (fWorld 959, 1)] ++ l) { k with fetch := some ⟨k.pc, b, false, 2, true⟩ } f

/-- Context 959 idle at level U in the Secure world, with its interrupts routed to level H. -/
def idle959 (k : Ctx) (f : Chip → Chip := id) : State := stx [(fState 959, cxIdle), (fPriv 959, 0), (fWorld 959, 1)] k f

theorem test_wit_ContextsTakeInterruptsAndTurns :
    (let i : Irq := ⟨agentOf 0 11 4 3 3, 63, 0⟩;
      let s := idle959 Ctx.init (fun c => { c with irqs := [i] });
      s.chip.halted = false ∧ s.chip.irqs = i :: [] ∧ s.chip.portIrq i = false ∧ s.chip.ownCtx i.agent = true ∧ ctxOfAgent i.agent = 959
        ∧ s.chip.cxPresent 959 = true ∧ s.chip.irqBest 959 = none ∧ bit (s.chip.csr 959 csIrqEn) 63 = false)
    ∧ (let k := (Ctx.init.csPut csIrqEn true (2 ^ 63)).csPut csIrqWorld true (2 ^ 63);
      let i : Irq := ⟨agentOf 0 11 4 3 3, 63, 0⟩;
      let s := idle959 k (fun c => { c with irqs := [i] });
      s.chip.irqs = i :: [] ∧ s.chip.cxState 959 = cxIdle ∧ s.chip.cstate (959 / 4) ≤ 1 ∧ bit (s.chip.csr 959 csIrqEn) 63 = true
        ∧ bit (s.chip.csr 959 csIrqWorld) 63 = s.chip.cxSecure 959 ∧ s.chip.irqLevel 959 63 = 2 ∧ s.chip.cxPriv 959 < 2)
    ∧ (let k := ((Ctx.init.csPut csIrqEn true (2 ^ 63)).csPut csIrqWorld true (2 ^ 63)).csPut csTimerCmp false 9;
      let s := st [(fState 959, cxIdle), (fPriv 959, 0), (fWorld 959, 1), (Reg.TIME_NOW.VALUE, 9)] (fun c => { c with ctx := [(959, k)] });
      s.chip.cxState 959 = cxIdle ∧ s.chip.cstate (959 / 4) ≤ 1 ∧ (s.chip.ctxOf 959).csGet csTimerCmp false ≠ 0
        ∧ (s.chip.ctxOf 959).csGet csTimerCmp false ≤ s.chip.time ∧ bit (s.chip.csr 959 csIrqEn) 63 = true
        ∧ bit (s.chip.csr 959 csIrqWorld) 63 = s.chip.cxSecure 959 ∧ s.chip.irqLevel 959 63 = 2 ∧ s.chip.cxPriv 959 < 2)
    ∧ (let s := run959 0 Ctx.init [(fState 956, cxReady)] (fun c => { c with core := [(239, { CoreSt.init with quantum := 1 })] });
      s.chip.halted = false ∧ s.chip.coreRunning 239 = some 959 ∧ (s.chip.coreOf 239).quantum ≠ 0 ∧ s.chip.peerReady 959 = true
        ∧ (s.chip.coreOf 239).switching = false ∧ (run959 0 Ctx.init []).chip.peerReady 959 = false)
    ∧ (let s := run959 0 Ctx.init [] (fun c => { c with core := [(239, { CoreSt.init with switching := true })] });
      s.chip.coreRunning 239 = some 959 ∧ (s.chip.coreOf 239).switching = true ∧ (s.chip.spkOf (239 / 20)).silent = false) := by decide +kernel

/-- g5 ← g6 + g7 in slot 0, and an 8-byte store of g5 at g6 in slot 3. -/
def bAdd : Nat := inSlot 0 (syl 0x01 0 5 6 7 0)
def bStore : Nat := inSlot 3 (syl 0x21 0 5 6 0 3)
/-- g63 ← g6 / g7 in slot 0. -/
def bDiv : Nat := inSlot 0 (syl 0x12 0 63 6 7 0)

theorem test_wit_BundlesIssue :
    (let p : Pend := ⟨63, 7, 0, 0, 5, true, false, 0, 0, 0⟩;
      let s := run959 0 { Ctx.init with pend := [p], idx := 7 } [];
      s.chip.issues 959 0 = true ∧ (s.chip.ctxOf 959).csGet csRepCount false = 0 ∧ (s.chip.ctxOf 959).pend = [p] ∧ p.wp ≤ (s.chip.ctxOf 959).idx
        ∧ p.ready = true ∧ p.poison = false ∧ p.code < 0x40 ∧ p.flags = 0)
    ∧ (let s := run959 bAdd { Ctx.init with g := [(6, 2 ^ 64 - 1), (7, 2)] } [];
      s.chip.issues 959 bAdd = true ∧ (s.chip.ctxOf 959).pend = [] ∧ (∀ i < 6, i ≠ 0 → (opnAt bAdd i).syl = 0)
        ∧ (opnAt bAdd 0).activeOn ((s.chip.ctxOf 959).pr (opnAt bAdd 0).pred) = true
        ∧ bundleLegal bAdd (s.chip.sprkEnt (959 / 4) (s.chip.cxSecure 959)) = true ∧ (opnAt bAdd 0).maj = 0x01
        ∧ (opnAt bAdd 0).eval (s.chip.ctxOf 959).view = some (.g 5, 1, 0) ∧ (Dst.g 5).code ≠ 0 ∧ (Dst.g 5).code ≠ 0x60)
    ∧ (let s := run959 bStore { Ctx.init with g := [(6, 64)] } [];
      s.chip.issues 959 bStore = true ∧ (∀ i < 6, i ≠ 3 → (opnAt bStore i).syl = 0)
        ∧ (opnAt bStore 3).activeOn ((s.chip.ctxOf 959).pr (opnAt bStore 3).pred) = true
        ∧ bundleLegal bStore (s.chip.sprkEnt (959 / 4) (s.chip.cxSecure 959)) = true ∧ (opnAt bStore 3).isStore = true
        ∧ (opnAt bStore 3).ea (s.chip.ctxOf 959).view % (opnAt bStore 3).size = 0
        ∧ s.chip.translate 959 ((opnAt bStore 3).ea (s.chip.ctxOf 959).view) .store (s.chip.cxSecure 959) = .ok 64 0 ∧ isNormal 64 = true
        ∧ s.chip.lmqUsed (959 / 4) < 32 ∧ (s.chip.ctxOf 959).sqCount < 16)
    ∧ (let s := stc [] (fun h => { h with l1d := [(l1dBase 239 0, cl0)] }); s.chip.halted = false ∧ s.chip.l1dFind 239 0 = some (l1dBase 239 0, cl0)) := by
  decide +kernel

theorem test_wit_BundlesTrapOrEnd :
    (let b := inSlot 5 (syl 0x3D 0 5 6 7 7);
      let s := run959 b Ctx.init [];
      s.chip.issues 959 b = true ∧ (∀ i < 6, i ≠ 5 → (opnAt b i).syl = 0) ∧ (opnAt b 5).activeOn ((s.chip.ctxOf 959).pr (opnAt b 5).pred) = true
        ∧ bundleLegal b (s.chip.sprkEnt (959 / 4) (s.chip.cxSecure 959)) = false)
    ∧ (let s := st [] (fun c => { c with core := [(239, { CoreSt.init with units := [⟨5, 959, 2⟩] })] });
      s.chip.halted = false ∧ (s.chip.coreOf 239).units.find? (fun v => v.unit == 2) = some ⟨5, 959, 2⟩)
    ∧ 2 ≤ (st [(fCstate 239, 2)]).chip.cstate 239
    ∧ (let s := run959 bDiv { Ctx.init with g := [(6, 2 ^ 63), (7, 2 ^ 64 - 1)] } [];
      s.chip.issues 959 bDiv = true ∧ (s.chip.ctxOf 959).csGet csRepCount false = 0 ∧ (s.chip.ctxOf 959).pend = []
        ∧ (∀ i < 6, i ≠ 0 → (opnAt bDiv i).syl = 0) ∧ (opnAt bDiv 0).activeOn ((s.chip.ctxOf 959).pr (opnAt bDiv 0).pred) = true
        ∧ bundleLegal bDiv (s.chip.sprkEnt (959 / 4) (s.chip.cxSecure 959)) = true ∧ (opnAt bDiv 0).maj = 0x12 ∧ (opnAt bDiv 0).rd ≠ 0
        ∧ (s.chip.ctxOf 959).gr (opnAt bDiv 0).ra = 2 ^ 63 ∧ (s.chip.ctxOf 959).gr (opnAt bDiv 0).rb = 2 ^ 64 - 1) := by decide +kernel

theorem test_wit_RepeatBodiesRefuse :
    ∀ y ∈ [syl 0x18 1 0 0 0 0, syl 0 0 0 0 0 3, syl 0 0 0 0 0 4, syl 0 0 0 0 0 5], let b := inSlot 0 y;
      let s := run959 b (Ctx.init.csPut csRepCount false 1) [];
      s.chip.issues 959 b = true ∧ (s.chip.ctxOf 959).csGet csRepCount false ≠ 0 ∧ (s.chip.ctxOf 959).pend = [] ∧ (∀ i < 6, i ≠ 0 → (opnAt b i).syl = 0)
        ∧ (opnAt b 0).syl ≠ 0 ∧ bundleLegal b (s.chip.sprkEnt (959 / 4) (s.chip.cxSecure 959)) = true
        ∧ ((opnAt b 0).maj = 0 → (opnAt b 0).activeOn ((s.chip.ctxOf 959).pr (opnAt b 0).pred) = true) := by decide +kernel

theorem test_wit_LoadsAndFetchesReturn :
    (let o : LineOp := { op0 .ready with ctx := 959, res := some ⟨7#512, false⟩ };
      let l : LoadJob := { devR with pa := 0, op := 1, dev := false, sent := false };
      let s := stx [] { Ctx.init with loads := [l] } (fun c => { c with coh := { c.coh with ops := [o] } });
      s.chip.halted = false ∧ s.chip.opOf 1 = some o ∧ (s.chip.ctxOf o.ctx).loads.find? (fun j => j.op == 1) = some l
        ∧ (s.chip.ctxOf o.ctx).loads.find? (fun j => j.job == l.job) = some l ∧ l.dev = false ∧ (s.chip.ctxOf o.ctx).sq = [] ∧ l.job ≠ 0)
    ∧ (let o : LineOp := { op0 .ready with ctx := 959, kind := .fetch, res := some ⟨7#512, false⟩ };
      let s := stx [(fState 959, cxRunning), (fPriv 959, 2)] { Ctx.init with fetchOp := 1, pc := 32 } (fun c => { c with coh := { c.coh with ops := [o] } });
      s.chip.halted = false ∧ s.chip.opOf 1 = some o ∧ o.kind = .fetch ∧ o.stage = .ready ∧ (s.chip.ctxOf o.ctx).fetchOp = 1
        ∧ s.chip.translate o.ctx (s.chip.ctxOf o.ctx).pc .fetch (s.chip.cxSecure o.ctx) = .ok 32 0 ∧ 32 / 64 = o.line ∧ s.chip.cxState o.ctx ≠ cxMemwait) := by
  decide +kernel

theorem test_wit_MemoryReachesContexts :
    (let e1 := 0x31001;
      let L1 : Line := BitVec.ofNat 512 e1;
      let w : Walk := ⟨0, true, 0, [(0xC00, ⟨L1, false⟩), (0xC40, ⟨BitVec.ofNat 512 0x33, false⟩)], []⟩;
      let s := stx [] { (Ctx.init.csPut csPtbase true 0x30001) with walk := some w };
      (s.chip.ctxOf 959).walk = some w ∧ w.res = 0 ∧ (s.chip.ctxOf 959).sq = []
        ∧ (bits ((s.chip.ctxOf 959).csGet csPtbase w.secure) 12 40 <<< 12) + 8 * bits w.va 39 9 = 0x30000 ∧ isNormal 0x30000 = true
        ∧ w.got.find? (fun p => p.1 == 0x30000 / 64) = some (0x30000 / 64, ⟨L1, false⟩) ∧ lineGet L1 (0x30000 % 64) 8 = e1
        ∧ bit e1 0 = true ∧ pteBad e1 1 = false ∧ (bits e1 12 40 <<< 12) + 8 * bits w.va 30 9 = 0x31000
        ∧ w.got.find? (fun p => p.1 == 0x31000 / 64) = some (0x31000 / 64, ⟨BitVec.ofNat 512 0x33, false⟩)
        ∧ lineGet (BitVec.ofNat 512 0x33 : Line) (0x31000 % 64) 8 = 0x33 ∧ bit 0x33 0 = true ∧ pteBad 0x33 2 = false ∧ bit 0x33 5 = true ∧ bit 0 0 = false)
    ∧ (∀ amo ∈ [0, 1], let q : CLine := { cl0 with st := .m };
      let e : StoreEnt := { devW with pa := 8, amo := amo, job := 3, sent := false };
      let s := stx [(fState 959, cxRunning), (Reg.CL_L2_CTRL.EN 11 4, 1)] { Ctx.init with sq := [e] }
        (fun c => c.setL2 [(l2Base 59 0 + 15, q)]);
      s.chip.halted = false ∧ (s.chip.ctxOf 959).sq[0]? = some e ∧ isNormal e.pa = true ∧ (s.chip.ctxOf 959).sqMay e = true ∧ s.chip.opOf e.op = none
        ∧ s.chip.l2On (959 / 16) = true ∧ s.chip.l2Find (959 / 16) (e.pa / 64) = some (l2Base 59 0 + 15, q)
        ∧ (s.chip.ctxOf 959).stWait = [] ∧ q.flaw = 0
        ∧ q.serves e.tenant e.secure (rightR + rightW) = true ∧ (s.chip.ctxOf 959).loads = [] ∧ q.ld.poison = false ∧ s.chip.cxState 959 ≠ cxMemwait) := by
  decide +kernel

/-- Context 959 with a serialising operation under way. -/
def ser959 (b : Nat) (q : Serial) (k : Ctx) : State := run959 b { k with serial := some q } []

theorem test_wit_SerialOperationsEnd :
    (∀ n ∈ [0, 1, 2], let q : Serial := ⟨.fence n, [], [], [], [], true, 0⟩;
      let s := ser959 0 q Ctx.init;
      s.chip.halted = false ∧ s.chip.serialRuns 959 (fun k => k == .fence n) = true ∧ (s.chip.ctxOf 959).serial = some q ∧ q.ops = []
        ∧ (s.chip.ctxOf 959).resetWait = 0 ∧ (s.chip.ctxOf 959).missOps = [] ∧ (s.chip.ctxOf 959).waitSq = false ∧ (s.chip.ctxOf 959).waitFetch = false
        ∧ (s.chip.ctxOf 959).loadsDone = true ∧ (s.chip.ctxOf 959).storesDone = true
        ∧ (ser959 0 q { Ctx.init with loads := [devR], sq := [{ devW with pa := 8, sent := false }] }).chip.serialRuns 959 (fun k => k == .fence n) = true
        ∧ ((ser959 0 q { Ctx.init with loads := [devR] }).chip.ctxOf 959).loadsDone = false
        ∧ ((ser959 0 q { Ctx.init with sq := [{ devW with pa := 8, sent := false }] }).chip.ctxOf 959).storesDone = false)
    ∧ (∀ n ∈ [0, 256], let q : Serial := ⟨.string, [], [], [], [], false, 0⟩;
      let b := inSlot 2 (syl 0x30 0 4 5 6 2);
      let s := ser959 b q { Ctx.init with g := [(4, 0x1008), (5, 7), (6, n)] };
      let o := (s.chip.ctxOf 959).serialOp;
      s.chip.serialRuns 959 (fun k => k == .string) = true ∧ o.min = 2 ∧ (s.chip.ctxOf 959).gr o.rb = n ∧ (s.chip.ctxOf 959).gr o.rd = 0x1008
        ∧ (n < m64) ∧ (s.chip.ctxOf 959).sqCount < 16 ∧ (s.chip.ctxOf 959).stWait = [] ∧ o.rd ≠ 0 ∧ o.rb ≠ 0 ∧ o.rd ≠ o.rb)
    ∧ (let s := ser959 0 ⟨.string, [], [], [], [], false, 0⟩ Ctx.init;
      s.chip.vRange 959 .store 0x10F8 (min 256 (256 - 0x10F8 % 256)) = .ok [⟨0x10F8, 0x10F8, 8, 0⟩]) := by decide +kernel

theorem test_wit_SerialOperationsAndTraps :
    (let q : Serial := ⟨.callm, [], [], [], [], true, 0⟩;
      let s := ser959 (inSlot 2 (syl 0x30 0 4 0 0 5)) q { Ctx.init with g := [(1, 4096)] };
      s.chip.serialRuns 959 (fun _ => true) = true ∧ (s.chip.ctxOf 959).serial = some q ∧ q.kind = .callm ∧ q.begun = true ∧ (s.chip.ctxOf 959).sq = []
        ∧ (s.chip.ctxOf 959).stWait = [] ∧ q.ops = [] ∧ (s.chip.ctxOf 959).resetWait = 0
        ∧ q.failed = [])
    ∧ (∀ k ∈ [SerialKind.retm, SerialKind.sgate], let q : Serial := ⟨k, [], [], [], [], false, 0⟩;
      let s := ser959 (inSlot 2 (syl 0x30 0 4 1 0 6)) q { Ctx.init with g := [(1, 4097)] };
      s.chip.serialRuns 959 (fun _ => true) = true ∧ (s.chip.ctxOf 959).gr 1 % 64 ≠ 0 ∧ (s.chip.ctxOf 959).serialOp.ra = 1
        ∧ (s.chip.ctxOf 959).gr (s.chip.ctxOf 959).serialOp.ra % 32 ≠ 0)
    ∧ (∀ p ∈ [(csTfH, stBusyH), (csTfS, stBusyS)], let r : TrapReq := ⟨trSyscall, 0, 0, 0⟩;
      let k := ((Ctx.init.csPut csTfH true 0x2000).csPut csTfS true 0x1000).csPut csDeleg true (if p.1 = csTfS then 2 ^ trSyscall else 0);
      let s := stx [(fState 959, cxRunning), (fPriv 959, 0), (fWorld 959, 1)] { k with trap := some r };
      s.chip.halted = false ∧ (s.chip.ctxOf 959).trap = some r ∧ s.chip.cxState 959 = cxRunning ∧ (s.chip.ctxOf 959).pend = [] ∧ (s.chip.ctxOf 959).misses = 0 ∧ r.cause < 0x40
        ∧ s.chip.cxPriv 959 ≠ 2 ∧ r.cause ≠ trDebug ∧ bit (s.chip.csr 959 csDeleg) r.cause = decide (p.1 = csTfS)
        ∧ s.chip.stBit 959 p.2 = false ∧ isNormal (s.chip.csr 959 p.1) = true) := by decide +kernel

/-! ### The package as a whole (spec/00, spec/13) -/

theorem test_wit_LoadsOfTimeGoForward :
    (runs (st []) [Reg.TIME_LOAD.VALUE] = true ∧ (st []).chip.timeNow.1 = 0 ∧ (st []).chip.get Reg.TIME_CL_STATUS.STATE = 0)
    ∧ (let s := st [(Reg.TIME_CL_STATUS.STATE, 2), (Reg.TIME_CL_CTRL.ROOT, 3)];
      runs s [Reg.TIME_LOAD.VALUE] = true ∧ ¬ (s.chip.get Reg.TIME_CL_STATUS.STATE = 0 ∨ s.chip.get Reg.TIME_CL_CTRL.ROOT = s.chip.pkg))
    ∧ (let s := st [(Reg.TIME_STATUS.VALID, 1)] (fun c => { c with clk := { c.clk with pendingLoad := some (2 ^ 64 - 1) } });
      s.chip.halted = false ∧ s.chip.on Reg.TIME_STATUS.VALID = true ∧ s.chip.clk.pendingLoad = some (BitVec.ofNat 64 (2 ^ 64 - 1)).toNat) := by
  decide +kernel

theorem test_wit_StepRunsTheFrontCommand :
    State.reset.pending = [] ∧ OtpKeeps [] State.reset ∧ (st [] (fun c => { c with pwr := { c.pwr with brown := true } })).chip.clockless = true
      ∧ (st [] (fun c => { c with pwr := { c.pwr with warmLow := true } })).chip.halted = true
      ∧ alwaysOn Instr.hubRequest = false ∧ keepsTime Instr.hubRequest = false :=
  ⟨rfl, fun w i h => by simp [SMap.getD, SMap.get?] at h, by decide +kernel, by decide +kernel, rfl, rfl⟩

theorem test_wit_NormalWorldCannotWriteSecureRegisters :
    let s := st [(Reg.SEC_RGN.EN 26 0, 1), (Reg.SEC_RGN.RIGHTS 26 0, 7), (Reg.SEC_RGN.ANY 26 0, 1), (Reg.SEC_RGN.WORLD 26 0, 2),
      (Reg.SEC_RGN.BASE 26 0, 0xFF00000000), (Reg.SEC_RGN.LIMIT 26 0, 0xFF00FFFFFF)];
    ∀ off ∈ [0xC9000000, 0xB7000100, 0xC97FFFF8], s.chip.quiet = true ∧ (s.chip.rgnCheck 26 (s.chip.csrAddr off) nor rightW).ok = true
      ∧ s.chip.aud.ring.length < audHold ∧ s.chip.aud.held = [] ∧ s.chip.csrParked off = false ∧ s.chip.csrHeld off = false ∧ s.chip.hwHolds off = false ∧ off % 8 = 0
      ∧ secureOnly off = true ∧ nor.secure = false := by decide +kernel

theorem test_wit_ResetLeavesResetValues :
    (∀ g ∈ auditFields, Reg.TIME_NOW.VALUE.addr ≠ g.addr)
      ∧ (∀ k < 27, ∀ o ∈ [0, 1, 4], Reg.TIME_NOW.VALUE.addr ≠ 8 * (0xC9010000 + 0x200 * k + 16 * 31) + o) := by decide +kernel

/-- A cold reset of the package, its end with package number 0 on the straps, leaves the state that runs start from (R17, R18). -/
theorem test_reset_is_a_cold_reset : Chip.reset.coldReset (some 0) = State.reset.chip := by decide +kernel

/-! ### Well-formedness -/

def wire0 : WireMsg := ⟨0, 0, 0, 0, 0, 0, false, false, false, 0, 0, 0, 0, none, none, false, false, false, 0, false⟩
def tflit0 : TdmFlit := ⟨0, none, false, false, [], [], []⟩
def ready0 : TdmReady := ⟨0, 0, 0, false, false, 0, 0⟩

theorem test_wf_accepts :
    sec.wf = true ∧ (⟨7, 3, 3, some 0, 0, 0, 0⟩ : AlignSym).wf = true ∧ { wire0 with cls := 4, typ := 15 }.wf = true ∧ tflit0.wf = true ∧ ready0.wf = true
      ∧ (tlp0 true).wf = true ∧ (Instr.csrWrite sec 0 0).wf = true ∧ (Instr.csrSubwordAccess sec 0 4 true 0).wf = true := by decide +kernel

theorem test_wf_refuses_each_asker_field :
    { sec with agent := 2 ^ 16 }.wf = false ∧ { sec with agent := 2 }.wf = false ∧ { sec with tenant := 4096 }.wf = false
      ∧ { sec with kind := 4 }.wf = false ∧ { sec with master := 2 ^ 20 }.wf = false := by decide +kernel

theorem test_wf_refuses_each_symbol_field :
    (⟨8, 0, 0, none, 0, 0, 0⟩ : AlignSym).wf = false ∧ (⟨0, 4, 0, none, 0, 0, 0⟩ : AlignSym).wf = false ∧ (⟨0, 0, 4, none, 0, 0, 0⟩ : AlignSym).wf = false := by decide +kernel

theorem test_wf_refuses_each_message_field :
    { wire0 with cls := 5 }.wf = false ∧ { wire0 with typ := 16 }.wf = false ∧ { wire0 with line := 2 ^ 46 }.wf = false
      ∧ { wire0 with tag := 4096 }.wf = false ∧ { wire0 with agent := 65536 }.wf = false ∧ { wire0 with tenant := 4096 }.wf = false
      ∧ { wire0 with yrw := 4 }.wf = false ∧ { wire0 with dstPkg := 8 }.wf = false ∧ { wire0 with dstDie := 16 }.wf = false
      ∧ { wire0 with master := 2 ^ 20 }.wf = false ∧ { wire0 with mask := some 1 }.wf = false := by decide +kernel

theorem test_wf_refuses_each_flit_field :
    { tflit0 with seq := 4096 }.wf = false ∧ { tflit0 with ack := some 4096 }.wf = false ∧ { tflit0 with crd := [0, 0, 0, 0, 0, 0] }.wf = false
      ∧ { tflit0 with idle := true, msgs := [wire0] }.wf = false ∧ { tflit0 with msgs := [{ wire0 with cls := 5 }] }.wf = false := by decide +kernel

theorem test_wf_refuses_each_report_field :
    { ready0 with bad := 65536 }.wf = false ∧ { ready0 with pkg := 8 }.wf = false ∧ { ready0 with mode := 4 }.wf = false
      ∧ { ready0 with digest := 2 ^ 32 }.wf = false ∧ { ready0 with present := 256 }.wf = false := by decide +kernel

theorem test_wf_refuses_each_request_field :
    { tlp0 true with rid := 65536 }.wf = false ∧ { tlp0 true with fn := 4097 }.wf = false ∧ { tlp0 true with bar := 1 }.wf = false
      ∧ { tlp0 true with addr := 2 ^ 64 }.wf = false ∧ { tlp0 false with len := 0, data := 0 }.wf = false ∧ { tlp0 true with len := 4097 }.wf = false
      ∧ { tlp0 true with data := 2 ^ 64 }.wf = false ∧ { tlp0 true with tag := 2 ^ 14 }.wf = false ∧ { tlp0 true with err := 4 }.wf = false := by
  decide +kernel

theorem test_wf_refuses_each_command :
    (Instr.csrWrite { sec with kind := 4 } 0 0).wf = false ∧ (Instr.alignmentSymbolSend 0 16).wf = false
      ∧ (Instr.alignmentSymbolReceive 0 ⟨8, 0, 0, none, 0, 0, 0⟩ 0).wf = false ∧ (Instr.alignmentSymbolReceive 0 ⟨0, 0, 0, none, 0, 0, 0⟩ 16).wf = false
      ∧ (Instr.csrSubwordAccess sec 0 8 true 0).wf = false ∧ (Instr.trnDone 0 [(0, 65536)]).wf = false
      ∧ (Instr.tandemFlitReceive 0 { tflit0 with seq := 4096 }).wf = false ∧ (Instr.tdmTrainStepReady 0 { ready0 with pkg := 8 }).wf = false
      ∧ (Instr.inboundRequest 0 0 { tlp0 true with rid := 65536 }).wf = false := by decide +kernel

/-! ### The spec's own numbers -/

/-- R3's worked agent ID: context 3 of core 1 in cluster 2 of die 5 in package 3, and its cluster identifier. -/
theorem test_agent_id : agentOf 3 5 2 1 3 = 0x6A9C ∧ cluOf 0x6A9C = 0x1AA ∧ cluOf 0x6A9C = mkClu 3 5 2 := by decide +kernel

/-- R12's CSR block of die 5 in package 3, and R31's MC_ instance 17 in package 3. -/
theorem test_csr_addresses :
    let c := (st [(Reg.HUB_PKG_ID.PKG, 3)]).chip; c.csrAddr 0x50000000 = 0xFF00350000000 ∧ c.csrAddr (Reg.MC_STATUS.STATE 17).off / 0x10000 * 0x10000 = 0xFF003C3110000 := by
  decide +kernel

/-- R250's worked error bound: 0x40490FDB is stored as 0x404910 and 0x4049, and a block of zeros is one 16-byte stream (R249). -/
theorem test_yarrow :
    yrwEnc 0x40490FDB 8 = 0x404910 ∧ yrwEnc 0x40490FDB 16 = 0x4049 ∧ yrw1Stream [0, 0, 0, 0] = List.replicate 16 0 := by decide +kernel

/-- What a register of context 959 reads as after one cycle of its core, and the result that the cycle makes pending. -/
def afterCycle (r : Nat) (b : Nat) (k : Ctx) : Option (Nat × List (Nat × Nat × Nat)) :=
  match exec (.bundleIssue 239 (0, none)) (run959 b k []) with
  | .next t => some ((t.chip.ctxOf 959).gr r, (t.chip.ctxOf 959).pend.map (fun p => (p.code, p.wp, p.val)))
  | _ => none

/-- The worked distance violation of spec/03, bundle 1: ADD g8 = g5 + g7 reads g5 before the multiply's write point. -/
theorem test_distance_reads_old :
    afterCycle 7 (inSlot 0 (syl 0x01 0 8 5 7 0))
      { Ctx.init with g := [(5, 100), (6, 7)], pend := [⟨5, 3, 0, 0, 49, true, false, 0, 0, 0⟩, ⟨7, 1, 1, 1, 101, true, false, 0, 0, 0⟩], idx := 1 }
      = some (101, [(5, 3, 49), (8, 2, 201)]) := by decide +kernel

/-- Bundle 3 of the same: at write point 3 both results for g5 are due, and slot 1's is the one that stays (R61). -/
theorem test_distance_slot_order :
    afterCycle 5 (inSlot 0 (syl 0x01 0 9 5 8 0))
      { Ctx.init with
        g := [(5, 100), (8, 201)]
        idx := 3
        pend := [⟨5, 3, 0, 0, 49, true, false, 0, 0, 0⟩, ⟨5, 3, 1, 3, 5, true, false, 0, 0, 0⟩] }
      = some (5, [(9, 4, 206)]) := by decide +kernel

/-- With the clocks stopped a tick does nothing (R448). -/
theorem test_halted_waits :
    let s := st [] (fun c => { c with pwr := { c.pwr with brown := true } });
    (match step { s with pending := [.timeTick] } with | .next t => decide (t = s) | _ => false) = true := by decide +kernel
end Sys2Proof.Tests
end

section
/-! The OTP array gains ones only (R18, R339, R341): every command leaves the package with its OTP array joined with the one that stood before. -/
namespace Sys2Proof.Machine

/-- The join keeps what the new array has programmed. -/
theorem testBit_otpJoin_of_new (old new : SMap Nat) {w i : Nat} (h : (SMap.getD new w 0).testBit i = true) :
    (SMap.getD (otpJoin old new) w 0).testBit i = true := by
  induction old generalizing new with
  | nil => exact h
  | cons p old ih =>
    refine ih (SMap.set new p.1 (SMap.getD new p.1 0 ||| p.2)) ?_
    by_cases hw : w = p.1
    · subst hw
      simp [h]
    · rwa [SMap.getD_set_ne _ _ _ hw]

/-- The join keeps what the old array had programmed. -/
theorem testBit_otpJoin_of_old (old new : SMap Nat) {w i : Nat} (h : (SMap.getD old w 0).testBit i = true) :
    (SMap.getD (otpJoin old new) w 0).testBit i = true := by
  induction old generalizing new with
  | nil => simp [SMap.getD, SMap.get?] at h
  | cons p old ih =>
    obtain ⟨k, v⟩ := p
    by_cases hk : k = w
    · have hv : v.testBit i = true := by simpa [SMap.getD, SMap.get?, hk] using h
      exact testBit_otpJoin_of_new old _ (by simp [hk, hv])
    · exact ih _ (by simpa [SMap.getD, SMap.get?, hk] using h)

/-- The package with an OTP array that stood before joined into its own. -/
def Chip.joinedOtp (c : Chip) (old : SMap Nat) : Chip := if c.otp = old then c else { c with otp := otpJoin old c.otp }

theorem testBit_joinedOtp {c : Chip} {old : SMap Nat} {w i : Nat} (h : (SMap.getD old w 0).testBit i = true) :
    (SMap.getD (c.joinedOtp old).otp w 0).testBit i = true := by
  unfold Chip.joinedOtp
  split
  case isTrue he => rwa [he]
  case isFalse => exact testBit_otpJoin_of_old old c.otp h

/-- A command answers a next state whose package is some package, its OTP array joined with the one that stood before: every arm of `exec` is
one of the forms of `State.runAlways`. -/
theorem exec_eq_joinedOtp (c : Instr) (s : State) : ∃ d : Chip, exec c s = .next { s with chip := d.joinedOtp s.chip.otp } := by
  cases c <;> exact ⟨_, rfl⟩

/-- So no command clears a programmed bit. -/
theorem exec_keepsOtp {old : SMap Nat} {s : State} (c : Instr) (h : OtpKeeps old s) : ∃ t, exec c s = .next t ∧ OtpKeeps old t := by
  obtain ⟨d, hd⟩ := exec_eq_joinedOtp c s
  exact ⟨_, hd, fun w i hw => testBit_joinedOtp (h w i hw)⟩

end Sys2Proof.Machine

open Sys2Proof Sys2Proof.Machine

/-- Settles O49: a step is a command, which keeps every programmed bit, or nothing at all. -/
theorem otpBitsStayProgrammed : Obligations.OtpBitsStayProgrammed := by
  unfold Obligations.OtpBitsStayProgrammed
  intro old s h
  cases hp : s.pending with
  | nil => exact ⟨s, by simp [step, hp], h⟩
  | cons c rest =>
    have hstep : step s = exec c { s with pending := rest } := by simp [step, hp]
    rw [hstep]
    exact exec_keepsOtp c h
end

section
/-! What an addressed memory reads after a write (R12). -/
namespace Sys2Proof.Machine

/-- What one listed cell adds to a read of `n` bytes at `a`. -/
def cellPart (a n : Nat) (p : Nat × BitVec 8) : Nat := if a ≤ p.1 ∧ p.1 < a + n then p.2.toNat <<< (8 * (p.1 - a)) else 0

/-- A read is the sum of what the listed cells add to it. -/
theorem Mem.read_eq_sum (m : Mem) (a n : Nat) : m.read a n = (m.map (cellPart a n)).sum := by
  have hfold : ∀ (l : Mem) (v : Nat),
      l.foldl (fun v p => if a ≤ p.1 && p.1 < a + n then v + p.2.toNat <<< (8 * (p.1 - a)) else v) v = v + (l.map (cellPart a n)).sum := by
    intro l
    induction l with
    | nil => simp
    | cons p l ih =>
      intro v
      rw [List.foldl_cons, ih, List.map_cons, List.sum_cons, ← Nat.add_assoc]
      by_cases h : a ≤ p.1 ∧ p.1 < a + n <;> simp [cellPart, h]
  exact (hfold m 0).trans (Nat.zero_add _)

theorem Mem.read_append (m₁ m₂ : Mem) (a n : Nat) : Mem.read (m₁ ++ m₂) a n = m₁.read a n + m₂.read a n := by
  simp [Mem.read_eq_sum]

/-- A memory that lists nothing in a range reads 0 there. -/
theorem Mem.read_eq_zero {m : Mem} {a n : Nat} (h : ∀ p ∈ m, p.1 < a ∨ a + n ≤ p.1) : m.read a n = 0 := by
  rw [Mem.read_eq_sum]
  refine List.sum_eq_zero fun x hx => ?_
  obtain ⟨p, hp, rfl⟩ := List.mem_map.1 hx
  have := h p hp
  exact if_neg (by omega)

/-- A filter that keeps every cell of a range keeps what is read there. -/
theorem Mem.read_filter {m : Mem} {q : Nat × BitVec 8 → Bool} {a n : Nat} (h : ∀ p ∈ m, a ≤ p.1 → p.1 < a + n → q p = true) :
    Mem.read (m.filter q) a n = m.read a n := by
  rw [Mem.read_eq_sum, Mem.read_eq_sum]
  induction m with
  | nil => rfl
  | cons p m ih =>
    have ih := ih fun r hr => h r (by simp [hr])
    by_cases hq : q p = true
    · simp [List.filter_cons_of_pos hq, ih]
    · have hp : ¬ (a ≤ p.1 ∧ p.1 < a + n) := fun hr => hq (h p (by simp) hr.1 hr.2)
      simp [hq, ih, cellPart, hp]

/-- The lowest-addressed byte is the lowest. -/
theorem Mem.read_succ (m : Mem) (a n : Nat) : m.read a (n + 1) = m.read a 1 + 256 * m.read (a + 1) n := by
  have hcell : ∀ p : Nat × BitVec 8, cellPart a (n + 1) p = cellPart a 1 p + 256 * cellPart (a + 1) n p := by
    intro p
    unfold cellPart
    rcases Nat.lt_trichotomy p.1 a with h | h | h
    · simp [Nat.not_le.2 h, Nat.not_le.2 (Nat.lt_succ_of_lt h)]
    · simp [h]
    · obtain ⟨d, hd⟩ : ∃ d, p.1 = a + 1 + d := ⟨p.1 - (a + 1), by omega⟩
      have h1 : p.1 - a = d + 1 := by omega
      have h2 : p.1 - (a + 1) = d := by omega
      by_cases hn : p.1 < a + 1 + n
      · rw [if_pos (by omega), if_neg (by omega), if_pos (by omega), h1, h2, Nat.shiftLeft_eq, Nat.shiftLeft_eq, Nat.mul_succ, Nat.pow_add]
        ring
      · rw [if_neg (by omega), if_neg (by omega), if_neg (by omega)]
  simp only [Mem.read_eq_sum]
  induction m with
  | nil => rfl
  | cons p m ih =>
    simp only [List.map_cons, List.sum_cons, hcell p, ih]
    ring

/-- The low byte of a number and the bytes above it. -/
theorem bits_zero_succ_byte (v k : Nat) : bits v 0 (8 * (k + 1)) = v % 256 + 256 * bits v 8 (8 * k) := by
  simp only [bits_eq, Nat.pow_zero, Nat.div_one]
  rw [Nat.mul_succ, Nat.add_comm, Nat.pow_add]
  exact Nat.mod_mul

/-- A part of the cells of a number reads as that part of the number. -/
theorem memCells_read (n : Nat) : ∀ a v o k : Nat, o + k ≤ n → (memCells a n v).read (a + o) k = bits v (8 * o) (8 * k) := by
  induction n with
  | zero =>
    intro a v o k h
    obtain rfl : k = 0 := by omega
    simp [memCells, Mem.read, bits_eq, Nat.mod_one]
  | succ n ih =>
    intro a v o k h
    have hrange := memCells_range (a + 1) n (v / 256)
    have htail : ∀ o k : Nat, o + 1 + k ≤ n + 1 → (memCells a (n + 1) v).read (a + (o + 1)) k = bits v (8 * (o + 1)) (8 * k) := by
      intro o k h
      rw [memCells, Mem.read_append, show a + (o + 1) = a + 1 + o by omega, ih _ _ _ _ (by omega), Mem.read_eq_zero]
      · simp only [bits_eq, Nat.zero_add, Nat.div_div_eq_div_mul]
        rw [show 256 * 2 ^ (8 * o) = 2 ^ (8 * (o + 1)) by ring]
      · intro p hp
        split at hp
        · simp at hp
        · simp [List.mem_singleton.1 hp]
          omega
    cases o with
    | succ o => exact htail o k h
    | zero =>
      cases k with
      | zero =>
        rw [Mem.read_eq_zero fun p _ => by omega]
        simp [bits_eq, Nat.mod_one]
      | succ k =>
        have hlow : (memCells a (n + 1) v).read a 1 = v % 256 := by
          rw [memCells, Mem.read_append, Mem.read_eq_zero (m := memCells (a + 1) n (v / 256)) fun p hp => by have := hrange p hp; omega]
          by_cases hv : v % 256 = 0 <;> simp [hv, Mem.read_eq_sum, cellPart]
        rw [Nat.add_zero a, Mem.read_succ, hlow, htail 0 k (by omega), Nat.mul_zero, bits_zero_succ_byte]

/-- The cells below an address add nothing to a read that starts there or higher. -/
theorem Mem.read_cellsBelow {m : Mem} {a b k : Nat} (h : a ≤ b) : Mem.read (m.filter (fun p => p.1 < a)) b k = 0 :=
  Mem.read_eq_zero fun p hp => by
    have := of_decide_eq_true (List.mem_filter.1 hp).2
    omega

/-- The cells from an address up add nothing to a read that ends there or lower. -/
theorem Mem.read_cellsFrom {m : Mem} {a b k : Nat} (h : b + k ≤ a) : Mem.read (m.filter (fun p => a ≤ p.1)) b k = 0 :=
  Mem.read_eq_zero fun p hp => by
    have := of_decide_eq_true (List.mem_filter.1 hp).2
    omega

/-- Inside a written range a memory reads the number written. -/
theorem Mem.read_write_inside (m : Mem) {a n v o k : Nat} (h : o + k ≤ n) :
    (m.write a n v).read (a + o) k = bits v (8 * o) (8 * k) := by
  rw [Mem.write, Mem.read_append, Mem.read_append, Mem.read_cellsBelow (by omega), Mem.read_cellsFrom (by omega), memCells_read n a v o k h,
    Nat.zero_add, Nat.add_zero]

/-- Outside a written range a memory reads what it read before. -/
theorem Mem.read_write_outside (m : Mem) {a n v b k : Nat} (h : b + k ≤ a ∨ a + n ≤ b) : (m.write a n v).read b k = m.read b k := by
  have hcells : (memCells a n v).read b k = 0 := Mem.read_eq_zero fun p hp => by
    have := memCells_range a n v p hp
    omega
  rw [Mem.write, Mem.read_append, Mem.read_append, hcells, Nat.add_zero]
  rcases h with h | h
  · rw [Mem.read_cellsFrom (by omega), Nat.add_zero]
    exact Mem.read_filter fun p _ _ hb => decide_eq_true (by omega)
  · rw [Mem.read_cellsBelow (by omega), Nat.zero_add]
    exact Mem.read_filter fun p _ hb _ => decide_eq_true (by omega)

end Sys2Proof.Machine

open Sys2Proof Sys2Proof.Machine

/-- Settles O53: the cells written are the number's bytes, and the cells kept are those outside the range. -/
theorem memoriesAnswerWhatWasWritten : Obligations.MemoriesAnswerWhatWasWritten := by
  unfold Obligations.MemoriesAnswerWhatWasWritten
  intro m a n v
  refine ⟨?_, fun o k h => Mem.read_write_inside m h, fun b k h => Mem.read_write_outside m h⟩
  simpa [bits_eq] using Mem.read_write_inside m (a := a) (v := v) (o := 0) (k := n) (by omega)
end

section
/-! A die reset of a die that is not fenced fences it first (R196, R266), which freezes its contexts (R195), and each freeze of a master whose tenant
has a freeze ring writes a record to that ring (R290): memory changes. -/
namespace Sys2Proof.Machine

/-- Context 0 of die 0 is READY for tenant 1, whose freeze ring is enabled at the first byte of this package's CXL window; the window is one link of port 0
that is up, checker 24 allows every access, and the banks of the hub cache are power-gated (R406), so that a line written goes straight to the CXL device. The
Spoke port's log has captured an event before: no free value is taken. -/
def State.ringInCxl : State :=
  { State.reset with chip :=
    { State.reset.chip.puts
        [(Reg.CORE_CTX_STATUS.STATE 0 0 0, cxReady), (Reg.CORE_CTX_STATUS.TENANT 0 0 0, 1),
         (Reg.TNT_ENT.STATE 1, tnActive), (Reg.TNT_ENT.FRING_EN 1, 1), (Reg.TNT_ENT.FRING 1, 2 ^ 47 / 64),
         (Reg.HUB_AMAP_CXL.SIZE, 1), (Reg.PCI_CXL.EN 0 0, 1), (Reg.PCI_CXL.SIZE 0 0, 1), (Reg.PCI_LINK_STATUS.LINKS 0, 3),
         (Reg.SEC_RGN.EN 24 0, 1), (Reg.SEC_RGN.RIGHTS 24 0, 7), (Reg.SEC_RGN.WORLD 24 0, 2), (Reg.SEC_RGN.ANY 24 0, 1),
         (Reg.SEC_RGN.LIMIT 24 0, 2 ^ 40 - 1), (Reg.PWR_GATED.GATED, 2 ^ 50), (Reg.SPK_ERR_LOG.VALID 0, 1)] with
      pwr := { PwrSt.init with hcGated := 2 ^ 64 - 1 } } }

/-- The package is clocked, the die is there, and the CXL device's memory has never been written. -/
theorem State.ringInCxl_resets :
    State.ringInCxl.chip.halted = false ∧ State.ringInCxl.chip.diePresent 0 = true ∧ State.ringInCxl.chip.cxl = [] := by decide +kernel

/-- The die's reset writes the freeze record of context 0 into the CXL device: its cause COHERENCE, its tenant 1 and the
tenant table as its checker (R289). -/
theorem State.ringInCxl_dieReset_cxl :
    (State.ringInCxl.chip.dieReset 0).cxl = [(0, 18#8), (1, 16#8), (24, 128#8), (25, 24#8)] := by decide +kernel

theorem State.ringInCxl_dieReset_otp : (State.ringInCxl.chip.dieReset 0).otp = State.ringInCxl.chip.otp := by decide +kernel

end Sys2Proof.Machine

open Sys2Proof Sys2Proof.Machine

/-- Refutes O39: its clause of the die reset says that no byte of any memory differs, but where the die was not fenced, the fence that comes first freezes its
contexts, and a freeze record reaches a ring in CXL memory. -/
theorem not_resetsRestore : ¬ Obligations.ResetsRestore := by
  unfold Obligations.ResetsRestore
  rintro ⟨-, -, hdie, -, -, -⟩
  obtain ⟨hclocked, hpresent, hempty⟩ := State.ringInCxl_resets
  obtain ⟨t, ht, -, -, -, -, -, -, hmem⟩ := (hdie State.ringInCxl 0 hclocked).2 hpresent
  have hrun : exec (.dieReset 0) State.ringInCxl = .next { State.ringInCxl with chip := State.ringInCxl.chip.dieReset 0 } :=
    State.run_eq State.ringInCxl (fun c => c.dieReset 0) hclocked State.ringInCxl_dieReset_otp
  have ht' : { State.ringInCxl with chip := State.ringInCxl.chip.dieReset 0 } = t := by
    injection hrun.symm.trans ht
  have hsame : (State.ringInCxl.chip.dieReset 0).cxl = State.ringInCxl.chip.cxl := by
    have := hmem.cxl
    rwa [← ht'] at this
  rw [State.ringInCxl_dieReset_cxl, hempty] at hsame
  exact absurd hsame (List.cons_ne_nil _ _)
end

section
/-! What the state after reset reads (R17, R18, R342). -/
namespace Sys2Proof.Machine

/-- A map lists nothing at a key that none of its entries has. -/
theorem SMap.get?_eq_none {α : Type} {m : SMap α} {a : Nat} (h : ∀ p ∈ m, p.1 ≠ a) : SMap.get? m a = none := by
  induction m with
  | nil => rfl
  | cons p m ih => simp [SMap.get?, h p (by simp), ih fun q hq => h q (by simp [hq])]

/-- The keys that the register file lists after reset are those of region 31 of the checkers. -/
theorem RegFile.mem_reset_warm {p : Nat × Nat} (h : p ∈ RegFile.reset.warm) :
    ∃ k < 27, ∃ o ∈ [0, 1, 4], p.1 = 8 * (0xC9010000 + 0x200 * k + 16 * 31) + o := by
  simp only [RegFile.reset, List.mem_flatMap, List.mem_range] at h
  obtain ⟨k, hk, hp⟩ := h
  simp only [List.mem_cons, List.not_mem_nil, or_false] at hp
  rcases hp with rfl | rfl | rfl
  · exact ⟨k, hk, 0, by simp, rfl⟩
  · exact ⟨k, hk, 1, by simp, rfl⟩
  · exact ⟨k, hk, 4, by simp, rfl⟩

/-- Every other field of the register file has its reset value. -/
theorem RegFile.get_reset {f : Fld} (h : ∀ k < 27, ∀ o ∈ [0, 1, 4], f.addr ≠ 8 * (0xC9010000 + 0x200 * k + 16 * 31) + o) :
    RegFile.reset.get f = f.rst % 2 ^ f.width := by
  have hwarm : SMap.get? RegFile.reset.warm f.addr = none := SMap.get?_eq_none fun p hp heq => by
    obtain ⟨k, hk, o, ho, hkey⟩ := RegFile.mem_reset_warm hp
    exact h k hk o ho (heq.symm.trans hkey)
  unfold RegFile.get RegFile.bank SMap.getD
  cases f.rk with
  | warm => rw [hwarm]; rfl
  | cold | die | tenant | context | never => rfl

/-- The START record after reset writes fields of the audit log only. -/
theorem State.reset_get {f : Fld} (h : ∀ g ∈ auditFields, f.addr ≠ g.addr) : State.reset.chip.get f = RegFile.reset.get f := by
  have hne : ∀ g ∈ auditFields, ∀ (r : RegFile) (v : Nat), (r.put g v).get f = r.get f := fun g hg r v => RegFile.get_put_ne r v (h g hg)
  simp only [auditFields, List.forall_mem_cons] at hne
  obtain ⟨-, -, hrec2, hrec3, hdig0, hdig1, hdig2, hdig3, hseq, hused, -⟩ := hne
  simp only [Chip.get, State.reset, hrec2, hrec3, hdig0, hdig1, hdig2, hdig3, hseq, hused]

/-- Below the FACTORY fields no OTP word is programmed after reset. -/
theorem State.reset_otpWord {k : Nat} (h : k < 384) : State.reset.chip.otpWord k = 0 := by
  have hnone : SMap.get? otpFactory k = none := SMap.get?_eq_none fun p hp => by
    obtain ⟨i, -, rfl⟩ := List.mem_map.1 hp
    exact (Nat.lt_of_lt_of_le h (Nat.le_add_right 384 i)).ne'
  show (SMap.get? otpFactory k).getD 0 = 0
  rw [hnone]
  rfl

/-- Every generation of a FACTORY field is programmed after reset. -/
theorem State.reset_otpUsed : ∀ f < 128, 96 ≤ f → State.reset.chip.otpUsed f = 15 := by decide +kernel

/-- Region 31 of each checker is enabled with every right, for the Secure world. -/
theorem State.reset_region31 : ∀ k < 27, State.reset.chip.regVal (0xC9010000 + 0x200 * k + 16 * 31) = 0x1F := by decide +kernel

/-- The state after reset is the one that a cold reset leaves, with package number 0 on the straps. -/
theorem State.reset_eq_coldReset : State.reset.chip = Chip.reset.coldReset (some 0) := by decide +kernel

end Sys2Proof.Machine

open Sys2Proof Sys2Proof.Machine

/-- Settles O52: no field but those of region 31 is listed in the register file, and the START record writes the audit log's only. -/
theorem resetLeavesResetValues : Obligations.ResetLeavesResetValues := by
  unfold Obligations.ResetLeavesResetValues
  refine ⟨rfl, fun f haud hrgn => ?_, State.reset_region31, fun _ => rfl, by decide +kernel, rfl, rfl, rfl,
    fun f h96 h128 => State.reset_otpUsed f h128 h96, fun _ h => State.reset_otpWord h, rfl, by decide +kernel, rfl, State.reset_eq_coldReset⟩
  rw [State.reset_get haud, RegFile.get_reset hrgn]
end

section
/-! A command's effect, read off the next state that the command answers. -/
namespace Sys2Proof.Machine

/-- While the package is clocked, the next state holds what an effect leaves that programs no OTP bit. -/
theorem State.chip_of_run {s t : State} {f : Chip → Chip} (hclocked : s.chip.halted = false) (hotp : (f s.chip).otp = s.chip.otp)
    (hrun : s.run f = .next t) : t.chip = f s.chip := by
  rw [State.run_eq s f hclocked hotp] at hrun
  injection hrun with ht
  rw [← ht]

end Sys2Proof.Machine
end

section
/-! The fill that ends the last access of a MEMWAIT context wakes it (R71). Where its core is in C1 with the save of an entry into C3 under way,
waking it gives the entry up (R403), and the line accesses of the core's contexts are dropped with it: the load's own is among them. The clause has no
hypothesis on the core that excludes such a state. -/
namespace Sys2Proof.Machine

/-- The line 0 as an L2 holds it, with every right of the Secure world's tenant 0. -/
def CLine.filled : CLine :=
  { line := 0, st := .s, ld := ⟨7#512, false⟩, age := 0, tenant := 0, secure := true, rights := 7, yrw := 0, pres := 0, last := 0, flaw := 0 }

/-- A load of context 0 whose line is on its way from the L2 to the L1. -/
def LineOp.filling : LineOp :=
  { id := 1, ctx := 0, kind := .load, line := 0, whole := false, tenant := 0, secure := true, yrw := 0, lvlH := false, stage := .l1Fill, missed := true,
    reported := true, res := some ⟨7#512, false⟩, grant := .i, rights := 7, bus := false, src := 3, lmq := .held }

/-- Context 0 waits for that load in MEMWAIT; its core is in C1, and its save images are being written. -/
def State.fillInSave : State :=
  { State.reset with chip :=
    { State.reset.chip.puts [(Reg.CL_L2_CTRL.EN 0 0, 1), (fState 0, cxMemwait), (fCstate 0, 1)] with
      coh := { CohSt.init with ops := [LineOp.filling], l2 := [(0, CLine.filled)] }
      ctx := [(0, { Ctx.init with missOps := [1] })]
      core := [(0, { CoreSt.init with c3 := 1 })] } }

/-- The package is clocked, and the access is the load's, which finds its line in the L2. -/
theorem State.fillInSave_finds :
    State.fillInSave.chip.halted = false ∧ State.fillInSave.chip.opOf 1 = some LineOp.filling
      ∧ State.fillInSave.chip.l2On (cluIx LineOp.filling.ctx) = true
      ∧ State.fillInSave.chip.l2Find (cluIx LineOp.filling.ctx) LineOp.filling.line = some (0, CLine.filled)
      ∧ CLine.filled.serves LineOp.filling.tenant LineOp.filling.secure AKind.load.needs = true := by decide +kernel

/-- The L1 has a way for it. -/
theorem State.fillInSave_l1Fill :
    (State.fillInSave.chip.l1Fill false (coreIx LineOp.filling.ctx) { CLine.filled with age := 0, st := .s, flaw := 0 }).isSome = true := by
  decide +kernel

/-- The fill leaves the access nowhere. -/
theorem State.fillInSave_lineFill : (State.fillInSave.chip.lineFill 1).opOf 1 = none := by decide +kernel

theorem State.fillInSave_lineFill_otp : (State.fillInSave.chip.lineFill 1).otp = State.fillInSave.chip.otp := by decide +kernel

end Sys2Proof.Machine

open Sys2Proof Sys2Proof.Machine

/-- Refutes O4: its clause of the L1's fill says that the access is ready with its data, but where the fill wakes a context whose core is giving up an
entry into C3, the access is dropped. -/
theorem not_lineAccessesMoveThroughCaches : ¬ Obligations.LineAccessesMoveThroughCaches := by
  unfold Obligations.LineAccessesMoveThroughCaches
  rintro ⟨-, -, -, hfill⟩
  obtain ⟨hclocked, hop, hon, hfind, hserves⟩ := State.fillInSave_finds
  obtain ⟨c1, hway⟩ := Option.isSome_iff_exists.1 State.fillInSave_l1Fill
  obtain ⟨t, ht, -, hready, -⟩ :=
    hfill State.fillInSave 1 LineOp.filling 0 CLine.filled c1 hclocked hop rfl rfl hon hfind rfl hserves hway (.lineFill 1) (by simp)
  have hchip : t.chip = State.fillInSave.chip.lineFill 1 :=
    State.chip_of_run (f := fun c => c.lineFill 1) hclocked State.fillInSave_lineFill_otp ht
  rw [hchip, State.fillInSave_lineFill] at hready
  cases hready
end

section
/-! An entry that leaves a full store queue makes room for a store that waits for one (R33): the queue then holds that store too. -/
namespace Sys2Proof.Machine

/-- The n-th store of context 0: the first is a device write that has been sent, the others go to normal memory. -/
def StoreEnt.nth (n : Nat) : StoreEnt :=
  { seq := n, pa := if n = 0 then 2 ^ 48 else 64 * n, size := 8, data := 1, amo := 0, cmp := 0, aq := false, rl := false, job := 0, kind := .store,
    tenant := 0, secure := true, yrw := 0, lvlH := false, op := 0, sent := n == 0 }

/-- The acknowledgement of the device write. -/
def Msg.writeGrant : Msg := { Msg.mk0 clsRsp tGrant 0 with tag := devTag 0 }

/-- The store queue of context 0 is full, its 17th store waits for an entry, and the acknowledgement has arrived at the die. -/
def State.fullQueue : State :=
  { State.reset with chip :=
    { State.reset.chip with
      coh := { CohSt.init with dieIn := [(0, Msg.writeGrant)] }
      ctx := [(0, { Ctx.init with sq := (List.range 16).map StoreEnt.nth, stWait := [StoreEnt.nth 16], seq := 17 })] } }

/-- The package is clocked, and the acknowledgement names the device write, with no load of its context under way. -/
theorem State.fullQueue_finds :
    State.fullQueue.chip.halted = false ∧ isDevTag Msg.writeGrant.tag = true
      ∧ (State.fullQueue.chip.ctxOf (ctxOfAgent Msg.writeGrant.agent)).loads = []
      ∧ (State.fullQueue.chip.coreOf (coreIx (ctxOfAgent Msg.writeGrant.agent))).c3 = 0
      ∧ (State.fullQueue.chip.ctxOf (ctxOfAgent Msg.writeGrant.agent)).sq.find?
          (fun e => isDevice e.pa && e.sent && devTag e.seq == Msg.writeGrant.tag) = some (StoreEnt.nth 0) := by decide +kernel

/-- The die takes it. -/
theorem State.fullQueue_takeDie :
    (State.fullQueue.chip.takeDie 0 (fun m => m.cls == clsRsp && m.typ == tGrant && !State.fullQueue.chip.ansHeld 0 m)).map (·.1)
      = some Msg.writeGrant := by decide +kernel

/-- Afterwards the queue holds the 15 stores behind the device write and the one that waited. -/
theorem State.fullQueue_grantStep :
    ((State.fullQueue.chip.grantStep 0).ctxOf (ctxOfAgent Msg.writeGrant.agent)).sq = (List.range' 1 16).map StoreEnt.nth := by decide +kernel

theorem State.fullQueue_grantStep_otp : (State.fullQueue.chip.grantStep 0).otp = State.fullQueue.chip.otp := by decide +kernel

/-- Without the device write, the queue as it stood holds 15 stores. -/
theorem State.fullQueue_others :
    ((State.fullQueue.chip.ctxOf (ctxOfAgent Msg.writeGrant.agent)).sq.filter (fun q => q.seq != (StoreEnt.nth 0).seq))
      = (List.range' 1 15).map StoreEnt.nth := by decide +kernel

end Sys2Proof.Machine

open Sys2Proof Sys2Proof.Machine

/-- Refutes O22: its clause of GRANT says that the store queue then holds the other stores that it held and no more, but a store that waited for an
entry enters it. -/
theorem not_deviceAnswersAndMarkers : ¬ Obligations.DeviceAnswersAndMarkers := by
  unfold Obligations.DeviceAnswersAndMarkers
  rintro ⟨hgrant, -, -, -, -, -⟩
  obtain ⟨hclocked, htag, hloads, hc3, hentry⟩ := State.fullQueue_finds
  obtain ⟨⟨_, c1⟩, htake, rfl⟩ := Option.map_eq_some_iff.1 State.fullQueue_takeDie
  obtain ⟨t, ht, -, hsq, -⟩ := hgrant State.fullQueue 0 _ c1 (StoreEnt.nth 0) hclocked htake htag hloads hc3 hentry
  have hchip : t.chip = State.fullQueue.chip.grantStep 0 :=
    State.chip_of_run (f := fun c => c.grantStep 0) hclocked State.fullQueue_grantStep_otp ht
  rw [hchip, State.fullQueue_grantStep, State.fullQueue_others] at hsq
  simpa using congrArg List.length hsq
end

section
/-! A load waits behind an older load of its context to the same line, so that it sees no older value than that one (R116): its own line may have come
first. -/
namespace Sys2Proof.Machine

/-- The n-th load of context 0, of line 0, whose access is n + 1. -/
def LoadJob.nth (n : Nat) : LoadJob :=
  { job := n + 1, pc := 0, idx := 0, slot := 0, va := 0, pa := 0, size := 8, sign := false, seq := n, tenant := 0, secure := true, yrw := 0, lvlH := false,
    op := n + 1, dev := false, sent := false }

/-- Its access of the line: the first waits for the home, and the second has its data. -/
def LineOp.nth (n : Nat) : LineOp :=
  { id := n + 1, ctx := 0, kind := .load, line := 0, whole := false, tenant := 0, secure := true, yrw := 0, lvlH := false,
    stage := if n = 0 then .atHome else .ready, missed := true, reported := false, res := if n = 0 then none else some ⟨7#512, false⟩, grant := .i,
    rights := 7, bus := false, src := 3, lmq := .held }

/-- Context 0 has both loads under way. -/
def State.twoLoads : State :=
  { State.reset with chip :=
    { State.reset.chip with
      coh := { CohSt.init with nextOp := 3, ops := [LineOp.nth 0, LineOp.nth 1] }
      ctx := [(0, { Ctx.init with loads := [LoadJob.nth 0, LoadJob.nth 1], seq := 2 })] } }

/-- The package is clocked, and access 2 has the data of the younger load; no store is queued. -/
theorem State.twoLoads_finds :
    State.twoLoads.chip.halted = false ∧ State.twoLoads.chip.opOf 2 = some (LineOp.nth 1)
      ∧ (State.twoLoads.chip.ctxOf (LineOp.nth 1).ctx).loads.find? (fun j => j.op == 2) = some (LoadJob.nth 1)
      ∧ (State.twoLoads.chip.ctxOf (LineOp.nth 1).ctx).loads.find? (fun j => j.job == (LoadJob.nth 1).job) = some (LoadJob.nth 1)
      ∧ (State.twoLoads.chip.ctxOf (LineOp.nth 1).ctx).sq = [] := by decide +kernel

/-- The younger load waits: nothing happens. -/
theorem State.twoLoads_dataReturn : State.twoLoads.chip.dataReturn 2 = State.twoLoads.chip := by decide +kernel

end Sys2Proof.Machine

open Sys2Proof Sys2Proof.Machine

/-- Refutes O45: its clause of loads says that DATA_RETURN ends the access, but a load behind an older one of its line keeps its access and waits. -/
theorem not_memoryReachesContexts : ¬ Obligations.MemoryReachesContexts := by
  unfold Obligations.MemoryReachesContexts
  rintro ⟨hload, -, -, -⟩
  obtain ⟨hclocked, hop, hbyOp, hbyJob, hsq⟩ := State.twoLoads_finds
  obtain ⟨t, ht, -, hgone, -⟩ :=
    hload State.twoLoads 2 (LineOp.nth 1) (LoadJob.nth 1) ⟨7#512, false⟩ hclocked hop rfl rfl hbyOp hbyJob rfl hsq (by decide)
  have hchip : t.chip = State.twoLoads.chip.dataReturn 2 :=
    State.chip_of_run (f := fun c => c.dataReturn 2) hclocked (congrArg Chip.otp State.twoLoads_dataReturn) ht
  rw [hchip, State.twoLoads_dataReturn, hop] at hgone
  cases hgone
end

section
/-! What keeps a command from having its effect: nothing keeps one of the always-on part; clocks that stand keep one of the synthesizers and of TIME; a held
reset keeps every other one too (R45, R410, R440, R443, R448). -/
namespace Sys2Proof.Machine

/-- Is a command of the clocked part kept from having its effect? -/
def Chip.bars (c : Chip) (i : Instr) : Bool := if keepsTime i then c.clockless else c.halted

theorem Chip.bars_of_clockless {c : Chip} (i : Instr) (h : c.clockless = true) : c.bars i = true := by
  unfold Chip.bars
  split
  case isTrue => exact h
  case isFalse => exact c.halted_of_clockless h

theorem Chip.bars_of_halted {c : Chip} {i : Instr} (h : c.halted = true) (hi : keepsTime i = false) : c.bars i = true := by
  simp [Chip.bars, hi, h]

/-- The package joined with its own OTP array is itself. -/
theorem Chip.joinedOtp_self (c : Chip) : c.joinedOtp c.otp = c := if_pos rfl

/-- A command of the clocked part has its effect unless it is kept from it: each arm of `exec` is one of the forms of `State.run` and
`State.runTime`. -/
theorem exec_eq_unless_barred {i : Instr} (hi : alwaysOn i = false) (s : State) :
    ∃ d : Chip, exec i s = .next { s with chip := (if s.chip.bars i then s.chip else d).joinedOtp s.chip.otp } := by
  cases i with
  | sbWakeMatch | sbReadCommand | sbWriteCommand | sbResultRead | alertResponse | i3cAddressAssign | flashOwnChange | perstN | tapBypass | tapIdcode
  | tapSamplePreload | tapExtest | tapClamp | tapHighz | tapDebug | tapTestReset | debugRead | debugWrite | debugUpdate | wakeTimerExpiry | wakeNFall
  | crystalEdge | wakeStepReady | wakeStepTimeout | wakeRetry | warmReset | coldReset | aonOkRise | brownOut => cases hi
  | _ => exact ⟨_, rfl⟩

theorem exec_of_barred {i : Instr} {s : State} (hi : alwaysOn i = false) (hs : s.chip.bars i = true) : exec i s = .next s := by
  obtain ⟨d, hd⟩ := exec_eq_unless_barred hi s
  rw [hd, if_pos hs, Chip.joinedOtp_self]

end Sys2Proof.Machine

open Sys2Proof Sys2Proof.Machine

/-- Settles O50: a command of the clocked part is kept from its effect by clocks that stand, and by a held reset unless it is one of the synthesizers or of
TIME. -/
theorem haltedPackageWaits : Obligations.HaltedPackageWaits := by
  unfold Obligations.HaltedPackageWaits
  exact ⟨fun i _ hs hi => exec_of_barred hi (Chip.bars_of_clockless i hs), fun _ _ hs hi ht => exec_of_barred hi (Chip.bars_of_halted hs ht)⟩
end

section
/-! While the ratio of a cluster changes, its crossing holds the device loads of its contexts, and the end of the change sends them (R41): a load is marked
as sent, and a message enters the die's link. -/
namespace Sys2Proof.Machine
-- The kernel evaluates the package in these lemmas; elaborated in the background, each would hold a thread and its stack until then.
set_option Elab.async false

/-- A device load of context 0, of a register of this package, that has not been sent. -/
def LoadJob.unsent : LoadJob :=
  { job := 1, pc := 0, idx := 0, slot := 0, va := 0, pa := 0xFF000C0000000, size := 8, sign := false, seq := 0, tenant := 0, secure := true, yrw := 0,
    lvlH := false, op := 0, dev := true, sent := false }

/-- Cluster 0 of die 0 changes to ratio 0, which was asked for, and its crossing holds that load. -/
def State.loadInChange : State :=
  { State.reset with chip :=
    { State.reset.chip.puts [(Reg.HUB_CORE_DIV.REQ 0, 0x3FC), (Reg.HUB_CORE_DIV.BUSY 0, 1)] with
      clk := { State.reset.chip.clk with ratioTarget := [(0, 0)] }
      ctx := [(0, { Ctx.init with loads := [LoadJob.unsent] })] } }

/-- The package once the change of cluster 0 of die 0 has ended and its crossing has let go. -/
def Chip.changeEnded (c : Chip) : Chip := (List.range 16).foldl (fun c j => c.devPump (80 * 0 + 16 * 0 + j)) (c.ratioDone 0 0)

/-- The package is clocked, the change runs, and the load has not been sent. -/
theorem State.loadInChange_waits :
    State.loadInChange.chip.halted = false ∧ State.loadInChange.chip.bitOf (Reg.HUB_CORE_DIV.BUSY 0) 0 = true
      ∧ (State.loadInChange.chip.ctxOf 0).loads = [LoadJob.unsent] := by decide +kernel

/-- Afterwards it has. -/
theorem State.loadInChange_changeEnded :
    (State.loadInChange.chip.changeEnded.ctxOf 0).loads = [{ LoadJob.unsent with sent := true }] := by decide +kernel

theorem State.loadInChange_changeEnded_otp : State.loadInChange.chip.changeEnded.otp = State.loadInChange.chip.otp := by decide +kernel

end Sys2Proof.Machine

open Sys2Proof Sys2Proof.Machine

/-- Refutes O1: its clause of the end of a change says that only the clocks' state and the fields of HUB_CORE_DIV differ, but a device load that the
cluster's crossing held is sent. -/
theorem not_synthesizersAndRatios : ¬ Obligations.SynthesizersAndRatios := by
  unfold Obligations.SynthesizersAndRatios
  rintro ⟨-, -, -, -, hend⟩
  obtain ⟨hclocked, hbusy, hunsent⟩ := State.loadInChange_waits
  obtain ⟨t, ht, -, -, hframe⟩ := hend State.loadInChange 0 0 hclocked hbusy
  have hchip : t.chip = State.loadInChange.chip.changeEnded :=
    State.chip_of_run (f := Chip.changeEnded) hclocked State.loadInChange_changeEnded_otp ht
  have hctx : t.chip.ctxOf 0 = State.loadInChange.chip.ctxOf 0 := by
    rw [hframe.rest]
    rfl
  have hloads := congrArg Ctx.loads hctx
  rw [hchip, State.loadInChange_changeEnded, hunsent] at hloads
  exact absurd hloads (by decide)
end

section
/-! A software write of a register of TIME or Chainline that goes straight through: its record with the value written, and what it leaves unchanged. -/
namespace Sys2Proof.Machine

/-! ### Fields that are given values -/

/-- Of fields at different addresses, each reads the value it was given. -/
theorem Chip.get_puts_mem (c : Chip) {l : List (Fld × Nat)} (hl : (l.map (fun p => p.1.addr)).Nodup) {f : Fld} {v : Nat}
    (hf : (f, v) ∈ l) : (c.puts l).get f = v % 2 ^ f.width := by
  induction l generalizing c with
  | nil => cases hf
  | cons p l ih =>
    obtain ⟨hp, hl⟩ := List.nodup_cons.1 hl
    rw [Chip.puts_cons]
    rcases List.mem_cons.1 hf with rfl | hf
    · rw [Chip.get_puts_ne _ _ fun q hq heq => hp (List.mem_map.2 ⟨q, hq, heq.symm⟩), Chip.get_put_self]
    · exact ih _ hl hf

/-- Beside a list of fields, only the state of the clocks differs. -/
def ClockFields (a b : Chip) (l : List Fld) : Prop := OnlyFields { a with clk := b.clk } b l

theorem ClockFields.trans {a b c : Chip} {l : List Fld} (h : ClockFields a b l) (k : ClockFields b c l) : ClockFields a c l := by
  obtain ⟨h1, h2, h3⟩ := h
  obtain ⟨k1, k2, k3⟩ := k
  refine ⟨?_, fun f hf => (k2 f hf).trans (h2 f hf), k3.trans h3⟩
  rw [h1] at k1
  exact k1

/-- Fields take values, and then the clocks' state changes. -/
theorem ClockFields.puts (c : Chip) (l : List (Fld × Nat)) (k : ClockSt) {m : List Fld} (h : ∀ p ∈ l, p.1 ∈ m) :
    ClockFields c { c.puts l with clk := k } m := by
  obtain ⟨h1, h2, h3⟩ := OnlyFields.puts c l h
  exact ⟨by rw [h1], h2, h3⟩

/-! ### The record of a write -/

/-- What is added above a field does not reach it. -/
theorem bits_add_shiftLeft (n m : Nat) {lo w k : Nat} (h : lo + w ≤ k) : bits (n + m <<< k) lo w = bits n lo w := by
  have hm : m <<< k = 2 ^ lo * (2 ^ w * (2 ^ (k - (lo + w)) * m)) := by
    rw [← Nat.mul_assoc, ← Nat.mul_assoc, ← Nat.pow_add, ← Nat.pow_add, Nat.add_sub_cancel' h, Nat.shiftLeft_eq, Nat.mul_comm]
  rw [bits_eq, bits_eq, hm, Nat.add_mul_div_left _ _ (Nat.two_pow_pos lo), Nat.add_mul_mod_self_left]

/-- What is added at a field is read there where nothing below it carries. -/
theorem bits_add_shiftLeft_self {n lo : Nat} (m w : Nat) (h : n < 2 ^ lo) : bits (n + m <<< lo) lo w = m % 2 ^ w := by
  rw [bits_eq, Nat.shiftLeft_eq, Nat.add_mul_div_right _ _ (Nat.two_pow_pos lo), Nat.div_eq_of_lt h, Nat.zero_add]

/-- The second word of a sealed record is the value that it records (R344). -/
theorem bits_audSeal_value (b : RecBody) (digest : List Nat) : bits (audSeal b.num digest) 64 64 = b.value % 2 ^ 64 := by
  unfold audSeal RecBody.num
  iterate 8 rw [bits_add_shiftLeft _ _ (by decide)]
  rw [bits_add_shiftLeft_self _ _ (Nat.mod_lt _ (Nat.two_pow_pos 64)), Nat.mod_mod]

theorem Chip.irqReg_aud (c : Chip) (a v e : Fld) : (c.irqReg a v e).aud = c.aud := by
  unfold Chip.irqReg
  split <;> rfl

theorem Chip.audSync_aud (c : Chip) : c.audSync.aud = c.aud := Chip.puts_aud _ _

/-- The record that enters the ring carries the value. -/
theorem Chip.audPush_ring (c : Chip) (b : RecBody) :
    ∃ r, (c.audPush b).aud.ring = c.aud.ring ++ [r] ∧ bits r.data 64 64 = b.value % 2 ^ 64 := by
  refine ⟨⟨c.get Reg.AUD_SEQ.SEQ, audSeal b.num (audDigest c.audLast b.num), false, false⟩, ?_, bits_audSeal_value b _⟩
  unfold Chip.audPush Chip.audPushAfter
  dsimp only
  split <;> simp only [Chip.irqReg_aud, Chip.audSync_aud, Chip.puts_aud]

/-- A field that no record writes reads after the record as before. -/
theorem Recorded.get {a b : Chip} (h : Recorded a b) {f : Fld} (hf : ∀ g ∈ auditFields, f.addr ≠ g.addr) : b.get f = a.get f := h.regs f hf

/-- A recorded write whose effect is on the clocks leaves nothing else changed once it is answered. -/
theorem WroteOnly.of_recorded {a c d : Chip} {l : List Fld} (w : Who) (off : Nat) (h : Recorded a c) (e : ClockFields c d l) :
    WroteOnly { a with clk := d.clk } { d with replies := d.replies ++ [⟨w.agent, a.csrAddr off, 0, false, false⟩] } w off l := by
  obtain ⟨h1, h2, h3, ⟨r, h4⟩⟩ := h
  obtain ⟨e1, e2, e3⟩ := e
  have haud : d.aud = c.aud := by rw [e1]
  have hreplies : d.replies = a.replies := by rw [e1, h1]
  refine ⟨?_, fun f hf => ?_, e3.trans h3, ⟨r, haud.trans h4⟩, by rw [hreplies]; rfl⟩
  · have hd : d = { a with regs := d.regs, aud := d.aud, nrg := d.nrg, irqs := d.irqs, clk := d.clk } := by
      rw [e1, h1]
    rw [hd]
  · exact (e2 f fun g hg => hf g (by simp [hg])).trans (h2 f fun g hg => hf g (by simp [hg]))

/-- A write of a register whose effect is on the clocks, but of TIME_LOAD: the next state, and what it leaves unchanged. -/
theorem State.clockWrite_next {s : State} {w : Who} {off v : Nat} {l : List Fld} (h : s.chip.writeRuns w off = true) (h8 : off % 8 = 0)
    (hs : off ≠ 0xC9C00020) (ht : off ≠ 0xCD000008) (he : ∀ c : Chip, Recorded s.chip c → ClockFields c (c.csrAction w off v) l)
    (hl : ∀ p < 8, ∀ g ∈ l, (Reg.PCI_WIN_SEL.OLD_BUSY p).addr ≠ g.addr) :
    ∃ c t, Recorded s.chip c ∧ s.run (fun c => c.regWrite w off v) = .next t ∧ t.pending = s.pending
      ∧ t.chip.regs = (c.csrAction w off v).regs ∧ t.chip.clk = (c.csrAction w off v).clk
      ∧ WroteOnly { s.chip with clk := t.chip.clk } t.chip w off l := by
  obtain ⟨c, hrec, hrun⟩ := State.regWrite_next (v := v) h h8 hs fun c hrec => by
    rw [Chip.atWrite_of_ne ht] at hrec
    have hc := he c hrec
    exact ⟨by rw [hc.rest], by rw [hc.rest], fun p hp => hc.regs _ (hl p hp), by rw [hc.rest]⟩
  rw [Chip.atWrite_of_ne ht] at hrec
  exact ⟨c, _, hrec, hrun, rfl, rfl, rfl, WroteOnly.of_recorded w off hrec (he c hrec)⟩

/-- The whole of a register's first field is the value written. -/
theorem withFields_single (f : Fld) (v : Nat) (h : f.addr % 64 = 0) : withFields 0 [(f, v)] = v % 2 ^ f.width := by
  simp [withFields, h, setBits_eq]

end Sys2Proof.Machine
end

section
/-! TIME_LOAD (R46): the write meets the package once TIME has been read, is recorded, and is accepted or refused. -/
namespace Sys2Proof.Machine

/-- The package as a write of TIME_LOAD is recorded: TIME has been read at a free moment, and the write's energy has been counted. -/
def Chip.timeMet (c : Chip) (w : Who) : Chip :=
  { c.timeNow.2 with nrg := (c.nrgEv domHubc 12 (c.keyOf w.agent w.tenant) 1).nrg }

/-- The package once the write has been recorded. -/
def Chip.timeLogged (c : Chip) (w : Who) (v : Nat) : Chip :=
  (c.timeMet w).audPush ((c.timeMet w).swBody w (c.csrAddr 0xCD000008) v ((c.timeMet w).csrRefuses w 0xCD000008 v))

/-- The package once a write of TIME_LOAD has been recorded and the load accepted or refused. -/
def Chip.timeLoaded (c : Chip) (w : Who) (v : Nat) : Chip := (c.timeLogged w v).timeLoad v

theorem Chip.timeLogged_recorded (c : Chip) (w : Who) (v : Nat) : Recorded c.timeNow.2 (c.timeLogged w v) := by
  obtain ⟨k1, k2, k3, k4⟩ := Chip.audPush_recorded (c.timeMet w)
    ((c.timeMet w).swBody w (c.csrAddr 0xCD000008) v ((c.timeMet w).csrRefuses w 0xCD000008 v))
  exact ⟨k1, k2, k3, k4⟩

theorem Chip.timeLogged_ring (c : Chip) (w : Who) (v : Nat) :
    ∃ r, (c.timeLogged w v).aud.ring = c.aud.ring ++ [r] ∧ bits r.data 64 64 = v % 2 ^ 64 :=
  Chip.audPush_ring (c.timeMet w) ((c.timeMet w).swBody w (c.csrAddr 0xCD000008) v ((c.timeMet w).csrRefuses w 0xCD000008 v))

/-- A write of TIME_LOAD that goes straight through is recorded, acts and is answered. -/
theorem Chip.timeLoad_write {c : Chip} {w : Who} {v : Nat} (h : c.writeRuns w 0xCD000008 = true) :
    c.regWrite w 0xCD000008 v = ((c.timeLoaded w v).stageKick.outAnswer (.agent w.agent (c.csrAddr 0xCD000008)) 8 (.ok 0)).inPump := by
  simp only [Chip.writeRuns, Bool.and_eq_true, Bool.not_eq_true', decide_eq_true_eq, List.isEmpty_iff] at h
  obtain ⟨⟨⟨⟨⟨⟨⟨hquiet, hrgn⟩, hblocked⟩, hring⟩, haudHeld⟩, hparked⟩, hcsrHeld⟩, hhw⟩ := h
  have hheld : c.stage.held.any (fun x => x.off == 0xCD000008) = false := by
    simp only [Chip.csrHeld, Bool.or_eq_false_iff] at hcsrHeld
    exact hcsrHeld.2
  have hmet : (c.nrgEv domHubc 12 (c.keyOf w.agent w.tenant) 1).timeNow.2 = c.timeMet w := by
    rw [Chip.nrgEv_rest]
    rfl
  have hrgnMet : (c.timeMet w).rgnCheck 26 (c.csrAddr 0xCD000008) w rightW = c.rgnCheck 26 (c.csrAddr 0xCD000008) w rightW := rfl
  have hblockedMet : (c.timeMet w).csrBlocked w 0xCD000008 = c.csrBlocked w 0xCD000008 := rfl
  have hperform : c.csrPerform ⟨w, 0xCD000008, v, 8, some (.agent w.agent (c.csrAddr 0xCD000008))⟩
      = (.ok 0, c.timeLoaded w v) := by
    unfold Chip.csrPerform
    simp only [if_pos, hmet, hrgnMet, hblockedMet, hrgn, hblocked]
    simp [Chip.csrRecord]
    rfl
  unfold Chip.regWrite Chip.csrWrite Chip.csrArrive
  simp only [hheld, haudHeld, hparked, hhw, Chip.selParked_of_quiet hquiet, hperform]
  simp [Nat.not_le.2 hring]

/-- The registers above a port's block are other ones than its OLD_BUSY. -/
theorem Reg.OLD_BUSY_ne_of_high {p : Nat} {l : List Fld} (hp : p < 8) (hl : ∀ g ∈ l, 8 * 0xCC000000 ≤ g.addr) :
    ∀ g ∈ l, (Reg.PCI_WIN_SEL.OLD_BUSY p).addr ≠ g.addr := by
  intro g hg
  have := hl g hg
  simp only [Reg.PCI_WIN_SEL.OLD_BUSY, mkFld]
  omega

/-- No record writes OLD_BUSY. -/
theorem Reg.OLD_BUSY_notAudit {p : Nat} (hp : p < 8) : ∀ g ∈ auditFields, (Reg.PCI_WIN_SEL.OLD_BUSY p).addr ≠ g.addr := by
  intro g hg
  have hlow : ∀ g ∈ auditFields, g.addr < 8 * 0xCB000000 := by decide
  have := hlow g hg
  simp only [Reg.PCI_WIN_SEL.OLD_BUSY, mkFld]
  omega

theorem Chip.halted_of_quiet {c : Chip} (h : c.quiet = true) : c.halted = false := by
  simp only [Chip.quiet, Bool.and_eq_true, Bool.not_eq_true'] at h
  obtain ⟨⟨hclocked, -⟩, -⟩ := h
  exact hclocked

/-- Where neither the engine nor the ports have anything to do, the answer is all that follows. -/
theorem Chip.answer_settles {c d : Chip} (hq : c.quiet = true) (hstage : d.stage = c.stage) (hfns : d.fns = c.fns)
    (hbusy : ∀ p < 8, d.get (Reg.PCI_WIN_SEL.OLD_BUSY p) = c.get (Reg.PCI_WIN_SEL.OLD_BUSY p)) (agent addr v : Nat) :
    (d.stageKick.outAnswer (.agent agent addr) 8 (.ok v)).inPump = { d with replies := d.replies ++ [⟨agent, addr, v, false, false⟩] } := by
  simp only [Chip.quiet, Bool.and_eq_true, Bool.or_eq_true, bne_iff_ne, ne_eq] at hq
  obtain ⟨⟨-, hengine⟩, hidle⟩ := hq
  have hkick : d.stageKick = d := by
    unfold Chip.stageKick
    rw [hstage]
    exact if_neg (by rcases hengine with h | h <;> simp [h])
  rw [hkick]
  exact Chip.inPump_idle ((Chip.inIdle_congr hfns (congrArg _ hstage) hbusy).trans hidle)

/-- An accepted load waits for the tick. -/
theorem Chip.timeLoad_of_ok {c : Chip} {v : Nat} (h : c.timeLoadOk v = true) :
    c.timeLoad v = { c with clk := { c.clk with pendingLoad := some v } } := if_pos h

/-- One that is not sets LOAD_REFUSED. -/
theorem Chip.timeLoad_of_not_ok {c : Chip} {v : Nat} (h : ¬ c.timeLoadOk v = true) : c.timeLoad v = c.put Reg.TIME_STATUS.LOAD_REFUSED 1 := if_neg h

/-- An accepted load changes the state of the clocks and nothing else. -/
theorem Chip.timeLoad_fields_of_ok {c : Chip} {v : Nat} (h : c.timeLoadOk v = true) : ClockFields c (c.timeLoad v) [] := by
  rw [Chip.timeLoad_of_ok h]
  exact ClockFields.puts c [] _ (by simp)

theorem Chip.timeLoad_fields (c : Chip) (v : Nat) : ClockFields c (c.timeLoad v) [Reg.TIME_STATUS.LOAD_REFUSED] := by
  by_cases h : c.timeLoadOk v = true
  · rw [Chip.timeLoad_of_ok h]
    exact ClockFields.puts c [] _ (by simp)
  · rw [Chip.timeLoad_of_not_ok h]
    exact ClockFields.puts c [(Reg.TIME_STATUS.LOAD_REFUSED, 1)] c.clk (by simp)

/-- The record leaves the clocks' state as the read of TIME left it. -/
theorem Chip.timeLogged_clk (c : Chip) (w : Who) (v : Nat) : (c.timeLogged w v).clk = c.timeNow.2.clk := by
  rw [(c.timeLogged_recorded w v).rest]

/-- The record changes nothing that the acceptance of a load looks at: TIME as it was read, and Chainline's state and root (R46). -/
theorem Chip.timeLoadOk_timeLogged (c : Chip) (w : Who) (v u : Nat) :
    (c.timeLogged w u).timeLoadOk v = true
      ↔ c.timeNow.1 < v ∧ (c.get Reg.TIME_CL_STATUS.STATE = 0 ∨ c.get Reg.TIME_CL_CTRL.ROOT = c.pkg) := by
  have hrec := c.timeLogged_recorded w u
  have hget : ∀ {f : Fld}, (∀ g ∈ auditFields, f.addr ≠ g.addr) → (c.timeLogged w u).get f = c.get f := hrec.get
  have htime : (c.timeLogged w u).timeAt (c.timeLogged w u).clk.lastK = c.timeNow.1 := by
    unfold Chip.timeAt Chip.on Chip.time
    rw [Chip.timeLogged_clk, hget (by decide), hget (by decide)]
    rfl
  simp only [Chip.timeLoadOk, htime, Chip.pkg, hget (f := Reg.TIME_CL_STATUS.STATE) (by decide), hget (f := Reg.TIME_CL_CTRL.ROOT) (by decide),
    hget (f := Reg.HUB_PKG_ID.PKG) (by decide), Bool.and_eq_true, Bool.or_eq_true, decide_eq_true_eq, beq_iff_eq]

/-- Its answer. -/
def Chip.timeAnswered (c : Chip) (w : Who) (v : Nat) : Chip :=
  { c.timeLoaded w v with replies := (c.timeLoaded w v).replies ++ [⟨w.agent, c.timeNow.2.csrAddr Reg.TIME_LOAD.VALUE.off, 0, false, false⟩] }

theorem Chip.timeLoaded_accepted {c : Chip} {w : Who} {v : Nat}
    (h : c.timeNow.1 < v ∧ (c.get Reg.TIME_CL_STATUS.STATE = 0 ∨ c.get Reg.TIME_CL_CTRL.ROOT = c.pkg)) :
    (c.timeLoaded w v).clk = { c.timeNow.2.clk with pendingLoad := some v }
      ∧ ClockFields (c.timeLogged w v) (c.timeLoaded w v) [] := by
  have hok := (c.timeLoadOk_timeLogged w v v).2 h
  refine ⟨?_, Chip.timeLoad_fields_of_ok hok⟩
  rw [← c.timeLogged_clk w v]
  exact congrArg Chip.clk (Chip.timeLoad_of_ok hok)

theorem Chip.timeLoaded_refused {c : Chip} {w : Who} {v : Nat}
    (h : ¬ (c.timeNow.1 < v ∧ (c.get Reg.TIME_CL_STATUS.STATE = 0 ∨ c.get Reg.TIME_CL_CTRL.ROOT = c.pkg))) :
    (c.timeLoaded w v).clk = c.timeNow.2.clk ∧ (c.timeLoaded w v).get Reg.TIME_STATUS.LOAD_REFUSED = 1 := by
  have hload : c.timeLoaded w v = _ := Chip.timeLoad_of_not_ok (mt (c.timeLoadOk_timeLogged w v v).1 h)
  rw [hload]
  exact ⟨c.timeLogged_clk w v, Chip.get_put_self _ _ 1⟩

theorem Chip.timeLoaded_fields (c : Chip) (w : Who) (v : Nat) :
    ClockFields (c.timeLogged w v) (c.timeLoaded w v) [Reg.TIME_STATUS.LOAD_REFUSED] := Chip.timeLoad_fields _ v

theorem Chip.timeAnswered_wrote {c : Chip} {w : Who} {v : Nat} {l : List Fld} (h : ClockFields (c.timeLogged w v) (c.timeLoaded w v) l) :
    WroteOnly { c.timeNow.2 with clk := (c.timeLoaded w v).clk } (c.timeAnswered w v) w Reg.TIME_LOAD.VALUE.off l :=
  WroteOnly.of_recorded w _ (c.timeLogged_recorded w v) h

theorem Chip.timeLoaded_time (c : Chip) (w : Who) (v : Nat) : (c.timeLoaded w v).time = c.time :=
  ((c.timeLoaded_fields w v).regs _ (by decide)).trans ((c.timeLogged_recorded w v).get (by decide))

theorem Chip.timeLoaded_ring (c : Chip) (w : Who) (v : Nat) :
    ∃ r, (c.timeLoaded w v).aud.ring = c.aud.ring ++ [r] ∧ bits r.data 64 64 = v % 2 ^ 64 := by
  rw [(c.timeLoaded_fields w v).rest]
  exact c.timeLogged_ring w v

/-- A write of TIME_LOAD that goes straight through: the load, and the answer. -/
theorem exec_timeLoad_runs {s : State} {w : Who} {v : Word} (h : s.chip.writeRuns w Reg.TIME_LOAD.VALUE.off = true) :
    exec (.timeLoad w v) s = .next { s with chip := s.chip.timeAnswered w v.toNat } := by
  have hrec := s.chip.timeLogged_recorded w v.toNat
  have hload := s.chip.timeLoaded_fields w v.toNat
  have hquiet : s.chip.quiet = true := by
    simp only [Chip.writeRuns, Bool.and_eq_true] at h
    obtain ⟨⟨⟨⟨⟨⟨⟨hquiet, -⟩, -⟩, -⟩, -⟩, -⟩, -⟩, -⟩ := h
    exact hquiet
  have hbusy : ∀ p < 8, (s.chip.timeLoaded w v.toNat).get (Reg.PCI_WIN_SEL.OLD_BUSY p) = s.chip.get (Reg.PCI_WIN_SEL.OLD_BUSY p) :=
    fun p hp => (hload.regs _ (Reg.OLD_BUSY_ne_of_high hp (by decide))).trans (hrec.get (Reg.OLD_BUSY_notAudit hp))
  have hwrite : s.chip.regWrite w Reg.TIME_LOAD.VALUE.off v.toNat = s.chip.timeAnswered w v.toNat :=
    (Chip.timeLoad_write h).trans
      (Chip.answer_settles hquiet (by rw [hload.rest, hrec.rest]; rfl) (by rw [hload.rest, hrec.rest]; rfl) hbusy _ _ _)
  have hotp : (s.chip.timeAnswered w v.toNat).otp = s.chip.otp := by
    show (s.chip.timeLoaded w v.toNat).otp = _
    rw [hload.rest, hrec.rest]
    rfl
  have hv : withFields 0 [(Reg.TIME_LOAD.VALUE, v.toNat)] = v.toNat := (withFields_single _ _ rfl).trans (Nat.mod_eq_of_lt v.isLt)
  have hexec : exec (.timeLoad w v) s = s.run (fun c => c.regWrite w Reg.TIME_LOAD.VALUE.off v.toNat) := by
    rw [← hv]
    rfl
  rw [hexec, State.run_eq _ _ (s.chip.halted_of_quiet hquiet) (by rw [hwrite, hotp]), hwrite]

end Sys2Proof.Machine
end

section
/-! The tick of TIME (R43, R46, R52). -/
namespace Sys2Proof.Machine

/-- What a tick makes of TIME: an accepted load, or all that the tick adds. -/
def Chip.tickTo (c : Chip) : Nat := c.clk.pendingLoad.getD (c.time + c.clk.inc + c.clk.stepBy)

/-- The package after a tick but for the watchdog. -/
def Chip.ticked (c : Chip) : Chip :=
  { c.put Reg.TIME_NOW.VALUE c.tickTo with
    clk := { c.clk with pendingLoad := none, stepBy := 0, phase := (c.clk.phase + 1) % 16, inc := c.clk.nextInc, lastK := 0 }
    nrg := { c.nrg with due := c.nrg.due.map (fun (d : Credit) => { d with ticks := d.ticks - 1 }) } }

/-- While TIME runs, a tick gives it its value, and the watchdog goes on by the difference. -/
theorem Chip.timeTick_of_valid {c : Chip} (h : c.on Reg.TIME_STATUS.VALID = true) : c.timeTick = c.ticked.wdogTick (c.tickTo - c.time) := by
  unfold Chip.timeTick Chip.ticked Chip.tickTo
  rw [if_pos h]
  cases c.clk.pendingLoad <;> rfl

/-- A watchdog that is off does not run. -/
theorem Chip.wdogTick_of_off {c : Chip} (d : Nat) (h : c.on Reg.SEC_WDOG_CTRL.EN = false) : c.wdogTick d = c := by
  simp [Chip.wdogTick, h]

/-- The watchdog's step changes its own state only. -/
theorem Chip.wdogTick_fields (c : Chip) (d : Nat) :
    OnlyFields { c with sec := (c.wdogTick d).sec } (c.wdogTick d) [Reg.SEC_WDOG_STATUS.REMAIN] := by
  unfold Chip.wdogTick
  split
  · exact OnlyFields.puts { c with sec := { c.sec with wdogMark := (c.sec.wdogMark + d) % 4000 } } [(Reg.SEC_WDOG_STATUS.REMAIN, _)] (by simp)
  · exact ⟨rfl, Untouched.refl c _, rfl⟩

theorem Chip.ticked_time (c : Chip) : c.ticked.time = c.tickTo % 2 ^ 64 := Chip.get_put_self c Reg.TIME_NOW.VALUE c.tickTo

/-- A tick while TIME runs: the next state. -/
theorem exec_timeTick_runs {s : State} (hs : s.chip.halted = false) (hv : s.chip.on Reg.TIME_STATUS.VALID = true) :
    exec .timeTick s = .next { s with chip := s.chip.ticked.wdogTick (s.chip.tickTo - s.chip.time) } := by
  have htick := Chip.timeTick_of_valid hv
  have hotp : s.chip.timeTick.otp = s.chip.otp := by
    rw [htick, (Chip.wdogTick_fields _ _).rest]
    rfl
  rw [← htick]
  exact s.runTime_eq Chip.timeTick (s.chip.clockless_of_halted hs) hotp

end Sys2Proof.Machine

open Sys2Proof Sys2Proof.Machine

/-- Settles O54: a write of TIME_LOAD is the load after its record, which leaves what the load looks at; a tick gives TIME the load that waits. -/
theorem loadsOfTimeGoForward : Obligations.LoadsOfTimeGoForward := by
  unfold Obligations.LoadsOfTimeGoForward
  refine ⟨fun s w v h => ?_, fun s v hs hv hload => ?_⟩
  · obtain ⟨r, hring, hdata⟩ := s.chip.timeLoaded_ring w v.toNat
    refine ⟨{ s with chip := s.chip.timeAnswered w v.toNat }, r, exec_timeLoad_runs h, rfl, s.chip.timeLoaded_time w v.toNat, hring,
      hdata.trans (Nat.mod_eq_of_lt v.isLt), fun hacc => ?_, fun hacc => ?_⟩
    · obtain ⟨hclk, hfields⟩ := Chip.timeLoaded_accepted (w := w) hacc
      exact ⟨hclk, Chip.timeAnswered_wrote hfields⟩
    · obtain ⟨hclk, hflag⟩ := Chip.timeLoaded_refused (w := w) hacc
      have hwrote := Chip.timeAnswered_wrote (s.chip.timeLoaded_fields w v.toNat)
      rw [hclk] at hwrote
      exact ⟨hflag, hwrote⟩
  · have hto : s.chip.tickTo = v.toNat := by rw [Chip.tickTo, hload, Option.getD_some]
    have hwdog := Chip.wdogTick_fields s.chip.ticked (s.chip.tickTo - s.chip.time)
    refine ⟨_, exec_timeTick_runs hs hv, rfl, ?_, by rw [hwdog.rest]; rfl, by rw [hwdog.rest]; rfl⟩
    calc (s.chip.ticked.wdogTick (s.chip.tickTo - s.chip.time)).time = s.chip.ticked.time := hwdog.regs _ (by decide)
      _ = v.toNat := by rw [Chip.ticked_time, hto, Nat.mod_eq_of_lt v.isLt]
end

section
/-! The always-on count, its calibration, and the restart of TIME (R47, R49). -/
namespace Sys2Proof.Machine

/-- What a write of another register leaves of TIME at a moment. -/
theorem Chip.timeNow_put (c : Chip) {f : Fld} (v : Nat) (hvalid : Reg.TIME_STATUS.VALID.addr ≠ f.addr) (hnow : Reg.TIME_NOW.VALUE.addr ≠ f.addr) :
    (c.put f v).timeNow.1 = c.timeNow.1 := by
  have hat : ∀ k, (c.put f v).timeAt k = c.timeAt k := fun k => by
    simp [Chip.timeAt, Chip.on, Chip.time, Chip.get_put_ne c v hvalid, Chip.get_put_ne c v hnow]
  exact hat _

/-- The fields that a crystal edge writes while TIME runs: the count and the snapshot. -/
def Chip.edgeFields (c : Chip) : List (Fld × Nat) :=
  [(Reg.TIME_AO_COUNT.COUNT, c.get Reg.TIME_AO_COUNT.COUNT + 1), (Reg.TIME_AO_SNAP_TIME.TIME, c.timeNow.1),
    (Reg.TIME_AO_SNAP_COUNT.COUNT, (c.get Reg.TIME_AO_COUNT.COUNT + 1) % 2 ^ 48)]

theorem Chip.edgeFields_nodup (c : Chip) : (c.edgeFields.map (fun p => p.1.addr)).Nodup := by
  show ([Reg.TIME_AO_COUNT.COUNT, Reg.TIME_AO_SNAP_TIME.TIME, Reg.TIME_AO_SNAP_COUNT.COUNT].map Fld.addr).Nodup
  decide

/-- A read of TIME takes a free value, and the clocks note its moment. -/
theorem Chip.timeNow_eq (c : Chip) : ∃ k, c.timeNow.2 = { c with clk := k, free := c.free + 1 } := ⟨_, rfl⟩

/-- Fields take the same values whatever the clocks' state and the free values taken. -/
theorem Chip.puts_clk_free (c : Chip) (l : List (Fld × Nat)) (k : ClockSt) (n : Nat) :
    { c.puts l with clk := k, free := n } = ({ c with clk := k, free := n } : Chip).puts l := by
  induction l generalizing c with
  | nil => rfl
  | cons p l ih => exact ih (c.put p.1 p.2)

/-- The calibration's count is the clocks' own. -/
theorem Chip.calEdge_eq_clk (c : Chip) : ∃ k, c.calEdge = { c with clk := k } := ⟨_, rfl⟩

/-- While TIME runs, a crystal edge counts and latches the snapshot. -/
theorem Chip.crystalEdge_of_valid {c : Chip} (hv : c.on Reg.TIME_STATUS.VALID = true) :
    ∃ k, c.crystalEdge = { c.puts c.edgeFields with clk := k, free := c.free + 1 } := by
  have hcount : (c.addMod Reg.TIME_AO_COUNT.COUNT 1).get Reg.TIME_AO_COUNT.COUNT = (c.get Reg.TIME_AO_COUNT.COUNT + 1) % 2 ^ 48 :=
    Chip.get_put_self _ _ _
  have hvalid : (c.addMod Reg.TIME_AO_COUNT.COUNT 1).on Reg.TIME_STATUS.VALID = true := by
    rw [← hv, Chip.on, Chip.addMod, Chip.get_put_ne _ _ (by decide), ← Chip.on]
  have hnow : (c.addMod Reg.TIME_AO_COUNT.COUNT 1).timeNow.1 = c.timeNow.1 := c.timeNow_put _ (by decide) (by decide)
  unfold Chip.crystalEdge
  dsimp only
  rw [if_pos hvalid, hcount, hnow]
  obtain ⟨m, hmet⟩ := (c.addMod Reg.TIME_AO_COUNT.COUNT 1).timeNow_eq
  obtain ⟨k, hk⟩ := Chip.calEdge_eq_clk (((c.addMod Reg.TIME_AO_COUNT.COUNT 1).timeNow.2).puts
    [(Reg.TIME_AO_SNAP_TIME.TIME, c.timeNow.1), (Reg.TIME_AO_SNAP_COUNT.COUNT, (c.get Reg.TIME_AO_COUNT.COUNT + 1) % 2 ^ 48)])
  rw [hk, hmet, ← Chip.puts_clk_free]
  exact ⟨k, rfl⟩

/-- Out of Freewheel and its entry, a crystal edge does no more than that and shorten the wait before a wake's next attempt. -/
theorem Chip.crystal_of_awake {c : Chip} (ha : c.pwr.aonOk = true) (hs : c.pwr.asleep = false) (he : c.entering = false)
    (hv : c.on Reg.TIME_STATUS.VALID = true) : ∃ k p, c.crystal = { c.puts c.edgeFields with clk := k, free := c.free + 1, pwr := p } := by
  obtain ⟨k, hk⟩ := Chip.crystalEdge_of_valid hv
  have hentering : c.crystalEdge.entering = false := by
    rw [← he, hk]
    exact congrArg (· == pkEntering) (Chip.get_puts_ne c c.edgeFields (by simp only [Chip.edgeFields, List.forall_mem_cons]; decide))
  have hasleep : c.crystalEdge.pwr.asleep = false := by rw [hk]; simpa using hs
  refine ⟨k, { c.pwr with retry := c.pwr.retry.map (· - 1) }, ?_⟩
  unfold Chip.crystal Chip.wakeStart
  simp [ha, hentering, hasleep]
  rw [hk]
  simp [ha, hs]

/-- A calibration window is complete. -/
theorem Chip.calWindowEnd_of_complete {c : Chip} (p : Nat) (hopen : c.clk.calOpen = true) (hlen : 2 ^ c.clk.calLen ≤ c.clk.calEdges)
    (hv : c.on Reg.TIME_STATUS.VALID = true) : ∃ k : ClockSt, k.calEdges = 0
      ∧ c.calWindowEnd p = { c.puts [(Reg.TIME_AO_PERIOD.PERIOD, p), (Reg.TIME_AO_PERIOD.VALID, 1)] with clk := k } := by
  unfold Chip.calWindowEnd
  rw [if_pos (by simp [hopen, hlen, hv])]
  exact ⟨_, rfl, rfl⟩

/-- What a restart adds to the snapshot (R47). -/
def Chip.stopped (c : Chip) : Nat :=
  reconElapsed (c.get Reg.TIME_AO_COUNT.COUNT) (c.get Reg.TIME_AO_SNAP_COUNT.COUNT) (c.get Reg.TIME_AO_PERIOD.PERIOD)

/-- The uncertainty of a restart (R47). -/
def Chip.restartError (c : Chip) : Nat :=
  reconUncertainty c.stopped (c.get Reg.TIME_AO_CAL.DRIFT_PPB + (if c.on Reg.TIME_AO_PERIOD.VALID then 1 else 100000))

/-- The fields that every restart writes. -/
def Chip.restartFields (c : Chip) : List (Fld × Nat) :=
  [(Reg.TIME_NOW.VALUE, c.get Reg.TIME_AO_SNAP_TIME.TIME + (c.stopped + 2 ^ 31) / 2 ^ 32), (Reg.TIME_UNCERTAINTY.LAST, c.restartError),
    (Reg.TIME_UNCERTAINTY.ACCUM, min (c.get Reg.TIME_UNCERTAINTY.ACCUM + c.restartError) 0xFFFFFFFF), (Reg.TIME_STATUS.RECON, 1),
    (Reg.TIME_STATUS.CAUSE, c.clk.reconCause), (Reg.TIME_STATUS.VALID, 1),
    (Reg.SEC_WDOG_STATUS.REMAIN, if c.on Reg.SEC_WDOG_CTRL.EN then c.get Reg.SEC_WDOG_CTRL.PERIOD else c.get Reg.SEC_WDOG_STATUS.REMAIN)]

theorem Chip.restartFields_nodup (c : Chip) : (c.restartFields.map (fun p => p.1.addr)).Nodup := by
  show ([Reg.TIME_NOW.VALUE, Reg.TIME_UNCERTAINTY.LAST, Reg.TIME_UNCERTAINTY.ACCUM, Reg.TIME_STATUS.RECON, Reg.TIME_STATUS.CAUSE,
    Reg.TIME_STATUS.VALID, Reg.SEC_WDOG_STATUS.REMAIN].map Fld.addr).Nodup
  decide

/-- A field that is given a value under a condition. -/
theorem Chip.put_if_eq_puts (c : Chip) (P : Prop) [Decidable P] (f : Fld) (v : Nat) :
    (if P then c.put f v else c) = c.puts (if P then [(f, v)] else []) := by
  split <;> rfl

/-- Fields take the same values whatever the state of the clocks and of the security block. -/
theorem Chip.puts_clk_sec (c : Chip) (l : List (Fld × Nat)) (k : ClockSt) (m : SecSt) :
    { c.puts l with clk := k, sec := m } = ({ c with clk := k, sec := m } : Chip).puts l := by
  induction l generalizing c with
  | nil => rfl
  | cons p l ih => exact ih (c.put p.1 p.2)

/-- A restart writes these, and the watchdog's stage where the watchdog runs. -/
theorem Chip.timeRestart_of_mayRestart {c : Chip} (h : c.mayRestart = true) :
    ∃ (k : ClockSt) (m : SecSt) (l : List (Fld × Nat)), k.needRecon = false ∧ (∀ p ∈ l, p.1 = Reg.SEC_WDOG_STATUS.STAGE)
      ∧ c.timeRestart = (({ c with clk := k, sec := m } : Chip).puts c.restartFields).puts l := by
  have hrecord : ∃ (k : ClockSt) (m : SecSt) (l : List (Fld × Nat)), k.needRecon = false ∧ (∀ p ∈ l, p.1 = Reg.SEC_WDOG_STATUS.STAGE)
      ∧ c.timeRestart = { (c.puts c.restartFields).puts l with clk := k, sec := m } := by
    unfold Chip.timeRestart
    rw [if_pos h]
    dsimp only
    rw [Chip.put_if_eq_puts]
    refine ⟨_, _, if (c.puts c.restartFields).on Reg.SEC_WDOG_CTRL.EN = true then [(Reg.SEC_WDOG_STATUS.STAGE, 0)] else [], rfl, ?_, rfl⟩
    split <;> simp
  obtain ⟨k, m, l, hk, hl, heq⟩ := hrecord
  rw [Chip.puts_clk_sec, Chip.puts_clk_sec] at heq
  exact ⟨k, m, l, hk, hl, heq⟩

/-- A field that every restart writes has its value. -/
theorem Chip.get_timeRestart {c : Chip} (h : c.mayRestart = true) {f : Fld} {v : Nat} (hf : (f, v) ∈ c.restartFields)
    (hne : f.addr ≠ Reg.SEC_WDOG_STATUS.STAGE.addr) : c.timeRestart.get f = v % 2 ^ f.width := by
  obtain ⟨k, m, l, -, hl, heq⟩ := Chip.timeRestart_of_mayRestart h
  rw [heq, Chip.get_puts_ne _ _ fun p hp => by rwa [hl p hp], Chip.get_puts_mem _ c.restartFields_nodup hf]

end Sys2Proof.Machine

open Sys2Proof Sys2Proof.Machine

/-- Settles O2: each command writes its fields once; the tick's are those of the watchdog too, which is off; the load's clause is O54's. -/
theorem timeCounts : Obligations.TimeCounts := by
  unfold Obligations.TimeCounts
  refine ⟨?tick, ?edge, ?window, ?load, ?restart⟩
  case tick =>
    intro s hs hv hw
    have hoff : s.chip.ticked.on Reg.SEC_WDOG_CTRL.EN = false := by
      have hget : s.chip.ticked.get Reg.SEC_WDOG_CTRL.EN = s.chip.get Reg.SEC_WDOG_CTRL.EN := 
        Chip.get_put_ne s.chip (f := Reg.TIME_NOW.VALUE) s.chip.tickTo (by decide)
      rw [Chip.on, hget, ← Chip.on, hw]
    have hrun := exec_timeTick_runs hs hv
    rw [Chip.wdogTick_of_off _ hoff] at hrun
    refine ⟨_, hrun, rfl, ?_, rfl, rfl, rfl, rfl,
      OnlyFields.puts { s.chip with clk := s.chip.ticked.clk, nrg := s.chip.ticked.nrg } [(Reg.TIME_NOW.VALUE, s.chip.tickTo)] (by simp)⟩
    refine s.chip.ticked_time.trans (congrArg (· % 2 ^ 64) ?_)
    unfold Chip.tickTo
    cases s.chip.clk.pendingLoad <;> rfl
  case edge =>
    intro s ha hsl he hv
    obtain ⟨k, p, hcrystal⟩ := Chip.crystal_of_awake ha hsl he hv
    have hrun := s.runAlways_eq Chip.crystal (by rw [hcrystal]; exact Chip.puts_otp _ _)
    rw [hcrystal] at hrun
    have hmem := fun (f : Fld) (v : Nat) => s.chip.get_puts_mem s.chip.edgeFields_nodup (f := f) (v := v)
    exact ⟨_, hrun, rfl, hmem _ _ (by simp [Chip.edgeFields]), (hmem _ ((s.chip.get Reg.TIME_AO_COUNT.COUNT + 1) % 2 ^ 48) (by simp [Chip.edgeFields])).trans (Nat.mod_mod _ _),
      hmem _ _ (by simp [Chip.edgeFields]), OnlyFields.puts { s.chip with clk := k, pwr := p, free := s.chip.free + 1 } s.chip.edgeFields (by simp [Chip.edgeFields])⟩
  case window =>
    intro s p hs hv hopen hlen
    obtain ⟨k, hk, hend⟩ := Chip.calWindowEnd_of_complete p.toNat hopen hlen hv
    have hrun := s.runTime_eq (fun c => c.calWindowEnd p.toNat) (s.chip.clockless_of_halted hs) (by rw [hend]; rfl)
    rw [hend] at hrun
    have hperiod := s.chip.get_puts_mem (l := [(Reg.TIME_AO_PERIOD.PERIOD, p.toNat), (Reg.TIME_AO_PERIOD.VALID, 1)])
      (by show ([Reg.TIME_AO_PERIOD.PERIOD, Reg.TIME_AO_PERIOD.VALID].map Fld.addr).Nodup; decide) (f := Reg.TIME_AO_PERIOD.PERIOD) (v := p.toNat) (by simp)
    exact ⟨_, hrun, rfl, hperiod.trans (Nat.mod_eq_of_lt p.isLt),
      Chip.get_put_self _ Reg.TIME_AO_PERIOD.VALID 1, hk,
      OnlyFields.puts { s.chip with clk := k } [(Reg.TIME_AO_PERIOD.PERIOD, p.toNat), (Reg.TIME_AO_PERIOD.VALID, 1)] (by simp)⟩
  case load =>
    intro s w v h hstate
    obtain ⟨hload, -⟩ := loadsOfTimeGoForward
    obtain ⟨t, r, hrun, hpend, -, -, -, hacc, href⟩ := hload s w v h
    refine ⟨t, hrun, hpend, fun hlt => ?_, fun hle => ?_⟩
    · obtain ⟨hclk, hwrote⟩ := hacc ⟨hlt, .inl hstate⟩
      have hfree : t.chip.free = s.chip.free + 1 := by rw [hwrote.rest]; rfl
      rw [hfree]
      exact ⟨congrArg ClockSt.pendingLoad hclk, hwrote⟩
    · obtain ⟨hflag, hwrote⟩ := href fun h => absurd h.1 (Nat.not_lt.2 hle)
      have hfree : t.chip.free = s.chip.free + 1 := by rw [hwrote.rest]; rfl
      have hclk : t.chip.clk = s.chip.timeNow.2.clk := by rw [hwrote.rest]
      rw [hfree, hclk]
      exact ⟨hflag, rfl, hwrote⟩
  case restart =>
    intro s hs hr hl ha hf
    have hmay : s.chip.mayRestart = true := by simp [Chip.mayRestart, hr, hl, ha, hf]
    have hget := fun (f : Fld) (v : Nat) => Chip.get_timeRestart hmay (f := f) (v := v)
    obtain ⟨k, m, l, hk, hstage, heq⟩ := Chip.timeRestart_of_mayRestart hmay
    have hrun := s.run_eq Chip.timeRestart hs (by rw [heq]; simp)
    have hnow := hget Reg.TIME_NOW.VALUE _ (List.mem_cons_self ..) (by decide)
    refine ⟨_, hrun, rfl, hnow, hget _ 1 (by simp [Chip.restartFields]) (by decide), hget _ 1 (by simp [Chip.restartFields]) (by decide),
      hget _ s.chip.clk.reconCause (by simp [Chip.restartFields]) (by decide), ?_, ?_⟩
    · show s.chip.timeRestart.clk.needRecon = false
      rw [heq, Chip.puts_clk, Chip.puts_clk]
      exact hk
    · show OnlyFields { s.chip with clk := s.chip.timeRestart.clk, sec := s.chip.timeRestart.sec } s.chip.timeRestart _
      rw [heq, Chip.puts_clk, Chip.puts_clk, Chip.puts_sec, Chip.puts_sec]
      exact (OnlyFields.puts { s.chip with clk := k, sec := m } s.chip.restartFields (by simp [Chip.restartFields])).trans
        (OnlyFields.puts _ l fun p hp => by simp [hstage p hp])
end

section
/-! Chainline's control register (R51, R53). -/
namespace Sys2Proof.Machine

theorem Chip.puts_append (c : Chip) (l m : List (Fld × Nat)) : c.puts (l ++ m) = (c.puts l).puts m := List.foldl_append

/-- What a write of TIME_CL_CTRL gives its fields; a reserved INTERVAL is ignored (R19). -/
def timeClFields (v : Nat) : List (Fld × Nat) :=
  [(Reg.TIME_CL_CTRL.EN, bits v 0 1), (Reg.TIME_CL_CTRL.ROOT, bits v 1 3)]
    ++ (if (Legal.range 1 255).ok (bits v 8 8) then [(Reg.TIME_CL_CTRL.INTERVAL, bits v 8 8)] else [])
    ++ [(Reg.TIME_CL_CTRL.PORT_EN, bits v 16 6), (Reg.TIME_CL_CTRL.ERR_THRESH, bits v 32 8)]

/-- The fields of TIME_CL_CTRL. -/
def timeClCtrl : List Fld :=
  [Reg.TIME_CL_CTRL.EN, Reg.TIME_CL_CTRL.ROOT, Reg.TIME_CL_CTRL.INTERVAL, Reg.TIME_CL_CTRL.PORT_EN, Reg.TIME_CL_CTRL.ERR_THRESH]

theorem timeClFields_mem (v : Nat) : ∀ p ∈ timeClFields v, p.1 ∈ timeClCtrl := by
  unfold timeClFields timeClCtrl
  split <;> simp

theorem timeClFields_nodup (v : Nat) : ((timeClFields v).map (fun p => p.1.addr)).Nodup := by
  unfold timeClFields
  split
  · show (timeClCtrl.map Fld.addr).Nodup
    decide
  · show ([Reg.TIME_CL_CTRL.EN, Reg.TIME_CL_CTRL.ROOT, Reg.TIME_CL_CTRL.PORT_EN, Reg.TIME_CL_CTRL.ERR_THRESH].map Fld.addr).Nodup
    decide

theorem findReg_clCtrl : findReg Reg.blocks 0xCD000080 = some ⟨timeClCtrl, none⟩ := by decide +kernel

theorem Chip.storeAt_clCtrl (c : Chip) (v : Nat) : c.storeAt 0xCD000080 v = c.puts (timeClFields v) := by
  have hinterval : ∀ d : Chip, d.storeFld false 0xCD000080 v Reg.TIME_CL_CTRL.INTERVAL
      = d.puts (if (Legal.range 1 255).ok (bits v 8 8) then [(Reg.TIME_CL_CTRL.INTERVAL, bits v 8 8)] else []) :=
    fun d => d.put_if_eq_puts _ _ _
  have hstore : c.storeAt 0xCD000080 v = c.storeReg ⟨timeClCtrl, none⟩ 0xCD000080 v := by rw [Chip.storeAt, findReg_clCtrl]
  rw [hstore, timeClFields, Chip.puts_append, Chip.puts_append, ← hinterval]
  rfl

/-- A field that a write of TIME_CL_CTRL gives a value has it. -/
theorem Chip.get_clCtrl (c : Chip) {v x : Nat} {f : Fld} (h : (f, x) ∈ timeClFields v) : (c.puts (timeClFields v)).get f = x % 2 ^ f.width :=
  c.get_puts_mem (timeClFields_nodup v) h

/-- Every other one is as it was. -/
theorem Chip.get_clCtrl_ne (c : Chip) (v : Nat) {f : Fld} (h : ∀ g ∈ timeClCtrl, f.addr ≠ g.addr) : (c.puts (timeClFields v)).get f = c.get f :=
  c.get_puts_ne _ fun p hp => h p.1 (timeClFields_mem v p hp)

/-- A write of TIME_CL_CTRL gives its fields their values and acts on Chainline. -/
theorem Chip.csrAction_clCtrl (c : Chip) (w : Who) (v : Nat) :
    c.csrAction w 0xCD000080 v = (c.puts (timeClFields v)).chainlineCtrl (c.on Reg.TIME_CL_CTRL.EN) := by
  rw [← Chip.storeAt_clCtrl]
  rfl

/-- What Chainline reports of a root that locks, and while it is OFF. -/
def clRootFields : List (Fld × Nat) := [(Reg.TIME_CL_STATUS.STATE, clLocked), (Reg.TIME_CL_STATUS.HOPS, 0), (Reg.TIME_CL_STATUS.SRC_PORT, 7)]
def clOffFields : List (Fld × Nat) := [(Reg.TIME_CL_STATUS.STATE, clOff), (Reg.TIME_CL_STATUS.SRC_PORT, 7), (Reg.TIME_CL_STATUS.HOPS, 0)]

/-- A root whose TIME was not reconstructed locks when it is switched on. -/
theorem Chip.csrAction_chainlineOn {c : Chip} {w : Who} {v : Nat} (hwas : c.on Reg.TIME_CL_CTRL.EN = false) (hfresh : c.clk.fresh = false)
    (hen : bits v 0 1 = 1) (hroot : bits v 1 3 = c.pkg) :
    ∃ k : ClockSt, c.csrAction w 0xCD000080 v = { (c.puts (timeClFields v)).puts clRootFields with clk := k } := by
  have hget : ∀ {f x}, (f, x) ∈ timeClFields v → (c.puts (timeClFields v)).get f = x % 2 ^ f.width := c.get_clCtrl
  have hon : (c.puts (timeClFields v)).on Reg.TIME_CL_CTRL.EN = true := by
    rw [Chip.on, hget (x := 1) (by simp [timeClFields, hen])]
    rfl
  have hpkg : (c.puts (timeClFields v)).get Reg.TIME_CL_CTRL.ROOT = (c.puts (timeClFields v)).pkg :=
    calc (c.puts (timeClFields v)).get Reg.TIME_CL_CTRL.ROOT = c.pkg % 2 ^ 3 := hget (x := c.pkg) (by simp [timeClFields, hroot])
      _ = c.pkg := Nat.mod_eq_of_lt (c.get_lt Reg.HUB_PKG_ID.PKG)
      _ = (c.puts (timeClFields v)).pkg := (c.get_clCtrl_ne v (by decide)).symm
  rw [Chip.csrAction_clCtrl, Chip.chainlineCtrl, if_pos hon, hwas, if_neg Bool.false_ne_true, if_pos hpkg, Chip.puts_clk, hfresh, if_neg Bool.false_ne_true]
  exact ⟨_, rfl⟩

/-- Switched off, Chainline forgets its ports. -/
theorem Chip.csrAction_chainlineOff (c : Chip) (w : Who) {v : Nat} (hen : bits v 0 1 = 0) :
    ∃ k : ClockSt, k.ports = [] ∧ k.slew = .none
      ∧ c.csrAction w 0xCD000080 v = { (c.puts (timeClFields v)).puts clOffFields with clk := k } := by
  have hoff : ¬ (c.puts (timeClFields v)).on Reg.TIME_CL_CTRL.EN = true := by
    rw [Chip.on, c.get_clCtrl (x := 0) (by simp [timeClFields, hen])]
    decide
  rw [Chip.csrAction_clCtrl, Chip.chainlineCtrl, if_neg hoff]
  exact ⟨_, rfl, rfl, rfl⟩

end Sys2Proof.Machine
end

section
/-! Events of the hub's units change counters only (R420 to R423). -/
namespace Sys2Proof.Machine

theorem CountedOnly.refl (c : Chip) : CountedOnly c c [] := ⟨rfl, fun _ _ _ => rfl, rfl⟩

theorem CountedOnly.trans {a b c : Chip} {l : List Fld} (h : CountedOnly a b l) (k : CountedOnly b c l) : CountedOnly a c l := by
  obtain ⟨h1, h2, h3⟩ := h
  obtain ⟨k1, k2, k3⟩ := k
  refine ⟨?_, fun f hp hf => (k2 f hp hf).trans (h2 f hp hf), k3.trans h3⟩
  rw [h1] at k1
  exact k1

/-- Counters take values. -/
theorem CountedOnly.puts (c : Chip) {l : List (Fld × Nat)} (h : ∀ p ∈ l, pmuFld p.1 = true) : CountedOnly c (c.puts l) [] := by
  refine ⟨by rw [Chip.puts_irqs, Chip.puts_nrg, ← Chip.puts_rest], fun f hf _ => c.get_puts_ne l fun p hp heq => ?_, c.shadow_puts l⟩
  have hsame : pmuFld f = pmuFld p.1 := by rw [pmuFld, pmuFld, heq]
  rw [h p hp, hf] at hsame
  cases hsame

/-- An interrupt message may follow. -/
theorem CountedOnly.irqReg (c : Chip) (ag vec en : Fld) : CountedOnly c (c.irqReg ag vec en) [] := by
  unfold Chip.irqReg
  split
  · exact ⟨rfl, fun _ _ _ => rfl, rfl⟩
  · exact CountedOnly.refl c

theorem Chip.cntAdd_counted (c : Chip) {value ovf : Fld} (n : Nat) (hv : pmuFld value = true) (ho : pmuFld ovf = true) :
    CountedOnly c (c.cntAdd value ovf n).2 [] := by
  unfold Chip.cntAdd
  dsimp only
  split
  · exact CountedOnly.puts c (l := [(value, _)]) (by simp [hv])
  · exact CountedOnly.puts c (l := [(value, _), (ovf, 1)]) (by simp [hv, ho])

theorem Chip.cntEvent_counted (c : Chip) {value ovf : Fld} (irq : Fld) (n : Nat) (hv : pmuFld value = true) (ho : pmuFld ovf = true) :
    CountedOnly c (c.cntEvent value ovf irq none n) [] := by
  unfold Chip.cntEvent
  dsimp only
  split
  · exact (c.cntAdd_counted n hv ho).trans (CountedOnly.irqReg _ _ _ _)
  · exact c.cntAdd_counted n hv ho

theorem pmuFld_hubu {g i : Nat} (hg : g < 0x100) (hi : i < 4) :
    pmuFld (Reg.PMU_HUBU_CNT.VALUE g i) = true ∧ pmuFld (Reg.PMU_HUBU_CNT.OVF g i) = true := by
  unfold pmuFld Reg.PMU_HUBU_CNT.VALUE Reg.PMU_HUBU_CNT.OVF mkFld
  simp only [Bool.or_eq_true, Bool.and_eq_true, decide_eq_true_eq]
  omega

/-- What an effect on each of a list's numbers keeps, all of them keep. -/
theorem CountedOnly.foldl {f : Chip → Nat → Chip} {l : List Nat} (h : ∀ i ∈ l, ∀ c, CountedOnly c (f c i) []) (c : Chip) :
    CountedOnly c (l.foldl f c) [] := by
  induction l generalizing c with
  | nil => exact CountedOnly.refl c
  | cons i l ih => exact (h i (by simp) c).trans (ih (fun j hj => h j (by simp [hj])) _)

/-- An event of a unit group of the hub. -/
theorem Chip.evHub_counted (c : Chip) {g : Nat} (ev n : Nat) (k : EvKey) (hg : g < 0x100) : CountedOnly c (c.evHub g ev n k) [] := by
  unfold Chip.evHub Chip.unitEvent
  dsimp only
  split
  · exact CountedOnly.refl c
  · refine CountedOnly.foldl (fun i hi d => ?_) c
    obtain ⟨hv, ho⟩ := pmuFld_hubu hg (List.mem_range.1 hi)
    split
    · exact d.cntEvent_counted _ n hv ho
    · exact CountedOnly.refl d

end Sys2Proof.Machine
end

section
/-! Chainline's symbols (R51). -/
namespace Sys2Proof.Machine

/-- The symbol that a port sends. -/
def Chip.symOf (c : Chip) (p sub : Nat) : AlignSym :=
  { pkg := c.pkg, state := c.get Reg.TIME_CL_STATUS.STATE, hops := c.get Reg.TIME_CL_STATUS.HOPS, t2 := (c.clPort p).rx.map (·.2), t3 := c.time16 sub,
    seq := (c.clPort p).sent, echo := ((c.clPort p).rx.map (·.1)).getD 0 }

/-- What a port keeps of a symbol that it sends. -/
def PortTime.send (pt : PortTime) (t : Nat) : PortTime := { pt with t1 := SMap.set pt.t1 pt.sent t, sent := pt.sent + 1 }

/-- The package with a symbol sent. -/
def Chip.symSent (c : Chip) (p sub : Nat) : Chip :=
  { c with clk := { c.clk with ports := SMap.set c.clk.ports p ((c.clPort p).send (c.time16 sub)), sent := c.clk.sent ++ [(p, c.symOf p sub)] } }

theorem Chip.alignSend_of_carries {c : Chip} {p : Nat} (sub : Nat) (hst : c.get Reg.TIME_CL_STATUS.STATE ≠ clOff)
    (hen : c.bitOf Reg.TIME_CL_CTRL.PORT_EN p = true) (hc : c.clCarries p = true) : c.alignSend p sub = c.symSent p sub := by
  unfold Chip.alignSend
  exact if_pos (by simp [hst, hen, hc])

theorem Chip.clPort_symSent (c : Chip) (p sub : Nat) : (c.symSent p sub).clPort p = (c.clPort p).send (c.time16 sub) :=
  SMap.getD_set_self _ _ _ _

/-- The package with what a port keeps of a symbol that has arrived. -/
def Chip.symTaken (c : Chip) (p : Nat) (y : AlignSym) (sub : Nat) : Chip :=
  { c with clk := { c.clk with
    ports := SMap.set c.clk.ports p ((c.clPort p).take y (c.time16 sub) (toSigned 16 (c.get (Reg.TIME_CL_ASYM.ASYM p)))) } }

/-- A LOCKED root keeps what it knows of a symbol and corrects nothing. -/
theorem Chip.alignReceive_of_root {c : Chip} {p : Nat} (y : AlignSym) (sub : Nat) (hp : p < 6) (hst : c.get Reg.TIME_CL_STATUS.STATE = clLocked)
    (hroot : c.get Reg.TIME_CL_CTRL.ROOT = c.pkg) (hsrc : c.get Reg.TIME_CL_STATUS.SRC_PORT = 7)
    (hen : c.bitOf Reg.TIME_CL_CTRL.PORT_EN p = true) (hc : c.clCarries p = true) :
    c.alignReceive p y sub = (c.symTaken p y sub).evHub (ugTdm p) 0xC3 1 evNone := by
  have hev := (c.symTaken p y sub).evHub_counted (g := ugTdm p) 0xC3 1 evNone (by unfold ugTdm; omega)
  have hget : ∀ {f}, pmuFld f = false → ((c.symTaken p y sub).evHub (ugTdm p) 0xC3 1 evNone).get f = c.get f :=
    fun hf => hev.regs _ hf (by simp)
  have hrefresh : ((c.symTaken p y sub).evHub (ugTdm p) 0xC3 1 evNone).clRefresh = (c.symTaken p y sub).evHub (ugTdm p) 0xC3 1 evNone := by
    unfold Chip.clRefresh
    simp only [Chip.pkg, hget (f := Reg.TIME_CL_STATUS.STATE) (by decide), hget (f := Reg.TIME_CL_CTRL.ROOT) (by decide),
      hget (f := Reg.HUB_PKG_ID.PKG) (by decide), hst]
    simp [clLocked, clOff, clAcquire, hroot, Chip.pkg]
  have hsrcNe : ¬ ((c.symTaken p y sub).evHub (ugTdm p) 0xC3 1 evNone).get Reg.TIME_CL_STATUS.SRC_PORT = p := by
    rw [hget (by decide), hsrc]
    omega
  have hon : (c.get Reg.TIME_CL_STATUS.STATE == clOff) = false := by rw [hst]; decide
  unfold Chip.alignReceive
  simp only [hc, hon, hen]
  show (if ((c.symTaken p y sub).evHub (ugTdm p) 0xC3 1 evNone).clRefresh.get _ = p then _ else _) = _
  rw [hrefresh, if_neg hsrcNe]
  exact hrefresh

end Sys2Proof.Machine
end

section
/-! Chainline's obligations. -/
namespace Sys2Proof.Machine

/-- What a write of TIME_CL_CTRL may write. -/
def chainlineFields : List Fld :=
  timeClCtrl ++ [Reg.TIME_CL_STATUS.STATE, Reg.TIME_CL_STATUS.HOPS, Reg.TIME_CL_STATUS.SRC_PORT]

/-- Such a write: the fields of TIME_CL_CTRL, and what Chainline then reports. -/
theorem ClockFields.timeCl (c : Chip) (v : Nat) {l : List (Fld × Nat)} (k : ClockSt)
    (hl : ∀ p ∈ l, p.1 ∈ [Reg.TIME_CL_STATUS.STATE, Reg.TIME_CL_STATUS.HOPS, Reg.TIME_CL_STATUS.SRC_PORT]) :
    ClockFields c { (c.puts (timeClFields v)).puts l with clk := k } chainlineFields := by
  have hctrl : ClockFields c { c.puts (timeClFields v) with clk := (c.puts (timeClFields v)).clk } chainlineFields :=
    ClockFields.puts c (timeClFields v) _ fun p hp => List.mem_append_left _ (timeClFields_mem v p hp)
  exact hctrl.trans (ClockFields.puts _ l k fun p hp => List.mem_append_right _ (hl p hp))

/-- A write of TIME_CL_CTRL that goes straight through, whose effect is known on the package as it is recorded. -/
theorem State.chainline_next {s : State} {w : Who} {v : Nat} {l : List (Fld × Nat)} {P : ClockSt → Prop} (h : s.chip.writeRuns w 0xCD000080 = true)
    (hl : ∀ p ∈ l, p.1 ∈ [Reg.TIME_CL_STATUS.STATE, Reg.TIME_CL_STATUS.HOPS, Reg.TIME_CL_STATUS.SRC_PORT])
    (he : ∀ c : Chip, Recorded s.chip c → ∃ k, P k ∧ c.csrAction w 0xCD000080 v = { (c.puts (timeClFields v)).puts l with clk := k }) :
    ∃ c t, Recorded s.chip c ∧ s.run (fun c => c.regWrite w 0xCD000080 v) = .next t ∧ t.pending = s.pending
      ∧ (∀ f, t.chip.get f = ((c.puts (timeClFields v)).puts l).get f) ∧ P t.chip.clk
      ∧ WroteOnly { s.chip with clk := t.chip.clk } t.chip w 0xCD000080 chainlineFields := by
  obtain ⟨c, t, hrec, hrun, hpend, hregs, hclk, hwrote⟩ := State.clockWrite_next (v := v) (l := chainlineFields) h (by decide) (by decide) (by decide)
    (fun c hc => by
      obtain ⟨k, -, hk⟩ := he c hc
      rw [hk]
      exact ClockFields.timeCl c v k hl)
    (fun p hp => Reg.OLD_BUSY_ne_of_high hp (by decide))
  obtain ⟨k, hP, hk⟩ := he c hrec
  rw [hk] at hregs hclk
  exact ⟨c, t, hrec, hrun, hpend, fun f => congrArg (fun r : RegFile => r.get f) hregs, hclk ▸ hP, hwrote⟩

/-- A command writes EN, the first field, and leaves the others as its value has them. -/
theorem withFields_en (v b : Nat) : withFields v [(Reg.TIME_CL_CTRL.EN, b)] = setBits v 0 1 b := by
  have haddr : Reg.TIME_CL_CTRL.EN.addr % 64 = 0 := by decide
  have hwidth : Reg.TIME_CL_CTRL.EN.width = 1 := rfl
  rw [withFields, List.foldl_cons, List.foldl_nil, haddr, hwidth]

theorem bits_withFields_en (v b : Nat) : bits (withFields v [(Reg.TIME_CL_CTRL.EN, b)]) 0 1 = b % 2 ^ 1 := by
  rw [withFields_en, bits_setBits_self]

theorem bits_withFields_root (v b : Nat) : bits (withFields v [(Reg.TIME_CL_CTRL.EN, b)]) 1 3 = bits v 1 3 := by
  rw [withFields_en, bits_setBits_other _ _ (.inr (Nat.le_refl 1))]

theorem PortTime.take_hist_some {pt : PortTime} {y : AlignSym} {t1 t2 : Nat} (t4 : Nat) (asym : Int) (h1 : SMap.get? pt.t1 y.echo = some t1)
    (h2 : y.t2 = some t2) : (pt.take y t4 asym).hist = (exchange t1 t2 y.t3 t4 asym :: pt.hist).take 16 := by
  simp [PortTime.take, PortTime.t1Of, h1, h2]

theorem PortTime.take_hist_none {pt : PortTime} {y : AlignSym} (t4 : Nat) (asym : Int) (h : SMap.get? pt.t1 y.echo = Option.none ∨ y.t2 = Option.none) :
    (pt.take y t4 asym).hist = pt.hist := by
  unfold PortTime.take PortTime.t1Of
  rcases h with h | h
  · simp [h]
  · cases SMap.get? pt.t1 y.echo <;> simp [h]

theorem Chip.clPort_symTaken (c : Chip) (p : Nat) (y : AlignSym) (sub : Nat) :
    (c.symTaken p y sub).clPort p = (c.clPort p).take y (c.time16 sub) (toSigned 16 (c.get (Reg.TIME_CL_ASYM.ASYM p))) :=
  SMap.getD_set_self _ _ _ _

end Sys2Proof.Machine

open Sys2Proof Sys2Proof.Machine

/-- Settles O3: a write of TIME_CL_CTRL is its fields and then Chainline's report; a symbol changes its own port alone, and a LOCKED root corrects nothing. -/
theorem chainlineRuns : Obligations.ChainlineRuns := by
  unfold Obligations.ChainlineRuns
  have hoff : Reg.TIME_CL_CTRL.EN.off = 0xCD000080 := rfl
  refine ⟨?on, ?off, ?send, ?receive⟩
  case on =>
    intro s w v h hwas hfresh hroot
    rw [hoff] at h ⊢
    have hen := bits_withFields_en v.toNat 1
    have hrootBits : bits (withFields v.toNat [(Reg.TIME_CL_CTRL.EN, 1)]) 1 3 = s.chip.pkg := (bits_withFields_root v.toNat 1).trans hroot
    obtain ⟨c, t, hrec, hrun, hpend, hget, -, hwrote⟩ := State.chainline_next (l := clRootFields) (P := fun _ => True) h (by decide) fun c hc => by
      have hpkg : c.pkg = s.chip.pkg := hc.get (by decide)
      obtain ⟨k, hk⟩ := Chip.csrAction_chainlineOn (w := w) ((congrArg (· == 1) (hc.get (by decide))).trans hwas) (by rw [hc.rest]; exact hfresh) hen
        (hrootBits.trans hpkg.symm)
      exact ⟨k, trivial, hk⟩
    refine ⟨t, hrun, hpend, ?_, ?_, (hget _).trans (Chip.get_puts_mem _ (v := clLocked) (by decide) (by decide)),
      (hget _).trans (Chip.get_puts_mem _ (v := 0) (by decide) (by decide)), hwrote⟩
    · rw [hget, Chip.get_puts_ne _ _ (by decide), c.get_clCtrl (x := 1) (by simp [timeClFields, hen])]
      rfl
    · rw [hget, Chip.get_puts_ne _ _ (by decide), c.get_clCtrl (x := s.chip.pkg) (by simp [timeClFields, hrootBits])]
      exact Nat.mod_eq_of_lt (s.chip.get_lt Reg.HUB_PKG_ID.PKG)
  case off =>
    intro s w v h
    rw [hoff] at h ⊢
    have hen := bits_withFields_en v.toNat 0
    obtain ⟨c, t, hrec, hrun, hpend, hget, ⟨hports, hslew⟩, hwrote⟩ := State.chainline_next (l := clOffFields)
      (P := fun k => k.ports = [] ∧ k.slew = .none) h (by decide) fun c hc => by
        obtain ⟨k, hp, hsl, hk⟩ := c.csrAction_chainlineOff w hen
        exact ⟨k, ⟨hp, hsl⟩, hk⟩
    refine ⟨t, hrun, hpend, ?_, (hget _).trans (Chip.get_puts_mem _ (v := clOff) (by decide) (by decide)), hports, hslew, hwrote⟩
    rw [hget, Chip.get_puts_ne _ _ (by decide), c.get_clCtrl (x := 0) (by simp [timeClFields, hen])]
    rfl
  case send =>
    intro s p sub hs hst hen hc
    have hsend := Chip.alignSend_of_carries sub hst hen hc
    have hrun := s.run_eq (fun c => c.alignSend p.val sub) hs (by rw [hsend]; rfl)
    rw [hsend] at hrun
    have hport := s.chip.clPort_symSent p.val sub
    refine ⟨_, hrun, rfl, ?_, (congrArg PortTime.hist hport :), rfl, rfl, Untouched.refl _ _, rfl⟩
    exact (congrArg (fun q : PortTime => SMap.get? q.t1 _) hport).trans (SMap.get?_set_self _ _ _)
  case receive =>
    intro s p y sub hs hst hroot hsrc hen hc
    have hrecv := Chip.alignReceive_of_root y sub p.isLt hst hroot hsrc hen hc
    have hev := (s.chip.symTaken p.val y sub).evHub_counted (g := ugTdm p.val) 0xC3 1 evNone (by unfold ugTdm; omega)
    have hrun := s.run_eq (fun c => c.alignReceive p.val y sub) hs (by rw [hrecv, hev.rest]; rfl)
    have hport : (s.chip.alignReceive p.val y sub).clPort p.val
        = (s.chip.clPort p.val).take y (s.chip.time16 sub) (toSigned 16 (s.chip.get (Reg.TIME_CL_ASYM.ASYM p.val))) := by
      rw [hrecv, Chip.clPort, hev.rest]
      exact s.chip.clPort_symTaken p.val y sub
    refine ⟨_, hrun, rfl, fun t1 t2 h1 h2 => ?_, fun hnone => ?_, (congrArg PortTime.rx hport :), (congrArg PortTime.seen hport :), ?_⟩
    · exact (congrArg PortTime.hist hport :).trans (PortTime.take_hist_some _ _ h1 h2)
    · exact (congrArg PortTime.hist hport :).trans (PortTime.take_hist_none _ _ hnone)
    · show (s.chip.alignReceive p.val y sub).get _ = _
      rw [hrecv]
      exact (hev.regs _ (by decide) (by simp)).trans hst
end

section
/-! A string operation that completes makes its predicate result pending, with the next bundle's index as its write point (R59, R61, R107): the predicate
register itself changes when the next bundle applies what is due. -/
namespace Sys2Proof.Machine

/-- A bundle with SER set, whose slot 2 (M0) holds CMPS of g4 and g5 with count g6 and predicate p1. -/
def bundleCompare : Nat := (0x30 * 2 ^ 25 + 1 * 2 ^ 21 + 4 * 2 ^ 15 + 5 * 2 ^ 9 + 6 * 2 ^ 3 + 3) * 2 ^ 64 + 2 ^ 223

/-- Context 0 runs that bundle with all its registers 0, so that the count is 0. -/
def State.emptyCompare : State :=
  { State.reset with chip :=
    { State.reset.chip.puts [(fState 0, cxRunning)] with
      ctx := [(0, { Ctx.init with serial := some ⟨.string, [], [], [], [], false, 0⟩, fetch := some ⟨0, bundleCompare, false, 0, false⟩ })] } }

/-- The package is clocked, and context 0 has a string operation under way that compares nothing. -/
theorem State.emptyCompare_finds :
    State.emptyCompare.chip.halted = false ∧ State.emptyCompare.chip.serialRuns 0 (fun k => k == .string) = true
      ∧ (State.emptyCompare.chip.ctxOf 0).serial = some ⟨.string, [], [], [], [], false, 0⟩ ∧ (State.emptyCompare.chip.ctxOf 0).resetWait = 0
      ∧ (State.emptyCompare.chip.ctxOf 0).serialOp = opnAt bundleCompare 2 ∧ (State.emptyCompare.chip.ctxOf 0).gr (opnAt bundleCompare 2).rb = 0 := by
  decide +kernel

/-- What STRING_CHUNK does to it. -/
def Chip.compareRun (c : Chip) : Chip := if c.serialRuns 0 (fun k => k == .string) then (c.stringChunk 0).serialAfter 0 else c

/-- The result is pending, and p1 is still 0. -/
theorem State.emptyCompare_compareRun :
    (State.emptyCompare.chip.compareRun.ctxOf 0).pend.map (fun p => (p.code, p.wp, p.val)) = [(0x61, 1, m64 - 1)]
      ∧ (State.emptyCompare.chip.compareRun.ctxOf 0).pr 1 = 0 := by decide +kernel

theorem State.emptyCompare_compareRun_otp : State.emptyCompare.chip.compareRun.otp = State.emptyCompare.chip.otp := by decide +kernel

end Sys2Proof.Machine

open Sys2Proof Sys2Proof.Machine

/-- Refutes O46: its clause of a string operation of count 0 says that the predicate register then holds the result, but the result is pending until
the next bundle. -/
theorem not_serialOperationsAndTraps : ¬ Obligations.SerialOperationsAndTraps := by
  unfold Obligations.SerialOperationsAndTraps
  rintro ⟨-, hstring, -, -⟩
  obtain ⟨hclocked, hruns, hserial, hreset, hop, hcount⟩ := State.emptyCompare_finds
  obtain ⟨hempty, -⟩ := hstring State.emptyCompare 0 _ _ hclocked hruns hserial rfl hreset hop
  obtain ⟨t, ht, -, -, -, -, hequal, -⟩ := hempty hcount
  have hchip : t.chip = State.emptyCompare.chip.compareRun := State.chip_of_run (f := Chip.compareRun) hclocked State.emptyCompare_compareRun_otp ht
  have hp1 : (t.chip.ctxOf 0).pr 1 = m64 - 1 := hequal (by decide) (by decide)
  rw [hchip, State.emptyCompare_compareRun.2] at hp1
  exact absurd hp1 (by decide)
end

section
/-! The turns of a core's contexts (R71, R72, R74, R401): what choosing a context, waking a core and making a context READY change, said once of all of them. -/
namespace Sys2Proof.Machine

/-! ### Fields of contexts and cores -/

/-- Each context has its own STATE. -/
theorem fState_ne {x y : Nat} (h : y ≠ x) : (fState y).addr ≠ (fState x).addr := by
  simp only [fState, Reg.CORE_CTX_STATUS.STATE, mkFld, ctxDie, ctxCore, ctxNum]
  omega

/-- Each core has its own CSTATE. -/
theorem fCstate_ne {j k : Nat} (h : j ≠ k) : (fCstate j).addr ≠ (fCstate k).addr := by
  simp only [fCstate, Reg.PWR_CORE_STATUS.CSTATE, mkFld]
  omega

/-- A context's STATE is no core's CSTATE. -/
theorem fState_ne_fCstate (x k : Nat) : (fState x).addr ≠ (fCstate k).addr := by
  simp only [fState, fCstate, Reg.CORE_CTX_STATUS.STATE, Reg.PWR_CORE_STATUS.CSTATE, mkFld, ctxDie, ctxCore, ctxNum]
  omega

theorem mem_coreCtxs {k x : Nat} : x ∈ coreCtxs k ↔ x / 4 = k := by
  simp only [coreCtxs, List.mem_map, List.mem_range]
  exact ⟨fun ⟨j, hj, hx⟩ => by omega, fun h => ⟨x % 4, by omega, by omega⟩⟩

/-- The fields that the turns of core k's contexts move. -/
def turnFields (k : Nat) : List Fld := fCstate k :: (coreCtxs k).map fState

theorem fState_mem_turnFields (x : Nat) : fState x ∈ turnFields (coreIx x) := by
  unfold turnFields
  exact List.mem_cons_of_mem _ (List.mem_map_of_mem (mem_coreCtxs.2 rfl))

/-- A field that is no context's STATE and no core's CSTATE. -/
theorem not_turnField {f : Fld} (hs : ∀ x, f.addr ≠ (fState x).addr) (hc : ∀ k, f.addr ≠ (fCstate k).addr) (k : Nat) : ∀ g ∈ turnFields k, f.addr ≠ g.addr := by
  simp only [turnFields, List.mem_cons, List.mem_map]
  rintro g (rfl | ⟨x, -, rfl⟩)
  · exact hc k
  · exact hs x

@[simp] theorem Chip.cxState_put_self (c : Chip) (x v : Nat) : (c.put (fState x) v).cxState x = v % 8 := Chip.get_put_self c (fState x) v

theorem Chip.cxState_put_ne (c : Chip) {x : Nat} {f : Fld} (v : Nat) (h : (fState x).addr ≠ f.addr) : (c.put f v).cxState x = c.cxState x := Chip.get_put_ne c v h

@[simp] theorem Chip.cstate_put_self (c : Chip) (k v : Nat) : (c.put (fCstate k) v).cstate k = v % 4 := Chip.get_put_self c (fCstate k) v

theorem Chip.cstate_put_ne (c : Chip) {k : Nat} {f : Fld} (v : Nat) (h : (fCstate k).addr ≠ f.addr) : (c.put f v).cstate k = c.cstate k := Chip.get_put_ne c v h

@[simp] theorem Chip.cstate_ctxMod (c : Chip) (k y : Nat) (f : Ctx → Ctx) : (c.ctxMod y f).cstate k = c.cstate k := rfl
@[simp] theorem Chip.cstate_coreMod (c : Chip) (k j : Nat) (f : CoreSt → CoreSt) : (c.coreMod j f).cstate k = c.cstate k := rfl

/-! ### Turns -/

theorem SameMemory.trans {a b c : Chip} (h : SameMemory a b) (g : SameMemory b c) : SameMemory a c :=
  ⟨g.dram.trans h.dram, g.check.trans h.check, g.cxl.trans h.cxl, g.poison.trans h.poison, g.mram.trans h.mram, g.flash.trans h.flash, g.otp.trans h.otp⟩

theorem SameRegs.refl (a : Ctx) : SameRegs a a := ⟨rfl, rfl, rfl, rfl, rfl, rfl⟩

theorem SameRegs.trans {a b c : Ctx} (h : SameRegs a b) (g : SameRegs b c) : SameRegs a c :=
  ⟨g.g.trans h.g, g.v.trans h.v, g.p.trans h.p, g.cs.trans h.cs, g.pc.trans h.pc, g.idx.trans h.idx⟩

/-- Has a core no entry into C3 to give up (R403)? -/
def Chip.noC3Entry (c : Chip) (k : Nat) : Prop := (c.coreOf k).c3 ≠ 1 ∧ (c.coreOf k).c3 ≠ 2

/-- What the turns of core k's contexts may change: a READY context runs, the core leaves C1, what the cores keep of their turns, and, where an entry into C3 is
given up, its writes and line accesses. -/
structure Chip.Turned (a b : Chip) (k : Nat) : Prop where
  rest : b = { a with regs := b.regs, ctx := b.ctx, core := b.core, coh := { a.coh with ops := b.coh.ops, l3reqs := b.coh.l3reqs } }
  regs : Untouched a b (turnFields k)
  shadow : b.regs.shadow = a.regs.shadow
  ctx : ∀ y, ∃ q w, b.ctxOf y = { a.ctxOf y with sq := q, switched := w }
  states : ∀ y, b.cxState y = a.cxState y ∨ (a.cxState y = cxReady ∧ b.cxState y = cxRunning)
  cstate : b.cstate k = a.cstate k ∨ (a.cstate k = 1 ∧ b.cstate k = 0)
  coh : a.noC3Entry k → b.coh = a.coh ∧ b.noC3Entry k
  c3 : (a.coreOf k).c3 = 0 → a.cstate k ≠ 2 → (b.coreOf k).c3 = 0

namespace Chip.Turned

theorem refl (a : Chip) (k : Nat) : a.Turned a k :=
  ⟨rfl, Untouched.refl _ _, rfl, fun _ => ⟨_, _, rfl⟩, fun _ => .inl rfl, .inl rfl, fun h => ⟨rfl, h⟩, fun h _ => h⟩

theorem trans {a b c : Chip} {k : Nat} (h : a.Turned b k) (g : b.Turned c k) : a.Turned c k where
  rest := by
    rw [g.rest, h.rest]
  regs := h.regs.trans g.regs
  shadow := g.shadow.trans h.shadow
  ctx y := by
    obtain ⟨q, w, hy⟩ := h.ctx y
    obtain ⟨q', w', gy⟩ := g.ctx y
    exact ⟨q', w', by rw [gy, hy]⟩
  states y := by
    rcases h.states y with hy | ⟨hy, hy'⟩ <;> rcases g.states y with gy | ⟨gy, gy'⟩
    · exact .inl (gy.trans hy)
    · exact .inr ⟨hy ▸ gy, gy'⟩
    · exact .inr ⟨hy, gy.trans hy'⟩
    · exact .inr ⟨hy, gy'⟩
  cstate := by
    have := h.cstate
    have := g.cstate
    omega
  coh hk := by
    obtain ⟨h1, h2⟩ := h.coh hk
    obtain ⟨g1, g2⟩ := g.coh h2
    exact ⟨g1.trans h1, g2⟩
  c3 h0 h2 := g.c3 (h.c3 h0 h2) (by rcases h.cstate with e | ⟨-, e⟩ <;> omega)

/-- A field that no turn moves. -/
theorem get {a b : Chip} {k : Nat} (h : a.Turned b k) {f : Fld} (hs : ∀ x, f.addr ≠ (fState x).addr) (hc : ∀ j, f.addr ≠ (fCstate j).addr) : b.get f = a.get f :=
  h.regs f (not_turnField hs hc k)

theorem sameMemory {a b : Chip} {k : Nat} (h : a.Turned b k) : SameMemory a b := by
  constructor <;> rw [h.rest]

theorem sameRegs {a b : Chip} {k : Nat} (h : a.Turned b k) (y : Nat) : SameRegs (a.ctxOf y) (b.ctxOf y) := by
  obtain ⟨q, w, hy⟩ := h.ctx y
  constructor <;> rw [hy]

/-- A context in none of the states in which it waits for its turn stays as it is. -/
theorem state_of_ne {a b : Chip} {k y : Nat} (h : a.Turned b k) (hy : a.cxState y ≠ cxReady) : b.cxState y = a.cxState y :=
  (h.states y).resolve_right fun e => hy e.1

/-- A READY context is READY or runs. -/
theorem state_of_ready {a b : Chip} {k y : Nat} (h : a.Turned b k) (hy : a.cxState y = cxReady) : b.cxState y = cxReady ∨ b.cxState y = cxRunning := by
  rcases h.states y with e | ⟨-, e⟩
  · exact .inl (e.trans hy)
  · exact .inr e

end Chip.Turned

/-- The core's own account of its turns changes. -/
theorem Chip.coreMod_turned (c : Chip) (k : Nat) (f : CoreSt → CoreSt) (h : ∀ s, (f s).c3 = s.c3) : c.Turned (c.coreMod k f) k where
  rest := rfl
  regs := Untouched.refl _ _
  shadow := rfl
  ctx _ := ⟨_, _, rfl⟩
  states _ := .inl rfl
  cstate := .inl rfl
  coh hk := ⟨rfl, by simpa [Chip.noC3Entry, h] using hk⟩
  c3 h0 _ := by simpa [h] using h0

/-- A READY context runs. -/
theorem Chip.run_turned (c : Chip) {x : Nat} (h : c.cxState x = cxReady) : c.Turned (c.put (fState x) cxRunning) (coreIx x) where
  rest := rfl
  regs := fun f hf => Chip.get_put_ne c _ (hf _ (fState_mem_turnFields x))
  shadow := Chip.shadow_put _ _ _
  ctx _ := ⟨_, _, rfl⟩
  states y := by
    by_cases hy : y = x
    · subst hy
      exact .inr ⟨h, Chip.cxState_put_self _ _ _⟩
    · exact .inl (Chip.cxState_put_ne _ _ (fState_ne hy))
  cstate := .inl (Chip.cstate_put_ne _ _ (fState_ne_fCstate x _).symm)
  coh hk := ⟨rfl, hk⟩
  c3 h0 _ := h0

/-- A context's switch begins or is free. -/
theorem Chip.switched_turned (c : Chip) (k x : Nat) (w : Bool) : c.Turned (c.ctxMod x (fun s => { s with switched := w })) k where
  rest := rfl
  regs := Untouched.refl _ _
  shadow := rfl
  ctx y := by
    by_cases hy : y = x
    · subst hy
      exact ⟨_, w, Chip.ctxOf_ctxMod_self _ _ _⟩
    · exact ⟨_, _, Chip.ctxOf_ctxMod_ne _ _ hy⟩
  states _ := .inl rfl
  cstate := .inl rfl
  coh hk := ⟨rfl, hk⟩
  c3 h0 _ := h0

theorem Chip.mem_coreOrder {c : Chip} {k x : Nat} (h : x ∈ c.coreOrder k) : coreIx x = k := by
  simp only [Chip.coreOrder, List.mem_map, List.mem_range] at h
  obtain ⟨j, -, rfl⟩ := h
  unfold coreIx
  omega

/-- The core chooses a context, if none runs (R72, R74). -/
theorem Chip.coreChoose_turned (c : Chip) (k : Nat) (noCost : Bool) : c.Turned (c.coreChoose k noCost) k := by
  unfold Chip.coreChoose
  split
  case h_1 => exact Chip.Turned.refl c k
  case h_2 =>
    split
    case h_1 => exact c.coreMod_turned k _ fun _ => rfl
    case h_2 x hx =>
      have hready : c.cxState x = cxReady := by simpa using List.find?_some hx
      have hk : coreIx x = k := Chip.mem_coreOrder (List.mem_of_find?_eq_some hx)
      dsimp only
      refine Chip.Turned.trans (Chip.Turned.trans (hk ▸ c.run_turned hready) (Chip.coreMod_turned _ k _ ?_)) (Chip.switched_turned _ k x _)
      exact fun _ => rfl

/-- An interrupt that is held for a READY context may ask for the core (R72). -/
theorem Chip.preemptBy_turned (c : Chip) (x : Nat) : c.Turned (c.preemptBy x) (coreIx x) := by
  unfold Chip.preemptBy
  split
  · exact c.coreMod_turned _ _ fun _ => rfl
  · exact Chip.Turned.refl c _

/-! ### Waking a core -/

theorem Chip.c3Abandon_of_noC3Entry {c : Chip} {k : Nat} (h : c.noC3Entry k) : c.c3Abandon k = c := by
  unfold Chip.c3Abandon
  simp [h.1, h.2]

/-- What one context's part in an entry into C3 leaves when it is given up. -/
def Chip.saveDrop (c : Chip) (x : Nat) : Chip := (c.dropOps x).ctxMod x (fun q => { q with sq := q.sq.filter (fun e => e.kind != .save) })

/-- Beside a core's account, giving up an entry into C3 changes store queues and line accesses. -/
theorem Chip.saveDrop_turned (c : Chip) {k : Nat} (x : Nat) (h : ¬ c.noC3Entry k) : c.Turned (c.saveDrop x) k ∧ ¬ (c.saveDrop x).noC3Entry k where
  left := {
    rest := rfl
    regs := Untouched.refl _ _
    shadow := rfl
    ctx y := by
      by_cases hy : y = x
      · subst hy
        exact ⟨_, _, Chip.ctxOf_ctxMod_self _ _ _⟩
      · exact ⟨_, _, Chip.ctxOf_ctxMod_ne _ _ hy⟩
    states _ := .inl rfl
    cstate := .inl rfl
    coh hk := absurd hk h
    c3 h0 _ := h0 }
  right := h

/-- A core with an entry into C3 that runs or failed gives it up (R403). -/
theorem Chip.c3Abandon_eq {c : Chip} {k : Nat} (h : ¬ c.noC3Entry k) :
    c.c3Abandon k = ((List.range 4).foldl (fun c j => c.saveDrop (4 * k + j)) c).coreMod k (fun s => { s with c3 := 0 }) := by
  unfold Chip.c3Abandon
  rw [if_pos]
  · rfl
  · unfold Chip.noC3Entry at h
    simp only [Bool.or_eq_true, decide_eq_true_eq]
    omega

theorem Chip.c3Abandon_turned (c : Chip) (k : Nat) : c.Turned (c.c3Abandon k) k := by
  by_cases h : c.noC3Entry k
  · rw [Chip.c3Abandon_of_noC3Entry h]
    exact Chip.Turned.refl c k
  · have hfold : ∀ (l : List Nat) (d : Chip), ¬ d.noC3Entry k → d.Turned (l.foldl (fun c j => c.saveDrop (4 * k + j)) d) k
        ∧ ¬ (l.foldl (fun c j => c.saveDrop (4 * k + j)) d).noC3Entry k := by
      intro l
      induction l with
      | nil => exact fun d hd => ⟨Chip.Turned.refl d k, hd⟩
      | cons j l ih =>
        intro d hd
        obtain ⟨h1, h2⟩ := d.saveDrop_turned (4 * k + j) hd
        obtain ⟨g1, g2⟩ := ih _ h2
        exact ⟨h1.trans g1, g2⟩
    rw [Chip.c3Abandon_eq h]
    obtain ⟨hd, -⟩ := hfold (List.range 4) c h
    exact { hd with
      rest := by rw [hd.rest]; rfl
      coh := fun hk => absurd hk h
      c3 := fun _ _ => by simp }

/-- A core that is not in C1 or C3 has nothing to wake from. -/
theorem Chip.coreWake_of_awake {c : Chip} {k : Nat} (h : c.cstate k = 0) : c.coreWake k = c := by
  unfold Chip.coreWake
  simp [h]

/-- A core leaves C1, giving up an entry into C3 that runs. -/
theorem Chip.coreWake_of_c1 {c : Chip} {k : Nat} (h : c.cstate k = 1) :
    c.coreWake k = ((c.c3Abandon k).put (fCstate k) 0).coreMod k (fun s => { s with waking := true }) := by
  unfold Chip.coreWake
  simp [h]

/-- Leaving C1 is one of the things that a turn may change. -/
theorem Chip.leaveC1_turned {c : Chip} {k : Nat} (h : c.cstate k = 1) : c.Turned (c.put (fCstate k) 0) k where
  rest := rfl
  regs := fun f hf => Chip.get_put_ne c _ (hf _ (by simp [turnFields]))
  shadow := Chip.shadow_put _ _ _
  ctx _ := ⟨_, _, rfl⟩
  states y := .inl (Chip.cxState_put_ne _ _ (fState_ne_fCstate y k))
  cstate := .inr ⟨h, Chip.cstate_put_self _ _ _⟩
  coh hk := ⟨rfl, hk⟩
  c3 h0 _ := h0

/-- A core that sleeps in C3 has a wake event. -/
theorem Chip.c3Event_turned {c : Chip} {k : Nat} (h : c.cstate k = 2) : c.Turned (c.coreMod k (fun s => { s with c3 := 3 })) k where
  rest := rfl
  regs := Untouched.refl _ _
  shadow := rfl
  ctx _ := ⟨_, _, rfl⟩
  states _ := .inl rfl
  cstate := .inl rfl
  coh _ := ⟨rfl, by simp [Chip.noC3Entry]⟩
  c3 _ h2 := absurd h h2

/-- Giving up an entry into C3 moves no field of a register. -/
theorem Chip.c3Abandon_regs (c : Chip) (k : Nat) : (c.c3Abandon k).regs = c.regs := by
  by_cases h : c.noC3Entry k
  · rw [Chip.c3Abandon_of_noC3Entry h]
  · have hfold : ∀ (l : List Nat) (d : Chip), (l.foldl (fun c j => c.saveDrop (4 * k + j)) d).regs = d.regs := by
      intro l
      induction l with
      | nil => exact fun _ => rfl
      | cons j l ih => exact fun d => ih (d.saveDrop (4 * k + j))
    rw [Chip.c3Abandon_eq h]
    exact hfold (List.range 4) c

theorem Chip.c3Abandon_cstate (c : Chip) (k : Nat) : (c.c3Abandon k).cstate k = c.cstate k :=
  congrArg (fun r : RegFile => r.get (fCstate k)) (c.c3Abandon_regs k)

/-- Something wakes a core (R401, R403). -/
theorem Chip.coreWake_turned (c : Chip) (k : Nat) : c.Turned (c.coreWake k) k := by
  by_cases h1 : c.cstate k = 1
  · rw [Chip.coreWake_of_c1 h1]
    exact ((c.c3Abandon_turned k).trans (Chip.leaveC1_turned ((c.c3Abandon_cstate k).trans h1))).trans (Chip.coreMod_turned _ k _ fun _ => rfl)
  · unfold Chip.coreWake
    rw [if_neg (by simpa using h1)]
    split
    case isTrue h2 => exact Chip.c3Event_turned (by simpa using h2)
    case isFalse => exact Chip.Turned.refl c k

/-- A core that is awake or in C1 is awake. -/
theorem Chip.coreWake_cstate {c : Chip} {k : Nat} (h : c.cstate k ≤ 1) : (c.coreWake k).cstate k = 0 := by
  by_cases h1 : c.cstate k = 1
  · rw [Chip.coreWake_of_c1 h1]
    simp
  · rw [Chip.coreWake_of_awake (by omega)]
    omega

/-! ### A context becomes READY -/

/-- Beside its own STATE, a context that becomes READY moves what a turn moves (R71, R72, R401). -/
theorem Chip.cxReadyNow_turned (c : Chip) (x : Nat) : (c.put (fState x) cxReady).Turned (c.cxReadyNow x) (coreIx x) := by
  have hwake := (c.put (fState x) cxReady).coreWake_turned (coreIx x)
  have hchoose : (c.put (fState x) cxReady).Turned
      (if ((c.put (fState x) cxReady).coreWake (coreIx x)).cstate (coreIx x) == 0
        then ((c.put (fState x) cxReady).coreWake (coreIx x)).coreChoose (coreIx x) (c.cxState x == cxMemwait)
        else (c.put (fState x) cxReady).coreWake (coreIx x)) (coreIx x) := by
    split
    · exact hwake.trans (Chip.coreChoose_turned _ _ _)
    · exact hwake
  exact hchoose.trans (Chip.preemptBy_turned _ x)

/-- It is READY, or runs. -/
theorem Chip.cxReadyNow_state (c : Chip) (x : Nat) : (c.cxReadyNow x).cxState x = cxReady ∨ (c.cxReadyNow x).cxState x = cxRunning :=
  (c.cxReadyNow_turned x).state_of_ready (Chip.cxState_put_self _ _ _)

/-- A core that is awake or in C1 is then awake. -/
theorem Chip.cxReadyNow_cstate {c : Chip} {x : Nat} (h : c.cstate (coreIx x) ≤ 1) : (c.cxReadyNow x).cstate (coreIx x) = 0 := by
  have h0 : ((c.put (fState x) cxReady).coreWake (coreIx x)).cstate (coreIx x) = 0 :=
    Chip.coreWake_cstate (by rwa [Chip.cstate_put_ne _ _ (fState_ne_fCstate x _).symm])
  have ht : ((c.put (fState x) cxReady).coreWake (coreIx x)).Turned (c.cxReadyNow x) (coreIx x) := by
    refine Chip.Turned.trans ?_ (Chip.preemptBy_turned _ x)
    rw [if_pos (by simpa using h0)]
    exact Chip.coreChoose_turned _ _ _
  rcases ht.cstate with e | ⟨-, e⟩
  · exact e.trans h0
  · exact e

end Sys2Proof.Machine
end

section
/-! Interrupts that reach contexts (R129, R131, R134): which vectors are deliverable once one is set, and what routing an interrupt changes. -/
namespace Sys2Proof.Machine

/-! ### Deliverable vectors -/

/-- Would context x take vector v if it were pending: enabled, for its world, at a level that may be interrupted (R134)? -/
def Chip.irqTakes (c : Chip) (x v : Nat) : Bool :=
  bit (c.csr x csIrqEn) v && bit (c.csr x csIrqWorld) v == c.cxSecure x
    && (if c.irqLevel x v = 1 then c.cxPriv x == 0 || (c.cxPriv x == 1 && c.stBit x stSie) else decide (c.cxPriv x < 2) || c.stBit x stHie)

theorem Chip.irqReady_eq (c : Chip) (x v : Nat) : c.irqReady x v = (bit (c.irqPend x) v && c.irqTakes x v) := by
  unfold Chip.irqReady Chip.irqTakes
  simp only [Bool.and_assoc]

/-- A vector for level H is taken below it. -/
theorem Chip.irqTakes_of_below {c : Chip} {x v : Nat} (hen : bit (c.csr x csIrqEn) v = true) (hworld : bit (c.csr x csIrqWorld) v = c.cxSecure x)
    (hlevel : c.irqLevel x v = 2) (hpriv : c.cxPriv x < 2) : c.irqTakes x v = true := by
  simp [Chip.irqTakes, hen, hworld, hlevel, hpriv]

theorem Chip.irqBest_eq_none {c : Chip} {x : Nat} : c.irqBest x = none ↔ ∀ v < 64, c.irqReady x v = false := by
  simp [Chip.irqBest, List.find?_eq_none]

theorem Chip.irqBest_isSome {c : Chip} {x v : Nat} (hv : v < 64) (h : c.irqReady x v = true) : (c.irqBest x).isNone = false := by
  cases hb : c.irqBest x with
  | some _ => rfl
  | none =>
    rw [Chip.irqBest_eq_none.1 hb v hv] at h
    cases h

/-! ### A vector is set -/

/-- One vector of a context is set in cs_irq_pend. -/
def Chip.irqMark (c : Chip) (x v : Nat) : Chip := c.ctxMod x (fun k => { k with irqs := k.irqs ||| 2 ^ v })

theorem bit_or_two_pow (n v i : Nat) : bit (n ||| 2 ^ v) i = (bit n i || decide (v = i)) := by
  rw [bit_eq, bit_eq, Nat.testBit_or, Nat.testBit_two_pow]

theorem Chip.csGet_irqMark (c : Chip) (x v n : Nat) (s : Bool) : ((c.irqMark x v).ctxOf x).csGet n s = (c.ctxOf x).csGet n s := by
  rw [Chip.irqMark, Chip.ctxOf_ctxMod_self]
  rfl

/-- No register changes. -/
theorem Chip.irqMark_sameRegs (c : Chip) (x v y : Nat) : SameRegs (c.ctxOf y) ((c.irqMark x v).ctxOf y) := by
  unfold Chip.irqMark
  by_cases hy : y = x
  · subst hy
    rw [Chip.ctxOf_ctxMod_self]
    exact ⟨rfl, rfl, rfl, rfl, rfl, rfl⟩
  · rw [Chip.ctxOf_ctxMod_ne _ _ hy]
    exact SameRegs.refl _

/-- Whether a vector would be taken does not rest on which are set. -/
theorem Chip.irqTakes_irqMark (c : Chip) (x v i : Nat) : (c.irqMark x v).irqTakes x i = c.irqTakes x i := by
  have hcsr : ∀ n, (c.irqMark x v).csr x n = c.csr x n := fun n => c.csGet_irqMark x v n (c.cxSecure x)
  unfold Chip.irqTakes Chip.irqLevel Chip.stBit
  simp only [hcsr]
  rfl

theorem Chip.irqPend_irqMark (c : Chip) (x v i : Nat) : bit ((c.irqMark x v).irqPend x) i = (bit (c.irqPend x) i || decide (v = i)) := by
  have hirqs : ((c.irqMark x v).ctxOf x).irqs = (c.ctxOf x).irqs ||| 2 ^ v := congrArg Ctx.irqs (Chip.ctxOf_ctxMod_self c x _)
  unfold Chip.irqPend
  dsimp only
  rw [c.csGet_irqMark, hirqs, show (c.irqMark x v).time = c.time from rfl]
  split
  · simp only [bit_or_two_pow]
    ac_rfl
  · exact bit_or_two_pow _ _ _

/-- A vector that is not enabled makes nothing deliverable. -/
theorem Chip.irqBest_irqMark_of_disabled {c : Chip} {x v : Nat} (hbest : c.irqBest x = none) (hen : bit (c.csr x csIrqEn) v = false) :
    (c.irqMark x v).irqBest x = none := by
  rw [Chip.irqBest_eq_none] at hbest ⊢
  intro i hi
  rw [Chip.irqReady_eq, Chip.irqPend_irqMark, Chip.irqTakes_irqMark]
  by_cases hv : v = i
  · subst hv
    simp [Chip.irqTakes, hen]
  · simpa [hv, ← Chip.irqReady_eq] using hbest i hi

/-- One that would be taken is deliverable. -/
theorem Chip.irqReady_irqMark {c : Chip} {x v : Nat} (h : c.irqTakes x v = true) : (c.irqMark x v).irqReady x v = true := by
  rw [Chip.irqReady_eq, Chip.irqPend_irqMark, Chip.irqTakes_irqMark, h]
  simp

/-! ### Routing -/

theorem Chip.irqRoute_of_none {c : Chip} {x : Nat} (h : c.irqBest x = none) : c.irqRoute x = c := by
  unfold Chip.irqRoute
  simp [h]

/-- An interrupt that a context which is not IDLE holds, or one whose core sleeps in C3, leaves the context's state to its turn. -/
theorem Chip.irqRoute_turned {c : Chip} {x : Nat} (h : c.cxState x ≠ cxIdle ∨ 2 ≤ c.cstate (coreIx x)) : c.Turned (c.irqRoute x) (coreIx x) := by
  unfold Chip.irqRoute
  split
  case isTrue => exact Chip.Turned.refl _ _
  case isFalse =>
    refine Chip.Turned.trans ?_ (Chip.preemptBy_turned _ x)
    split
    case isTrue => exact Chip.Turned.refl _ _
    case isFalse hidle =>
      rw [if_neg (by simp at hidle; omega)]
      exact Chip.coreWake_turned _ _

/-- A deliverable interrupt makes an IDLE context of a core that is awake or in C1 READY (R71, R401). -/
theorem Chip.irqRoute_of_idle {c : Chip} {x v : Nat} (hv : v < 64) (h : c.irqReady x v = true) (hidle : c.cxState x = cxIdle) (hc : c.cstate (coreIx x) ≤ 1) :
    c.irqRoute x = (c.cxReadyNow x).preemptBy x := by
  unfold Chip.irqRoute
  simp [Chip.irqBest_isSome hv h, hidle, hc]

theorem Chip.preemptBy_regs (c : Chip) (x : Nat) : (c.preemptBy x).regs = c.regs := by
  unfold Chip.preemptBy
  split <;> rfl

/-- It is READY then or runs, its core is awake, and beside its STATE only what a turn moves has changed. -/
theorem Chip.irqRoute_wakes {c : Chip} {x v : Nat} (hv : v < 64) (h : c.irqReady x v = true) (hidle : c.cxState x = cxIdle) (hc : c.cstate (coreIx x) ≤ 1) :
    (c.put (fState x) cxReady).Turned (c.irqRoute x) (coreIx x) ∧ ((c.irqRoute x).cxState x = cxReady ∨ (c.irqRoute x).cxState x = cxRunning)
      ∧ (c.irqRoute x).cstate (coreIx x) = 0 := by
  rw [Chip.irqRoute_of_idle hv h hidle hc]
  have hturn := (c.cxReadyNow_turned x).trans (Chip.preemptBy_turned _ x)
  have hget : ∀ f, ((c.cxReadyNow x).preemptBy x).get f = (c.cxReadyNow x).get f := fun f => congrArg (fun r : RegFile => r.get f) (Chip.preemptBy_regs _ x)
  exact ⟨hturn, hturn.state_of_ready (Chip.cxState_put_self _ _ _), (hget _).trans (Chip.cxReadyNow_cstate hc)⟩

end Sys2Proof.Machine
end
section
/-! The commands of interrupts, quanta and switches (R71, R72, R129, R131, R134). -/
namespace Sys2Proof.Machine

/-- The oldest message, to a present context of this package, is taken: its vector is set, and it is routed (R131). -/
theorem Chip.irqMessage_eq {c : Chip} {i : Irq} {l : List Irq} {x : Nat} (hl : c.irqs = i :: l) (hport : c.portIrq i = false) (hown : c.ownCtx i.agent = true)
    (hx : ctxOfAgent i.agent = x) (hpres : c.cxPresent x = true) : c.irqMessage = (({ c with irqs := l } : Chip).irqMark x i.vec).irqRoute x := by
  have hfind : c.irqs.find? (fun i => !c.portIrq i) = some i := by simp [hl, hport]
  have herase : c.irqs.erase i = l := by simp [hl]
  unfold Chip.irqMessage
  rw [hfind]
  dsimp only
  rw [herase, hx]
  exact if_pos (by rw [Bool.and_eq_true]; exact ⟨hown, hpres⟩)

/-- A turn leaves what a context has pending: its vectors, its timer and TIME. -/
theorem Chip.Turned.irqPend {a b : Chip} {k : Nat} (h : a.Turned b k) (x : Nat) : b.irqPend x = a.irqPend x := by
  have htime : b.time = a.time := h.get (fun y => by simp only [Reg.TIME_NOW.VALUE, fState, Reg.CORE_CTX_STATUS.STATE, mkFld, ctxDie, ctxCore, ctxNum]; omega)
    fun j => by simp only [Reg.TIME_NOW.VALUE, fCstate, Reg.PWR_CORE_STATUS.CSTATE, mkFld]; omega
  obtain ⟨q, w, hx⟩ := h.ctx x
  unfold Chip.irqPend
  rw [htime, hx]
  rfl

/-- Reading off a turn that follows a change of a context's STATE: registers, memories and everything that is no turn's. -/
theorem Chip.Turned.woken {c d : Chip} {x : Nat} (h : (c.put (fState x) cxReady).Turned d (coreIx x)) :
    (∀ y, SameRegs (c.ctxOf y) (d.ctxOf y)) ∧ SameMemory c d ∧ d.irqs = c.irqs ∧ d.otp = c.otp ∧ (d.ctxOf x).irqs = (c.ctxOf x).irqs :=
  ⟨h.sameRegs, SameMemory.trans (b := c.put (fState x) cxReady) ⟨rfl, rfl, rfl, rfl, rfl, rfl, rfl⟩ h.sameMemory, by rw [h.rest]; rfl, by rw [h.rest]; rfl, by obtain ⟨q, w, e⟩ := h.ctx x; rw [e]; rfl⟩

end Sys2Proof.Machine
end

section
/-! Cycles and events of a core change counters, energy and what the core counts only (R420 to R424, R432). -/
namespace Sys2Proof.Machine

/-! ### Counting beside other changes -/

/-- Counting before a change of a core's account and after it comes to the same. -/
theorem CountedOnly.coreMod {a b : Chip} {l : List Fld} (h : CountedOnly a b l) (k : Nat) (f : CoreSt → CoreSt) : CountedOnly (a.coreMod k f) (b.coreMod k f) l := by
  obtain ⟨h1, h2, h3⟩ := h
  refine ⟨?_, h2, h3⟩
  rw [h1]
  rfl

/-- Nor does it matter to a context. -/
theorem CountedOnly.ctxMod {a b : Chip} {l : List Fld} (h : CountedOnly a b l) (x : Nat) (f : Ctx → Ctx) : CountedOnly (a.ctxMod x f) (b.ctxMod x f) l := by
  obtain ⟨h1, h2, h3⟩ := h
  refine ⟨?_, h2, h3⟩
  rw [h1]
  rfl

theorem Chip.nrgAdd_counted (c : Chip) (dom key n : Nat) : CountedOnly c (c.nrgAdd dom key n) [] := by
  unfold Chip.nrgAdd
  split
  · exact CountedOnly.refl c
  · exact ⟨rfl, fun _ _ _ => rfl, rfl⟩

theorem CountedOnly.ctxOf {a b : Chip} {l : List Fld} (h : CountedOnly a b l) (x : Nat) : b.ctxOf x = a.ctxOf x := by
  rw [h.rest]
  rfl

theorem CountedOnly.coreOf {a b : Chip} {l : List Fld} (h : CountedOnly a b l) (k : Nat) : b.coreOf k = a.coreOf k := by
  rw [h.rest]
  rfl

/-! ### Events and cycles of a core -/

theorem Chip.cntEvent_die_counted (c : Chip) {value ovf : Fld} (irq : Fld) (d n : Nat) (hv : pmuFld value = true) (ho : pmuFld ovf = true) :
    CountedOnly c (c.cntEvent value ovf irq (some d) n) [] := by
  unfold Chip.cntEvent
  dsimp only
  split
  · exact (c.cntAdd_counted n hv ho).trans (CountedOnly.irqReg _ _ _ _)
  · exact c.cntAdd_counted n hv ho

/-- The block of counters of a compute die is one of spec/17. -/
theorem pmuFld_die {f : Fld} {d r lo : Nat} (hf : f.addr = 8 * (d * 0x10000000 + 8 * r) + lo) (hlo : lo < 64) (hd : d < 12) (hr : 0xA00000 ≤ r) (hr' : r < 0xC00000) :
    pmuFld f = true := by
  have ho : f.addr / 64 * 8 = d * 0x10000000 + 8 * r := by omega
  unfold pmuFld
  rw [ho]
  simp only [Bool.or_eq_true, Bool.and_eq_true, decide_eq_true_eq]
  omega

theorem pmuFld_cnt {d k i : Nat} (hd : d < 12) (hk : k < 20) (hi : i < 8) : pmuFld (Reg.PMU_CNT.VALUE d k i) = true ∧ pmuFld (Reg.PMU_CNT.OVF d k i) = true :=
  ⟨pmuFld_die (r := 0xA000A0 + k * 0x200 + i * 2) (lo := 0) (by simp only [Reg.PMU_CNT.VALUE, mkFld]; omega) (by omega) hd (by omega) (by omega),
    pmuFld_die (r := 0xA000A1 + k * 0x200 + i * 2) (lo := 0) (by simp only [Reg.PMU_CNT.OVF, mkFld]; omega) (by omega) hd (by omega) (by omega)⟩

theorem pmuFld_fix {d k n f : Nat} (hd : d < 12) (hk : k < 20) (hn : n < 4) (hf : f < 6) :
    pmuFld (Reg.PMU_FIX.VALUE d k n f) = true ∧ pmuFld (Reg.PMU_FIX.OVF d k n f) = true :=
  ⟨pmuFld_die (r := 0xA00020 + k * 0x200 + n * 12 + f * 2) (lo := 0) (by simp only [Reg.PMU_FIX.VALUE, mkFld]; omega) (by omega) hd (by omega) (by omega),
    pmuFld_die (r := 0xA00021 + k * 0x200 + n * 12 + f * 2) (lo := 0) (by simp only [Reg.PMU_FIX.OVF, mkFld]; omega) (by omega) hd (by omega) (by omega)⟩

/-- A context's die and core are among the package's. -/
theorem ctxDie_lt {x : Nat} (hx : x < 960) : ctxDie x < 12 := by
  unfold ctxDie
  omega

theorem ctxCore_lt (x : Nat) : ctxCore x < 20 := by
  unfold ctxCore
  omega

theorem Chip.evCore_counted (c : Chip) {x : Nat} (ev n : Nat) (hx : x < 960) : CountedOnly c (c.evCore x ev n) [] := by
  unfold Chip.evCore
  dsimp only
  split
  · exact CountedOnly.refl c
  · refine CountedOnly.foldl (fun i hi d => ?_) c
    obtain ⟨hv, ho⟩ := pmuFld_cnt (ctxDie_lt hx) (ctxCore_lt x) (List.mem_range.1 hi)
    split
    · exact d.cntEvent_die_counted _ _ n hv ho
    · exact CountedOnly.refl d

theorem Chip.fixCount_counted (c : Chip) {x f : Nat} (n : Nat) (hx : x < 960) (hf : f < 6) : CountedOnly c (c.fixCount x f n) [] := by
  obtain ⟨hv, ho⟩ := pmuFld_fix (ctxDie_lt hx) (ctxCore_lt x) (Nat.mod_lt x (by decide)) hf
  unfold Chip.fixCount Chip.cntPlus
  split
  · exact CountedOnly.refl c
  · split
    · exact CountedOnly.refl c
    · exact c.cntAdd_counted n hv ho

/-- Beside what it counts, a charge adds its cycles to the core's own. -/
theorem Chip.charge_counted (c : Chip) {x cls : Nat} (n : Nat) (hx : x < 960) (hc : cls < 6) :
    CountedOnly (c.coreMod (coreIx x) (fun s => { s with cycles := s.cycles + n })) (c.charge x cls n) [] :=
  (((c.fixCount_counted n hx (by omega)).trans (Chip.fixCount_counted _ (6 * n) hx hc)).trans (Chip.evCore_counted _ 0x01 n hx)).coreMod _ _
    |>.trans (Chip.nrgAdd_counted _ _ _ _)

end Sys2Proof.Machine
end

section
/-! The ends of a quantum and of a switch (R72). -/
namespace Sys2Proof.Machine

/-- A context that a core runs is one of its own. -/
theorem Chip.coreIx_of_running {c : Chip} {k x : Nat} (h : c.coreRunning k = some x) : coreIx x = k := by
  obtain ⟨j, hj, rfl⟩ := List.mem_map.1 (List.mem_of_find?_eq_some h)
  have := List.mem_range.1 hj
  unfold coreIx
  omega

theorem Chip.quantumEnd_eq {c : Chip} {k x : Nat} (hx : c.coreRunning k = some x) :
    c.quantumEnd k = if (c.coreOf k).quantum != 0 && c.peerReady x then c.coreMod k (fun s => { s with preempt := true }) else c := by
  unfold Chip.quantumEnd
  rw [hx]

theorem Chip.switchEnd_of_not_switching {c : Chip} {k x : Nat} (hx : c.coreRunning k = some x) (hs : (c.coreOf k).switching = false) : c.switchEnd k = c := by
  unfold Chip.switchEnd
  rw [hx]
  simp [hs]

/-- The core and the context as they are after six switch cycles. -/
def Chip.switchOver (c : Chip) (k x : Nat) : Chip :=
  ((c.coreMod k (fun s => { s with cycles := s.cycles + 6 })).coreMod k (fun s => { s with switching := false })).ctxMod x (fun q => { q with switched := true })

/-- Beside what they count, the end of the switch cycles lets the context issue. -/
theorem Chip.switchEnd_counted {c : Chip} {k x : Nat} (hx : c.coreRunning k = some x) (hk : k < 240) (hs : (c.coreOf k).switching = true)
    (hl : (c.spkOf (k / 20)).silent = false) : CountedOnly (c.switchOver k x) (c.switchEnd k) [] := by
  have hix := Chip.coreIx_of_running hx
  have hx960 : x < 960 := by unfold coreIx at hix; omega
  have hcount := (c.charge_counted 6 hx960 (cls := fxWasted) (by decide)).trans (Chip.evCore_counted _ 0x07 1 hx960)
  have heq : c.switchEnd k = (((c.charge x fxWasted 6).evCore x 0x07 1).coreMod k (fun s => { s with switching := false })).ctxMod x
      (fun q => { q with switched := true }) := by
    unfold Chip.switchEnd
    rw [hx]
    simp [hs, hl]
  rw [hix] at hcount
  rw [heq]
  exact (hcount.coreMod k _).ctxMod x _

/-- Counting beside changes of contexts and cores, told from where these began. -/
theorem CountedOnly.from {a b c : Chip} {l : List Fld} (h : CountedOnly b c l) (hb : b = { a with ctx := b.ctx, core := b.core }) :
    CountedOnly { a with ctx := c.ctx, core := c.core } c l := by
  obtain ⟨h1, h2, h3⟩ := h
  rw [hb] at h1 h2 h3
  refine ⟨?_, h2, h3⟩
  rw [h1]

end Sys2Proof.Machine

open Sys2Proof Sys2Proof.Machine

/-- Settles O43: a routed interrupt makes its context READY and moves beside that only what a turn moves; the ends of a quantum and of a switch change the
core's account. -/
theorem contextsTakeInterruptsAndTurns : Obligations.ContextsTakeInterruptsAndTurns := by
  unfold Obligations.ContextsTakeInterruptsAndTurns
  refine ⟨fun s i l x hs hl hport hown hx hpres hv => ⟨?disabled, ?wakes⟩, fun s x hs => ⟨?noTimer, ?timer⟩, fun s k x hs hx => ⟨?ends, ?goesOn, ?switches, ?noSwitch⟩⟩
  case disabled =>
    intro hbest hen
    have heq := (Chip.irqMessage_eq hl hport hown hx hpres).trans (Chip.irqRoute_of_none (Chip.irqBest_irqMark_of_disabled hbest hen))
    have hrun := s.run_eq Chip.irqMessage hs (by rw [heq]; rfl)
    rw [heq] at hrun
    exact ⟨_, hrun, rfl, Chip.ctxOf_ctxMod_self _ _ _, fun y hy => Chip.ctxOf_ctxMod_ne _ _ hy, rfl⟩
  case wakes =>
    intro hidle hcst hen hworld hlevel hpriv
    have heq := Chip.irqMessage_eq hl hport hown hx hpres
    obtain ⟨hturn, hstate, hawake⟩ := Chip.irqRoute_wakes hv
      (Chip.irqReady_irqMark (c := { s.chip with irqs := l }) (Chip.irqTakes_of_below hen hworld hlevel hpriv)) hidle hcst
    rw [← heq] at hturn hstate hawake
    obtain ⟨hregs, hmem, hirqs, hotp, hmine⟩ := hturn.woken
    refine ⟨_, s.run_eq Chip.irqMessage hs hotp, rfl, hirqs, ?_, hstate, hawake, ?_, ?_⟩
    · exact hmine.trans (congrArg Ctx.irqs (Chip.ctxOf_ctxMod_self _ _ _))
    · exact fun y => (Chip.irqMark_sameRegs { s.chip with irqs := l } x.val i.vec y).trans (hregs y)
    · exact SameMemory.trans (b := ({ s.chip with irqs := l } : Chip).irqMark x.val i.vec) ⟨rfl, rfl, rfl, rfl, rfl, rfl, rfl⟩ hmem
  case noTimer =>
    intro hbest
    have heq := Chip.irqRoute_of_none hbest
    exact (s.run_eq (fun c => c.irqRoute x.val) hs (by rw [heq])).trans (by rw [heq])
  case timer =>
    intro hidle hcst hcmp hdue hen hworld hlevel hpriv
    have hpend : bit (s.chip.irqPend x.val) 63 = true := by
      unfold Chip.irqPend
      simp only [hcmp, hdue, ne_eq, not_false_eq_true, decide_true, Bool.and_self, if_true, bit_or_two_pow, Bool.or_true]
    have hready : s.chip.irqReady x.val 63 = true := by rw [Chip.irqReady_eq, hpend, Chip.irqTakes_of_below hen hworld hlevel hpriv]; rfl
    obtain ⟨hturn, hstate, hawake⟩ := Chip.irqRoute_wakes (by decide) hready hidle hcst
    obtain ⟨hregs, hmem, -, hotp, -⟩ := hturn.woken
    refine ⟨_, s.run_eq (fun c => c.irqRoute x.val) hs hotp, rfl, hstate, hawake, ?_, hregs, hmem⟩
    exact (congrArg (fun n => bit n 63) (hturn.irqPend x.val)).trans hpend
  case ends =>
    intro hq hpeer
    have heq : s.chip.quantumEnd k.val = _ := (Chip.quantumEnd_eq hx).trans (if_pos (by simp [hq, hpeer]))
    have hrun := s.run_eq (fun c => c.quantumEnd k.val) hs (by rw [heq]; rfl)
    rw [heq] at hrun
    exact ⟨_, hrun, rfl, Chip.coreOf_coreMod_self _ _ _, fun j hj => Chip.coreOf_coreMod_ne _ _ hj, rfl⟩
  case goesOn =>
    intro h
    have heq : s.chip.quantumEnd k.val = s.chip := (Chip.quantumEnd_eq hx).trans (if_neg (by rcases h with h | h <;> simp [h]))
    exact (s.run_eq (fun c => c.quantumEnd k.val) hs (by rw [heq])).trans (by rw [heq])
  case switches =>
    intro hsw hl
    have hcount := Chip.switchEnd_counted hx k.isLt hsw hl
    refine ⟨_, s.run_eq (fun c => c.switchEnd k.val) hs (by rw [hcount.rest]; rfl), rfl, ?_, fun y hy => ?_, ?_, hcount.from rfl⟩
    · exact (hcount.ctxOf x).trans (Chip.ctxOf_ctxMod_self _ _ _)
    · exact (hcount.ctxOf y).trans (Chip.ctxOf_ctxMod_ne _ _ hy)
    · exact (hcount.coreOf k.val).trans (by simp [Chip.switchOver])
  case noSwitch =>
    intro hsw
    have heq := Chip.switchEnd_of_not_switching hx hsw
    exact (s.run_eq (fun c => c.switchEnd k.val) hs (by rw [heq])).trans (by rw [heq])
end

section
/-! An error that strikes a copy in an L1 (R166), and the results of a core's shared units (R66). -/
namespace Sys2Proof.Machine

/-! ### Array errors -/

/-- A way whose line stays is found as before, with what was set. -/
theorem findWay_set {m : SMap CLine} {base n line w : Nat} {l l' : CLine} (h : findWay m base n line = some (w, l)) (hl : l'.line = l.line) :
    findWay (SMap.set m w l') base n line = some (w, l') := by
  have hp : (decide (base ≤ w) && decide (w < base + n) && l'.line == line) = true := by
    rw [hl]
    exact List.find?_some (p := fun p : Nat × CLine => decide (base ≤ p.1) && decide (p.1 < base + n) && p.2.line == line) h
  unfold findWay at h ⊢
  induction m with
  | nil => cases h
  | cons p m ih =>
    obtain ⟨k, v⟩ := p
    unfold SMap.set
    split
    case isTrue => exact List.find?_cons_of_pos hp
    case isFalse =>
      split
      case isTrue hk =>
        subst hk
        exact List.find?_cons_of_pos hp
      case isFalse hk =>
        rw [List.find?_cons] at h ⊢
        split at h
        · injection h with h
          exact absurd (congrArg Prod.fst h).symm hk
        · exact ih h

/-- A strike changes what caches hold and nothing else. -/
theorem Chip.strike_rest (c : Chip) (k what line : Nat) : c.strike k what line = { c with coh := (c.strike k what line).coh } := by
  unfold Chip.strike
  dsimp only
  split_ifs <;> rfl

/-- A cycle with a strike first is the cycle of the package as it was struck. -/
theorem exec_bundleIssue_struck {s : State} (k : Fin 240) (sub : Fin 24) (what : Fin 11) (line : BitVec 46) (hs : s.chip.halted = false) :
    exec (.bundleIssue k (sub, some (what, line))) s = exec (.bundleIssue k (sub, none)) { s with chip := s.chip.strike k.val what.val line.toNat } := by
  show s.run (fun c => (c.strike k.val what.val line.toNat).coreCycle k.val sub.val)
    = State.run { s with chip := s.chip.strike k.val what.val line.toNat } (fun c => c.coreCycle k.val sub.val)
  have hrest := s.chip.strike_rest k.val what.val line.toNat
  have hotp : (s.chip.strike k.val what.val line.toNat).otp = s.chip.otp := by rw [hrest]
  have hhalted : (s.chip.strike k.val what.val line.toNat).halted = false := by rw [hrest]; exact hs
  unfold State.run State.runAlways
  simp only [hs, hhalted, hotp, Bool.false_eq_true, if_false]

/-- A lookup of the L1D that finds a struck copy drops its way, counts the error and logs it (R166). -/
theorem Chip.l1Check_of_flaw {c : Chip} {k line w : Nat} {l : CLine} (h : c.l1dFind k line = some (w, l)) (hl : l.flaw = 1) :
    c.l1Check false k line = ((c.setL1d (SMap.erase c.coh.l1d w)).count (Reg.CL_ERR_CNT0.L1 (k / 20) (k % 20 / 4)) 1).clLog (k / 20) (k % 20 / 4)
      (4 + k % 4) (64 * line) := by
  unfold Chip.l1Check
  simp [h, hl]

/-- The log of a cluster's errors is in registers of its own. -/
theorem Chip.clLog_keeps (c : Chip) (d cl src addr : Nat) :
    (c.clLog d cl src addr).coh = c.coh ∧ (c.clLog d cl src addr).get (Reg.CL_ERR_CNT0.L1 d cl) = c.get (Reg.CL_ERR_CNT0.L1 d cl) := by
  unfold Chip.clLog
  split
  case isTrue => exact ⟨rfl, rfl⟩
  case isFalse =>
    have hirq : ∀ (e : Chip) (a v n : Fld), (e.irqReg a v n).coh = e.coh ∧ (e.irqReg a v n).regs = e.regs := fun e a v n => by
      unfold Chip.irqReg
      split <;> exact ⟨rfl, rfl⟩
    obtain ⟨h1, h2⟩ := hirq (c.puts [(Reg.CL_ERR_LOG.ADDR d cl, addr), (Reg.CL_ERR_LOG.SRC d cl, src), (Reg.CL_ERR_LOG.VALID d cl, 1)])
      (Reg.CL_ERR_IRQ.AGENT d cl) (Reg.CL_ERR_IRQ.VEC d cl) (Reg.CL_ERR_IRQ.EN d cl)
    refine ⟨h1.trans (Chip.puts_coh _ _), (congrArg (fun r : RegFile => r.get _) h2).trans (Chip.get_puts_ne _ _ ?_)⟩
    simp only [List.mem_cons, List.not_mem_nil, or_false, forall_eq_or_imp, forall_eq, Reg.CL_ERR_CNT0.L1, Reg.CL_ERR_LOG.ADDR, Reg.CL_ERR_LOG.SRC,
      Reg.CL_ERR_LOG.VALID, mkFld]
    omega

theorem Chip.get_count_self (c : Chip) (f : Fld) (n : Nat) : (c.count f n).get f = satAdd f.width (c.get f) n := by
  rw [Chip.count, Chip.get_put_self]
  have := Nat.two_pow_pos f.width
  exact Nat.mod_eq_of_lt (by unfold satAdd; omega)

/-- The next lookup of a struck copy in an L1D finds the error. -/
theorem Chip.l1Check_strike {c : Chip} {k line w : Nat} {l : CLine} (h : c.l1dFind k line = some (w, l)) :
    ((c.strike k 1 line).l1Check false k line).coh.l1d = SMap.erase (SMap.set c.coh.l1d w { l with flaw := 1 }) w
      ∧ ((c.strike k 1 line).l1Check false k line).get (Reg.CL_ERR_CNT0.L1 (k / 20) (k % 20 / 4))
        = satAdd (Reg.CL_ERR_CNT0.L1 (k / 20) (k % 20 / 4)).width (c.get (Reg.CL_ERR_CNT0.L1 (k / 20) (k % 20 / 4))) 1 := by
  have hstrike : c.strike k 1 line = c.setL1d (SMap.set c.coh.l1d w { l with flaw := 1 }) := by
    unfold Chip.strike
    simp [h]
  have hfind : (c.strike k 1 line).l1dFind k line = some (w, { l with flaw := 1 }) := by
    rw [hstrike]
    exact findWay_set h rfl
  rw [Chip.l1Check_of_flaw hfind rfl]
  obtain ⟨hcoh, hcnt⟩ := Chip.clLog_keeps (((c.strike k 1 line).setL1d (SMap.erase (c.strike k 1 line).coh.l1d w)).count (Reg.CL_ERR_CNT0.L1 (k / 20) (k % 20 / 4)) 1)
    (k / 20) (k % 20 / 4) (4 + k % 4) (64 * line)
  rw [hcoh, hcnt, Chip.get_count_self, hstrike]
  exact ⟨rfl, rfl⟩

/-! ### Shared units -/

/-- The oldest job of a unit makes its result ready. -/
theorem Chip.unitResult_eq {c : Chip} {k unit : Nat} {u : UnitJob} (h : (c.coreOf k).units.find? (fun v => v.unit == unit) = some u) :
    c.unitResult k unit = ((c.coreMod k (fun s => { s with units := s.units.filter (fun v => v.job != u.job) })).ctxMod u.ctx
      (fun q => { q with pend := q.pend.map (fun p => if p.job = u.job then { p with ready := true } else p) })).ctxSync u.ctx := by
  unfold Chip.unitResult
  rw [h]

/-- PEND and MISS of a context. -/
def syncFields (x : Nat) : List Fld := [Reg.CORE_CTX_STATUS.PEND (ctxDie x) (ctxCore x) (ctxNum x), Reg.CORE_CTX_STATUS.MISS (ctxDie x) (ctxCore x) (ctxNum x)]

theorem Chip.ctxSync_fields (c : Chip) (x : Nat) : OnlyFields c (c.ctxSync x) (syncFields x) :=
  OnlyFields.puts c _ (by simp [syncFields])

@[simp] theorem Chip.ctxOf_ctxSync (c : Chip) (x y : Nat) : (c.ctxSync x).ctxOf y = c.ctxOf y := Chip.ctxOf_puts _ _ _
@[simp] theorem Chip.coreOf_ctxSync (c : Chip) (x k : Nat) : (c.ctxSync x).coreOf k = c.coreOf k := Chip.coreOf_puts _ _ _

/-- Changes of contexts and cores, and then of fields, told from where they began. -/
theorem OnlyFields.from {a b c : Chip} {l : List Fld} (h : OnlyFields b c l) (hb : b = { a with ctx := b.ctx, core := b.core }) :
    OnlyFields { a with ctx := c.ctx, core := c.core } c l := by
  obtain ⟨h1, h2, h3⟩ := h
  rw [hb] at h1 h2 h3
  refine ⟨?_, h2, h3⟩
  rw [h1]

/-! ### A core that does nothing -/

/-- A core that is absent or sleeps does nothing in a cycle (R22, R401). -/
theorem Chip.coreCycle_of_off {c : Chip} {k : Nat} (sub : Nat) (h : c.corePresent (k / 20) (k % 20) = false ∨ 2 ≤ c.cstate k) : c.coreCycle k sub = c := by
  unfold Chip.coreCycle
  rw [if_pos]
  rcases h with h | h <;> simp [h]

end Sys2Proof.Machine
end

section
/-! What a cycle of a context changes step by step (R57 to R62, R66): its own registers and queues, the counts of R420 to R432, and the core's account. -/
namespace Sys2Proof.Machine

/-- Beside its own context, which is then `q` up to an open sample, a cycle of context x counts, and moves its core's account and the free values taken. -/
structure Chip.Cycled (a b : Chip) (x : Nat) (q : Ctx) : Prop where
  mine : b.ctxOf x = { q with sample := (b.ctxOf x).sample }
  others : ∀ y, y ≠ x → b.ctxOf y = a.ctxOf y
  rest : CountedOnly { a with ctx := b.ctx, core := b.core, free := b.free } b (syncFields x)

namespace Chip.Cycled

theorem refl (a : Chip) (x : Nat) : a.Cycled a x (a.ctxOf x) := ⟨rfl, fun _ _ => rfl, rfl, fun _ _ _ => rfl, rfl⟩

variable {a b c : Chip} {x : Nat} {q : Ctx}

/-- Counting goes on. -/
theorem count (h : a.Cycled b x q) (g : CountedOnly b c []) : a.Cycled c x q where
  mine := by
    rw [g.ctxOf]
    exact h.mine
  others y hy := (g.ctxOf y).trans (h.others y hy)
  rest := by
    obtain ⟨h1, h2, h3⟩ := h.rest
    obtain ⟨g1, g2, g3⟩ := g
    refine ⟨?_, fun f hp hf => (g2 f hp (by simp)).trans (h2 f hp hf), g3.trans h3⟩
    rw [g1, h1]

/-- The core's account changes. -/
theorem core (h : a.Cycled b x q) (k : Nat) (f : CoreSt → CoreSt) : a.Cycled (b.coreMod k f) x q where
  mine := h.mine
  others := h.others
  rest := by
    obtain ⟨h1, h2, h3⟩ := h.rest
    refine ⟨?_, h2, h3⟩
    rw [h1]
    rfl

/-- The context changes, whatever sample it has open. -/
theorem ctx (h : a.Cycled b x q) (f : Ctx → Ctx) {q' : Ctx} (hf : ∀ s, f { q with sample := s } = { q' with sample := s }) : a.Cycled (b.ctxMod x f) x q' where
  mine := by
    rw [Chip.ctxOf_ctxMod_self, h.mine, hf]
  others y hy := (Chip.ctxOf_ctxMod_ne _ _ hy).trans (h.others y hy)
  rest := by
    obtain ⟨h1, h2, h3⟩ := h.rest
    refine ⟨?_, h2, h3⟩
    rw [h1]
    rfl

/-- PEND and MISS follow. -/
theorem sync (h : a.Cycled b x q) : a.Cycled (b.ctxSync x) x q where
  mine := by
    rw [Chip.ctxOf_ctxSync]
    exact h.mine
  others y hy := (Chip.ctxOf_ctxSync _ _ _).trans (h.others y hy)
  rest := by
    obtain ⟨h1, h2, h3⟩ := h.rest
    obtain ⟨g1, g2, g3⟩ := b.ctxSync_fields x
    refine ⟨?_, fun f hp hf => (g2 f hf).trans (h2 f hp hf), g3.trans h3⟩
    rw [g1, h1]

/-- The context may open a sample, with a free value for its class. -/
theorem sampled (h : a.Cycled b x q) (f : Ctx → Sample) : a.Cycled (b.ctxMod x (fun k => { k with sample := some (f k) })) x q where
  mine := by
    rw [Chip.ctxOf_ctxMod_self]
    rw [h.mine]
  others y hy := (Chip.ctxOf_ctxMod_ne _ _ hy).trans (h.others y hy)
  rest := by
    obtain ⟨h1, h2, h3⟩ := h.rest
    refine ⟨?_, h2, h3⟩
    rw [h1]
    rfl

theorem fresh (h : a.Cycled b x q) : a.Cycled b.fresh.2 x q where
  mine := h.mine
  others := h.others
  rest := by
    obtain ⟨h1, h2, h3⟩ := h.rest
    refine ⟨?_, h2, h3⟩
    rw [h1]
    rfl

/-- A field that no cycle counts in. -/
theorem get (h : a.Cycled b x q) {f : Fld} (hp : pmuFld f = false) (hs : ∀ g ∈ syncFields x, f.addr ≠ g.addr) : b.get f = a.get f := h.rest.regs f hp hs

theorem sameMemory (h : a.Cycled b x q) : SameMemory a b := by
  constructor <;> rw [h.rest.rest]

theorem coh (h : a.Cycled b x q) : b.coh = a.coh := by rw [h.rest.rest]

end Chip.Cycled

/-! ### The sampler -/

theorem pmuFld_smp {d k : Nat} (hd : d < 12) (hk : k < 20) : pmuFld (Reg.PMU_SMP_COUNT.COUNT d k) = true ∧ pmuFld (Reg.PMU_SMP_CNT.SKIPPED d k) = true :=
  ⟨pmuFld_die (r := 0xA000C1 + k * 0x200) (lo := 0) (by simp only [Reg.PMU_SMP_COUNT.COUNT, mkFld]; omega) (by omega) hd (by omega) (by omega),
    pmuFld_die (r := 0xA000C4 + k * 0x200) (lo := 32) (by simp only [Reg.PMU_SMP_CNT.SKIPPED, mkFld]; omega) (by omega) hd (by omega) (by omega)⟩

theorem CountedOnly.put (c : Chip) {f : Fld} (v : Nat) (h : pmuFld f = true) : CountedOnly c (c.put f v) [] := CountedOnly.puts c (l := [(f, v)]) (by simp [h])

/-- The sampler counts an operation (R425). -/
theorem Chip.smpTick_counted (c : Chip) {x : Nat} (sel : Nat) (hx : x < 960) : CountedOnly c (c.smpTick x sel).2 [] := by
  obtain ⟨hcount, hskip⟩ := pmuFld_smp (ctxDie_lt hx) (ctxCore_lt x)
  unfold Chip.smpTick
  dsimp only
  split_ifs
  · exact (CountedOnly.put c _ hcount).trans (CountedOnly.put _ _ hskip)
  · exact CountedOnly.put c _ hcount
  · exact CountedOnly.put c _ hcount
  · exact CountedOnly.refl c

/-- An operation that issues may open a sample of its context (R425). -/
theorem Chip.Cycled.smpIssue {a b : Chip} {x : Nat} {q : Ctx} (h : a.Cycled b x q) (hx : x < 960) (k : Ctx) (o : Opn) (first : Bool) (kind id va pa yrw : Nat) :
    a.Cycled (b.smpIssue x k o first kind id va pa yrw) x q := by
  unfold Chip.smpIssue
  dsimp only
  have htick := h.count (b.smpTick_counted (b.get (Reg.PMU_SMP_CTRL.SEL (ctxDie x) (ctxCore x))) hx)
  split_ifs
  · exact h
  · split
    · exact htick.sampled _
    · exact htick.fresh.sampled _
  · exact htick

end Sys2Proof.Machine
end

section
/-! A context that issues (R57, R58, R82, R134): what its cycle comes to once it has applied what is due. -/
namespace Sys2Proof.Machine

/-! ### When a context issues -/

/-- What `issues` asks of the core. -/
structure Chip.CoreIssues (c : Chip) (x : Nat) : Prop where
  present : c.corePresent (ctxDie x) (ctxCore x) = true
  awake : c.cstate (coreIx x) = 0
  heard : (c.spkOf (ctxDie x)).silent = false
  running : c.coreRunning (coreIx x) = some x
  waking : (c.coreOf (coreIx x)).waking = false
  preempt : (c.coreOf (coreIx x)).preempt = false
  ratio : c.ratioBusy (cluIx x) = false

/-- What `issues` asks of the context, which has fetched the bundle b. -/
structure Chip.CtxIssues (c : Chip) (x b : Nat) : Prop where
  switched : (c.ctxOf x).switched = true
  trap : (c.ctxOf x).trap = none
  serial : (c.ctxOf x).serial = none
  irq : c.irqBest x = none
  fetch : (c.ctxOf x).fetch = some ⟨(c.ctxOf x).pc, b, false, c.cxPriv x, c.cxSecure x⟩
  stores : (c.ctxOf x).stWait = []

theorem Chip.issues_iff {c : Chip} {x b : Nat} : c.issues x b = true ↔ c.halted = false ∧ c.CoreIssues x ∧ c.CtxIssues x b := by
  simp only [Chip.issues, Bool.and_eq_true, Bool.not_eq_true', beq_iff_eq, Option.isNone_iff_eq_none, List.isEmpty_iff]
  constructor
  · rintro ⟨⟨⟨⟨⟨⟨⟨⟨⟨⟨⟨⟨⟨hhalted, hpresent⟩, hawake⟩, hheard⟩, hrunning⟩, hwaking⟩, hpreempt⟩, hswitched⟩, htrap⟩, hserial⟩, hirq⟩, hfetch⟩, hstores⟩, hratio⟩
    exact ⟨hhalted, ⟨hpresent, hawake, hheard, hrunning, hwaking, hpreempt, hratio⟩, hswitched, htrap, hserial, hirq, hfetch, hstores⟩
  · rintro ⟨hhalted, ⟨hpresent, hawake, hheard, hrunning, hwaking, hpreempt, hratio⟩, hswitched, htrap, hserial, hirq, hfetch, hstores⟩
    exact ⟨⟨⟨⟨⟨⟨⟨⟨⟨⟨⟨⟨⟨hhalted, hpresent⟩, hawake⟩, hheard⟩, hrunning⟩, hwaking⟩, hpreempt⟩, hswitched⟩, htrap⟩, hserial⟩, hirq⟩, hfetch⟩, hstores⟩, hratio⟩

/-- The core's cycle is then its running context's. -/
theorem Chip.coreCycle_of_issues {c : Chip} {x b : Nat} (sub : Nat) (hk : c.CoreIssues x) (hx : c.CtxIssues x b) : c.coreCycle (coreIx x) sub = c.runCycle x sub := by
  have hdie : coreIx x / 20 = ctxDie x := by unfold coreIx ctxDie; omega
  have hcore : coreIx x % 20 = ctxCore x := by unfold coreIx ctxCore; omega
  have hclu : coreIx x / 4 = cluIx x := by unfold coreIx cluIx; omega
  unfold Chip.coreCycle
  simp only [hdie, hcore, hclu, hk.present, hk.awake, hk.heard, hk.running, hk.waking, hk.ratio, hx.switched, Bool.not_true, Bool.or_false,
    Bool.false_and, Bool.false_eq_true, if_false, if_true, show ¬ (2 ≤ 0) by decide, decide_false, show ¬ (0 = 1) by decide]

/-- A context applies what is due. -/
def Chip.dueApplied (c : Chip) (x : Nat) (due : List Pend) : Chip :=
  ((c.applyAll x due).ctxMod x (fun k => { k with
    pend := k.pend.filter (fun p => k.idx < p.wp)
    applied := k.applied + (due.filter (fun p => p.code != cdFlags)).length })).ctxSync x

/-- A context that has what is due goes on to its next bundle. -/
theorem Chip.runCycle_of_issues {c : Chip} {x b : Nat} (sub : Nat) (hk : c.CoreIssues x) (hx : c.CtxIssues x b) (hready : (c.ctxOf x).due.all (·.ready) = true)
    (haudit : c.audBlocked (c.ctxOf x).due = false) (hpoison : (c.ctxOf x).due.any (·.poison) = false) :
    c.runCycle x sub = (c.dueApplied x (c.ctxOf x).due).issueNext x sub := by
  unfold Chip.runCycle Chip.dueApplied
  simp only [hx.trap, hx.serial, hx.stores, hk.preempt, hready, haudit, hpoison, Option.isSome_none, Bool.or_self, Bool.false_and, Bool.false_eq_true,
    List.isEmpty_nil, Bool.not_true, if_false, if_true]

/-- Nothing is due. -/
theorem Chip.dueApplied_none {c : Chip} (x : Nat) (h : (c.ctxOf x).pend = []) : c.Cycled (c.dueApplied x []) x (c.ctxOf x) :=
  ((Chip.Cycled.refl c x).ctx _ (fun s => by simp [h])).sync

/-- The one result that is pending is due, and writes a general register. -/
theorem Chip.dueApplied_one {c : Chip} {x : Nat} {p : Pend} (h : (c.ctxOf x).pend = [p]) (hdue : p.wp ≤ (c.ctxOf x).idx) (hcode : p.code < 0x40)
    (hflags : p.flags = 0) :
    c.Cycled (c.dueApplied x [p]) x { (c.ctxOf x).gw p.code p.val with pend := [], applied := (c.ctxOf x).applied + 1 } := by
  have happly : c.applyAll x [p] = c.ctxMod x (fun k => k.gw p.code p.val) := by
    show c.applyPend x p = _
    simp [Chip.applyPend, Chip.fpFlags, hcode, hflags]
  have hne : p.code ≠ cdFlags := by unfold cdFlags; omega
  unfold Chip.dueApplied
  rw [happly]
  have hw : c.Cycled (c.ctxMod x (fun k => k.gw p.code p.val)) x ((c.ctxOf x).gw p.code p.val) :=
    (Chip.Cycled.refl c x).ctx _ (fun s => by unfold Ctx.gw; split <;> rfl)
  refine (hw.ctx _ (fun s => ?_)).sync
  unfold Ctx.gw
  split <;> simp [h, hdue, hne]

/-! ### The next bundle -/

theorem Chip.irqBest_congr {a b : Chip} {x : Nat} (hcs : (b.ctxOf x).cs = (a.ctxOf x).cs) (hirqs : (b.ctxOf x).irqs = (a.ctxOf x).irqs) (htime : b.time = a.time)
    (hpriv : b.cxPriv x = a.cxPriv x) (hworld : b.cxSecure x = a.cxSecure x) : b.irqBest x = a.irqBest x := by
  have hget : ∀ n s, (b.ctxOf x).csGet n s = (a.ctxOf x).csGet n s := fun n s => by unfold Ctx.csGet; rw [hcs]
  have hcsr : ∀ n, b.csr x n = a.csr x n := fun n => by unfold Chip.csr; rw [hworld, hget]
  have hready : b.irqReady x = a.irqReady x := by
    funext v
    unfold Chip.irqReady Chip.irqPend Chip.irqLevel Chip.stBit
    simp only [hget, hcsr, hirqs, htime, hpriv, hworld]
  unfold Chip.irqBest
  rw [hready]

/-- What a context is, and where it stands. -/
theorem not_pmuFld_status {f : Fld} {x : Nat} (hx : x < 960) (hf : f.addr / 64 * 8 = (fState x).addr / 64 * 8) : pmuFld f = false := by
  have ho : (fState x).addr / 64 * 8 = ctxDie x * 0x10000000 + (0x10 + ctxCore x * 0x10000 + ctxNum x * 8) := by
    simp only [fState, Reg.CORE_CTX_STATUS.STATE, mkFld]
    omega
  have hlow : (fState x).addr / 64 * 8 < 0xC0000000 ∧ (fState x).addr / 64 * 8 % 0x10000000 < 0x5000000 := by
    rw [ho, Nat.mul_add_mod']
    have := ctxDie_lt hx
    have := ctxCore_lt x
    have : ctxNum x < 4 := Nat.mod_lt x (by decide)
    omega
  obtain ⟨hdie, hblock⟩ := hlow
  unfold pmuFld
  rw [hf]
  have hno : ¬ 0x5000000 ≤ (fState x).addr / 64 * 8 % 0x10000000 := by omega
  have hhub : ¬ 0xCE000000 ≤ (fState x).addr / 64 * 8 := by omega
  simp only [hno, hhub, decide_false, Bool.and_false, Bool.false_and, Bool.or_self]

namespace Chip.Cycled

variable {a b : Chip} {x : Nat} {q : Ctx}

theorem level (h : a.Cycled b x q) (hx : x < 960) : b.cxPriv x = a.cxPriv x := by
  refine h.get (not_pmuFld_status hx ?_) ?_
  · simp only [fPriv, fState, Reg.CORE_CTX_STATUS.PRIV, Reg.CORE_CTX_STATUS.STATE, mkFld]; omega
  · simp only [syncFields, List.mem_cons, List.not_mem_nil, or_false, forall_eq_or_imp, forall_eq, fPriv, Reg.CORE_CTX_STATUS.PRIV, Reg.CORE_CTX_STATUS.PEND,
      Reg.CORE_CTX_STATUS.MISS, mkFld]
    omega

theorem world (h : a.Cycled b x q) (hx : x < 960) : b.cxSecure x = a.cxSecure x := by
  unfold Chip.cxSecure Chip.on
  rw [h.get (f := fWorld x) (not_pmuFld_status hx ?_) ?_]
  · simp only [fWorld, fState, Reg.CORE_CTX_STATUS.WORLD, Reg.CORE_CTX_STATUS.STATE, mkFld]; omega
  · simp only [syncFields, List.mem_cons, List.not_mem_nil, or_false, forall_eq_or_imp, forall_eq, fWorld, Reg.CORE_CTX_STATUS.WORLD, Reg.CORE_CTX_STATUS.PEND,
      Reg.CORE_CTX_STATUS.MISS, mkFld]
    omega

theorem tenant (h : a.Cycled b x q) (hx : x < 960) : b.cxTenant x = a.cxTenant x := by
  refine h.get (not_pmuFld_status hx ?_) ?_
  · simp only [fTenant, fState, Reg.CORE_CTX_STATUS.TENANT, Reg.CORE_CTX_STATUS.STATE, mkFld]; omega
  · simp only [syncFields, List.mem_cons, List.not_mem_nil, or_false, forall_eq_or_imp, forall_eq, fTenant, Reg.CORE_CTX_STATUS.TENANT, Reg.CORE_CTX_STATUS.PEND,
      Reg.CORE_CTX_STATUS.MISS, mkFld]
    omega

/-- The Sprocket entries in force. -/
theorem sprk (h : a.Cycled b x q) (k : Nat) (s : Bool) : b.sprkEnt k s = a.sprkEnt k s := by
  have hreg : ∀ f : Fld, f = Reg.HUB_SPRK_STATUS.BUSY ∨ f = Reg.HUB_SPRK_STATUS.WORLD → b.get f = a.get f := by
    rintro f (rfl | rfl) <;> refine h.get (by decide) ?_ <;>
      simp only [syncFields, List.mem_cons, List.not_mem_nil, or_false, forall_eq_or_imp, forall_eq, Reg.HUB_SPRK_STATUS.BUSY, Reg.HUB_SPRK_STATUS.WORLD,
        Reg.CORE_CTX_STATUS.PEND, Reg.CORE_CTX_STATUS.MISS, mkFld, ctxDie, ctxCore, ctxNum] <;> omega
  have hsprk : b.sprk = a.sprk := by rw [h.rest.rest]
  funext slot
  unfold Chip.sprkEnt Chip.on
  rw [hreg _ (.inl rfl), hreg _ (.inr rfl), hsprk]

/-- The stepping of the package. -/
theorem stepping (h : a.Cycled b x q) : b.get Reg.HUB_PKG_ID.STEPPING = a.get Reg.HUB_PKG_ID.STEPPING := by
  refine h.get (by decide) ?_
  simp only [syncFields, List.mem_cons, List.not_mem_nil, or_false, forall_eq_or_imp, forall_eq, Reg.HUB_PKG_ID.STEPPING, Reg.CORE_CTX_STATUS.PEND,
    Reg.CORE_CTX_STATUS.MISS, mkFld, ctxDie, ctxCore, ctxNum]
  omega

theorem time (h : a.Cycled b x q) : b.time = a.time := by
  refine h.get (by decide) ?_
  simp only [syncFields, List.mem_cons, List.not_mem_nil, or_false, forall_eq_or_imp, forall_eq, Reg.TIME_NOW.VALUE, Reg.CORE_CTX_STATUS.PEND,
    Reg.CORE_CTX_STATUS.MISS, mkFld, ctxDie, ctxCore, ctxNum]
  omega

/-- A context whose cycle so far wrote registers still issues its bundle. -/
theorem issueNext (h : a.Cycled b x q) (hx : x < 960) {bun : Nat} (ha : a.CtxIssues x bun) (hcs : q.cs = (a.ctxOf x).cs) (hirqs : q.irqs = (a.ctxOf x).irqs)
    (hfetch : q.fetch = (a.ctxOf x).fetch) (hpc : q.pc = (a.ctxOf x).pc) (sub : Nat) :
    b.issueNext x sub = b.issueTry x sub ⟨(a.ctxOf x).pc, bun, false, a.cxPriv x, a.cxSecure x⟩ := by
  have hirq : b.irqBest x = none := by
    exact (Chip.irqBest_congr ((congrArg Ctx.cs h.mine).trans hcs) ((congrArg Ctx.irqs h.mine).trans hirqs) h.time (h.level hx)
      (h.world hx)).trans ha.irq
  have hgot : b.fetchTry x = (.got ⟨(a.ctxOf x).pc, bun, false, a.cxPriv x, a.cxSecure x⟩, b) := by
    have hf : (b.ctxOf x).fetch.filter (fun f => f.va == (b.ctxOf x).pc && f.priv == b.cxPriv x && f.secure == b.cxSecure x)
        = some ⟨(a.ctxOf x).pc, bun, false, a.cxPriv x, a.cxSecure x⟩ := by
      rw [h.mine, h.level hx, h.world hx]
      show q.fetch.filter _ = _
      rw [hfetch, ha.fetch]
      simp [hpc]
    unfold Chip.fetchTry
    simp only [hf]
  unfold Chip.issueNext
  rw [hirq]
  simp only [hgot]

/-- An address translates as before. -/
theorem translate (h : a.Cycled b x q) (hx : x < 960) (hcs : q.cs = (a.ctxOf x).cs) (htlb : q.tlb = (a.ctxOf x).tlb) (hwalk : q.walk = (a.ctxOf x).walk)
    (va : Nat) (acc : XAcc) (s : Bool) : b.translate x va acc s = a.translate x va acc s := by
  unfold Chip.translate Ctx.csGet Ctx.tlbFind
  simp only [h.level hx, (congrArg Ctx.cs h.mine).trans hcs, (congrArg Ctx.tlb h.mine).trans htlb, (congrArg Ctx.walk h.mine).trans hwalk]

/-- So much of the load miss queue is in use as before. -/
theorem lmqUsed (h : a.Cycled b x q) (hsq : q.sq = (a.ctxOf x).sq) (k : Nat) : b.lmqUsed k = a.lmqUsed k := by
  have hqueue : ∀ y, (b.ctxOf y).sq = (a.ctxOf y).sq := fun y => by
    by_cases hy : y = x
    · subst hy
      rw [h.mine]
      exact hsq
    · rw [h.others y hy]
  unfold Chip.lmqUsed
  simp only [h.coh, hqueue]

end Chip.Cycled

end Sys2Proof.Machine
end

section
/-! The bundle that a context issues (R57, R60, R82, R85): what its checks come to, and what it does, where none of its operations is active or one is. -/
namespace Sys2Proof.Machine

/-! ### The operations of a bundle -/

/-- The one operation of a bundle that passes a test. -/
theorem filter_opnAt_eq_single {b n : Nat} {act : Opn → Bool} (hn : n < 6) (hact : act (opnAt b n) = true) (hrest : ∀ i < 6, i ≠ n → act (opnAt b i) = false) :
    ((List.range 6).map (opnAt b)).filter act = [opnAt b n] := by
  have hone : (List.range 6).filter (act ∘ opnAt b) = (List.range 6).filter (· == n) := by
    refine List.filter_congr fun i hi => ?_
    by_cases h : i = n
    · simp [h, hact]
    · simp [h, hrest i (List.mem_range.1 hi) h]
  rw [List.filter_map, hone, List.filter_beq, List.count_eq_one_of_mem List.nodup_range (List.mem_range.2 hn)]
  rfl

/-- An empty slot holds no active operation. -/
theorem Chip.opActive_of_nop (c : Chip) (x : Nat) (k : Ctx) {o : Opn} (h : o.syl = 0) : c.opActive x k o = false := by
  have hmaj : o.maj = 0 := by simp [Opn.maj, h, bits]
  simp [Chip.opActive, Opn.activeOn, hmaj, h]

theorem Chip.slotCheck_of_nop (c : Chip) (x : Nat) (k : Ctx) {o : Opn} (h : o.syl = 0) : c.slotCheck x k o = .ok := by
  simp [Chip.slotCheck, h]

theorem Chip.slotsCheck_eq_none {c : Chip} {x : Nat} {k : Ctx} {l : List Opn} (h : ∀ o ∈ l, c.slotCheck x k o = .ok) : c.slotsCheck x k l = none := by
  induction l with
  | nil => rfl
  | cons o l ih =>
    unfold Chip.slotsCheck
    rw [h o List.mem_cons_self]
    exact ih fun p hp => h p (List.mem_cons_of_mem _ hp)

/-- Every slot of the bundle 0 is empty. -/
theorem opnAt_zero (s : Nat) : opnAt 0 s = ⟨s, 0, none⟩ := by
  simp [opnAt, sylOf, extOf, tmplX6, tmplX7, tmplBit, bits]

theorem bundleLegal_zero (sprk : Nat → Nat) : bundleLegal 0 sprk = true := by
  have hlegal : ∀ s, (opnAt 0 s).legal sprk = true := fun s => by
    rw [opnAt_zero]
    simp [Opn.legal, Opn.longForm, Opn.maj, bits]
  have hmaj : ∀ s, (opnAt 0 s).maj = 0 := fun s => by
    rw [opnAt_zero]
    simp [Opn.maj, bits]
  simp [bundleLegal, hlegal, hmaj, tmplX6, tmplX7, tmplSer, tmplBit, sylOf, bits]

/-! ### The checks -/

/-- Majors of operations that an issuing bundle treats by themselves: system, division, control registers, control transfers, serialising operations and
Sprocket instructions. -/
def specialMajors : List Nat := [0x00, 0x12, 0x13, 0x14, 0x15, 0x18, 0x19, 0x1A, 0x1B, 0x30, 0x3A, 0x3F]

/-- An operation of no such kind adds one result at most. -/
theorem Opn.results_le_one {o : Opn} (h : o.maj ∉ specialMajors) (k : Ctx) (ent : Nat → Nat) (hamo : o.isAmo = false) : o.results k ent ≤ 1 := by
  simp only [specialMajors, List.mem_cons, List.not_mem_nil, or_false, not_or] at h
  unfold Opn.results
  simp only [h, hamo, if_false, Bool.or_false, decide_false, Bool.false_eq_true]
  split
  · split <;> simp
  · simp

/-- Nor does it take memory, but as a load, store, prefetch or AMO. -/
theorem Opn.touchesMem_eq {o : Opn} (h : o.maj ∉ specialMajors) (ent : Nat → Nat) : o.touchesMem ent = o.isMem := by
  have hstring : (o.maj == 0x30) = false := beq_false_of_ne fun hm => h (by rw [hm]; decide)
  have hsprk : (o.maj == 0x3F) = false := beq_false_of_ne fun hm => h (by rw [hm]; decide)
  simp [Opn.touchesMem, hstring, hsprk]

/-- The check of its slot is that of its access, where it has one. -/
theorem Chip.slotCheck_of_ordinary {c : Chip} {x : Nat} {k : Ctx} {o : Opn} (h : o.maj ∉ specialMajors) (hrep : k.csGet csRepCount false = 0)
    (hact : c.opActive x k o = true) (hmem : o.isMem = true → c.memCheck x k o = .ok) : c.slotCheck x k o = .ok := by
  simp only [specialMajors, List.mem_cons, List.not_mem_nil, or_false, not_or] at h
  unfold Chip.slotCheck
  simp only [h, hrep, hact, if_false, bne_self_eq_false, Bool.false_and, Bool.false_eq_true, Bool.not_true]
  split
  · rfl
  · split
    case isTrue hm => exact hmem hm
    case isFalse => rfl

/-- An illegal bundle asks for its trap (R82). -/
theorem Chip.issueTry_of_illegal {c : Chip} {x : Nat} (sub : Nat) {f : Fetched} (hpoison : f.poison = false)
    (h : bundleLegal f.bits (c.sprkEnt (coreIx x) (c.cxSecure x)) = false) :
    c.issueTry x sub f = ((c.smpFault x (c.ctxOf x) ((List.range 6).map (opnAt f.bits))).raise x trIllegal 0 0 0).charge x fxBack 1 := by
  unfold Chip.issueTry
  simp [hpoison, h]

/-- A bundle that passes its checks issues. -/
theorem Chip.issueTry_of_legal {c : Chip} {x : Nat} (sub : Nat) {f : Fetched} {act : List Opn} (hpoison : f.poison = false)
    (h : bundleLegal f.bits (c.sprkEnt (coreIx x) (c.cxSecure x)) = true)
    (hslots : ∀ o ∈ (List.range 6).map (opnAt f.bits), c.slotCheck x (c.ctxOf x) o = .ok)
    (hact : ((List.range 6).map (opnAt f.bits)).filter (c.opActive x (c.ctxOf x)) = act)
    (hresults : (c.ctxOf x).pend.length + (act.map (fun o => o.results (c.ctxOf x) (c.sprkEnt (coreIx x) (c.cxSecure x)))).sum ≤ 48)
    (hmem : (∀ o ∈ act, o.touchesMem (c.sprkEnt (coreIx x) (c.cxSecure x)) = false) ∨ c.lmqUsed (coreIx x) < 32)
    (hstores : (∀ o ∈ act, o.isStore = false) ∨ (c.ctxOf x).sqCount + act.length ≤ 16) :
    c.issueTry x sub f = c.issueBundle x (c.ctxOf x) (c.sprkEnt (coreIx x) (c.cxSecure x)) sub ((List.range 6).map (opnAt f.bits)) := by
  have hpend : ¬ 48 < ((c.ctxOf x).pend.filter (fun p => p.code != cdFlags)).length
      + (act.map (fun o => o.results (c.ctxOf x) (c.sprkEnt (coreIx x) (c.cxSecure x)))).sum := by
    have := List.length_filter_le (fun p : Pend => p.code != cdFlags) (c.ctxOf x).pend
    omega
  have hqueue : (act.any (fun o => o.touchesMem (c.sprkEnt (coreIx x) (c.cxSecure x)) && !o.isPref) && decide (32 ≤ c.lmqUsed (coreIx x))) = false := by
    rcases hmem with h | h
    · rw [List.any_eq_false.2 fun o ho => by simp [h o ho], Bool.false_and]
    · rw [decide_eq_false (by omega), Bool.and_false]
  have hroom : (decide (0 < (act.filter (·.isStore)).length) && decide (16 < (c.ctxOf x).sqCount + (act.filter (·.isStore)).length)) = false := by
    rcases hstores with h | h
    · rw [List.filter_eq_nil_iff.2 fun o ho => by simp [h o ho]]
      rfl
    · have := List.length_filter_le (fun o : Opn => o.isStore) act
      rw [decide_eq_false (p := 16 < _) (by omega), Bool.and_false]
  unfold Chip.issueTry
  simp only [hpoison, h, hact, Chip.slotsCheck_eq_none hslots, hpend, hqueue, hroom, Bool.not_true, Bool.false_eq_true, if_false]

/-! ### The bundle issues -/

/-- The events of a bundle with these active operations (R420 to R424). -/
def Chip.bundleEvents (c : Chip) (x : Nat) (act : List Opn) : Chip :=
  let c := ((((c.fixCount x 0 1).fixCount x 1 1).fixCount x fxRetired act.length).fixCount x fxWasted (6 - act.length)).evCore x 0x01 1
  ((c.evCore x 0x02 1).evCore x 0x03 act.length).evCore x 0x10 ((act.filter (fun o => o.maj == 0x3F)).length)

/-- What it counts in all as it issues: events, the core's cycle and its energy (R432). -/
def Chip.bundleCounted (c : Chip) (x : Nat) (act : List Opn) : Chip :=
  let c := c.bundleEvents x act
  let c := (c.coreMod (coreIx x) (fun s => { s with cycles := s.cycles + 1, issued := some (ctxNum x), stalled := false })).nrgAdd (domCore (coreIx x))
    (nrgKey (c.cxTenant x) (some x)) 8
  c.ctxMod x (fun k => { k with applied := 0 })

theorem Chip.bundleEvents_counted (c : Chip) {x : Nat} (hx : x < 960) (act : List Opn) : CountedOnly c (c.bundleEvents x act) [] := by
  unfold Chip.bundleEvents
  refine CountedOnly.trans ?_ (Chip.evCore_counted _ _ _ hx)
  refine CountedOnly.trans ?_ (Chip.evCore_counted _ _ _ hx)
  refine CountedOnly.trans ?_ (Chip.evCore_counted _ _ _ hx)
  refine CountedOnly.trans ?_ (Chip.evCore_counted _ _ _ hx)
  refine CountedOnly.trans ?_ (Chip.fixCount_counted _ _ hx (by decide))
  refine CountedOnly.trans ?_ (Chip.fixCount_counted _ _ hx (by decide))
  exact (c.fixCount_counted 1 hx (by decide)).trans (Chip.fixCount_counted _ _ hx (by decide))

theorem Chip.Cycled.bundleCounted {a b : Chip} {x : Nat} {q : Ctx} (h : a.Cycled b x q) (hx : x < 960) (act : List Opn) :
    a.Cycled (b.bundleCounted x act) x { q with applied := 0 } := by
  unfold Chip.bundleCounted
  exact (((h.count (b.bundleEvents_counted hx act)).core _ _).count (Chip.nrgAdd_counted _ _ _ _)).ctx _ (fun _ => rfl)

/-- Outside a repeat, and where nothing transfers control, the context goes on to the next bundle (R57). -/
theorem Chip.Cycled.advance {a b : Chip} {x : Nat} {q k : Ctx} (h : a.Cycled b x q) (hrep : k.csGet csRepCount false = 0) (hpc : q.pc = k.pc) :
    a.Cycled (b.advance x k) x { q with idx := k.idx + 1, fetch := none, pc := (k.pc + 32) % m64 } := by
  unfold Chip.advance
  simp only [hrep, bne_self_eq_false, Bool.false_and, Bool.false_eq_true, if_false]
  exact h.ctx _ (fun s => by simp [hpc])

/-- A bundle of which nothing is active issues. -/
theorem Chip.issueBundle_of_idle {c : Chip} {x : Nat} {k : Ctx} {ent : Nat → Nat} {sub : Nat} {o : Opn} {ops : List Opn} (hhead : ops.head? = some o)
    (hact : ops.filter (c.opActive x k) = []) :
    c.issueBundle x k ent sub ops = ((((c.bundleCounted x []).smpIssue x k o true 4 ((c.bundleCounted x []).ctxOf x).seq 0 0 0).advance x k).ctxSync x) := by
  unfold Chip.issueBundle
  simp [hhead, hact, Chip.bundleCounted, Chip.bundleEvents]

/-- A bundle with one active operation of an ordinary kind issues. -/
theorem Chip.issueBundle_of_one {c : Chip} {x : Nat} {k : Ctx} {ent : Nat → Nat} {sub : Nat} {o : Opn} {ops : List Opn}
    (hact : ops.filter (c.opActive x k) = [o]) (h : o.maj ∉ specialMajors) :
    c.issueBundle x k ent sub ops = (((c.bundleCounted x [o]).execOp x k ent sub true o).advance x k).ctxSync x := by
  simp only [specialMajors, List.mem_cons, List.not_mem_nil, or_false, not_or] at h
  unfold Chip.issueBundle
  simp [hact, h, Chip.bundleCounted, Chip.bundleEvents]

/-- A register operation makes its result pending. -/
theorem Chip.execOp_of_eval {c : Chip} {x : Nat} {k : Ctx} {ent : Nat → Nat} {sub : Nat} {first : Bool} {o : Opn} {d : Dst} {v fl : Nat}
    (h : o.maj ∉ specialMajors) (hmem : o.isMem = false) (heval : o.eval k.view = some (d, v, fl)) :
    c.execOp x k ent sub first o
      = (c.pendNow x d.code (k.idx + o.dist (c.get Reg.HUB_PKG_ID.STEPPING) (sprkEntryHdr (ent o.rd)).dist) o.slot v fl).smpIssue x k o first 4 (c.ctxOf x).seq 0 0 0 := by
  simp only [specialMajors, List.mem_cons, List.not_mem_nil, or_false, not_or] at h
  unfold Chip.execOp
  simp only [h, hmem, heval, Bool.false_eq_true, if_false, Bool.or_self, decide_false]

/-- A store enters the queue. -/
theorem Chip.execOp_of_store {c : Chip} {x : Nat} {k : Ctx} {ent : Nat → Nat} {sub : Nat} {first : Bool} {o : Opn} {pa yrw : Nat} (h : o.isStore = true)
    (hpa : c.translate x (o.ea k.view) .store (c.cxSecure x) = .ok pa yrw) :
    c.execOp x k ent sub first o
      = (c.pushStore x pa o.size (o.storeVal k.view) .store yrw).smpIssue x k o first 2 (c.ctxOf x).seq (o.ea k.view) pa yrw := by
  have hkind : o.isMem = true ∧ o.isLoad = false ∧ o.isAmo = false := by
    simp only [Opn.isMem, Opn.isLoad, Opn.isStore, Opn.isAmo, Bool.or_eq_true, beq_iff_eq] at h ⊢
    rcases h with (h | h) | h <;> simp [h]
  obtain ⟨hmem, hload, hamo⟩ := hkind
  unfold Chip.execOp Chip.execMem Opn.acc
  simp [hmem, hload, hamo, h, hpa]

/-- A result of a register that is neither g0 nor p0 becomes pending. -/
theorem Chip.Cycled.pendNow {a b : Chip} {x : Nat} {q : Ctx} (h : a.Cycled b x q) {code : Nat} (wp slot val flags : Nat) (hg : code ≠ 0) (hp : code ≠ 0x60)
    (hf : code ≠ cdFlags) :
    a.Cycled (b.pendNow x code wp slot val flags) x { q with
      seq := q.seq + 1
      pend := q.pend ++ [⟨code, wp, slot, q.seq, val, true, false, 0, 0, flags⟩] } := by
  unfold Chip.pendNow Chip.pendPush
  simp only [hg, hp, hf, Bool.or_self, decide_false, Bool.false_eq_true, if_false, Bool.false_and]
  exact h.ctx _ (fun _ => rfl)

/-- The entry of a store in the queue. -/
def Chip.storeEntry (c : Chip) (x seq pa size data yrw : Nat) : StoreEnt :=
  ⟨seq, pa, size, data, 0, 0, false, false, 0, .store, c.cxTenant x, c.cxSecure x, yrw, c.cxPriv x == 2, 0, false⟩

/-- A store takes the free entry. -/
theorem Chip.Cycled.pushStore {a b : Chip} {x : Nat} {q : Ctx} (h : a.Cycled b x q) (pa size data yrw : Nat) (hwait : q.stWait = []) (hroom : q.sqCount < 16) :
    a.Cycled (b.pushStore x pa size data .store yrw) x { q with seq := q.seq + 1, sq := q.sq ++ [b.storeEntry x q.seq pa size data yrw] } := by
  unfold Chip.pushStore
  refine h.ctx _ (fun s => ?_)
  have hfree : 16 - q.sqCount = (15 - q.sqCount) + 1 := by omega
  have hcount : ∀ w n, Ctx.sqCount { q with seq := n, stWait := w, sample := s } = q.sqCount := fun _ _ => rfl
  simp [Ctx.sqRefill, hwait, hcount, hfree, Chip.storeEntry]

end Sys2Proof.Machine
end

section
/-! The bundles of O44: one of which nothing is active, one with a register operation, one with a store, and one that is illegal (R58, R60, R61, R82, R98). -/
namespace Sys2Proof.Machine

/-! ### Results and addresses -/

theorem bits_lt (n lo w : Nat) : bits n lo w < 2 ^ w := Nat.mod_lt _ (Nat.two_pow_pos w)

/-- A result, where there is one, goes to a register. -/
def NamesRegister (e : Option (Dst × Nat × Nat)) : Prop := ∀ t ∈ e, t.1.code < 0x70

theorem NamesRegister.ite {p : Prop} [Decidable p] {e f : Option (Dst × Nat × Nat)} (he : NamesRegister e) (hf : NamesRegister f) :
    NamesRegister (if p then e else f) := by
  split
  · exact he
  · exact hf

theorem namesRegister_none : NamesRegister none := fun _ h => nomatch h

theorem namesRegister_some {d : Dst} {r : Nat × Nat} : NamesRegister (some (d, r)) ↔ d.code < 0x70 := by simp [NamesRegister]

theorem Dst.code_v_lt (r : Nat) : (Dst.v r).code < 0x70 := by simp only [Dst.code]; omega

theorem Dst.code_p_lt (r : Nat) : (Dst.p r).code < 0x70 := by simp only [Dst.code]; omega

/-- So does that of a register operation. -/
theorem Opn.namesRegister_eval (o : Opn) (r : RegView) : NamesRegister (o.eval r) := by
  have hrd : (Dst.g o.rd).code < 0x70 := Nat.lt_of_lt_of_le (bits_lt _ _ _) (by decide)
  have hvg : (Dst.g o.vgG).code < 0x70 := Nat.lt_of_lt_of_le (bits_lt _ _ _) (by decide)
  unfold Opn.eval
  dsimp only
  repeat' apply NamesRegister.ite
  all_goals simp only [namesRegister_some, namesRegister_none, hrd, hvg, Dst.code_v_lt, Dst.code_p_lt]

theorem isDevice_of_isNormal {pa : Nat} (h : isNormal pa = true) : isDevice pa = false := by
  have hpa : pa < 2 ^ 48 := by simpa [isNormal] using h
  unfold isDevice regionOf
  by_cases hdram : pa < 2 ^ 47
  · rw [if_pos hdram]
  · rw [if_neg hdram, if_pos hpa]

theorem Opn.dist_of_ne {o : Opn} (h : o.maj ≠ 0x3F) (st d : Nat) : o.dist st d = o.dist st 0 := by
  unfold Opn.dist
  simp [h]

/-- What a store's major says of it. -/
theorem Opn.isStore_iff {o : Opn} : o.isStore = true ↔ o.maj ∈ [0x21, 0x23, 0x25] := by simp [Opn.isStore, or_assoc]

/-! ### A bundle of which nothing is active -/

variable {a b : Chip} {x : Nat} {q : Ctx}

/-- A context whose cycle so far left nothing pending issues an empty bundle. -/
theorem Chip.Cycled.issueNext_idle (h : a.Cycled b x q) (hx : x < 960) (ha : a.CtxIssues x 0) (hcs : q.cs = (a.ctxOf x).cs) (hirqs : q.irqs = (a.ctxOf x).irqs)
    (hfetch : q.fetch = (a.ctxOf x).fetch) (hpc : q.pc = (a.ctxOf x).pc) (hpend : q.pend = []) (hrep : q.csGet csRepCount false = 0) (sub : Nat) :
    a.Cycled (b.issueNext x sub) x { q with applied := 0, idx := q.idx + 1, fetch := none, pc := (q.pc + 32) % m64 } := by
  obtain ⟨sm, hk⟩ : ∃ sm, b.ctxOf x = { q with sample := sm } := ⟨_, h.mine⟩
  have hnop : ∀ o ∈ (List.range 6).map (opnAt 0), o.syl = 0 := by simp [opnAt_zero]
  have hact : ((List.range 6).map (opnAt 0)).filter (b.opActive x (b.ctxOf x)) = [] :=
    List.filter_eq_nil_iff.2 fun o ho => by simp [b.opActive_of_nop x _ (hnop o ho)]
  have hissue := Chip.issueTry_of_legal (c := b) (x := x) (f := ⟨(a.ctxOf x).pc, 0, false, a.cxPriv x, a.cxSecure x⟩) (act := []) sub rfl (bundleLegal_zero _)
    (fun o ho => b.slotCheck_of_nop x _ (hnop o ho)) hact (by simp [hk, hpend]) (.inl (by simp)) (.inl (by simp))
  rw [h.issueNext hx ha hcs hirqs hfetch hpc, hissue, Chip.issueBundle_of_idle (o := opnAt 0 0) rfl hact, hk]
  exact (((h.bundleCounted hx []).smpIssue hx _ _ _ _ _ _ _ _).advance hrep rfl).sync

/-! ### A bundle with one active operation -/

/-- The bundle of a context that has nothing pending, with one active operation of an ordinary kind, passes its checks and issues. -/
theorem Chip.Cycled.issueNext_one (h : a.Cycled b x (a.ctxOf x)) (hx : x < 960) {bun n : Nat} {o : Opn} (ha : a.CtxIssues x bun)
    (hpend : (a.ctxOf x).pend = []) (hrep : (a.ctxOf x).csGet csRepCount false = 0) (hn : n < 6) (ho : opnAt bun n = o)
    (hnop : ∀ i < 6, i ≠ n → (opnAt bun i).syl = 0) (hactive : o.activeOn ((a.ctxOf x).pr o.pred) = true)
    (hlegal : bundleLegal bun (a.sprkEnt (coreIx x) (a.cxSecure x)) = true) (hord : o.maj ∉ specialMajors) (hamo : o.isAmo = false)
    (hcheck : o.isMem = true → b.memCheck x (b.ctxOf x) o = .ok ∧ a.lmqUsed (coreIx x) < 32 ∧ (a.ctxOf x).sqCount < 16) (sub : Nat) :
    b.issueNext x sub = (((b.bundleCounted x [o]).execOp x (b.ctxOf x) (b.sprkEnt (coreIx x) (b.cxSecure x)) sub true o).advance x (b.ctxOf x)).ctxSync x := by
  obtain ⟨sm, hk⟩ : ∃ sm, b.ctxOf x = { a.ctxOf x with sample := sm } := ⟨_, h.mine⟩
  have hmaj : o.maj ≠ 0x3F := fun hm => hord (by rw [hm]; decide)
  have hon : b.opActive x (b.ctxOf x) o = true := by
    unfold Chip.opActive
    rw [if_neg hmaj, hk]
    exact hactive
  have hact : ((List.range 6).map (opnAt bun)).filter (b.opActive x (b.ctxOf x)) = [o] := by
    rw [← ho]
    exact filter_opnAt_eq_single hn (by rw [ho]; exact hon) fun i hi hne => b.opActive_of_nop x _ (hnop i hi hne)
  have hslots : ∀ p ∈ (List.range 6).map (opnAt bun), b.slotCheck x (b.ctxOf x) p = .ok := by
    intro p hp
    obtain ⟨i, hi, rfl⟩ := List.mem_map.1 hp
    by_cases hin : i = n
    · rw [hin, ho]
      exact Chip.slotCheck_of_ordinary hord (by rw [hk]; exact hrep) hon fun hm => (hcheck hm).1
    · exact b.slotCheck_of_nop x _ (hnop i (List.mem_range.1 hi) hin)
  have hissue := Chip.issueTry_of_legal (c := b) (x := x) (f := ⟨(a.ctxOf x).pc, bun, false, a.cxPriv x, a.cxSecure x⟩) (act := [o]) sub rfl ?_ hslots hact ?_ ?_ ?_
  · rw [h.issueNext hx ha rfl rfl rfl rfl, hissue, Chip.issueBundle_of_one hact hord]
  · rw [h.world hx, h.sprk]
    exact hlegal
  · have := Opn.results_le_one hord (b.ctxOf x) (b.sprkEnt (coreIx x) (b.cxSecure x)) hamo
    have : (b.ctxOf x).pend = [] := by rw [hk]; exact hpend
    simp [this]
    omega
  · by_cases hm : o.isMem = true
    · exact .inr ((h.lmqUsed rfl _).trans_lt (hcheck hm).2.1)
    · exact .inl (by simp [Opn.touchesMem_eq hord, hm])
  · by_cases hm : o.isMem = true
    · refine .inr ?_
      rw [hk]
      exact (hcheck hm).2.2
    · refine .inl ?_
      have hstore : o.isStore = false := by
        simp only [Opn.isMem, Bool.or_eq_true, not_or, Bool.not_eq_true] at hm
        obtain ⟨⟨⟨-, hs⟩, -⟩, -⟩ := hm
        exact hs
      simp [hstore]

/-- Where it is a register operation, its result becomes pending (R60, R61). -/
theorem Chip.Cycled.issued_eval (h : a.Cycled b x (a.ctxOf x)) (hx : x < 960) {o : Opn} {d : Dst} {v fl : Nat} (hrep : (a.ctxOf x).csGet csRepCount false = 0)
    (hpend : (a.ctxOf x).pend = []) (hord : o.maj ∉ specialMajors) (hmem : o.isMem = false) (heval : o.eval (a.ctxOf x).view = some (d, v, fl)) (hg : d.code ≠ 0)
    (hp : d.code ≠ 0x60) (ent : Nat → Nat) (sub : Nat) :
    a.Cycled ((((b.bundleCounted x [o]).execOp x (b.ctxOf x) ent sub true o).advance x (b.ctxOf x)).ctxSync x) x
      { a.ctxOf x with
        pend := [⟨d.code, (a.ctxOf x).idx + o.dist (a.get Reg.HUB_PKG_ID.STEPPING) 0, o.slot, (a.ctxOf x).seq, v, true, false, 0, 0, fl⟩]
        applied := 0
        seq := (a.ctxOf x).seq + 1
        pc := ((a.ctxOf x).pc + 32) % m64
        idx := (a.ctxOf x).idx + 1
        fetch := none } := by
  obtain ⟨sm, hk⟩ : ∃ sm, b.ctxOf x = { a.ctxOf x with sample := sm } := ⟨_, h.mine⟩
  have hmaj : o.maj ≠ 0x3F := fun hm => hord (by rw [hm]; decide)
  have hflags : d.code ≠ cdFlags := by
    have : d.code < 0x70 := o.namesRegister_eval _ _ heval
    unfold cdFlags
    omega
  have hcount := h.bundleCounted hx [o]
  rw [hk, Chip.execOp_of_eval (k := { a.ctxOf x with sample := sm }) hord hmem heval, Opn.dist_of_ne hmaj, hcount.stepping]
  have hres := (((hcount.pendNow ((a.ctxOf x).idx + o.dist (a.get Reg.HUB_PKG_ID.STEPPING) 0) o.slot v fl hg hp hflags).smpIssue hx { a.ctxOf x with sample := sm } o true 4
    ((b.bundleCounted x [o]).ctxOf x).seq 0 0 0).advance (k := { a.ctxOf x with sample := sm }) hrep rfl).sync
  simpa [hpend] using hres

/-- Where it is a store, its bytes enter the queue (R98). -/
theorem Chip.Cycled.issued_store (h : a.Cycled b x (a.ctxOf x)) (hx : x < 960) {o : Opn} {pa yrw : Nat} (hrep : (a.ctxOf x).csGet csRepCount false = 0)
    (hstore : o.isStore = true) (hpa : a.translate x (o.ea (a.ctxOf x).view) .store (a.cxSecure x) = .ok pa yrw) (hwait : (a.ctxOf x).stWait = [])
    (hroom : (a.ctxOf x).sqCount < 16) (ent : Nat → Nat) (sub : Nat) :
    a.Cycled ((((b.bundleCounted x [o]).execOp x (b.ctxOf x) ent sub true o).advance x (b.ctxOf x)).ctxSync x) x
      { a.ctxOf x with
        sq := (a.ctxOf x).sq ++ [a.storeEntry x (a.ctxOf x).seq pa o.size (o.storeVal (a.ctxOf x).view) yrw]
        applied := 0
        seq := (a.ctxOf x).seq + 1
        pc := ((a.ctxOf x).pc + 32) % m64
        idx := (a.ctxOf x).idx + 1
        fetch := none } := by
  obtain ⟨sm, hk⟩ : ∃ sm, b.ctxOf x = { a.ctxOf x with sample := sm } := ⟨_, h.mine⟩
  have hcount := h.bundleCounted hx [o]
  have hxl : (b.bundleCounted x [o]).translate x (o.ea (a.ctxOf x).view) .store ((b.bundleCounted x [o]).cxSecure x) = .ok pa yrw := by
    rw [hcount.world hx, hcount.translate hx rfl rfl rfl]
    exact hpa
  have hentry : ∀ seq, (b.bundleCounted x [o]).storeEntry x seq pa o.size (o.storeVal (a.ctxOf x).view) yrw = a.storeEntry x seq pa o.size (o.storeVal (a.ctxOf x).view) yrw :=
    fun seq => by unfold Chip.storeEntry; rw [hcount.tenant hx, hcount.world hx, hcount.level hx]
  rw [hk, Chip.execOp_of_store (k := { a.ctxOf x with sample := sm }) hstore hxl]
  have hres := (((hcount.pushStore pa o.size (o.storeVal (a.ctxOf x).view) yrw hwait hroom).smpIssue hx { a.ctxOf x with sample := sm } o true 2
    ((b.bundleCounted x [o]).ctxOf x).seq (o.ea (a.ctxOf x).view) pa yrw).advance (k := { a.ctxOf x with sample := sm }) hrep rfl).sync
  rw [hentry] at hres
  exact hres

/-! ### A bundle that is illegal -/

theorem Chip.dropIds_rest (c : Chip) (l : List Nat) : c.dropIds l = { c with coh := (c.dropIds l).coh } := by
  induction l generalizing c with
  | nil => rfl
  | cons i l ih =>
    show (c.opDrop i).dropIds l = _
    rw [ih]
    rfl

/-- A context that traps drops what it gathers, and its trap waits. -/
def Ctx.trapped (k : Ctx) (t : TrapReq) : Ctx := { k with fetchOp := 0, walk := none, serial := none, waitFetch := false, trap := some t }

theorem Chip.ctxOf_raise (c : Chip) (x cause tval info word : Nat) : (c.raise x cause tval info word).ctxOf x = (c.ctxOf x).trapped ⟨cause, tval, info, word⟩ := by
  unfold Chip.raise Chip.dropFront
  dsimp only
  rw [Chip.ctxOf_ctxMod_self, Chip.ctxOf_ctxMod_self, Chip.dropIds_rest]
  rfl

theorem Chip.raise_sameMemory (c : Chip) (x cause tval info word : Nat) : SameMemory c (c.raise x cause tval info word) := by
  unfold Chip.raise Chip.dropFront
  dsimp only
  rw [Chip.dropIds_rest]
  exact ⟨rfl, rfl, rfl, rfl, rfl, rfl, rfl⟩

theorem Chip.smpFault_counted (c : Chip) {x : Nat} (hx : x < 960) (k : Ctx) (ops : List Opn) : CountedOnly c (c.smpFault x k ops) [] := by
  unfold Chip.smpFault
  dsimp only
  have hput := CountedOnly.put c 0 (pmuFld_smp (ctxDie_lt hx) (ctxCore_lt x)).1
  split_ifs
  · exact hput
  · exact CountedOnly.refl c
  · exact hput
  · exact CountedOnly.refl c

theorem CountedOnly.sameMemory {a b : Chip} {l : List Fld} (h : CountedOnly a b l) : SameMemory a b := by
  constructor <;> rw [h.rest]

theorem Chip.coreMod_sameMemory (c : Chip) (k : Nat) (f : CoreSt → CoreSt) : SameMemory c (c.coreMod k f) := ⟨rfl, rfl, rfl, rfl, rfl, rfl, rfl⟩

/-- A context whose cycle so far wrote nothing asks for the trap of its illegal bundle (R82). -/
theorem Chip.Cycled.issueNext_illegal (h : a.Cycled b x (a.ctxOf x)) (hx : x < 960) {bun : Nat} (ha : a.CtxIssues x bun)
    (hlegal : bundleLegal bun (a.sprkEnt (coreIx x) (a.cxSecure x)) = false) (sub : Nat) :
    (∃ sm, (b.issueNext x sub).ctxOf x = ({ a.ctxOf x with sample := sm } : Ctx).trapped ⟨trIllegal, 0, 0, 0⟩) ∧ SameMemory a (b.issueNext x sub) := by
  rw [h.issueNext hx ha rfl rfl rfl rfl, Chip.issueTry_of_illegal sub rfl (by rw [h.world hx, h.sprk]; exact hlegal)]
  have hfault := b.smpFault_counted hx (b.ctxOf x) ((List.range 6).map (opnAt bun))
  have hcharge := Chip.charge_counted (cls := fxBack) ((b.smpFault x (b.ctxOf x) ((List.range 6).map (opnAt bun))).raise x trIllegal 0 0 0) 1 hx (by decide)
  refine ⟨⟨(b.ctxOf x).sample, ?_⟩, ?_⟩
  · rw [hcharge.ctxOf, Chip.ctxOf_coreMod, Chip.ctxOf_raise, hfault.ctxOf, ← h.mine]
  · have hraise := (h.sameMemory.trans hfault.sameMemory).trans (Chip.raise_sameMemory _ x trIllegal 0 0 0)
    exact (hraise.trans (Chip.coreMod_sameMemory _ _ _)).trans hcharge.sameMemory

end Sys2Proof.Machine
end

section
/-! A core's cycle settles O44 (R57, R58, R60, R61, R66, R68, R82, R85, R98). -/
namespace Sys2Proof.Machine

variable {c : Chip} {x b : Nat}

/-- The cycle of a core whose context issues with nothing pending. -/
theorem Chip.coreCycle_of_nonePending (sub : Nat) (hk : c.CoreIssues x) (hx : c.CtxIssues x b) (hpend : (c.ctxOf x).pend = []) :
    c.coreCycle (coreIx x) sub = (c.dueApplied x []).issueNext x sub := by
  have hdue : (c.ctxOf x).due = [] := by simp [Ctx.due, hpend]
  rw [Chip.coreCycle_of_issues sub hk hx, Chip.runCycle_of_issues sub hk hx (by simp [hdue]) (by simp [hdue, Chip.audBlocked]) (by simp [hdue]), hdue]

/-- The cycle of a core whose context issues with one result due, for a general register. -/
theorem Chip.coreCycle_of_onePending (sub : Nat) {p : Pend} (hk : c.CoreIssues x) (hx : c.CtxIssues x b) (hpend : (c.ctxOf x).pend = [p])
    (hdue : p.wp ≤ (c.ctxOf x).idx) (hready : p.ready = true) (hpoison : p.poison = false) (hcode : p.code < 0x40) :
    c.coreCycle (coreIx x) sub = (c.dueApplied x [p]).issueNext x sub := by
  have hlist : (c.ctxOf x).due = [p] := by simp [Ctx.due, hpend, hdue]
  have haudit : c.audBlocked [p] = false := by
    have htenant : (p.code == 0x800 + csTenant) = false := beq_false_of_ne (by unfold csTenant; omega)
    have hworld : (p.code == 0x800 + csIrqWorld) = false := beq_false_of_ne (by unfold csIrqWorld; omega)
    simp [Chip.audBlocked, htenant, hworld]
  rw [Chip.coreCycle_of_issues sub hk hx,
    Chip.runCycle_of_issues sub hk hx (by simp [hlist, hready]) (by rw [hlist]; exact haudit) (by simp [hlist, hpoison]), hlist]

/-- A write of a general register leaves the rest of a context. -/
theorem Ctx.gw_rest (k : Ctx) (r n : Nat) : k.gw r n = { k with g := (k.gw r n).g } := by
  unfold Ctx.gw
  split <;> rfl

/-- The written result's bundle issues. -/
theorem Chip.coreCycle_writes (sub : Nat) {p : Pend} (hx : x < 960) (hk : c.CoreIssues x) (hc : c.CtxIssues x 0) (hrep : (c.ctxOf x).csGet csRepCount false = 0)
    (hpend : (c.ctxOf x).pend = [p]) (hdue : p.wp ≤ (c.ctxOf x).idx) (hready : p.ready = true) (hpoison : p.poison = false) (hcode : p.code < 0x40)
    (hflags : p.flags = 0) :
    c.Cycled (c.coreCycle (coreIx x) sub) x { (c.ctxOf x).gw p.code p.val with
      pend := []
      applied := 0
      pc := ((c.ctxOf x).pc + 32) % m64
      idx := (c.ctxOf x).idx + 1
      fetch := none } := by
  have happly := Chip.dueApplied_one hpend hdue hcode hflags
  rw [Chip.coreCycle_of_onePending sub hk hc hpend hdue hready hpoison hcode]
  rw [Ctx.gw_rest] at happly ⊢
  exact happly.issueNext_idle hx hc rfl rfl rfl rfl rfl hrep sub

/-- Majors of the operations whose result is ready when they issue. -/
def plainMajors : List Nat :=
  [0x01, 0x02, 0x03, 0x04, 0x05, 0x06, 0x07, 0x08, 0x09, 0x0A, 0x0B, 0x0D, 0x0E, 0x0F, 0x10, 0x11, 0x37, 0x38, 0x39, 0x3B, 0x3C, 0x3D, 0x3E]

/-- They are none that a bundle treats by itself, nor memory operations. -/
theorem ordinary_of_plain {o : Opn} (h : o.maj ∈ plainMajors) : o.maj ∉ specialMajors ∧ o.isMem = false := by
  have hkinds : ∀ m ∈ plainMajors, m ∉ specialMajors ∧ m ∉ [0x20, 0x21, 0x22, 0x23, 0x24, 0x25, 0x28, 0x29, 0x2C] := by decide
  obtain ⟨hord, hmem⟩ := hkinds _ h
  refine ⟨hord, ?_⟩
  simp only [List.mem_cons, List.not_mem_nil, or_false, not_or] at hmem
  simp [Opn.isMem, Opn.isLoad, Opn.isStore, Opn.isPref, Opn.isAmo, hmem]

theorem ordinary_of_store {o : Opn} (h : o.isStore = true) : o.maj ∉ specialMajors ∧ o.isAmo = false := by
  have hkinds : ∀ m ∈ [0x21, 0x23, 0x25], m ∉ specialMajors ∧ m ≠ 0x28 ∧ m ≠ 0x29 := by decide
  obtain ⟨hord, hword, hlong⟩ := hkinds _ (Opn.isStore_iff.1 h)
  exact ⟨hord, by simp [Opn.isAmo, hword, hlong]⟩

/-- A store passes its check where its address translates to normal memory. -/
theorem Chip.memCheck_of_store {k : Ctx} {o : Opn} {pa yrw : Nat} (hstore : o.isStore = true) (halign : o.ea k.view % o.size = 0)
    (hpa : c.translate x (o.ea k.view) .store (c.cxSecure x) = .ok pa yrw) (hnormal : isNormal pa = true) : c.memCheck x k o = .ok := by
  obtain ⟨-, hamo⟩ := ordinary_of_store hstore
  unfold Chip.memCheck Opn.acc
  simp [halign, hamo, hstore, hpa, isDevice_of_isNormal hnormal]

end Sys2Proof.Machine

open Sys2Proof Sys2Proof.Machine

/-- Settles O44: the cycle of a core whose context issues applies what is due and issues its bundle, by what the bundle holds. -/
theorem bundlesIssue : Obligations.BundlesIssue := by
  unfold Obligations.BundlesIssue
  refine ⟨?writes, ?issues, ?unit, ?off, ?struck⟩
  case writes =>
    intro s x k sub p hissues hk hrep hpend hdue hready hpoison hcode hflags
    obtain ⟨hs, hcore, hctx⟩ := Chip.issues_iff.1 hissues
    have hcyc := Chip.coreCycle_writes sub.val x.isLt hcore hctx hrep hpend hdue hready hpoison hcode hflags
    have hix : coreIx x.val = k.val := hk.symm
    rw [hix] at hcyc
    exact ⟨_, s.run_eq (fun c => c.coreCycle k.val sub.val) hs hcyc.sameMemory.otp, rfl, hcyc.mine, hcyc.others, hcyc.rest⟩
  case issues =>
    intro s x k sub b n o hissues hk hrep hpend hnop hn ho hactive
    obtain ⟨hs, hcore, hctx⟩ := Chip.issues_iff.1 hissues
    have hix : coreIx x.val = k.val := hk.symm
    have hcyc := Chip.coreCycle_of_nonePending sub.val hcore hctx hpend
    have hdue := Chip.dueApplied_none x.val hpend
    rw [hix] at hcyc
    refine ⟨fun hlegal => ⟨fun d v fl hplain heval hg hp => ?_, fun pa yrw hstore halign hpa hnormal hlmq hroom => ?_⟩, fun hlegal => ?_⟩
    · obtain ⟨hord, hmem⟩ := ordinary_of_plain hplain
      have hamo : o.isAmo = false := by
        simp only [Opn.isMem, Bool.or_eq_false_iff] at hmem
        exact hmem.2
      rw [hdue.issueNext_one x.isLt hctx hpend hrep hn ho hnop hactive hlegal hord hamo
        (fun h => absurd (hmem.symm.trans h) (by decide)) sub.val] at hcyc
      have hres := hdue.issued_eval x.isLt hrep hpend hord hmem heval hg hp
        ((s.chip.dueApplied x.val []).sprkEnt (coreIx x.val) ((s.chip.dueApplied x.val []).cxSecure x.val)) sub.val
      rw [← hcyc] at hres
      exact ⟨_, _, s.run_eq (fun c => c.coreCycle k.val sub.val) hs hres.sameMemory.otp, rfl, rfl, rfl, rfl, rfl, rfl, rfl, rfl, hres.mine, hres.others,
        hres.sameMemory, hres.coh⟩
    · obtain ⟨hord, hamo⟩ := ordinary_of_store hstore
      have hcheck : (s.chip.dueApplied x.val []).memCheck x.val ((s.chip.dueApplied x.val []).ctxOf x.val) o = .ok := by
        have hview : ((s.chip.dueApplied x.val []).ctxOf x.val).view = (s.chip.ctxOf x.val).view := by
          rw [hdue.mine]
          rfl
        refine Chip.memCheck_of_store (yrw := yrw) hstore (by rw [hview]; exact halign) ?_ hnormal
        rw [hview, hdue.world x.isLt, hdue.translate x.isLt rfl rfl rfl]
        exact hpa
      rw [hdue.issueNext_one x.isLt hctx hpend hrep hn ho hnop hactive hlegal hord hamo (fun _ => ⟨hcheck, hlmq, hroom⟩) sub.val] at hcyc
      have hres := hdue.issued_store x.isLt hrep hstore hpa hctx.stores hroom
        ((s.chip.dueApplied x.val []).sprkEnt (coreIx x.val) ((s.chip.dueApplied x.val []).cxSecure x.val)) sub.val
      rw [← hcyc] at hres
      exact ⟨_, _, s.run_eq (fun c => c.coreCycle k.val sub.val) hs hres.sameMemory.otp, rfl, rfl, rfl, rfl, rfl, rfl, rfl, rfl, rfl, hres.mine, hres.others,
        hres.sameMemory, hres.coh⟩
    · obtain ⟨⟨sm, hmine⟩, hmem⟩ := hdue.issueNext_illegal x.isLt hctx hlegal sub.val
      rw [← hcyc] at hmine hmem
      refine ⟨_, s.run_eq (fun c => c.coreCycle k.val sub.val) hs hmem.otp, rfl, ?_, ?_, ?_, hmem⟩
      · exact congrArg Ctx.trap hmine
      · show SameRegs _ ((s.chip.coreCycle k.val sub.val).ctxOf x.val)
        rw [hmine]
        exact ⟨rfl, rfl, rfl, rfl, rfl, rfl⟩
      · exact (congrArg Ctx.pend hmine).trans hpend
  case unit =>
    intro s k u unit hs hu
    have heq := Chip.unitResult_eq hu
    have hfields := Chip.ctxSync_fields ((s.chip.coreMod k.val (fun q => { q with units := q.units.filter (fun v => v.job != u.job) })).ctxMod u.ctx
      (fun q => { q with pend := q.pend.map (fun p => if p.job = u.job then { p with ready := true } else p) })) u.ctx
    rw [← heq] at hfields
    refine ⟨_, s.run_eq (fun c => c.unitResult k.val unit.val) hs (by rw [hfields.rest]; rfl), rfl, ?_, fun y hy => ?_, ?_, hfields.from rfl⟩
    · show (s.chip.unitResult k.val unit.val).ctxOf u.ctx = _
      rw [heq, Chip.ctxOf_ctxSync, Chip.ctxOf_ctxMod_self]
      rfl
    · show (s.chip.unitResult k.val unit.val).ctxOf y = _
      rw [heq, Chip.ctxOf_ctxSync, Chip.ctxOf_ctxMod_ne _ _ hy]
      rfl
    · show ((s.chip.unitResult k.val unit.val).coreOf k.val).units = _
      rw [heq, Chip.coreOf_ctxSync, Chip.coreOf_ctxMod, Chip.coreOf_coreMod_self]
  case off =>
    intro s k sub h
    by_cases hs : s.chip.halted = true
    · exact s.run_halted (fun c => c.coreCycle k.val sub.val) hs
    · have heq := Chip.coreCycle_of_off sub.val h
      exact (s.run_eq (fun c => c.coreCycle k.val sub.val) (by simpa using hs) (by rw [heq])).trans (by rw [heq])
  case struck =>
    intro s k sub what line hs
    refine ⟨exec_bundleIssue_struck k sub what line hs, fun w l _ hfind => ⟨_, rfl, ?_⟩⟩
    exact Chip.l1Check_strike hfind
end

section
/-! Software writes of the power controls (R71, R73, R405, R406): the effect that each register's write has, and what such a write leaves once it is answered. -/
namespace Sys2Proof.Machine

/-! ### A recorded write with an effect on contexts or on the state of power -/

/-- Beside a list of fields, only contexts and the state of power differ. -/
def PowerFields (a b : Chip) (l : List Fld) : Prop := OnlyFields { a with ctx := b.ctx, pwr := b.pwr } b l

theorem PowerFields.refl (c : Chip) : PowerFields c c [] := ⟨rfl, fun _ _ => rfl, rfl⟩

theorem PowerFields.puts (c : Chip) (l : List (Fld × Nat)) {m : List Fld} (h : ∀ p ∈ l, p.1 ∈ m) : PowerFields c (c.puts l) m := by
  obtain ⟨h1, h2, h3⟩ := OnlyFields.puts c l h
  refine ⟨?_, h2, h3⟩
  rw [h1]

/-- The write's record, its effect and its answer. -/
theorem WroteOnly.of_power {a c d : Chip} {l : List Fld} (w : Who) (off : Nat) (h : Recorded a c) (e : PowerFields c d l) :
    WroteOnly { a with ctx := d.ctx, pwr := d.pwr } { d with replies := d.replies ++ [⟨w.agent, a.csrAddr off, 0, false, false⟩] } w off l := by
  obtain ⟨h1, h2, h3, ⟨r, h4⟩⟩ := h
  obtain ⟨e1, e2, e3⟩ := e
  have haud : d.aud = c.aud := by rw [e1]
  have hreplies : d.replies = a.replies := by rw [e1, h1]
  refine ⟨?_, fun f hf => ?_, e3.trans h3, ⟨r, haud.trans h4⟩, by rw [hreplies]; rfl⟩
  · have hd : d = { a with regs := d.regs, aud := d.aud, nrg := d.nrg, irqs := d.irqs, ctx := d.ctx, pwr := d.pwr } := by
      rw [e1, h1]
    rw [hd]
  · exact (e2 f fun g hg => hf g (by simp [hg])).trans (h2 f fun g hg => hf g (by simp [hg]))

/-- A write whose effect is on contexts and on the state of power: the next state, and what it leaves unchanged. -/
theorem State.powerWrite_next {s : State} {w : Who} {off v : Nat} {l : List Fld} (h : s.chip.writeRuns w off = true) (h8 : off % 8 = 0) (hs : off ≠ 0xC9C00020)
    (ht : off ≠ 0xCD000008) (he : ∀ c : Chip, Recorded s.chip c → PowerFields c (c.csrAction w off v) l)
    (hl : ∀ p < 8, ∀ g ∈ l, (Reg.PCI_WIN_SEL.OLD_BUSY p).addr ≠ g.addr) :
    ∃ c t, Recorded s.chip c ∧ s.run (fun c => c.regWrite w off v) = .next t ∧ t.pending = s.pending
      ∧ t.chip.regs = (c.csrAction w off v).regs ∧ t.chip.ctx = (c.csrAction w off v).ctx ∧ t.chip.pwr = (c.csrAction w off v).pwr
      ∧ WroteOnly { s.chip with ctx := t.chip.ctx, pwr := t.chip.pwr } t.chip w off l := by
  obtain ⟨c, hrec, hrun⟩ := State.regWrite_next (v := v) h h8 hs fun c hrec => by
    rw [Chip.atWrite_of_ne ht] at hrec
    have hc := he c hrec
    exact ⟨by rw [hc.rest], by rw [hc.rest], fun p hp => hc.regs _ (hl p hp), by rw [hc.rest]⟩
  rw [Chip.atWrite_of_ne ht] at hrec
  exact ⟨c, _, hrec, hrun, rfl, rfl, rfl, rfl, WroteOnly.of_power w off hrec (he c hrec)⟩

/-! ### Which register a write reaches -/

/-- A record writes fields of the audit log's block only. -/
theorem notAudit_of_outside {f : Fld} (h : f.addr < 8 * 0xC9C00000 ∨ 8 * 0xCA000000 ≤ f.addr) : ∀ g ∈ auditFields, f.addr ≠ g.addr := by
  have hblock : ∀ g ∈ auditFields, 8 * 0xC9C00000 ≤ g.addr ∧ g.addr < 8 * 0xCA000000 := by decide
  intro g hg
  obtain ⟨hlow, hhigh⟩ := hblock g hg
  omega

/-- A field outside it reads as before the record. -/
theorem Recorded.get_outside {a b : Chip} (h : Recorded a b) {f : Fld} (hf : f.addr < 8 * 0xC9C00000 ∨ 8 * 0xCA000000 ≤ f.addr) : b.get f = a.get f :=
  h.get (notAudit_of_outside hf)

/-- No field below the ports' blocks is one of a port's window. -/
theorem Reg.OLD_BUSY_ne_of_low {p : Nat} {l : List Fld} (hl : ∀ g ∈ l, g.addr < 8 * 0xCB000000) : ∀ g ∈ l, (Reg.PCI_WIN_SEL.OLD_BUSY p).addr ≠ g.addr := by
  intro g hg
  have := hl g hg
  simp only [Reg.PCI_WIN_SEL.OLD_BUSY, mkFld]
  omega

/-- The offset of CORE_CTX_CTRL of a context. -/
def ctxCtrlOff (x : Nat) : Nat := 0x50 + ctxDie x * 0x10000000 + ctxCore x * 0x10000 + ctxNum x * 0x8

theorem ctxCtrlOff_eq (x : Nat) : (Reg.CORE_CTX_CTRL.START (x / 80) (x % 80 / 4) (x % 4)).off = ctxCtrlOff x
    ∧ (Reg.CORE_CTX_CTRL.RESET (x / 80) (x % 80 / 4) (x % 4)).off = ctxCtrlOff x := by
  simp only [Fld.off, Reg.CORE_CTX_CTRL.START, Reg.CORE_CTX_CTRL.RESET, mkFld, ctxCtrlOff, ctxDie, ctxCore, ctxNum]
  omega

theorem ctxCtrlOff_lt {x : Nat} (hx : x < 960) : ctxCtrlOff x % 8 = 0 ∧ ctxCtrlOff x < 0xC0000000 := by
  unfold ctxCtrlOff ctxDie ctxCore ctxNum
  omega

/-- A write of CORE_CTX_CTRL is of its context. -/
theorem Chip.csrAction_ctxCtrl (c : Chip) (w : Who) {x : Nat} (v : Nat) (hx : x < 960) : c.csrAction w (ctxCtrlOff x) v = c.ctxCtrl w x v := by
  have hlow := (ctxCtrlOff_lt hx).2
  have hcore := ctxCore_lt x
  have hnum : ctxNum x < 4 := Nat.mod_lt x (by decide)
  have hsplit : ctxCtrlOff x = ctxDie x * 0x10000000 + (ctxCore x * 0x10000 + (0x50 + ctxNum x * 8)) := by unfold ctxCtrlOff; omega
  have hdie : ctxCtrlOff x / 0x10000000 = ctxDie x := by rw [hsplit]; omega
  have hblock : ctxCtrlOff x % 0x10000000 = ctxCore x * 0x10000 + (0x50 + ctxNum x * 8) := by rw [hsplit]; omega
  have hk : (ctxCore x * 0x10000 + (0x50 + ctxNum x * 8)) / 0x10000 = ctxCore x := by omega
  have hr : (ctxCore x * 0x10000 + (0x50 + ctxNum x * 8)) % 0x10000 = 0x50 + ctxNum x * 8 := by omega
  have hctx : 80 * ctxDie x + 4 * ctxCore x + (0x50 + ctxNum x * 8 - 0x50) / 8 = x := by unfold ctxDie ctxCore ctxNum; omega
  unfold Chip.csrAction Chip.csrDie
  rw [if_pos hlow]
  simp only [hdie, hblock, hk, hr, hctx]
  rw [if_pos (by omega), if_pos (by simp only [Bool.and_eq_true, decide_eq_true_eq]; omega)]

/-- The offset of PWR_CL_CTRL of a cluster. -/
def clCtrlOff (d cl : Nat) : Nat := 0x7000000 + d * 0x10000000 + cl * 8

theorem clCtrlOff_eq (d cl : Nat) : (Reg.PWR_CL_CTRL.C3_EN d cl).off = clCtrlOff d cl := by
  simp only [Fld.off, Reg.PWR_CL_CTRL.C3_EN, mkFld, clCtrlOff]
  omega

theorem clCtrlOff_lt {d cl : Nat} (hd : d < 12) (hcl : cl < 5) : clCtrlOff d cl % 8 = 0 ∧ clCtrlOff d cl < 0xC0000000 := by
  unfold clCtrlOff
  omega

/-- A write of PWR_CL_CTRL is of its cluster. -/
theorem Chip.csrAction_pwrClCtrl (c : Chip) (w : Who) {d cl : Nat} (v : Nat) (hd : d < 12) (hcl : cl < 5) : c.csrAction w (clCtrlOff d cl) v = c.clCtrl w d cl v := by
  have hlow := (clCtrlOff_lt hd hcl).2
  have hdie : clCtrlOff d cl / 0x10000000 = d := by unfold clCtrlOff; omega
  have hblock : clCtrlOff d cl % 0x10000000 = 0x7000000 + cl * 8 := by unfold clCtrlOff; omega
  have hc : (0x7000000 + cl * 8 - 0x7000000) / 8 = cl := by omega
  unfold Chip.csrAction Chip.csrDie
  rw [if_pos hlow]
  simp only [hdie, hblock, hc]
  rw [if_neg (by omega), if_neg (by omega), if_neg (by omega), if_pos (by simp only [Bool.and_eq_true, decide_eq_true_eq]; omega)]

/-- A write of PWR_GATE_CMD is a gate command. -/
theorem Chip.csrAction_gateCmd (c : Chip) (w : Who) (v : Nat) : c.csrAction w 0xCC800060 v = c.gateCmd w (bits v 0 6) (bits v 6 2) := rfl

end Sys2Proof.Machine
end

section
/-! Gate commands of the package's blocks (R406, R407): how a command is answered, and its end. -/
namespace Sys2Proof.Machine

variable {c : Chip} {w : Who} {t op : Nat}

/-! ### The answers of a gate command -/

/-- The command names an operation and a target. -/
theorem gate_named (hop : op ≠ 0) (ht : t ≤ 51) : ¬ (decide (op = 0) || decide (51 < t)) = true := by
  simp only [hop, decide_false, Bool.false_or, decide_eq_true_eq]
  omega

theorem Chip.gateCmd_of_denied (hop : op ≠ 0) (ht : t ≤ 51) (h : c.gateDenied w t = true) : c.gateCmd w t op = c.put Reg.PWR_GATE_STATUS.RESULT prDenied := by
  unfold Chip.gateCmd
  rw [if_neg (gate_named hop ht), if_pos h]

theorem Chip.gateCmd_of_busy (hop : op ≠ 0) (ht : t ≤ 51) (h : c.gateDenied w t = false) (hbusy : c.on Reg.PWR_GATE_STATUS.BUSY = true) :
    c.gateCmd w t op = c.put Reg.PWR_GATE_STATUS.RESULT prBusy := by
  unfold Chip.gateCmd
  rw [if_neg (gate_named hop ht), if_neg (by simp [h]), if_pos hbusy]

theorem Chip.gateCmd_of_badOp (hop : op ≠ 0) (ht : t ≤ 51) (h : c.gateDenied w t = false) (hbusy : c.on Reg.PWR_GATE_STATUS.BUSY = false)
    (hoffer : gateOffers t op = false) : c.gateCmd w t op = c.put Reg.PWR_GATE_STATUS.RESULT prBadOp := by
  unfold Chip.gateCmd
  rw [if_neg (gate_named hop ht), if_neg (by simp [h]), if_neg (by simp [hbusy]), if_pos (by simp [hoffer])]

theorem Chip.gateCmd_of_ungated (ht : t ≤ 51) (h : c.gateDenied w t = false) (hbusy : c.on Reg.PWR_GATE_STATUS.BUSY = false) (hgated : c.gated t = false) :
    c.gateCmd w t 3 = c.put Reg.PWR_GATE_STATUS.RESULT prDone := by
  unfold Chip.gateCmd
  rw [if_neg (gate_named (by decide) ht), if_neg (by simp [h]), if_neg (by simp [hbusy]), if_neg (by simp [gateOffers]), if_pos (by simp [hgated])]

theorem Chip.gateCmd_of_notReady (hop : op ≠ 0) (ht : t ≤ 51) (h : c.gateDenied w t = false) (hbusy : c.on Reg.PWR_GATE_STATUS.BUSY = false)
    (hoffer : gateOffers t op = true) (hgate : op ≠ 3) (hready : c.gateReady t op = false) :
    c.gateCmd w t op = c.put Reg.PWR_GATE_STATUS.RESULT prBadState := by
  unfold Chip.gateCmd
  rw [if_neg (gate_named hop ht), if_neg (by simp [h]), if_neg (by simp [hbusy]), if_neg (by simp [hoffer]), if_neg (by simp [hgate]), if_pos (by simp [hgate, hready])]

/-- What a gate command that runs leaves. -/
def Chip.gateBegun (c : Chip) (t op : Nat) : Chip :=
  ({ c with pwr := { c.pwr with gate := some (t, op, c.get Reg.HC_MAINT_BANKS.BANKS) } }).puts
    [(Reg.PWR_GATE_STATUS.BUSY, 1), (Reg.PWR_GATE_STATUS.RESULT, 0)]

theorem Chip.gateCmd_of_ready (hop : op ≠ 0) (ht : t ≤ 51) (h : c.gateDenied w t = false) (hbusy : c.on Reg.PWR_GATE_STATUS.BUSY = false)
    (hoffer : gateOffers t op = true) (hready : (if op = 3 then c.gated t else c.gateReady t op) = true) : c.gateCmd w t op = c.gateBegun t op := by
  unfold Chip.gateCmd
  rw [if_neg (gate_named hop ht), if_neg (by simp [h]), if_neg (by simp [hbusy]), if_neg (by simp [hoffer])]
  by_cases h3 : op = 3
  · rw [if_pos h3] at hready
    rw [if_neg (by simp [hready]), if_neg (by simp [h3])]
    rfl
  · rw [if_neg h3] at hready
    rw [if_neg (by simp [h3]), if_neg (by simp [hready])]
    rfl

/-- Fields that a gate command may write. -/
def gateFields : List Fld := [Reg.PWR_GATE_STATUS.RESULT, Reg.PWR_GATE_STATUS.BUSY]

theorem PowerFields.put (c : Chip) (f : Fld) (v : Nat) {m : List Fld} (h : f ∈ m) : PowerFields c (c.put f v) m :=
  PowerFields.puts c [(f, v)] (by simp [h])

theorem PowerFields.gateBegun (c : Chip) (t op : Nat) : PowerFields c (c.gateBegun t op) gateFields := by
  obtain ⟨h1, h2, h3⟩ := OnlyFields.puts (m := gateFields) { c with pwr := { c.pwr with gate := some (t, op, c.get Reg.HC_MAINT_BANKS.BANKS) } }
    [(Reg.PWR_GATE_STATUS.BUSY, 1), (Reg.PWR_GATE_STATUS.RESULT, 0)] (by simp [gateFields])
  refine ⟨?_, h2, h3⟩
  unfold Chip.gateBegun
  rw [h1]

/-- Whatever its answer, a gate command writes nothing else. -/
theorem PowerFields.gateCmd (c : Chip) (w : Who) (t op : Nat) : PowerFields c (c.gateCmd w t op) gateFields := by
  have hsay : ∀ r, PowerFields c (c.put Reg.PWR_GATE_STATUS.RESULT r) gateFields := fun r => PowerFields.put c _ r (by simp [gateFields])
  have hnone : PowerFields c c gateFields := ⟨rfl, fun _ _ => rfl, rfl⟩
  unfold Chip.gateCmd
  dsimp only
  split_ifs
  · exact hnone
  · exact hsay _
  · exact hsay _
  · exact hsay _
  · exact hsay _
  · exact hsay _
  · exact PowerFields.gateBegun c t op

theorem Chip.gateCmd_ctx (c : Chip) (w : Who) (t op : Nat) : (c.gateCmd w t op).ctx = c.ctx := by
  unfold Chip.gateCmd
  dsimp only
  split_ifs <;> rfl

/-! ### The record of the write does not bear on the answer -/

variable {a : Chip}

theorem Recorded.gateDenied (h : Recorded a c) (w : Who) (t : Nat) : c.gateDenied w t = a.gateDenied w t := by
  unfold Chip.gateDenied Chip.bitOf
  rw [h.get_outside (f := Reg.SEC_OWN1.BLOCKS) (by decide)]

theorem Recorded.gateBusy (h : Recorded a c) : c.on Reg.PWR_GATE_STATUS.BUSY = a.on Reg.PWR_GATE_STATUS.BUSY := by
  unfold Chip.on
  rw [h.get_outside (by decide)]

theorem Recorded.gated (h : Recorded a c) (t : Nat) : c.gated t = a.gated t := by
  unfold Chip.gated Chip.bitOf
  rw [h.get_outside (by decide)]

theorem Recorded.gateReady (h : Recorded a c) (ht : t ≤ 51) (op : Nat) : c.gateReady t op = a.gateReady t op := by
  have hoff : ∀ cl, t < 12 → cl < 5 → c.on (Reg.PWR_CL_CTRL.OFF t cl) = a.on (Reg.PWR_CL_CTRL.OFF t cl) := fun cl h12 hcl => by
    unfold Chip.on
    rw [h.get_outside (.inl (by simp only [Reg.PWR_CL_CTRL.OFF, mkFld]; omega))]
  have hmc : t < 36 → c.mcState (t - 12) = a.mcState (t - 12) := fun h36 =>
    h.get_outside (.inl (by simp only [Reg.MC_STATUS.STATE, mkFld]; omega))
  have hpci : t < 44 → c.on (Reg.PCI_CFG.EN (t - 36)) = a.on (Reg.PCI_CFG.EN (t - 36)) := fun _ => by
    unfold Chip.on
    rw [h.get_outside (.inr (by simp only [Reg.PCI_CFG.EN, mkFld]; omega))]
  have htdm : t < 50 → c.tdmState (t - 44) = a.tdmState (t - 44) := fun h50 =>
    h.get_outside (.inl (by simp only [Reg.TDM_STATUS.STATE, mkFld]; omega))
  have hmaint : c.on Reg.HC_STATUS.MBUSY = a.on Reg.HC_STATUS.MBUSY := by
    unfold Chip.on
    rw [h.get_outside (by decide)]
  have hhqe : c.on Reg.HQE_CTRL.EN = a.on Reg.HQE_CTRL.EN := by
    unfold Chip.on
    rw [h.get_outside (by decide)]
  have hserves : c.hqeServes = a.hqeServes := by
    unfold Chip.hqeServes
    rw [h.rest]
  have hpresent : ∀ d cl, c.cluPresent d cl = a.cluPresent d cl := fun d cl => by
    unfold Chip.cluPresent Chip.diePresent Chip.presentWord
    rw [h.rest]
  unfold Chip.gateReady
  split
  case isTrue h12 =>
    rw [Bool.eq_iff_iff]
    simp only [List.all_eq_true, List.mem_range, hpresent]
    exact ⟨fun k cl hcl => by rw [← hoff cl h12 hcl]; exact k cl hcl, fun k cl hcl => by rw [hoff cl h12 hcl]; exact k cl hcl⟩
  case isFalse =>
    split
    case isTrue h36 => rw [hmc h36]
    case isFalse =>
      split
      case isTrue h44 => rw [hpci h44]
      case isFalse =>
        split
        case isTrue h50 => rw [htdm h50]
        case isFalse => rw [hmaint, hhqe, hserves]

/-! ### A written gate command -/

theorem Chip.fieldsWrite_cons (c : Chip) (w : Who) (base : Nat) (p : Fld × Nat) (l : List (Fld × Nat)) :
    c.fieldsWrite w base (p :: l) = c.regWrite w p.1.off (withFields base (p :: l)) := rfl

/-- The value that a command writes holds its target and its operation. -/
theorem bits_withFields_gate (ht : t < 64) (hop : op < 4) :
    bits (withFields 0 [(Reg.PWR_GATE_CMD.TARGET, t), (Reg.PWR_GATE_CMD.OP, op)]) 0 6 = t
      ∧ bits (withFields 0 [(Reg.PWR_GATE_CMD.TARGET, t), (Reg.PWR_GATE_CMD.OP, op)]) 6 2 = op := by
  have hval : withFields 0 [(Reg.PWR_GATE_CMD.TARGET, t), (Reg.PWR_GATE_CMD.OP, op)] = setBits (setBits 0 0 6 t) 6 2 op := by
    simp only [withFields, List.foldl_cons, List.foldl_nil, Reg.PWR_GATE_CMD.TARGET, Reg.PWR_GATE_CMD.OP, mkFld]
  rw [hval, bits_setBits_self, bits_setBits_other _ _ (.inl (by decide)), bits_setBits_self]
  omega

/-- What a written gate command comes to, by the order of R407. -/
theorem State.gate_next {s : State} {w : Who} (h : s.chip.writeRuns w Reg.PWR_GATE_CMD.OP.off = true) (ht : t ≤ 51) (hop : op ≠ 0) (hop4 : op < 4) :
    ∃ t', s.run (fun c => c.fieldsWrite w 0 [(Reg.PWR_GATE_CMD.TARGET, t), (Reg.PWR_GATE_CMD.OP, op)]) = .next t' ∧ t'.pending = s.pending
      ∧ (s.chip.gateDenied w t = true → t'.chip.get Reg.PWR_GATE_STATUS.RESULT = prDenied ∧ t'.chip.pwr = s.chip.pwr)
      ∧ (s.chip.gateDenied w t = false →
          (s.chip.on Reg.PWR_GATE_STATUS.BUSY = true → t'.chip.get Reg.PWR_GATE_STATUS.RESULT = prBusy ∧ t'.chip.pwr = s.chip.pwr)
          ∧ (s.chip.on Reg.PWR_GATE_STATUS.BUSY = false →
              (gateOffers t op = false → t'.chip.get Reg.PWR_GATE_STATUS.RESULT = prBadOp ∧ t'.chip.pwr = s.chip.pwr)
              ∧ (op = 3 → s.chip.gated t = false → t'.chip.get Reg.PWR_GATE_STATUS.RESULT = prDone ∧ t'.chip.pwr = s.chip.pwr)
              ∧ (gateOffers t op = true → op ≠ 3 → s.chip.gateReady t op = false →
                  t'.chip.get Reg.PWR_GATE_STATUS.RESULT = prBadState ∧ t'.chip.pwr = s.chip.pwr)
              ∧ (gateOffers t op = true → (if op = 3 then s.chip.gated t else s.chip.gateReady t op) = true →
                  t'.chip.get Reg.PWR_GATE_STATUS.BUSY = 1
                  ∧ t'.chip.pwr = { s.chip.pwr with gate := some (t, op, s.chip.get Reg.HC_MAINT_BANKS.BANKS) })))
      ∧ WroteOnly { s.chip with pwr := t'.chip.pwr } t'.chip w Reg.PWR_GATE_CMD.OP.off gateFields := by
  obtain ⟨htarget, hoper⟩ := bits_withFields_gate (t := t) (op := op) (by omega) hop4
  have hact : ∀ c : Chip, c.csrAction w Reg.PWR_GATE_CMD.OP.off (withFields 0 [(Reg.PWR_GATE_CMD.TARGET, t), (Reg.PWR_GATE_CMD.OP, op)]) = c.gateCmd w t op :=
    fun c => (c.csrAction_gateCmd w _).trans (by rw [htarget, hoper])
  obtain ⟨c, t', hrec, hrun, hpend, hregs, hctx, hpwr, hwrote⟩ := State.powerWrite_next (l := gateFields)
    (v := withFields 0 [(Reg.PWR_GATE_CMD.TARGET, t), (Reg.PWR_GATE_CMD.OP, op)]) h (by decide) (by decide) (by decide)
    (fun c _ => by rw [hact]; exact PowerFields.gateCmd c w t op) (fun p hp => Reg.OLD_BUSY_ne_of_high hp (by decide))
  rw [hact] at hregs hctx hpwr
  have hsay : ∀ r < 8, c.gateCmd w t op = c.put Reg.PWR_GATE_STATUS.RESULT r → t'.chip.get Reg.PWR_GATE_STATUS.RESULT = r ∧ t'.chip.pwr = s.chip.pwr :=
    fun r hr heq => by
      rw [heq] at hregs hpwr
      refine ⟨?_, hpwr.trans (by show c.pwr = _; rw [hrec.rest])⟩
      show t'.chip.regs.get _ = r
      rw [hregs]
      exact (c.get_put_self Reg.PWR_GATE_STATUS.RESULT r).trans (Nat.mod_eq_of_lt hr)
  have hctx' : t'.chip.ctx = s.chip.ctx := hctx.trans ((c.gateCmd_ctx w t op).trans (by rw [hrec.rest]))
  have hoff : Reg.PWR_GATE_CMD.TARGET.off = Reg.PWR_GATE_CMD.OP.off := by decide
  have hwritten : s.run (fun c => c.fieldsWrite w 0 [(Reg.PWR_GATE_CMD.TARGET, t), (Reg.PWR_GATE_CMD.OP, op)]) = .next t' := by
    simp only [Chip.fieldsWrite_cons, hoff]
    exact hrun
  refine ⟨t', hwritten, hpend, fun hdenied => ?_, fun hdenied => ⟨fun hbusy => ?_, fun hbusy => ⟨fun hoffer => ?_, fun h3 hgated => ?_, fun hoffer h3 hready => ?_,
    fun hoffer hready => ?_⟩⟩, ?_⟩
  · exact hsay _ (by decide) (Chip.gateCmd_of_denied hop ht ((hrec.gateDenied w t).trans hdenied))
  · exact hsay _ (by decide) (Chip.gateCmd_of_busy hop ht ((hrec.gateDenied w t).trans hdenied) (hrec.gateBusy.trans hbusy))
  · exact hsay _ (by decide) (Chip.gateCmd_of_badOp hop ht ((hrec.gateDenied w t).trans hdenied) (hrec.gateBusy.trans hbusy) hoffer)
  · subst h3
    exact hsay _ (by decide) (Chip.gateCmd_of_ungated ht ((hrec.gateDenied w t).trans hdenied) (hrec.gateBusy.trans hbusy) ((hrec.gated t).trans hgated))
  · exact hsay _ (by decide) (Chip.gateCmd_of_notReady hop ht ((hrec.gateDenied w t).trans hdenied) (hrec.gateBusy.trans hbusy) hoffer h3
      ((hrec.gateReady ht op).trans hready))
  · have heq := Chip.gateCmd_of_ready hop ht ((hrec.gateDenied w t).trans hdenied) (hrec.gateBusy.trans hbusy) hoffer
      (by rw [hrec.gated, hrec.gateReady ht]; exact hready)
    rw [heq] at hregs hpwr
    have hbanks : c.get Reg.HC_MAINT_BANKS.BANKS = s.chip.get Reg.HC_MAINT_BANKS.BANKS := hrec.get_outside (by decide)
    have hstate : c.pwr = s.chip.pwr := by rw [hrec.rest]
    refine ⟨?_, by rw [hpwr, Chip.gateBegun, Chip.puts_pwr, hbanks, hstate]⟩
    show t'.chip.regs.get _ = 1
    rw [hregs]
    exact Chip.get_puts_mem (l := [(Reg.PWR_GATE_STATUS.BUSY, 1), (Reg.PWR_GATE_STATUS.RESULT, 0)]) (f := Reg.PWR_GATE_STATUS.BUSY) (v := 1) _ (by decide)
      (by simp)
  · rw [hctx'] at hwrote
    exact hwrote

end Sys2Proof.Machine
end

section
/-! A gate command ends (R406), and temperatures are sampled (R408, R409). -/
namespace Sys2Proof.Machine

/-! ### A bit of a mask -/

theorem bit_eq_bits (n i : Nat) : bit n i = (bits n i 1 == 1) := rfl

theorem bit_setBits_self (n i : Nat) (b : Bool) : bit (setBits n i 1 (b2n b)) i = b := by
  rw [bit_eq_bits, bits_setBits_self]
  cases b <;> rfl

theorem bit_setBits_ne (n : Nat) {i j v : Nat} (h : j ≠ i) : bit (setBits n i 1 v) j = bit n j := by
  rw [bit_eq_bits, bits_setBits_other _ _ (by omega)]
  rfl

theorem bit_mod (n : Nat) {i w : Nat} (h : i < w) : bit (n % 2 ^ w) i = bit n i := by
  rw [bit_eq_bits, bits_mod n (show i + 1 ≤ w by omega)]
  rfl

theorem Chip.bitOf_putBit_self (c : Chip) (f : Fld) {i : Nat} (b : Bool) (hi : i < f.width) : (c.putBit f i b).bitOf f i = b := by
  unfold Chip.bitOf Chip.putBit
  rw [Chip.get_put_self, bit_mod _ hi, bit_setBits_self]

theorem Chip.bitOf_putBit_ne (c : Chip) (f : Fld) {i j : Nat} (b : Bool) (hj : j < f.width) (h : j ≠ i) : (c.putBit f i b).bitOf f j = c.bitOf f j := by
  unfold Chip.bitOf Chip.putBit
  rw [Chip.get_put_self, bit_mod _ hj, bit_setBits_ne _ h]

/-! ### The end of a gate command -/

/-- Gating or ungating a block that is neither a die nor the hub cache is a matter of its bit in PWR_GATED. -/
theorem Chip.gateDo_eq (c : Chip) {n : Nat} (op b : Nat) (hn : 12 ≤ n) (hne : n ≠ 50) : c.gateDo n op b = c.putBit Reg.PWR_GATED.GATED n (decide (op ≠ 3)) := by
  have hdie : ¬ n < 12 := by omega
  unfold Chip.gateDo
  by_cases hop : op = 3 <;> simp [hop, hdie, hne]

/-- The package as a command for such a block ends. -/
theorem Chip.gateComplete_eq {c : Chip} {n op b : Nat} (h : c.pwr.gate = some (n, op, b)) (hn : 12 ≤ n) (hne : n ≠ 50) :
    c.gateComplete = (({ c with pwr := { c.pwr with gate := none } }).putBit Reg.PWR_GATED.GATED n (decide (op ≠ 3))).puts
      [(Reg.PWR_GATE_STATUS.BUSY, 0), (Reg.PWR_GATE_STATUS.RESULT, prDone)] := by
  unfold Chip.gateComplete
  simp only [h, Chip.gateDo_eq _ op b hn hne]

theorem Chip.gated_puts_status (c : Chip) (m v r : Nat) : (c.puts [(Reg.PWR_GATE_STATUS.BUSY, v), (Reg.PWR_GATE_STATUS.RESULT, r)]).gated m = c.gated m := by
  unfold Chip.gated Chip.bitOf
  rw [Chip.get_puts_ne _ _ (by simp only [List.mem_cons, List.not_mem_nil, or_false, forall_eq_or_imp, forall_eq]; decide)]

/-- What the end of a gate command leaves. -/
theorem State.gateComplete_next {s : State} {n op b : Nat} (hs : s.chip.halted = false) (h : s.chip.pwr.gate = some (n, op, b)) (hn : 12 ≤ n) (hn' : n ≤ 51)
    (hne : n ≠ 50) :
    ∃ t, exec .gateComplete s = .next t ∧ t.pending = s.pending ∧ t.chip.gated n = decide (op ≠ 3)
      ∧ (∀ m < 52, m ≠ n → t.chip.gated m = s.chip.gated m) ∧ t.chip.get Reg.PWR_GATE_STATUS.BUSY = 0
      ∧ t.chip.get Reg.PWR_GATE_STATUS.RESULT = prDone
      ∧ OnlyFields { s.chip with pwr := { s.chip.pwr with gate := none } } t.chip
          [Reg.PWR_GATED.GATED, Reg.PWR_GATE_STATUS.BUSY, Reg.PWR_GATE_STATUS.RESULT] := by
  have heq := Chip.gateComplete_eq h hn hne
  have hfields : OnlyFields { s.chip with pwr := { s.chip.pwr with gate := none } } s.chip.gateComplete
      [Reg.PWR_GATED.GATED, Reg.PWR_GATE_STATUS.BUSY, Reg.PWR_GATE_STATUS.RESULT] := by
    rw [heq]
    unfold Chip.putBit
    exact OnlyFields.puts _ [(Reg.PWR_GATED.GATED, _), (Reg.PWR_GATE_STATUS.BUSY, 0), (Reg.PWR_GATE_STATUS.RESULT, prDone)] (by simp)
  refine ⟨_, s.run_eq Chip.gateComplete hs (by rw [hfields.rest]), rfl, ?_, fun m hm hmn => ?_, ?_, ?_, hfields⟩
  · show s.chip.gateComplete.gated n = _
    rw [heq, Chip.gated_puts_status]
    exact Chip.bitOf_putBit_self _ _ _ (show n < 52 by omega)
  · show s.chip.gateComplete.gated m = _
    rw [heq, Chip.gated_puts_status]
    exact Chip.bitOf_putBit_ne _ _ _ hm hmn
  · show s.chip.gateComplete.get _ = _
    rw [heq]
    exact Chip.get_puts_mem (l := [(Reg.PWR_GATE_STATUS.BUSY, 0), (Reg.PWR_GATE_STATUS.RESULT, prDone)]) (f := Reg.PWR_GATE_STATUS.BUSY) (v := 0) _ (by decide)
      (by simp)
  · show s.chip.gateComplete.get _ = _
    rw [heq]
    exact Chip.get_puts_mem (l := [(Reg.PWR_GATE_STATUS.BUSY, 0), (Reg.PWR_GATE_STATUS.RESULT, prDone)]) (f := Reg.PWR_GATE_STATUS.RESULT) (v := prDone) _
      (by decide) (by simp)

/-! ### Temperatures -/

/-- Beside a list of fields, only interrupts and the clocks' state differ. -/
structure Chip.Sensed (a b : Chip) (l : List Fld) : Prop where
  rest : b = { a with regs := b.regs, irqs := b.irqs, clk := b.clk }
  regs : Untouched a b l

namespace Chip.Sensed

theorem refl (a : Chip) (l : List Fld) : a.Sensed a l := ⟨rfl, fun _ _ => rfl⟩

theorem trans {a b c : Chip} {l : List Fld} (h : a.Sensed b l) (g : b.Sensed c l) : a.Sensed c l := by
  obtain ⟨h1, h2⟩ := h
  obtain ⟨g1, g2⟩ := g
  refine ⟨?_, fun f hf => (g2 f hf).trans (h2 f hf)⟩
  rw [g1, h1]

theorem irqReg (c : Chip) (ag vec en : Fld) (l : List Fld) : c.Sensed (c.irqReg ag vec en) l := by
  unfold Chip.irqReg
  split
  · exact ⟨rfl, fun _ _ => rfl⟩
  · exact refl c l

theorem dieIrqIf (c : Chip) (p : Prop) [Decidable p] (d : Nat) (l : List Fld) : c.Sensed (if p then c.dieIrq d else c) l := by
  split
  · exact irqReg c _ _ _ l
  · exact refl c l

/-- A cluster's ratio begins to change. -/
theorem ratioCheck (c : Chip) (d cl : Nat) : c.Sensed (c.ratioCheck d cl) [Reg.HUB_CORE_DIV.BUSY d] := by
  have hbusy : c.Sensed (c.putBit (Reg.HUB_CORE_DIV.BUSY d) cl true) [Reg.HUB_CORE_DIV.BUSY d] :=
    ⟨rfl, fun f hf => Chip.get_put_ne _ _ (hf _ (by simp))⟩
  unfold Chip.ratioCheck
  dsimp only
  split_ifs
  · exact refl c _
  · exact refl c _
  · exact hbusy.trans ⟨rfl, fun _ _ => rfl⟩

theorem ratioCheckDie (c : Chip) (d : Nat) : c.Sensed (c.ratioCheckDie d) [Reg.HUB_CORE_DIV.BUSY d] := by
  unfold Chip.ratioCheckDie
  generalize List.range 5 = l
  induction l generalizing c with
  | nil => exact refl c _
  | cons cl l ih => exact (ratioCheck c d cl).trans (ih _)

end Chip.Sensed

theorem thermFlag_of_le {was : Bool} {t th : Int} (h : th ≤ t) : thermFlag was t th = true := if_pos h

theorem thermFlag_of_low {was : Bool} {t th : Int} (h : t ≤ th - 5) : thermFlag was t th = false := by
  unfold thermFlag
  rw [if_neg (by omega), if_pos h]

theorem thermFlag_between {was : Bool} {t th : Int} (hlow : th - 5 < t) (hhigh : t < th) : thermFlag was t th = was := by
  unfold thermFlag
  rw [if_neg (by omega), if_neg (by omega)]

/-- What a die's sensor reports. -/
def Chip.thermFields (c : Chip) (u temp : Nat) : List (Fld × Nat) :=
  [(Reg.PWR_THERM.TEMP u, temp),
   (Reg.PWR_THERM.WARN_ON u, b2n (thermFlag (c.on (Reg.PWR_THERM.WARN_ON u)) (toSigned 8 temp) (toSigned 8 (c.get (Reg.PWR_THERM.WARN u))))),
   (Reg.PWR_THERM.CRIT_ON u, b2n (thermFlag (bit c.pwr.crit u) (toSigned 8 temp) (toSigned 8 (c.get (Reg.PWR_THERM.CRIT u)))))]

/-- A die's sensor reports, and trips at 125 degrees. -/
theorem Chip.tempSample_sensed {c : Chip} {u : Nat} (temp : Nat) (hu : u < 12) :
    ∃ p : PwrSt, p.tripped = (c.pwr.tripped || decide (125 ≤ toSigned 8 temp))
      ∧ (({ c with pwr := p } : Chip).puts (c.thermFields u temp)).Sensed (c.tempSample u temp false) [Reg.HUB_CORE_DIV.BUSY u] := by
  refine ⟨{ c.pwr with
    tripped := c.pwr.tripped || decide (125 ≤ toSigned 8 temp)
    crit := setBits c.pwr.crit u 1 (b2n (thermFlag (bit c.pwr.crit u) (toSigned 8 temp) (toSigned 8 (c.get (Reg.PWR_THERM.CRIT u))))) }, rfl, ?_⟩
  have hhub : u ≠ 12 := by omega
  have htrip : (if 125 ≤ toSigned 8 temp then { c with pwr := { c.pwr with tripped := true } } else c)
      = ({ c with pwr := { c.pwr with tripped := c.pwr.tripped || decide (125 ≤ toSigned 8 temp) } } : Chip) := by
    split <;> simp [*]
  unfold Chip.tempSample
  simp only [htrip, hhub, if_false, Bool.or_false]
  refine Chip.Sensed.trans ?_ (Chip.Sensed.ratioCheckDie _ u)
  refine Chip.Sensed.trans ?_ (Chip.Sensed.dieIrqIf _ _ u _)
  exact Chip.Sensed.trans (Chip.Sensed.refl _ _) (Chip.Sensed.dieIrqIf _ _ u _)

/-- The fields of a die's sensor. -/
theorem Chip.get_thermFields (c e : Chip) {u temp : Nat} {f : Fld} {v : Nat} (h : (f, v) ∈ c.thermFields u temp) : (e.puts (c.thermFields u temp)).get f = v % 2 ^ f.width := by
  refine e.get_puts_mem ?_ h
  simp [Chip.thermFields, Reg.PWR_THERM.TEMP, Reg.PWR_THERM.WARN_ON, Reg.PWR_THERM.CRIT_ON, mkFld]

/-- What a sampled temperature leaves. -/
theorem State.tempSample_next {s : State} (u : Fin 13) (temp : BitVec 8) (hs : s.chip.halted = false) (hu : u.val < 12) :
    ∃ t, exec (.tempSample u temp false) s = .next t ∧ t.pending = s.pending ∧ t.chip.get (Reg.PWR_THERM.TEMP u.val) = temp.toNat
      ∧ t.chip.pwr.tripped = decide (125 ≤ toSigned 8 temp.toNat)
      ∧ t.chip.get (Reg.PWR_THERM.WARN_ON u.val)
          = b2n (thermFlag (s.chip.on (Reg.PWR_THERM.WARN_ON u.val)) (toSigned 8 temp.toNat) (toSigned 8 (s.chip.get (Reg.PWR_THERM.WARN u.val))))
      ∧ t.chip.get (Reg.PWR_THERM.CRIT_ON u.val)
          = b2n (thermFlag (bit s.chip.pwr.crit u.val) (toSigned 8 temp.toNat) (toSigned 8 (s.chip.get (Reg.PWR_THERM.CRIT u.val))))
      ∧ SameMemory s.chip t.chip ∧ t.chip.ctx = s.chip.ctx := by
  obtain ⟨p, htrip, hsense⟩ := Chip.tempSample_sensed (c := s.chip) temp.toNat hu
  have hfield : ∀ {f v}, (f, v) ∈ s.chip.thermFields u.val temp.toNat → (s.chip.tempSample u.val temp.toNat false).get f = v % 2 ^ f.width := fun {f v} hf => by
    refine (hsense.regs f fun g hg => ?_).trans (s.chip.get_thermFields _ hf)
    rw [List.mem_singleton.1 hg]
    simp only [Chip.thermFields, List.mem_cons, List.not_mem_nil, or_false, Prod.mk.injEq] at hf
    rcases hf with ⟨rfl, -⟩ | ⟨rfl, -⟩ | ⟨rfl, -⟩ <;> simp only [Reg.PWR_THERM.TEMP, Reg.PWR_THERM.WARN_ON, Reg.PWR_THERM.CRIT_ON, Reg.HUB_CORE_DIV.BUSY, mkFld] <;> omega
  have hflag : ∀ b, b2n b % 2 ^ 1 = b2n b := by decide
  have hcool : s.chip.pwr.tripped = false := by
    simp only [Chip.halted, Chip.clockless, Bool.or_eq_false_iff] at hs
    exact hs.1.1.2
  have hrest := hsense.rest
  rw [Chip.puts_rest] at hrest
  refine ⟨_, s.run_eq (fun c => c.tempSample u.val temp.toNat false) hs (by rw [hrest]), rfl, ?_, ?_, ?_, ?_, ?_, by rw [hrest]⟩
  · exact (hfield (by simp [Chip.thermFields])).trans (Nat.mod_eq_of_lt temp.isLt)
  · show (s.chip.tempSample u.val temp.toNat false).pwr.tripped = _
    rw [hrest]
    show p.tripped = _
    rw [htrip, hcool, Bool.false_or]
  · exact (hfield (by simp [Chip.thermFields])).trans (hflag _)
  · exact (hfield (by simp [Chip.thermFields])).trans (hflag _)
  · constructor <;> rw [hrest]

end Sys2Proof.Machine
end

section
/-! A context is reset (R73, R286, R373): what goes with it, and what stays. -/
namespace Sys2Proof.Machine

/-! ### What a context reset may change -/

/-- Fields of context x that its reset writes, and the count of lost samples. -/
def resetFields (x : Nat) : List Fld := Reg.PMU_SMP_CNT.LOST (ctxDie x) (ctxCore x) :: ctxFields x

/-- A reset of context x leaves what stands at an address that is none of these, of the locks, or of the tenants' entries. -/
structure ResetLeaves (x a : Nat) : Prop where
  own : ∀ g ∈ resetFields x, a ≠ g.addr
  lock : a < 8 * 0xCA000800 ∨ 8 * 0xCA000C00 ≤ a
  tenant : a < 8 * 0xC6100000 ∨ 8 * 0xC6200000 ≤ a

/-- Beside context x, its fields and those that count or follow it, a reset changes the core's units and line accesses. -/
structure Chip.Clears (a b : Chip) (x : Nat) : Prop where
  rest : b = { a with regs := b.regs, ctx := b.ctx, core := b.core, frozen := b.frozen, coh := { a.coh with ops := b.coh.ops, l3reqs := b.coh.l3reqs } }
  regs : ∀ f : Fld, ResetLeaves x f.addr → b.get f = a.get f
  others : ∀ y, y ≠ x → b.ctxOf y = a.ctxOf y
  c3 : ∀ k, (b.coreOf k).c3 = (a.coreOf k).c3

namespace Chip.Clears

theorem refl (a : Chip) (x : Nat) : a.Clears a x := ⟨rfl, fun _ _ => rfl, fun _ _ => rfl, fun _ => rfl⟩

theorem trans {a b c : Chip} {x : Nat} (h : a.Clears b x) (g : b.Clears c x) : a.Clears c x where
  rest := by rw [g.rest, h.rest]
  regs f hf := (g.regs f hf).trans (h.regs f hf)
  others y hy := (g.others y hy).trans (h.others y hy)
  c3 k := (g.c3 k).trans (h.c3 k)

/-- A field that a reset does not leave takes a value. -/
theorem put (c : Chip) {x : Nat} {f : Fld} (v : Nat) (hf : ¬ ResetLeaves x f.addr) : c.Clears (c.put f v) x where
  rest := rfl
  regs _ hg := Chip.get_put_ne c v fun e => hf (e ▸ hg)
  others _ _ := rfl
  c3 _ := rfl

theorem puts (c : Chip) {x : Nat} {l : List (Fld × Nat)} (h : ∀ p ∈ l, ¬ ResetLeaves x p.1.addr) : c.Clears (c.puts l) x := by
  induction l generalizing c with
  | nil => exact refl c x
  | cons p l ih => exact (put c p.2 (h p (by simp))).trans (ih _ fun q hq => h q (by simp [hq]))

theorem ctx (c : Chip) (x : Nat) (k : Ctx) : c.Clears (c.ctxSet x k) x where
  rest := rfl
  regs _ _ := rfl
  others _ hy := SMap.getD_put_ne _ _ _ _ hy
  c3 _ := rfl

theorem ctxMod (c : Chip) (x : Nat) (f : Ctx → Ctx) : c.Clears (c.ctxMod x f) x := ctx c x _

theorem core (c : Chip) (x k : Nat) (f : CoreSt → CoreSt) (hf : ∀ s, (f s).c3 = s.c3) : c.Clears (c.coreMod k f) x where
  rest := rfl
  regs _ _ := rfl
  others _ _ := rfl
  c3 j := by
    by_cases hj : j = k
    · subst hj
      rw [Chip.coreOf_coreMod_self, hf]
    · rw [Chip.coreOf_coreMod_ne _ _ hj]

theorem ops (c : Chip) (x : Nat) : c.Clears (c.dropOps x) x := ⟨rfl, fun _ _ => rfl, fun _ _ => rfl, fun _ => rfl⟩

end Chip.Clears

theorem not_resetLeaves_own {x : Nat} {g : Fld} (hg : g ∈ resetFields x) : ¬ ResetLeaves x g.addr := fun h => h.own g hg rfl

/-- One lock breaks, where a test picks it. -/
def Chip.breakLock (p : Nat → Bool) (c : Chip) (n : Nat) : Chip :=
  if c.on (Reg.CFG_LOCK.HELD n) && p n then (c.puts [(Reg.CFG_LOCK.HELD n, 0), (Reg.CFG_LOCK.BROKEN n, 1)]).count Reg.CFG_LOCK_CNT.BROKEN 1 else c

theorem Chip.breakLocks_eq (c : Chip) (p : Nat → Bool) : c.breakLocks p = (List.range 64).foldl (Chip.breakLock p) c := rfl

theorem not_resetLeaves_lock {x n : Nat} (hn : n < 64) {f : Fld} (hf : f ∈ [Reg.CFG_LOCK.HELD n, Reg.CFG_LOCK.BROKEN n, Reg.CFG_LOCK_CNT.BROKEN]) :
    ¬ ResetLeaves x f.addr := fun h => by
  have hrange := h.lock
  simp only [List.mem_cons, List.not_mem_nil, or_false] at hf
  rcases hf with rfl | rfl | rfl <;> simp only [Reg.CFG_LOCK.HELD, Reg.CFG_LOCK.BROKEN, Reg.CFG_LOCK_CNT.BROKEN, mkFld] at hrange <;> omega

theorem Chip.breakLock_clears (c : Chip) (x : Nat) (p : Nat → Bool) {n : Nat} (hn : n < 64) : c.Clears (c.breakLock p n) x ∧ (c.breakLock p n).frozen = c.frozen := by
  unfold Chip.breakLock
  split
  case isTrue =>
    refine ⟨(Chip.Clears.puts c fun q hq => ?_).trans (Chip.Clears.put _ _ (not_resetLeaves_lock hn (by simp))), Chip.puts_frozen _ _⟩
    simp only [List.mem_cons, List.not_mem_nil, or_false] at hq
    rcases hq with rfl | rfl <;> exact not_resetLeaves_lock hn (by simp)
  case isFalse => exact ⟨Chip.Clears.refl c x, rfl⟩

theorem Chip.foldl_breakLock_clears (x : Nat) (p : Nat → Bool) {l : List Nat} (hl : ∀ n ∈ l, n < 64) (c : Chip) :
    c.Clears (l.foldl (Chip.breakLock p) c) x ∧ (l.foldl (Chip.breakLock p) c).frozen = c.frozen := by
  induction l generalizing c with
  | nil => exact ⟨Chip.Clears.refl c x, rfl⟩
  | cons n l ih =>
    obtain ⟨hclear, hfrozen⟩ := c.breakLock_clears x p (hl n (by simp))
    obtain ⟨iclear, ifrozen⟩ := ih (fun m hm => hl m (by simp [hm])) (c.breakLock p n)
    exact ⟨hclear.trans iclear, ifrozen.trans hfrozen⟩

/-- An open sample is lost. -/
def Chip.sampleLost (c : Chip) (x : Nat) : Chip := if (c.ctxOf x).sample.isSome then c.count (Reg.PMU_SMP_CNT.LOST (ctxDie x) (ctxCore x)) 1 else c

theorem Chip.sampleLost_clears (c : Chip) (x : Nat) : c.Clears (c.sampleLost x) x ∧ (c.sampleLost x).frozen = c.frozen := by
  unfold Chip.sampleLost
  split
  · exact ⟨Chip.Clears.put _ _ (not_resetLeaves_own (by simp [resetFields])), rfl⟩
  · exact ⟨Chip.Clears.refl c x, rfl⟩

theorem Chip.ctxSync_clears (c : Chip) (x : Nat) : c.Clears (c.ctxSync x) x ∧ (c.ctxSync x).frozen = c.frozen := by
  refine ⟨Chip.Clears.puts c fun p hp => ?_, Chip.puts_frozen _ _⟩
  simp only [List.mem_cons, List.not_mem_nil, or_false] at hp
  rcases hp with rfl | rfl <;> exact not_resetLeaves_own (by simp [resetFields, ctxFields])

/-- What a context's queues are when all that it holds is discarded. -/
def Ctx.discarded (k : Ctx) : Ctx :=
  { k with pend := [], applied := 0, sq := [], stWait := [], loads := [], walk := none, fetchOp := 0, serial := none, trap := none, missOps := [],
           waitSq := false, waitFetch := false, sample := none }

/-- The core's shared units drop a context's jobs. -/
def CoreSt.unitsDropped (s : CoreSt) (x : Nat) : CoreSt := { s with units := s.units.filter (fun u => u.ctx != x) }

theorem Chip.ctxDiscard_eq (c : Chip) (x : Nat) :
    c.ctxDiscard x = (((((c.breakLocks (fun n => c.get (Reg.CFG_LOCK.OWNER n) == c.cxAgent x)).sampleLost x).dropOps x).coreMod (coreIx x)
      (fun s => s.unitsDropped x)).ctxMod x Ctx.discarded).ctxSync x := rfl

/-- What a context holds is discarded. -/
theorem Chip.ctxDiscard_clears (c : Chip) (x : Nat) : c.Clears (c.ctxDiscard x) x ∧ (c.ctxDiscard x).frozen = c.frozen := by
  rw [Chip.ctxDiscard_eq, Chip.breakLocks_eq]
  obtain ⟨hlocks, hfrozen⟩ := Chip.foldl_breakLock_clears x (fun n => c.get (Reg.CFG_LOCK.OWNER n) == c.cxAgent x) (fun n hn => List.mem_range.1 hn) c
  generalize List.foldl _ c _ = d at hlocks hfrozen ⊢
  obtain ⟨hlost, hlostFrozen⟩ := d.sampleLost_clears x
  have hrest := ((hlocks.trans hlost).trans (Chip.Clears.ops _ x)).trans (Chip.Clears.core _ x (coreIx x) (fun s => s.unitsDropped x) fun _ => rfl)
  obtain ⟨hsync, hsyncFrozen⟩ := Chip.ctxSync_clears ((((d.sampleLost x).dropOps x).coreMod (coreIx x) (fun s => s.unitsDropped x)).ctxMod x Ctx.discarded) x
  exact ⟨(hrest.trans (Chip.Clears.ctxMod _ x _)).trans hsync, hsyncFrozen.trans (hlostFrozen.trans hfrozen)⟩

/-- A frozen context is frozen no longer. -/
theorem Chip.unfreezeKey_clears (c : Chip) (x t : Nat) (ht : t < 4096) :
    c.Clears (c.unfreezeKey x t) x ∧ SMap.get? (c.unfreezeKey x t).frozen x = none := by
  unfold Chip.unfreezeKey
  split
  case isTrue =>
    refine ⟨?_, SMap.get?_erase_self _ _⟩
    refine Chip.Clears.trans (b := { c with frozen := SMap.erase c.frozen x }) ⟨rfl, fun _ _ => rfl, fun _ _ => rfl, fun _ => rfl⟩ (Chip.Clears.put _ _ fun h => ?_)
    have := h.tenant
    simp only [Reg.TNT_ENT.FROZEN, mkFld] at this
    omega
  case isFalse h => exact ⟨Chip.Clears.refl c x, by simpa using h⟩

/-- A context reset before its core chooses again. -/
def Chip.ctxCleared (c : Chip) (x : Nat) : Chip := (((c.unfreezeKey x (c.cxTenant x)).ctxDiscard x).ctxSet x Ctx.init).resetFlds (ctxFields x)

theorem Chip.ctxReset_eq (c : Chip) (x : Nat) : c.ctxReset x = if c.cxState x == cxRunning then (c.ctxCleared x).coreChoose (coreIx x) false else c.ctxCleared x := rfl

theorem Chip.resetFlds_eq (c : Chip) (l : List Fld) : c.resetFlds l = c.puts (l.map (fun f => (f, f.rst))) := by
  unfold Chip.resetFlds Chip.puts
  rw [List.foldl_map]

theorem nodup_ctxFields (x : Nat) : ((ctxFields x).map (fun f => f.addr)).Nodup := by
  simp only [ctxFields, List.map_cons, List.map_nil, List.nodup_cons, List.mem_cons, List.not_mem_nil, or_false, not_or, List.nodup_nil, not_false_eq_true, and_true,
    Reg.CORE_CTX_STATUS.STATE, Reg.CORE_CTX_STATUS.PEND, Reg.CORE_CTX_STATUS.MISS, Reg.CORE_CTX_STATUS.TENANT, Reg.CORE_CTX_STATUS.WORLD, Reg.CORE_CTX_STATUS.PRIV,
    Reg.REG_CTX_MAP.ENT, mkFld, ctxDie, ctxCore, ctxNum]
  omega

theorem Chip.ctxCleared_clears (c : Chip) (x : Nat) : c.Clears (c.ctxCleared x) x := by
  have htenant : c.cxTenant x < 4096 := c.get_lt _
  obtain ⟨hfree, -⟩ := c.unfreezeKey_clears x _ htenant
  obtain ⟨hdiscard, -⟩ := (c.unfreezeKey x (c.cxTenant x)).ctxDiscard_clears x
  unfold Chip.ctxCleared
  rw [Chip.resetFlds_eq]
  refine (hfree.trans (hdiscard.trans (Chip.Clears.ctx _ x _))).trans (Chip.Clears.puts _ fun p hp => ?_)
  obtain ⟨g, hg, rfl⟩ := List.mem_map.1 hp
  exact not_resetLeaves_own (by simp [resetFields, hg])

theorem Chip.ctxOf_ctxSet_self (c : Chip) (x : Nat) (k : Ctx) : (c.ctxSet x k).ctxOf x = k := SMap.getD_put_self _ _ _ _

theorem Chip.frozen_ctxSet (c : Chip) (x : Nat) (k : Ctx) : (c.ctxSet x k).frozen = c.frozen := rfl

/-- The context is then at its reset values. -/
theorem Chip.ctxOf_ctxCleared (c : Chip) (x : Nat) : (c.ctxCleared x).ctxOf x = Ctx.init := by
  unfold Chip.ctxCleared
  rw [Chip.resetFlds_eq, Chip.ctxOf_puts, Chip.ctxOf_ctxSet_self]

theorem Chip.get_ctxCleared (c : Chip) {x : Nat} {f : Fld} (hf : f ∈ ctxFields x) : (c.ctxCleared x).get f = f.rst % 2 ^ f.width := by
  unfold Chip.ctxCleared
  rw [Chip.resetFlds_eq]
  refine Chip.get_puts_mem _ ?_ (List.mem_map.2 ⟨f, hf, rfl⟩)
  rw [List.map_map]
  exact nodup_ctxFields x

theorem Chip.frozen_ctxCleared (c : Chip) (x : Nat) : SMap.get? (c.ctxCleared x).frozen x = none := by
  have htenant : c.cxTenant x < 4096 := c.get_lt _
  obtain ⟨-, hfree⟩ := c.unfreezeKey_clears x _ htenant
  obtain ⟨-, hdiscard⟩ := (c.unfreezeKey x (c.cxTenant x)).ctxDiscard_clears x
  unfold Chip.ctxCleared
  rw [Chip.resetFlds_eq, Chip.puts_frozen, Chip.frozen_ctxSet, hdiscard]
  exact hfree

theorem Chip.cxState_ctxCleared (c : Chip) (x : Nat) : (c.ctxCleared x).cxState x = cxOff := c.get_ctxCleared (f := fState x) (by simp [ctxFields, fState])

end Sys2Proof.Machine
end

section
/-! CORE_CTX_CTRL: a context starts, and is reset (R71, R73). -/
namespace Sys2Proof.Machine

/-! ### A write whose effect leaves the engine and the ports alone -/

/-- The configuration engine, the functions, the ports' windows and the OTP array are as they were. -/
structure Chip.EngineKept (a b : Chip) : Prop where
  stage : b.stage = a.stage
  fns : b.fns = a.fns
  windows : ∀ p < 8, b.get (Reg.PCI_WIN_SEL.OLD_BUSY p) = a.get (Reg.PCI_WIN_SEL.OLD_BUSY p)
  otp : b.otp = a.otp

namespace Chip.EngineKept

theorem refl (a : Chip) : a.EngineKept a := ⟨rfl, rfl, fun _ _ => rfl, rfl⟩

theorem trans {a b c : Chip} (h : a.EngineKept b) (g : b.EngineKept c) : a.EngineKept c :=
  ⟨g.stage.trans h.stage, g.fns.trans h.fns, fun p hp => (g.windows p hp).trans (h.windows p hp), g.otp.trans h.otp⟩

theorem puts (c : Chip) {l : List (Fld × Nat)} (h : ∀ p ∈ l, p.1.addr < 8 * 0xCB000000) : c.EngineKept (c.puts l) := by
  refine ⟨Chip.puts_stage _ _, Chip.puts_fns _ _, fun p _ => Chip.get_puts_ne _ _ fun q hq => ?_, by rw [Chip.puts_rest]⟩
  exact Reg.OLD_BUSY_ne_of_low (l := [q.1]) (by simpa using h q hq) _ (by simp)

/-- The turns of a core's contexts leave them. -/
theorem turned {a b : Chip} {k : Nat} (h : a.Turned b k) : a.EngineKept b where
  stage := by rw [h.rest]
  fns := by rw [h.rest]
  windows p hp := h.get (fun x => by simp only [Reg.PCI_WIN_SEL.OLD_BUSY, fState, Reg.CORE_CTX_STATUS.STATE, mkFld]; omega)
    (fun k => by simp only [Reg.PCI_WIN_SEL.OLD_BUSY, fCstate, Reg.PWR_CORE_STATUS.CSTATE, mkFld]; omega)
  otp := by rw [h.rest]

/-- So does a context's reset. -/
theorem clears {a b : Chip} {x : Nat} (h : a.Clears b x) (hx : x < 960) : a.EngineKept b where
  stage := by rw [h.rest]
  fns := by rw [h.rest]
  windows p hp := by
    refine h.regs _ ⟨fun g hg => Reg.OLD_BUSY_ne_of_low (l := resetFields x) (fun g hg => ?_) g hg, ?_, ?_⟩
    · simp only [resetFields, ctxFields, List.mem_cons, List.not_mem_nil, or_false] at hg
      rcases hg with rfl | rfl | rfl | rfl | rfl | rfl | rfl | rfl <;> simp only [Reg.PMU_SMP_CNT.LOST, Reg.CORE_CTX_STATUS.STATE, Reg.CORE_CTX_STATUS.PEND,
        Reg.CORE_CTX_STATUS.MISS, Reg.CORE_CTX_STATUS.TENANT, Reg.CORE_CTX_STATUS.WORLD, Reg.CORE_CTX_STATUS.PRIV, Reg.REG_CTX_MAP.ENT, mkFld, ctxDie, ctxCore, ctxNum] <;> omega
    · simp only [Reg.PCI_WIN_SEL.OLD_BUSY, mkFld]
      omega
    · simp only [Reg.PCI_WIN_SEL.OLD_BUSY, mkFld]
      omega
  otp := by rw [h.rest]

end Chip.EngineKept

/-- The next state is then the effect's, with the answer. -/
theorem State.action_next {s : State} {w : Who} {off v : Nat} (h : s.chip.writeRuns w off = true) (h8 : off % 8 = 0) (hs : off ≠ 0xC9C00020)
    (ht : off ≠ 0xCD000008) (he : ∀ c : Chip, Recorded s.chip c → c.EngineKept (c.csrAction w off v)) :
    ∃ c, Recorded s.chip c ∧ s.run (fun c => c.regWrite w off v)
      = .next { s with chip := { c.csrAction w off v with
          replies := (c.csrAction w off v).replies ++ [⟨w.agent, s.chip.csrAddr off, 0, false, false⟩] } } := by
  obtain ⟨c, hrec, hrun⟩ := State.regWrite_next (v := v) h h8 hs fun c hrec => by
    rw [Chip.atWrite_of_ne ht] at hrec
    have hc := he c hrec
    exact ⟨hc.stage, hc.fns, hc.windows, hc.otp⟩
  rw [Chip.atWrite_of_ne ht] at hrec
  exact ⟨c, hrec, hrun⟩

theorem Recorded.sameMemory {a b : Chip} (h : Recorded a b) : SameMemory a b := by
  constructor <;> rw [h.rest]

/-! ### What CORE_CTX_CTRL does -/

theorem withFields_start (d k n : Nat) : withFields 0 [(Reg.CORE_CTX_CTRL.START d k n, 1)] = 1 := by
  have haddr : (Reg.CORE_CTX_CTRL.START d k n).addr % 64 = 0 := by
    simp only [Reg.CORE_CTX_CTRL.START, mkFld]
    omega
  rw [withFields_single _ _ haddr]
  rfl

theorem withFields_reset (d k n : Nat) : withFields 0 [(Reg.CORE_CTX_CTRL.RESET d k n, 1)] = 2 := by
  have haddr : (Reg.CORE_CTX_CTRL.RESET d k n).addr % 64 = 1 := by
    simp only [Reg.CORE_CTX_CTRL.RESET, mkFld]
    omega
  have hwidth : (Reg.CORE_CTX_CTRL.RESET d k n).width = 1 := rfl
  rw [withFields, List.foldl_cons, List.foldl_nil, haddr, hwidth]
  rfl

theorem Chip.ctxCtrl_start (c : Chip) (w : Who) (x : Nat) : c.ctxCtrl w x 1 = if c.fwQuiet then c else c.ctxStart w.secure x := by
  have hstart : bit 1 0 = true := by decide
  have hreset : bit 1 1 = false := by decide
  unfold Chip.ctxCtrl
  simp only [hstart, hreset, Bool.false_eq_true, if_false, Bool.true_and]
  cases c.fwQuiet <;> simp

theorem Chip.ctxCtrl_reset (c : Chip) (w : Who) (x : Nat) :
    c.ctxCtrl w x 2 = if c.cxState x == cxRunning && (c.ctxOf x).serial.any (fun s => s.kind != .string)
      then c.ctxMod x (fun k => { k with resetWait := 1 }) else c.ctxResetThen x 1 := by
  have hstart : bit 2 0 = false := by decide
  have hreset : bit 2 1 = true := by decide
  unfold Chip.ctxCtrl
  simp only [hstart, hreset, Bool.false_and, Bool.false_eq_true, if_false, if_true]

/-- A context that is not OFF is not started again. -/
theorem Chip.ctxStart_of_on {c : Chip} {x : Nat} (secure : Bool) (h : c.cxState x ≠ cxOff) : c.ctxStart secure x = c := by
  unfold Chip.ctxStart
  rw [if_pos]
  simp [h]

/-- A context as START finds it: where it begins, in a world, at level H. -/
def Chip.ctxEntered (c : Chip) (secure : Bool) (x : Nat) : Chip :=
  (c.ctxMod x (fun k => { k with pc := 32 * c.get (Reg.CORE_CTX_ENTRY.ADDR (ctxDie x) (ctxCore x) (ctxNum x)), idx := 0 })).puts
    [(fWorld x, b2n secure), (fPriv x, 2)]

/-- START of an OFF context whose core enters no C3. -/
theorem Chip.ctxStart_of_off {c : Chip} {x : Nat} (secure : Bool) (hpresent : c.cxPresent x = true) (hon : c.on (Reg.PWR_CL_CTRL.OFF (ctxDie x) (ctxCore x / 4)) = false)
    (hoff : c.cxState x = cxOff) (hboot : c.bootStopped = false) (hc3 : c.noC3Entry (coreIx x)) : c.ctxStart secure x = (c.ctxEntered secure x).cxReadyNow x := by
  unfold Chip.ctxStart
  rw [if_neg (by simp [hpresent, hon, hoff, hboot]), Chip.c3Abandon_of_noC3Entry hc3]
  rfl

/-- A reset of a present context whose core enters no C3. -/
theorem Chip.ctxResetThen_eq {c : Chip} {x : Nat} (hpresent : c.cxPresent x = true) (hc3 : c.noC3Entry (coreIx x)) :
    c.ctxResetThen x 1 = (c.ctxReset x).coreWake (coreIx x) := by
  unfold Chip.ctxResetThen Chip.ctxResetEv
  simp [hpresent, Chip.c3Abandon_of_noC3Entry hc3]

/-! ### A context starts -/

/-- Fields of a context's status that a turn does not move. -/
theorem ctxStatus_notTurn {f : Fld} {x : Nat} (hf : f = fTenant x ∨ f = fWorld x ∨ f = fPriv x) : (∀ y, f.addr ≠ (fState y).addr) ∧ (∀ k, f.addr ≠ (fCstate k).addr) := by
  rcases hf with rfl | rfl | rfl <;> refine ⟨fun y => ?_, fun k => ?_⟩ <;>
    simp only [fTenant, fWorld, fPriv, fState, fCstate, Reg.CORE_CTX_STATUS.TENANT, Reg.CORE_CTX_STATUS.WORLD, Reg.CORE_CTX_STATUS.PRIV, Reg.CORE_CTX_STATUS.STATE,
      Reg.PWR_CORE_STATUS.CSTATE, mkFld] <;> omega

/-- A started context is at its entry, READY or running. -/
structure Chip.Started (c d : Chip) (secure : Bool) (x : Nat) : Prop where
  state : d.cxState x = cxReady ∨ d.cxState x = cxRunning
  world : d.cxSecure x = secure
  level : d.cxPriv x = 2
  tenant : d.cxTenant x = c.cxTenant x
  pc : (d.ctxOf x).pc = 32 * c.get (Reg.CORE_CTX_ENTRY.ADDR (ctxDie x) (ctxCore x) (ctxNum x))
  memory : SameMemory c d
  coh : d.coh = c.coh
  engine : c.EngineKept d

theorem Chip.get_ctxEntered (c : Chip) (secure : Bool) (x : Nat) : (c.ctxEntered secure x).get (fWorld x) = b2n secure ∧ (c.ctxEntered secure x).get (fPriv x) = 2
    ∧ (c.ctxEntered secure x).get (fTenant x) = c.get (fTenant x) := by
  have haddr : (fWorld x).addr ≠ (fPriv x).addr ∧ (fTenant x).addr ≠ (fWorld x).addr ∧ (fTenant x).addr ≠ (fPriv x).addr := by
    simp only [fWorld, fPriv, fTenant, Reg.CORE_CTX_STATUS.WORLD, Reg.CORE_CTX_STATUS.PRIV, Reg.CORE_CTX_STATUS.TENANT, mkFld]
    omega
  obtain ⟨hwp, htw, htp⟩ := haddr
  have hmem : ∀ f v, (f, v) ∈ [(fWorld x, b2n secure), (fPriv x, 2)] → (c.ctxEntered secure x).get f = v % 2 ^ f.width := fun f v hf =>
    Chip.get_puts_mem _ (by simpa using hwp) hf
  refine ⟨(hmem (fWorld x) (b2n secure) (by simp)).trans (by cases secure <;> rfl), hmem (fPriv x) 2 (by simp), ?_⟩
  exact Chip.get_puts_ne _ _ (by simp [htw, htp])

theorem Chip.ctxEntered_started (c : Chip) (secure : Bool) {x : Nat} (hx : x < 960) (hc3 : c.noC3Entry (coreIx x)) :
    c.Started ((c.ctxEntered secure x).cxReadyNow x) secure x := by
  have hturn := (c.ctxEntered secure x).cxReadyNow_turned x
  obtain ⟨hworld, hlevel, htenant⟩ := c.get_ctxEntered secure x
  have hget : ∀ f, f = fTenant x ∨ f = fWorld x ∨ f = fPriv x → ((c.ctxEntered secure x).cxReadyNow x).get f = (c.ctxEntered secure x).get f := fun f hf => by
    obtain ⟨hs, hc⟩ := ctxStatus_notTurn hf
    exact (hturn.get hs hc).trans (Chip.get_put_ne _ _ (hs x))
  have hrest : ∀ v, ((c.ctxEntered secure x).put (fState x) v)
      = { c with regs := ((c.ctxEntered secure x).put (fState x) v).regs, ctx := (c.ctxEntered secure x).ctx } := fun _ => rfl
  have hno : ((c.ctxEntered secure x).put (fState x) cxReady).noC3Entry (coreIx x) := by
    unfold Chip.noC3Entry
    rw [Chip.coreOf_put, Chip.ctxEntered, Chip.coreOf_puts]
    exact hc3
  exact {
    state := Chip.cxReadyNow_state _ x
    world := by
      unfold Chip.cxSecure Chip.on
      rw [hget _ (.inr (.inl rfl)), hworld]
      cases secure <;> rfl
    level := (hget _ (.inr (.inr rfl))).trans hlevel
    tenant := (hget _ (.inl rfl)).trans htenant
    pc := by
      rw [(hturn.sameRegs x).pc, Chip.ctxOf_put, Chip.ctxEntered, Chip.ctxOf_puts, Chip.ctxOf_ctxMod_self]
    memory := SameMemory.trans (b := (c.ctxEntered secure x).put (fState x) cxReady) (by constructor <;> rw [hrest]) hturn.sameMemory
    coh := (hturn.coh hno).1.trans (by rw [hrest])
    engine := by
      have hentered : c.EngineKept ((c.ctxMod x (fun k => { k with pc := 32 * c.get (Reg.CORE_CTX_ENTRY.ADDR (ctxDie x) (ctxCore x) (ctxNum x)), idx := 0 })).puts
          [(fWorld x, b2n secure), (fPriv x, 2), (fState x, cxReady)]) := by
        refine Chip.EngineKept.trans (b := c.ctxMod x _) ⟨rfl, rfl, fun _ _ => rfl, rfl⟩ (Chip.EngineKept.puts _ ?_)
        simp only [List.mem_cons, List.not_mem_nil, or_false, forall_eq_or_imp, forall_eq, fWorld, fPriv, fState, Reg.CORE_CTX_STATUS.WORLD, Reg.CORE_CTX_STATUS.PRIV,
          Reg.CORE_CTX_STATUS.STATE, mkFld, ctxDie, ctxCore, ctxNum]
        omega
      exact hentered.trans (Chip.EngineKept.turned hturn) }

/-- What a write of CORE_CTX_CTRL meets is what stood before its record. -/
structure CtrlMeets (a c : Chip) (x : Nat) : Prop where
  present : c.cxPresent x = a.cxPresent x
  c3 : c.coreOf (coreIx x) = a.coreOf (coreIx x)
  fwQuiet : c.fwQuiet = a.fwQuiet
  boot : c.bootStopped = a.bootStopped
  off : c.on (Reg.PWR_CL_CTRL.OFF (ctxDie x) (ctxCore x / 4)) = a.on (Reg.PWR_CL_CTRL.OFF (ctxDie x) (ctxCore x / 4))
  state : c.cxState x = a.cxState x
  tenant : c.cxTenant x = a.cxTenant x
  entry : c.get (Reg.CORE_CTX_ENTRY.ADDR (ctxDie x) (ctxCore x) (ctxNum x)) = a.get (Reg.CORE_CTX_ENTRY.ADDR (ctxDie x) (ctxCore x) (ctxNum x))

theorem Recorded.ctrlMeets {a c : Chip} (h : Recorded a c) {x : Nat} (hx : x < 960) : CtrlMeets a c x where
  present := by
    unfold Chip.cxPresent Chip.corePresent Chip.cluPresent Chip.diePresent Chip.presentWord
    rw [h.rest]
  c3 := by
    rw [h.rest]
    rfl
  fwQuiet := by
    unfold Chip.fwQuiet Chip.entering Chip.fwStep
    rw [h.get_outside (f := Reg.PWR_PK_STATUS.STATE) (by decide), h.get_outside (f := Reg.PWR_PK_STATUS.STEP) (by decide)]
  boot := by
    unfold Chip.bootStopped
    rw [h.get_outside (by decide)]
  off := by
    unfold Chip.on
    rw [h.get_outside (.inl (by simp only [Reg.PWR_CL_CTRL.OFF, mkFld, ctxDie, ctxCore]; omega))]
  state := h.get_outside (.inl (by simp only [fState, Reg.CORE_CTX_STATUS.STATE, mkFld, ctxDie, ctxCore, ctxNum]; omega))
  tenant := h.get_outside (.inl (by simp only [fTenant, Reg.CORE_CTX_STATUS.TENANT, mkFld, ctxDie, ctxCore, ctxNum]; omega))
  entry := h.get_outside (.inl (by simp only [Reg.CORE_CTX_ENTRY.ADDR, mkFld, ctxDie, ctxCore, ctxNum]; omega))

theorem exec_coreCtxStart (s : State) (w : Who) (x : Fin 960) : exec (.coreCtxStart w x) s = s.run (fun c => c.regWrite w (ctxCtrlOff x.val) 1) := by
  show s.run (fun c => c.fieldsWrite w 0 [(Reg.CORE_CTX_CTRL.START (x.val / 80) (x.val % 80 / 4) (x.val % 4), 1)]) = _
  simp only [Chip.fieldsWrite_cons, withFields_start, (ctxCtrlOff_eq x.val).1]

theorem exec_coreCtxReset (s : State) (w : Who) (x : Fin 960) : exec (.coreCtxReset w x) s = s.run (fun c => c.regWrite w (ctxCtrlOff x.val) 2) := by
  show s.run (fun c => c.fieldsWrite w 0 [(Reg.CORE_CTX_CTRL.RESET (x.val / 80) (x.val % 80 / 4) (x.val % 4), 1)]) = _
  simp only [Chip.fieldsWrite_cons, withFields_reset, (ctxCtrlOff_eq x.val).2]

/-- START of an OFF context. -/
theorem State.coreCtxStart_next {s : State} {w : Who} (x : Fin 960) (h : s.chip.writeRuns w (ctxCtrlOff x.val) = true) (hpresent : s.chip.cxPresent x.val = true)
    (hc3 : (s.chip.coreOf (coreIx x.val)).c3 = 0) (hfw : s.chip.fwQuiet = false) (hboot : s.chip.bootStopped = false)
    (hon : s.chip.on (Reg.PWR_CL_CTRL.OFF (ctxDie x.val) (ctxCore x.val / 4)) = false) (hoff : s.chip.cxState x.val = cxOff) :
    ∃ t, exec (.coreCtxStart w x) s = .next t ∧ t.pending = s.pending ∧ (t.chip.cxState x.val = cxReady ∨ t.chip.cxState x.val = cxRunning)
      ∧ t.chip.cxSecure x.val = w.secure ∧ t.chip.cxPriv x.val = 2 ∧ t.chip.cxTenant x.val = s.chip.cxTenant x.val
      ∧ (t.chip.ctxOf x.val).pc = 32 * s.chip.get (Reg.CORE_CTX_ENTRY.ADDR (ctxDie x.val) (ctxCore x.val) (ctxNum x.val))
      ∧ SameMemory s.chip t.chip ∧ t.chip.coh = s.chip.coh := by
  obtain ⟨h8, hlow⟩ := ctxCtrlOff_lt x.isLt
  have hstart : ∀ c, Recorded s.chip c → c.csrAction w (ctxCtrlOff x.val) 1 = (c.ctxEntered w.secure x.val).cxReadyNow x.val ∧ c.noC3Entry (coreIx x.val) :=
    fun c hrec => by
      have hmeets := hrec.ctrlMeets x.isLt
      have hno : c.noC3Entry (coreIx x.val) := by
        unfold Chip.noC3Entry
        rw [hmeets.c3, hc3]
        decide
      refine ⟨?_, hno⟩
      rw [Chip.csrAction_ctxCtrl c w 1 x.isLt, Chip.ctxCtrl_start, hmeets.fwQuiet, hfw, if_neg Bool.false_ne_true,
        Chip.ctxStart_of_off _ (hmeets.present.trans hpresent) (hmeets.off.trans hon) (hmeets.state.trans hoff) (hmeets.boot.trans hboot) hno]
  obtain ⟨c, hrec, hrun⟩ := State.action_next (v := 1) h h8 (by omega) (by omega) fun c hrec => by
    obtain ⟨heq, hno⟩ := hstart c hrec
    rw [heq]
    exact (c.ctxEntered_started w.secure x.isLt hno).engine
  obtain ⟨heq, hno⟩ := hstart c hrec
  rw [heq] at hrun
  have hmeets := hrec.ctrlMeets x.isLt
  have hstarted := c.ctxEntered_started w.secure x.isLt hno
  generalize (c.ctxEntered w.secure x.val).cxReadyNow x.val = d at hrun hstarted
  exact ⟨_, (exec_coreCtxStart s w x).trans hrun, rfl, hstarted.state, hstarted.world, hstarted.level, hstarted.tenant.trans hmeets.tenant, hstarted.pc.trans (by rw [hmeets.entry]),
    hrec.sameMemory.trans (hstarted.memory.trans ⟨rfl, rfl, rfl, rfl, rfl, rfl, rfl⟩), hstarted.coh.trans (by rw [hrec.rest])⟩

end Sys2Proof.Machine
end

section
/-! CORE_CTX_CTRL: a start that is none, a reset that waits, and a reset (R71, R73). -/
namespace Sys2Proof.Machine

/-! ### Contexts that no turn moves -/

/-- The core's choice leaves a context that is not READY. -/
theorem Chip.ctxOf_coreChoose (c : Chip) (k : Nat) (noCost : Bool) {x : Nat} (h : c.cxState x ≠ cxReady) : (c.coreChoose k noCost).ctxOf x = c.ctxOf x := by
  unfold Chip.coreChoose
  split
  case h_1 => rfl
  case h_2 =>
    split
    case h_1 => rfl
    case h_2 y hy =>
      have hready : c.cxState y = cxReady := by simpa using List.find?_some hy
      exact Chip.ctxOf_ctxMod_ne _ _ fun e => h (e ▸ hready)

/-- Waking a core that enters no C3 leaves its contexts. -/
theorem Chip.ctxOf_coreWake {c : Chip} {k : Nat} (h : c.noC3Entry k) (x : Nat) : (c.coreWake k).ctxOf x = c.ctxOf x := by
  unfold Chip.coreWake
  rw [Chip.c3Abandon_of_noC3Entry h]
  split_ifs <;> rfl

/-! ### A context is reset -/

/-- A context is at its reset values, OFF, unfrozen, with no tenant and in the Normal world. -/
structure Chip.WasReset (c d : Chip) (x : Nat) : Prop where
  state : d.cxState x = cxOff
  ctx : d.ctxOf x = Ctx.init
  tenant : d.cxTenant x = 0
  world : d.cxSecure x = false
  frozen : SMap.get? d.frozen x = none
  memory : SameMemory c d
  engine : c.EngineKept d

theorem Chip.Clears.sameMemory {a b : Chip} {x : Nat} (h : a.Clears b x) : SameMemory a b := by
  constructor <;> rw [h.rest]

theorem Chip.Clears.noC3Entry {a b : Chip} {x k : Nat} (h : a.Clears b x) (ha : a.noC3Entry k) : b.noC3Entry k := by
  unfold Chip.noC3Entry
  rw [h.c3]
  exact ha

theorem Chip.ctxCleared_wasReset (c : Chip) {x : Nat} (hx : x < 960) : c.WasReset (c.ctxCleared x) x where
  state := c.cxState_ctxCleared x
  ctx := c.ctxOf_ctxCleared x
  tenant := c.get_ctxCleared (f := fTenant x) (by simp [ctxFields, fTenant])
  world := congrArg (· == 1) (c.get_ctxCleared (f := fWorld x) (by simp [ctxFields, fWorld]))
  frozen := c.frozen_ctxCleared x
  memory := (c.ctxCleared_clears x).sameMemory
  engine := Chip.EngineKept.clears (c.ctxCleared_clears x) hx

/-- A turn that leaves its context leaves it reset. -/
theorem Chip.WasReset.turned {c d e : Chip} {x k : Nat} (h : c.WasReset d x) (g : d.Turned e k) (hctx : e.ctxOf x = d.ctxOf x) : c.WasReset e x := by
  obtain ⟨hts, htc⟩ := ctxStatus_notTurn (f := fTenant x) (x := x) (.inl rfl)
  obtain ⟨hws, hwc⟩ := ctxStatus_notTurn (f := fWorld x) (x := x) (.inr (.inl rfl))
  exact {
    state := (g.state_of_ne (by rw [h.state]; decide)).trans h.state
    ctx := hctx.trans h.ctx
    tenant := (g.get hts htc).trans h.tenant
    world := (congrArg (· == 1) (g.get hws hwc)).trans h.world
    frozen := by
      rw [g.rest]
      exact h.frozen
    memory := h.memory.trans g.sameMemory
    engine := h.engine.trans (Chip.EngineKept.turned g) }

theorem Chip.ctxReset_wasReset (c : Chip) {x : Nat} (hx : x < 960) (hc3 : c.noC3Entry (coreIx x)) :
    c.WasReset (c.ctxReset x) x ∧ (c.ctxReset x).noC3Entry (coreIx x) := by
  have hclear := c.ctxCleared_wasReset hx
  have hno : (c.ctxCleared x).noC3Entry (coreIx x) := (c.ctxCleared_clears x).noC3Entry hc3
  rw [Chip.ctxReset_eq]
  split
  · have hturn := (c.ctxCleared x).coreChoose_turned (coreIx x) false
    exact ⟨hclear.turned hturn (Chip.ctxOf_coreChoose _ _ _ (by rw [hclear.state]; decide)), (hturn.coh hno).2⟩
  · exact ⟨hclear, hno⟩

/-- CORE_CTX_CTRL.RESET of a context whose core enters no C3. -/
theorem Chip.ctxResetThen_wasReset (c : Chip) {x : Nat} (hx : x < 960) (hpresent : c.cxPresent x = true) (hc3 : c.noC3Entry (coreIx x)) :
    c.WasReset (c.ctxResetThen x 1) x := by
  obtain ⟨hreset, hno⟩ := c.ctxReset_wasReset hx hc3
  rw [Chip.ctxResetThen_eq hpresent hc3]
  exact hreset.turned (Chip.coreWake_turned _ _) (Chip.ctxOf_coreWake hno x)

/-! ### The written commands -/

/-- START of a context that is not OFF does nothing. -/
theorem State.coreCtxStart_on {s : State} {w : Who} (x : Fin 960) (h : s.chip.writeRuns w (ctxCtrlOff x.val) = true) (hon : s.chip.cxState x.val ≠ cxOff) :
    ∃ t, exec (.coreCtxStart w x) s = .next t ∧ t.pending = s.pending ∧ WroteOnly s.chip t.chip w (ctxCtrlOff x.val) [] := by
  obtain ⟨h8, hlow⟩ := ctxCtrlOff_lt x.isLt
  have hact : ∀ c, Recorded s.chip c → c.csrAction w (ctxCtrlOff x.val) 1 = c := fun c hrec => by
    rw [Chip.csrAction_ctxCtrl c w 1 x.isLt, Chip.ctxCtrl_start, Chip.ctxStart_of_on _ (by rw [(hrec.ctrlMeets x.isLt).state]; exact hon), ite_self]
  obtain ⟨c, t, hrec, hrun, hpend, -, hctx, hpwr, hwrote⟩ := State.powerWrite_next (v := 1) (l := []) h h8 (by omega) (by omega)
    (fun c hrec => by rw [hact c hrec]; exact PowerFields.refl c) (by simp)
  rw [hact c hrec] at hctx hpwr
  have hctx' : t.chip.ctx = s.chip.ctx := hctx.trans (by rw [hrec.rest])
  have hpwr' : t.chip.pwr = s.chip.pwr := hpwr.trans (by rw [hrec.rest])
  rw [hctx', hpwr'] at hwrote
  exact ⟨t, (exec_coreCtxStart s w x).trans hrun, hpend, hwrote⟩

/-- RESET during a serialising operation that is no string operation waits for its end. -/
theorem State.coreCtxReset_waits {s : State} {w : Who} (x : Fin 960) {q : Serial} (h : s.chip.writeRuns w (ctxCtrlOff x.val) = true)
    (hrunning : s.chip.cxState x.val = cxRunning) (hserial : (s.chip.ctxOf x.val).serial = some q) (hkind : q.kind ≠ .string) :
    ∃ t, exec (.coreCtxReset w x) s = .next t ∧ t.pending = s.pending ∧ t.chip.ctxOf x.val = { s.chip.ctxOf x.val with resetWait := 1 }
      ∧ (∀ y, y ≠ x.val → t.chip.ctxOf y = s.chip.ctxOf y) ∧ WroteOnly { s.chip with ctx := t.chip.ctx } t.chip w (ctxCtrlOff x.val) [] := by
  obtain ⟨h8, hlow⟩ := ctxCtrlOff_lt x.isLt
  have hctxOf : ∀ c, Recorded s.chip c → ∀ y, c.ctxOf y = s.chip.ctxOf y := fun c hrec y => by
    rw [hrec.rest]
    rfl
  have hact : ∀ c, Recorded s.chip c → c.csrAction w (ctxCtrlOff x.val) 2 = c.ctxMod x.val (fun k => { k with resetWait := 1 }) := fun c hrec => by
    rw [Chip.csrAction_ctxCtrl c w 2 x.isLt, Chip.ctxCtrl_reset, if_pos]
    rw [(hrec.ctrlMeets x.isLt).state, hrunning, hctxOf c hrec, hserial]
    simpa using hkind
  obtain ⟨c, t, hrec, hrun, hpend, -, hctx, hpwr, hwrote⟩ := State.powerWrite_next (v := 2) (l := []) h h8 (by omega) (by omega)
    (fun c hrec => by rw [hact c hrec]; exact ⟨rfl, fun _ _ => rfl, rfl⟩) (by simp)
  rw [hact c hrec] at hctx hpwr
  have hmine : ∀ y, t.chip.ctxOf y = (c.ctxMod x.val (fun k => { k with resetWait := 1 })).ctxOf y := fun y => congrArg (fun m => SMap.getD m y Ctx.init) hctx
  have hpwr' : t.chip.pwr = s.chip.pwr := hpwr.trans (by show c.pwr = _; rw [hrec.rest])
  rw [hpwr'] at hwrote
  refine ⟨t, (exec_coreCtxReset s w x).trans hrun, hpend, ?_, fun y hy => ?_, hwrote⟩
  · rw [hmine, Chip.ctxOf_ctxMod_self, hctxOf c hrec]
  · rw [hmine, Chip.ctxOf_ctxMod_ne _ _ hy, hctxOf c hrec]

/-- RESET of any other context. -/
theorem State.coreCtxReset_next {s : State} {w : Who} (x : Fin 960) (h : s.chip.writeRuns w (ctxCtrlOff x.val) = true) (hpresent : s.chip.cxPresent x.val = true)
    (hc3 : (s.chip.coreOf (coreIx x.val)).c3 = 0) (hserial : s.chip.cxState x.val = cxRunning → (s.chip.ctxOf x.val).serial = none) :
    ∃ t, exec (.coreCtxReset w x) s = .next t ∧ t.pending = s.pending ∧ t.chip.cxState x.val = cxOff ∧ t.chip.ctxOf x.val = Ctx.init
      ∧ t.chip.cxTenant x.val = 0 ∧ t.chip.cxSecure x.val = false ∧ SMap.get? t.chip.frozen x.val = none ∧ SameMemory s.chip t.chip := by
  obtain ⟨h8, hlow⟩ := ctxCtrlOff_lt x.isLt
  have hact : ∀ c, Recorded s.chip c → c.csrAction w (ctxCtrlOff x.val) 2 = c.ctxResetThen x.val 1 ∧ c.WasReset (c.ctxResetThen x.val 1) x.val := fun c hrec => by
    have hmeets := hrec.ctrlMeets x.isLt
    have hctx : c.ctxOf x.val = s.chip.ctxOf x.val := by
      rw [hrec.rest]
      rfl
    have hno : c.noC3Entry (coreIx x.val) := by
      unfold Chip.noC3Entry
      rw [hmeets.c3, hc3]
      decide
    refine ⟨?_, c.ctxResetThen_wasReset x.isLt (hmeets.present.trans hpresent) hno⟩
    rw [Chip.csrAction_ctxCtrl c w 2 x.isLt, Chip.ctxCtrl_reset, if_neg]
    rw [hmeets.state, hctx]
    intro hwait
    obtain ⟨hrunning, hany⟩ := Bool.and_eq_true_iff.1 hwait
    rw [hserial (by simpa using hrunning)] at hany
    cases hany
  obtain ⟨c, hrec, hrun⟩ := State.action_next (v := 2) h h8 (by omega) (by omega) fun c hrec => by
    obtain ⟨heq, hreset⟩ := hact c hrec
    rw [heq]
    exact hreset.engine
  obtain ⟨heq, hreset⟩ := hact c hrec
  rw [heq] at hrun
  generalize c.ctxResetThen x.val 1 = d at hrun hreset
  exact ⟨_, (exec_coreCtxReset s w x).trans hrun, rfl, hreset.state, hreset.ctx, hreset.tenant, hreset.world, hreset.frozen,
    hrec.sameMemory.trans (hreset.memory.trans ⟨rfl, rfl, rfl, rfl, rfl, rfl, rfl⟩)⟩

end Sys2Proof.Machine
end

section
/-! PWR_CL_CTRL: a cluster's power control is written (R405, R407). -/
namespace Sys2Proof.Machine

variable {c a : Chip} {w : Who} {d cl v : Nat}

/-! ### The answers -/

/-- What a write of PWR_CL_CTRL reports. -/
def clSaid (d cl r : Nat) : List (Fld × Nat) := [(Reg.PWR_DIE_RESULT.RESULT d, r), (Reg.PWR_DIE_RESULT.CLUSTER d, cl)]

/-- What it sets beside OFF. -/
def clSet (d cl v : Nat) : List (Fld × Nat) := [(Reg.PWR_CL_CTRL.C3_EN d cl, bits v 0 1), (Reg.PWR_CL_CTRL.C3_IDLE d cl, bits v 16 16)]

theorem Chip.clCtrl_of_denied (hp : c.cluPresent d cl = true) (h : c.clDenied w d cl = true) : c.clCtrl w d cl v = c.puts (clSaid d cl prDenied) := by
  unfold Chip.clCtrl
  simp only [hp, h, Bool.not_true, Bool.false_eq_true, if_false, if_true]
  rfl

theorem Chip.clCtrl_of_same (hp : c.cluPresent d cl = true) (h : c.clDenied w d cl = false) (hoff : bit v 1 = c.on (Reg.PWR_CL_CTRL.OFF d cl)) :
    c.clCtrl w d cl v = c.puts (clSet d cl v ++ clSaid d cl prDone) := by
  rw [Chip.puts_append]
  unfold Chip.clCtrl
  simp only [hp, h, hoff, Bool.not_true, Bool.false_eq_true, if_false, Bool.and_not_self, Bool.not_and_self]
  rfl

theorem Chip.clCtrl_of_busy (hp : c.cluPresent d cl = true) (h : c.clDenied w d cl = false) (hv : bit v 1 = true) (hwas : c.on (Reg.PWR_CL_CTRL.OFF d cl) = false)
    (hbusy : c.on (Reg.CL_L2_STATUS.DRAINED d cl) = false ∨ ∃ x ∈ cluCtxs d cl, c.cxState x ≠ cxOff) :
    c.clCtrl w d cl v = c.puts (clSaid d cl prBadState) := by
  have hno : (c.on (Reg.CL_L2_STATUS.DRAINED d cl) && (cluCtxs d cl).all (fun x => c.cxState x == cxOff)) = false := by
    rcases hbusy with hl2 | ⟨x, hx, hstate⟩
    · rw [hl2, Bool.false_and]
    · rw [List.all_eq_false.2 ⟨x, hx, by simpa using hstate⟩, Bool.and_false]
  unfold Chip.clCtrl
  simp only [hp, h, hv, hwas, hno, Bool.not_true, Bool.not_false, Bool.and_self, Bool.false_eq_true, if_false, if_true]
  rfl

theorem Chip.clCtrl_of_off (hp : c.cluPresent d cl = true) (h : c.clDenied w d cl = false) (hv : bit v 1 = true) (hwas : c.on (Reg.PWR_CL_CTRL.OFF d cl) = false)
    (hl2 : c.on (Reg.CL_L2_STATUS.DRAINED d cl) = true) (hctx : ∀ x ∈ cluCtxs d cl, c.cxState x = cxOff) :
    c.clCtrl w d cl v = ((c.puts (clSet d cl v)).cluOff d cl).puts (clSaid d cl prDone) := by
  have hall : (cluCtxs d cl).all (fun x => c.cxState x == cxOff) = true := List.all_eq_true.2 fun x hx => by simp [hctx x hx]
  unfold Chip.clCtrl
  simp only [hp, h, hv, hwas, hl2, hall, Bool.not_true, Bool.not_false, Bool.and_self, Bool.false_eq_true, if_false, if_true]
  rfl

theorem Chip.clCtrl_of_on (hp : c.cluPresent d cl = true) (h : c.clDenied w d cl = false) (hv : bit v 1 = false) (hwas : c.on (Reg.PWR_CL_CTRL.OFF d cl) = true) :
    c.clCtrl w d cl v = ((c.puts (clSet d cl v)).cluOn d cl).puts (clSaid d cl prDone) := by
  unfold Chip.clCtrl
  simp only [hp, h, hv, hwas, Bool.not_true, Bool.not_false, Bool.and_self, Bool.false_eq_true, if_false, if_true]
  rfl

/-! ### What a write meets -/

theorem Recorded.cluPresent (h : Recorded a c) : c.cluPresent d cl = a.cluPresent d cl := by
  unfold Chip.cluPresent Chip.diePresent Chip.presentWord
  rw [h.rest]

theorem Recorded.clDenied (h : Recorded a c) : c.clDenied w d cl = a.clDenied w d cl := by
  unfold Chip.clDenied Chip.cluOwned Chip.bitOf
  rw [h.get_outside (f := Reg.SEC_OWN0.CLUSTERS) (by decide), h.get_outside (f := Reg.SEC_OWN1.BLOCKS) (by decide)]

theorem Recorded.cluIsOff (h : Recorded a c) (hd : d < 12) (hcl : cl < 5) : c.on (Reg.PWR_CL_CTRL.OFF d cl) = a.on (Reg.PWR_CL_CTRL.OFF d cl) := by
  unfold Chip.on
  rw [h.get_outside (.inl (by simp only [Reg.PWR_CL_CTRL.OFF, mkFld]; omega))]

theorem Recorded.drained (h : Recorded a c) (hd : d < 12) (hcl : cl < 5) : c.on (Reg.CL_L2_STATUS.DRAINED d cl) = a.on (Reg.CL_L2_STATUS.DRAINED d cl) := by
  unfold Chip.on
  rw [h.get_outside (.inl (by simp only [Reg.CL_L2_STATUS.DRAINED, mkFld]; omega))]

theorem cluCtxs_lt {x : Nat} (hd : d < 12) (hcl : cl < 5) (hx : x ∈ cluCtxs d cl) : x < 960 := by
  simp only [cluCtxs, List.mem_map, List.mem_range] at hx
  obtain ⟨i, hi, rfl⟩ := hx
  omega

/-! ### Writes with an answer alone -/

/-- Fields that a write of PWR_CL_CTRL names, in the order of its effect. -/
theorem nodup_clFields (d v r : Nat) (hcl : cl < 5) : ((clSet d cl v ++ clSaid d cl r).map (fun p => p.1.addr)).Nodup := by
  simp only [clSet, clSaid, List.cons_append, List.nil_append, List.map_cons, List.map_nil, List.nodup_cons, List.mem_cons, List.not_mem_nil, or_false, not_or,
    List.nodup_nil, not_false_eq_true, and_true, Reg.PWR_CL_CTRL.C3_EN, Reg.PWR_CL_CTRL.C3_IDLE, Reg.PWR_DIE_RESULT.RESULT, Reg.PWR_DIE_RESULT.CLUSTER, mkFld]
  omega

theorem nodup_clSaid (d cl r : Nat) : ((clSaid d cl r).map (fun p => p.1.addr)).Nodup := by
  simp only [clSaid, List.map_cons, List.map_nil, List.nodup_cons, List.mem_singleton, List.not_mem_nil, not_false_eq_true, List.nodup_nil, and_true,
    Reg.PWR_DIE_RESULT.RESULT, Reg.PWR_DIE_RESULT.CLUSTER, mkFld]
  omega

theorem Chip.get_clSaid (e : Chip) (d cl : Nat) {r : Nat} (hr : r < 4) : (e.puts (clSaid d cl r)).get (Reg.PWR_DIE_RESULT.RESULT d) = r :=
  (e.get_puts_mem (f := Reg.PWR_DIE_RESULT.RESULT d) (v := r) (nodup_clSaid d cl r) (by simp [clSaid])).trans (Nat.mod_eq_of_lt hr)

theorem exec_pwrClCtrlWrite (s : State) (w : Who) (d : Fin 12) (cl : Fin 5) (v : Word) :
    exec (.pwrClCtrlWrite w d cl v) s = s.run (fun c => c.regWrite w (clCtrlOff d.val cl.val) v.toNat) := by
  show s.run (fun c => c.regWrite w (Reg.PWR_CL_CTRL.C3_EN d.val cl.val).off v.toNat) = _
  rw [clCtrlOff_eq]

/-- A write whose effect is a list of fields. -/
theorem State.clCtrl_puts {s : State} {w : Who} {d : Fin 12} {cl : Fin 5} {v : Word} (l : List (Fld × Nat)) (h : s.chip.writeRuns w (clCtrlOff d.val cl.val) = true)
    (hl : ∀ p ∈ l, p.1 ∈ [Reg.PWR_CL_CTRL.C3_EN d.val cl.val, Reg.PWR_CL_CTRL.C3_IDLE d.val cl.val, Reg.PWR_DIE_RESULT.RESULT d.val, Reg.PWR_DIE_RESULT.CLUSTER d.val])
    (he : ∀ c : Chip, Recorded s.chip c → c.clCtrl w d.val cl.val v.toNat = c.puts l) :
    ∃ (c : Chip) (t : State), exec (.pwrClCtrlWrite w d cl v) s = .next t ∧ t.pending = s.pending ∧ (∀ f, t.chip.get f = (c.puts l).get f)
      ∧ WroteOnly s.chip t.chip w (clCtrlOff d.val cl.val) (l.map (·.1)) := by
  obtain ⟨h8, hlow⟩ := clCtrlOff_lt d.isLt cl.isLt
  have hact : ∀ c, Recorded s.chip c → c.csrAction w (clCtrlOff d.val cl.val) v.toNat = c.puts l := fun c hrec => by
    rw [Chip.csrAction_pwrClCtrl c w _ d.isLt cl.isLt, he c hrec]
  have haddr : ∀ g ∈ l.map (·.1), g.addr < 8 * 0xCB000000 := fun g hg => by
    obtain ⟨p, hp, rfl⟩ := List.mem_map.1 hg
    have := hl p hp
    simp only [List.mem_cons, List.not_mem_nil, or_false] at this
    rcases this with hf | hf | hf | hf <;> rw [hf] <;>
      simp only [Reg.PWR_CL_CTRL.C3_EN, Reg.PWR_CL_CTRL.C3_IDLE, Reg.PWR_DIE_RESULT.RESULT, Reg.PWR_DIE_RESULT.CLUSTER, mkFld] <;> omega
  obtain ⟨c, t, hrec, hrun, hpend, hregs, hctx, hpwr, hwrote⟩ := State.powerWrite_next (v := v.toNat) (l := l.map (·.1)) h h8 (by omega) (by omega)
    (fun c hrec => by rw [hact c hrec]; exact PowerFields.puts c l fun p hp => List.mem_map_of_mem hp) (fun p _ => Reg.OLD_BUSY_ne_of_low haddr)
  rw [hact c hrec] at hregs hctx hpwr
  have hctx' : t.chip.ctx = s.chip.ctx := hctx.trans (by rw [Chip.puts_ctx, hrec.rest])
  have hpwr' : t.chip.pwr = s.chip.pwr := hpwr.trans (by rw [Chip.puts_pwr, hrec.rest])
  rw [hctx', hpwr'] at hwrote
  exact ⟨c, t, (exec_pwrClCtrlWrite s w d cl v).trans hrun, hpend, fun f => congrArg (fun r : RegFile => r.get f) hregs, hwrote⟩

/-! ### A cluster is powered down and up -/

/-- A context's STATE is left by another one's reset. -/
theorem fState_resetLeaves {x y : Nat} (h : y ≠ x) (hy : y < 960) : ResetLeaves x (fState y).addr := by
  refine ⟨fun g hg => ?_, ?_, ?_⟩
  · simp only [resetFields, ctxFields, List.mem_cons, List.not_mem_nil, or_false] at hg
    rcases hg with rfl | rfl | rfl | rfl | rfl | rfl | rfl | rfl <;> simp only [fState, Reg.PMU_SMP_CNT.LOST, Reg.CORE_CTX_STATUS.STATE, Reg.CORE_CTX_STATUS.PEND,
      Reg.CORE_CTX_STATUS.MISS, Reg.CORE_CTX_STATUS.TENANT, Reg.CORE_CTX_STATUS.WORLD, Reg.CORE_CTX_STATUS.PRIV, Reg.REG_CTX_MAP.ENT, mkFld, ctxDie, ctxCore, ctxNum] <;> omega
  · simp only [fState, Reg.CORE_CTX_STATUS.STATE, mkFld, ctxDie, ctxCore, ctxNum]
    omega
  · simp only [fState, Reg.CORE_CTX_STATUS.STATE, mkFld, ctxDie, ctxCore, ctxNum]
    omega

/-- Contexts that are OFF are reset, one after another. -/
theorem Chip.foldl_ctxReset {l : List Nat} (hl : ∀ x ∈ l, x < 960) (c : Chip) (hoff : ∀ x ∈ l, c.cxState x = cxOff) :
    c.EngineKept (l.foldl (fun c x => c.ctxReset x) c) ∧ ∀ x, x ∈ l ∨ c.ctxOf x = Ctx.init → (l.foldl (fun c x => c.ctxReset x) c).ctxOf x = Ctx.init := by
  induction l generalizing c with
  | nil => exact ⟨Chip.EngineKept.refl c, by simp⟩
  | cons x l ih =>
    have hx := hl x (by simp)
    have hstep : c.ctxReset x = c.ctxCleared x := by
      rw [Chip.ctxReset_eq, if_neg (by rw [hoff x (by simp)]; decide)]
    have hclear := c.ctxCleared_clears x
    have hstates : ∀ y ∈ l, (c.ctxCleared x).cxState y = cxOff := fun y hy => by
      by_cases hyx : y = x
      · rw [hyx, Chip.cxState_ctxCleared]
      · exact (hclear.regs _ (fState_resetLeaves hyx (hl y (by simp [hy])))).trans (hoff y (by simp [hy]))
    obtain ⟨hengine, hinit⟩ := ih (fun y hy => hl y (by simp [hy])) (c.ctxCleared x) hstates
    rw [List.foldl_cons, hstep]
    refine ⟨(Chip.EngineKept.clears hclear hx).trans hengine, fun y hy => hinit y ?_⟩
    by_cases hyx : y = x
    · exact .inr (by rw [hyx, Chip.ctxOf_ctxCleared])
    · rcases hy with hy | hy
      · exact .inl ((List.mem_cons.1 hy).resolve_left hyx)
      · exact .inr ((hclear.others y hyx).trans hy)

/-- Core k loses its power: its L1s and its account go, and it reads as off. -/
def Chip.coreDark (c : Chip) (k : Nat) : Chip :=
  ({ c with coh := { c.coh with l1i := c.coh.l1i.dropAt 1024 k, l1d := c.coh.l1d.dropAt 1024 k }, core := SMap.erase c.core k } : Chip).put (fCstate k) 3

/-- Core k's power comes back. -/
def Chip.coreLit (c : Chip) (k : Nat) : Chip := c.put (fCstate k) 0

/-- Cores that one after another take a CSTATE, and change nothing that an engine or a context holds. -/
theorem Chip.foldl_cstate {f : Chip → Nat → Chip} {n : Nat} (hn : n < 4) (hf : ∀ c k, ∃ h m, f c k = ({ c with coh := h, core := m } : Chip).put (fCstate k) n) {l : List Nat}
    (hl : ∀ k ∈ l, k < 240) (c : Chip) :
    c.EngineKept (l.foldl f c) ∧ (l.foldl f c).ctx = c.ctx ∧ ∀ k, k ∈ l ∨ c.cstate k = n → (l.foldl f c).cstate k = n := by
  induction l generalizing c with
  | nil => exact ⟨Chip.EngineKept.refl c, rfl, by simp⟩
  | cons k l ih =>
    obtain ⟨h, m, heq⟩ := hf c k
    obtain ⟨hengine, hctx, hstate⟩ := ih (fun j hj => hl j (by simp [hj])) (f c k)
    have hk := hl k (by simp)
    have hstep : c.EngineKept (f c k) := by
      rw [heq]
      refine Chip.EngineKept.trans (b := { c with coh := h, core := m }) ⟨rfl, rfl, fun _ _ => rfl, rfl⟩ (Chip.EngineKept.puts (l := [(fCstate k, n)]) _ ?_)
      simp only [List.mem_singleton, forall_eq, fCstate, Reg.PWR_CORE_STATUS.CSTATE, mkFld]
      omega
    refine ⟨hstep.trans hengine, hctx.trans (by rw [heq]; rfl), fun j hj => hstate j ?_⟩
    by_cases hjk : j = k
    · refine .inr ?_
      rw [heq, hjk, Chip.cstate_put_self]
      exact Nat.mod_eq_of_lt hn
    · rcases hj with hj | hj
      · exact .inl ((List.mem_cons.1 hj).resolve_left hjk)
      · refine .inr ?_
        rw [heq, Chip.cstate_put_ne _ _ (fCstate_ne hjk)]
        exact hj

theorem cluCores_lt {k : Nat} (hd : d < 12) (hcl : cl < 5) (hk : k ∈ cluCores d cl) : k < 240 := by
  simp only [cluCores, List.mem_map, List.mem_range] at hk
  obtain ⟨i, hi, rfl⟩ := hk
  omega

/-- OFF takes a value, and the write is answered. -/
def Chip.clAnswered (e : Chip) (d cl : Nat) (b : Bool) : Chip := (e.put (Reg.PWR_CL_CTRL.OFF d cl) (b2n b)).puts (clSaid d cl prDone)

/-- Neither OFF nor a core's state is of the answer. -/
theorem not_clSaid {d cl r : Nat} {f : Fld} (hf : f = Reg.PWR_CL_CTRL.OFF d cl ∨ ∃ k, f = fCstate k) : ∀ p ∈ clSaid d cl r, f.addr ≠ p.1.addr := by
  intro p hp
  simp only [clSaid, List.mem_cons, List.not_mem_nil, or_false] at hp
  rcases hf with rfl | ⟨k, rfl⟩ <;> rcases hp with rfl | rfl <;>
    simp only [fCstate, Reg.PWR_CORE_STATUS.CSTATE, Reg.PWR_CL_CTRL.OFF, Reg.PWR_DIE_RESULT.RESULT, Reg.PWR_DIE_RESULT.CLUSTER, mkFld] <;> omega

theorem Chip.clAnswered_engine (e : Chip) {d cl : Nat} (b : Bool) (hd : d < 12) (hcl : cl < 5) : e.EngineKept (e.clAnswered d cl b) := by
  have hoff : e.EngineKept (e.puts [(Reg.PWR_CL_CTRL.OFF d cl, b2n b)]) := Chip.EngineKept.puts e (by
    simp only [List.mem_singleton, forall_eq, Reg.PWR_CL_CTRL.OFF, mkFld]
    omega)
  refine hoff.trans (Chip.EngineKept.puts _ ?_)
  simp only [clSaid, List.mem_cons, List.not_mem_nil, or_false, forall_eq_or_imp, forall_eq, Reg.PWR_DIE_RESULT.RESULT, Reg.PWR_DIE_RESULT.CLUSTER, mkFld]
  omega

theorem Chip.clAnswered_off (e : Chip) (d cl : Nat) (b : Bool) : (e.clAnswered d cl b).on (Reg.PWR_CL_CTRL.OFF d cl) = b := by
  have hwidth : (Reg.PWR_CL_CTRL.OFF d cl).width = 1 := rfl
  unfold Chip.on Chip.clAnswered
  rw [Chip.get_puts_ne _ _ (not_clSaid (.inl rfl)), Chip.get_put_self, hwidth]
  cases b <;> decide

theorem Chip.clAnswered_cstate (e : Chip) (d cl : Nat) (b : Bool) (k : Nat) : (e.clAnswered d cl b).cstate k = e.cstate k := by
  refine (Chip.get_puts_ne _ _ (not_clSaid (.inr ⟨k, rfl⟩))).trans (Chip.get_put_ne _ _ ?_)
  simp only [fCstate, Reg.PWR_CORE_STATUS.CSTATE, Reg.PWR_CL_CTRL.OFF, mkFld]
  omega

end Sys2Proof.Machine
end

section
/-! A cluster's power control comes to its answer, and powers the cluster down or up (R405, R407). -/
namespace Sys2Proof.Machine

variable {s : State} {w : Who} {d : Fin 12} {cl : Fin 5} {v : Word}

theorem State.pwrClCtrl_denied (h : s.chip.writeRuns w (clCtrlOff d.val cl.val) = true) (hp : s.chip.cluPresent d.val cl.val = true)
    (hd : s.chip.clDenied w d.val cl.val = true) :
    ∃ t, exec (.pwrClCtrlWrite w d cl v) s = .next t ∧ t.pending = s.pending ∧ t.chip.get (Reg.PWR_DIE_RESULT.RESULT d.val) = prDenied
      ∧ WroteOnly s.chip t.chip w (clCtrlOff d.val cl.val) [Reg.PWR_DIE_RESULT.RESULT d.val, Reg.PWR_DIE_RESULT.CLUSTER d.val] := by
  obtain ⟨c, t, hrun, hpend, hget, hwrote⟩ := State.clCtrl_puts (v := v) (clSaid d.val cl.val prDenied) h (by simp [clSaid])
    fun c hrec => Chip.clCtrl_of_denied (hrec.cluPresent.trans hp) (hrec.clDenied.trans hd)
  exact ⟨t, hrun, hpend, (hget _).trans (c.get_clSaid _ _ (by decide)), hwrote⟩

theorem State.pwrClCtrl_same (h : s.chip.writeRuns w (clCtrlOff d.val cl.val) = true) (hp : s.chip.cluPresent d.val cl.val = true)
    (hd : s.chip.clDenied w d.val cl.val = false) (hv : bit v.toNat 1 = s.chip.on (Reg.PWR_CL_CTRL.OFF d.val cl.val)) :
    ∃ t, exec (.pwrClCtrlWrite w d cl v) s = .next t ∧ t.pending = s.pending ∧ t.chip.get (Reg.PWR_DIE_RESULT.RESULT d.val) = prDone
      ∧ t.chip.get (Reg.PWR_CL_CTRL.C3_EN d.val cl.val) = bits v.toNat 0 1 ∧ t.chip.get (Reg.PWR_CL_CTRL.C3_IDLE d.val cl.val) = bits v.toNat 16 16
      ∧ WroteOnly s.chip t.chip w (clCtrlOff d.val cl.val) [Reg.PWR_CL_CTRL.C3_EN d.val cl.val, Reg.PWR_CL_CTRL.C3_IDLE d.val cl.val,
          Reg.PWR_DIE_RESULT.RESULT d.val, Reg.PWR_DIE_RESULT.CLUSTER d.val] := by
  obtain ⟨c, t, hrun, hpend, hget, hwrote⟩ := State.clCtrl_puts (v := v) (clSet d.val cl.val v.toNat ++ clSaid d.val cl.val prDone) h (by simp [clSet, clSaid])
    fun c hrec => Chip.clCtrl_of_same (hrec.cluPresent.trans hp) (hrec.clDenied.trans hd) (hv.trans (hrec.cluIsOff d.isLt cl.isLt).symm)
  have hfield : ∀ f n, (f, n) ∈ clSet d.val cl.val v.toNat ++ clSaid d.val cl.val prDone → t.chip.get f = n % 2 ^ f.width := fun f n hf =>
    (hget f).trans (c.get_puts_mem (nodup_clFields _ _ _ cl.isLt) hf)
  refine ⟨t, hrun, hpend, hfield (Reg.PWR_DIE_RESULT.RESULT d.val) prDone (by simp [clSaid]), ?_, ?_, hwrote⟩
  · exact (hfield (Reg.PWR_CL_CTRL.C3_EN d.val cl.val) (bits v.toNat 0 1) (by simp [clSet])).trans (Nat.mod_eq_of_lt (bits_lt _ _ _))
  · exact (hfield (Reg.PWR_CL_CTRL.C3_IDLE d.val cl.val) (bits v.toNat 16 16) (by simp [clSet])).trans (Nat.mod_eq_of_lt (bits_lt _ _ _))

/-- A context's STATE, as a write of a cluster's power control meets it. -/
theorem Recorded.cluState {a c : Chip} (h : Recorded a c) {x : Nat} (hx : x ∈ cluCtxs d.val cl.val) : c.cxState x = a.cxState x :=
  (h.ctrlMeets (cluCtxs_lt d.isLt cl.isLt hx)).state

theorem State.pwrClCtrl_busy (h : s.chip.writeRuns w (clCtrlOff d.val cl.val) = true) (hp : s.chip.cluPresent d.val cl.val = true)
    (hd : s.chip.clDenied w d.val cl.val = false) (hv : bit v.toNat 1 = true) (hwas : s.chip.on (Reg.PWR_CL_CTRL.OFF d.val cl.val) = false)
    (hbusy : s.chip.on (Reg.CL_L2_STATUS.DRAINED d.val cl.val) = false ∨ ∃ x ∈ cluCtxs d.val cl.val, s.chip.cxState x ≠ cxOff) :
    ∃ t, exec (.pwrClCtrlWrite w d cl v) s = .next t ∧ t.pending = s.pending ∧ t.chip.get (Reg.PWR_DIE_RESULT.RESULT d.val) = prBadState
      ∧ WroteOnly s.chip t.chip w (clCtrlOff d.val cl.val) [Reg.PWR_DIE_RESULT.RESULT d.val, Reg.PWR_DIE_RESULT.CLUSTER d.val] := by
  obtain ⟨c, t, hrun, hpend, hget, hwrote⟩ := State.clCtrl_puts (v := v) (clSaid d.val cl.val prBadState) h (by simp [clSaid]) fun c hrec => by
    refine Chip.clCtrl_of_busy (hrec.cluPresent.trans hp) (hrec.clDenied.trans hd) hv ((hrec.cluIsOff d.isLt cl.isLt).trans hwas) ?_
    rcases hbusy with hl2 | ⟨x, hx, hstate⟩
    · exact .inl ((hrec.drained d.isLt cl.isLt).trans hl2)
    · exact .inr ⟨x, hx, by rw [hrec.cluState hx]; exact hstate⟩
  exact ⟨t, hrun, hpend, (hget _).trans (c.get_clSaid _ _ (by decide)), hwrote⟩

/-! ### Power goes and comes -/

/-- What C3_EN and C3_IDLE take leaves contexts' and cores' states. -/
theorem not_clSet {f : Fld} {d cl v : Nat} (hcl : cl < 5) (hf : (∃ x, f = fState x) ∨ ∃ k, f = fCstate k) : ∀ p ∈ clSet d cl v, f.addr ≠ p.1.addr := by
  intro p hp
  simp only [clSet, List.mem_cons, List.not_mem_nil, or_false] at hp
  rcases hf with ⟨x, rfl⟩ | ⟨k, rfl⟩ <;> rcases hp with rfl | rfl <;>
    simp only [fState, fCstate, Reg.CORE_CTX_STATUS.STATE, Reg.PWR_CORE_STATUS.CSTATE, Reg.PWR_CL_CTRL.C3_EN, Reg.PWR_CL_CTRL.C3_IDLE, mkFld, ctxDie, ctxCore, ctxNum] <;>
    omega

theorem Chip.clSet_engine (c : Chip) {d cl : Nat} (v : Nat) (hd : d < 12) (hcl : cl < 5) : c.EngineKept (c.puts (clSet d cl v)) := by
  refine Chip.EngineKept.puts c ?_
  simp only [clSet, List.mem_cons, List.not_mem_nil, or_false, forall_eq_or_imp, forall_eq, Reg.PWR_CL_CTRL.C3_EN, Reg.PWR_CL_CTRL.C3_IDLE, mkFld]
  omega

/-- A cluster that loses its power, and the write's answer. -/
def Chip.cluDark (e : Chip) (d cl : Nat) : Chip :=
  ((cluCores d cl).foldl Chip.coreDark ((cluCtxs d cl).foldl (fun c x => c.ctxReset x) e)).clAnswered d cl true

theorem Chip.cluOff_said (e : Chip) (d cl : Nat) : (e.cluOff d cl).puts (clSaid d cl prDone) = e.cluDark d cl := rfl

/-- A cluster that is powered up, and the write's answer. -/
def Chip.cluLit (e : Chip) (d cl : Nat) : Chip := ((cluCores d cl).foldl Chip.coreLit e).clAnswered d cl false

theorem Chip.cluOn_said (e : Chip) (d cl : Nat) : (e.cluOn d cl).puts (clSaid d cl prDone) = e.cluLit d cl := rfl

theorem Chip.clAnswered_result (e : Chip) (d cl : Nat) (b : Bool) : (e.clAnswered d cl b).get (Reg.PWR_DIE_RESULT.RESULT d) = prDone :=
  Chip.get_clSaid _ d cl (by decide)

theorem Chip.clAnswered_ctx (e : Chip) (d cl : Nat) (b : Bool) : (e.clAnswered d cl b).ctx = e.ctx := Chip.puts_ctx _ _

theorem Chip.cluDark_facts {e : Chip} {d cl : Nat} (hd : d < 12) (hcl : cl < 5) (hoff : ∀ x ∈ cluCtxs d cl, e.cxState x = cxOff) :
    e.EngineKept (e.cluDark d cl) ∧ (e.cluDark d cl).get (Reg.PWR_DIE_RESULT.RESULT d) = prDone ∧ (e.cluDark d cl).on (Reg.PWR_CL_CTRL.OFF d cl) = true
      ∧ (∀ k ∈ cluCores d cl, (e.cluDark d cl).cstate k = 3) ∧ ∀ x ∈ cluCtxs d cl, (e.cluDark d cl).ctxOf x = Ctx.init := by
  obtain ⟨hreset, hinit⟩ := Chip.foldl_ctxReset (fun x hx => cluCtxs_lt hd hcl hx) e hoff
  obtain ⟨hdark, hctx, hstate⟩ := Chip.foldl_cstate (f := Chip.coreDark) (n := 3) (by decide) (fun _ _ => ⟨_, _, rfl⟩) (fun k hk => cluCores_lt hd hcl hk)
    ((cluCtxs d cl).foldl (fun c x => c.ctxReset x) e)
  unfold Chip.cluDark
  refine ⟨(hreset.trans hdark).trans (Chip.clAnswered_engine _ true hd hcl), Chip.clAnswered_result _ d cl true, Chip.clAnswered_off _ d cl true, fun k hk => ?_,
    fun x hx => ?_⟩
  · rw [Chip.clAnswered_cstate]
    exact hstate k (.inl hk)
  · have hmap := (Chip.clAnswered_ctx _ d cl true).trans hctx
    exact (congrArg (fun m => SMap.getD m x Ctx.init) hmap).trans (hinit x (.inl hx))

theorem Chip.cluLit_facts (e : Chip) {d cl : Nat} (hd : d < 12) (hcl : cl < 5) :
    e.EngineKept (e.cluLit d cl) ∧ (e.cluLit d cl).get (Reg.PWR_DIE_RESULT.RESULT d) = prDone ∧ (e.cluLit d cl).on (Reg.PWR_CL_CTRL.OFF d cl) = false
      ∧ ∀ k ∈ cluCores d cl, (e.cluLit d cl).cstate k = 0 := by
  obtain ⟨hlit, -, hstate⟩ := Chip.foldl_cstate (f := Chip.coreLit) (n := 0) (by decide) (fun c _ => ⟨c.coh, c.core, rfl⟩) (fun k hk => cluCores_lt hd hcl hk) e
  unfold Chip.cluLit
  refine ⟨hlit.trans (Chip.clAnswered_engine _ false hd hcl), Chip.clAnswered_result _ d cl false, Chip.clAnswered_off _ d cl false, fun k hk => ?_⟩
  rw [Chip.clAnswered_cstate]
  exact hstate k (.inl hk)

/-- A cluster's write is answered by a chip with these facts. -/
theorem State.clDone_next {i : Instr} {e : Chip} {r : List Reply} {d cl n : Nat} {b : Bool} (hrun : exec i s = .next { s with chip := { e with replies := r } })
    (hresult : e.get (Reg.PWR_DIE_RESULT.RESULT d) = prDone) (hoff : e.on (Reg.PWR_CL_CTRL.OFF d cl) = b) (hcores : ∀ k ∈ cluCores d cl, e.cstate k = n) :
    ∃ t, exec i s = .next t ∧ t.pending = s.pending ∧ t.chip.get (Reg.PWR_DIE_RESULT.RESULT d) = prDone ∧ t.chip.on (Reg.PWR_CL_CTRL.OFF d cl) = b
      ∧ (∀ k ∈ cluCores d cl, t.chip.cstate k = n) ∧ t.chip.ctx = e.ctx :=
  ⟨_, hrun, rfl, hresult, hoff, hcores, rfl⟩

theorem State.pwrClCtrl_off (h : s.chip.writeRuns w (clCtrlOff d.val cl.val) = true) (hp : s.chip.cluPresent d.val cl.val = true)
    (hd : s.chip.clDenied w d.val cl.val = false) (hv : bit v.toNat 1 = true) (hwas : s.chip.on (Reg.PWR_CL_CTRL.OFF d.val cl.val) = false)
    (hl2 : s.chip.on (Reg.CL_L2_STATUS.DRAINED d.val cl.val) = true) (hctx : ∀ x ∈ cluCtxs d.val cl.val, s.chip.cxState x = cxOff) :
    ∃ t, exec (.pwrClCtrlWrite w d cl v) s = .next t ∧ t.pending = s.pending ∧ t.chip.get (Reg.PWR_DIE_RESULT.RESULT d.val) = prDone
      ∧ t.chip.on (Reg.PWR_CL_CTRL.OFF d.val cl.val) = true ∧ (∀ k ∈ cluCores d.val cl.val, t.chip.cstate k = 3)
      ∧ (∀ x ∈ cluCtxs d.val cl.val, t.chip.ctxOf x = Ctx.init) := by
  obtain ⟨h8, hlow⟩ := clCtrlOff_lt d.isLt cl.isLt
  have hact : ∀ c : Chip, Recorded s.chip c → c.csrAction w (clCtrlOff d.val cl.val) v.toNat
        = (c.puts (clSet d.val cl.val v.toNat)).cluDark d.val cl.val
      ∧ ∀ x ∈ cluCtxs d.val cl.val, (c.puts (clSet d.val cl.val v.toNat)).cxState x = cxOff := fun c hrec => by
    have hstate : ∀ x ∈ cluCtxs d.val cl.val, c.cxState x = cxOff := fun x hx => (hrec.cluState hx).trans (hctx x hx)
    refine ⟨?_, fun x hx => (Chip.get_puts_ne _ _ (not_clSet cl.isLt (.inl ⟨x, rfl⟩))).trans (hstate x hx)⟩
    rw [Chip.csrAction_pwrClCtrl c w _ d.isLt cl.isLt, ← Chip.cluOff_said]
    exact Chip.clCtrl_of_off (hrec.cluPresent.trans hp) (hrec.clDenied.trans hd) hv ((hrec.cluIsOff d.isLt cl.isLt).trans hwas)
      ((hrec.drained d.isLt cl.isLt).trans hl2) hstate
  obtain ⟨c, hrec, hrun⟩ := State.action_next (v := v.toNat) h h8 (by omega) (by omega) fun c hrec => by
    obtain ⟨heq, hoff⟩ := hact c hrec
    rw [heq]
    exact (c.clSet_engine _ d.isLt cl.isLt).trans (Chip.cluDark_facts d.isLt cl.isLt hoff).1
  obtain ⟨heq, hoff⟩ := hact c hrec
  obtain ⟨-, hresult, hisOff, hcores, hinit⟩ := Chip.cluDark_facts d.isLt cl.isLt hoff
  rw [heq] at hrun
  obtain ⟨t, hexec, hpend, tresult, toff, tcores, tctx⟩ := State.clDone_next ((exec_pwrClCtrlWrite s w d cl v).trans hrun) hresult hisOff hcores
  exact ⟨t, hexec, hpend, tresult, toff, tcores, fun x hx => (congrArg (fun m => SMap.getD m x Ctx.init) tctx).trans (hinit x hx)⟩

theorem State.pwrClCtrl_on (h : s.chip.writeRuns w (clCtrlOff d.val cl.val) = true) (hp : s.chip.cluPresent d.val cl.val = true)
    (hd : s.chip.clDenied w d.val cl.val = false) (hv : bit v.toNat 1 = false) (hwas : s.chip.on (Reg.PWR_CL_CTRL.OFF d.val cl.val) = true) :
    ∃ t, exec (.pwrClCtrlWrite w d cl v) s = .next t ∧ t.pending = s.pending ∧ t.chip.get (Reg.PWR_DIE_RESULT.RESULT d.val) = prDone
      ∧ t.chip.on (Reg.PWR_CL_CTRL.OFF d.val cl.val) = false ∧ (∀ k ∈ cluCores d.val cl.val, t.chip.cstate k = 0) := by
  obtain ⟨h8, hlow⟩ := clCtrlOff_lt d.isLt cl.isLt
  have hact : ∀ c : Chip, Recorded s.chip c → c.csrAction w (clCtrlOff d.val cl.val) v.toNat
      = (c.puts (clSet d.val cl.val v.toNat)).cluLit d.val cl.val := fun c hrec => by
    rw [Chip.csrAction_pwrClCtrl c w _ d.isLt cl.isLt, ← Chip.cluOn_said]
    exact Chip.clCtrl_of_on (hrec.cluPresent.trans hp) (hrec.clDenied.trans hd) hv ((hrec.cluIsOff d.isLt cl.isLt).trans hwas)
  obtain ⟨c, hrec, hrun⟩ := State.action_next (v := v.toNat) h h8 (by omega) (by omega) fun c hrec => by
    rw [hact c hrec]
    exact (c.clSet_engine _ d.isLt cl.isLt).trans (Chip.cluLit_facts _ d.isLt cl.isLt).1
  obtain ⟨-, hresult, hisOn, hcores⟩ := (c.puts (clSet d.val cl.val v.toNat)).cluLit_facts d.isLt cl.isLt
  rw [hact c hrec] at hrun
  obtain ⟨t, hexec, hpend, tresult, toff, tcores, -⟩ := State.clDone_next ((exec_pwrClCtrlWrite s w d cl v).trans hrun) hresult hisOn hcores
  exact ⟨t, hexec, hpend, tresult, toff, tcores⟩

end Sys2Proof.Machine
end

section
/-! A core enters C1 and C3 (R401, R403): its clock stops, its contexts' images are written, and its power goes or the entry fails. -/
namespace Sys2Proof.Machine

/-! ### C1 -/

theorem State.c1Entry_next {s : State} (k : Fin 240) (hs : s.chip.halted = false) (hpresent : s.chip.corePresent (k.val / 20) (k.val % 20) = true)
    (hawake : s.chip.cstate k.val = 0) (hctx : ∀ x ∈ coreCtxs k.val, s.chip.cxState x ≠ cxReady ∧ s.chip.cxState x ≠ cxRunning) :
    ∃ t, exec (.c1Entry k) s = .next t ∧ t.pending = s.pending ∧ t.chip.cstate k.val = 1 ∧ OnlyFields s.chip t.chip [fCstate k.val] := by
  have heq : s.chip.c1Entry k.val = s.chip.put (fCstate k.val) 1 := if_pos (by simpa [hawake, hpresent, coreDie, coreNum] using hctx)
  refine ⟨_, s.run_eq (fun c => c.c1Entry k.val) hs (by rw [heq]; rfl), rfl, ?_⟩
  dsimp only
  rw [heq]
  exact ⟨Chip.cstate_put_self _ _ _, OnlyFields.puts _ [(fCstate k.val, 1)] (by simp)⟩

/-! ### An image is written -/

/-- What a store of an image is: its address, its size and its kind. -/
def StoreEnt.part (e : StoreEnt) : Nat × Nat × AKind := (e.pa, e.size, e.kind)

/-- The store of a line of an image. -/
def savePart (l : Nat) : Nat × Nat × AKind := (64 * l, 64, AKind.save)

/-- Only contexts of a list, and the free values taken, differ. -/
structure Chip.Imaged (a b : Chip) (l : List Nat) : Prop where
  rest : b = { a with ctx := b.ctx, free := b.free }
  others : ∀ y, y ∉ l → b.ctxOf y = a.ctxOf y

theorem Chip.Imaged.refl (a : Chip) (l : List Nat) : a.Imaged a l := ⟨rfl, fun _ _ => rfl⟩

theorem Chip.Imaged.trans {a b c : Chip} {l m n : List Nat} (h : a.Imaged b l) (g : b.Imaged c m) (hl : ∀ x ∈ l, x ∈ n) (hm : ∀ x ∈ m, x ∈ n) : a.Imaged c n where
  rest := by rw [g.rest, h.rest]
  others y hy := (g.others y fun e => hy (hm y e)).trans (h.others y fun e => hy (hl y e))

theorem Chip.Imaged.get {a b : Chip} {l : List Nat} (h : a.Imaged b l) (f : Fld) : b.get f = a.get f := by rw [h.rest]; rfl

theorem Chip.Imaged.saveLines {a b : Chip} {l : List Nat} (h : a.Imaged b l) (x : Nat) : b.saveLines x = a.saveLines x := by
  unfold Chip.saveLines
  rw [h.get]

theorem Chip.savePush_imaged (c : Chip) (x line : Nat) :
    c.Imaged (c.savePush x line) [x] ∧ ((c.savePush x line).ctxOf x).sq.map StoreEnt.part = (c.ctxOf x).sq.map StoreEnt.part ++ [savePart line] := by
  have hctx : ((c.savePush x line).ctxOf x).sq.map StoreEnt.part = _ := congrArg (fun q : Ctx => q.sq.map StoreEnt.part) (c.fresh.2.ctxOf_ctxMod_self x _)
  refine ⟨⟨rfl, fun y hy => Chip.ctxOf_ctxMod_ne _ _ (by simpa using hy)⟩, hctx.trans ?_⟩
  simp only [List.map_append, List.map_cons, List.map_nil]
  rfl

theorem Chip.foldl_savePush (x : Nat) (l : List Nat) (c : Chip) :
    c.Imaged (l.foldl (fun c n => c.savePush x n) c) [x]
      ∧ ((l.foldl (fun c n => c.savePush x n) c).ctxOf x).sq.map StoreEnt.part = (c.ctxOf x).sq.map StoreEnt.part ++ l.map savePart := by
  induction l generalizing c with
  | nil => exact ⟨Chip.Imaged.refl c [x], by simp⟩
  | cons n l ih =>
    obtain ⟨h, hsq⟩ := c.savePush_imaged x n
    obtain ⟨g, gsq⟩ := ih (c.savePush x n)
    exact ⟨h.trans g (by simp) (by simp), gsq.trans (by rw [hsq]; simp)⟩

/-- The image of a context that is not OFF is written. -/
def Chip.saveImage (c : Chip) (x : Nat) : Chip := if c.cxState x == cxOff then c else (c.saveLines x).foldl (fun c l => c.savePush x l) c

theorem Chip.saveImage_imaged (c : Chip) (x : Nat) :
    c.Imaged (c.saveImage x) [x]
      ∧ (c.cxState x ≠ cxOff → ((c.saveImage x).ctxOf x).sq.map StoreEnt.part = (c.ctxOf x).sq.map StoreEnt.part ++ (c.saveLines x).map savePart) := by
  unfold Chip.saveImage
  split
  case isTrue h => exact ⟨Chip.Imaged.refl c [x], fun hne => absurd (by simpa using h) hne⟩
  case isFalse =>
    obtain ⟨h, hsq⟩ := Chip.foldl_savePush x (c.saveLines x) c
    exact ⟨h, fun _ => hsq⟩

theorem Chip.foldl_saveImage {l : List Nat} (hl : l.Nodup) (c : Chip) :
    c.Imaged (l.foldl Chip.saveImage c) l
      ∧ ∀ x ∈ l, c.cxState x ≠ cxOff →
          ((l.foldl Chip.saveImage c).ctxOf x).sq.map StoreEnt.part = (c.ctxOf x).sq.map StoreEnt.part ++ (c.saveLines x).map savePart := by
  induction l generalizing c with
  | nil => exact ⟨Chip.Imaged.refl c [], by simp⟩
  | cons n l ih =>
    obtain ⟨hn, hl⟩ := List.nodup_cons.1 hl
    obtain ⟨h, hsq⟩ := c.saveImage_imaged n
    obtain ⟨g, gsq⟩ := ih hl (c.saveImage n)
    refine ⟨h.trans g (by simp) (by simp +contextual), fun x hx hon => ?_⟩
    rw [List.foldl_cons]
    rcases List.mem_cons.1 hx with rfl | hx
    · rw [g.others x hn]
      exact hsq hon
    · rw [gsq x hx (by unfold Chip.cxState; rw [h.get]; exact hon), h.others x fun e => hn (List.mem_singleton.1 e ▸ hx), h.saveLines]

theorem nodup_coreCtxs (k : Nat) : (coreCtxs k).Nodup := List.Nodup.map (fun _ _ h => Nat.add_left_cancel h) List.nodup_range

theorem Chip.c3Entry_of_may {c : Chip} {k : Nat} (h : c.c3May k = true) :
    c.c3Entry k = ((coreCtxs k).foldl Chip.saveImage c).coreMod k (fun s => { s with c3 := 1 }) := if_pos h

/-- A context that lets its core enter C3 has nothing in its store queue. -/
theorem Chip.sq_of_c3May {c : Chip} {k x : Nat} (h : c.c3May k = true) (hx : x ∈ coreCtxs k) (hon : c.cxState x ≠ cxOff) : (c.ctxOf x).sq = [] := by
  unfold Chip.c3May at h
  obtain ⟨-, hall⟩ := Bool.and_eq_true_iff.1 h
  have hctx := List.all_eq_true.1 hall x hx
  simp only [Bool.or_eq_true, Bool.and_eq_true, beq_iff_eq, List.isEmpty_iff] at hctx
  exact (hctx.resolve_left hon).2

theorem State.c3Entry_next {s : State} (k : Fin 240) (hs : s.chip.halted = false) (h : s.chip.c3May k.val = true) :
    ∃ t, exec (.c3Entry k) s = .next t ∧ t.pending = s.pending ∧ (t.chip.coreOf k.val).c3 = 1
      ∧ (∀ x ∈ coreCtxs k.val, s.chip.cxState x ≠ cxOff →
          (t.chip.ctxOf x).sq.map StoreEnt.part = (s.chip.saveLines x).map savePart)
      ∧ (∀ x, x ∉ coreCtxs k.val → t.chip.ctxOf x = s.chip.ctxOf x)
      ∧ t.chip = { s.chip with ctx := t.chip.ctx, core := t.chip.core, free := t.chip.free } := by
  have heq := Chip.c3Entry_of_may h
  obtain ⟨himage, hsq⟩ := Chip.foldl_saveImage (nodup_coreCtxs k.val) s.chip
  generalize List.foldl Chip.saveImage s.chip (coreCtxs k.val) = d at heq himage hsq
  refine ⟨_, s.run_eq (fun c => c.c3Entry k.val) hs (by rw [heq, himage.rest]; rfl), rfl, ?_⟩
  dsimp only
  rw [heq]
  refine ⟨congrArg CoreSt.c3 (d.coreOf_coreMod_self _ _), fun x hx hon => ?_, himage.others, ?_⟩
  · rw [Chip.ctxOf_coreMod, hsq x hx hon, Chip.sq_of_c3May h hx hon, List.map_nil, List.nil_append]
  · rw [himage.rest]
    rfl

/-! ### Power is removed -/

/-- A context without its cached translations and its fetched line. -/
def Ctx.untranslated (q : Ctx) : Ctx := { q with tlb := [], fetch := none }

theorem Chip.foldl_untranslated (l : List Nat) (c : Chip) :
    (∃ m, l.foldl (fun c x => c.ctxMod x Ctx.untranslated) c = { c with ctx := m })
      ∧ (∀ x, x ∈ l ∨ (c.ctxOf x).tlb = [] → ((l.foldl (fun c x => c.ctxMod x Ctx.untranslated) c).ctxOf x).tlb = [])
      ∧ ∀ x, ((l.foldl (fun c x => c.ctxMod x Ctx.untranslated) c).ctxOf x).pc = (c.ctxOf x).pc := by
  induction l generalizing c with
  | nil => exact ⟨⟨c.ctx, rfl⟩, fun x hx => hx.resolve_left (by simp), fun _ => rfl⟩
  | cons n l ih =>
    obtain ⟨⟨m, hrest⟩, htlb, hpc⟩ := ih (c.ctxMod n Ctx.untranslated)
    have hself := c.ctxOf_ctxMod_self n Ctx.untranslated
    refine ⟨⟨m, hrest.trans rfl⟩, fun x hx => htlb x ?_, fun x => (hpc x).trans ?_⟩
    · by_cases hxn : x = n
      · exact .inr (by rw [hxn, hself]; rfl)
      · rw [Chip.ctxOf_ctxMod_ne _ _ hxn]
        exact hx.imp_left fun e => (List.mem_cons.1 e).resolve_left hxn
    · by_cases hxn : x = n
      · rw [hxn, hself]
        rfl
      · rw [Chip.ctxOf_ctxMod_ne _ _ hxn]

/-- A core in C3: its entry counted, its L1s lost. -/
def Chip.coreSlept (c : Chip) (k : Nat) : Chip :=
  { ((c.coreMod k (fun s => { s with c3 := 0 })).put (fCstate k) 2).count (Reg.PWR_CORE_STATUS.C3_ENTRIES (k / 20) (k % 20)) 1 with
    coh := { c.coh with l1i := c.coh.l1i.dropAt 1024 k, l1d := c.coh.l1d.dropAt 1024 k } }

theorem Chip.c3SaveDone_of_saved {c : Chip} {k : Nat} (h : (c.coreOf k).c3 = 1) (hsaved : c.savedAll k = true) :
    c.c3SaveDone k = (coreCtxs k).foldl (fun c x => c.ctxMod x Ctx.untranslated) (c.coreSlept k) := by
  unfold Chip.c3SaveDone
  rw [if_neg (by rw [h]; decide), if_pos (by rw [h, hsaved]; rfl)]
  rfl

theorem Chip.coreSlept_regs (c : Chip) (k : Nat) :
    (c.coreSlept k).cstate k = 2 ∧ Untouched c (c.coreSlept k) [fCstate k, Reg.PWR_CORE_STATUS.C3_ENTRIES (k / 20) (k % 20)] := by
  refine ⟨(Chip.get_put_ne _ _ ?_).trans (Chip.cstate_put_self _ _ _), fun f hf => (Chip.get_put_ne _ _ (hf _ (by simp))).trans (Chip.get_put_ne _ _ (hf _ (by simp)))⟩
  simp only [fCstate, Reg.PWR_CORE_STATUS.CSTATE, Reg.PWR_CORE_STATUS.C3_ENTRIES, mkFld]
  omega

theorem State.c3SaveDone_saved {s : State} (k : Fin 240) (hs : s.chip.halted = false) (h : (s.chip.coreOf k.val).c3 = 1) (hsaved : s.chip.savedAll k.val = true) :
    ∃ t, exec (.c3SaveDone k) s = .next t ∧ t.pending = s.pending ∧ t.chip.cstate k.val = 2 ∧ (t.chip.coreOf k.val).c3 = 0
      ∧ (∀ x ∈ coreCtxs k.val, (t.chip.ctxOf x).tlb = [] ∧ (t.chip.ctxOf x).pc = (s.chip.ctxOf x).pc)
      ∧ t.chip.coh = { s.chip.coh with l1i := t.chip.coh.l1i, l1d := t.chip.coh.l1d }
      ∧ Untouched s.chip t.chip [fCstate k.val, Reg.PWR_CORE_STATUS.C3_ENTRIES (k.val / 20) (k.val % 20)] := by
  have heq := Chip.c3SaveDone_of_saved h hsaved
  obtain ⟨⟨m, hrest⟩, htlb, hpc⟩ := Chip.foldl_untranslated (coreCtxs k.val) (s.chip.coreSlept k.val)
  obtain ⟨hcstate, hregs⟩ := s.chip.coreSlept_regs k.val
  have hc3 : ((s.chip.coreSlept k.val).coreOf k.val).c3 = 0 := congrArg CoreSt.c3 (s.chip.coreOf_coreMod_self k.val fun q => { q with c3 := 0 })
  rw [hrest] at heq htlb hpc
  refine ⟨_, s.run_eq (fun c => c.c3SaveDone k.val) hs (by rw [heq]; rfl), rfl, ?_⟩
  dsimp only
  rw [heq]
  exact ⟨hcstate, hc3, fun x hx => ⟨htlb x (.inl hx), hpc x⟩, rfl, hregs⟩

/-! ### An entry fails -/

/-- A die's interrupt is a message, if it is one. -/
theorem Chip.dieIrq_rest (c : Chip) (d : Nat) : c.dieIrq d = { c with irqs := (c.dieIrq d).irqs } := by
  unfold Chip.dieIrq Chip.irqReg
  split <;> rfl

theorem Chip.get_dieIrq (c : Chip) (d : Nat) (f : Fld) : (c.dieIrq d).get f = c.get f := by
  rw [Chip.dieIrq_rest]
  rfl

theorem Chip.c3SaveDone_of_failed {c : Chip} {k : Nat} (h : (c.coreOf k).c3 = 2) :
    c.c3SaveDone k = ((c.c3Abandon k).put (Reg.PWR_CORE_STATUS.SAVE_ERR (k / 20) (k % 20)) 1).dieIrq (k / 20) := by
  unfold Chip.c3SaveDone
  rw [if_pos h]
  rfl

theorem Chip.c3Abandon_c3 {c : Chip} {k : Nat} (h : (c.coreOf k).c3 = 2) : ((c.c3Abandon k).coreOf k).c3 = 0 := by
  rw [Chip.c3Abandon_eq fun hno => hno.2 h, Chip.coreOf_coreMod_self]

theorem Chip.get_c3SaveDone_of_failed {c : Chip} {k : Nat} (h : (c.coreOf k).c3 = 2) {f : Fld} :
    (c.c3SaveDone k).get f = (c.put (Reg.PWR_CORE_STATUS.SAVE_ERR (k / 20) (k % 20)) 1).get f := by
  rw [Chip.c3SaveDone_of_failed h, Chip.get_dieIrq]
  exact congrArg (fun r : RegFile => (r.put (Reg.PWR_CORE_STATUS.SAVE_ERR (k / 20) (k % 20)) 1).get f) (c.c3Abandon_regs k)

theorem State.c3SaveDone_failed {s : State} (k : Fin 240) (hs : s.chip.halted = false) (h : (s.chip.coreOf k.val).c3 = 2) :
    ∃ t, exec (.c3SaveDone k) s = .next t ∧ t.pending = s.pending ∧ t.chip.cstate k.val = s.chip.cstate k.val ∧ (t.chip.coreOf k.val).c3 = 0
      ∧ t.chip.get (Reg.PWR_CORE_STATUS.SAVE_ERR (k.val / 20) (k.val % 20)) = 1
      ∧ Untouched s.chip t.chip [Reg.PWR_CORE_STATUS.SAVE_ERR (k.val / 20) (k.val % 20)] := by
  have heq := Chip.c3SaveDone_of_failed h
  have hrest := (s.chip.c3Abandon_turned k.val).rest
  have hc3 := Chip.c3Abandon_c3 h
  have hleft : Untouched s.chip (s.chip.c3SaveDone k.val) [Reg.PWR_CORE_STATUS.SAVE_ERR (k.val / 20) (k.val % 20)] := fun f hf =>
    (Chip.get_c3SaveDone_of_failed h).trans (Chip.get_put_ne _ _ (hf _ (by simp)))
  refine ⟨_, s.run_eq (fun c => c.c3SaveDone k.val) hs ?_, rfl, hleft _ ?_, ?_, (Chip.get_c3SaveDone_of_failed h).trans (Chip.get_put_self _ _ _), hleft⟩
  · rw [heq, Chip.dieIrq_rest]
    show (s.chip.c3Abandon k.val).otp = _
    rw [hrest]
  · simp only [List.mem_singleton, forall_eq, fCstate, Reg.PWR_CORE_STATUS.CSTATE, Reg.PWR_CORE_STATUS.SAVE_ERR, mkFld]
    omega
  · dsimp only
    rw [heq, Chip.dieIrq_rest]
    exact hc3

end Sys2Proof.Machine
end

section
/-! A core leaves C3 (R401, R404): the contexts that were not OFF are restored from their images, and one whose image is poisoned is reset. -/
namespace Sys2Proof.Machine

/-! ### Images as they are read back -/

/-- Is a line poisoned in the L2 of a context's cluster? -/
def Chip.lineBad (c : Chip) (x l : Nat) : Bool := (c.l2Find (cluIx x) l).any (fun p => p.2.ld.poison)

/-- Is a context's image poisoned? -/
def Chip.imageBad (c : Chip) (x : Nat) : Bool := (c.saveLines x).any (c.lineBad x)

theorem Chip.imageBad_eq_true {c : Chip} {x : Nat} : c.imageBad x = true ↔ ∃ l ∈ c.saveLines x, ∃ p, c.l2Find (cluIx x) l = some p ∧ p.2.ld.poison = true := by
  simp only [Chip.imageBad, Chip.lineBad, List.any_eq_true, Option.any_eq_true]

/-- Every line of a context's image is in its L2. -/
def Chip.imageHeld (c : Chip) (x : Nat) : Prop := ∀ l ∈ c.saveLines x, (c.l2Find (cluIx x) l).isSome = true

theorem Chip.saveBad_of_held {c : Chip} {x l : Nat} (h : (c.l2Find (cluIx x) l).isSome = true) : c.saveBad x l = (c.lineBad x l, c) := by
  obtain ⟨p, hp⟩ := Option.isSome_iff_exists.1 h
  unfold Chip.saveBad Chip.lineBad
  rw [hp]
  rfl

/-- Reading back lines that the L2 holds changes nothing. -/
theorem Chip.foldl_saveBad {c : Chip} {x : Nat} {l : List Nat} (h : ∀ n ∈ l, (c.l2Find (cluIx x) n).isSome = true) (b : Bool) :
    l.foldl (fun (p : Bool × Chip) n => (p.1 || (p.2.saveBad x n).1, (p.2.saveBad x n).2)) (b, c) = (b || l.any (c.lineBad x), c) := by
  induction l generalizing b with
  | nil => simp
  | cons n l ih =>
    rw [List.foldl_cons, Chip.saveBad_of_held (h n (by simp)), ih (fun m hm => h m (by simp [hm])), List.any_cons, Bool.or_assoc]

/-- A context whose image is poisoned is reset, and the die is told. -/
def Chip.restoreFailed (c : Chip) (x : Nat) : Chip :=
  ((c.ctxReset x).put (Reg.PWR_CORE_STATUS.RESTORE_ERR (ctxDie x) (ctxCore x)) 1).dieIrq (ctxDie x)

theorem Chip.c3Restore_of_held {c : Chip} {x : Nat} (h : c.imageHeld x) : c.c3Restore x = if c.imageBad x then c.restoreFailed x else c := by
  have hfold := Chip.foldl_saveBad h false
  rw [Bool.false_or] at hfold
  unfold Chip.c3Restore
  dsimp only
  rw [hfold]
  rfl

/-! ### What restoring leaves -/

/-- A reset of a context leaves the fields of the power controls. -/
theorem resetLeaves_of_power {x a : Nat} (hx : x < 960) (hlow : a < 8 * 0xC0000000) (h : 8 * 0x7000000 ≤ a % (8 * 0x10000000)) : ResetLeaves x a := by
  refine ⟨fun g hg => ?_, by omega, by omega⟩
  have hcore := ctxCore_lt x
  have hnum : ctxNum x < 4 := Nat.mod_lt x (by decide)
  simp only [resetFields, ctxFields, List.mem_cons, List.not_mem_nil, or_false] at hg
  rcases hg with rfl | rfl | rfl | rfl | rfl | rfl | rfl | rfl <;> simp only [Reg.PMU_SMP_CNT.LOST, Reg.CORE_CTX_STATUS.STATE, Reg.CORE_CTX_STATUS.PEND,
    Reg.CORE_CTX_STATUS.MISS, Reg.CORE_CTX_STATUS.TENANT, Reg.CORE_CTX_STATUS.WORLD, Reg.CORE_CTX_STATUS.PRIV, Reg.REG_CTX_MAP.ENT, mkFld] <;> omega

/-- RESTORE_ERR of a core. -/
def fRestoreErr (k : Nat) : Fld := Reg.PWR_CORE_STATUS.RESTORE_ERR (k / 20) (k % 20)

theorem fRestoreErr_ctx (x : Nat) : Reg.PWR_CORE_STATUS.RESTORE_ERR (ctxDie x) (ctxCore x) = fRestoreErr (coreIx x) := by
  have hdie : ctxDie x = coreIx x / 20 := by unfold ctxDie coreIx; omega
  have hcore : ctxCore x = coreIx x % 20 := by unfold ctxCore coreIx; omega
  rw [hdie, hcore, fRestoreErr]

theorem saveBase_leaves {x d : Nat} (hx : x < 960) (hd : d < 12) : ResetLeaves x (Reg.PWR_SAVE.BASE d).addr := by
  apply resetLeaves_of_power hx <;> simp only [Reg.PWR_SAVE.BASE, mkFld] <;> omega

/-- What restoring contexts of core k may change: contexts that are reset, and RESTORE_ERR with its interrupt. -/
structure Chip.Restores (a b : Chip) (k : Nat) : Prop where
  rest : b = { a with regs := b.regs, ctx := b.ctx, core := b.core, frozen := b.frozen, irqs := b.irqs, coh := { a.coh with ops := b.coh.ops, l3reqs := b.coh.l3reqs } }
  saveBase : ∀ d < 12, b.get (Reg.PWR_SAVE.BASE d) = a.get (Reg.PWR_SAVE.BASE d)
  failed : a.get (fRestoreErr k) = 1 → b.get (fRestoreErr k) = 1

namespace Chip.Restores

theorem refl (a : Chip) (k : Nat) : a.Restores a k := ⟨rfl, fun _ _ => rfl, id⟩

theorem trans {a b c : Chip} {k : Nat} (h : a.Restores b k) (g : b.Restores c k) : a.Restores c k where
  rest := by rw [g.rest, h.rest]
  saveBase d hd := (g.saveBase d hd).trans (h.saveBase d hd)
  failed := g.failed ∘ h.failed

/-- Images are then where they were, and the L2 holds what it held. -/
theorem images {a b : Chip} {k x : Nat} (h : a.Restores b k) (hx : x < 960) : b.saveLines x = a.saveLines x ∧ b.lineBad x = a.lineBad x ∧ (a.imageHeld x → b.imageHeld x) := by
  have hlines : b.saveLines x = a.saveLines x := by
    unfold Chip.saveLines
    rw [h.saveBase _ (ctxDie_lt hx)]
  have hfind : ∀ u l, b.l2Find u l = a.l2Find u l := fun u l => by
    unfold Chip.l2Find
    rw [h.rest]
  refine ⟨hlines, funext fun l => ?_, fun ha l hl => ?_⟩
  · unfold Chip.lineBad
    rw [hfind]
  · rw [hfind]
    exact ha l (hlines ▸ hl)

theorem imageBad {a b : Chip} {k x : Nat} (h : a.Restores b k) (hx : x < 960) : b.imageBad x = a.imageBad x := by
  obtain ⟨hlines, hbad, -⟩ := h.images hx
  rw [Chip.imageBad, hlines, hbad, Chip.imageBad]

end Chip.Restores

/-- A context that does not run is reset without its core choosing again. -/
theorem Chip.ctxReset_of_not_running {c : Chip} {x : Nat} (h : c.cxState x ≠ cxRunning) : c.ctxReset x = c.ctxCleared x := by
  rw [Chip.ctxReset_eq, if_neg (by simpa using h)]

/-- A field is set and the die told of it. -/
theorem Chip.dieIrq_put (e : Chip) (f : Fld) (v d : Nat) :
    (e.put f v).dieIrq d = { e with regs := ((e.put f v).dieIrq d).regs, irqs := ((e.put f v).dieIrq d).irqs }
      ∧ ∀ g, ((e.put f v).dieIrq d).get g = (e.put f v).get g := by
  refine ⟨?_, Chip.get_dieIrq _ d⟩
  unfold Chip.dieIrq Chip.irqReg
  split <;> rfl

theorem Chip.restoreFailed_eq {c : Chip} {x : Nat} (h : c.cxState x ≠ cxRunning) :
    c.restoreFailed x = ((c.ctxCleared x).put (fRestoreErr (coreIx x)) 1).dieIrq (ctxDie x) := by
  rw [Chip.restoreFailed, Chip.ctxReset_of_not_running h, fRestoreErr_ctx]

/-- A context whose image is poisoned is OFF, and its core tells of it. -/
theorem Chip.restoreFailed_facts {c : Chip} {x : Nat} (hx : x < 960) (h : c.cxState x ≠ cxRunning) :
    c.Restores (c.restoreFailed x) (coreIx x) ∧ (c.restoreFailed x).cxState x = cxOff ∧ (c.restoreFailed x).get (fRestoreErr (coreIx x)) = 1
      ∧ ∀ y < 960, y ≠ x → (c.restoreFailed x).ctxOf y = c.ctxOf y ∧ (c.restoreFailed x).cxState y = c.cxState y := by
  have hclear := c.ctxCleared_clears x
  have hstate := c.cxState_ctxCleared x
  have hne : ∀ y, (fState y).addr ≠ (fRestoreErr (coreIx x)).addr := fun y => by
    simp only [fState, fRestoreErr, Reg.CORE_CTX_STATUS.STATE, Reg.PWR_CORE_STATUS.RESTORE_ERR, mkFld, ctxDie, ctxCore, ctxNum]
    omega
  rw [Chip.restoreFailed_eq h]
  generalize c.ctxCleared x = e at hclear hstate
  obtain ⟨hrest, hget⟩ := e.dieIrq_put (fRestoreErr (coreIx x)) 1 (ctxDie x)
  generalize (e.put (fRestoreErr (coreIx x)) 1).dieIrq (ctxDie x) = b at hrest hget
  have herr : b.get (fRestoreErr (coreIx x)) = 1 := (hget _).trans (Chip.get_put_self _ _ _)
  have hctx : ∀ y, b.ctxOf y = e.ctxOf y := fun y => by rw [hrest]; rfl
  refine ⟨⟨?_, fun d hd => (hget _).trans ((Chip.get_put_ne _ _ ?_).trans (hclear.regs _ (saveBase_leaves hx hd))), fun _ => herr⟩,
    (hget _).trans ((Chip.get_put_ne _ _ (hne x)).trans hstate), herr, fun y hy hyx => ⟨(hctx y).trans (hclear.others y hyx), ?_⟩⟩
  · rw [hrest, hclear.rest]
  · simp only [fRestoreErr, Reg.PWR_SAVE.BASE, Reg.PWR_CORE_STATUS.RESTORE_ERR, mkFld]
    omega
  · exact (hget _).trans ((Chip.get_put_ne _ _ (hne y)).trans (hclear.regs _ (fState_resetLeaves hyx hy)))

/-! ### Contexts of a core are restored -/

/-- A context that has an image is restored. -/
def Chip.restoreOne (c : Chip) (x : Nat) : Chip := if c.cxState x == cxIdle || c.cxState x == cxHeld then c.c3Restore x else c

/-- An IDLE context before and after it is restored. -/
structure Chip.RestoredCtx (a b : Chip) (x : Nat) : Prop where
  sound : a.imageBad x = false → b.ctxOf x = a.ctxOf x
  poisoned : a.imageBad x = true → b.cxState x = cxOff ∧ b.get (fRestoreErr (coreIx x)) = 1

theorem Chip.restoreOne_facts {c : Chip} {x : Nat} (hx : x < 960) (hheld : c.imageHeld x) :
    c.Restores (c.restoreOne x) (coreIx x) ∧ (∀ y < 960, y ≠ x → (c.restoreOne x).ctxOf y = c.ctxOf y ∧ (c.restoreOne x).cxState y = c.cxState y)
      ∧ (c.cxState x = cxIdle → c.RestoredCtx (c.restoreOne x) x) := by
  unfold Chip.restoreOne
  rw [Chip.c3Restore_of_held hheld]
  by_cases hstate : (c.cxState x == cxIdle || c.cxState x == cxHeld) = true
  · rw [if_pos hstate]
    have hnot : c.cxState x ≠ cxRunning := fun e => by rw [e] at hstate; exact absurd hstate (by decide)
    obtain ⟨hrestores, hoff, herr, hothers⟩ := Chip.restoreFailed_facts hx hnot
    by_cases hbad : c.imageBad x = true
    · rw [if_pos hbad]
      exact ⟨hrestores, hothers, fun _ => ⟨fun e => absurd (e.symm.trans hbad) (by decide), fun _ => ⟨hoff, herr⟩⟩⟩
    · rw [if_neg hbad]
      exact ⟨Chip.Restores.refl c _, fun _ _ _ => ⟨rfl, rfl⟩, fun _ => ⟨fun _ => rfl, fun e => absurd e hbad⟩⟩
  · rw [if_neg hstate]
    exact ⟨Chip.Restores.refl c _, fun _ _ _ => ⟨rfl, rfl⟩, fun e => absurd (by rw [e]; rfl) hstate⟩

theorem Chip.foldl_restoreOne {k : Nat} (hk : k < 240) {l : List Nat} (hl : l.Nodup) (hmem : ∀ x ∈ l, x ∈ coreCtxs k) (c : Chip) (hheld : ∀ x ∈ l, c.imageHeld x) :
    c.Restores (l.foldl Chip.restoreOne c) k
      ∧ (∀ y < 960, y ∉ l → (l.foldl Chip.restoreOne c).ctxOf y = c.ctxOf y ∧ (l.foldl Chip.restoreOne c).cxState y = c.cxState y)
      ∧ ∀ x ∈ l, c.cxState x = cxIdle → c.RestoredCtx (l.foldl Chip.restoreOne c) x := by
  induction l generalizing c with
  | nil => exact ⟨Chip.Restores.refl c k, fun _ _ _ => ⟨rfl, rfl⟩, by simp⟩
  | cons n l ih =>
    obtain ⟨hn, hl⟩ := List.nodup_cons.1 hl
    have hcore : ∀ x ∈ n :: l, x / 4 = k := fun x hx => mem_coreCtxs.1 (hmem x hx)
    have hlt : ∀ x ∈ n :: l, x < 960 := fun x hx => by have := hcore x hx; omega
    obtain ⟨h, hothers, hone⟩ := Chip.restoreOne_facts (hlt n (by simp)) (hheld n (by simp))
    rw [show coreIx n = k from hcore n (by simp)] at h
    obtain ⟨g, gothers, gone⟩ := ih hl (fun x hx => hmem x (by simp [hx])) (c.restoreOne n) fun x hx => (h.images (hlt x (by simp [hx]))).2.2 (hheld x (by simp [hx]))
    refine ⟨h.trans g, fun y hy hyl => ?_, fun x hx hidle => ?_⟩
    · obtain ⟨hyn, hyl⟩ := not_or.1 (fun e => hyl (List.mem_cons.2 e))
      obtain ⟨gctx, gstate⟩ := gothers y hy hyl
      obtain ⟨hctx, hstate⟩ := hothers y hy hyn
      exact ⟨gctx.trans hctx, gstate.trans hstate⟩
    · have hx' := hlt x hx
      rcases List.mem_cons.1 hx with rfl | hxl
      · obtain ⟨gctx, gstate⟩ := gothers x hx' hn
        obtain ⟨hsound, hpoisoned⟩ := hone hidle
        refine ⟨fun e => gctx.trans (hsound e), fun e => ?_⟩
        obtain ⟨hoff, herr⟩ := hpoisoned e
        rw [show coreIx x = k from hcore x hx] at herr ⊢
        exact ⟨gstate.trans hoff, g.failed herr⟩
      · obtain ⟨hctx, hstate⟩ := hothers x hx' fun e => hn (e ▸ hxl)
        obtain ⟨gsound, gpoisoned⟩ := gone x hxl (hstate.trans hidle)
        rw [h.imageBad hx'] at gsound gpoisoned
        exact ⟨fun e => (gsound e).trans hctx, gpoisoned⟩

end Sys2Proof.Machine
end

section
/-! A core that has left C3 routes its contexts' interrupts and chooses one (R72, R401, R404). -/
namespace Sys2Proof.Machine

/-! ### Interrupts are routed -/

/-- What routing interrupts to core k's contexts leaves. -/
structure Chip.Routed (a b : Chip) (k : Nat) : Prop where
  rest : b = { a with regs := b.regs, ctx := b.ctx, core := b.core, coh := { a.coh with ops := b.coh.ops, l3reqs := b.coh.l3reqs } }
  pc : ∀ y, (b.ctxOf y).pc = (a.ctxOf y).pc
  off : ∀ y, a.cxState y = cxOff → b.cxState y = cxOff
  awake : a.cstate k = 0 ∧ (a.coreOf k).c3 = 0 → b.cstate k = 0 ∧ (b.coreOf k).c3 = 0
  get : ∀ f : Fld, (∀ x, f.addr ≠ (fState x).addr) → (∀ j, f.addr ≠ (fCstate j).addr) → b.get f = a.get f

namespace Chip.Routed

theorem refl (a : Chip) (k : Nat) : a.Routed a k := ⟨rfl, fun _ => rfl, fun _ h => h, id, fun _ _ _ => rfl⟩

theorem trans {a b c : Chip} {k : Nat} (h : a.Routed b k) (g : b.Routed c k) : a.Routed c k where
  rest := by rw [g.rest, h.rest]
  pc y := (g.pc y).trans (h.pc y)
  off y := g.off y ∘ h.off y
  awake := g.awake ∘ h.awake
  get f hs hc := (g.get f hs hc).trans (h.get f hs hc)

theorem turned {a b : Chip} {k : Nat} (h : a.Turned b k) : a.Routed b k where
  rest := h.rest
  pc y := (h.sameRegs y).pc
  off y hy := (h.state_of_ne (by rw [hy]; decide)).trans hy
  awake := fun ⟨hstate, hc3⟩ => ⟨(h.cstate.resolve_right fun e => absurd (hstate.symm.trans e.1) (by decide)).trans hstate, h.c3 hc3 (by rw [hstate]; decide)⟩
  get _ hs hc := h.get hs hc

/-- An IDLE context becomes READY. -/
theorem ready {a : Chip} {x : Nat} (h : a.cxState x = cxIdle) (k : Nat) : a.Routed (a.put (fState x) cxReady) k where
  rest := rfl
  pc _ := rfl
  off y hy := (Chip.cxState_put_ne _ _ (fState_ne fun e => absurd (h.symm.trans (e ▸ hy)) (by decide))).trans hy
  awake := fun ⟨hstate, hc3⟩ => ⟨(Chip.cstate_put_ne _ _ (fState_ne_fCstate x k).symm).trans hstate, hc3⟩
  get _ hs _ := Chip.get_put_ne _ _ (hs x)

end Chip.Routed

theorem Chip.irqRoute_routed (c : Chip) (x : Nat) : c.Routed (c.irqRoute x) (coreIx x) := by
  cases hbest : c.irqBest x with
  | none =>
    rw [Chip.irqRoute_of_none hbest]
    exact Chip.Routed.refl c _
  | some _ =>
    by_cases hstill : c.cxState x ≠ cxIdle ∨ 2 ≤ c.cstate (coreIx x)
    · exact Chip.Routed.turned (Chip.irqRoute_turned hstill)
    · obtain ⟨hidle, hcore⟩ := not_or.1 hstill
      have hdue : ∃ v < 64, c.irqReady x v = true := by
        by_contra hno
        have hnone : c.irqBest x = none := Chip.irqBest_eq_none.2 fun v hv => Bool.eq_false_iff.2 fun e => hno ⟨v, hv, e⟩
        rw [hnone] at hbest
        cases hbest
      obtain ⟨v, hv, hready⟩ := hdue
      have hidle := not_not.1 hidle
      exact (Chip.Routed.ready hidle _).trans (Chip.Routed.turned (Chip.irqRoute_wakes hv hready hidle (by omega)).1)

theorem Chip.foldl_irqRoute {k : Nat} {l : List Nat} (hl : ∀ x ∈ l, x ∈ coreCtxs k) (c : Chip) : c.Routed (l.foldl (fun c x => c.irqRoute x) c) k := by
  induction l generalizing c with
  | nil => exact Chip.Routed.refl c k
  | cons n l ih =>
    have h := c.irqRoute_routed n
    rw [show coreIx n = k from mem_coreCtxs.1 (hl n (by simp))] at h
    exact h.trans (ih (fun x hx => hl x (by simp [hx])) _)

/-! ### A core leaves C3 -/

/-- Core k's power is back. -/
def Chip.coreBack (c : Chip) (k : Nat) : Chip := (c.put (fCstate k) 0).coreMod k (fun s => { s with c3 := 0 })

/-- Its contexts' interrupts are routed, and it chooses one. -/
def Chip.coreResumed (c : Chip) (k : Nat) : Chip := ((coreCtxs k).foldl (fun c x => c.irqRoute x) c).coreChoose k false

theorem Chip.c3Exit_eq {c : Chip} {k : Nat} (h : c.cstate k = 2) (h3 : (c.coreOf k).c3 = 3) :
    c.c3Exit k = (((coreCtxs k).foldl Chip.restoreOne c).coreBack k).coreResumed k := by
  unfold Chip.c3Exit
  rw [if_pos (by rw [h, h3]; rfl)]
  rfl

theorem Chip.coreResumed_routed (c : Chip) (k : Nat) : c.Routed (c.coreResumed k) k :=
  (Chip.foldl_irqRoute (fun _ hx => hx) c).trans (Chip.Routed.turned (Chip.coreChoose_turned _ k false))

theorem Chip.coreBack_awake (c : Chip) (k : Nat) : (c.coreBack k).cstate k = 0 ∧ ((c.coreBack k).coreOf k).c3 = 0 :=
  ⟨c.cstate_put_self k 0, congrArg CoreSt.c3 ((c.put (fCstate k) 0).coreOf_coreMod_self k fun s => { s with c3 := 0 })⟩

/-- An IDLE context before and after its core leaves C3. -/
structure Chip.ResumedCtx (a b : Chip) (x : Nat) : Prop where
  sound : a.imageBad x = false → (b.ctxOf x).pc = (a.ctxOf x).pc
  poisoned : a.imageBad x = true → b.cxState x = cxOff ∧ b.get (fRestoreErr (coreIx x)) = 1

/-- What a core and its IDLE contexts are once it has left C3. -/
theorem Chip.c3Exit_facts {c : Chip} {k : Nat} (hk : k < 240) (h : c.cstate k = 2) (h3 : (c.coreOf k).c3 = 3) (hheld : ∀ x ∈ coreCtxs k, c.imageHeld x) :
    (c.c3Exit k).otp = c.otp ∧ (c.c3Exit k).coh.wants = c.coh.wants ∧ (c.c3Exit k).cstate k = 0 ∧ ((c.c3Exit k).coreOf k).c3 = 0
      ∧ ∀ x ∈ coreCtxs k, c.cxState x = cxIdle → c.ResumedCtx (c.c3Exit k) x := by
  obtain ⟨hrestores, -, hctx⟩ := Chip.foldl_restoreOne hk (nodup_coreCtxs k) (fun _ hx => hx) c hheld
  have heq := Chip.c3Exit_eq h h3
  generalize (coreCtxs k).foldl Chip.restoreOne c = d at hrestores hctx heq
  have hback := d.coreBack_awake k
  have hbackRest : d.coreBack k = { d with regs := (d.coreBack k).regs, core := (d.coreBack k).core } := rfl
  have hbackGet : ∀ f, f.addr ≠ (fCstate k).addr → (d.coreBack k).get f = d.get f := fun f hf => d.get_put_ne 0 hf
  generalize d.coreBack k = e at hback hbackRest hbackGet heq
  have hroute := e.coreResumed_routed k
  rw [← heq] at hroute
  have hrest := hrestores.rest
  obtain ⟨hawake, hc3⟩ := hroute.awake hback
  refine ⟨by rw [hroute.rest, hbackRest, hrest], by rw [hroute.rest, hbackRest, hrest], hawake, hc3, fun x hx hidle => ⟨fun hgood => ?_, fun hbad => ?_⟩⟩
  · have hectx : e.ctxOf x = d.ctxOf x := by rw [hbackRest]; rfl
    rw [hroute.pc, hectx, (hctx x hx hidle).sound hgood]
  · obtain ⟨hoff, herr⟩ := (hctx x hx hidle).poisoned hbad
    refine ⟨hroute.off x ((hbackGet _ (fState_ne_fCstate x k)).trans hoff), (hroute.get _ (fun y => ?_) fun j => ?_).trans ((hbackGet _ ?_).trans herr)⟩
    · simp only [fState, fRestoreErr, Reg.CORE_CTX_STATUS.STATE, Reg.PWR_CORE_STATUS.RESTORE_ERR, mkFld, ctxDie, ctxCore, ctxNum]
      omega
    all_goals
      simp only [fCstate, fRestoreErr, Reg.PWR_CORE_STATUS.CSTATE, Reg.PWR_CORE_STATUS.RESTORE_ERR, mkFld]
      omega

/-- A command that finds in the hub all that it needs runs whole. -/
theorem Chip.whole_of_wants {c : Chip} {f : Chip → Chip} {r : Chip} (hr : f { c with coh := { c.coh with wants := some none } } = r) (h : r.coh.wants = some none) :
    c.whole f = { r with coh := { r.coh with wants := none, far := r.coh.far.filter (fun x => !x.used) } } := by
  unfold Chip.whole
  rw [hr]
  dsimp only
  rw [h]

theorem State.c3Exit_next {s : State} (k : Fin 240) (hs : s.chip.halted = false) (h : s.chip.cstate k.val = 2) (h3 : (s.chip.coreOf k.val).c3 = 3)
    (hheld : ∀ x ∈ coreCtxs k.val, s.chip.imageHeld x) :
    ∃ t, exec (.c3Exit k) s = .next t ∧ t.pending = s.pending ∧ t.chip.cstate k.val = 0 ∧ (t.chip.coreOf k.val).c3 = 0
      ∧ ∀ x ∈ coreCtxs k.val, s.chip.cxState x = cxIdle → s.chip.ResumedCtx t.chip x := by
  obtain ⟨hotp, hwants, hawake, hc3, hctx⟩ := Chip.c3Exit_facts (c := { s.chip with coh := { s.chip.coh with wants := some none } }) k.isLt h h3 hheld
  have hwhole := Chip.whole_of_wants (c := s.chip) (f := fun c => c.c3Exit k.val) rfl hwants
  dsimp only at hwhole
  generalize Chip.c3Exit _ _ = d at hotp hwants hawake hc3 hctx hwhole
  refine ⟨_, s.run_eq (fun c => c.whole (fun c => c.c3Exit k.val)) hs (by rw [hwhole]; exact hotp), rfl, ?_⟩
  dsimp only
  rw [hwhole]
  exact ⟨hawake, hc3, fun x hx hidle => ⟨(hctx x hx hidle).sound, (hctx x hx hidle).poisoned⟩⟩

end Sys2Proof.Machine
end

section
/-! The power states of cores, contexts, clusters and blocks, and temperatures (R71, R401, R403 to R409). -/
namespace Sys2Proof.Machine

theorem b2n_on (c : Chip) {f : Fld} (hw : f.width = 1) : b2n (c.on f) = c.get f := by
  have hlt := c.get_lt f
  rw [hw] at hlt
  unfold Chip.on
  interval_cases c.get f <;> rfl

/-- A sampled temperature sets WARN_ON and CRIT_ON at their thresholds, clears them 5 degrees below, and leaves WARN_ON between (R408). -/
theorem State.tempSample_flags {s : State} (u : Fin 13) (temp : BitVec 8) (hs : s.chip.halted = false) (hu : u.val < 12) :
    ∃ t, exec (.tempSample u temp false) s = .next t ∧ t.pending = s.pending ∧ t.chip.get (Reg.PWR_THERM.TEMP u.val) = temp.toNat
      ∧ t.chip.pwr.tripped = decide (125 ≤ toSigned 8 temp.toNat)
      ∧ (toSigned 8 (s.chip.get (Reg.PWR_THERM.WARN u.val)) ≤ toSigned 8 temp.toNat → t.chip.get (Reg.PWR_THERM.WARN_ON u.val) = 1)
      ∧ (toSigned 8 temp.toNat ≤ toSigned 8 (s.chip.get (Reg.PWR_THERM.WARN u.val)) - 5 → t.chip.get (Reg.PWR_THERM.WARN_ON u.val) = 0)
      ∧ (toSigned 8 (s.chip.get (Reg.PWR_THERM.WARN u.val)) - 5 < toSigned 8 temp.toNat →
          toSigned 8 temp.toNat < toSigned 8 (s.chip.get (Reg.PWR_THERM.WARN u.val)) →
          t.chip.get (Reg.PWR_THERM.WARN_ON u.val) = s.chip.get (Reg.PWR_THERM.WARN_ON u.val))
      ∧ (toSigned 8 (s.chip.get (Reg.PWR_THERM.CRIT u.val)) ≤ toSigned 8 temp.toNat → t.chip.get (Reg.PWR_THERM.CRIT_ON u.val) = 1)
      ∧ (toSigned 8 temp.toNat ≤ toSigned 8 (s.chip.get (Reg.PWR_THERM.CRIT u.val)) - 5 → t.chip.get (Reg.PWR_THERM.CRIT_ON u.val) = 0)
      ∧ SameMemory s.chip t.chip ∧ t.chip.ctx = s.chip.ctx := by
  obtain ⟨t, hexec, hpend, htemp, htrip, hwarn, hcrit, hmem, hctx⟩ := State.tempSample_next u temp hs hu
  refine ⟨t, hexec, hpend, htemp, htrip, fun h => ?_, fun h => ?_, fun hlow hhigh => ?_, fun h => ?_, fun h => ?_, hmem, hctx⟩
  · rw [hwarn, thermFlag_of_le h]
    rfl
  · rw [hwarn, thermFlag_of_low h]
    rfl
  · rw [hwarn, thermFlag_between hlow hhigh]
    exact b2n_on _ rfl
  · rw [hcrit, thermFlag_of_le h]
    rfl
  · rw [hcrit, thermFlag_of_low h]
    rfl

end Sys2Proof.Machine
open Sys2Proof Sys2Proof.Machine

/-- Settles O37: each clause is one command's next state; the folds over a core's or a cluster's contexts keep what every step keeps. -/
theorem coresAndBlocksPower : Obligations.CoresAndBlocksPower := by
  unfold Obligations.CoresAndBlocksPower
  refine ⟨?cores, ?contexts, ?clusters, ?gates, ?gateEnds, ?temperatures⟩
  case cores =>
    intro s k hs
    refine ⟨State.c1Entry_next k hs, State.c3Entry_next k hs, State.c3SaveDone_saved k hs, State.c3SaveDone_failed k hs, fun h h3 hheld => ?_⟩
    obtain ⟨t, hexec, hpend, hawake, hc3, hctx⟩ := State.c3Exit_next k hs h h3 hheld
    refine ⟨t, hexec, hpend, hawake, hc3, fun x hx hidle => ?_⟩
    obtain ⟨hsound, hpoisoned⟩ := hctx x hx hidle
    rw [show coreIx x = k.val from mem_coreCtxs.1 hx] at hpoisoned
    refine ⟨fun hgood => hsound (Bool.eq_false_iff.2 fun e => ?_), fun hbad => hpoisoned (Chip.imageBad_eq_true.2 hbad)⟩
    obtain ⟨l, hl, p, hp, hpoison⟩ := Chip.imageBad_eq_true.1 e
    exact absurd (hpoison.symm.trans (hgood l hl p hp)) (by decide)
  case contexts =>
    intro s w x h hpresent hc3
    rw [(ctxCtrlOff_eq x.val).1] at h ⊢
    exact ⟨State.coreCtxStart_next x h hpresent hc3, State.coreCtxStart_on x h, State.coreCtxReset_next x h hpresent hc3, fun q => State.coreCtxReset_waits x h⟩
  case clusters =>
    intro s w d cl v h hp
    rw [clCtrlOff_eq] at h ⊢
    exact ⟨State.pwrClCtrl_denied h hp, fun hd => ⟨State.pwrClCtrl_same h hp hd,
      fun hv hwas => ⟨State.pwrClCtrl_busy h hp hd hv hwas, State.pwrClCtrl_off h hp hd hv hwas⟩, State.pwrClCtrl_on h hp hd⟩⟩
  case gates =>
    intro s w t h ht p hp
    simp only [List.mem_cons, List.not_mem_nil, or_false] at hp
    rcases hp with rfl | rfl | rfl
    · exact State.gate_next h ht (by decide) (by decide)
    · exact State.gate_next h ht (by decide) (by decide)
    · exact State.gate_next h ht (by decide) (by decide)
  case gateEnds =>
    exact fun s n op b hs h hn hn' hne => State.gateComplete_next hs h hn hn' hne
  case temperatures =>
    exact fun s u temp hs hu => State.tempSample_flags u temp hs hu
end

section
/-! What an issuing bundle comes to whose one operation a core treats by itself: a trap at its slot (R76, R104), or its issue (R57, R60). -/
namespace Sys2Proof.Machine

variable {a b c : Chip} {x : Nat} {q : Ctx}

/-! ### The checks of a bundle with one operation -/

/-- The one operation that does not pass its check stops the bundle. -/
theorem Chip.slotsCheck_eq_some {k : Ctx} {l : List Opn} {o : Opn} (ho : o ∈ l) (hrest : ∀ p ∈ l, p ≠ o → c.slotCheck x k p = .ok)
    (hstops : c.slotCheck x k o ≠ .ok) : c.slotsCheck x k l = some (o.slot, c.slotCheck x k o) := by
  induction l with
  | nil => exact absurd ho List.not_mem_nil
  | cons p l ih =>
    unfold Chip.slotsCheck
    by_cases hp : p = o
    · subst hp
      split
      next hok => exact absurd hok hstops
      next => rfl
    · rw [hrest p List.mem_cons_self hp]
      exact ih ((List.mem_cons.1 ho).resolve_left (Ne.symm hp)) fun r hr => hrest r (List.mem_cons_of_mem _ hr)

/-- A slot's trap is that of the bundle (R76). -/
theorem Chip.issueTry_of_slotTrap (sub : Nat) {f : Fetched} {n cause tval info : Nat} (hpoison : f.poison = false)
    (hlegal : bundleLegal f.bits (c.sprkEnt (coreIx x) (c.cxSecure x)) = true)
    (hslots : c.slotsCheck x (c.ctxOf x) ((List.range 6).map (opnAt f.bits)) = some (n, .trap cause tval info)) :
    c.issueTry x sub f
      = ((c.smpFault x (c.ctxOf x) ((List.range 6).map (opnAt f.bits))).raise x cause tval info (n <<< 15)).charge x fxBack 1 := by
  unfold Chip.issueTry
  simp [hpoison, hlegal, hslots]

/-- A bundle that faults moves its context's trap, and no memory. -/
theorem Chip.Cycled.faulted (h : a.Cycled b x q) (hx : x < 960) (ops : List Opn) (cause tval info word : Nat) :
    (∃ sm, (((b.smpFault x (b.ctxOf x) ops).raise x cause tval info word).charge x fxBack 1).ctxOf x
        = ({ q with sample := sm } : Ctx).trapped ⟨cause, tval, info, word⟩)
      ∧ SameMemory a (((b.smpFault x (b.ctxOf x) ops).raise x cause tval info word).charge x fxBack 1) := by
  have hfault := b.smpFault_counted hx (b.ctxOf x) ops
  have hcharge := Chip.charge_counted (cls := fxBack) ((b.smpFault x (b.ctxOf x) ops).raise x cause tval info word) 1 hx (by decide)
  refine ⟨⟨(b.ctxOf x).sample, ?_⟩, ?_⟩
  · rw [hcharge.ctxOf, Chip.ctxOf_coreMod, Chip.ctxOf_raise, hfault.ctxOf, ← h.mine]
  · have hraise := (h.sameMemory.trans hfault.sameMemory).trans (Chip.raise_sameMemory _ x cause tval info word)
    exact (hraise.trans (Chip.coreMod_sameMemory _ _ _)).trans hcharge.sameMemory

/-- A bundle of one operation that traps at its slot. -/
theorem Chip.Cycled.issueNext_slotTrap (h : a.Cycled b x (a.ctxOf x)) (hx : x < 960) {bun n cause tval info : Nat} {o : Opn} (ha : a.CtxIssues x bun)
    (hn : n < 6) (ho : opnAt bun n = o) (hnop : ∀ i < 6, i ≠ n → (opnAt bun i).syl = 0)
    (hlegal : bundleLegal bun (a.sprkEnt (coreIx x) (a.cxSecure x)) = true) (hcheck : b.slotCheck x (b.ctxOf x) o = .trap cause tval info) (sub : Nat) :
    (∃ sm, (b.issueNext x sub).ctxOf x = ({ a.ctxOf x with sample := sm } : Ctx).trapped ⟨cause, tval, info, n <<< 15⟩)
      ∧ SameMemory a (b.issueNext x sub) := by
  have hslots : b.slotsCheck x (b.ctxOf x) ((List.range 6).map (opnAt bun)) = some (n, .trap cause tval info) := by
    rw [Chip.slotsCheck_eq_some (o := o) (ho ▸ List.mem_map_of_mem (List.mem_range.2 hn)) ?rest (by simp [hcheck]), hcheck, ← ho]
    · rfl
    case rest =>
      intro p hp hne
      obtain ⟨i, hi, rfl⟩ := List.mem_map.1 hp
      exact b.slotCheck_of_nop x _ (hnop i (List.mem_range.1 hi) fun hin => hne (hin ▸ ho))
  rw [h.issueNext hx ha rfl rfl rfl rfl,
    Chip.issueTry_of_slotTrap sub rfl (by rw [h.world hx, h.sprk]; exact hlegal) hslots]
  exact h.faulted hx _ _ _ _ _

/-- A bundle of one active operation that passes its check, and needs no memory, issues. -/
theorem Chip.Cycled.issueNext_passes (h : a.Cycled b x (a.ctxOf x)) (hx : x < 960) {bun n : Nat} {o : Opn} (ha : a.CtxIssues x bun)
    (hpend : (a.ctxOf x).pend = []) (hn : n < 6) (ho : opnAt bun n = o) (hnop : ∀ i < 6, i ≠ n → (opnAt bun i).syl = 0) (hmaj : o.maj ≠ 0x3F)
    (hactive : o.activeOn ((a.ctxOf x).pr o.pred) = true) (hlegal : bundleLegal bun (a.sprkEnt (coreIx x) (a.cxSecure x)) = true)
    (hcheck : b.slotCheck x (b.ctxOf x) o = .ok)
    (hresults : ∀ ent, o.results (b.ctxOf x) ent ≤ 48) (hmem : ∀ ent, o.touchesMem ent = false) (hstore : o.isStore = false) (sub : Nat) :
    ((List.range 6).map (opnAt bun)).filter (b.opActive x (b.ctxOf x)) = [o]
      ∧ b.issueNext x sub = b.issueBundle x (b.ctxOf x) (b.sprkEnt (coreIx x) (b.cxSecure x)) sub ((List.range 6).map (opnAt bun)) := by
  obtain ⟨sm, hk⟩ : ∃ sm, b.ctxOf x = { a.ctxOf x with sample := sm } := ⟨_, h.mine⟩
  have hon : b.opActive x (b.ctxOf x) o = true := by
    unfold Chip.opActive
    rw [if_neg hmaj, hk]
    exact hactive
  have hact : ((List.range 6).map (opnAt bun)).filter (b.opActive x (b.ctxOf x)) = [o] := by
    rw [← ho]
    exact filter_opnAt_eq_single hn (by rw [ho]; exact hon) fun i hi hne => b.opActive_of_nop x _ (hnop i hi hne)
  have hslots : ∀ p ∈ (List.range 6).map (opnAt bun), b.slotCheck x (b.ctxOf x) p = .ok := by
    intro p hp
    obtain ⟨i, hi, rfl⟩ := List.mem_map.1 hp
    by_cases hin : i = n
    · rw [hin, ho]
      exact hcheck
    · exact b.slotCheck_of_nop x _ (hnop i (List.mem_range.1 hi) hin)
  have hnone : (b.ctxOf x).pend = [] := by rw [hk]; exact hpend
  refine ⟨hact, ?_⟩
  rw [h.issueNext hx ha rfl rfl rfl rfl]
  exact Chip.issueTry_of_legal sub rfl (by rw [h.world hx, h.sprk]; exact hlegal) hslots hact (by simpa [hnone] using hresults _)
    (.inl (by simp [hmem])) (.inl (by simp [hstore]))

/-- The cycle of a core whose context has nothing pending is its attempt to issue. -/
theorem State.bundleIssue_next {s : State} {x : Fin 960} {k : Fin 240} (sub : Fin 24) {b : Nat} (hissues : s.chip.issues x.val b = true)
    (hk : k.val = x.val / 4) (hpend : (s.chip.ctxOf x.val).pend = [])
    (hotp : ((s.chip.dueApplied x.val []).issueNext x.val sub.val).otp = s.chip.otp) :
    exec (.bundleIssue k (sub, none)) s = .next { s with chip := (s.chip.dueApplied x.val []).issueNext x.val sub.val } := by
  obtain ⟨hs, hcore, hctx⟩ := Chip.issues_iff.1 hissues
  have hcyc := Chip.coreCycle_of_nonePending sub.val hcore hctx hpend
  rw [show coreIx x.val = k.val from hk.symm] at hcyc
  rw [← hcyc] at hotp ⊢
  exact s.run_eq (fun c => c.coreCycle k.val sub.val) hs hotp

end Sys2Proof.Machine
end

section
/-! DIV, DIVU, REM and REMU (R90): what they compute, and the job of the shared divider that makes their result ready (R66). -/
namespace Sys2Proof.Machine

variable {a b c : Chip} {x : Nat} {q : Ctx}

/-! ### Quotients and remainders -/

/-- DIV: rounded toward zero, all ones for a divisor of 0, and the most negative number where the quotient is beyond the greatest. -/
theorem divRem_div (a d : Nat) : divRem 0 a d = if d = 0 then 0xFFFFFFFFFFFFFFFF else if a = 2 ^ 63 ∧ d = 2 ^ 64 - 1 then 2 ^ 63
    else ofSigned 64 ((toSigned 64 a).tdiv (toSigned 64 d)) := by
  simp only [divRem, if_true, Bool.and_eq_true, decide_eq_true_eq]
  rfl

theorem divRem_divu (a d : Nat) : divRem 1 a d = if d = 0 then 0xFFFFFFFFFFFFFFFF else a / d := rfl

/-- REM: what the rounded quotient leaves. -/
theorem divRem_rem (a d : Nat) : divRem 2 a d = if d = 0 then a else if a = 2 ^ 63 ∧ d = 2 ^ 64 - 1 then 0
    else ofSigned 64 (toSigned 64 a - (toSigned 64 a).tdiv (toSigned 64 d) * toSigned 64 d) := by
  have htmod : toSigned 64 a - (toSigned 64 a).tdiv (toSigned 64 d) * toSigned 64 d = (sgn 64 a).tmod (sgn 64 d) := by
    rw [Int.tmod_def, Int.mul_comm]
    rfl
  rw [htmod]
  simp only [divRem, Nat.reduceEqDiff, if_true, if_false, Bool.and_eq_true, decide_eq_true_eq]
  rfl

theorem divRem_remu (a d : Nat) : divRem 3 a d = if d = 0 then a else a % d := rfl

/-! ### A division issues -/

theorem Opn.eval_of_div {o : Opn} (h : o.maj = 0x12) (r : RegView) : o.eval r = some (.g o.rd, divRem o.min (r.g o.ra) (r.g o.rb), 0) := by
  simp [Opn.eval, h]

/-- A division is no memory operation. -/
theorem Opn.isMem_of_div {o : Opn} (h : o.maj = 0x12) : o.isMem = false := by simp [Opn.isMem, Opn.isLoad, Opn.isStore, Opn.isPref, Opn.isAmo, h]

/-- A division has one result (R67). -/
theorem Opn.results_of_div {o : Opn} (h : o.maj = 0x12) (hrd : o.rd ≠ 0) (k : Ctx) (ent : Nat → Nat) : o.results k ent = 1 := by
  have hdst : o.dst = some (.g o.rd) := by simp [Opn.dst, Opn.isLoad, Opn.isStore, Opn.isPref, Opn.eval_of_div h, h]
  have hlt : o.rd < 64 := bits_lt _ _ _
  have hp0 : o.rd ≠ 0x60 := by omega
  simp [Opn.results, Opn.isAmo, h, hdst, Dst.code, hrd, hp0]

/-- Outside a repeat its slot passes (R90). -/
theorem Chip.slotCheck_of_div {k : Ctx} {o : Opn} (h : o.maj = 0x12) (hrep : k.csGet csRepCount false = 0) : c.slotCheck x k o = .ok := by
  simp [Chip.slotCheck, h, hrep, Opn.isMem_of_div h]

/-- A number of a job is taken, beside which a cycle changes what it changed before. -/
theorem Chip.Cycled.newJob (h : a.Cycled b x q) (j : Nat) : ({ a with nextJob := j } : Chip).Cycled { b with nextJob := j } x q where
  mine := h.mine
  others := h.others
  rest := by
    obtain ⟨h1, h2, h3⟩ := h.rest
    refine ⟨?_, h2, h3⟩
    rw [h1]

/-- A result of a register that is neither g0 nor p0 waits for a job. -/
theorem Chip.Cycled.pendJob (h : a.Cycled b x q) {code : Nat} (wp slot val job va flags : Nat) (poison : Bool) (hg : code ≠ 0) (hp : code ≠ 0x60)
    (hf : code ≠ cdFlags) :
    a.Cycled (b.pendJob x code wp slot val job va flags poison) x { q with
      seq := q.seq + 1
      pend := q.pend ++ [⟨code, wp, slot, q.seq, val, false, poison, job, va, flags⟩] } := by
  unfold Chip.pendJob Chip.pendPush
  simp only [hg, hp, hf, Bool.or_self, decide_false, Bool.false_eq_true, if_false, Bool.false_and]
  exact h.ctx _ (fun _ => rfl)

/-- A division gives the divider a job, for which its result waits. -/
theorem Chip.execOp_of_div {k : Ctx} {ent : Nat → Nat} {sub : Nat} {first : Bool} {o : Opn} (h : o.maj = 0x12) (hrd : o.rd ≠ 0) :
    c.execOp x k ent sub first o
      = (((c.newJob.2.pendJob x o.rd (k.idx + o.dist (c.get Reg.HUB_PKG_ID.STEPPING) (sprkEntryHdr (ent o.rd)).dist) o.slot
          (divRem o.min (k.gr o.ra) (k.gr o.rb)) c.newJob.1 0 0 false).unitPush x 0 c.newJob.1).smpIssue x k o first 4 (c.ctxOf x).seq 0 0 0) := by
  simp [Chip.execOp, Opn.isMem_of_div h, Opn.eval_of_div h, h, Dst.code, hrd, Ctx.view]

/-- A bundle whose one active operation is a division issues. -/
theorem Chip.issueBundle_of_div {k : Ctx} {ent : Nat → Nat} {sub : Nat} {o : Opn} {ops : List Opn} (hact : ops.filter (c.opActive x k) = [o]) (h : o.maj = 0x12) :
    c.issueBundle x k ent sub ops = (((c.bundleCounted x [o]).execOp x k ent sub true o).advance x k).ctxSync x := by
  unfold Chip.issueBundle
  simp [hact, h, Chip.bundleCounted, Chip.bundleEvents]

/-- The division's quotient or remainder becomes pending; beside the number of its job, the cycle changes what every issue changes. -/
theorem Chip.Cycled.issued_div (h : a.Cycled b x (a.ctxOf x)) (hx : x < 960) {o : Opn} (hrep : (a.ctxOf x).csGet csRepCount false = 0)
    (hpend : (a.ctxOf x).pend = []) (hdiv : o.maj = 0x12) (hrd : o.rd ≠ 0) (ent : Nat → Nat) (sub : Nat) :
    ∃ wp job j, ({ a with nextJob := j } : Chip).Cycled ((((b.bundleCounted x [o]).execOp x (b.ctxOf x) ent sub true o).advance x (b.ctxOf x)).ctxSync x) x
      { a.ctxOf x with
        pend := [⟨o.rd, wp, o.slot, (a.ctxOf x).seq, divRem o.min ((a.ctxOf x).gr o.ra) ((a.ctxOf x).gr o.rb), false, false, job, 0, 0⟩]
        applied := 0
        seq := (a.ctxOf x).seq + 1
        pc := ((a.ctxOf x).pc + 32) % m64
        idx := (a.ctxOf x).idx + 1
        fetch := none } := by
  obtain ⟨sm, hk⟩ : ∃ sm, b.ctxOf x = { a.ctxOf x with sample := sm } := ⟨_, h.mine⟩
  have hlt : o.rd < 64 := bits_lt _ _ _
  rw [hk, Chip.execOp_of_div hdiv hrd]
  generalize hc : b.bundleCounted x [o] = c
  have hcount := h.bundleCounted hx [o]
  rw [hc] at hcount
  have hjob : ({ a with nextJob := c.nextJob + 1 } : Chip).Cycled c.newJob.2 x { a.ctxOf x with applied := 0 } := hcount.newJob _
  have hpush := (hjob.pendJob (code := o.rd) ((a.ctxOf x).idx + o.dist (c.get Reg.HUB_PKG_ID.STEPPING) (sprkEntryHdr (ent o.rd)).dist) o.slot
    (divRem o.min ((a.ctxOf x).gr o.ra) ((a.ctxOf x).gr o.rb)) c.newJob.1 0 0 false hrd (by omega) (by unfold cdFlags; omega)).core (coreIx x)
      (fun s => { s with units := s.units ++ [⟨c.newJob.1, x, 0⟩] })
  have hres := ((hpush.smpIssue hx { a.ctxOf x with sample := sm } o true 4 (c.ctxOf x).seq 0 0 0).advance
    (k := { a.ctxOf x with sample := sm }) hrep rfl).sync
  rw [show ({ a.ctxOf x with applied := 0 } : Ctx).pend = [] from hpend, List.nil_append] at hres
  exact ⟨_, _, _, hres⟩

end Sys2Proof.Machine

open Sys2Proof Sys2Proof.Machine

/-- Settles O55: a division passes its slot's check whatever its operands are, and its result waits for the divider. -/
theorem divisionNeverTraps : Obligations.DivisionNeverTraps := by
  unfold Obligations.DivisionNeverTraps
  intro s x k sub b n a d o hissues hk hrep hpend hnop hn ho hactive hlegal hdiv hrd ha hd _ _
  obtain ⟨-, -, hctx⟩ := Chip.issues_iff.1 hissues
  have hdue := Chip.dueApplied_none x.val hpend
  obtain ⟨hact, hissue⟩ := hdue.issueNext_passes x.isLt hctx hpend hn ho hnop (by rw [hdiv]; decide) hactive hlegal
    (Chip.slotCheck_of_div hdiv (by rw [hdue.mine]; exact hrep)) (fun ent => by simp [Opn.results_of_div hdiv hrd])
    (fun ent => by simp [Opn.touchesMem, Opn.isMem_of_div hdiv, hdiv]) (by simp [Opn.isStore, hdiv]) sub.val
  rw [Chip.issueBundle_of_div hact hdiv] at hissue
  obtain ⟨wp, job, j, hres⟩ := hdue.issued_div x.isLt hrep hpend hdiv hrd
    ((s.chip.dueApplied x.val []).sprkEnt (coreIx x.val) ((s.chip.dueApplied x.val []).cxSecure x.val)) sub.val
  rw [← hissue, ha, hd] at hres
  refine ⟨_, _, State.bundleIssue_next sub hissues hk hpend hres.sameMemory.otp, rfl, (congrArg Ctx.trap hres.mine).trans hctx.trap,
    congrArg Ctx.pend hres.mine, rfl, rfl, rfl, fun h => ?_, fun h => ?_, fun h => ?_, fun h => ?_⟩
  · exact (congrArg (fun m => divRem m a d) h).trans (divRem_div a d)
  · exact (congrArg (fun m => divRem m a d) h).trans (divRem_rem a d)
  · exact (congrArg (fun m => divRem m a d) h).trans (divRem_divu a d)
  · exact (congrArg (fun m => divRem m a d) h).trans (divRem_remu a d)
end

section
/-! Bundles inside a repeat (R104): the operations that a repeat refuses, and SYSC and BRK, which trap by themselves (R138). -/
namespace Sys2Proof.Machine

variable {a b c : Chip} {x : Nat}

/-! ### Checks of slots inside a repeat -/

/-- An operation that a repeat refuses (R104): a transfer, REPB, IDLE, ERET, a serialising operation or a write of a repeat register. -/
def Opn.RepeatRefused (o : Opn) : Prop :=
  o.maj = 0x18 ∨ o.maj = 0x19 ∨ o.maj = 0x1A ∨ o.maj = 0x1B ∨ (o.maj = 0 ∧ o.min = 2) ∨ (o.maj = 0 ∧ o.min = 3) ∨ o.maj = 0x30
    ∨ (o.maj = 0x14 ∧ (o.immU = 0x21 ∨ o.immU = 0x22 ∨ o.immU = 0x23))

/-- Its slot traps whatever its predicate says. -/
theorem Chip.slotCheck_of_repeatRefused {k : Ctx} {o : Opn} (h : o.RepeatRefused) (hsyl : o.syl ≠ 0) (hrep : k.csGet csRepCount false ≠ 0) :
    c.slotCheck x k o = .trap trInRepeat 0 0 := by
  have hkind : ((0x18 ≤ o.maj && o.maj ≤ 0x1B) || (o.maj == 0 && (o.min == 2 || o.min == 3)) || o.maj == 0x30
      || (o.maj == 0x14 && csRepCount ≤ o.immU && o.immU ≤ csRepEnd)) = true := by
    simp only [Bool.or_eq_true, Bool.and_eq_true, decide_eq_true_eq, beq_iff_eq]
    unfold Opn.RepeatRefused at h
    unfold csRepCount csRepEnd
    omega
  have hin : (k.csGet csRepCount false != 0) = true := bne_iff_ne.2 hrep
  unfold Chip.slotCheck
  simp only [hsyl, hin, hkind, Bool.and_self, if_false, if_true]

/-- BRK traps for the debugger or by itself (R138), inside a repeat too. -/
theorem Chip.slotCheck_of_brk {k : Ctx} {o : Opn} (hmaj : o.maj = 0) (hmin : o.min = 5) (hsyl : o.syl ≠ 0) (hact : c.opActive x k o = true) :
    ∃ cause, (cause = trBreak ∨ cause = trDebug) ∧ c.slotCheck x k o = .trap cause 0 0 := by
  unfold Chip.slotCheck
  simp only [hsyl, hact, hmaj, hmin]
  by_cases hdebug : (c.invasive (c.cxSecure x) && c.on (if c.cxSecure x = true then Reg.SEC_DBG.BRK_S else Reg.SEC_DBG.BRK_N)) = true
  · exact ⟨trDebug, .inr rfl, by simp [hdebug]⟩
  · exact ⟨trBreak, .inl rfl, by simp [hdebug]⟩

/-- SYSC passes its check: its trap comes as it issues. -/
theorem Chip.slotCheck_of_sysc {k : Ctx} {o : Opn} (hmaj : o.maj = 0) (hmin : o.min = 4) : c.slotCheck x k o = .ok := by
  simp [Chip.slotCheck, hmaj, hmin]

/-! ### SYSC issues -/

/-- A system operation has no result. -/
theorem Opn.results_of_system {o : Opn} (h : o.maj = 0) (k : Ctx) (ent : Nat → Nat) : o.results k ent = 0 := by
  simp [Opn.results, Opn.dst, Opn.eval, Opn.isLoad, Opn.isStore, Opn.isPref, Opn.isAmo, h]

/-- Nor is it a memory operation. -/
theorem Opn.isMem_of_system {o : Opn} (h : o.maj = 0) : o.isMem = false := by simp [Opn.isMem, Opn.isLoad, Opn.isStore, Opn.isPref, Opn.isAmo, h]

/-- A bundle whose one active operation is SYSC issues, and asks for its trap (R138). -/
theorem Chip.issueBundle_of_sysc {k : Ctx} {ent : Nat → Nat} {sub : Nat} {o : Opn} {ops : List Opn} (hact : ops.filter (c.opActive x k) = [o]) (hmaj : o.maj = 0)
    (hmin : o.min = 4) :
    c.issueBundle x k ent sub ops
      = ((((c.bundleCounted x [o]).smpIssue x k o true 4 ((c.bundleCounted x [o]).ctxOf x).seq 0 0 0).advance x k).ctxSync x).raise x trSyscall 0 0 0 := by
  unfold Chip.issueBundle
  simp [hact, hmaj, hmin, Chip.execOp, Opn.isMem_of_system hmaj, Chip.bundleCounted, Chip.bundleEvents]

/-- Going on to the next bundle, inside a repeat or outside, moves no memory. -/
theorem Chip.advance_sameMemory (c : Chip) {x : Nat} (hx : x < 960) (k : Ctx) : SameMemory c (c.advance x k) := by
  have hcount : SameMemory c (if k.csGet csRepCount false != 0 && k.pc == k.csGet csRepEnd false then c.evCore x 0x0D 1 else c) := by
    split
    · exact (c.evCore_counted 0x0D 1 hx).sameMemory
    · exact (CountedOnly.refl c).sameMemory
  exact hcount.trans ⟨rfl, rfl, rfl, rfl, rfl, rfl, rfl⟩

theorem Chip.Cycled.issued_sysc (h : a.Cycled b x (a.ctxOf x)) (hx : x < 960) (k : Ctx) (o : Opn) (seq : Nat) :
    SameMemory a (((((b.bundleCounted x [o]).smpIssue x k o true 4 seq 0 0 0).advance x k).ctxSync x).raise x trSyscall 0 0 0) := by
  have hissue := ((h.bundleCounted hx [o]).smpIssue hx k o true 4 seq 0 0 0).sameMemory.trans (Chip.advance_sameMemory _ hx k)
  exact (hissue.trans (Chip.Cycled.refl _ x).sync.sameMemory).trans (Chip.raise_sameMemory _ x trSyscall 0 0 0)

end Sys2Proof.Machine

open Sys2Proof Sys2Proof.Machine

/-- Settles O56: the slot of a refused operation traps before its predicate is looked at; SYSC passes its slot and traps as it issues, BRK at its slot. -/
theorem repeatBodiesRefuse : Obligations.RepeatBodiesRefuse := by
  unfold Obligations.RepeatBodiesRefuse
  intro s x k sub b n o hissues hk hrep hpend hnop hn ho hsyl hlegal
  obtain ⟨-, -, hctx⟩ := Chip.issues_iff.1 hissues
  have hdue := Chip.dueApplied_none x.val hpend
  refine ⟨fun hrefused => ?refused, fun hmaj hmin hactive => ?traps⟩
  case refused =>
    obtain ⟨⟨sm, hmine⟩, hmem⟩ := hdue.issueNext_slotTrap x.isLt hctx hn ho hnop hlegal
      (Chip.slotCheck_of_repeatRefused hrefused hsyl (by rw [hdue.mine]; exact hrep)) sub.val
    refine ⟨_, _, State.bundleIssue_next sub hissues hk hpend hmem.otp, rfl, congrArg Ctx.trap hmine, rfl, ?_, (congrArg Ctx.pend hmine).trans hpend⟩
    dsimp only
    rw [hmine]
    exact ⟨rfl, rfl, rfl, rfl, rfl, rfl⟩
  case traps =>
    have hmaj' : o.maj ≠ 0x3F := by rw [hmaj]; decide
    rcases hmin with hsysc | hbrk
    · obtain ⟨hact, hissue⟩ := hdue.issueNext_passes x.isLt hctx hpend hn ho hnop hmaj' hactive hlegal (Chip.slotCheck_of_sysc hmaj hsysc)
        (fun ent => by simp [Opn.results_of_system hmaj]) (fun ent => by simp [Opn.touchesMem, Opn.isMem_of_system hmaj, hmaj])
        (by simp [Opn.isStore, hmaj]) sub.val
      rw [Chip.issueBundle_of_sysc hact hmaj hsysc] at hissue
      have hotp := (congrArg Chip.otp hissue).trans (hdue.issued_sysc x.isLt _ o _).otp
      refine ⟨_, ⟨trSyscall, 0, 0, 0⟩, State.bundleIssue_next sub hissues hk hpend hotp, rfl, ?_, by rw [if_pos hsysc]⟩
      dsimp only
      rw [hissue, Chip.ctxOf_raise]
      rfl
    · have hon : (s.chip.dueApplied x.val []).opActive x.val ((s.chip.dueApplied x.val []).ctxOf x.val) o = true := by
        unfold Chip.opActive
        rw [if_neg hmaj', hdue.mine]
        exact hactive
      obtain ⟨cause, hcause, hcheck⟩ := Chip.slotCheck_of_brk hmaj hbrk hsyl hon
      obtain ⟨⟨sm, hmine⟩, hmem⟩ := hdue.issueNext_slotTrap x.isLt hctx hn ho hnop hlegal hcheck sub.val
      exact ⟨_, _, State.bundleIssue_next sub hissues hk hpend hmem.otp, rfl, congrArg Ctx.trap hmine, by rw [if_neg (by rw [hbrk]; decide)]; exact hcause⟩
end

section
/-! The list of the hub cache's lines may name a way twice. A lookup finds a line by its number (R152), but what is then kept of it goes to the first entry of
its way: a hit on the second makes that line new (R153) in the first's place, and the first line is gone. The drain of the audit log reads the header of the
DRAM sink before it writes the record (R347), so that it finds the record's line no more, asks its home for it, and waits. The clause of the DRAM sink has no
hypothesis that the ways of the hub cache are distinct (`SMap.sorted`). -/
namespace Sys2Proof.Machine

/-- The oldest record of the ring, which no sink holds. -/
def AudRec.undrained : AudRec := { seq := 0, data := 0, inDram := false, inMram := false }

/-- The DRAM sink alone is enabled, with 2^14 records at address 0, of which 8,192 have been written and none consumed. The line of the next record, 4,097, falls
into the set of the hub cache in which the header's line, 0, is, and both are listed at way 0 of it. -/
def State.wayTwice : State :=
  { State.reset with chip :=
    { State.reset.chip.puts
        [(Reg.HUB_AMAP_LOCK.LOCK, 1), (Reg.HUB_AMAP_DRAM.SIZE, 1), (Reg.HUB_ILV.EN 0, 1), (Reg.HUB_ILV.SIZE 0, 1), (Reg.HUB_ILV.NUM_CH 0, 1),
         (Reg.MC_CFG.LOCK 0, 1), (Reg.MC_CFG.EN 0, 1), (Reg.MC_STATUS.STATE 0, mcReady), (Reg.AUD_CTRL.DRAM_EN, 1), (Reg.AUD_DRAM.LOG2, 14)] with
      coh := { CohSt.init with hc := [(0, hcLine 4097 LD.zero false 0 0), (0, hcLine 0 LD.zero false 0 0)] }
      aud := { AudSt.init with ring := [AudRec.undrained], dramCount := 8192 } } }

/-- The package is clocked, and its record is one for the DRAM sink alone, which takes records. -/
theorem State.wayTwice_drains :
    State.wayTwice.chip.halted = false ∧ State.wayTwice.chip.on Reg.AUD_CTRL.MRAM_EN = false ∧ State.wayTwice.chip.on Reg.AUD_CTRL.DRAM_EN = true
      ∧ State.wayTwice.chip.get Reg.AUD_STATUS.DRAM_REFUSED = 0 ∧ State.wayTwice.chip.get Reg.AUD_DRAM.BASE * 65536 = 0
      ∧ 2 ^ State.wayTwice.chip.get Reg.AUD_DRAM.LOG2 = 2 ^ 14 := by decide +kernel

/-- The hub cache holds the header's line and the record's, and the sink has room. -/
theorem State.wayTwice_holds :
    State.wayTwice.chip.hubHolds (0 / 64) State.wayTwice.chip.drainWho ⟨0#512, false⟩ = true
      ∧ State.wayTwice.chip.hubHolds ((0 + 64 + 32 * (8192 % 2 ^ 14)) / 64) State.wayTwice.chip.drainWho ⟨0#512, false⟩ = true
      ∧ lineGet 0#512 0 8 ≤ 8192 ∧ 8192 < lineGet 0#512 0 8 + 2 ^ 14 := by decide +kernel

/-- The record stays in the ring. -/
theorem State.wayTwice_auditDrain : State.wayTwice.chip.auditDrain.aud.ring = [AudRec.undrained] := by decide +kernel

theorem State.wayTwice_auditDrain_otp : State.wayTwice.chip.auditDrain.otp = State.wayTwice.chip.otp := by decide +kernel

end Sys2Proof.Machine

open Sys2Proof Sys2Proof.Machine

/-- Refutes O29: its clause of the DRAM sink says that the drain takes the record out of the ring where the hub cache holds the record's line and the header's,
but where the two are listed at one way of it, the read of the header drops the record's line, and the drain waits. -/
theorem not_auditAndSprocketTables : ¬ Obligations.AuditAndSprocketTables := by
  unfold Obligations.AuditAndSprocketTables
  rintro ⟨hdrain, -, -, -, -, -⟩
  obtain ⟨hclocked, hmram, hdram, hrefused, hbase, hlog2⟩ := State.wayTwice_drains
  obtain ⟨hheader, hrecord, hcons, hroom⟩ := State.wayTwice_holds
  obtain ⟨-, hsink⟩ := hdrain State.wayTwice AudRec.undrained [] hclocked rfl (by decide)
  obtain ⟨t, _, _, _, _, ht, -, htaken, -⟩ :=
    hsink 0 (2 ^ 14) 8192 0#512 0#512 hmram hdram hrefused rfl (by simp) hbase hlog2 rfl (by decide) hheader hrecord hcons hroom
  have hchip : t.chip = State.wayTwice.chip.auditDrain :=
    State.chip_of_run (f := Chip.auditDrain) hclocked State.wayTwice_auditDrain_otp ht
  rw [hchip, State.wayTwice_auditDrain] at htaken
  cases htaken
end

section
/-! Software writes of the caches' registers (R155, R160, R161, R164, R200): the register that each reaches, and what a write leaves whose effect is on what
the caches and the homes hold. -/
namespace Sys2Proof.Machine

/-! ### A recorded write with an effect on caches and homes -/

/-- Beside a list of fields, only what the caches and the homes hold differs. -/
def CohFields (a b : Chip) (l : List Fld) : Prop := OnlyFields { a with coh := b.coh } b l

theorem CohFields.of_only {a b : Chip} {l : List Fld} (k : CohSt) (h : OnlyFields { a with coh := k } b l) : CohFields a b l := by
  have hcoh : b.coh = k := by rw [h.rest]
  unfold CohFields
  rwa [hcoh]

theorem CohFields.puts (c : Chip) (l : List (Fld × Nat)) {m : List Fld} (h : ∀ p ∈ l, p.1 ∈ m) : CohFields c (c.puts l) m :=
  CohFields.of_only c.coh (OnlyFields.puts c l h)

theorem CohFields.refl (c : Chip) (l : List Fld) : CohFields c c l := CohFields.puts c [] (by simp)

theorem CohFields.engineKept {a b : Chip} {l : List Fld} (h : CohFields a b l) (hl : ∀ g ∈ l, g.addr < 8 * 0xCB000000) : a.EngineKept b :=
  ⟨by rw [h.rest], by rw [h.rest], fun _ _ => h.regs _ (Reg.OLD_BUSY_ne_of_low hl), by rw [h.rest]⟩

/-- A record is one whatever the caches and the homes hold. -/
theorem Recorded.withCoh {a b : Chip} (h : Recorded a b) (k : CohSt) : Recorded { a with coh := k } { b with coh := k } := by
  obtain ⟨h1, h2, h3, h4⟩ := h
  exact ⟨congrArg (fun x : Chip => { x with coh := k }) h1, h2, h3, h4⟩

/-- The write's record, its effect and its answer. -/
theorem WroteOnly.of_coh {a c d : Chip} {l : List Fld} (w : Who) (off : Nat) (h : Recorded a c) (e : CohFields c d l) :
    WroteOnly { a with coh := d.coh } { d with replies := d.replies ++ [⟨w.agent, a.csrAddr off, 0, false, false⟩] } w off l := by
  have hcc : d.clk = c.clk := by rw [e.rest]
  have hca : d.clk = a.clk := by rw [hcc, h.rest]
  have hclk : ClockFields { c with coh := d.coh } d l := by
    unfold ClockFields
    rw [hcc]
    exact e
  have hmet : ({ a with coh := d.coh, clk := d.clk } : Chip) = { a with coh := d.coh } := by rw [hca]
  rw [← hmet]
  exact WroteOnly.of_recorded w off (h.withCoh d.coh) hclk

theorem Fld.off_mod (f : Fld) : f.off % 8 = 0 := Nat.mul_mod_left _ _

theorem Fld.off_lt {f : Fld} {n : Nat} (h : f.addr < 8 * n) : f.off < n := by
  unfold Fld.off
  omega

/-- A write of a register below the audit log's block whose effect leaves the engine and the ports alone: the next state is its effect's, with the answer. -/
theorem State.lowWrite_next {s : State} {w : Who} {f : Fld} {v : Nat} {e : Chip → Chip} (h : s.chip.writeRuns w f.off = true)
    (hlow : f.addr < 8 * 0xC9C00000) (hact : ∀ c : Chip, c.csrAction w f.off v = e c) (he : ∀ c, Recorded s.chip c → c.EngineKept (e c)) :
    ∃ c, Recorded s.chip c ∧ s.run (fun c => c.regWrite w f.off v)
      = .next { s with chip := { e c with replies := (e c).replies ++ [⟨w.agent, s.chip.csrAddr f.off, 0, false, false⟩] } } := by
  have hoff := Fld.off_lt hlow
  obtain ⟨c, hrec, hrun⟩ := State.action_next (v := v) h f.off_mod (by omega) (by omega) fun c hrec => by rw [hact]; exact he c hrec
  rw [hact] at hrun
  exact ⟨c, hrec, hrun⟩

/-- A write of a register whose effect is on what the caches and the homes hold: the next state, and what it leaves unchanged. -/
theorem State.cohWrite_next {s : State} {w : Who} {f : Fld} {v : Nat} {e : Chip → Chip} {l : List Fld} (h : s.chip.writeRuns w f.off = true)
    (hlow : f.addr < 8 * 0xC9C00000) (hact : ∀ c : Chip, c.csrAction w f.off v = e c) (he : ∀ c, Recorded s.chip c → CohFields c (e c) l)
    (hl : ∀ g ∈ l, g.addr < 8 * 0xCB000000) :
    ∃ c t, Recorded s.chip c ∧ s.run (fun c => c.regWrite w f.off v) = .next t ∧ t.pending = s.pending ∧ (∀ g, t.chip.get g = (e c).get g)
      ∧ t.chip.coh = (e c).coh ∧ WroteOnly { s.chip with coh := t.chip.coh } t.chip w f.off l := by
  obtain ⟨c, hrec, hrun⟩ := State.lowWrite_next h hlow hact fun c hrec => (he c hrec).engineKept hl
  exact ⟨c, _, hrec, hrun, rfl, fun _ => rfl, rfl, WroteOnly.of_coh w f.off hrec (he c hrec)⟩

/-- A register below the audit log's block reads after a record as before. -/
theorem Recorded.get_low {a b : Chip} (h : Recorded a b) {f : Fld} (hf : f.addr < 8 * 0xC9C00000) : b.get f = a.get f := h.get_outside (.inl hf)

theorem Recorded.on_low {a b : Chip} (h : Recorded a b) {f : Fld} (hf : f.addr < 8 * 0xC9C00000) : b.on f = a.on f := by
  unfold Chip.on
  rw [h.get_low hf]

theorem Recorded.coh {a b : Chip} (h : Recorded a b) : b.coh = a.coh := by rw [h.rest]

/-! ### Which register a write reaches -/

theorem Chip.csrAction_die (c : Chip) (w : Who) {d o : Nat} (v : Nat) (hd : d < 12) (ho : o < 0x10000000) :
    c.csrAction w (d * 0x10000000 + o) v = c.csrDie w d o v := by
  have hdie : (d * 0x10000000 + o) / 0x10000000 = d := by omega
  have hblock : (d * 0x10000000 + o) % 0x10000000 = o := by omega
  unfold Chip.csrAction
  rw [if_pos (by omega), hdie, hblock]

/-- A write in the cache block of a cluster. -/
theorem Chip.csrAction_cluster (c : Chip) (w : Who) {d cl r : Nat} (v : Nat) (hd : d < 12) (hcl : cl < 5) (hr : r < 0x10000) :
    c.csrAction w (d * 0x10000000 + (0x1000000 + cl * 0x10000 + r)) v
      = if r = 0 then (if bit v 0 then c.l2Enable d cl else c.l2Disable d cl)
        else if r = 0x10 then c.l2Lock d cl v
        else if r = 0x18 then c.l2Maint d cl (bits v 0 2) (bit v 2)
        else c.storeAt (0x10000000 * d + (0x1000000 + cl * 0x10000 + r)) v := by
  have hcluster : (0x1000000 + cl * 0x10000 + r - 0x1000000) / 0x10000 = cl := by omega
  have hreg : (0x1000000 + cl * 0x10000 + r) % 0x10000 = r := by omega
  rw [c.csrAction_die w v hd (by omega)]
  unfold Chip.csrDie
  simp only [hcluster, hreg]
  rw [if_neg (by omega), if_pos (by omega)]

theorem Chip.csrAction_l2Ctrl (c : Chip) (w : Who) {d cl : Nat} (v : Nat) (hd : d < 12) (hcl : cl < 5) :
    c.csrAction w (Reg.CL_L2_CTRL.EN d cl).off v = if bit v 0 then c.l2Enable d cl else c.l2Disable d cl := by
  have hoff : (Reg.CL_L2_CTRL.EN d cl).off = d * 0x10000000 + (0x1000000 + cl * 0x10000 + 0) := by
    simp only [Fld.off, Reg.CL_L2_CTRL.EN, mkFld]
    omega
  rw [hoff, c.csrAction_cluster w v hd hcl (by decide), if_pos rfl]

theorem Chip.csrAction_l2Lock (c : Chip) (w : Who) {d cl : Nat} (v : Nat) (hd : d < 12) (hcl : cl < 5) :
    c.csrAction w (Reg.CL_L2_LOCK.WAYS d cl).off v = c.l2Lock d cl v := by
  have hoff : (Reg.CL_L2_LOCK.WAYS d cl).off = d * 0x10000000 + (0x1000000 + cl * 0x10000 + 0x10) := by
    simp only [Fld.off, Reg.CL_L2_LOCK.WAYS, mkFld]
    omega
  rw [hoff, c.csrAction_cluster w v hd hcl (by decide), if_neg (by decide), if_pos rfl]

theorem Chip.csrAction_l2Maint (c : Chip) (w : Who) {d cl : Nat} (v : Nat) (hd : d < 12) (hcl : cl < 5) :
    c.csrAction w (Reg.CL_L2_MAINT.OP d cl).off v = c.l2Maint d cl (bits v 0 2) (bit v 2) := by
  have hoff : (Reg.CL_L2_MAINT.OP d cl).off = d * 0x10000000 + (0x1000000 + cl * 0x10000 + 0x18) := by
    simp only [Fld.off, Reg.CL_L2_MAINT.OP, mkFld]
    omega
  rw [hoff, c.csrAction_cluster w v hd hcl (by decide), if_neg (by decide), if_neg (by decide), if_pos rfl]

theorem Chip.csrAction_l3Maint (c : Chip) (w : Who) {d sl : Nat} (v : Nat) (hd : d < 12) (hsl : sl < 20) :
    c.csrAction w (Reg.L3_CTRL.MAINT d sl).off v = c.l3Maint d sl (bits v 0 2) := by
  have hoff : (Reg.L3_CTRL.MAINT d sl).off = d * 0x10000000 + (0x2000000 + sl * 0x10000) := by
    simp only [Fld.off, Reg.L3_CTRL.MAINT, mkFld]
    omega
  have hslice : (0x2000000 + sl * 0x10000 - 0x2000000) / 0x10000 = sl := by omega
  rw [hoff, c.csrAction_die w v hd (by omega)]
  unfold Chip.csrDie
  simp only [hslice]
  rw [if_neg (by omega), if_neg (by omega), if_pos (by omega), if_pos (by omega)]

theorem Chip.csrAction_hcMaint (c : Chip) (w : Who) (v : Nat) : c.csrAction w Reg.HC_MAINT_CMD.OP.off v = c.hcMaint (bits v 0 2) := rfl

theorem Chip.csrAction_rangeCmd (c : Chip) (w : Who) (v : Nat) : c.csrAction w Reg.HC_RANGE_CMD.OP.off v = c.rangeCmd w (bits v 0 2) := rfl

theorem Chip.csrAction_dirProbe (c : Chip) (w : Who) {sl : Nat} (v : Nat) (hsl : sl < 16) :
    c.csrAction w (Reg.DIR_PROBE.ADDR sl).off v = c.dirProbe sl v := by
  have hoff : (Reg.DIR_PROBE.ADDR sl).off = 0xC2000000 + (sl * 0x10000 + 0x180) := by
    simp only [Fld.off, Reg.DIR_PROBE.ADDR, mkFld]
    omega
  have hslice : (0xC2000000 + (sl * 0x10000 + 0x180) - 0xC2000000) / 0x10000 = sl := by omega
  have hreg : (0xC2000000 + (sl * 0x10000 + 0x180)) % 0x10000 = 0x180 := by omega
  have hlow : 0xC2000000 ≤ 0xC2000000 + (sl * 0x10000 + 0x180) ∧ 0xC2000000 + (sl * 0x10000 + 0x180) < 0xC3000000 := by omega
  rw [hoff]
  unfold Chip.csrAction
  simp only [hslice, hreg]
  rw [if_neg (by omega), if_neg (by omega), if_neg (by simp only [Bool.and_eq_true, decide_eq_true_eq]; omega), if_neg (by omega), if_neg (by omega),
    if_neg (by omega), if_pos (by simp [hlow])]

/-! ### The registers' places -/

theorem CL_L2_addr {d cl : Nat} (hd : d < 12) (hcl : cl < 5) {f : Fld}
    (hf : f ∈ [Reg.CL_L2_CTRL.EN d cl, Reg.CL_L2_STATUS.BUSY d cl, Reg.CL_L2_STATUS.DRAINED d cl, Reg.CL_L2_STATUS.MBUSY d cl, Reg.CL_L2_LOCK.WAYS d cl,
      Reg.CL_L2_LOCK.FILL d cl, Reg.CL_L2_LOCK.FILL_AGENT d cl, Reg.CL_L2_LOCK.BAD d cl, Reg.CL_L2_MAINT.OP d cl]) : f.addr < 8 * 0xC0000000 := by
  simp only [List.mem_cons, List.not_mem_nil, or_false] at hf
  rcases hf with rfl | rfl | rfl | rfl | rfl | rfl | rfl | rfl | rfl <;>
    simp only [Reg.CL_L2_CTRL.EN, Reg.CL_L2_STATUS.BUSY, Reg.CL_L2_STATUS.DRAINED, Reg.CL_L2_STATUS.MBUSY, Reg.CL_L2_LOCK.WAYS, Reg.CL_L2_LOCK.FILL,
      Reg.CL_L2_LOCK.FILL_AGENT, Reg.CL_L2_LOCK.BAD, Reg.CL_L2_MAINT.OP, mkFld] <;> omega

end Sys2Proof.Machine
end

section
/-! Cache commands as their registers' writes meet them (R155, R160, R164, R165): locks, whole-cache operations that begin and end, and an L2 that is switched off
and on. -/
namespace Sys2Proof.Machine

/-! ### Way locks -/

theorem bits_mod_self (n lo w : Nat) : bits n lo w % 2 ^ w = bits n lo w := by rw [bits_eq, Nat.mod_mod]

/-- The ways that a written value names. -/
theorem filter_bit_ways (v : Nat) : (List.range 16).filter (bit (bits v 0 16)) = (List.range 16).filter (fun i => bit v i) := by
  refine List.filter_congr fun i hi => ?_
  rw [bits_eq, Nat.pow_zero, Nat.div_one]
  exact bit_mod v (List.mem_range.1 hi)

def l2LockFields (d cl : Nat) : List Fld :=
  [Reg.CL_L2_LOCK.WAYS d cl, Reg.CL_L2_LOCK.FILL d cl, Reg.CL_L2_LOCK.FILL_AGENT d cl, Reg.CL_L2_LOCK.BAD d cl]

/-- A written 1 clears BAD first (R16). -/
def Chip.l2BadCleared (c : Chip) (d cl v : Nat) : Chip := if bit v 17 then c.put (Reg.CL_L2_LOCK.BAD d cl) 0 else c

/-- What a lock that is taken writes. -/
def l2LockSet (d cl v : Nat) : List (Fld × Nat) :=
  [(Reg.CL_L2_LOCK.WAYS d cl, bits v 0 16), (Reg.CL_L2_LOCK.FILL d cl, bits v 16 1), (Reg.CL_L2_LOCK.FILL_AGENT d cl, bits v 34 14 * 4)]

theorem Chip.l2Lock_of_many {c : Chip} {d cl v : Nat} (h : 8 < ((List.range 16).filter (fun i => bit v i)).length) :
    c.l2Lock d cl v = (c.l2BadCleared d cl v).put (Reg.CL_L2_LOCK.BAD d cl) 1 := by
  unfold Chip.l2Lock
  dsimp only
  rw [filter_bit_ways]
  exact if_pos h

theorem Chip.l2Lock_of_few {c : Chip} {d cl v : Nat} (h : ((List.range 16).filter (fun i => bit v i)).length ≤ 8) :
    c.l2Lock d cl v = (c.l2BadCleared d cl v).puts (l2LockSet d cl v) := by
  unfold Chip.l2Lock
  dsimp only
  rw [filter_bit_ways]
  exact if_neg (Nat.not_lt.2 h)

theorem CohFields.trans {a b c : Chip} {l : List Fld} (h : CohFields a b l) (k : CohFields b c l) : CohFields a c l := by
  obtain ⟨h1, h2, h3⟩ := h
  obtain ⟨k1, k2, k3⟩ := k
  refine ⟨?_, fun f hf => (k2 f hf).trans (h2 f hf), k3.trans h3⟩
  rw [h1] at k1
  exact k1

theorem CohFields.l2BadCleared (c : Chip) (d cl v : Nat) : CohFields c (c.l2BadCleared d cl v) (l2LockFields d cl) := by
  unfold Chip.l2BadCleared
  split
  · exact CohFields.puts c [(Reg.CL_L2_LOCK.BAD d cl, 0)] (by simp [l2LockFields])
  · exact CohFields.refl c _

theorem CohFields.l2Lock (c : Chip) (d cl v : Nat) : CohFields c (c.l2Lock d cl v) (l2LockFields d cl) := by
  refine (CohFields.l2BadCleared c d cl v).trans ?_
  rcases Nat.lt_or_ge 8 ((List.range 16).filter (fun i => bit v i)).length with h | h
  · rw [Chip.l2Lock_of_many h]
    exact CohFields.puts _ [(Reg.CL_L2_LOCK.BAD d cl, 1)] (by simp [l2LockFields])
  · rw [Chip.l2Lock_of_few h]
    exact CohFields.puts _ _ (by simp [l2LockFields, l2LockSet])

theorem Chip.l2BadCleared_coh (c : Chip) (d cl v : Nat) : (c.l2BadCleared d cl v).coh = c.coh := by
  unfold Chip.l2BadCleared
  split <;> rfl

theorem Chip.l2Lock_coh (c : Chip) (d cl v : Nat) : (c.l2Lock d cl v).coh = c.coh := by
  rcases Nat.lt_or_ge 8 ((List.range 16).filter (fun i => bit v i)).length with h | h
  · rw [Chip.l2Lock_of_many h, Chip.put_coh, Chip.l2BadCleared_coh]
  · rw [Chip.l2Lock_of_few h, Chip.puts_coh, Chip.l2BadCleared_coh]

theorem Chip.get_l2BadCleared_ways (c : Chip) (d cl v : Nat) : (c.l2BadCleared d cl v).get (Reg.CL_L2_LOCK.WAYS d cl) = c.get (Reg.CL_L2_LOCK.WAYS d cl) := by
  unfold Chip.l2BadCleared
  split
  · exact c.get_put_ne _ (by simp [Reg.CL_L2_LOCK.WAYS, Reg.CL_L2_LOCK.BAD, mkFld])
  · rfl

theorem Chip.get_l2BadCleared_bad (c : Chip) (d cl v : Nat) :
    (c.l2BadCleared d cl v).get (Reg.CL_L2_LOCK.BAD d cl) = if bit v 17 then 0 else c.get (Reg.CL_L2_LOCK.BAD d cl) := by
  unfold Chip.l2BadCleared
  split
  · exact c.get_put_self _ _
  · rfl

/-- Too many ways: BAD is set, and WAYS stays (R155). -/
theorem Chip.get_l2Lock_of_many {c : Chip} {d cl v : Nat} (h : 8 < ((List.range 16).filter (fun i => bit v i)).length) :
    (c.l2Lock d cl v).get (Reg.CL_L2_LOCK.BAD d cl) = 1 ∧ (c.l2Lock d cl v).get (Reg.CL_L2_LOCK.WAYS d cl) = c.get (Reg.CL_L2_LOCK.WAYS d cl) := by
  rw [Chip.l2Lock_of_many h]
  exact ⟨Chip.get_put_self _ _ _, ((c.l2BadCleared d cl v).get_put_ne _ (by simp [Reg.CL_L2_LOCK.WAYS, Reg.CL_L2_LOCK.BAD, mkFld])).trans
    (c.get_l2BadCleared_ways d cl v)⟩

/-- Else the register takes the value, but for BAD. -/
theorem Chip.get_l2Lock_of_few {c : Chip} {d cl v : Nat} (h : ((List.range 16).filter (fun i => bit v i)).length ≤ 8) :
    (c.l2Lock d cl v).get (Reg.CL_L2_LOCK.WAYS d cl) = bits v 0 16 ∧ (c.l2Lock d cl v).get (Reg.CL_L2_LOCK.FILL d cl) = bits v 16 1
      ∧ (c.l2Lock d cl v).get (Reg.CL_L2_LOCK.FILL_AGENT d cl) = bits v 34 14 * 4
      ∧ (c.l2Lock d cl v).get (Reg.CL_L2_LOCK.BAD d cl) = if bit v 17 then 0 else c.get (Reg.CL_L2_LOCK.BAD d cl) := by
  have hset : ∀ {f : Fld} {n : Nat}, (f, n) ∈ l2LockSet d cl v → (c.l2Lock d cl v).get f = n % 2 ^ f.width := fun hf => by
    rw [Chip.l2Lock_of_few h]
    exact Chip.get_puts_mem _ (by simp [l2LockSet, Reg.CL_L2_LOCK.WAYS, Reg.CL_L2_LOCK.FILL, Reg.CL_L2_LOCK.FILL_AGENT, mkFld]) hf
  have hagent : bits v 34 14 * 4 < 2 ^ 16 := by
    have := Nat.mod_lt (v / 2 ^ 34) (Nat.two_pow_pos 14)
    rw [bits_eq]
    omega
  refine ⟨?_, ?_, ?_, ?_⟩
  · exact (hset (n := bits v 0 16) (by simp [l2LockSet])).trans (bits_mod_self v 0 16)
  · exact (hset (n := bits v 16 1) (by simp [l2LockSet])).trans (bits_mod_self v 16 1)
  · exact (hset (n := bits v 34 14 * 4) (by simp [l2LockSet])).trans (Nat.mod_eq_of_lt hagent)
  · rw [Chip.l2Lock_of_few h, Chip.get_puts_ne _ _ (by simp [l2LockSet, Reg.CL_L2_LOCK.WAYS, Reg.CL_L2_LOCK.FILL, Reg.CL_L2_LOCK.FILL_AGENT,
      Reg.CL_L2_LOCK.BAD, mkFld])]
    exact c.get_l2BadCleared_bad d cl v

/-! ### A whole-cache operation begins -/

/-- The package as an operation has begun that has no line to do yet. -/
def Chip.maintBegun (c : Chip) (busy : Fld) (level unit : Nat) (flush keep : Bool) : Chip := (c.put busy 1).maintStart level unit flush keep

theorem Chip.maintBegun_coh (c : Chip) (busy : Fld) (level unit : Nat) (flush keep : Bool) :
    (c.maintBegun busy level unit flush keep).coh = { c.coh with maint := c.coh.maint ++ [⟨level, unit, flush, keep, []⟩] } := rfl

theorem CohFields.maintBegun (c : Chip) (busy : Fld) (level unit : Nat) (flush keep : Bool) :
    CohFields c (c.maintBegun busy level unit flush keep) [busy] := by
  obtain ⟨h1, h2, h3⟩ := CohFields.puts c [(busy, 1)] (m := [busy]) (by simp)
  exact ⟨rfl, h2, h3⟩

theorem Chip.get_maintBegun (c : Chip) {busy : Fld} (hw : busy.width = 1) (level unit : Nat) (flush keep : Bool) :
    (c.maintBegun busy level unit flush keep).get busy = 1 :=
  (c.get_put_self busy 1).trans (by simp [hw])

theorem Chip.l2Maint_begins {c : Chip} {d cl op : Nat} (hop : op = 1 ∨ op = 2) (keep : Bool) (hbusy : c.on (Reg.CL_L2_STATUS.MBUSY d cl) = false) :
    c.l2Maint d cl op keep = (c.l2Lines (5 * d + cl)).foldl (fun c p =>
      if op = 1 || (keep && c.wayLocked (5 * d + cl) p.1) then c.l2CleanLine (5 * d + cl) p.2.line
      else (c.l2CleanLine (5 * d + cl) p.2.line).l2Evict (5 * d + cl) p.2.line)
        (c.maintBegun (Reg.CL_L2_STATUS.MBUSY d cl) 2 (5 * d + cl) (op == 2) keep) := by
  unfold Chip.l2Maint
  dsimp only
  rw [if_neg (by rcases hop with rfl | rfl <;> simp [hbusy])]
  rfl

theorem Chip.l3Maint_begins {c : Chip} {d sl op : Nat} (hop : op = 1 ∨ op = 2) (hbusy : c.on (Reg.L3_STATUS.MBUSY d sl) = false) :
    c.l3Maint d sl op = (c.maintBegun (Reg.L3_STATUS.MBUSY d sl) 3 (20 * d + sl) (op == 2) false).l3MaintGo d sl (op == 2)
      ((c.l3Lines d sl).map (·.2.line)) := by
  unfold Chip.l3Maint
  dsimp only
  rw [if_neg (by rcases hop with rfl | rfl <;> simp [hbusy])]
  rfl

theorem Chip.hcMaint_begins {c : Chip} {op : Nat} (hop : op = 1 ∨ op = 2) (hbusy : c.on Reg.HC_STATUS.MBUSY = false) :
    c.hcMaint op = (c.hcLinesOf (c.get Reg.HC_MAINT_BANKS.BANKS)).foldl (fun c line => if op = 2 then (c.hcClean line).hcDrop line else c.hcClean line)
      (c.maintBegun Reg.HC_STATUS.MBUSY 4 0 (op == 2) false) := by
  unfold Chip.hcMaint
  dsimp only
  rw [if_neg (by rcases hop with rfl | rfl <;> simp [hbusy])]
  have hbanks : (c.maintBegun Reg.HC_STATUS.MBUSY 4 0 (op == 2) false).get Reg.HC_MAINT_BANKS.BANKS = c.get Reg.HC_MAINT_BANKS.BANKS :=
    c.get_put_ne (f := Reg.HC_STATUS.MBUSY) 1 (by decide)
  rw [← hbanks]
  rfl

/-- Of a slice with no line to do, an operation goes on with nothing, where none of its operations keeps a line to do. -/
theorem Chip.l3MaintGo_nil {c : Chip} {d sl : Nat} (flush : Bool) (h : ∀ m ∈ c.coh.maint, m.level = 3 → m.unit = 20 * d + sl → m.lines = []) :
    c.l3MaintGo d sl flush [] = c := by
  have hkeep : c.coh.maint.map (fun (m : MaintOp) =>
      if m.level == 3 && m.unit == 20 * d + sl then { m with lines := ([] : List Nat).filter (c.l3MaintOwes d flush) } else m) = c.coh.maint := by
    refine (List.map_congr_left fun m hm => ?_).trans (List.map_id _)
    split
    case isTrue hown =>
      simp only [Bool.and_eq_true, beq_iff_eq] at hown
      have hnil := h m hm hown.1 hown.2
      cases m
      simp only at hnil
      simp [hnil]
    case isFalse => rfl
  unfold Chip.l3MaintGo
  simp only [List.foldl_nil]
  rw [hkeep]

/-! ### A whole-cache operation ends -/

/-- The package as the operations of a cache have ended. -/
def Chip.maintEnded (c : Chip) (level unit : Nat) (busy : Fld) : Chip :=
  ({ c with coh := { c.coh with maint := c.coh.maint.filter (fun m => !(m.level == level && m.unit == unit)) } } : Chip).put busy 0

theorem CohFields.maintEnded (c : Chip) (level unit : Nat) (busy : Fld) : CohFields c (c.maintEnded level unit busy) [busy] := by
  obtain ⟨h1, h2, h3⟩ := CohFields.puts c [(busy, 0)] (m := [busy]) (by simp)
  exact ⟨rfl, h2, h3⟩

/-- Where none of a cache's operations keeps a line to do, they end. -/
theorem Chip.maintDone_of_passed {c : Chip} {level unit : Nat} {busy : Fld} (hany : c.coh.maint.any (fun m => m.level == level && m.unit == unit) = true)
    (hpassed : ∀ m ∈ c.coh.maint, m.level = level → m.unit = unit → m.lines = [])
    (hbusy : busy = if level = 2 then Reg.CL_L2_STATUS.MBUSY (unit / 5) (unit % 5) else if level = 3 then Reg.L3_STATUS.MBUSY (unit / 20) (unit % 20)
      else Reg.HC_STATUS.MBUSY) :
    c.maintDone level unit = c.maintEnded level unit busy := by
  obtain ⟨m, hm⟩ : ∃ m, c.coh.maint.find? (fun m => m.level == level && m.unit == unit) = some m :=
    Option.isSome_iff_exists.1 (by rw [List.find?_isSome]; simpa using hany)
  have hown := List.find?_some hm
  simp only [Bool.and_eq_true, beq_iff_eq] at hown
  have hlines := hpassed m (List.mem_of_find?_eq_some hm) hown.1 hown.2
  have hgo : (if level = 3 then c.l3MaintGo (unit / 20) (unit % 20) m.flush m.lines else c) = c := by
    split
    case isTrue h3 =>
      subst h3
      rw [hlines]
      exact Chip.l3MaintGo_nil _ fun x hx hlevel hunit => hpassed x hx hlevel (by omega)
    case isFalse => rfl
  have hnone : c.coh.maint.any (fun m => m.level == level && m.unit == unit && !m.lines.isEmpty) = false := by
    rw [List.any_eq_false]
    intro x hx hlater
    simp only [Bool.and_eq_true, beq_iff_eq, Bool.not_eq_true', List.isEmpty_eq_false_iff] at hlater
    exact hlater.2 (hpassed x hx hlater.1.1 hlater.1.2)
  unfold Chip.maintDone
  simp only [hm, hgo, hnone, hbusy, Bool.false_eq_true, if_false]
  unfold Chip.maintEnded
  split_ifs <;> rfl

/-- What CACHE_MAINT_DONE leaves of a cache whose operations have passed their last lines. -/
theorem State.cacheMaintDone_next {s : State} {level unit : Nat} {busy : Fld} (hs : s.chip.halted = false)
    (hany : s.chip.coh.maint.any (fun m => m.level == level && m.unit == unit) = true)
    (hpassed : ∀ m ∈ s.chip.coh.maint, m.level = level → m.unit = unit → m.lines = [])
    (hbusy : busy = if level = 2 then Reg.CL_L2_STATUS.MBUSY (unit / 5) (unit % 5) else if level = 3 then Reg.L3_STATUS.MBUSY (unit / 20) (unit % 20)
      else Reg.HC_STATUS.MBUSY) :
    ∃ t, exec (.cacheMaintDone level unit) s = .next t ∧ t.pending = s.pending ∧ t.chip.get busy = 0
      ∧ (∀ m ∈ t.chip.coh.maint, ¬ (m.level = level ∧ m.unit = unit))
      ∧ OnlyFields { s.chip with coh := { s.chip.coh with maint := t.chip.coh.maint } } t.chip [busy] := by
  have hdone := Chip.maintDone_of_passed hany hpassed hbusy
  refine ⟨_, s.run_eq (fun c => c.maintDone level unit) hs (by rw [hdone]; rfl), rfl, ?_, ?_, ?_⟩
  · simp only [hdone]
    exact (Chip.get_put_self _ busy 0).trans (Nat.zero_mod _)
  · intro m hm hown
    simp only [hdone] at hm
    have := (List.mem_filter.1 hm).2
    simp [hown] at this
  · simp only [hdone]
    exact CohFields.maintEnded s.chip level unit busy

end Sys2Proof.Machine
end

section
/-! The commands of cache maintenance are software writes of one register each (R160, R164, R165). -/
namespace Sys2Proof.Machine

/-- What a maintenance command writes: the operation, as bits 1 and 0. -/
theorem withFields_op {f : Fld} {n : Nat} (h : f.addr % 64 = 0) (hw : f.width = 2) (hn : n < 4) : withFields 0 [(f, n)] = n := by
  rw [withFields_single f n h, hw]
  exact Nat.mod_eq_of_lt hn

theorem l2MaintOp_place (d cl : Nat) : (Reg.CL_L2_MAINT.OP d cl).addr % 64 = 0 ∧ (Reg.CL_L2_MAINT.KEEP_LOCKED d cl).addr % 64 = 2 := by
  simp only [Reg.CL_L2_MAINT.OP, Reg.CL_L2_MAINT.KEEP_LOCKED, mkFld]
  omega

theorem bits_withFields_flush (d cl : Nat) (keep : Bool) :
    bits (withFields 0 [(Reg.CL_L2_MAINT.OP d cl, 2), (Reg.CL_L2_MAINT.KEEP_LOCKED d cl, b2n keep)]) 0 2 = 2
      ∧ bit (withFields 0 [(Reg.CL_L2_MAINT.OP d cl, 2), (Reg.CL_L2_MAINT.KEEP_LOCKED d cl, b2n keep)]) 2 = keep := by
  obtain ⟨hop, hkeep⟩ := l2MaintOp_place d cl
  have hwop : (Reg.CL_L2_MAINT.OP d cl).width = 2 := rfl
  have hwkeep : (Reg.CL_L2_MAINT.KEEP_LOCKED d cl).width = 1 := rfl
  have hval : withFields 0 [(Reg.CL_L2_MAINT.OP d cl, 2), (Reg.CL_L2_MAINT.KEEP_LOCKED d cl, b2n keep)] = setBits (setBits 0 0 2 2) 2 1 (b2n keep) := by
    unfold withFields
    rw [List.foldl_cons, List.foldl_cons, List.foldl_nil, hop, hkeep, hwop, hwkeep]
  rw [hval]
  refine ⟨?_, bit_setBits_self _ _ _⟩
  rw [bits_setBits_other _ _ (.inl (by decide)), bits_setBits_self]
  decide

/-- CL_L2_MAINT's two commands. -/
theorem exec_l2Maint {s : State} {w : Who} {d : Fin 12} {cl : Fin 5} {keep : Bool} {p : Instr × Bool × Bool}
    (hp : p ∈ [(Instr.l2MaintClean w d cl, false, false), (.l2MaintFlush w d cl keep, true, keep)]) :
    ∃ op v, (op = 1 ∨ op = 2) ∧ (op == 2) = p.2.1 ∧ bits v 0 2 = op ∧ bit v 2 = p.2.2
      ∧ exec p.1 s = s.run (fun c => c.regWrite w (Reg.CL_L2_MAINT.OP d.val cl.val).off v) := by
  simp only [List.mem_cons, List.not_mem_nil, or_false] at hp
  rcases hp with rfl | rfl
  · have hv := withFields_op (n := 1) (l2MaintOp_place d.val cl.val).1 rfl (by decide)
    exact ⟨1, 1, .inl rfl, rfl, rfl, rfl, by rw [← hv]; rfl⟩
  · obtain ⟨hop, hkeep⟩ := bits_withFields_flush d.val cl.val keep
    exact ⟨2, _, .inr rfl, rfl, hop, hkeep, rfl⟩

/-- L3_CTRL's two commands. -/
theorem exec_l3Maint {s : State} {w : Who} {d : Fin 12} {sl : Fin 20} {p : Instr × Bool} (hp : p ∈ [(Instr.l3MaintClean w d sl, false), (.l3MaintFlush w d sl, true)]) :
    ∃ op, (op = 1 ∨ op = 2) ∧ (op == 2) = p.2 ∧ bits op 0 2 = op ∧ exec p.1 s = s.run (fun c => c.regWrite w (Reg.L3_CTRL.MAINT d.val sl.val).off op) := by
  have hplace : (Reg.L3_CTRL.MAINT d.val sl.val).addr % 64 = 0 := by
    simp only [Reg.L3_CTRL.MAINT, mkFld]
    omega
  simp only [List.mem_cons, List.not_mem_nil, or_false] at hp
  rcases hp with rfl | rfl
  · have hv := withFields_op (n := 1) hplace rfl (by decide)
    refine ⟨1, .inl rfl, rfl, rfl, ?_⟩
    rw [← hv]
    rfl
  · have hv := withFields_op (n := 2) hplace rfl (by decide)
    refine ⟨2, .inr rfl, rfl, rfl, ?_⟩
    rw [← hv]
    rfl

/-- HC_MAINT_CMD's two commands. -/
theorem exec_hcMaint {s : State} {w : Who} {p : Instr × Bool} (hp : p ∈ [(Instr.hcMaintClean w, false), (.hcMaintFlush w, true)]) :
    ∃ op, (op = 1 ∨ op = 2) ∧ (op == 2) = p.2 ∧ bits op 0 2 = op ∧ exec p.1 s = s.run (fun c => c.regWrite w Reg.HC_MAINT_CMD.OP.off op) := by
  simp only [List.mem_cons, List.not_mem_nil, or_false] at hp
  rcases hp with rfl | rfl
  · exact ⟨1, .inl rfl, rfl, rfl, rfl⟩
  · exact ⟨2, .inr rfl, rfl, rfl, rfl⟩

theorem withFields_l2En {d cl n : Nat} (hn : n < 2) : withFields 0 [(Reg.CL_L2_CTRL.EN d cl, n)] = n := by
  have hplace : (Reg.CL_L2_CTRL.EN d cl).addr % 64 = 0 := by
    simp only [Reg.CL_L2_CTRL.EN, mkFld]
    omega
  exact (withFields_single _ n hplace).trans (Nat.mod_eq_of_lt hn)

theorem exec_l2Disable (s : State) (w : Who) (d : Fin 12) (cl : Fin 5) :
    exec (.l2Disable w d cl) s = s.run (fun c => c.regWrite w (Reg.CL_L2_CTRL.EN d.val cl.val).off 0) := by
  have hv := withFields_l2En (d := d.val) (cl := cl.val) (n := 0) (by decide)
  rw [← hv]
  rfl

theorem exec_l2Enable (s : State) (w : Who) (d : Fin 12) (cl : Fin 5) :
    exec (.l2Enable w d cl) s = s.run (fun c => c.regWrite w (Reg.CL_L2_CTRL.EN d.val cl.val).off 1) := by
  have hv := withFields_l2En (d := d.val) (cl := cl.val) (n := 1) (by decide)
  rw [← hv]
  rfl

/-! ### An L2 is switched off and on -/

theorem Chip.l2Disable_of_on {c : Chip} {d cl : Nat} (h : c.on (Reg.CL_L2_CTRL.EN d cl) = true) :
    c.l2Disable d cl = (c.l2Lines (5 * d + cl)).foldl (fun c p =>
      if p.2.st == .m then
        { (c.l2Evict (5 * d + cl) p.2.line).l3Evict d p.2.line true with
          coh := { ((c.l2Evict (5 * d + cl) p.2.line).l3Evict d p.2.line true).coh with
            drains := ((c.l2Evict (5 * d + cl) p.2.line).l3Evict d p.2.line true).coh.drains ++ [(5 * d + cl, p.2.line)] } }
      else c.l2Evict (5 * d + cl) p.2.line)
        (c.puts [(Reg.CL_L2_CTRL.EN d cl, 0), (Reg.CL_L2_STATUS.BUSY d cl, 1)]) := by
  unfold Chip.l2Disable
  dsimp only
  rw [if_neg (by simp [h])]
  have hlines : (c.puts [(Reg.CL_L2_CTRL.EN d cl, 0), (Reg.CL_L2_STATUS.BUSY d cl, 1)]).l2Lines (5 * d + cl) = c.l2Lines (5 * d + cl) := rfl
  rw [hlines]

theorem Chip.l2Enable_of_drained {c : Chip} {d cl : Nat} (h : c.on (Reg.CL_L2_CTRL.EN d cl) = false) (hbusy : c.on (Reg.CL_L2_STATUS.BUSY d cl) = false) :
    c.l2Enable d cl = c.puts [(Reg.CL_L2_CTRL.EN d cl, 1), (Reg.CL_L2_STATUS.DRAINED d cl, 0)] := by
  unfold Chip.l2Enable
  dsimp only
  rw [if_neg (by simp [h]), if_neg (by simp [hbusy])]

theorem Chip.l2Enable_of_busy {c : Chip} {d cl : Nat} (h : c.on (Reg.CL_L2_CTRL.EN d cl) = false) (hbusy : c.on (Reg.CL_L2_STATUS.BUSY d cl) = true) :
    c.l2Enable d cl = { c with coh := { c.coh with reEnable := (5 * d + cl) :: c.coh.reEnable.filter (· != 5 * d + cl) } } := by
  unfold Chip.l2Enable
  dsimp only
  rw [if_neg (by simp [h]), if_pos hbusy]

/-- What the end of a drain writes, where no use of the L2 was asked for meanwhile, and where it was. -/
def l2DrainedSet (d cl : Nat) : List (Fld × Nat) := [(Reg.CL_L2_STATUS.BUSY d cl, 0), (Reg.CL_L2_STATUS.DRAINED d cl, 1)]

theorem Chip.l2Drained_of_none {c : Chip} {d cl : Nat} (hbusy : c.on (Reg.CL_L2_STATUS.BUSY d cl) = true) (hdrains : c.coh.drains = []) :
    c.l2Drained d cl = if c.coh.reEnable.contains (5 * d + cl) then
        ({ c.puts (l2DrainedSet d cl) with coh := { c.coh with reEnable := c.coh.reEnable.filter (· != 5 * d + cl) } } : Chip).puts
          [(Reg.CL_L2_CTRL.EN d cl, 1), (Reg.CL_L2_STATUS.DRAINED d cl, 0)]
      else c.puts (l2DrainedSet d cl) := by
  have hsame : ({ c with coh := { c.coh with drains := [] } } : Chip) = c := by rw [← hdrains]
  unfold Chip.l2Drained
  simp only [hdrains, List.filter_nil, List.foldl_nil, hsame, hbusy, List.any_nil, Bool.not_false, Bool.and_self, if_true, Chip.puts_coh, l2DrainedSet]

end Sys2Proof.Machine
end

section
/-! Writes that begin an operation of an empty cache, that lock ways, and that switch an empty L2 off and on (R155, R160, R164, R165). -/
namespace Sys2Proof.Machine

theorem Chip.l2Lines_recorded {a b : Chip} (h : Recorded a b) (u : Nat) : b.l2Lines u = a.l2Lines u := by
  unfold Chip.l2Lines
  rw [h.coh]

theorem Chip.l3Lines_recorded {a b : Chip} (h : Recorded a b) (d sl : Nat) : b.l3Lines d sl = a.l3Lines d sl := by
  unfold Chip.l3Lines
  rw [h.coh]

theorem L3_addr {d sl : Nat} (hd : d < 12) (hsl : sl < 20) {f : Fld} (hf : f ∈ [Reg.L3_CTRL.MAINT d sl, Reg.L3_STATUS.MBUSY d sl]) :
    f.addr < 8 * 0xC0000000 := by
  simp only [List.mem_cons, List.not_mem_nil, or_false] at hf
  rcases hf with rfl | rfl <;> simp only [Reg.L3_CTRL.MAINT, Reg.L3_STATUS.MBUSY, mkFld] <;> omega

/-- A write that begins an operation of a cache with no line to do. -/
theorem State.maintBegun_next {s : State} {w : Who} {f busy : Fld} {v level unit : Nat} {flush keep : Bool} (h : s.chip.writeRuns w f.off = true)
    (hlow : f.addr < 8 * 0xC9C00000) (hbusyLow : busy.addr < 8 * 0xCB000000) (hw : busy.width = 1)
    (hact : ∀ c, Recorded s.chip c → c.csrAction w f.off v = c.maintBegun busy level unit flush keep) :
    ∃ t, s.run (fun c => c.regWrite w f.off v) = .next t ∧ t.pending = s.pending ∧ t.chip.get busy = 1
      ∧ t.chip.coh.maint = s.chip.coh.maint ++ [⟨level, unit, flush, keep, []⟩]
      ∧ WroteOnly { s.chip with coh := { s.chip.coh with maint := t.chip.coh.maint } } t.chip w f.off [busy] := by
  obtain ⟨c, t, hrec, hrun, hpend, hget, hcoh, hwrote⟩ := State.cohWrite_next (l := [busy]) (v := v) h hlow (fun _ => rfl)
    (fun c hrec => by rw [hact c hrec]; exact CohFields.maintBegun c busy level unit flush keep) (by simpa using hbusyLow)
  rw [hact c hrec, Chip.maintBegun_coh, hrec.coh] at hcoh
  rw [hcoh] at hwrote
  refine ⟨t, hrun, hpend, ?_, by rw [hcoh], by rw [hcoh]; exact hwrote⟩
  rw [hget, hact c hrec]
  exact c.get_maintBegun hw level unit flush keep

/-- A write whose effect is to put values in registers. -/
theorem State.putsWrite_next {s : State} {w : Who} {f : Fld} {v : Nat} {l : List (Fld × Nat)} (h : s.chip.writeRuns w f.off = true)
    (hlow : f.addr < 8 * 0xC9C00000) (hact : ∀ c, Recorded s.chip c → c.csrAction w f.off v = c.puts l) (hl : ∀ p ∈ l, p.1.addr < 8 * 0xCB000000)
    (hdistinct : (l.map (fun p => p.1.addr)).Nodup) :
    ∃ t, s.run (fun c => c.regWrite w f.off v) = .next t ∧ t.pending = s.pending ∧ (∀ p ∈ l, t.chip.get p.1 = p.2 % 2 ^ p.1.width)
      ∧ WroteOnly s.chip t.chip w f.off (l.map (·.1)) := by
  obtain ⟨c, t, hrec, hrun, hpend, hget, hcoh, hwrote⟩ := State.cohWrite_next (l := l.map (·.1)) (v := v) h hlow (fun _ => rfl)
    (fun c hrec => by rw [hact c hrec]; exact CohFields.puts c l fun p hp => List.mem_map_of_mem hp)
    (fun g hg => by obtain ⟨p, hp, rfl⟩ := List.mem_map.1 hg; exact hl p hp)
  rw [hcoh, hact c hrec, Chip.puts_coh, hrec.coh] at hwrote
  refine ⟨t, hrun, hpend, fun p hp => ?_, hwrote⟩
  rw [hget, hact c hrec]
  exact Chip.get_puts_mem c hdistinct hp

/-- EN written 0 where the L2 holds nothing. -/
theorem State.l2Disable_next {s : State} {w : Who} {d : Fin 12} {cl : Fin 5} (h : s.chip.writeRuns w (Reg.CL_L2_CTRL.EN d.val cl.val).off = true)
    (hlines : s.chip.l2Lines (5 * d.val + cl.val) = []) (hon : s.chip.on (Reg.CL_L2_CTRL.EN d.val cl.val) = true) :
    ∃ t, exec (.l2Disable w d cl) s = .next t ∧ t.pending = s.pending ∧ t.chip.get (Reg.CL_L2_CTRL.EN d.val cl.val) = 0
      ∧ t.chip.get (Reg.CL_L2_STATUS.BUSY d.val cl.val) = 1
      ∧ WroteOnly s.chip t.chip w (Reg.CL_L2_CTRL.EN d.val cl.val).off [Reg.CL_L2_CTRL.EN d.val cl.val, Reg.CL_L2_STATUS.BUSY d.val cl.val] := by
  have heffect : ∀ c, Recorded s.chip c → c.csrAction w (Reg.CL_L2_CTRL.EN d.val cl.val).off 0
      = c.puts [(Reg.CL_L2_CTRL.EN d.val cl.val, 0), (Reg.CL_L2_STATUS.BUSY d.val cl.val, 1)] := fun c hrec => by
    have hon' := (hrec.on_low ((CL_L2_addr d.isLt cl.isLt (by simp)).trans (by decide))).trans hon
    rw [c.csrAction_l2Ctrl w 0 d.isLt cl.isLt, if_neg (by decide), Chip.l2Disable_of_on hon', Chip.l2Lines_recorded hrec, hlines]
    rfl
  obtain ⟨t, hrun, hpend, hget, hwrote⟩ := State.putsWrite_next h ((CL_L2_addr d.isLt cl.isLt (by simp)).trans (by decide)) heffect
    (fun p hp => (CL_L2_addr d.isLt cl.isLt (by simp at hp; rcases hp with rfl | rfl <;> simp)).trans (by decide))
    (by simp [Reg.CL_L2_CTRL.EN, Reg.CL_L2_STATUS.BUSY, mkFld])
  rw [exec_l2Disable]
  exact ⟨t, hrun, hpend, hget _ (List.mem_cons_self ..), hget _ (List.mem_cons_of_mem _ (List.mem_cons_self ..)), hwrote⟩

/-- EN written 1 of an L2 that has drained. -/
theorem State.l2Enable_next {s : State} {w : Who} {d : Fin 12} {cl : Fin 5} (h : s.chip.writeRuns w (Reg.CL_L2_CTRL.EN d.val cl.val).off = true)
    (hoff : s.chip.on (Reg.CL_L2_CTRL.EN d.val cl.val) = false) (hbusy : s.chip.on (Reg.CL_L2_STATUS.BUSY d.val cl.val) = false) :
    ∃ t, exec (.l2Enable w d cl) s = .next t ∧ t.pending = s.pending ∧ t.chip.get (Reg.CL_L2_CTRL.EN d.val cl.val) = 1
      ∧ t.chip.get (Reg.CL_L2_STATUS.DRAINED d.val cl.val) = 0
      ∧ WroteOnly s.chip t.chip w (Reg.CL_L2_CTRL.EN d.val cl.val).off [Reg.CL_L2_CTRL.EN d.val cl.val, Reg.CL_L2_STATUS.DRAINED d.val cl.val] := by
  have heffect : ∀ c, Recorded s.chip c → c.csrAction w (Reg.CL_L2_CTRL.EN d.val cl.val).off 1
      = c.puts [(Reg.CL_L2_CTRL.EN d.val cl.val, 1), (Reg.CL_L2_STATUS.DRAINED d.val cl.val, 0)] := fun c hrec => by
    have hoff' := (hrec.on_low ((CL_L2_addr d.isLt cl.isLt (by simp)).trans (by decide))).trans hoff
    have hbusy' := (hrec.on_low ((CL_L2_addr d.isLt cl.isLt (by simp)).trans (by decide))).trans hbusy
    rw [c.csrAction_l2Ctrl w 1 d.isLt cl.isLt, if_pos (by decide), Chip.l2Enable_of_drained hoff' hbusy']
  obtain ⟨t, hrun, hpend, hget, hwrote⟩ := State.putsWrite_next h ((CL_L2_addr d.isLt cl.isLt (by simp)).trans (by decide)) heffect
    (fun p hp => (CL_L2_addr d.isLt cl.isLt (by simp at hp; rcases hp with rfl | rfl <;> simp)).trans (by decide))
    (by simp [Reg.CL_L2_CTRL.EN, Reg.CL_L2_STATUS.DRAINED, mkFld]; omega)
  rw [exec_l2Enable]
  exact ⟨t, hrun, hpend, hget _ (List.mem_cons_self ..), hget _ (List.mem_cons_of_mem _ (List.mem_cons_self ..)), hwrote⟩

/-- CL_L2_LOCK's write. -/
theorem State.l2Lock_next {s : State} {w : Who} {d : Fin 12} {cl : Fin 5} (v : Word) (h : s.chip.writeRuns w (Reg.CL_L2_LOCK.WAYS d.val cl.val).off = true) :
    ∃ (c : Chip) (t : State), (∀ f ∈ l2LockFields d.val cl.val, c.get f = s.chip.get f) ∧ exec (.clL2LockWrite w d cl v) s = .next t ∧ t.pending = s.pending
      ∧ (∀ g, t.chip.get g = (c.l2Lock d.val cl.val v.toNat).get g)
      ∧ WroteOnly s.chip t.chip w (Reg.CL_L2_LOCK.WAYS d.val cl.val).off (l2LockFields d.val cl.val) := by
  have hlow : ∀ f ∈ l2LockFields d.val cl.val, f.addr < 8 * 0xC0000000 := fun f hf =>
    CL_L2_addr d.isLt cl.isLt (by simp only [l2LockFields, List.mem_cons, List.not_mem_nil, or_false] at hf ⊢; tauto)
  obtain ⟨c, t, hrec, hrun, hpend, hget, hcoh, hwrote⟩ := State.cohWrite_next (v := v.toNat) h ((hlow _ (List.mem_cons_self ..)).trans (by decide))
    (fun c => c.csrAction_l2Lock w _ d.isLt cl.isLt) (fun c _ => CohFields.l2Lock c d.val cl.val v.toNat) (fun g hg => (hlow g hg).trans (by decide))
  rw [hcoh, Chip.l2Lock_coh, hrec.coh] at hwrote
  exact ⟨c, t, fun f hf => hrec.get_low ((hlow f hf).trans (by decide)), hrun, hpend, hget, hwrote⟩

end Sys2Proof.Machine

open Sys2Proof Sys2Proof.Machine

/-- Settles O11: of a cache that holds nothing, each command changes its own registers and the list of operations. -/
theorem cacheOperationsRun : Obligations.CacheOperationsRun := by
  unfold Obligations.CacheOperationsRun
  refine ⟨fun s w d cl v h => ?lock, fun s w d cl keep h hbusy hlines p hp => ?l2, fun s w d sl h hbusy hlines hnone p hp => ?l3,
    fun s w h hbusy hhc hfills p hp => ?hub, fun s d sl hs hany hpassed => ?done, fun s w d cl h hlines => ⟨fun hon => ?off, fun hoff hbusy => ?on⟩,
    fun s d cl hs hbusy hdrains hre => ?drained⟩
  case lock =>
    obtain ⟨c, t, hold, hrun, hpend, hget, hwrote⟩ := State.l2Lock_next v h
    refine ⟨t, hrun, hpend, fun hmany => ?_, fun hfew => ?_, hwrote⟩
    · obtain ⟨hbad, hways⟩ := Chip.get_l2Lock_of_many (c := c) (d := d.val) (cl := cl.val) hmany
      rw [hget, hget, hbad, hways]
      exact ⟨rfl, hold _ (by simp [l2LockFields])⟩
    · obtain ⟨hways, hfill, hagent, hbad⟩ := Chip.get_l2Lock_of_few (c := c) (d := d.val) (cl := cl.val) hfew
      rw [hget, hget, hget, hget, hways, hfill, hagent, hbad, hold _ (by simp [l2LockFields])]
      exact ⟨rfl, rfl, rfl, rfl⟩
  case l2 =>
    obtain ⟨op, v, hop, hflush, hv, hkeep, hexec⟩ := exec_l2Maint (s := s) hp
    rw [hexec, ← hflush]
    refine State.maintBegun_next h ((CL_L2_addr d.isLt cl.isLt (by simp)).trans (by decide)) ((CL_L2_addr d.isLt cl.isLt (by simp)).trans (by decide)) rfl
      fun c hrec => ?_
    have hfree := (hrec.on_low ((CL_L2_addr d.isLt cl.isLt (by simp)).trans (by decide))).trans hbusy
    rw [c.csrAction_l2Maint w v d.isLt cl.isLt, hv, hkeep, Chip.l2Maint_begins hop _ hfree, Chip.l2Lines_recorded hrec, hlines]
    rfl
  case l3 =>
    obtain ⟨op, hop, hflush, hv, hexec⟩ := exec_l3Maint (s := s) hp
    rw [hexec, ← hflush]
    refine State.maintBegun_next h ((L3_addr d.isLt sl.isLt (by simp)).trans (by decide)) ((L3_addr d.isLt sl.isLt (by simp)).trans (by decide)) rfl
      fun c hrec => ?_
    have hfree := (hrec.on_low ((L3_addr d.isLt sl.isLt (by simp)).trans (by decide))).trans hbusy
    rw [c.csrAction_l3Maint w op d.isLt sl.isLt, hv, Chip.l3Maint_begins hop hfree, Chip.l3Lines_recorded hrec, hlines]
    refine Chip.l3MaintGo_nil _ fun m hm hlevel hunit => ?_
    rw [Chip.maintBegun_coh, hrec.coh] at hm
    rcases List.mem_append.1 hm with hm | hm
    · have := List.any_eq_false.1 hnone m hm
      simp [hlevel, hunit] at this
    · rw [List.mem_singleton.1 hm]
  case hub =>
    obtain ⟨op, hop, hflush, hv, hexec⟩ := exec_hcMaint (s := s) hp
    rw [hexec, ← hflush]
    refine State.maintBegun_next h (by decide) (by decide) rfl fun c hrec => ?_
    have hempty : ∀ banks, c.hcLinesOf banks = [] := fun banks => by simp [Chip.hcLinesOf, hrec.coh, hhc, hfills]
    rw [c.csrAction_hcMaint w op, hv, Chip.hcMaint_begins hop ((hrec.on_low (by decide)).trans hbusy), hempty]
    rfl
  case done =>
    refine State.cacheMaintDone_next hs hany hpassed ?_
    rw [if_neg (by decide), if_pos rfl, show (20 * d.val + sl.val) / 20 = d.val by omega, show (20 * d.val + sl.val) % 20 = sl.val by omega]
  case off => exact State.l2Disable_next h hlines hon
  case on => exact State.l2Enable_next h hoff hbusy
  case drained =>
    have hend : s.chip.l2Drained d.val cl.val = s.chip.puts (l2DrainedSet d.val cl.val) := by
      rw [Chip.l2Drained_of_none hbusy hdrains, hre]
      rfl
    refine ⟨_, s.run_eq (fun c => c.l2Drained d.val cl.val) hs (by rw [hend]; exact Chip.puts_otp _ _), rfl, ?_, ?_, ?_⟩
    · simp only [hend]
      exact Chip.get_puts_mem s.chip (by simp [Reg.CL_L2_STATUS.BUSY, Reg.CL_L2_STATUS.DRAINED, mkFld]) (List.mem_cons_self ..)
    · simp only [hend]
      exact Chip.get_puts_mem s.chip (by simp [Reg.CL_L2_STATUS.BUSY, Reg.CL_L2_STATUS.DRAINED, mkFld]) (List.mem_cons_of_mem _ (List.mem_cons_self ..))
    · simp only [hend]
      exact OnlyFields.puts _ _ (by simp [l2DrainedSet])
end

section
/-! Range operations over a line that nobody holds, and the directory probe (R161, R163, R183, R200). -/
namespace Sys2Proof.Machine

/-! ### The home's steps on a line that nobody holds -/

theorem Chip.dirEnt_of_none {c : Chip} {line : Nat} (h : c.dirFind line = none) : c.dirEnt line = ⟨line, dI, false, false, [], 0⟩ := by
  rw [Chip.dirEnt, h]
  rfl

theorem Chip.dirRemove_of_none {c : Chip} {line : Nat} (h : c.dirFind line = none) : c.dirRemove line = c := by
  rw [Chip.dirRemove, h]

theorem Chip.hcCheck_of_none {c : Chip} {line : Nat} (h : c.hcFind line = none) : c.hcCheck line = c := by
  rw [Chip.hcCheck, h]

theorem Chip.hcClean_of_none {c : Chip} {line : Nat} (h : c.hcFind line = none) (hwait : c.hcWaitOf line = none) : c.hcClean line = c := by
  unfold Chip.hcClean
  rw [Chip.hcCheck_of_none h]
  simp only [h, hwait]

theorem Chip.hcFills_of_none {c : Chip} {line : Nat} (h : c.hcWaitOf line = none) : c.coh.hcFills.filter (fun w => w.line != line) = c.coh.hcFills := by
  rw [List.filter_eq_self]
  intro w hw
  have := List.find?_eq_none.1 h w hw
  simpa using this

theorem Chip.hcDrop_of_none {c : Chip} {line : Nat} (h : c.hcFind line = none) (hwait : c.hcWaitOf line = none) : c.hcDrop line = c := by
  unfold Chip.hcDrop
  rw [Chip.hcFills_of_none hwait, Chip.hcCheck_of_none h]
  simp only [h]

theorem Chip.hcDirty_of_none {c : Chip} {line : Nat} (h : c.hcFind line = none) (hwait : c.hcWaitOf line = none) : c.hcDirty line = none := by
  unfold Chip.hcDirty
  rw [h, hwait]

theorem Chip.rangeClean_of_none {c : Chip} {t : Tx} (h : c.hcFind t.line = none) (hwait : c.hcWaitOf t.line = none) (hown : t.own = none)
    (hclean : t.ownDirty = false) : c.rangeClean t = c := by
  unfold Chip.rangeClean Chip.keepDirty
  rw [Chip.hcCheck_of_none h, hclean, hown]
  simp only [Bool.false_eq_true, if_false, Chip.hcDirty_of_none h hwait]
  exact Chip.hcClean_of_none h hwait

/-- The home's part of a range operation, for a line that nobody holds, writes nothing (R183). -/
theorem Chip.finServe_of_unheld {c : Chip} {m : Msg} (htyp : m.typ = tMClean ∨ m.typ = tMFlush ∨ m.typ = tMInval) (hagent : agDie m.agent = 12)
    (hdir : c.dirFind m.line = none) (hhc : c.hcFind m.line = none) (hwait : c.hcWaitOf m.line = none) :
    c.finServe (Tx.new m.line m) ⟨m.line, dI, false, false, [], 0⟩ = c := by
  have hclean : c.rangeClean (Tx.new m.line m) = c := Chip.rangeClean_of_none hhc hwait rfl rfl
  have hreq : (Tx.new m.line m).req = m := rfl
  have hline : (Tx.new m.line m).line = m.line := rfl
  rcases htyp with htyp | htyp | htyp
  · simp [Chip.finServe, servedAs, hreq, htyp, hclean, hagent, tMClean, tUpg, tClaim, tRdS, tRdX, tRdNc, tWrNc, dI, dX, dO]
  · simp [Chip.finServe, servedAs, hreq, hline, htyp, hclean, tMFlush, tMClean, tUpg, tClaim, tRdS, tRdX, tRdNc, tWrNc,
      Chip.hcDrop_of_none hhc hwait, Chip.dirRemove_of_none hdir]
  · simp [Chip.finServe, servedAs, hreq, hline, htyp, tMInval, tMFlush, tMClean, tUpg, tClaim, tRdS, tRdX, tRdNc, tWrNc, dI, dP,
      Chip.hcDrop_of_none hhc hwait, Chip.dirRemove_of_none hdir]

theorem Chip.txOf_add {c : Chip} {t : Tx} (h : c.txOf t.line = none) : (c.txAdd t).txOf t.line = some t := by
  have hold : c.coh.txs.find? (fun x => x.line == t.line) = none := h
  simp [Chip.txOf, Chip.txAdd, List.find?_append, hold]

/-- What is done to the transaction of a line, where it has just been opened. -/
theorem Chip.txMod_add {c : Chip} {t : Tx} (h : c.txOf t.line = none) (f : Tx → Tx) : (c.txAdd t).txMod t.line f = c.txAdd (f t) := by
  have hold : c.coh.txs.map (fun x => if x.line = t.line then f x else x) = c.coh.txs := by
    refine (List.map_congr_left fun x hx => ?_).trans (List.map_id _)
    have := List.find?_eq_none.1 h x hx
    exact if_neg (by simpa using this)
  simp [Chip.txMod, Chip.txAdd, hold]

/-- The home serves such a request at once: its transaction is open and answered. -/
theorem Chip.homeServe_of_unheld {c : Chip} {m : Msg} (hcls : m.cls = clsReq) (htyp : m.typ = tMClean ∨ m.typ = tMFlush ∨ m.typ = tMInval)
    (hagent : agDie m.agent = 12) (hdir : c.dirFind m.line = none) (hhc : c.hcFind m.line = none) (hwait : c.hcWaitOf m.line = none)
    (htx : c.txOf m.line = none) :
    c.homeServe m = (c.nrgEv domHubc 6 (c.keyOf m.agent m.tenant) 1).txAdd { Tx.new m.line m with done := true } := by
  have halloc : m.allocates = false := by
    rcases htyp with htyp | htyp | htyp <;> simp [Msg.allocates, htyp, tMClean, tMFlush, tMInval, tRdS, tRdX, tUpg, tClaim]
  have hmem : (Tx.new m.line m).needsMem ⟨m.line, dI, false, false, [], 0⟩ = false := by
    have hreq : (Tx.new m.line m).req = m := rfl
    rcases htyp with htyp | htyp | htyp <;>
      simp [Tx.needsMem, servedAs, hreq, htyp, tMClean, tMFlush, tMInval, tRdS, tRdX, tUpg, tRdNc, tWrNc]
  generalize hn : c.nrgEv domHubc 6 (c.keyOf m.agent m.tenant) 1 = n
  have hcoh : n.coh = c.coh := by rw [← hn, Chip.nrgEv_rest]
  have hdir' : n.dirFind m.line = none := by rw [Chip.dirFind, hcoh]; exact hdir
  have htx' : n.txOf (Tx.new m.line m).line = none := by rw [Chip.txOf, hcoh]; exact htx
  have hhc' : (n.txAdd (Tx.new m.line m)).hcFind m.line = none := by rw [Chip.hcFind, Chip.txAdd, hcoh]; exact hhc
  have hwait' : (n.txAdd (Tx.new m.line m)).hcWaitOf m.line = none := by rw [Chip.hcWaitOf, Chip.txAdd, hcoh]; exact hwait
  have hent : n.dirEnt m.line = ⟨m.line, dI, false, false, [], 0⟩ := Chip.dirEnt_of_none hdir'
  have hserve : (n.txAdd (Tx.new m.line m)).finServe (Tx.new m.line m) ⟨m.line, dI, false, false, [], 0⟩ = n.txAdd (Tx.new m.line m) :=
    Chip.finServe_of_unheld htyp hagent hdir' hhc' hwait'
  have hsnoops : (n.txAdd (Tx.new m.line m)).txSnoops ⟨m.line, dI, false, false, [], 0⟩ m = n.txAdd (Tx.new m.line m) := by
    rw [Chip.txSnoops]
    exact if_pos (by simp)
  have hadvance : (n.txAdd (Tx.new m.line m)).txAdvance m.line = n.txAdd { Tx.new m.line m with done := true } := by
    have hopen : (n.txAdd (Tx.new m.line m)).txOf m.line = some (Tx.new m.line m) := Chip.txOf_add htx'
    have hent' : (n.txAdd (Tx.new m.line m)).dirEnt m.line = ⟨m.line, dI, false, false, [], 0⟩ := hent
    have hnone : (Tx.new m.line m).req.cls ≠ clsNone := by
      rw [show (Tx.new m.line m).req.cls = m.cls from rfl, hcls]
      decide
    unfold Chip.txAdvance
    simp only [hopen, hent', hmem, hserve, hnone, if_false, Bool.false_eq_true]
    exact Chip.txMod_add htx' _
  have hfenced : n.ownerFenced ⟨m.line, dI, false, false, [], 0⟩ = false := rfl
  unfold Chip.homeServe
  simp only [hn, hent, hfenced, halloc, hdir', hsnoops, hadvance, Bool.false_eq_true, if_false]

/-! ### The next line of a range operation -/

theorem Chip.touch_of_none {c : Chip} {line : Nat} (h : c.dirFind line = none) : c.touch line = c := by
  unfold Chip.touch
  rw [Chip.dirEnt_of_none h]
  exact if_neg (by simp [Chip.namesFenced])

/-- The request that a range operation makes of a line's home. -/
def rangeMsg (c : Chip) (r : RangeOp) (typ : Nat) : Msg :=
  { Msg.mk0 clsReq typ r.next with
    agent := hubAgent c.pkg 2 (homeSlice (64 * r.next)), tenant := r.who.tenant, secure := r.who.secure, dstPkg := c.pkg, arrived := c.time }

theorem agDie_hubAgent (pkg cls inst : Nat) (hcls : cls < 7) : agDie (hubAgent pkg cls inst) = 12 := by
  unfold agDie hubAgent
  rw [bits_eq]
  omega

/-- The package as a range operation has its next line's transaction open. -/
def Chip.rangeOpened (c : Chip) (r : RangeOp) (typ : Nat) : Chip :=
  (({ c with coh := { c.coh with range := some { r with busy := true } } } : Chip).nrgEv domHubc 6
    (c.keyOf (rangeMsg c r typ).agent r.who.tenant) 1).txAdd { Tx.new r.next (rangeMsg c r typ) with done := true }

theorem Chip.rangeStep_of_unheld {c : Chip} {r : RangeOp} {op typ : Nat} (hr : c.coh.range = some r) (hop : r.op = op) (hbusy : r.busy = false)
    (hfree : c.lineBusy r.next = false) (hok : (c.rgnCheck (c.checkerOf r.next) (64 * r.next) r.who rightW).ok = true)
    (htyp : typ = tMClean ∨ typ = tMFlush ∨ typ = tMInval) (hdir : c.dirFind r.next = none) (hhc : c.hcFind r.next = none)
    (hwait : c.hcWaitOf r.next = none) : c.rangeStep op typ = c.rangeOpened r typ := by
  have htx : c.txOf r.next = none := by
    rw [Chip.txOf, List.find?_eq_none]
    intro t ht hline
    simp only [Chip.lineBusy, Bool.or_eq_false_iff, List.any_eq_false] at hfree
    exact hfree.1 t ht (by simp_all)
  have hserve := Chip.homeServe_of_unheld (c := { c with coh := { c.coh with range := some { r with busy := true } } }) (m := rangeMsg c r typ) rfl htyp
    (agDie_hubAgent _ _ _ (by decide)) hdir hhc hwait htx
  subst hop
  unfold Chip.rangeStep
  simp only [hr, hbusy, hfree, hok, Chip.touch_of_none hdir, bne_self_eq_false, Bool.or_self, Bool.not_true, Bool.false_eq_true, if_false]
  exact hserve

/-- What it leaves of the package. -/
theorem Chip.rangeOpened_next (c : Chip) (r : RangeOp) (typ : Nat) :
    (c.rangeOpened r typ).coh.range = some { r with busy := true }
      ∧ (c.rangeOpened r typ).coh.txs = c.coh.txs ++ [{ Tx.new r.next (rangeMsg c r typ) with done := true }]
      ∧ CountedOnly { c with coh := { c.coh with range := (c.rangeOpened r typ).coh.range, txs := (c.rangeOpened r typ).coh.txs } } (c.rangeOpened r typ) [] := by
  have hcoh : (c.rangeOpened r typ).coh = { c.coh with
      range := some { r with busy := true }
      txs := c.coh.txs ++ [{ Tx.new r.next (rangeMsg c r typ) with done := true }] } := by
    unfold Chip.rangeOpened Chip.txAdd
    rw [Chip.nrgEv_rest]
  refine ⟨by rw [hcoh], by rw [hcoh], ?_⟩
  rw [hcoh]
  unfold Chip.rangeOpened Chip.txAdd
  rw [Chip.nrgEv_rest]
  exact ⟨rfl, fun _ _ _ => rfl, rfl⟩

theorem Chip.maintClean_of_none {c : Chip} (h : ∀ m ∈ c.coh.homeQ, m.typ ≠ tMClean) : c.maintClean = c.rangeStep 1 tMClean := by
  have hnone : c.coh.homeQ.find? (fun m => m.cls == clsReq && m.typ == tMClean && (c.homeTake tMClean m.line).isSome) = none := by
    rw [List.find?_eq_none]
    intro m hm hq
    simp only [Bool.and_eq_true, beq_iff_eq] at hq
    exact h m hm hq.1.2
  unfold Chip.maintClean
  rw [hnone]

/-- Each operation's command takes the next line with the request type of its own. -/
theorem exec_maintStep {s : State} (hq : ∀ m ∈ s.chip.coh.homeQ, m.typ ≠ tMClean) {p : Instr × Nat}
    (hp : p ∈ [(Instr.maintClean, 1), (.maintFlush, 2), (.maintInval, 3)]) :
    ∃ typ f, (typ = tMClean ∨ typ = tMFlush ∨ typ = tMInval) ∧ exec p.1 s = s.run f ∧ f s.chip = s.chip.rangeStep p.2 typ := by
  simp only [List.mem_cons, List.not_mem_nil, or_false] at hp
  rcases hp with rfl | rfl | rfl
  · exact ⟨tMClean, Chip.maintClean, .inl rfl, rfl, Chip.maintClean_of_none hq⟩
  · exact ⟨tMFlush, fun c => c.rangeStep 2 tMFlush, .inr (.inl rfl), rfl, rfl⟩
  · exact ⟨tMInval, fun c => c.rangeStep 3 tMInval, .inr (.inr rfl), rfl, rfl⟩

end Sys2Proof.Machine
end

section
/-! Range commands and DIR_PROBE as software writes (R161, R163, R200). -/
namespace Sys2Proof.Machine

/-- HC_RANGE_CMD's commands. -/
theorem exec_rangeCmd {s : State} {w : Who} {p : Instr × Nat} (hp : p ∈ [(Instr.rangeClean w, 1), (.rangeFlush w, 2), (.rangeInval w, 3)]) :
    p.2 ≠ 0 ∧ bits p.2 0 2 = p.2 ∧ exec p.1 s = s.run (fun c => c.regWrite w Reg.HC_RANGE_CMD.OP.off p.2) := by
  simp only [List.mem_cons, List.not_mem_nil, or_false] at hp
  rcases hp with rfl | rfl | rfl <;> exact ⟨Nat.succ_ne_zero _, rfl, rfl⟩

/-- A range is legal after a record as before. -/
theorem Recorded.rangeOk {a b : Chip} (h : Recorded a b) (first n : Nat) : b.rangeOk first n = a.rangeOk first n := by
  unfold Chip.rangeOk Chip.pkg
  rw [h.get_low (by decide), h.get_low (by decide), h.get_low (by decide)]

def rangeFields : List Fld := [Reg.HC_RANGE_STATUS.BUSY, Reg.HC_RANGE_STATUS.RESULT, Reg.HC_RANGE_COUNT.SKIPPED, Reg.HC_RANGE_COUNT.POISONED]

/-- What a range command that is taken writes. -/
def rangeSet : List (Fld × Nat) :=
  [(Reg.HC_RANGE_STATUS.BUSY, 1), (Reg.HC_RANGE_STATUS.RESULT, 0), (Reg.HC_RANGE_COUNT.SKIPPED, 0), (Reg.HC_RANGE_COUNT.POISONED, 0)]

/-- A range command meets no running operation. -/
theorem Chip.rangeCmd_of_free {c : Chip} {w : Who} {op first n : Nat} (hop : op ≠ 0) (hbusy : c.on Reg.HC_RANGE_STATUS.BUSY = false)
    (hfirst : c.get Reg.HC_RANGE_BASE.ADDR = first) (hn : c.get Reg.HC_RANGE_LEN.LINES = n) :
    c.rangeCmd w op = if c.rangeOk first n then ({ c with coh := { c.coh with range := some ⟨first, n, op, w, false⟩ } } : Chip).puts rangeSet
      else c.put Reg.HC_RANGE_STATUS.RESULT 2 := by
  unfold Chip.rangeCmd
  rw [if_neg hop, if_neg (by simp [hbusy]), hfirst, hn]
  dsimp only
  cases c.rangeOk first n <;> rfl

theorem CohFields.rangeCmd {c : Chip} {w : Who} {op : Nat} (hop : op ≠ 0) (hbusy : c.on Reg.HC_RANGE_STATUS.BUSY = false) :
    CohFields c (c.rangeCmd w op) rangeFields := by
  rw [Chip.rangeCmd_of_free hop hbusy rfl rfl]
  split
  · exact CohFields.of_only _ (OnlyFields.puts _ _ (by decide))
  · exact CohFields.puts c [(Reg.HC_RANGE_STATUS.RESULT, 2)] (by decide)

/-- Only the range operation differs of what the caches and the homes hold. -/
theorem Chip.rangeCmd_coh {c : Chip} {w : Who} {op : Nat} (hop : op ≠ 0) (hbusy : c.on Reg.HC_RANGE_STATUS.BUSY = false) :
    (c.rangeCmd w op).coh = { c.coh with range := (c.rangeCmd w op).coh.range } := by
  rw [Chip.rangeCmd_of_free hop hbusy rfl rfl]
  split
  · rw [Chip.puts_coh]
  · rfl

/-! ### DIR_PROBE -/

/-- What the probe of a line reads: its entry, where it has one in this slice. -/
def Chip.probeSet (c : Chip) (sl line : Nat) : List (Fld × Nat) :=
  let mine := c.ownLine line && homeSlice (64 * line) == sl
  let e := c.dirEnt line
  let hit := mine && (c.dirFind line).isSome
  let p := fun (i : Nat) => if hit then (e.ptrs[i]?).getD 0x3FF else 0x3FF
  [(Reg.DIR_PROBE_ENTRY.STATE sl, if hit then e.st else 0), (Reg.DIR_PROBE_ENTRY.OVF sl, b2n (hit && e.ovf)),
    (Reg.DIR_PROBE_ENTRY.XPKG sl, b2n (hit && e.xpkg)), (Reg.DIR_PROBE_ENTRY.OPEN sl, b2n (mine && c.txOpenOn line)),
    (Reg.DIR_PROBE_ENTRY.HIT sl, b2n hit), (Reg.DIR_PROBE_ENTRY.BAD sl, b2n (!mine)), (Reg.DIR_PROBE_ENTRY.PTR0 sl, p 0),
    (Reg.DIR_PROBE_ENTRY.PTR1 sl, p 1), (Reg.DIR_PROBE_ENTRY.PTR2 sl, p 2), (Reg.DIR_PROBE_ENTRY.PTR3 sl, p 3),
    (Reg.DIR_PROBE_ENTRY.AGE sl, if hit then e.age else 0)]

theorem Chip.dirProbe_eq (c : Chip) (sl v : Nat) : c.dirProbe sl v = c.puts (c.probeSet sl (bits v 6 46)) := rfl

theorem Recorded.probeSet {a b : Chip} (h : Recorded a b) (sl line : Nat) : b.probeSet sl line = a.probeSet sl line := by
  unfold Chip.probeSet Chip.ownLine Chip.pkg Chip.txOpenOn Chip.dirEnt Chip.dirFind
  rw [h.get_low (by decide), h.coh]

theorem Chip.probeSet_distinct (c : Chip) (sl line : Nat) : ((c.probeSet sl line).map (fun p => p.1.addr)).Nodup := by
  simp only [Chip.probeSet, List.map_cons, List.map_nil, Reg.DIR_PROBE_ENTRY.STATE, Reg.DIR_PROBE_ENTRY.OVF, Reg.DIR_PROBE_ENTRY.XPKG, Reg.DIR_PROBE_ENTRY.OPEN,
    Reg.DIR_PROBE_ENTRY.HIT, Reg.DIR_PROBE_ENTRY.BAD, Reg.DIR_PROBE_ENTRY.PTR0, Reg.DIR_PROBE_ENTRY.PTR1, Reg.DIR_PROBE_ENTRY.PTR2, Reg.DIR_PROBE_ENTRY.PTR3,
    Reg.DIR_PROBE_ENTRY.AGE, mkFld]
  simp

theorem Chip.probeSet_low (c : Chip) {sl : Nat} (hsl : sl < 16) (line : Nat) : ∀ p ∈ c.probeSet sl line, p.1.addr < 8 * 0xCB000000 := by
  intro p hp
  simp only [Chip.probeSet, List.mem_cons, List.not_mem_nil, or_false] at hp
  rcases hp with rfl | rfl | rfl | rfl | rfl | rfl | rfl | rfl | rfl | rfl | rfl <;>
    simp only [Reg.DIR_PROBE_ENTRY.STATE, Reg.DIR_PROBE_ENTRY.OVF, Reg.DIR_PROBE_ENTRY.XPKG, Reg.DIR_PROBE_ENTRY.OPEN, Reg.DIR_PROBE_ENTRY.HIT,
      Reg.DIR_PROBE_ENTRY.BAD, Reg.DIR_PROBE_ENTRY.PTR0, Reg.DIR_PROBE_ENTRY.PTR1, Reg.DIR_PROBE_ENTRY.PTR2, Reg.DIR_PROBE_ENTRY.PTR3,
      Reg.DIR_PROBE_ENTRY.AGE, mkFld] <;> omega

/-- Its fields that say whether the entry exists. -/
theorem Chip.probeSet_mem (c : Chip) {sl line : Nat} {mine : Bool} (h : (c.ownLine line && homeSlice (64 * line) == sl) = mine) :
    (Reg.DIR_PROBE_ENTRY.STATE sl, if mine && (c.dirFind line).isSome then (c.dirEnt line).st else 0) ∈ c.probeSet sl line
      ∧ (Reg.DIR_PROBE_ENTRY.OPEN sl, b2n (mine && c.txOpenOn line)) ∈ c.probeSet sl line
      ∧ (Reg.DIR_PROBE_ENTRY.HIT sl, b2n (mine && (c.dirFind line).isSome)) ∈ c.probeSet sl line
      ∧ (Reg.DIR_PROBE_ENTRY.BAD sl, b2n (!mine)) ∈ c.probeSet sl line := by
  subst h
  simp [Chip.probeSet]

theorem b2n_lt_two (b : Bool) : b2n b < 2 := by cases b <;> decide

/-- The line that a written DIR_PROBE names. -/
theorem bits_withFields_probe (sl : Nat) (line : BitVec 46) : bits (withFields 0 [(Reg.DIR_PROBE.ADDR sl, line.toNat)]) 6 46 = line.toNat := by
  have hplace : (Reg.DIR_PROBE.ADDR sl).addr % 64 = 6 := by
    simp only [Reg.DIR_PROBE.ADDR, mkFld]
    omega
  have hwidth : (Reg.DIR_PROBE.ADDR sl).width = 46 := rfl
  unfold withFields
  rw [List.foldl_cons, List.foldl_nil, hplace, hwidth, bits_setBits_self]
  exact Nat.mod_eq_of_lt line.isLt

end Sys2Proof.Machine

open Sys2Proof Sys2Proof.Machine

/-- Settles O10: the commands are writes with an effect on the range operation alone, the home serves an unheld line at once, and the probe puts its entry's fields. -/
theorem rangeOperationsWalk : Obligations.RangeOperationsWalk := by
  unfold Obligations.RangeOperationsWalk
  refine ⟨fun s w h hbusy p hp => ?command, fun s r hs hr hidle hfree hok hdir hhc hwait hq p hp hop => ?line, fun s w sl line h => ?probe⟩
  case command =>
    obtain ⟨hop, hbits, hexec⟩ := exec_rangeCmd (s := s) hp
    have hfree : ∀ c, Recorded s.chip c → c.on Reg.HC_RANGE_STATUS.BUSY = false := fun c hrec => (hrec.on_low (by decide)).trans hbusy
    obtain ⟨c, t, hrec, hrun, hpend, hget, hcoh, hwrote⟩ := State.cohWrite_next (l := rangeFields) h (by decide)
      (fun c => (c.csrAction_rangeCmd w p.2).trans (by rw [hbits])) (fun c hrec => CohFields.rangeCmd hop (hfree c hrec)) (by decide)
    have heffect := Chip.rangeCmd_of_free (w := w) hop (hfree c hrec) (hrec.get_low (by decide)) (hrec.get_low (by decide))
    rw [hrec.rangeOk] at heffect
    have hcoh' : t.chip.coh = { s.chip.coh with range := t.chip.coh.range } := by
      rw [hcoh, ← hrec.coh]
      exact Chip.rangeCmd_coh hop (hfree c hrec)
    rw [hcoh'] at hwrote
    refine ⟨t, hexec.trans hrun, hpend, fun hlegal => ?_, fun hlegal => ?_, hwrote⟩
    · rw [hlegal, if_pos rfl] at heffect
      have hset : ∀ q ∈ rangeSet, t.chip.get q.1 = q.2 % 2 ^ q.1.width := fun q hq => by
        rw [hget, heffect]
        exact Chip.get_puts_mem _ (by decide) hq
      refine ⟨?_, hset (Reg.HC_RANGE_STATUS.BUSY, 1) (by decide), hset (Reg.HC_RANGE_COUNT.SKIPPED, 0) (by decide), hset (Reg.HC_RANGE_COUNT.POISONED, 0) (by decide)⟩
      rw [hcoh, heffect, Chip.puts_coh]
    · rw [hlegal, if_neg (by decide)] at heffect
      rw [hcoh, hget, heffect, Chip.put_coh, hrec.coh]
      exact ⟨rfl, Chip.get_put_self _ _ _⟩
  case line =>
    obtain ⟨typ, f, htyp, hexec, hf⟩ := exec_maintStep hq hp
    rw [Chip.rangeStep_of_unheld hr hop hidle hfree hok htyp hdir hhc hwait] at hf
    obtain ⟨hrange, htxs, hcounted⟩ := s.chip.rangeOpened_next r typ
    rw [← hf] at hrange htxs hcounted
    exact ⟨_, _, hexec.trans (s.run_eq f hs (by rw [hcounted.rest])), rfl, hrange, htxs, rfl, rfl, hcounted⟩
  case probe =>
    have hlow : (Reg.DIR_PROBE.ADDR sl.val).addr < 8 * 0xC9C00000 := by
      simp only [Reg.DIR_PROBE.ADDR, mkFld]
      omega
    have heffect : ∀ c, Recorded s.chip c → c.csrAction w (Reg.DIR_PROBE.ADDR sl.val).off (withFields 0 [(Reg.DIR_PROBE.ADDR sl.val, line.toNat)])
        = c.puts (s.chip.probeSet sl.val line.toNat) := fun c hrec => by
      rw [c.csrAction_dirProbe w _ sl.isLt, Chip.dirProbe_eq, bits_withFields_probe, hrec.probeSet]
    obtain ⟨t, hrun, hpend, hget, hwrote⟩ := State.putsWrite_next h hlow heffect (s.chip.probeSet_low sl.isLt _) (s.chip.probeSet_distinct _ _)
    refine ⟨t, hrun, hpend, fun hown hmine => ?_, fun hother => ?_, hwrote⟩
    · obtain ⟨hstate, hopen, hhit, hbad⟩ := s.chip.probeSet_mem (sl := sl.val) (line := line.toNat) (mine := true) (by simp [hown, hmine])
      refine ⟨hget _ hbad, (hget _ hhit).trans (Nat.mod_eq_of_lt (b2n_lt_two _)), (hget _ hopen).trans (Nat.mod_eq_of_lt (b2n_lt_two _)), (hget _ hstate).trans ?_⟩
      rw [Bool.true_and]
      split <;> rfl
    · obtain ⟨-, -, hhit, hbad⟩ := s.chip.probeSet_mem (sl := sl.val) (line := line.toNat) (mine := false) (by simp [hother])
      exact ⟨hget _ hbad, hget _ hhit⟩
end

section
/-! Lines that move between the caches (R151, R154, R160, R164, R168): what every such step leaves unchanged. -/
namespace Sys2Proof.Machine

/-! ### Steps of the caches change lines, messages on their way, counters and error logs -/

/-- Is a field a performance counter's, or one of the caches' error registers (R168, R169)? -/
def cacheLogFld (f : Fld) : Bool :=
  let o := f.addr / 64 * 8
  pmuFld f
    || (decide (o < 0xC0000000) && decide (0x1000000 ≤ o % 0x10000000) && decide (o % 0x10000000 < 0x2000000) && decide (0x20 ≤ o % 0x10000))
    || (decide (o < 0xC0000000) && decide (0x2000000 ≤ o % 0x10000000) && decide (o % 0x10000000 < 0x3000000) && decide (0x10 ≤ o % 0x10000))
    || (decide (0xC1000018 ≤ o) && decide (o < 0xC1000100))

/-- A step of the caches: lines, requests and writebacks may differ, with messages, counters, error logs and what follows of them; the list of
whole-cache operations stands. -/
structure Chip.LinesMoved (a b : Chip) : Prop where
  rest : b = { a with regs := b.regs, irqs := b.irqs, nrg := b.nrg, fatalErr := b.fatalErr, spk := b.spk, coh := b.coh }
  regs : ∀ f : Fld, cacheLogFld f = false → b.get f = a.get f
  maint : b.coh.maint = a.coh.maint

theorem OLD_BUSY_not_log {p : Nat} (hp : p < 8) : cacheLogFld (Reg.PCI_WIN_SEL.OLD_BUSY p) = false := by
  have ho : (Reg.PCI_WIN_SEL.OLD_BUSY p).addr / 64 * 8 = 0xCB000068 + p * 0x10000 := by
    simp only [Reg.PCI_WIN_SEL.OLD_BUSY, mkFld]
    omega
  rw [← Bool.not_eq_true]
  simp only [cacheLogFld, pmuFld, ho, Bool.or_eq_true, Bool.and_eq_true, decide_eq_true_eq]
  omega

namespace Chip.LinesMoved

theorem refl (c : Chip) : c.LinesMoved c := ⟨rfl, fun _ _ => rfl, rfl⟩

theorem trans {a b c : Chip} (h : a.LinesMoved b) (k : b.LinesMoved c) : a.LinesMoved c := by
  obtain ⟨h1, h2, h3⟩ := h
  obtain ⟨k1, k2, k3⟩ := k
  refine ⟨?_, fun f hf => (k2 f hf).trans (h2 f hf), k3.trans h3⟩
  rw [h1] at k1
  exact k1

/-- A step for each of a list's elements. -/
theorem foldl {α : Type} {f : Chip → α → Chip} {l : List α} (h : ∀ x ∈ l, ∀ c : Chip, c.LinesMoved (f c x)) (c : Chip) : c.LinesMoved (l.foldl f c) := by
  induction l generalizing c with
  | nil => exact refl c
  | cons x l ih => exact (h x (by simp) c).trans (ih (fun y hy => h y (by simp [hy])) _)

theorem of_counted {a b : Chip} (h : CountedOnly a b []) : a.LinesMoved b := by
  obtain ⟨h1, h2, -⟩ := h
  refine ⟨by rw [h1], fun f hf => h2 f ?_ (by simp), by rw [h1]⟩
  simp only [cacheLogFld, Bool.or_eq_false_iff] at hf
  exact hf.1.1.1

/-- Only what the caches hold changes. -/
theorem withCoh (c : Chip) {k : CohSt} (h : k.maint = c.coh.maint) : c.LinesMoved { c with coh := k } := ⟨rfl, fun _ _ => rfl, h⟩

theorem puts (c : Chip) {l : List (Fld × Nat)} (h : ∀ p ∈ l, cacheLogFld p.1 = true) : c.LinesMoved (c.puts l) := by
  refine ⟨c.puts_rest l ▸ rfl, fun f hf => c.get_puts_ne l fun p hp heq => ?_, by rw [Chip.puts_coh]⟩
  have hsame : cacheLogFld f = cacheLogFld p.1 := by rw [cacheLogFld, cacheLogFld, pmuFld, pmuFld, heq]
  rw [h p hp, hf] at hsame
  cases hsame

theorem count (c : Chip) {f : Fld} (n : Nat) (h : cacheLogFld f = true) : c.LinesMoved (c.count f n) :=
  puts c (l := [(f, satAdd f.width (c.get f) n)]) (by simpa using h)

theorem irqReg (c : Chip) (ag vec en : Fld) : c.LinesMoved (c.irqReg ag vec en) := of_counted (CountedOnly.irqReg c ag vec en)

theorem fatal (c : Chip) : c.LinesMoved { c with fatalErr := true } := ⟨rfl, fun _ _ => rfl, rfl⟩

theorem spkMod (c : Chip) (d : Nat) (f : SpkSt → SpkSt) : c.LinesMoved (c.spkMod d f) := ⟨rfl, fun _ _ => rfl, rfl⟩

theorem sameMemory {a b : Chip} (h : a.LinesMoved b) : SameMemory a b := by
  constructor <;> rw [h.rest]

theorem engineKept {a b : Chip} (h : a.LinesMoved b) : a.EngineKept b where
  stage := by rw [h.rest]
  fns := by rw [h.rest]
  windows p hp := h.regs _ (OLD_BUSY_not_log hp)
  otp := by rw [h.rest]

end Chip.LinesMoved

/-! ### Events of a die's units -/

theorem Chip.unitEvent_counted (c : Chip) {d : Nat} {event en irq tntEn tenant value ovf : Nat → Fld} (ev n : Nat) (k : EvKey)
    (h : ∀ i < 4, pmuFld (value i) = true ∧ pmuFld (ovf i) = true) : CountedOnly c (c.unitEvent (some d) event en irq tntEn tenant value ovf ev n k) [] := by
  unfold Chip.unitEvent
  dsimp only
  split
  · exact CountedOnly.refl c
  · refine CountedOnly.foldl (fun i hi e => ?_) c
    split
    · obtain ⟨hv, ho⟩ := h i (List.mem_range.1 hi)
      exact e.cntEvent_die_counted (irq i) d n hv ho
    · exact CountedOnly.refl e

theorem Chip.evClu_counted (c : Chip) {u : Nat} (hu : u < 60) (ev : Nat) (k : EvKey) : CountedOnly c (c.evClu u ev k) [] :=
  c.unitEvent_counted ev 1 k fun i hi =>
    ⟨pmuFld_die (d := u / 5) (r := 0xA04020 + u % 5 * 0x80 + i * 2) (lo := 0) (by simp only [Reg.PMU_CLU_CNT.VALUE, mkFld]; omega) (by decide) (by omega)
      (by omega) (by omega),
    pmuFld_die (d := u / 5) (r := 0xA04021 + u % 5 * 0x80 + i * 2) (lo := 0) (by simp only [Reg.PMU_CLU_CNT.OVF, mkFld]; omega) (by decide) (by omega)
      (by omega) (by omega)⟩

theorem Chip.evL3_counted (c : Chip) {d sl : Nat} (hd : d < 12) (hsl : sl < 20) (ev : Nat) (k : EvKey) : CountedOnly c (c.evL3 d sl ev k) [] :=
  c.unitEvent_counted ev 1 k fun i hi =>
    ⟨pmuFld_die (d := d) (r := 0xA06020 + sl * 0x80 + i * 2) (lo := 0) (by simp only [Reg.PMU_L3U_CNT.VALUE, mkFld]; omega) (by decide) hd
      (by omega) (by omega),
    pmuFld_die (d := d) (r := 0xA06021 + sl * 0x80 + i * 2) (lo := 0) (by simp only [Reg.PMU_L3U_CNT.OVF, mkFld]; omega) (by decide) hd
      (by omega) (by omega)⟩

theorem Chip.meshMsg_counted (c : Chip) {d : Nat} (hd : d < 12) (cls tenant : Nat) (secure : Bool) : CountedOnly c (c.meshMsg d cls tenant secure) [] :=
  c.unitEvent_counted _ 1 _ fun i hi =>
    ⟨pmuFld_die (d := d) (r := 0xA08020 + i * 2) (lo := 0) (by simp only [Reg.PMU_MESHU_CNT.VALUE, mkFld]; omega) (by decide) hd (by omega) (by omega),
    pmuFld_die (d := d) (r := 0xA08021 + i * 2) (lo := 0) (by simp only [Reg.PMU_MESHU_CNT.OVF, mkFld]; omega) (by decide) hd (by omega) (by omega)⟩

theorem Chip.LinesMoved.sendUp (c : Chip) {d : Nat} (hd : d < 12) (m : Msg) : c.LinesMoved (c.sendUp d m) :=
  (Chip.LinesMoved.of_counted (c.meshMsg_counted hd _ _ _)).trans (Chip.LinesMoved.spkMod _ _ _)

/-! ### Error registers of the caches -/

theorem cacheLogFld_clu {f : Fld} {d cl r lo : Nat} (hf : f.addr = 8 * (0x1000000 + d * 0x10000000 + cl * 0x10000 + 8 * r) + lo) (hlo : lo < 64) (hd : d < 12)
    (hcl : cl < 5) (hr : 4 ≤ r) (hr' : r < 0x2000) : cacheLogFld f = true := by
  have ho : f.addr / 64 * 8 = 0x1000000 + d * 0x10000000 + cl * 0x10000 + 8 * r := by omega
  simp only [cacheLogFld, ho, Bool.or_eq_true, Bool.and_eq_true, decide_eq_true_eq]
  omega

theorem cacheLogFld_l3 {f : Fld} {d sl r lo : Nat} (hf : f.addr = 8 * (0x2000000 + d * 0x10000000 + sl * 0x10000 + 8 * r) + lo) (hlo : lo < 64) (hd : d < 12)
    (hsl : sl < 20) (hr : 2 ≤ r) (hr' : r < 0x2000) : cacheLogFld f = true := by
  have ho : f.addr / 64 * 8 = 0x2000000 + d * 0x10000000 + sl * 0x10000 + 8 * r := by omega
  simp only [cacheLogFld, ho, Bool.or_eq_true, Bool.and_eq_true, decide_eq_true_eq]
  omega

namespace Chip.LinesMoved

theorem clLog (c : Chip) {d cl : Nat} (hd : d < 12) (hcl : cl < 5) (src addr : Nat) : c.LinesMoved (c.clLog d cl src addr) := by
  unfold Chip.clLog
  split
  · exact refl c
  · refine (puts c ?_).trans (irqReg _ _ _ _)
    simp only [List.mem_cons, List.not_mem_nil, or_false, forall_eq_or_imp, forall_eq]
    exact ⟨cacheLogFld_clu (r := 6) (lo := 0) (by simp only [Reg.CL_ERR_LOG.ADDR, mkFld]; omega) (by decide) hd hcl (by decide) (by decide),
      cacheLogFld_clu (r := 6) (lo := 52) (by simp only [Reg.CL_ERR_LOG.SRC, mkFld]; omega) (by decide) hd hcl (by decide) (by decide),
      cacheLogFld_clu (r := 6) (lo := 63) (by simp only [Reg.CL_ERR_LOG.VALID, mkFld]; omega) (by decide) hd hcl (by decide) (by decide)⟩

theorem l3Log (c : Chip) {d sl : Nat} (hd : d < 12) (hsl : sl < 20) (src addr : Nat) : c.LinesMoved (c.l3Log d sl src addr) := by
  unfold Chip.l3Log
  split
  · exact refl c
  · refine (puts c ?_).trans (irqReg _ _ _ _)
    simp only [List.mem_cons, List.not_mem_nil, or_false, forall_eq_or_imp, forall_eq]
    exact ⟨cacheLogFld_l3 (r := 3) (lo := 0) (by simp only [Reg.L3_ERR_LOG.ADDR, mkFld]; omega) (by decide) hd hsl (by decide) (by decide),
      cacheLogFld_l3 (r := 3) (lo := 52) (by simp only [Reg.L3_ERR_LOG.SRC, mkFld]; omega) (by decide) hd hsl (by decide) (by decide),
      cacheLogFld_l3 (r := 3) (lo := 63) (by simp only [Reg.L3_ERR_LOG.VALID, mkFld]; omega) (by decide) hd hsl (by decide) (by decide)⟩

theorem hcLog (c : Chip) (src line : Nat) : c.LinesMoved (c.hcLog src line) := by
  unfold Chip.hcLog
  split
  · exact refl c
  · exact (puts c (by simp only [List.mem_cons, List.not_mem_nil, or_false, forall_eq_or_imp, forall_eq]; decide)).trans (irqReg _ _ _ _)

theorem countL2Clean (c : Chip) {d cl : Nat} (hd : d < 12) (hcl : cl < 5) (n : Nat) : c.LinesMoved (c.count (Reg.CL_ERR_CNT0.L2_CLEAN d cl) n) :=
  count c n (cacheLogFld_clu (r := 4) (lo := 32) (by simp only [Reg.CL_ERR_CNT0.L2_CLEAN, mkFld]; omega) (by decide) hd hcl (by decide) (by decide))

theorem countTagCorr (c : Chip) {d cl : Nat} (hd : d < 12) (hcl : cl < 5) (n : Nat) : c.LinesMoved (c.count (Reg.CL_ERR_CNT1.TAG_CORR d cl) n) :=
  count c n (cacheLogFld_clu (r := 5) (lo := 0) (by simp only [Reg.CL_ERR_CNT1.TAG_CORR, mkFld]; omega) (by decide) hd hcl (by decide) (by decide))

theorem countLockLoss (c : Chip) {d cl : Nat} (hd : d < 12) (hcl : cl < 5) (n : Nat) : c.LinesMoved (c.count (Reg.CL_ERR_CNT1.LOCK_LOSS d cl) n) :=
  count c n (cacheLogFld_clu (r := 5) (lo := 32) (by simp only [Reg.CL_ERR_CNT1.LOCK_LOSS, mkFld]; omega) (by decide) hd hcl (by decide) (by decide))

theorem countL3Corr (c : Chip) {d sl : Nat} (hd : d < 12) (hsl : sl < 20) (n : Nat) : c.LinesMoved (c.count (Reg.L3_ERR_CNT.CORR d sl) n) :=
  count c n (cacheLogFld_l3 (r := 2) (lo := 0) (by simp only [Reg.L3_ERR_CNT.CORR, mkFld]; omega) (by decide) hd hsl (by decide) (by decide))

theorem countL3Uncorr (c : Chip) {d sl : Nat} (hd : d < 12) (hsl : sl < 20) (n : Nat) : c.LinesMoved (c.count (Reg.L3_ERR_CNT.UNCORR d sl) n) :=
  count c n (cacheLogFld_l3 (r := 2) (lo := 32) (by simp only [Reg.L3_ERR_CNT.UNCORR, mkFld]; omega) (by decide) hd hsl (by decide) (by decide))

/-! ### Steps of an L2 and of an L3 slice -/

theorem setL2 (c : Chip) (m : SMap CLine) : c.LinesMoved (c.setL2 m) := withCoh c rfl

theorem setL3 (c : Chip) (m : SMap CLine) : c.LinesMoved (c.setL3 m) := withCoh c rfl

theorem setL2Same (c : Chip) (l : List (Nat × Nat × Nat)) : c.LinesMoved { c with coh := { c.coh with l2Same := l } } := withCoh c rfl

theorem setL3Wbs (c : Chip) (l : List L3Wb) : c.LinesMoved { c with coh := { c.coh with l3wbs := l } } := withCoh c rfl

theorem setL3Reqs (c : Chip) (l : List L3Req) : c.LinesMoved { c with coh := { c.coh with l3reqs := l } } := withCoh c rfl

theorem poisonDie (c : Chip) (d line : Nat) : c.LinesMoved (c.poisonDie d line) := withCoh c rfl

theorem l1Drop (c : Chip) (u line : Nat) : c.LinesMoved (c.l1Drop u line) := withCoh c rfl

theorem l2Drop (c : Chip) {u : Nat} (hu : u < 60) (line : Nat) (loss : Bool) : c.LinesMoved (c.l2Drop u line loss) := by
  unfold Chip.l2Drop
  split
  · exact refl c
  · dsimp only
    split
    · exact ((setL2 c _).trans (l1Drop _ u line)).trans (countLockLoss _ (by omega) (by omega) 1)
    · exact (setL2 c _).trans (l1Drop _ u line)

theorem l2Check (c : Chip) {u : Nat} (hu : u < 60) (line : Nat) (again : Option EvKey) : c.LinesMoved (c.l2Check u line again) := by
  have hd : u / 5 < 12 := by omega
  have hcl : u % 5 < 5 := by omega
  have hfatal : ∀ src, c.LinesMoved { (c.poisonDie (u / 5) line).clLog (u / 5) (u % 5) src (64 * line) with fatalErr := true } := fun src =>
    ((poisonDie c _ line).trans (clLog _ hd hcl src _)).trans (fatal _)
  unfold Chip.l2Check
  dsimp only
  split
  · exact refl c
  · split_ifs
    · exact refl c
    · exact ((setL2 c _).trans (countTagCorr _ hd hcl 1)).trans (clLog _ hd hcl _ _)
    · exact hfatal 11
    · exact hfatal 9
    · have hclean := ((l2Drop c hu line false).trans (countL2Clean _ hd hcl 1)).trans (clLog _ hd hcl 8 (64 * line))
      split
      · exact (hclean.trans (setL2Same _ _)).trans (of_counted (Chip.evClu_counted _ hu _ _))
      · exact hclean

theorem l2Checks (c : Chip) {d : Nat} (hd : d < 12) (line : Nat) : c.LinesMoved (c.l2Checks d line) :=
  foldl (fun cl hcl e => l2Check e (by have := List.mem_range.1 hcl; omega) line none) c

theorem l2DropAll (c : Chip) {d : Nat} (hd : d < 12) (line : Nat) (loss : Bool) : c.LinesMoved (c.l2DropAll d line loss) :=
  foldl (fun cl hcl e => l2Drop e (by have := List.mem_range.1 hcl; omega) line loss) c

theorem l3Take (c : Chip) (d line : Nat) : c.LinesMoved (c.l3Take d line) := by
  unfold Chip.l3Take
  split
  · exact refl c
  · split
    · exact refl c
    · exact setL3 c _

theorem l3Gather (c : Chip) {d : Nat} (hd : d < 12) (line : Nat) : c.LinesMoved (c.l3Gather d line) := (l2Checks c hd line).trans (l3Take _ d line)

theorem l3Send0 (c : Chip) {d : Nat} (hd : d < 12) (line : Nat) (loss : Bool) : c.LinesMoved (c.l3Send0 d line loss) := by
  have hsl : l3Slice (64 * line) < 20 := Nat.mod_lt _ (by decide)
  unfold Chip.l3Send0
  dsimp only
  refine (l3Take c d line).trans ?_
  split
  · exact ((((l2DropAll _ hd line loss).trans (setL3 _ _)).trans (foldl (fun _ _ e => of_counted (e.evL3_counted hd hsl _ _)) _)).trans
      (setL3Wbs _ _)).trans (sendUp _ hd _)
  · exact refl _

theorem l3CheckOff (c : Chip) {d : Nat} (hd : d < 12) (line : Nat) (off : Bool) : c.LinesMoved (c.l3CheckOff d line off) := by
  have hsl : l3Slice (64 * line) < 20 := Nat.mod_lt _ (by decide)
  have huncorr : ∀ (e : Chip) (src : Nat),
      e.LinesMoved ((e.count (Reg.L3_ERR_CNT.UNCORR d (l3Slice (64 * line))) 1).l3Log d (l3Slice (64 * line)) src (64 * line)) := fun e src =>
    (countL3Uncorr e hd hsl 1).trans (l3Log _ hd hsl src _)
  have hsent : ∀ e : Chip, e.LinesMoved (if off then e.l3Send0 d line true else e) := fun e => by
    split
    · exact l3Send0 e hd line true
    · exact refl e
  have hgone : ∀ e : Chip, e.LinesMoved (match e.l3Find d line with
      | some (w, q) => if q.st == .m then e else let c := e.l2DropAll d line true; c.setL3 (SMap.erase c.coh.l3 w)
      | none => e) := fun e => by
    split
    · split
      · exact refl e
      · exact (l2DropAll e hd line true).trans (setL3 _ _)
    · exact refl e
  unfold Chip.l3CheckOff
  dsimp only
  split
  case h_1 => exact refl c
  case h_2 k l hfind =>
    split
    · exact refl c
    · split
      · exact ((setL3 c _).trans (countL3Corr _ hd hsl 1)).trans (l3Log _ hd hsl 0 _)
      · split
        · exact ((poisonDie c d line).trans (huncorr _ 3)).trans (fatal _)
        · split
          · exact (poisonDie c d line).trans (huncorr _ 2)
          · have hchecked := (setL3 c (SMap.set c.coh.l3 k { l with flaw := 0 })).trans (l2Checks _ hd line)
            exact ((hchecked.trans (hsent _)).trans (huncorr _ 1)).trans (hgone _)

theorem l3Evict (c : Chip) {d : Nat} (hd : d < 12) (line : Nat) (loss : Bool) : c.LinesMoved (c.l3Evict d line loss) :=
  ((l3CheckOff c hd line true).trans (l2Checks _ hd line)).trans (l3Send0 _ hd line loss)

theorem l2Evict (c : Chip) {u : Nat} (hu : u < 60) (line : Nat) : c.LinesMoved (c.l2Evict u line) := by
  unfold Chip.l2Evict
  dsimp only
  refine (l2Check c hu line none).trans ?_
  split
  · exact refl _
  · refine (l2Drop _ hu line false).trans ?_
    split
    · exact refl _
    · exact setL3 _ _

theorem l2CleanLine (c : Chip) {u : Nat} (hu : u < 60) (line : Nat) : c.LinesMoved (c.l2CleanLine u line) := by
  unfold Chip.l2CleanLine
  dsimp only
  refine (l2Check c hu line none).trans ?_
  split
  · split
    · exact (((l3Gather _ (by omega) line).trans (of_counted (Chip.evClu_counted _ hu _ _))).trans
        (of_counted (Chip.meshMsg_counted _ (by omega) _ _ _))).trans (setL2 _ _)
    · exact refl _
  · exact refl _

theorem l3CleanReq (c : Chip) {d : Nat} (hd : d < 12) (sl : Nat) (l : CLine) : c.LinesMoved (c.l3CleanReq d sl l) := by
  unfold Chip.l3CleanReq
  split
  · exact refl c
  · exact (setL3Reqs c _).trans (sendUp _ hd _)

theorem l3MaintLine (c : Chip) {d : Nat} (hd : d < 12) (sl : Nat) (flush : Bool) (line : Nat) : c.LinesMoved (c.l3MaintLine d sl flush line) := by
  unfold Chip.l3MaintLine
  split
  · exact refl c
  · split
    · exact l3Evict c hd line false
    · dsimp only
      refine ((l3CheckOff c hd line true).trans (l3Gather _ hd line)).trans ?_
      split
      · split
        · exact l3CleanReq _ hd sl _
        · exact refl _
      · exact refl _

end Chip.LinesMoved

end Sys2Proof.Machine
end

section
/-! A dirty line on its way from the L2 through the L3 to its home, where the caches hold that line and nothing is wrong with it (R151, R160, R164, R179). -/
namespace Sys2Proof.Machine

/-! ### Lookups of a cache that holds one line, or none -/

theorem findWay_single {p x : Nat × CLine} {base n line : Nat} (h : findWay [p] base n line = some x) : x = p :=
  List.mem_singleton.1 (List.mem_of_find?_eq_some h)

theorem SMap.set_single {α : Type} (k : Nat) (v w : α) : SMap.set [(k, v)] k w = [(k, w)] := by simp [SMap.set]

theorem SMap.erase_single {α : Type} (k : Nat) (v : α) : SMap.erase [(k, v)] k = [] := by simp [SMap.erase]

theorem Chip.l2Find_of_nil {c : Chip} (h : c.coh.l2 = []) (u line : Nat) : c.l2Find u line = none := by
  rw [Chip.l2Find, h]
  rfl

theorem Chip.l2Check_of_sound {c : Chip} (h : ∀ p ∈ c.coh.l2, p.2.flaw = 0) (u line : Nat) (again : Option EvKey) : c.l2Check u line again = c := by
  unfold Chip.l2Check
  dsimp only
  split
  · rfl
  case h_2 k q hfind => exact if_pos (h _ (List.mem_of_find?_eq_some hfind))

theorem Chip.l2Checks_of_sound {c : Chip} (h : ∀ p ∈ c.coh.l2, p.2.flaw = 0) (d line : Nat) : c.l2Checks d line = c :=
  List.foldl_fixed' (fun _ => Chip.l2Check_of_sound h _ _ _) _

theorem Chip.l3Check_of_sound {c : Chip} (h : ∀ p ∈ c.coh.l3, p.2.flaw = 0) (d line : Nat) : c.l3Check d line = c := by
  unfold Chip.l3Check Chip.l3CheckOff
  dsimp only
  split
  · rfl
  case h_2 k q hfind => exact if_pos (h _ (List.mem_of_find?_eq_some hfind))

theorem Chip.l2DropAll_of_nil {c : Chip} (h : c.coh.l2 = []) (d line : Nat) (loss : Bool) : c.l2DropAll d line loss = c :=
  List.foldl_fixed' (fun _ => by rw [Chip.l2Drop, Chip.l2Find_of_nil h]) _

theorem Chip.l3Take_of_nil {c : Chip} (h : c.coh.l2 = []) (d line : Nat) : c.l3Take d line = c := by
  unfold Chip.l3Take
  split
  · rfl
  · split
    · rfl
    case h_2 q hsome =>
      obtain ⟨cl, -, hcl⟩ := List.exists_of_findSome?_eq_some hsome
      rw [Chip.l2Find_of_nil h] at hcl
      cases hcl

/-- The L3 takes the data of the one L2 line, which is dirty (R151). -/
theorem Chip.l3Take_of_dirty {c : Chip} {u line k k3 : Nat} {q l : CLine} (hl2 : c.coh.l2 = [(k, q)]) (hfind : c.l2Find u line = some (k, q))
    (hfind3 : c.l3Find (u / 5) line = some (k3, l)) (hst : q.st = .m) :
    c.l3Take (u / 5) line = c.setL3 (SMap.set c.coh.l3 k3 { l with ld := q.ld, st := .m }) := by
  unfold Chip.l3Take
  rw [hfind3]
  dsimp only
  split
  case h_1 hnone =>
    have howner := List.findSome?_eq_none_iff.1 hnone (u % 5) (List.mem_range.2 (Nat.mod_lt _ (by decide)))
    rw [show 5 * (u / 5) + u % 5 = u by omega, hfind] at howner
    simp [hst] at howner
  case h_2 q' hsome =>
    obtain ⟨cl, -, hcl⟩ := List.exists_of_findSome?_eq_some hsome
    split at hcl
    case h_1 k' r hfound =>
      rw [Chip.l2Find, hl2] at hfound
      cases findWay_single hfound
      rw [hst] at hcl
      cases hcl
      rfl
    case h_2 => cases hcl

theorem CountedOnly.coh {a b : Chip} {l : List Fld} (h : CountedOnly a b l) : b.coh = a.coh := by rw [h.rest]

theorem Chip.sendUp_coh (c : Chip) {d : Nat} (hd : d < 12) (m : Msg) : (c.sendUp d m).coh = c.coh := (c.meshMsg_counted hd _ _ _).coh

/-! ### The line's steps -/

/-- A dirty L2 line is written to its L3 line and stays clean (R160). -/
theorem Chip.l2CleanLine_coh {c : Chip} {u line k k3 : Nat} {q l : CLine} (hu : u < 60) (hl2 : c.coh.l2 = [(k, q)]) (hl3 : c.coh.l3 = [(k3, l)])
    (hfind : c.l2Find u line = some (k, q)) (hfind3 : c.l3Find (u / 5) line = some (k3, l)) (hflaw : q.flaw = 0) (hst : q.st = .m) :
    (c.l2CleanLine u line).coh.l2 = [(k, { q with st := .e })] ∧ (c.l2CleanLine u line).coh.l3 = [(k3, { l with ld := q.ld, st := .m })] := by
  have hsound : ∀ p ∈ c.coh.l2, p.2.flaw = 0 := by simpa [hl2] using hflaw
  have hgather : c.l3Gather (u / 5) line = c.setL3 [(k3, { l with ld := q.ld, st := .m })] := by
    rw [Chip.l3Gather, Chip.l2Checks_of_sound hsound, Chip.l3Take_of_dirty hl2 hfind hfind3 hst, hl3, SMap.set_single]
  unfold Chip.l2CleanLine
  simp only [Chip.l2Check_of_sound hsound, hfind, hst, beq_self_eq_true, if_true, hgather]
  generalize he : ((c.setL3 [(k3, { l with ld := q.ld, st := .m })]).evClu u 0x22 (evOf q.tenant q.secure)).meshMsg (u / 5) clsWbk q.tenant q.secure = e
  have hcoh : e.coh = { c.coh with l3 := [(k3, { l with ld := q.ld, st := .m })] } := by
    rw [← he, (Chip.meshMsg_counted _ (by omega) _ _ _).coh, (Chip.evClu_counted _ hu _ _).coh]
    rfl
  rw [Chip.setL2, hcoh]
  exact ⟨by simp only [hl2, SMap.set_single], rfl⟩

/-- An L2 line leaves for its L3 line, with its data where it is dirty (R151, R154). -/
theorem Chip.l2Evict_coh {c : Chip} {u line k k3 : Nat} {q l l' : CLine} (hl2 : c.coh.l2 = [(k, q)]) (hl3 : c.coh.l3 = [(k3, l)])
    (hfind : c.l2Find u line = some (k, q)) (hfind3 : c.l3Find (u / 5) line = some (k3, l)) (hflaw : q.flaw = 0)
    (hl' : (if q.st == .m then { l with ld := q.ld, st := .m } else l) = l') :
    (c.l2Evict u line).coh.l2 = [] ∧ (c.l2Evict u line).coh.l3 = [(k3, { l' with pres := setBits l.pres (u % 5) 1 0 })]
      ∧ (c.l2Evict u line).coh.l3reqs = c.coh.l3reqs ∧ (c.l2Evict u line).coh.l3wbs = c.coh.l3wbs ∧ (c.l2Evict u line).coh.drains = c.coh.drains := by
  have hsound : ∀ p ∈ c.coh.l2, p.2.flaw = 0 := by simpa [hl2] using hflaw
  have hdrop : c.l2Drop u line false = (c.setL2 []).l1Drop u line := by
    rw [Chip.l2Drop, hfind, hl2]
    simp only [SMap.erase_single, Bool.false_and, Bool.false_eq_true, if_false]
  have hfind3' : ((c.setL2 []).l1Drop u line).l3Find (u / 5) line = some (k3, l) := hfind3
  have hl3' : ((c.setL2 []).l1Drop u line).coh.l3 = [(k3, l)] := hl3
  have heq : c.l2Evict u line = ((c.setL2 []).l1Drop u line).setL3 [(k3, { l' with pres := setBits l.pres (u % 5) 1 0 })] := by
    unfold Chip.l2Evict
    simp only [Chip.l2Check_of_sound hsound, hfind, hdrop, hfind3', hl']
    rw [hl3', SMap.set_single]
  rw [heq]
  exact ⟨rfl, rfl, rfl, rfl, rfl⟩

/-- The L3 sends the line off with its data, where no L2 of the die holds it (R151, R179, R190). -/
theorem Chip.l3Evict_coh {c : Chip} {d line k3 i : Nat} {l : CLine} (hd : d < 12) (loss : Bool) (hl2 : c.coh.l2 = []) (hl3 : c.coh.l3 = [(k3, l)])
    (hfind3 : c.l3Find d line = some (k3, l)) (hflaw : l.flaw = 0) (hidx : c.l3Idx (20 * d + l3Slice (64 * line)) = some i) :
    (c.l3Evict d line loss).coh.l2 = [] ∧ (c.l3Evict d line loss).coh.l3 = [] ∧ (c.l3Evict d line loss).coh.drains = c.coh.drains
      ∧ (c.l3Evict d line loss).coh.l3wbs
        = c.coh.l3wbs ++ [⟨20 * d + l3Slice (64 * line), i, line, l.ld, l.st == .m || l.st == .o, l.yrw, l.last⟩] := by
  have hsound : ∀ p ∈ c.coh.l2, p.2.flaw = 0 := by simp [hl2]
  have hsound3 : ∀ p ∈ c.coh.l3, p.2.flaw = 0 := by simpa [hl3] using hflaw
  have hcount : (List.range 5).countP (fun cl => (c.l2Find (5 * d + cl) line).isSome) = 0 := by
    rw [List.countP_eq_zero]
    simp [Chip.l2Find_of_nil hl2]
  rw [Chip.l3Evict, Chip.l3Check_of_sound hsound3, Chip.l2Checks_of_sound hsound]
  unfold Chip.l3Send0
  simp only [Chip.l3Take_of_nil hl2, hfind3, hidx, hcount, List.range_zero, List.foldl_nil, Chip.l2DropAll_of_nil hl2]
  rw [Chip.sendUp_coh _ hd, hl3, SMap.erase_single]
  exact ⟨hl2, rfl, rfl, rfl⟩

/-- A slice asks the home of its dirty line to clean it (R160, R183). -/
theorem Chip.l3CleanReq_coh {c : Chip} {d sl i : Nat} (hd : d < 12) (l : CLine) (hidx : c.l3Idx (20 * d + sl) = some i) :
    ∃ r, (c.l3CleanReq d sl l).coh = { c.coh with l3reqs := c.coh.l3reqs ++ [r] } ∧ r.line = l.line ∧ r.typ = tMClean ∧ r.idx = i := by
  unfold Chip.l3CleanReq
  rw [hidx]
  dsimp only
  rw [Chip.sendUp_coh _ hd]
  exact ⟨_, rfl, rfl, rfl, rfl⟩

/-- FLUSH of one line of a slice, where nothing holds it back. -/
theorem Chip.l3MaintLine_flush {c : Chip} {d line : Nat} (sl : Nat) (hbusy : c.l3Busy d line = false) (hratio : c.ratioHeld d line = false) :
    c.l3MaintLine d sl true line = c.l3Evict d line false := by
  unfold Chip.l3MaintLine
  rw [if_neg (by simp [hbusy, hratio]), if_pos rfl]

/-- CLEAN of it, where it is dirty and no L2 of the die holds it. -/
theorem Chip.l3MaintLine_clean_coh {c : Chip} {d sl i k : Nat} {l : CLine} (hd : d < 12) (hl2 : c.coh.l2 = []) (hl3 : c.coh.l3 = [(k, l)])
    (hfind3 : c.l3Find d l.line = some (k, l)) (hflaw : l.flaw = 0) (hst : l.st = .m) (hbusy : c.l3Busy d l.line = false)
    (hratio : c.ratioHeld d l.line = false) (hidx : c.l3Idx (20 * d + sl) = some i) :
    ∃ r, (c.l3MaintLine d sl false l.line).coh = { c.coh with l3reqs := c.coh.l3reqs ++ [r] } ∧ r.line = l.line ∧ r.typ = tMClean ∧ r.idx = i := by
  have hsame : (c.l3Check d l.line).l3Gather d l.line = c := by
    rw [Chip.l3Check_of_sound (by simpa [hl3] using hflaw), Chip.l3Gather, Chip.l2Checks_of_sound (by simp [hl2]), Chip.l3Take_of_nil hl2]
  unfold Chip.l3MaintLine
  rw [if_neg (by simp [hbusy, hratio]), if_neg (by decide), hsame]
  simp only [hfind3, hst, beq_self_eq_true, Bool.true_or, if_true]
  exact Chip.l3CleanReq_coh hd l hidx

/-! ### Which cache holds a line -/

theorem l2Find_place {c : Chip} {u line k : Nat} {q : CLine} (h : c.l2Find u line = some (k, q)) : k / 32768 = u := by
  have hway := List.find?_some h
  have hset : setL2 line < 2048 := Nat.mod_lt _ (by decide)
  simp only [Bool.and_eq_true, decide_eq_true_eq] at hway
  obtain ⟨⟨hlo, hhi⟩, -⟩ := hway
  unfold l2Base at hlo hhi
  omega

theorem l3Find_place {c : Chip} {d line k : Nat} {l : CLine} (h : c.l3Find d line = some (k, l)) : k / 32768 = 20 * d + l3Slice (64 * line) := by
  have hway := List.find?_some h
  have hset : setL3 line < 2048 := Nat.xor_lt_two_pow (n := 11) (Nat.mod_lt _ (by decide)) (Nat.mod_lt _ (by decide))
  simp only [Bool.and_eq_true, decide_eq_true_eq] at hway
  obtain ⟨⟨hlo, hhi⟩, -⟩ := hway
  unfold l3Base at hlo hhi
  omega

end Sys2Proof.Machine
end

section
/-! Whole-cache operations of an L2 and of an L3 slice, and an L2 that starts to drain (R160, R164, R165). -/
namespace Sys2Proof.Machine

/-! ### What such a write leaves unchanged, whatever the caches hold -/

theorem cacheLogFld_clu_false {f : Fld} {d cl r lo : Nat} (hf : f.addr = 8 * (0x1000000 + d * 0x10000000 + cl * 0x10000 + 8 * r) + lo) (hlo : lo < 64)
    (hd : d < 12) (hcl : cl < 5) (hr : r < 4) : cacheLogFld f = false := by
  have ho : f.addr / 64 * 8 = 0x1000000 + d * 0x10000000 + cl * 0x10000 + 8 * r := by omega
  rw [← Bool.not_eq_true]
  simp only [cacheLogFld, pmuFld, ho, Bool.or_eq_true, Bool.and_eq_true, decide_eq_true_eq]
  omega

theorem CL_L2_not_log {d cl : Nat} (hd : d < 12) (hcl : cl < 5) {f : Fld}
    (hf : f ∈ [Reg.CL_L2_CTRL.EN d cl, Reg.CL_L2_STATUS.BUSY d cl, Reg.CL_L2_STATUS.MBUSY d cl]) : cacheLogFld f = false := by
  simp only [List.mem_cons, List.not_mem_nil, or_false] at hf
  rcases hf with rfl | rfl | rfl
  · exact cacheLogFld_clu_false (r := 0) (lo := 0) (by simp only [Reg.CL_L2_CTRL.EN, mkFld]; omega) (by decide) hd hcl (by decide)
  · exact cacheLogFld_clu_false (r := 1) (lo := 0) (by simp only [Reg.CL_L2_STATUS.BUSY, mkFld]; omega) (by decide) hd hcl (by decide)
  · exact cacheLogFld_clu_false (r := 1) (lo := 2) (by simp only [Reg.CL_L2_STATUS.MBUSY, mkFld]; omega) (by decide) hd hcl (by decide)

theorem L3_MBUSY_not_log {d sl : Nat} (hsl : sl < 20) : cacheLogFld (Reg.L3_STATUS.MBUSY d sl) = false := by
  have ho : (Reg.L3_STATUS.MBUSY d sl).addr / 64 * 8 = 0x2000008 + d * 0x10000000 + sl * 0x10000 := by
    simp only [Reg.L3_STATUS.MBUSY, mkFld]
    omega
  rw [← Bool.not_eq_true]
  simp only [cacheLogFld, pmuFld, ho, Bool.or_eq_true, Bool.and_eq_true, decide_eq_true_eq]
  omega

theorem SameMemory.puts (c : Chip) (l : List (Fld × Nat)) : SameMemory c (c.puts l) := by constructor <;> simp

theorem SameMemory.maintBegun (c : Chip) (busy : Fld) (level unit : Nat) (flush keep : Bool) : SameMemory c (c.maintBegun busy level unit flush keep) := by
  constructor <;> rfl

/-- A write below the audit log's block with an effect on caches and memory: the next state. -/
theorem State.cacheWrite_next {s : State} {w : Who} {f : Fld} {v : Nat} {e : Chip → Chip} (h : s.chip.writeRuns w f.off = true)
    (hlow : f.addr < 8 * 0xC9C00000) (hact : ∀ c : Chip, c.csrAction w f.off v = e c) (he : ∀ c, Recorded s.chip c → c.EngineKept (e c)) :
    ∃ c t, Recorded s.chip c ∧ s.run (fun c => c.regWrite w f.off v) = .next t ∧ t.pending = s.pending ∧ (∀ g, t.chip.get g = (e c).get g)
      ∧ t.chip.coh = (e c).coh ∧ t.chip.pg = (e c).pg ∧ (SameMemory c (e c) → SameMemory s.chip t.chip) := by
  obtain ⟨c, hrec, hrun⟩ := State.lowWrite_next h hlow hact he
  exact ⟨c, _, hrec, hrun, rfl, fun _ => rfl, rfl, rfl, fun hmem => (hrec.sameMemory.trans hmem).trans ⟨rfl, rfl, rfl, rfl, rfl, rfl, rfl⟩⟩

theorem Chip.l2Find_congr {a b : Chip} (h : b.coh.l2 = a.coh.l2) (u line : Nat) : b.l2Find u line = a.l2Find u line := by
  rw [Chip.l2Find, h, Chip.l2Find]

theorem Chip.l3Find_congr {a b : Chip} (h : b.coh.l3 = a.coh.l3) (d line : Nat) : b.l3Find d line = a.l3Find d line := by
  rw [Chip.l3Find, h, Chip.l3Find]

theorem Chip.l3Idx_congr {a b : Chip} (h : b.coh.l3reqs = a.coh.l3reqs) (hw : b.coh.l3wbs = a.coh.l3wbs) (n : Nat) : b.l3Idx n = a.l3Idx n := by
  rw [Chip.l3Idx, h, hw, Chip.l3Idx]

/-- A cache of one line finds it with new contents where it found it before. -/
theorem findWay_single_set {k base n line : Nat} {q q' : CLine} (h : findWay [(k, q)] base n line = some (k, q)) (hline : q'.line = q.line) :
    findWay [(k, q')] base n line = some (k, q') := by
  have := findWay_set h hline
  rwa [SMap.set_single] at this

theorem Chip.get_maintBegun_ne (c : Chip) {busy g : Fld} (level unit : Nat) (flush keep : Bool) (h : g.addr ≠ busy.addr) :
    (c.maintBegun busy level unit flush keep).get g = c.get g := c.get_put_ne 1 h

theorem Chip.ratioHeld_congr {a b : Chip} {d : Nat} (h : b.coh.l3 = a.coh.l3) (hget : b.get (Reg.HUB_CORE_DIV.BUSY d) = a.get (Reg.HUB_CORE_DIV.BUSY d))
    (line : Nat) : b.ratioHeld d line = a.ratioHeld d line := by
  have hbusy : ∀ cl < 5, b.ratioBusy (5 * d + cl) = a.ratioBusy (5 * d + cl) := fun cl hcl => by
    rw [Chip.ratioBusy, Chip.bitOf, show (5 * d + cl) / 5 = d by omega, hget]
    rw [Chip.ratioBusy, Chip.bitOf, show (5 * d + cl) / 5 = d by omega]
  unfold Chip.ratioHeld
  rw [Chip.l3Find_congr h]
  split
  · rw [Bool.eq_iff_iff, List.any_eq_true, List.any_eq_true]
    refine exists_congr fun cl => and_congr_right fun hcl => ?_
    rw [hbusy cl (List.mem_range.1 hcl)]
  · rfl

/-! ### An L2's operation -/

/-- Beside the operation's own register, only lines move. -/
theorem Chip.l2Maint_moved {c : Chip} {d cl op : Nat} (hd : d < 12) (hcl : cl < 5) (hop : op = 1 ∨ op = 2) (keep : Bool)
    (hbusy : c.on (Reg.CL_L2_STATUS.MBUSY d cl) = false) :
    (c.maintBegun (Reg.CL_L2_STATUS.MBUSY d cl) 2 (5 * d + cl) (op == 2) keep).LinesMoved (c.l2Maint d cl op keep) := by
  rw [Chip.l2Maint_begins hop keep hbusy]
  refine Chip.LinesMoved.foldl (fun p _ e => ?_) _
  have hclean := Chip.LinesMoved.l2CleanLine e (u := 5 * d + cl) (by omega) p.2.line
  split
  · exact hclean
  · exact hclean.trans (Chip.LinesMoved.l2Evict _ (by omega) _)

theorem Chip.l2Lines_single {c : Chip} {u line k : Nat} {q : CLine} (h : c.coh.l2 = [(k, q)]) (hfind : c.l2Find u line = some (k, q)) :
    c.l2Lines u = [(k, q)] := by
  simp [Chip.l2Lines, h, l2Find_place hfind]

/-- CLEAN then leave: the line's data is in the L3, and the L3 line's bit for the cluster is clear. -/
theorem Chip.l2CleanEvict_coh {c : Chip} {u line k k3 : Nat} {q l : CLine} (hu : u < 60) (hl2 : c.coh.l2 = [(k, q)]) (hl3 : c.coh.l3 = [(k3, l)])
    (hfind : c.l2Find u line = some (k, q)) (hfind3 : c.l3Find (u / 5) line = some (k3, l)) (hflaw : q.flaw = 0) (hst : q.st = .m) :
    ((c.l2CleanLine u line).l2Evict u line).coh.l2 = []
      ∧ ((c.l2CleanLine u line).l2Evict u line).coh.l3 = [(k3, { l with ld := q.ld, st := .m, pres := setBits l.pres (u % 5) 1 0 })] := by
  obtain ⟨hclean, hclean3⟩ := Chip.l2CleanLine_coh hu hl2 hl3 hfind hfind3 hflaw hst
  rw [Chip.l2Find, hl2] at hfind
  rw [Chip.l3Find, hl3] at hfind3
  obtain ⟨hgone, htaken, -⟩ := Chip.l2Evict_coh (u := u) (line := line) (q := { q with st := .e }) hclean hclean3
    (by rw [Chip.l2Find, hclean]; exact findWay_single_set hfind rfl) (by rw [Chip.l3Find, hclean3]; exact findWay_single_set hfind3 rfl) hflaw rfl
  exact ⟨hgone, htaken⟩

/-- What an operation of an L2 makes of the one line that it holds, which is dirty. -/
theorem Chip.l2Maint_coh {c : Chip} {d cl op u k k3 : Nat} {keep : Bool} {q l : CLine} (hu : 5 * d + cl = u) (hd : d < 12) (hcl : cl < 5)
    (hop : op = 1 ∨ op = 2) (hbusy : c.on (Reg.CL_L2_STATUS.MBUSY d cl) = false) (hl2 : c.coh.l2 = [(k, q)]) (hl3 : c.coh.l3 = [(k3, l)])
    (hfind : c.l2Find u q.line = some (k, q)) (hfind3 : c.l3Find d q.line = some (k3, l)) (hflaw : q.flaw = 0) (hst : q.st = .m) :
    (op = 1 ∨ keep = true ∧ c.wayLocked u k = true →
      (c.l2Maint d cl op keep).coh.l2 = [(k, { q with st := .e })] ∧ (c.l2Maint d cl op keep).coh.l3 = [(k3, { l with ld := q.ld, st := .m })])
    ∧ (op = 2 → keep = false ∨ c.wayLocked u k = false →
      (c.l2Maint d cl op keep).coh.l2 = []
      ∧ (c.l2Maint d cl op keep).coh.l3 = [(k3, { l with ld := q.ld, st := .m, pres := setBits l.pres cl 1 0 })]) := by
  have hdie : u / 5 = d := by omega
  have hclu : u % 5 = cl := by omega
  have hu60 : u < 60 := by omega
  have hlocked : (c.maintBegun (Reg.CL_L2_STATUS.MBUSY d cl) 2 u (op == 2) keep).wayLocked u k = c.wayLocked u k := by
    unfold Chip.wayLocked Chip.bitOf
    rw [hdie, hclu]
    rw [c.get_maintBegun_ne _ _ _ _ (by simp only [Reg.CL_L2_LOCK.WAYS, Reg.CL_L2_STATUS.MBUSY, mkFld]; omega)]
  have hbegins := Chip.l2Maint_begins hop keep hbusy
  rw [hu, Chip.l2Lines_single hl2 hfind, List.foldl_cons, List.foldl_nil] at hbegins
  dsimp only at hbegins
  rw [hlocked] at hbegins
  rw [← hdie] at hfind3
  refine ⟨fun hstay => ?_, fun hflush hleave => ?_⟩
  · have hcond : (decide (op = 1) || (keep && c.wayLocked u k)) = true := by
      rcases hstay with rfl | ⟨hkeep, hlock⟩
      · rfl
      · simp [hkeep, hlock]
    rw [if_pos hcond] at hbegins
    rw [hbegins]
    exact Chip.l2CleanLine_coh hu60 hl2 hl3 hfind hfind3 hflaw hst
  · have hcond : ¬ (decide (op = 1) || (keep && c.wayLocked u k)) = true := by
      rcases hleave with h | h <;> simp [hflush, h]
    rw [if_neg hcond] at hbegins
    rw [hbegins]
    have hleft := Chip.l2CleanEvict_coh hu60 (c := c.maintBegun (Reg.CL_L2_STATUS.MBUSY d cl) 2 u (op == 2) keep) hl2 hl3 hfind hfind3 hflaw hst
    rwa [hclu] at hleft

/-! ### A slice's operation -/

/-- Is an operation one of a slice? -/
def maintOf (unit : Nat) (m : MaintOp) : Bool := m.level == 3 && m.unit == unit

theorem Chip.l3MaintGo_eq (c : Chip) (d sl : Nat) (flush : Bool) (lines : List Nat) :
    ∃ m f, c.l3MaintGo d sl flush lines = { m with coh := { m.coh with maint := m.coh.maint.map f } } ∧ m = lines.foldl (fun c l => c.l3MaintLine d sl flush l) c
      ∧ ∀ x, maintOf (20 * d + sl) (f x) = maintOf (20 * d + sl) x := by
  refine ⟨_, _, rfl, rfl, fun x => ?_⟩
  split <;> rfl

/-- Beside the slice's own register and its operation, only lines move. -/
theorem Chip.l3Maint_keeps {c : Chip} {d sl op : Nat} (hd : d < 12) (hsl : sl < 20) (hop : op = 1 ∨ op = 2) (hbusy : c.on (Reg.L3_STATUS.MBUSY d sl) = false) :
    c.EngineKept (c.l3Maint d sl op) ∧ SameMemory c (c.l3Maint d sl op) ∧ (c.l3Maint d sl op).get (Reg.L3_STATUS.MBUSY d sl) = 1
      ∧ (c.l3Maint d sl op).coh.maint.any (maintOf (20 * d + sl)) = true := by
  obtain ⟨m, f, hgo, hm, hf⟩ := (c.maintBegun (Reg.L3_STATUS.MBUSY d sl) 3 (20 * d + sl) (op == 2) false).l3MaintGo_eq d sl (op == 2)
    ((c.l3Lines d sl).map (·.2.line))
  have hmoved : (c.maintBegun (Reg.L3_STATUS.MBUSY d sl) 3 (20 * d + sl) (op == 2) false).LinesMoved m := by
    rw [hm]
    exact Chip.LinesMoved.foldl (fun line _ e => Chip.LinesMoved.l3MaintLine e hd sl _ line) _
  rw [Chip.l3Maint_begins hop hbusy, hgo]
  refine ⟨?_, ?_, ?_, ?_⟩
  · exact ((CohFields.maintBegun c _ 3 _ _ false).engineKept fun g hg => by
      rw [List.mem_singleton.1 hg]
      exact (L3_addr hd hsl (by simp)).trans (by decide)).trans (hmoved.engineKept.trans ⟨rfl, rfl, fun _ _ => rfl, rfl⟩)
  · exact ((SameMemory.maintBegun c _ 3 _ _ false).trans hmoved.sameMemory).trans ⟨rfl, rfl, rfl, rfl, rfl, rfl, rfl⟩
  · exact (hmoved.regs _ (L3_MBUSY_not_log hsl)).trans (c.get_maintBegun rfl 3 _ _ false)
  · dsimp only
    rw [hmoved.maint, Chip.maintBegun_coh, List.any_map, List.any_eq_true]
    refine ⟨⟨3, 20 * d + sl, op == 2, false, []⟩, by simp, ?_⟩
    rw [Function.comp_apply, hf]
    simp [maintOf]

/-- What an operation of a slice makes of the one line that its die holds, which is dirty, with nothing of it on its way. -/
theorem Chip.l3Maint_coh {c : Chip} {d sl op u i k : Nat} {l : CLine} (hu : 20 * d + sl = u) (hd : d < 12) (hsl : sl < 20)
    (hop : op = 1 ∨ op = 2) (hmaint : c.on (Reg.L3_STATUS.MBUSY d sl) = false) (hl2 : c.coh.l2 = []) (hl3 : c.coh.l3 = [(k, l)])
    (hfind3 : c.l3Find d l.line = some (k, l)) (hslice : l3Slice (64 * l.line) = sl) (hflaw : l.flaw = 0) (hst : l.st = .m)
    (hbusy : c.l3Busy d l.line = false) (hratio : c.ratioHeld d l.line = false)
    (hidx : c.l3Idx u = some i) :
    (op = 1 → (c.l3Maint d sl op).coh.l3 = [(k, l)]
      ∧ ∃ r, (c.l3Maint d sl op).coh.l3reqs = c.coh.l3reqs ++ [r] ∧ r.line = l.line ∧ r.typ = tMClean ∧ r.idx = i)
    ∧ (op = 2 → (c.l3Maint d sl op).coh.l3 = [] ∧ (c.l3Maint d sl op).coh.l3wbs = c.coh.l3wbs ++ [⟨u, i, l.line, l.ld, true, l.yrw, l.last⟩]) := by
  have hlines : c.l3Lines d sl = [(k, l)] := by simp [Chip.l3Lines, hl3, l3Find_place hfind3, hslice]
  obtain ⟨m, f, hgo, hm, -⟩ := (c.maintBegun (Reg.L3_STATUS.MBUSY d sl) 3 u (op == 2) false).l3MaintGo_eq d sl (op == 2) [l.line]
  rw [List.foldl_cons, List.foldl_nil] at hm
  have hfree : (c.maintBegun (Reg.L3_STATUS.MBUSY d sl) 3 u (op == 2) false).ratioHeld d l.line = false :=
    (Chip.ratioHeld_congr rfl (c.get_maintBegun_ne _ _ _ _ (by simp only [Reg.HUB_CORE_DIV.BUSY, Reg.L3_STATUS.MBUSY, mkFld]; omega)) l.line).trans
      hratio
  have heq : c.l3Maint d sl op = { m with coh := { m.coh with maint := m.coh.maint.map f } } := by
    rw [Chip.l3Maint_begins hop hmaint, hlines, hu, ← hgo]
    rfl
  rw [heq]
  subst hu
  refine ⟨fun hclean => ?_, fun hflush => ?_⟩
  · subst hclean
    obtain ⟨r, hcoh, hr⟩ := Chip.l3MaintLine_clean_coh (c := c.maintBegun (Reg.L3_STATUS.MBUSY d sl) 3 (20 * d + sl) (1 == 2) false) hd hl2 hl3 hfind3 hflaw hst
      hbusy hfree hidx
    have hm' : m.coh = _ := (congrArg Chip.coh hm).trans hcoh
    dsimp only
    rw [hm']
    exact ⟨hl3, r, rfl, hr⟩
  · subst hflush
    have hline := Chip.l3MaintLine_flush (c := c.maintBegun (Reg.L3_STATUS.MBUSY d sl) 3 (20 * d + sl) true false) sl hbusy hfree
    subst hslice
    obtain ⟨-, hgone, -, hsent⟩ := Chip.l3Evict_coh (c := c.maintBegun (Reg.L3_STATUS.MBUSY d (l3Slice (64 * l.line))) 3 (20 * d + l3Slice (64 * l.line)) true false)
      hd false hl2 hl3 hfind3 hflaw hidx
    have hm' : m = _ := hm.trans hline
    dsimp only
    rw [hm']
    exact ⟨hgone, hsent.trans (by rw [hst]; rfl)⟩

end Sys2Proof.Machine
end

section
/-! Whole-cache operations of the hub cache, and drains of an L2 (R160, R164, R165). -/
namespace Sys2Proof.Machine

/-! ### What a step of the hub cache leaves unchanged -/

/-- A step of the hub cache: beside what a step of the caches changes, memory may take a line. -/
def Chip.HubMoved (a b : Chip) : Prop := Chip.LinesMoved { a with pg := b.pg, cxl := b.cxl, cxlPoison := b.cxlPoison } b

namespace Chip.HubMoved

theorem of_lines {a b : Chip} (h : a.LinesMoved b) : a.HubMoved b := by
  have hsame : ({ a with pg := b.pg, cxl := b.cxl, cxlPoison := b.cxlPoison } : Chip) = a := by rw [h.rest]
  unfold Chip.HubMoved
  rwa [hsame]

theorem trans {a b c : Chip} (h : a.HubMoved b) (k : b.HubMoved c) : a.HubMoved c := by
  obtain ⟨h1, h2, h3⟩ := h
  obtain ⟨k1, k2, k3⟩ := k
  refine ⟨?_, fun f hf => (k2 f hf).trans (h2 f hf), k3.trans h3⟩
  rw [h1] at k1
  exact k1

theorem foldl {α : Type} {f : Chip → α → Chip} {l : List α} (h : ∀ x ∈ l, ∀ c : Chip, c.HubMoved (f c x)) (c : Chip) : c.HubMoved (l.foldl f c) := by
  induction l generalizing c with
  | nil => exact of_lines (LinesMoved.refl c)
  | cons x l ih => exact (h x (by simp) c).trans (ih (fun y hy => h y (by simp [hy])) _)

theorem engineKept {a b : Chip} (h : a.HubMoved b) : a.EngineKept b := by
  obtain ⟨h1, h2, h3, h4⟩ := LinesMoved.engineKept h
  exact ⟨h1, h2, h3, h4⟩

theorem cxlWrite (c : Chip) (line : Nat) (ld : LD) : c.HubMoved (c.cxlWrite line ld) := by
  unfold Chip.cxlWrite
  split
  · exact ⟨rfl, fun _ _ => rfl, rfl⟩
  · exact of_lines (LinesMoved.refl c)
  · exact of_lines (LinesMoved.refl c)

theorem memWrite (c : Chip) (line : Nat) (ld : LD) (yrw agent tenant : Nat) : c.HubMoved (c.memWrite line ld yrw agent tenant) := by
  unfold Chip.memWrite
  split
  · exact ⟨rfl, fun _ _ => rfl, rfl⟩
  · exact (cxlWrite c line ld).trans (of_lines (LinesMoved.of_counted (Chip.nrgAdd_counted _ _ _ _)))

end Chip.HubMoved

theorem Chip.LinesMoved.setHcM (c : Chip) (m : SMap CLine) : c.LinesMoved (c.setHcM m) := Chip.LinesMoved.withCoh c rfl

theorem Chip.LinesMoved.setHcFills (c : Chip) (l : List HcWait) : c.LinesMoved { c with coh := { c.coh with hcFills := l } } := Chip.LinesMoved.withCoh c rfl

theorem Chip.LinesMoved.hcCheck (c : Chip) (line : Nat) : c.LinesMoved (c.hcCheck line) := by
  have huncorr : ∀ (e : Chip) (src : Nat), e.LinesMoved ((e.count Reg.HC_ERR_CNT.UNCORR 1).hcLog src line) := fun e src =>
    (count e 1 (by decide)).trans (hcLog _ src line)
  unfold Chip.hcCheck
  dsimp only
  split
  · exact refl c
  · split_ifs
    · exact refl c
    · exact ((setHcM c _).trans (count _ 1 (by decide))).trans (hcLog _ 0 line)
    · exact ((setHcM c _).trans (huncorr _ 3)).trans (fatal _)
    · exact (setHcM c _).trans (huncorr _ 2)
    · exact (setHcM c _).trans (huncorr _ 1)

theorem Chip.LinesMoved.hcDrop (c : Chip) (line : Nat) : c.LinesMoved (c.hcDrop line) := by
  unfold Chip.hcDrop
  dsimp only
  refine ((setHcFills c (c.coh.hcFills.filter (fun w => w.line != line))).trans (hcCheck _ line)).trans ?_
  split
  · exact setHcM _ _
  · exact refl _

theorem Chip.HubMoved.hcClean (c : Chip) (line : Nat) : c.HubMoved (c.hcClean line) := by
  unfold Chip.hcClean
  dsimp only
  refine (of_lines (LinesMoved.hcCheck c line)).trans ?_
  split
  · split
    · exact (of_lines (LinesMoved.setHcFills _ _)).trans (memWrite _ _ _ _ _ _)
    · exact of_lines (LinesMoved.refl _)
  · split
    · exact (of_lines (LinesMoved.setHcM _ _)).trans (memWrite _ _ _ _ _ _)
    · exact of_lines (LinesMoved.refl _)
  · exact of_lines (LinesMoved.refl _)

/-! ### The hub cache's operation -/

theorem Chip.hcMaint_moved {c : Chip} {op : Nat} (hop : op = 1 ∨ op = 2) (hbusy : c.on Reg.HC_STATUS.MBUSY = false) :
    (c.maintBegun Reg.HC_STATUS.MBUSY 4 0 (op == 2) false).HubMoved (c.hcMaint op) := by
  rw [Chip.hcMaint_begins hop hbusy]
  refine Chip.HubMoved.foldl (fun line _ e => ?_) _
  split
  · exact (Chip.HubMoved.hcClean e line).trans (Chip.HubMoved.of_lines (Chip.LinesMoved.hcDrop _ line))
  · exact Chip.HubMoved.hcClean e line

theorem Chip.hcCheck_of_sound {c : Chip} (h : ∀ p ∈ c.coh.hc, p.2.flaw = 0) (line : Nat) : c.hcCheck line = c := by
  unfold Chip.hcCheck
  dsimp only
  split
  · rfl
  case h_2 k q hfind => exact if_pos (h _ (List.mem_of_find?_eq_some hfind))

theorem Chip.hcWaitOf_of_nil {c : Chip} (h : c.coh.hcFills = []) (line : Nat) : c.hcWaitOf line = none := by
  rw [Chip.hcWaitOf, h]
  rfl

/-- A dirty line is posted to memory and stays clean (R161). -/
theorem Chip.hcClean_of_dirty {c : Chip} {k : Nat} {l : CLine} (hhc : c.coh.hc = [(k, l)]) (hfills : c.coh.hcFills = [])
    (hfind : c.hcFind l.line = some (k, l)) (hflaw : l.flaw = 0) (hst : l.st = .m) (hdram : isDram l.line = true) :
    (c.hcClean l.line).coh = { c.coh with hc := [(k, { l with st := .s })] }
      ∧ ∃ j, (c.hcClean l.line).pg.jobs = c.pg.jobs ++ [j] ∧ j.kind = .write ∧ j.line = l.line ∧ j.ld = l.ld := by
  have heq : c.hcClean l.line = (c.setHcM [(k, { l with st := .s })]).hcToMem l.line l.ld l.yrw := by
    have hsound : c.hcCheck l.line = c := Chip.hcCheck_of_sound (by simpa [hhc] using hflaw) _
    unfold Chip.hcClean
    simp only [hsound, Chip.hcWaitOf_of_nil hfills, hfind, hst, beq_self_eq_true, if_true]
    rw [hhc, SMap.set_single]
  rw [heq, Chip.hcToMem, Chip.memWrite, if_pos hdram]
  exact ⟨rfl, _, rfl, rfl, rfl, rfl⟩

/-- A cache that waits for no way drops the line that it holds. -/
theorem Chip.hcDrop_of_sound {c : Chip} {line k : Nat} {l : CLine} (hhc : c.coh.hc = [(k, l)]) (hfills : c.coh.hcFills = [])
    (hfind : c.hcFind line = some (k, l)) (hflaw : l.flaw = 0) : (c.hcDrop line).coh.hc = [] ∧ (c.hcDrop line).pg = c.pg := by
  have hsound : c.hcCheck line = c := Chip.hcCheck_of_sound (by simpa [hhc] using hflaw) _
  have heq : c.hcDrop line = c.setHcM [] := by
    unfold Chip.hcDrop
    rw [Chip.hcFills_of_none (Chip.hcWaitOf_of_nil hfills line), hsound]
    simp only [hfind, hhc, SMap.erase_single]
  rw [heq]
  exact ⟨rfl, rfl⟩

/-- What an operation of the hub cache makes of the one line that it holds, which is dirty. -/
theorem Chip.hcMaint_coh {c : Chip} {op k : Nat} {l : CLine} (hop : op = 1 ∨ op = 2) (hbusy : c.on Reg.HC_STATUS.MBUSY = false) (hhc : c.coh.hc = [(k, l)])
    (hfills : c.coh.hcFills = []) (hfind : c.hcFind l.line = some (k, l)) (hflaw : l.flaw = 0) (hst : l.st = .m)
    (hbank : bit (c.get Reg.HC_MAINT_BANKS.BANKS) (bankHc l.line) = true) (hdram : isDram l.line = true) :
    (c.hcMaint op).coh.hc = (if op == 2 then [] else [(k, { l with st := .s })])
      ∧ ∃ j, (c.hcMaint op).pg.jobs = c.pg.jobs ++ [j] ∧ j.kind = .write ∧ j.line = l.line ∧ j.ld = l.ld := by
  have hlines : c.hcLinesOf (c.get Reg.HC_MAINT_BANKS.BANKS) = [l.line] := by simp [Chip.hcLinesOf, hhc, hfills, hbank]
  obtain ⟨hclean, hjob⟩ := Chip.hcClean_of_dirty (c := c.maintBegun Reg.HC_STATUS.MBUSY 4 0 (op == 2) false) hhc hfills hfind hflaw hst hdram
  rw [Chip.hcMaint_begins hop hbusy, hlines, List.foldl_cons, List.foldl_nil]
  rcases hop with rfl | rfl
  · rw [if_neg (by decide), hclean]
    exact ⟨rfl, hjob⟩
  · have hfind' : findWay [(k, l)] (hcBase l.line) 16 l.line = some (k, l) := by rwa [Chip.hcFind, hhc] at hfind
    obtain ⟨hgone, hpg⟩ := Chip.hcDrop_of_sound (c := (c.maintBegun Reg.HC_STATUS.MBUSY 4 0 (2 == 2) false).hcClean l.line) (line := l.line)
      (l := { l with st := .s }) (by rw [hclean]) (by rw [hclean]; exact hfills) (by rw [Chip.hcFind, hclean]; exact findWay_single_set hfind' rfl) hflaw
    rw [if_pos rfl, hgone, hpg]
    exact ⟨rfl, hjob⟩

/-! ### An L2 starts to drain -/

/-- The package as an L2's drain has begun (R164). -/
def Chip.drainBegun (c : Chip) (d cl : Nat) : Chip := c.puts [(Reg.CL_L2_CTRL.EN d cl, 0), (Reg.CL_L2_STATUS.BUSY d cl, 1)]

theorem Chip.get_drainBegun (c : Chip) (d cl : Nat) :
    (c.drainBegun d cl).get (Reg.CL_L2_CTRL.EN d cl) = 0 ∧ (c.drainBegun d cl).get (Reg.CL_L2_STATUS.BUSY d cl) = 1 := by
  have hset : ∀ {f : Fld} {n : Nat}, (f, n) ∈ [(Reg.CL_L2_CTRL.EN d cl, 0), (Reg.CL_L2_STATUS.BUSY d cl, 1)] → (c.drainBegun d cl).get f = n % 2 ^ f.width :=
    fun hf => Chip.get_puts_mem c (by simp [Reg.CL_L2_CTRL.EN, Reg.CL_L2_STATUS.BUSY, mkFld]) hf
  exact ⟨hset (List.mem_cons_self ..), hset (List.mem_cons_of_mem _ (List.mem_cons_self ..))⟩

theorem Chip.LinesMoved.setDrains (c : Chip) (l : List (Nat × Nat)) : c.LinesMoved { c with coh := { c.coh with drains := l } } := Chip.LinesMoved.withCoh c rfl

theorem Chip.l2Disable_moved {c : Chip} {d cl : Nat} (hd : d < 12) (hcl : cl < 5) (hon : c.on (Reg.CL_L2_CTRL.EN d cl) = true) :
    (c.drainBegun d cl).LinesMoved (c.l2Disable d cl) := by
  rw [Chip.l2Disable_of_on hon]
  refine Chip.LinesMoved.foldl (fun p _ e => ?_) _
  have hevict := Chip.LinesMoved.l2Evict e (u := 5 * d + cl) (by omega) p.2.line
  split
  · exact (hevict.trans (Chip.LinesMoved.l3Evict _ hd _ true)).trans (Chip.LinesMoved.setDrains _ _)
  · exact hevict

/-- What a drain makes of the one line that the L2 holds, which is dirty, where the L3 has a buffer for it. -/
theorem Chip.l2Disable_coh {c : Chip} {d cl u k k3 i : Nat} {q l : CLine} (hu : 5 * d + cl = u) (hd : d < 12) (hcl : cl < 5)
    (hon : c.on (Reg.CL_L2_CTRL.EN d cl) = true) (hl2 : c.coh.l2 = [(k, q)]) (hl3 : c.coh.l3 = [(k3, l)]) (hfind : c.l2Find u q.line = some (k, q))
    (hfind3 : c.l3Find d q.line = some (k3, l)) (hflaw : q.flaw = 0) (hflaw3 : l.flaw = 0) (hst : q.st = .m)
    (hidx : c.l3Idx (20 * d + l3Slice (64 * q.line)) = some i) :
    (c.l2Disable d cl).coh.l2 = [] ∧ (c.l2Disable d cl).coh.l3 = [] ∧ (c.l2Disable d cl).coh.drains = c.coh.drains ++ [(u, q.line)]
      ∧ (c.l2Disable d cl).coh.l3wbs = c.coh.l3wbs ++ [⟨20 * d + l3Slice (64 * q.line), i, q.line, q.ld, true, l.yrw, l.last⟩] := by
  have hdie : u / 5 = d := by omega
  have hbegun : (c.drainBegun d cl).coh = c.coh := Chip.puts_coh _ _
  have hdisable := Chip.l2Disable_of_on hon
  rw [hu, Chip.l2Lines_single hl2 hfind, List.foldl_cons, List.foldl_nil] at hdisable
  dsimp only at hdisable
  rw [hst, if_pos (by decide)] at hdisable
  have hfindB : (c.drainBegun d cl).l2Find u q.line = some (k, q) := (Chip.l2Find_congr (by rw [hbegun]) u q.line).trans hfind
  have hfindB3 : (c.drainBegun d cl).l3Find (u / 5) q.line = some (k3, l) := by
    rw [hdie]
    exact (Chip.l3Find_congr (by rw [hbegun]) d q.line).trans hfind3
  obtain ⟨hgone, htaken, hreqs, hwbs, hdrains⟩ := Chip.l2Evict_coh (l' := { l with ld := q.ld, st := .m }) (by rw [hbegun]; exact hl2)
    (by rw [hbegun]; exact hl3) hfindB hfindB3 hflaw (by rw [hst]; rfl)
  rw [hbegun] at hreqs hwbs hdrains
  rw [Chip.l3Find, hl3] at hfind3
  obtain ⟨hgone2, hgone3, hdrains3, hsent⟩ := Chip.l3Evict_coh (line := q.line) hd true hgone htaken
    (by rw [Chip.l3Find, htaken]; exact findWay_single_set hfind3 rfl) hflaw3 ((Chip.l3Idx_congr hreqs hwbs _).trans hidx)
  rw [show c.puts _ = c.drainBegun d cl from rfl] at hdisable
  generalize ((c.drainBegun d cl).l2Evict u q.line).l3Evict d q.line true = m at hdisable hgone2 hgone3 hdrains3 hsent
  rw [hdisable]
  exact ⟨hgone2, hgone3, congrArg (· ++ _) (hdrains3.trans hdrains), hsent.trans (by rw [hwbs]; rfl)⟩

end Sys2Proof.Machine
end

section
/-! The end of an L2's drain, and each cache's operation as a software write (R160, R164, R165). -/
namespace Sys2Proof.Machine

/-! ### The operations as writes -/

theorem State.l2Maint_next {s : State} {w : Who} {d : Fin 12} {cl : Fin 5} {keep : Bool} {u : Nat} (hu : 5 * d.val + cl.val = u)
    (h : s.chip.writeRuns w (Reg.CL_L2_MAINT.OP d.val cl.val).off = true) (hbusy : s.chip.on (Reg.CL_L2_STATUS.MBUSY d.val cl.val) = false)
    {p : Instr × Bool × Bool} (hp : p ∈ [(Instr.l2MaintClean w d cl, false, false), (.l2MaintFlush w d cl keep, true, keep)]) :
    ∃ op c t, (op = 1 ∨ op = 2) ∧ (op == 2) = p.2.1 ∧ Recorded s.chip c ∧ c.on (Reg.CL_L2_STATUS.MBUSY d.val cl.val) = false ∧ exec p.1 s = .next t
      ∧ t.pending = s.pending ∧ t.chip.get (Reg.CL_L2_STATUS.MBUSY d.val cl.val) = 1
      ∧ t.chip.coh.maint = s.chip.coh.maint ++ [⟨2, u, p.2.1, p.2.2, []⟩] ∧ SameMemory s.chip t.chip
      ∧ t.chip.coh = (c.l2Maint d.val cl.val op p.2.2).coh := by
  have hlow : ∀ {f : Fld}, f ∈ [Reg.CL_L2_STATUS.MBUSY d.val cl.val, Reg.CL_L2_MAINT.OP d.val cl.val] → f.addr < 8 * 0xC0000000 := fun hf =>
    CL_L2_addr d.isLt cl.isLt (by simp only [List.mem_cons, List.not_mem_nil, or_false] at hf ⊢; tauto)
  obtain ⟨op, v, hop, hflush, hv, hkeep, hexec⟩ := exec_l2Maint (s := s) hp
  have hfree : ∀ c, Recorded s.chip c → c.on (Reg.CL_L2_STATUS.MBUSY d.val cl.val) = false := fun c hrec =>
    (hrec.on_low ((hlow (by simp)).trans (by decide))).trans hbusy
  have hbegun : ∀ c : Chip, c.EngineKept (c.maintBegun (Reg.CL_L2_STATUS.MBUSY d.val cl.val) 2 (5 * d.val + cl.val) (op == 2) p.2.2) := fun c =>
    (CohFields.maintBegun c _ 2 _ _ _).engineKept fun g hg => by
      rw [List.mem_singleton.1 hg]
      exact (hlow (by simp)).trans (by decide)
  obtain ⟨c, t, hrec, hrun, hpend, hget, hcoh, -, hmem⟩ := State.cacheWrite_next h ((hlow (by simp)).trans (by decide))
    (fun c => (c.csrAction_l2Maint w v d.isLt cl.isLt).trans (by rw [hv, hkeep]))
    (fun c hrec => (hbegun c).trans (Chip.l2Maint_moved d.isLt cl.isLt hop p.2.2 (hfree c hrec)).engineKept)
  have hmoved := Chip.l2Maint_moved d.isLt cl.isLt hop p.2.2 (hfree c hrec)
  refine ⟨op, c, t, hop, hflush, hrec, hfree c hrec, hexec.trans hrun, hpend, ?_, ?_, hmem ((SameMemory.maintBegun c _ 2 _ _ _).trans hmoved.sameMemory), hcoh⟩
  · rw [hget, hmoved.regs _ (CL_L2_not_log d.isLt cl.isLt (by simp))]
    exact c.get_maintBegun rfl 2 _ _ _
  · rw [hcoh, hmoved.maint, Chip.maintBegun_coh, hrec.coh, hflush, hu]

theorem State.l3Maint_next {s : State} {w : Who} {d : Fin 12} {sl : Fin 20} {u : Nat} (hu : 20 * d.val + sl.val = u)
    (h : s.chip.writeRuns w (Reg.L3_CTRL.MAINT d.val sl.val).off = true) (hbusy : s.chip.on (Reg.L3_STATUS.MBUSY d.val sl.val) = false)
    {p : Instr × Bool} (hp : p ∈ [(Instr.l3MaintClean w d sl, false), (.l3MaintFlush w d sl, true)]) :
    ∃ op c t, (op = 1 ∨ op = 2) ∧ (op == 2) = p.2 ∧ Recorded s.chip c ∧ c.on (Reg.L3_STATUS.MBUSY d.val sl.val) = false ∧ exec p.1 s = .next t
      ∧ t.pending = s.pending ∧ t.chip.get (Reg.L3_STATUS.MBUSY d.val sl.val) = 1 ∧ t.chip.coh.maint.any (maintOf u) = true ∧ SameMemory s.chip t.chip
      ∧ t.chip.coh = (c.l3Maint d.val sl.val op).coh := by
  obtain ⟨op, hop, hflush, hv, hexec⟩ := exec_l3Maint (s := s) hp
  have hfree : ∀ c, Recorded s.chip c → c.on (Reg.L3_STATUS.MBUSY d.val sl.val) = false := fun c hrec =>
    (hrec.on_low ((L3_addr d.isLt sl.isLt (by simp)).trans (by decide))).trans hbusy
  obtain ⟨c, t, hrec, hrun, hpend, hget, hcoh, -, hmem⟩ := State.cacheWrite_next h ((L3_addr d.isLt sl.isLt (by simp)).trans (by decide))
    (fun c => (c.csrAction_l3Maint w op d.isLt sl.isLt).trans (by rw [hv]))
    (fun c hrec => (Chip.l3Maint_keeps d.isLt sl.isLt hop (hfree c hrec)).1)
  obtain ⟨-, hsame, hon, hmaint⟩ := Chip.l3Maint_keeps d.isLt sl.isLt hop (hfree c hrec)
  refine ⟨op, c, t, hop, hflush, hrec, hfree c hrec, hexec.trans hrun, hpend, (hget _).trans hon, ?_, hmem hsame, hcoh⟩
  rw [hcoh, ← hu]
  exact hmaint

theorem State.hcMaint_next {s : State} {w : Who} (h : s.chip.writeRuns w Reg.HC_MAINT_CMD.OP.off = true) (hbusy : s.chip.on Reg.HC_STATUS.MBUSY = false)
    {p : Instr × Bool} (hp : p ∈ [(Instr.hcMaintClean w, false), (.hcMaintFlush w, true)]) :
    ∃ op c t, (op = 1 ∨ op = 2) ∧ (op == 2) = p.2 ∧ Recorded s.chip c ∧ c.on Reg.HC_STATUS.MBUSY = false ∧ exec p.1 s = .next t ∧ t.pending = s.pending
      ∧ t.chip.get Reg.HC_STATUS.MBUSY = 1 ∧ t.chip.coh.maint = s.chip.coh.maint ++ [⟨4, 0, p.2, false, []⟩]
      ∧ t.chip.coh = (c.hcMaint op).coh ∧ t.chip.pg = (c.hcMaint op).pg := by
  obtain ⟨op, hop, hflush, hv, hexec⟩ := exec_hcMaint (s := s) hp
  have hfree : ∀ c, Recorded s.chip c → c.on Reg.HC_STATUS.MBUSY = false := fun c hrec => (hrec.on_low (by decide)).trans hbusy
  obtain ⟨c, t, hrec, hrun, hpend, hget, hcoh, hpg, -⟩ := State.cacheWrite_next h (by decide) (fun c => (c.csrAction_hcMaint w op).trans (by rw [hv]))
    (fun c hrec => ((CohFields.maintBegun c Reg.HC_STATUS.MBUSY 4 0 _ false).engineKept (by decide)).trans
      (Chip.hcMaint_moved hop (hfree c hrec)).engineKept)
  have hmoved := Chip.hcMaint_moved hop (hfree c hrec)
  refine ⟨op, c, t, hop, hflush, hrec, hfree c hrec, hexec.trans hrun, hpend, ?_, ?_, hcoh, hpg⟩
  · rw [hget, hmoved.regs _ (by decide)]
    exact c.get_maintBegun (busy := Reg.HC_STATUS.MBUSY) rfl 4 0 (op == 2) false
  · rw [hcoh, hmoved.maint]
    dsimp only
    rw [Chip.maintBegun_coh, hrec.coh, hflush]

/-! ### EN written of an L2 that holds lines, or that drains -/

theorem State.l2Disable_moved {s : State} {w : Who} {d : Fin 12} {cl : Fin 5} (h : s.chip.writeRuns w (Reg.CL_L2_CTRL.EN d.val cl.val).off = true)
    (hon : s.chip.on (Reg.CL_L2_CTRL.EN d.val cl.val) = true) :
    ∃ c t, Recorded s.chip c ∧ c.on (Reg.CL_L2_CTRL.EN d.val cl.val) = true ∧ exec (.l2Disable w d cl) s = .next t ∧ t.pending = s.pending
      ∧ t.chip.get (Reg.CL_L2_CTRL.EN d.val cl.val) = 0 ∧ t.chip.get (Reg.CL_L2_STATUS.BUSY d.val cl.val) = 1 ∧ SameMemory s.chip t.chip
      ∧ t.chip.coh = (c.l2Disable d.val cl.val).coh := by
  have hlow : ∀ {f : Fld}, f ∈ [Reg.CL_L2_CTRL.EN d.val cl.val, Reg.CL_L2_STATUS.BUSY d.val cl.val] → f.addr < 8 * 0xC0000000 := fun hf =>
    CL_L2_addr d.isLt cl.isLt (by simp only [List.mem_cons, List.not_mem_nil, or_false] at hf ⊢; tauto)
  have hon' : ∀ c, Recorded s.chip c → c.on (Reg.CL_L2_CTRL.EN d.val cl.val) = true := fun c hrec =>
    (hrec.on_low ((hlow (by simp)).trans (by decide))).trans hon
  have hbegun : ∀ c : Chip, c.EngineKept (c.drainBegun d.val cl.val) := fun c => Chip.EngineKept.puts c fun p hp =>
    (hlow (by simp only [List.mem_cons, List.not_mem_nil, or_false] at hp; rcases hp with rfl | rfl <;> simp)).trans (by decide)
  obtain ⟨c, t, hrec, hrun, hpend, hget, hcoh, -, hmem⟩ := State.cacheWrite_next h ((hlow (by simp)).trans (by decide))
    (fun c => (c.csrAction_l2Ctrl w 0 d.isLt cl.isLt).trans (if_neg (by decide)))
    (fun c hrec => (hbegun c).trans (Chip.l2Disable_moved d.isLt cl.isLt (hon' c hrec)).engineKept)
  have hmoved := Chip.l2Disable_moved d.isLt cl.isLt (hon' c hrec)
  obtain ⟨hen, hdrain⟩ := c.get_drainBegun d.val cl.val
  rw [exec_l2Disable]
  exact ⟨c, t, hrec, hon' c hrec, hrun, hpend, (hget _).trans ((hmoved.regs _ (CL_L2_not_log d.isLt cl.isLt (by simp))).trans hen),
    (hget _).trans ((hmoved.regs _ (CL_L2_not_log d.isLt cl.isLt (by simp))).trans hdrain), hmem ((SameMemory.puts c _).trans hmoved.sameMemory), hcoh⟩

/-- The use of an L2 that drains is asked for (R165). -/
theorem State.l2Enable_asks {s : State} {w : Who} {d : Fin 12} {cl : Fin 5} {u : Nat} (hu : 5 * d.val + cl.val = u)
    (h : s.chip.writeRuns w (Reg.CL_L2_CTRL.EN d.val cl.val).off = true)
    (hoff : s.chip.on (Reg.CL_L2_CTRL.EN d.val cl.val) = false) (hbusy : s.chip.on (Reg.CL_L2_STATUS.BUSY d.val cl.val) = true) :
    ∃ t, exec (.l2Enable w d cl) s = .next t ∧ t.pending = s.pending ∧ u ∈ t.chip.coh.reEnable
      ∧ WroteOnly { s.chip with coh := { s.chip.coh with reEnable := t.chip.coh.reEnable } } t.chip w (Reg.CL_L2_CTRL.EN d.val cl.val).off [] := by
  have hlow : ∀ {f : Fld}, f ∈ [Reg.CL_L2_CTRL.EN d.val cl.val, Reg.CL_L2_STATUS.BUSY d.val cl.val] → f.addr < 8 * 0xC0000000 := fun hf =>
    CL_L2_addr d.isLt cl.isLt (by simp only [List.mem_cons, List.not_mem_nil, or_false] at hf ⊢; tauto)
  have heffect : ∀ c, Recorded s.chip c → c.l2Enable d.val cl.val = { c with coh := { c.coh with reEnable := u :: c.coh.reEnable.filter (· != u) } } :=
    fun c hrec => by
      have hoff' := (hrec.on_low ((hlow (by simp)).trans (by decide))).trans hoff
      have hbusy' := (hrec.on_low ((hlow (by simp)).trans (by decide))).trans hbusy
      rw [Chip.l2Enable_of_busy hoff' hbusy', hu]
  obtain ⟨c, t, hrec, hrun, hpend, -, hcoh, hwrote⟩ := State.cohWrite_next (l := []) h ((hlow (by simp)).trans (by decide))
    (fun c => (c.csrAction_l2Ctrl w 1 d.isLt cl.isLt).trans (if_pos (by decide)))
    (fun c hrec => by rw [heffect c hrec]; exact CohFields.of_only _ ⟨rfl, fun _ _ => rfl, rfl⟩) (by simp)
  rw [heffect c hrec, hrec.coh] at hcoh
  rw [hcoh] at hwrote
  rw [exec_l2Enable]
  exact ⟨t, hrun, hpend, by rw [hcoh]; exact List.mem_cons_self .., by rw [hcoh]; exact hwrote⟩

/-! ### The end of a drain -/

/-- An L2 whose use was asked for meanwhile is used again (R165). -/
theorem State.l2Drained_reEnables {s : State} {d : Fin 12} {cl : Fin 5} {u : Nat} (hu : 5 * d.val + cl.val = u) (hs : s.chip.halted = false)
    (hbusy : s.chip.on (Reg.CL_L2_STATUS.BUSY d.val cl.val) = true) (hdrains : s.chip.coh.drains = []) (hasked : u ∈ s.chip.coh.reEnable) :
    ∃ t, exec (.l2Drained d cl) s = .next t ∧ t.pending = s.pending ∧ t.chip.get (Reg.CL_L2_CTRL.EN d.val cl.val) = 1
      ∧ t.chip.get (Reg.CL_L2_STATUS.BUSY d.val cl.val) = 0 ∧ t.chip.get (Reg.CL_L2_STATUS.DRAINED d.val cl.val) = 0 ∧ u ∉ t.chip.coh.reEnable
      ∧ OnlyFields { s.chip with coh := { s.chip.coh with reEnable := t.chip.coh.reEnable } } t.chip
          [Reg.CL_L2_CTRL.EN d.val cl.val, Reg.CL_L2_STATUS.BUSY d.val cl.val, Reg.CL_L2_STATUS.DRAINED d.val cl.val] := by
  have hend := Chip.l2Drained_of_none hbusy hdrains
  rw [hu, if_pos (List.contains_iff_mem.2 hasked)] at hend
  generalize hfreed : ({ s.chip.puts (l2DrainedSet d.val cl.val) with coh := { s.chip.coh with reEnable := s.chip.coh.reEnable.filter (· != u) } } : Chip) = b
    at hend
  have hdistinct : ((l2DrainedSet d.val cl.val).map (fun p => p.1.addr)).Nodup := by
    simp [l2DrainedSet, Reg.CL_L2_STATUS.BUSY, Reg.CL_L2_STATUS.DRAINED, mkFld]
  have hlast : ∀ {f : Fld} {n : Nat}, (f, n) ∈ [(Reg.CL_L2_CTRL.EN d.val cl.val, 1), (Reg.CL_L2_STATUS.DRAINED d.val cl.val, 0)] →
      (s.chip.l2Drained d.val cl.val).get f = n % 2 ^ f.width := fun hf => by
    rw [hend]
    exact Chip.get_puts_mem b (by simp [Reg.CL_L2_CTRL.EN, Reg.CL_L2_STATUS.DRAINED, mkFld]; omega) hf
  have hfree : (s.chip.l2Drained d.val cl.val).get (Reg.CL_L2_STATUS.BUSY d.val cl.val) = 0 := by
    rw [hend, Chip.get_puts_ne b _ (by simp [Reg.CL_L2_CTRL.EN, Reg.CL_L2_STATUS.BUSY, Reg.CL_L2_STATUS.DRAINED, mkFld]), ← hfreed]
    exact Chip.get_puts_mem s.chip hdistinct (List.mem_cons_self ..)
  have hcoh : (s.chip.l2Drained d.val cl.val).coh = { s.chip.coh with reEnable := s.chip.coh.reEnable.filter (· != u) } := by
    rw [hend, Chip.puts_coh, ← hfreed]
  have hotp : (s.chip.l2Drained d.val cl.val).otp = s.chip.otp := by
    rw [hend, Chip.puts_otp, ← hfreed]
    exact Chip.puts_otp _ _
  refine ⟨_, s.run_eq (fun c => c.l2Drained d.val cl.val) hs hotp, rfl, hlast (List.mem_cons_self ..), hfree,
    hlast (List.mem_cons_of_mem _ (List.mem_cons_self ..)), ?_, ?_⟩
  · rw [hcoh]
    simp
  · rw [hcoh]
    have hfirst : OnlyFields { s.chip with coh := { s.chip.coh with reEnable := s.chip.coh.reEnable.filter (· != u) } } b
        [Reg.CL_L2_CTRL.EN d.val cl.val, Reg.CL_L2_STATUS.BUSY d.val cl.val, Reg.CL_L2_STATUS.DRAINED d.val cl.val] := by
      obtain ⟨-, h2, h3⟩ := OnlyFields.puts s.chip (l2DrainedSet d.val cl.val)
        (m := [Reg.CL_L2_CTRL.EN d.val cl.val, Reg.CL_L2_STATUS.BUSY d.val cl.val, Reg.CL_L2_STATUS.DRAINED d.val cl.val]) (by simp [l2DrainedSet])
      rw [← hfreed]
      exact ⟨by rw [Chip.puts_rest s.chip], h2, h3⟩
    rw [hend]
    exact hfirst.trans (OnlyFields.puts b _ (by simp))

/-- A drain waits for a writeback that is on its way (R164). -/
theorem Chip.l2Drained_of_open {c : Chip} {d cl u line : Nat} {b : L3Wb} (hu : 5 * d + cl = u) (hdrains : c.coh.drains = [(u, line)])
    (hb : b ∈ c.coh.l3wbs) (hline : b.line = line) (hdie : b.slice / 20 = d) : c.l2Drained d cl = c := by
  have hwb : c.coh.l3wbs.any (fun w => w.line == line && w.slice / 20 == d) = true := by
    rw [List.any_eq_true]
    exact ⟨b, hb, by simp [hline, hdie]⟩
  have hopen : c.l3Busy d line = true := by
    unfold Chip.l3Busy
    rw [hwb, Bool.or_true]
  have hsame : ({ c with coh := { c.coh with drains := [(u, line)] } } : Chip) = c := by rw [← hdrains]
  subst hu
  unfold Chip.l2Drained
  simp [hdrains, hopen, hwb, hsame]

end Sys2Proof.Machine

open Sys2Proof Sys2Proof.Machine

/-- Settles O57: beside its own register a command moves lines only, and a line alone is followed step by step. -/
theorem cacheOperationsMoveLines : Obligations.CacheOperationsMoveLines := by
  unfold Obligations.CacheOperationsMoveLines
  refine ⟨fun s w d cl keep u hu h hbusy p hp => ?l2, fun s w d sl u hu h hbusy p hp => ?l3, fun s w h hbusy p hp => ?hub,
    fun s n f hs hcache hany hpassed => ?l2Done, fun s hs hany hpassed => ?hubDone, fun s w d cl u hu h => ⟨fun hon => ?off, fun hoff hbusy => ?on⟩,
    fun s d cl u hu hs hbusy => ⟨fun hdrains hasked => ?used, fun line b hdrains hb hline hdie => ?waits⟩⟩
  case l2 =>
    obtain ⟨op, c, t, hop, hflush, hrec, hfree, hexec, hpend, hon, hmaint, hmem, hcoh⟩ := State.l2Maint_next hu h hbusy hp
    refine ⟨t, hexec, hpend, hon, hmaint, hmem, fun k k3 q l hl2 hl3 hfind hfind3 hflaw hst => ?_⟩
    have hsame := hrec.coh
    obtain ⟨hstay, hleave⟩ := Chip.l2Maint_coh (c := c) (keep := p.2.2) hu d.isLt cl.isLt hop hfree (by rw [hsame]; exact hl2) (by rw [hsame]; exact hl3)
      ((Chip.l2Find_congr (by rw [hsame]) _ _).trans hfind) ((Chip.l3Find_congr (by rw [hsame]) _ _).trans hfind3) hflaw hst
    have hlocked : c.wayLocked u k = s.chip.wayLocked u k := by
      unfold Chip.wayLocked Chip.bitOf
      rw [hrec.get_low ((CL_L2_addr (d := u / 5) (cl := u % 5) (by omega) (by omega) (by simp)).trans (by decide))]
    rw [← hcoh, hlocked] at hstay hleave
    refine ⟨fun hkept => hstay ?_, fun hf hgone => hleave ?_ hgone⟩
    · rcases hkept with hclean | hkept
      · rw [hclean] at hflush
        exact .inl (hop.resolve_right fun h2 => by simp [h2] at hflush)
      · exact .inr hkept
    · rw [hf] at hflush
      exact beq_iff_eq.1 hflush
  case l3 =>
    obtain ⟨op, c, t, hop, hflush, hrec, hfree, hexec, hpend, hon, hmaint, hmem, hcoh⟩ := State.l3Maint_next hu h hbusy hp
    refine ⟨t, hexec, hpend, hon, hmaint, hmem, fun k i l hl2 hl3 hfind3 hslice hflaw hst hopen hratio hidx => ?_⟩
    have hsame := hrec.coh
    have hopen' : c.l3Busy d.val l.line = false := by rw [Chip.l3Busy, hsame]; exact hopen
    have hratio' : c.ratioHeld d.val l.line = false := (Chip.ratioHeld_congr (by rw [hsame]) (hrec.get_low (by
      simp only [Reg.HUB_CORE_DIV.BUSY, mkFld]
      omega)) _).trans hratio
    obtain ⟨hclean, hgone⟩ := Chip.l3Maint_coh (c := c) hu d.isLt sl.isLt hop hfree (by rw [hsame]; exact hl2) (by rw [hsame]; exact hl3)
      ((Chip.l3Find_congr (by rw [hsame]) _ _).trans hfind3) hslice hflaw hst hopen' hratio' ((Chip.l3Idx_congr (by rw [hsame]) (by rw [hsame]) _).trans hidx)
    rw [← hcoh, hsame] at hclean hgone
    refine ⟨fun hc => hclean ?_, fun hf => hgone ?_⟩
    · rw [hc] at hflush
      exact hop.resolve_right fun h2 => by simp [h2] at hflush
    · rw [hf] at hflush
      exact beq_iff_eq.1 hflush
  case hub =>
    obtain ⟨op, c, t, hop, hflush, hrec, hfree, hexec, hpend, hon, hmaint, hcoh, hpg⟩ := State.hcMaint_next h hbusy hp
    refine ⟨t, hexec, hpend, hon, hmaint, fun k l hhc hfills hfind hflaw hst hbank hdram => ?_⟩
    have hsame := hrec.coh
    have hjobs : c.pg = s.chip.pg := by rw [hrec.rest]
    have hline := Chip.hcMaint_coh (c := c) hop hfree (by rw [hsame]; exact hhc) (by rw [hsame]; exact hfills) (by rw [Chip.hcFind, hsame]; exact hfind)
      hflaw hst (by rw [hrec.get_low (by decide)]; exact hbank) hdram
    rwa [← hcoh, ← hpg, hjobs, hflush] at hline
  case l2Done =>
    obtain ⟨d, cl, rfl, rfl⟩ := hcache
    refine State.cacheMaintDone_next hs hany (fun m hm hlevel _ => hpassed m hm hlevel) ?_
    rw [if_pos rfl, show (5 * d.val + cl.val) / 5 = d.val by omega, show (5 * d.val + cl.val) % 5 = cl.val by omega]
  case hubDone => exact State.cacheMaintDone_next hs hany (fun m hm hlevel _ => hpassed m hm hlevel) rfl
  case off =>
    obtain ⟨c, t, hrec, hon', hexec, hpend, hen, hbusy, hmem, hcoh⟩ := State.l2Disable_moved h hon
    refine ⟨t, hexec, hpend, hen, hbusy, hmem, fun k k3 i q l hl2 hl3 hfind hfind3 hflaw hflaw3 hst hidx => ?_⟩
    have hsame := hrec.coh
    have hline := Chip.l2Disable_coh (c := c) hu d.isLt cl.isLt hon' (by rw [hsame]; exact hl2) (by rw [hsame]; exact hl3)
      ((Chip.l2Find_congr (by rw [hsame]) _ _).trans hfind) ((Chip.l3Find_congr (by rw [hsame]) _ _).trans hfind3) hflaw hflaw3 hst
      ((Chip.l3Idx_congr (by rw [hsame]) (by rw [hsame]) _).trans hidx)
    rwa [← hcoh, hsame] at hline
  case on => exact State.l2Enable_asks hu h hoff hbusy
  case used => exact State.l2Drained_reEnables hu hs hbusy hdrains hasked
  case waits =>
    have hend := Chip.l2Drained_of_open hu hdrains hb hline hdie
    exact (s.run_eq (fun c => c.l2Drained d.val cl.val) hs (by rw [hend])).trans (by rw [hend])
end

section
/-! An answer that stays away ends what its request was for (R198): a completion entry's write counts as visible, its queue has nothing in flight any more, and
a DISABLE that waits turns the queue off, which writes the queue's descriptor back (R293, R297, R300). The descriptor table may lie in another package's memory. -/
namespace Sys2Proof.Machine

/-- The write of a completion entry into the first line of package 7's memory, by the queue engine for queue 0 of tenant 1. -/
def Msg.entryWrite : Msg :=
  { hubWrMsg (7 * 2 ^ 38) 0#512 (2 ^ 16 - 1) false ⟨hubAgent 0 3 0, 1, false, 1, 0⟩ with tag := 1 }

/-- Queue 0 of tenant 1 is ACTIVE, a DISABLE waits for it, and its only SQE waits for its completion entry. -/
def QCtx.closing : QCtx :=
  { w := [2 + 1 * 2 ^ 16, 0, 7 * 2 ^ 44, 0, 0, 2 ^ 32 + 1, 0, 0], sqes := [{ sqeEmpty 0 0 with cqe := true }], fetching := false, quantum := 0, used := 0,
    disabling := true }

/-- That write waits for its home's answer; packages 6 and 7 are present, and the descriptor table starts at the first byte of package 6's memory. -/
def State.entryUnanswered : State :=
  { State.reset with chip :=
    { State.reset.chip.puts [(Reg.HUB_AMAP_PRESENT.PKG, 0xC0), (Reg.HQE_QTAB.BASE, 6 * 2 ^ 17)] with
      hqe := { State.reset.chip.hqe with queues := [(0, QCtx.closing)], live := [(0, 1)], qcmd := some 0 }
      coh := { State.reset.chip.coh with
        away := [⟨Msg.entryWrite, 7, true, 0⟩], far := [⟨Msg.entryWrite, false, none, .cqe 0 0⟩] } } }

/-- The package is clocked, the write is a request of a unit of this hub, and nothing else waits for package 7. -/
theorem State.entryUnanswered_finds :
    State.entryUnanswered.chip.halted = false ∧ agPkg Msg.entryWrite.agent = State.entryUnanswered.chip.pkg ∧ 12 ≤ agDie Msg.entryWrite.agent
      ∧ State.entryUnanswered.chip.heldFor 7 = [] ∧ State.entryUnanswered.chip.on (Reg.DIR_DEAD_ADDR.VALID 0) = false := by decide +kernel

/-- The queue's descriptor is on its way to package 6 instead. -/
theorem State.entryUnanswered_timeout : (State.entryUnanswered.chip.answerTimeout 0).coh.away.map (·.pkg) = [6] := by decide +kernel

theorem State.entryUnanswered_timeout_otp : (State.entryUnanswered.chip.answerTimeout 0).otp = State.entryUnanswered.chip.otp := by decide +kernel

end Sys2Proof.Machine

open Sys2Proof Sys2Proof.Machine

/-- Refutes O9: its clause of the answer timeout says that nothing is away then, but where the unanswered request is the write of the last completion entry of a
queue that a DISABLE waits for, the queue turns off, and its descriptor leaves for the table in another package's memory. -/
theorem not_deadTargetsAreFenced : ¬ Obligations.DeadTargetsAreFenced := by
  unfold Obligations.DeadTargetsAreFenced
  rintro ⟨-, -, -, -, hanswer, -, -, -⟩
  obtain ⟨hclocked, hpkg, hdie, hheld, hvalid⟩ := State.entryUnanswered_finds
  obtain ⟨t, ht, -, haway, -, -⟩ := hanswer State.entryUnanswered 0 ⟨Msg.entryWrite, 7, true, 0⟩ hclocked rfl rfl rfl rfl hpkg hdie hheld (by decide) hvalid
  have hchip : t.chip = State.entryUnanswered.chip.answerTimeout 0 :=
    State.chip_of_run (f := fun c => c.answerTimeout 0) hclocked State.entryUnanswered_timeout_otp ht
  have hmap := State.entryUnanswered_timeout
  rw [← hchip, haway] at hmap
  exact absurd hmap (by decide)
end

section
/-! Messages leave the queues at the hub and at the dies (R177, R257): which one a test finds, and what taking it leaves unchanged. -/
namespace Sys2Proof.Machine

/-! ### The message that a test finds -/

/-- The message taken passes the test. -/
theorem takeMsg_passes {p : Msg → Bool} {l q : List Msg} {m : Msg} (h : takeMsg p l = some (m, q)) : p m = true := by
  induction l generalizing q with
  | nil => cases h
  | cons x l ih =>
    rw [takeMsg] at h
    split at h
    case isTrue hx =>
      obtain ⟨rfl, -⟩ : x = m ∧ l = q := by simpa using h
      exact hx
    case isFalse =>
      obtain ⟨⟨n, rest⟩, hrest, heq⟩ := Option.map_eq_some_iff.1 h
      obtain ⟨rfl, -⟩ : n = m ∧ x :: rest = q := by simpa using heq
      exact ih hrest

/-- A further test that the message passes finds the same one. -/
theorem takeMsg_and {p q : Msg → Bool} {l rest : List Msg} {m : Msg} (h : takeMsg p l = some (m, rest)) (hq : q m = true) :
    takeMsg (fun x => p x && q x) l = some (m, rest) := by
  induction l generalizing rest with
  | nil => cases h
  | cons x l ih =>
    rw [takeMsg] at h ⊢
    split at h
    case isTrue hx =>
      obtain ⟨rfl, rfl⟩ : x = m ∧ l = rest := by simpa using h
      simp [hx, hq]
    case isFalse hx =>
      obtain ⟨⟨n, rest⟩, hrest, heq⟩ := Option.map_eq_some_iff.1 h
      obtain ⟨rfl, rfl⟩ : n = m ∧ x :: rest = _ := by simpa using heq
      simp [hx, ih hrest]

/-- What waits at a die is searched alike. -/
theorem takeDie_go_passes {d : Nat} {p : Msg → Bool} {l rest : List (Nat × Msg)} {m : Msg} (h : Chip.takeDie.go d p l = some (m, rest)) : p m = true := by
  induction l generalizing rest with
  | nil => cases h
  | cons x l ih =>
    rw [Chip.takeDie.go] at h
    split at h
    case isTrue hx =>
      obtain ⟨rfl, -⟩ : x.2 = m ∧ l = rest := by simpa using h
      simp only [Bool.and_eq_true] at hx
      exact hx.2
    case isFalse =>
      obtain ⟨⟨n, rest⟩, hrest, heq⟩ := Option.map_eq_some_iff.1 h
      obtain ⟨rfl, -⟩ : n = m ∧ x :: rest = _ := by simpa using heq
      exact ih hrest

theorem takeDie_go_and {d : Nat} {p q : Msg → Bool} {l rest : List (Nat × Msg)} {m : Msg} (h : Chip.takeDie.go d p l = some (m, rest)) (hq : q m = true) :
    Chip.takeDie.go d (fun x => p x && q x) l = some (m, rest) := by
  induction l generalizing rest with
  | nil => cases h
  | cons x l ih =>
    rw [Chip.takeDie.go] at h ⊢
    split at h
    case isTrue hx =>
      obtain ⟨rfl, rfl⟩ : x.2 = m ∧ l = rest := by simpa using h
      simp only [hq, Bool.and_true]
      rw [if_pos hx]
    case isFalse hx =>
      obtain ⟨⟨n, rest⟩, hrest, heq⟩ := Option.map_eq_some_iff.1 h
      obtain ⟨rfl, rfl⟩ : n = m ∧ x :: rest = _ := by simpa using heq
      rw [if_neg (by simp_all), ih hrest]
      rfl

/-! ### What taking it leaves unchanged -/

/-- Beside the queues, the credit of the message's buffer is owed, and its way across the mesh is counted; what waits to be sent stays. -/
structure Chip.Took (a b : Chip) : Prop where
  rest : b = { a with regs := b.regs, irqs := b.irqs, nrg := b.nrg, spk := b.spk, tdm := b.tdm,
                      coh := { a.coh with hubIn := b.coh.hubIn, dieIn := b.coh.dieIn } }
  regs : ∀ f : Fld, pmuFld f = false → b.get f = a.get f
  links : ∀ d, (b.spkOf d).up = (a.spkOf d).up ∧ (b.spkOf d).dn = (a.spkOf d).dn

namespace Chip.Took

theorem trans {a b c : Chip} (h : a.Took b) (k : b.Took c) : a.Took c := by
  obtain ⟨h1, h2, h3⟩ := h
  obtain ⟨k1, k2, k3⟩ := k
  refine ⟨?_, fun f hf => (k2 f hf).trans (h2 f hf), fun d => ⟨(k3 d).1.trans (h3 d).1, (k3 d).2.trans (h3 d).2⟩⟩
  rw [h1] at k1
  exact k1

theorem of_counted {a b : Chip} (h : CountedOnly a b []) : a.Took b :=
  ⟨by rw [h.rest], fun f hf => h.regs f hf (by simp), fun d => by rw [Chip.spkOf, Chip.spkOf, h.rest]; exact ⟨rfl, rfl⟩⟩

/-- A link changes, and what waits to be sent on it does not. -/
theorem spkMod (c : Chip) (i : Nat) {f : SpkSt → SpkSt} (hf : ∀ s, (f s).up = s.up ∧ (f s).dn = s.dn) : c.Took (c.spkMod i f) := by
  refine ⟨rfl, fun _ _ => rfl, fun d => ?_⟩
  by_cases h : d = i
  · rw [h, Chip.spkOf_spkMod_self]
    exact hf _
  · rw [Chip.spkOf_spkMod_ne c f h]
    exact ⟨rfl, rfl⟩

theorem bufFree (c : Chip) (buf : Option Nat) (cls : Nat) : c.Took (c.bufFree buf cls) := by
  unfold Chip.bufFree
  split
  · exact ⟨rfl, fun _ _ => rfl, fun _ => ⟨rfl, rfl⟩⟩
  · split
    · exact ⟨rfl, fun _ _ => rfl, fun _ => ⟨rfl, rfl⟩⟩
    · split
      · exact spkMod c _ fun _ => ⟨rfl, rfl⟩
      · exact spkMod c _ fun _ => ⟨rfl, rfl⟩

theorem get {a b : Chip} (h : a.Took b) {f : Fld} (hf : pmuFld f = false) : b.get f = a.get f := h.regs f hf

theorem on {a b : Chip} (h : a.Took b) {f : Fld} (hf : pmuFld f = false) : b.on f = a.on f := by
  rw [Chip.on, h.get hf, Chip.on]

theorem otp {a b : Chip} (h : a.Took b) : b.otp = a.otp := by rw [h.rest]

end Chip.Took

/-- The message at a die passed the test in its buffer, and has left it. -/
theorem Chip.takeDie_took {c c1 : Chip} {d : Nat} {p : Msg → Bool} {m : Msg} (hd : d < 12) (h : c.takeDie d p = some (m, c1)) :
    c.Took c1 ∧ ∃ r, p r = true ∧ m = r.unbuf := by
  obtain ⟨⟨r, l⟩, hgo, heq⟩ := Option.map_eq_some_iff.1 h
  obtain ⟨rfl, rfl⟩ := Prod.mk.inj heq
  refine ⟨?_, r, takeDie_go_passes hgo, rfl⟩
  have hqueue : c.Took { c with coh := { c.coh with dieIn := l } } := ⟨rfl, fun _ _ => rfl, fun _ => ⟨rfl, rfl⟩⟩
  exact (hqueue.trans (Chip.Took.of_counted (Chip.meshMsg_counted _ hd _ _ _))).trans (Chip.Took.bufFree _ _ _)

/-- A further test that the message passes takes the same one from a die. -/
theorem Chip.takeDie_and {c c1 : Chip} {d : Nat} {p q : Msg → Bool} {m : Msg} (h : c.takeDie d p = some (m, c1)) (hq : ∀ r : Msg, r.unbuf = m → q r = true) :
    c.takeDie d (fun x => p x && q x) = some (m, c1) := by
  obtain ⟨⟨r, l⟩, hgo, heq⟩ := Option.map_eq_some_iff.1 h
  rw [Chip.takeDie, takeDie_go_and hgo (hq r (congrArg Prod.fst heq))]
  exact congrArg some heq

theorem Chip.takeHub_took {c c1 : Chip} {p : Msg → Bool} {m : Msg} (h : c.takeHub p = some (m, c1)) : c.Took c1 ∧ ∃ r, p r = true ∧ m = r.unbuf := by
  obtain ⟨⟨r, l⟩, htake, heq⟩ := Option.map_eq_some_iff.1 h
  obtain ⟨rfl, rfl⟩ := Prod.mk.inj heq
  refine ⟨?_, r, takeMsg_passes htake, rfl⟩
  have hqueue : c.Took { c with coh := { c.coh with hubIn := l } } := ⟨rfl, fun _ _ => rfl, fun _ => ⟨rfl, rfl⟩⟩
  exact hqueue.trans (Chip.Took.bufFree _ _ _)

theorem Chip.takeHub_and {c c1 : Chip} {p q : Msg → Bool} {m : Msg} (h : c.takeHub p = some (m, c1)) (hq : ∀ r : Msg, r.unbuf = m → q r = true) :
    c.takeHub (fun x => p x && q x) = some (m, c1) := by
  obtain ⟨⟨r, l⟩, htake, heq⟩ := Option.map_eq_some_iff.1 h
  rw [Chip.takeHub, takeMsg_and htake (hq r (congrArg Prod.fst heq))]
  exact congrArg some heq

end Sys2Proof.Machine
end

section
/-! Snoops at a die (R186, R187): a line that its L2s do not hold, with nothing of it on its way between the slice and its home. -/
namespace Sys2Proof.Machine

/-- Steps that each leave the package alone leave it alone. -/
theorem foldl_stays {α : Type} {f : Chip → α → Chip} {l : List α} {c : Chip} (h : ∀ x ∈ l, f c x = c) : l.foldl f c = c := by
  induction l with
  | nil => rfl
  | cons x l ih =>
    rw [List.foldl_cons, h x (by simp)]
    exact ih fun y hy => h y (by simp [hy])

/-! ### The die's caches are searched for a line that the L2s do not hold -/

theorem Chip.l2Check_of_none {c : Chip} {u line : Nat} (again : Option EvKey) (h : c.l2Find u line = none) : c.l2Check u line again = c := by
  rw [Chip.l2Check, h]

theorem Chip.l2Checks_of_none {c : Chip} {d line : Nat} (h : ∀ cl < 5, c.l2Find (5 * d + cl) line = none) : c.l2Checks d line = c :=
  foldl_stays fun cl hcl => Chip.l2Check_of_none none (h cl (List.mem_range.1 hcl))

theorem Chip.l2DropAll_of_none {c : Chip} {d line : Nat} (loss : Bool) (h : ∀ cl < 5, c.l2Find (5 * d + cl) line = none) : c.l2DropAll d line loss = c :=
  foldl_stays fun cl hcl => by rw [Chip.l2Drop, h cl (List.mem_range.1 hcl)]

theorem Chip.l3Take_of_none {c : Chip} {d line : Nat} (h : ∀ cl < 5, c.l2Find (5 * d + cl) line = none) : c.l3Take d line = c := by
  unfold Chip.l3Take
  split
  · rfl
  · split
    · rfl
    case h_2 q hsome =>
      obtain ⟨cl, hcl, hfind⟩ := List.exists_of_findSome?_eq_some hsome
      rw [h cl (List.mem_range.1 hcl)] at hfind
      cases hfind

theorem Chip.l3Gather_of_none {c : Chip} {d line : Nat} (h : ∀ cl < 5, c.l2Find (5 * d + cl) line = none) : c.l3Gather d line = c := by
  rw [Chip.l3Gather, Chip.l2Checks_of_none h, Chip.l3Take_of_none h]

/-- The slice's lookup finds no line, or a sound one. -/
theorem Chip.l3Check_of_found {c : Chip} {d line : Nat} (h : ∀ k l, c.l3Find d line = some (k, l) → l.flaw = 0) : c.l3Check d line = c := by
  unfold Chip.l3Check Chip.l3CheckOff
  dsimp only
  split
  · rfl
  case h_2 k l hfind => exact if_pos (h k l hfind)

theorem Chip.ratioHeld_of_none {c : Chip} {d line : Nat} (h : c.l3Find d line = none) : c.ratioHeld d line = false := by
  rw [Chip.ratioHeld, h]

/-- No request and no writeback of the line is under way. -/
theorem Chip.l3Busy_eq_false {c : Chip} {d line : Nat} (h : c.l3Busy d line = false) :
    (∀ r ∈ c.coh.l3reqs, (r.line == line && r.slice / 20 == d) = false) ∧ ∀ w ∈ c.coh.l3wbs, (w.line == line && w.slice / 20 == d) = false := by
  simpa only [Chip.l3Busy, Bool.or_eq_false_iff, List.any_eq_false, Bool.not_eq_true] using h

theorem Chip.markLost_of_idle {c : Chip} {d line : Nat} (h : c.l3Busy d line = false) : c.markLost d line = c := by
  obtain ⟨hreqs, -⟩ := Chip.l3Busy_eq_false h
  have hmap : c.coh.l3reqs.map (fun r => if r.line = line && r.slice / 20 == d && r.grant.isNone then { r with lost := true } else r) = c.coh.l3reqs := by
    refine (List.map_congr_left fun r hr => if_neg ?_).trans (List.map_id _)
    have hr := hreqs r hr
    simp_all
  rw [Chip.markLost, hmap, ite_self]

/-! ### What the die answers -/

/-- What is to be sent from a die, and what may differ otherwise. -/
theorem Chip.sendUp_next {b e : Chip} {d : Nat} (h : CountedOnly b e []) (hd : d < 12) (m : Msg) :
    ((e.sendUp d m).spkOf d).up = (b.spkOf d).up ++ [m] ∧ CountedOnly { b with spk := (e.sendUp d m).spk } (e.sendUp d m) [] := by
  obtain ⟨h1, h2, h3⟩ := h.trans (e.meshMsg_counted hd m.cls m.tenant m.secure)
  have hlink : (e.meshMsg d m.cls m.tenant m.secure).spkOf d = b.spkOf d := by
    rw [Chip.spkOf, h1]
    rfl
  refine ⟨?_, ?_, h2, h3⟩
  · rw [Chip.sendUp, Chip.spkOf_spkMod_self, hlink]
  · exact congrArg (fun x : Chip => { x with spk := (e.sendUp d m).spk }) h1

theorem CountedOnly.setL3 {a b : Chip} (h : CountedOnly a b []) (m : SMap CLine) : CountedOnly (a.setL3 m) (b.setL3 m) [] := by
  obtain ⟨h1, h2, h3⟩ := h
  refine ⟨?_, h2, h3⟩
  have hcoh : b.coh = a.coh := by rw [h1]
  rw [Chip.setL3, hcoh]
  exact congrArg (fun x : Chip => { x with coh := { a.coh with l3 := m } }) h1

/-- A die without a copy misses. -/
theorem Chip.snoopDie_of_none {c : Chip} {d line : Nat} (typ : Nat) (loss : Bool) (hl3 : c.l3Find d line = none)
    (hl2 : ∀ cl < 5, c.l2Find (5 * d + cl) line = none) : c.snoopDie d typ line loss = (⟨.miss, LD.zero, false, 0⟩, c) := by
  have hcheck : (c.l3Check d line).l3Gather d line = c := by
    rw [Chip.l3Check_of_found (by simp [hl3]), Chip.l3Gather_of_none hl2]
  unfold Chip.snoopDie
  simp only [hcheck, hl3]

/-- A die whose slice alone shares the line gives it up to SNP_INV. -/
theorem Chip.snoopDie_of_shared {c : Chip} {d line k : Nat} {l : CLine} (loss : Bool) (hl3 : c.l3Find d line = some (k, l)) (hst : l.st = .s)
    (hflaw : l.flaw = 0) (hl2 : ∀ cl < 5, c.l2Find (5 * d + cl) line = none) :
    c.snoopDie d tSnpInv line loss = (⟨.ackI, LD.zero, false, l.yrw⟩, c.setL3 (SMap.erase c.coh.l3 k)) := by
  have hcheck : (c.l3Check d line).l3Gather d line = c := by
    rw [Chip.l3Check_of_found (fun k' l' h => by rw [hl3] at h; cases h; exact hflaw), Chip.l3Gather_of_none hl2]
  unfold Chip.snoopDie
  simp only [hcheck, hl3, hst, Chip.l2DropAll_of_none loss hl2]
  rfl

/-- The message that carries an answer of the die's copies. -/
def SnpAns.msg (a : SnpAns) (line : Nat) : Msg :=
  match a.kind with
  | .ackI => Msg.mk0 clsRsp tAckI line
  | .ackS => Msg.mk0 clsRsp tAckS line
  | .miss => Msg.mk0 clsRsp tMiss line
  | .dat => { (Msg.mk0 clsDat 0 line).withLd a.ld with dirty := a.dirty, yrw := a.yrw }

theorem SnpAns.msg_miss (ld : LD) (dirty : Bool) (yrw line : Nat) : SnpAns.msg ⟨.miss, ld, dirty, yrw⟩ line = Msg.mk0 clsRsp tMiss line := rfl
theorem SnpAns.msg_ackI (ld : LD) (dirty : Bool) (yrw line : Nat) : SnpAns.msg ⟨.ackI, ld, dirty, yrw⟩ line = Msg.mk0 clsRsp tAckI line := rfl

/-- The slice counts the snoop (R423). -/
def Chip.snpSeen (c : Chip) (d : Nat) (m : Msg) : Chip := c.evL3 d (l3Slice (64 * m.line)) 0x33 (evOf m.tenant m.secure)

theorem Chip.snpSeen_counted (c : Chip) {d : Nat} (hd : d < 12) (m : Msg) : CountedOnly c (c.snpSeen d m) [] :=
  c.evL3_counted hd (Nat.mod_lt _ (by decide)) _ _

/-- A snoop of a sound line, of which no writeback is under way, is answered as the die's copies say. -/
theorem Chip.snpAnswer_of_idle {c e : Chip} {d : Nat} {m : Msg} {a : SnpAns} (hd : d < 12) (hbusy : c.l3Busy d m.line = false)
    (hsound : ∀ k l, c.l3Find d m.line = some (k, l) → l.flaw = 0)
    (hsnoop : (c.snpSeen d m).snoopDie d m.typ m.line (agDie m.agent < 12 || agClu m.agent != 2) = (a, e)) :
    c.snpAnswer d m = (e.markLost d m.line).snpReply d (((c.l3Find d m.line).map (·.2.last)).getD 0) m (a.msg m.line) := by
  have hcoh : (c.snpSeen d m).coh = c.coh := (c.snpSeen_counted hd m).coh
  have hfind : (c.snpSeen d m).l3Find d m.line = c.l3Find d m.line := Chip.l3Find_congr (by rw [hcoh]) _ _
  have hwbs : (c.snpSeen d m).coh.l3wbs.find? (fun w => w.line == m.line && w.slice / 20 == d) = none := by
    rw [hcoh, List.find?_eq_none]
    intro w hw
    rw [(Chip.l3Busy_eq_false hbusy).2 w hw]
    decide
  have hcheck : (c.snpSeen d m).l3Check d m.line = c.snpSeen d m := Chip.l3Check_of_found fun k l h => hsound k l (hfind ▸ h)
  unfold Chip.snpSeen at hwbs hcheck hfind hsnoop
  unfold Chip.snpAnswer
  simp only [hcheck, hwbs, hfind, hsnoop]
  rfl

/-- The slice takes the snoop that waits for it. -/
theorem Chip.snpIn_of_idle {c c1 : Chip} {d typ : Nat} {m : Msg} (hd : d < 12) (htake : c.takeDie d (fun m => m.cls == clsSnp && m.typ == typ) = some (m, c1))
    (hratio : c.ratioHeld d m.line = false) (hl2 : ∀ cl < 5, c.l2Find (5 * d + cl) m.line = none) (hbusy : c.l3Busy d m.line = false) :
    c.snpIn d typ = c1.snpAnswer d m ∧ m.typ = typ := by
  obtain ⟨htook, r, hr, rfl⟩ := Chip.takeDie_took hd htake
  have htake' : c.takeDie d (fun x => x.cls == clsSnp && x.typ == typ && !c.ratioHeld d x.line) = some (r.unbuf, c1) :=
    Chip.takeDie_and htake fun x hx => by
      have hline : x.line = r.unbuf.line := (congrArg Msg.line hx :)
      rw [hline, hratio]
      rfl
  have hcoh : c1.coh.l2 = c.coh.l2 ∧ c1.coh.l3reqs = c.coh.l3reqs := by
    rw [htook.rest]
    exact ⟨rfl, rfl⟩
  have hseen : (List.range 5).foldl (fun e cl => if (e.l2Find (5 * d + cl) r.unbuf.line).isSome then
      e.evClu (5 * d + cl) 0x25 (evOf r.unbuf.tenant r.unbuf.secure) else e) c1 = c1 :=
    foldl_stays fun cl hcl => by
      rw [Chip.l2Find_congr hcoh.1, hl2 cl (List.mem_range.1 hcl)]
      rfl
  have hout : c1.coh.l3reqs.any (fun q => q.line == r.unbuf.line && q.slice / 20 == d && q.typ != tMClean) = false := by
    rw [hcoh.2, List.any_eq_false]
    intro q hq
    rw [(Chip.l3Busy_eq_false hbusy).1 q hq, Bool.false_and]
    decide
  constructor
  · unfold Chip.snpIn
    simp only [htake', hseen, hout, Bool.false_and, Bool.false_eq_true, if_false]
  · simp only [Bool.and_eq_true, beq_iff_eq] at hr
    exact hr.2

/-- The snoops' commands. -/
theorem exec_snoop {s : State} {d : Fin 12} {p : Instr × Nat} (hp : p ∈ [(Instr.snpS d, tSnpS), (.snpInv d, tSnpInv), (.snpInvNd d, tSnpInvNd),
    (.snpCur d, tSnpCur), (.snpClean d, tSnpClean)]) : exec p.1 s = s.run (fun c => c.snpIn d.val p.2) := by
  simp only [List.mem_cons, List.not_mem_nil, or_false] at hp
  rcases hp with rfl | rfl | rfl | rfl | rfl <;> rfl

/-- The die's caches are the same once the snoop has left its buffer. -/
theorem Chip.Took.l2Find {c c1 : Chip} (h : c.Took c1) : c1.l2Find = c.l2Find := by
  funext u line
  exact Chip.l2Find_congr (by rw [h.rest]) u line

theorem Chip.Took.l3Find {c c1 : Chip} (h : c.Took c1) : c1.l3Find = c.l3Find := by
  funext d line
  exact Chip.l3Find_congr (by rw [h.rest]) d line

theorem Chip.Took.l3Busy {c c1 : Chip} (h : c.Took c1) : c1.l3Busy = c.l3Busy := by
  funext d line
  rw [Chip.l3Busy, h.rest]
  rfl

/-- The die's answer leaves on its link, where its copies are known once the snoop is taken. -/
theorem State.snoop_next {s : State} {b e : Chip} {d typ clu : Nat} {m r : Msg} (hs : s.chip.halted = false) (hd : d < 12)
    (hin : s.chip.snpIn d typ = e.snpReply d clu m r) (hev : CountedOnly b e []) (hup : (b.spkOf d).up = (s.chip.spkOf d).up)
    (hotp : b.otp = s.chip.otp) :
    ∃ t q, s.run (fun c => c.snpIn d typ) = .next t ∧ t.pending = s.pending ∧ (t.chip.spkOf d).up = (s.chip.spkOf d).up ++ [q]
      ∧ q.cls = r.cls ∧ q.typ = r.typ ∧ q.line = r.line ∧ q.tag = m.tag ∧ CountedOnly { b with spk := t.chip.spk } t.chip [] := by
  obtain ⟨hsent, hcounted⟩ := Chip.sendUp_next hev hd
    { r with tag := m.tag, agent := agentOf e.pkg d clu 0 0, tenant := m.tenant, secure := m.secure, dstPkg := homePkg m.line, dstDie := 12 }
  rw [hup] at hsent
  have hrun := s.run_eq (fun c => c.snpIn d typ) hs (by rw [hin]; exact (congrArg Chip.otp hcounted.rest).trans hotp)
  rw [hin] at hrun
  exact ⟨_, _, hrun, rfl, hsent, rfl, rfl, rfl, rfl, hcounted⟩

end Sys2Proof.Machine

open Sys2Proof Sys2Proof.Machine

/-- Settles O5: the slice takes the snoop as nothing holds it back, finds no L2 copy, and sends what its own line says. -/
theorem snoopsAreAnswered : Obligations.SnoopsAreAnswered := by
  unfold Obligations.SnoopsAreAnswered
  refine ⟨fun s d m c1 hs p hp htake hl3 hl2 hbusy => ?none, fun s d m k l c1 hs htake hl3 hst hflaw hl2 hbusy hratio => ?shared⟩
  case none =>
    obtain ⟨htook, -⟩ := Chip.takeDie_took d.isLt htake
    obtain ⟨hin, -⟩ := Chip.snpIn_of_idle d.isLt htake (Chip.ratioHeld_of_none hl3) hl2 hbusy
    rw [← htook.l3Find] at hl3
    rw [← htook.l2Find] at hl2
    rw [← htook.l3Busy] at hbusy
    have hev := Chip.Took.of_counted (c1.snpSeen_counted d.isLt m)
    have hsnoop := Chip.snoopDie_of_none (c := c1.snpSeen d.val m) m.typ (agDie m.agent < 12 || agClu m.agent != 2) (by rw [hev.l3Find, hl3])
      (by rwa [hev.l2Find])
    have hbusy' : (c1.snpSeen d.val m).l3Busy d.val m.line = false := by rw [hev.l3Busy, hbusy]
    rw [Chip.snpAnswer_of_idle d.isLt hbusy (by simp [hl3]) hsnoop, Chip.markLost_of_idle hbusy', SnpAns.msg_miss] at hin
    obtain ⟨t, q, hrun, hpend, hsent, hcls, htyp, hline, htag, hcounted⟩ :=
      State.snoop_next hs d.isLt hin (c1.snpSeen_counted d.isLt m) (htook.links d).1 htook.otp
    exact ⟨t, q, (exec_snoop hp).trans hrun, hpend, hsent, hcls, htyp, hline, htag, hcounted⟩
  case shared =>
    obtain ⟨htook, -⟩ := Chip.takeDie_took d.isLt htake
    obtain ⟨hin, htyp⟩ := Chip.snpIn_of_idle d.isLt htake hratio hl2 hbusy
    rw [← htook.l3Find] at hl3
    rw [← htook.l2Find] at hl2
    rw [← htook.l3Busy] at hbusy
    have hcounted := c1.snpSeen_counted d.isLt m
    have hev := Chip.Took.of_counted hcounted
    have hsnoop := Chip.snoopDie_of_shared (c := c1.snpSeen d.val m) (agDie m.agent < 12 || agClu m.agent != 2) (by rw [hev.l3Find, hl3]) hst hflaw
      (by rwa [hev.l2Find])
    rw [← htyp, hcounted.coh] at hsnoop
    have hbusy' : ((c1.snpSeen d.val m).setL3 (SMap.erase c1.coh.l3 k)).l3Busy d.val m.line = false := by
      rw [← hbusy, ← hev.l3Busy]
      rfl
    rw [Chip.snpAnswer_of_idle d.isLt hbusy (by simp [hl3, hflaw]) hsnoop, Chip.markLost_of_idle hbusy', SnpAns.msg_ackI] at hin
    obtain ⟨t, q, hrun, hpend, hsent, hcls, htyp, hline, htag, hrest⟩ :=
      State.snoop_next hs d.isLt hin (hcounted.setL3 _) (htook.links d).1 htook.otp
    have hl3' : t.chip.coh.l3 = SMap.erase c1.coh.l3 k := congrArg CohSt.l3 hrest.coh
    refine ⟨t, q, hrun, hpend, ?_, hsent, hcls, htyp, hline, htag, ?_⟩
    · rw [hl3', SMap.get?_erase_self]
    · rw [hl3']
      exact hrest
end

section
/-! Open transactions at the home, and messages from the hub to a die of this package (R172, R177, R195). -/
namespace Sys2Proof.Machine

/-- A transaction that changes stays the one of its line. -/
theorem Chip.txOf_txMod {c : Chip} {line : Nat} {x : Tx} {f : Tx → Tx} (h : c.txOf line = some x) (hf : ∀ t, (f t).line = t.line) :
    (c.txMod line f).txOf line = some (f x) := by
  have hsame : ((fun t : Tx => t.line == line) ∘ fun t : Tx => if t.line = line then f t else t) = fun t => t.line == line := by
    funext t
    by_cases ht : t.line = line <;> simp [ht, hf]
  have hx : x.line = line := by simpa using List.find?_some h
  have hfind : c.coh.txs.find? (fun t => t.line == line) = some x := h
  rw [Chip.txOf, Chip.txMod, List.find?_map, hsame, hfind, Option.map_some, if_pos hx]

/-- A transaction waits while a snoop of it is out. -/
theorem Chip.txAdvance_of_waiting {c : Chip} {line : Nat} {x : Tx} (h : c.txOf line = some x) (hx : x.snoops.isEmpty = false) : c.txAdvance line = c := by
  unfold Chip.txAdvance
  simp only [h, hx, Bool.not_false, Bool.or_true, if_true]

/-- A message for a die of this package that is not fenced goes down its link. -/
theorem Chip.sendMsg_toDie {c : Chip} {m : Msg} (hpkg : m.dstPkg = c.pkg) (hdie : m.dstDie < 12) (hfence : c.fencedDie c.pkg m.dstDie = false) :
    c.sendMsg m = c.spkMod m.dstDie (fun s => { s with dn := s.dn ++ [m] }) := by
  unfold Chip.sendMsg
  rw [if_neg (by simp [hpkg, hfence]), if_neg (by simp [hpkg]), if_pos hdie]

end Sys2Proof.Machine
end

section
/-! Answers to snoops at the home, and the fan-out of a broadcast of another home (R186, R188, R193). -/
namespace Sys2Proof.Machine

/-! ### An answer takes its snoop off -/

/-- A transaction once a sender has answered without data: `gone` where its die holds nothing. -/
def Tx.answered (t : Tx) (agent : Nat) (gone : Bool) : Tx :=
  { t with snoops := t.snoops.filter (fun n => !snoopFrom agent n), lost := if gone then cluOf agent :: t.lost else t.lost }

/-- While snoops of other dies are out, nothing more happens. -/
theorem Chip.txAnswer_of_more {c : Chip} {m : Msg} {x : Tx} (gone : Bool) (htx : c.txOf m.line = some x) (hany : x.snoops.any (snoopFrom m.agent) = true)
    (hmore : x.snoops.all (snoopFrom m.agent) = false) : c.txAnswer m none gone = c.txMod m.line (fun t => t.answered m.agent gone) := by
  have hmod : (c.txMod m.line (fun t => t.answered m.agent gone)).txOf m.line = some (x.answered m.agent gone) := Chip.txOf_txMod htx fun _ => rfl
  have hwaits : (x.answered m.agent gone).snoops.isEmpty = false := by
    obtain ⟨n, hn, hother⟩ := List.all_eq_false.1 hmore
    refine List.isEmpty_eq_false_iff_exists_mem.2 ⟨n, List.mem_filter.2 ⟨hn, ?_⟩⟩
    simpa using hother
  unfold Chip.txAnswer
  simp only [htx, hany, Option.isSome_none, Bool.false_eq_true, if_false, Bool.false_and, Bool.or_false, Bool.not_true]
  exact Chip.txAdvance_of_waiting hmod hwaits

theorem Chip.pkg_lt (c : Chip) : c.pkg < 8 := c.get_lt Reg.HUB_PKG_ID.PKG

/-- DIR_FENCE is no performance counter. -/
theorem pmuFld_fence {p : Nat} (hp : p < 8) : pmuFld (Reg.DIR_FENCE.PKG 0 p) = false ∧ pmuFld (Reg.DIR_FENCE.DIE 0 p) = false := by
  interval_cases p <;> decide

theorem Chip.Took.fencedDie {c c1 : Chip} (h : c.Took c1) {p : Nat} (hp : p < 8) (d : Nat) : c1.fencedDie p d = c.fencedDie p d := by
  obtain ⟨hpkg, hdie⟩ := pmuFld_fence hp
  rw [Chip.fencedDie, Chip.fencedPkg, h.on hpkg, Chip.bitOf, h.get hdie]
  rfl

/-- What a message's sender and line are to the home is the same once it has left its buffer. -/
theorem Chip.Took.home {c c1 : Chip} (h : c.Took c1) : c1.fromFenced = c.fromFenced ∧ c1.ownLine = c.ownLine ∧ c1.txOf = c.txOf := by
  refine ⟨funext fun m => ?_, funext fun line => ?_, funext fun line => ?_⟩
  · exact h.fencedDie (Nat.mod_lt _ (by decide)) _
  · rw [Chip.ownLine, Chip.pkg, h.get (by decide)]
    rfl
  · rw [Chip.txOf, h.rest]
    rfl

/-- ACK_I, ACK_S and MISS while other snoops of the transaction are out. -/
theorem Chip.rspIn_of_more {c c1 : Chip} {m : Msg} {x : Tx} {typ : Nat} (gone : Bool) (htake : c.takeHub (fun m => m.cls == clsRsp && m.typ == typ) = some (m, c1))
    (hfenced : c.fromFenced m = false) (hown : c.ownLine m.line = true) (htx : c.txOf m.line = some x) (hany : x.snoops.any (snoopFrom m.agent) = true)
    (hmore : x.snoops.all (snoopFrom m.agent) = false) : c.rspIn typ gone = c1.txMod m.line (fun t => t.answered m.agent gone) := by
  obtain ⟨hf, ho, ht⟩ := (Chip.takeHub_took htake).1.home
  rw [← hf] at hfenced
  rw [← ho] at hown
  rw [← ht] at htx
  unfold Chip.rspIn
  simp only [htake, hfenced, hown, Bool.false_eq_true, if_false, if_true]
  exact Chip.txAnswer_of_more gone htx hany hmore

/-- An IN_EVICT without data, while other snoops are out and its writeback has not come. -/
theorem Chip.inEvict_of_more {c c1 : Chip} {m : Msg} {x : Tx} (htake : c.takeHub (fun m => m.cls == clsRsp && m.typ == tInEvict) = some (m, c1))
    (hfenced : c.fromFenced m = false) (hown : c.ownLine m.line = true) (hclean : m.dirty = false) (htx : c.txOf m.line = some x)
    (hany : x.snoops.any (snoopFrom m.agent) = true) (hmore : x.snoops.all (snoopFrom m.agent) = false) (hq : c.coh.homeQ = [])
    (htag : c.coh.evTags.any (isTag m.line m.agent m.aux) = false) :
    c.inEvict = ({ c1 with coh := { c1.coh with evTags := c1.coh.evTags ++ [(m.line, cluOf m.agent, m.aux)] } } : Chip).txMod m.line
      (fun t => t.answered m.agent true) := by
  have htook := (Chip.takeHub_took htake).1
  obtain ⟨hf, ho, ht⟩ := htook.home
  rw [← hf] at hfenced
  rw [← ho] at hown
  rw [← ht] at htx
  have hq1 : c1.coh.homeQ = [] := by rw [htook.rest]; exact hq
  have htag1 : c1.coh.evTags.any (isTag m.line m.agent m.aux) = false := by rw [htook.rest]; exact htag
  have hmay : c.takeHub (fun m => m.cls == clsRsp && m.typ == tInEvict && c.evictMay m) = some (m, c1) :=
    Chip.takeHub_and htake fun r hr => by
      have hr' : r.dirty = m.dirty := (congrArg Msg.dirty hr :)
      simp [Chip.evictMay, hr', hclean]
  have hevict : c1.evictTag m = { c1 with coh := { c1.coh with evTags := c1.coh.evTags ++ [(m.line, cluOf m.agent, m.aux)] } } := by
    unfold Chip.evictTag
    rw [hq1]
    exact if_neg (by simp [htag1])
  unfold Chip.inEvict
  simp only [hmay, hclean, hfenced, hown, hevict, Bool.false_and, Bool.false_eq_true, if_false, Bool.not_true]
  exact Chip.txAnswer_of_more true htx hany hmore

/-! ### A broadcast fans out -/

/-- The snoop goes down the link of each die of a list. -/
theorem Chip.foldl_sendSnoop {l : List Nat} (hl : l.Nodup) (m : Msg) (c : Chip) (hdies : ∀ d ∈ l, d < 12 ∧ c.fencedDie c.pkg d = false) :
    ∃ k, l.foldl (fun c d => c.sendMsg { m with dstPkg := c.pkg, dstDie := d }) c = { c with spk := k }
      ∧ (∀ d ∉ l, ({ c with spk := k } : Chip).spkOf d = c.spkOf d)
      ∧ ∀ d ∈ l, (({ c with spk := k } : Chip).spkOf d).dn = (c.spkOf d).dn ++ [{ m with dstPkg := c.pkg, dstDie := d }] := by
  induction l generalizing c with
  | nil => exact ⟨c.spk, rfl, fun _ _ => rfl, by simp⟩
  | cons x l ih =>
    obtain ⟨hx, hl⟩ := List.nodup_cons.1 hl
    obtain ⟨hdie, hfence⟩ := hdies x (by simp)
    have hsend := Chip.sendMsg_toDie (c := c) (m := { m with dstPkg := c.pkg, dstDie := x }) rfl hdie hfence
    obtain ⟨k, hk, hother, hsent⟩ := ih hl (c.spkMod x (fun s => { s with dn := s.dn ++ [{ m with dstPkg := c.pkg, dstDie := x }] }))
      fun d hd => hdies d (by simp [hd])
    refine ⟨k, by rw [List.foldl_cons, hsend]; exact hk, fun d hd => ?_, fun d hd => ?_⟩
    · simp only [List.mem_cons, not_or] at hd
      exact (hother d hd.2).trans (Chip.spkOf_spkMod_ne c _ hd.1)
    · rcases List.mem_cons.1 hd with rfl | hd
      · exact (congrArg SpkSt.dn ((hother d hx).trans (Chip.spkOf_spkMod_self c _ _)) :)
      · refine (hsent d hd).trans ?_
        have hne : d ≠ x := fun heq => hx (heq ▸ hd)
        rw [Chip.spkOf_spkMod_ne c _ hne]
        rfl

/-- The snoop waits for every die that may hold the line. -/
theorem Chip.fanOut_next {c c1 : Chip} {m : Msg} {d : Nat} (htake : c.takeHub (fun m => m.cls == clsSnp) = some (m, c1)) (hd : d < 12)
    (hpresent : c.diePresent d = true) (hfence : c.fencedDie c.pkg d = false) (hother : sameDie (mkClu c.pkg d 0) (m.aux % 1024) = false) :
    ∃ dies k, d ∈ dies
      ∧ c.fanOut = { c1 with coh := { c1.coh with fans := c1.coh.fans ++ [⟨m, dies, c1.time⟩] }, spk := k }
      ∧ (({ c1 with spk := k } : Chip).spkOf d).dn = (c1.spkOf d).dn ++ [{ m with dstPkg := c1.pkg, dstDie := d }] := by
  have htook := (Chip.takeHub_took htake).1
  generalize hdies : (List.range 12).filter (fun d => c1.diePresent d && !c1.fencedDie c1.pkg d && !sameDie (mkClu c1.pkg d 0) (m.aux % 1024)) = dies
  have hpkg : c1.pkg = c.pkg := htook.get (by decide)
  have hin : d ∈ dies := by
    have hpresent1 : c1.diePresent d = true := by
      rw [htook.rest]
      exact hpresent
    rw [← hdies, List.mem_filter, hpresent1, hpkg, htook.fencedDie c.pkg_lt, hfence, hother]
    exact ⟨List.mem_range.2 hd, rfl⟩
  have hnodup : dies.Nodup := hdies ▸ List.nodup_range.filter _
  have hempty : dies.isEmpty = false := List.isEmpty_eq_false_iff_exists_mem.2 ⟨d, hin⟩
  obtain ⟨k, hk, -, hsent⟩ := Chip.foldl_sendSnoop hnodup m ({ c1 with coh := { c1.coh with fans := c1.coh.fans ++ [⟨m, dies, c1.time⟩] } } : Chip)
    fun e he => by
      rw [← hdies, List.mem_filter] at he
      simp only [Bool.and_eq_true, Bool.not_eq_true'] at he
      exact ⟨List.mem_range.1 he.1, he.2.1.2⟩
  refine ⟨dies, k, hin, ?_, hsent d hin⟩
  unfold Chip.fanOut
  simp only [htake, hdies, hempty, Bool.false_eq_true, if_false]
  exact hk

/-- The commands of those answers. -/
theorem exec_answer {s : State} {p : Instr × Nat × Bool} (hp : p ∈ [(Instr.ackI, tAckI, true), (.ackS, tAckS, false), (.miss, tMiss, true)]) :
    exec p.1 s = s.run (fun c => c.rspIn p.2.1 p.2.2) := by
  simp only [List.mem_cons, List.not_mem_nil, or_false] at hp
  rcases hp with rfl | rfl | rfl <;> rfl

end Sys2Proof.Machine

open Sys2Proof Sys2Proof.Machine

/-- Settles O8: an answer that is not the last one changes its own transaction, and the fan-out sends the snoop down the link of every die that it waits for. -/
theorem answersReachTheirTransaction : Obligations.AnswersReachTheirTransaction := by
  unfold Obligations.AnswersReachTheirTransaction
  refine ⟨fun s m x c1 hs hfenced hown htx hany hmore p hp htake => ?answer, fun s m x c1 hs hfenced hown hclean htx hany hmore hq htag htake => ?evict,
    fun s m d c1 hs htake hd hpresent hfence hother => ?fan⟩
  case answer =>
    have hrsp := Chip.rspIn_of_more p.2.2 htake hfenced hown htx hany hmore
    have htook := (Chip.takeHub_took htake).1
    have hrun := s.run_eq (fun c => c.rspIn p.2.1 p.2.2) hs (by rw [hrsp]; exact htook.otp)
    rw [hrsp] at hrun
    exact ⟨_, (exec_answer hp).trans hrun, rfl, Chip.txOf_txMod (by rw [htook.home.2.2]; exact htx) fun _ => rfl, rfl⟩
  case evict =>
    have hevict := Chip.inEvict_of_more htake hfenced hown hclean htx hany hmore hq htag
    have htook := (Chip.takeHub_took htake).1
    have hrun := s.run_eq Chip.inEvict hs (by rw [hevict]; exact htook.otp)
    rw [hevict] at hrun
    have htags : c1.coh.evTags = s.chip.coh.evTags := by rw [htook.rest]
    refine ⟨_, hrun, rfl, ?_, ?_, rfl⟩
    · rw [← htags]
      rfl
    · exact Chip.txOf_txMod (x := x) (by rw [← htx, ← htook.home.2.2]; rfl) fun _ => rfl
  case fan =>
    have htook := (Chip.takeHub_took htake).1
    obtain ⟨dies, k, hin, hfan, hsent⟩ := Chip.fanOut_next htake hd hpresent hfence hother
    have hrun := s.run_eq Chip.fanOut hs (by rw [hfan]; exact htook.otp)
    rw [hfan] at hrun
    have htime : c1.time = s.chip.time := htook.get (by decide)
    have hfans : c1.coh.fans = s.chip.coh.fans := by rw [htook.rest]
    obtain ⟨r, hr, rfl⟩ := (Chip.takeHub_took htake).2
    refine ⟨_, ⟨r.unbuf, dies, c1.time⟩, hrun, rfl, ?_, rfl, hin, htime, ⟨_, _, hsent, (htook.links d).2, ?_, rfl, rfl, rfl⟩, rfl⟩
    · rw [← hfans]
    · exact beq_iff_eq.1 hr
end

section
/-! What the home does for a line changes what the homes and the caches hold; beside that it only counts, charges energy and measures latency (R172, R315, R423). -/
namespace Sys2Proof.Machine

/-! ### What is noted on the way -/

/-- Counters, energy, interrupts and the latency of entries may differ; the registers below those of the regulator (spec/12) stand, but for performance
counters. -/
structure Chip.Noted (a b : Chip) : Prop where
  rest : b = { a with regs := b.regs, irqs := b.irqs, nrg := b.nrg, rg := b.rg }
  regs : ∀ f : Fld, f.addr < 8 * 0xC8000000 → pmuFld f = false → b.get f = a.get f

namespace Chip.Noted

theorem refl (c : Chip) : c.Noted c := ⟨rfl, fun _ _ _ => rfl⟩

theorem trans {a b c : Chip} (h : a.Noted b) (k : b.Noted c) : a.Noted c := by
  obtain ⟨h1, h2⟩ := h
  obtain ⟨k1, k2⟩ := k
  refine ⟨?_, fun f hf hp => (k2 f hf hp).trans (h2 f hf hp)⟩
  rw [h1] at k1
  exact k1

theorem of_counted {a b : Chip} (h : CountedOnly a b []) : a.Noted b :=
  ⟨by rw [h.rest], fun f _ hp => h.regs f hp (by simp)⟩

theorem nrgEv (c : Chip) (dom k key n : Nat) : c.Noted (c.nrgEv dom k key n) := by
  rw [Chip.nrgEv_rest]
  exact ⟨rfl, fun _ _ _ => rfl⟩

theorem hcNote (c : Chip) (write hit : Bool) (agent tenant : Nat) : c.Noted (c.hcNote write hit agent tenant) := by
  have hev : ∀ (c : Chip) (ev : Nat), c.Noted (c.evHub ugHc ev 1 (evKey tenant)) := fun c ev =>
    of_counted (c.evHub_counted ev 1 (evKey tenant) (by decide))
  unfold Chip.hcNote
  dsimp only
  split
  · exact ((hev c _).trans (nrgEv _ _ _ _ _)).trans (hev _ _)
  · exact (hev c _).trans (nrgEv _ _ _ _ _)

theorem latReq (c : Chip) (m : Msg) : c.Noted (c.latReq m) := by
  unfold Chip.latReq
  split
  · refine ⟨rfl, fun f hf _ => ?_⟩
    unfold Chip.latDone
    refine (Chip.get_put_ne _ _ ?_).trans rfl
    simp only [Reg.REG_ENT.LAT, mkFld]
    omega
  · exact refl c

end Chip.Noted

/-! ### The package with what its homes hold -/

/-- The package `c` with the lines and messages `k`, but for what is noted on the way. -/
def Chip.HomeAt (c : Chip) (k : CohSt) (x : Chip) : Prop := Chip.Noted { c with coh := k } x

namespace Chip.HomeAt

variable {c x y : Chip} {k : CohSt}

theorem start (c : Chip) (k : CohSt) : c.HomeAt k { c with coh := k } := Chip.Noted.refl _

theorem noted (h : c.HomeAt k x) (hn : x.Noted y) : c.HomeAt k y := Chip.Noted.trans h hn

theorem withCoh (h : c.HomeAt k x) (l : CohSt) : c.HomeAt l { x with coh := l } := by
  obtain ⟨h1, h2⟩ := h
  exact ⟨congrArg (fun z : Chip => { z with coh := l }) h1, h2⟩

theorem coh (h : c.HomeAt k x) : x.coh = k := by rw [h.rest]

theorem spkOf (h : c.HomeAt k x) (d : Nat) : x.spkOf d = c.spkOf d := by
  rw [Chip.spkOf, h.rest]
  rfl

theorem get (h : c.HomeAt k x) {f : Fld} (hf : f.addr < 8 * 0xC8000000) (hp : pmuFld f = false) : x.get f = c.get f := h.regs f hf hp

theorem pkg (h : c.HomeAt k x) : x.pkg = c.pkg := h.get (by decide) (by decide)

theorem fencedDie (h : c.HomeAt k x) {p : Nat} (hp : p < 8) (d : Nat) : x.fencedDie p d = c.fencedDie p d := by
  obtain ⟨hpkg, hdie⟩ := pmuFld_fence hp
  have haddr : (Reg.DIR_FENCE.PKG 0 p).addr < 8 * 0xC8000000 ∧ (Reg.DIR_FENCE.DIE 0 p).addr < 8 * 0xC8000000 := by
    simp only [Reg.DIR_FENCE.PKG, Reg.DIR_FENCE.DIE, mkFld]
    omega
  rw [Chip.fencedDie, Chip.fencedPkg, Chip.on, Chip.bitOf, h.get haddr.1 hpkg, h.get haddr.2 hdie]
  rfl

theorem sameMemory (h : c.HomeAt k x) : SameMemory c x := by
  constructor <;> rw [h.rest]

/-- The home's lookups read the lines that it holds. -/
theorem hcFind (h : c.HomeAt k x) (hk : k.hc = c.coh.hc) (line : Nat) : x.hcFind line = c.hcFind line := by
  rw [Chip.hcFind, h.coh, hk]
  rfl

theorem hcWaitOf (h : c.HomeAt k x) (hk : k.hcFills = c.coh.hcFills) (line : Nat) : x.hcWaitOf line = c.hcWaitOf line := by
  rw [Chip.hcWaitOf, h.coh, hk]
  rfl

theorem dirFind (h : c.HomeAt k x) (hk : k.dir = c.coh.dir) (line : Nat) : x.dirFind line = c.dirFind line := by
  rw [Chip.dirFind, h.coh, hk]
  rfl

/-- A message for a die of this package that is not fenced goes down its link. -/
theorem sendMsg (h : c.HomeAt k x) {m : Msg} (hpkg : m.dstPkg = c.pkg) (hdie : m.dstDie < 12) (hfence : c.fencedDie c.pkg m.dstDie = false) :
    x.sendMsg m = x.spkMod m.dstDie (fun s => { s with dn := s.dn ++ [m] }) :=
  Chip.sendMsg_toDie (hpkg.trans h.pkg.symm) hdie (by rw [h.pkg, h.fencedDie c.pkg_lt, hfence])

end Chip.HomeAt

/-- The home's step has put one message on a die's link. -/
theorem State.home_next {s : State} {f : Chip → Chip} {x : Chip} {k : CohSt} {d : Nat} {r : Msg} (hs : s.chip.halted = false)
    (hf : f s.chip = x.spkMod d (fun y => { y with dn := y.dn ++ [r] })) (h : s.chip.HomeAt k x) :
    ∃ t, s.run f = .next t ∧ t.pending = s.pending ∧ (t.chip.spkOf d).dn = (s.chip.spkOf d).dn ++ [r] ∧ t.chip.coh = k ∧ SameMemory s.chip t.chip := by
  obtain ⟨h1, h2, h3, h4, h5, h6, h7⟩ := h.sameMemory
  have hrun := s.run_eq f hs (by rw [hf]; exact h7)
  rw [hf] at hrun
  refine ⟨_, hrun, rfl, ?_, h.coh, h1, h2, h3, h4, h5, h6, h7⟩
  rw [Chip.spkOf_spkMod_self, h.spkOf]

/-! ### Lines of the hub cache -/

/-- The home's lookup finds the line sound. -/
theorem Chip.hcCheck_of_found {c : Chip} {line k : Nat} {l : CLine} (h : c.hcFind line = some (k, l)) (hflaw : l.flaw = 0) : c.hcCheck line = c := by
  unfold Chip.hcCheck
  simp only [h]
  exact if_pos hflaw

/-- Data for a line that the hub cache holds sound takes its place, dirty. -/
def CLine.rewritten (l : CLine) (ld : LD) (yrw age : Nat) : CLine := { l with ld := ld, st := .m, yrw := yrw, age := age }

theorem Chip.HomeAt.hcWrite {c x : Chip} {k : CohSt} {line w : Nat} {l : CLine} (h : c.HomeAt k x) (hfind : x.hcFind line = some (w, l)) (hflaw : l.flaw = 0)
    (ld : LD) (yrw age agent tenant : Nat) :
    c.HomeAt { k with hcFills := k.hcFills.filter (fun f => f.line != line), hc := SMap.set k.hc w (l.rewritten ld yrw age) }
      (x.hcWrite line ld yrw age agent tenant) := by
  have hn := h.noted (Chip.Noted.hcNote x true false agent tenant)
  have hunwait := hn.withCoh { k with hcFills := k.hcFills.filter (fun f => f.line != line) }
  have hfind' : (((x.hcNote true false agent tenant).hcUnwait line).hcFind line) = some (w, l) := by
    rw [← hfind, Chip.hcFind, Chip.hcFind, h.coh, Chip.hcUnwait, hn.coh]
  have hline : ({ l with ld := ld, st := .m, yrw := yrw, age := age, flaw := 0 } : CLine) = l.rewritten ld yrw age := by
    cases l
    subst hflaw
    rfl
  have hstep : x.hcWrite line ld yrw age agent tenant = ((x.hcNote true false agent tenant).hcUnwait line).setHcM
      (SMap.set ((x.hcNote true false agent tenant).hcUnwait line).coh.hc w (l.rewritten ld yrw age)) := by
    unfold Chip.hcWrite Chip.hcEnter Chip.hcFill
    simp only [Chip.hcCheck_of_found hfind' hflaw, hfind', if_true, hline]
  rw [hstep, Chip.hcUnwait, hn.coh]
  exact hunwait.withCoh _

end Sys2Proof.Machine
end

section
/-! Ends of transactions and writebacks (R184, R188, R190, R192). -/
namespace Sys2Proof.Machine

/-- The cluster that an agent belongs to. -/
theorem cluOf_agent (agent : Nat) : cluPkg (cluOf agent) = agPkg agent ∧ cluDie (cluOf agent) = agDie agent := by
  simp only [cluPkg, cluDie, cluOf, agPkg, agDie, bits_eq]
  omega

/-- The acknowledgement of a writeback. -/
def wbkAckMsg (m : Msg) : Msg :=
  { Msg.mk0 clsRsp tWbkAck m.line with
    tag := m.tag, agent := m.agent, tenant := m.tenant, secure := m.secure, dstPkg := agPkg m.agent, dstDie := agDie m.agent }

/-- An entry that the home finds is the line's own. -/
theorem Chip.dirFind_line {c : Chip} {line d : Nat} {e : DirEnt} (h : c.dirFind line = some (d, e)) : e.line = line := by
  have := List.find?_some h
  simp only [Bool.and_eq_true, beq_iff_eq] at this
  exact this.2

theorem Chip.dirEnt_of_found {c : Chip} {line d : Nat} {e : DirEnt} (h : c.dirFind line = some (d, e)) : c.dirEnt line = e := by
  rw [Chip.dirEnt, h]
  rfl

/-- An entry that names no fenced die is not settled. -/
theorem Chip.touch_of_live {c : Chip} {line : Nat} (h : c.namesFenced (c.dirEnt line) = false) : c.touch line = c := by
  unfold Chip.touch
  simp only [h, Bool.false_and, Bool.false_eq_true, if_false]

/-- What a writeback of the line's owner leaves of the homes and the hub cache. -/
def CohSt.writtenBack (k : CohSt) (q : List Msg) (d w : Nat) (l : CLine) (m : Msg) (typ : Nat) : CohSt :=
  { k with
    homeQ := q
    dir := SMap.erase k.dir d
    hcFills := if typ = 0 then k.hcFills.filter (fun f => f.line != m.line) else k.hcFills
    hc := if typ = 0 then SMap.set k.hc w (l.rewritten m.ld m.yrw 0) else k.hc }

/-- A writeback of the owner that no transaction holds back is performed and acknowledged. -/
theorem Chip.homeWbk_of_owner {c : Chip} {m : Msg} {q : List Msg} {typ w d : Nat} {l : CLine} {e : DirEnt} (htags : c.coh.evTags = [])
    (htake : takeMsg (fun x => x.cls == clsWbk && x.typ == typ && x.line == m.line) c.coh.homeQ = some (m, q))
    (hopen : c.txOpenOn m.line = false) (hdir : c.dirFind m.line = some (d, e)) (hst : e.st = dX) (hptrs : e.ptrs = [cluOf m.agent])
    (hhc : c.hcFind m.line = some (w, l)) (hflaw : l.flaw = 0) (hold : m.old = false) (hbuf : c.buffered m.line = true)
    (hpkg : agPkg m.agent = c.pkg) (hdie : agDie m.agent < 12) (hfence : c.fencedDie c.pkg (agDie m.agent) = false) :
    ∃ x, c.HomeAt (c.coh.writtenBack q d w l m typ) x ∧ c.homeWbk typ m.line = x.spkMod (agDie m.agent) (fun s => { s with dn := s.dn ++ [wbkAckMsg m] }) := by
  generalize hn : ({ c with coh := { c.coh with homeQ := q } } : Chip).nrgEv domHubc 6
    (({ c with coh := { c.coh with homeQ := q } } : Chip).keyOf m.agent m.tenant) 1 = n
  have hat : c.HomeAt { c.coh with homeQ := q } n := hn ▸ (Chip.HomeAt.start c _).noted (Chip.Noted.nrgEv _ _ _ _ _)
  have hfind : n.dirFind m.line = some (d, e) := (hat.dirFind rfl m.line).trans hdir
  have hent : n.dirEnt m.line = e := Chip.dirEnt_of_found hfind
  have howner : e.owner = some (cluOf m.agent) := by simp [DirEnt.owner, hst, hptrs]
  have hlive : n.namesFenced (n.dirEnt m.line) = false := by
    obtain ⟨hp, hd⟩ := cluOf_agent m.agent
    rw [hent, Chip.namesFenced, hptrs, List.any_cons, List.any_nil, hp, hd, hpkg, hat.fencedDie c.pkg_lt, hfence]
    rfl
  generalize hwr : (if typ = 0 then n.hcWrite m.line m.ld m.yrw 0 m.agent (tenantKey m.tenant m.secure) else n) = x1
  have hat1 : c.HomeAt { c.coh.writtenBack q d w l m typ with dir := c.coh.dir } x1 := by
    rw [← hwr, CohSt.writtenBack]
    by_cases h0 : typ = 0
    · simp only [h0, if_true]
      exact hat.hcWrite ((hat.hcFind rfl m.line).trans hhc) hflaw m.ld m.yrw 0 m.agent (tenantKey m.tenant m.secure)
    · simp only [h0, if_false]
      exact hat
  have hremove : x1.dirRemove m.line = x1.setDirM (SMap.erase c.coh.dir d) := by
    have hfind1 : x1.dirFind m.line = some (d, e) := (hat1.dirFind rfl m.line).trans hdir
    rw [Chip.dirRemove, hfind1, hat1.coh]
  have hat2 : c.HomeAt (c.coh.writtenBack q d w l m typ) (x1.dirRemove m.line) := by
    rw [hremove, Chip.setDirM, hat1.coh]
    exact hat1.withCoh _
  have htag : c.coh.evTags.find? (isTag m.line m.agent m.tag) = none := by rw [htags]; rfl
  have htx : c.coh.txs.any (fun t => t.line == m.line) = false := hopen
  refine ⟨_, hat2, (?_ : _ = (x1.dirRemove m.line).wbkAck m).trans (hat2.sendMsg hpkg hdie hfence)⟩
  unfold Chip.homeWbk
  simp only [hbuf, htake, htag, htx, hn, Chip.touch_of_live hlive, hent, howner, sameDie, hold, Bool.not_true, Bool.false_eq_true, if_false, beq_self_eq_true,
    Bool.and_true, decide_eq_true_eq, hwr, hst]
  simp [dX, dI, dP]

/-! ### Transactions close, and requests wait again -/

/-- A request goes back in front while a way of its set is free. -/
theorem Chip.reqRetry_of_free {c : Chip} {line w : Nat} {m : Msg} {q : List Msg} (htake : takeMsg (fun m => m.line == line) c.coh.retryQ = some (m, q))
    (hw : w < 16) (hfree : SMap.get? c.coh.dir (dirBase line + w) = none) :
    c.reqRetry line = { c with coh := { c.coh with retryQ := q, homeQ := m :: c.coh.homeQ } } := by
  unfold Chip.reqRetry
  rw [htake]
  refine if_pos (List.any_eq_true.2 ⟨w, List.mem_range.2 hw, ?_⟩)
  rw [hfree]

/-- The transactions without those of a line. -/
def Chip.txDrop (c : Chip) (line : Nat) : Chip := { c with coh := { c.coh with txs := c.coh.txs.filter (fun x => x.line != line) } }

theorem Chip.txOf_txDrop_self (c : Chip) (line : Nat) : (c.txDrop line).txOf line = none := by
  rw [Chip.txOf, Chip.txDrop, List.find?_filter, List.find?_eq_none]
  intro x _
  simp

theorem Chip.txOf_txDrop_ne (c : Chip) {line l : Nat} (h : l ≠ line) : (c.txDrop line).txOf l = c.txOf l := by
  rw [Chip.txOf, Chip.txDrop, List.find?_filter, Chip.txOf]
  congr 1
  funext x
  by_cases hx : x.line = l <;> simp [hx, h]

/-- A transaction whose answer is sent and whose writes are accepted closes. -/
theorem Chip.txClose_of_done {c : Chip} {line : Nat} {x : Tx} (htx : c.txOf line = some x) (hdone : x.done = true) (hvictim : x.victim = false)
    (hopen : c.writeOpen x = false) (hrange : c.coh.range = none) : c.txClose line = c.txDrop line := by
  unfold Chip.txClose
  simp only [htx, hdone, hopen, hvictim, hrange, Bool.not_true, Bool.or_self, Bool.false_eq_true, if_false, Chip.txDrop]

/-- The commands of writebacks. -/
theorem exec_writeback {s : State} {line : BitVec 46} {p : Instr × Nat} (hp : p ∈ [(Instr.wbDirty line, 0), (.evictClean line, 1)]) :
    exec p.1 s = s.run (fun c => c.homeWbk p.2 line.toNat) := by
  simp only [List.mem_cons, List.not_mem_nil, or_false] at hp
  rcases hp with rfl | rfl <;> rfl

end Sys2Proof.Machine

open Sys2Proof Sys2Proof.Machine

/-- Settles O7: each of these commands finds what it waits for, and changes that queue, that transaction, that line or that buffer. -/
theorem transactionsEnd : Obligations.TransactionsEnd := by
  unfold Obligations.TransactionsEnd
  refine ⟨fun s line m q w hs htake hw hfree => ?retry, fun s line x hs htx hdone hvictim hopen hrange => ?close,
    fun s line m q k d l e hs hline htags hopen hdir hst hptrs hhc hflaw hold hbuf hpkg hdie hfence p hp htake => ?writeback, fun s d m c1 hs htake => ?ack⟩
  case retry =>
    have hretry := Chip.reqRetry_of_free htake hw hfree
    have hrun := s.run_eq (fun c => c.reqRetry line.toNat) hs (by rw [hretry])
    rw [hretry] at hrun
    exact hrun
  case close =>
    have hclose := Chip.txClose_of_done htx hdone hvictim hopen hrange
    have hrun := s.run_eq (fun c => c.txClose line.toNat) hs (by rw [hclose]; rfl)
    rw [hclose] at hrun
    exact ⟨_, hrun, rfl, Chip.txOf_txDrop_self _ _, fun l hl => Chip.txOf_txDrop_ne _ hl, rfl⟩
  case writeback =>
    rw [← hline] at htake hopen hdir hhc hbuf
    obtain ⟨x, hx, hwbk⟩ := Chip.homeWbk_of_owner htags htake hopen hdir hst hptrs hhc hflaw hold hbuf hpkg hdie hfence
    obtain ⟨t, hrun, hpend, hsent, hcoh, hmem⟩ := State.home_next (f := fun c => c.homeWbk p.2 m.line) hs hwbk hx
    refine ⟨t, wbkAckMsg m, (exec_writeback hp).trans (hline ▸ hrun), hpend, hsent, rfl, rfl, hline, rfl, ?_, ?_, ?_, hmem⟩
    · rw [hcoh]
      exact SMap.get?_erase_self _ _
    · rw [hcoh]
      rfl
    · rw [hcoh, CohSt.writtenBack]
      by_cases h0 : p.2 = 0
      · simp only [h0, if_true]
        exact SMap.get?_set_self _ _ _
      · simp only [h0, if_false]
  case ack =>
    have htook := (Chip.takeDie_took d.isLt htake).1
    have hack : s.chip.wbkAckIn d.val = { c1 with coh := { c1.coh with
        l3wbs := c1.coh.l3wbs.filter (fun w => !(w.slice == 20 * d.val + m.tag / 128 && w.idx == m.tag % 128))
        drains := c1.coh.drains.filter (fun x => !(x.1 / 5 == d.val && x.2 == m.line)) } } := by
      rw [Chip.wbkAckIn, htake]
    have hrun := s.run_eq (fun c => c.wbkAckIn d.val) hs (by rw [hack]; exact htook.otp)
    rw [hack] at hrun
    refine ⟨_, hrun, rfl, fun w hw hsame => ?_, rfl⟩
    have hkept := (List.mem_filter.1 hw).2
    simp [hsame.1, hsame.2] at hkept
end

section
/-! The home serves a request for a line that no cache holds and the hub cache holds sound, at once and in one message (R172, R182 to R184). -/
namespace Sys2Proof.Machine

/-! ### The request finds its home idle -/

/-- The home may take the request `m` of a die of this package, leaving `q`; its line has no directory entry, though its set has room for one, and way `w`
of the hub cache holds it sound, as `l`. -/
structure Chip.Asked (c : Chip) (m : Msg) (q : List Msg) (w : Nat) (l : CLine) : Prop where
  idle : c.lineBusy m.line = false
  take : takeMsg (fun x => x.line == m.line) c.coh.homeQ = some (m, q)
  cls : m.cls = clsReq
  taken : (c.homeTake m.typ m.line).isSome = true
  dir : c.dirFind m.line = none
  room : c.dirFull m.line = false
  wait : c.hcWaitOf m.line = none
  found : c.hcFind m.line = some (w, l)
  sound : l.ld.poison = false
  flaw : l.flaw = 0
  pkg : agPkg m.agent = c.pkg
  die : agDie m.agent < 12
  live : c.fencedDie c.pkg (agDie m.agent) = false

theorem Chip.txOf_of_idle {c : Chip} {line : Nat} (h : c.lineBusy line = false) : c.txOf line = none := by
  simp only [Chip.lineBusy, Bool.or_eq_false_iff, List.any_eq_false, Bool.or_eq_true, not_or] at h
  exact List.find?_eq_none.2 fun t ht => (h.1 t ht).1

namespace Chip.Asked

variable {c : Chip} {m : Msg} {q : List Msg} {w : Nat} {l : CLine}

theorem homeTake (h : c.Asked m q w l) : c.homeTake m.typ m.line = some (m, { c with coh := { c.coh with homeQ := q } }) := by
  have htaken := h.taken
  unfold Chip.homeTake at htaken ⊢
  rw [h.idle, h.take] at htaken ⊢
  cases hfirst : lineFirst m.line [] c.coh.homeQ with
  | none => simp [hfirst] at htaken
  | some b =>
    simp only [hfirst, Bool.false_eq_true, if_false] at htaken ⊢
    split at htaken
    case isTrue hok => exact if_pos hok
    case isFalse => cases htaken

/-- The requester's die is this package's, and not fenced. -/
theorem requester (h : c.Asked m q w l) {k : CohSt} {x : Chip} (hx : c.HomeAt k x) : x.fencedDie (agPkg m.agent) (agDie m.agent) = false := by
  rw [h.pkg, hx.fencedDie c.pkg_lt, h.live]

end Chip.Asked

/-! ### What it leaves -/

theorem SMap.set_set {α : Type} (m : SMap α) (a : Nat) (v v' : α) : SMap.set (SMap.set m a v) a v' = SMap.set m a v' := by
  induction m with
  | nil => simp [SMap.set]
  | cons p m ih =>
    obtain ⟨k, u⟩ := p
    by_cases hlt : a < k
    · simp [SMap.set, hlt]
    · by_cases heq : a = k <;> simp [SMap.set, hlt, heq, ih]

/-- A search that failed finds what is entered. -/
theorem SMap.find?_set {α : Type} {m : SMap α} {p : Nat × α → Bool} {a : Nat} {v : α} (hm : m.find? p = none) (hv : p (a, v) = true) :
    (SMap.set m a v).find? p = some (a, v) := by
  induction m with
  | nil => simp [SMap.set, hv]
  | cons x m ih =>
    obtain ⟨k, u⟩ := x
    cases hx : p (k, u)
    case true => simp [hx] at hm
    case false =>
      rw [List.find?_cons_of_neg (by simp [hx])] at hm
      by_cases hlt : a < k
      · simp [SMap.set, hlt, hv]
      · by_cases heq : a = k
        · subst heq
          simp [SMap.set, hv]
        · simp [SMap.set, hlt, heq, hx, ih hm]

/-- The homes once a request has left its queue for the transaction `t`. -/
def CohSt.opened (k : CohSt) (q : List Msg) (t : Tx) (dir : SMap DirEnt) (hc : SMap CLine) : CohSt :=
  { k with homeQ := q, txs := k.txs ++ [t], dir := dir, hc := hc }

/-- The entry of a line that no cache holds. -/
def DirEnt.unheld (line : Nat) : DirEnt := ⟨line, dI, false, false, [], 0⟩

/-- A way of the line's set. -/
def inSet (line a : Nat) : Prop := dirBase line ≤ a ∧ a < dirBase line + 16

/-- A line without an entry has the one that is stored for it. -/
theorem Chip.dirFind_set {c x : Chip} {line a : Nat} {e : DirEnt} (h : c.dirFind line = none) (ha : inSet line a) (he : e.line = line)
    (hx : x.coh.dir = SMap.set c.coh.dir a e) : x.dirFind line = some (a, e) := by
  rw [Chip.dirFind, hx]
  exact SMap.find?_set h (by simp [ha.1, ha.2, he])

namespace Chip.HomeAt

variable {c x : Chip} {q : List Msg} {t : Tx} {dir : SMap DirEnt} {hc : SMap CLine}

theorem txOf (h : c.HomeAt (c.coh.opened q t dir hc) x) (hidle : c.txOf t.line = none) : x.txOf t.line = some t := by
  have hold : c.coh.txs.find? (fun y => y.line == t.line) = none := hidle
  rw [Chip.txOf, h.coh]
  simp [CohSt.opened, List.find?_append, hold]

theorem txMod (h : c.HomeAt (c.coh.opened q t dir hc) x) (hidle : c.txOf t.line = none) (f : Tx → Tx) :
    c.HomeAt (c.coh.opened q (f t) dir hc) (x.txMod t.line f) := by
  have hmap : (c.txAdd t).coh.txs.map (fun y => if y.line = t.line then f y else y) = c.coh.txs ++ [f t] :=
    congrArg (fun z : Chip => z.coh.txs) (Chip.txMod_add hidle f)
  have hmod : (c.coh.opened q t dir hc).txs.map (fun y => if y.line = t.line then f y else y) = c.coh.txs ++ [f t] := hmap
  rw [Chip.txMod, h.coh, hmod]
  exact h.withCoh _

/-- The way that a request reserved takes the entry that registers an owner. -/
theorem dirPut {a : Nat} {e e' : DirEnt} (h : c.HomeAt (c.coh.opened q t (SMap.set c.coh.dir a e) hc) x) (hdir : c.dirFind e'.line = none)
    (ha : inSet e'.line a) (hline : e.line = e'.line) (hst : e'.st = dX) (hovf : e'.ovf = false) :
    c.HomeAt (c.coh.opened q t (SMap.set c.coh.dir a e') hc) (x.dirPut e') := by
  have hfind : x.dirFind e'.line = some (a, e) := Chip.dirFind_set hdir ha hline (congrArg CohSt.dir h.coh)
  have hsame : ({ e' with ovf := e'.ovf && (e'.st == dS || e'.st == dO), xpkg := e'.xpkg && (e'.st == dS || e'.st == dO || e'.st == dX) } : DirEnt) = e' := by
    cases e'
    simp_all
  have hput : x.dirPut e' = x.setDirM (SMap.set c.coh.dir a e') := by
    have hreserve : x.dirReserve e'.line = x := if_pos (by rw [hfind]; rfl)
    unfold Chip.dirPut
    rw [if_neg (by rw [hst]; decide)]
    simp only [hsame, hreserve, hfind]
    rw [h.coh, CohSt.opened, SMap.set_set]
  rw [hput, Chip.setDirM, h.coh]
  exact h.withCoh _

/-- The answer leaves for a die of this package. -/
theorem answer {k : CohSt} {req r : Msg} (h : c.HomeAt k x) (hpkg : agPkg req.agent = c.pkg) (hdie : agDie req.agent < 12)
    (hlive : c.fencedDie c.pkg (agDie req.agent) = false) (hto : r.dstPkg = agPkg req.agent ∧ r.dstDie = agDie req.agent) :
    ∃ y, c.HomeAt k y ∧ x.answer req r = y.spkMod (agDie req.agent) (fun s => { s with dn := s.dn ++ [r] }) := by
  have hlat := h.noted (Chip.Noted.latReq x req)
  refine ⟨_, hlat, ?_⟩
  rw [Chip.answer, if_neg (by simp [hdie]), ← hto.2]
  exact hlat.sendMsg (hto.1.trans hpkg) (hto.2 ▸ hdie) (hto.2 ▸ hlive)

end Chip.HomeAt

/-! ### Its transaction opens -/

/-- A set with room reserves a way for the line. -/
theorem Chip.dirReserve_of_room {c : Chip} {line : Nat} (hdir : c.dirFind line = none) (hroom : c.dirFull line = false) :
    ∃ a, inSet line a ∧ c.dirReserve line = c.setDirM (SMap.set c.coh.dir a (DirEnt.unheld line)) := by
  obtain ⟨v, hv, hfree⟩ := List.all_eq_false.1 hroom
  obtain ⟨w, hw⟩ : ∃ w, (List.range 16).find? (fun w => (SMap.get? c.coh.dir (dirBase line + w)).isNone) = some w :=
    Option.isSome_iff_exists.1 (List.find?_isSome.2 ⟨v, hv, by simpa using hfree⟩)
  have hlt : w < 16 := List.mem_range.1 (List.mem_of_find?_eq_some hw)
  refine ⟨dirBase line + w, ⟨by omega, by omega⟩, ?_⟩
  unfold Chip.dirReserve
  rw [hdir, hw]
  rfl

/-- The directory once the request has reserved way `a` of its set, where it needs an entry (R182). -/
def Chip.reserved (c : Chip) (m : Msg) (a : Nat) : SMap DirEnt :=
  if m.allocates then SMap.set c.coh.dir a (DirEnt.unheld m.line) else c.coh.dir

theorem Chip.reserved_of_uncached (c : Chip) {m : Msg} (a : Nat) (h : m.allocates = false) : c.reserved m a = c.coh.dir := if_neg (by simp [h])

/-- The line still counts as unheld. -/
theorem Chip.HomeAt.dirEnt_reserved {c x : Chip} {k : CohSt} {m : Msg} {a : Nat} (h : c.HomeAt k x) (hk : k.dir = c.reserved m a)
    (hdir : c.dirFind m.line = none) (ha : inSet m.line a) : x.dirEnt m.line = DirEnt.unheld m.line := by
  unfold Chip.reserved at hk
  split at hk
  case isTrue => exact Chip.dirEnt_of_found (Chip.dirFind_set hdir ha rfl ((congrArg CohSt.dir h.coh).trans hk))
  case isFalse => exact Chip.dirEnt_of_none ((h.dirFind hk m.line).trans hdir)

/-- A request of an unheld line opens a transaction that snoops nobody. -/
theorem Chip.homeServe_of_room {c n : Chip} {m : Msg} {a : Nat} (hn : c.nrgEv domHubc 6 (c.keyOf m.agent m.tenant) 1 = n) (hdir : n.dirFind m.line = none)
    (ha : inSet m.line a) (hreserve : n.dirReserve m.line = n.setDirM (SMap.set n.coh.dir a (DirEnt.unheld m.line))) :
    c.homeServe m = ((n.setDirM (n.reserved m a)).txAdd (Tx.new m.line m)).txAdvance m.line := by
  have hfenced : n.ownerFenced (n.dirEnt m.line) = false := by
    rw [Chip.dirEnt_of_none hdir]
    rfl
  have hquiet : ∀ x : Chip, x.dirEnt m.line = DirEnt.unheld m.line →
      (x.txAdd (Tx.new m.line m)).txSnoops (x.dirEnt m.line) m = x.txAdd (Tx.new m.line m) := fun x hx => by
    rw [hx, Chip.txSnoops]
    exact if_pos (by simp [DirEnt.unheld])
  unfold Chip.homeServe Chip.reserved
  simp only [hn, hfenced, Bool.false_eq_true, if_false, hreserve]
  cases m.allocates
  case true =>
    have hfind := Chip.dirFind_set (x := n.setDirM (SMap.set n.coh.dir a (DirEnt.unheld m.line))) hdir ha rfl rfl
    have hset : (n.setDirM (SMap.set n.coh.dir a (DirEnt.unheld m.line))).setDirM
        (SMap.set (n.setDirM (SMap.set n.coh.dir a (DirEnt.unheld m.line))).coh.dir a { DirEnt.unheld m.line with age := 0 })
          = n.setDirM (SMap.set n.coh.dir a (DirEnt.unheld m.line)) :=
      congrArg n.setDirM (SMap.set_set n.coh.dir a (DirEnt.unheld m.line) (DirEnt.unheld m.line))
    simp only [if_true, hfind, hset, hquiet _ (Chip.dirEnt_of_found hfind)]
  case false =>
    simp only [Bool.false_eq_true, if_false, hdir, hquiet _ (Chip.dirEnt_of_none hdir)]
    rfl

namespace Chip.Asked

variable {c : Chip} {m : Msg} {q : List Msg} {w : Nat} {l : CLine}

/-- The home serves the request. -/
theorem homeReq (h : c.Asked m q w l) : c.homeReq m.typ m.line = ({ c with coh := { c.coh with homeQ := q } } : Chip).homeServe m := by
  have htouch : ({ c with coh := { c.coh with homeQ := q } } : Chip).touch m.line = { c with coh := { c.coh with homeQ := q } } :=
    Chip.touch_of_none h.dir
  have hfull : ({ c with coh := { c.coh with homeQ := q } } : Chip).dirFull m.line = false := h.room
  unfold Chip.homeReq Chip.homeOpen
  simp only [h.homeTake, htouch, hfull, Bool.and_false, Bool.false_eq_true, if_false]

theorem opens (h : c.Asked m q w l) :
    ∃ a y, inSet m.line a ∧ c.HomeAt (c.coh.opened q (Tx.new m.line m) (c.reserved m a) c.coh.hc) y ∧ c.homeReq m.typ m.line = y.txAdvance m.line := by
  generalize hn : ({ c with coh := { c.coh with homeQ := q } } : Chip).nrgEv domHubc 6
    (({ c with coh := { c.coh with homeQ := q } } : Chip).keyOf m.agent m.tenant) 1 = n
  have hat : c.HomeAt { c.coh with homeQ := q } n := hn ▸ (Chip.HomeAt.start c _).noted (Chip.Noted.nrgEv _ _ _ _ _)
  have hdir : n.dirFind m.line = none := (hat.dirFind rfl m.line).trans h.dir
  have hroom : n.dirFull m.line = false := by
    rw [Chip.dirFull, hat.coh]
    exact h.room
  obtain ⟨a, ha, hreserve⟩ := Chip.dirReserve_of_room hdir hroom
  refine ⟨a, _, ha, ?_, h.homeReq.trans (Chip.homeServe_of_room hn hdir ha hreserve)⟩
  have hreserved : n.reserved m a = c.reserved m a := by
    rw [Chip.reserved, hat.coh]
    rfl
  rw [Chip.setDirM, Chip.txAdd, hreserved, hat.coh]
  exact hat.withCoh _

end Chip.Asked

/-! ### Its answer -/

/-- A transaction that memory's copy has reached. -/
def Tx.fed (m : Msg) (ld : LD) : Tx := { Tx.new m.line m with wantMem := true, mem := some ld }

/-- The data for a requester, and the message without data. -/
def datMsg (m : Msg) (ld : LD) (grant yrw : Nat) : Msg :=
  { Msg.mk0 clsDat 0 m.line with
    tag := m.tag, agent := m.agent, tenant := m.tenant, secure := m.secure, yrw := yrw, aux := grant + (if grant = 0 then 0 else (m.aux % 8) * 4),
    dstPkg := agPkg m.agent, dstDie := agDie m.agent }.withLd ld

def grantMsg (m : Msg) : Msg :=
  { Msg.mk0 clsRsp tGrant m.line with
    tag := m.tag, agent := m.agent, tenant := m.tenant, secure := m.secure, dstPkg := agPkg m.agent, dstDie := agDie m.agent }

/-- The entry that registers the requester's cluster as the owner. -/
def Chip.ownedBy (c : Chip) (m : Msg) : DirEnt := { (DirEnt.unheld m.line).only c.pkg dX (cluOf m.agent) with age := 0 }

theorem dI_ne_dP : dI ≠ dP := by decide

/-- An UPG of an unheld line is served as an RD_X. -/
theorem servedAs_upg {line : Nat} {m : Msg} (h : m.typ = tUpg) : servedAs (DirEnt.unheld line) m = tRdX :=
  if_pos (by simp [h, upgOk, DirEnt.unheld, dI, dS, dO])

theorem servedAs_typ {line ty : Nat} {m : Msg} (h : m.typ = ty) (hty : ty ≠ tUpg) : servedAs (DirEnt.unheld line) m = ty :=
  (if_neg (by simp [h, hty])).trans h

/-! A request of a die that is not fenced is served by its type, where the line is not poisoned (R183). -/

section
variable {x : Chip} {t : Tx} {e : DirEnt} (hlive : x.fencedDie (agPkg t.req.agent) (agDie t.req.agent) = false) (hst : e.st ≠ dP)
include hlive hst

theorem Chip.finServe_rdS (hty : servedAs e t.req = tRdS) : x.finServe t e = x.finRdS t e := by
  simp [Chip.finServe, hty, hlive, hst]

theorem Chip.finServe_rdX (hty : servedAs e t.req = tRdX) : x.finServe t e = x.finRdX t e := by
  simp [Chip.finServe, hty, hlive, hst, tRdX, tRdS]

omit hst in
theorem Chip.finServe_claim (hty : servedAs e t.req = tClaim) :
    x.finServe t e = (x.dirPut { e.only x.pkg dX (cluOf t.req.agent) with age := 0 }).grantTo t.req := by
  simp [Chip.finServe, hty, hlive, tClaim, tUpg, tRdX, tRdS]

theorem Chip.finServe_rdNc (hty : servedAs e t.req = tRdNc) (hown : t.own = none) :
    x.finServe t e = (x.ownerGone t e).datTo t.req (t.mem.getD LD.bad) 0 false 0 := by
  simp [Chip.finServe, hty, hlive, hst, hown, tRdNc, tClaim, tUpg, tRdX, tRdS]

omit hst in
theorem Chip.finServe_wrNc (hty : servedAs e t.req = tWrNc) (hwhole : t.req.whole = true) :
    x.finServe t e = ((x.dirRemove t.line).hcWrite t.line t.req.ld t.req.yrw 0 t.req.agent (tenantKey t.req.tenant t.req.secure)).grantTo t.req := by
  simp [Chip.finServe, hty, hlive, hwhole, tWrNc, tRdNc, tClaim, tUpg, tRdX, tRdS]

end

/-- RD_S and RD_X make the requester the owner, and send it the data. -/
theorem Chip.finRdS_of_unheld (x : Chip) {m : Msg} {ld : LD} (hsound : ld.poison = false) :
    x.finRdS (Tx.fed m ld) (DirEnt.unheld m.line) = (x.dirPut (x.ownedBy m)).answer m (datMsg m ld grantE m.yrw) := by
  exact (if_neg fun hpoison => absurd (hsound.symm.trans hpoison) (by decide)).trans (if_pos (by simp [DirEnt.unheld]))

theorem Chip.finRdX_of_unheld (x : Chip) {m : Msg} {ld : LD} (hsound : ld.poison = false) :
    x.finRdX (Tx.fed m ld) (DirEnt.unheld m.line) = (x.dirPut (x.ownedBy m)).answer m (datMsg m ld grantM m.yrw) := by
  exact if_neg fun hpoison => absurd (hsound.symm.trans hpoison) (by decide)

/-- The requests that take the line with its data, and the state that each is granted. -/
theorem Chip.finServe_of_taken {x : Chip} {m : Msg} {ld : LD} {g : Nat} (hg : (m.typ, g) ∈ [(tRdS, grantE), (tRdX, grantM), (tUpg, grantM)])
    (hlive : x.fencedDie (agPkg m.agent) (agDie m.agent) = false) (hsound : ld.poison = false) :
    x.finServe (Tx.fed m ld) (DirEnt.unheld m.line) = (x.dirPut (x.ownedBy m)).answer m (datMsg m ld g m.yrw) := by
  simp only [List.mem_cons, Prod.mk.injEq, List.not_mem_nil, or_false] at hg
  rcases hg with ⟨htyp, rfl⟩ | ⟨htyp, rfl⟩ | ⟨htyp, rfl⟩
  · exact (Chip.finServe_rdS (t := Tx.fed m ld) hlive dI_ne_dP (servedAs_typ htyp (by decide))).trans (x.finRdS_of_unheld hsound)
  · exact (Chip.finServe_rdX (t := Tx.fed m ld) hlive dI_ne_dP (servedAs_typ htyp (by decide))).trans (x.finRdX_of_unheld hsound)
  · exact (Chip.finServe_rdX (t := Tx.fed m ld) hlive dI_ne_dP (servedAs_upg htyp)).trans (x.finRdX_of_unheld hsound)

theorem Chip.finServe_of_claim {x : Chip} {m : Msg} (htyp : m.typ = tClaim) (hlive : x.fencedDie (agPkg m.agent) (agDie m.agent) = false) :
    x.finServe (Tx.new m.line m) (DirEnt.unheld m.line) = (x.dirPut (x.ownedBy m)).answer m (grantMsg m) :=
  Chip.finServe_claim (t := Tx.new m.line m) hlive (servedAs_typ htyp (by decide))

/-- An uncached read registers nobody. -/
theorem Chip.finServe_of_rdNc {x : Chip} {m : Msg} {ld : LD} (htyp : m.typ = tRdNc) (hlive : x.fencedDie (agPkg m.agent) (agDie m.agent) = false) :
    x.finServe (Tx.fed m ld) (DirEnt.unheld m.line) = x.answer m (datMsg m ld 0 0) :=
  Chip.finServe_rdNc (t := Tx.fed m ld) hlive dI_ne_dP (servedAs_typ htyp (by decide)) rfl

/-- An uncached write of the whole line goes to the hub cache. -/
theorem Chip.finServe_of_wrNc {x : Chip} {m : Msg} (htyp : m.typ = tWrNc) (hmask : m.mask = none) (hdir : x.dirFind m.line = none)
    (hlive : x.fencedDie (agPkg m.agent) (agDie m.agent) = false) :
    x.finServe (Tx.new m.line m) (DirEnt.unheld m.line)
      = (x.hcWrite m.line m.ld m.yrw 0 m.agent (tenantKey m.tenant m.secure)).answer m (grantMsg m) := by
  have hserve := Chip.finServe_wrNc (t := Tx.new m.line m) (e := DirEnt.unheld m.line) hlive (servedAs_typ htyp (by decide)) (congrArg Option.isNone hmask)
  rw [hserve, show x.dirRemove (Tx.new m.line m).line = x from Chip.dirRemove_of_none hdir]
  rfl

/-! ### The transaction is done -/

/-- Reads need memory's copy of a line that nobody holds; a CLAIM, and a write of the whole line, do not. -/
theorem Tx.needsMem_of_read {m : Msg} (hcls : m.cls = clsReq) (htyp : m.typ = tRdS ∨ m.typ = tRdX ∨ m.typ = tUpg ∨ m.typ = tRdNc) :
    (Tx.new m.line m).needsMem (DirEnt.unheld m.line) = true := by
  have hty : servedAs (DirEnt.unheld m.line) m = tRdS ∨ servedAs (DirEnt.unheld m.line) m = tRdX ∨ servedAs (DirEnt.unheld m.line) m = tRdNc := by
    rcases htyp with htyp | htyp | htyp | htyp
    · exact .inl (servedAs_typ htyp (by decide))
    · exact .inr (.inl (servedAs_typ htyp (by decide)))
    · exact .inr (.inl (servedAs_upg htyp))
    · exact .inr (.inr (servedAs_typ htyp (by decide)))
  have hopen : ¬ ((Tx.new m.line m).victim || (Tx.new m.line m).poisoned || (DirEnt.unheld m.line).st == dP || (Tx.new m.line m).req.cls == clsNone) = true := by
    simp [Tx.new, DirEnt.unheld, hcls, dI, dP, clsReq, clsNone]
  refine (if_neg hopen).trans (if_pos ?_)
  simp only [Bool.or_eq_true, decide_eq_true_eq, or_assoc]
  exact hty

theorem Tx.needsMem_of_claim {m : Msg} (htyp : m.typ = tClaim) : (Tx.new m.line m).needsMem (DirEnt.unheld m.line) = false := by
  have hty : servedAs (DirEnt.unheld m.line) (Tx.new m.line m).req = tClaim := servedAs_typ htyp (by decide)
  simp [Tx.needsMem, hty, tClaim, tRdS, tRdX, tRdNc, tWrNc]

theorem Tx.needsMem_of_wrNc {m : Msg} (htyp : m.typ = tWrNc) (hmask : m.mask = none) : (Tx.new m.line m).needsMem (DirEnt.unheld m.line) = false := by
  have hty : servedAs (DirEnt.unheld m.line) (Tx.new m.line m).req = tWrNc := servedAs_typ htyp (by decide)
  have hwhole : (Tx.new m.line m).req.whole = true := congrArg Option.isNone hmask
  simp [Tx.needsMem, hty, hwhole, tRdS, tRdX, tRdNc, tWrNc]

/-- A fresh transaction that needs no data of memory is served. -/
theorem Chip.txAdvance_of_new {x : Chip} {m : Msg} (htx : x.txOf m.line = some (Tx.new m.line m)) (hcls : m.cls = clsReq)
    (hneeds : (Tx.new m.line m).needsMem (x.dirEnt m.line) = false) :
    x.txAdvance m.line = (x.finServe (Tx.new m.line m) (x.dirEnt m.line)).txMod m.line (fun t => { t with done := true }) := by
  have hreq : ¬ (Tx.new m.line m).req.cls = clsNone := by
    rw [show (Tx.new m.line m).req.cls = m.cls from rfl, hcls]
    decide
  unfold Chip.txAdvance
  simp only [htx, hneeds, hreq, if_false, Bool.false_eq_true]
  rfl

/-- One that needs them is served as soon as they are there. -/
theorem Chip.txAdvance_of_fed {x y : Chip} {m : Msg} {ld : LD} (htx : x.txOf m.line = some (Tx.new m.line m)) (hcls : m.cls = clsReq)
    (hneeds : (Tx.new m.line m).needsMem (x.dirEnt m.line) = true) (hask : x.memAsk (Tx.new m.line m) = y) (hfed : y.txOf m.line = some (Tx.fed m ld)) :
    x.txAdvance m.line = (y.finServe (Tx.fed m ld) (x.dirEnt m.line)).txMod m.line (fun t => { t with done := true }) := by
  have hreq : ¬ (Tx.new m.line m).req.cls = clsNone := by
    rw [show (Tx.new m.line m).req.cls = m.cls from rfl, hcls]
    decide
  unfold Chip.txAdvance
  simp only [htx, hneeds, hreq, if_false, if_true, hask, hfed]
  rfl

/-- The home has answered `r`, and its transaction is done. -/
def Chip.Answered (c : Chip) (m : Msg) (q : List Msg) (dir : SMap DirEnt) (hc : SMap CLine) (r : Msg) (z : Chip) : Prop :=
  ∃ y t, t.line = m.line ∧ t.done = true ∧ c.HomeAt (c.coh.opened q t dir hc) y
    ∧ z = y.spkMod (agDie m.agent) (fun s => { s with dn := s.dn ++ [r] })

namespace Chip.Asked

variable {c x : Chip} {m r : Msg} {q : List Msg} {w : Nat} {l : CLine} {t : Tx} {dir : SMap DirEnt} {hc : SMap CLine}

theorem answered (h : c.Asked m q w l) (hx : c.HomeAt (c.coh.opened q t dir hc) x) (ht : t.line = m.line) (hto : r.dstPkg = agPkg m.agent ∧ r.dstDie = agDie m.agent) :
    c.Answered m q dir hc r ((x.answer m r).txMod m.line (fun t => { t with done := true })) := by
  obtain ⟨y, hy, hsend⟩ := hx.answer h.pkg h.die h.live hto
  have hidle : c.txOf t.line = none := Chip.txOf_of_idle (ht ▸ h.idle)
  refine ⟨_, { t with done := true }, ht, rfl, hy.txMod hidle fun t => { t with done := true }, ?_⟩
  rw [hsend, ht]
  rfl

/-- The hub cache feeds the transaction. -/
theorem memAsk (h : c.Asked m q w l) (hx : c.HomeAt (c.coh.opened q (Tx.new m.line m) dir c.coh.hc) x) :
    ∃ hc, c.HomeAt (c.coh.opened q (Tx.fed m l.ld) dir hc) (x.memAsk (Tx.new m.line m)) := by
  have hidle : c.txOf (Tx.new m.line m).line = none := Chip.txOf_of_idle h.idle
  generalize hy : x.txMod (Tx.new m.line m).line (fun t => { t with wantMem := true }) = y
  have hat : c.HomeAt (c.coh.opened q { Tx.new m.line m with wantMem := true } dir c.coh.hc) y := hy ▸ hx.txMod hidle fun t => { t with wantMem := true }
  have hfind : y.hcFind m.line = some (w, l) := (hat.hcFind rfl m.line).trans h.found
  have hwait : y.hcWaitOf m.line = none := (hat.hcWaitOf rfl m.line).trans h.wait
  obtain ⟨hc, z, hz, hread⟩ : ∃ hc z, c.HomeAt (c.coh.opened q { Tx.new m.line m with wantMem := true } dir hc) z ∧ y.hcRead m.line m.old = (some l.ld, z) := by
    unfold Chip.hcRead
    simp only [Chip.hcCheck_of_found hfind h.flaw, hwait, hfind]
    split
    · exact ⟨_, _, hat, rfl⟩
    · refine ⟨SMap.set c.coh.hc w { l with age := 0 }, _, ?_, rfl⟩
      rw [Chip.setHcM, hat.coh]
      exact hat.withCoh _
  refine ⟨hc, ?_⟩
  have hnote := (hz.noted (Chip.Noted.hcNote z false true m.agent (tenantKey m.tenant m.secure))).txMod hidle fun t => { t with mem := some l.ld }
  have hread' : y.hcRead (Tx.new m.line m).line (Tx.new m.line m).req.old = (some l.ld, z) := hread
  unfold Chip.memAsk
  simp only [hy, hread']
  exact hnote

/-- The served transaction's state is the next one. -/
theorem next {s : State} {f : Chip → Chip} (h : s.chip.Asked m q w l) (hs : s.chip.halted = false)
    (hz : s.chip.Answered m q dir hc r (f s.chip)) :
    ∃ t, s.run f = .next t ∧ t.pending = s.pending ∧ (t.chip.spkOf (agDie m.agent)).dn = (s.chip.spkOf (agDie m.agent)).dn ++ [r]
      ∧ t.chip.coh.dir = dir ∧ t.chip.coh.hc = hc ∧ t.chip.coh.homeQ = q ∧ (∃ x, t.chip.txOf m.line = some x ∧ x.done = true) ∧ SameMemory s.chip t.chip := by
  obtain ⟨y, x, hline, hdone, hy, hf⟩ := hz
  obtain ⟨t, hrun, hpend, hsent, hcoh, hmem⟩ := State.home_next hs hf hy
  refine ⟨t, hrun, hpend, hsent, by rw [hcoh]; rfl, by rw [hcoh]; rfl, by rw [hcoh]; rfl, ⟨x, ?_, hdone⟩, hmem⟩
  have htx := hy.txOf (Chip.txOf_of_idle (hline ▸ h.idle))
  rw [hline] at htx
  rw [← htx, Chip.txOf, hcoh, Chip.txOf, hy.coh]

/-- A request that needs no data of memory is served as it opens. -/
theorem served (h : c.Asked m q w l) (hneeds : (Tx.new m.line m).needsMem (DirEnt.unheld m.line) = false) :
    ∃ a y, inSet m.line a ∧ c.HomeAt (c.coh.opened q (Tx.new m.line m) (c.reserved m a) c.coh.hc) y
      ∧ c.homeReq m.typ m.line = (y.finServe (Tx.new m.line m) (DirEnt.unheld m.line)).txMod m.line (fun t => { t with done := true }) := by
  obtain ⟨a, y, ha, hy, hreq⟩ := h.opens
  have hent : y.dirEnt m.line = DirEnt.unheld m.line := hy.dirEnt_reserved rfl h.dir ha
  have hadvance := Chip.txAdvance_of_new (hy.txOf (Chip.txOf_of_idle h.idle)) h.cls (hent ▸ hneeds)
  rw [hent] at hadvance
  exact ⟨a, y, ha, hy, hreq.trans hadvance⟩

/-- One that needs them finds them in the hub cache. -/
theorem servedFed (h : c.Asked m q w l) (hneeds : (Tx.new m.line m).needsMem (DirEnt.unheld m.line) = true) :
    ∃ a hc y, inSet m.line a ∧ c.HomeAt (c.coh.opened q (Tx.fed m l.ld) (c.reserved m a) hc) y
      ∧ c.homeReq m.typ m.line = (y.finServe (Tx.fed m l.ld) (DirEnt.unheld m.line)).txMod m.line (fun t => { t with done := true }) := by
  obtain ⟨a, y, ha, hy, hreq⟩ := h.opens
  have hent : y.dirEnt m.line = DirEnt.unheld m.line := hy.dirEnt_reserved rfl h.dir ha
  obtain ⟨hc, hfed⟩ := h.memAsk hy
  have hidle : c.txOf m.line = none := Chip.txOf_of_idle h.idle
  have hadvance := Chip.txAdvance_of_fed (hy.txOf hidle) h.cls (hent ▸ hneeds) rfl (hfed.txOf hidle)
  rw [hent] at hadvance
  exact ⟨a, hc, _, ha, hfed, hreq.trans hadvance⟩

/-- The way that the request reserved registers its owner. -/
theorem registers (h : c.Asked m q w l) {a : Nat} (hx : c.HomeAt (c.coh.opened q t (c.reserved m a) hc) x) (ha : inSet m.line a)
    (halloc : m.allocates = true) : c.HomeAt (c.coh.opened q t (SMap.set c.coh.dir a (c.ownedBy m)) hc) (x.dirPut (x.ownedBy m)) := by
  have howned : x.ownedBy m = c.ownedBy m := by
    rw [Chip.ownedBy, hx.pkg]
    rfl
  rw [Chip.reserved, if_pos halloc] at hx
  rw [howned]
  exact hx.dirPut (e' := c.ownedBy m) h.dir ha rfl rfl rfl

/-- The requests that take the line with its data are sent them. -/
theorem takes {g : Nat} (h : c.Asked m q w l) (hg : (m.typ, g) ∈ [(tRdS, grantE), (tRdX, grantM), (tUpg, grantM)]) :
    ∃ a hc, inSet m.line a ∧ c.Answered m q (SMap.set c.coh.dir a (c.ownedBy m)) hc (datMsg m l.ld g m.yrw) (c.homeReq m.typ m.line) := by
  have htyp : m.typ = tRdS ∨ m.typ = tRdX ∨ m.typ = tUpg := by
    simp only [List.mem_cons, Prod.mk.injEq, List.not_mem_nil, or_false] at hg
    exact hg.imp And.left (Or.imp And.left And.left)
  have halloc : m.allocates = true := by
    rcases htyp with htyp | htyp | htyp <;> simp [Msg.allocates, h.cls, htyp]
  obtain ⟨a, hc, y, ha, hy, hserved⟩ := h.servedFed (Tx.needsMem_of_read h.cls (htyp.imp_right (Or.imp_right Or.inl)))
  rw [Chip.finServe_of_taken hg (h.requester hy) h.sound] at hserved
  refine ⟨a, hc, ha, ?_⟩
  rw [hserved]
  exact h.answered (h.registers hy ha halloc) rfl ⟨rfl, rfl⟩

/-- CLAIM is granted the line without data. -/
theorem claims (h : c.Asked m q w l) (htyp : m.typ = tClaim) :
    ∃ a, inSet m.line a ∧ c.Answered m q (SMap.set c.coh.dir a (c.ownedBy m)) c.coh.hc (grantMsg m) (c.homeReq m.typ m.line) := by
  have halloc : m.allocates = true := by simp [Msg.allocates, h.cls, htyp]
  obtain ⟨a, y, ha, hy, hserved⟩ := h.served (Tx.needsMem_of_claim htyp)
  rw [Chip.finServe_of_claim htyp (h.requester hy)] at hserved
  refine ⟨a, ha, ?_⟩
  rw [hserved]
  exact h.answered (h.registers hy ha halloc) rfl ⟨rfl, rfl⟩

/-- RD_NC is sent the data and leaves the directory alone. -/
theorem reads (h : c.Asked m q w l) (htyp : m.typ = tRdNc) :
    ∃ hc, c.Answered m q c.coh.dir hc (datMsg m l.ld 0 0) (c.homeReq m.typ m.line) := by
  have halloc : m.allocates = false := by simp [Msg.allocates, htyp, tRdNc, tRdS, tRdX, tUpg, tClaim]
  obtain ⟨a, hc, y, -, hy, hserved⟩ := h.servedFed (Tx.needsMem_of_read h.cls (.inr (.inr (.inr htyp))))
  rw [Chip.finServe_of_rdNc htyp (h.requester hy)] at hserved
  rw [c.reserved_of_uncached a halloc] at hy
  refine ⟨hc, ?_⟩
  rw [hserved]
  exact h.answered hy rfl ⟨rfl, rfl⟩

/-- WR_NC of the whole line leaves its data in the hub cache. -/
theorem writes (h : c.Asked m q w l) (htyp : m.typ = tWrNc) (hmask : m.mask = none) :
    c.Answered m q c.coh.dir (SMap.set c.coh.hc w (l.rewritten m.ld m.yrw 0)) (grantMsg m) (c.homeReq m.typ m.line) := by
  have halloc : m.allocates = false := by simp [Msg.allocates, htyp, tWrNc, tRdS, tRdX, tUpg, tClaim]
  obtain ⟨a, y, -, hy, hserved⟩ := h.served (Tx.needsMem_of_wrNc htyp hmask)
  rw [c.reserved_of_uncached a halloc] at hy
  rw [Chip.finServe_of_wrNc htyp hmask ((hy.dirFind rfl m.line).trans h.dir) (h.requester hy)] at hserved
  have hwrite := hy.hcWrite ((hy.hcFind rfl m.line).trans h.found) h.flaw m.ld m.yrw 0 m.agent (tenantKey m.tenant m.secure)
  have hfills : (c.coh.opened q (Tx.new m.line m) c.coh.dir c.coh.hc).hcFills.filter (fun f => f.line != m.line) = c.coh.hcFills :=
    Chip.hcFills_of_none h.wait
  rw [hfills] at hwrite
  rw [hserved]
  exact h.answered (t := Tx.new m.line m) hwrite rfl ⟨rfl, rfl⟩

end Chip.Asked

/-- The commands of those requests. -/
theorem exec_request {s : State} {line : BitVec 46} {m : Msg} {i : Instr} (hline : m.line = line.toNat)
    (hi : (i, m.typ) ∈ [(Instr.rdS line 0, tRdS), (.rdX line, tRdX), (.upg line, tUpg), (.claim line, tClaim), (.rdNc line, tRdNc), (.wrNc line, tWrNc)]) :
    exec i s = s.run (fun c => c.homeReq m.typ m.line) := by
  rw [hline]
  simp only [List.mem_cons, Prod.mk.injEq, List.not_mem_nil, or_false] at hi
  rcases hi with ⟨rfl, h⟩ | ⟨rfl, h⟩ | ⟨rfl, h⟩ | ⟨rfl, h⟩ | ⟨rfl, h⟩ | ⟨rfl, h⟩ <;> rw [h] <;> rfl

theorem datMsg_grant (m : Msg) (ld : LD) {g : Nat} (hg : g < 4) (yrw : Nat) : (datMsg m ld g yrw).aux % 4 = g := by
  show (g + if g = 0 then 0 else m.aux % 8 * 4) % 4 = g
  split <;> omega

/-- The entry registered is found. -/
theorem Chip.Asked.owner {c x : Chip} {m : Msg} {q : List Msg} {w a : Nat} {l : CLine} (h : c.Asked m q w l) (ha : inSet m.line a)
    (hx : x.coh.dir = SMap.set c.coh.dir a (c.ownedBy m)) : (x.dirEnt m.line).st = dX ∧ (x.dirEnt m.line).ptrs = [cluOf m.agent] := by
  rw [Chip.dirEnt_of_found (Chip.dirFind_set h.dir ha rfl hx)]
  exact ⟨rfl, rfl⟩

end Sys2Proof.Machine

open Sys2Proof Sys2Proof.Machine

/-- Settles O6: the request opens a transaction that snoops nobody, which is served with what the hub cache holds and answered in the same step. -/
theorem homeServesUnheldLine : Obligations.HomeServesUnheldLine := by
  unfold Obligations.HomeServesUnheldLine
  intro s line m q k l hs hidle htake hline hcls htaken hdir hroom hwait hfound hsound hflaw hpkg hdie hlive
  rw [← hline] at hidle htake htaken hdir hroom hwait hfound
  have h : s.chip.Asked m q k l := ⟨hidle, htake, hcls, htaken, hdir, hroom, hwait, hfound, hsound, hflaw, hpkg, hdie, hlive⟩
  rw [← hline]
  refine ⟨fun p hp htyp => ?take, fun htyp => ?claim, fun htyp => ?read, fun htyp hmask => ?write⟩
  case take =>
    obtain ⟨i, ty, g⟩ := p
    obtain ⟨hi, hg, hlt⟩ : (i, ty) ∈ [(Instr.rdS line 0, tRdS), (.rdX line, tRdX), (.upg line, tUpg)]
        ∧ (ty, g) ∈ [(tRdS, grantE), (tRdX, grantM), (tUpg, grantM)] ∧ g < 4 := by
      simp only [List.mem_cons, Prod.mk.injEq, List.not_mem_nil, or_false] at hp
      rcases hp with ⟨rfl, rfl, rfl⟩ | ⟨rfl, rfl, rfl⟩ | ⟨rfl, rfl, rfl⟩ <;> simp [grantE, grantM]
    subst htyp
    obtain ⟨a, hc, ha, hz⟩ := h.takes hg
    obtain ⟨t, hrun, hpend, hsent, hdir', -, hq, hdone, hmem⟩ := h.next (f := fun c => c.homeReq m.typ m.line) hs hz
    obtain ⟨hst, hptrs⟩ := h.owner ha hdir'
    exact ⟨t, _, (exec_request hline (List.mem_append_left _ hi)).trans hrun, hpend, hsent, rfl, rfl, rfl, datMsg_grant _ _ hlt _, rfl, hsound, hst, hptrs, hq, hdone, hmem⟩
  case claim =>
    obtain ⟨a, ha, hz⟩ := h.claims htyp
    obtain ⟨t, hrun, hpend, hsent, hdir', -, hq, hdone, hmem⟩ := h.next (f := fun c => c.homeReq m.typ m.line) hs hz
    obtain ⟨hst, hptrs⟩ := h.owner ha hdir'
    exact ⟨t, _, (exec_request hline (by simp [htyp])).trans hrun, hpend, hsent, rfl, rfl, rfl, rfl, hst, hptrs, hq, hdone, hmem⟩
  case read =>
    obtain ⟨hc, hz⟩ := h.reads htyp
    obtain ⟨t, hrun, hpend, hsent, hdir', -, hq, hdone, hmem⟩ := h.next (f := fun c => c.homeReq m.typ m.line) hs hz
    exact ⟨t, _, (exec_request hline (by simp [htyp])).trans hrun, hpend, hsent, rfl, rfl, rfl, datMsg_grant _ _ (by decide) _, rfl, hsound, hdir', hq,
      hdone, hmem⟩
  case write =>
    obtain ⟨t, hrun, hpend, hsent, hdir', hhc, hq, hdone, hmem⟩ := h.next (f := fun c => c.homeReq m.typ m.line) hs (h.writes htyp hmask)
    refine ⟨t, _, (exec_request hline (by simp [htyp])).trans hrun, hpend, hsent, rfl, rfl, rfl, rfl, ?_, hdir', hq, hdone, hmem⟩
    rw [hhc]
    exact SMap.get?_set_self _ _ _
end

section
/-! A channel's queues and its arbiter (R205 to R208, R316): what each step of theirs leaves unchanged. -/
namespace Sys2Proof.Machine

/-! ### A controller's hidden state -/

@[simp] theorem Chip.mcOf_mcSet_self (c : Chip) (ch : Nat) (m : McSt) : (c.mcSet ch m).mcOf ch = m := SMap.getD_put_self _ _ _ _

theorem CountedOnly.mcOf {a b : Chip} {l : List Fld} (h : CountedOnly a b l) (ch : Nat) : b.mcOf ch = a.mcOf ch := by
  rw [h.rest]
  rfl

theorem CountedOnly.mono {a b : Chip} {l m : List Fld} (h : CountedOnly a b l) (hm : ∀ f ∈ l, f ∈ m) : CountedOnly a b m :=
  ⟨h.rest, fun f hp hf => h.regs f hp (fun g hg => hf g (hm g hg)), h.shadow⟩

theorem CountedOnly.of_only {a b : Chip} {l : List Fld} (h : OnlyFields a b l) : CountedOnly a b l :=
  ⟨by rw [h.rest], fun f _ hf => h.regs f hf, h.shadow⟩

/-- The occupancies and the write drain of a channel's queues. -/
def queueFields (ch : Nat) : List Fld := [Reg.MC_STATUS.RQ ch, Reg.MC_STATUS.WQ ch, Reg.MC_STATUS.DRAIN ch]

theorem Chip.mcSync_fields (c : Chip) (ch : Nat) : OnlyFields c (c.mcSync ch) (queueFields ch) := by
  have hlen : OnlyFields c (c.puts [(Reg.MC_STATUS.RQ ch, (c.mcOf ch).rq.length), (Reg.MC_STATUS.WQ ch, (c.mcOf ch).wq.length)]) (queueFields ch) :=
    OnlyFields.puts _ _ (by simp [queueFields])
  have hdrain (v : Nat) (e : Chip) : OnlyFields e (e.put (Reg.MC_STATUS.DRAIN ch) v) (queueFields ch) :=
    OnlyFields.puts e [(Reg.MC_STATUS.DRAIN ch, v)] (by simp [queueFields])
  unfold Chip.mcSync
  dsimp only
  split_ifs
  · exact hlen.trans (hdrain 1 _)
  · exact hlen.trans (hdrain 0 _)
  · exact hlen

theorem Chip.mcOf_mcSync (c : Chip) (ch k : Nat) : (c.mcSync ch).mcOf k = c.mcOf k := (CountedOnly.of_only (c.mcSync_fields ch)).mcOf k

/-- The block of the channel controllers holds no performance counter. -/
theorem pmuFld_mc {f : Fld} (h : 8 * 0xC3000000 ≤ f.addr ∧ f.addr < 8 * 0xC4000000) : pmuFld f = false := by
  unfold pmuFld
  simp only [Bool.or_eq_false_iff, Bool.and_eq_false_iff, decide_eq_false_iff_not]
  omega

/-! ### What an arbiter's round leaves -/

/-- The fields of an arbiter that count its candidates, its rounds and what starves. -/
def arbFields (g : Nat) : List Fld :=
  [Reg.ARB_STATUS.CAND g, Reg.ARB_STATUS.WAITING g, Reg.ARB_STARVE.ENT g, Reg.ARB_STARVE.VALID g, Reg.ARB_STARVE_CNT.COUNT g,
   Reg.ARB_STARVE_CNT.ROUNDS g]

/-- Beside what is counted, only the regulators' hidden state differs. -/
def Chip.Arbitrated (a b : Chip) (g : Nat) : Prop := CountedOnly { a with rg := b.rg } b (arbFields g)

namespace Chip.Arbitrated

variable {a b c : Chip} {g : Nat}

theorem refl (c : Chip) (g : Nat) : c.Arbitrated c g := (CountedOnly.refl c).mono (by simp)

theorem trans (h : a.Arbitrated b g) (k : b.Arbitrated c g) : a.Arbitrated c g := by
  obtain ⟨h1, h2, h3⟩ := h
  obtain ⟨k1, k2, k3⟩ := k
  refine ⟨?_, fun f hp hf => (k2 f hp hf).trans (h2 f hp hf), k3.trans h3⟩
  rw [h1] at k1
  exact k1

theorem of_counted (h : CountedOnly a b (arbFields g)) : a.Arbitrated b g := by
  have hrg : b.rg = a.rg := by rw [h.rest]
  unfold Chip.Arbitrated
  rwa [hrg]

theorem setRg (c : Chip) (r : RegSt) (g : Nat) : c.Arbitrated { c with rg := r } g := ⟨rfl, fun _ _ _ => rfl, rfl⟩

theorem put (c : Chip) {f : Fld} (v : Nat) (h : f ∈ arbFields g) : c.Arbitrated (c.put f v) g :=
  of_counted (CountedOnly.of_only (OnlyFields.puts c [(f, v)] (by simpa using h)))

theorem ite {p : Prop} [Decidable p] (h : a.Arbitrated b g) (k : b.Arbitrated c g) : a.Arbitrated (if p then c else b) g := by
  split
  · exact h.trans k
  · exact h

theorem foldl {α : Type} {f : Chip → α → Chip} (h : ∀ (e : Chip) (x : α), e.Arbitrated (f e x) g) (l : List α) (c : Chip) :
    c.Arbitrated (l.foldl f c) g := by
  induction l generalizing c with
  | nil => exact refl c g
  | cons x l ih => exact (h c x).trans (ih _)

theorem mcOf (h : a.Arbitrated b g) (ch : Nat) : b.mcOf ch = a.mcOf ch := CountedOnly.mcOf h ch

/-- The registers of the channel controllers and of the power control stand. -/
theorem get (h : a.Arbitrated b g) {f : Fld} (hp : pmuFld f = false) (hf : f.addr < 8 * 0xC8800000 ∨ 8 * 0xC9000000 ≤ f.addr) (hg : g < 12) :
    b.get f = a.get f := by
  refine CountedOnly.regs h f hp ?_
  simp only [arbFields, List.forall_mem_cons, Reg.ARB_STATUS.CAND, Reg.ARB_STATUS.WAITING, Reg.ARB_STARVE.ENT, Reg.ARB_STARVE.VALID,
    Reg.ARB_STARVE_CNT.COUNT, Reg.ARB_STARVE_CNT.ROUNDS, mkFld]
  refine ⟨?_, ?_, ?_, ?_, ?_, ?_, by simp⟩ <;> omega

theorem arbSync (c : Chip) (g : Nat) (reqs : List ArbReq) : c.Arbitrated (c.arbSync g reqs) g := by
  unfold Chip.arbSync
  dsimp only
  split
  · exact refl c g
  · exact ((setRg c _ g).trans (put _ _ (by simp [arbFields]))).trans (put _ _ (by simp [arbFields]))

theorem starveFlag (c : Chip) (g ent : Nat) : c.Arbitrated (c.starveFlag g ent) g := by
  have hcount (e : Chip) (n : Nat) : e.Arbitrated (e.count (Reg.ARB_STARVE_CNT.COUNT g) n) g := put e _ (by simp [arbFields])
  have hirq (e : Chip) : e.Arbitrated (e.irqReg (Reg.ARB_IRQ.AGENT g) (Reg.ARB_IRQ.VEC g) (Reg.ARB_IRQ.EN g)) g :=
    of_counted ((CountedOnly.irqReg e _ _ _).mono (by simp))
  have hlog : c.Arbitrated (if c.on (Reg.ARB_STARVE.VALID g) then c else c.puts [(Reg.ARB_STARVE.ENT g, ent), (Reg.ARB_STARVE.VALID g, 1)]) g := by
    split
    · exact refl c g
    · exact (put c _ (by simp [arbFields])).trans (put _ _ (by simp [arbFields]))
  exact (hlog.trans (hcount _ 1)).trans (hirq _)

theorem evHub (c : Chip) {g : Nat} (ev : Nat) (hg : g < 12) : c.Arbitrated (c.evHub (ugArb g) ev 1 evNone) g :=
  of_counted ((c.evHub_counted ev 1 evNone (by unfold ugArb; omega)).mono (by simp))

theorem arbCount (c : Chip) {g : Nat} (reqs : List ArbReq) (win : ArbReq) (hg : g < 12) : c.Arbitrated (c.arbCount g reqs win) g := by
  have hround (e : Chip) : e.Arbitrated ((e.count (Reg.ARB_STARVE_CNT.ROUNDS g) 1).evHub (ugArb g) 0xD0 1 evNone) g :=
    (put e _ (by simp [arbFields])).trans (evHub _ _ hg)
  unfold Chip.arbCount
  refine (((setRg c _ g).trans (hround _)).ite (evHub _ _ hg)).trans (foldl (fun e x => ?_) _ _)
  exact starveFlag e g x.ent

theorem rsvPass (c : Chip) (m g : Nat) : c.Arbitrated (c.rsvPass m g) g := by
  unfold Chip.rsvPass
  refine foldl (fun e k => ?_) _ _
  split
  · exact setRg e _ g
  · exact refl e g

theorem arbRound (c : Chip) {g : Nat} (all reqs : List ArbReq) (hg : g < 12) : c.Arbitrated (c.arbRound g all reqs).2 g := by
  unfold Chip.arbRound
  dsimp only
  split
  · exact arbSync c g all
  · exact ((arbSync c g all).trans (arbCount _ reqs _ hg)).ite (rsvPass _ _ g)

end Chip.Arbitrated

/-! ### The winner enters its channel's queue -/

/-- Beside what is counted, only the hidden state of channels and regulators differs. -/
def Chip.Served (a b : Chip) (l : List Fld) : Prop := CountedOnly { a with mc := b.mc, rg := b.rg } b l

namespace Chip.Served

variable {a b c : Chip} {l : List Fld}

theorem trans (h : a.Served b l) (k : b.Served c l) : a.Served c l := by
  obtain ⟨h1, h2, h3⟩ := h
  obtain ⟨k1, k2, k3⟩ := k
  refine ⟨?_, fun f hp hf => (k2 f hp hf).trans (h2 f hp hf), k3.trans h3⟩
  rw [h1] at k1
  exact k1

theorem of_arbitrated {g : Nat} (h : a.Arbitrated b g) (hl : ∀ f ∈ arbFields g, f ∈ l) : a.Served b l := by
  have hmc : b.mc = a.mc := by rw [CountedOnly.rest h]
  unfold Chip.Served
  rw [hmc]
  exact CountedOnly.mono h hl

theorem of_only (h : OnlyFields a b l) : a.Served b l := by
  have hmc : b.mc = a.mc := by rw [h.rest]
  have hrg : b.rg = a.rg := by rw [h.rest]
  unfold Chip.Served
  rw [hmc, hrg]
  exact CountedOnly.of_only h

theorem mcSet (c : Chip) (ch : Nat) (m : McSt) (l : List Fld) : c.Served (c.mcSet ch m) l := ⟨rfl, fun _ _ _ => rfl, rfl⟩

end Chip.Served

/-- The package once the arbiter of group g has chosen request r of channel ch, which stands first on the hub's path then. -/
def Chip.arbChose (c : Chip) (g ch : Nat) (r : McReq) : Chip :=
  (c.arbRound g (c.groupReqs g) (c.groupReqs g)).2.mcMod ch (fun m => { m with inq := r :: m.inq.filter (fun x => x.seq != r.seq) })

theorem Chip.arbChose_served (c : Chip) {g : Nat} (ch : Nat) (r : McReq) {l : List Fld} (hg : g < 12) (hl : ∀ f ∈ arbFields g, f ∈ l) :
    c.Served (c.arbChose g ch r) l :=
  (Chip.Served.of_arbitrated (Chip.Arbitrated.arbRound c _ _ hg) hl).trans (Chip.Served.mcSet _ ch _ l)

theorem Chip.arbChose_mcOf (c : Chip) {g : Nat} (ch : Nat) (r : McReq) (hg : g < 12) :
    (c.arbChose g ch r).mcOf ch = { c.mcOf ch with inq := r :: (c.mcOf ch).inq.filter (fun x => x.seq != r.seq) } := by
  rw [Chip.arbChose, Chip.mcOf_mcMod_self, (Chip.Arbitrated.arbRound c _ _ hg).mcOf]

theorem Chip.mcEnter_of_next {c : Chip} {ch g : Nat} {r : McReq} (hg : ch / 4 = g) (h : c.arbNext g = some (ch, r)) :
    c.mcEnter ch r.write.isSome
      = (let d := if r.write.isSome then (c.arbChose g ch r).mcWriteReq ch else (c.arbChose g ch r).mcRead ch; d.arbSync g (d.groupReqs g)) := by
  unfold Chip.mcEnter Chip.arbGroup
  rw [hg, h]
  simp only [beq_self_eq_true, Bool.and_true, decide_true, if_true]
  rfl

/-- A READY channel whose clock runs and which does not go to sleep takes requests. -/
structure Chip.TakesRequests (c : Chip) (ch : Nat) : Prop where
  ready : c.mcState ch = mcReady
  lit : c.bitOf Reg.PWR_GATED.GATED (12 + ch) = false
  awake : (c.mcOf ch).sr = none

theorem Chip.TakesRequests.not_dead {c : Chip} {ch : Nat} (h : c.TakesRequests ch) : c.mcDead ch = false := by
  simp [Chip.mcDead, h.ready, h.lit, mcReady, mcOff, mcTraining, mcFailed, mcSelfRefresh]

theorem Chip.TakesRequests.chose {c : Chip} {ch g : Nat} (h : c.TakesRequests ch) (r : McReq) (hch : ch < 24) (hg : g < 12) :
    (c.arbChose g ch r).TakesRequests ch := by
  have harb := Chip.Arbitrated.arbRound c (c.groupReqs g) (c.groupReqs g) hg
  have hstate := harb.get (f := Reg.MC_STATUS.STATE ch) (pmuFld_mc (by simp only [Reg.MC_STATUS.STATE, mkFld]; omega))
    (by simp only [Reg.MC_STATUS.STATE, mkFld]; omega) hg
  have hgated := harb.get (f := Reg.PWR_GATED.GATED) (by decide) (by decide) hg
  refine ⟨hstate.trans h.ready, ?_, ?_⟩
  · exact (congrArg (fun n => bit n (12 + ch)) hgated).trans h.lit
  · rw [c.arbChose_mcOf ch r hg]
    exact h.awake

/-- A read as it enters its queue: with its arrival, and with the data of a queued write of its line (R206). -/
def McSt.readEntry (m : McSt) (r : McReq) : McReq :=
  { r with enter := m.ck, data := (m.wq.filterMap (fun w => if w.line = r.line then w.write else none)).getLast? }

theorem McSt.readEntry_data_none {m : McSt} {r : McReq} (h : ∀ w ∈ m.wq, w.line ≠ r.line) : (m.readEntry r).data = none := by
  have hnil : m.wq.filterMap (fun w => if w.line = r.line then w.write else none) = [] :=
    List.filterMap_eq_nil_iff.2 fun w hw => if_neg (h w hw)
  rw [McSt.readEntry, hnil]
  rfl

theorem McSt.readEntry_data_one {m : McSt} {r w : McReq} (h : m.wq = [w]) (hline : w.line = r.line) : (m.readEntry r).data = w.write := by
  rw [McSt.readEntry, h]
  cases hw : w.write <;> simp [hline, hw]

theorem Chip.mcRead_of_front {c : Chip} {ch : Nat} {r : McReq} {rest : List McReq} (h : c.TakesRequests ch) (hfront : (c.mcOf ch).inq = r :: rest)
    (hread : r.write = none) (hroom : (c.mcOf ch).rq.length < 64) :
    c.mcRead ch = (c.mcSet ch { c.mcOf ch with inq := rest, rq := (c.mcOf ch).rq ++ [(c.mcOf ch).readEntry r] }).mcSync ch := by
  unfold Chip.mcRead McSt.readEntry
  simp [hfront, h.not_dead, h.ready, h.awake, hread, Nat.not_le.2 hroom]

theorem Chip.mcWriteReq_of_front {c : Chip} {ch : Nat} {r : McReq} {rest : List McReq} (h : c.TakesRequests ch) (hfront : (c.mcOf ch).inq = r :: rest)
    (hwrite : r.write ≠ none) (hroom : (c.mcOf ch).wq.length < 48) (hline : ∀ w ∈ (c.mcOf ch).wq, w.line ≠ r.line)
    (hsource : ∀ q ∈ (c.mcOf ch).rq, q.sameSource r = false) :
    c.mcWriteReq ch = (c.mcSet ch { c.mcOf ch with inq := rest, wq := (c.mcOf ch).wq ++ [{ r with enter := (c.mcOf ch).ck }] }).mcSync ch := by
  have hwr : r.write.isNone = false := by simpa [Option.isSome_iff_ne_none] using hwrite
  have hl : (c.mcOf ch).wq.any (fun w => w.line == r.line) = false := by simpa using hline
  have hs : (c.mcOf ch).rq.any (fun q => q.sameSource r) = false := by simpa using hsource
  unfold Chip.mcWriteReq
  simp [hfront, h.not_dead, h.ready, h.awake, hwr, hl, hs, Nat.not_le.2 hroom]

/-- An effect's next state, where what it comes to is known. -/
theorem State.run_of_eq {s : State} {f : Chip → Chip} {d : Chip} (hs : s.chip.halted = false) (hf : f s.chip = d) (hotp : d.otp = s.chip.otp) :
    s.run f = .next { s with chip := d } := by
  subst hf
  exact State.run_eq s f hs hotp

/-- The winner of the group's round enters its channel's queue; the rest of the package keeps what it held. -/
theorem State.mcEnter_next {s : State} {ch g : Nat} {r : McReq} {m : McSt} (hs : s.chip.halted = false) (hch : ch < 24) (hg : ch / 4 = g)
    (hnext : s.chip.arbNext g = some (ch, r))
    (henter : (if r.write.isSome then (s.chip.arbChose g ch r).mcWriteReq ch else (s.chip.arbChose g ch r).mcRead ch)
      = ((s.chip.arbChose g ch r).mcSet ch m).mcSync ch) :
    ∃ t, s.run (fun c => c.mcEnter ch r.write.isSome) = .next t ∧ t.pending = s.pending ∧ t.chip.mcOf ch = m
      ∧ s.chip.Served t.chip (queueFields ch ++ arbFields g) := by
  obtain ⟨d, hd⟩ : ∃ d, d = ((s.chip.arbChose g ch r).mcSet ch m).mcSync ch := ⟨_, rfl⟩
  have hrun : s.chip.mcEnter ch r.write.isSome = d.arbSync g (d.groupReqs g) := by
    rw [Chip.mcEnter_of_next hg hnext, henter, hd]
  have harb := Chip.Arbitrated.arbSync d g (d.groupReqs g)
  have hserved : s.chip.Served (d.arbSync g (d.groupReqs g)) (queueFields ch ++ arbFields g) := by
    have hchose : s.chip.Served (s.chip.arbChose g ch r) (queueFields ch ++ arbFields g) := Chip.arbChose_served s.chip ch r (by omega) (by simp +contextual)
    have hsync : ((s.chip.arbChose g ch r).mcSet ch m).Served d (queueFields ch ++ arbFields g) := by
      rw [hd]
      exact CountedOnly.mono (Chip.Served.of_only (Chip.mcSync_fields _ ch)) (by simp +contextual)
    exact ((hchose.trans (Chip.Served.mcSet _ ch m _)).trans hsync).trans (Chip.Served.of_arbitrated harb (by simp +contextual))
  refine ⟨{ s with chip := d.arbSync g (d.groupReqs g) }, ?_, rfl, ?_, hserved⟩
  · exact State.run_of_eq hs hrun (by rw [CountedOnly.rest hserved])
  · rw [harb.mcOf, hd, Chip.mcOf_mcSync, Chip.mcOf_mcSet_self]

end Sys2Proof.Machine
end

section
/-! A channel's commands (R207, R208): the burst of a read whose row is open, the return of its data, and the precharge of a row that nothing wants. -/
namespace Sys2Proof.Machine

/-! ### Read data returns -/

theorem Chip.mcReadData_of_oldest {c : Chip} {ch : Nat} {r : McReq} {l : List McReq} {d : Raw} (hrq : (c.mcOf ch).rq = r :: l) (hdata : r.data = some d)
    (hold : ∀ q ∈ l, r.seq < q.seq) :
    c.mcReadData ch = ((c.mcSet ch { c.mcOf ch with rq := l }).mcSync ch).slotFor r.job ch r.line (some d) := by
  have hfirst : (r :: l).any (fun q => q.seq < r.seq && q.sameSource r) = false := by
    simp only [List.any_cons, List.any_eq_false, Bool.or_eq_false_iff, Bool.and_eq_true, decide_eq_true_eq, Nat.lt_irrefl, decide_false, Bool.false_and,
      true_and]
    exact fun q hq hlt => absurd hlt.1 (Nat.not_lt.2 (hold q hq).le)
  have hrest : (r :: l).filter (fun q => q.seq != r.seq) = l := by
    rw [List.filter_cons_of_neg (by simp), List.filter_eq_self]
    exact fun q hq => by simpa using (hold q hq).ne'
  have hfind : (r :: l).find? (fun q => q.data.isSome && !(r :: l).any (fun p => p.seq < q.seq && p.sameSource q)) = some r :=
    List.find?_cons_of_pos (by rw [hfirst, hdata]; rfl)
  unfold Chip.mcReadData
  simp only [hrq, hfind, hrest, hdata]

/-- The slot is what the job that wants it has got of the line. -/
theorem Chip.slotFor_got (c : Chip) (job ch line : Nat) (x : Option Raw) :
    ∀ j ∈ (c.slotFor job ch line x).pg.jobs, j.id = job → SMap.get? j.got (ch * 2 ^ 34 + line) = some x := by
  intro j hj hid
  obtain ⟨i, -, rfl⟩ := List.mem_map.1 hj
  by_cases hi : i.id = job
  · simp [hi]
  · rw [if_neg hi] at hid
    exact absurd hid hi

/-- Beside the fields of a list, the channels' hidden state and the jobs may differ then. -/
theorem OnlyFields.slotFor {a b : Chip} {ch : Nat} {m : McSt} {l : List Fld} (h : OnlyFields (a.mcSet ch m) b l) (job k line : Nat) (x : Option Raw) :
    OnlyFields { a with mc := (b.slotFor job k line x).mc, pg := { a.pg with jobs := (b.slotFor job k line x).pg.jobs } } (b.slotFor job k line x) l := by
  obtain ⟨h1, h2, h3⟩ := h
  refine ⟨?_, h2, h3⟩
  rw [h1]
  rfl

/-! ### A command of the scheduler -/

/-- Beside what is counted, only the hidden state of channels differs. -/
def Chip.Commanded (a b : Chip) : Prop := CountedOnly { a with mc := b.mc } b []

namespace Chip.Commanded

variable {a b c : Chip}

theorem trans (h : a.Commanded b) (k : b.Commanded c) : a.Commanded c := by
  obtain ⟨h1, h2, h3⟩ := h
  obtain ⟨k1, k2, k3⟩ := k
  refine ⟨?_, fun f hp hf => (k2 f hp hf).trans (h2 f hp hf), k3.trans h3⟩
  rw [h1] at k1
  exact k1

theorem of_counted (h : CountedOnly a b []) : a.Commanded b := by
  have hmc : b.mc = a.mc := by rw [h.rest]
  unfold Chip.Commanded
  rwa [hmc]

theorem mcSet (c : Chip) (ch : Nat) (m : McSt) : c.Commanded (c.mcSet ch m) := ⟨rfl, fun _ _ _ => rfl, rfl⟩

theorem get (h : a.Commanded b) {f : Fld} (hf : 8 * 0xC3000000 ≤ f.addr ∧ f.addr < 8 * 0xC4000000) : b.get f = a.get f :=
  CountedOnly.regs h f (pmuFld_mc hf) (by simp)

end Chip.Commanded

theorem Chip.evMc_counted (c : Chip) {ch : Nat} (ev n : Nat) (k : EvKey) (hch : ch < 24) : CountedOnly c (c.evHub (ugMc ch) ev n k) [] :=
  c.evHub_counted ev n k (by unfold ugMc; omega)

theorem Chip.mcCycles_counted (c : Chip) {ch : Nat} (n : Nat) (hch : ch < 24) : CountedOnly c (c.mcCycles ch n) [] := by
  have hboth (k : Nat) : CountedOnly c ((c.evHub (ugMc ch) 0x01 n evNone).evHub (ugMc ch) 0x85 k evNone) [] :=
    (c.evMc_counted 0x01 n evNone hch).trans (Chip.evMc_counted _ 0x85 k evNone hch)
  unfold Chip.mcCycles
  dsimp only
  split
  · exact (hboth _).trans (Chip.evMc_counted _ 0x86 n evNone hch)
  · exact hboth _

theorem Chip.mcNote_counted (c : Chip) {ch : Nat} (ev : Nat) (nrg : Option Nat) (r : McReq) (hch : ch < 24) : CountedOnly c (c.mcNote ch ev nrg r) [] := by
  unfold Chip.mcNote
  dsimp only
  split
  · exact (c.evMc_counted ev 1 _ hch).trans (Chip.nrgAdd_counted _ _ _ _)
  · exact c.evMc_counted ev 1 _ hch

/-- The fields that say when a command is legal (R203, R208). -/
def timingFields (ch : Nat) : List Fld :=
  [Reg.MC_CFG.DIMMS ch, Reg.MC_CFG.RANKS ch, Reg.MC_CFG.STACK ch, Reg.MC_TIMING0.CL ch, Reg.MC_TIMING0.CWL ch, Reg.MC_TIMING0.RCD ch, Reg.MC_TIMING0.RP ch,
   Reg.MC_TIMING0.RAS ch, Reg.MC_TIMING0.RC ch, Reg.MC_TIMING0.WR ch, Reg.MC_TIMING0.RTP ch, Reg.MC_TIMING1.RRD_S ch, Reg.MC_TIMING1.RRD_L ch,
   Reg.MC_TIMING1.FAW ch, Reg.MC_TIMING1.CCD_L ch, Reg.MC_TIMING1.WTR_S ch, Reg.MC_TIMING1.WTR_L ch]

theorem timingFields_place {ch : Nat} (hch : ch < 24) : ∀ f ∈ timingFields ch, 8 * 0xC3000000 ≤ f.addr ∧ f.addr < 8 * 0xC4000000 := by
  simp only [timingFields, List.forall_mem_cons, Reg.MC_CFG.DIMMS, Reg.MC_CFG.RANKS, Reg.MC_CFG.STACK, Reg.MC_TIMING0.CL, Reg.MC_TIMING0.CWL,
    Reg.MC_TIMING0.RCD, Reg.MC_TIMING0.RP, Reg.MC_TIMING0.RAS, Reg.MC_TIMING0.RC, Reg.MC_TIMING0.WR, Reg.MC_TIMING0.RTP, Reg.MC_TIMING1.RRD_S,
    Reg.MC_TIMING1.RRD_L, Reg.MC_TIMING1.FAW, Reg.MC_TIMING1.CCD_L, Reg.MC_TIMING1.WTR_S, Reg.MC_TIMING1.WTR_L, mkFld, List.not_mem_nil, false_implies,
    implies_true, and_true]
  omega

/-- Where the timings and the organisation stand, a later cycle of the channel leaves what a request needs next, and when. -/
theorem Chip.mcLegal_congr {a b : Chip} {ch n : Nat} (hget : ∀ f ∈ timingFields ch, b.get f = a.get f) (hmc : b.mcOf ch = { a.mcOf ch with ck := n }) :
    b.mcRb ch = a.mcRb ch ∧ b.mcLegal ch = a.mcLegal ch := by
  simp only [timingFields, List.forall_mem_cons, List.not_mem_nil, false_implies, implies_true, and_true] at hget
  have hrb : b.mcRb ch = a.mcRb ch := by simp only [Chip.mcRb, hget]
  refine ⟨hrb, funext fun r => funext fun ck => ?_⟩
  unfold Chip.mcLegal Chip.preLegal Chip.preFrom
  simp only [hrb, hmc, hget]
  rfl

theorem McSt.redoOr_single (m : McSt) (r : McReq) : m.redoOr [r] = [r] := by
  unfold McSt.redoOr
  rw [List.filter_singleton]
  cases m.redo.contains r.seq <;> rfl

/-- The scheduler has no choice among one. -/
theorem Chip.mcPick_single (c : Chip) (ch : Nat) (r : McReq) (ck : Nat) : c.mcPick ch [r] ck = some r := by
  have hpool (p : McReq → Bool) : (if ([r].filter p).isEmpty then [r] else [r].filter p) = [r] := by
    rw [List.filter_singleton]
    cases p r <;> rfl
  unfold Chip.mcPick
  simp only [hpool]
  simp only [List.filter_singleton, Bool.cond_eq_ite]
  split_ifs <;> rfl

/-- The burst of a read takes its line from the array (R208). -/
theorem Chip.mcIssue_of_read {c : Chip} {ch : Nat} {r : McReq} (ck : Nat) (hch : ch < 24) (hcmd : (c.mcOf ch).nextCmd (c.mcRb ch) r = 2)
    (hread : r.write = none) :
    c.Commanded (c.mcIssue ch r ck)
      ∧ ((c.mcIssue ch r ck).mcOf ch).rq = (c.mcOf ch).rq.map (fun q => if q.seq = r.seq then { q with data := some (c.dramRaw ch r.line) } else q) := by
  obtain ⟨hit, hhit⟩ : ∃ d, d = if ((c.mcOf ch).bank (bankKey (c.mcRb ch) r.line)).actAt < ((c.mcOf ch).bank (bankKey (c.mcRb ch) r.line)).hitAt
    then c.mcNote ch 0x82 none r else c := ⟨_, rfl⟩
  have hcounted : CountedOnly c hit [] := by
    rw [hhit]
    split
    · exact c.mcNote_counted 0x82 none r hch
    · exact CountedOnly.refl c
  have hraw : hit.dramRaw ch r.line = c.dramRaw ch r.line := by
    rw [hcounted.rest]
    rfl
  unfold Chip.mcIssue
  simp only [hcmd, hread, ← hhit, hraw]
  refine ⟨((Chip.Commanded.of_counted hcounted).trans (Chip.Commanded.mcSet _ _ _)).trans (Chip.Commanded.of_counted (Chip.mcNote_counted _ _ _ _ hch)), ?_⟩
  rw [(Chip.mcNote_counted _ _ _ _ hch).mcOf, Chip.mcOf_mcSet_self]

/-- The one queued request, a read of an open row whose command is legal, has its burst at the cycle asked for. -/
theorem Chip.mcCommand_of_read {c : Chip} {ch sub ck : Nat} {r : McReq} (hch : ch < 24) (hready : c.mcState ch = mcReady) (hrq : (c.mcOf ch).rq = [r])
    (hwq : (c.mcOf ch).wq = []) (hdata : r.data = none) (hread : r.write = none) (hsub : lineSub r.line = sub) (hcycle : (c.mcOf ch).cycle sub ck = ck)
    (hfree : (c.mcOf ch).refAt.contains ck = false) (hlegal : c.mcLegal ch r ck = true) (hcmd : (c.mcOf ch).nextCmd (c.mcRb ch) r = 2) :
    c.Commanded (c.mcCommand ch sub ck) ∧ ((c.mcCommand ch sub ck).mcOf ch).rq = [{ r with data := some (c.dramRaw ch r.line) }]
      ∧ ((c.mcCommand ch sub ck).mcOf ch).ck = ck := by
  obtain ⟨n, hn⟩ : ∃ n, n = ck - (c.mcOf ch).ck := ⟨_, rfl⟩
  obtain ⟨d, hd⟩ : ∃ d, d = (c.mcCycles ch n).mcSet ch { c.mcOf ch with ck := ck } := ⟨_, rfl⟩
  have hcounted := c.mcCycles_counted n hch
  have hcd : c.Commanded d := by
    rw [hd]
    exact (Chip.Commanded.of_counted hcounted).trans (Chip.Commanded.mcSet _ _ _)
  have hmc : d.mcOf ch = { c.mcOf ch with ck := ck } := by rw [hd, Chip.mcOf_mcSet_self]
  obtain ⟨hrb, hleg⟩ := Chip.mcLegal_congr (fun f hf => hcd.get (timingFields_place hch f hf)) hmc
  have hraw : d.dramRaw ch r.line = c.dramRaw ch r.line := by
    rw [CountedOnly.rest hcd]
    rfl
  have hstate : d.mcState ch = mcReady := (hcd.get (by simp only [Reg.MC_STATUS.STATE, mkFld]; omega)).trans hready
  have hreqs : ((c.mcOf ch).redoOr ((c.mcOf ch).rq.filter (fun r => r.data.isNone) ++ (c.mcOf ch).wq)).filter (fun r => lineSub r.line == sub) = [r] := by
    rw [hrq, hwq, List.filter_singleton, hdata]
    simp [McSt.redoOr_single, hsub]
  have hcand : [r].filter (fun r => d.mcLegal ch r ck) = [r] := by rw [List.filter_singleton, hleg, hlegal, cond_true]
  have hrun : c.mcCommand ch sub ck = (d.mcIssue ch r ck).mcMod ch (fun m => m.took sub ck) := by
    unfold Chip.mcCommand
    simp only [hcycle, ← hn, ← hd, hstate, hfree, hreqs, hcand, Chip.mcPick_single]
    simp
  obtain ⟨hissue, hrq'⟩ := Chip.mcIssue_of_read (c := d) ck hch (by rw [hmc, hrb]; exact hcmd) hread
  rw [hrun]
  refine ⟨(hcd.trans hissue).trans (Chip.Commanded.mcSet _ _ _), ?_, ?_⟩
  · rw [Chip.mcOf_mcMod_self, McSt.took, hrq', hmc, hrq, hraw]
    simp
  · rw [Chip.mcOf_mcMod_self, McSt.took]

/-! ### A row closes -/

theorem McSt.bank_took (m : McSt) (sub ck k : Nat) : (m.took sub ck).bank k = m.bank k := rfl

theorem McSt.bank_set_self (m : McSt) (k : Nat) (b : McBank) : ({ m with banks := SMap.set m.banks k b } : McSt).bank k = b :=
  SMap.getD_set_self m.banks k b _

theorem McSt.bank_set_ne (m : McSt) {j k : Nat} (b : McBank) (h : j ≠ k) : ({ m with banks := SMap.set m.banks k b } : McSt).bank j = m.bank j :=
  SMap.getD_set_ne m.banks b _ h

/-- An open row that no queued request wants closes, once its time has come and its precharge is legal (R208). -/
theorem Chip.mcCloseIdle_of_idle {c : Chip} {ch bank ck row : Nat} (hrow : ((c.mcOf ch).bank bank).row = some row) (hrq : (c.mcOf ch).rq = [])
    (hwq : (c.mcOf ch).wq = []) (hidle : c.get (Reg.MC_SCHED.CLOSE_IDLE ch) ≠ 0) (hcycle : (c.mcOf ch).cycle (bank / 256) ck = ck)
    (hfree : (c.mcOf ch).refAt.contains ck = false) (hdue : ((c.mcOf ch).bank bank).hitAt + 2 * c.get (Reg.MC_SCHED.CLOSE_IDLE ch) ≤ ck)
    (hlegal : c.preLegal ch ((c.mcOf ch).bank bank) ck = true) :
    c.mcCloseIdle ch bank ck = c.mcSet ch
      ({ c.mcOf ch with banks := SMap.set (c.mcOf ch).banks bank { (c.mcOf ch).bank bank with row := none, preAt := ck } }.took (bank / 256) ck) := by
  unfold Chip.mcCloseIdle
  simp only [hcycle, hrq, hwq, hlegal, hfree, hrow]
  simp [hidle, Nat.not_lt.2 hdue]

end Sys2Proof.Machine

open Sys2Proof Sys2Proof.Machine

/-- Settles O12: the round's winner enters its queue as it stands, between two rounds of the arbiter's bookkeeping that touch no channel; the scheduler picks
the one candidate. -/
theorem channelQueuesServe : Obligations.ChannelQueuesServe := by
  unfold Obligations.ChannelQueuesServe
  refine ⟨?enter, ?data, ?command, ?close⟩
  case enter =>
    intro s ch g r rest hs hready hlit hg hnext hrest hawake
    have h := Chip.TakesRequests.chose ⟨hready, hlit, hawake⟩ r ch.isLt (show g < 12 by omega)
    have hmc : (s.chip.arbChose g ch r).mcOf ch = { s.chip.mcOf ch with inq := r :: rest } := by
      rw [← hrest]
      exact Chip.arbChose_mcOf s.chip ch r (by omega)
    refine ⟨fun hread hroom => ?_, fun hwrite hroom hline hsource => ?_⟩
    · have henter := Chip.mcRead_of_front (rest := rest) h (by rw [hmc]) hread (by rw [hmc]; exact hroom)
      rw [hmc] at henter
      obtain ⟨t, hrun, hpend, ht, hserved⟩ := State.mcEnter_next hs ch.isLt hg hnext (by rw [hread]; exact henter)
      rw [hread] at hrun
      refine ⟨t, (s.chip.mcOf ch).readEntry r, hrun, hpend, ?_, ?_, rfl, rfl, rfl, fun hno => McSt.readEntry_data_none hno,
        fun w hw hl => McSt.readEntry_data_one hw hl, hserved⟩
      · rw [ht]
      · rw [ht]
        rfl
    · have henter := Chip.mcWriteReq_of_front (rest := rest) h (by rw [hmc]) hwrite (by rw [hmc]; exact hroom) (by rw [hmc]; exact hline)
        (by rw [hmc]; exact hsource)
      rw [hmc] at henter
      have hw : r.write.isSome = true := Option.isSome_iff_ne_none.2 hwrite
      obtain ⟨t, hrun, hpend, ht, hserved⟩ := State.mcEnter_next hs ch.isLt hg hnext (by rw [hw]; exact henter)
      rw [hw] at hrun
      refine ⟨t, hrun, hpend, ?_, ?_, hserved⟩
      · rw [ht]
      · rw [ht]
  case data =>
    intro s ch r l d hs hrq hdata hold
    obtain ⟨e, he⟩ : ∃ e, e = (s.chip.mcSet ch { s.chip.mcOf ch with rq := l }).mcSync ch := ⟨_, rfl⟩
    have hreturn : s.chip.mcReadData ch = e.slotFor r.job ch r.line (some d) := by rw [he, Chip.mcReadData_of_oldest hrq hdata hold]
    have hsync : OnlyFields (s.chip.mcSet ch { s.chip.mcOf ch with rq := l }) e (queueFields ch) := by
      rw [he]
      exact Chip.mcSync_fields _ _
    have hmc : e.mcOf ch = { s.chip.mcOf ch with rq := l } := by rw [he, Chip.mcOf_mcSync, Chip.mcOf_mcSet_self]
    have hotp : (e.slotFor r.job ch r.line (some d)).otp = s.chip.otp := by
      rw [(hsync.slotFor r.job ch r.line (some d)).rest]
    exact ⟨_, State.run_of_eq (f := fun c => c.mcReadData ch) hs hreturn hotp, rfl, congrArg McSt.rq hmc,
      Chip.slotFor_got e r.job ch r.line (some d), hsync.slotFor r.job ch r.line (some d)⟩
  case command =>
    intro s ch sub ck r hs hready hrq hwq hdata hread hsub hcycle hfree hlegal hcmd
    obtain ⟨hcommanded, hrq', hck⟩ := Chip.mcCommand_of_read ch.isLt hready hrq hwq hdata hread hsub hcycle hfree hlegal hcmd
    exact ⟨_, State.run_eq s (fun c => c.mcCommand ch sub ck) hs (by rw [CountedOnly.rest hcommanded]), rfl, hrq', hck, hcommanded⟩
  case close =>
    intro s ch bank ck row hs hrow hrq hwq hidle hcycle hfree hdue hlegal
    have hclose := Chip.mcCloseIdle_of_idle hrow hrq hwq hidle hcycle hfree hdue hlegal
    refine ⟨_, State.run_of_eq (f := fun c => c.mcCloseIdle ch bank ck) hs hclose rfl, rfl, ?_, ?_, fun k hk => ?_, rfl⟩
    · rw [Chip.mcOf_mcSet_self, McSt.bank_took, McSt.bank_set_self]
    · rw [Chip.mcOf_mcSet_self, McSt.bank_took, McSt.bank_set_self]
    · rw [Chip.mcOf_mcSet_self, McSt.bank_took, McSt.bank_set_ne _ _ hk]
end

section
/-! A self-refresh step that times out ends a Freewheel entry that is putting its channel to sleep (R214, R413). MC_CMD stays open to firmware in such an
entry (R212, R412), so that the step may as well be one of an exit: a channel that is asleep already leaves self-refresh again while others still enter it. -/
namespace Sys2Proof.Machine

/-- A Freewheel entry is at step 5, channel 0 is asleep for it, and SR_EXIT has started the channel's exit (R215). -/
def State.exitInEntry : State :=
  { State.reset with chip :=
    { State.reset.chip.puts [(Reg.MC_STATUS.STATE 0, mcSelfRefresh), (Reg.PWR_PK_STATUS.STATE, pkEntering), (Reg.PWR_PK_STATUS.STEP, 5)] with
      pwr := { State.reset.chip.pwr with chans := 1 }
      mc := [(0, { McSt.init with sr := some ⟨true, 1, false, false, false⟩ })] } }

/-- The package is clocked, and the channel's exit is at its first step. -/
theorem State.exitInEntry_finds :
    State.exitInEntry.chip.halted = false ∧ (State.exitInEntry.chip.mcOf 0).sr = some ⟨true, 1, false, false, false⟩ := by decide +kernel

/-- The failed exit ends the entry, and with it every channel that the entry put to sleep leaves self-refresh: this one begins a new exit (R413). -/
theorem State.exitInEntry_timeout : ((State.exitInEntry.chip.srTimeoutEv 0).mcOf 0).sr = some ⟨true, 1, false, true, false⟩ := by decide +kernel

theorem State.exitInEntry_timeout_otp : (State.exitInEntry.chip.srTimeoutEv 0).otp = State.exitInEntry.chip.otp := by decide +kernel

end Sys2Proof.Machine

open Sys2Proof Sys2Proof.Machine

/-- Refutes O14: its clause of the exit step that times out says that no sequence runs then, but where a Freewheel entry put the channel to sleep, the failure
ends the entry, and its end starts the exit again. -/
theorem not_channelStatesChange : ¬ Obligations.ChannelStatesChange := by
  unfold Obligations.ChannelStatesChange
  rintro ⟨-, -, -, hstep, -⟩
  obtain ⟨hclocked, hsr⟩ := State.exitInEntry_finds
  obtain ⟨t, ht, -, hnone, -⟩ := (hstep State.exitInEntry 0 _ hclocked hsr).2 rfl rfl (by decide) (by decide)
  have hchip : t.chip = State.exitInEntry.chip.srTimeoutEv 0 :=
    State.chip_of_run (f := fun c => c.srTimeoutEv 0) hclocked State.exitInEntry_timeout_otp ht
  have hagain := State.exitInEntry_timeout
  rw [← hchip] at hagain
  cases hagain.symm.trans hnone
end

section
/-! What the Page Guard engine's own work changes: its state, the paths to the channels, and a list of fields (R231 to R243). -/
namespace Sys2Proof.Machine

/-- Beside a list of fields, only the engine's state and the paths to the channels differ. -/
def Chip.PgMoved (a b : Chip) (l : List Fld) : Prop := OnlyFields { a with mc := b.mc, pg := b.pg } b l

namespace Chip.PgMoved

variable {a b c : Chip} {l m : List Fld}

theorem refl (c : Chip) (l : List Fld) : c.PgMoved c l := ⟨rfl, fun _ _ => rfl, rfl⟩

theorem trans (h : a.PgMoved b l) (k : b.PgMoved c l) : a.PgMoved c l := by
  obtain ⟨h1, h2, h3⟩ := h
  obtain ⟨k1, k2, k3⟩ := k
  refine ⟨?_, fun f hf => (k2 f hf).trans (h2 f hf), k3.trans h3⟩
  rw [h1] at k1
  exact k1

theorem mono (h : a.PgMoved b l) (hl : ∀ f ∈ l, f ∈ m) : a.PgMoved b m := ⟨h.rest, Untouched.mono h.regs hl, h.shadow⟩

theorem of_only (h : OnlyFields a b l) : a.PgMoved b l := by
  refine ⟨?_, h.regs, h.shadow⟩
  rw [h.rest]

/-- The engine's own state changes. -/
theorem setPg (h : a.PgMoved b l) (p : PgSt) : a.PgMoved { b with pg := p } l :=
  ⟨congrArg (fun x : Chip => { x with pg := p }) h.rest, h.regs, h.shadow⟩

theorem get (h : a.PgMoved b l) {f : Fld} (hf : ∀ g ∈ l, f.addr ≠ g.addr) : b.get f = a.get f := h.regs f hf

theorem otp (h : a.PgMoved b l) : b.otp = a.otp := by rw [h.rest]

theorem engineKept (h : a.PgMoved b l) (hl : ∀ g ∈ l, g.addr < 8 * 0xCB000000) : a.EngineKept b :=
  ⟨by rw [h.rest], by rw [h.rest], fun _ _ => h.get (Reg.OLD_BUSY_ne_of_low hl), h.otp⟩

/-- What an effect keeps for each item of a list, it keeps for all of them. -/
theorem foldl {α : Type} {f : Chip → α → Chip} (h : ∀ (c : Chip) (x : α), c.PgMoved (f c x) l) (xs : List α) (c : Chip) : c.PgMoved (xs.foldl f c) l := by
  induction xs generalizing c with
  | nil => exact refl c l
  | cons x xs ih => exact (h c x).trans (ih _)

/-- A slot leaves for its channel. -/
theorem mcSend (c : Chip) (ch line agent tenant job : Nat) (write : Option Raw) (wline : Option Nat) (l : List Fld) :
    c.PgMoved (c.mcSend ch line agent tenant job write wline) l := ⟨rfl, fun _ _ => rfl, rfl⟩

end Chip.PgMoved

/-- The fields that an injected fault changes (R243). -/
def flipFields : List Fld := [Reg.PG_FLIP_MASK.ARM, Reg.PG_FLIP_STATUS.FIRED, Reg.PG_FLIP_STATUS.ADDR]

theorem Chip.PgMoved.pgEmit (c : Chip) (wl : Nat) (r : Raw) (isChk : Bool) (agent tenant : Nat) (wline : Option Nat) :
    c.PgMoved (c.pgEmit wl r isChk agent tenant wline) flipFields := by
  unfold Chip.pgEmit
  split
  next => exact refl c _
  next ch ca _ =>
    dsimp only
    split
    · exact (of_only (OnlyFields.puts c _ (by simp [flipFields]))).trans (mcSend _ ..)
    · exact mcSend c ..

/-- A check line enters the check cache; a dirty victim leaves for its channel (R237). -/
theorem Chip.PgMoved.chkPut (c : Chip) (wl : Nat) (d : Line) (dirty : Bool) : c.PgMoved (c.chkPut wl d dirty) flipFields := by
  unfold Chip.chkPut
  split
  · exact (refl c _).setPg _
  · dsimp only
    refine setPg ?_ _
    split
    · split
      · exact pgEmit c ..
      · exact refl c _
    · exact refl c _

theorem Chip.PgMoved.chkFlush (c : Chip) : c.PgMoved c.chkFlush flipFields := by
  unfold Chip.chkFlush
  refine (foldl (fun c p => ?_) _ c).setPg _
  split
  · exact pgEmit c ..
  · exact refl c _

end Sys2Proof.Machine
end

section
/-! Software writes whose effect is on the Page Guard engine (R231, R240, R241). -/
namespace Sys2Proof.Machine

/-- A record is one whatever the engine and the channels' paths hold. -/
theorem Recorded.withPg {a b : Chip} (h : Recorded a b) (m : SMap McSt) (p : PgSt) : Recorded { a with mc := m, pg := p } { b with mc := m, pg := p } := by
  obtain ⟨h1, h2, h3, h4⟩ := h
  exact ⟨congrArg (fun x : Chip => { x with mc := m, pg := p }) h1, h2, h3, h4⟩

/-- The write's record, its effect and its answer. -/
theorem WroteOnly.of_pg {a c d : Chip} {l : List Fld} (w : Who) (off : Nat) (h : Recorded a c) (e : c.PgMoved d l) :
    WroteOnly { a with mc := d.mc, pg := d.pg } { d with replies := d.replies ++ [⟨w.agent, a.csrAddr off, 0, false, false⟩] } w off l := by
  have hcc : d.clk = c.clk := by rw [e.rest]
  have hca : d.clk = a.clk := by rw [hcc, h.rest]
  have hclk : ClockFields { c with mc := d.mc, pg := d.pg } d l := by
    unfold ClockFields
    rw [hcc]
    exact e
  have hmet : ({ a with mc := d.mc, pg := d.pg, clk := d.clk } : Chip) = { a with mc := d.mc, pg := d.pg } := by rw [hca]
  rw [← hmet]
  exact WroteOnly.of_recorded w off (h.withPg d.mc d.pg) hclk

/-- A write of a register whose effect is on the engine: the next state, and what it leaves unchanged. -/
theorem State.pgWrite_next {s : State} {w : Who} {f : Fld} {v : Nat} {e : Chip → Chip} {l : List Fld} (h : s.chip.writeRuns w f.off = true)
    (hlow : f.addr < 8 * 0xC9C00000) (hact : ∀ c : Chip, c.csrAction w f.off v = e c) (he : ∀ c, Recorded s.chip c → c.PgMoved (e c) l)
    (hl : ∀ g ∈ l, g.addr < 8 * 0xCB000000) (hmc : ∀ c, Recorded s.chip c → (e c).mc = c.mc) :
    ∃ c t, Recorded s.chip c ∧ s.run (fun c => c.regWrite w f.off v) = .next t ∧ t.pending = s.pending ∧ (∀ g, t.chip.get g = (e c).get g)
      ∧ t.chip.pg = (e c).pg ∧ WroteOnly { s.chip with pg := t.chip.pg } t.chip w f.off l := by
  obtain ⟨c, hrec, hrun⟩ := State.lowWrite_next h hlow hact fun c hrec => (he c hrec).engineKept hl
  have hwrote := WroteOnly.of_pg w f.off hrec (he c hrec)
  have hpaths : ({ s.chip with mc := (e c).mc, pg := (e c).pg } : Chip) = { s.chip with pg := (e c).pg } := by rw [hmc c hrec, hrec.rest]
  rw [hpaths] at hwrote
  exact ⟨c, _, hrec, hrun, rfl, fun _ => rfl, rfl, hwrote⟩

/-- A write whose effect is on registers alone. -/
theorem State.onlyWrite_next {s : State} {w : Who} {f : Fld} {v : Nat} {e : Chip → Chip} {l : List Fld} (h : s.chip.writeRuns w f.off = true)
    (hlow : f.addr < 8 * 0xC9C00000) (hact : ∀ c : Chip, c.csrAction w f.off v = e c) (he : ∀ c, Recorded s.chip c → OnlyFields c (e c) l)
    (hl : ∀ g ∈ l, g.addr < 8 * 0xCB000000) :
    ∃ c t, Recorded s.chip c ∧ s.run (fun c => c.regWrite w f.off v) = .next t ∧ t.pending = s.pending ∧ (∀ g, t.chip.get g = (e c).get g)
      ∧ WroteOnly s.chip t.chip w f.off l := by
  obtain ⟨c, t, hrec, hrun, hpend, hget, hpg, hwrote⟩ := State.pgWrite_next h hlow hact (fun c hrec => Chip.PgMoved.of_only (he c hrec)) hl
    fun c hrec => by rw [(he c hrec).rest]
  rw [hpg, (he c hrec).rest, hrec.rest] at hwrote
  exact ⟨c, t, hrec, hrun, hpend, hget, hwrote⟩

end Sys2Proof.Machine
end

section
/-! The lock of the regions (R231). -/
namespace Sys2Proof.Machine

/-- Has every enabled region a size, and does it lie in DRAM and overlap no other? -/
def Chip.RgnsSound (c : Chip) : Prop :=
  ∀ n < 16, c.on (Reg.PG_RGN.EN n) = true →
    1 ≤ c.get (Reg.PG_RGN.SIZE n)
    ∧ c.get (Reg.PG_RGN.BASE n) + c.get (Reg.PG_RGN.SIZE n) ≤ 16 * c.get Reg.HUB_AMAP_DRAM.SIZE
    ∧ ∀ m < 16, c.on (Reg.PG_RGN.EN m) = true → m ≠ n →
        c.get (Reg.PG_RGN.BASE n) + c.get (Reg.PG_RGN.SIZE n) ≤ c.get (Reg.PG_RGN.BASE m)
        ∨ c.get (Reg.PG_RGN.BASE m) + c.get (Reg.PG_RGN.SIZE m) ≤ c.get (Reg.PG_RGN.BASE n)

/-- What the regions' soundness looks at: the fields of the address map and of the regions. -/
theorem Chip.rgnsSound_congr {a b : Chip} (h : ∀ f : Fld, f.addr < 8 * 0xC4000000 ∨ 8 * 0xC4000040 ≤ f.addr ∧ f.addr < 8 * 0xC40000C0 → b.get f = a.get f) :
    b.RgnsSound ↔ a.RgnsSound := by
  have hrgn : ∀ n < 16, b.get (Reg.PG_RGN.EN n) = a.get (Reg.PG_RGN.EN n) ∧ b.get (Reg.PG_RGN.SIZE n) = a.get (Reg.PG_RGN.SIZE n)
      ∧ b.get (Reg.PG_RGN.BASE n) = a.get (Reg.PG_RGN.BASE n) := fun n hn => by
    refine ⟨h _ ?_, h _ ?_, h _ ?_⟩ <;> simp only [Reg.PG_RGN.EN, Reg.PG_RGN.SIZE, Reg.PG_RGN.BASE, mkFld] <;> omega
  have hsize : b.get Reg.HUB_AMAP_DRAM.SIZE = a.get Reg.HUB_AMAP_DRAM.SIZE := h _ (.inl (by decide))
  unfold Chip.RgnsSound Chip.on
  refine forall₂_congr fun n hn => ?_
  obtain ⟨hen, hlen, hbase⟩ := hrgn n hn
  rw [hen, hlen, hbase, hsize]
  refine imp_congr_right fun _ => and_congr_right fun _ => and_congr_right fun _ => forall₂_congr fun m hm => ?_
  obtain ⟨hen', hlen', hbase'⟩ := hrgn m hm
  rw [hen', hlen', hbase']

/-- What a write of PG_CTRL that sets LOCK stores first: LOCK as it was, and BAD as it was. -/
def Chip.lockBegun (c : Chip) : Chip := c.puts [(Reg.PG_CTRL.LOCK, 0), (Reg.PG_CTRL.BAD, c.get Reg.PG_CTRL.BAD)]

theorem findReg_pgCtrl : findReg Reg.blocks 0xC4000008 = some ⟨[Reg.PG_CTRL.LOCK, Reg.PG_CTRL.BAD], some Reg.PG_CTRL.LOCK⟩ := by decide +kernel

theorem Chip.storeAt_pgCtrl {c : Chip} (h : c.on Reg.PG_CTRL.LOCK = false) : c.storeAt 0xC4000008 0 = c.lockBegun := by
  have hstore : c.storeAt 0xC4000008 0 = c.storeReg ⟨[Reg.PG_CTRL.LOCK, Reg.PG_CTRL.BAD], some Reg.PG_CTRL.LOCK⟩ 0xC4000008 0 := by
    rw [Chip.storeAt, findReg_pgCtrl]
  have hlock : ∀ d : Chip, d.storeFld false 0xC4000008 0 Reg.PG_CTRL.LOCK = d.put Reg.PG_CTRL.LOCK 0 := fun _ => rfl
  have hclear : ∀ d : Chip, d.storeFld false 0xC4000008 0 Reg.PG_CTRL.BAD = d.put Reg.PG_CTRL.BAD (d.get Reg.PG_CTRL.BAD) := fun d => by
    show d.put Reg.PG_CTRL.BAD (d.get Reg.PG_CTRL.BAD - (d.get Reg.PG_CTRL.BAD &&& 0)) = _
    rw [Nat.and_zero, Nat.sub_zero]
  have hbad : (c.put Reg.PG_CTRL.LOCK 0).get Reg.PG_CTRL.BAD = c.get Reg.PG_CTRL.BAD := c.get_put_ne _ (by decide)
  rw [hstore]
  simp only [Chip.storeReg, Chip.lockedBy, h, List.foldl_cons, List.foldl_nil, hlock, hclear, hbad]
  rfl

/-- LOCK written 1 stores a 1 where the regions are sound, and sets BAD where they are not. -/
theorem Chip.pgCtrl_lock {c : Chip} (h : c.on Reg.PG_CTRL.LOCK = false) [Decidable c.lockBegun.RgnsSound] :
    c.pgCtrl 1 = if c.lockBegun.RgnsSound then c.lockBegun.put Reg.PG_CTRL.LOCK 1 else c.lockBegun.put Reg.PG_CTRL.BAD 1 := by
  have hoff : c.lockBegun.on Reg.PG_CTRL.LOCK = false := by
    have hget : c.lockBegun.get Reg.PG_CTRL.LOCK = 0 := (Chip.get_put_ne _ _ (f := Reg.PG_CTRL.BAD) (by decide)).trans (c.get_put_self _ 0)
    simp [Chip.on, hget]
  unfold Chip.pgCtrl
  simp only [Nat.one_mod, Nat.sub_self, Chip.storeAt_pgCtrl h]
  rw [if_neg (by simp [hoff])]
  refine if_congr ?_ rfl rfl
  simp only [Chip.RgnsSound, Chip.pgRgnN, List.all_filter, List.all_eq_true, List.mem_range, Bool.and_eq_true, Bool.or_eq_true, Bool.not_eq_true',
    beq_iff_eq, Nat.mul_comm 16]
  grind

/-- The registers that the lock writes. -/
def lockFields : List Fld := [Reg.PG_CTRL.LOCK, Reg.PG_CTRL.BAD]

theorem Chip.lockBegun_fields (c : Chip) : OnlyFields c c.lockBegun lockFields := OnlyFields.puts c _ (by simp [lockFields])

theorem Chip.pgCtrl_lock_fields {c : Chip} (h : c.on Reg.PG_CTRL.LOCK = false) : OnlyFields c (c.pgCtrl 1) lockFields := by
  classical
  have hput : ∀ f ∈ lockFields, OnlyFields c (c.lockBegun.put f 1) lockFields :=
    fun f hf => c.lockBegun_fields.trans (OnlyFields.puts _ [(f, 1)] (by simpa using hf))
  rw [Chip.pgCtrl_lock h]
  split
  · exact hput _ (by simp [lockFields])
  · exact hput _ (by simp [lockFields])

/-- LOCK reads 1 after it exactly if the regions are sound, and BAD reads 1 where they are not. -/
theorem Chip.get_pgCtrl_lock {c : Chip} (h : c.on Reg.PG_CTRL.LOCK = false) :
    ((c.pgCtrl 1).get Reg.PG_CTRL.LOCK = 1 ↔ c.RgnsSound) ∧ ((c.pgCtrl 1).get Reg.PG_CTRL.LOCK = 0 → (c.pgCtrl 1).get Reg.PG_CTRL.BAD = 1) := by
  classical
  have hsound : c.lockBegun.RgnsSound ↔ c.RgnsSound := Chip.rgnsSound_congr fun f hf => c.lockBegun_fields.regs f fun g hg => by
    have haddr : ∀ g ∈ lockFields, 8 * 0xC4000000 ≤ g.addr ∧ g.addr < 8 * 0xC4000040 := by decide
    have := haddr g hg
    omega
  have hunlocked : (c.lockBegun.put Reg.PG_CTRL.BAD 1).get Reg.PG_CTRL.LOCK = 0 := by
    rw [Chip.get_put_ne _ _ (by decide)]
    exact (Chip.get_put_ne _ _ (f := Reg.PG_CTRL.BAD) (by decide)).trans (c.get_put_self _ 0)
  rw [Chip.pgCtrl_lock h, hsound]
  split
  case isTrue hs => exact ⟨by simp [hs, Reg.PG_CTRL.LOCK, mkFld], by simp [Reg.PG_CTRL.LOCK, mkFld]⟩
  case isFalse hs => exact ⟨by simp [hs, hunlocked], fun _ => Chip.get_put_self _ _ 1⟩

/-- PG_CTRL_LOCK's write. -/
theorem State.pgCtrlLock_next {s : State} {w : Who} (h : s.chip.writeRuns w Reg.PG_CTRL.LOCK.off = true) (hoff : s.chip.on Reg.PG_CTRL.LOCK = false) :
    ∃ t, exec (.pgCtrlLock w) s = .next t ∧ t.pending = s.pending ∧ (t.chip.get Reg.PG_CTRL.LOCK = 1 ↔ s.chip.RgnsSound)
      ∧ (t.chip.get Reg.PG_CTRL.LOCK = 0 → t.chip.get Reg.PG_CTRL.BAD = 1)
      ∧ WroteOnly s.chip t.chip w Reg.PG_CTRL.LOCK.off [Reg.PG_CTRL.LOCK, Reg.PG_CTRL.BAD] := by
  have hexec : exec (.pgCtrlLock w) s = s.run (fun c => c.regWrite w Reg.PG_CTRL.LOCK.off 1) := by
    have hv : withFields 0 [(Reg.PG_CTRL.LOCK, 1)] = 1 := by decide
    rw [← hv]
    rfl
  have hopen : ∀ c, Recorded s.chip c → c.on Reg.PG_CTRL.LOCK = false := fun c hrec => (hrec.on_low (by decide)).trans hoff
  obtain ⟨c, t, hrec, hrun, hpend, hget, hwrote⟩ := State.onlyWrite_next (v := 1) (e := fun c => c.pgCtrl 1) h (by decide) (fun _ => rfl)
    (fun c hrec => Chip.pgCtrl_lock_fields (hopen c hrec)) (by decide)
  obtain ⟨hlock, hbad⟩ := Chip.get_pgCtrl_lock (hopen c hrec)
  have hsound : c.RgnsSound ↔ s.chip.RgnsSound := Chip.rgnsSound_congr fun f hf => hrec.get_low (by omega)
  rw [← hget] at hlock
  rw [← hget, ← hget] at hbad
  rw [hexec]
  exact ⟨t, hrun, hpend, hlock.trans hsound, hbad, hwrote⟩

end Sys2Proof.Machine
end

section
/-! Scrub commands (R240, R241). -/
namespace Sys2Proof.Machine

/-- Do the pages that a scrub is to go over exist: at least one, all in this package's DRAM and below the end of the address space? -/
def Chip.ScrubPagesExist (c : Chip) : Prop :=
  c.get Reg.PG_SCRUB_LEN.PAGES ≠ 0 ∧ c.pkg * 2 ^ 32 ≤ c.get Reg.PG_SCRUB_BASE.ADDR
    ∧ c.get Reg.PG_SCRUB_BASE.ADDR + c.get Reg.PG_SCRUB_LEN.PAGES ≤ c.pkg * 2 ^ 32 + c.get Reg.HUB_AMAP_DRAM.SIZE * 2 ^ 22
    ∧ c.get Reg.PG_SCRUB_BASE.ADDR + c.get Reg.PG_SCRUB_LEN.PAGES ≤ 2 ^ 35

theorem Recorded.scrubPagesExist {a c : Chip} (h : Recorded a c) : c.ScrubPagesExist ↔ a.ScrubPagesExist := by
  simp only [Chip.ScrubPagesExist, Chip.pkg, h.get_low (f := Reg.PG_SCRUB_LEN.PAGES) (by decide), h.get_low (f := Reg.PG_SCRUB_BASE.ADDR) (by decide),
    h.get_low (f := Reg.HUB_PKG_ID.PKG) (by decide), h.get_low (f := Reg.HUB_AMAP_DRAM.SIZE) (by decide)]

/-- What the registers say of a pass that has just been taken. -/
def scrubBegun : List (Fld × Nat) :=
  [(Reg.PG_SCRUB_STATUS.BUSY, 1), (Reg.PG_SCRUB_STATUS.RESULT, 0), (Reg.PG_SCRUB_BYTES.BYTES, 0), (Reg.PG_SCRUB_CORR.SYMBOLS, 0),
   (Reg.PG_SCRUB_CORR.UNCORR_PAGES, 0), (Reg.PG_SCRUB_FIRST.ADDR, 0), (Reg.PG_SCRUB_FIRST.VALID, 0)]

def scrubFields : List Fld := scrubBegun.map (·.1)

section
variable {c : Chip} {v : Nat} (hop : bits v 0 2 ≠ 0) (hgo : bit v 2 = false)
include hop hgo

/-- A command while a pass runs is refused. -/
theorem Chip.scrubCmd_of_busy (hbusy : c.on Reg.PG_SCRUB_STATUS.BUSY = true) : c.scrubCmd v = c.put Reg.PG_SCRUB_STATUS.RESULT 3 := by
  simp [Chip.scrubCmd, hop, hgo, hbusy]

/-- One of pages that do not all exist is refused. -/
theorem Chip.scrubCmd_of_noPages (hfree : c.on Reg.PG_SCRUB_STATUS.BUSY = false) (hpages : ¬ c.ScrubPagesExist) :
    c.scrubCmd v = c.put Reg.PG_SCRUB_STATUS.RESULT 2 := by
  unfold Chip.scrubCmd
  simp only [hop, hgo, hfree, Bool.false_eq_true, if_false]
  refine if_pos ?_
  simp only [Chip.ScrubPagesExist] at hpages
  simp only [Bool.or_eq_true, decide_eq_true_eq]
  omega

/-- One of pages that exist begins its pass. -/
theorem Chip.scrubCmd_of_pages (hfree : c.on Reg.PG_SCRUB_STATUS.BUSY = false) (hpages : c.ScrubPagesExist) :
    c.scrubCmd v = ({ c with pg := { c.pg with
      scrub := some ⟨c.get Reg.PG_SCRUB_BASE.ADDR, c.get Reg.PG_SCRUB_LEN.PAGES, bits v 0 2, false, none⟩ } } : Chip).puts scrubBegun := by
  unfold Chip.scrubCmd
  simp only [hop, hgo, hfree, Bool.false_eq_true, if_false]
  refine if_neg ?_
  obtain ⟨hsome, hbase, hend, htop⟩ := hpages
  simp only [Bool.or_eq_true, decide_eq_true_eq]
  omega

end

/-- ABORT alone marks the pass that runs. -/
theorem Chip.scrubCmd_abort (c : Chip) :
    c.scrubCmd 4 = { c with pg := { c.pg with scrub := c.pg.scrub.map (fun q => { q with abort := true }) } } := rfl

/-- A command that is no ABORT writes the pass's registers, and of the engine's state the pass only. -/
theorem Chip.scrubCmd_moved (c : Chip) {v : Nat} (hop : bits v 0 2 ≠ 0) (hgo : bit v 2 = false) :
    c.PgMoved (c.scrubCmd v) scrubFields ∧ (c.scrubCmd v).mc = c.mc ∧ (c.scrubCmd v).pg = { c.pg with scrub := (c.scrubCmd v).pg.scrub } := by
  have hresult : ∀ n, c.PgMoved (c.put Reg.PG_SCRUB_STATUS.RESULT n) scrubFields :=
    fun n => .of_only (OnlyFields.puts c [(Reg.PG_SCRUB_STATUS.RESULT, n)] (by simp [scrubFields, scrubBegun]))
  by_cases hbusy : c.on Reg.PG_SCRUB_STATUS.BUSY = true
  · rw [Chip.scrubCmd_of_busy hop hgo hbusy]
    exact ⟨hresult 3, rfl, rfl⟩
  · rw [Bool.not_eq_true] at hbusy
    by_cases hpages : c.ScrubPagesExist
    · rw [Chip.scrubCmd_of_pages hop hgo hbusy hpages]
      exact ⟨((Chip.PgMoved.refl c _).setPg _).trans (.of_only (OnlyFields.puts _ _ fun p hp => List.mem_map_of_mem hp)), rfl, rfl⟩
    · rw [Chip.scrubCmd_of_noPages hop hgo hbusy hpages]
      exact ⟨hresult 2, rfl, rfl⟩

/-- The three commands are writes of their numbers. -/
theorem exec_scrub {s : State} {w : Who} {p : Instr × Nat} (hp : p ∈ [(Instr.scrubCheck w, 1), (.scrubCorrect w, 2), (.scrubInit w, 3)]) :
    bits p.2 0 2 = p.2 ∧ p.2 ≠ 0 ∧ bit p.2 2 = false ∧ exec p.1 s = s.run (fun c => c.regWrite w Reg.PG_SCRUB_CMD.OP.off p.2) := by
  simp only [List.mem_cons, List.not_mem_nil, or_false] at hp
  rcases hp with rfl | rfl | rfl
  · exact ⟨rfl, (by decide : 1 ≠ 0), (by decide : bit 1 2 = false), rfl⟩
  · exact ⟨rfl, (by decide : 2 ≠ 0), (by decide : bit 2 2 = false), rfl⟩
  · exact ⟨rfl, (by decide : 3 ≠ 0), (by decide : bit 3 2 = false), rfl⟩

variable {s : State} {w : Who}

/-- A scrub command while no pass runs. -/
theorem State.scrub_next {v : Nat} (h : s.chip.writeRuns w Reg.PG_SCRUB_CMD.OP.off = true) (hop : bits v 0 2 ≠ 0) (hgo : bit v 2 = false)
    (hfree : s.chip.on Reg.PG_SCRUB_STATUS.BUSY = false) :
    ∃ t, s.run (fun c => c.regWrite w Reg.PG_SCRUB_CMD.OP.off v) = .next t ∧ t.pending = s.pending
      ∧ (s.chip.ScrubPagesExist → (∀ p ∈ scrubBegun, t.chip.get p.1 = p.2)
          ∧ t.chip.pg.scrub = some ⟨s.chip.get Reg.PG_SCRUB_BASE.ADDR, s.chip.get Reg.PG_SCRUB_LEN.PAGES, bits v 0 2, false, none⟩)
      ∧ (¬ s.chip.ScrubPagesExist → t.chip.get Reg.PG_SCRUB_STATUS.RESULT = 2 ∧ t.chip.get Reg.PG_SCRUB_STATUS.BUSY = 0
          ∧ t.chip.pg.scrub = s.chip.pg.scrub)
      ∧ WroteOnly { s.chip with pg := { s.chip.pg with scrub := t.chip.pg.scrub } } t.chip w Reg.PG_SCRUB_CMD.OP.off scrubFields := by
  obtain ⟨c, t, hrec, hrun, hpend, hget, hpg, hwrote⟩ := State.pgWrite_next (v := v) (e := fun c => c.scrubCmd v) h (by decide) (fun _ => rfl)
    (fun c _ => (c.scrubCmd_moved hop hgo).1) (by decide) (fun c _ => (c.scrubCmd_moved hop hgo).2.1)
  have hold : c.pg = s.chip.pg := by rw [hrec.rest]
  have hfree' : c.on Reg.PG_SCRUB_STATUS.BUSY = false := (hrec.on_low (by decide)).trans hfree
  have hpart : t.chip.pg = { s.chip.pg with scrub := t.chip.pg.scrub } := by
    rw [hpg, ← hold]
    exact (c.scrubCmd_moved hop hgo).2.2
  rw [hpart] at hwrote
  refine ⟨t, hrun, hpend, fun hpages => ?_, fun hpages => ?_, hwrote⟩
  · have htaken := Chip.scrubCmd_of_pages hop hgo hfree' (hrec.scrubPagesExist.2 hpages)
    have hsmall : ∀ p ∈ scrubBegun, p.2 % 2 ^ p.1.width = p.2 := by decide
    refine ⟨fun p hp => ?_, ?_⟩
    · rw [hget, htaken, Chip.get_puts_mem _ (by decide) hp, hsmall p hp]
    · rw [hpg, htaken, Chip.puts_pg, hrec.get_low (by decide), hrec.get_low (by decide)]
  · have hrefused := Chip.scrubCmd_of_noPages hop hgo hfree' (mt hrec.scrubPagesExist.1 hpages)
    refine ⟨?_, ?_, ?_⟩
    · rw [hget, hrefused, Chip.get_put_self]
      rfl
    · have hzero := hfree'
      have hlt := c.get_lt Reg.PG_SCRUB_STATUS.BUSY
      simp only [Chip.on, beq_eq_false_iff_ne] at hzero
      simp only [Reg.PG_SCRUB_STATUS.BUSY, mkFld] at hzero hlt ⊢
      rw [hget, hrefused, Chip.get_put_ne _ _ (by decide)]
      omega
    · rw [hpg, hrefused]
      exact congrArg PgSt.scrub hold

/-- One while a pass runs. -/
theorem State.scrub_refused {v : Nat} (h : s.chip.writeRuns w Reg.PG_SCRUB_CMD.OP.off = true) (hop : bits v 0 2 ≠ 0) (hgo : bit v 2 = false)
    (hbusy : s.chip.on Reg.PG_SCRUB_STATUS.BUSY = true) :
    ∃ t, s.run (fun c => c.regWrite w Reg.PG_SCRUB_CMD.OP.off v) = .next t ∧ t.pending = s.pending ∧ t.chip.get Reg.PG_SCRUB_STATUS.RESULT = 3
      ∧ WroteOnly s.chip t.chip w Reg.PG_SCRUB_CMD.OP.off [Reg.PG_SCRUB_STATUS.RESULT] := by
  obtain ⟨t, hrun, hpend, hget, hwrote⟩ := State.putsWrite_next (v := v) (l := [(Reg.PG_SCRUB_STATUS.RESULT, 3)]) h (by decide)
    (fun c hrec => Chip.scrubCmd_of_busy hop hgo ((hrec.on_low (by decide)).trans hbusy)) (by decide) (by decide)
  exact ⟨t, hrun, hpend, hget _ (List.mem_singleton_self _), hwrote⟩

/-- ABORT. -/
theorem State.scrubAbort_next {q : Scrub} (h : s.chip.writeRuns w Reg.PG_SCRUB_CMD.OP.off = true) (hq : s.chip.pg.scrub = some q) :
    ∃ t, exec (.scrubAbort w) s = .next t ∧ t.pending = s.pending ∧ t.chip.pg.scrub = some { q with abort := true }
      ∧ WroteOnly { s.chip with pg := { s.chip.pg with scrub := t.chip.pg.scrub } } t.chip w Reg.PG_SCRUB_CMD.OP.off [] := by
  have hexec : exec (.scrubAbort w) s = s.run (fun c => c.regWrite w Reg.PG_SCRUB_CMD.OP.off 4) := by
    have hv : withFields 0 [(Reg.PG_SCRUB_CMD.ABORT, 1)] = 4 := by decide
    rw [← hv]
    rfl
  obtain ⟨c, t, hrec, hrun, hpend, -, hpg, hwrote⟩ := State.pgWrite_next (v := 4) (l := []) h (by decide) Chip.scrubCmd_abort
    (fun c _ => (Chip.PgMoved.refl c _).setPg _) (by decide) (fun _ _ => rfl)
  have hold : c.pg = s.chip.pg := by rw [hrec.rest]
  have hmarked : t.chip.pg = { s.chip.pg with scrub := some { q with abort := true } } := by
    rw [hpg, hold, hq]
    rfl
  rw [hexec]
  refine ⟨t, hrun, hpend, by rw [hmarked], ?_⟩
  rw [hmarked] at hwrote ⊢
  exact hwrote

end Sys2Proof.Machine
end

section
/-! A scrub's pages (R235, R240, R241). -/
namespace Sys2Proof.Machine

/-- The engine's state with another pass. -/
def Chip.withScrub (c : Chip) (q : Option Scrub) : Chip := { c with pg := { c.pg with scrub := q } }

/-- The pass once its page is done. -/
def Scrub.advanced (q : Scrub) : Scrub := { q with next := q.next + 1, left := q.left - 1, job := none }

/-- What the registers say of a pass that has ended. -/
def scrubEnded (q : Scrub) : List (Fld × Nat) := [(Reg.PG_SCRUB_STATUS.BUSY, 0), (Reg.PG_SCRUB_STATUS.RESULT, if q.abort then 4 else 1)]

section
variable {c : Chip} {q : Scrub} (hq : c.pg.scrub = some q)
include hq

theorem Chip.scrubNext_of_more (hleft : 1 < q.left) (hgo : q.abort = false) : c.scrubNext = c.withScrub (some q.advanced) := by
  unfold Chip.scrubNext
  simp only [hq]
  rw [if_neg (Nat.not_le.2 hleft), if_neg (by simp [hgo])]
  rfl

theorem Chip.scrubNext_of_last (hend : q.left ≤ 1 ∨ q.abort = true) : c.scrubNext = (c.withScrub none).puts (scrubEnded q) := by
  unfold Chip.scrubNext
  simp only [hq]
  by_cases hleft : q.left ≤ 1
  · rw [if_pos hleft]
    rfl
  · have habort := hend.resolve_left hleft
    rw [if_neg hleft, if_pos habort, scrubEnded, if_pos habort]
    rfl

/-- The pass passes over a page inside a carve-out. -/
theorem Chip.scrubPage_of_carve (hcarve : c.isCarve (64 * winLine (64 * q.next)) = true) : c.scrubPage = c.scrubNext := by
  unfold Chip.scrubPage
  simp only [hq, hcarve, if_true]

/-- It waits while its job is not the oldest of the page. -/
theorem Chip.scrubPage_of_later {id : Nat} (hcarve : c.isCarve (64 * winLine (64 * q.next)) = false) (hjob : q.job = some id)
    (hlater : c.pgFront .scrub id = none) : c.scrubPage = c := by
  unfold Chip.scrubPage Chip.scrubStep
  simp only [hq, hcarve, hjob, hlater, Bool.false_eq_true, if_false]

end

/-- The end of a page changes the pass and what the registers say of it. -/
theorem Chip.scrubNext_moved (c : Chip) : c.PgMoved c.scrubNext [Reg.PG_SCRUB_STATUS.BUSY, Reg.PG_SCRUB_STATUS.RESULT] := by
  cases hq : c.pg.scrub with
  | none =>
    have hidle : c.scrubNext = c := by simp [Chip.scrubNext, hq]
    rw [hidle]
    exact .refl c _
  | some q =>
    by_cases hend : q.left ≤ 1 ∨ q.abort = true
    · rw [Chip.scrubNext_of_last hq hend]
      exact ((Chip.PgMoved.refl c _).setPg _).trans (.of_only (OnlyFields.puts _ _ (by simp [scrubEnded])))
    · rw [not_or, Nat.not_le, Bool.not_eq_true] at hend
      rw [Chip.scrubNext_of_more hq hend.1 hend.2]
      exact (Chip.PgMoved.refl c _).setPg _

/-! ### INIT of a page whose channel serves -/

/-- The page is counted before its slots are written. -/
def Chip.initCounted (c : Chip) : Chip := c.put Reg.PG_SCRUB_BYTES.BYTES (c.get Reg.PG_SCRUB_BYTES.BYTES + 4096)

/-- Slots and check block leave for their channels. -/
theorem Chip.scrubInit_moved {c : Chip} {page ch ca : Nat} (hch : c.channelOf (64 * winLine (64 * page)) = some (ch, ca)) (hserves : c.mcServes ch = true) :
    (c.bufDropPage page).initCounted.PgMoved (c.scrubInit page) flipFields := by
  have hch' : (c.bufDropPage page).channelOf (64 * winLine (64 * page)) = some (ch, ca) := hch
  have hserves' : (c.bufDropPage page).mcServes ch = true := hserves
  have hslots : ∀ x : Chip, x.PgMoved ((List.range 64).foldl (fun c i => c.pgEmit (winLine (64 * page) + i) Raw.zero false (hubAgent c.pkg 0 0) 0) x) flipFields :=
    Chip.PgMoved.foldl (fun c i => Chip.PgMoved.pgEmit c _ _ _ _ _ _) _
  unfold Chip.scrubInit
  simp only [hch', hserves', if_true]
  refine (hslots _).trans ?_
  split
  next r _ => exact (Chip.PgMoved.foldl (fun c k => Chip.PgMoved.chkPut c k _ _) _ _).trans (Chip.PgMoved.chkFlush _)
  next => exact Chip.PgMoved.chkFlush _

/-- The pass's own job is the engine's only one, and so the oldest of its page. -/
theorem Chip.pgFront_of_only {c : Chip} {j : PgJob} (h : c.pg.jobs = [j]) : c.pgFront j.kind j.id = some j := by
  unfold Chip.pgFront
  simp [h]

/-- The job that a pass posts for its next page. -/
def Chip.pageJob (c : Chip) (q : Scrub) : PgJob :=
  ⟨c.pg.nextJob, .scrub, 64 * q.next, hubAgent c.pkg 0 0, 0, ⟨0#512, false⟩, c.yrwMode 0, [], [], none, 0⟩

/-- The package once the pass has posted it. -/
def Chip.pagePosted (c : Chip) (q : Scrub) : Chip :=
  { c with pg := { c.pg with nextJob := c.pg.nextJob + 1, jobs := c.pg.jobs ++ [c.pageJob q], scrub := some { q with job := some c.pg.nextJob } } }

/-- With no other work, an INIT takes up its page and does it. -/
theorem Chip.scrubPage_of_init {c : Chip} {q : Scrub} (hq : c.pg.scrub = some q) (hcarve : c.isCarve (64 * winLine (64 * q.next)) = false) (hop : q.op = 3)
    (hjob : q.job = none) (hjobs : c.pg.jobs = []) :
    c.scrubPage = (((c.pagePosted q).pgDrop c.pg.nextJob).scrubInit q.next).scrubNext := by
  have hposted : c.scrubPage = (c.pagePosted q).scrubStep q c.pg.nextJob := by
    unfold Chip.scrubPage
    simp only [hq, hcarve, hjob, Bool.false_eq_true, if_false]
    rfl
  have hfront : (c.pagePosted q).pgFront .scrub c.pg.nextJob = some (c.pageJob q) :=
    Chip.pgFront_of_only (c := c.pagePosted q) (congrArg (· ++ [c.pageJob q]) hjobs)
  rw [hposted, Chip.scrubStep, hfront]
  exact if_pos hop

variable {s : State} {q : Scrub}

/-- SCRUB_PAGE of a page inside a carve-out. -/
theorem State.scrubPage_carve (hs : s.chip.halted = false) (hq : s.chip.pg.scrub = some q) (hcarve : s.chip.isCarve (64 * winLine (64 * q.next)) = true) :
    ∃ t, exec .scrubPage s = .next t ∧ t.pending = s.pending ∧ (1 < q.left → q.abort = false → t.chip = s.chip.withScrub (some q.advanced))
      ∧ (q.left ≤ 1 ∨ q.abort = true → t.chip.pg.scrub = none ∧ ∀ p ∈ scrubEnded q, t.chip.get p.1 = p.2)
      ∧ OnlyFields { s.chip with pg := { s.chip.pg with scrub := t.chip.pg.scrub } } t.chip [Reg.PG_SCRUB_STATUS.BUSY, Reg.PG_SCRUB_STATUS.RESULT] := by
  have hnext := Chip.scrubPage_of_carve hq hcarve
  refine ⟨_, State.run_of_eq (f := Chip.scrubPage) hs hnext s.chip.scrubNext_moved.otp, rfl, Chip.scrubNext_of_more hq, fun hend => ?_, ?_⟩
  · have hlast := Chip.scrubNext_of_last hq hend
    have hsmall : ∀ p ∈ scrubEnded q, p.2 % 2 ^ p.1.width = p.2 := by
      unfold scrubEnded
      cases q.abort <;> decide
    have hdistinct : ((scrubEnded q).map (fun p => p.1.addr)).Nodup := by
      show ([Reg.PG_SCRUB_STATUS.BUSY, Reg.PG_SCRUB_STATUS.RESULT].map Fld.addr).Nodup
      decide
    dsimp only
    rw [hlast]
    exact ⟨by rw [Chip.puts_pg]; rfl, fun p hp => (Chip.get_puts_mem _ hdistinct hp).trans (hsmall p hp)⟩
  · by_cases hend : q.left ≤ 1 ∨ q.abort = true
    · dsimp only
      rw [Chip.scrubNext_of_last hq hend, Chip.puts_pg]
      exact OnlyFields.puts _ _ (by simp [scrubEnded])
    · rw [not_or, Nat.not_le, Bool.not_eq_true] at hend
      dsimp only
      rw [Chip.scrubNext_of_more hq hend.1 hend.2]
      exact ⟨rfl, fun _ _ => rfl, rfl⟩

/-- SCRUB_PAGE of an INIT. -/
theorem State.scrubPage_init {ch ca : Nat} (hs : s.chip.halted = false) (hq : s.chip.pg.scrub = some q)
    (hcarve : s.chip.isCarve (64 * winLine (64 * q.next)) = false) (hop : q.op = 3) (hch : s.chip.channelOf (64 * winLine (64 * q.next)) = some (ch, ca))
    (hserves : s.chip.mcServes ch = true) (hjob : q.job = none) (hjobs : s.chip.pg.jobs = []) :
    ∃ t, exec .scrubPage s = .next t ∧ t.pending = s.pending
      ∧ t.chip.get Reg.PG_SCRUB_BYTES.BYTES = (s.chip.get Reg.PG_SCRUB_BYTES.BYTES + 4096) % 2 ^ Reg.PG_SCRUB_BYTES.BYTES.width
      ∧ t.chip.coh = s.chip.coh ∧ t.chip.dram = s.chip.dram ∧ t.chip.ctx = s.chip.ctx ∧ t.chip.aud = s.chip.aud := by
  have hpage := Chip.scrubPage_of_init hq hcarve hop hjob hjobs
  generalize hx : (s.chip.pagePosted q).pgDrop s.chip.pg.nextJob = x at hpage
  have hbegun : s.chip.PgMoved (x.bufDropPage q.next) [] := hx ▸ (Chip.PgMoved.refl s.chip []).setPg _
  have hinit : (x.bufDropPage q.next).initCounted.PgMoved (x.scrubInit q.next) flipFields :=
    Chip.scrubInit_moved (c := x) (by rw [← hx]; exact hch) (by rw [← hx]; exact hserves)
  have hcounted : (x.bufDropPage q.next).PgMoved (x.bufDropPage q.next).initCounted [Reg.PG_SCRUB_BYTES.BYTES] :=
    .of_only (OnlyFields.puts _ [(Reg.PG_SCRUB_BYTES.BYTES, _)] (by simp))
  have hend := (x.scrubInit q.next).scrubNext_moved
  have hbytes : (x.scrubInit q.next).scrubNext.get Reg.PG_SCRUB_BYTES.BYTES
      = (s.chip.get Reg.PG_SCRUB_BYTES.BYTES + 4096) % 2 ^ Reg.PG_SCRUB_BYTES.BYTES.width := by
    rw [hend.get (by decide), hinit.get (by decide), Chip.initCounted, Chip.get_put_self, hbegun.get (by simp)]
  have hall : s.chip.PgMoved (x.scrubInit q.next).scrubNext
      ([Reg.PG_SCRUB_BYTES.BYTES] ++ flipFields ++ [Reg.PG_SCRUB_STATUS.BUSY, Reg.PG_SCRUB_STATUS.RESULT]) :=
    (hbegun.mono (by simp)).trans ((hcounted.mono (by simp)).trans ((hinit.mono (by simp; tauto)).trans (hend.mono (by simp))))
  refine ⟨_, State.run_of_eq (f := Chip.scrubPage) hs hpage hall.otp, rfl, hbytes, ?_⟩
  refine ⟨?_, ?_, ?_, ?_⟩ <;> (dsimp only; rw [hall.rest])

end Sys2Proof.Machine

open Sys2Proof Sys2Proof.Machine

/-- Settles O17: each command is a write of its register or one step of the pass, and changes the lock, the pass and the pass's registers. -/
theorem scrubPasses : Obligations.ScrubPasses := by
  unfold Obligations.ScrubPasses
  refine ⟨fun s w h hoff => State.pgCtrlLock_next h hoff, fun s w h => ⟨fun p hp => ?command, fun q hq => State.scrubAbort_next h hq⟩,
    fun s q hs hq => ⟨fun hcarve => ?carve, fun ch ca hcarve hop hch hserves hjob hjobs => State.scrubPage_init hs hq hcarve hop hch hserves hjob hjobs,
      fun id hcarve hjob hlater => ?later⟩⟩
  case command =>
    obtain ⟨hval, hsome, hgo, hexec⟩ := exec_scrub (s := s) hp
    have hop : bits p.2 0 2 ≠ 0 := by rwa [hval]
    rw [hexec]
    refine ⟨fun hfree => ?_, fun hbusy => State.scrub_refused h hop hgo hbusy⟩
    obtain ⟨t, hrun, hpend, htaken, hrefused, hwrote⟩ := State.scrub_next h hop hgo hfree
    rw [hval] at htaken
    refine ⟨t, hrun, hpend, fun hpages hbase hend htop => ?_, fun hbad => hrefused fun ⟨hpages, hbase, hend, _⟩ => by omega, hwrote⟩
    obtain ⟨hregs, hpass⟩ := htaken ⟨hpages, hbase, hend, htop⟩
    simp only [scrubBegun, List.forall_mem_cons] at hregs
    obtain ⟨hbusy, hresult, hbytes, hsyms, huncorr, -⟩ := hregs
    exact ⟨hbusy, hresult, hbytes, hsyms, huncorr, hpass⟩
  case carve =>
    obtain ⟨t, hrun, hpend, hmore, hlast, honly⟩ := State.scrubPage_carve hs hq hcarve
    refine ⟨t, hrun, hpend, hmore, fun hend => ?_, honly⟩
    obtain ⟨hpass, hregs⟩ := hlast hend
    simp only [scrubEnded, List.forall_mem_cons] at hregs
    obtain ⟨hbusy, hresult, -⟩ := hregs
    exact ⟨hpass, hbusy, hresult⟩
  case later => exact State.run_of_eq (f := Chip.scrubPage) hs (Chip.scrubPage_of_later hq hcarve hjob hlater) rfl
end

section
/-! Lines over plain slots (R232, R236): what a job reads of a slot that came back plain and clean, what it computes, and what a write sends. -/
namespace Sys2Proof.Machine

/-! ### What a job reads -/

/-- A slot that the check cache does not hold is had as its channel gave it. -/
theorem Chip.jobFetch_of_got {c : Chip} {j : PgJob} {wl ch ca : Nat} (hchk : c.chkFind wl = none) (hch : c.channelOf (64 * wl) = some (ch, ca)) :
    c.jobFetch j wl = SMap.get? j.got (ch * 2 ^ 34 + ca / 64) := by
  unfold Chip.jobFetch
  simp only [hchk, hch]

/-- One that it holds is had from there. -/
theorem Chip.jobFetch_of_cached {c : Chip} {j : PgJob} {wl : Nat} {k : ChkLine} (hchk : c.chkFind wl = some k) :
    c.jobFetch j wl = some (some (rawPlain k.data)) := by
  unfold Chip.jobFetch
  simp only [hchk]

/-- A plain slot as it was read. -/
def plainRead (r : Raw) : PgRead := .had ⟨r.data, false⟩ .plain r

theorem Chip.pgReadC_of_plain (c : Chip) {f : Fetch} {wl : Nat} {r : Raw} (hf : f wl = some (some r)) (hform : r.form (wl % 4) false = .plain)
    (hflags : r.flags .plain = []) (whole : Bool) : c.pgReadC f wl whole = .ok (plainRead r) := by
  unfold Chip.pgReadC
  simp only [hf, hform, hflags, List.isEmpty_nil, if_true]
  rfl

/-! ### What a write computes -/

@[simp] theorem rawPlain_data (d : Line) : (rawPlain d).data = d := rfl

/-- The write of a plain line over a plain slot: that slot alone. -/
def PgWrite.overPlain (wl : Nat) (d : Line) (r : Raw) : PgWrite :=
  ⟨[(wl, rawPlain d)], [(wl, d ^^^ r.data)], [(wl, plainRead r)], 0, 4, 4, false, false⟩

/-- With the check lines that it changes. -/
def PgOut.overPlain (wl : Nat) (d : Line) (r : Raw) (chk : List (Nat × Line)) : PgOut := ⟨.overPlain wl d r, [], chk, false, false⟩

section
variable (c : Chip) {f : Fetch} {wl : Nat} {r : Raw} {ld : LD} (hf : f wl = some (some r)) (hform : r.form (wl % 4) false = .plain)
  (hflags : r.flags .plain = []) (hsound : ld.poison = false) (hnew : r ≠ rawPlain ld.data)
include hf hform hflags hsound hnew

theorem Chip.pgWriteC_of_plain : c.pgWriteC f wl ld 0 = .ok (.overPlain wl ld.data r) := by
  have hchanged : ¬ f wl = some (some (rawPlain ld.data)) := by simpa [hf] using hnew
  unfold Chip.pgWriteC
  simp only [hsound, c.pgReadC_of_plain hf hform hflags true, plainWrite, hchanged, Bool.false_eq_true, if_false]
  rfl

/-- Outside every region nothing is kept for the page. -/
theorem Chip.pgWriteAll_of_unprotected (hrgn : c.pgDataRgn wl = none) : c.pgWriteAll f wl ld 0 false = .ok (.overPlain wl ld.data r []) := by
  unfold Chip.pgWriteAll
  simp only [Bool.false_and, Bool.false_eq_true, if_false, c.pgWriteC_of_plain hf hform hflags hsound hnew, hrgn]
  rfl

/-- Inside a region the page's check lines take the code of the change. -/
theorem Chip.pgWriteAll_of_protected {rg : PgRgn} {ck : List (Nat × Line)} (hrgn : c.pgDataRgn wl = some rg) (hdata : ld.data ≠ r.data)
    (hadd : chkAdd f rg wl [(wl, ld.data ^^^ r.data)] = .ok (some ck, false)) : c.pgWriteAll f wl ld 0 false = .ok (.overPlain wl ld.data r ck) := by
  have hdelta : ¬ (PgWrite.overPlain wl ld.data r).deltas.all (fun d => d.2 == 0#512) = true := by
    simp [PgWrite.overPlain, hdata]
  unfold Chip.pgWriteAll
  simp only [Bool.false_and, Bool.false_eq_true, if_false, c.pgWriteC_of_plain hf hform hflags hsound hnew, hrgn]
  rw [if_neg (by simp [PgWrite.overPlain]), if_neg hdelta]
  have hsum : chkAdd f rg wl (PgWrite.overPlain wl ld.data r).deltas = .ok (some ck, false) := hadd
  simp only [hsum]
  rfl

end

/-- The change of one line of a page, as its 64 lines. -/
def pageChange (wl : Nat) (d : Line) : List Line := (List.range 64).map (fun i => if wl / 64 * 64 + i = wl then d else 0#512)

theorem changes_of_line (wl : Nat) (d : Line) :
    (List.range 64).map (fun i => (([(wl, d)].find? (fun x => x.1 == wl / 64 * 64 + i)).map (·.2)).getD 0#512) = pageChange wl d := by
  refine List.map_congr_left fun i _ => ?_
  by_cases h : wl / 64 * 64 + i = wl
  · simp [h]
  · simp [h, Ne.symm h]

/-- The code of a change fills as many lines as the region's check blocks have. -/
theorem chkLinesOf_single {rg : PgRgn} {wl ck : Nat} (hlines : rg.chkLines wl = [ck]) (syms : List Nat) : ∃ add, chkLinesOf rg syms = [add] := by
  have hlen : rg.blk / 64 = 1 := by simpa [PgRgn.chkLines] using congrArg List.length hlines
  exact ⟨_, by rw [chkLinesOf, hlen, linesOf]; rfl⟩

/-- The page's one check line, had clean, takes the code of the change. -/
theorem chkAdd_of_line {f : Fetch} {rg : PgRgn} {wl ck : Nat} {k : Line} (hlines : rg.chkLines wl = [ck]) (hck : f ck = some (some (rawPlain k)))
    (hclean : (rawPlain k).flags .plain = []) (d : Line) :
    ∃ add, chkLinesOf rg (pageChk rg.t (pageChange wl d)) = [add] ∧ chkAdd f rg wl [(wl, d)] = .ok (some [(ck, k ^^^ add)], false) := by
  obtain ⟨add, hadd⟩ := chkLinesOf_single hlines (pageChk rg.t (pageChange wl d))
  have hhad : fetchAll f [ck] = .ok [some (rawPlain k)] := by simp [fetchAll, hck]
  refine ⟨add, hadd, ?_⟩
  unfold chkAdd
  simp only [hlines, hhad, changes_of_line, hadd]
  simp [chkRaw, hclean, dataOf]

end Sys2Proof.Machine
end

section
/-! What the engine's jobs do over plain slots (R232, R236, R237): a write's slot leaves for its channel, and its check line takes its code. -/
namespace Sys2Proof.Machine

/-! ### The map of the channels -/

section
variable {a b : Chip} (h : ∀ f : Fld, f.addr < 8 * 0xC4000000 → b.get f = a.get f)
include h

/-- An interleave set is said by its own fields (R28). -/
theorem Chip.ilv_congr {n : Nat} (hn : n < 8) (off : Nat) :
    b.ilvHolds n off = a.ilvHolds n off ∧ b.get (Reg.HUB_ILV.BASE n) = a.get (Reg.HUB_ILV.BASE n)
      ∧ b.get (Reg.HUB_ILV.NUM_CH n) = a.get (Reg.HUB_ILV.NUM_CH n) ∧ b.get (Reg.HUB_ILV.FIRST_CH n) = a.get (Reg.HUB_ILV.FIRST_CH n) := by
  have hfld : ∀ f ∈ [Reg.HUB_ILV.EN n, Reg.HUB_ILV.BASE n, Reg.HUB_ILV.SIZE n, Reg.HUB_ILV.NUM_CH n, Reg.HUB_ILV.FIRST_CH n],
      b.get f = a.get f := fun f hf => by
    refine h f ?_
    simp only [List.mem_cons, List.not_mem_nil, or_false] at hf
    rcases hf with rfl | rfl | rfl | rfl | rfl <;>
      simp only [Reg.HUB_ILV.EN, Reg.HUB_ILV.BASE, Reg.HUB_ILV.SIZE, Reg.HUB_ILV.NUM_CH, Reg.HUB_ILV.FIRST_CH, mkFld] <;> omega
  simp only [List.forall_mem_cons] at hfld
  obtain ⟨hen, hbase, hsize, hnum, hfirst, -⟩ := hfld
  exact ⟨by rw [Chip.ilvHolds, Chip.ilvHolds, Chip.on, Chip.on, hen, hbase, hsize], hbase, hnum, hfirst⟩

/-- A channel's capacity is said by its own fields (R203). -/
theorem Chip.mcCap_congr {ch : Nat} (hch : ch < 64) : b.mcCap ch = a.mcCap ch := by
  have hfld : ∀ f ∈ [Reg.MC_CFG.LOCK ch, Reg.MC_CFG.EN ch, Reg.MC_CFG.DIMMS ch, Reg.MC_CFG.RANKS ch, Reg.MC_CFG.STACK ch, Reg.MC_CFG.DENSITY ch],
      b.get f = a.get f := fun f hf => by
    refine h f ?_
    simp only [List.mem_cons, List.not_mem_nil, or_false] at hf
    rcases hf with rfl | rfl | rfl | rfl | rfl | rfl <;>
      simp only [Reg.MC_CFG.LOCK, Reg.MC_CFG.EN, Reg.MC_CFG.DIMMS, Reg.MC_CFG.RANKS, Reg.MC_CFG.STACK, Reg.MC_CFG.DENSITY, mkFld] <;> omega
  simp only [List.forall_mem_cons] at hfld
  obtain ⟨hlock, hen, hdimms, hranks, hstack, hdensity, -⟩ := hfld
  unfold Chip.mcCap Chip.mcRb Chip.mcRowBits Chip.on
  rw [hlock, hen, hdimms, hranks, hstack, hdensity]

/-- Which channel a window offset lies in is said by the fields of the address map and of the channels (R26, R28). -/
theorem Chip.channelOf_congr (off : Nat) : b.channelOf off = a.channelOf off := by
  have hfind : (List.range 8).find? (fun n => b.ilvHolds n off) = (List.range 8).find? (fun n => a.ilvHolds n off) :=
    List.find?_congr fun n hn => (Chip.ilv_congr h (List.mem_range.1 hn) off).1
  unfold Chip.channelOf
  rw [Chip.on, Chip.on, h Reg.HUB_AMAP_LOCK.LOCK (by decide), h Reg.HUB_AMAP_DRAM.SIZE (by decide), hfind]
  split
  case isTrue => rfl
  case isFalse =>
    cases hn : (List.range 8).find? (fun n => a.ilvHolds n off) with
    | none => rfl
    | some n =>
      obtain ⟨-, hbase, hnum, hfirst⟩ := Chip.ilv_congr h (List.mem_range.1 (List.mem_of_find?_eq_some hn)) off
      dsimp only
      rw [hbase, hnum, hfirst]
      split
      case isTrue => rfl
      case isFalse hsome =>
        have hfirstLt : a.get (Reg.HUB_ILV.FIRST_CH n) < 2 ^ 5 := a.get_lt _
        have hnumLt : a.get (Reg.HUB_ILV.NUM_CH n) < 2 ^ 5 := a.get_lt _
        have hmod := Nat.mod_lt ((off - a.get (Reg.HUB_ILV.BASE n) * 2 ^ 34) / 4096) (Nat.pos_of_ne_zero hsome)
        rw [Chip.mcCap_congr h (by omega)]

end

/-! ### A job that ends -/

/-- The package once a job has left the engine and the slots that it read are counted (R247). -/
def Chip.jobEnded (c : Chip) (j : PgJob) : Chip := (c.pgDrop j.id).tagNote (c.jobFetch j) j.asked

/-- That is a count in one register; every other one is as it was. -/
theorem Chip.get_jobEnded (c : Chip) (j : PgJob) {f : Fld} (hf : f.addr ≠ Reg.YRW_CNT2.TAG_BAD.addr) : (c.jobEnded j).get f = c.get f :=
  Chip.get_put_ne _ _ hf

theorem Chip.channelOf_jobEnded (c : Chip) (j : PgJob) (off : Nat) : (c.jobEnded j).channelOf off = c.channelOf off :=
  Chip.channelOf_congr (fun f hf => c.get_jobEnded j (Nat.ne_of_lt (Nat.lt_trans hf (by decide)))) off

theorem Chip.paLine_jobEnded (c : Chip) (j : PgJob) (wl : Nat) : (c.jobEnded j).paLine wl = c.paLine wl := by
  rw [Chip.paLine, Chip.pkg, c.get_jobEnded j (by decide)]
  rfl

/-! ### A write's effect -/

/-- With no fault armed a slot leaves as it is (R243). -/
theorem Chip.pgEmit_of_unarmed {c : Chip} {wl ch ca : Nat} (r : Raw) (agent tenant : Nat) (wline : Option Nat)
    (harm : c.on Reg.PG_FLIP_MASK.ARM = false) (hch : c.channelOf (64 * wl) = some (ch, ca)) :
    c.pgEmit wl r false agent tenant wline = c.mcSend ch (ca / 64) agent tenant 0 (some r) wline := by
  unfold Chip.pgEmit
  simp only [hch, harm, Bool.false_and, Bool.false_eq_true, if_false]

/-- A check line that a write changes enters the check cache, dirty. -/
def Chip.chkTake (c : Chip) (k : Nat × Line) : Chip :=
  (((if (c.chkFind k.1).isNone then c.evHub ugPg 0x91 1 evNone else c).nrgEv domMem 16 0 1).chkPut k.1 k.2 true)

/-- The slot of a line that is written. -/
def Chip.slotSent (c : Chip) (wl ch ca agent tenant : Nat) (d : Line) : Chip :=
  (c.bufDropBlock (c.paLine wl / 4)).mcSend ch (ca / 64) agent tenant 0 (some (rawPlain d)) (some (c.paLine wl))

/-- A write over a plain slot sends that slot, and its check lines change. -/
theorem Chip.pgApply_of_plain {c : Chip} {wl ch ca agent tenant : Nat} {d : Line} {r : Raw} (ck : List (Nat × Line))
    (harm : c.on Reg.PG_FLIP_MASK.ARM = false) (hch : c.channelOf (64 * wl) = some (ch, ca)) :
    c.pgApply wl agent tenant (.overPlain wl d r ck) = ck.foldl Chip.chkTake (c.slotSent wl ch ca agent tenant d) := by
  have hemit : (c.bufDropBlock (c.paLine wl / 4)).pgEmit wl (rawPlain d) false agent tenant (some (c.paLine wl)) = c.slotSent wl ch ca agent tenant d :=
    Chip.pgEmit_of_unarmed _ _ _ _ harm hch
  rw [← hemit]
  rfl

/-- A search that found an entry finds what replaces it. -/
theorem SMap.find?_set_found {α : Type} {m : SMap α} {p : Nat × α → Bool} {a : Nat} {u v : α} (hm : m.find? p = some (a, u)) (hv : p (a, v) = true) :
    (SMap.set m a v).find? p = some (a, v) := by
  induction m with
  | nil => simp at hm
  | cons x m ih =>
    obtain ⟨k, y⟩ := x
    by_cases hlt : a < k
    · simp [SMap.set, hlt, hv]
    · by_cases heq : a = k
      · subst heq
        simp [SMap.set, hv]
      · have hx : p (k, y) = false := by
          by_contra h
          rw [Bool.not_eq_false] at h
          simp [h, Ne.symm heq] at hm
        rw [List.find?_cons_of_neg (by simp [hx])] at hm
        simp [SMap.set, hlt, heq, hx, ih hm]

/-- A check line that the cache holds takes its new data in place. -/
theorem Chip.chkTake_of_found {c : Chip} {ck : Nat} {k : ChkLine} (h : c.chkFind ck = some k) (d : Line) :
    ∃ n chk, c.chkTake (ck, d) = { c with nrg := n, pg := { c.pg with chk := chk } } ∧ (c.chkTake (ck, d)).chkFind ck = some ⟨d, true, 0⟩ := by
  obtain ⟨⟨a, l, old⟩, hfind, rfl⟩ := Option.map_eq_some_iff.1 h
  obtain ⟨n, hn⟩ : ∃ n, c.nrgEv domMem 16 0 1 = { c with nrg := n } := ⟨_, Chip.nrgEv_rest ..⟩
  have hline : l = ck := by simpa using List.find?_some hfind
  have htake : c.chkTake (ck, d) = { c with nrg := n, pg := { c.pg with chk := SMap.set c.pg.chk a (ck, ⟨d, true, 0⟩) } } := by
    unfold Chip.chkTake Chip.chkPut
    simp only [h, Option.isNone_some, Bool.false_eq_true, if_false, hn, hfind, Bool.true_or]
  refine ⟨n, _, htake, ?_⟩
  rw [htake, Chip.chkFind, SMap.find?_set_found hfind (by simp)]
  rfl

end Sys2Proof.Machine
end

section
/-! Page Guard's writes of lines over plain slots (R236, R237). -/
namespace Sys2Proof.Machine

variable {s : State} {job : Nat} {j : PgJob} {r : Raw} {ch ca : Nat}

/-- The front job of its page goes on. -/
theorem Chip.pgLineWrite_of_front {c : Chip} {o : PgOut} (hfront : c.pgFront .write job = some j)
    (ho : c.pgWriteAll (c.jobFetch j) (winLine j.line) j.ld j.yrw false = .ok o) :
    c.pgLineWrite job false = (c.jobEnded j).pgApply (winLine j.line) j.agent j.tenant o := by
  unfold Chip.pgLineWrite Chip.pgWriteStep
  simp only [hfront, ho]
  rfl

/-- A write over a plain slot ends its job, sends the slot, and changes its check lines. -/
theorem Chip.pgLineWrite_of_plain {c : Chip} {ck : List (Nat × Line)} (hfront : c.pgFront .write job = some j)
    (ho : c.pgWriteAll (c.jobFetch j) (winLine j.line) j.ld j.yrw false = .ok (.overPlain (winLine j.line) j.ld.data r ck))
    (harm : c.on Reg.PG_FLIP_MASK.ARM = false) (hch : c.channelOf (64 * winLine j.line) = some (ch, ca)) :
    c.pgLineWrite job false = ck.foldl Chip.chkTake ((c.jobEnded j).slotSent (winLine j.line) ch ca j.agent j.tenant j.ld.data) := by
  rw [Chip.pgLineWrite_of_front hfront ho, Chip.pgApply_of_plain]
  · rw [Chip.on, c.get_jobEnded j (by decide)]
    exact harm
  · rw [c.channelOf_jobEnded]
    exact hch

/-- What the channel's path takes for the write of a line. -/
def Chip.lineReq (c : Chip) (j : PgJob) (ch ca : Nat) : McReq :=
  ⟨ca / 64, j.agent, j.tenant, 0, 0, some (rawPlain j.ld.data), (c.mcOf ch).ck, (c.mcOf ch).seq, none, c.pg.sent, some (c.paLine (winLine j.line))⟩

/-- The slot sent joins its channel's path; the job is gone, and so is the line's decoded block. -/
structure Chip.LineSent (c : Chip) (j : PgJob) (ch ca : Nat) (x : Chip) : Prop where
  path : (x.mcOf ch).inq = (c.mcOf ch).inq ++ [c.lineReq j ch ca]
  others : ∀ k, k ≠ ch → x.mcOf k = c.mcOf k
  jobs : x.pg.jobs = c.pg.jobs.filter (fun q => q.id != j.id)
  chk : x.pg.chk = c.pg.chk
  only : OnlyFields { c with mc := x.mc, pg := { c.pg with jobs := x.pg.jobs, buf := x.pg.buf, sent := x.pg.sent } } x [Reg.YRW_CNT2.TAG_BAD]

theorem Chip.lineSent (c : Chip) (j : PgJob) (ch ca : Nat) :
    c.LineSent j ch ca ((c.jobEnded j).slotSent (winLine j.line) ch ca j.agent j.tenant j.ld.data) where
  path := by
    rw [Chip.slotSent, Chip.mcSend, Chip.mcOf_mcMod_self, c.paLine_jobEnded]
    rfl
  others k hk := Chip.mcOf_mcMod_ne _ _ hk
  jobs := rfl
  chk := rfl
  only := ⟨rfl, fun f hf => c.get_jobEnded j (hf _ (List.mem_singleton_self _)), Chip.shadow_put _ _ _⟩

/-- PG_LINE_WRITE of a line outside every region. -/
theorem State.pgLineWrite_unprotected (hs : s.chip.halted = false) (hfront : s.chip.pgFront .write job = some j)
    (ho : s.chip.pgWriteAll (s.chip.jobFetch j) (winLine j.line) j.ld j.yrw false = .ok (.overPlain (winLine j.line) j.ld.data r []))
    (harm : s.chip.on Reg.PG_FLIP_MASK.ARM = false) (hch : s.chip.channelOf (64 * winLine j.line) = some (ch, ca)) :
    ∃ t, exec (.pgLineWrite job false) s = .next t ∧ t.pending = s.pending ∧ s.chip.LineSent j ch ca t.chip := by
  have hwrite := Chip.pgLineWrite_of_plain hfront ho harm hch
  have hsent := s.chip.lineSent j ch ca
  exact ⟨_, State.run_of_eq (f := fun c => c.pgLineWrite job false) hs hwrite rfl, rfl, hsent⟩

/-- PG_LINE_WRITE of a line inside a region, whose page's one check line is in the check cache. -/
theorem State.pgLineWrite_protected {ck : Nat} {k : ChkLine} {d : Line} (hs : s.chip.halted = false) (hfront : s.chip.pgFront .write job = some j)
    (ho : s.chip.pgWriteAll (s.chip.jobFetch j) (winLine j.line) j.ld j.yrw false = .ok (.overPlain (winLine j.line) j.ld.data r [(ck, d)]))
    (harm : s.chip.on Reg.PG_FLIP_MASK.ARM = false) (hch : s.chip.channelOf (64 * winLine j.line) = some (ch, ca)) (hck : s.chip.chkFind ck = some k) :
    ∃ t, exec (.pgLineWrite job false) s = .next t ∧ t.pending = s.pending ∧ (t.chip.mcOf ch).inq = (s.chip.mcOf ch).inq ++ [s.chip.lineReq j ch ca]
      ∧ t.chip.chkFind ck = some ⟨d, true, 0⟩ ∧ t.chip.pg.jobs = s.chip.pg.jobs.filter (fun q => q.id != j.id)
      ∧ CountedOnly { s.chip with
            mc := t.chip.mc
            pg := { s.chip.pg with jobs := t.chip.pg.jobs, buf := t.chip.pg.buf, sent := t.chip.pg.sent, chk := t.chip.pg.chk } } t.chip [Reg.YRW_CNT2.TAG_BAD] := by
  have hwrite := Chip.pgLineWrite_of_plain hfront ho harm hch
  have hsent := s.chip.lineSent j ch ca
  generalize (s.chip.jobEnded j).slotSent (winLine j.line) ch ca j.agent j.tenant j.ld.data = x at hwrite hsent
  have hfound : x.chkFind ck = some k := by
    rw [Chip.chkFind, hsent.chk]
    exact hck
  obtain ⟨n, chk, htake, hnew⟩ := Chip.chkTake_of_found hfound d
  have hdone : s.chip.pgLineWrite job false = x.chkTake (ck, d) := hwrite
  have hotp : x.otp = s.chip.otp := by rw [hsent.only.rest]
  refine ⟨_, State.run_of_eq (f := fun c => c.pgLineWrite job false) hs hdone (by rw [htake]; exact hotp), rfl, ?_, hnew, ?_, ?_⟩
  · rw [htake]
    exact hsent.path
  · rw [htake]
    exact hsent.jobs
  · rw [htake]
    obtain ⟨hrest, hregs, hshadow⟩ := CountedOnly.of_only hsent.only
    exact ⟨congrArg (fun y : Chip => { y with nrg := n, pg := { y.pg with chk := chk } }) hrest, hregs, hshadow⟩

end Sys2Proof.Machine
end

section
/-! Page Guard's reads of lines over plain slots (R232), which answer the RD_NC that waits at the home. -/
namespace Sys2Proof.Machine

variable {c : Chip} {job : Nat} {j : PgJob} {r : Raw}

/-- A read of a plain slot ends its job with the slot's line. -/
theorem Chip.pgLineRead_of_plain (hfront : c.pgFront .read job = some j) (hres : j.res = none) (hbuf : c.pg.buf.find? (fun b => b.1 == j.line / 4) = none)
    (hread : c.pgReadC (c.jobFetch j) (winLine j.line) false = .ok (plainRead r)) :
    c.pgLineRead job = ((c.jobEnded j).memArrive j.line ⟨r.data, false⟩).txAdvance j.line := by
  have hmiss : c.bufRead j.line j.tenant = none := by rw [Chip.bufRead, hbuf]; rfl
  unfold Chip.pgLineRead Chip.pgReadStep
  simp only [hfront, hres, hmiss, hread]
  rfl

/-- A transaction of an uncached read that waits for memory's copy and nothing else. -/
structure Tx.AwaitsLine (x : Tx) : Prop where
  cls : x.req.cls = clsReq
  typ : x.req.typ = tRdNc
  going : x.done = false
  ordinary : x.victim = false
  sound : x.poisoned = false
  answered : x.snoops = []
  unowned : x.own = none
  asked : x.wantMem = true

/-- The transaction with memory's copy. -/
def Tx.withMem (x : Tx) (ld : LD) : Tx := { x with mem := some ld }

theorem Tx.AwaitsLine.withMem {x : Tx} (h : x.AwaitsLine) (ld : LD) : (x.withMem ld).AwaitsLine :=
  ⟨h.cls, h.typ, h.going, h.ordinary, h.sound, h.answered, h.unowned, h.asked⟩

/-- It needs memory's copy of a line that no cache holds, as a fresh transaction of its request does. -/
theorem Tx.AwaitsLine.needsMem {x : Tx} (h : x.AwaitsLine) : x.needsMem (DirEnt.unheld x.req.line) = true := by
  have hnew : x.needsMem (DirEnt.unheld x.req.line) = (Tx.new x.req.line x.req).needsMem (DirEnt.unheld x.req.line) := by
    unfold Tx.needsMem
    rw [h.ordinary, h.sound, h.unowned]
    rfl
  rw [hnew]
  exact Tx.needsMem_of_read h.cls (.inr (.inr (.inr h.typ)))

/-- An uncached read allocates nothing in the hub cache. -/
theorem Chip.memArrive_of_awaits {line : Nat} {x : Tx} (htx : c.txOf line = some x) (hx : x.AwaitsLine) (ld : LD) :
    c.memArrive line ld = c.txMod line (fun t => t.withMem ld) := by
  unfold Chip.memArrive
  simp only [htx]
  exact if_pos (by simp [hx.typ])

/-- With memory's copy in, it is answered. -/
theorem Chip.txAdvance_of_awaited {line : Nat} {x : Tx} {ld : LD} (hx : x.AwaitsLine) (hline : x.req.line = line) (htx : c.txOf line = some (x.withMem ld))
    (hdir : c.dirFind line = none) (hlive : c.fencedDie (agPkg x.req.agent) (agDie x.req.agent) = false) :
    c.txAdvance line = (c.answer x.req (datMsg x.req ld 0 0)).txMod line (fun t => { t with done := true }) := by
  have hfed := hx.withMem ld
  have hreq : ¬ (x.withMem ld).req.cls = clsNone := by
    rw [hfed.cls]
    decide
  have hent : c.dirEnt line = DirEnt.unheld line := Chip.dirEnt_of_none hdir
  have hneeds : (x.withMem ld).needsMem (DirEnt.unheld line) = true := hline ▸ hfed.needsMem
  have hserve : c.finServe (x.withMem ld) (DirEnt.unheld line) = c.answer x.req (datMsg x.req ld 0 0) :=
    Chip.finServe_rdNc (t := x.withMem ld) hlive dI_ne_dP (servedAs_typ hx.typ (by decide)) hfed.unowned
  unfold Chip.txAdvance
  simp only [htx, hfed.going, hfed.answered, hfed.sound, hfed.ordinary, hfed.asked, hreq, hent, hneeds, List.isEmpty_nil, Bool.not_true, Bool.or_false,
    Bool.false_eq_true, if_false, if_true, hserve]
  rfl

/-- Memory's copy answers an uncached read of a die of this package. -/
theorem Chip.answered_of_awaits {line : Nat} {x : Tx} (hx : x.AwaitsLine) (hline : x.req.line = line) (htx : c.txOf line = some x)
    (hdir : c.dirFind line = none) (hpkg : agPkg x.req.agent = c.pkg) (hdie : agDie x.req.agent < 12)
    (hlive : c.fencedDie c.pkg (agDie x.req.agent) = false) (ld : LD) :
    ∃ z, (c.memArrive line ld).txAdvance line = z ∧ (z.spkOf (agDie x.req.agent)).dn = (c.spkOf (agDie x.req.agent)).dn ++ [datMsg x.req ld 0 0]
      ∧ z.pg = c.pg ∧ (∃ y, z.txOf line = some y ∧ y.done = true) ∧ SameMemory c z := by
  have hfed : (c.txMod line (fun t => t.withMem ld)).txOf line = some (x.withMem ld) := Chip.txOf_txMod htx fun _ => rfl
  have hadvance : (c.memArrive line ld).txAdvance line
      = ((c.txMod line (fun t => t.withMem ld)).answer x.req (datMsg x.req ld 0 0)).txMod line (fun t => { t with done := true }) := by
    rw [Chip.memArrive_of_awaits htx hx]
    exact Chip.txAdvance_of_awaited hx hline hfed hdir (by rw [hpkg]; exact hlive)
  obtain ⟨y, hy, hsend⟩ := (Chip.HomeAt.start c (c.txMod line (fun t => t.withMem ld)).coh).answer (r := datMsg x.req ld 0 0) hpkg hdie hlive ⟨rfl, rfl⟩
  have hdone : (c.memArrive line ld).txAdvance line
      = (y.spkMod (agDie x.req.agent) (fun n => { n with dn := n.dn ++ [datMsg x.req ld 0 0] })).txMod line (fun t => { t with done := true }) :=
    hadvance.trans (congrArg (fun z : Chip => z.txMod line (fun t => { t with done := true })) hsend)
  have htxy : (y.spkMod (agDie x.req.agent) (fun n => { n with dn := n.dn ++ [datMsg x.req ld 0 0] })).txOf line = some (x.withMem ld) := by
    rw [← hfed, Chip.txOf, Chip.txOf, Chip.coh_spkMod, hy.coh]
  refine ⟨_, hdone, ?_, ?_, ⟨_, Chip.txOf_txMod htxy fun _ => rfl, rfl⟩, hy.sameMemory.trans ⟨rfl, rfl, rfl, rfl, rfl, rfl, rfl⟩⟩
  · have hlink := Chip.spkOf_spkMod_self y (agDie x.req.agent) (fun n => { n with dn := n.dn ++ [datMsg x.req ld 0 0] })
    rw [hy.spkOf] at hlink
    exact congrArg SpkSt.dn hlink
  · show y.pg = c.pg
    rw [hy.rest]

/-- The job's end fences nobody. -/
theorem Chip.fencedDie_jobEnded (c : Chip) (j : PgJob) {p : Nat} (hp : p < 8) (d : Nat) : (c.jobEnded j).fencedDie p d = c.fencedDie p d := by
  have haddr : (Reg.DIR_FENCE.PKG 0 p).addr ≠ Reg.YRW_CNT2.TAG_BAD.addr ∧ (Reg.DIR_FENCE.DIE 0 p).addr ≠ Reg.YRW_CNT2.TAG_BAD.addr := by
    simp only [Reg.DIR_FENCE.PKG, Reg.DIR_FENCE.DIE, Reg.YRW_CNT2.TAG_BAD, mkFld]
    omega
  rw [Chip.fencedDie, Chip.fencedPkg, Chip.on, Chip.bitOf, c.get_jobEnded j haddr.1, c.get_jobEnded j haddr.2]
  rfl

variable {s : State}

/-- PG_LINE_READ of a line that an RD_NC of a die waits for. -/
theorem State.pgLineRead_next {x : Tx} (hs : s.chip.halted = false) (hfront : s.chip.pgFront .read job = some j) (hres : j.res = none)
    (hbuf : s.chip.pg.buf.find? (fun b => b.1 == j.line / 4) = none)
    (hread : s.chip.pgReadC (s.chip.jobFetch j) (winLine j.line) false = .ok (plainRead r)) (hx : x.AwaitsLine) (hline : x.req.line = j.line)
    (htx : s.chip.txOf j.line = some x) (hdir : s.chip.dirFind j.line = none) (hpkg : agPkg x.req.agent = s.chip.pkg) (hdie : agDie x.req.agent < 12)
    (hlive : s.chip.fencedDie s.chip.pkg (agDie x.req.agent) = false) :
    ∃ t, exec (.pgLineRead job) s = .next t ∧ t.pending = s.pending
      ∧ (t.chip.spkOf (agDie x.req.agent)).dn = (s.chip.spkOf (agDie x.req.agent)).dn ++ [datMsg x.req ⟨r.data, false⟩ 0 0]
      ∧ t.chip.pg.jobs = s.chip.pg.jobs.filter (fun q => q.id != j.id)
      ∧ (∃ y, t.chip.txOf j.line = some y ∧ y.done = true) ∧ SameMemory s.chip t.chip := by
  have hsame : (s.chip.jobEnded j).pkg = s.chip.pkg := s.chip.get_jobEnded j (by decide)
  have hended : SameMemory s.chip (s.chip.jobEnded j) := ⟨rfl, rfl, rfl, rfl, rfl, rfl, rfl⟩
  obtain ⟨z, hz, hsent, hpg, hdone, hmemory⟩ := Chip.answered_of_awaits (c := s.chip.jobEnded j) hx hline htx hdir (hpkg.trans hsame.symm)
    hdie (by rw [hsame, s.chip.fencedDie_jobEnded j s.chip.pkg_lt]; exact hlive) ⟨r.data, false⟩
  have hstep := (Chip.pgLineRead_of_plain hfront hres hbuf hread).trans hz
  exact ⟨_, State.run_of_eq (f := fun c => c.pgLineRead job) hs hstep hmemory.otp, rfl, hsent, congrArg PgSt.jobs hpg, hdone, hended.trans hmemory⟩

end Sys2Proof.Machine

open Sys2Proof Sys2Proof.Machine

/-- Settles O16: over a plain slot a job needs nothing but that slot and the check line, and its end changes what its results say. -/
theorem pageGuardServes : Obligations.PageGuardServes := by
  unfold Obligations.PageGuardServes
  refine ⟨fun s job j r ch ca x hs hfront hres hbuf hchk hch hgot hform hflags htx hcls htyp hline hopen hvictim hsnoops hown hpoison hasked hdir hpkg hdie hlive => ?read,
    fun s job j r ch ca hs hfront hchk hch hgot hform hflags hsound hyrw hnew harm =>
      ⟨fun hrgn => ?outside, fun rg ck k hrgn hlines hck hclean hdata => ?inside⟩⟩
  case read =>
    have hread := s.chip.pgReadC_of_plain ((Chip.jobFetch_of_got hchk hch).trans hgot) hform hflags false
    obtain ⟨t, hrun, hpend, hsent, hjobs, hdone, hmemory⟩ := State.pgLineRead_next hs hfront hres hbuf hread
      ⟨hcls, htyp, hopen, hvictim, hpoison, hsnoops, hown, hasked⟩ hline htx hdir hpkg hdie hlive
    exact ⟨t, _, hrun, hpend, hsent, rfl, hline, rfl, rfl, rfl, hjobs, hdone, hmemory⟩
  case outside =>
    have hall := s.chip.pgWriteAll_of_unprotected ((Chip.jobFetch_of_got hchk hch).trans hgot) hform hflags hsound hnew hrgn
    rw [← hyrw] at hall
    obtain ⟨t, hrun, hpend, hpath, hothers, hjobs, hkept, honly⟩ := State.pgLineWrite_unprotected hs hfront hall harm hch
    exact ⟨t, hrun, hpend, hpath, hothers, hjobs, hkept, honly⟩
  case inside =>
    obtain ⟨add, hadd, hsum⟩ := chkAdd_of_line hlines (Chip.jobFetch_of_cached (j := j) hck) hclean (j.ld.data ^^^ r.data)
    have hall := s.chip.pgWriteAll_of_protected ((Chip.jobFetch_of_got hchk hch).trans hgot) hform hflags hsound hnew hrgn hdata hsum
    rw [← hyrw] at hall
    obtain ⟨t, hrun, hpend, hpath, hline, hjobs, hcounted⟩ := State.pgLineWrite_protected hs hfront hall harm hch hck
    refine ⟨t, hrun, hpend, hpath, fun d hd => ?_, hjobs, hcounted⟩
    have hd' : [add][0]? = some d := hadd ▸ hd
    cases hd'
    exact hline
end
